-- ==== Sys2Proof/Word.lean ====
section
/-!
DEFINITION. The word types of the block: bytes (R6), the 64-bit words of packets and registers
(R7, R27) and the halves of a register (R58). Lines, indices, counts and times are plain `Nat`;
signed positions and offsets are `Int`.
-/
namespace Sys2Proof

/-- One byte of memory, of a packet or of a record (R6). -/
abbrev Byte := BitVec 8

/-- One 64-bit register or packet word (R7, R27). -/
abbrev W64 := BitVec 64

/-- One half of a register, as a 32-bit access moves it (R58), or a ring count (R70). -/
abbrev W32 := BitVec 32

end Sys2Proof
end

