-- ==== Sys2Proof/Syntax.lean ====
section
/-!
DEFINITION. The commands of the block: one constructor of `Instr` for each row of the spec's table of
operations and events. `t` is the moment of the step in nanoseconds of elapsed local time, `cid` the
acceptance number of the command slot a command executes from; the other operands carry what the
medium, the host, a peer or the physics of the part supplies at that step.
-/
namespace Sys2Proof

/-- The five transports a command packet can arrive on, in the order in which intake takes arrivals
of the same moment (R40). -/
inductive Transport where
  | ring0 | ring1 | eth0 | eth1 | urara
  deriving DecidableEq, Repr

/-- What the GCM unit found for one encrypted envelope of a job: its Well address, and the clear
block, or nothing when the tag does not match (R428). -/
structure Decrypted where
  addr  : Nat
  clear : Option (List Byte)
  deriving DecidableEq, Repr

/-- The Krynto core's cryptographic findings on one package (R415, R416): the two signatures, the
unwrapping, and whether the certificates of an ownership transfer parse (R420); `key` is the unwrapped key material. -/
structure PkgVerdict where
  sigOk    : Bool
  unwrapOk : Bool
  certsOk  : Bool
  key      : List Byte
  deriving DecidableEq, Repr

/-- The Krynto core's findings on one firmware image (R411, R412): the bytes as read, and the verdict of
each step of the verification that is not arithmetic on the header. -/
structure ImgVerdict where
  readOk   : Bool
  header   : List Byte
  rootOk   : Bool
  ecdsaOk  : Bool
  mldsaOk  : Bool
  bodyOk   : Bool
  deriving DecidableEq, Repr

/-- The three words of a descriptor that software writes (R66). -/
structure DescWords where
  w0 : W64
  w1 : W64
  w2 : W64
  deriving DecidableEq, Repr

/-- How a descriptor's transfer ended outside the device (R67): in full, by a host-side error, or by
an uncorrectable read of device memory; `data` is what the host-side moved. -/
inductive XferEnd where
  | full | hostAbort | devEcc
  deriving DecidableEq, Repr

/-- The end of one descriptor's transfer with the bytes read from the host. -/
structure Xfer where
  how  : XferEnd
  data : List Byte
  deriving DecidableEq, Repr

/-- One tile segment on its way into a Mill domain's band store (R135, R148): plane, the input
(old or new placement of the job's tile map), tile column, tile row band and segment number. -/
structure SegItem where
  plane : Nat
  col   : Nat
  row   : Nat
  seg   : Nat
  input : Nat
  deriving DecidableEq, Repr

/-- What the Weighbridge received from one slice for one line (R201, R202): the result the Mill's rules compute; other words with
the XOR of the digests the slice sent, as each of the two comparators took it (R205), and the outcome of the parity check; or nothing,
with the cause of R209. -/
inductive SliceRecv where
  | clean
  | raw (words : List (BitVec 72)) (digestA digestB : W64) (parityOk : Bool)
  | absent (cause : Nat)
  deriving DecidableEq, Repr

/-- One trial of an equalizer setting during a sweep (R280). -/
structure EqTrial where
  ctle : Nat
  gain : Nat
  dfe  : List Int
  fom  : Nat
  deriving DecidableEq, Repr

/-- One changed route of a ROUTE packet (R378). -/
structure RouteChange where
  node : Nat
  hops : Nat
  deriving DecidableEq, Repr

/-- The payload of a TRIGGER event packet (R381): the input, its `lead` and `forced` bits, the detect line, the detect stamp in 2⁻¹⁶ ns and
the product number where a product was created. -/
structure TriggerWords where
  input   : Fin 8
  lead    : Bool
  forced  : Bool
  line    : Nat
  stamp   : Nat
  product : Option Nat
  deriving DecidableEq, Repr

/-- One item of journal replication between the units of a pair (R400). -/
inductive JreplItem where
  | part (record kind : Nat) (body : List Byte)
  | claim (pool grant subBlock : Nat)
  | grant (pool : Nat) (body : List Byte)
  | plan (body : List Byte)
  | ack (n : Nat)
  deriving DecidableEq, Repr

/-- One calibration record as an epoch proposal carries it (R391, R488). -/
structure CalRec where
  item : Nat
  quality : Nat
  body : List Byte
  deriving DecidableEq, Repr

/-- One product of the queue in a state copy (R401). -/
structure SnapProduct where
  num     : Nat
  detect  : Nat
  detLine : Nat
  first   : Nat
  stop    : Nat
  job     : Nat
  track   : Nat
  input   : Nat
  flags   : Nat
  issued  : Bool
  deriving DecidableEq, Repr

/-- One epoch table in a state copy (R401): its number, first line, kind and items. -/
structure SnapEpoch where
  num       : Nat
  first     : Nat
  placement : Bool
  items     : List CalRec
  deriving DecidableEq, Repr

/-- What a state copy carries (R401): the density tables, placement maps, plane items and head items; the journal records not both final and exported with the grants, claims and
plans that the configuration region holds; the product queue; the epochs that kept recipes name; the retirements as Stall, channel, reason. -/
structure Snapshot where
  items    : List CalRec
  journal  : List JreplItem
  products : List SnapProduct
  epochs   : List SnapEpoch
  retired  : List (Nat × Nat × Nat)
  deriving DecidableEq, Repr

/-- What a unit of a pair says in VERDICT: the flags of a line fired from its copy by product (R390), or a vision result unit (R343, R394). -/
inductive Verdict where
  | flags (items : List (Nat × Nat))
  | result (words : List W64)
  deriving DecidableEq, Repr

/-- What a PTP Announce message says (R351, R352). -/
structure Announce where
  seq       : Nat
  better    : Bool
  utcOffset : Int
  utcValid  : Bool
  leap61    : Bool
  leap59    : Bool
  deriving DecidableEq, Repr

/-- The counted fires of one element on one frame (R341): for each, whether its column is weak. -/
structure StreakObs where
  stall   : Nat
  chan    : Nat
  product : Nat
  weak    : List Bool
  deriving DecidableEq, Repr

/-- The registration offset of a row of a code (R343): across and along in 1/64, and the modules fitted. -/
structure RowFit where
  stall : Nat
  row   : Nat
  dx    : Int
  dy    : Int
  fit   : Nat
  deriving DecidableEq, Repr

/-- One dot of a learning target that vision found (R190): its element, its measured across position and its along residual, in 1/64. -/
structure Dot64 where
  stall : Nat
  chan  : Nat
  u     : Int
  res   : Int
  deriving DecidableEq, Repr

/-- What vision measured in one image of a code (R337): it did not reach step 2; or the result (0 decoded or text, 1 NOT_FOUND, 2 NO_DECODE), the grades of its
parameters times 10 (one for a linear symbol, none for text), whether every glyph of a text passed, the decoded string, the figures of R343; or the dots of a
learning target (R190); or the 17 patch means of a density target (R495). -/
inductive ImageResult where
  | notReached
  | graded (verdict : Nat) (params : List Nat) (textOk : Bool) (decoded : Option (List Byte)) (errors modules corr : Nat) (rows : List RowFit)
  | target (product : Nat) (dots : List Dot64)
  | patches (product : Nat) (means : List Nat)
  deriving DecidableEq, Repr

/-- One 64-byte burst that a scrub read with an error (R456, R457, R471). -/
structure BurstFault where
  addr        : Nat
  correctable : Bool
  lane        : Nat
  deriving DecidableEq, Repr

/-- One row of the fitted DRAM (R458, R472). -/
structure DramRow where
  ch   : Fin 2
  rank : Nat
  bg   : Nat
  bank : Nat
  row  : Nat
  dev  : Nat
  deriving DecidableEq, Repr

/-- What the measurements of a calibration run gave (R494). -/
structure CalMeasure where
  agree   : Bool
  inRange : Bool
  quality : Nat
  body    : List Byte
  deriving DecidableEq, Repr

/-- What tripped the tamper logic (R430). -/
inductive TamperCause where
  | mesh | loop0 | loop1 | light | tempHigh | tempLow
  deriving DecidableEq, Repr

/-- What boot found fitted (R454, R455): the organisation that each module's SPD gives (device width x4, density in Gb, ranks), whether the two channels
are alike, whether the organisation is of a form that R454 supports, and the code of the highest rate the modules allow. -/
structure SpdRead where
  x4       : Bool
  density  : Nat
  ranks    : Nat
  alike    : Bool
  formOk   : Bool
  maxRate  : Nat
  deriving DecidableEq, Repr

/-- What an uncorrectable word of the Ledger damaged (R479, R482): a slot of the journal, a calibration item, a key record (0 an identity key) or a configuration
record, the latter two with whether the other copy fails too. -/
inductive LedgerHit where
  | journal (slot : Nat)
  | cal (item : Nat)
  | key (id : Nat) (both : Bool)
  | net (p : Fin 2) (both : Bool)
  | motion (both : Bool)
  | stall (k : Fin 24) (both : Bool)
  | check (u : Fin 5) (both : Bool)
  | numbers (both : Bool)
  | other (both : Bool)
  deriving DecidableEq, Repr

/-- The TAP instructions (R564). -/
inductive TapInstr where
  | bypass | idcode | samplePreload | extest | clamp | highz | extestPulse | extestTrain
  deriving DecidableEq, Repr

/-- The commands: one constructor per row of the table of operations and events. -/
inductive Instr where
  /-- COMMAND_INTAKE (R40): A command packet from a ring, a UDP datagram or the Urara link is taken whole and checked in order; it is refused, forwarded or accepted into a slot. -/
  | commandIntake (t : Nat) (tr : Transport) (src : Nat) (avail : List W64)
  /-- INTERIM_REPLY (R33): When 2 ms pass after acceptance with execution not ended, the first reply with status 0x0001 and final 0 is sent. -/
  | interimReply (t cid : Nat)
  /-- REPLY_RING_WRITE (R47): A ready reply is written into the next free ring 2 descriptor, or waits until software hands one over. -/
  | replyRingWrite (t cid : Nat)
  /-- UDP_REPLY_SEND (R48): A ready reply is sent in its own datagram to the source address and port of the command's datagram. -/
  | udpReplySend (t cid : Nat)
  /-- URARA_REPLY_RECEIVE (R49): A REPLY packet for a forwarded command reaches the forwarding device and is sent on through the command's original transport. -/
  | uraraReplyReceive (t : Nat) (reply : List W64)
  /-- IDENTIFY (R53): Returns part number, revision, node ID, device serial, firmware versions and the end of the Well's host range. -/
  | identify (t cid : Nat)
  /-- STATUS (R54): Returns eight words of device state taken at one moment. -/
  | status (t cid : Nat)
  /-- ABORT_TAG (R45): Cancels a not-yet-started command of the session or stops a started one at its next safe point. -/
  | abortTag (t cid : Nat)
  /-- NET_CONFIG (R55): Sets one Ethernet port's link, VLAN, addresses, command port and record destination; effective after the final reply. -/
  | netConfig (t cid : Nat)
  /-- POWER_DOMAIN (R523): Requests a switchable power domain on or off, subject to R22. -/
  | powerDomain (t cid : Nat)
  /-- DOMAIN_POWER_DOWN_PROCEED (R523): Once every affected ring has paused, the domain's clocks stop, crossings are isolated and its switches open. -/
  | domainPowerDownProceed (t : Nat)
  /-- DOMAIN_POWER_UP_DONE (R523): A powering-up domain has closed its switches, reset its logic and released its crossings; its blocks start and the final reply is sent. -/
  | domainPowerUpDone (t : Nat)
  /-- GRANARY_REPORT (R510): Writes the inventory of every kind of spare to a ring or Well address. -/
  | granaryReport (t cid : Nat)
  /-- CRIER_CONFIG (R514): Sets the Crier class mask, ring, rate limit and collecting node. -/
  | crierConfig (t cid : Nat)
  /-- RESET (R527): Performs the power-down saves and then a warm or cold reset within 5 ms. -/
  | reset (t cid : Nat)
  /-- JOB_LOAD (R88): Checks a job description in the Well and loads it, or loads it as a replacement, pending the full check of R13. -/
  | jobLoad (t cid : Nat)
  /-- JOB_CHECK_COMPLETE (R13): The full decode and check of a loaded job's artwork, arrays and envelopes ends; the job becomes ready or fails. -/
  | jobCheckComplete (t job : Nat) (clear : List Decrypted)
  /-- JOB_ACTIVATE (R574): Runs the activation checks and starts loading the job's screen arrays; the job becomes active when both stores hold good copies. -/
  | jobActivate (t cid : Nat)
  /-- SCREEN_STORE_LOADED (R164): The arrays of a job have loaded into both screen stores and passed their CRC; the job becomes active and the final reply is sent. -/
  | screenStoreLoaded (t : Nat)
  /-- JOB_SWITCH (R120): Checks and arms a switch to a new job at an explicit line or at the next product's first line. -/
  | jobSwitch (t cid : Nat)
  /-- JOB_UNLOAD (R574): Unloads an inactive job, zeroing its clear blocks and destroying its job key. -/
  | jobUnload (t cid : Nat)
  /-- MOTION_CONFIG (R96): Sets encoders, line source, detect inputs, debounce, trigger lead and blanking. -/
  | motionConfig (t cid : Nat)
  /-- REJECT_POLICY (R119): Sets the words of the four reject gates, applied by detect stamp. -/
  | rejectPolicy (t cid : Nat)
  /-- QUEUE_READ (R109): Writes one record per product queue entry to a ring or Well address. -/
  | queueRead (t cid : Nat)
  /-- PRODUCT_FORCE (R109): Creates a product on an input as if it had been detected, with a given first line. -/
  | productForce (t cid : Nat)
  /-- POOL_GRANT (R299): Verifies and stores a signed serial grant for a pool. -/
  | poolGrant (t cid : Nat) (ecdsaOk mldsaOk : Bool)
  /-- PERMUTATION_TABLE_DONE (R300): The FF1 permutation table of a small grant is complete and the grant may serve issue. -/
  | permutationTableDone (t pool grant : Nat)
  /-- STREAM_BIND (R292): Binds a code stream to a template and a pool after decoding and checking the template and fonts. -/
  | streamBind (t cid : Nat)
  /-- CALENDAR_LOAD (R304): Checks and installs a new calendar plan. -/
  | calendarLoad (t cid : Nat)
  /-- POOL_STATUS (R303): Returns the remaining indices, grant in use and claim state of a pool. -/
  | poolStatus (t cid : Nat)
  /-- CODE_VOID (R310): Voids the journal record with the named stream, pool and serial, or record number. -/
  | codeVoid (t cid : Nat)
  /-- JOURNAL_READ (R316): Writes issue, fired and final entries of a record range in signed blocks to a ring. -/
  | journalRead (t cid : Nat)
  /-- MANIFEST_CLOSE (R318): Closes the open manifest of one or all streams; final reply when every record is final. -/
  | manifestClose (t cid : Nat)
  /-- STALL_CONFIG (R223): Configures or disables a Stall with its geometry, lane rate and limits; final reply at lane lock and IDENT or after 200 ms. -/
  | stallConfig (t cid : Nat)
  /-- PULSE_TABLE_LOAD (R243): Writes a Stall's head item as a permanent calibration replacement, effective at a line boundary. -/
  | pulseTableLoad (t cid : Nat)
  /-- DUTY_LIMITS (R247): Sets a Stall's element and head duty windows and fractions. -/
  | dutyLimits (t cid : Nat)
  /-- FIRE_PERMIT (R263): Grants or withdraws the fire permits of a Stall mask. -/
  | firePermit (t cid : Nat)
  /-- ELEMENT_RETIRE (R181): Retires an element channel on command. -/
  | elementRetire (t cid : Nat)
  /-- SPIT_CYCLE (R257): Starts a spit cycle on the named Stalls, optionally checking drops on the optical gates. -/
  | spitCycle (t cid : Nat)
  /-- HEAD_STATUS (R264): Returns a Stall's zone temperatures, supply, retirement counts, λ and frame counts. -/
  | headStatus (t cid : Nat)
  /-- CAL_RUN (R493): Runs a calibration of an item inst twice and writes the mean if the runs agree. -/
  | calRun (t cid : Nat)
  /-- CAL_READ (R489): Writes stored calibration records to an output ring. -/
  | calRead (t cid : Nat)
  /-- CAL_WRITE (R489): Writes a calibration record as a permanent replacement through the staging area. -/
  | calWrite (t cid : Nat)
  /-- PLACEMENT_LEARN (R188): Starts a target run and/or switches live placement tracking for a plane mask. -/
  | placementLearn (t cid : Nat)
  /-- TIME_READ (R366): Returns device time and the clock and domain states. -/
  | timeRead (t cid : Nat)
  /-- PTP_CONFIG (R354): Sets the two tracked PTP domains, thresholds and constants. -/
  | ptpConfig (t cid : Nat)
  /-- TIME_SELECT (R368): Makes a tracked domain preferred, optionally forcing the clock to follow it. -/
  | timeSelect (t cid : Nat)
  /-- TIME_SET (R367): Steps the clock forward once, at once or at the next PPS edge. -/
  | timeSet (t cid : Nat)
  /-- PPS_CONFIG (R362): Sets the PPS inputs and outputs. -/
  | ppsConfig (t cid : Nat)
  /-- SENSOR_CONFIG (R323): Configures one camera sensor on a receiver and virtual channel. -/
  | sensorConfig (t cid : Nat)
  /-- SETTING_SET (R325): Writes an exposure and gain set to a sensor over I3C. -/
  | settingSet (t cid : Nat)
  /-- SETTING_WRITE_ACK (R325): The sensor acknowledges the final I3C byte of a set; the application frame N + k is fixed and replied. -/
  | settingWriteAck (t : Nat) (sensor : Fin 8) (acked : Bool)
  /-- VERIFY_CONFIG (R336): Sets grade thresholds, registration search, streak rules and unit kinds. -/
  | verifyConfig (t cid : Nat)
  /-- IMAGE_CAPTURE (R342): Writes full frames of a sensor as image units to a role 6 ring. -/
  | imageCapture (t cid : Nat)
  /-- CERT_READ (R409): Writes a certificate or the key statement to a ring. -/
  | certRead (t cid : Nat)
  /-- SESSION_OPEN (R424): Performs hybrid key agreement and opens an unproven session. -/
  | sessionOpen (t cid : Nat) (pointOk ekOk : Bool)
  /-- SESSION_PROVE (R426): Checks the role-key proof and makes the session usable. -/
  | sessionProve (t cid : Nat)
  /-- SESSION_PROVE_TIMEOUT (R426): A session not proven within 10 s of opening is discarded. -/
  | sessionProveTimeout (t sid : Nat)
  /-- CREDENTIAL_UNLOCK (R426): A credential's lock time after repeated failed proofs expires. -/
  | credentialUnlock (t role slot : Nat)
  /-- SESSION_CLOSE (R39): Ends a session as if fenced, destroying its keys after its last reply. -/
  | sessionClose (t cid : Nat)
  /-- GROUP_SESSION_EXPIRE (R427): A group session reaches its not_after and ends. -/
  | groupSessionExpire (t sid : Nat)
  /-- OWNER_TRANSFER (R421): Commits a new ownership record and erases the previous owner's credentials, keys, pools and journal. -/
  | ownerTransfer (t cid : Nat) (v : PkgVerdict)
  /-- ROLE_CREDENTIAL (R418): Installs or removes a role credential. -/
  | roleCredential (t cid : Nat) (v : PkgVerdict)
  /-- JOB_KEY_LOAD (R417): Checks and installs a wrapped key package: job key, FF1 key, line key or group session. -/
  | jobKeyLoad (t cid : Nat) (v : PkgVerdict)
  /-- IMAGE_STAGE (R413): Verifies an image arriving on a ring and writes it to the inactive flash slot. -/
  | imageStage (t cid : Nat) (v : ImgVerdict)
  /-- IMAGE_ACTIVATE (R414): Starts activation of a staged firmware slot. -/
  | imageActivate (t cid : Nat) (v : ImgVerdict)
  /-- FW_HANDOFF (R508): At the first line boundary after the hand-off block is written, the cores run the new image and it sends the final reply. -/
  | fwHandoff (t : Nat) (readable replies : Bool)
  /-- FW_ACTIVATE_BUSY_TIMEOUT (R509): Started commands not completed by t1 + 2 s end the activation with IMAGE_BUSY under the old firmware. -/
  | fwActivateBusyTimeout (t : Nat)
  /-- FW_REPLY_TIMEOUT (R509): The new firmware sends no final reply within 5 s; the cluster reverts to the old image and reports FW_REVERT. -/
  | fwReplyTimeout (t : Nat)
  /-- ZEROISE (R433): Starts zeroisation on command with no reply. -/
  | zeroise (t cid : Nat)
  /-- ATTEST (R434): Writes a signed attestation report to a ring. -/
  | attest (t cid : Nat)
  /-- NODE_ID (R373): Sets and saves the device's Urara node ID. -/
  | nodeId (t cid : Nat)
  /-- TOPOLOGY (R371): Sets port use, topology, trigger allowance, time source and remote trigger entries. -/
  | topology (t cid : Nat)
  /-- TWIN_BIND (R384): Binds this device to a peer as a twin pair and starts the state copy. -/
  | twinBind (t cid peerSerial : Nat) (peerJob : Bool)
  /-- TWIN_YIELD (R395): Yields the unit on command to a SYNCED peer. -/
  | twinYield (t cid : Nat)
  /-- TWIN_STATUS (R404): Returns the unit's role, lease, copy and comparison figures. -/
  | twinStatus (t cid : Nat)
  /-- LINK_STATUS (R288): Returns one lane's state, figure of merit, equaliser settings and counts. -/
  | linkStatus (t cid : Nat)
  /-- RING_ROLE (R64): Sets the role of a disabled ring. -/
  | ringRole (t cid : Nat)
  /-- WELL_READ (R573): Copies a host range of the Well to an output ring. -/
  | wellRead (t cid : Nat)
  /-- WELL_WRITE (R573): Copies data from an input ring into a host range of the Well. -/
  | wellWrite (t cid : Nat)
  /-- CHECK_RUN (R446): Scans a Well range, loads a check unit's settings or stores its record and counters. -/
  | checkRun (t cid : Nat) (agree : Bool)
  /-- CHECK_SCAN_COMPLETE (R449): A scan of a Well range ends and its check value is returned. -/
  | checkScanComplete (t cid : Nat)
  /-- SCRUB_CONFIG (R498): Sets the background periods, bandwidth share and self-refresh idle time. -/
  | scrubConfig (t cid : Nat)
  /-- LOOPBACK (R289): Runs a loopback or PRBS test on an idle lane for a given duration. -/
  | loopback (t cid : Nat)
  /-- LOOPBACK_END (R289): A loopback test's duration expires; counts are returned and the lane returns to HUNT. -/
  | loopbackEnd (t : Nat) (lane : Fin 36) (bits errs hdrs fom : Nat)
  /-- TELEMETRY_READ (R517): Writes a telemetry block to a ring. -/
  | telemetryRead (t cid : Nat)
  /-- RING_TAIL_WRITE (R70): A write to RING_TAIL hands descriptors to the device, or is ignored with BAD_DESC if out of range. -/
  | ringTailWrite (t : Nat) (r : Fin 16) (v : BitVec 32)
  /-- RING_HEAD_WRITE (R73): A write to RING_HEAD takes effect only while the ring is disabled. -/
  | ringHeadWrite (r : Fin 16) (v : BitVec 32)
  /-- RING_ENABLE (R76): Setting enable starts the ring at its current head. -/
  | ringEnable (t : Nat) (r : Fin 16)
  /-- RING_DISABLE (R76): Clearing enable pauses the ring and completes the head descriptor with FLUSHED if partly done. -/
  | ringDisable (t : Nat) (r : Fin 16)
  /-- RING_PAUSE (R74): Setting pause stops new reads and fetches while outstanding reads complete. -/
  | ringPause (t : Nat) (r : Fin 16)
  /-- RING_PAUSE_COMPLETE (R74): Outstanding reads of a pausing ring have completed; paused becomes 1. -/
  | ringPauseComplete (t : Nat) (r : Fin 16) (placed : List Byte)
  /-- RING_RESUME (R75): Clearing pause resumes the ring at descriptor head and byte done_bytes. -/
  | ringResume (t : Nat) (r : Fin 16)
  /-- SHADOW_ARM_WRITE (R77): A write setting shadow arm; if the active ring is idle it triggers a switch at once. -/
  | shadowArmWrite (t : Nat) (r : Fin 16) (v : W64)
  /-- RING_STATUS_CLEAR (R73): A W1C write to RING_STATUS clears error, domain_off, switched or late_write. -/
  | ringStatusClear (t : Nat) (r : Fin 16) (v : W64)
  /-- INT_STATUS_CLEAR (R82): A W1C write to INT_STATUS clears interrupt causes so a new cause sends a new message. -/
  | intStatusClear (t : Nat) (v : W64)
  /-- BAR0_REGISTER_WRITE (R58): A write to a BAR0 register with no behaviour of its own stores the value or is ignored. -/
  | bar0RegisterWrite (t off size : Nat) (v : W64)
  /-- DESCRIPTOR_FETCH (R71): The ring fetches or prefetches a handed-over descriptor and starts its transfer. -/
  | descriptorFetch (t : Nat) (r : Fin 16) (d : DescWords)
  /-- DESCRIPTOR_COMPLETE (R70): A descriptor's transfer ends; word 3 and word 2 are written back and head advances. -/
  | descriptorComplete (t : Nat) (r : Fin 16) (x : Xfer)
  /-- RING_HOLDOFF_EXPIRY (R82): Holdoff µs pass since the first counted completion and ring_done is set. -/
  | ringHoldoffExpiry (t : Nat) (r : Fin 16)
  /-- RING_DOMAIN_DEADLINE (R79): 1 ms after a domain power-down request, an unfinished descriptor pauses and completes with DOMAIN_OFF. -/
  | ringDomainDeadline (t : Nat) (r : Fin 16)
  /-- FUNCTION_LEVEL_RESET (R83): A PCIe FLR ends every ring transfer and resets BAR0 except the mailbox. -/
  | functionLevelReset (t : Nat)
  /-- MBX_BOOT_LOG (R86): Mailbox operation writing the boot log to host memory. -/
  | mbxBootLog (t : Nat)
  /-- MBX_DEVICE_CERT (R86): Mailbox operation writing the device certificate to host memory. -/
  | mbxDeviceCert (t : Nat)
  /-- MBX_RECOVERY_LOAD (R86): Mailbox operation reading, verifying and writing an image to a slot, then restarting boot. -/
  | mbxRecoveryLoad (t : Nat)
  /-- MBX_RETRY_BOOT (R86): Mailbox operation restarting boot from stage 0x01. -/
  | mbxRetryBoot (t : Nat)
  /-- ARP_REQUEST_RECEIVE (R55): An ARP request for the port's address is answered. -/
  | arpRequestReceive (t : Nat) (p : Fin 2) (target sender : Nat)
  /-- NEIGHBOR_SOLICIT_RECEIVE (R55): An IPv6 Neighbor Solicitation for the port's address is answered. -/
  | neighborSolicitReceive (t : Nat) (p : Fin 2) (target sender : Nat)
  /-- ICMP_ECHO_RECEIVE (R55): An ICMP or ICMPv6 echo request is answered. -/
  | icmpEchoReceive (t : Nat) (p : Fin 2) (target sender : Nat) (payload : List Byte)
  /-- ROUTER_ADVERT_RECEIVE (R55): An IPv6 Router Advertisement sets the default router. -/
  | routerAdvertReceive (t : Nat) (p : Fin 2) (router : Nat)
  /-- NET_RATE_HUNT_SWITCH (R55): A hunting Ethernet port without block lock changes rate after 2 ms. -/
  | netRateHuntSwitch (t : Nat) (p : Fin 2)
  /-- ENCODER_EDGE (R95): An A or B edge counts ±1 into the encoder position and updates H. -/
  | encoderEdge (t : Nat) (e : Fin 4) (isA up : Bool)
  /-- ENCODER_SIGNAL_LOSS (R95): A differential encoder input has no valid level for 100 ns; ENCODER_ERROR is counted. -/
  | encoderSignalLoss (t : Nat) (e : Fin 4)
  /-- ENCODER_Z_PULSE (R100): A Z pulse closes a revolution count that is checked against counts_per_rev. -/
  | encoderZPulse (t : Nat) (e : Fin 4)
  /-- LINE_BOUNDARY (R97): The line index L increments; the boundary is stamped and passed to the Stalls. -/
  | lineBoundary (t : Nat)
  /-- PACER_TICK (R101): The internal pacer produces a line boundary at pacer_rate when it is the line source. -/
  | pacerTick (t : Nat)
  /-- LINE_INDEX_SAVE (R98): Every 1,048,576 lines the line index is saved in the configuration region. -/
  | lineIndexSave (t : Nat)
  /-- PRODUCT_NUMBER_SAVE (R98): Each advance of the product number by 524,288 saves it in the configuration region. -/
  | productNumberSave (t : Nat)
  /-- PD_EDGE (R102): A transition on a PD input is stamped and starts debounce. -/
  | pdEdge (t : Nat) (n : Fin 8) (level : Bool)
  /-- DETECT_ACCEPT (R105): A PD edge has held its level for debounce; its detect line is computed and a product may be created. -/
  | detectAccept (t : Nat) (n : Fin 8)
  /-- OG_EDGE (R257): An optical gate edge is stamped and judged against open drop windows. -/
  | ogEdge (t : Nat) (g : Fin 4) (rising : Bool)
  /-- SPIT_DROP_WINDOW_END (R257): A spit drop window closes; a channel without a drop counts a failed check. -/
  | spitDropWindowEnd (t : Nat) (st : Fin 24)
  /-- GATE_DECISION_PLACE (R117): A product's reject decision is placed on a gate's list, waiting for room if full. -/
  | gateDecisionPlace (t product : Nat) (g : Fin 4)
  /-- TALLY_ISSUE_GROUP (R306): The lead issues the codes of a queued product's streams as one group and writes the issue records. -/
  | tallyIssueGroup (t product : Nat)
  /-- SERIAL_LOOKAHEAD (R300): The Tally computes the next serials of each stream ahead of need. -/
  | serialLookahead (t : Nat) (stream : Fin 16)
  /-- ISSUE_DURABLE (R14): A group's issue records are durable locally and at the peer; its element-events may be computed. -/
  | issueDurable (t product : Nat)
  /-- OVERLAY_RENDER (R311): The Tally renders a code's overlay record into a free overlay slot. -/
  | overlayRender (t record : Nat)
  /-- RECORD_BLOCK_CLOSE (R314): A record block closes when full or 100 ms after its first entry, is signed and compressed. -/
  | recordBlockClose (t : Nat) (selfcheckOk : Bool)
  /-- RECORD_STREAM_ACK (R315): A 16-byte acknowledgement datagram marks record blocks as exported. -/
  | recordStreamAck (t : Nat) (p : Fin 2) (upto : Nat)
  /-- RECORD_BLOCK_RESEND (R315): An unacknowledged record block is sent again every 100 ms. -/
  | recordBlockResend (t seq : Nat)
  /-- LINE_DISPATCH (R146): The dispatcher writes a recipe and gives the next ready line to the lowest free pair. -/
  | lineDispatch (t line : Nat)
  /-- SEGMENT_DECODE (R149): A band manager gives a tile segment to a decoder once a slot is free. -/
  | segmentDecode (t : Nat) (dom : Fin 2) (item : SegItem)
  /-- SEGMENT_DECODE_COMPLETE (R149): A segment decode ends; the slot becomes complete or the decode error is handled. -/
  | segmentDecodeComplete (t : Nat) (dom : Fin 2) (item : SegItem) (fault : Option Nat)
  /-- INTAKE_SEGMENT_REDECODE (R141): The intake decompressor finishes decoding a segment that failed in a slice. -/
  | intakeSegmentRedecode (t : Nat) (item : SegItem)
  /-- SLICE_RESULT_COMPLETE (R202): A slice's dose words and digests for a line have reached the Weighbridge and are checked. -/
  | sliceResultComplete (t line : Nat) (slice : Fin 32) (r : SliceRecv)
  /-- VOTE_RECOMPUTE_START (R207): A recompute of a mismatched line starts on a vote slice when a slice and vote lane are free. -/
  | voteRecomputeStart (t line : Nat) (recipeReadable : Bool)
  /-- VOTE_RECOMPUTE_DONE (R206): A vote recompute ends and the line is released or goes on to another recompute. -/
  | voteRecomputeDone (t line : Nat) (r : SliceRecv)
  /-- SLICE_TIMEOUT (R208): A slice's result has not arrived within C_line + 10 µs of dispatch. -/
  | sliceTimeout (t line : Nat) (slice : Fin 32)
  /-- MILL_DOMAIN_LOST (R212): A Mill domain is lost as a whole and no further line is sealed. -/
  | millDomainLost (t : Nat) (dom : Fin 2)
  /-- CAL_EPOCH_COMMIT (R159): A density table write commits a new calibration epoch at the lowest undispatched line. -/
  | calEpochCommit (t : Nat)
  /-- PLACEMENT_EPOCH_COMMIT (R186): Pending placement changes commit as one epoch once an epoch slot is free and delay banks are loaded. -/
  | placementEpochCommit (t : Nat)
  /-- STALL_READOUT (R235): 40 µs before a line's boundary, the Stall reads its share and digest from the line store. -/
  | stallReadout (t : Nat) (st : Fin 24) (line : Nat) (read1 read2 : Bool)
  /-- LINE_FRAME_SEND (R237): After the previous fire block, the line frame is sent to the head station. -/
  | lineFrameSend (t : Nat) (st : Fin 24)
  /-- FIRE_BLOCK_SEND (R239): The fire block is sent so that it reaches the head station 2,000 ns after the fire time. -/
  | fireBlockSend (t : Nat) (st : Fin 24)
  /-- SPIT_FIRE (R257): A paced spit frame fires one channel of a spit cycle while no product window is open. -/
  | spitFire (t : Nat) (st : Fin 24)
  /-- HEAD_ACK_RECEIVE (R230): An ACK from the head station confirms a frame or config message. -/
  | headAckReceive (t : Nat) (st : Fin 24) (seq : Nat)
  /-- HEAD_NAK_RECEIVE (R230): A NAK makes the Stall resend the frame if it can still arrive in time. -/
  | headNakReceive (t : Nat) (st : Fin 24) (seq reason : Nat)
  /-- HEAD_FIRED_RECEIVE (R232): A FIRED report records a line as fired or missed. -/
  | headFiredReceive (t : Nat) (st : Fin 24) (line16 : Nat) (sender missed : Bool)
  /-- FIRED_TIMEOUT (R232): No FIRED report within 10 µs of a fire block counts as missed. -/
  | firedTimeout (t : Nat) (st : Fin 24)
  /-- HEAD_STATUS_RECEIVE (R245): A STATUS message updates zone temperatures and Vpp and the pulse-table grid indices. -/
  | headStatusReceive (t : Nat) (st : Fin 24) (temps : List W64) (vpp : Nat)
  /-- VPP_RECOVER (R256): Vpp has stayed in range for 1 ms and the permit is granted again. -/
  | vppRecover (t : Nat) (st : Fin 24)
  /-- HEAD_ALARM_RECEIVE (R254): An ALARM starts or ends thermal reduction, or at t_abs withdraws the permit. -/
  | headAlarmReceive (t : Nat) (st : Fin 24) (zone : Fin 17) (abs rising : Bool)
  /-- HEAD_RESIST_RECEIVE (R258): A resistance report is judged against tolerance. -/
  | headResistReceive (t : Nat) (st : Fin 24) (ch rMeas rRef : Nat)
  /-- HEAD_IDENT_RECEIVE (R173): An IDENT message reports the head identity; a change makes the map stale. -/
  | headIdentReceive (t : Nat) (lane : Fin 36) (headId : W64)
  /-- HEAD_DRIVE_RECEIVE (R259): A DRIVE report is added to the channel's duty record. -/
  | headDriveReceive (t : Nat) (st : Fin 24) (ch line16 : Nat)
  /-- PERMIT_WITHDRAW_EFFECT (R262): A withdrawal takes effect at the end of the line in progress. -/
  | permitWithdrawEffect (t : Nat) (st : Fin 24)
  /-- LANE_SIGNAL_DETECT (R273): A signal appears at an idle or hunting lane's receiver. -/
  | laneSignalDetect (t : Nat) (lane : Fin 36)
  /-- BLOCK_LOCK (R274): 64 valid headers in a row give block lock. -/
  | blockLock (t : Nat) (lane : Fin 36)
  /-- LOSS_OF_LOCK (R274): 16 invalid headers in a window of 64 lose lock and return the lane to HUNT. -/
  | lossOfLock (t : Nat) (lane : Fin 36) (hdrs : Nat)
  /-- RELOCK_TIMEOUT (R276): Block lock does not return within 100 µs after loss of lock. -/
  | relockTimeout (t : Nat) (lane : Fin 36)
  /-- ADAPT_DONE (R281): ADAPT ends at fom 40 mV or after 1 ms and the lane enters PROBE. -/
  | adaptDone (t : Nat) (lane : Fin 36) (fom ctle gain : Nat) (dfe : List Int)
  /-- PROBE_RECEIVE (R278): A received Probe is answered with an Echo carrying its turnaround. -/
  | probeReceive (t : Nat) (lane : Fin 36) (num turn : Nat)
  /-- PROBE_ECHO_RECEIVE (R277): An Echo yields a round trip; 16 answers set λ. -/
  | probeEchoReceive (t : Nat) (lane : Fin 36) (num roundTrip turn : Nat)
  /-- PROBE_SEND (R277): A Probe is sent, 16 times in PROBE and once per second in UP. -/
  | probeSend (t : Nat) (lane : Fin 36)
  /-- FOM_SWEEP (R280): Every 50 µs the monitor slicer measures fom and a one-step adaptation may follow. -/
  | fomSweep (t : Nat) (lane : Fin 36) (fom hdrs : Nat) (trial : Option EqTrial)
  /-- LANE_FAST_EXIT (R283): 32 valid headers after Wake blocks bring an idle lane to UP. -/
  | laneFastExit (t : Nat) (lane : Fin 36) (ok : Bool)
  /-- SPARE_RATE_HUNT_SWITCH (R285): A spare lane not UP changes hunt rate every 2 ms. -/
  | spareRateHuntSwitch (t : Nat) (lane : Fin 36)
  /-- MOVE_BLOCK_RECEIVE (R287): A Move block moves a Urara lane's traffic to its spare at the next Terminate. -/
  | moveBlockReceive (t : Nat) (lane : Fin 36) (failing : Fin 36) (spare : Fin 2) (spareBit : Bool) (num : Nat)
  /-- REFCLK_SER_FAIL (R268): A serial reference fails and its quads move to the other reference. -/
  | refclkSerFail (t : Nat) (ref : Fin 2)
  /-- REFCLK_SER_RECOVER (R268): A failed serial reference counts as good after 10 ms without failure. -/
  | refclkSerRecover (t : Nat) (ref : Fin 2)
  /-- ANNOUNCE_SEND (R378): Each UP Urara lane sends ANNOUNCE every 100 µs. -/
  | announceSend (t : Nat) (lane : Fin 36)
  /-- ANNOUNCE_RECEIVE (R378): An ANNOUNCE teaches a lane its far end and detects node conflicts. -/
  | announceReceive (t : Nat) (lane : Fin 36) (node serial port farLane : Nat)
  /-- ROUTE_RECEIVE (R378): ROUTE changes update the route table and are advertised on. -/
  | routeReceive (t : Nat) (port : Fin 4) (full : Bool) (changes : List RouteChange)
  /-- ROUTE_FULL_ADVERTISE (R378): The whole route table is advertised every 100 ms. -/
  | routeFullAdvertise (t : Nat)
  /-- ROUTE_EXPIRE (R378): A route expires 300 µs after its port goes down. -/
  | routeExpire (t : Nat) (port : Fin 4)
  /-- URARA_PACKET_RECEIVE (R377): A Urara packet taken whole is checked for sequence and CRC and delivered, forwarded or LNAKed. -/
  | uraraPacketReceive (t : Nat) (lane : Fin 36) (type : Nat) (words : List W64)
  /-- LACK_RECEIVE (R377): A LACK frees acknowledged packets from the replay buffer. -/
  | lackReceive (t : Nat) (lane : Fin 36) (ack : Nat)
  /-- LACK_SEND (R377): A lane idle for 1 µs sends LACK. -/
  | lackSend (t : Nat) (lane : Fin 36)
  /-- LNAK_RECEIVE (R377): An LNAK makes the sender replay from the expected sequence. -/
  | lnakReceive (t : Nat) (lane : Fin 36) (lseq : Nat)
  /-- URARA_COMMAND_RECEIVE (R49): A COMMAND packet addressed here enters intake. -/
  | uraraCommandReceive (t src : Nat) (payload : List W64)
  /-- TRIGGER_RECEIVE (R381): A TRIGGER acts as a remote edge, or queues the lead's product in a standby. -/
  | triggerReceive (t src : Nat) (w : TriggerWords)
  /-- TIME_SEND (R383): TIME is sent to dependent nodes and the peer 16 times a second. -/
  | timeSend (t node : Nat)
  /-- TIME_RECEIVE (R383): A TIME packet yields a time sample for Urara time or the peer comparison. -/
  | timeReceive (t src : Nat) (tSrc corr lamIn : Nat)
  /-- LEASE_RENEW_SEND (R396): The lead sends a lease renewal every 5 ms. -/
  | leaseRenewSend (t : Nat)
  /-- LEASE_RENEW_RECEIVE (R396): The standby receives a renewal and acknowledges it at once. -/
  | leaseRenewReceive (t n : Nat)
  /-- LEASE_ACK_RECEIVE (R396): The lead receives an acknowledgement and extends its lease. -/
  | leaseAckReceive (t n peerRole : Nat)
  /-- LEASE_DENY_RECEIVE (R398): A LEASE deny makes the lead ISOLATED. -/
  | leaseDenyReceive (t : Nat)
  /-- LEASE_HANDOVER_RECEIVE (R399): The peer receives a handover and becomes lead. -/
  | leaseHandoverReceive (t record product n : Nat)
  /-- LEAD_LEASE_EXPIRY (R397): The lead's lease expires and it stops issuing. -/
  | leadLeaseExpiry (t : Nat)
  /-- LEAD_EXPIRY_DECISION (R397): 2 ms after expiry the lead becomes SOLO or ISOLATED according to the witness. -/
  | leadExpiryDecision (t : Nat)
  /-- STANDBY_TAKEOVER (R397): With no renewal by r_k + 22 ms the standby becomes SOLO and takes the lead. -/
  | standbyTakeover (t : Nat)
  /-- WITNESS_TOGGLE (R385): A bound unit toggles witness_out every 1 ms. -/
  | witnessToggle (t : Nat)
  /-- WITNESS_EDGE (R385): An edge on witness_in shows the peer alive. -/
  | witnessEdge (t : Nat)
  /-- WITNESS_SILENT (R385): No witness edge for 5 ms marks the peer's witness silent. -/
  | witnessSilent (t : Nat)
  /-- DIGEST_RECEIVE (R392): A peer digest is compared with the local one; a mismatch sends CHECK. -/
  | digestReceive (t line : Nat) (d recipe : W64)
  /-- CHECK_RECEIVE (R393): The peer's CHECK completes the mismatch table: a yield or a suspect line. -/
  | checkReceive (t line : Nat) (peerFault : Bool)
  /-- UNIT_YIELD (R395): At its next decision time a yielding unit stops frames and releases its permits. -/
  | unitYield (t : Nat)
  /-- JREPL_RECEIVE (R400): A replicated journal part, claim, grant or plan is made durable and acknowledged, or an acknowledgement completes peer durability. -/
  | jreplReceive (t seq : Nat) (item : JreplItem)
  /-- EPOCH_PROPOSE_RECEIVE (R391): A proposed epoch's items are written and the lowest undispatched line reported. -/
  | epochProposeReceive (t epoch : Nat) (placement : Bool) (items : List CalRec)
  /-- EPOCH_COMMIT_RECEIVE (R391): EPOCH commit fixes F_e and the new epoch applies from that line. -/
  | epochCommitReceive (t epoch fe : Nat)
  /-- LINEMARK_RECEIVE (R387): A standby aligns its line index to the lead's or reports a slip. -/
  | linemarkReceive (t line stamp : Nat)
  /-- VERDICT_RECEIVE (R390): The lead applies the standby's per-line flags or vision result. -/
  | verdictReceive (t : Nat) (v : Verdict)
  /-- COPY_BEGIN_RECEIVE (R401): The standby starts a state copy and stages the snapshot. -/
  | copyBeginReceive (t copy record product line stamp : Nat) (configEqual : Bool)
  /-- COPY_COMMIT_RECEIVE (R401): The standby checks the digest, commits the staged content and becomes SYNCED. -/
  | copyCommitReceive (t copy : Nat) (digestOk : Bool) (snap : Snapshot)
  /-- COPY_DONE_RECEIVE (R401): The lead learns the standby has committed the copy. -/
  | copyDoneReceive (t copy : Nat)
  /-- TWIN_COPY_RETRY (R401): After a configuration difference the standby retries the copy every 10 s. -/
  | twinCopyRetry (t : Nat)
  /-- TELEMETRY_RECEIVE (R514): A collecting node receives Crier events in TELEMETRY packets. -/
  | telemetryReceive (t src : Nat) (events : List W64)
  /-- PTP_SYNC_RECEIVE (R355): A Sync, with its Follow_Up, gives a servo sample that updates the domain and clock states. -/
  | ptpSyncReceive (t : Nat) (dom : Fin 2) (seq : Nat) (twoStep : Bool) (origin corr ingress : Int)
  /-- PTP_FOLLOW_UP_RECEIVE (R352): A two-step master's Follow_Up completes a Sync sample. -/
  | ptpFollowUpReceive (t : Nat) (dom : Fin 2) (seq : Nat) (origin corr : Int)
  /-- PTP_ANNOUNCE_RECEIVE (R352): An Announce feeds master selection and utc_offset. -/
  | ptpAnnounceReceive (t : Nat) (dom : Fin 2) (a : Announce)
  /-- PTP_DELAY_REQ_SEND (R353): A Delay_Req is sent and stamped at egress. -/
  | ptpDelayReqSend (t : Nat) (dom : Fin 2) (seq : Nat) (egress : Int)
  /-- PTP_DELAY_RESP_RECEIVE (R353): A Delay_Resp updates the mean path delay. -/
  | ptpDelayRespReceive (t : Nat) (dom : Fin 2) (seq : Nat) (rx corr : Int)
  /-- PTP_DOMAIN_TIMEOUT (R355): Announce receipt timeout or no valid sample returns a domain to LISTEN. -/
  | ptpDomainTimeout (t : Nat) (dom : Fin 2)
  /-- FROZEN_GUARD_EXPIRY (R356): A FROZEN domain's guard time ends and it returns to ACQUIRE. -/
  | frozenGuardExpiry (t : Nat) (dom : Fin 2)
  /-- FAULTY_DOMAIN_RECOVER (R355): A FAULTY domain that agreed for 60 s returns to LOCKED. -/
  | faultyDomainRecover (t : Nat) (dom : Fin 2)
  /-- PREFERRED_DOMAIN_RETURN (R359): After 60 s of agreement the clock returns to the preferred domain. -/
  | preferredDomainReturn (t : Nat)
  /-- TIME_DISAGREE (R361): Domains differ beyond xcheck for 10 s; the arbiter decides or err is raised. -/
  | timeDisagree (t : Nat)
  /-- LEAP_SECOND (R351): At an announced leap second utc_offset changes. -/
  | leapSecond (t : Nat)
  /-- TIME_FLOOR_SAVE (R348): Every 60 s device time and ρ are saved as the floor. -/
  | timeFloorSave (t : Nat)
  /-- PPS_IN_EDGE (R363): A PPS input edge is stamped, locks the input, disciplines the clock or applies a pending TIME_SET. -/
  | ppsInEdge (t : Nat) (n : Fin 2) (rising : Bool)
  /-- PPS_IN_LOST (R363): No PPS edge for 1.5 s loses the input's lock. -/
  | ppsInLost (t : Nat) (n : Fin 2)
  /-- PPS_OUT_PULSE (R364): PPS_OUT asserts at each whole second less out_adv. -/
  | ppsOutPulse (t : Nat) (n : Fin 2)
  /-- PPS_OUT_PULSE_END (R364): PPS_OUT deasserts after its width. -/
  | ppsOutPulseEnd (t : Nat) (n : Fin 2)
  /-- CAMERA_TRIGGER_PULSE_END (R323): The 1 µs camera trigger pulse ends. -/
  | cameraTriggerPulseEnd (t : Nat) (gpio : Fin 16)
  /-- CSI_FRAME_START (R327): An FS short packet is stamped and starts a frame, raising the frame count. -/
  | csiFrameStart (t : Nat) (rx : Fin 2) (vc : Fin 16)
  /-- CSI_LONG_PACKET (R321): A RAW10 or RAW12 row packet is checked and passed to the pipeline. -/
  | csiLongPacket (t : Nat) (rx : Fin 2) (vc : Fin 16) (dtype : Nat) (ok : Bool) (pixels : List Nat)
  /-- CSI_FRAME_END (R328): An FE packet ends the frame, which is classified. -/
  | csiFrameEnd (t : Nat) (rx : Fin 2) (vc : Fin 16) (overflow : Bool)
  /-- PIPELINE_FRAME_DONE (R340): The last pipeline row is in the Well; statistics are made and the image is queued for covered codes. -/
  | pipelineFrameDone (t : Nat) (sensor : Fin 8) (streaks : List StreakObs)
  /-- IMAGE_GRADED (R337): Registration, sampling, decoding and grading of one image end. -/
  | imageGraded (t record frame : Nat) (sensor : Fin 8) (g : ImageResult)
  /-- LEDGER_WRITE_COMPLETE (R480): A Ledger write reads back; it is durable, retried, or spares its sector. -/
  | ledgerWriteComplete (t : Nat) (readBackOk : Bool)
  /-- LEDGER_SECTOR_SPARE_COPY (R484): The remaining words of a spared sector have been copied to the spare. -/
  | ledgerSectorSpareCopy (t sector : Nat)
  /-- WELL_REFRESH_DUE (R467): A rank's refresh falls due every tREFI and is issued or postponed. -/
  | wellRefreshDue (t : Nat) (ch rank : Fin 2) (urgentWait : Nat)
  /-- DRAM_MR4_POLL (R466): Every 1 ms MR4 is read and the refresh rate set. -/
  | dramMr4Poll (t : Nat) (ch rank : Fin 2) (anyDouble anyHot : Bool)
  /-- WELL_DRIFT_TRACK (R465): Every 100 ms per rank the DQS oscillator is read and write delays moved. -/
  | wellDriftTrack (t : Nat) (ch rank : Fin 2) (moves : List Int)
  /-- WELL_ZQ_CAL (R465): ZQ calibration runs every 128 ms. -/
  | wellZqCal (t : Nat) (ch : Fin 2)
  /-- SELF_REFRESH_ENTRY (R469): A channel idle for sr_idle µs enters self-refresh. -/
  | selfRefreshEntry (t : Nat) (ch : Fin 2)
  /-- SELF_REFRESH_EXIT (R469): A request wakes a channel from self-refresh. -/
  | selfRefreshExit (t : Nat) (ch : Fin 2)
  /-- WELL_REPAIR_WINDOW (R472): A soft post-package repair window copies and remaps a failing row. -/
  | wellRepairWindow (t : Nat) (row : DramRow) (resourceLeft : Bool)
  /-- WELL_HARD_REPAIR (R473): With no job for 10 s a soft repair is converted into a hard repair. -/
  | wellHardRepair (t : Nat)
  /-- WELL_PATROL_SCRUB (R471): Background task 1 scrubs a 256 KiB batch of the Well. -/
  | wellPatrolScrub (t : Nat) (bad : List BurstFault)
  /-- LEDGER_SCRUB (R486): Background task 2 scrubs and rewrites aged Ledger sectors. -/
  | ledgerScrub (t sector : Nat) (corrected : Bool) (bad : Option LedgerHit)
  /-- SRAM_SCRUB (R503): Background task 3 scrubs SRAM arrays and repairs failing rows. -/
  | sramScrub (t array row : Nat) (corrected uncorrectable : Bool)
  /-- SLICE_SELFTEST (R501): Background task 4 runs the self-test on an idle working slice. -/
  | sliceSelftest (t : Nat) (slice : Fin 32) (pass : Bool)
  /-- SPARE_CORE_SELFTEST (R505): Every 10 min the spare control core runs its self-test. -/
  | spareCoreSelftest (t : Nat) (pass : Bool)
  /-- SILICON_RECAL (R502): Background task 6 re-calibrates an idle silicon item inst. -/
  | siliconRecal (t item inst : Nat) (m : CalMeasure)
  /-- KRYNTO_KAT (R436): Every 24 h the Krynto core repeats its known-answer tests. -/
  | kryntoKat (t : Nat) (pass : Bool)
  /-- BACKGROUND_LATE (R499): A task's next period begins before its pass completes. -/
  | backgroundLate (t : Nat) (task : Fin 7)
  /-- DRBG_RESEED (R435): The DRBG reseeds after 2^20 requests or 1 s. -/
  | drbgReseed (t : Nat) (pass : Bool)
  /-- CHECK_UNIT_SELFCHECK (R451): Every 100 ms a check unit recomputes its load check value and may fail over. -/
  | checkUnitSelfcheck (t : Nat) (u : Fin 4) (value : Nat)
  /-- CRIER_EVENT_SEND (R515): A queued Crier record is written to its ring or collecting node. -/
  | crierEventSend (t : Nat)
  /-- CRIER_SAMPLE (R497): The Crier samples telemetry by hardware every 1 s. -/
  | crierSample (t : Nat)
  /-- TEMP_SENSOR_CONVERSION (R536): Each sensor converts every 100 µs and Tj is judged against the thermal steps. -/
  | tempSensorConversion (t : Nat) (readings : List Int)
  /-- JUNCTION_TRIP (R537): The AON comparator trips at 120 °C and holds the device in reset. -/
  | junctionTrip (t : Nat)
  /-- REFCLK_SYS_FAIL (R533): REFCLK_SYS fails; PLLs hold, permits are released and the clock enters holdover. -/
  | refclkSysFail (t : Nat)
  /-- REFCLK_SYS_RECOVER (R533): After 10 ms of good reference the fault clears. -/
  | refclkSysRecover (t : Nat)
  /-- TAMPER_TRIP (R430): A mesh, loop, light or temperature sensor trips and zeroisation starts. -/
  | tamperTrip (t : Nat) (cause : TamperCause)
  /-- ZEROISE_RESET (R431): Key sectors are cleared and the device resets with cause tamper. -/
  | zeroiseReset (t : Nat)
  /-- TAMPER_HOLD_START (R430): A voltage or clock sensor trips and the SEC clock stops with KRYNTO_HOLD. -/
  | tamperHoldStart (t : Nat) (clockSensor : Bool)
  /-- TAMPER_HOLD_CLEAR (R430): A hold clears 1 ms after its condition ends. -/
  | tamperHoldClear (t : Nat)
  /-- TAMPER_HOLD_TIMEOUT (R430): A hold lasting 10 ms, or 16 holds in 1 s, zeroise. -/
  | tamperHoldTimeout (t : Nat)
  /-- CORE_TAKEOVER (R506): A lockstep mismatch, core SRAM error or core watchdog starts a takeover by the spare core. -/
  | coreTakeover (t : Nat)
  /-- TAKEOVER_COMPLETE (R506): Lockstep resumes and intake reopens at t5. -/
  | takeoverComplete (t : Nat) (passA passB : Bool)
  /-- WATCHDOG_RESET (R506): A takeover not done by 100 ms resets the device through the AON watchdog. -/
  | watchdogReset (t : Nat)
  /-- DEVICE_FAULT_CLEAR (R548): A device-class fault's clearing condition holds and replay starts. -/
  | deviceFaultClear (t code : Nat)
  /-- POWER_DOWN_NOTICE (R522): Bank B0 falling starts permit release, saves, self-refresh and reset hold. -/
  | powerDownNotice (t : Nat)
  /-- UNANNOUNCED_POWER_LOSS (R98): A rail leaves its range without a notice; saved values cover the loss at the next boot. -/
  | unannouncedPowerLoss (t : Nat) (aonLost : Bool)
  /-- AON_SUPPLY_SWITCH (R520): The AON domain switches between VDD_AON and VBAT. -/
  | aonSupplySwitch (t vddAonMv : Nat) (vbat : Bool)
  /-- RESET_PIN_ASSERT (R525): RESET_N low for 1 µs with supplies in range causes a warm reset. -/
  | resetPinAssert (t lowNs : Nat)
  /-- RESET_N_RELEASE (R528): RESET_N release starts the boot ROM. -/
  | resetNRelease (t : Nat)
  /-- BOOT_SELFTESTS_DONE (R436): Boot Krynto self-tests end. -/
  | bootSelftestsDone (t : Nat) (pass : Bool)
  /-- BOOT_IMAGE_VERIFIED (R412): The active or other slot's image is read and verified, or boot stops. -/
  | bootImageVerified (t : Nat) (a b : ImgVerdict)
  /-- BOOT_CORES_STARTED (R528): Cores start, configuration is read, remaps applied and domains powered. -/
  | bootCoresStarted (t : Nat) (configOk : Bool)
  /-- BOOT_WELL_TRAINED (R462): SPD is read and the Well trained at the highest passing rate. -/
  | bootWellTrained (t : Nat) (spd : SpdRead) (rate : Option Nat)
  /-- BOOT_LANE_STAGE_END (R275): Lane bring-up stage ends when lanes are UP or after 20 ms. -/
  | bootLaneStageEnd (t : Nat)
  /-- DEVICE_READY (R528): ready becomes 1, the mailbox closes and replay runs. -/
  | deviceReady (t : Nat)
  /-- CAL_STAGING_COMMIT (R490): A calibration write's commit word is durable and the record is copied home. -/
  | calStagingCommit (t : Nat)
  /-- SQUARE_TIMEOUT (R20): A crossing whose acknowledge does not return within 2 µs (100 µs for the AON crossing with its gated clock stopped) is a Square timeout, and the response counts as absent. -/
  | squareTimeout (t line : Nat) (aon : Bool) (waited : Nat)
  /-- TIME_ERR_HIGH (R360): The error bound err, growing by 1,000 ns per second in KEPT or undisciplined HOLDOVER, crosses err_alarm and TIME_ERR_HIGH is reported. -/
  | timeErrHigh (t : Nat)
  /-- BOTH_LEAD_WINDOW_END (R302): The 4 ms both-lead window after an unplanned takeover or lease expiry ends, and the issuer abandons the rest of its claimed sub-blocks. -/
  | bothLeadWindowEnd (t : Nat)
  /-- STALL_CONFIG_LANE_TIMEOUT (R223): 200 ms after an accepted STALL_CONFIG without lane lock and IDENT, the command ends with LANE_DOWN and the Stall stays configured. -/
  | stallConfigLaneTimeout (t : Nat) (st : Fin 24)
  /-- TOPOLOGY_REPLY_TIMEOUT (R372): 100 ms after TOPOLOGY's acceptance, the final reply is sent with the mask of enabled ports that are UP, if routes have not settled before. -/
  | topologyReplyTimeout (t : Nat)
  /-- ENTROPY_HEALTH_FAIL (R435): A continuous repetition-count or adaptive-proportion health test of the entropy source fails, and the device-class fault ENTROPY_FAIL is raised. -/
  | entropyHealthFail (t : Nat)
  /-- WELL_HARD_REPAIR_DONE (R473): The DRAM finishes programming a hard repair (up to 2,000 ms), waiting bank requests proceed, and a JOB_ACTIVATE that waited on it completes. -/
  | wellHardRepairDone (t : Nat)
  /-- CAL_RUN_COMPLETE (R494): A calibration run's two measurements finish, and the mean is written or the old values kept with CAL_DISAGREE or CAL_FAIL, and the final reply is sent. -/
  | calRunComplete (t item : Nat) (m : CalMeasure)
  /-- IMAGE_SLOT_WRITTEN (R413): The xSPI flash write of a staged image ends and its read-back either passes R412, giving Done, or fails with XSPI_WRITE and the slot marked empty. -/
  | imageSlotWritten (t : Nat) (readBackOk : Bool)
  /-- FW_IMAGE_LOADED (R508): The new image has been read into image SRAM and verified again (t1), and intake pauses to wait for started commands. -/
  | fwImageLoaded (t : Nat) (ok : Bool)
  /-- MAILBOX_OPERATION_END (R86): A mailbox operation's direct PCIe transfers end, MBX_RESULT is set, busy clears and the mbx interrupt cause is raised. -/
  | mailboxOperationEnd (t : Nat) (v : ImgVerdict) (flashOk : Bool)
  /-- MSIX_VECTOR_UNMASK (R82): The host unmasks an MSI-X vector whose pending bit is set, and the held-back message is sent. -/
  | msixVectorUnmask (t : Nat) (v : Fin 32)
  /-- ARP_REPLY_RECEIVE (R55): An ARP reply or Neighbor Advertisement resolves the link address of rec_addr or the next hop, so record datagrams can be sent. -/
  | arpReplyReceive (t : Nat) (p : Fin 2) (ip link : Nat)
  /-- TAP_INSTRUCTION_LOAD (R564): The JTAG test access port loads an instruction, and EXTEST, CLAMP, HIGHZ, EXTEST_PULSE or EXTEST_TRAIN is replaced by BYPASS unless RESET_N holds the device in reset. -/
  | tapInstructionLoad (t : Nat) (instr : TapInstr)
  deriving DecidableEq, Repr

end Sys2Proof
end

