-- ==== Sys2Proof/Config.lean ====
section
/-!
DEFINITION. What one implementation fixes and what the spec leaves open: constants with no body, so that
no proof can see a value. Each is named in the assumption log.
-/
namespace Sys2Proof

/-! ### Cryptographic primitives and random values (standards the spec cites; log entry 3) -/

/-- AES-256-CMAC of a message under a key (R36). -/
opaque Config.cmac : List Byte → List Byte → BitVec 128
/-- The n-th 64-bit value the DRBG gives (R35, R435). -/
opaque Config.drbg : Nat → W64
/-- SHA-384 of a message. -/
opaque Config.sha384 : List Byte → List Byte
/-- A key derived from a secret and a label (R425). -/
opaque Config.kdf : List Byte → List Byte → List Byte
/-- An ECDSA or ML-DSA signature by the device's own key over a message: scheme 0 or 1 (R434, R314). -/
opaque Config.sign : Nat → List Byte → List Byte

/-- The Ledger journal key of the device, made at manufacture (R406, R308). -/
opaque Config.journalKey : List Byte
/-- FF1 of NIST SP 800-38G with radix 2: key, tweak, length of the numeral string in bits, the number (R300). -/
opaque Config.ff1 : List Byte → Nat → Nat → Nat → Nat

/-- The authenticator of a code whose check digit hangs on that authenticator, by its string with zeros for it: R307 states no value (log entry 8). -/
opaque Config.authLoop : List Byte → Nat

/-- The delivery role key (R419). -/
opaque Config.deliveryKey : List Byte
/-- Word i of the device's ephemeral point and ciphertext in a session opened on the n-th draw (R424). -/
opaque Config.keyShare : Nat → Nat → W64
/-- Z1 and Z2 of that session, from the sender's words (R425). -/
opaque Config.sharedSecret : Nat → List Byte → List Byte
/-- A handle that the core gives a job key: the number of the draw (R417). -/
opaque Config.jobKeyHandle : Nat → W64
/-- The SHA-384 of the root key block of a root slot, as the fuses hold it (R410). -/
opaque Config.rootDigest : Nat → List Byte

/-! ### Symbols (ISO/IEC 16022, 18004, 15417 and 15420, which R295 cites; log entry 7) -/

/-- Whether the module at a column and row of the symbol of a data string is dark: the parameters are symbology, size, error correction,
mask choice and box width. -/
opaque Config.symbolDot : List Nat → List Byte → Nat → Nat → Bool

/-! ### Constants of the part -/

/-- The factory serial number, DEVICE_SERIAL (R60). -/
opaque Config.serial : W64
/-- The factory MAC address of an Ethernet port (R55). -/
opaque Config.factoryMac : Nat → BitVec 48
/-- The bytes the boot ROM has in its boot log, and the Fjarow device certificate (R86, R409). -/
opaque Config.bootLog : List Byte
/-- A certificate of the device by selector (R409). -/
opaque Config.cert : Nat → List Byte

/-! ### The PTP servo (R355, R356: the spec gives its limits, not its law; log entry 4) -/

/-- The rate a servo asks for, in 2⁻⁴⁸, from the loop bandwidth, the offset and its present rate (R354, R357). -/
opaque Config.servoRate : Nat → Int → Int → Int
/-- The prediction of a servo's model after a sample: old model, offset of the sample (R355). -/
opaque Config.servoModel : Int → Int → Int

/-! ### Event details that the spec says exist without a layout (log entry 5) -/

/-- The `detail` of CHECK_MISMATCH, which names the unit and the ring (R452). -/
opaque Config.mismatchDetail : Nat → Nat → Nat
/-- The Well address of the recipe of a line (R200, R474): the spec gives the recipe store no place. -/
opaque Config.recipeBurst : Nat → Nat

/-! ### The link (R383; log entry 11) -/

/-- The residence time in 2⁻¹⁶ ns of a TIME packet that this hop sends on, by the number of the moment. -/
opaque Config.residence : Nat → Nat

/-! ### Sensors (R325: the spec gives set 0, a sensor's power-on set, no values; log entry 9) -/

/-- The exposure in ns (field 0) and the digital gain in 1/256 (field 1) of a sensor's set 0. -/
opaque Config.setZero : Nat → Nat → Nat

/-! ### Twin pairs (log entry 13) -/

/-- The fault that a final part names for a record which was not durable at the peer when the lease expired (R320: reason 3, no fault stated). -/
opaque Config.leaseLossFault : Nat
/-- The fault of a state copy whose digest does not match (R401 states none). -/
opaque Config.copyDigestFault : Nat

/-! ### The Well (log entry 10) -/

/-- The repair resources of a bank group's devices at first boot, lowest of the group: channel, rank, bank group (R473, R511). -/
opaque Config.repairResource : Nat → Nat → Nat → Nat
/-- The eye width that a lane has at a moment: the moment's number, channel, rank, 0 read or 1 write, lane (R477). -/
opaque Config.eyeWidth : Nat → Nat → Nat → Nat → Nat → Nat
/-- Counts of the write queue of a channel that follow from its timing alone: the moment's number, channel, 0 read-modify-writes, 1 forwarded reads, 2 held reads (R477). -/
opaque Config.queueCount : Nat → Nat → Nat → Nat

/-! ### SRAM arrays and rails (log entry 14) -/

/-- The power domain that an SRAM array lies in (R503, R511: the spec names no array's place). -/
opaque Config.sramDomain : Nat → Nat
/-- Whether an owning chapter states how an uncorrectable word of an SRAM array is handled (R504). -/
opaque Config.sramNamed : Nat → Bool
/-- The voltage in mV that a rail is measured at, by the number of the moment: 0 VDD_CORE, 1 VDD_SRAM, 2 VDDQ (R539). -/
opaque Config.railMv : Nat → Nat → Nat

/-! ### The record compressor (R138: deterministic, its choice of tokens is not stated; log entry 6) -/

/-- The token payload the record compressor writes for the bytes of a block. -/
opaque Config.sheafEncode : List Byte → List Byte

end Sys2Proof
end

