-- ==== Sys2Proof/Machine/State.lean ====
section
/-!
DEFINITION. The state of the block as plain data: every register, FIFO, buffer, counter, mode and pin
the spec gives it, in one structure per unit, each field's default being its value at reset; the queue
of the commands that wait; the reasons a step can stop; `State.reset`.
Three fields are the model's own and no part of the spec: `now`, the elapsed local time in nanoseconds that the moments of the
steps are given in; `outbox`, what the block has sent, newest first; `fresh`, the counter that the free
values are read with.
-/
namespace Sys2Proof.Machine

/-- The reasons a step can stop with a fault. No rule of the spec stops the block itself with one: a fault of the
spec (R541) is an effect on State. -/
inductive Fault where
  /-- Raised by nothing: kept so that the type has a value. Safe: a stop would only lose behaviour. -/
  | unreachable
  deriving DecidableEq, Repr

/-- The reasons a command can be refused by the model. -/
inductive Refusal where
  /-- Raised by the dispatch for a command whose meaning is not modelled. Safe: nothing follows about it. -/
  | notModelled (mnemonic : String)
  deriving DecidableEq, Repr

/-- What the block sends out. The model's own record of its outputs, so that statements can name them. -/
inductive Emit where
  /-- A reply packet on its transport; `src` is the return path of the command (R47, R48, R49). -/
  | reply (tr : Transport) (src : Nat) (words : List W64)
  /-- A posted write of words to host memory, such as a descriptor write-back (R70). -/
  | hostWords (addr : Nat) (words : List W64)
  /-- A unit's bytes written to host memory (R71). -/
  | hostBytes (addr : Nat) (data : List Byte)
  /-- An MSI-X message of a vector (R82). -/
  | msi (vector : Nat)
  /-- A packet originated here enters the Urara link: node (2047 for broadcast), packet type, payload (R374, R375). -/
  | urara (node type : Nat) (words : List W64)
  /-- A packet leaves on a lane: lane, message type, header words, payload and CRC word (R374, R377). -/
  | packet (lane type : Nat) (words : List W64)
  /-- A control item of one lane: lane, item type, value (R277, R287, R377). -/
  | lane (lane type value : Nat)
  /-- A message to a head station: Stall, message type, words (R224). -/
  | head (stall type : Nat) (words : List W64)
  /-- A datagram or frame on an Ethernet port: port, kind, destination, bytes (R55, R315, R353). -/
  | eth (port kind dest : Nat) (data : List Byte)
  /-- A write of a camera setting over I3C (R325). -/
  | i3c (sensor setId : Nat)
  deriving DecidableEq, Repr

/-! ### Commands, slots and sessions (R27 to R56) -/

/-- Where an accepted command stands: waiting for a place, executing, or with its final reply committed. -/
inductive Phase where
  | waiting | executing | committed
  deriving DecidableEq, Repr

/-- One command slot (R41, R42), from acceptance until its final reply has been handed over. -/
structure Slot where
  cid      : Nat := 0
  tr       : Transport := .ring0
  src      : Nat := 0
  op       : Nat := 0
  tag      : Nat := 0
  prio     : Nat := 0
  fence    : Bool := false
  quiet    : Bool := false
  bcast    : Bool := false
  seq      : Nat := 0
  session  : Nat := 0
  srcNode  : Nat := 0
  params   : List W64 := []
  acceptAt : Nat := 0
  phase    : Phase := .waiting
  interim  : Bool := false
  status   : Nat := 0
  reply    : List W64 := []
  deriving DecidableEq, Repr

/-- The six roles (R52, R422). -/
inductive Role where
  | vendor | owner | operator | maintainer | auditor | anonymous
  deriving DecidableEq, Repr

/-- One open session other than 0 (R35 to R39, R424 to R427). Bit k of `seen` stands for the
sequence `high - k`; `th` is the transcript digest of R425; `expires` is the `not_after` of a group session in UTC seconds. -/
structure Session where
  id       : Nat := 0
  role     : Role := .anonymous
  cred     : Nat := 0
  cmdKey   : List Byte := []
  repKey   : List Byte := []
  proved   : Bool := false
  group    : Bool := false
  closing  : Bool := false
  openedAt : Nat := 0
  expires  : Nat := 0
  th       : List Byte := []
  high     : Nat := 0
  seen     : Nat := 0
  cache    : List (Nat × List W64) := []
  deriving DecidableEq, Repr

/-- One forwarded command and its return path (R49). -/
structure Forward where
  tr      : Transport := .ring0
  src     : Nat := 0
  node    : Nat := 0
  session : Nat := 0
  tag     : Nat := 0
  seq     : Nat := 0
  deriving DecidableEq, Repr

/-- The command service: slots in acceptance order, sessions, the replies committed to ring 2 in order,
the forwarding table, the refusals of the current device second per transport (R40, R571). -/
structure Cmd where
  nextCid    : Nat := 1
  slots      : List Slot := []
  sessions   : List Session := []
  usedIds    : List Nat := []
  replyQ     : List (Nat × List W64) := []
  forwards   : List Forward := []
  refuseSec  : Nat := 0
  refuseCnt  : Vector Nat 5 := Vector.replicate 5 0
  ring0Run   : Nat := 0
  intakeOpen : Bool := true
  held       : List W64 := []
  deriving DecidableEq, Repr

/-! ### Rings, interrupts and the mailbox (R57 to R87) -/

/-- The role codes of a ring (R63). -/
inductive RingRole where
  | unassigned | commandIn | replyOut | crierOut | jobIn | recordsOut | visionOut | generalIn | generalOut
  deriving DecidableEq, Repr

/-- One unit waiting to leave on a device-to-host ring (R71): its bytes, and the command that ends
with it (0 for none) and its result words. A `split` unit is a byte stream that fills descriptors one after another; `block` is the number of a block
of the record stream (R316). -/
structure OutUnit where
  data  : List Byte := []
  cid   : Nat := 0
  final : Bool := false
  results : List W64 := []
  split : Bool := false
  block : Option Nat := none
  deriving DecidableEq, Repr

/-- One ring: active registers, shadow registers (R73), the descriptor fetched at `head`, the units
that wait for a device-to-host ring, and the command that takes its input from a host-to-device ring. -/
structure Ring where
  base       : W64 := 0
  log2n      : Nat := 0
  head       : W32 := 0
  tail       : W32 := 0
  enable     : Bool := false
  pause      : Bool := false
  coalesce   : Nat := 0
  holdoff    : Nat := 0
  vector     : Nat := 0
  role       : RingRole := .unassigned
  sBase      : W64 := 0
  sLog2n     : Nat := 0
  sHead      : W32 := 0
  sTail      : W32 := 0
  sCtrl      : Nat := 0
  arm        : Bool := false
  paused     : Bool := false
  error      : Bool := false
  domainOff  : Bool := false
  switched   : Bool := false
  lateWrite  : Bool := false
  errCode    : Nat := 0
  switchCnt  : Nat := 0
  doneBytes  : Nat := 0
  errIndex   : W32 := 0
  deriving DecidableEq, Repr

/-- What runs on a ring beside its registers: the fetched descriptor, the bytes placed so far, the
interrupt count of R82, the start of a domain power-down (R79), the waiting units, and the command that takes input
from it: its number, the Well address it writes to, the bytes it still wants and the bytes it has collected. -/
structure RingWork where
  desc       : Option DescWords := none
  moved      : List Byte := []
  irqCount   : Nat := 0
  irqFirst   : Nat := 0
  deadline   : Option Nat := none
  stopping   : Bool := false
  units      : List OutUnit := []
  input      : Nat := 0
  inAddr     : Nat := 0
  inLeft     : Nat := 0
  got        : List Byte := []
  deriving DecidableEq, Repr

/-- One entry of the MSI-X table (R59). -/
structure MsixEntry where
  addr   : W64 := 0
  data   : W32 := 0
  masked : Bool := true
  deriving DecidableEq, Repr

/-- The registers of BAR0 outside the identity block (R59 to R86); `mbxOp` is the mailbox operation that runs and `mbxRun` whether its transfers have begun. -/
structure Bar where
  rings     : Vector Ring 16
  work      : Vector RingWork 16 := Vector.replicate 16 {}
  intStatus : W64 := 0
  intEnable : W64 := 0
  intVector : Nat := 16
  msix      : Vector MsixEntry 32 := Vector.replicate 32 {}
  pba       : Nat := 0
  mbxArg    : Vector W64 4 := Vector.replicate 4 0
  mbxResult : Nat := 0
  mbxBusy   : Bool := false
  mbxOut    : Nat := 0
  mbxOp     : Nat := 0
  mbxRun    : Bool := false
  deriving DecidableEq, Repr

/-- The default role of ring n (R63). -/
def RingRole.default (n : Nat) : RingRole :=
  if n ≤ 1 then .commandIn else if n = 2 then .replyOut else if n = 3 then .crierOut
  else if n ≤ 7 then .jobIn else if n ≤ 9 then .recordsOut else if n ≤ 11 then .visionOut
  else if n ≤ 13 then .generalIn else .generalOut

/-- A ring at reset: vector n mod 32 and the default role (R63, R73). -/
def Ring.atReset (n : Nat) (role : RingRole) : Ring := { vector := n % 32, role := role }

/-- The 16 rings at reset. -/
def Bar.ringsAtReset : Vector Ring 16 :=
  ⟨((List.range 16).map fun n => Ring.atReset n (RingRole.default n)).toArray, rfl⟩

/-- BAR0 at reset. -/
def Bar.atReset : Bar := { rings := Bar.ringsAtReset }

/-! ### Ethernet ports (R55) -/

/-- The settings of one Ethernet port (R55); the defaults are the delivery values. -/
structure NetCfg where
  enable    : Bool := true
  speed     : Nat := 0
  fec       : Bool := false
  vlanEn    : Bool := false
  vlanId    : Nat := 0
  pcp       : Nat := 0
  cmdPort   : Nat := 0x4A50
  ipv6      : Bool := true
  recEnable : Bool := false
  mac       : Nat := 0
  pfxLen    : Nat := 0
  ipLo      : W64 := 0
  ipHi      : W64 := 0
  recLo     : W64 := 0
  recHi     : W64 := 0
  recPort   : Nat := 0
  gateway   : Nat := 0
  deriving DecidableEq, Repr

/-- One Ethernet port: settings in force, settings that wait for a reply to leave, the rate being
tried (2 for 25GBASE-R, 1 for 10GBASE-R), the default router and the neighbours known. -/
structure NetPort where
  cfg     : NetCfg := {}
  next    : Option NetCfg := none
  nextCid : Nat := 0
  rate    : Nat := 2
  router  : Nat := 0
  neigh   : List (Nat × Nat) := []
  deriving DecidableEq, Repr
/-! ### Jobs (R88 to R94, R120 to R122) -/

/-- One entry of the plane table (R91). -/
structure Plane where
  plane   : Nat := 0
  density : Nat := 0
  thresh  : Nat := 0
  deriving DecidableEq, Repr

/-- One entry of the tile table (R92). -/
structure Tile where
  addr  : Nat := 0
  col   : Nat := 0
  row   : Nat := 0
  plane : Nat := 0
  deriving DecidableEq, Repr

/-- One entry of the track table (R93). -/
structure Track where
  input     : Nat := 0
  length    : Nat := 0
  start     : Nat := 0
  stop      : Nat := 0
  artRow    : Nat := 0
  templates : Nat := 0
  deriving DecidableEq, Repr

/-- One geometry row (R94). -/
structure GeomRow where
  stall   : Nat := 0
  plane   : Nat := 0
  first   : Nat := 0
  count   : Nat := 0
  reverse : Bool := false
  origin  : Nat := 0
  pitch   : Nat := 0
  along   : Int := 0
  deriving DecidableEq, Repr

/-- A job description (R90 to R94). -/
structure JobDesc where
  id        : Nat := 0
  templates : Nat := 0
  dpi       : Nat := 0
  maxRate   : Nat := 0
  artWidth  : Nat := 0
  repeats   : Nat := 0
  planes    : List Plane := []
  tiles     : List Tile := []
  tracks    : List Track := []
  rows      : List GeomRow := []
  deriving DecidableEq, Repr

/-- One loaded job: its description, whether it has passed R13, the clear copies of its encrypted tiles (R429), C_max (R150), the
largest segment (R476), its arrays with their check values (R164), L_a and the moment its activation took effect (R105). -/
structure Job where
  desc     : JobDesc := {}
  passed   : Bool := false
  stale    : Bool := false
  key      : Nat := 0
  clear    : List (Nat × List Byte) := []
  cMax     : Nat := 0
  sMax     : Nat := 0
  screens  : List (Nat × Nat) := []
  la       : Nat := 0
  activeAt : Nat := 0
  deriving DecidableEq, Repr

/-- A JOB_LOAD whose check of R13 runs (R89): what has meanwhile happened to the job it replaces: 0 nothing, 1 activated,
2 unloaded. -/
structure Loading where
  job       : Job := {}
  cid       : Nat := 0
  replacing : Bool := false
  fate      : Nat := 0
  deriving DecidableEq, Repr

/-- A pending job switch (R120 to R122): the incoming job, the switch line once it is fixed, the acceptance stamp that the
first product of the switch must reach, whether the final reply was sent. -/
structure JobSwitch where
  job      : Nat := 0
  cid      : Nat := 0
  line     : Option Nat := none
  stamp    : Nat := 0
  replied  : Bool := false
  deriving DecidableEq, Repr

/-- Jobs: loaded, loading, active (the outgoing one during a switch), the switch, the activation that waits for the screen
stores (its slot, job and first line), and the moment since which no job has been active. -/
structure Jobs where
  loaded     : List Job := []
  loading    : List Loading := []
  active     : Option Nat := none
  switch     : Option JobSwitch := none
  activating : Option (Nat × Nat × Nat) := none
  idleFrom   : Nat := 0
  deriving DecidableEq, Repr

/-! ### Motion (R95 to R104) -/

/-- One encoder input: position, the last edge with its channel, the marks of R99 and R100. -/
structure Encoder where
  pos    : Int := 0
  edgeAt : Nat := 0
  edgeA  : Bool := false
  seen   : Bool := false
  errors : Nat := 0
  failed : Bool := false
  zPos   : Option Int := none
  zFails : Nat := 0
  deriving DecidableEq, Repr

/-- The settings of one PD input (R96). -/
structure PdCfg where
  enable   : Bool := false
  falling  : Bool := false
  debounce : Nat := 0
  lead     : Nat := 0
  blank    : Nat := 0
  deriving DecidableEq, Repr

/-- One PD input: the settings in force, the earlier ones with the stamp they end at (R101), the level held, the burst in progress
(its first transition and the latest edge), the blanking line and the edges ignored (R104). Moments are in elapsed local nanoseconds; `stamp16` is the first transition in device time. -/
structure PdInput where
  cfg     : PdCfg := {}
  old     : PdCfg := {}
  oldEnds : Nat := 0
  level   : Bool := false
  held    : Bool := false
  burst   : Option Nat := none
  stamp16 : Nat := 0
  lastAt  : Nat := 0
  behind  : Bool := false
  blankAt : Option Nat := none
  ignored : Nat := 0
  counted : Nat := 0
  deriving DecidableEq, Repr

/-- The settings of MOTION_CONFIG that no PD input owns (R96). `cpl` is in 32.32 fixed point. -/
structure MotionCfg where
  primary    : Nat := 4
  check      : Nat := 7
  invert     : Nat := 0
  pacerRate  : Nat := 1000
  cpl        : Vector Nat 4 := Vector.replicate 4 (2 ^ 32)
  cpr        : Vector Nat 4 := Vector.replicate 4 0
  checkTol   : Nat := 0
  reverseTol : Nat := 0
  deriving DecidableEq, Repr

/-- The motion unit: H, Hb, Lb and L (R97), the positions at configuration (R99), the pacer's ticks, the line boundaries
(newest first: elapsed local nanoseconds and the line they opened), the values last saved (R98). -/
structure Motion where
  enc       : Vector Encoder 4 := Vector.replicate 4 {}
  cfg       : MotionCfg := {}
  pds       : Vector PdInput 8 := Vector.replicate 8 {}
  h         : Int := 0
  hb        : Int := 0
  lb        : Nat := 0
  line      : Nat := 0
  pacer     : Nat := 0
  pacerB    : Nat := 0
  source    : Nat := 4
  failover  : Bool := false
  reversed  : Bool := false
  mismatch  : Bool := false
  base1     : Int := 0
  base2     : Int := 0
  bounds    : List (Nat × Nat) := []
  savedLine : Nat := 0
  nextProd  : Nat := 0
  savedProd : Nat := 0
  prodSince : Nat := 0
  deriving DecidableEq, Repr

/-! ### Products and gates (R105 to R119) -/

/-- One gate word of REJECT_POLICY (R113); the defaults are the delivery word. -/
structure GateWord where
  mask      : Nat := 1
  tracks    : Nat := 0
  enable    : Bool := false
  activeLow : Bool := false
  failSafe  : Bool := false
  offset    : Nat := 0
  length    : Nat := 0
  deriving DecidableEq, Repr

/-- One window of a gate (R114, R117): its lines, whether the output is asserted in it, the word that placed it. -/
structure GateWindow where
  start   : Nat := 0
  stop    : Nat := 0
  reject  : Bool := true
  product : Nat := 0
  word    : GateWord := {}
  deriving DecidableEq, Repr

/-- One reject gate: the word in force, the earlier words with the moment each ends at (R119), the words that rule the resting
level with the line each rules from (newest first), the windows decided, those of them on reserved entries, the hold because the
reserved entries are full (R117), and the output: none while it is high-impedance, else its level. -/
structure Gate where
  word     : GateWord := {}
  olds     : List (Nat × GateWord) := []
  rests    : List (Nat × GateWord) := []
  windows  : List GateWindow := []
  reserved : List GateWindow := []
  full     : Bool := false
  output   : Option Bool := none
  deriving DecidableEq, Repr

/-- One product of the queue (R105, R109). `detect` is device time in 2⁻¹⁶ ns, `moment` the same edge in elapsed local time; `flags` are
the bits of R112; `gw` holds the gate words of its stamp (R119); `decided`, `rejects` and `late` are masks of gates; `target` is 1 for a
placement target, 2 for a density target and 3 for a target whose frame has been measured (R189, R495). -/
structure Product where
  num       : Nat := 0
  detect    : Nat := 0
  moment    : Nat := 0
  detLine   : Nat := 0
  first     : Nat := 0
  stop      : Nat := 0
  job       : Nat := 0
  track     : Nat := 0
  input     : Nat := 0
  flags     : Nat := 0
  issued    : Bool := false
  stopped   : Bool := false
  printed   : Bool := false
  target    : Nat := 0
  records   : List Nat := []
  firstRec  : Option Nat := none
  gw        : Vector GateWord 4 := Vector.replicate 4 {}
  decided   : Nat := 0
  rejects   : Nat := 0
  late      : Nat := 0
  deriving DecidableEq, Repr

/-- The product queue and the gates; `policies` holds each REJECT_POLICY that waits for earlier edges: its slot, the moment of its
acceptance and the mask of the gates whose word it changed; `wants` holds the tracks whose next product becomes a target, with the
kind of target (R189, R495). -/
structure Products where
  queue    : List Product := []
  gates    : Vector Gate 4 := Vector.replicate 4 {}
  policies : List (Nat × Nat × Nat) := []
  wants    : List (Nat × Nat) := []
  deriving DecidableEq, Repr
/-! ### The Ledger and calibration (R479 to R496) -/

/-- One write on its way to the cells (R480): a part of a journal record (0 issue, 1 fired, 2 final), or a calibration
record on its way through the staging area (R490). -/
inductive LWrite where
  | part (record kind : Nat)
  | cal (item : Nat)
  deriving DecidableEq, Repr

/-- One stored calibration record (R488): body, quality, origin, the seconds of its write, and whether it passes its checks
(R482). -/
structure CalItem where
  item    : Nat := 0
  body    : List Byte := []
  quality : Nat := 0
  origin  : Nat := 0
  written : Nat := 0
  valid   : Bool := true
  deriving DecidableEq, Repr

/-- One calibration write (R490): the new record, the command that waits for it with its result words, and whether its record stands in the staging
area and its commit word is durable; `twin` marks an item that a proposal of the peer carries (R391). -/
structure CalWrite where
  new       : CalItem := {}
  cid       : Nat := 0
  results   : List W64 := []
  staged    : Bool := false
  committed : Bool := false
  twin      : Bool := false
  deriving DecidableEq, Repr

/-- One calibration run in progress (R493): item, the rest of p1, the command (0 for a background run), the patch means of a density run with their tracks (R495). -/
structure CalRunning where
  item : Nat := 0
  inst : Nat := 0
  cid  : Nat := 0
  patches : List (Nat × List Nat) := []
  deriving DecidableEq, Repr

/-- The Ledger: writes in order with the tries of the front one, the remap table (logical sector, spare), failing sectors,
sectors whose copy to a spare runs, journal sectors lost (R485), corrected errors seen with their pass, last full rewrites, saved
write counts, the calibration set and its writes and runs, the configuration records that both copies of failed (R482), and the write counts as last saved (R483). -/
structure Ledger where
  writes    : List LWrite := []
  tries     : Nat := 0
  remap     : List (Nat × Nat) := []
  used      : Nat := 0
  failing   : List Nat := []
  copying   : List Nat := []
  lost      : List Nat := []
  seen      : List (Nat × Nat) := []
  rewritten : List (Nat × Nat) := []
  counts    : List (Nat × Nat) := []
  pass      : Nat := 0
  scrubPos  : Nat := 0
  sparesOut : Bool := false
  items     : List CalItem := []
  staging   : List CalWrite := []
  runs      : List CalRunning := []
  badSaved  : Bool := false
  broken    : List LedgerHit := []
  savedCounts : List (Nat × Nat) := []
  deriving DecidableEq, Repr
/-! ### The Mill, the Weighbridge and the line store (R142 to R221) -/

/-- One retired element (R181): Stall, channel, reason (R260), and the spare that serves for it. -/
structure Retired where
  stall   : Nat := 0
  channel : Nat := 0
  reason  : Nat := 0
  spare   : Option Nat := none
  deriving DecidableEq, Repr

/-- One epoch (R159, R185): its number, its first line, the item bodies in force in it, and, for a placement epoch, the retirements. -/
structure Epoch where
  num     : Nat := 0
  first   : Nat := 0
  items   : List (Nat × List Byte) := []
  retired : List Retired := []
  deriving DecidableEq, Repr

/-- One slice (R197, R210): retired, the line indices of its latest two losses, the end of its work on a line, and its self-test. -/
structure Slice where
  retired  : Bool := false
  losses   : List Nat := []
  vote     : Option Nat := none
  tested   : Nat := 0
  deriving DecidableEq, Repr

/-- One pair (R197, R198): its slices, whether it is in service, the moment it accepted its last line. -/
structure MilPair where
  a        : Nat := 0
  b        : Nat := 16
  service  : Bool := false
  accepted : Nat := 0
  deriving DecidableEq, Repr

/-- One band-store slot (R148, R149): the segment it holds or is being filled with, the decoder slice while it is decoded. -/
structure BandSlot where
  item    : SegItem := { plane := 0, col := 0, row := 0, seg := 0, input := 0 }
  job     : Nat := 0
  full    : Bool := false
  bad     : Bool := false
  decoder : Nat := 0
  since   : Nat := 0
  deriving DecidableEq, Repr

/-- A segment that failed in a slice and goes to the intake decompressor (R141): the lines and slices whose results it cost. -/
structure Redecode where
  item  : SegItem := { plane := 0, col := 0, row := 0, seg := 0, input := 0 }
  job   : Nat := 0
  lines : List (Nat × Nat) := []
  deriving DecidableEq, Repr

/-- What a recipe keeps of one product whose window holds its line (R199, R200). -/
structure RecipeProduct where
  num    : Nat := 0
  first  : Nat := 0
  stop   : Nat := 0
  job    : Nat := 0
  track  : Nat := 0
  target : Nat := 0
  void   : Bool := false
  deriving DecidableEq, Repr

/-- One line recipe (R199). -/
structure Recipe where
  line       : Nat := 0
  products   : List RecipeProduct := []
  jobA       : Nat := 0
  jobB       : Nat := 0
  calEpoch   : Nat := 0
  placeEpoch : Nat := 0
  thin       : Bool := false
  pair       : Nat := 0
  artBase    : Nat := 0
  digest     : Nat := 0
  moment     : Nat := 0
  deriving DecidableEq, Repr

/-- One result of a computation of a line (R202, R206): the slice, whether it is full or the stripe of a thinned line, its words in emission order
where it is valid, and the cause where it is absent. -/
structure LineResult where
  slice : Nat := 0
  full  : Bool := true
  words : Option (List (BitVec 72)) := none
  cause : Nat := 0
  deriving DecidableEq, Repr

/-- One slot of the line store (R213, R215, R216) with the decision in progress (R206): results so far, the vote slice that computes, sealed or unresolved, the words
and digests of each Stall once sealed. -/
structure LineSlot where
  line       : Nat := 0
  thin       : Bool := false
  results    : List LineResult := []
  awaiting   : List Nat := []
  voting     : Option Nat := none
  voteFrom   : Nat := 0
  computed   : Nat := 2
  sealed     : Bool := false
  unresolved : Bool := false
  logged     : Bool := false
  words      : List (Nat × List (BitVec 72)) := []
  digests    : List (Nat × Nat) := []
  deriving DecidableEq, Repr

/-- One entry of the Weighbridge log (R209). -/
structure WbEntry where
  line    : Nat := 0
  slices  : List Nat := []
  outcome : Nat := 0
  losers  : Nat := 0
  absent  : Nat := 0
  cause   : Nat := 0
  first   : Nat := 0
  sealAt  : Nat := 0
  deriving DecidableEq, Repr

/-- A PLACEMENT_LEARN target run (R188 to R193): the command, planes, class, passes asked and measured, the target products of the pass in progress that are measured,
the dots found so far with their pass, and the Stalls whose run ended. -/
structure Learn where
  cid     : Nat := 0
  planes  : Nat := 0
  cls     : Nat := 0
  passes  : Nat := 0
  pass    : Nat := 0
  seen    : Nat := 0
  dots    : List (Nat × Dot64) := []
  ended   : List Nat := []
  deriving DecidableEq, Repr

/-- The live tracking of one row (R194): the offsets collected, the last estimate, the moment of the last correction. -/
structure LiveRow where
  stall  : Nat := 0
  row    : Nat := 0
  across : List Int := []
  along  : List Int := []
  last   : Option (Int × Int) := none
  fixed  : Option Nat := none
  deriving DecidableEq, Repr

/-- The Mill, the Weighbridge and the line store. `nextLine` is the lowest line neither dispatched nor passed as empty; `screens` lists the arrays in the
screen stores (R164); `calEpochs` and `placeEpochs` run from the newest. -/
structure Mill where
  slices     : Vector Slice 32 := Vector.replicate 32 {}
  pairs      : Vector MilPair 16 := ⟨((List.range 16).map fun k => ({ a := k, b := 16 + k } : MilPair)).toArray, rfl⟩
  band       : Vector (List BandSlot) 2 := Vector.replicate 2 []
  redecode   : List Redecode := []
  recipes    : List Recipe := []
  nextLine   : Nat := 0
  lines      : List LineSlot := []
  depth      : Nat := 1024
  log        : List WbEntry := []
  halted     : Bool := false
  lost       : Vector Bool 2 := Vector.replicate 2 false
  thinning   : Bool := false
  sparesOut  : Vector Bool 2 := Vector.replicate 2 false
  calEpoch   : Nat := 0
  calEpochs  : List Epoch := []
  calPend    : List (Nat × List Byte) := []
  placeEpoch : Nat := 0
  placeEpochs : List Epoch := []
  placePend  : List (Nat × List Byte) := []
  placeDue   : Bool := false
  retired    : List Retired := []
  uncovered  : List (Nat × Nat) := []
  screens    : List ((Nat × Nat) × List Byte) := []
  corrupt    : List (Nat × Nat) := []
  learn      : Option Learn := none
  live       : Nat := 0
  tracked    : List (Nat × Nat) := []
  liveRows   : List LiveRow := []
  deriving DecidableEq, Repr
/-! ### Serial lanes (R266 to R290) -/

/-- The states of a lane, coded 0 to 5 (R273, R288). -/
inductive LaneState where
  | idle | wake | hunt | adapt | probe | up
  deriving DecidableEq, Repr

/-- One serial lane (R273 to R288). Latencies are in units of 0.1 ns. `losses` and `hdrs` hold the moments that R284 counts; `alone` says that it is
never used again by its function (R286). -/
structure Lane where
  state    : LaneState := .idle
  fast     : Bool := true
  ser1     : Bool := false
  marginal : Bool := false
  fom      : Nat := 0
  fomLow   : Nat := 1023
  ctle     : Nat := 0
  gain     : Nat := 0
  dfe      : List Int := [0, 0, 0, 0, 0, 0]
  lockN    : Nat := 0
  lossN    : Nat := 0
  badHdrs  : Nat := 0
  unknown  : Nat := 0
  errMsgs  : Nat := 0
  lambda   : Nat := 0
  nextLam  : Option Nat := none
  upSec    : Nat := 0
  sent     : Nat := 0
  sentAt   : Nat := 0
  asked    : List Nat := []
  answers  : List Nat := []
  kept     : Bool := false
  lostAt   : Option Nat := none
  lossAt   : List Nat := []
  hdrAt    : List (Nat × Nat) := []
  lowFrom  : Option Nat := none
  margFrom : Option Nat := none
  failing  : Bool := false
  alone    : Bool := false
  covers   : Option Nat := none
  spare    : Option Nat := none
  out      : Bool := false
  huntAt   : Nat := 0
  farHead  : Option W64 := none
  farNode  : Option (Nat × Nat × Nat) := none
  loopCid  : Nat := 0
  annAt    : Nat := 0
  deriving DecidableEq, Repr

/-- The lanes at reset: each quad on its reference (R267). -/
def Lane.bank : Vector Lane 36 :=
  ⟨((List.range 36).map fun n => ({ ser1 := n / 4 % 2 = 1 } : Lane)).toArray, rfl⟩

/-- The lanes, the references that have failed and the moment each was last bad (R268), and the moves of each Urara port in progress with the
number of the last (R287). -/
structure Lanes where
  lane   : Vector Lane 36 := Lane.bank
  failed : Vector Bool 2 := Vector.replicate 2 false
  moveN  : Vector Nat 4 := Vector.replicate 4 0
  moving : List (Nat × Nat × Nat) := []
  deriving DecidableEq, Repr
/-! ### Stalls (R222 to R265) -/

/-- A line frame or spit frame from its decision to its end (R225, R226, R236): the boundary it fires, what its header and sections say, the source lines it
was built from, the products with a nonzero code on it, the flags that its reductions and folds give, and how far it has come: the number it was last sent under, whether an ACK arrived, t_F, the moment
its fire block left. -/
structure Frame where
  line     : Nat := 0
  fold     : Bool := false
  spit     : Bool := false
  job      : Nat := 0
  bank     : Bool := false
  pulse    : List W64 := []
  delay    : List W64 := []
  rowBank  : Nat := 0
  words    : List (BitVec 72) := []
  sources  : List Nat := []
  products : List Nat := []
  flags    : List (Nat × Nat) := []
  seq      : Option Nat := none
  acked    : Bool := false
  fireAt   : Option Nat := none
  firedAt  : Option Nat := none
  deriving DecidableEq, Repr

/-- The load of one row's unused delay bank (R242): the `fine` values, how many have been sent, and the first line of their epoch once it has committed. -/
structure BankLoad where
  row   : Nat := 0
  fines : List Nat := []
  sent  : Nat := 0
  start : Option Nat := none
  deriving DecidableEq, Repr

/-- A spit cycle of a Stall (R257): channels still to fire, fires left of the first, the moment of the last fire, the open drop window (its bounds and
channel) and whether a drop was seen in it, and the totals. -/
structure Spit where
  cid     : Nat := 0
  cls     : Nat := 0
  check   : Bool := false
  fires   : Nat := 0
  todo    : List Nat := []
  left    : Nat := 0
  last    : Option Nat := none
  window  : Option (Nat × Nat × Nat) := none
  drop    : Bool := false
  checked : Nat := 0
  retired : Nat := 0
  ended   : Bool := false
  deriving DecidableEq, Repr

/-- The settings of STALL_CONFIG and DUTY_LIMITS (R222, R247). -/
structure StallCfg where
  fast       : Bool := false
  check      : Nat := 0
  ogMask     : Nat := 0
  ogFalling  : Bool := false
  rate       : Nat := 1
  tReduce    : Int := 0
  tAbs       : Int := 0
  vppMin     : Nat := 0
  vppMax     : Nat := 0
  ogDelay    : Nat := 0
  ogWidth    : Nat := 0
  elemWindow : Nat := 1000
  elemPct    : Nat := 85
  headWindow : Nat := 100000
  headPct    : Nat := 60
  deriving DecidableEq, Repr

/-- One Stall: its rows and settings, the STALL_CONFIG that waits (R223), what the head station reported, the permit with its conditions (R261) and the moment a
withdrawal is due (R262), grid indices and pulse bank (R245, R246), `seq`, frames, the read-out buffer (R235), timing (R238, R239), W of each row
(R178), delay banks (R242), duty accounts in buckets (R248, R249), the records of the element checks, the counts of R264. -/
structure Stall where
  enable   : Bool := false
  rows     : List GeomRow := []
  spares   : List GeomRow := []
  cfg      : StallCfg := {}
  waitCid  : Nat := 0
  waitAt   : Nat := 0
  headId   : Option W64 := none
  identNew : Bool := false
  temps    : List Nat := List.replicate 17 0x8000
  vpp      : Nat := 0
  hot      : Nat := 0
  zonesHot : Nat := 0
  granted  : Bool := false
  faultLat : Bool := false
  identLat : Bool := false
  overLat  : Bool := false
  vppBad   : Bool := false
  vppSince : Option Nat := none
  permit   : Bool := false
  withdraw : Option Nat := none
  lineEnd  : Nat := 0
  ti       : Nat := 0
  vi       : Nat := 0
  bank     : Bool := false
  pulseDue : Bool := false
  seq      : Nat := 0
  cfgSeq   : Option Nat := none
  lastAck  : Nat := 0
  missRun  : Nat := 0
  frames   : List Frame := []
  builtTo  : Nat := 0
  buffer   : List (Nat × List (BitVec 72)) := []
  missed   : List Nat := []
  late     : List Nat := []
  absorbed : Option Nat := none
  tPrev    : Option Nat := none
  ws       : List Nat := []
  rowBank  : Nat := 0
  fines    : List (Nat × List Nat) := []
  loads    : List BankLoad := []
  fires    : List (Nat × List Nat) := []
  energy   : List (Nat × Nat) := []
  spit     : Option Spit := none
  spitN    : Nat := 0
  noDrop   : List Nat := []
  badRes   : List Nat := []
  drives   : List (Nat × Nat) := []
  counts   : Vector Nat 8 := Vector.replicate 8 0
  unknown  : Nat := 0
  deriving DecidableEq, Repr
/-! ### The Tally (R291 to R320) -/

/-- One element of a template (R294); a source stream of 31 is the template's own. -/
inductive Element where
  | literal (bytes : List Byte)
  | serial (hex : Bool) (digits src : Nat)
  | calendar (which maxLen : Nat)
  | auth (decimal : Bool) (src : Nat)
  | separator
  | check (n : Nat)
  deriving DecidableEq, Repr

/-- A font (R296): its Well address, height, the advance and bitmap offset of every glyph, and its bytes. -/
structure Font where
  addr   : Nat := 0
  height : Nat := 0
  glyphs : List (Nat × Nat) := []
  bytes  : List Byte := []
  deriving DecidableEq, Repr

/-- A template (R293). -/
structure Template where
  attr      : W64 := 0
  dx        : Nat := 0
  oy        : Nat := 0
  symbology : Nat := 0
  rotation  : Nat := 0
  modX      : Nat := 0
  modY      : Nat := 0
  size      : Nat := 0
  qrEcc     : Nat := 0
  qrMask    : Nat := 0
  aux       : Nat := 0
  elements  : List Element := []
  deriving DecidableEq, Repr

/-- A manifest (R318, R319): its number once it has closed, its records, the counts of their final states, the issue parts in record order, the
MANIFEST_CLOSE commands that wait for it, and the moment it opened in elapsed local time. -/
structure Manifest where
  num       : Nat := 0
  stream    : Nat := 0
  pool      : Nat := 0
  byCmd     : Bool := false
  openAt    : Nat := 0
  closeAt   : Nat := 0
  records   : List Nat := []
  verified  : Nat := 0
  voided    : Nat := 0
  unver     : Nat := 0
  abandoned : Nat := 0
  shift     : List Byte := []
  planVer   : Nat := 0
  issues    : List Byte := []
  cids      : List Nat := []
  moment    : Nat := 0
  deriving DecidableEq, Repr

/-- One code stream (R291, R292). `shift` is the shift string of its previous product, once it has `issued` one (R318); `ahead` holds the
serials computed ahead of need, each with its index (R300). -/
structure Stream where
  template : Option Template := none
  font     : Option Font := none
  pool     : Nat := 0
  held     : Bool := false
  man      : Option Manifest := none
  shift    : List Byte := []
  issued   : Bool := false
  ahead    : List (Nat × Nat) := []
  deriving DecidableEq, Repr

/-- One grant (R298) and its use: the claimed sub-block with its next index, the lowest sub-block not yet claimed by this
unit, the indices issued or abandoned, and whether it may serve issue (R300, R301). -/
structure Grant where
  words     : List W64 := []
  no        : Nat := 0
  base      : Nat := 0
  count     : Nat := 0
  subLog2   : Nat := 0
  ff1Key    : Nat := 0
  authKey   : Nat := 0
  tweak     : Nat := 0
  unit0     : Nat := 0
  unit1     : Nat := 0
  notBefore : Nat := 0
  notAfter  : Nat := 0
  lineId    : Nat := 0
  ready     : Bool := true
  readyAt   : Nat := 0
  claim     : Option Nat := none
  nextK     : Nat := 0
  nextSub   : Nat := 0
  used      : Nat := 0
  peerSubs  : List Nat := []
  deriving DecidableEq, Repr

/-- One pool (R299, R301). -/
structure Pool where
  id      : Nat := 0
  lastNo  : Nat := 0
  grants  : List Grant := []
  lowSent : Bool := false
  deriving DecidableEq, Repr

/-- One entry of the calendar plan (R304). -/
structure CalEntry where
  start  : Nat := 0
  stop   : Nat := 0
  date   : List Byte := []
  expiry : List Byte := []
  shift  : List Byte := []
  batch  : List Byte := []
  deriving DecidableEq, Repr

/-- A calendar plan. -/
structure Plan where
  ver     : Nat := 0
  crc     : Nat := 0
  entries : List CalEntry := []
  deriving DecidableEq, Repr

/-- The final part of a record (R308): 1 verified, 2 void, 3 closed unverified. -/
structure FinalPart where
  kind   : Nat := 0
  reason : Nat := 0
  grade  : Nat := 0xFF
  fault  : Nat := 0
  secs   : Nat := 0
  deriving DecidableEq, Repr

/-- One journal record (R308) with what its template fixed at issue: the overlay's lines and columns. `local_` and `peer` are the masks of
the parts durable here and at the peer; `sent` the mask of the parts in exported blocks; `outcome` is where its verification
stands: 0 not ended, 1 matched, 2 ended unverified. -/
structure Rec where
  num       : Nat := 0
  product   : Nat := 0
  pool      : Nat := 0
  stream    : Nat := 0
  unit      : Nat := 0
  bothLead  : Bool := false
  symbology : Nat := 0
  serial    : Nat := 0
  index     : Nat := 0
  issueAt   : Nat := 0
  calEntry  : Nat := 0
  job       : Nat := 0
  planVer   : Nat := 0
  auth      : Nat := 0
  content   : Nat := 0
  data      : List Byte := []
  firstLine : Nat := 0
  lastLine  : Nat := 0
  firedLine : Option Nat := none
  final     : Option FinalPart := none
  local_    : Nat := 0
  peer      : Nat := 0
  sent      : Nat := 0
  durable   : Bool := false
  slot      : Option Nat := none
  outcome   : Nat := 0
  grade     : Nat := 0xFF
  damaged   : Bool := false
  deriving DecidableEq, Repr

/-- One closed record block (R313 to R316): its sequence, decompressed bytes, Sheaf bytes, the (record, part) pairs in it, the moment it was last sent on
Ethernet, the masks of the rings it was given to and of the ports that acknowledged it, and whether it counts as exported. -/
structure RecBlock where
  seq    : Nat := 0
  parts  : List (Nat × Nat) := []
  sheaf  : List Byte := []
  sentAt : Nat := 0
  rings  : Nat := 0
  acked  : Nat := 0
  done   : Bool := false
  deriving DecidableEq, Repr

/-- The Tally: streams, pools, every range ever accepted (R299), the plans from the newest, each with the moment it rules from (R304), the journal,
the overlay slots held (slot, record), the entries that wait for a block with the moment of the first, the closed blocks, the
manifests closed and not yet exported, and each MANIFEST_CLOSE that waits with the last number it closed. -/
structure Tally where
  streams   : Vector Stream 16 := Vector.replicate 16 {}
  pools     : List Pool := []
  ranges    : List (Nat × Nat) := []
  plans     : List (Nat × Plan) := []
  nextRec   : Nat := 0
  journal   : List Rec := []
  highSent  : Bool := false
  slots     : List (Nat × Nat) := []
  dispTop   : Nat := 0
  blockSeq  : Nat := 0
  entries   : List (List Byte × List (Nat × Nat)) := []
  blockAt   : Nat := 0
  prevHash  : List Byte := []
  blocks    : List RecBlock := []
  nextMan   : Nat := 0
  closed    : List Manifest := []
  closing   : List (Nat × Nat) := []
  deriving DecidableEq, Repr
/-! ### Vision (R321 to R344) -/

/-- One setting set (R325): exposure in ns, gains in 1/256, its command, and the frame it applies to once it is written. -/
structure SetReq where
  id    : Nat := 0
  exp   : Nat := 0
  gain  : Nat := 0
  dgain : Nat := 0
  cid   : Nat := 0
  apply : Option Nat := none
  deriving DecidableEq, Repr

/-- A frame from its FS on (R327): its set with exposure and digital gain (none for set 0), its flags, the FS stamp in device time and in elapsed time, the moment of its FE, L_m in 1/64 line once it is known, the raw
rows, and, once the pipeline is done, its channels. -/
structure VisFrame where
  sensor    : Nat := 0
  frame     : Nat := 0
  setId     : Nat := 0
  set       : Option (Nat × Nat) := none
  truncated : Bool := false
  long      : Bool := false
  damaged   : Bool := false
  fs16      : Nat := 0
  fsAt      : Nat := 0
  feAt      : Nat := 0
  lm        : Int := 0
  raw       : List (List Nat) := []
  chans     : List (List (List Nat)) := []
  done      : Bool := false
  deriving DecidableEq, Repr

/-- One sensor (R323, R324): its configuration, its profile, the frames started, the setting sets that wait or apply with the ones passed over removed, the frame
in progress. -/
structure Sensor where
  on        : Bool := false
  rx        : Nat := 0
  vc        : Nat := 0
  raw12     : Bool := false
  pattern   : Nat := 0
  k         : Nat := 1
  flipX     : Bool := false
  flipY     : Bool := false
  width     : Nat := 0
  height    : Nat := 0
  tracks    : Nat := 0
  camOffset : Nat := 0
  rowPitch  : Nat := 0
  colOrigin : Int := 0
  colPitch  : Nat := 0
  fsOffset  : Int := 0
  gpio      : Nat := 31
  trigLines : Nat := 0
  profile   : List W64 := []
  frames    : Nat := 0
  sets      : List SetReq := []
  cur       : Option VisFrame := none
  deriving DecidableEq, Repr

/-- The settings of VERIFY_CONFIG with their defaults (R336). -/
structure VerifyCfg where
  gradeMin       : Nat := 20
  maxImages      : Nat := 2
  ocvMin         : Nat := 80
  regMin         : Nat := 2048
  search         : Nat := 16
  dotMin         : Nat := 400
  channels       : Nat := 0
  streakClass    : Nat := 4
  streakDepth    : Nat := 30
  streakLines    : Nat := 64
  streakProducts : Nat := 8
  results        : Bool := true
  stats          : Bool := false
  failImages     : Bool := false
  deriving DecidableEq, Repr

/-- One image of a code in the verification queue, with its result once it is graded (R338). -/
structure VerImage where
  sensor : Nat := 0
  frame  : Nat := 0
  result : Option ImageResult := none
  deriving DecidableEq, Repr

/-- The verification of one code (R335 to R339): its record, its region (columns in design pixels and lines), the moment it was fired, the settings that rule it from its
first image, its images, the covering frames not used with the last one's cause, and the sensors that may still cover it. -/
structure Verify where
  rec_    : Nat := 0
  product : Nat := 0
  track   : Nat := 0
  x0      : Nat := 0
  x1      : Nat := 0
  y0      : Nat := 0
  y1      : Nat := 0
  firedAt : Nat := 0
  cfg     : Option VerifyCfg := none
  images  : List VerImage := []
  refused : Nat := 0
  cause   : Nat := 0
  sensors : List Nat := []
  deriving DecidableEq, Repr

/-- An IMAGE_CAPTURE in progress (R342): frames left. -/
structure Capture where
  cid    : Nat := 0
  sensor : Nat := 0
  ring   : Nat := 0
  left   : Nat := 0
  deriving DecidableEq, Repr

/-- The streak record of one element (R341): the product being judged, its latest counted fires, whether it was streaking in it, and the consecutive products before. -/
structure Streak where
  stall   : Nat := 0
  chan    : Nat := 0
  product : Nat := 0
  weak    : List Bool := []
  hit     : Bool := false
  run     : Nat := 0
  deriving DecidableEq, Repr

/-- Vision: sensors, settings, trigger pulses by GPIO, the frames kept, the codes under verification, captures, streak records, the reports sent once per activation
(streams without a camera, sensor and plane without streak detection), the moments of the verifications completed in the last second, and the counts of packets and units discarded. -/
structure Vision where
  sensors  : Vector Sensor 8 := Vector.replicate 8 {}
  cfg      : VerifyCfg := {}
  pulses   : Vector (Option Nat) 16 := Vector.replicate 16 none
  frames   : List VisFrame := []
  codes    : List Verify := []
  captures : List Capture := []
  streaks  : List Streak := []
  noCam    : List Nat := []
  noStreak : List (Nat × Nat) := []
  verAt    : List Nat := []
  packets  : Nat := 0
  unmade   : Nat := 0
  deriving DecidableEq, Repr

/-! ### Device time (R345 to R370) -/

/-- The states of the device clock, coded 0 to 4 (R346, R366). -/
inductive ClockState where
  | free | kept | settling | locked | holdover
  deriving DecidableEq, Repr

/-- The states of a tracked domain, coded 0 to 5 (R355, R366). -/
inductive DomState where
  | off | listen | acquire | locked | frozen | faulty
  deriving DecidableEq, Repr

/-- One tracked PTP domain. Stamps, offsets and delays are in picoseconds; `offset` is the master's time minus device time, `model` the servo's prediction of it. -/
structure PtpDom where
  enable     : Bool := false
  port       : Nat := 0
  transport  : Nat := 1
  domNumber  : Nat := 0
  asym       : Int := 0
  state      : DomState := .off
  syncSeq    : Option Nat := none
  syncIn     : Int := 0
  syncCorr   : Int := 0
  t1         : Int := 0
  t2         : Int := 0
  haveSync   : Bool := false
  haveModel  : Bool := false
  reqSeq     : Option Nat := none
  reqOut     : Int := 0
  delays     : List Int := []
  offset     : Int := 0
  model      : Int := 0
  rate       : Int := 0
  good       : Nat := 0
  lastSample : Nat := 0
  agreeFrom  : Option Nat := none
  lockedFrom : Option Nat := none
  frozenAt   : Nat := 0
  deriving DecidableEq, Repr

/-- One PPS input (R362, R363). -/
structure PpsIn where
  enable  : Bool := false
  falling : Bool := false
  arbiter : Bool := false
  inDelay : Nat := 0
  locked  : Bool := false
  edges   : Nat := 0
  last    : Option Nat := none
  phase   : Int := 0
  deriving DecidableEq, Repr

/-- One PPS output (R362, R364). `pulse` is the pulse in progress; `driven` is the output driven at all (R529). -/
structure PpsOut where
  enable    : Bool := false
  activeLow : Bool := false
  width     : Nat := 100000
  adv       : Int := 0
  pulse     : Bool := false
  started   : Nat := 0
  driven    : Bool := false
  deriving DecidableEq, Repr

/-- The parameters of PTP_CONFIG that no domain owns (R354). -/
structure PtpCfg where
  jumpLimit   : Nat := 1000
  agree       : Nat := 10
  xcheck      : Nat := 2000
  guard       : Nat := 10
  delayStep   : Nat := 200
  lockThr     : Nat := 1000
  errAlarm    : Nat := 100
  autoSet     : Bool := true
  loopBw      : Nat := 10
  ingress     : Vector Nat 2 := Vector.replicate 2 0
  egress      : Vector Nat 2 := Vector.replicate 2 0
  utcOffset   : Int := 37
  utcAnnounce : Bool := true
  deriving DecidableEq, Repr

/-- The device clock. `acc` is device time in 2⁻⁴⁸ ns, `rho` the rate correction in 2⁻⁴⁸ (R345); the
error bound is `errBase` grown by 1 µs for each second since `errFrom` where `errGrows` (R360). -/
structure Clock where
  acc       : Nat := 0
  rho       : Int := 0
  savedRho  : Int := 0
  floor     : Option Nat := none
  state     : ClockState := .free
  followed  : Option (Fin 2) := none
  preferred : Fin 2 := 0
  stepped   : Bool := false
  stepOver  : Bool := false
  ppsDisc   : Bool := false
  errAll    : Bool := true
  errBase   : Nat := 0
  errFrom   : Nat := 0
  errGrows  : Bool := false
  errRaise  : Nat := 0
  errHigh   : Bool := false
  clamped   : Bool := false
  rhoAt     : Nat := 0
  rhoHist   : List (Nat × Int) := []
  floorAt   : Nat := 0
  floorUtc  : Int := 37
  disagree  : Option Nat := none
  disSent   : Bool := false
  setAtPps  : Option (Nat × Nat) := none
  deriving DecidableEq, Repr

/-- UTC keeping (R351). -/
structure Utc where
  offset : Int := 37
  leap61 : Bool := false
  leap59 : Bool := false
  leapAt : Nat := 0
  heard  : Bool := false
  deriving DecidableEq, Repr

/-- The time unit: the clock, its configuration, the two domains, the PPS balls. -/
structure Time where
  clk  : Clock := {}
  cfg  : PtpCfg := {}
  utc  : Utc := {}
  doms : Vector PtpDom 2 := Vector.replicate 2 {}
  ins  : Vector PpsIn 2 := Vector.replicate 2 {}
  outs : Vector PpsOut 2 := Vector.replicate 2 {}
  deriving DecidableEq, Repr
/-! ### The Urara link (R371 to R383) -/

/-- One entry of the route table (R378). -/
structure Route where
  node : Nat := 0
  port : Nat := 0
  hops : Nat := 0
  deriving DecidableEq, Repr

/-- One remote trigger entry of TOPOLOGY (R371). -/
structure Remote where
  local_ : Nat := 0
  enable : Bool := false
  node   : Nat := 0
  input  : Nat := 0
  deriving DecidableEq, Repr

/-- One packet between its origin and its lane (R374). -/
structure Packet where
  dest  : Nat := 0
  src   : Nat := 0
  cls   : Nat := 0
  hops  : Nat := 0
  eseq  : Nat := 0
  type  : Nat := 0
  words : List W64 := []
  deriving DecidableEq, Repr

/-- The link layer of one lane (R376, R377): the next `lseq`, the replay buffer with the times each packet was resent, the packets that wait, the `lseq`
expected, whether an LNAK stands, and the moment of the last packet sent. -/
structure LinkLane where
  lseq    : Nat := 0
  sent    : List (Nat × Nat × Packet) := []
  waiting : List Packet := []
  expect  : Nat := 0
  naked   : Bool := false
  lastTx  : Nat := 0
  deriving DecidableEq, Repr

/-- The Urara link: TOPOLOGY (R371), the TOPOLOGY commands that wait with the moments of their acceptance, the route table, the lanes, end-to-end sequences by destination and class, the copies
of broadcasts already seen (R379), node IDs announced with their serials and the conflict (R373), the moment each port went down, packets delivered and not yet taken
by the step of their type, and the counts of packets discarded and of unknown types. -/
structure Urara where
  topology   : Nat := 0
  ports      : Nat := 0
  upPort     : Nat := 0
  trigAllow  : Nat := 0
  timeSource : Nat := 0
  timeDom1   : Bool := false
  remotes    : List Remote := []
  topos      : List (Nat × Nat) := []
  routes     : List Route := []
  links      : Vector LinkLane 8 := Vector.replicate 8 {}
  eseqs      : List ((Nat × Nat) × Nat) := []
  seen       : List (Nat × Nat) := []
  announced  : List (Nat × Nat) := []
  conflict   : Bool := false
  downAt     : Vector (Option Nat) 4 := Vector.replicate 4 none
  fullAt     : Nat := 0
  inbox      : List (Nat × Nat × List W64) := []
  dropped    : Nat := 0
  unknown    : Nat := 0
  deriving DecidableEq, Repr
/-! ### Twin pairs (R384 to R405) -/

/-- The roles of a unit, coded 0 to 6 (R386). -/
inductive TwinRole where
  | unbound | lead | synced | copying | isolated | yielded | solo
  deriving DecidableEq, Repr

/-- A detect edge of a standby that waits for the lead's event (R388): input, detect line, stamp, moment, and the matching event seen. -/
structure TwinEdge where
  input : Nat := 0
  line  : Nat := 0
  stamp : Nat := 0
  moment : Nat := 0
  matched : Bool := false
  deriving DecidableEq, Repr

/-- An epoch on its way through a pair (R391): its number, whether it is a placement epoch, the changed items, this unit's lowest undispatched line plus
16, and the line it commits at. -/
structure TwinEpoch where
  num       : Nat := 0
  placement : Bool := false
  items     : List (Nat × List Byte) := []
  stop      : Nat := 0
  line      : Option Nat := none
  deriving DecidableEq, Repr

/-- One line's digests (R392): own and the peer's dose digest with the recipe digest, the moment of the own one, the own `fault` bit, whether they
differ, and the peer's `fault` bit once its CHECK is here (R393). -/
structure LineDigest where
  line   : Nat := 0
  own    : Option (Nat × Nat) := none
  peer   : Option (Nat × Nat) := none
  ownAt  : Nat := 0
  fault  : Bool := false
  mism   : Bool := false
  check  : Option Bool := none
  deriving DecidableEq, Repr

/-- The twin unit: the binding, the role, the lease, the witness, replication, the copy, comparison and the figures of R404. Moments are in
nanoseconds of elapsed local time. -/
structure Twin where
  bound     : Bool := false
  bindCid   : Nat := 0
  peer      : Nat := 0
  peerSerial : Nat := 0
  map       : Nat := 0
  witOut    : Nat := 0
  witIn     : Nat := 0
  unit      : Nat := 0
  role      : TwinRole := .unbound
  renewN    : Nat := 0
  renewAt   : Nat := 0
  renewals  : List (Nat × Nat) := []
  leaseEnd  : Nat := 0
  leaseOut  : Bool := false
  outAt     : Nat := 0
  leaseFrom : Nat := 0
  denied    : Bool := false
  bothEnd   : Nat := 0
  bothLead  : Bool := false
  witLevel  : Bool := false
  witAt     : Nat := 0
  witSilent : Bool := false
  witTog    : Nat := 0
  peerSynced : Bool := false
  yieldDue  : Bool := false
  yieldCid  : Nat := 0
  yieldCode : Nat := 0
  handing   : Bool := false
  replSeq   : Nat := 1
  replOut   : List (Nat × LWrite) := []
  replHigh  : Nat := 0
  ackDue    : List (LWrite × Nat) := []
  aligned   : Bool := false
  edges     : List TwinEdge := []
  digests   : List LineDigest := []
  suspects  : List Nat := []
  firers    : List (Nat × Nat) := []
  charges   : List Nat := []
  peerCharges : List Nat := []
  epoch     : Option TwinEpoch := none
  epochNum  : Nat := 0
  lastFe    : Nat := 0
  copy      : Nat := 0
  progress  : Nat := 0
  copyFault : Nat := 0
  copying   : Bool := false
  copyAt    : Nat := 0
  retryAt   : Nat := 0
  digestMis : Nat := 0
  suspectN  : Nat := 0
  yields    : Nat := 0
  takeovers : Nat := 0
  windows   : Nat := 0
  isolations : Nat := 0
  slips     : Nat := 0
  lateDig   : Nat := 0
  latency   : Nat := 0
  clockDiff : Int := 0
  diffSent  : Bool := false
  deriving DecidableEq, Repr
/-! ### The Krynto core (R406 to R441) -/

/-- A persistent key (R406, R417): kind 2 an FF1 key, kind 3 a line key. A key whose records fail is unusable (R482). -/
structure KeyEntry where
  id   : Nat := 0
  kind : Nat := 0
  key  : List Byte := []
  bad  : Bool := false
  deriving DecidableEq, Repr

/-- A job key (R417, R428); `notAfter` is in UTC seconds, 0 for none. -/
structure JobKey where
  job      : Nat := 0
  handle   : Nat := 0
  key      : List Byte := []
  notAfter : Nat := 0
  deriving DecidableEq, Repr

/-- A role credential (R417 to R419): `key` is none for the delivery role key; consecutive failed proofs, locks so far and the moment the present lock
ends (R426). -/
structure Cred where
  role  : Role := .owner
  slot  : Nat := 0
  key   : Option (List Byte) := none
  fails : Nat := 0
  locks : Nat := 0
  lock  : Option Nat := none
  deriving DecidableEq, Repr

/-- An image slot of the xSPI flash: whether it is marked empty (R413), and the header of the image in it as last verified. -/
structure ImgSlot where
  empty  : Bool := false
  header : List Byte := []
  deriving DecidableEq, Repr

/-- An image on its way to a slot (R413). -/
structure Staging where
  cid    : Nat := 0
  slot   : Fin 2 := 0
  ring   : Nat := 0
  header : List Byte := []
  deriving DecidableEq, Repr

/-- One entry of the tamper log (R434). -/
structure TamperEntry where
  cause : Nat := 0
  secs  : Nat := 0
  ns    : Nat := 0
  deriving DecidableEq, Repr

/-- The Krynto core: keys and credentials, the ownership record (certificates none for Fjarow's delivery certificates), fuses (rollback counters, root
revocation), image slots, the AON zeroise latch with the moment it was set, whether the identity keys are held, the tamper log newest first, the approved mode and
the self-tests, the hold of R430 since its moment and the moments of the latest holds, the moments of the last known-answer tests and of the
last reseed, and the requests of the DRBG since (R435). -/
structure Krynto where
  keys     : List KeyEntry := []
  jobKeys  : List JobKey := []
  creds    : List Cred := [{}]
  certs    : Option (List Byte × List Byte) := none
  policy   : Nat := 1
  transfer : Nat := 0
  pkgNo    : Nat := 0
  rollback : Vector Nat 64 := Vector.replicate 64 0
  revoked  : Nat := 0
  images   : Vector ImgSlot 2 := Vector.replicate 2 {}
  staging  : Option Staging := none
  latch    : Option Nat := none
  identity : Bool := true
  log      : List TamperEntry := []
  approved : Bool := false
  tested   : Bool := false
  hold     : Option Nat := none
  holds    : List Nat := []
  katAt    : Nat := 0
  reseedAt : Nat := 0
  requests : Nat := 0
  deriving DecidableEq, Repr
/-! ### Check units (R442 to R453) -/

/-- The settings of a check unit (R443, R447); `fixed` is the algorithm of the fall-back engine (R444). -/
structure CheckCfg where
  width  : Nat := 32
  refin  : Bool := true
  refout : Bool := true
  poly   : Nat := 0x1EDC6F41
  init   : Nat := 0xFFFFFFFF
  xorout : Nat := 0xFFFFFFFF
  fixed  : Nat := 0
  deriving DecidableEq, Repr

/-- One check unit: settings, the check value of "123456789" found at load, the failed mark, and the counters of R452. -/
structure CheckUnit where
  cfg       : CheckCfg := {}
  loadValue : Nat := 0xE3069283
  failed    : Bool := false
  bytes     : Nat := 0
  verifies  : Nat := 0
  mismatch  : Nat := 0
  selfFails : Nat := 0
  served    : Nat := 0
  lastMis   : Nat := 0
  evSec     : Nat := 0
  evCount   : Nat := 0
  deriving DecidableEq, Repr

/-- One scan of a Well range in progress (R446, R449). -/
structure Scan where
  cid  : Nat := 0
  unit : Fin 5 := 0
  addr : Nat := 0
  len  : Nat := 0
  deriving DecidableEq, Repr

/-- The four algorithms of R444, which are also the delivery settings of units 0, 2, 3 and 1 (R442). -/
def CheckCfg.crc32c : CheckCfg := {}
/-- CRC-32/ISO-HDLC (R444). -/
def CheckCfg.crc32 : CheckCfg := { poly := 0x04C11DB7 }
/-- CRC-16/IBM-3740 (R444). -/
def CheckCfg.crc16 : CheckCfg :=
  { width := 16, refin := false, refout := false, poly := 0x1021, init := 0xFFFF, xorout := 0 }
/-- CRC-64/XZ (R444). -/
def CheckCfg.crc64 : CheckCfg :=
  { width := 64, poly := 0x42F0E1EBA9EA3693, init := 0xFFFFFFFFFFFFFFFF, xorout := 0xFFFFFFFFFFFFFFFF }

/-- The check units and the scans. -/
structure Checks where
  units : Vector CheckUnit 5 := ⟨#[{}, { cfg := CheckCfg.crc64, loadValue := 0x995DC9BBDF1939FA },
    { cfg := CheckCfg.crc32, loadValue := 0xCBF43926 }, { cfg := CheckCfg.crc16, loadValue := 0x29B1 }, {}], rfl⟩
  scans : List Scan := []
  deriving DecidableEq, Repr
/-! ### The Well (R454 to R478) -/

/-- What one channel of the Well keeps (R459 to R477), per rank where a pair: refresh doubled, normal readings in a row, a device above its range, refreshes postponed, the
moves of each lane since training, lanes reported for drift; the state (0 training, 1 serving, 2 self-refresh, 3 powered down), the last ZQ calibration and the counters of R477. -/
structure WellChan where
  state     : Nat := 3
  doubled   : Vector Bool 2 := Vector.replicate 2 false
  normal    : Vector Nat 2 := Vector.replicate 2 0
  hot       : Vector Bool 2 := Vector.replicate 2 false
  postponed : Vector Nat 2 := Vector.replicate 2 0
  moves     : Vector (List Int) 2 := Vector.replicate 2 []
  drifted   : Vector (List Nat) 2 := Vector.replicate 2 []
  trackDue  : Bool := false
  zqAt      : Nat := 0
  corrected : Nat := 0
  uncorr    : Nat := 0
  poisonW   : Nat := 0
  srEntries : Nat := 0
  deriving DecidableEq, Repr

/-- The corrected errors of one row of one device (R472): the scrub passes they appeared in and the moments they arose at. -/
structure RowErrors where
  row    : DramRow := { ch := 0, rank := 0, bg := 0, bank := 0, row := 0, dev := 0 }
  passes : List Nat := []
  times  : List Nat := []
  deriving DecidableEq, Repr

/-- The Well. `mem` lists the bytes that differ from what an unlisted byte reads as; `poison` holds the numbers of the
64-byte bursts that read as uncorrectable (R457). The description of R455 (width x4, density in Gb, ranks, DIMMs, configured rate code), the working rate code and the
highest that is allowed; the channels; patrol scrub; row errors, repair candidates, repairs recorded soft and made hard, the hard repair in progress,
rows left in service for want of resources and devices given up (R472, R473). -/
structure Well where
  bytes    : Nat := 0
  mem      : List Host.Cell := []
  poison   : List Nat := []
  x4       : Bool := true
  density  : Nat := 16
  ranks    : Nat := 1
  dimms    : Bool := true
  cfgRate  : Nat := 7
  rate     : Nat := 0
  maxRate  : Nat := 7
  chans    : Vector WellChan 2 := Vector.replicate 2 {}
  scrubPos : Nat := 0
  passes   : Nat := 0
  rowErrs  : List RowErrors := []
  due      : List DramRow := []
  soft     : List DramRow := []
  hard     : List DramRow := []
  hardNow  : Option DramRow := none
  out      : List DramRow := []
  given    : List (Nat × Nat × Nat) := []
  reduced  : Bool := false
  deriving DecidableEq, Repr
/-! ### Power, boot, resets, temperature (R519 to R540) -/

/-- The cause bits of RESET_CAUSE (R61). -/
inductive ResetCause where
  | cold | warmCmd | resetPin | tamper | watchdog | thermal
  deriving DecidableEq, Repr

/-- One POWER_DOMAIN request in progress (R523): domain index, direction, the moment it was made,
and whether its drain has ended. -/
structure PowerReq where
  cid : Nat := 0
  dom : Nat := 0
  on  : Bool := false
  t0  : Nat := 0
  deriving DecidableEq, Repr

/-- Power domains, boot and reset. `domains` is in the bit order of `domains_on` (R61): AON SEC CPU
NET PCIE DDR0 DDR1 MILL0 MILL1 STL RING VIS. The supply of AON (R520), whether the keeper has kept the time of the last boot, the moment the other rails fell and whether the clock has started in this boot (R347), the level of
RESET_N, the boot stage with the moment it began and whether the lane stage has ended (R85, R275), the cause of the last reset, a power-down notice given (R522), a
loss of power, a junction trip that holds the device (R537), the failed system reference (R533), the instruction of the test access port (R564). -/
structure Power where
  domains    : Vector Bool 12 := ⟨#[true, false, false, false, false, false, false, false, false, false, false, false], rfl⟩
  reqs       : List PowerReq := []
  aonMv      : Nat := 800
  vbat       : Bool := true
  onVbat     : Bool := false
  keeper     : Bool := false
  railsAt    : Option Nat := none
  resetLow   : Bool := true
  stage      : Nat := 0
  stageAt    : Nat := 0
  lanesDone  : Bool := false
  started    : Bool := false
  bootError  : Nat := 0
  ready      : Bool := false
  readySec   : Nat := 0
  cause      : ResetCause := .cold
  noticed    : Bool := false
  powerLost  : Bool := false
  tripHeld   : Bool := false
  refSysLost : Bool := false
  tap        : TapInstr := .idcode
  deriving DecidableEq, Repr

/-- One thermal step of R536: conversions at or above its entry level, below its exit level, and
whether it is in force. -/
structure ThermStep where
  above : Nat := 0
  below : Nat := 0
  on    : Bool := false
  deriving DecidableEq, Repr

/-- The temperature sensors and the thermal record (R535, R536, R539). Readings are in 1/4 °C. -/
structure Thermal where
  temps     : Vector Int 24 := Vector.replicate 24 0
  tj        : Int := 0
  tjSensor  : Nat := 0
  tjMax     : Int := 0
  steps     : Vector ThermStep 3 := Vector.replicate 3 {}
  dramHot   : Bool := false
  shed      : Bool := false
  shedAt    : Nat := 0
  coldSent  : Bool := false
  step2Ns   : Nat := 0
  step3Ns   : Nat := 0
  convAt    : Nat := 0
  trips     : Nat := 0
  lastTrip  : Nat := 0
  saved2    : Nat := 0
  saved3    : Nat := 0
  deriving DecidableEq, Repr

/-! ### Faults (R541 to R551) -/

/-- Fault counts and the device-class faults that are active (R550), with the line and the moment the first of them arose at; what a replay still has to do (R548): whether
it is due, the products detected during the fault that wait for their issue, and the end of the lines that are computed again from their recipes. -/
structure Faults where
  active      : List Nat := []
  since       : Nat := 0
  sinceAt     : Nat := 0
  deviceCount : Nat := 0
  correctable : Nat := 0
  line        : Nat := 0
  product     : Nat := 0
  replayDue   : Bool := false
  replaying   : List Nat := []
  redoTo      : Nat := 0
  deriving DecidableEq, Repr

/-! ### The Crier (R513 to R516) -/

/-- One event record (R513); the time is device time in 2⁻¹⁶ ns. -/
structure Event where
  code   : Nat := 0
  cls    : Nat := 0
  source : Nat := 0
  time   : Nat := 0
  detail : Nat := 0
  deriving DecidableEq, Repr

/-- The Crier: its configuration (R514) and its queue in order of event time (R515). -/
structure Crier where
  mask     : Nat := 0x1F
  ring     : Nat := 3
  ringOn   : Bool := true
  rate     : Nat := 1000
  collect  : Nat := 0
  queue    : List Event := []
  lost     : Nat := 0
  sec      : Nat := 0
  sent     : Vector Nat 5 := Vector.replicate 5 0
  sampleAt : Nat := 0
  deriving DecidableEq, Repr

/-! ### Background work, control cores, firmware (R497 to R518) -/

/-- One background task of R497: the start and the progress (in 1/2³²) of the current pass, the seconds of the last pass completed, passes deferred by
shedding, late reports ever and in this pass, the time of this pass not counted (R499). -/
structure Task where
  started  : Nat := 0
  period   : Nat := 0
  lastPass : Nat := 0
  progress : Nat := 0
  deferred : Nat := 0
  late     : Nat := 0
  running  : Bool := false
  lates    : Nat := 0
  paused   : Nat := 0
  deriving DecidableEq, Repr

/-- One control core (R505, R506). -/
inductive CoreState where
  | lockstep | spare | single | retired
  deriving DecidableEq, Repr

/-- The settings of SCRUB_CONFIG (R468, R498). -/
structure ScrubCfg where
  wellPeriod   : Nat := 24
  srIdle       : Nat := 50
  sramPeriod   : Nat := 60
  ledgerPeriod : Nat := 7
  recalPeriod  : Nat := 30
  testPeriod   : Nat := 60
  bgShare      : Nat := 50
  recalEnable  : Bool := true
  deriving DecidableEq, Repr

/-- One on-chip SRAM array that has repaired or suspect rows (R503): rows remapped, and rows in which a
corrected error was seen, each with the pass it was seen in. -/
structure SramArray where
  array   : Nat := 0
  remaps  : List Nat := []
  seen    : List (Nat × Nat) := []
  outSent : Bool := false
  deriving DecidableEq, Repr

/-- One Granary entry's use (R511, R512): units used, the moments of use and whether the low event was sent. -/
structure GranaryUse where
  kind    : Nat := 0
  inst    : Nat := 0
  uses    : List Nat := []
  lowSent : Bool := false
  deriving DecidableEq, Repr

/-- Where an IMAGE_ACTIVATE stands (R508): accepted, image loaded (t1), intake paused (t2), handed off (t3). -/
inductive ActStage where
  | reading | loaded | paused | handed
  deriving DecidableEq, Repr

/-- The firmware activation in progress. -/
structure Activation where
  cid    : Nat := 0
  slot   : Nat := 0
  stage  : ActStage := .reading
  t1     : Nat := 0
  t2     : Nat := 0
  t3     : Nat := 0
  deriving DecidableEq, Repr

/-- The background scheduler, the cores, the transient takeovers with the mask of the cores that took part and their device seconds, the losses charged to slices by domain with their device seconds (R511), the takeover in progress and its start, firmware activation, the SRAM arrays with the
scrub's pass and position (R503), the last calibration of each silicon instance with those reported as aged and those handled in this pass (R502), the Granary. -/
structure Background where
  tasks     : Vector Task 7 := Vector.replicate 7 {}
  cfg       : ScrubCfg := {}
  cores     : Vector CoreState 3 := ⟨#[.lockstep, .lockstep, .spare], rfl⟩
  transient : List (Nat × Nat) := []
  charges   : List (Nat × Nat) := []
  takeover  : Bool := false
  takeAt    : Nat := 0
  act       : Option Activation := none
  fwSlot    : Nat := 0
  sram      : List SramArray := []
  sramPass  : Nat := 0
  sramPos   : Nat := 0
  aged      : List (Nat × Nat) := []
  uses      : List GranaryUse := []
  calAt     : List ((Nat × Nat) × Nat) := []
  recalDone : List (Nat × Nat) := []
  deriving DecidableEq, Repr
/-! ### The whole block -/

/-- The state of the block. -/
structure State where
  pending : List Instr := []
  now     : Nat := 0
  outbox  : List Emit := []
  fresh   : Nat := 0
  cmd     : Cmd := {}
  bar     : Bar := Bar.atReset
  net     : Vector NetPort 2 := Vector.replicate 2 {}
  time    : Time := {}
  pwr     : Power := {}
  thm     : Thermal := {}
  flt     : Faults := {}
  cri     : Crier := {}
  bgd     : Background := {}
  node    : Nat := 0
  ura     : Urara := {}
  fwVersion : Vector Nat 2 := Vector.replicate 2 0
  vis     : Vision := {}
  well    : Well := {}
  chk     : Checks := {}
  job     : Jobs := {}
  mot     : Motion := {}
  prod    : Products := {}
  led     : Ledger := {}
  tal     : Tally := {}
  twn     : Twin := {}
  kry     : Krynto := {}
  mil     : Mill := {}
  lan     : Lanes := {}
  stl     : Vector Stall 24 := Vector.replicate 24 {}
  deriving DecidableEq, Repr

/-- The block right after reset: power on, RESET_N low, every register at its reset value (R525, R526, R528). -/
def State.reset : State := {}

end Sys2Proof.Machine
end

