-- ==== Sys2Proof/Machine/Codes.lean ====
section
/-!
DEFINITION. The status codes (R546), the fault codes with their classes (R544) and the notices (R516),
and the opcode catalogue (R52, R43, R572).
-/
namespace Sys2Proof.Machine

/-! ### Status codes (R34, R546) -/

/-- BAD_LENGTH (R546). -/
abbrev Status.badLength : Nat := 0x0101
/-- BAD_TEMPLATE (R546). -/
abbrev Status.badTemplate : Nat := 0x010F
/-- BAD_NODE (R546). -/
abbrev Status.badNode : Nat := 0x0102
/-- MISSING_GLYPH (R546). -/
abbrev Status.missingGlyph : Nat := 0x0110
/-- UNKNOWN_OPCODE (R546). -/
abbrev Status.unknownOpcode : Nat := 0x0103
/-- CALENDAR_FIELD (R546). -/
abbrev Status.calendarField : Nat := 0x0111
/-- RESERVED_NONZERO (R546). -/
abbrev Status.reservedNonzero : Nat := 0x0104
/-- GRANT_OVERLAP (R546). -/
abbrev Status.grantOverlap : Nat := 0x0112
/-- PRIORITY_DENIED (R546). -/
abbrev Status.priorityDenied : Nat := 0x0105
/-- GRANT_FORMAT (R546). -/
abbrev Status.grantFormat : Nat := 0x0113
/-- TAG_IN_USE (R546). -/
abbrev Status.tagInUse : Nat := 0x0106
/-- BAD_CALENDAR (R546). -/
abbrev Status.badCalendar : Nat := 0x0114
/-- BAD_PARAMETER (R546). -/
abbrev Status.badParameter : Nat := 0x0107
/-- NO_SUCH_CODE (R546). -/
abbrev Status.noSuchCode : Nat := 0x0115
/-- BAD_RING (R546). -/
abbrev Status.badRing : Nat := 0x0108
/-- BAD_SENSOR_PROFILE (R546). -/
abbrev Status.badSensorProfile : Nat := 0x0116
/-- BAD_JOB (R546). -/
abbrev Status.badJob : Nat := 0x0109
/-- TIME_BACKWARD (R546). -/
abbrev Status.timeBackward : Nat := 0x0117
/-- LINE_PAST (R546). -/
abbrev Status.linePast : Nat := 0x010A
/-- BAD_TOPOLOGY (R546). -/
abbrev Status.badTopology : Nat := 0x0118
/-- BAD_GEOMETRY (R546). -/
abbrev Status.badGeometry : Nat := 0x010B
/-- BAD_PACKAGE (R546). -/
abbrev Status.badPackage : Nat := 0x0119
/-- LANE_RATE_LOW (R546). -/
abbrev Status.laneRateLow : Nat := 0x010C
/-- BAD_KEY_HANDLE (R546). -/
abbrev Status.badKeyHandle : Nat := 0x011A
/-- BAD_CAL_ITEM (R546). -/
abbrev Status.badCalItem : Nat := 0x010D
/-- BAD_CHECK_CONFIG (R546). -/
abbrev Status.badCheckConfig : Nat := 0x011B
/-- BAD_LEARN (R546). -/
abbrev Status.badLearn : Nat := 0x010E
/-- BAD_RANGE (R546). -/
abbrev Status.badRange : Nat := 0x011C
/-- DUPLICATE_SEQUENCE (R546). -/
abbrev Status.duplicateSequence : Nat := 0x0201
/-- CODE_FINAL (R546). -/
abbrev Status.codeFinal : Nat := 0x021A
/-- CANCELLED (R546). -/
abbrev Status.cancelled : Nat := 0x0202
/-- SENSOR_BUSY (R546). -/
abbrev Status.sensorBusy : Nat := 0x021B
/-- NODE_UNREACHABLE (R546). -/
abbrev Status.nodeUnreachable : Nat := 0x0203
/-- TIME_INVALID (R546). -/
abbrev Status.timeInvalid : Nat := 0x021C
/-- NOT_LEAD (R546). -/
abbrev Status.notLead : Nat := 0x0204
/-- TIME_ALREADY_SET (R546). -/
abbrev Status.timeAlreadySet : Nat := 0x021D
/-- DOMAIN_REQUIRED (R546). -/
abbrev Status.domainRequired : Nat := 0x0205
/-- TIME_JOB_ACTIVE (R546). -/
abbrev Status.timeJobActive : Nat := 0x021E
/-- RING_BUSY (R546). -/
abbrev Status.ringBusy : Nat := 0x0206
/-- PPS_NOT_LOCKED (R546). -/
abbrev Status.ppsNotLocked : Nat := 0x021F
/-- JOB_NOT_READY (R546). -/
abbrev Status.jobNotReady : Nat := 0x0207
/-- TIME_NOT_LOCKED (R546). -/
abbrev Status.timeNotLocked : Nat := 0x0220
/-- JOB_ACTIVE (R546). -/
abbrev Status.jobActive : Nat := 0x0208
/-- TIME_NO_AGREE (R546). -/
abbrev Status.timeNoAgree : Nat := 0x0221
/-- GEOMETRY_MISMATCH (R546). -/
abbrev Status.geometryMismatch : Nat := 0x0209
/-- TOPOLOGY_BUSY (R546). -/
abbrev Status.topologyBusy : Nat := 0x0222
/-- MOTION_BUSY (R546). -/
abbrev Status.motionBusy : Nat := 0x020A
/-- NODE_CONFLICT (R546). -/
abbrev Status.nodeConflict : Nat := 0x0223
/-- LEAD_TOO_SHORT (R546). -/
abbrev Status.leadTooShort : Nat := 0x020B
/-- TWIN_BOUND (R546). -/
abbrev Status.twinBound : Nat := 0x0224
/-- SWITCH_PENDING (R546). -/
abbrev Status.switchPending : Nat := 0x020C
/-- TWIN_JOB_ACTIVE (R546). -/
abbrev Status.twinJobActive : Nat := 0x0225
/-- PLACEMENT_CLIP (R546). -/
abbrev Status.placementClip : Nat := 0x020D
/-- PEER_NOT_SYNCED (R546). -/
abbrev Status.peerNotSynced : Nat := 0x0226
/-- PLACEMENT_STALE (R546). -/
abbrev Status.placementStale : Nat := 0x020E
/-- SLOT_ACTIVE (R546). -/
abbrev Status.slotActive : Nat := 0x0227
/-- LEARN_NO_JOB (R546). -/
abbrev Status.learnNoJob : Nat := 0x020F
/-- PACKAGE_EXPIRED (R546). -/
abbrev Status.packageExpired : Nat := 0x0228
/-- LEARN_TOO_LONG (R546). -/
abbrev Status.learnTooLong : Nat := 0x0210
/-- KEY_IN_USE (R546). -/
abbrev Status.keyInUse : Nat := 0x0229
/-- VISION_OFF (R546). -/
abbrev Status.visionOff : Nat := 0x0211
/-- TRANSFER_SEQUENCE (R546). -/
abbrev Status.transferSequence : Nat := 0x022A
/-- LEARN_RESOLUTION (R546). -/
abbrev Status.learnResolution : Nat := 0x0212
/-- TRANSFER_BUSY (R546). -/
abbrev Status.transferBusy : Nat := 0x022B
/-- STALL_BUSY (R546). -/
abbrev Status.stallBusy : Nat := 0x0213
/-- CHECK_BUSY (R546). -/
abbrev Status.checkBusy : Nat := 0x022C
/-- LANE_DOWN (R546). -/
abbrev Status.laneDown : Nat := 0x0214
/-- WELL_JOB_ACTIVE (R546). -/
abbrev Status.wellJobActive : Nat := 0x022D
/-- PERMIT_DENIED (R546). -/
abbrev Status.permitDenied : Nat := 0x0215
/-- WELL_TRAINING (R546). -/
abbrev Status.wellTraining : Nat := 0x022E
/-- LANE_BUSY (R546). -/
abbrev Status.laneBusy : Nat := 0x0216
/-- CAL_INVALID (R546). -/
abbrev Status.calInvalid : Nat := 0x022F
/-- STREAM_BUSY (R546). -/
abbrev Status.streamBusy : Nat := 0x0217
/-- CAL_RUNNING (R546). -/
abbrev Status.calRunning : Nat := 0x0230
/-- STREAM_UNBOUND (R546). -/
abbrev Status.streamUnbound : Nat := 0x0218
/-- CAL_IN_USE (R546). -/
abbrev Status.calInUse : Nat := 0x0231
/-- GRANT_SEQUENCE (R546). -/
abbrev Status.grantSequence : Nat := 0x0219
/-- IMAGE_BUSY (R546). -/
abbrev Status.imageBusy : Nat := 0x0232
/-- JOB_NOT_LOADED (R546). -/
abbrev Status.jobNotLoaded : Nat := 0x0233
/-- NO_TRACK (R546). -/
abbrev Status.noTrack : Nat := 0x0236
/-- NO_ACTIVE_JOB (R546). -/
abbrev Status.noActiveJob : Nat := 0x0234
/-- STREAM_SOURCE (R546). -/
abbrev Status.streamSource : Nat := 0x0237
/-- PACER_SOURCE (R546). -/
abbrev Status.pacerSource : Nat := 0x0235
/-- NO_SESSION (R546). -/
abbrev Status.noSession : Nat := 0x0301
/-- ROLLBACK (R546). -/
abbrev Status.rollback : Nat := 0x030A
/-- MAC_REQUIRED (R546). -/
abbrev Status.macRequired : Nat := 0x0302
/-- PACKAGE_DEVICE (R546). -/
abbrev Status.packageDevice : Nat := 0x030B
/-- MAC_FAIL (R546). -/
abbrev Status.macFail : Nat := 0x0303
/-- PACKAGE_SIGNATURE (R546). -/
abbrev Status.packageSignature : Nat := 0x030C
/-- SEQUENCE_JUMP (R546). -/
abbrev Status.sequenceJump : Nat := 0x0304
/-- PACKAGE_REPLAY (R546). -/
abbrev Status.packageReplay : Nat := 0x030D
/-- ROLE_DENIED (R546). -/
abbrev Status.roleDenied : Nat := 0x0305
/-- PACKAGE_UNWRAP (R546). -/
abbrev Status.packageUnwrap : Nat := 0x030E
/-- PROTECTED_RANGE (R546). -/
abbrev Status.protectedRange : Nat := 0x0306
/-- NO_CREDENTIAL (R546). -/
abbrev Status.noCredential : Nat := 0x030F
/-- GRANT_SIGNATURE (R546). -/
abbrev Status.grantSignature : Nat := 0x0307
/-- CREDENTIAL_LOCKED (R546). -/
abbrev Status.credentialLocked : Nat := 0x0310
/-- GRANT_DEVICE (R546). -/
abbrev Status.grantDevice : Nat := 0x0308
/-- PROOF_FAIL (R546). -/
abbrev Status.proofFail : Nat := 0x0311
/-- IMAGE_SIGNATURE (R546). -/
abbrev Status.imageSignature : Nat := 0x0309
/-- COMMAND_LIMIT (R546). -/
abbrev Status.commandLimit : Nat := 0x0401
/-- FONT_LIMIT (R546). -/
abbrev Status.fontLimit : Nat := 0x0409
/-- SESSION_LIMIT (R546). -/
abbrev Status.sessionLimit : Nat := 0x0402
/-- OVERLAY_SIZE (R546). -/
abbrev Status.overlaySize : Nat := 0x040A
/-- JOB_LIMIT (R546). -/
abbrev Status.jobLimit : Nat := 0x0403
/-- GRANT_LIMIT (R546). -/
abbrev Status.grantLimit : Nat := 0x040B
/-- MILL_SHORT (R546). -/
abbrev Status.millShort : Nat := 0x0404
/-- KEY_LIMIT (R546). -/
abbrev Status.keyLimit : Nat := 0x040C
/-- BAND_LIMIT (R546). -/
abbrev Status.bandLimit : Nat := 0x0405
/-- CLEAR_STORE_FULL (R546). -/
abbrev Status.clearStoreFull : Nat := 0x040D
/-- SCREEN_SLOTS (R546). -/
abbrev Status.screenSlots : Nat := 0x0406
/-- SCAN_LIMIT (R546). -/
abbrev Status.scanLimit : Nat := 0x040E
/-- LINE_STORE_DEPTH (R546). -/
abbrev Status.lineStoreDepth : Nat := 0x0407
/-- WELL_BANDWIDTH (R546). -/
abbrev Status.wellBandwidth : Nat := 0x040F
/-- ELEMENT_LIMIT (R546). -/
abbrev Status.elementLimit : Nat := 0x0408
/-- FAULT_NO_EFFECT (R546). -/
abbrev Status.faultNoEffect : Nat := 0x0501
/-- FAULT_PARTIAL (R546). -/
abbrev Status.faultPartial : Nat := 0x0502
/-- Done (R34). -/
abbrev Status.done : Nat := 0x0000
/-- Accepted, completion to follow (R33, R34). -/
abbrev Status.accepted : Nat := 0x0001

/-! ### Fault codes (R544) -/

/-- SQUARE_TIMEOUT, class Line (R544). -/
abbrev FaultCode.squareTimeout : Nat := 0x0101
/-- SRAM_UNCORRECTABLE, class Device (R544). -/
abbrev FaultCode.sramUncorrectable : Nat := 0x0102
/-- CONTROL_UNCHECKED, class Device (R544). -/
abbrev FaultCode.controlUnchecked : Nat := 0x0103
/-- JUNCTION_OVERTEMP, class Device (R544). -/
abbrev FaultCode.junctionOvertemp : Nat := 0x0104
/-- JUNCTION_COLD, class Correctable (R544). -/
abbrev FaultCode.junctionCold : Nat := 0x0105
/-- REFCLK_SYS_LOST, class Device (R544). -/
abbrev FaultCode.refclkSysLost : Nat := 0x0106
/-- XSPI_WRITE, class Correctable (R544). -/
abbrev FaultCode.xspiWrite : Nat := 0x0107
/-- FW_REVERT, class Correctable (R544). -/
abbrev FaultCode.fwRevert : Nat := 0x0108
/-- ENCODER_ERROR, class Correctable (R544). -/
abbrev FaultCode.encoderError : Nat := 0x0201
/-- ENCODER_MISMATCH, class Correctable (R544). -/
abbrev FaultCode.encoderMismatch : Nat := 0x0202
/-- ENCODER_FAILOVER, class Correctable (R544). -/
abbrev FaultCode.encoderFailover : Nat := 0x0203
/-- MOTION_REVERSE, class Product (R544). -/
abbrev FaultCode.motionReverse : Nat := 0x0204
/-- PRODUCT_OVERLAP, class Product (R544). -/
abbrev FaultCode.productOverlap : Nat := 0x0205
/-- QUEUE_FULL, class Product (R544). -/
abbrev FaultCode.queueFull : Nat := 0x0206
/-- GATE_UNDECIDED, class Product (R544). -/
abbrev FaultCode.gateUndecided : Nat := 0x0207
/-- PRODUCT_LATE, class Product (R544). -/
abbrev FaultCode.productLate : Nat := 0x0208
/-- TRIGGER_LATE, class Product (R544). -/
abbrev FaultCode.triggerLate : Nat := 0x0209
/-- TRIGGER_PATH_LONG, class Correctable (R544). -/
abbrev FaultCode.triggerPathLong : Nat := 0x020A
/-- SHEAF_BLOCK, class Correctable (R544). -/
abbrev FaultCode.sheafBlock : Nat := 0x020B
/-- SHEAF_SELFCHECK, class Correctable (R544). -/
abbrev FaultCode.sheafSelfcheck : Nat := 0x020C
/-- SHEAF_TILE_CORRUPT, class Product (R544). -/
abbrev FaultCode.sheafTileCorrupt : Nat := 0x020D
/-- TILE_SLOW, class Correctable (R544). -/
abbrev FaultCode.tileSlow : Nat := 0x020E
/-- SCREEN_INVALID, class Correctable (R544). -/
abbrev FaultCode.screenInvalid : Nat := 0x020F
/-- ARTWORK_AUTH, class Correctable (R544). -/
abbrev FaultCode.artworkAuth : Nat := 0x0210
/-- CALENDAR_GAP, class Product (R544). -/
abbrev FaultCode.calendarGap : Nat := 0x0301
/-- TIME_INVALID, class Product (R544). -/
abbrev FaultCode.timeInvalid : Nat := 0x0302
/-- GRANT_WINDOW, class Product (R544). -/
abbrev FaultCode.grantWindow : Nat := 0x0303
/-- POOL_EMPTY, class Product (R544). -/
abbrev FaultCode.poolEmpty : Nat := 0x0304
/-- CODE_CAPACITY, class Product (R544). -/
abbrev FaultCode.codeCapacity : Nat := 0x0305
/-- JOURNAL_FULL, class Product (R544). -/
abbrev FaultCode.journalFull : Nat := 0x0306
/-- JOURNAL_CORRUPT, class Product (R544). -/
abbrev FaultCode.journalCorrupt : Nat := 0x0307
/-- TALLY_BOTH_LEAD, class Product (R544). -/
abbrev FaultCode.tallyBothLead : Nat := 0x0308
/-- LINE_MISSED, class Product (R544). -/
abbrev FaultCode.lineMissed : Nat := 0x0401
/-- OVERSPEED, class Product (R544). -/
abbrev FaultCode.overspeed : Nat := 0x0402
/-- HEAD_OVERTEMP, class Device (R544). -/
abbrev FaultCode.headOvertemp : Nat := 0x0403
/-- VPP_RANGE, class Correctable (R544). -/
abbrev FaultCode.vppRange : Nat := 0x0404
/-- HEAD_CHANGED, class Product (R544). -/
abbrev FaultCode.headChanged : Nat := 0x0405
/-- LINE_STORE_DIGEST, class Product (R544). -/
abbrev FaultCode.lineStoreDigest : Nat := 0x0406
/-- LANE_LATENCY, class Correctable (R544). -/
abbrev FaultCode.laneLatency : Nat := 0x0407
/-- LANE_LATENCY_STEP, class Correctable (R544). -/
abbrev FaultCode.laneLatencyStep : Nat := 0x0408
/-- REFCLK_FAIL, class Correctable (R544). -/
abbrev FaultCode.refclkFail : Nat := 0x0409
/-- REFCLK_LOST, class Device (R544). -/
abbrev FaultCode.refclkLost : Nat := 0x040A
/-- CAL_DISAGREE, class Correctable (R544). -/
abbrev FaultCode.calDisagree : Nat := 0x0501
/-- CAL_FAIL, class Correctable (R544). -/
abbrev FaultCode.calFail : Nat := 0x0502
/-- CAL_CORRUPT, class Correctable (R544). -/
abbrev FaultCode.calCorrupt : Nat := 0x0503
/-- PLACEMENT_RANGE, class Correctable (R544). -/
abbrev FaultCode.placementRange : Nat := 0x0504
/-- TIME_MASTER_FAULT, class Correctable (R544). -/
abbrev FaultCode.timeMasterFault : Nat := 0x0601
/-- TIME_PATH_STEP, class Correctable (R544). -/
abbrev FaultCode.timePathStep : Nat := 0x0602
/-- TIME_SLEW_LIMIT, class Correctable (R544). -/
abbrev FaultCode.timeSlewLimit : Nat := 0x0603
/-- TIME_ERR_HIGH, class Correctable (R544). -/
abbrev FaultCode.timeErrHigh : Nat := 0x0604
/-- TIME_DISAGREE, class Correctable (R544). -/
abbrev FaultCode.timeDisagree : Nat := 0x0605
/-- PPS_IN_LOST, class Correctable (R544). -/
abbrev FaultCode.ppsInLost : Nat := 0x0606
/-- SENSOR_WRITE, class Correctable (R544). -/
abbrev FaultCode.sensorWrite : Nat := 0x0701
/-- FRAME_TRUNCATED, class Correctable (R544). -/
abbrev FaultCode.frameTruncated : Nat := 0x0702
/-- FRAME_LONG, class Correctable (R544). -/
abbrev FaultCode.frameLong : Nat := 0x0703
/-- FRAME_DAMAGED, class Correctable (R544). -/
abbrev FaultCode.frameDamaged : Nat := 0x0704
/-- NO_FRAME, class Correctable (R544). -/
abbrev FaultCode.noFrame : Nat := 0x0705
/-- NO_CAMERA, class Correctable (R544). -/
abbrev FaultCode.noCamera : Nat := 0x0706
/-- VERIFY_OVERLOAD, class Correctable (R544). -/
abbrev FaultCode.verifyOverload : Nat := 0x0707
/-- VISION_UNITS_LOST, class Correctable (R544). -/
abbrev FaultCode.visionUnitsLost : Nat := 0x0708
/-- CODE_MISPLACED, class Product (R544). -/
abbrev FaultCode.codeMisplaced : Nat := 0x0709
/-- VISION_OFF, class Product (R544). -/
abbrev FaultCode.visionOff : Nat := 0x070A
/-- KRYNTO_HOLD, class Device (R544). -/
abbrev FaultCode.kryntoHold : Nat := 0x0801
/-- ENTROPY_FAIL, class Device (R544). -/
abbrev FaultCode.entropyFail : Nat := 0x0802
/-- KRYNTO_SELFTEST, class Device (R544). -/
abbrev FaultCode.kryntoSelftest : Nat := 0x0803
/-- KEY_CORRUPT, class Correctable (R544). -/
abbrev FaultCode.keyCorrupt : Nat := 0x0804
/-- NODE_CONFLICT, class Correctable (R544). -/
abbrev FaultCode.nodeConflict : Nat := 0x0901
/-- TWIN_DIVERGED, class Device (R544). -/
abbrev FaultCode.twinDiverged : Nat := 0x0902
/-- TWIN_LINE_SLIP, class Correctable (R544). -/
abbrev FaultCode.twinLineSlip : Nat := 0x0903
/-- TWIN_DETECT_DIFF, class Correctable (R544). -/
abbrev FaultCode.twinDetectDiff : Nat := 0x0904
/-- TWIN_DIGEST_LATE, class Correctable (R544). -/
abbrev FaultCode.twinDigestLate : Nat := 0x0905
/-- TWIN_CONFIG_DIFF, class Correctable (R544). -/
abbrev FaultCode.twinConfigDiff : Nat := 0x0906
/-- TWIN_TIME_DIFF, class Correctable (R544). -/
abbrev FaultCode.twinTimeDiff : Nat := 0x0907
/-- WELL_UNCORRECTABLE, class Line (R544). -/
abbrev FaultCode.wellUncorrectable : Nat := 0x0A01
/-- WELL_RATE_REDUCED, class Correctable (R544). -/
abbrev FaultCode.wellRateReduced : Nat := 0x0A02
/-- WELL_DRIFT, class Correctable (R544). -/
abbrev FaultCode.wellDrift : Nat := 0x0A03
/-- WELL_DRAM_HOT, class Correctable (R544). -/
abbrev FaultCode.wellDramHot : Nat := 0x0A04
/-- WELL_DEVICE_FAIL, class Correctable (R544). -/
abbrev FaultCode.wellDeviceFail : Nat := 0x0A05
/-- CHECK_UNIT_FAIL, class Correctable (R544). -/
abbrev FaultCode.checkUnitFail : Nat := 0x0A06
/-- CHECK_MISMATCH, class Correctable (R544). -/
abbrev FaultCode.checkMismatch : Nat := 0x0A07
/-- CONFIG_CORRUPT, class Correctable (R544). -/
abbrev FaultCode.configCorrupt : Nat := 0x0A08
/-- TWIN_MISMATCH, class Correctable (R544). -/
abbrev FaultCode.twinMismatch : Nat := 0x0B01
/-- SLICE_TIMEOUT, class Correctable (R544). -/
abbrev FaultCode.sliceTimeout : Nat := 0x0B02
/-- LINE_UNRESOLVED, class Product (R544). -/
abbrev FaultCode.lineUnresolved : Nat := 0x0B03
/-- MILL_SHORT, class Correctable (R544). -/
abbrev FaultCode.millShort : Nat := 0x0B04
/-- WEIGHBRIDGE_FAULT, class Device (R544). -/
abbrev FaultCode.weighbridgeFault : Nat := 0x0B05
/-- MILL_DOMAIN_LOST, class Device (R544). -/
abbrev FaultCode.millDomainLost : Nat := 0x0B06

/-- The class number of a fault code (R541, R544). -/
def classOf (code : Nat) : Nat :=
  if code = 0x0101 ∨
    code = 0x0A01 then 2 else
  if code = 0x0204 ∨
    code = 0x0205 ∨
    code = 0x0206 ∨
    code = 0x0207 ∨
    code = 0x0208 ∨
    code = 0x0209 ∨
    code = 0x020D ∨
    code = 0x0301 ∨
    code = 0x0302 ∨
    code = 0x0303 ∨
    code = 0x0304 ∨
    code = 0x0305 ∨
    code = 0x0306 ∨
    code = 0x0307 ∨
    code = 0x0308 ∨
    code = 0x0401 ∨
    code = 0x0402 ∨
    code = 0x0405 ∨
    code = 0x0406 ∨
    code = 0x0709 ∨
    code = 0x070A ∨
    code = 0x0B03 then 3 else
  if code = 0x0102 ∨
    code = 0x0103 ∨
    code = 0x0104 ∨
    code = 0x0106 ∨
    code = 0x0403 ∨
    code = 0x040A ∨
    code = 0x0801 ∨
    code = 0x0802 ∨
    code = 0x0803 ∨
    code = 0x0902 ∨
    code = 0x0B05 ∨
    code = 0x0B06 then 4 else
  1

/-! ### Notices (R516) -/

/-- SLICE_RETIRED (R516). -/
abbrev Notice.sliceRetired : Nat := 0x8001
/-- ELEMENT_RETIRED (R516). -/
abbrev Notice.elementRetired : Nat := 0x8002
/-- ELEMENT_UNCOVERED (R516). -/
abbrev Notice.elementUncovered : Nat := 0x8003
/-- PLACEMENT_TRACKED (R516). -/
abbrev Notice.placementTracked : Nat := 0x8004
/-- DUTY_REDUCED (R516). -/
abbrev Notice.dutyReduced : Nat := 0x8005
/-- LINE_FOLDED (R516). -/
abbrev Notice.lineFolded : Nat := 0x8006
/-- HEAD_HOT (R516). -/
abbrev Notice.headHot : Nat := 0x8007
/-- TWIN_THINNED (R516). -/
abbrev Notice.twinThinned : Nat := 0x8008
/-- TIME_STEPPED (R516). -/
abbrev Notice.timeStepped : Nat := 0x8009
/-- TIME_SWITCHED (R516). -/
abbrev Notice.timeSwitched : Nat := 0x800A
/-- TIME_HOLDOVER (R516). -/
abbrev Notice.timeHoldover : Nat := 0x800B
/-- SET_SUPERSEDED (R516). -/
abbrev Notice.setSuperseded : Nat := 0x800C
/-- KRYNTO_MODE (R516). -/
abbrev Notice.kryntoMode : Nat := 0x800D
/-- LANE_MOVED (R516). -/
abbrev Notice.laneMoved : Nat := 0x800E
/-- LANE_MARGINAL (R516). -/
abbrev Notice.laneMarginal : Nat := 0x800F
/-- WELL_ROW_SPARED (R516). -/
abbrev Notice.wellRowSpared : Nat := 0x8010
/-- LEDGER_SECTOR_SPARED (R516). -/
abbrev Notice.ledgerSectorSpared : Nat := 0x8011
/-- LEDGER_JOURNAL_SHRUNK (R516). -/
abbrev Notice.ledgerJournalShrunk : Nat := 0x8012
/-- POOL_LOW (R516). -/
abbrev Notice.poolLow : Nat := 0x8013
/-- JOURNAL_HIGH (R516). -/
abbrev Notice.journalHigh : Nat := 0x8014
/-- TWIN_SOLO (R516). -/
abbrev Notice.twinSolo : Nat := 0x8015
/-- TWIN_YIELDED (R516). -/
abbrev Notice.twinYielded : Nat := 0x8016
/-- MILL_SPARES_OUT (R516). -/
abbrev Notice.millSparesOut : Nat := 0x8017
/-- SPARE_LANE_OUT (R516). -/
abbrev Notice.spareLaneOut : Nat := 0x8018
/-- WELL_PPR_OUT (R516). -/
abbrev Notice.wellPprOut : Nat := 0x8019
/-- LEDGER_SPARES_OUT (R516). -/
abbrev Notice.ledgerSparesOut : Nat := 0x801A
/-- SRAM_ROW_SPARED (R516). -/
abbrev Notice.sramRowSpared : Nat := 0x801B
/-- SRAM_SPARES_OUT (R516). -/
abbrev Notice.sramSparesOut : Nat := 0x801C
/-- CORE_TAKEOVER (R516). -/
abbrev Notice.coreTakeover : Nat := 0x801D
/-- CORE_SINGLE (R516). -/
abbrev Notice.coreSingle : Nat := 0x801E
/-- FW_ACTIVATED (R516). -/
abbrev Notice.fwActivated : Nat := 0x801F
/-- FW_REVERTED (R516). -/
abbrev Notice.fwReverted : Nat := 0x8020
/-- BACKGROUND_SHED (R516). -/
abbrev Notice.backgroundShed : Nat := 0x8021
/-- BACKGROUND_LATE (R516). -/
abbrev Notice.backgroundLate : Nat := 0x8022
/-- CAL_AGED (R516). -/
abbrev Notice.calAged : Nat := 0x8023
/-- GRANARY_LOW (R516). -/
abbrev Notice.granaryLow : Nat := 0x8024
/-- JOB_INACTIVE (R516). -/
abbrev Notice.jobInactive : Nat := 0x8025
/-- CHECK_FALLBACK (R516). -/
abbrev Notice.checkFallback : Nat := 0x8026
/-- PRODUCT_COLLATERAL (R516). -/
abbrev Notice.productCollateral : Nat := 0x8027
/-- PRODUCT_NO_GATE (R516). -/
abbrev Notice.productNoGate : Nat := 0x8028
/-- STREAK_OFF (R516). -/
abbrev Notice.streakOff : Nat := 0x8029

/-! ### The opcode catalogue (R52) -/

/-- The opcode of IDENTIFY (R52). -/
abbrev Op.identify : Nat := 0x0101
/-- The opcode of STATUS (R52). -/
abbrev Op.status : Nat := 0x0102
/-- The opcode of ABORT_TAG (R52). -/
abbrev Op.abortTag : Nat := 0x0103
/-- The opcode of NET_CONFIG (R52). -/
abbrev Op.netConfig : Nat := 0x0104
/-- The opcode of POWER_DOMAIN (R52). -/
abbrev Op.powerDomain : Nat := 0x0105
/-- The opcode of GRANARY_REPORT (R52). -/
abbrev Op.granaryReport : Nat := 0x0106
/-- The opcode of CRIER_CONFIG (R52). -/
abbrev Op.crierConfig : Nat := 0x0107
/-- The opcode of RESET (R52). -/
abbrev Op.reset : Nat := 0x0108
/-- The opcode of JOB_LOAD (R52). -/
abbrev Op.jobLoad : Nat := 0x0201
/-- The opcode of JOB_ACTIVATE (R52). -/
abbrev Op.jobActivate : Nat := 0x0202
/-- The opcode of JOB_SWITCH (R52). -/
abbrev Op.jobSwitch : Nat := 0x0203
/-- The opcode of JOB_UNLOAD (R52). -/
abbrev Op.jobUnload : Nat := 0x0204
/-- The opcode of MOTION_CONFIG (R52). -/
abbrev Op.motionConfig : Nat := 0x0205
/-- The opcode of REJECT_POLICY (R52). -/
abbrev Op.rejectPolicy : Nat := 0x0206
/-- The opcode of QUEUE_READ (R52). -/
abbrev Op.queueRead : Nat := 0x0207
/-- The opcode of PRODUCT_FORCE (R52). -/
abbrev Op.productForce : Nat := 0x0208
/-- The opcode of POOL_GRANT (R52). -/
abbrev Op.poolGrant : Nat := 0x0301
/-- The opcode of STREAM_BIND (R52). -/
abbrev Op.streamBind : Nat := 0x0302
/-- The opcode of CALENDAR_LOAD (R52). -/
abbrev Op.calendarLoad : Nat := 0x0303
/-- The opcode of POOL_STATUS (R52). -/
abbrev Op.poolStatus : Nat := 0x0304
/-- The opcode of CODE_VOID (R52). -/
abbrev Op.codeVoid : Nat := 0x0305
/-- The opcode of JOURNAL_READ (R52). -/
abbrev Op.journalRead : Nat := 0x0306
/-- The opcode of MANIFEST_CLOSE (R52). -/
abbrev Op.manifestClose : Nat := 0x0307
/-- The opcode of STALL_CONFIG (R52). -/
abbrev Op.stallConfig : Nat := 0x0401
/-- The opcode of PULSE_TABLE_LOAD (R52). -/
abbrev Op.pulseTableLoad : Nat := 0x0402
/-- The opcode of DUTY_LIMITS (R52). -/
abbrev Op.dutyLimits : Nat := 0x0403
/-- The opcode of FIRE_PERMIT (R52). -/
abbrev Op.firePermit : Nat := 0x0404
/-- The opcode of ELEMENT_RETIRE (R52). -/
abbrev Op.elementRetire : Nat := 0x0405
/-- The opcode of SPIT_CYCLE (R52). -/
abbrev Op.spitCycle : Nat := 0x0406
/-- The opcode of HEAD_STATUS (R52). -/
abbrev Op.headStatus : Nat := 0x0407
/-- The opcode of CAL_RUN (R52). -/
abbrev Op.calRun : Nat := 0x0501
/-- The opcode of CAL_READ (R52). -/
abbrev Op.calRead : Nat := 0x0502
/-- The opcode of CAL_WRITE (R52). -/
abbrev Op.calWrite : Nat := 0x0503
/-- The opcode of PLACEMENT_LEARN (R52). -/
abbrev Op.placementLearn : Nat := 0x0504
/-- The opcode of TIME_READ (R52). -/
abbrev Op.timeRead : Nat := 0x0601
/-- The opcode of PTP_CONFIG (R52). -/
abbrev Op.ptpConfig : Nat := 0x0602
/-- The opcode of TIME_SELECT (R52). -/
abbrev Op.timeSelect : Nat := 0x0603
/-- The opcode of TIME_SET (R52). -/
abbrev Op.timeSet : Nat := 0x0604
/-- The opcode of PPS_CONFIG (R52). -/
abbrev Op.ppsConfig : Nat := 0x0605
/-- The opcode of SENSOR_CONFIG (R52). -/
abbrev Op.sensorConfig : Nat := 0x0701
/-- The opcode of SETTING_SET (R52). -/
abbrev Op.settingSet : Nat := 0x0702
/-- The opcode of VERIFY_CONFIG (R52). -/
abbrev Op.verifyConfig : Nat := 0x0703
/-- The opcode of IMAGE_CAPTURE (R52). -/
abbrev Op.imageCapture : Nat := 0x0704
/-- The opcode of CERT_READ (R52). -/
abbrev Op.certRead : Nat := 0x0801
/-- The opcode of SESSION_OPEN (R52). -/
abbrev Op.sessionOpen : Nat := 0x0802
/-- The opcode of SESSION_PROVE (R52). -/
abbrev Op.sessionProve : Nat := 0x0803
/-- The opcode of SESSION_CLOSE (R52). -/
abbrev Op.sessionClose : Nat := 0x0804
/-- The opcode of OWNER_TRANSFER (R52). -/
abbrev Op.ownerTransfer : Nat := 0x0805
/-- The opcode of ROLE_CREDENTIAL (R52). -/
abbrev Op.roleCredential : Nat := 0x0806
/-- The opcode of JOB_KEY_LOAD (R52). -/
abbrev Op.jobKeyLoad : Nat := 0x0807
/-- The opcode of IMAGE_STAGE (R52). -/
abbrev Op.imageStage : Nat := 0x0808
/-- The opcode of IMAGE_ACTIVATE (R52). -/
abbrev Op.imageActivate : Nat := 0x0809
/-- The opcode of ZEROISE (R52). -/
abbrev Op.zeroise : Nat := 0x080A
/-- The opcode of ATTEST (R52). -/
abbrev Op.attest : Nat := 0x080B
/-- The opcode of NODE_ID (R52). -/
abbrev Op.nodeId : Nat := 0x0901
/-- The opcode of TOPOLOGY (R52). -/
abbrev Op.topology : Nat := 0x0902
/-- The opcode of TWIN_BIND (R52). -/
abbrev Op.twinBind : Nat := 0x0903
/-- The opcode of TWIN_YIELD (R52). -/
abbrev Op.twinYield : Nat := 0x0904
/-- The opcode of TWIN_STATUS (R52). -/
abbrev Op.twinStatus : Nat := 0x0905
/-- The opcode of LINK_STATUS (R52). -/
abbrev Op.linkStatus : Nat := 0x0906
/-- The opcode of RING_ROLE (R52). -/
abbrev Op.ringRole : Nat := 0x0A01
/-- The opcode of WELL_READ (R52). -/
abbrev Op.wellRead : Nat := 0x0A02
/-- The opcode of WELL_WRITE (R52). -/
abbrev Op.wellWrite : Nat := 0x0A03
/-- The opcode of CHECK_RUN (R52). -/
abbrev Op.checkRun : Nat := 0x0A04
/-- The opcode of SCRUB_CONFIG (R52). -/
abbrev Op.scrubConfig : Nat := 0x0A05
/-- The opcode of LOOPBACK (R52). -/
abbrev Op.loopback : Nat := 0x0A06
/-- The opcode of TELEMETRY_READ (R52). -/
abbrev Op.telemetryRead : Nat := 0x0A07

/-- One row of the opcode catalogue (R52): opcode, the roles that may issue it, its parameter count (R572), whether it may
be broadcast (R50), and the bits of each parameter word that are not reserved (R8). A word past the end of `masks` has no
reserved bit. -/
structure OpRow where
  code   : Nat
  roles  : List Role
  params : Nat
  bcast  : Bool
  masks  : List Nat
  deriving DecidableEq, Repr

/-- The opcodes 0x01xx (R52). -/
def catalogue_system : List OpRow := [
  ⟨0x0101, [.vendor, .owner, .operator, .maintainer, .auditor, .anonymous], 0, false, []⟩,
  ⟨0x0102, [.vendor, .owner, .operator, .maintainer, .auditor], 0, false, []⟩,
  ⟨0x0103, [.vendor, .owner, .operator, .maintainer, .auditor, .anonymous], 1, false, []⟩,
  ⟨0x0104, [.owner], 8, false, [0x103ffff7fff1f01, 0xffffffffffffff, 0xffffffffffffffff, 0xffffffffffffffff, 0xffffffffffffffff, 0xffffffffffffffff, 0xffff, 0xffffffff]⟩,
  ⟨0x0105, [.owner, .maintainer], 1, false, [0x10f]⟩,
  ⟨0x0106, [.owner, .maintainer, .auditor], 1, false, []⟩,
  ⟨0x0107, [.owner, .maintainer], 4, true, [0x1f, 0x10f, 0xffff, 0x7ff]⟩,
  ⟨0x0108, [.owner, .maintainer], 1, false, [0x1]⟩]

/-- The opcodes 0x02xx (R52). -/
def catalogue_job : List OpRow := [
  ⟨0x0201, [.owner, .operator], 4, false, []⟩,
  ⟨0x0202, [.owner, .operator], 2, true, []⟩,
  ⟨0x0203, [.owner, .operator], 2, true, []⟩,
  ⟨0x0204, [.owner, .operator], 1, false, []⟩,
  ⟨0x0205, [.owner, .maintainer], 16, false, [0xffffff00000f77, 0xffffffffffffffff, 0xffffffffffffffff, 0xffffffffffffffff, 0xffffffffffffffff, 0xffffffffffffffff, 0xffffffffffffffff, 0xffffffffffffffff, 0xffffffffffffff3, 0xffffffffffffff3, 0xffffffffffffff3, 0xffffffffffffff3, 0xffffffffffffff3, 0xffffffffffffff3, 0xffffffffffffff3, 0xffffffffffffff3]⟩,
  ⟨0x0206, [.owner, .operator], 4, false, [0xfffffffff7ffffff, 0xfffffffff7ffffff, 0xfffffffff7ffffff, 0xfffffffff7ffffff]⟩,
  ⟨0x0207, [.owner, .operator, .maintainer, .auditor], 1, false, []⟩,
  ⟨0x0208, [.owner, .maintainer], 2, false, []⟩]

/-- The opcodes 0x03xx (R52). -/
def catalogue_tally : List OpRow := [
  ⟨0x0301, [.owner], 2, false, []⟩,
  ⟨0x0302, [.owner, .operator], 3, false, []⟩,
  ⟨0x0303, [.owner], 2, false, []⟩,
  ⟨0x0304, [.owner, .operator, .auditor], 1, false, []⟩,
  ⟨0x0305, [.owner, .operator], 4, false, [0xffffffffffffffff, 0xffffffffffffffff, 0xffffffffffffffff, 0xff]⟩,
  ⟨0x0306, [.owner, .auditor], 3, false, []⟩,
  ⟨0x0307, [.owner, .operator], 1, false, []⟩]

/-- The opcodes 0x04xx (R52). -/
def catalogue_head : List OpRow := [
  ⟨0x0401, [.owner, .maintainer], 16, false, [0x1f, 0xffffffff0f3f01ff, 0xffffffffffffffff, 0xffffffff, 0xffffffffffffffff, 0xffffffff, 0x0, 0x0, 0x0, 0x0, 0x0, 0x0, 0x0, 0x0, 0x0, 0x0]⟩,
  ⟨0x0402, [.owner, .maintainer], 3, false, []⟩,
  ⟨0x0403, [.owner, .maintainer], 5, false, [0x1f, 0xff00ffffff, 0xff00ffffff, 0x0, 0x0]⟩,
  ⟨0x0404, [.owner, .operator, .maintainer], 2, true, [0xffffff, 0x1]⟩,
  ⟨0x0405, [.owner, .maintainer], 2, false, []⟩,
  ⟨0x0406, [.operator, .maintainer], 2, false, [0xffffff, 0xff1f]⟩,
  ⟨0x0407, [.owner, .operator, .maintainer, .auditor], 1, false, []⟩]

/-- The opcodes 0x05xx (R52). -/
def catalogue_cal : List OpRow := [
  ⟨0x0501, [.owner, .maintainer], 2, false, []⟩,
  ⟨0x0502, [.owner, .maintainer, .auditor], 2, false, []⟩,
  ⟨0x0503, [.owner], 3, false, []⟩,
  ⟨0x0504, [.owner, .maintainer], 2, false, [0xff, 0xf1f]⟩]

/-- The opcodes 0x06xx (R52). -/
def catalogue_time : List OpRow := [
  ⟨0x0601, [.vendor, .owner, .operator, .maintainer, .auditor, .anonymous], 0, false, []⟩,
  ⟨0x0602, [.owner, .maintainer], 12, true, [0xff0f, 0xff0f, 0xffffffffffffffff, 0xff01ffffffffffff, 0xffffffffffffffff, 0xffffffffffffffff, 0xffffffffffffffff, 0x1ffff, 0x0, 0x0, 0x0, 0x0]⟩,
  ⟨0x0603, [.owner, .maintainer], 1, false, [0x101]⟩,
  ⟨0x0604, [.owner], 2, false, [0xffffffffffffffff, 0x1ffffffffffff]⟩,
  ⟨0x0605, [.owner, .maintainer], 4, false, [0xffff0007, 0xffff0007, 0xffffffffffffff03, 0xffffffffffffff03]⟩]

/-- The opcodes 0x07xx (R52). -/
def catalogue_vision : List OpRow := [
  ⟨0x0701, [.owner, .maintainer], 8, false, [0x7, 0xffffffffff1ffd, 0xffffffffffffffff, 0xffffffffffffffff, 0xffffff1fffffffff, 0xffffffffffffffff, 0xffffffff, 0x0]⟩,
  ⟨0x0702, [.owner, .operator, .maintainer], 6, false, [0x7, 0xffff, 0xffffffffffffffff, 0xffff, 0xffff, 0x0]⟩,
  ⟨0x0703, [.owner, .maintainer], 8, false, [0xff07ff, 0xffffffffff, 0xffffff, 0xffffffffff, 0x7, 0x0, 0x0, 0x0]⟩,
  ⟨0x0704, [.owner, .maintainer], 3, false, []⟩]

/-- The opcodes 0x08xx (R52). -/
def catalogue_krynto : List OpRow := [
  ⟨0x0801, [.vendor, .owner, .operator, .maintainer, .auditor, .anonymous], 2, false, []⟩,
  ⟨0x0802, [.anonymous], 162, false, [0xffffffffffffffff, 0xffffffffffffffff, 0xffffffffffffffff, 0xffffffffffffffff, 0xffffffffffffffff, 0xffffffffffffffff, 0xffffffffffffffff, 0xffffffffffffffff, 0xffffffffffffffff, 0xffffffffffffffff, 0xffffffffffffffff, 0xffffffffffffffff, 0xffffffffffffffff, 0xffffffffffffffff, 0xffffffffffffffff, 0xffffffffffffffff, 0xffffffffffffffff, 0xffffffffffffffff, 0xffffffffffffffff, 0xffffffffffffffff, 0xffffffffffffffff, 0xffffffffffffffff, 0xffffffffffffffff, 0xffffffffffffffff, 0xffffffffffffffff, 0xffffffffffffffff, 0xffffffffffffffff, 0xffffffffffffffff, 0xffffffffffffffff, 0xffffffffffffffff, 0xffffffffffffffff, 0xffffffffffffffff, 0xffffffffffffffff, 0xffffffffffffffff, 0xffffffffffffffff, 0xffffffffffffffff, 0xffffffffffffffff, 0xffffffffffffffff, 0xffffffffffffffff, 0xffffffffffffffff, 0xffffffffffffffff, 0xffffffffffffffff, 0xffffffffffffffff, 0xffffffffffffffff, 0xffffffffffffffff, 0xffffffffffffffff, 0xffffffffffffffff, 0xffffffffffffffff, 0xffffffffffffffff, 0xffffffffffffffff, 0xffffffffffffffff, 0xffffffffffffffff, 0xffffffffffffffff, 0xffffffffffffffff, 0xffffffffffffffff, 0xffffffffffffffff, 0xffffffffffffffff, 0xffffffffffffffff, 0xffffffffffffffff, 0xffffffffffffffff, 0xffffffffffffffff, 0xffffffffffffffff, 0xffffffffffffffff, 0xffffffffffffffff, 0xffffffffffffffff, 0xffffffffffffffff, 0xffffffffffffffff, 0xffffffffffffffff, 0xffffffffffffffff, 0xffffffffffffffff, 0xffffffffffffffff, 0xffffffffffffffff, 0xffffffffffffffff, 0xffffffffffffffff, 0xffffffffffffffff, 0xffffffffffffffff, 0xffffffffffffffff, 0xffffffffffffffff, 0xffffffffffffffff, 0xffffffffffffffff, 0xffffffffffffffff, 0xffffffffffffffff, 0xffffffffffffffff, 0xffffffffffffffff, 0xffffffffffffffff, 0xffffffffffffffff, 0xffffffffffffffff, 0xffffffffffffffff, 0xffffffffffffffff, 0xffffffffffffffff, 0xffffffffffffffff, 0xffffffffffffffff, 0xffffffffffffffff, 0xffffffffffffffff, 0xffffffffffffffff, 0xffffffffffffffff, 0xffffffffffffffff, 0xffffffffffffffff, 0xffffffffffffffff, 0xffffffffffffffff, 0xffffffffffffffff, 0xffffffffffffffff, 0xffffffffffffffff, 0xffffffffffffffff, 0xffffffffffffffff, 0xffffffffffffffff, 0xffffffffffffffff, 0xffffffffffffffff, 0xffffffffffffffff, 0xffffffffffffffff, 0xffffffffffffffff, 0xffffffffffffffff, 0xffffffffffffffff, 0xffffffffffffffff, 0xffffffffffffffff, 0xffffffffffffffff, 0xffffffffffffffff, 0xffffffffffffffff, 0xffffffffffffffff, 0xffffffffffffffff, 0xffffffffffffffff, 0xffffffffffffffff, 0xffffffffffffffff, 0xffffffffffffffff, 0xffffffffffffffff, 0xffffffffffffffff, 0xffffffffffffffff, 0xffffffffffffffff, 0xffffffffffffffff, 0xffffffffffffffff, 0xffffffffffffffff, 0xffffffffffffffff, 0xffffffffffffffff, 0xffffffffffffffff, 0xffffffffffffffff, 0xffffffffffffffff, 0xffffffffffffffff, 0xffffffffffffffff, 0xffffffffffffffff, 0xffffffffffffffff, 0xffffffffffffffff, 0xffffffffffffffff, 0xffffffffffffffff, 0xffffffffffffffff, 0xffffffffffffffff, 0xffffffffffffffff, 0xffffffffffffffff, 0xffffffffffffffff, 0xffffffffffffffff, 0xffffffffffffffff, 0xffffffffffffffff, 0xffffffffffffffff, 0xffffffffffffffff, 0xffffffffffffffff, 0xffffffffffffffff, 0xffffffffffffffff, 0xffffffffffffffff, 0xffffffffffffffff, 0xffffffffffffffff, 0xffffffffffffffff, 0xffffffffffffffff, 0xff07]⟩,
  ⟨0x0803, [.anonymous], 4, false, [0xffffffff, 0xff07, 0xffffffffffffffff, 0xffffffffffffffff]⟩,
  ⟨0x0804, [.vendor, .owner, .operator, .maintainer, .auditor], 1, false, [0xffffffff]⟩,
  ⟨0x0805, [.owner], 2, false, []⟩,
  ⟨0x0806, [.owner], 3, false, []⟩,
  ⟨0x0807, [.owner, .operator, .maintainer], 2, false, []⟩,
  ⟨0x0808, [.owner, .vendor], 2, false, [0x1, 0xffffffffffffffff]⟩,
  ⟨0x0809, [.owner], 1, false, [0x1]⟩,
  ⟨0x080A, [.owner], 1, false, []⟩,
  ⟨0x080B, [.owner, .auditor, .vendor], 5, false, []⟩]

/-- The opcodes 0x09xx (R52). -/
def catalogue_urara : List OpRow := [
  ⟨0x0901, [.owner], 1, false, []⟩,
  ⟨0x0902, [.owner], 8, false, [0x70f03, 0xffffffff, 0x107ff, 0x0, 0x3ffff0003ffff, 0x3ffff0003ffff, 0x3ffff0003ffff, 0x3ffff0003ffff]⟩,
  ⟨0x0903, [.owner], 2, false, [0x7ff, 0x1f1fffffff]⟩,
  ⟨0x0904, [.owner, .operator], 0, false, []⟩,
  ⟨0x0905, [.owner, .operator, .maintainer, .auditor], 0, false, []⟩,
  ⟨0x0906, [.owner, .maintainer, .auditor], 1, false, [0x3f]⟩]

/-- The opcodes 0x0Axx (R52). -/
def catalogue_memory : List OpRow := [
  ⟨0x0A01, [.owner], 2, false, []⟩,
  ⟨0x0A02, [.owner, .maintainer], 3, false, []⟩,
  ⟨0x0A03, [.owner, .maintainer], 3, false, []⟩,
  ⟨0x0A04, [.owner, .maintainer], 3, false, []⟩,
  ⟨0x0A05, [.owner, .maintainer], 4, false, [0xffff0000ffff, 0x7ff01ff000707ff, 0x1003f, 0x0]⟩,
  ⟨0x0A06, [.maintainer, .vendor], 2, false, [0x3f, 0xffff000f]⟩,
  ⟨0x0A07, [.owner, .maintainer, .auditor], 2, false, []⟩]

/-- The opcode catalogue (R52). -/
def catalogue : List OpRow :=
  catalogue_system ++ catalogue_job ++ catalogue_tally ++ catalogue_head ++ catalogue_cal ++ catalogue_time ++ catalogue_vision ++ catalogue_krynto ++ catalogue_urara ++ catalogue_memory

end Sys2Proof.Machine
end

