-- ==== Sys2Proof/Machine/Operands.lean ====
section
/-!
DEFINITION. The operand forms: bit fields of words, byte order (R6), signed fields, field setters of a
register's half (R58), and the updates of a bank.
-/
namespace Sys2Proof.Machine

/-- Bits [hi:lo] of a number (R6). -/
def bits (x hi lo : Nat) : Nat := x / 2 ^ lo % 2 ^ (hi + 1 - lo)

/-- Bit i of a number. -/
def bit (x i : Nat) : Bool := x / 2 ^ i % 2 = 1

/-- A number placed at bit lo of a word. -/
def put (v lo : Nat) : Nat := v * 2 ^ lo

/-- A Bool as a number. -/
def flag (b : Bool) : Nat := if b then 1 else 0

/-- Bits [hi:lo] of a word. -/
def fld (w : W64) (hi lo : Nat) : Nat := bits w.toNat hi lo

/-- Bit i of a word. -/
def fbit (w : W64) (i : Nat) : Bool := bit w.toNat i

/-- A word of a number. -/
def word (n : Nat) : W64 := BitVec.ofNat 64 n

/-- The two's complement value of an n-bit field. -/
def signed (x n : Nat) : Int := if x < 2 ^ (n - 1) then x else (x : Int) - (2 ^ n : Nat)

/-- A signed number in an n-bit field. -/
def unsigned (x : Int) (n : Nat) : Nat := (x % ((2 ^ n : Nat) : Int)).toNat

/-- A signed number as a word. -/
def wordOfInt (x : Int) : W64 := BitVec.ofInt 64 x

/-- The n low bytes of a number, least significant first (R6). -/
def leBytes : Nat → Nat → List Byte
  | 0, _ => []
  | n + 1, x => BitVec.ofNat 8 x :: leBytes n (x / 256)

/-- The number of bytes least significant first (R6). -/
def leNat : List Byte → Nat
  | [] => 0
  | b :: bs => b.toNat + 256 * leNat bs

/-- The eight bytes of a word in memory order (R6). -/
def wordBytes (w : W64) : List Byte := leBytes 8 w.toNat

/-- The bytes of words in memory order. -/
def wordsBytes (ws : List W64) : List Byte := ws.flatMap wordBytes

/-- The words of bytes in memory order; a short last word is filled with zeros. `fuel` bounds the words. -/
def bytesWords : Nat → List Byte → List W64
  | 0, _ => []
  | _, [] => []
  | fuel + 1, bs => word (leNat (bs.take 8)) :: bytesWords fuel (bs.drop 8)

/-- All words of a byte string. -/
def wordsOf (bs : List Byte) : List W64 := bytesWords (bs.length / 8 + 1) bs

/-- The n-byte little-endian number at an offset of a byte string. -/
def leAt (bs : List Byte) (off n : Nat) : Nat := leNat ((bs.drop off).take n)

/-- One entry of a bank changed. -/
def upd {α : Type} {n : Nat} (v : Vector α n) (i : Fin n) (f : α → α) : Vector α n := v.set i (f v[i])

/-- The entries of a bank in order. -/
def elems {α : Type} {n : Nat} (v : Vector α n) : List α := v.toList

/-- The value with its index, for every entry of a bank. -/
def indexed {α : Type} {n : Nat} (v : Vector α n) : List (Nat × α) := v.toList.zipIdx.map fun p => (p.2, p.1)

/-- The bits of a bank of Bools, entry 0 lowest. -/
def maskOf : List Bool → Nat
  | [] => 0
  | b :: bs => flag b + 2 * maskOf bs

/-- A number held at most at a limit (a saturating count). -/
def sat (limit x : Nat) : Nat := if x ≤ limit then x else limit

/-- a over b, rounded up. -/
def ceilDiv (a b : Nat) : Nat := (a + b - 1) / b

/-- Whether a list has no repeats. -/
def noRepeats {α : Type} [DecidableEq α] : List α → Bool
  | [] => true
  | a :: as => decide (a ∉ as) && noRepeats as

/-- The entries of a list with one key changed. -/
def mapWhere {α : Type} (p : α → Bool) (f : α → α) (l : List α) : List α := l.map fun a => if p a then f a else a

/-- Whether a half-open interval holds a point (R10). -/
def within (start stop x : Nat) : Bool := decide (start ≤ x) && decide (x < stop)

/-- Whether two half-open intervals meet. -/
def overlaps (a b c d : Nat) : Bool := decide (a < d) && decide (c < b)

end Sys2Proof.Machine
end

