-- ==== Sys2Proof/Machine/Flags.lean ====
section
/-!
DEFINITION. The check computations: the cyclic redundancy check of R443 with the fixed algorithms of R444, check values
as bytes (R445), and the check digits used by the Tally.
-/
namespace Sys2Proof.Machine

/-- The n low bits of x in reverse order (R443). -/
def reflect : Nat → Nat → Nat
  | 0, _ => 0
  | n + 1, x => x % 2 * 2 ^ n + reflect n (x / 2)

/-- One bit of a byte enters the register of a width-w CRC (R443). -/
def crcBit (w poly reg b : Nat) : Nat :=
  let top := (reg / 2 ^ (w - 1) + b) % 2
  let r := reg * 2 % 2 ^ w
  if top = 1 then r ^^^ poly else r

/-- The bits k-1 to 0 of a byte enter the register, the highest first. -/
def crcBits (w poly : Nat) : Nat → Nat → Nat → Nat
  | 0, reg, _ => reg
  | k + 1, reg, b => crcBits w poly k (crcBit w poly reg (b / 2 ^ k % 2)) b

/-- The register after a byte sequence (R443). -/
def crcReg (c : CheckCfg) : Nat → List Byte → Nat
  | reg, [] => reg
  | reg, b :: bs => crcReg c (crcBits c.width c.poly 8 reg (if c.refin then reflect 8 b.toNat else b.toNat)) bs

/-- The check value of a byte sequence (R443). -/
def crc (c : CheckCfg) (bs : List Byte) : Nat :=
  let reg := crcReg c c.init bs
  (if c.refout then reflect c.width reg else reg) ^^^ c.xorout

/-- CRC-32C (R444). -/
def crc32c (bs : List Byte) : Nat := crc CheckCfg.crc32c bs

/-- CRC-64/XZ (R444). -/
def crc64 (bs : List Byte) : Nat := crc CheckCfg.crc64 bs

/-- The bytes a check value occupies (R445). -/
def checkBytes (c : CheckCfg) : Nat := ceilDiv c.width 8

/-- The nine bytes whose check value identifies an algorithm (R444, R446). -/
def checkText : List Byte := [0x31, 0x32, 0x33, 0x34, 0x35, 0x36, 0x37, 0x38, 0x39]

end Sys2Proof.Machine
end

