-- ==== Sys2Proof/Machine/Link.lean ====
section
/-!
DEFINITION. Outputs, free values and power; the lanes as every unit sees them (R266, R286); and the sending side of the Urara link: packets, routes and
replay buffers (R374 to R379).
-/
namespace Sys2Proof.Machine

/-! ### Outputs -/

/-- Something leaves the block. -/
def emit (e : Emit) (s : State) : State := { s with outbox := e :: s.outbox }

/-- Several things leave, in order. -/
def emits (es : List Emit) (s : State) : State := { s with outbox := es.reverse ++ s.outbox }

/-- A fresh index for a free value. -/
def takeFresh (s : State) : Nat × State := (s.fresh, { s with fresh := s.fresh + 1 })

/-- Whether a power domain is on; the index is in the bit order of `domains_on` (R61). -/
def domOn (s : State) (d : Fin 12) : Bool := s.pwr.domains[d]

/-! ### Lanes (R266, R273, R286, R287) -/

/-- The power domain of a lane (R266). -/
def laneDomain (n : Nat) : Fin 12 := if n < 24 then 9 else if n < 32 then 10 else if n < 34 then 3 else 9

/-- Whether a lane's domain is on. -/
def lanePowered (s : State) (n : Nat) : Bool := domOn s (laneDomain n)

/-- A lane changed. -/
def modLane (n : Nat) (f : Lane → Lane) (s : State) : State :=
  if h : n < 36 then { s with lan.lane := upd s.lan.lane ⟨n, h⟩ f } else s

/-- A lane's record. -/
def laneOf (s : State) (n : Nat) : Lane := if h : n < 36 then s.lan.lane[n]'h else {}

/-- Whether a lane is UP. -/
def laneUp (s : State) (n : Nat) : Bool := lanePowered s n && (laneOf s n).state == .up

/-- The lane in use for a function: its own, or the spare it moved to. -/
def usedLane (s : State) (n : Nat) : Nat := (laneOf s n).spare.getD n

/-! ### Packets (R374 to R377) -/

/-- The class of a message: that of R375, a command or reply of priority 3 with at most 30 words being urgent. -/
def packetClass (type : Nat) (ws : List W64) : Nat :=
  if type = 0x48 ∨ type = 0x49 then (if fld (ws.getD 0 0) 41 40 = 3 ∧ ws.length ≤ 30 then 0 else 2)
  else if type = 0x40 ∨ type = 0x41 ∨ type = 0x57 ∨ type = 0x5C then 3
  else if type = 0x51 ∨ type = 0x52 ∨ type = 0x53 ∨ type = 0x55 then 1
  else 0

/-- The words of a packet on a lane under a link sequence and an acknowledgement (R374). -/
def linkWords (p : Packet) (lseq ack : Nat) : List W64 :=
  let ws := [word (put lseq 48 + put p.hops 32 + put p.cls 28 + put p.src 16 + p.dest),
             word (put (p.eseq % 2 ^ 32) 32 + put ack 16 + p.words.length)] ++ p.words
  ws ++ [word (crc32c (wordsBytes ws))]

/-- The link layer of lane 24 + i changed. -/
def modLink (i : Nat) (f : LinkLane → LinkLane) (s : State) : State :=
  if h : i < 8 then { s with ura.links := upd s.ura.links ⟨i, h⟩ f } else s

/-- The link layer of lane 24 + i. -/
def linkOf (s : State) (i : Nat) : LinkLane := if h : i < 8 then s.ura.links[i]'h else {}

/-- The highest `lseq` received in order on lane 24 + i. -/
def ackOf (s : State) (i : Nat) : Nat := ((linkOf s i).expect + 65535) % 65536

/-- The bytes in a replay buffer. -/
def replayBytes (l : LinkLane) : Nat := (l.sent.map fun e => 8 * (e.2.2.words.length + 3)).sum

/-- A packet is sent on lane 24 + i, into its replay buffer, when the lane is UP and the buffer of 32 KiB has room; else it waits (R377). -/
def transmit (i : Nat) (p : Packet) (s : State) : State :=
  let l := linkOf s i
  if laneUp s (usedLane s (24 + i)) && decide (replayBytes l + 8 * (p.words.length + 3) ≤ 32768) then
    emit (.packet (usedLane s (24 + i)) p.type (linkWords p l.lseq (ackOf s i)))
      (modLink i (fun l => { l with lseq := (l.lseq + 1) % 65536, sent := l.sent ++ [(l.lseq, 0, p)], lastTx := s.now }) s)
  else modLink i (fun l => { l with waiting := l.waiting ++ [p] }) s

/-- The lane index of a port that carries a class: lane 0 for classes 0 and 1, lane 1 for 2 and 3, the other one while it is down (R376). -/
def laneFor (s : State) (port cls : Nat) : Nat :=
  let own := 2 * port + (if cls < 2 then 0 else 1)
  let other := 2 * port + (if cls < 2 then 1 else 0)
  if laneUp s (usedLane s (24 + own)) then own else if laneUp s (usedLane s (24 + other)) then other else own

/-- A packet leaves through a port. -/
def sendPort (port : Nat) (p : Packet) (s : State) : State := transmit (laneFor s port p.cls) p s

/-- Whether a port is in use (R371). -/
def portUsed (s : State) (p : Nat) : Bool := bit s.ura.ports p

/-- Whether a port has a lane UP. -/
def portUp (s : State) (p : Nat) : Bool := laneUp s (usedLane s (24 + 2 * p)) || laneUp s (usedLane s (25 + 2 * p))

/-- The ports that a broadcast leaves through: every port in use but the one it came in by; in a dual ring ring A, while it is whole (R379). -/
def castPorts (s : State) (from_ : Option Nat) : List Nat :=
  let ring := s.ura.topology == 2 && portUp s 0 && portUp s 1
  (List.range 4).filter fun p => portUsed s p && from_ != some p && (!ring || decide (p < 2))

/-- The port of the route to a node. -/
def routePort (s : State) (node : Nat) : Option Nat := (s.ura.routes.find? fun r => r.node == node).map (·.port)

/-- A packet goes its way: to every port of a broadcast, through the port of its route, or, without a route, away and counted (R378, R379). -/
def routePacket (p : Packet) (from_ : Option Nat) (s : State) : State :=
  if p.dest = 2047 then (castPorts s from_).foldl (fun s k => sendPort k p s) s
  else match routePort s p.dest with
    | some k => sendPort k p s
    | none => { s with ura.dropped := s.ura.dropped + 1 }

/-- The next end-to-end sequence for a destination and a class. -/
def eseqOf (s : State) (dest cls : Nat) : Nat := ((s.ura.eseqs.find? fun e => e.1 == (dest, cls)).map (·.2)).getD 0

/-- This node originates a packet (R374). A node without an ID, in conflict, or with RING off originates nothing (R373). -/
def uraraSend (dest type : Nat) (ws : List W64) (s : State) : State :=
  if s.node = 0 || s.ura.conflict || !domOn s 10 then s
  else
    let cls := packetClass type ws
    let n := eseqOf s dest cls
    let p : Packet := { dest := dest, src := s.node, cls := cls, eseq := n, type := type, words := ws }
    let s := { s with ura.eseqs := s.ura.eseqs.filter (fun e => e.1 != (dest, cls)) ++ [((dest, cls), n + 1)] }
    routePacket p none (emit (.urara dest type ws) s)

end Sys2Proof.Machine
end

