-- ==== Sys2Proof/Machine/Ops.lean ====
section
/-!
DEFINITION. The named operations every family uses: elapsed time and device time, outputs, Crier events and
faults, interrupts, the life of a command (start, final reply, hand-over), and the units that wait for rings.
-/
namespace Sys2Proof.Machine

/-! ### Time (R9, R345) -/

/-- Device time advances by the elapsed nanoseconds times 1 + ρ (R345); a moment already past changes nothing (R348). -/
def advance (t : Nat) (s : State) : State :=
  { s with
    now := max s.now t,
    time.clk.acc := s.time.clk.acc + ((t - s.now) * (2 ^ 48 + s.time.clk.rho)).toNat }

/-- Device time in 2⁻¹⁶ ns (R9). -/
def devTime (s : State) : Nat := s.time.clk.acc / 2 ^ 32

/-- Device time in whole nanoseconds. -/
def devNs (s : State) : Nat := s.time.clk.acc / 2 ^ 48

/-- The seconds field of device time (R9). -/
def devSec (s : State) : Nat := devNs s / 1000000000

/-- The seconds word of a time in 2⁻¹⁶ ns. -/
def stampSec (x : Nat) : Nat := x / (65536 * 1000000000)

/-- The word of nanoseconds in [45:16] and fraction in [15:0] of a time in 2⁻¹⁶ ns (R366, R513). -/
def stampSub (x : Nat) : Nat := x % (65536 * 1000000000)

/-! ### Interrupts (R81, R82) -/

/-- The MSI-X vector an INT_STATUS bit uses (R81, R82). -/
def intVectorOf (b : Bar) (i : Nat) : Nat :=
  if h : i < 16 then (b.rings[i]'h).vector
  else if h : i < 32 then (b.rings[i - 16]'(by omega)).vector
  else b.intVector

/-- A vector's message is sent, or kept in the pending-bit array while MSI-X masks it (R82). -/
def sendVector (v : Nat) (s : State) : State :=
  if h : v < 32 then
    if (s.bar.msix[v]'h).masked then { s with bar.pba := s.bar.pba ||| 2 ^ v }
    else emit (.msi v) s
  else s

/-- A bit of INT_STATUS is set; an enabled bit that goes from 0 to 1 sends its vector (R82). -/
def setInt (i : Nat) (s : State) : State :=
  let was := s.bar.intStatus.getLsbD i
  let s := { s with bar.intStatus := s.bar.intStatus ||| BitVec.ofNat 64 (2 ^ i) }
  if !was && s.bar.intEnable.getLsbD i then sendVector (intVectorOf s.bar i) s else s

/-! ### Crier events and faults (R513 to R515, R541 to R543) -/

/-- The power domain a code's reporting block lies in, by the group of the code (R513, R542; DEDUCED from R21). -/
def sourceOf (code : Nat) : Nat :=
  match code / 256 with
  | 0x02 => 9 | 0x04 => 9 | 0x06 => 3 | 0x07 => 11 | 0x08 => 1 | 0x09 => 10 | 0x0B => 9
  | _ => 2

/-- The oldest class 3 record gives way (R515). -/
def dropOldestProduct : List Event → List Event
  | [] => []
  | e :: es => if e.cls = 3 then es else e :: dropOldestProduct es

/-- One event enters the Crier queue, or is counted in `lost` (R514, R515, R571). -/
def crierPut (e : Event) (s : State) : State :=
  let sec := stampSec e.time
  let sent := if sec = s.cri.sec then s.cri.sent else Vector.replicate 5 0
  let s := { s with cri.sec := sec, cri.sent := sent }
  let k := e.cls
  if !bit s.cri.mask k then s
  else if h : k < 5 then
    if s.cri.rate ≤ sent[k] then { s with cri.lost := s.cri.lost + 1 }
    else
      let s : State := { s with cri.sent := sent.set k (sent[k] + 1) }
      let n := s.cri.queue.length
      if n < 3840 ∨ (3 ≤ k ∧ n < 4096) then
        let s := { s with cri.queue := s.cri.queue ++ [e] }
        if decide (3 ≤ k) && s.cri.ringOn then setInt 34 s else s
      else if k == 4 && s.cri.queue.any (fun x => x.cls == 3) then
        { s with cri.queue := dropOldestProduct s.cri.queue ++ [e], cri.lost := s.cri.lost + 1 }
      else { s with cri.lost := s.cri.lost + 1 }
  else s

/-- A Crier event of a class at the present device time (R513). -/
def event (code cls detail : Nat) (s : State) : State :=
  crierPut { code := code, cls := cls, source := sourceOf code, time := devTime s, detail := detail } s

/-- A notice (R516). -/
def notify (code detail : Nat) (s : State) : State := event code 0 detail s

/-- A Stall's grant is latched off, and its permit released at the end of the line in progress, or at once where none is (R261, R262). -/
def latchStall (now : Nat) (st : Stall) : Stall :=
  let busy := decide (now < st.lineEnd)
  { st with
    faultLat := st.faultLat || st.granted,
    permit := st.permit && busy,
    withdraw := if st.permit && busy then some (st.withdraw.getD st.lineEnd) else none }

/-- A unit that is LEAD or SYNCED is to yield, for a fault or, with code 0, on command (R395). -/
def dueYield (code : Nat) (s : State) : State :=
  if (s.twn.role == .lead || s.twn.role == .synced) && !s.twn.yieldDue then
    { s with twn.yieldDue := true, twn.yieldCode := code }
  else s

/-- What a device-class fault does beside being reported (R541): it becomes active, every permit is to be released at the
end of the line in progress (R262), and a unit of a pair yields (R395). -/
def deviceFault (code : Nat) (s : State) : State :=
  if code ∈ s.flt.active then s else
  let first := s.flt.active.isEmpty
  dueYield code { s with
    flt.active := s.flt.active ++ [code],
    flt.since := if first then s.mot.line else s.flt.since,
    flt.sinceAt := if first then s.now else s.flt.sinceAt,
    stl := s.stl.map (latchStall s.now) }

/-- A fault is raised: counted by its class, sent as an event, and acted on (R541, R543, R550). -/
def raise (code detail : Nat) (s : State) : State :=
  let k := classOf code
  let s := event code k detail s
  if k = 1 then { s with flt.correctable := sat 0xFFFFFFFF (s.flt.correctable + 1) }
  else if k = 2 then { s with flt.line := sat 0xFFFF (s.flt.line + 1) }
  else if k = 3 then { s with flt.product := sat 0xFFFF (s.flt.product + 1) }
  else
    let s := { s with flt.deviceCount := sat 255 (s.flt.deviceCount + 1) }
    if code = FaultCode.headOvertemp then s else deviceFault code s

/-! ### The Granary (R511, R512) -/

/-- The record of a Granary entry's uses. -/
def granaryOf (s : State) (kind inst : Nat) : GranaryUse :=
  (s.bgd.uses.find? fun g => g.kind == kind && g.inst == inst).getD { kind := kind, inst := inst }

/-- The record of a Granary entry's uses replaced. -/
def putGranary (g : GranaryUse) (s : State) : State :=
  { s with bgd.uses := (s.bgd.uses.filter fun x => !(x.kind == g.kind && x.inst == g.inst)) ++ [g] }

/-- The moment of a use is kept (R511). -/
def granaryCount (kind inst : Nat) (s : State) : State :=
  let g := granaryOf s kind inst
  putGranary { g with uses := devSec s :: g.uses } s

/-- A unit of a spare is used: its moment is kept, and GRANARY_LOW is reported once when what remains falls to a limit (R511, R512). -/
def granaryUse (kind inst limit remaining : Nat) (s : State) : State :=
  let s := granaryCount kind inst s
  let g := granaryOf s kind inst
  let low := decide (remaining ≤ limit) && !g.lowSent
  let s := putGranary { g with lowSent := g.lowSent || low } s
  if low then notify Notice.granaryLow (put remaining 32 + put inst 8 + kind) s else s

/-- A command has written configuration records anew: their failure is mended (R482). -/
def mendConfig (p : LedgerHit → Bool) (s : State) : State := { s with led.broken := s.led.broken.filter fun h => !p h }

/-- Whether a device-class fault is active (R547). -/
def faulted (s : State) : Bool := !s.flt.active.isEmpty

/-! ### Replies (R31 to R33, R36) -/

/-- The words of a reply before its trailer (R31, R32). -/
def replyWords (c : Slot) (node : Nat) (final dup : Bool) (status fault : Nat) (results : List W64) : List W64 :=
  let auth := c.session ≠ 0
  let flags := flag final + 2 * flag auth + 4 * flag dup + 8 * flag c.bcast
  [ word (put c.op 48 + put c.tag 42 + put c.prio 40 + put results.length 32 + put flags 24 + status),
    word (put c.session 32 + put node 16 + c.srcNode),
    word (put (if status / 256 = 5 then fault else 0) 48 + c.seq) ] ++ results

/-- The two words of a MAC trailer (R36). -/
def macTrailer (key : List Byte) (ws : List W64) : List W64 :=
  let m := Config.cmac key (wordsBytes ws)
  [m.extractLsb' 0 64, m.extractLsb' 64 64]

/-- The session of an ID, when it is open (R35). -/
def sessionOf (s : State) (id : Nat) : Option Session := s.cmd.sessions.find? (fun x => x.id == id)

/-- A reply with its trailer under the session's reply key (R31, R36). -/
def sealReply (s : State) (session : Nat) (ws : List W64) : List W64 :=
  match sessionOf s session with
  | some x => ws ++ macTrailer x.repKey ws
  | none => ws

/-- The node ID of this device (R373). -/
def ownNode (s : State) : Nat := s.node

/-- The role a session gives its commands; session 0 is Anonymous (R35). -/
def roleOf (s : State) (session : Nat) : Role :=
  if session = 0 then .anonymous else match sessionOf s session with | some x => x.role | none => .anonymous

/-- Whether a transport is a ring. -/
def isRing : Transport → Bool
  | .ring0 => true | .ring1 => true | _ => false

/-- Whether a transport is an Ethernet port. -/
def isEth : Transport → Bool
  | .eth0 => true | .eth1 => true | _ => false

/-- The index of a transport. -/
def trIndex : Transport → Fin 5
  | .ring0 => 0 | .ring1 => 1 | .eth0 => 2 | .eth1 => 3 | .urara => 4

/-- A reply goes to its transport: to the queue of ring 2 in commit order (R47), in a datagram of its own
(R48), or over the link (R49). With PCIE off a reply due on ring 2 is dropped (R51). -/
def sendReply (tr : Transport) (src cid : Nat) (ws : List W64) (s : State) : State :=
  if isRing tr then
    if domOn s 4 then { s with cmd.replyQ := s.cmd.replyQ ++ [(cid, ws)] } else s
  else
    let s := emit (.reply tr src ws) s
    if tr = .urara then uraraSend src 0x49 ws s else s

/-- The slot of an acceptance number. -/
def slotOf (s : State) (cid : Nat) : Option Slot := s.cmd.slots.find? (fun c => c.cid == cid)

/-- The slot of an acceptance number is changed. -/
def modSlot (cid : Nat) (f : Slot → Slot) (s : State) : State :=
  { s with cmd.slots := mapWhere (fun x => x.cid == cid) f s.cmd.slots }

/-- A session is changed. -/
def modSession (id : Nat) (f : Session → Session) (s : State) : State :=
  { s with cmd.sessions := mapWhere (fun x => x.id == id) f s.cmd.sessions }

/-- A session's cache entry for a sequence receives the final reply (R38). -/
def cacheReply (session seq : Nat) (ws : List W64) (s : State) : State :=
  modSession session (fun x => { x with cache := x.cache.map fun e => if e.1 == seq then (seq, ws) else e }) s

/-- A session ends: the device forgets it and its keys (R39). -/
def endSession (session : Nat) (s : State) : State :=
  { s with cmd.sessions := s.cmd.sessions.filter (fun x => x.id != session) }

/-- A slot is freed because its command's final reply has been handed over (R41), and what waits for that hand-over
takes place: a port's new settings (R55), the end of a session (R39). -/
def handedOver (cid : Nat) (s : State) : State :=
  match slotOf s cid with
  | none => s
  | some c =>
    let s := { s with
      cmd.slots := s.cmd.slots.filter (fun x => x.cid != cid),
      net := s.net.map fun p =>
        if p.nextCid = cid then
          match p.next with
          | some n => { p with cfg := n, next := none, nextCid := 0, rate := if n.speed = 0 then p.rate else n.speed }
          | none => p
        else p }
    let others := s.cmd.slots.any (fun x => x.session == c.session)
    let closing := match sessionOf s c.session with | some x => x.closing | none => false
    if c.session != 0 && (c.seq == 0xFFFFFF || (closing && !others)) then endSession c.session s else s

/-- A command's execution ends: its final reply is committed (R33), kept in the reply cache (R38) and sent on its way; with
`quiet` or in a broadcast and status 0 no reply is sent and the slot frees at once (R28, R41, R50). -/
def finish (cid status fault : Nat) (results : List W64) (s : State) : State :=
  match slotOf s cid with
  | none => s
  | some c =>
    if (c.quiet || c.bcast) && status == 0 then handedOver cid s
    else
      let ws := sealReply s c.session (replyWords c (ownNode s) true false status fault results)
      let s := cacheReply c.session c.seq ws s
      let s := modSlot cid (fun x => { x with phase := .committed, status := status, reply := ws }) s
      match c.tr with
      | .urara => handedOver cid (sendReply .urara c.src cid ws s)
      | .eth0 => s
      | .eth1 => s
      | _ => if domOn s 4 then sendReply c.tr c.src cid ws s else handedOver cid s

/-- A command ends Done with no result words. -/
def done (c : Slot) (s : State) : State := finish c.cid Status.done 0 [] s

/-- A command ends Done with result words. -/
def answer (c : Slot) (results : List W64) (s : State) : State := finish c.cid Status.done 0 results s

/-- A command is refused with a status of classes 0x01 to 0x04; it has no effect (R34). -/
def refuse (c : Slot) (status : Nat) (s : State) : State := finish c.cid status 0 [] s

/-- A command ends with a hardware-fault status and the fault's code (R34, R546). -/
def failWith (c : Slot) (status fault : Nat) (s : State) : State := finish c.cid status fault [] s

/-! ### Starting commands (R44) -/

/-- The group of an opcode (R27). -/
def groupOf (op : Nat) : Nat := op / 256

/-- The slots accepted before one. -/
def earlier (s : State) (c : Slot) : List Slot := s.cmd.slots.filter (fun x => x.cid < c.cid)

/-- SESSION_CLOSE acts as if `fence` were 1 (R51). -/
def fences (c : Slot) : Bool := c.fence || c.op == Op.sessionClose

/-- Rules 1 and 2 of R44: no fence holds the command, and no earlier command of its session and group waits. -/
def eligible (s : State) (c : Slot) : Bool :=
  let mine := (earlier s c).filter (fun x => x.session == c.session)
  c.phase == .waiting
    && !(fences c && !mine.isEmpty)
    && !mine.any fences
    && !mine.any (fun x => groupOf x.op == groupOf c.op && x.phase == .waiting)

/-- The commands executing (R44). -/
def executing (s : State) : Nat := (s.cmd.slots.filter (fun c => c.phase == .executing)).length

/-- Whether a waiting command may start now: an execution place is free, no takeover (R24) and no activation pause (R508)
holds commands back, it is eligible, and no eligible command ranks before it (R44). -/
def mayStart (s : State) (c : Slot) : Bool :=
  decide (executing s < 8) && !s.bgd.takeover && s.cmd.intakeOpen && s.pwr.ready && eligible s c
    && s.cmd.slots.all (fun x =>
      !eligible s x || x.cid == c.cid || decide (x.prio < c.prio)
        || (x.prio == c.prio && decide (c.cid < x.cid)))

/-- The command of an acceptance number starts, when it has the opcode and may start (R44). -/
def startCmd (op cid : Nat) (s : State) : Option (Slot × State) :=
  match slotOf s cid with
  | none => none
  | some c =>
    if c.op == op && mayStart s c then
      some (c, modSlot cid (fun x => { x with phase := .executing }) s)
    else none

/-- A command's step: time reaches its moment; if the command may start it takes its effect, and otherwise the step does
not occur. -/
def onStart (op t cid : Nat) (k : Slot → State → State) (s : State) : Host.Outcome State Fault Refusal :=
  let s := advance t s
  .next (match startCmd op cid s with
    | none => s
    | some (c, s) => k c s)

/-- An event's step: time reaches its moment and the event takes its effect. -/
def onEvent (t : Nat) (k : State → State) (s : State) : Host.Outcome State Fault Refusal :=
  .next (k (advance t s))

/-- Parameter word i of a command. -/
def par (c : Slot) (i : Nat) : W64 := c.params.getD i 0

/-- Parameter word i as a number. -/
def parN (c : Slot) (i : Nat) : Nat := (par c i).toNat

/-- Bits [hi:lo] of parameter word i. -/
def parF (c : Slot) (i hi lo : Nat) : Nat := fld (par c i) hi lo

/-- Bit b of parameter word i. -/
def parB (c : Slot) (i b : Nat) : Bool := fbit (par c i) b

/-- Parameter word i of the command of an acceptance number, before it starts. -/
def parOf (s : State) (cid i : Nat) : W64 := match slotOf s cid with | some c => par c i | none => 0

/-- The executing command of an acceptance number and opcode: a later step of a long command. -/
def running (op cid : Nat) (s : State) : Option Slot :=
  match slotOf s cid with
  | none => none
  | some c => if c.op == op && c.phase == .executing then some c else none

/-- The executing command of an opcode, when there is one. -/
def runningOp (op : Nat) (s : State) : Option Slot :=
  s.cmd.slots.find? (fun c => c.op == op && c.phase == .executing)

/-! ### Units that wait for rings (R64, R71) -/

/-- Units are queued for a device-to-host ring. -/
def queueUnits (r : Nat) (us : List OutUnit) (s : State) : State :=
  if h : r < 16 then { s with bar.work := upd s.bar.work ⟨r, h⟩ fun w => { w with units := w.units ++ us } } else s

/-- Whether a ring has one of some roles (R64). -/
def ringHas (s : State) (r : Nat) (roles : List RingRole) : Bool :=
  if h : r < 16 then decide ((s.bar.rings[r]'h).role ∈ roles) else false

/-- A ring that a command may name for output: role 5 or 8 (R64). -/
def outRing (s : State) (r : Nat) : Bool := ringHas s r [.recordsOut, .generalOut]

/-- A ring that a command may name for input: role 4 or 7 (R64). -/
def inRing (s : State) (r : Nat) : Bool := ringHas s r [.jobIn, .generalIn]

/-- A command's output leaves as units on a ring; the last one ends the command. -/
def outputOn (c : Slot) (r : Nat) (units : List (List Byte)) (s : State) : State :=
  queueUnits r (units.zipIdx.map fun p => { data := p.1, cid := c.cid, final := decide (p.2 + 1 = units.length) }) s

end Sys2Proof.Machine
end

