-- ==== Sys2Proof/Machine/Memory.lean ====
section
/-!
DEFINITION. The Well's bytes: a list of cells in one canonical form (addresses strictly rising, no cell equal to what an
unlisted address reads as), single bytes and ranges read and written, the poisoned bursts of R457, and the judgement of a Well
range that a command names (R65, R573).
-/
namespace Sys2Proof.Machine

/-- What a byte of the Well reads as before anything was written to it (DESIGN CHOICE: the spec gives none). -/
def Memory.unlisted : Byte := 0

/-- The canonical form from a lower bound: every address at or above it, strictly rising, no unlisted value. -/
def Memory.wfFrom : Nat → List Host.Cell → Bool
  | _, [] => true
  | lo, (a, b) :: rest => decide (lo ≤ a) && b != Memory.unlisted && Memory.wfFrom (a + 1) rest

/-- The canonical form of the Well's contents. -/
def Memory.wf (m : List Host.Cell) : Bool := Memory.wfFrom 0 m

/-- One byte read. -/
def Memory.read : List Host.Cell → Nat → Byte
  | [], _ => Memory.unlisted
  | (a, b) :: rest, x => if x = a then b else if x < a then Memory.unlisted else Memory.read rest x

/-- One byte written, keeping the canonical form. -/
def Memory.write : List Host.Cell → Nat → Byte → List Host.Cell
  | [], x, v => if v = Memory.unlisted then [] else [(x, v)]
  | (a, b) :: rest, x, v =>
    if x < a then (if v = Memory.unlisted then (a, b) :: rest else (x, v) :: (a, b) :: rest)
    else if x = a then (if v = Memory.unlisted then rest else (a, v) :: rest)
    else (a, b) :: Memory.write rest x v

/-- Bytes written at rising addresses. -/
def Memory.writeAll : List Host.Cell → Nat → List Byte → List Host.Cell
  | m, _, [] => m
  | m, x, v :: vs => Memory.writeAll (Memory.write m x v) (x + 1) vs

/-- n bytes read at rising addresses. -/
def Memory.readAll (m : List Host.Cell) : Nat → Nat → List Byte
  | 0, _ => []
  | n + 1, x => Memory.read m x :: Memory.readAll m n (x + 1)

/-- n bytes of the Well. -/
def wellRead (s : State) (addr n : Nat) : List Byte := Memory.readAll s.well.mem n addr

/-- n words of the Well. -/
def wellWords (s : State) (addr n : Nat) : List W64 := wordsOf (wellRead s addr (8 * n))

/-- Whether a range meets a poisoned burst (R457). -/
def poisoned (s : State) (addr n : Nat) : Bool :=
  decide (0 < n) && s.well.poison.any (fun b => decide (addr / 64 ≤ b) && decide (b ≤ (addr + n - 1) / 64))

/-- The fields of a Well address (R458): its row, with device 0, and its sub-channel. -/
def wellRow (w : Well) (a : Nat) : DramRow × Nat :=
  let c := if w.x4 then 7 else 6
  let b := if w.density = 8 then 1 else 2
  let k := w.ranks - 1
  let top := 11 + c
  let row := bits a (top + b + k + 16) (top + b + k)
  ({ ch := if (bit a 7) != (bit row 3) then 1 else 0, rank := bits a (top + b + k) (top + b) % 2 ^ k, bg := bits a 10 8 ^^^ row % 8,
     bank := bits a (top + b - 1) top, row := row, dev := 0 }, bits a 6 6)

/-- A channel of the Well changed. -/
def modChan (ch : Fin 2) (f : WellChan → WellChan) (s : State) : State := { s with well.chans := upd s.well.chans ch f }

/-- A read has met an uncorrectable burst: it is counted by its channel and WELL_UNCORRECTABLE names its address (R457, R477). -/
def badBurst (burst : Nat) (s : State) : State :=
  raise FaultCode.wellUncorrectable (64 * burst)
    (modChan (wellRow s.well (64 * burst)).1.ch (fun c => { c with uncorr := sat 0xFFFFFFFF (c.uncorr + 1) }) s)

/-- A read of a range has met its first poisoned burst (R457). -/
def wellBad (addr n : Nat) (s : State) : State :=
  badBurst ((s.well.poison.filter fun b => decide (addr / 64 ≤ b) && decide (b ≤ (addr + n - 1) / 64)).foldl min ((addr + n - 1) / 64)) s

/-- A write that merges into a poisoned burst writes it poisoned again, and is counted (R460, R477). -/
def countPoison (bs : List Nat) (s : State) : State :=
  bs.foldl (fun s b => modChan (wellRow s.well (64 * b)).1.ch (fun c => { c with poisonW := sat 0xFFFFFFFF (c.poisonW + 1) }) s) s

/-- Bytes are written to the Well. A burst written whole is good again, and one written in part stays poisoned (R457, R460). -/
def wellWrite (addr : Nat) (bs : List Byte) (s : State) : State :=
  let whole := fun b => decide (addr ≤ 64 * b) && decide (64 * b + 64 ≤ addr + bs.length)
  let met := fun b => decide (0 < bs.length) && decide (addr / 64 ≤ b) && decide (b ≤ (addr + bs.length - 1) / 64)
  countPoison (s.well.poison.filter fun b => met b && !whole b)
    { s with
      well.mem := Memory.writeAll s.well.mem addr bs,
      well.poison := s.well.poison.filter fun b => !whole b }

/-- The end of the host range (R65). -/
def hostEnd (s : State) : Nat := s.well.bytes - 8 * 2 ^ 30

/-- The status of R573 for a range that a command names, judged in its order: beyond the fitted Well, in the device region. -/
def rangeFailure (s : State) (addr n : Nat) : Option Nat :=
  if s.well.bytes < addr + n then some Status.badRange
  else if hostEnd s < addr + n then some Status.protectedRange
  else none

/-- A command goes on with a Well object that it reads, unless R573 refuses the range. -/
def withObject (c : Slot) (addr n : Nat) (k : List Byte → State → State) (s : State) : State :=
  match rangeFailure s addr n with
  | some st => refuse c st s
  | none =>
    if poisoned s addr n then
      failWith c Status.faultNoEffect FaultCode.wellUncorrectable (wellBad addr n s)
    else k (wellRead s addr n) s

/-- A command goes on with a Well range that it writes, unless R573 refuses the range. -/
def withRange (c : Slot) (addr n : Nat) (k : State → State) (s : State) : State :=
  match rangeFailure s addr n with
  | some st => refuse c st s
  | none => k s

end Sys2Proof.Machine
end

