-- ==== Sys2Proof/Machine/Sheaf.lean ====
section
/-!
DEFINITION. Sheaf: the block header and its guards (R124 to R127, R131), the tokens and their decoding with every result code
(R128 to R133), whole blocks, single segments and streams, the slice-decompressor cost of a segment (R150) and the record
compressor's block (R137, R138).
-/
namespace Sys2Proof.Machine

/-- The result codes of R131 and R132; SHF_OK is the absence of one. -/
abbrev Shf.header : Nat := 1
/-- SHF_LIMIT. -/
abbrev Shf.limit : Nat := 2
/-- SHF_EXPANSION. -/
abbrev Shf.expansion : Nat := 3
/-- SHF_TOKEN. -/
abbrev Shf.token : Nat := 4
/-- SHF_DISTANCE. -/
abbrev Shf.distance : Nat := 5
/-- SHF_OVERRUN. -/
abbrev Shf.overrun : Nat := 6
/-- SHF_UNDERRUN. -/
abbrev Shf.underrun : Nat := 7
/-- SHF_CHECK. -/
abbrev Shf.check : Nat := 8

/-- The fields of a block header (R125) with the segment table (R126): payload offset and check of each segment. -/
structure SheafHead where
  raw     : Bool
  last    : Bool
  kind    : Nat
  segs    : Nat
  outSize : Nat
  inSize  : Nat
  check   : Nat
  table   : List (Nat × Nat)
  deriving DecidableEq, Repr

/-- Offsets that rise strictly and stay below a bound (R126, R131). -/
def risesBelow (bound : Nat) : Nat → List Nat → Bool
  | _, [] => true
  | lo, x :: xs => decide (lo < x) && decide (x < bound) && risesBelow bound x xs

/-- The bytes before the payload. -/
def SheafHead.lead (h : SheafHead) : Nat := 16 + (if h.segs = 1 then 0 else 8 * h.segs)

/-- The total length of a block (R127). -/
def SheafHead.total (h : SheafHead) : Nat := 8 * ceilDiv (h.lead + h.inSize) 8

/-- The header and table of a block as they stand in its first bytes. -/
def sheafHead (bs : List Byte) : SheafHead :=
  let w0 := word (leAt bs 0 8)
  let w1 := word (leAt bs 8 8)
  let segs := fld w0 27 24 + 1
  { raw := fbit w0 20, last := fbit w0 21, kind := fld w0 23 22, segs := segs,
    outSize := fld w0 48 32, inSize := fld w1 31 0, check := fld w1 63 32,
    table := if segs = 1 then [(0, fld w1 63 32)]
      else (List.range segs).map fun k => (leAt bs (16 + 8 * k) 4, leAt bs (20 + 8 * k) 4) }

/-- Check 1 of R131: magic, version, kind, reserved fields, sizes and offsets. -/
def headerOk (bs : List Byte) (h : SheafHead) : Bool :=
  let w0 := word (leAt bs 0 8)
  fld w0 15 0 == 0x5346 && fld w0 19 16 == 1 && decide (h.kind ≤ 2) && fld w0 31 28 == 0 && fld w0 63 49 == 0
    && decide (1 ≤ h.outSize) && decide (h.outSize ≤ 65536) && h.outSize % h.segs == 0
    && (!h.raw || (h.segs == 1 && h.inSize == h.outSize))
    && (match h.table with
        | [] => false
        | (o, _) :: rest => o == 0 && (h.segs == 1 || decide (0 < h.inSize)) && risesBelow h.inSize 0 (rest.map (·.1)))
    && decide (h.total ≤ bs.length)

/-- Every guard of R131, in order: the code of the first that fails. `shape` fixes `out_size` and S where the use does. -/
def guardFailure (bs : List Byte) (h : SheafHead) (kind limit : Nat) (shape : Option (Nat × Nat)) : Option Nat :=
  if !headerOk bs h then some Shf.header
  else if h.kind ≠ kind then some Shf.header
  else if (match shape with | some (o, n) => h.outSize != o || h.segs != n | none => false) then some Shf.header
  else if limit < h.outSize then some Shf.limit
  else if !h.raw && decide (1024 * h.inSize < h.outSize) then some Shf.expansion
  else none

/-- One token (R128): its kind (0 literal, 1 match, 2 plane-run), its length, distance or value, and the bytes it takes before
any literal bytes. -/
structure Token where
  kind  : Nat
  len   : Nat
  arg   : Nat
  taken : Nat
  deriving DecidableEq, Repr

/-- The token at the head of a payload: a code where its control byte is invalid or the payload ends inside it (R128, R132). -/
def readToken (bs : List Byte) : Except Nat Token :=
  match bs with
  | [] => .error Shf.underrun
  | c :: rest =>
    let n := c.toNat % 64
    let kind := c.toNat / 64
    if kind = 3 then .error Shf.token
    else
      let ext := if n = 63 then 2 else 0
      let argLen := if kind = 1 then 2 else if kind = 2 then 1 else 0
      if rest.length < ext + argLen then .error Shf.underrun
      else
        let e := leAt rest 0 2
        let base := if kind = 1 then 4 else 1
        let len := if n = 63 then 63 + base + e else n + base
        .ok { kind := kind, len := len, arg := leAt rest ext argLen, taken := 1 + ext + argLen }

/-- A match copies one byte at a time from d + 1 back; `out` is the segment's output newest first (R129). -/
def copyMatch : Nat → Nat → List Byte → List Byte
  | 0, _, out => out
  | n + 1, d, out => copyMatch n d (out.getD d 0 :: out)

/-- The tokens of one segment: its whole output, newest byte first, or the code of the first event of R132. `fuel` bounds the tokens
by the payload bytes; every token takes at least one. -/
def decodeTokens (size : Nat) : Nat → List Byte → List Byte → Except Nat (List Byte)
  | 0, _, _ => .error Shf.underrun
  | fuel + 1, bs, out =>
    let filled := out.length
    if bs.isEmpty then (if filled = size then .ok out else .error Shf.underrun)
    else if filled = size then .error Shf.underrun
    else match readToken bs with
      | .error e => .error e
      | .ok t =>
        let rest := bs.drop t.taken
        if size < filled + t.len then .error Shf.overrun
        else match t.kind with
          | 0 =>
            if rest.length < t.len then .error Shf.underrun
            else decodeTokens size fuel (rest.drop t.len) ((rest.take t.len).reverse ++ out)
          | 1 =>
            if filled ≤ t.arg then .error Shf.distance
            else decodeTokens size fuel rest (copyMatch t.len t.arg out)
          | _ => decodeTokens size fuel rest (List.replicate t.len (BitVec.ofNat 8 t.arg) ++ out)

/-- The payload bytes of segment k of a block. -/
def segPayload (bs : List Byte) (h : SheafHead) (k : Nat) : List Byte :=
  let start := (h.table.getD k (0, 0)).1
  let stop := match h.table[k + 1]? with | some e => e.1 | none => h.inSize
  ((bs.drop (h.lead + start)).take (stop - start))

/-- The output of segment k, decoded and checked against its `seg_check` (R129, R130, R132). -/
def decodeSegment (bs : List Byte) (h : SheafHead) (k : Nat) : Except Nat (List Byte) :=
  let size := h.outSize / h.segs
  let pay := segPayload bs h k
  let r := if h.raw then .ok pay else (decodeTokens size (pay.length + 1) pay []).map List.reverse
  match r with
  | .error e => .error e
  | .ok out => if crc32c out = (h.table.getD k (0, 0)).2 then .ok out else .error Shf.check

/-- The outputs of segments k, k+1, ... of a block joined. -/
def decodeSegments (bs : List Byte) (h : SheafHead) : Nat → Nat → Except Nat (List Byte)
  | 0, _ => .ok []
  | n + 1, k =>
    match decodeSegment bs h k with
    | .error e => .error e
    | .ok a =>
      match decodeSegments bs h n (k + 1) with
      | .error e => .error e
      | .ok b => .ok (a ++ b)

/-- A whole block: guards, segments, padding and the block check (R131, R132). -/
def decodeBlock (bs : List Byte) (kind limit : Nat) (shape : Option (Nat × Nat)) : Except Nat (List Byte) :=
  let h := sheafHead bs
  match guardFailure bs h kind limit shape with
  | some e => .error e
  | none =>
    match decodeSegments bs h h.segs 0 with
    | .error e => .error e
    | .ok out =>
      let pad := (bs.take h.total).drop (h.lead + h.inSize)
      if pad.any (fun b => b != 0) then .error Shf.token
      else if crc32c out ≠ h.check then .error Shf.check
      else .ok out

/-- An artwork tile: kind 0, 65,536 bytes in 16 segments (R139). -/
def decodeTile (bs : List Byte) : Except Nat (List Byte) := decodeBlock bs 0 65536 (some (65536, 16))

/-- One segment of an artwork tile, after the header and the table have passed their guards (R126, R149). -/
def decodeTileSegment (bs : List Byte) (k : Nat) : Except Nat (List Byte) :=
  let h := sheafHead bs
  match guardFailure bs h 0 65536 (some (65536, 16)) with
  | some e => .error e
  | none => decodeSegment bs h k

/-- A stream of general blocks, ended by the one with `last` 1, with at most `limit` output bytes in all (R124, R139, R293). -/
def decodeStream (limit : Nat) : Nat → List Byte → Except Nat (List Byte)
  | 0, _ => .error Shf.header
  | fuel + 1, bs =>
    let h := sheafHead bs
    match decodeBlock bs 2 (min 65536 limit) none with
    | .error e => .error e
    | .ok out =>
      if h.last then .ok out
      else match decodeStream (limit - out.length) fuel (bs.drop h.total) with
        | .error e => .error e
        | .ok more => .ok (out ++ more)

/-- The cycles of one token in a slice decompressor (R150). -/
def tokenCycles (t : Token) : Nat :=
  let rate := if t.kind = 0 then 4 else if t.kind = 2 ∨ 8 ≤ t.arg + 1 then 8 else t.arg + 1
  max 1 (ceilDiv t.len rate)

/-- C_seg of a payload (R150). -/
def payloadCycles : Nat → List Byte → Nat
  | 0, _ => 0
  | fuel + 1, bs =>
    if bs.isEmpty then 0
    else match readToken bs with
      | .error _ => 0
      | .ok t => tokenCycles t + payloadCycles fuel (bs.drop (t.taken + if t.kind = 0 then t.len else 0))

/-- The largest C_seg of a tile (R150). -/
def tileCycles (bs : List Byte) : Nat :=
  let h := sheafHead bs
  ((List.range h.segs).map fun k =>
    let p := segPayload bs h k
    if h.raw then ceilDiv p.length 4 else payloadCycles (p.length + 1) p).foldl max 0

/-- The largest compressed segment of a tile, in bytes (R476). -/
def tileMaxSegment (bs : List Byte) : Nat :=
  let h := sheafHead bs
  ((List.range h.segs).map fun k => (segPayload bs h k).length).foldl max 0

/-- A block of the record compressor (R137): one segment, the tokens of the device's deterministic compressor (R138), or the bytes
themselves where the checking decode fails or the tokens are not shorter. -/
def recordBlock (last selfcheckOk : Bool) (data : List Byte) : List Byte :=
  let enc := Config.sheafEncode data
  let raw := !selfcheckOk || decide (data.length ≤ enc.length)
  let pay := if raw then data else enc
  let w0 := 0x5346 + put 1 16 + put (flag raw) 20 + put (flag last) 21 + put 1 22 + put data.length 32
  let w1 := pay.length + put (crc32c data) 32
  let body := wordBytes (word w0) ++ wordBytes (word w1) ++ pay
  body ++ List.replicate (8 * ceilDiv body.length 8 - body.length) 0

end Sys2Proof.Machine
end

