-- ==== Sys2Proof/Machine/TimeKeeping.lean ====
section
/-!
DEFINITION. Device time: the rate and its clamp (R357), the error bound (R360), the setting step (R349, R350), the domains'
samples and states (R355 to R359), the cross-check (R361), PPS (R362 to R364), UTC (R351), and the commands of the
time group (R354, R362, R366 to R368).
-/
namespace Sys2Proof.Machine

/-- Whether a job is active. -/
def jobActive (s : State) : Bool := s.job.active.isSome

/-- The clock changed. -/
def modClk (f : Clock → Clock) (s : State) : State := { s with time.clk := f s.time.clk }

/-- A tracked domain changed. -/
def modDom (d : Fin 2) (f : PtpDom → PtpDom) (s : State) : State := { s with time.doms := upd s.time.doms d f }

/-- A tracked domain. -/
def domAt (s : State) (d : Fin 2) : PtpDom := s.time.doms[d]

/-- The other tracked domain. -/
def otherDom (d : Fin 2) : Fin 2 := if d = 0 then 1 else 0

/-! ### The error bound (R360) -/

/-- The largest error bound, all ones (R360). -/
def errOnes : Nat := 2 ^ 64 - 1

/-- A magnitude in picoseconds as whole nanoseconds, rounded up. -/
def nsOf (x : Int) : Nat := ceilDiv x.natAbs 1000

/-- The error bound `err` in nanoseconds (R360). -/
def errNow (s : State) : Nat :=
  let c := s.time.clk
  match c.state with
  | .free => errOnes
  | .kept => c.errBase + (s.now - c.errFrom) / 1000000000 * 1000
  | .settling => (match c.followed with | some d => nsOf (domAt s d).offset | none => 0) + s.time.cfg.lockThr
  | .locked => s.time.cfg.lockThr + c.errRaise
  | .holdover =>
    if c.ppsDisc then 100
    else if c.errAll then errOnes
    else c.errBase + (s.now - c.errFrom) / 1000000000 * 1000

/-! ### The rate (R345, R357) -/

/-- 200 ppm in 2⁻⁴⁸ (R357). -/
def rhoLimit : Int := 56294995342
/-- 5 ppm in 2⁻⁴⁸ (R357). -/
def rhoStep : Int := 1407374883

/-- A number held between two bounds. -/
def clampInt (lo hi x : Int) : Int := if x < lo then lo else if hi < x then hi else x

/-- The rate moves toward what the loop asks for, within 5 ppm per second and 200 ppm; TIME_SLEW_LIMIT is reported at each entry
into the clamp (R357). -/
def steer (ask : Int) (d : Nat) (s : State) : State :=
  let c := s.time.clk
  let room : Int := rhoStep * ((s.now - c.rhoAt : Nat) : Int) / 1000000000
  let r := clampInt (-rhoLimit) rhoLimit (clampInt (c.rho - room) (c.rho + room) ask)
  let clamped := decide (r ≠ ask)
  let s' := modClk (fun c => { c with rho := r, rhoAt := s.now, clamped := clamped }) s
  if clamped && !c.clamped then raise FaultCode.timeSlewLimit d s' else s'

/-- The mean of rates. -/
def meanInt (l : List Int) : Int := if l.isEmpty then 0 else l.sum / l.length

/-- The rate held in HOLDOVER: the mean over the last 60 s of LOCKED, or the saved ρ (R360). -/
def heldRho (c : Clock) : Int := if c.rhoHist.isEmpty then c.savedRho else meanInt (c.rhoHist.map (·.2))

/-- The clock enters HOLDOVER with an error bound that grows from `base` and reports it (R359, R360, R516). -/
def enterHoldover (base : Nat) (all : Bool) (s : State) : State :=
  let s := modClk (fun c => { c with
    state := .holdover, followed := none, rho := heldRho c, rhoAt := s.now, ppsDisc := false,
    errAll := all, errBase := base, errFrom := s.now, errRaise := 0 }) s
  notify Notice.timeHoldover (if all then errOnes else base) s

/-! ### Following a domain (R350, R355, R359) -/

/-- LOCKED when the followed domain's offset is within `lock_thr`, SETTLING otherwise (R346, R355). -/
def followState (s : State) (d : Fin 2) : ClockState :=
  if nsOf (domAt s d).offset ≤ s.time.cfg.lockThr then .locked else .settling

/-- The clock follows a domain from now on (R350, R359). -/
def follow (d : Fin 2) (s : State) : State :=
  modClk (fun c => { c with followed := some d, state := followState s d, ppsDisc := false }) s

/-- A change of the followed domain is reported (R359). -/
def switchTo (d : Fin 2) (s : State) : State := notify Notice.timeSwitched d.val (follow d s)

/-- Whether a domain is LOCKED with an offset within a bound in nanoseconds. -/
def lockedWithin (s : State) (d : Fin 2) (bound : Nat) : Bool :=
  (domAt s d).state == .locked && decide (nsOf (domAt s d).offset ≤ bound)

/-- Rule 1 of R359: the followed domain has failed. -/
def followedFailed (d : Fin 2) (s : State) : State :=
  if s.time.clk.followed ≠ some d then s
  else if lockedWithin s (otherDom d) (1000 * s.time.cfg.agree) then switchTo (otherDom d) s
  else enterHoldover (errNow s) false s

/-- Rule 2 of R359: in HOLDOVER the first domain that qualifies is followed, the preferred one first. -/
def holdoverFollow (s : State) : State :=
  if s.time.clk.state ≠ .holdover then s
  else
    let bound := max (1000 * s.time.cfg.agree) (errNow s)
    let p := s.time.clk.preferred
    if lockedWithin s p bound then switchTo p s
    else if lockedWithin s (otherDom p) bound then switchTo (otherDom p) s
    else s

/-- The setting step or its end (R349, R350): a domain is LOCKED while the clock is FREE or KEPT. -/
def firstFollow (d : Fin 2) (s : State) : State :=
  let c := s.time.clk
  let δ := (domAt s d).offset
  if (domAt s d).state ≠ .locked ∨ (c.state ≠ .free ∧ c.state ≠ .kept) ∨ c.stepped then s
  else if jobActive s then
    if c.state = .kept then modClk (fun c => { c with stepOver := true, state := .settling }) (follow d s) else s
  else if δ < 0 then modClk (fun c => { c with stepOver := true, state := .settling }) (follow d s)
  else if !s.time.cfg.autoSet then s
  else
    let s := modClk (fun c => { c with acc := c.acc + (δ * 2 ^ 48 / 1000).toNat, stepped := true }) s
    let s := modDom d (fun x => { x with offset := 0, model := 0 }) s
    let s := modDom (otherDom d) (fun x => { x with offset := x.offset - δ, model := x.model - δ }) s
    notify Notice.timeStepped (wordOfInt (δ / 1000)).toNat
      (modClk (fun c => { c with state := .locked }) (follow d s))

/-- The followed domain's sample steers the clock and sets its state (R355, R356, R357). -/
def followSample (d : Fin 2) (s : State) : State :=
  if s.time.clk.followed ≠ some d ∨ (domAt s d).state ≠ .locked then s
  else
    let s := modClk (fun c => { c with state := followState s d }) s
    let s := steer (Config.servoRate s.time.cfg.loopBw (domAt s d).offset s.time.clk.rho) d.val s
    if s.time.clk.state = .locked then
      modClk (fun c => { c with
        rhoHist := (s.now, c.rho) :: c.rhoHist.filter (fun e => decide (s.now ≤ e.1 + 60000000000)) }) s
    else s

/-- The time since which a condition has held without a break. -/
def since (now : Nat) (ok : Bool) (old : Option Nat) : Option Nat :=
  if ok then some (old.getD now) else none

/-- The breaks in agreement and in the cross-check are kept (R355, R359, R361), and a bound back below its alarm ends it (R360). -/
def noteAgreement (s : State) : State :=
  let f := fun (x : PtpDom) => { x with
    agreeFrom := since s.now (decide (nsOf x.offset ≤ 1000 * s.time.cfg.agree)) x.agreeFrom,
    lockedFrom := since s.now (x.state == .locked) x.lockedFrom }
  let s := modDom 1 f (modDom 0 f s)
  let both := (domAt s 0).state == .locked && (domAt s 1).state == .locked
  let apart := both && decide (s.time.cfg.xcheck < nsOf ((domAt s 0).offset - (domAt s 1).offset))
  let s := modClk (fun c => { c with
    disagree := since s.now apart c.disagree, disSent := c.disSent && apart,
    errRaise := if apart then c.errRaise else 0 }) s
  if errNow s ≤ 1000000 * s.time.cfg.errAlarm then modClk (fun c => { c with errHigh := false }) s else s

/-- A sample of a domain (R355, R356, R358): judged against the model, applied unless the domain is FROZEN or the sample
jumps, and followed by the rules of R349, R350 and R359. -/
def sample (d : Fin 2) (offset : Int) (s : State) : State :=
  let x := domAt s d
  if x.state = .off ∨ x.state = .listen then s
  else
    let dev := nsOf (offset - x.model)
    let s := modDom d (fun x => { x with lastSample := s.now }) s
    if x.haveModel ∧ x.state ≠ .faulty ∧ 1000 * s.time.cfg.jumpLimit < dev then
      let s := modDom d (fun x => { x with state := .faulty, good := 0, haveModel := false, agreeFrom := none, lockedFrom := none }) s
      noteAgreement (holdoverFollow (followedFailed d (raise FaultCode.timeMasterFault d.val s)))
    else if x.state = .frozen then noteAgreement (holdoverFollow s)
    else
      let near := decide (dev ≤ s.time.cfg.lockThr) && x.haveModel
      let good := if near then x.good + 1 else 0
      let st := if x.state = .acquire ∧ 16 ≤ good then DomState.locked else x.state
      let s := modDom d (fun x => { x with
        offset := offset, model := if x.haveModel then Config.servoModel x.model offset else offset,
        haveModel := true, good := good, state := st }) s
      noteAgreement (followSample d (holdoverFollow (firstFollow d s)))

/-! ### PTP messages (R352, R353) -/

/-- The ingress latency of a domain's port, in picoseconds. -/
def ingressOf (s : State) (d : Fin 2) : Int := if (domAt s d).port = 0 then s.time.cfg.ingress[0] else s.time.cfg.ingress[1]

/-- The egress latency of a domain's port, in picoseconds. -/
def egressOf (s : State) (d : Fin 2) : Int := if (domAt s d).port = 0 then s.time.cfg.egress[0] else s.time.cfg.egress[1]

/-- Whether a domain is in use: enabled, or domain 1 on Urara time, where PTP_CONFIG's `enable` is ignored (R383). -/
def domRuns (s : State) (d : Fin 2) : Bool := (domAt s d).enable || (d == 1 && s.ura.timeDom1)

/-- Whether a domain's PTP messages arrive: NET is on and the domain runs on PTP. -/
def domUp (s : State) (d : Fin 2) : Bool := domOn s 3 && (domAt s d).enable && !(d == 1 && s.ura.timeDom1)

/-- The domain's offset from one Sync and the latest mean path delay: the master's time at the ingress minus the ingress
stamp (R353). -/
def offsetOf (x : PtpDom) : Int := x.t1 + x.syncCorr + x.delays.headD 0 + x.asym - x.t2

/-- A Sync, complete with its Follow_Up where the master is two-step, gives a sample (R355). -/
def completeSync (d : Fin 2) (s : State) : State :=
  let s := modDom d (fun x => { x with haveSync := true, syncSeq := none }) s
  if (domAt s d).delays.isEmpty then modDom d (fun x => { x with lastSample := s.now }) s
  else sample d (offsetOf (domAt s d)) s

/-- PTP_SYNC_RECEIVE (R352, R353, R355): a one-step Sync gives its sample; a two-step Sync waits for its Follow_Up. -/
def execPtpSyncReceive (t : Nat) (dom : Fin 2) (seq : Nat) (twoStep : Bool) (origin corr ingress : Int) (s : State) :
    Host.Outcome State Fault Refusal :=
  onEvent t (fun s =>
    if !domUp s dom || (domAt s dom).state == .listen then s
    else
      let s := modDom dom (fun x => { x with t2 := ingress - ingressOf s dom, t1 := origin, syncCorr := corr, syncSeq := some seq }) s
      if twoStep then s else completeSync dom s) s

/-- PTP_FOLLOW_UP_RECEIVE (R352): the origin of the Sync with the same sequence. -/
def execPtpFollowUpReceive (t : Nat) (dom : Fin 2) (seq : Nat) (origin corr : Int) (s : State) :
    Host.Outcome State Fault Refusal :=
  onEvent t (fun s =>
    if !domUp s dom || (domAt s dom).syncSeq != some seq then s
    else completeSync dom (modDom dom (fun x => { x with t1 := origin, syncCorr := x.syncCorr + corr }) s)) s

/-- UTC seconds from device seconds (R351): during an inserted second they hold the value of 23:59:59. -/
def utcAt (s : State) (sec : Nat) : Int :=
  let u := s.time.utc
  if u.leap61 && decide (u.leapAt ≤ sec) then (u.leapAt : Int) - 1 - u.offset else (sec : Int) - u.offset

/-- UTC seconds now. -/
def utcNow (s : State) : Int := utcAt s (devSec s)

/-- The end of the present UTC day in device seconds. -/
def dayEnd (s : State) : Nat :=
  let u := utcNow s
  (u - u % 86400 + 86400 + s.time.utc.offset).toNat

/-- PTP_ANNOUNCE_RECEIVE (R351, R352, R355): a master is selected; the followed master's UTC offset and leap flags are taken. -/
def execPtpAnnounceReceive (t : Nat) (dom : Fin 2) (a : Announce) (s : State) : Host.Outcome State Fault Refusal :=
  onEvent t (fun s =>
    if !domUp s dom then s
    else
      let s := if (domAt s dom).state == .listen && a.better then
        modDom dom (fun x => { x with state := .acquire, good := 0, haveModel := false, delays := [], lastSample := s.now }) s else s
      if s.time.clk.followed ≠ some dom then s
      else
        let s := if a.utcValid && s.time.cfg.utcAnnounce
          then { s with time.utc.offset := a.utcOffset, time.utc.heard := true } else s
        if (a.leap61 || a.leap59) && !(s.time.utc.leap61 || s.time.utc.leap59) then
          { s with time.utc.leap61 := a.leap61, time.utc.leap59 := a.leap59 && !a.leap61, time.utc.leapAt := dayEnd s }
        else s) s

/-- PTP_DELAY_REQ_SEND (R353): the egress stamp of a Delay_Req. -/
def execPtpDelayReqSend (t : Nat) (dom : Fin 2) (seq : Nat) (egress : Int) (s : State) : Host.Outcome State Fault Refusal :=
  onEvent t (fun s =>
    if !domUp s dom || (domAt s dom).state == .listen then s
    else
      let s := emit (.eth (domAt s dom).port 1 (domAt s dom).domNumber []) s
      modDom dom (fun x => { x with reqSeq := some seq, reqOut := egress + egressOf s dom }) s) s

/-- The path-delay step of R356: the mean of the last 8 delays against the mean of the 64 before them. -/
def delayStepped (l : List Int) (limitNs : Nat) : Bool :=
  decide (72 ≤ l.length) && decide (limitNs < nsOf (meanInt (l.take 8) - meanInt ((l.drop 8).take 64)))

/-- A domain enters FROZEN (R355, R356). -/
def freeze (d : Fin 2) (s : State) : State :=
  modDom d (fun x => { x with state := .frozen, frozenAt := s.now, good := 0, lockedFrom := none }) s

/-- PTP_DELAY_RESP_RECEIVE (R353, R356): the mean path delay from the latest Sync and this exchange; a step of it freezes the
domain. -/
def execPtpDelayRespReceive (t : Nat) (dom : Fin 2) (seq : Nat) (rx corr : Int) (s : State) :
    Host.Outcome State Fault Refusal :=
  onEvent t (fun s =>
    let x := domAt s dom
    if !domUp s dom || x.reqSeq != some seq || !x.haveSync then s
    else
      let mpd := ((x.t2 - x.t1 - x.syncCorr) + (rx - x.reqOut - corr)) / 2
      let s := modDom dom (fun x => { x with reqSeq := none, delays := (mpd :: x.delays).take 72 }) s
      let x := domAt s dom
      if delayStepped x.delays s.time.cfg.delayStep && (x.state == .acquire || x.state == .locked) then
        raise FaultCode.timePathStep dom.val (freeze dom s)
      else s) s

/-- PTP_DOMAIN_TIMEOUT (R355, R359): no valid sample for at least 1 s, or the master is lost: the domain returns to LISTEN. -/
def execPtpDomainTimeout (t : Nat) (dom : Fin 2) (s : State) : Host.Outcome State Fault Refusal :=
  onEvent t (fun s =>
    let x := domAt s dom
    if x.state = .off ∨ x.state = .listen ∨ s.now < x.lastSample + 1000000000 then s
    else
      let s := modDom dom (fun x => { x with state := .listen, good := 0, haveModel := false, haveSync := false, delays := [], lockedFrom := none }) s
      noteAgreement (holdoverFollow (followedFailed dom s))) s

/-- FROZEN_GUARD_EXPIRY (R355, R356): after `guard` the model is rebuilt from fresh samples in ACQUIRE. -/
def execFrozenGuardExpiry (t : Nat) (dom : Fin 2) (s : State) : Host.Outcome State Fault Refusal :=
  onEvent t (fun s =>
    let x := domAt s dom
    if x.state ≠ .frozen ∨ s.now < x.frozenAt + 1000000000 * s.time.cfg.guard then s
    else modDom dom (fun x => { x with state := .acquire, good := 0, haveModel := false }) s) s

/-- FAULTY_DOMAIN_RECOVER (R355): the model has agreed with device time within `agree` for 60 s. -/
def execFaultyDomainRecover (t : Nat) (dom : Fin 2) (s : State) : Host.Outcome State Fault Refusal :=
  onEvent t (fun s =>
    match (domAt s dom).agreeFrom with
    | none => s
    | some a =>
      if (domAt s dom).state ≠ .faulty ∨ s.now < a + 60000000000 then s
      else modDom dom (fun x => { x with state := .locked, lockedFrom := some s.now }) s) s

/-- PREFERRED_DOMAIN_RETURN (R359 rule 3): the preferred domain has been LOCKED and within `agree` for 60 s. -/
def execPreferredDomainReturn (t : Nat) (s : State) : Host.Outcome State Fault Refusal :=
  onEvent t (fun s =>
    let p := s.time.clk.preferred
    let x := domAt s p
    match x.agreeFrom, x.lockedFrom with
    | some a, some l =>
      if s.time.clk.followed = some (otherDom p) ∧ x.state = .locked
          ∧ a + 60000000000 ≤ s.now ∧ l + 60000000000 ≤ s.now then switchTo p s else s
    | _, _ => s) s

/-- The locked PPS input with `arbiter` 1 or 0: PPS_IN0 first (R361, R363). -/
def lockedPps (s : State) (arbiter : Bool) : Option (Fin 2) :=
  (List.finRange 2).find? fun n => (s.time.ins[n]).locked && (s.time.ins[n]).arbiter == arbiter && (s.time.ins[n]).enable

/-- The part of an offset below a second, in [-0.5 s, 0.5 s), in picoseconds (R361). -/
def subSecond (x : Int) : Int := (x + 500000000000) % 1000000000000 - 500000000000

/-- A domain is put into FAULTY by a failed arbitration (R361). -/
def arbitrate (d : Fin 2) (phase : Int) (s : State) : State :=
  if s.time.cfg.xcheck < nsOf (subSecond (domAt s d).offset - 1000 * phase) then
    followedFailed d (modDom d (fun x => { x with state := .faulty, good := 0, haveModel := false, agreeFrom := none, lockedFrom := none }) s)
  else s

/-- TIME_DISAGREE (R361): the domains have differed by more than `xcheck` for 10 s. -/
def execTimeDisagree (t : Nat) (s : State) : Host.Outcome State Fault Refusal :=
  onEvent t (fun s =>
    match s.time.clk.disagree with
    | none => s
    | some a =>
      if s.now < a + 10000000000 ∨ s.time.clk.disSent then s
      else
        let gap := nsOf ((domAt s 0).offset - (domAt s 1).offset)
        let s := raise FaultCode.timeDisagree 0 (modClk (fun c => { c with disSent := true }) s)
        match lockedPps s true with
        | some n => arbitrate 1 (s.time.ins[n]).phase (arbitrate 0 (s.time.ins[n]).phase s)
        | none => modClk (fun c => { c with errRaise := gap }) s) s

/-- TIME_ERR_HIGH (R360): `err` exceeds `err_alarm`, once until it has returned below. -/
def execTimeErrHigh (t : Nat) (s : State) : Host.Outcome State Fault Refusal :=
  onEvent t (fun s =>
    if 1000000 * s.time.cfg.errAlarm < errNow s then
      if s.time.clk.errHigh then s
      else raise FaultCode.timeErrHigh 0 (modClk (fun c => { c with errHigh := true }) s)
    else modClk (fun c => { c with errHigh := false }) s) s

/-- LEAP_SECOND (R351): `utc_offset` rises at the end of an inserted second, or falls at the start of 23:59:59. -/
def execLeapSecond (t : Nat) (s : State) : Host.Outcome State Fault Refusal :=
  onEvent t (fun s =>
    let u := s.time.utc
    if u.leap61 ∧ u.leapAt + 1 ≤ devSec s then { s with time.utc := { u with offset := u.offset + 1, leap61 := false } }
    else if u.leap59 ∧ u.leapAt - 1 ≤ devSec s then { s with time.utc := { u with offset := u.offset - 1, leap59 := false } }
    else s) s

/-- The floor, ρ and `utc_offset` are saved to the configuration region (R348, R351). -/
def saveFloor (s : State) : State :=
  modClk (fun c => { c with floor := some c.acc, savedRho := c.rho, floorAt := s.now, floorUtc := s.time.utc.offset }) s

/-- TIME_FLOOR_SAVE (R348, R539): every 60 s, with the times spent in thermal steps 2 and 3. -/
def execTimeFloorSave (t : Nat) (s : State) : Host.Outcome State Fault Refusal :=
  onEvent t (fun s =>
    if s.now < s.time.clk.floorAt + 60000000000 then s
    else
      let s := saveFloor s
      { s with thm.saved2 := s.thm.step2Ns, thm.saved3 := s.thm.step3Ns }) s

/-! ### PPS (R362 to R364) -/

/-- The step of TIME_SET at one instant (R349, R367): the clock reads the commanded time and is in HOLDOVER. -/
def timeSetStep (acc : Nat) (s : State) : State :=
  let δ := (acc - s.time.clk.acc) / 2 ^ 48
  let s := modClk (fun c => { c with acc := acc, stepped := true }) s
  let s := notify Notice.timeStepped δ s
  enterHoldover s.time.cfg.lockThr false s

/-- The phase of a stamp: its nanoseconds field in [-0.5 s, 0.5 s) (R363). -/
def phaseOf (ns : Nat) : Int :=
  let x := ns % 1000000000
  if x < 500000000 then x else (x : Int) - 1000000000

/-- The step a TIME_SET with `at_pps` waits for (R367). -/
def ppsSetStep (n : Fin 2) (s : State) : State :=
  match s.time.clk.setAtPps with
  | none => s
  | some (cid, sec) =>
    if lockedPps s false ≠ some n then s
    else
      let acc := sec * 1000000000 * 2 ^ 48
      let s := modClk (fun c => { c with setAtPps := none }) s
      if s.time.clk.stepped ∨ (s.time.clk.state ≠ .free ∧ s.time.clk.state ≠ .kept) then
        finish cid Status.timeAlreadySet 0 [] s
      else if acc < s.time.clk.acc then finish cid Status.timeBackward 0 [] s
      else finish cid Status.done 0 [] (timeSetStep acc s)

/-- A locked input with `arbiter` 0 disciplines the clock in HOLDOVER: the loop steers its phase to 0 (R363). -/
def ppsDiscipline (n : Fin 2) (s : State) : State :=
  if s.time.clk.state ≠ .holdover ∨ lockedPps s false ≠ some n then s
  else
    let s := modClk (fun c => { c with ppsDisc := true }) s
    steer (Config.servoRate s.time.cfg.loopBw (-1000 * (s.time.ins[n]).phase) s.time.clk.rho) 0 s

/-- PPS_IN_EDGE (R363): the edge that marks the second is stamped less `in_delay`; an input locks after 8 edges 1 s ± 10 µs
apart. -/
def execPpsInEdge (t : Nat) (n : Fin 2) (rising : Bool) (s : State) : Host.Outcome State Fault Refusal :=
  onEvent t (fun s =>
    let x := s.time.ins[n]
    if !x.enable || x.falling == rising then s
    else
      let stamp := devNs s - x.inDelay
      let near := match x.last with
        | none => false
        | some p => decide (999990000 ≤ stamp - p) && decide (stamp - p ≤ 1000010000)
      let edges := if near then min 8 (x.edges + 1) else 1
      let s := { s with time.ins := upd s.time.ins n fun x => { x with
        last := some stamp, edges := edges, locked := decide (8 ≤ edges), phase := phaseOf stamp } }
      ppsDiscipline n (ppsSetStep n s)) s

/-- PPS_IN_LOST (R363): no edge for 1.5 s. -/
def execPpsInLost (t : Nat) (n : Fin 2) (s : State) : Host.Outcome State Fault Refusal :=
  onEvent t (fun s =>
    let x := s.time.ins[n]
    match x.last with
    | none => s
    | some p =>
      if !x.locked || decide (devNs s < p + 1500000000) then s
      else
        let was := lockedPps s false
        let s := { s with time.ins := upd s.time.ins n fun x => { x with locked := false, edges := 0 } }
        let s := raise FaultCode.ppsInLost n.val s
        -- an undisciplined HOLDOVER grows from the disciplined bound
        if s.time.clk.ppsDisc ∧ was = some n ∧ lockedPps s false = none then
          modClk (fun c => { c with ppsDisc := false, errAll := false, errBase := 100, errFrom := s.now }) s
        else s) s

/-- PPS_OUT_PULSE (R364): an enabled output asserts at each second less `out_adv`; in FREE it rests. -/
def execPpsOutPulse (t : Nat) (n : Fin 2) (s : State) : Host.Outcome State Fault Refusal :=
  onEvent t (fun s =>
    let x := s.time.outs[n]
    let off := ((devNs s : Int) + x.adv + 2) % 1000000000
    if !x.enable || s.time.clk.state == .free || x.pulse || decide (4 < off) then s
    else { s with time.outs := upd s.time.outs n fun x => { x with pulse := true, started := devNs s } }) s

/-- PPS_OUT_PULSE_END (R364): the pulse has lasted `width` µs. -/
def execPpsOutPulseEnd (t : Nat) (n : Fin 2) (s : State) : Host.Outcome State Fault Refusal :=
  onEvent t (fun s =>
    let x := s.time.outs[n]
    if !x.pulse || decide (devNs s < x.started + 1000 * x.width) then s
    else { s with time.outs := upd s.time.outs n fun x => { x with pulse := false } }) s

/-- PPS_CONFIG (R362). The outputs are driven from then on (R529). -/
def execPpsConfig (t cid : Nat) (s : State) : Host.Outcome State Fault Refusal :=
  onStart Op.ppsConfig t cid (fun c s =>
    let ok := fun i => decide (1 ≤ parF c i 31 8) && decide (parF c i 31 8 ≤ 900000)
    if !ok 2 || !ok 3 then refuse c Status.badParameter s
    else
      let inp := fun (i : Nat) (x : PpsIn) =>
        let y := { x with enable := parB c i 0, falling := parB c i 1, arbiter := parB c i 2, inDelay := parF c i 31 16 }
        if y.enable && x.enable && y.falling == x.falling then y else { y with locked := false, edges := 0, last := none }
      let out := fun (i : Nat) (x : PpsOut) => { x with
        enable := parB c i 0, activeLow := parB c i 1, width := parF c i 31 8, adv := signed (parF c i 63 32) 32,
        driven := x.driven || parB c i 0, pulse := x.pulse && parB c i 0 }
      done c { s with
        time.ins := upd (upd s.time.ins 0 (inp 0)) 1 (inp 1),
        time.outs := upd (upd s.time.outs 0 (out 2)) 1 (out 3) }) s

/-! ### Commands (R354, R366 to R368) -/

/-- The code of a clock state (R366). -/
def clockCode : ClockState → Nat
  | .free => 0 | .kept => 1 | .settling => 2 | .locked => 3 | .holdover => 4

/-- The code of a domain state (R366). -/
def domCode : DomState → Nat
  | .off => 0 | .listen => 1 | .acquire => 2 | .locked => 3 | .frozen => 4 | .faulty => 5

/-- out2 of TIME_READ (R366). -/
def timeWord (s : State) : Nat :=
  let c := s.time.clk
  (match c.followed with | some d => d.val | none => 3) + put (clockCode c.state) 2 + put (flag c.ppsDisc) 5
    + put (flag c.stepped) 6 + put c.preferred.val 7 + put (domCode (domAt s 0).state) 8 + put (domCode (domAt s 1).state) 11
    + put (flag (s.time.ins[0]).locked) 14 + put (flag (s.time.ins[1]).locked) 15
    + put (unsigned s.time.utc.offset 16) 16 + put (sat 0xFFFFFFFF (errNow s)) 32

/-- TIME_READ (R366): the device time at which the command started, and the state of the clock. -/
def execTimeRead (t cid : Nat) (s : State) : Host.Outcome State Fault Refusal :=
  onStart Op.timeRead t cid (fun c s =>
    answer c [word (stampSec (devTime s)), word (stampSub (devTime s)), word (timeWord s)] s) s

/-- TIME_SELECT (R368). -/
def execTimeSelect (t cid : Nat) (s : State) : Host.Outcome State Fault Refusal :=
  onStart Op.timeSelect t cid (fun c s =>
    let d : Fin 2 := if parB c 0 0 then 1 else 0
    if (domAt s d).state ≠ .locked then refuse c Status.timeNotLocked s
    else if !parB c 0 8 ∧ 1000 * s.time.cfg.agree < nsOf (domAt s d).offset then refuse c Status.timeNoAgree s
    else
      let s := modClk (fun k => { k with preferred := d }) s
      let s := if parB c 0 8 && s.time.clk.followed != some d && s.time.clk.state != .free && s.time.clk.state != .kept
        then switchTo d s else s
      done c s) s

/-- TIME_SET (R367), checked in the order of its table. -/
def execTimeSet (t cid : Nat) (s : State) : Host.Outcome State Fault Refusal :=
  onStart Op.timeSet t cid (fun c s =>
    let ns := parF c 1 45 16
    let frac := parF c 1 15 0
    let atPps := parB c 1 48
    let acc := (parN c 0 * 1000000000 + ns) * 2 ^ 48 + frac * 2 ^ 32
    let k := s.time.clk
    if 1000000000 ≤ ns ∨ (atPps ∧ (ns ≠ 0 ∨ frac ≠ 0)) then refuse c Status.badParameter s
    else if k.stepped ∨ k.stepOver ∨ (k.state ≠ .free ∧ k.state ≠ .kept) then refuse c Status.timeAlreadySet s
    else if jobActive s then refuse c Status.timeJobActive s
    else if atPps then
      if (lockedPps s false).isNone then refuse c Status.ppsNotLocked s
      else modClk (fun k => { k with setAtPps := some (c.cid, parN c 0) }) s
    else if acc < k.acc then refuse c Status.timeBackward s
    else done c (timeSetStep acc s)) s

/-- Whether a PTP_CONFIG's fields lie in their ranges (R354). -/
def ptpCfgOk (c : Slot) : Bool :=
  let r := fun (lo hi x : Nat) => decide (lo ≤ x) && decide (x ≤ hi)
  decide (parF c 0 3 2 ≠ 3) && decide (parF c 1 3 2 ≠ 3) && r 0 239 (parF c 0 15 8) && r 0 239 (parF c 1 15 8)
    && r 1 65535 (parF c 2 15 0) && r 1 1000 (parF c 2 31 16) && r 50 65535 (parF c 2 47 32) && r 1 600 (parF c 2 63 48)
    && r 10 65535 (parF c 3 15 0) && r 10 65535 (parF c 3 31 16) && r 1 100 (parF c 3 63 56)

/-- The parameters of PTP_CONFIG (R354). -/
def ptpCfgOf (c : Slot) : PtpCfg :=
  { jumpLimit := parF c 2 15 0, agree := parF c 2 31 16, xcheck := parF c 2 47 32, guard := parF c 2 63 48,
    delayStep := parF c 3 15 0, lockThr := parF c 3 31 16, errAlarm := parF c 3 47 32, autoSet := parB c 3 48,
    loopBw := parF c 3 63 56, ingress := ⟨#[parF c 4 31 0, parF c 5 31 0], rfl⟩,
    egress := ⟨#[parF c 4 63 32, parF c 5 63 32], rfl⟩, utcOffset := signed (parF c 7 15 0) 16, utcAnnounce := parB c 7 16 }

/-- One domain under new parameters (R354): a change of its own fields returns it to LISTEN, a change of a constant it
uses freezes it. -/
def ptpDomain (d : Fin 2) (c : Slot) (oldIn oldEg newIn newEg : Int) (s : State) : State :=
  let i := d.val
  let x := domAt s d
  let asym := signed (if d = 0 then parF c 6 31 0 else parF c 6 63 32) 32
  let y := { x with enable := parB c i 0, port := parF c i 1 1, transport := parF c i 3 2, domNumber := parF c i 15 8, asym := asym }
  let moved := y.enable != x.enable || y.port != x.port || y.transport != x.transport || y.domNumber != x.domNumber
  let s := { s with time.doms := s.time.doms.set d y }
  if moved then
    followedFailed d (modDom d (fun z => { z with
      state := if domRuns s d then .listen else .off, good := 0, haveModel := false, haveSync := false, delays := [], lockedFrom := none }) s)
  else if (asym ≠ x.asym ∨ oldIn ≠ newIn ∨ oldEg ≠ newEg) ∧ x.state ≠ .off ∧ x.state ≠ .listen then freeze d s
  else s

/-- PTP_CONFIG (R354). -/
def execPtpConfig (t cid : Nat) (s : State) : Host.Outcome State Fault Refusal :=
  onStart Op.ptpConfig t cid (fun c s =>
    if !ptpCfgOk c then refuse c Status.badParameter s
    else
      let i0 := ingressOf s 0; let e0 := egressOf s 0
      let i1 := ingressOf s 1; let e1 := egressOf s 1
      let cfg := ptpCfgOf c
      let s := { s with time.cfg := cfg }
      let s := if cfg.utcAnnounce && s.time.utc.heard then s else { s with time.utc.offset := cfg.utcOffset }
      let s := ptpDomain 0 c i0 e0 (ingressOf s 0) (egressOf s 0) s
      let s := ptpDomain 1 c i1 e1 (ingressOf s 1) (egressOf s 1) s
      done c (noteAgreement (holdoverFollow s))) s

/-! ### NET and the clock (R365) -/

/-- A domain starts afresh: LISTEN where it is in use. -/
def restartDom (d : Fin 2) (s : State) : State :=
  let st := if domRuns s d then DomState.listen else .off
  modDom d (fun x => { x with state := st, good := 0, haveModel := false, haveSync := false, delays := [], lockedFrom := none }) s

/-- NET powers down: the domains stop, the clock runs on in HOLDOVER; a clock that was never set stays FREE. -/
def clockNetOff (s : State) : State :=
  let s := (List.finRange 2).foldl (fun s (d : Fin 2) => restartDom d s) s
  if s.time.clk.state = .free ∨ s.time.clk.state = .holdover then s else enterHoldover (errNow s) false s

/-- The device clock at boot (R347): the keeper's value less its bound, or the floor plus 60 s. -/
def clockBoot (keeperKept : Bool) (downNs : Nat) (s : State) : State :=
  if keeperKept then
    let u := ceilDiv (50 * downNs) 1000000
    modClk (fun c => { c with
      acc := c.acc - u * 2 ^ 48, state := .kept, stepped := false, stepOver := false, followed := none, rho := c.savedRho,
      errAll := false, errBase := 2 * u, errFrom := s.now, rhoHist := [], errRaise := 0, ppsDisc := false, setAtPps := none }) s
  else
    modClk (fun c => { c with
      acc := match c.floor with | some f => f + 60000000000 * 2 ^ 48 | none => 0,
      state := .free, stepped := false, stepOver := false, followed := none, rho := c.savedRho,
      errAll := true, errBase := 0, rhoHist := [], errRaise := 0, ppsDisc := false, setAtPps := none }) s

end Sys2Proof.Machine
end

