-- ==== Sys2Proof/Machine/Jobs.lean ====
section
/-!
DEFINITION. Job descriptions (R88 to R94), the sizes a job has (R148, R168), the check of R13 with its decodes and threshold
arrays (R141, R150, R161), JOB_LOAD and its replacement rules (R89).
-/
namespace Sys2Proof.Machine

/-! ### The description (R88, R90 to R94) -/

/-- Word i of a table at a byte offset of a description. -/
def descWord (bs : List Byte) (off i : Nat) : W64 := word (leAt bs (off + 8 * i) 8)

/-- Entry k of the plane table (R91), none where a field is out of range or a reserved field is set. -/
def planeEntry (bs : List Byte) (off k : Nat) : Option Plane :=
  let a := descWord bs (off + 16 * k) 0
  let t := (descWord bs (off + 16 * k) 1).toNat
  if fld a 7 3 ≠ 0 ∨ fld a 63 16 ≠ 0 ∨ 63 < fld a 15 8 then none
  else some { plane := fld a 2 0, density := fld a 15 8, thresh := t }

/-- Entry k of the tile table (R92). -/
def tileEntry (bs : List Byte) (off k : Nat) : Option Tile :=
  let a := (descWord bs (off + 16 * k) 0).toNat
  let b := descWord bs (off + 16 * k) 1
  if fld b 63 35 ≠ 0 then none
  else some { addr := a, col := fld b 15 0, row := fld b 31 16, plane := fld b 34 32 }

/-- Entry k of the track table (R93). -/
def trackEntry (bs : List Byte) (off k : Nat) : Option Track :=
  let a := descWord bs (off + 32 * k) 0
  let b := descWord bs (off + 32 * k) 1
  let c := descWord bs (off + 32 * k) 2
  let len := fld a 63 32
  if fld a 31 3 ≠ 0 ∨ fld c 63 48 ≠ 0 ∨ descWord bs (off + 32 * k) 3 ≠ 0 ∨ len = 0 ∨ 1048576 < len
      ∨ fld b 63 32 ≤ fld b 31 0 then none
  else some { input := fld a 2 0, length := len, start := fld b 31 0, stop := fld b 63 32, artRow := fld c 31 0, templates := fld c 47 32 }

/-- Row k of the geometry section (R94). -/
def geomEntry (bs : List Byte) (off k : Nat) : Option GeomRow :=
  let a := descWord bs (off + 16 * k) 0
  let b := descWord bs (off + 16 * k) 1
  if fld a 63 38 ≠ 0 ∨ 23 < fld a 4 0 ∨ fld a 36 22 = 0 ∨ 16384 < fld a 36 22 then none
  else some { stall := fld a 4 0, plane := fld a 7 5, first := fld a 21 8, count := fld a 36 22, reverse := fbit a 37,
              origin := fld b 31 0, pitch := fld b 47 32, along := signed (fld b 63 48) 16 }

/-- All entries of a table, none where one is bad. -/
def entries {α : Type} (f : Nat → Option α) : Nat → Nat → Option (List α)
  | 0, _ => some []
  | n + 1, k =>
    match f k, entries f n (k + 1) with
    | some a, some as => some (a :: as)
    | _, _ => none

/-- Whether no two ranges of a list of tracks meet (R93). -/
def tracksApart : List Track → Bool
  | [] => true
  | t :: ts => ts.all (fun u => !overlaps t.start t.stop u.start u.stop) && tracksApart ts

/-- Q: the design pixels of a line over all planes and tracks (R168). -/
def jobQ (d : JobDesc) : Nat := d.planes.length * (d.tracks.map fun t => t.stop - t.start).sum

/-- W: the elements of a job (R168). -/
def jobW (d : JobDesc) : Nat := (d.rows.map fun r => r.count).sum

/-- A job description read from its bytes; none is BAD_JOB (R88, R168). -/
def parseJob (bs : List Byte) (jobId hostEnd : Nat) : Option JobDesc :=
  let n := bs.length
  let h := descWord bs 0
  let planes := fld (h 1) 35 32
  let tracks := fld (h 1) 39 36
  let tiles := fld (h 5) 63 32
  let rows := fld (h 7) 47 32
  let po := fld (h 4) 31 0
  let to_ := fld (h 5) 31 0
  let ko := fld (h 6) 31 0
  let go := fld (h 7) 31 0
  if n < 72 ∨ n ≠ go + 16 * rows + 8 ∨ leAt bs (n - 8) 8 ≠ crc32c (bs.take (n - 8)) then none
  else if fld (h 0) 31 0 ≠ 0x4A4F4230 ∨ fld (h 0) 47 32 ≠ 1 ∨ fld (h 0) 63 48 ≠ 0 ∨ fld (h 1) 31 0 ≠ jobId ∨ jobId = 0 then none
  else if planes = 0 ∨ 8 < planes ∨ tracks = 0 ∨ 8 < tracks ∨ 16 < fld (h 1) 44 40 ∨ fld (h 1) 63 45 ≠ 0 then none
  else if fld (h 2) 15 0 = 0 ∨ 2400 < fld (h 2) 15 0 ∨ fld (h 2) 31 16 ≠ 0 ∨ fld (h 2) 63 32 = 0 ∨ 96000 < fld (h 2) 63 32 then none
  else if fld (h 4) 63 32 ≠ 0 ∨ fld (h 6) 63 32 ≠ 0 ∨ fld (h 7) 63 48 ≠ 0 ∨ rows = 0 ∨ 512 < rows then none
  else if po < 64 ∨ to_ < po + 16 * planes ∨ ko < to_ + 16 * tiles ∨ go < ko + 32 * tracks
      ∨ po % 8 ≠ 0 ∨ to_ % 8 ≠ 0 ∨ ko % 8 ≠ 0 ∨ go % 8 ≠ 0 then none
  else
    match entries (planeEntry bs po) planes 0, entries (tileEntry bs to_) tiles 0, entries (trackEntry bs ko) tracks 0,
        entries (geomEntry bs go) rows 0 with
    | some ps, some ts, some ks, some gs =>
      let d : JobDesc := {
        id := jobId, templates := fld (h 1) 44 40, dpi := fld (h 2) 15 0, maxRate := fld (h 2) 63 32,
        artWidth := fld (h 3) 31 0, repeats := fld (h 3) 63 32, planes := ps, tiles := ts, tracks := ks, rows := gs }
      let streams := ks.foldl (fun m k => m ||| k.templates) 0
      if ((List.range 16).filter fun i => bit streams i).length ≠ d.templates then none
      else if !noRepeats (ps.map (·.plane)) || !noRepeats (ts.map fun t => (t.plane, t.row, t.col)) then none
      else if !noRepeats (ks.map (·.input)) || !tracksApart ks then none
      else if (List.range 24).any (fun k => decide (32 < (gs.filter fun g => g.stall == k).length)) then none
      else if ps.any (fun p => decide (hostEnd ≤ p.thresh)) || ts.any (fun t => decide (hostEnd ≤ t.addr)) then none
      else if 262144 < jobQ d ∨ 2 * jobW d < jobQ d then none
      else some d
    | _, _, _, _ => none

/-- Whether a job's rows equal the geometry of the Stalls they name (R94). -/
def geometryOk (s : State) (rows : List GeomRow) : Bool :=
  (indexed s.stl).all fun p =>
    let mine := rows.filter fun r => r.stall == p.1
    mine.isEmpty || mine == p.2.rows

/-- The segment items of a job: (plane, tile column, detect input) (R148). -/
def segItems (d : JobDesc) : List (Nat × Nat × Nat) :=
  d.planes.flatMap fun p => d.tracks.flatMap fun t =>
    ((List.range ((t.stop + 255) / 256 - t.start / 256)).map fun k => (p.plane, t.start / 256 + k, t.input))

/-- The Stalls a job names, each once, rising. -/
def jobStalls (d : JobDesc) : List Nat := (List.range 24).filter fun k => d.rows.any fun r => r.stall == k

/-! ### Threshold arrays (R160, R161) -/

/-- The length of a threshold array (R160). -/
def arrayBytes : Nat := 1572896

/-- Threshold j, from 1, of a cell's 192-bit value (R160). -/
def threshold (cell j : Nat) : Nat := bits cell (12 * j - 1) (12 * (j - 1))

/-- A cell is valid: 1 ≤ θ1 ≤ … ≤ θ15 ≤ 4,095 and nothing reserved is set (R161). -/
def cellOk (cell : Nat) : Bool :=
  decide (cell < 2 ^ 180) && decide (1 ≤ threshold cell 1)
    && (List.range 14).all fun j => decide (threshold cell (j + 1) ≤ threshold cell (j + 2))

/-- The cells of an array, 24 bytes each. -/
def cellsOk : Nat → List Byte → Bool
  | 0, _ => true
  | n + 1, bs => cellOk (leAt bs 0 24) && cellsOk n (bs.drop 24)

/-- The check value of a valid array at a Well address, none where it is invalid (R161). -/
def arrayCrc (s : State) (addr : Nat) : Option Nat :=
  if addr % 8 ≠ 0 ∨ hostEnd s < addr + arrayBytes ∨ poisoned s addr arrayBytes then none
  else
    let bs := wellRead s addr arrayBytes
    let w0 := word (leAt bs 0 8)
    let w1 := word (leAt bs 8 8)
    if fld w0 31 0 ≠ 0x54485231 ∨ fld w0 39 32 ≠ 1 ∨ fld w0 63 40 ≠ 0 ∨ fld w1 63 24 ≠ 0 ∨ leAt bs 16 8 ≠ 0
        ∨ leAt bs 28 4 ≠ 0 then none
    else if leAt bs 24 4 ≠ crc32c (bs.drop 32) ∨ !cellsOk 65536 (bs.drop 32) then none
    else some (leAt bs 24 4)

/-! ### The check of R13 -/

/-- The bytes of the Sheaf block at an address of a job: the clear copy of an encrypted tile, or the Well's. -/
def tileBlock (s : State) (j : Job) (addr : Nat) : List Byte :=
  match j.clear.find? (fun e => e.1 == addr) with
  | some e => e.2
  | none =>
    let h := sheafHead (wellRead s addr (16 + 128))
    wellRead s addr h.total

/-- Whether the bytes of a job's tile can be read without an uncorrectable burst (R457). -/
def tileReadable (s : State) (j : Job) (addr : Nat) : Bool :=
  (j.clear.find? (fun e => e.1 == addr)).isSome || !poisoned s addr (tileBlock s j addr).length

/-- One tile passes R13, or the state after its fault: WELL_UNCORRECTABLE, ARTWORK_AUTH for an envelope whose tag failed,
SHEAF_BLOCK or TILE_SLOW (R141, R150, R428, R545). -/
def checkTile (j : Job) (addr : Nat) (s : State) : Bool × State :=
  if addr = 0 then (true, s)
  else if j.key ≠ 0 ∧ (j.clear.find? (fun e => e.1 == addr)).isNone then (false, raise FaultCode.artworkAuth addr s)
  else if !tileReadable s j addr then (false, wellBad addr (tileBlock s j addr).length s)
  else
    let bs := tileBlock s j addr
    match decodeTile bs with
    | .error e => (false, raise FaultCode.sheafBlock (addr + put e 48) s)
    | .ok _ => if 2048 < tileCycles bs then (false, raise FaultCode.tileSlow addr s) else (true, s)

/-- The tiles of a job in order; the check ends at the first that fails. -/
def checkTiles (j : Job) : List Tile → State → Bool × State
  | [], s => (true, s)
  | t :: ts, s =>
    match checkTile j t.addr s with
    | (true, s) => checkTiles j ts s
    | (false, s) => (false, s)

/-- The arrays of a job, each address once, with their check values; SCREEN_INVALID where one is not valid (R161). -/
def checkArrays : List Nat → State → Option (List (Nat × Nat)) × State
  | [], s => (some [], s)
  | a :: as, s =>
    match arrayCrc s a with
    | none => (none, raise FaultCode.screenInvalid a s)
    | some c =>
      match checkArrays as s with
      | (some l, s) => (some ((a, c) :: l), s)
      | (none, s) => (none, s)

/-- The array addresses of a job, each once. -/
def arrayAddrs (d : JobDesc) : List Nat := (d.planes.map (·.thresh)).eraseDups

/-- The check of R13 in full: the job as it then stands, and the state with the faults reported. -/
def checkJob (j : Job) (s : State) : Job × State :=
  match checkTiles j j.desc.tiles s with
  | (false, s) => ({ j with passed := false }, s)
  | (true, s) =>
    match checkArrays (arrayAddrs j.desc) s with
    | (none, s) => ({ j with passed := false }, s)
    | (some l, s) =>
      let blocks := (j.desc.tiles.filter fun t => t.addr != 0).map fun t => tileBlock s j t.addr
      ({ j with
        passed := true, stale := false, screens := l,
        cMax := (blocks.map tileCycles).foldl max 0, sMax := (blocks.map tileMaxSegment).foldl max 0 }, s)

/-! ### JOB_LOAD (R88, R89, R428, R429) -/

/-- The loaded job of an ID. -/
def jobOf (s : State) (id : Nat) : Option Job := s.job.loaded.find? (fun j => j.desc.id == id)

/-- A loaded job changed. -/
def modJob (id : Nat) (f : Job → Job) (s : State) : State :=
  { s with job.loaded := mapWhere (fun j => j.desc.id == id) f s.job.loaded }

/-- Whether a job is the incoming one of a pending switch. -/
def incoming (s : State) (id : Nat) : Bool := match s.job.switch with | some w => w.job == id | none => false

/-- Whether a job is active: the active or outgoing job, or the incoming one once its switch line is reached (R121, R122). -/
def jobIsActive (s : State) (id : Nat) : Bool :=
  s.job.active == some id
    || match s.job.switch with
       | some w => w.job == id && (match w.line with | some l => decide (l ≤ s.mot.line) | none => false)
       | none => false

/-- The bytes of a clear block, padded to 8 (R428, R429). -/
def clearBytes (j : Job) : Nat := (j.clear.map fun e => 8 * ceilDiv e.2.length 8).sum

/-- The clear bytes that a job's envelopes will take, from their headers (R428, R429). -/
def envelopeBytes (s : State) (d : JobDesc) : Nat :=
  ((d.tiles.filter fun t => t.addr != 0).map fun t => 8 * ceilDiv (leAt (wellRead s (t.addr + 4) 4) 0 4) 8).sum

/-- The clear store is full for a new encrypted job (R429). -/
def clearFull (s : State) (d : JobDesc) : Bool :=
  decide (4 * 2 ^ 30 < (s.job.loaded.map clearBytes).sum + (s.job.loading.map fun l => clearBytes l.job).sum + envelopeBytes s d)

/-- Why a JOB_LOAD of a job ID cannot begin (R88, R89). -/
def loadFailure (s : State) (id : Nat) : Option Nat :=
  if s.job.loading.any (fun l => l.job.desc.id == id) then some Status.jobNotReady
  else if s.job.active == some id then some Status.jobActive
  else if incoming s id then some Status.switchPending
  else if (s.job.activating.map fun a => a.2.1) == some id then some Status.jobActive
  else if 16 ≤ s.job.loaded.length + s.job.loading.length then some Status.jobLimit
  else none

/-- JOB_LOAD's description has been read: its content is judged and its check begins (R88, R94, R168, R428, R429, R441). -/
def beginLoad (c : Slot) (bs : List Byte) (s : State) : State :=
  let keys := s.kry.jobKeys.filter fun k => k.handle == parN c 3 && k.job == parN c 0
  if parN c 3 ≠ 0 ∧ keys.isEmpty then refuse c Status.badKeyHandle s
  else if parN c 3 ≠ 0 && keys.any (fun k => k.notAfter != 0 && decide ((k.notAfter : Int) ≤ utcNow s)) then refuse c Status.packageExpired s
  else match parseJob bs (parN c 0) (hostEnd s) with
    | none => refuse c Status.badJob s
    | some d =>
      if !geometryOk s d.rows then refuse c Status.geometryMismatch s
      else if parN c 3 ≠ 0 && clearFull s d then refuse c Status.clearStoreFull s
      else
        let j : Job := { desc := d, key := parN c 3 }
        let l : Loading := { job := j, cid := c.cid, replacing := (jobOf s d.id).isSome }
        { s with job.loading := s.job.loading ++ [l] }

/-- A job replaces the one of its ID, or joins the loaded jobs. -/
def installJob (j : Job) (s : State) : State :=
  { s with job.loaded := s.job.loaded.filter (fun x => x.desc.id != j.desc.id) ++ [j] }

/-- The check of R13 of a loading job ends: a first load stays loaded, inactive where it failed, and is Done; a replacement takes
its place at once, or is discarded with the failure, with JOB_ACTIVE or with CANCELLED (R13, R89). -/
def endLoad (l : Loading) (clear : List Decrypted) (s : State) : State :=
  let good := clear.filterMap fun e => e.clear.map fun b => (e.addr, b)
  let j := { l.job with clear := if l.job.key = 0 then [] else good }
  let s := { s with job.loading := s.job.loading.filter (fun x => x.job.desc.id != l.job.desc.id) }
  let (j, s) := checkJob j s
  if !l.replacing then finish l.cid Status.done 0 [] (installJob j s)
  else if l.fate = 1 then finish l.cid Status.jobActive 0 [] s
  else if l.fate = 2 then finish l.cid Status.cancelled 0 [] s
  else if !j.passed then finish l.cid Status.jobNotReady 0 [] s
  else finish l.cid Status.done 0 [] (installJob j s)

/-- JOB_LOAD (R88, R89, R573). -/
def execJobLoad (t cid : Nat) (s : State) : Host.Outcome State Fault Refusal :=
  onStart Op.jobLoad t cid (fun c s =>
    match loadFailure s (parN c 0) with
    | some st => refuse c st s
    | none =>
      withObject c (parN c 1) (parN c 2) (beginLoad c) s) s

/-- JOB_CHECK_COMPLETE (R13): every Sheaf block of the job has been decompressed once in full. -/
def execJobCheckComplete (t job : Nat) (clear : List Decrypted) (s : State) : Host.Outcome State Fault Refusal :=
  onEvent t (fun s =>
    match s.job.loading.find? (fun l => l.job.desc.id == job) with
    | none => s
    | some l => endLoad l clear s) s

end Sys2Proof.Machine
end

