-- ==== Sys2Proof/Machine/Journal.lean ====
section
/-!
DEFINITION. The journal (R308, R309): records and their words with seals, the writes of their parts to the Ledger and to the
peer (R400), the entries of the record stream (R313), the final state of a record and of the manifests it belongs to (R318, R319).
-/
namespace Sys2Proof.Machine

/-! ### Records (R308) -/

/-- The record of a number. -/
def recOf (s : State) (n : Nat) : Option Rec := s.tal.journal.find? (fun r => r.num == n)

/-- A record changed. -/
def modRec (n : Nat) (f : Rec → Rec) (s : State) : State :=
  { s with tal.journal := mapWhere (fun r => r.num == n) f s.tal.journal }

/-- The n-bit seal over words under the journal key (R308). -/
def sealOf (n : Nat) (ws : List W64) : Nat := (Config.cmac Config.journalKey (wordsBytes ws)).toNat % 2 ^ n

/-- Words 0 to 11: the issue part. -/
def issueWords (r : Rec) : List W64 :=
  let ws : List W64 := [
    word r.num, word r.product,
    word (put r.data.length 48 + put r.symbology 40 + put (flag r.bothLead) 37 + put r.unit 36 + put r.stream 32 + r.pool),
    word r.serial, word r.index, word (r.issueAt / 1000000000),
    word (put r.calEntry 32 + r.issueAt % 1000000000),
    word (put r.planVer 32 + r.job), word r.auth, word r.content]
  let ws := ws ++ [word (sealOf 64 ws)]
  ws ++ [word (crc32c (wordsBytes ws))]

/-- Words 0 and x, then the word with their check and 32-bit seal. -/
def sealedPair (r : Rec) (x : W64) : List W64 :=
  let ws := [word r.num, x]
  ws ++ [word (put (sealOf 32 ws) 32 + crc32c (wordsBytes ws))]

/-- Words 0, 12 and 13: the fired part. -/
def firedWords (r : Rec) : List W64 := sealedPair r (word (r.firedLine.getD 0))

/-- Word 14. -/
def finalWord (f : FinalPart) : W64 :=
  word (put f.secs 48 + put f.fault 32 + put f.grade 16 + put f.reason 8 + f.kind)

/-- Words 0, 14 and 15: the final part. -/
def finalWords (r : Rec) : List W64 := sealedPair r (finalWord (r.final.getD {}))

/-- The words of a part by its kind. -/
def partWords (r : Rec) (kind : Nat) : List W64 :=
  if kind = 0 then issueWords r else if kind = 1 then firedWords r else finalWords r

/-! ### Writes and replication (R400, R480) -/

/-- Whether this unit sends its journal to a peer and waits for its acknowledgement: a LEAD with a standby, SYNCED or in a copy (R400, R401). -/
def replicates (s : State) : Bool := s.twn.role == .lead && (s.twn.peerSynced || s.twn.copying)

/-- Whether this unit writes no part of its own: a standby, whose parts come from the lead (R386, R400). -/
def partsFromLead (s : State) : Bool := s.twn.role == .synced || s.twn.role == .copying

/-- A write joins the Ledger's writes, and with a standby it is sent to the peer as JREPL (R400). -/
def ledgerWrite (w : LWrite) (payload : List W64) (s : State) : State :=
  let s := { s with led.writes := s.led.writes ++ [w] }
  if replicates s then
    uraraSend s.twn.peer 0x52 (word s.twn.replSeq :: payload)
      { s with twn.replSeq := s.twn.replSeq + 1, twn.replOut := s.twn.replOut ++ [(s.twn.replSeq, w)] }
  else s

/-- A claim, grant or plan is sent to the peer (R400). -/
def replicate (payload : List W64) (s : State) : State :=
  if replicates s then
    uraraSend s.twn.peer 0x52 (word s.twn.replSeq :: payload) { s with twn.replSeq := s.twn.replSeq + 1 }
  else s

/-- A part of a record is written. -/
def writePart (n kind : Nat) (s : State) : State :=
  match recOf s n with
  | none => s
  | some r => ledgerWrite (.part n kind) (partWords r kind) s

/-! ### The record stream (R313) -/

/-- An entry joins the entries that wait for a block; `parts` names the record part it carries. -/
def exportEntry (type : Nat) (ws : List W64) (parts : List (Nat × Nat)) (s : State) : State :=
  let bytes := wordsBytes (word (put (8 * (ws.length + 1)) 8 + type) :: ws)
  { s with
    tal.blockAt := if s.tal.entries.isEmpty then s.now else s.tal.blockAt,
    tal.entries := s.tal.entries ++ [(bytes, parts)] }

/-- The entry of a record part: its words, the fired and final ones without their check word (R313). -/
def exportPart (n kind : Nat) (s : State) : State :=
  match recOf s n with
  | none => s
  | some r => exportEntry (kind + 1) (if kind = 0 then issueWords r else (partWords r kind).take 2) [(n, kind)] s

/-! ### Manifests (R318, R319) -/

/-- A number of bytes as a string of n bytes. -/
def padTo (n : Nat) (bs : List Byte) : List Byte := bs.take n ++ List.replicate (n - bs.length) 0

/-- The words of a manifest entry (R319), with its two signatures padded to 3,408 bytes. -/
def manifestWords (m : Manifest) (hash : List Byte) : List W64 :=
  let ws : List W64 := [
    word m.num, word (put (flag m.byCmd) 36 + put m.stream 32 + m.pool), word m.openAt, word m.closeAt,
    word (m.records.head?.getD 0), word (m.records.getLast?.getD 0),
    word (put m.voided 32 + m.verified), word (put m.abandoned 32 + m.unver),
    word (leNat (padTo 8 (BitVec.ofNat 8 m.shift.length :: m.shift))), word m.planVer] ++ (wordsOf (padTo 48 hash)).take 6
  let bs := wordsBytes ws
  ws ++ wordsOf (padTo 3408 (padTo 96 (Config.sign 0 bs) ++ padTo 3309 (Config.sign 1 bs)))

/-- Whether every record of a manifest is final. -/
def manifestDone (m : Manifest) : Bool :=
  decide (m.verified + m.voided + m.unver = m.records.length)

/-- Every closed manifest whose records are all final is exported, and a MANIFEST_CLOSE that waits for no other one ends with the number of the last
manifest it closed. -/
def settleManifests (s : State) : State :=
  let ready := s.tal.closed.filter manifestDone
  let s := ready.foldl (fun s m => exportEntry 6 (manifestWords m (Config.sha384 m.issues)) [] s) s
  let rest := s.tal.closed.filter fun m => !manifestDone m
  let ended := s.tal.closing.filter fun c => !rest.any fun m => c.1 ∈ m.cids
  let s := { s with tal.closed := rest, tal.closing := s.tal.closing.filter fun c => rest.any fun m => c.1 ∈ m.cids }
  ended.foldl (fun s c => finish c.1 Status.done 0 [word c.2] s) s

/-- A final state is counted in the manifest of its record. -/
def countFinal (n kind : Nat) (m : Manifest) : Manifest :=
  if n ∈ m.records then
    { m with
      verified := m.verified + flag (kind == 1), voided := m.voided + flag (kind == 2), unver := m.unver + flag (kind == 3) }
  else m

/-- Final states counted in every manifest, open or closed. -/
def countManifests (n kind : Nat) (s : State) : State :=
  settleManifests { s with
    tal.streams := s.tal.streams.map fun x => { x with man := x.man.map (countFinal n kind) },
    tal.closed := s.tal.closed.map (countFinal n kind) }

/-! ### Final states (R309) -/

/-- The final part of a record is written, once and never changed (R309). -/
def finalise (n kind reason fault grade : Nat) (s : State) : State :=
  match recOf s n with
  | none => s
  | some r =>
    if r.final.isSome || partsFromLead s then s else
    let f : FinalPart :=
      { kind := kind, reason := reason, grade := grade, fault := if reason = 3 then fault else 0, secs := devSec s % 65536 }
    let s := modRec n (fun r => { r with final := some f }) s
    countManifests n kind (exportPart n 2 (writePart n 2 s))

/-- A record becomes void. -/
def voidRec (reason fault n : Nat) (s : State) : State :=
  finalise n 2 reason fault (((recOf s n).map (·.grade)).getD 0xFF) s

/-- The records of a product. -/
def recsOf (s : State) (product : Nat) : List Rec := s.tal.journal.filter fun r => r.product == product

/-- Every record of a product that is not final becomes void. -/
def voidRecs (product reason fault : Nat) (s : State) : State :=
  (recsOf s product).foldl (fun s r => voidRec reason fault r.num s) s

/-- The fired part of a record is written (R309). -/
def firedPart (n line : Nat) (s : State) : State :=
  match recOf s n with
  | none => s
  | some r =>
    if r.firedLine.isSome || r.final.isSome || partsFromLead s then s
    else exportPart n 1 (writePart n 1 (modRec n (fun r => { r with firedLine := some line }) s))

/-- Whether a journal slot may take a new record: its record is final and that final entry exported (R310). -/
def journalFree (s : State) (slot : Nat) : Bool :=
  !(slot / 32 ∈ s.led.lost)
    && (s.tal.journal.all fun r => r.num % 98304 != slot || (r.final.isSome && bit r.sent 2))

/-- The physical sector that serves a logical one. -/
def physSector (s : State) (logical : Nat) : Nat := ((s.led.remap.find? fun m => m.1 == logical).map (·.2)).getD logical

/-- Whether a journal sector takes new records: not lost, and not failing without a spare (R485, R496). -/
def sectorUsable (s : State) (j : Nat) : Bool :=
  !(s.led.lost.contains j) && !(s.led.sparesOut && s.led.failing.contains (physSector s j))

/-- The next n usable record numbers from a number on (R308, R485). -/
def nextRecords (s : State) : Nat → Nat → Nat → List Nat
  | 0, _, _ => []
  | _, 0, _ => []
  | fuel + 1, n + 1, r =>
    if !sectorUsable s (r % 98304 / 32) then nextRecords s fuel (n + 1) (r + 1)
    else r :: nextRecords s fuel n (r + 1)

/-- The slots that are not free (R310). -/
def slotsBusy (s : State) : Nat := (s.tal.journal.filter fun r => !(r.final.isSome && bit r.sent 2)).length

/-- JOURNAL_HIGH is reported once at 75% of the usable slots, and again after the share has fallen below 50% (R310). -/
def judgeHigh (s : State) : State :=
  let usable := 98304 - 32 * s.led.lost.length
  let busy := slotsBusy s
  if !s.tal.highSent && decide (3 * usable ≤ 4 * busy) then
    notify Notice.journalHigh busy { s with tal.highSent := true }
  else if s.tal.highSent && decide (2 * busy < usable) then { s with tal.highSent := false }
  else s

/-- The parts of a block count as exported (R316). -/
def markSent (parts : List (Nat × Nat)) (s : State) : State :=
  judgeHigh { s with
    tal.journal := s.tal.journal.map fun r =>
      { r with sent := parts.foldl (fun m p => if p.1 = r.num then m ||| 2 ^ p.2 else m) r.sent } }

/-- Whether an Ethernet port sends records (R55, R313). -/
def recordPort (s : State) (p : Fin 2) : Bool := domOn s 3 && s.net[p].cfg.enable && s.net[p].cfg.recEnable

/-- Whether a record block is still owed to a port: not acknowledged there (R315). -/
def owes (s : State) (b : RecBlock) (p : Fin 2) : Bool := recordPort s p && !bit b.acked p.val

/-- Blocks that are exported and owed to no port leave. -/
def dropBlocks (s : State) : State :=
  { s with tal.blocks := s.tal.blocks.filter fun b => !b.done || (List.finRange 2).any (owes s b) }

/-- A block counts as exported (R316). -/
def blockExported (seq : Nat) (s : State) : State :=
  match s.tal.blocks.find? (fun b => b.seq == seq) with
  | none => s
  | some b =>
    if b.done then s
    else
      dropBlocks (markSent b.parts { s with tal.blocks := mapWhere (fun b => b.seq == seq) (fun b => { b with done := true }) s.tal.blocks })

end Sys2Proof.Machine
end

