-- ==== Sys2Proof/Machine/Gates.lean ====
section
/-!
DEFINITION. Reject gates (R112 to R119): gate words, windows, decisions and their lists, deadlines, outputs, voiding a product, the
product's way out of the queue (R108), and the rows GATE_DECISION_PLACE and REJECT_POLICY.
-/
namespace Sys2Proof.Machine

/-! ### Products of the queue -/

/-- The queued product of a number. -/
def productOf (s : State) (n : Nat) : Option Product := s.prod.queue.find? (fun p => p.num == n)

/-- A queued product changed. -/
def modProduct (n : Nat) (f : Product → Product) (s : State) : State :=
  { s with prod.queue := mapWhere (fun p => p.num == n) f s.prod.queue }

/-- A flag of R112 set on a product. -/
def setFlag (n i : Nat) (s : State) : State := modProduct n (fun p => { p with flags := p.flags ||| 2 ^ i }) s

/-- The products whose print window holds a line. -/
def openAt (s : State) (line : Nat) : List Product := s.prod.queue.filter fun p => within p.first p.stop line

/-! ### Gate words and windows (R113, R114, R119) -/

/-- A gate word of REJECT_POLICY (R113); bit 0 of the mask always reads 1. -/
def gateWord (w : W64) : GateWord :=
  { mask := fld w 15 0 ||| 1, tracks := fld w 23 16, enable := fbit w 24, activeLow := fbit w 25, failSafe := fbit w 26,
    offset := fld w 47 28, length := fld w 63 48 }

/-- Whether a word's fields are in range (R113). -/
def gateWordOk (w : W64) : Bool := !fbit w 14 && !fbit w 15 && (!fbit w 24 || decide (1 ≤ fld w 63 48))

/-- Whether a word serves a track. -/
def GateWord.serves (w : GateWord) (track : Nat) : Bool := w.enable && bit w.tracks track

/-- Whether a word rejects a product with some flags (R113). -/
def GateWord.rejects (w : GateWord) (flags : Nat) : Bool := decide (flags &&& (w.mask ||| 1) ≠ 0)

/-- The window of a product on a gate (R114). -/
def gateWindow (w : GateWord) (first : Nat) (reject : Bool) (product : Nat) : GateWindow :=
  { start := first + w.offset, stop := first + w.offset + w.length, reject := reject, product := product, word := w }

/-- The word in force at a moment (R119). -/
def wordAt (g : Gate) (moment : Nat) : GateWord :=
  match g.olds.find? (fun o => decide (moment < o.1)) with
  | some o => o.2
  | none => g.word

/-- Whether a window takes an entry of the decision list (R117). -/
def GateWindow.listed (w : GateWindow) : Bool := w.reject != w.word.failSafe

/-- The entries of a gate's decision list in use. -/
def listUse (g : Gate) : Nat := (g.windows.filter GateWindow.listed).length

/-! ### Placing windows (R116, R117) -/

/-- A product is `collateral`: reported, and flagged while it is queued (R116). -/
def collateral (n : Nat) (s : State) : State := setFlag n 14 (notify Notice.productCollateral n s)

/-- The products that an accepted or rejected window makes collateral (R116). -/
def collaterals (g : Gate) (w : GateWindow) : List Nat :=
  let others := (g.windows ++ g.reserved).filter fun o => o.product != w.product && overlaps o.start o.stop w.start w.stop
  if w.reject then (others.filter fun o => !o.reject).map (·.product)
  else if others.any (·.reject) then [w.product] else []

/-- A window is placed on a gate. A forced rejection never waits: without `fail_safe` it takes a reserved entry, and when those are
full the output is held asserted (R117). -/
def placeWindow (i : Fin 4) (w : GateWindow) (forced : Bool) (s : State) : State :=
  let g := s.prod.gates[i]
  let s := (collaterals g w).foldl (fun s n => collateral n s) s
  let reserve := forced && w.listed
  { s with prod.gates := upd s.prod.gates i fun g =>
      if !reserve then { g with windows := g.windows ++ [w] }
      else if g.reserved.length < 256 then { g with reserved := g.reserved ++ [w] }
      else { g with full := true } }

/-- A rejection for a product that is not queued: a reject window on each gate of its track (R107, R381). -/
def rejectUnqueued (track first moment : Nat) (s : State) : State :=
  (List.finRange 4).foldl (fun s (i : Fin 4) =>
    let w := wordAt s.prod.gates[i] moment
    if w.serves track then placeWindow i (gateWindow w first true (2 ^ 64 - 1)) true s else s) s

/-! ### Voiding and the way out of the queue (R108, R112, R118) -/

/-- The gates that serve a product. -/
def servingGates (p : Product) : List (Fin 4) := (List.finRange 4).filter fun g => p.gw[g].serves p.track

/-- A product is voided: the flag `void`, its records, and on every gate that accepted it already the new decision, `late_decision`
where its window has opened (R112, R123, R309). -/
def voidProduct (n reason fault : Nat) (s : State) : State :=
  let s := voidRecs n reason fault (setFlag n 0 s)
  match productOf s n with
  | none => s
  | some p =>
    (servingGates p).foldl (fun s (g : Fin 4) =>
      if bit p.decided g && !bit p.rejects g then
        let opened := decide (p.first + p.gw[g].offset ≤ s.mot.line)
        let s := if opened then setFlag n 8 s else s
        { s with
          prod.queue := mapWhere (fun p => p.num == n) (fun p => { p with rejects := p.rejects ||| 2 ^ g.val }) s.prod.queue,
          prod.gates := upd s.prod.gates g fun x => { x with windows := mapWhere (fun w => w.product == n) (fun w => { w with reject := true }) x.windows } }
      else s) s

/-- A product is voided under a fault, which is reported with its number (R309, R543). -/
def voidFault (n fault : Nat) (s : State) : State := voidProduct n 3 fault (raise fault n s)

/-- A product's firing stops; it leaves no further dose on the medium (R108). -/
def stopProduct (n : Nat) (s : State) : State := modProduct n (fun p => { p with stopped := true }) s

/-- Whether a product has met the conditions of R108 but for its gate decisions. -/
def productReady (s : State) (p : Product) : Bool :=
  (p.printed || p.stopped) && (recsOf s p.num).all fun r => r.final.isSome || r.outcome != 0

/-- A decided product's records reach their final state (R309). -/
def closeRecords (p : Product) (s : State) : State :=
  (recsOf s p.num).foldl (fun s r =>
    if r.final.isSome then s
    else if p.rejects ≠ 0 then finalise r.num 2 2 0 r.grade s
    else if r.firedLine.isNone then finalise r.num 2 3 FaultCode.lineMissed r.grade s
    else if r.outcome = 1 then finalise r.num 1 0 0 r.grade s
    else finalise r.num 3 0 0 r.grade s) s

/-- The outgoing job of a switch becomes inactive when its last product has left the queue and the switch line is reached (R122). -/
def settleSwitch (s : State) : State :=
  match s.job.switch, s.job.active with
  | some w, some old =>
    match w.line with
    | some l =>
      if w.replied && decide (l ≤ s.mot.line) && !(s.prod.queue.any fun p => p.job == old) then
        notify Notice.jobInactive old { s with job.switch := none, job.active := some w.job }
      else s
    | none => s
  | _, _ => s

/-- A product that is ready and decided on every gate leaves the queue (R108); a flagged product of a track without a gate gets
`no_gate` first (R118). -/
def settleProduct (n : Nat) (s : State) : State :=
  match productOf s n with
  | none => s
  | some p =>
    if !productReady s p || (servingGates p).any (fun g => !bit p.decided g) then s else
    let lone := (servingGates p).isEmpty && decide (p.flags % 512 ≠ 0)
    let s := if lone then setFlag n 15 (notify Notice.productNoGate n s) else s
    let s := closeRecords p s
    settleSwitch { s with prod.queue := s.prod.queue.filter fun p => p.num != n }

/-- Every product is judged under R108. -/
def settleAll (s : State) : State := (s.prod.queue.map (·.num)).foldl (fun s n => settleProduct n s) s

/-- A decision of a ready product is placed on a gate, unless it needs an entry of a list that is full (R117). -/
def decideOn (n : Nat) (g : Fin 4) (s : State) : State :=
  match productOf s n with
  | none => s
  | some p =>
    let w := p.gw[g]
    if !productReady s p || !w.serves p.track || bit p.decided g then s else
    let win := gateWindow w p.first (w.rejects p.flags) n
    if win.listed && decide (256 ≤ listUse s.prod.gates[g]) then s else
    let s := placeWindow g win false s
    let s := modProduct n (fun p =>
      { p with decided := p.decided ||| 2 ^ g.val, rejects := if win.reject then p.rejects ||| 2 ^ g.val else p.rejects }) s
    settleProduct n s

/-- The deadline of a product on a gate: undecided at the boundary that opens its window, it is rejected there at once with
`late_decision` and GATE_UNDECIDED (R115). -/
def deadlineOn (n : Nat) (g : Fin 4) (s : State) : State :=
  match productOf s n with
  | none => s
  | some p =>
    let w := p.gw[g]
    if !w.serves p.track || bit p.decided g || decide (s.mot.line < p.first + w.offset) then s else
    let s := raise FaultCode.gateUndecided n (setFlag n 8 s)
    let s := placeWindow g (gateWindow w p.first true n) true s
    settleProduct n (modProduct n (fun p =>
      { p with decided := p.decided ||| 2 ^ g.val, rejects := p.rejects ||| 2 ^ g.val, late := p.late ||| 2 ^ g.val }) s)

/-! ### Outputs (R114, R116, R119) -/

/-- The level of an output in a word's sense. -/
def GateWord.level (w : GateWord) (asserted : Bool) : Bool := asserted != w.activeLow

/-- The word that rules the resting level at a line (R119). -/
def restingWord (g : Gate) (line : Nat) : GateWord :=
  match g.rests.find? (fun r => decide (r.1 ≤ line)) with | some r => r.2 | none => {}

/-- The level of a gate's output at a line: the union of the asserted windows, else an accepted window's, else the resting level; none where
the gate is at rest under a word with `enable` 0 (R114, R116, R117, R119). -/
def gateLevel (g : Gate) (line : Nat) : Option Bool :=
  let here := (g.windows ++ g.reserved).filter fun w => within w.start w.stop line
  let rest := restingWord g line
  match here.find? (·.reject), here.head? with
  | some w, _ => some (w.word.level true)
  | none, some w => if g.full then some (rest.level true) else some (w.word.level false)
  | none, none =>
    if g.full then some (rest.level true)
    else if rest.enable then some (rest.level rest.failSafe) else none

/-- Every output takes its level. -/
def driveGates (s : State) : State :=
  { s with prod.gates := s.prod.gates.map fun g => { g with output := gateLevel g s.mot.line } }

/-- What a line boundary does to the gates: windows that ended leave, deadlines fall due, outputs change (R114, R115, R117). -/
def gatesBoundary (s : State) : State :=
  let ends : GateWindow → Bool := fun w => decide (s.mot.line < w.stop)
  let s : State := { s with prod.gates := s.prod.gates.map fun g =>
      let rs := g.reserved.filter ends
      { g with windows := g.windows.filter ends, reserved := rs, full := g.full && decide (256 ≤ rs.length) } }
  let s := (s.prod.queue.map (·.num)).foldl (fun s n => (List.finRange 4).foldl (fun s g => deadlineOn n g s) s) s
  driveGates s

/-- GATE_DECISION_PLACE (R117): a product's decision is placed on a gate's list. -/
def execGateDecisionPlace (t product : Nat) (g : Fin 4) (s : State) : Host.Outcome State Fault Refusal :=
  onEvent t (decideOn product g) s

/-! ### REJECT_POLICY (R113, R119) -/

/-- The end of the last window placed, or still to be placed, on a gate under a word other than the one in force (R119). -/
def lastOldEnd (s : State) (i : Fin 4) : Nat :=
  let g := s.prod.gates[i]
  let placed := ((g.windows ++ g.reserved).filter fun w => w.word != g.word).map (·.stop)
  let coming := (s.prod.queue.filter fun p => p.gw[i] != g.word && p.gw[i].serves p.track && !bit p.decided i).map
    fun p => p.first + p.gw[i].offset + p.gw[i].length
  (placed ++ coming).foldl max s.mot.line

/-- A REJECT_POLICY whose earlier edges are all decided ends: the new words rule the resting levels from the line of R119. -/
def endPolicy (cid changed : Nat) (s : State) : State :=
  let gs := (List.finRange 4).filter fun g => bit changed g.val
  let line := (gs.map (lastOldEnd s)).foldl max s.mot.line
  let s := gs.foldl (fun s (i : Fin 4) =>
    let e := lastOldEnd s i
    { s with prod.gates := upd s.prod.gates i fun g => { g with rests := (e, g.word) :: g.rests } }) s
  finish cid Status.done 0 [word line] (driveGates s)

/-- Whether an edge stamped before a moment is still neither accepted nor ignored. -/
def edgesBefore (s : State) (moment : Nat) : Bool :=
  (elems s.mot.pds).any fun p => p.cfg.enable && (match p.burst with | some b => decide (b < moment) | none => false)

/-- Every REJECT_POLICY that waits for no earlier edge ends (R119). -/
def settlePolicies (s : State) : State :=
  let ready := s.prod.policies.filter fun p => !edgesBefore s p.2.1
  let s := { s with prod.policies := s.prod.policies.filter fun p => edgesBefore s p.2.1 }
  ready.foldl (fun s p => endPolicy p.1 p.2.2 s) s

/-- The words of a REJECT_POLICY take the place of those they differ from, for stamps from its acceptance on. -/
def setGateWords (c : Slot) (s : State) : State :=
  (List.finRange 4).foldl (fun s (i : Fin 4) =>
    let g := s.prod.gates[i]
    let w := gateWord (par c i)
    if w = g.word then s
    else { s with prod.gates := upd s.prod.gates i fun g => { g with word := w, olds := g.olds ++ [(c.acceptAt, g.word)] } }) s

/-- The gates whose word a REJECT_POLICY changes. -/
def changedGates (c : Slot) (s : State) : Nat :=
  maskOf ((List.finRange 4).map fun (i : Fin 4) => gateWord (par c i) != s.prod.gates[i].word)

/-- REJECT_POLICY (R113, R119). -/
def execRejectPolicy (t cid : Nat) (s : State) : Host.Outcome State Fault Refusal :=
  onStart Op.rejectPolicy t cid (fun c s =>
    if !((List.range 4).all fun i => gateWordOk (par c i)) then refuse c Status.badParameter s
    else
      let changed := changedGates c s
      let s := setGateWords c s
      settlePolicies { s with prod.policies := s.prod.policies ++ [(c.cid, c.acceptAt, changed)] }) s

end Sys2Proof.Machine
end

