-- ==== Sys2Proof/Machine/Products.lean ====
section
/-!
DEFINITION. Products: the job a new product belongs to (R105, R121), its creation with overlap, full queue and targets (R105 to R107, R189, R495),
the TRIGGER events it sends (R381), QUEUE_READ and PRODUCT_FORCE (R109, R110), the saving of the product number (R98).
-/
namespace Sys2Proof.Machine

/-- The role of this unit decides whether its own detect edges create products (R386, R388). -/
def ownsQueue (s : State) : Bool := s.twn.role == .unbound || s.twn.role == .lead || s.twn.role == .solo

/-- Whether this unit is the standby of a pair. -/
def standby (s : State) : Bool := s.twn.role == .synced || s.twn.role == .copying

/-- The track of a job on an input with its number. -/
def trackOn (j : Job) (input : Nat) : Option (Nat × Track) :=
  ((j.desc.tracks.zipIdx.map fun p => (p.2, p.1)).find? fun p => p.2.input == input)

/-- Whether a job may serve a product of an input with a first line and an edge at a moment (R105). -/
def serves (j : Job) (input first moment : Nat) : Bool :=
  (trackOn j input).isSome && decide (j.la ≤ first) && decide (j.activeAt ≤ moment)

/-- The switch that a product fixes, when it does (R121). -/
def fixes (s : State) (input moment : Nat) : Option JobSwitch :=
  match s.job.switch with
  | some w =>
    if w.line.isNone && decide (w.stamp ≤ moment) && (match jobOf s w.job with | some j => (trackOn j input).isSome | none => false)
    then some w else none
  | none => none

/-- The switch line fixed by a product: the incoming job serves from it, and JOB_SWITCH is answered (R121, R122). -/
def fixSwitch (w : JobSwitch) (line : Nat) (s : State) : State :=
  let s := modJob w.job (fun j => { j with la := line }) { s with job.switch := some { w with line := some line, replied := true } }
  finish w.cid Status.done 0 [word line] s

/-- The job a product belongs to (R105, R121). -/
def jobFor (s : State) (input first moment : Nat) : Option Job :=
  let old := match s.job.active with | some id => jobOf s id | none => none
  let pick (j : Option Job) : Option Job := match j with | some j => if serves j input first moment then some j else none | none => none
  match s.job.switch with
  | some w =>
    match w.line with
    | some l => if l ≤ first then pick (jobOf s w.job) else pick old
    | none => if (fixes s input moment).isSome then jobOf s w.job else pick old
  | none => pick old

/-- Whether two products cover the same element on the same line (R106). -/
def productsMeet (s : State) (a b : Product) : Bool :=
  let span (p : Product) : Nat × Nat :=
    match jobOf s p.job with
    | some j => match j.desc.tracks[p.track]? with | some t => (t.start, t.stop) | none => (0, 0)
    | none => (0, 0)
  let x := span a
  let y := span b
  overlaps a.first a.stop b.first b.stop && overlaps x.1 x.2 y.1 y.2

/-- The gate words of a moment (R119). -/
def wordsAt (s : State) (moment : Nat) : Vector GateWord 4 := s.prod.gates.map fun g => wordAt g moment

/-- Whether a product's lines use a tile that failed twice (R141). -/
def usesCorrupt (s : State) (p : Product) : Bool :=
  match jobOf s p.job with
  | none => false
  | some j =>
    match j.desc.tracks[p.track]? with
    | none => false
    | some t => j.desc.tiles.any fun e =>
        (s.mil.corrupt.any fun c => c.1 == p.job && c.2 == e.addr) && overlaps (e.col * 256) (e.col * 256 + 256) t.start t.stop
          && (j.desc.repeats != 0 || overlaps (e.row * 256) (e.row * 256 + 256) t.artRow (t.artRow + t.length))

/-- A product joins the queue: an overlapping one is voided and not printed (R106); the next on a track that waits for a target is a
target, issued no code and void (R189, R495). -/
def queueProduct (p : Product) (s : State) : State :=
  let clash := s.prod.queue.any fun q => productsMeet s p q
  let want := s.prod.wants.find? fun w => w.1 == p.track
  let s := { s with prod.queue := s.prod.queue ++ [p] }
  if clash then voidFault p.num FaultCode.productOverlap (stopProduct p.num s)
  else if usesCorrupt s p then voidFault p.num FaultCode.sheafTileCorrupt s
  else match want with
    | none => s
    | some w =>
      let s := { s with prod.wants := s.prod.wants.erase w }
      setFlag p.num 0 (modProduct p.num (fun p => { p with target := w.2 }) s)

/-- A product is created on an input (R105): the number it took, none where no active job serves it or the queue is full (R107). -/
def createProduct (input line first stamp moment : Nat) (forced : Bool) (s : State) : Option Nat × State :=
  match jobFor s input first moment with
  | none =>
    if h : input < 8 then
      (none, { s with mot.pds := upd s.mot.pds ⟨input, h⟩ fun p => { p with counted := p.counted + 1 } })
    else (none, s)
  | some j =>
    match trackOn j input with
    | none => (none, s)
    | some (k, t) =>
      if 64 ≤ s.prod.queue.length then (none, rejectUnqueued k first moment (raise FaultCode.queueFull line s))
      else
        let num := s.mot.nextProd
        let p : Product := {
          num := num, detect := stamp, moment := moment, detLine := line, first := first, stop := first + t.length,
          job := j.desc.id, track := k, input := input, flags := if forced then 128 else 0, gw := wordsAt s moment }
        let s := queueProduct p { s with mot.nextProd := num + 1 }
        let s := match fixes s input moment with | some w => fixSwitch w first s | none => s
        (some num, s)

/-! ### TRIGGER events (R381) -/

/-- The words of a TRIGGER (R381). -/
def triggerWords (lead forced : Bool) (input line stamp : Nat) (num : Option Nat) : List W64 :=
  [word (put (flag forced) 9 + put (flag lead) 8 + input), word line, word (stampSec stamp), word (stampSub stamp),
   match num with | some n => word n | none => word (2 ^ 64 - 1)]

/-- Whether this unit holds the Tally lease of its pair. -/
def holdsLease (s : State) : Bool := s.twn.role == .lead || s.twn.role == .solo

/-- A TRIGGER leaves for every node that uses the input, and for the twin peer; a forced one for the peer only (R381). -/
def sendTrigger (input line stamp : Nat) (num : Option Nat) (forced : Bool) (s : State) : State :=
  if s.node = 0 then s else
  let ws := triggerWords (holdsLease s) forced input line stamp num
  let s := if forced then s else uraraSend 2047 0x4A ws s
  if s.twn.bound && (!forced || s.twn.role == .lead) then uraraSend s.twn.peer 0x4A ws s else s

/-! ### QUEUE_READ and PRODUCT_FORCE (R109, R110) -/

/-- The state code of a queue record (R109). -/
def productState (s : State) (p : Product) : Nat :=
  if productReady s p then 4 else if p.printed || p.stopped then 3
  else if within p.first p.stop s.mot.line then 2 else if p.issued then 1 else 0

/-- One queue record (R109). -/
def queueRecord (s : State) (p : Product) : List W64 :=
  [word p.num, word (stampSec p.detect), word (stampSub p.detect), word p.first, word p.stop,
   word (put (productState s p) 40 + put p.input 36 + put p.track 32 + p.job),
   word (put p.rejects 16 + p.flags),
   match p.firstRec with | some r => word r | none => word (2 ^ 64 - 1)]

/-- QUEUE_READ (R109, R110). -/
def execQueueRead (t cid : Nat) (s : State) : Host.Outcome State Fault Refusal :=
  onStart Op.queueRead t cid (fun c s =>
    let dest := parN c 0
    let n := s.prod.queue.length
    let bytes := wordsBytes (s.prod.queue.flatMap (queueRecord s))
    if dest < 16 then
      if !outRing s dest then refuse c Status.badRing s
      else if n = 0 then answer c [0] s
      else queueUnits dest [{ data := bytes, cid := c.cid, final := true, results := [word n] }] s
    else if dest < 0x10000 ∨ dest % 8 ≠ 0 then refuse c Status.badParameter s
    else withRange c dest 4096 (fun s => answer c [word n] (wellWrite dest bytes s)) s) s

/-- PRODUCT_FORCE (R109). -/
def execProductForce (t cid : Nat) (s : State) : Host.Outcome State Fault Refusal :=
  onStart Op.productForce t cid (fun c s =>
    if h : parN c 0 < 8 then
      let pd := s.mot.pds[parN c 0]'h
      if parN c 1 < s.mot.line + pd.cfg.lead then refuse c Status.linePast s
      else if standby s then refuse c Status.notLead s
      else if !pd.cfg.enable ∨ (jobFor s (parN c 0) (parN c 1) s.now).isNone then refuse c Status.noTrack s
      else
        let line := parN c 1 - pd.cfg.lead
        let (num, s) := createProduct (parN c 0) line (parN c 1) (devTime s) s.now true s
        done c (sendTrigger (parN c 0) line (devTime s) num true s)
    else refuse c Status.badParameter s) s

/-- PRODUCT_NUMBER_SAVE (R98): the product number is saved each time it has advanced by 524,288. -/
def execProductNumberSave (t : Nat) (s : State) : Host.Outcome State Fault Refusal :=
  onEvent t (fun s =>
    if s.mot.savedProd + 524288 ≤ s.mot.nextProd then { s with mot.savedProd := s.mot.nextProd } else s) s

/-- LINE_INDEX_SAVE (R98): the line index is saved every 1,048,576 lines. -/
def execLineIndexSave (t : Nat) (s : State) : Host.Outcome State Fault Refusal :=
  onEvent t (fun s =>
    if s.mot.savedLine + 1048576 ≤ s.mot.line then { s with mot.savedLine := s.mot.line } else s) s

end Sys2Proof.Machine
end

