-- ==== Sys2Proof/Machine/Motion.lean ====
section
/-!
DEFINITION. The motion unit: encoder counts with their faults (R95, R97, R99, R100), the line index that is owed, PD edges with debounce, detect
lines and blanking (R102 to R105).
-/
namespace Sys2Proof.Machine

/-! ### Positions and the line index (R97, R99) -/

/-- The position of an encoder. -/
def posOf (s : State) (e : Nat) : Int := if h : e < 4 then (s.mot.enc[e]'h).pos else 0

/-- `counts_per_line` of an encoder in 32.32 fixed point. -/
def cplOf (s : State) (e : Nat) : Nat := if h : e < 4 then s.mot.cfg.cpl[e]'h else 2 ^ 32

/-- The line index that H gives: Lb + floor((H − Hb) / counts_per_line) (R97). -/
def lineOwed (s : State) : Nat :=
  if s.mot.source = 4 then s.mot.lb + (s.mot.pacer - s.mot.pacerB)
  else s.mot.lb + ((s.mot.h - s.mot.hb) * 2 ^ 32 / max 1 (cplOf s s.mot.source)).toNat

/-- The line boundaries kept: those of the last `keep` nanoseconds and the one before them. -/
def pruneBounds (keep now : Nat) : List (Nat × Nat) → List (Nat × Nat)
  | [] => []
  | b :: bs => if b.1 + keep < now then [b] else b :: pruneBounds keep now bs

/-- The line boundaries kept: the latest nine, which the period estimate needs (R238), and those of the last `keep` nanoseconds. -/
def keepBounds (keep now : Nat) (l : List (Nat × Nat)) : List (Nat × Nat) := l.take 9 ++ pruneBounds keep now (l.drop 9)

/-- The line index of a moment: every encoder count stamped at or before it is included (R103). -/
def lineAt (s : State) (moment : Nat) : Nat :=
  match s.mot.bounds.find? (fun b => decide (b.1 ≤ moment)) with
  | some b => b.2
  | none => match s.mot.bounds.getLast? with | some b => b.2 - 1 | none => s.mot.line

/-- The travels of the primary and the check encoder, in primary counts, differ by more than the tolerance (R99). -/
def encodersDiffer (s : State) : Bool :=
  let p := s.mot.source
  let c := s.mot.cfg.check
  if p = 4 ∨ c = 7 ∨ s.mot.failover then false
  else
    let a := (posOf s p - s.mot.base1) * (cplOf s c : Int)
    let b := (posOf s c - s.mot.base2) * (cplOf s p : Int)
    decide ((s.mot.cfg.checkTol : Int) * cplOf s c < (a - b).natAbs)

/-- ENCODER_MISMATCH is reported when the encoders begin to differ, and every open product gets the flag `motion` (R99, R112). -/
def judgeMismatch (s : State) : State :=
  if encodersDiffer s then
    let s := if s.mot.mismatch then s else raise FaultCode.encoderMismatch 0 { s with mot.mismatch := true }
    (openAt s s.mot.line).foldl (fun s p => setFlag p.num 6 s) s
  else { s with mot.mismatch := false }

/-- MOTION_REVERSE: below H by more than the tolerance every open product is voided and rejected, once for each excursion (R97). -/
def judgeReverse (s : State) : State :=
  if s.mot.source = 4 then s else
  let below := decide (posOf s s.mot.source < s.mot.h - s.mot.cfg.reverseTol)
  if below && !s.mot.reversed then
    let s := { s with mot.reversed := true }
    let ps := openAt s s.mot.line
    if ps.isEmpty then raise FaultCode.motionReverse 0 s
    else ps.foldl (fun s p => voidFault p.num FaultCode.motionReverse s) s
  else if !below then { s with mot.reversed := false } else s

/-- H follows the primary position, and a line index newly owed is stamped with this moment (R97, R103). -/
def raiseH (s : State) : State :=
  if s.mot.source = 4 then s else
  let before := lineOwed s
  let s := { s with mot.h := max s.mot.h (posOf s s.mot.source) }
  if before < lineOwed s then { s with mot.bounds := keepBounds (max 70000 s.ura.trigAllow) s.now ((s.now, lineOwed s) :: s.mot.bounds) } else s

/-! ### Encoder events (R95, R100) -/

/-- ENCODER_ERROR of an encoder (R95, R99). -/
def encoderError (e : Fin 4) (s : State) : State :=
  raise FaultCode.encoderError 0 { s with mot.enc := upd s.mot.enc e fun x => { x with errors := x.errors + 1, failed := true } }

/-- An A or B edge (R95): counted as +1 or −1, or as ENCODER_ERROR where it follows an edge of the other channel by less than 10 ns. -/
def encoderEdge (e : Fin 4) (isA up : Bool) (s : State) : State :=
  let x := s.mot.enc[e]
  let bad := x.seen && x.edgeA != isA && decide (s.now - x.edgeAt < 10)
  let s := { s with mot.enc := upd s.mot.enc e fun x => { x with seen := true, edgeAt := s.now, edgeA := isA } }
  if bad then encoderError e s
  else
    let d : Int := if up != bit s.mot.cfg.invert e.val then 1 else -1
    let s := { s with mot.enc := upd s.mot.enc e fun x => { x with pos := x.pos + d } }
    judgeReverse (judgeMismatch (if s.mot.source = e.val then raiseH s else s))

/-- ENCODER_EDGE (R95). -/
def execEncoderEdge (t : Nat) (e : Fin 4) (isA up : Bool) (s : State) : Host.Outcome State Fault Refusal :=
  onEvent t (encoderEdge e isA up) s

/-- ENCODER_SIGNAL_LOSS (R95): a differential input has had no valid level for more than 100 ns. -/
def execEncoderSignalLoss (t : Nat) (e : Fin 4) (s : State) : Host.Outcome State Fault Refusal :=
  onEvent t (encoderError e) s

/-- ENCODER_Z_PULSE (R100): the count since the last Z pulse is checked against `counts_per_rev`. -/
def execEncoderZPulse (t : Nat) (e : Fin 4) (s : State) : Host.Outcome State Fault Refusal :=
  onEvent t (fun s =>
    let x := s.mot.enc[e]
    let cpr := s.mot.cfg.cpr[e]
    let fails := cpr != 0 && match x.zPos with
      | some z => decide (2 < ((x.pos - z).natAbs : Int) - cpr) || decide (2 < (cpr : Int) - (x.pos - z).natAbs)
      | none => false
    { s with mot.enc := upd s.mot.enc e fun x =>
        { x with zPos := some x.pos, zFails := x.zFails + flag fails, failed := x.failed || fails } }) s

/-! ### Detect inputs (R101 to R105, R381) -/

/-- The settings of an input for an edge stamped at a moment (R101). -/
def pdSettings (p : PdInput) (moment : Nat) : PdCfg := if moment < p.oldEnds then p.old else p.cfg

/-- Whether a remote entry of the topology has taken the place of an input's ball (R381). -/
def remoteInput (s : State) (n : Nat) : Bool := s.ura.remotes.any fun r => r.enable && r.local_ == n

/-- PD_EDGE (R102): the level changes; the first transition since the input last held a level for `debounce` is the stamp. -/
def execPdEdge (t : Nat) (n : Fin 8) (level : Bool) (s : State) : Host.Outcome State Fault Refusal :=
  onEvent t (fun s =>
    let p := s.mot.pds[n]
    if p.level == level || remoteInput s n.val then s else
    let behind := s.mot.source != 4 && decide (posOf s s.mot.source < s.mot.h)
    let stamp := devTime s
    let s := { s with mot.pds := upd s.mot.pds n fun p =>
        match p.burst with
        | some _ => { p with level := level, lastAt := s.now }
        | none => { p with level := level, lastAt := s.now, burst := some s.now, stamp16 := stamp, behind := behind } }
    settlePolicies s) s

/-- An edge on one side of a pair is compared with the other side's edges on its input (R388): one within 2 lines matches it; earlier ones that found no match are
reported with TWIN_DETECT_DIFF; without a match the edge itself waits. `matched` marks the lead's events. -/
def pairEdge (e : TwinEdge) (s : State) : State :=
  let others := s.twn.edges.filter fun x => x.matched != e.matched && x.input == e.input
  let near := others.find? fun x => decide (x.line ≤ e.line + 2) && decide (e.line ≤ x.line + 2)
  let stale := s.twn.edges.filter fun x => x.input == e.input && some x != near && decide (x.line + 2 < e.line)
  let s := { s with twn.edges := s.twn.edges.filter fun x => !stale.contains x && some x != near }
  let s := stale.foldl (fun s _ => raise FaultCode.twinDetectDiff 0 s) s
  if near.isSome then s else { s with twn.edges := s.twn.edges ++ [e] }

/-- The standby's own edge (R388). -/
def standbyEdge (input line stamp moment : Nat) (s : State) : State :=
  pairEdge { input := input, line := line, stamp := stamp, moment := moment } s

/-- An accepted edge of an enabled input at line D (R103 to R105): ignored while P is below H or in the blanking, else it starts blanking
and creates a product; the nodes that use the input and the peer are told (R381). -/
def acceptEdge (n : Fin 8) (line stamp moment : Nat) (behind : Bool) (cfg : PdCfg) (s : State) : State :=
  let p := s.mot.pds[n]
  let blanked := match p.blankAt with | some d => within d (d + cfg.blank) line | none => false
  if behind || blanked then { s with mot.pds := upd s.mot.pds n fun p => { p with ignored := p.ignored + 1 } }
  else
    let s := { s with mot.pds := upd s.mot.pds n fun p => { p with blankAt := some line } }
    if standby s then sendTrigger n.val line stamp none false (standbyEdge n.val line stamp moment s)
    else if !ownsQueue s then
      sendTrigger n.val line stamp none false
        { s with mot.pds := upd s.mot.pds n fun p => { p with counted := p.counted + 1 } }
    else
      let (num, s) := createProduct n.val line (line + cfg.lead) stamp moment false s
      sendTrigger n.val line stamp num false s

/-- Whether the level of an input has held for the debounce of its settings (R102). -/
def pdHeld (p : PdInput) (now : Nat) : Bool :=
  match p.burst with
  | some m => decide (p.lastAt + (pdSettings p m).debounce ≤ now)
  | none => false

/-- DETECT_ACCEPT (R102, R105): an input has held its level for `debounce`. A burst that ends at the level held before is no edge. -/
def execDetectAccept (t : Nat) (n : Fin 8) (s : State) : Host.Outcome State Fault Refusal :=
  onEvent t (fun s =>
    let p := s.mot.pds[n]
    match p.burst with
    | none => s
    | some m =>
      if !pdHeld p s.now then s else
      let cfg := pdSettings p m
      let s := { s with mot.pds := upd s.mot.pds n fun p => { p with burst := none, held := p.level } }
      let s := if cfg.enable && p.level != p.held && p.level == !cfg.falling
        then acceptEdge n (lineAt s m) p.stamp16 m p.behind cfg s else s
      settlePolicies s) s

end Sys2Proof.Machine
end

