-- ==== Sys2Proof/Machine/Stages.lean ====
section
/-!
DEFINITION. The seven stages of the Mill (R143): art rows (R147), overlays and compose (R153 to R155), density mapping (R157), screening (R160 to
R163), resampling (R171, R176), compensation (R179 to R184) with targets (R189, R495), packing (R166), and the digests of a line (R201).
-/
namespace Sys2Proof.Machine

/-! ### Items of an epoch (R157, R172, R174) -/

/-- The item bodies in force now. -/
def itemsNow (s : State) : List (Nat × List Byte) := (s.led.items.filter (·.valid)).map fun i => (i.item, i.body)

/-- The epoch of a number; before the first commit, the items and retirements in force. -/
def epochOf (s : State) (es : List Epoch) (num : Nat) : Epoch :=
  (es.find? (fun e => e.num == num)).getD { num := num, items := itemsNow s, retired := s.mil.retired }

/-- The body of an item in an epoch. -/
def Epoch.body (e : Epoch) (item : Nat) : List Byte := ((e.items.find? (fun i => i.1 == item)).map (·.2)).getD []

/-- Word i of an item body. -/
def bodyWord (bs : List Byte) (i : Nat) : W64 := word (leAt bs (8 * i) 8)

/-- Target density of a tone (R157). -/
def density (body : List Byte) (tone : Nat) : Nat := fld (bodyWord body (tone / 4)) (16 * (tone % 4) + 11) (16 * (tone % 4))

/-- The class that folding gives for a class (R157). -/
def foldClass (body : List Byte) (c : Nat) : Nat := fld (bodyWord body 64) (4 * c + 3) (4 * c)

/-- `dev` of a channel in a placement map (R172). -/
def mapDev (map : List Byte) (c : Nat) : Int := signed (fld (bodyWord map (42 + c / 4)) (16 * (c % 4) + 9) (16 * (c % 4))) 10

/-- `fine` of a channel (R172). -/
def mapFine (map : List Byte) (c : Nat) : Nat := fld (bodyWord map (42 + c / 4)) (16 * (c % 4) + 15) (16 * (c % 4) + 10)

/-- `row_across` of a row (R172). -/
def mapAcross (map : List Byte) (r : Nat) : Int := signed (fld (bodyWord map (2 + r)) 31 0) 32

/-- `row_lines` of a row (R172). -/
def mapLines (map : List Byte) (r : Nat) : Int := signed (fld (bodyWord map (2 + r)) 39 32) 8

/-- W(r) of a row (R171). -/
def rowW (map : List Byte) (r : Nat) (g : GeomRow) : Nat := (g.along + mapLines map r).toNat

/-! ### Art rows and tiles (R147) -/

/-- The art row of a line for a product of a track (R147). -/
def artRow (d : JobDesc) (t : Track) (la first line : Nat) : Nat :=
  if d.repeats = 0 then t.artRow + (line - first) else (t.artRow + line - la) % d.repeats

/-- The static tone of a pixel (R147). -/
def staticTone (s : State) (j : Job) (plane row x : Nat) : Nat :=
  match j.desc.tiles.find? (fun t => t.plane == plane && t.row == row / 256 && t.col == x / 256) with
  | none => 0
  | some t =>
    if t.addr = 0 then 0
    else match decodeTileSegment (tileBlock s j t.addr) (row % 256 / 16) with
      | .ok bs => (bs.getD (256 * (row % 16) + x % 256) 0).toNat
      | .error _ => 0

/-! ### Overlays (R153, R295, R296) -/

/-- The glyph of a character: advance and bitmap offset. -/
def glyphOf (f : Font) (c : Byte) : Nat × Nat := f.glyphs.getD c.toNat (0, 0)

/-- Whether a font pixel of a glyph is ink (R296). -/
def glyphDot (f : Font) (g : Nat × Nat) (x y : Nat) : Bool :=
  let ws := ceilDiv g.1 64
  fbit (word (leAt f.bytes (g.2 + 8 * (ws * y + x / 64)) 8)) (x % 64)

/-- Whether a font pixel of a text is ink: glyph after glyph from the box's left edge. -/
def textDot (f : Font) : List Byte → Nat → Nat → Bool
  | [], _, _ => false
  | c :: cs, x, y =>
    let g := glyphOf f c
    if x < g.1 then glyphDot f g x y else textDot f cs (x - g.1) y

/-- Modules across and along at rotation 0 (R295). -/
def symbolSize (t : Template) (font : Option Font) : Nat × Nat :=
  let dm : List (Nat × Nat) := [(10, 10), (12, 12), (14, 14), (16, 16), (18, 18), (20, 20), (22, 22), (24, 24), (26, 26), (32, 32),
    (36, 36), (40, 40), (44, 44), (48, 48), (52, 52), (64, 64), (72, 72), (80, 80), (88, 88), (96, 96), (104, 104), (120, 120),
    (132, 132), (144, 144), (18, 8), (32, 8), (26, 12), (36, 12), (36, 16), (48, 16)]
  match t.symbology with
  | 0 => (t.size, match font with | some f => f.height | none => 0)
  | 1 => dm.getD t.size (0, 0)
  | 3 => dm.getD t.size (0, 0)
  | 2 => (17 + 4 * t.size, 17 + 4 * t.size)
  | 4 => (17 + 4 * t.size, 17 + 4 * t.size)
  | 5 => (t.aux % 65536, t.size)
  | _ => (95, t.size)

/-- Width and height of an overlay in design pixels and lines (R153, R295). -/
def overlaySize (t : Template) (font : Option Font) : Nat × Nat :=
  let m := symbolSize t font
  let m := if t.rotation % 2 = 1 then (m.2, m.1) else m
  (m.1 * t.modX, m.2 * t.modY)

/-- The mask bit of an overlay at a design pixel and a line of its own (R153, R293, R295). -/
def overlayBit (t : Template) (font : Option Font) (data : List Byte) (x y : Nat) : Bool :=
  let m := symbolSize t font
  let sz := overlaySize t font
  if sz.1 ≤ x ∨ sz.2 ≤ y ∨ t.modX = 0 ∨ t.modY = 0 then false
  else
    let a := x / t.modX
    let b := y / t.modY
    let p : Nat × Nat :=
      if t.rotation = 0 then (a, b) else if t.rotation = 1 then (b, m.2 - 1 - a)
      else if t.rotation = 2 then (m.1 - 1 - a, m.2 - 1 - b) else (m.1 - 1 - b, a)
    match t.symbology, font with
    | 0, some f => textDot f data p.1 p.2
    | 0, none => false
    | k, _ => Config.symbolDot [k, t.size, t.qrEcc, t.qrMask, t.aux % 65536] data p.1 p.2

/-! ### Compose (R155) -/

/-- A composed pixel: `var`, `direct`, `value`. -/
structure Pixel where
  var    : Bool := false
  direct : Bool := false
  value  : Nat := 0
  deriving DecidableEq, Repr

/-- The streams of a track in paint order: rising priority, then falling number (R155). -/
def paintOrder (s : State) (mask : Nat) : List (Fin 16) :=
  let ks := ((List.finRange 16).filter fun i => bit mask i.val).reverse
  let prio (i : Fin 16) : Nat := match s.tal.streams[i].template with | some t => fld t.attr 27 24 | none => 0
  (List.range 16).flatMap fun p => ks.filter fun i => prio i == p

/-- One overlay record painted over a pixel (R154, R155); `x0` is the track's start, `first` the product's first line. -/
def paint (t : Template) (font : Option Font) (data : List Byte) (plane x0 first x line : Nat) (p : Pixel) : Pixel :=
  let sz := overlaySize t font
  let ox := x0 + t.dx
  let oy := first + t.oy
  let qx := fld t.attr 39 32
  let qy := fld t.attr 47 40
  let inRect := decide (ox ≤ x + qx) && decide (x < ox + sz.1 + qx) && decide (oy ≤ line + qy) && decide (line < oy + sz.2 + qy)
  let p : Pixel := if fbit t.attr (16 + plane) && inRect then { var := true } else p
  if fld t.attr 2 0 = plane && decide (ox ≤ x) && decide (oy ≤ line) && overlayBit t font data (x - ox) (line - oy) then
    if fbit t.attr 3 then { var := true, direct := true, value := fld t.attr 15 12 }
    else { var := true, direct := false, value := fld t.attr 11 4 }
  else p

/-- The tone of a density target at a line (R495). -/
def patchTone (first line : Nat) : Nat := if (line - first) / 16 ≤ 16 then min 255 (16 * ((line - first) / 16)) else 0

/-- The plane a density run prints on. -/
def densityPlane (s : State) : Option Nat := (s.led.runs.find? (fun r => decide (r.item < 64))).map (·.inst % 8)

/-- Compose of a pixel for one product of a recipe (R155). -/
def composeFor (s : State) (r : Recipe) (q : RecipeProduct) (j : Job) (t : Track) (plane x : Nat) : Pixel :=
  if q.target = 2 then (if densityPlane s = some plane then { value := patchTone q.first r.line } else {})
  else
    let la := if q.job = r.jobA then r.artBase else j.la
    let base : Pixel := { value := staticTone s j plane (artRow j.desc t la q.first r.line) x }
    (paintOrder s t.templates).foldl (fun p i =>
      match s.tal.streams[i].template, (recsOf s q.num).find? (fun e => e.stream == i.val) with
      | some tm, some e => paint tm s.tal.streams[i].font e.data plane t.start q.first x r.line p
      | _, _ => p) base

/-- The product of a recipe that covers a pixel, with its job and track (R155, R169). -/
def coverOf (s : State) (r : Recipe) (x : Nat) : Option (RecipeProduct × Job × Track) :=
  r.products.findSome? fun q =>
    if q.void && q.target == 0 then none
    else match jobOf s q.job with
      | none => none
      | some j => match j.desc.tracks[q.track]? with
        | some t => if within t.start t.stop x then some (q, j, t) else none
        | none => none

/-! ### Density mapping and screening (R157, R162, R163) -/

/-- n bytes of a threshold array of a job: from its slot of the screen store, or from the Well where it is not loaded (R164). -/
def screenBytes (s : State) (j : Job) (addr off n : Nat) : List Byte :=
  match s.mil.screens.find? (fun a => a.1.1 == addr && j.screens.contains a.1) with
  | some a => (a.2.drop off).take n
  | none => wellRead s (addr + off) n

/-- The stage-4 result of a design pixel: dose code and `var` (R143, R163). -/
def stage4 (s : State) (r : Recipe) (cal : Epoch) (plane x : Nat) : Nat × Bool :=
  match coverOf s r x with
  | none => (0, false)
  | some (q, j, t) =>
    let p := composeFor s r q j t plane x
    if p.direct then (p.value % 16, p.var)
    else match j.desc.planes.find? (fun e => e.plane == plane) with
      | none => (0, p.var)
      | some e =>
        let target := density (cal.body e.density) p.value
        let w1 := word (leNat (screenBytes s j e.thresh 8 8))
        let k := r.line / 4096
        let cx := (x + fld w1 7 0 + k * fld w1 23 16) % 256
        let cy := (r.line + fld w1 15 8) % 256
        let cell := leNat (screenBytes s j e.thresh (32 + 24 * (256 * cy + cx)) 24)
        (((List.range 15).filter fun i => decide (threshold cell (i + 1) ≤ target)).length, p.var)

/-! ### Elements and resampling (R171, R176) -/

/-- One element: where it sits and where it prints across the web, in 1/64 design pixel. -/
structure Elem where
  stall : Nat
  row   : Nat
  chan  : Nat
  u     : Int
  deriving DecidableEq, Repr

/-- The elements of one row of a Stall (R170, R171). -/
def rowElems (map : List Byte) (stall r base : Nat) (g : GeomRow) : List Elem :=
  (List.range g.count).map fun k =>
    let c := base + g.first + k
    let nominal : Int := if g.reverse then (g.origin : Int) - k * g.pitch else (g.origin : Int) + k * g.pitch
    { stall := stall, row := r, chan := c, u := nominal + mapAcross map r + mapDev map c }

/-- The elements of a plane: those of active rows, or those of spare rows. -/
def planeElems (s : State) (ep : Epoch) (plane : Nat) (spares : Bool) : List Elem :=
  (indexed s.stl).flatMap fun p =>
    let rows := if spares then p.2.spares else p.2.rows
    (rows.zipIdx.filter fun g => g.1.plane == plane).flatMap fun g =>
      rowElems (ep.body (0x100 + p.1)) p.1 (if spares then 32 + g.2 else g.2) (if spares then 16384 else 0) g.1

/-- Whether a channel is retired in an epoch. -/
def isRetired (ep : Epoch) (stall chan : Nat) : Bool := ep.retired.any fun r => r.stall == stall && r.channel == chan

/-- The stage-5 code of an element and its `var` (R176). -/
def stage5 (s : State) (r : Recipe) (cal ep : Epoch) (plane : Nat) (e : Elem) : Nat × Bool :=
  let i := e.u / 64
  let phi := (e.u % 64).toNat
  let at4 (k : Int) : Nat × Bool := if i - 1 + k < 0 then (0, false) else stage4 s r cal plane (i - 1 + k).toNat
  let c1 := at4 1
  let c2 := at4 2
  if c1.2 || c2.2 then (if phi < 32 then c1.1 else c2.1, true)
  else if c1.1 = 0 ∧ c2.1 = 0 then (0, false)
  else
    let kw := bodyWord (ep.body (0x120 + plane)) (1 + phi)
    let kk (n : Nat) : Int := signed (fld kw (16 * n + 15) (16 * n)) 16
    let acc := kk 0 * (at4 0).1 + kk 1 * c1.1 + kk 2 * c2.1 + kk 3 * (at4 3).1
    ((max 0 (min 15 ((acc + 128) / 256))).toNat, false)

/-! ### Compensation (R179 to R184) -/

/-- One overlap of a plane with its zone (R174, R179). -/
structure Zone where
  stallA : Nat
  rowA   : Nat
  stallB : Nat
  rowB   : Nat
  za     : Int
  zb     : Int
  shift  : Nat
  deriving DecidableEq, Repr

/-- The lowest and the highest of a list of positions. -/
def lowest : List Int → Option Int
  | [] => none
  | x :: xs => some (xs.foldl min x)

/-- The highest of a list of positions. -/
def highest : List Int → Option Int
  | [] => none
  | x :: xs => some (xs.foldl max x)

/-- The elements in service of a plane: active ones not retired, and each spare in service in its element's row (R182). -/
def inService (s : State) (ep : Epoch) (plane : Nat) : List Elem :=
  let act := planeElems s ep plane false
  let spare := planeElems s ep plane true
  (act.filter fun e => !isRetired ep e.stall e.chan) ++
    ep.retired.filterMap fun r =>
      match r.spare, act.find? (fun e => e.stall == r.stall && e.chan == r.channel) with
      | some c, some e => (spare.find? (fun x => x.stall == r.stall && x.chan == c)).map fun x => { x with row := e.row }
      | _, _ => none

/-- The overlaps of a plane that have a zone (R179). -/
def zones (ep : Epoch) (plane : Nat) (els : List Elem) : List Zone :=
  let body := ep.body (0x120 + plane)
  (List.range (fld (bodyWord body 0) 36 32)).filterMap fun n =>
    let w := bodyWord body (113 + 2 * n)
    let us (st row : Nat) : List Int := (els.filter fun e => e.stall == st && e.row == row).map (·.u)
    match lowest (us (fld w 14 10) (fld w 19 15)), highest (us (fld w 4 0) (fld w 9 5)) with
    | some za, some z =>
      if za < z + 1 then some { stallA := fld w 4 0, rowA := fld w 9 5, stallB := fld w 14 10, rowB := fld w 19 15,
                                za := za, zb := z + 1, shift := fld w 27 20 }
      else none
    | _, _ => none

/-- A seam fraction of a plane item (R174). -/
def seamByte (body : List Byte) (b : Nat) : Nat := leAt body (8 * 81 + b) 1

/-- The seam of a zone on a line (R180), from the elements with their stage-5 results. -/
def seamAt (body : List Byte) (line : Nat) (els : List (Elem × Nat × Bool)) (z : Zone) : Int :=
  let isVar := els.any fun p =>
    p.2.2 && ((p.1.stall == z.stallA && p.1.row == z.rowA) || (p.1.stall == z.stallB && p.1.row == z.rowB))
      && decide (z.za ≤ p.1.u) && decide (p.1.u < z.zb)
  if isVar then z.za + (z.zb - z.za) / 2
  else z.za + (z.zb - z.za) * seamByte body ((line + z.shift) % 256) / 256

/-- Whether a seam masks an element (R180). -/
def seamMasks (seams : List (Zone × Int)) (e : Elem) : Bool :=
  seams.any fun p =>
    (p.1.stallA == e.stall && p.1.rowA == e.row && decide (p.2 ≤ e.u)) || (p.1.stallB == e.stall && p.1.rowB == e.row && decide (e.u < p.2))

/-- The nearest element of a list to a position, the lower channel at equal distance. -/
def nearest (u : Int) : List Elem → Option Elem
  | [] => none
  | e :: es =>
    match nearest u es with
    | none => some e
    | some f =>
      let a := (e.u - u).natAbs
      let b := (f.u - u).natAbs
      if a < b ∨ (a = b ∧ e.chan ≤ f.chan) then some e else some f

/-- What one retired element without a spare does to a line (R183, R184): elements unmasked, elements boosted with the code c_e, and whether
it is uncovered. -/
structure Relief where
  cover : Option Elem := none
  boost : List Elem := []
  ce    : Nat := 0
  bare  : Bool := false
  deriving DecidableEq, Repr

/-- The relief of a retired element. -/
def relieve (ep : Epoch) (seams : List (Zone × Int)) (els : List (Elem × Nat × Bool)) (e : Elem) (ce : Nat) : Relief :=
  let map := ep.body (0x100 + e.stall)
  let tol := fld (bodyWord map 0) 39 32
  let reach := fld (bodyWord map 0) 55 40
  let live := els.map (·.1)
  let others := seams.flatMap fun p =>
    let z := p.1
    if decide (z.za ≤ e.u) && decide (e.u < z.zb) then
      if z.stallA == e.stall && z.rowA == e.row then live.filter fun x => x.stall == z.stallB && x.row == z.rowB
      else if z.stallB == e.stall && z.rowB == e.row then live.filter fun x => x.stall == z.stallA && x.row == z.rowA
      else []
    else []
  match nearest e.u (others.filter fun x => seamMasks seams x && decide ((x.u - e.u).natAbs ≤ tol)) with
  | some b => { cover := some b, ce := ce }
  | none =>
    let near := live.filter fun x => !seamMasks seams x && decide ((x.u - e.u).natAbs ≤ reach)
    let below := nearest e.u (near.filter fun x => decide (x.u < e.u))
    let above := nearest e.u (near.filter fun x => decide (e.u < x.u))
    { boost := below.toList ++ above.toList, ce := ce, bare := below.isNone && above.isNone }

/-- Every retired element without a spare that its seam does not mask and whose code is not 0, with its relief (R183). -/
def reliefs (s : State) (r : Recipe) (cal ep : Epoch) (plane : Nat) (seams : List (Zone × Int)) (els : List (Elem × Nat × Bool)) :
    List (Elem × Relief) :=
  (planeElems s ep plane false).filterMap fun e =>
    if (ep.retired.any fun x => x.stall == e.stall && x.channel == e.chan && x.spare.isNone) && !seamMasks seams e then
      let c := stage5 s r cal ep plane e
      if c.1 = 0 then none else some (e, relieve ep seams els e c.1)
    else none

/-- The seams of a plane on a line. -/
def seamsOf (ep : Epoch) (plane line : Nat) (els : List (Elem × Nat × Bool)) : List (Zone × Int) :=
  (zones ep plane (els.map (·.1))).map fun z => (z, seamAt (ep.body (0x120 + plane)) line els z)

/-- The boosted code of an element (R184). -/
def boosted (body : List Byte) (rs : List Relief) (p : Elem × Nat × Bool) : Nat :=
  let c := p.2.1
  if p.2.2 && c == 0 then c
  else rs.foldl (fun m q => if p.1 ∈ q.boost then max m (fld (bodyWord body (65 + q.ce)) (4 * c + 3) (4 * c)) else m) c

/-- Stage 6 for a plane: the code of every element in service (R183). -/
def stage6 (s : State) (r : Recipe) (cal ep : Epoch) (plane : Nat) : List (Elem × Nat) :=
  let els := (inService s ep plane).map fun e => (e, stage5 s r cal ep plane e)
  let seams := seamsOf ep plane r.line els
  let rs := (reliefs s r cal ep plane seams els).map (·.2)
  els.map fun p =>
    let covers := rs.any fun q => q.cover == some p.1
    (p.1, if seamMasks seams p.1 && !covers then 0 else boosted (ep.body (0x120 + plane)) rs p)

/-- The elements of a line that nothing compensates (R184). -/
def bareElems (s : State) (r : Recipe) (cal ep : Epoch) : List (Nat × Nat) :=
  (List.range 8).flatMap fun plane =>
    let els := (inService s ep plane).map fun e => (e, stage5 s r cal ep plane e)
    ((reliefs s r cal ep plane (seamsOf ep plane r.line els) els).filter fun p => p.2.bare).map fun p => (p.1.stall, p.1.chan)

/-! ### Targets (R189) -/

/-- An element placed by its position in a rising list, at equal position by its Stall and channel. -/
def insertElem (e : Elem) : List Elem → List Elem
  | [] => [e]
  | f :: fs => if f.u < e.u ∨ (f.u = e.u ∧ (f.stall < e.stall ∨ (f.stall = e.stall ∧ f.chan < e.chan))) then f :: insertElem e fs else e :: f :: fs

/-- The elements that a target run ranks on a plane, in rank order (R189). -/
def ranked (s : State) (ep : Epoch) (plane : Nat) : List Elem :=
  let spare := (planeElems s ep plane true).filter fun e => !(ep.retired.any fun r => r.stall == e.stall && r.spare == some e.chan)
  ((inService s ep plane ++ spare.filter fun e => !isRetired ep e.stall e.chan)).foldl (fun l e => insertElem e l) []

/-- The planes of a mask in rising order. -/
def planesOf (mask : Nat) : List Nat := (List.range 8).filter fun p => bit mask p

/-- The target codes of a plane on a line of a target product (R189). -/
def targetCodes (s : State) (ep : Epoch) (l : Learn) (first line plane : Nat) : List (Elem × Nat) :=
  (planesOf l.planes).zipIdx.flatMap fun p =>
    if p.1 = plane then
      (ranked s ep plane).zipIdx.map fun e => (e.1, if first + 128 * p.2 + 16 * (e.2 % 8) + 8 = line then l.cls else 0)
    else []

/-- The codes of a plane on a line: target codes on a target's line, stage 6 otherwise. -/
def planeCodes (s : State) (r : Recipe) (cal ep : Epoch) (plane : Nat) : List (Elem × Nat) :=
  match s.mil.learn, r.products.find? (fun q => q.target == 1) with
  | some l, some q => if bit l.planes plane then targetCodes s ep l q.first r.line plane else stage6 s r cal ep plane
  | _, _ => stage6 s r cal ep plane

/-! ### Packing and digests (R166, R167, R201) -/

/-- The code of a channel in a list of codes. -/
def codeOf (l : List (Elem × Nat)) (stall chan : Nat) : Nat :=
  match l.find? (fun p => p.1.stall == stall && p.1.chan == chan) with | some p => p.2 | none => 0

/-- The channels that a Stall's words carry: one more than its highest channel in use (R166). -/
def channelsOf (s : State) (ep : Epoch) (stall : Nat) : Nat :=
  if h : stall < 24 then
    let st := s.stl[stall]'h
    let act := (st.rows.map fun g => g.first + g.count).foldl max 0
    let spare := (ep.retired.filterMap fun r => if r.stall = stall then r.spare.map (· + 1) else none).foldl max 0
    max act spare
  else 0

/-- One dose word of 18 codes (R3, R166). -/
def doseWord (codes : List Nat) : BitVec 72 := BitVec.ofNat 72 ((codes.zipIdx.map fun p => put (p.1 % 16) (4 * p.2)).sum)

/-- The 8-bit parity sideband of a dose word (R167). -/
def sideband (w : BitVec 72) : Nat :=
  ((List.range 8).map fun g => put (((List.range 9).filter fun i => bit w.toNat (9 * g + i)).length % 2) g).sum

/-- The dose words of a Stall (R166). -/
def stallWords (n : Nat) (code : Nat → Nat) : List (BitVec 72) :=
  (List.range (ceilDiv n 18)).map fun m => doseWord ((List.range 18).map fun i => if 18 * m + i < n then code (18 * m + i) else 0)

/-- The Stalls that the jobs of a recipe name. -/
def recipeStalls (s : State) (r : Recipe) : List Nat :=
  let of (id : Nat) : List Nat := match jobOf s id with | some j => jobStalls j.desc | none => []
  (List.range 24).filter fun k => k ∈ of r.jobA || k ∈ of r.jobB

/-- The dose words of a line, Stall by Stall, that a fault-free slice computes from the recipe (R143, R200). -/
def computeLine (s : State) (r : Recipe) : List (Nat × List (BitVec 72)) :=
  let cal := epochOf s s.mil.calEpochs r.calEpoch
  let ep := epochOf s s.mil.placeEpochs r.placeEpoch
  let codes := (List.range 8).flatMap fun p => planeCodes s r cal ep p
  (recipeStalls s r).map fun k => (k, stallWords (channelsOf s ep k) (codeOf codes k))

/-- The per-Stall digest: CRC-64/XZ over line index, Stall number and words (R201). -/
def stallDigest (line stall : Nat) (ws : List (BitVec 72)) : Nat :=
  crc64 (leBytes 8 line ++ [BitVec.ofNat 8 stall] ++ ws.flatMap fun w => leBytes 9 w.toNat)

/-- The digests of a line's words. -/
def lineDigests (line : Nat) (ws : List (Nat × List (BitVec 72))) : List (Nat × Nat) := ws.map fun p => (p.1, stallDigest line p.1 p.2)

/-- The line digest D (R201). -/
def lineDigest (ds : List (Nat × Nat)) : Nat := ds.foldl (fun d p => d ^^^ p.2) 0

end Sys2Proof.Machine
end

