-- ==== Sys2Proof/Machine/Dispatcher.lean ====
section
/-!
DEFINITION. The dispatcher and the band store: working and idle slices (R197), closed lines (R146), line-store credit (R216), recipes (R199, R200),
segments in the band stores (R148, R149, R141), LINE_DISPATCH, and the commits of calibration and placement epochs (R159, R185 to R187).
-/
namespace Sys2Proof.Machine

/-! ### Slices and pairs (R142, R197, R210) -/

/-- The domain of a slice: 0 for MILL0, 1 for MILL1. -/
def sliceDom (k : Nat) : Nat := k / 16

/-- Whether a Mill domain is on and not lost. -/
def millUp (s : State) (d : Fin 2) : Bool := (if d = 0 then domOn s 7 else domOn s 8) && !s.mil.lost[d]

/-- Whether a slice works: not retired, its domain up. -/
def sliceWorks (s : State) (k : Fin 32) : Bool := !s.mil.slices[k].retired && millUp s (if k.val < 16 then 0 else 1)

/-- The slices not retired of the domain with fewer of them (R168). -/
def workingSlices (s : State) : Nat :=
  let n (lo : Nat) : Nat := ((List.finRange 32).filter fun k => k.val / 16 == lo && !s.mil.slices[k].retired).length
  min (n 0) (n 1)

/-- Whether a slice is in a pair in service. -/
def inPair (s : State) (k : Nat) : Bool := (elems s.mil.pairs).any fun p => p.service && (p.a == k || p.b == k)

/-- The idle working slices of a domain, rising. -/
def idleSlices (s : State) (d : Nat) : List (Fin 32) :=
  (List.finRange 32).filter fun k => k.val / 16 == d && sliceWorks s k && !inPair s k.val && s.mil.slices[k].vote.isNone

/-- The pairs in service. -/
def activePairs (s : State) : Nat := ((elems s.mil.pairs).filter (·.service)).length

/-- W of the active jobs: the larger during a switch. -/
def activeW (s : State) : Nat :=
  let w (id : Option Nat) : Nat := match id with | some i => (match jobOf s i with | some j => jobW j.desc | none => 0) | none => 0
  max (w s.job.active) (w (s.job.switch.map (·.job)))

/-- C_line in nanoseconds, rounded up (R25). -/
def cLine (w : Nat) : Nat := ceilDiv (w * 1000) 1800 + 4000

/-! ### Closed lines (R146) -/

/-- The active jobs: the active or outgoing one, and the incoming one of a switch whose line is fixed. -/
def activeJobs (s : State) : List Job :=
  let a := match s.job.active with | some id => (jobOf s id).toList | none => []
  match s.job.switch with
  | some w => a ++ (jobOf s w.job).toList
  | none => a

/-- The enabled inputs that a track of some jobs uses. -/
def usedInputs (s : State) (js : List Job) : List (Fin 8) :=
  (List.finRange 8).filter fun n => s.mot.pds[n].cfg.enable && js.any fun j => (trackOn j n.val).isSome

/-- Whether no edge of an input can still add a product that holds a line (R146). -/
def inputClosed (s : State) (line : Nat) (n : Fin 8) : Bool :=
  let p := s.mot.pds[n]
  let b := line + 1 - p.cfg.lead
  let wait := if remoteInput s n.val then s.ura.trigAllow else p.cfg.debounce + 2000
  let passed := match s.mot.bounds.find? (fun x => x.2 == b) with | some x => decide (x.1 + wait ≤ s.now) | none => true
  let pending := match p.burst with | some m => decide (lineAt s m + p.cfg.lead ≤ line) | none => false
  decide (b ≤ s.mot.line) && passed && !pending

/-- Whether a line is closed (R146). -/
def lineClosed (s : State) (line : Nat) : Bool := (usedInputs s (activeJobs s)).all (inputClosed s line)

/-! ### Credit and recipes (R199, R200, R216) -/

/-- R_low: the lowest line whose slot is not free (R216). -/
def rLow (s : State) : Nat := (s.mil.lines.map (·.line)).foldl min s.mil.nextLine

/-- The recipe of a line. -/
def recipeOf (s : State) (line : Nat) : Option Recipe := s.mil.recipes.find? (fun r => r.line == line)

/-- A recipe changed. -/
def modRecipe (line : Nat) (f : Recipe → Recipe) (s : State) : State :=
  { s with mil.recipes := mapWhere (fun r => r.line == line) f s.mil.recipes }

/-- The eight words of a recipe (R199). -/
def recipeWords (r : Recipe) : List W64 :=
  let lo := (r.products.map (·.num)).foldl min ((r.products.head?.map (·.num)).getD 0)
  let map := (r.products.map fun q => 2 ^ (q.num - lo)).foldl (fun a b => a ||| b) 0
  [word r.line, word lo, word map, word (put r.jobB 32 + r.jobA), word (put r.placeEpoch 32 + r.calEpoch),
   word (put r.pair 33 + put (flag r.thin) 32 + r.line / 4096 % 2 ^ 32), word r.artBase, word r.digest]

/-- The recipe digest of R392: words 0 to 6 with the pair and `thin` taken as 0. -/
def recipeDigest (r : Recipe) : Nat := crc64 (wordsBytes ((recipeWords { r with thin := false, pair := 0 }).take 7))

/-- The recipe that the present state gives a line (R199). -/
def newRecipe (s : State) (line pair : Nat) : Recipe :=
  let ps := openAt s line
  let old := s.job.active.getD 0
  let base := match s.job.active with | some id => (match jobOf s id with | some j => j.la | none => 0) | none => 0
  { line := line, jobA := old,
    jobB := match s.job.switch with | some w => if w.line.isSome then w.job else 0 | none => 0,
    products := ps.map fun p => { num := p.num, first := p.first, stop := p.stop, job := p.job, track := p.track,
                                  target := p.target, void := bit p.flags 0 },
    calEpoch := ((s.mil.calEpochs.find? fun e => decide (e.first ≤ line)).map (·.num)).getD 0,
    placeEpoch := ((s.mil.placeEpochs.find? fun e => decide (e.first ≤ line)).map (·.num)).getD 0,
    thin := s.mil.thinning && decide (line % 8 ≠ 0), pair := pair, artBase := base, moment := s.now }

/-- The recipe a line is dispatched with (R199): one that a replay computes again keeps its own (R548). -/
def makeRecipe (s : State) (line pair : Nat) : Recipe :=
  match recipeOf s line with
  | some r => if line < s.flt.redoTo then { r with pair := pair, moment := s.now } else newRecipe s line pair
  | none => newRecipe s line pair

/-! ### The band stores (R148, R149) -/

/-- The segments that one product needs on a line (R147). -/
def productSegs (s : State) (p : RecipeProduct) (line la : Nat) : List (SegItem × Nat) :=
  if p.void || p.target != 0 then [] else
  match jobOf s p.job with
  | none => []
  | some j =>
    match j.desc.tracks[p.track]? with
    | none => []
    | some t =>
      let row := artRow j.desc t la p.first line
      (j.desc.tiles.filter fun e => e.addr != 0 && e.row == row / 256 && decide (e.col * 256 < t.stop) && decide (t.start < e.col * 256 + 256)
        && j.desc.planes.any (fun q => q.plane == e.plane)).map fun e =>
        ({ plane := e.plane, col := e.col, row := row / 256, seg := row % 256 / 16, input := t.input }, j.desc.id)

/-- The segments that a recipe needs. -/
def recipeSegs (s : State) (r : Recipe) : List (SegItem × Nat) :=
  r.products.flatMap fun p =>
    productSegs s p r.line (if p.job = r.jobA then r.artBase else match jobOf s p.job with | some j => j.la | none => 0)

/-- The band slot of a segment in a domain. -/
def bandSlot (s : State) (d : Fin 2) (i : SegItem) : Option BandSlot := s.mil.band[d].find? (fun b => b.item == i)

/-- Whether every segment of a recipe is complete in both band stores (R146). -/
def segsReady (s : State) (r : Recipe) : Bool :=
  (recipeSegs s r).all fun x => (List.finRange 2).all fun d =>
    match bandSlot s d x.1 with | some b => b.full && b.job == x.2 | none => false

/-- Whether a line that is still being decided, or the next line to be dispatched, uses a segment (R148). -/
def segUsed (s : State) (i : SegItem) : Bool :=
  (s.mil.lines.any fun l => !l.sealed && !l.unresolved &&
      (match recipeOf s l.line with | some r => (recipeSegs s r).any (fun x => x.1 == i) | none => false))
    || (recipeSegs s (makeRecipe s s.mil.nextLine 0)).any (fun x => x.1 == i)

/-- The job whose segment an item names: one with a track on its input. -/
def segJob (s : State) (i : SegItem) : Option Job :=
  let queued := s.prod.queue.filterMap fun p => if p.input = i.input then jobOf s p.job else none
  (queued ++ activeJobs s).find? fun j => (segItems j.desc).contains (i.plane, i.col, i.input)

/-- The tile of a segment in a job. -/
def segTile (j : Job) (i : SegItem) : Option Tile :=
  j.desc.tiles.find? (fun t => t.plane == i.plane && t.col == i.col && t.row == i.row && t.addr != 0)

/-- The slots of an item's triple other than a segment's own. -/
def tripleSlots (bs : List BandSlot) (i : SegItem) : List BandSlot :=
  bs.filter fun b => b.item.plane == i.plane && b.item.col == i.col && b.item.input == i.input && b.item != i

/-- The lowest slice of a domain that can decode (R149). -/
def decoderOf (s : State) (d : Fin 2) : Option (Fin 32) :=
  (List.finRange 32).find? fun k =>
    k.val / 16 == d.val && sliceWorks s k && decide (((s.mil.band[d]).filter fun b => !b.full && b.decoder == k.val).length < 2)

/-- SEGMENT_DECODE (R149): a segment of an active job gets a slot and a decoder; each triple holds at most 2 slots (R148). -/
def execSegmentDecode (t : Nat) (dom : Fin 2) (item : SegItem) (s : State) : Host.Outcome State Fault Refusal :=
  onEvent t (fun s =>
    match segJob s item, decoderOf s dom with
    | some j, some k =>
      let bs := s.mil.band[dom]
      let same := bs.find? (fun b => b.item == item && b.job == j.desc.id)
      if same.isSome || (segTile j item).isNone || decide (15 < item.seg) then s
      else
        let others := tripleSlots bs item
        let free := others.filter fun b => b.full && !segUsed s b.item
        let bs := if 2 ≤ others.length then (match free.head? with | some b => bs.erase b | none => bs) else bs
        let bs := bs.filter fun b => b.item != item
        if 2 ≤ (tripleSlots bs item).length ∨ 2048 ≤ bs.length then s
        else { s with mil.band := s.mil.band.set dom (bs ++ [{ item := item, job := j.desc.id, decoder := k.val, since := s.now }]) }
    | _, _ => s) s

/-- Whether the bytes of a segment decode (R132). -/
def segDecodes (s : State) (j : Job) (i : SegItem) : Bool :=
  match segTile j i with
  | none => true
  | some t =>
    tileReadable s j t.addr && match decodeTileSegment (tileBlock s j t.addr) i.seg with | .ok _ => true | .error _ => false

/-- SEGMENT_DECODE_COMPLETE (R149): the slot is complete; a segment that fails goes to the intake decompressor, and the lines of this domain that need it
get no result from it (R141). `fault` is what the slice's decompressor found beside the bytes of the Well. -/
def execSegmentDecodeComplete (t : Nat) (dom : Fin 2) (item : SegItem) (fault : Option Nat) (s : State) : Host.Outcome State Fault Refusal :=
  onEvent t (fun s =>
    match bandSlot s dom item with
    | none => s
    | some b =>
      if b.full then s else
      let ok := fault.isNone && (match jobOf s b.job with | some j => segDecodes s j item | none => true)
      let s := { s with mil.band := upd s.mil.band dom fun bs => mapWhere (fun x => x.item == item) (fun x => { x with full := true, bad := !ok }) bs }
      if ok || (s.mil.redecode.any fun r => r.item == item) then s
      else { s with mil.redecode := s.mil.redecode ++ [{ item := item, job := b.job }] }) s

/-! ### LINE_DISPATCH (R146, R198) -/

/-- Whether a queued product's codes let its lines be computed: void, a target, without codes, or durable and rendered (R14, R146). -/
def codesReady (s : State) (p : Product) : Bool :=
  bit p.flags 0 || p.target != 0
    || (match jobOf s p.job with
        | some j => (match j.desc.tracks[p.track]? with | some t => t.templates == 0 | none => true)
        | none => true)
    || (p.issued && (recsOf s p.num).all fun r => r.durable && r.slot.isSome)

/-- The lowest pair in service that can accept a line (R198). -/
def readyPair (s : State) : Option (Fin 16) :=
  (List.finRange 16).find? fun k =>
    let p := s.mil.pairs[k]
    p.service && decide (p.accepted + activeW s * 1000 / 1800 ≤ s.now)
      && (List.finRange 32).all fun i => !(i.val == p.a || i.val == p.b) || (sliceWorks s i && s.mil.slices[i].vote.isNone)

/-- Whether the pair's epoch in progress holds dispatch back at a line (R391). -/
def epochHolds (s : State) (line : Nat) : Bool :=
  match s.twn.epoch with
  | some e => e.line.isNone && decide (e.stop ≤ line)
  | none => false

/-- Whether a line may be dispatched now: every line before it is passed as empty (R146, R216). -/
def mayDispatch (s : State) (line : Nat) : Bool :=
  !faulted s && !s.mil.halted && decide (s.mil.nextLine ≤ line)
    && !(s.prod.queue.any fun p => decide (s.mil.nextLine < p.stop) && decide (p.first < line) && decide (s.mil.nextLine < line))
    && !(openAt s line).isEmpty && lineClosed s line && (openAt s line).all (codesReady s)
    && decide (line < rLow s + s.mil.depth) && !epochHolds s line && segsReady s (makeRecipe s line 0)

/-- Every product whose window holds a thinned line is `thin_twin` (R220). -/
def flagThin (r : Recipe) (s : State) : State :=
  if r.thin then (r.products).foldl (fun s q => setFlag q.num 5 s) s else s

/-- ELEMENT_UNCOVERED for each element that a line leaves bare, once for each epoch (R184). -/
def reportBare (r : Recipe) (s : State) : State :=
  let bare := (bareElems s r (epochOf s s.mil.calEpochs r.calEpoch) (epochOf s s.mil.placeEpochs r.placeEpoch)).filter
    fun e => e ∉ s.mil.uncovered
  bare.foldl (fun s e => notify Notice.elementUncovered (put r.placeEpoch 32 + put e.2 16 + e.1) s)
    { s with mil.uncovered := s.mil.uncovered ++ bare }

/-- An overlay slot frees when its product has left the queue and a line at or above `end` + 8,191 has been dispatched (R311). -/
def freeOverlays (line : Nat) (s : State) : State :=
  let held := s.tal.slots.filter fun x =>
    match recOf s x.2 with
    | some r => (productOf s r.product).isSome || decide (line < r.lastLine + 8191)
    | none => false
  { s with tal.slots := held, tal.dispTop := line }

/-- LINE_DISPATCH (R146): the recipe is written and the line given to the lowest pair that can accept it. -/
def execLineDispatch (t line : Nat) (s : State) : Host.Outcome State Fault Refusal :=
  onEvent t (fun s =>
    match readyPair s with
    | none => s
    | some k =>
      if !mayDispatch s line then s else
      let p := s.mil.pairs[k]
      let r := makeRecipe s line k.val
      let s := { s with
        mil.recipes := s.mil.recipes.filter (fun x => decide (line < x.line + 8192) || s.mil.lines.any (fun l => l.line == x.line)) |>.filter (fun x => x.line != line) |>.append [r],
        mil.lines := s.mil.lines ++ [{ line := line, thin := r.thin, awaiting := [p.a, p.b] }],
        mil.nextLine := line + 1,
        mil.pairs := upd s.mil.pairs k fun p => { p with accepted := s.now } }
      reportBare r (freeOverlays line (flagThin r s))) s

/-! ### Changes that ask for an epoch (R159, R185, R391) -/

/-- Whether this unit's epochs wait for its peer: it is LEAD or SYNCED in a pair with both alive. -/
def pairedEpochs (s : State) : Bool := (s.twn.role == .lead && s.twn.peerSynced) || s.twn.role == .synced

/-- The words of the changed items of an epoch (R391): item, length, body. -/
def epochItemWords (is : List (Nat × List Byte)) : List W64 := is.flatMap fun i => word i.1 :: word i.2.length :: wordsOf i.2

/-- The items that carry retirements between the units: 0x200 + Stall, the channel and the reason (R391). -/
def retiredItems (rs : List Retired) : List (Nat × List Byte) :=
  rs.map fun r => (0x200 + r.stall, leBytes 8 (put r.reason 32 + r.channel))

/-- The lead proposes an epoch that is due when none is on its way (R391). The payload is: 0, the number, the kind, the changed items. -/
def proposeIfDue (s : State) : State :=
  if !(s.twn.role == .lead && s.twn.peerSynced) || s.twn.epoch.isSome then s
  else
    let send (num : Nat) (placement : Bool) (items : List (Nat × List Byte)) (s : State) : State :=
      uraraSend s.twn.peer 0x53 ([0, word num, word (flag placement)] ++ epochItemWords items)
        { s with twn.epoch := some { num := num, placement := placement, items := items, stop := s.mil.nextLine + 16 }, twn.epochNum := num }
    if s.mil.placeDue then send (s.mil.placeEpoch + 1) true (s.mil.placePend ++ retiredItems s.mil.retired) s
    else if !s.mil.calPend.isEmpty then send (s.mil.calEpoch + 1) false s.mil.calPend s
    else s

/-- A standby sends a change of its own to the lead (R391). -/
def tellLead (items : List (Nat × List Byte)) (placement : Bool) (s : State) : State :=
  if s.twn.role == .synced then
    uraraSend s.twn.peer 0x53 ([0, 0, word (flag placement)] ++ epochItemWords items) s
  else s

/-- A placement change asks for an epoch (R185). -/
def placementDue (s : State) : State := proposeIfDue { s with mil.placeDue := true }

/-- Items of an epoch with the pending ones in place of their predecessors. -/
def mergeItems (old new : List (Nat × List Byte)) : List (Nat × List Byte) :=
  new.foldl (fun l i => l.filter (fun x => x.1 != i.1) ++ [i]) old

/-- A changed placement item waits for its epoch; before the first epoch, the items in force so far become the epoch that the commit replaces (R185). -/
def placementItem (item : Nat) (body : List Byte) (s : State) : State :=
  placementDue { s with mil.placePend := mergeItems s.mil.placePend [(item, body)] }

/-- A changed density table waits for its epoch (R159). -/
def densityItem (item : Nat) (body : List Byte) (s : State) : State :=
  proposeIfDue { s with mil.calPend := mergeItems s.mil.calPend [(item, body)] }

/-- Before the first epoch of a kind, the items in force so far become an epoch, which a commit then replaces. -/
def keepEpochs (s : State) : State :=
  let s := if s.mil.calEpochs.isEmpty then { s with mil.calEpochs := [{ num := s.mil.calEpoch, items := itemsNow s, retired := s.mil.retired }] } else s
  if s.mil.placeEpochs.isEmpty then { s with mil.placeEpochs := [{ num := s.mil.placeEpoch, items := itemsNow s, retired := s.mil.retired }] } else s

end Sys2Proof.Machine
end

