-- ==== Sys2Proof/Machine/Lead.lean ====
section
/-!
DEFINITION. The budget of R25 and the minimum trigger lead of a job (R111, R382).
-/
namespace Sys2Proof.Machine

/-! ### The minimum lead (R25, R111, R382) -/

/-- P_need of a job (R168). -/
def pairsNeeded (j : Job) : Nat := ceilDiv (jobW j.desc * j.desc.maxRate) 1800000000

/-- P for the budget of a job: the pairs in service, or those that its activation will put there. -/
def budgetPairs (s : State) (j : Job) : Nat := if activePairs s = 0 then max 1 (pairsNeeded j) else activePairs s

/-- The budget B of R25 in 1/(9P) ns: its fixed terms, the debounce, t4 in a pair, `trig_allow` for a remote input, and three uses of C_line. -/
def budget (s : State) (j : Job) (debounce extra : Nat) : Nat :=
  let p := budgetPairs s j
  let t4 := if s.twn.bound then 32000 + 2 * s.twn.latency else 30000
  let fixed := 40 + debounce + 2000 + 50000 + t4 + 150000 + 3000 + 2000 + 40000 + extra
  9 * p * fixed + (5 * jobW j.desc + 36000) * (1 + 2 * p)

/-- The minimum lead of a job for an input: ceil(B × `max_line_rate`) (R111). -/
def leadFor (s : State) (j : Job) (pds : List PdCfg) (n : Fin 8) : Nat :=
  let debounce := (pds.getD n.val {}).debounce
  ceilDiv (budget s j debounce (if remoteInput s n.val then s.ura.trigAllow else 0) * j.desc.maxRate) (9 * budgetPairs s j * 1000000000)

/-- The enabled inputs that a job's tracks use. -/
def jobInputs (pds : List PdCfg) (j : Job) : List (Fin 8) :=
  (List.finRange 8).filter fun n => (pds.getD n.val {}).enable && (trackOn j n.val).isSome

/-- The minimum lead of a job: the largest over its enabled inputs (R111). -/
def minLead (s : State) (j : Job) (pds : List PdCfg) : Nat := ((jobInputs pds j).map (leadFor s j pds)).foldl max 0

/-- Whether every enabled input of a job has the lead that R111 asks. -/
def leadsFit (s : State) (j : Job) (pds : List PdCfg) : Bool :=
  (jobInputs pds j).all fun n => decide (minLead s j pds ≤ (pds.getD n.val {}).lead)

/-- The settings of the inputs in force. -/
def pdCfgs (s : State) : List PdCfg := (elems s.mot.pds).map (·.cfg)

end Sys2Proof.Machine
end

