-- ==== Sys2Proof/Machine/Symbols.lean ====
section
/-!
DEFINITION. The data of a code (R294, R575): templates and fonts read from their bytes (R293, R296), the output of every element, the sizes of encoded symbols
(R295, R297). The symbol tables come from ISO/IEC 16022, 18004 and 15417, which R295 names.
-/
namespace Sys2Proof.Machine

/-! ### Characters -/

/-- Whether a byte is a decimal digit. -/
def isDigit (b : Byte) : Bool := decide (48 ≤ b.toNat) && decide (b.toNat ≤ 57)

/-- Whether a byte is a printable character of R294. -/
def isPlain (b : Byte) : Bool := decide (0x20 ≤ b.toNat) && decide (b.toNat ≤ 0x7E)

/-- The GS1 separator (R294). -/
def separator : Byte := 0x1D

/-- n digits of a number in a radix of at most 16, most significant first, in capitals. -/
def digitsOf (radix : Nat) : Nat → Nat → List Byte
  | 0, _ => []
  | n + 1, x => digitsOf radix n (x / radix) ++ [BitVec.ofNat 8 (if x % radix < 10 then 48 + x % radix else 55 + x % radix)]

/-- Eight characters of the RFC 4648 alphabet, five bits at a time from bit 39 (R307). -/
def base32 (x : Nat) : List Byte :=
  (List.range 8).map fun i =>
    let v := x / 2 ^ (35 - 5 * i) % 32
    BitVec.ofNat 8 (if v < 26 then 65 + v else 24 + v)

/-- The GS1 modulo-10 check digit of some digits: weights 3 and 1 from the right. -/
def gs1Check (ds : List Byte) : Nat :=
  let sum := (ds.reverse.zipIdx.map fun p => (p.1.toNat - 48) * (if p.2 % 2 = 0 then 3 else 1)).sum
  (10 - sum % 10) % 10

/-! ### Templates and fonts (R293, R294, R296) -/

/-- Whether an attribute word is well formed (R154). -/
def attrOk (w : W64) : Bool :=
  fld w 31 28 == 0 && fld w 63 48 == 0
    && (if fbit w 3 then fld w 11 4 == 0 && fld w 15 12 != 0 else fld w 11 4 != 0 && fld w 15 12 == 0)

/-- A source stream of R294: 0 to 15, or 31. -/
def srcOk (x : Nat) : Bool := decide (x < 16) || x == 31

/-- One element with the words it takes, none where it breaks R294. -/
def parseElement (ws : List W64) : Option (Element × Nat) :=
  let w := ws.getD 0 0
  let kind := fld w 3 0
  let n := fld w 31 16
  let src := fld w 20 16
  if kind = 0 then
    let bytes := (wordsBytes ((ws.drop 1).take (ceilDiv n 8))).take n
    if n = 0 ∨ 512 < n ∨ bytes.length < n ∨ fld w 63 32 ≠ 0 ∨ fld w 15 4 ≠ 0 ∨ !bytes.all isPlain then none
    else some (.literal bytes, 1 + ceilDiv n 8)
  else if kind = 1 then
    let d := fld w 15 8
    if fld w 63 21 ≠ 0 ∨ 1 < fld w 7 4 ∨ d = 0 ∨ 20 < d ∨ !srcOk src then none else some (.serial (fld w 7 4 == 1) d src, 1)
  else if kind = 2 then
    if fld w 63 16 ≠ 0 ∨ 3 < fld w 7 4 then none else some (.calendar (fld w 7 4) (fld w 15 8), 1)
  else if kind = 3 then
    if fld w 63 21 ≠ 0 ∨ fld w 15 8 ≠ 0 ∨ 1 < fld w 7 4 ∨ !srcOk src then none else some (.auth (fld w 7 4 == 1) src, 1)
  else if kind = 4 then
    if fld w 63 4 ≠ 0 then none else some (.separator, 1)
  else if kind = 5 then
    if fld w 63 13 ≠ 0 ∨ fld w 7 4 ≠ 0 ∨ fld w 12 8 = 0 then none else some (.check (fld w 12 8), 1)
  else none

/-- n elements in order. -/
def parseElements : Nat → List W64 → Option (List Element)
  | 0, _ => some []
  | n + 1, ws =>
    if ws.isEmpty then none
    else match parseElement ws with
      | none => none
      | some (e, k) => match parseElements n (ws.drop k) with | some es => some (e :: es) | none => none

/-- Whether a symbology is one of GS1's. -/
def isGs1 (k : Nat) : Bool := k == 3 || k == 4 || k == 5

/-- The size field of a symbology is in its range (R295). -/
def sizeOk (k size : Nat) : Bool :=
  if k = 1 ∨ k = 3 then decide (size < 30) else if k = 2 ∨ k = 4 then decide (1 ≤ size) && decide (size ≤ 20) else decide (1 ≤ size)

/-- A template read from its bytes (R293, R294). -/
def parseTemplate (bs : List Byte) : Option Template :=
  let ws := wordsOf bs
  let w (i : Nat) : W64 := ws.getD i 0
  let k := fld (w 3) 7 0
  let n := fld (w 5) 7 0
  let mask := fld (w 3) 63 56
  if ws.length < 6 ∨ fld (w 0) 31 0 ≠ 0x544D5031 ∨ fld (w 0) 39 32 ≠ 1 ∨ fld (w 0) 63 40 ≠ 0 ∨ !attrOk (w 1) then none
  else if fld (w 3) 15 10 ≠ 0 ∨ fld (w 3) 55 50 ≠ 0 ∨ fld (w 5) 63 8 ≠ 0 ∨ 6 < k ∨ !sizeOk k (fld (w 3) 47 32) then none
  else if fld (w 3) 23 16 = 0 ∨ 64 < fld (w 3) 23 16 ∨ fld (w 3) 31 24 = 0 ∨ 64 < fld (w 3) 31 24 ∨ (7 < mask ∧ mask ≠ 0xFF) then none
  else if n = 0 ∨ 64 < n ∨ (if k = 5 then fld (w 4) 63 16 ≠ 0 ∨ w 4 = 0 else k ≠ 0 ∧ w 4 ≠ 0) then none
  else match parseElements n (ws.drop 6) with
    | none => none
    | some es =>
      if es.any (fun e => e == .separator) && !isGs1 k then none
      else some {
        attr := w 1, dx := fld (w 2) 31 0, oy := fld (w 2) 63 32, symbology := k, rotation := fld (w 3) 9 8, modX := fld (w 3) 23 16,
        modY := fld (w 3) 31 24, size := fld (w 3) 47 32, qrEcc := fld (w 3) 49 48, qrMask := mask, aux := (w 4).toNat, elements := es }

/-- A font read from its bytes (R296). -/
def parseFont (addr : Nat) (bs : List Byte) : Option Font :=
  let w (i : Nat) : W64 := word (leAt bs (8 * i) 8)
  let h := fld (w 0) 47 32
  let gs := (List.range 256).map fun g => (fld (w (1 + g)) 15 0, fld (w (1 + g)) 47 16)
  let good (g : Nat × Nat) : Bool := g.1 == 0 || decide (g.2 + 8 * h * ceilDiv g.1 64 ≤ bs.length)
  if bs.length < 2056 ∨ fld (w 0) 31 0 ≠ 0x464E5431 ∨ fld (w 0) 63 48 ≠ 0 ∨ h = 0 ∨ 256 < h then none
  else if (List.range 256).any (fun g => fld (w (1 + g)) 63 48 != 0) || !gs.all good then none
  else some { addr := addr, height := h, glyphs := gs, bytes := bs }

/-! ### Check digits where the template fixes the characters (R575) -/

/-- What a template fixes of one character before a check digit: a digit, not a digit, or known only at issue. -/
inductive Fixed where
  | digit | other | open_
  deriving DecidableEq, Repr

/-- What a template fixes of an element's characters: the fewest, and the list where the length is fixed. -/
def fixedChars : Element → Option (List Fixed)
  | .literal bs => some (bs.map fun b => if isDigit b then .digit else .other)
  | .serial hex d _ => some (List.replicate d (if hex then .open_ else .digit))
  | .calendar _ _ => none
  | .auth decimal _ => some (List.replicate (if decimal then 13 else 8) .open_)
  | .separator => some [.other]
  | .check _ => some [.digit]

/-- The characters a calendar element can give at most. -/
def maxChars : Element → Nat
  | .calendar _ n => n
  | e => match fixedChars e with | some l => l.length | none => 0

/-- Whether the n characters before a check digit can meet the rule: going back over the elements before it, `lo` and `hi` characters at least and at most
have been passed (R575). -/
def checkCan (n lo hi : Nat) : List Element → Bool
  | [] => decide (n ≤ hi)
  | e :: es =>
    if n ≤ lo then true
    else match fixedChars e with
      | none => checkCan n lo (hi + maxChars e) es
      | some l =>
        let bad := l.reverse.zipIdx.any fun p => p.1 == .other && decide (hi + p.2 < n)
        if bad then false else checkCan n (lo + l.length) (hi + l.length) es

/-- Whether every check-digit element of a template can meet its rule; `before` is what precedes, latest first. -/
def checksOk : List Element → List Element → Bool
  | _, [] => true
  | before, e :: es =>
    (match e with | .check n => checkCan n 0 0 before | _ => true) && checksOk (e :: before) es

/-! ### The data string (R294, R307) -/

/-- One character of a data string: whether it is an authenticator's, and whether it hangs on the code's own authenticator. -/
structure Char where
  byte : Byte
  auth : Bool := false
  own  : Bool := false
  deriving DecidableEq, Repr

/-- What the elements of a code are fed with: its serial, the authenticator of its own once known, serials and authenticators of the lower streams of the group,
and the strings of its calendar entry. -/
structure Feed where
  serial : Nat
  own    : Nat
  lower  : List (Nat × Nat × Nat)
  entry  : CalEntry
  deriving DecidableEq, Repr

/-- The string of a calendar field (R304). -/
def calField (e : CalEntry) (k : Nat) : List Byte := if k = 0 then e.date else if k = 1 then e.expiry else if k = 2 then e.shift else e.batch

/-- Characters without a mark. -/
def plain (bs : List Byte) : List Char := bs.map fun b => { byte := b }

/-- The output of one element after what stands before it; none where a check digit breaks R294 or a calendar field is longer than its `max_len`. -/
def elementOut (f : Feed) (sofar : List Char) : Element → Option (List Char)
  | .literal bs => some (plain bs)
  | .serial hex d src =>
    let x := if src = 31 then f.serial else ((f.lower.find? fun l => l.1 == src).map (·.2.1)).getD 0
    some (plain (digitsOf (if hex then 16 else 10) d x))
  | .calendar k n => if (calField f.entry k).length ≤ n then some (plain (calField f.entry k)) else none
  | .auth decimal src =>
    let x := if src = 31 then f.own else ((f.lower.find? fun l => l.1 == src).map (·.2.2)).getD 0
    some ((if decimal then digitsOf 10 13 x else base32 x).map fun b => { byte := b, auth := true, own := src == 31 })
  | .separator => some [{ byte := separator }]
  | .check n =>
    let last := sofar.drop (sofar.length - n)
    if sofar.length < n ∨ !last.all (fun c => isDigit c.byte) then none
    else some [{ byte := BitVec.ofNat 8 (48 + gs1Check (last.map (·.byte))), own := last.any (·.own) }]

/-- The output of all elements in order. -/
def elementsOut (f : Feed) : List Char → List Element → Option (List Char)
  | sofar, [] => some sofar
  | sofar, e :: es => match elementOut f sofar e with | some l => elementsOut f (sofar ++ l) es | none => none

/-- The bytes under the authenticator of a code (R307). -/
def authBytes (lineId pool serial : Nat) (cs : List Char) : List Byte :=
  let text := (cs.filter fun c => !c.auth).map (·.byte)
  [1] ++ leBytes 4 lineId ++ leBytes 4 pool ++ leBytes 8 serial ++ leBytes 2 text.length ++ text

/-- The 40 bits of an authenticator (R307): bytes 0 to 4 of the tag, byte 0 the most significant. Where the bytes hang on the authenticator itself, through a check
digit over it, the spec gives no value: it is a free one. -/
def authValue (key : List Byte) (lineId pool serial : Nat) (cs : List Char) : Nat :=
  if cs.any fun c => c.own && !c.auth then (Config.authLoop (cs.map (·.byte))) % 2 ^ 40
  else ((leBytes 5 (Config.cmac key (authBytes lineId pool serial cs)).toNat).foldl (fun a b => a * 256 + b.toNat) 0)

/-- The data string of a code and its authenticator (0 without a key), none where R575 fails at issue. The authenticator's own characters do not enter its
bytes, so a first pass with zeros gives them. -/
def codeData (t : Template) (f : Feed) (key : Option (List Byte)) (lineId pool : Nat) : Option (List Byte × Nat) :=
  match key with
  | none => (elementsOut f [] t.elements).map fun l => (l.map (·.byte), 0)
  | some k =>
    let decimal : List Element := t.elements.map fun e => match e with | .auth _ 31 => .auth true 31 | e => e
    let first := match elementsOut { f with own := 0 } [] t.elements with
      | some l => some l
      | none => elementsOut { f with own := 0 } [] decimal
    match first with
    | none => none
    | some l =>
      let a := authValue k lineId pool f.serial l
      (elementsOut { f with own := a } [] t.elements).map fun l => (l.map (·.byte), a)

/-! ### Sizes of encoded symbols (R295, R297) -/

/-- Data codewords of the Data Matrix sizes 0 to 29. -/
def matrixCapacity (size : Nat) : Nat :=
  ([3, 5, 8, 12, 18, 22, 30, 36, 44, 62, 86, 114, 144, 174, 204, 280, 368, 456, 576, 696, 816, 1050, 1304, 1558, 5, 10, 16, 22, 32, 49] : List Nat).getD
    size 0

/-- Codewords of a string in ASCII encodation with digit pairs; a separator is FNC1. Base 256 is never shorter for these characters. -/
def matrixWords : List Byte → Nat
  | a :: b :: cs => if isDigit a && isDigit b then 1 + matrixWords cs else 1 + matrixWords (b :: cs)
  | [_] => 1
  | [] => 0

/-- Data codewords of a QR Code of a version and an error-correction level. -/
def qrCapacity (version ecc : Nat) : Nat :=
  let l : List Nat := [19, 34, 55, 80, 108, 136, 156, 194, 232, 274, 324, 370, 428, 461, 523, 589, 647, 721, 795, 861]
  let m : List Nat := [16, 28, 44, 64, 86, 108, 124, 154, 182, 216, 254, 290, 334, 365, 415, 453, 507, 563, 627, 669]
  let q : List Nat := [13, 22, 34, 48, 62, 76, 88, 110, 132, 154, 180, 206, 244, 261, 295, 325, 367, 397, 445, 485]
  let h : List Nat := [9, 16, 26, 36, 46, 60, 66, 86, 100, 122, 140, 158, 180, 197, 223, 253, 283, 313, 341, 385]
  (if ecc = 0 then l else if ecc = 1 then m else if ecc = 2 then q else h).getD (version - 1) 0

/-- Whether a byte is of the QR alphanumeric set. -/
def isAlnum (b : Byte) : Bool :=
  isDigit b || (decide (65 ≤ b.toNat) && decide (b.toNat ≤ 90)) || [0x20, 0x24, 0x25, 0x2A, 0x2B, 0x2D, 0x2E, 0x2F, 0x3A].contains b.toNat

/-- The fewest bits so far for each state of the segment in progress: numeric after 0, 1 or 2 digits of a group, alphanumeric after 0 or 1 of a pair, byte. -/
structure QrCost where
  n0 : Nat
  n1 : Nat
  n2 : Nat
  a0 : Nat
  a1 : Nat
  by_ : Nat
  deriving DecidableEq, Repr

/-- More bits than any symbol holds. -/
def qrNever : Nat := 1000000

/-- The fewest bits over all states. -/
def QrCost.least (c : QrCost) : Nat := min (min (min c.n0 c.n1) (min c.n2 c.a0)) (min c.a1 c.by_)

/-- One alphanumeric character enters the pairs. -/
def alnumStep (p : Nat × Nat) : Nat × Nat := (p.2 + 5, p.1 + 6)

/-- One character enters, with the fewest bits so far beside the states (ISO/IEC 18004: mode indicator of 4 bits, character count by version, groups of 10 bits
for 3 digits and 11 for 2 alphanumerics). In GS1 QR the separator is `%` in alphanumeric mode and `%` is doubled. -/
def qrStep (big gs1 : Bool) (p : Nat × QrCost) (b : Byte) : Nat × QrCost :=
  let c := p.2
  let hn := p.1 + 4 + (if big then 12 else 10)
  let ha := p.1 + 4 + (if big then 11 else 9)
  let hb := p.1 + 4 + (if big then 16 else 8)
  let twice := gs1 && b == 0x25
  let alnum := isAlnum b || (gs1 && b == separator)
  let old := if twice then alnumStep (alnumStep (c.a0, c.a1)) else alnumStep (c.a0, c.a1)
  let new := if twice then alnumStep (alnumStep (ha, qrNever)) else alnumStep (ha, qrNever)
  let d : QrCost := {
    n0 := if isDigit b then c.n2 + 3 else qrNever,
    n1 := if isDigit b then min c.n0 hn + 4 else qrNever,
    n2 := if isDigit b then c.n1 + 3 else qrNever,
    a0 := if alnum then min old.1 new.1 else qrNever,
    a1 := if alnum then min old.2 new.2 else qrNever,
    by_ := min c.by_ hb + 8 }
  (d.least, d)

/-- The fewest bits of a string in a QR Code. -/
def qrBits (version : Nat) (gs1 : Bool) (bs : List Byte) : Nat :=
  let none_ : QrCost := { n0 := qrNever, n1 := qrNever, n2 := qrNever, a0 := qrNever, a1 := qrNever, by_ := qrNever }
  (bs.foldl (qrStep (decide (10 ≤ version)) gs1) (if gs1 then 4 else 0, none_)).1

/-- The fewest symbol characters so far of a Code 128 string: in code set B, in C between pairs, in C after the first digit of a pair. -/
def c128Step (c : Nat × Nat × Nat) (b : Byte) : Nat × Nat × Nat :=
  let inB := min c.1 (c.2.1 + 1)
  let inC := min c.2.1 (c.1 + 1)
  if b = separator then (inB + 1, inC + 1, qrNever)
  else if isDigit b then (inB + 1, c.2.2, inC + 1)
  else (inB + 1, qrNever, qrNever)

/-- The modules of a GS1-128 symbol: start, FNC1, data, check and stop, in the fewest symbol characters. -/
def c128Modules (bs : List Byte) : Nat :=
  let c := bs.foldl c128Step (0, 0, qrNever)
  11 * (2 + min c.1 c.2.1 + 1) + 13

/-- The width of a text in font pixels. -/
def textWidth (f : Font) (bs : List Byte) : Nat := (bs.map fun b => (glyphOf f b).1).sum

/-- Whether a data string fits its symbol (R295, R297). -/
def codeFits (t : Template) (font : Option Font) (data : List Byte) : Bool :=
  match t.symbology with
  | 0 => match font with | some f => decide (textWidth f data ≤ t.size) | none => false
  | 1 => decide (matrixWords data ≤ matrixCapacity t.size)
  | 3 => decide (1 + matrixWords data ≤ matrixCapacity t.size)
  | 2 => decide (qrBits t.size false data ≤ 8 * qrCapacity t.size t.qrEcc)
  | 4 => decide (qrBits t.size true data ≤ 8 * qrCapacity t.size t.qrEcc)
  | 5 => decide (c128Modules data ≤ t.aux % 65536)
  | _ => data.length == 13 && data.all isDigit && data.getLast? == some (BitVec.ofNat 8 (48 + gs1Check (data.take 12)))

end Sys2Proof.Machine
end

