-- ==== Sys2Proof/Machine/Tally.lean ====
section
/-!
DEFINITION. The Tally's bindings and stores: STREAM_BIND (R291, R292), POOL_GRANT and the order of issue (R298 to R302), POOL_STATUS (R303), CALENDAR_LOAD (R304),
SERIAL_LOOKAHEAD, manifests (R318), CODE_VOID (R310).
-/
namespace Sys2Proof.Machine

/-- A stream changed. -/
def modStream (i : Fin 16) (f : Stream → Stream) (s : State) : State := { s with tal.streams := upd s.tal.streams i f }

/-- The pool of an ID. -/
def poolOf (s : State) (id : Nat) : Option Pool := s.tal.pools.find? (fun p => p.id == id)

/-- A pool changed. -/
def modPool (id : Nat) (f : Pool → Pool) (s : State) : State :=
  { s with tal.pools := mapWhere (fun p => p.id == id) f s.tal.pools }

/-- The current calendar plan (R304). -/
def planNow (s : State) : Option Plan := s.tal.plans.head?.map (·.2)

/-- Whether a key of a kind is held under an ID (R406, R417): kind 2 an FF1 key, kind 3 a line key. -/
def keyOf (s : State) (id kind : Nat) : Option (List Byte) :=
  (s.kry.keys.find? fun k => k.id == id && k.kind == kind && !k.bad).map (·.key)

/-- Whether a unit in its role leaves Tally commands to the lead of its pair (R51, R386). -/
def notLead (s : State) : Bool := !ownsQueue s

/-- A moment of elapsed local time as seconds of device time. -/
def secAt (s : State) (moment : Nat) : Nat := (devNs s - (s.now - moment)) / 1000000000

/-! ### Streams of Sheaf blocks in the Well (R139, R292) -/

/-- The bytes from an address that the blocks of a stream span, up to the block with `last`, a head that is none, or a range that R573 refuses. -/
def streamSpan (s : State) : Nat → Nat → Nat
  | 0, _ => 0
  | fuel + 1, addr =>
    if (rangeFailure s addr 16).isSome then 16
    else
      let h := sheafHead (wellRead s addr (16 + 128))
      if leAt (wellRead s addr 2) 0 2 ≠ 0x5346 then 16
      else if h.last || (rangeFailure s addr h.total).isSome then h.total
      else h.total + streamSpan s fuel (addr + h.total)

/-- A stream's blocks decoded: the address of the failing block with its code, or the bytes (R131, R132, R545). -/
def decodeBlocks (limit : Nat) : Nat → Nat → List Byte → Except (Nat × Nat) (List Byte)
  | 0, addr, _ => .error (addr, Shf.limit)
  | fuel + 1, addr, bs =>
    let h := sheafHead bs
    match decodeBlock bs 2 (min 65536 limit) none with
    | .error e => .error (addr, e)
    | .ok out =>
      if h.last then .ok out
      else match decodeBlocks (limit - out.length) fuel (addr + h.total) (bs.drop h.total) with
        | .error e => .error e
        | .ok more => .ok (out ++ more)

/-- A template or font stream read and decoded; a decode failure is reported (R545). -/
def readStream (addr limit : Nat) (bs : List Byte) (s : State) : Option (List Byte) × State :=
  match decodeBlocks limit (limit + 1) addr bs with
  | .ok out => (some out, s)
  | .error e => (none, raise FaultCode.sheafBlock (e.1 % 2 ^ 48 + put e.2 48) s)

/-- The font of a text template, none where it cannot be read or breaks R296. -/
def readFont (addr : Nat) (s : State) : Option Font × State :=
  let n := streamSpan s (1048576 + 1) addr
  if (rangeFailure s addr n).isSome || poisoned s addr n then (none, s)
  else match readStream addr 1048576 (wellRead s addr n) s with
    | (some bs, s) => (parseFont addr bs, s)
    | (none, s) => (none, s)

/-! ### What a binding must meet (R292) -/

/-- The largest serial a pool's grants can give. -/
def maxSerial (s : State) (pool : Nat) : Nat :=
  match poolOf s pool with
  | some p => (p.grants.map fun g => g.base + g.count - 1).foldl max 0
  | none => 0

/-- The pool that the serials of a source stream come from: 0 for none. -/
def sourcePool (s : State) (stream pool src : Nat) : Nat :=
  if src = 31 then pool
  else if stream ≤ src then 0
  else if h : src < 16 then
    let x := s.tal.streams[src]'h
    if x.template.isSome then x.pool else 0
  else 0

/-- A serial or authenticator element names a stream with a serial, lower or its own, and has digits enough (R292, R294). -/
def sourceOk (s : State) (stream pool : Nat) : Element → Bool
  | .serial hex d src =>
    let p := sourcePool s stream pool src
    p != 0 && decide (maxSerial s p < (if hex then 16 else 10) ^ d)
  | .auth _ src => sourcePool s stream pool src != 0 && !s.kry.approved
  | _ => true

/-- The characters that a text can receive from the elements R292 names. -/
def receivable (plan : Option Plan) : Element → List Byte
  | .literal bs => bs
  | .serial hex _ _ => digitsOf 16 16 0x0123456789ABCDEF |>.take (if hex then 16 else 10)
  | .auth decimal _ => if decimal then digitsOf 10 10 123456789 else (List.range 32).map fun v => BitVec.ofNat 8 (if v < 26 then 65 + v else 24 + v)
  | .calendar k _ => match plan with | some p => p.entries.flatMap fun e => calField e k | none => []
  | _ => []

/-- Whether every such character has a glyph. -/
def glyphsOk (plan : Option Plan) (t : Template) (font : Option Font) : Bool :=
  match font with
  | none => true
  | some f => t.elements.all fun e => (receivable plan e).all fun b => (glyphOf f b).1 != 0

/-- Whether every calendar string fits its element. -/
def calendarOk (plan : Option Plan) (t : Template) : Bool :=
  t.elements.all fun e => match e, plan with
    | .calendar k n, some p => p.entries.all fun c => decide ((calField c k).length ≤ n)
    | _, _ => true

/-- The bytes of an overlay record (R153, R311). -/
def overlayBytes (sz : Nat × Nat) : Nat := 32 + sz.2 * ceilDiv sz.1 64 * 8

/-- Whether a job that names a stream is active. -/
def streamBusy (s : State) (i : Nat) : Bool :=
  s.job.loaded.any fun j => jobIsActive s j.desc.id && j.desc.tracks.any fun t => bit t.templates i

/-- The distinct fonts of the bound streams but one, with one more (R292). -/
def fontCount (s : State) (i : Fin 16) (f : Option Font) : Nat :=
  let others := ((List.finRange 16).filter fun k => k != i).filterMap fun k => s.tal.streams[k].font.map (·.addr)
  ((others ++ (f.map (·.addr)).toList).eraseDups).length

/-! ### Manifests (R318) -/

/-- The open manifest of a stream closes and the next opens at the same moment (R318). -/
def closeManifest (i : Fin 16) (byCmd : Bool) (cids : List Nat) (s : State) : State :=
  let x := s.tal.streams[i]
  match x.man with
  | none => s
  | some m =>
    let done := { m with num := s.tal.nextMan, byCmd := byCmd, closeAt := devSec s, cids := cids, shift := x.shift }
    let next : Manifest := { stream := i.val, pool := x.pool, openAt := devSec s, moment := s.now, planVer := ((planNow s).map (·.ver)).getD 0 }
    { modStream i (fun x => { x with man := some next }) s with
      tal.nextMan := s.tal.nextMan + 1, tal.closed := s.tal.closed ++ [done] }

/-- MANIFEST_CLOSE (R318): the manifests of one or all streams close; the final reply comes when all their records are final. A stream that was never bound has none. -/
def execManifestClose (t cid : Nat) (s : State) : Host.Outcome State Fault Refusal :=
  onStart Op.manifestClose t cid (fun c s =>
    let all := par c 0 == word (2 ^ 64 - 1)
    if !all && decide (16 ≤ parN c 0) then refuse c Status.badParameter s
    else if notLead s then refuse c Status.notLead s
    else
      let is := (List.finRange 16).filter fun i => (all || i.val == parN c 0) && s.tal.streams[i].man.isSome
      if is.isEmpty then refuse c Status.streamUnbound s
      else
        let s := is.foldl (fun s i => closeManifest i true [c.cid] s) s
        settleManifests { s with tal.closing := s.tal.closing ++ [(c.cid, s.tal.nextMan - 1)] }) s

/-! ### STREAM_BIND (R291, R292) -/

/-- A stream is bound: its open manifest closes and a new one opens; a hold ends (R318, R439). -/
def bindStream (i : Fin 16) (t : Template) (font : Option Font) (pool : Nat) (s : State) : State :=
  let s := closeManifest i false [] s
  let m : Manifest := { stream := i.val, pool := pool, openAt := devSec s, moment := s.now, planVer := ((planNow s).map (·.ver)).getD 0 }
  settleManifests (modStream i (fun _ => { template := some t, font := font, pool := pool, man := some m }) s)

/-- The template and its font are decoded and judged (R292, R439, R575). -/
def bindChecked (c : Slot) (i : Fin 16) (bs : List Byte) (s : State) : State :=
  let pool := parN c 2
  match readStream (parN c 1) 65536 bs s with
  | (none, s) => refuse c Status.badTemplate s
  | (some out, s) =>
    match parseTemplate out with
    | none => refuse c Status.badTemplate s
    | some t =>
      let (font, s) := if t.symbology = 0 then readFont t.aux s else (none, s)
      let sz := overlaySize t font
      if (t.symbology = 0 ∧ font.isNone) ∨ 65535 < sz.1 ∨ 65535 < sz.2 ∨ !checksOk [] t.elements then refuse c Status.badTemplate s
      else if !t.elements.all (sourceOk s i.val pool) then refuse c Status.badTemplate s
      else if 64 < fontCount s i font then refuse c Status.fontLimit s
      else if !glyphsOk (planNow s) t font then refuse c Status.missingGlyph s
      else if !calendarOk (planNow s) t then refuse c Status.calendarField s
      else if 131072 < overlayBytes sz then refuse c Status.overlaySize s
      else done c (bindStream i t font pool s)

/-- STREAM_BIND (R291, R292). -/
def execStreamBind (t cid : Nat) (s : State) : Host.Outcome State Fault Refusal :=
  onStart Op.streamBind t cid (fun c s =>
    if h : parN c 0 < 16 then
      if streamBusy s (parN c 0) then refuse c Status.streamBusy s
      else if parN c 2 ≠ 0 ∧ (poolOf s (parN c 2)).isNone then refuse c Status.badParameter s
      else withObject c (parN c 1) (streamSpan s 65537 (parN c 1)) (bindChecked c ⟨parN c 0, h⟩) s
    else refuse c Status.badParameter s) s

/-! ### Grants (R298 to R301) -/

/-- ceil(log2 x). -/
def ceilLog2 (x : Nat) : Nat := if x ≤ 1 then 0 else Nat.log2 (x - 1) + 1

/-- The cycle walk of R300. -/
def cycleWalk (f : Nat → Nat) (count : Nat) : Nat → Nat → Nat
  | 0, y => y
  | fuel + 1, y => if count ≤ y then cycleWalk f count fuel (f y) else y

/-- x(k) of a grant (R300). -/
def permuted (key : List Byte) (g : Grant) (k : Nat) : Nat :=
  let n := max 20 (ceilLog2 g.count)
  let f (x : Nat) : Nat := Config.ff1 key g.tweak n x % 2 ^ n
  cycleWalk f g.count (2 ^ n) (f k)

/-- The serial of an index (R300). -/
def serialOf (s : State) (g : Grant) (k : Nat) : Nat := g.base + permuted ((keyOf s g.ff1Key 2).getD []) g k

/-- The end of a sub-block (R300). -/
def subEnd (g : Grant) (m : Nat) : Nat := min ((m + 1) * 2 ^ g.subLog2) g.count

/-- The lowest sub-block from m on that this unit may claim (R301). -/
def ownSub (s : State) (m : Nat) : Nat := if s.twn.bound && m % 2 != s.twn.unit then m + 1 else m

/-- The next index of a grant, with the sub-block it claims for it; none where nothing is left for this unit (R301). -/
def nextIndex (s : State) (g : Grant) : Option (Nat × Option Nat) :=
  let fresh := ownSub s g.nextSub
  let new := if fresh * 2 ^ g.subLog2 < g.count then some (fresh * 2 ^ g.subLog2, some fresh) else none
  match g.claim with
  | some m => if g.nextK < subEnd g m then some (g.nextK, none) else new
  | none => new

/-- The grant in use: the first with indices left for this unit, with its next index (R301). -/
def grantInUse (s : State) (p : Pool) : Option (Grant × Nat × Option Nat) :=
  p.grants.findSome? fun g => (nextIndex s g).map fun x => (g, x.1, x.2)

/-- A grant after one index is drawn. -/
def drawn (g : Grant) (k : Nat) (claim : Option Nat) : Grant :=
  match claim with
  | some m => { g with claim := some m, nextSub := m + 1, nextK := k + 1, used := g.used + 1 }
  | none => { g with nextK := k + 1, used := g.used + 1 }

/-- A grant of a pool in place of itself; used up, it is removed (R299). -/
def putGrant (pool : Nat) (g : Grant) (s : State) : State :=
  modPool pool (fun p => { p with
    grants := (mapWhere (fun x => x.no == g.no) (fun _ => g) p.grants).filter fun x => decide (x.used < x.count) }) s

/-- The indices neither issued nor abandoned over a pool's grants. -/
def poolLeft (p : Pool) : Nat := (p.grants.map fun g => g.count - g.used).sum

/-- POOL_LOW once below 10,000 indices (R301). -/
def judgePool (pool : Nat) (s : State) : State :=
  match poolOf s pool with
  | none => s
  | some p =>
    if poolLeft p < 10000 ∧ !p.lowSent then notify Notice.poolLow pool (modPool pool (fun p => { p with lowSent := true }) s)
    else if 10000 ≤ poolLeft p ∧ p.lowSent then modPool pool (fun p => { p with lowSent := false }) s
    else s

/-- The fields of a grant document (R298). -/
def parseGrant (ws : List W64) : Grant :=
  let w (i : Nat) : W64 := ws.getD i 0
  let count := if w 3 = 0 then 2 ^ 64 else (w 3).toNat
  { words := ws.take 11, no := fld (w 1) 63 32, base := (w 2).toNat, count := count, subLog2 := fld (w 4) 7 0, ff1Key := fld (w 4) 15 8,
    authKey := fld (w 4) 23 16, tweak := (w 5).toNat, unit0 := (w 6).toNat, unit1 := (w 7).toNat, notBefore := (w 8).toNat,
    notAfter := (w 9).toNat, lineId := fld (w 10) 31 0, ready := decide (524288 ≤ count) }

/-- Whether a grant's fields are in range (R298, R299). -/
def grantOk (s : State) (ws : List W64) : Bool :=
  let w (i : Nat) : W64 := ws.getD i 0
  let g := parseGrant ws
  fld (w 0) 31 0 == 0x47524E54 && fld (w 0) 39 32 == 1 && fld (w 0) 63 40 == 0 && fld (w 1) 31 0 != 0 && g.no != 0
    && decide (g.base + g.count ≤ 2 ^ 64) && decide (8 ≤ g.subLog2) && decide (g.subLog2 ≤ 20) && fld (w 4) 63 24 == 0
    && fld (w 10) 63 32 == 0 && (keyOf s g.ff1Key 2).isSome && (keyOf s g.authKey 3).isSome

/-- Whether a grant names this device, and in a pair its unit 0 (R299, R384). -/
def grantHere (s : State) (g : Grant) : Bool :=
  let own := Config.serial.toNat
  (g.unit0 == own || g.unit1 == own) && (!s.twn.bound || g.unit0 == if s.twn.unit = 0 then own else s.twn.peerSerial)

/-- Whether every bound serial element of a pool has digits enough for one more grant (R294). -/
def digitsOk (s : State) (pool top : Nat) : Bool :=
  (List.finRange 16).all fun (i : Fin 16) =>
    match s.tal.streams[i].template with
    | none => true
    | some t => t.elements.all fun e => match e with
      | .serial hex d src => sourcePool s i.val s.tal.streams[i].pool src != pool || decide (top < (if hex then 16 else 10) ^ d)
      | _ => true

/-- A grant is accepted (R299, R300, R317). -/
def acceptGrant (pool : Nat) (g : Grant) (s : State) : State :=
  let s := { s with tal.ranges := s.tal.ranges ++ [(g.base, g.count)] }
  let s := match poolOf s pool with
    | some _ => modPool pool (fun p => { p with lastNo := g.no, grants := p.grants ++ [g] }) s
    | none => { s with tal.pools := s.tal.pools ++ [{ id := pool, lastNo := g.no, grants := [g] }] }
  judgePool pool (replicate (word 4 :: g.words) (exportEntry 7 g.words [] s))

/-- A grant document is judged (R299). -/
def grantChecked (c : Slot) (ecdsaOk mldsaOk : Bool) (bs : List Byte) (s : State) : State :=
  let ws := wordsOf (bs.take 88)
  let g := parseGrant ws
  let pool := fld (ws.getD 1 0) 31 0
  let held := (poolOf s pool).map (·.grants.length) |>.getD 0
  let last := (poolOf s pool).map (·.lastNo) |>.getD 0
  if bs.length ≠ 3493 then refuse c Status.badParameter s
  else if !ecdsaOk ∨ !mldsaOk then refuse c Status.grantSignature s
  else if !grantHere s g then refuse c Status.grantDevice s
  else if !grantOk s ws then refuse c Status.badParameter s
  else if g.no ≠ last + 1 then refuse c Status.grantSequence s
  else if s.tal.ranges.any fun r => overlaps r.1 (r.1 + r.2) g.base (g.base + g.count) then refuse c Status.grantOverlap s
  else if !digitsOk s pool (g.base + g.count - 1) then refuse c Status.grantFormat s
  else if 4 ≤ held ∨ (held = 0 ∧ 32 ≤ (s.tal.pools.filter fun p => !p.grants.isEmpty).length) then refuse c Status.grantLimit s
  else done c (acceptGrant pool g s)

/-- POOL_GRANT (R298, R299). The verdicts on the two signatures are the Krynto core's. -/
def execPoolGrant (t cid : Nat) (ecdsaOk mldsaOk : Bool) (s : State) : Host.Outcome State Fault Refusal :=
  onStart Op.poolGrant t cid (fun c s =>
    if notLead s then refuse c Status.notLead s
    else withObject c (parN c 0) (parN c 1) (grantChecked c ecdsaOk mldsaOk) s) s

/-- PERMUTATION_TABLE_DONE (R300): the table of a small grant is complete, and the grant may serve issue. -/
def execPermutationTableDone (t pool grant : Nat) (s : State) : Host.Outcome State Fault Refusal :=
  onEvent t (modPool pool (fun p => { p with
    grants := mapWhere (fun g => g.no == grant && !g.ready) (fun g => { g with ready := true, readyAt := max s.now t }) p.grants })) s

/-- Sixty-four draws ahead in the grants of a pool (R300). -/
def lookAhead (s : State) : Nat → Grant → List (Nat × Nat)
  | 0, _ => []
  | n + 1, g =>
    match nextIndex s g with
    | none => []
    | some (k, m) => (k, serialOf s g k) :: lookAhead s n (drawn g k m)

/-- SERIAL_LOOKAHEAD (R300): the next 64 serials of a stream are computed; none of them is issued by that. -/
def execSerialLookahead (t : Nat) (stream : Fin 16) (s : State) : Host.Outcome State Fault Refusal :=
  onEvent t (fun s =>
    let x := s.tal.streams[stream]
    match poolOf s x.pool with
    | none => s
    | some p =>
      match grantInUse s p with
      | some (g, _, _) => if g.ready then modStream stream (fun x => { x with ahead := lookAhead s 64 g }) s else s
      | none => s) s

/-! ### Abandonment (R302) -/

/-- The unissued rest of a grant's claimed sub-block is abandoned; it is exported (R302, R317) and counted in the open manifests of its pool. -/
def abandonGrant (pool : Nat) (g : Grant) (s : State) : State :=
  match g.claim with
  | none => s
  | some m =>
    let e := subEnd g m
    let n := e - g.nextK
    let s := putGrant pool { g with claim := none, used := g.used + n } s
    if n = 0 then s
    else
      let s := exportEntry 5 [word pool, word g.no, word g.nextK, word e] [] s
      { s with tal.streams := s.tal.streams.map fun x =>
          if x.pool = pool then { x with man := x.man.map fun m => { m with abandoned := m.abandoned + n } } else x }

/-- Every claim's rest is abandoned, and serials computed ahead are dropped (R302). -/
def abandonAll (s : State) : State :=
  let s := s.tal.pools.foldl (fun s p => judgePool p.id (p.grants.foldl (fun s g => abandonGrant p.id g s) s)) s
  { s with tal.streams := s.tal.streams.map fun x => { x with ahead := [] } }

/-- Whether a lease is held now: by a lead until its lease ends, by one that hands it over no longer (R396, R399). A unit without a peer needs none. -/
def leaseHeld (s : State) : Bool :=
  s.twn.role != .lead || (!s.twn.leaseOut && !s.twn.handing && decide (s.now < s.twn.leaseEnd))

/-- A lead hands the lease over (R399): its highest record number, its highest product number, its renewal number. -/
def sendHandover (s : State) : State :=
  if s.twn.handing then s
  else uraraSend s.twn.peer 0x50 [3, word (s.tal.nextRec - 1), word (s.mot.nextProd - 1), word s.twn.renewN] { s with twn.handing := true }

/-- A pool has indices left, but none that this unit's parity lets it draw (R301, R399). -/
def parityOut (s : State) (pool : Nat) : Bool :=
  s.twn.bound && match poolOf s pool with
    | some p => !p.grants.isEmpty && (grantInUse s p).isNone && p.grants.any fun g => decide (g.used < g.count)
    | none => false

/-! ### POOL_STATUS (R303) -/

/-- The four result words of POOL_STATUS. -/
def poolWords (s : State) (p : Pool) : List W64 :=
  let use := grantInUse s p
  let g := match use with | some x => x.1 | none => (p.grants.getLast?).getD {}
  let ones := word (2 ^ 64 - 1)
  let live := match g.claim with | some m => decide (g.nextK < subEnd g m) | none => false
  [ word (sat (2 ^ 64 - 1) (poolLeft p)),
    word (put (flag (ownsQueue s)) 41 + put (flag g.ready) 40 + put p.grants.length 32 + g.no),
    if live then word (g.claim.getD 0) else ones,
    match use with | some x => word x.2.1 | none => ones ]

/-- POOL_STATUS (R303). -/
def execPoolStatus (t cid : Nat) (s : State) : Host.Outcome State Fault Refusal :=
  onStart Op.poolStatus t cid (fun c s =>
    match poolOf s (parN c 0) with
    | none => refuse c Status.badParameter s
    | some p => if p.grants.isEmpty then refuse c Status.badParameter s else answer c (poolWords s p) s) s

/-! ### CALENDAR_LOAD (R304) -/

/-- A calendar string: its length, its characters, zeros. -/
def calString (bs : List Byte) (most : Nat) : Option (List Byte) :=
  let n := (bs.headD 0).toNat
  let text := (bs.drop 1).take n
  if most < n ∨ !text.all isPlain ∨ (bs.drop (1 + n)).any (fun b => b != 0) then none else some text

/-- One entry of a plan. -/
def calEntry (bs : List Byte) : Option CalEntry :=
  match calString ((bs.drop 16).take 16) 15, calString ((bs.drop 32).take 16) 15, calString ((bs.drop 48).take 8) 7, calString ((bs.drop 56).take 24) 20 with
  | some d, some e, some h, some b =>
    if leAt bs 8 8 ≤ leAt bs 0 8 ∨ leAt bs 80 16 ≠ 0 then none
    else some { start := leAt bs 0 8, stop := leAt bs 8 8, date := d, expiry := e, shift := h, batch := b }
  | _, _, _, _ => none

/-- n entries in order, none before the one preceding it ends. -/
def calEntries : Nat → Nat → List Byte → Option (List CalEntry)
  | 0, _, _ => some []
  | n + 1, from_, bs =>
    match calEntry (bs.take 96) with
    | none => none
    | some e =>
      if e.start < from_ then none
      else match calEntries n e.stop (bs.drop 96) with | some es => some (e :: es) | none => none

/-- A plan read from its bytes (R304). -/
def parsePlan (bs : List Byte) (current : Option Plan) : Option Plan :=
  let w (i : Nat) : W64 := word (leAt bs (8 * i) 8)
  let n := fld (w 1) 15 0
  let ver := fld (w 1) 63 32
  if bs.length < 32 ∨ fld (w 0) 31 0 ≠ 0x434C4E31 ∨ fld (w 0) 39 32 ≠ 1 ∨ fld (w 0) 63 40 ≠ 0 ∨ fld (w 1) 31 16 ≠ 0 ∨ w 2 ≠ 0 ∨ fld (w 3) 63 32 ≠ 0 then none
  else if n = 0 ∨ 4096 < n ∨ bs.length ≠ 32 + 96 * n ∨ fld (w 3) 31 0 ≠ crc32c (bs.drop 32) then none
  else if (match current with | some p => decide (ver ≤ p.ver) | none => false) then none
  else (calEntries n 0 (bs.drop 32)).map fun es => { ver := ver, crc := fld (w 3) 31 0, entries := es }

/-- A plan replaces the current one for stamps at or after a moment (R304, R317). -/
def acceptPlan (moment : Nat) (p : Plan) (raw : List Byte) (s : State) : State :=
  replicate (word 5 :: wordsOf raw)
    (exportEntry 8 [word p.ver, word p.entries.length, word p.crc, word (secAt s moment)] []
      { s with tal.plans := (moment, p) :: s.tal.plans })

/-- CALENDAR_LOAD (R304). -/
def execCalendarLoad (t cid : Nat) (s : State) : Host.Outcome State Fault Refusal :=
  onStart Op.calendarLoad t cid (fun c s =>
    if notLead s then refuse c Status.notLead s
    else withObject c (parN c 0) (parN c 1) (fun bs s =>
      match parsePlan bs (planNow s) with
      | none => refuse c Status.badCalendar s
      | some p =>
        let bound := (elems s.tal.streams).filterMap fun x => x.template.map fun t => (t, x.font)
        if !bound.all (fun x => glyphsOk (some p) x.1 x.2) then refuse c Status.missingGlyph s
        else if !bound.all (fun x => calendarOk (some p) x.1) then refuse c Status.calendarField s
        else done c (acceptPlan c.acceptAt p bs s)) s) s

/-! ### CODE_VOID (R310) -/

/-- The record that a CODE_VOID names. -/
def namedRec (s : State) (c : Slot) : Option Rec :=
  s.tal.journal.find? fun r => r.stream == parN c 0 &&
    if parN c 1 = 0 then r.num == parN c 2 && r.pool == 0 else r.pool == parN c 1 && r.serial == parN c 2

/-- CODE_VOID (R309, R310, R320). -/
def execCodeVoid (t cid : Nat) (s : State) : Host.Outcome State Fault Refusal :=
  onStart Op.codeVoid t cid (fun c s =>
    let reason := parF c 3 7 0
    if 16 ≤ parN c 0 ∨ 2 ^ 32 ≤ parN c 1 ∨ (reason ≠ 1 ∧ reason < 0x80) then refuse c Status.badParameter s
    else if notLead s then refuse c Status.notLead s
    else match namedRec s c with
      | none => refuse c Status.noSuchCode s
      | some r =>
        if r.final.isSome then refuse c Status.codeFinal s
        else
          let s := voidRec reason 0 r.num s
          done c (settleProduct r.product (voidProduct r.product 2 0 s))) s

end Sys2Proof.Machine
end

