-- ==== Sys2Proof/Machine/Issue.lean ====
section
/-!
DEFINITION. Issue (R305 to R307): TALLY_ISSUE_GROUP, the gate of durability (R14), OVERLAY_RENDER (R311).
-/
namespace Sys2Proof.Machine

/-! ### A product's calendar entry (R304, R305) -/

/-- The plan that rules a product: the newest accepted at or before its stamp (R304, R320). -/
def planFor (s : State) (p : Product) : Option Plan := (s.tal.plans.find? fun x => decide (x.1 ≤ p.moment)).map (·.2)

/-- The UTC seconds of a product's detect stamp (R305, R351). -/
def stampUtc (s : State) (p : Product) : Int := utcAt s (stampSec p.detect)

/-- The entry whose interval holds the stamp, with its index (R305, R320). -/
def entryFor (s : State) (p : Product) : Option (Nat × CalEntry) :=
  match planFor s p with
  | none => none
  | some plan =>
    let u := stampUtc s p
    (plan.entries.zipIdx.find? fun e => decide ((e.1.start : Int) ≤ u) && decide (u < e.1.stop)).map fun e => (e.2, e.1)

/-! ### The group (R306) -/

/-- A group while it is formed: the state with the indices drawn, its records, serials and authenticators of its streams so far, the sub-blocks claimed
(pool, grant, sub-block). -/
structure Draft where
  state  : State
  recs   : List Rec := []
  lower  : List (Nat × Nat × Nat) := []
  claims : List (Nat × Nat × Nat) := []

/-- Whether a template has a calendar element. -/
def usesCalendar (t : Template) : Bool := t.elements.any fun e => match e with | .calendar _ _ => true | _ => false

/-- The track of a queued product. -/
def trackOf (s : State) (p : Product) : Option Track :=
  match jobOf s p.job with | some j => j.desc.tracks[p.track]? | none => none

/-- The streams of a product in rising number (R93, R306). -/
def productStreams (s : State) (p : Product) : List (Fin 16) :=
  match trackOf s p with
  | some t => (List.finRange 16).filter fun i => bit t.templates i.val
  | none => []

/-- The draw of a stream: the grant, its index and the claim; a fault where there is none, or the stamp lies outside the grant's window (R301, R305). -/
def drawFor (s : State) (p : Product) (pool : Nat) : Except Nat (Option (Grant × Nat × Option Nat)) :=
  if pool = 0 then .ok none
  else match poolOf s pool with
    | none => .error FaultCode.poolEmpty
    | some x =>
      match grantInUse s x with
      | none => .error FaultCode.poolEmpty
      | some (g, k, m) =>
        let u := stampUtc s p
        if !g.ready then .error FaultCode.poolEmpty
        else if (g.notBefore ≠ 0 ∨ g.notAfter ≠ 0) ∧ s.time.clk.state = .free then .error FaultCode.timeInvalid
        else if u < g.notBefore ∨ (g.notAfter ≠ 0 ∧ (g.notAfter : Int) ≤ u) then .error FaultCode.grantWindow
        else .ok (some (g, k, m))

/-- The code of one stream joins a group (R306 step 2, R297, R307). -/
def issueStream (p : Product) (d : Draft) (i : Fin 16) : Except Nat Draft :=
  let s := d.state
  let x := s.tal.streams[i]
  match x.template with
  | none => .error FaultCode.codeCapacity
  | some t =>
    match drawFor s p x.pool with
    | .error e => .error e
    | .ok g =>
      let serial := match g with | some (g, k, _) => serialOf s g k | none => 0
      let key := match g with | some (g, _, _) => (if s.kry.approved then none else some ((keyOf s g.authKey 3).getD [])) | none => none
      let line := match g with | some (g, _, _) => g.lineId | none => 0
      let entry := entryFor s p
      let feed : Feed := { serial := serial, own := 0, lower := d.lower, entry := (entry.map (·.2)).getD {} }
      match codeData t feed key line x.pool with
      | none => .error FaultCode.codeCapacity
      | some (data, auth) =>
        if !codeFits t x.font data then .error FaultCode.codeCapacity
        else
          let h := (overlaySize t x.font).2
          let r : Rec := {
            product := p.num, pool := x.pool, stream := i.val, unit := s.twn.unit, bothLead := s.twn.bothLead, symbology := t.symbology,
            serial := serial, index := (g.map fun y => y.2.1).getD 0, issueAt := devNs s, calEntry := (entry.map (·.1)).getD 0, job := p.job,
            planVer := ((planFor s p).map (·.ver)).getD 0, auth := auth, content := crc64 data, data := data,
            firstLine := p.first + t.oy, lastLine := p.first + t.oy + h - 1 }
          let d := { d with recs := d.recs ++ [r], lower := d.lower ++ [(i.val, serial, auth)] }
          match g with
          | none => .ok d
          | some (g, k, m) =>
            .ok { d with
              state := putGrant x.pool (drawn g k m) s,
              claims := d.claims ++ (match m with | some m => [(x.pool, g.no, m)] | none => []) }

/-- All streams of a group in order; the first failure is the group's. -/
def issueStreams (p : Product) : List (Fin 16) → Draft → Except Nat Draft
  | [], d => .ok d
  | i :: is, d => match issueStream p d i with | .ok d => issueStreams p is d | .error e => .error e

/-- Step 1 of R306 (R305). -/
def calendarFailure (s : State) (p : Product) (is : List (Fin 16)) : Option Nat :=
  if !is.any (fun i => match s.tal.streams[i].template with | some t => usesCalendar t | none => false) then none
  else if s.time.clk.state = .free then some FaultCode.timeInvalid
  else if (entryFor s p).isNone then some FaultCode.calendarGap
  else none

/-- A product is issued on a stream: its record joins the open manifest, which closes first where the shift string has changed (R318, R320). -/
def intoManifest (shift : List Byte) (r : Rec) (s : State) : State :=
  if h : r.stream < 16 then
    let i : Fin 16 := ⟨r.stream, h⟩
    let x := s.tal.streams[i]
    let changed := x.issued && x.shift != shift && !(match x.man with | some m => m.moment == s.now && m.records.isEmpty | none => true)
    let s := if changed then closeManifest i false [] s else s
    modStream i (fun x => { x with
      shift := shift, issued := true, ahead := x.ahead.filter fun a => a.1 != r.index,
      man := x.man.map fun m => { m with records := m.records ++ [r.num], issues := m.issues ++ wordsBytes (issueWords r), planVer := r.planVer } }) s
  else s

/-- One issue record is written (R306 step 4, R308, R313). -/
def writeIssue (shift : List Byte) (r : Rec) (s : State) : State :=
  let s := { s with
    tal.journal := s.tal.journal.filter (fun x => x.num % 98304 != r.num % 98304) ++ [r], tal.nextRec := r.num + 1 }
  intoManifest shift r (exportPart r.num 0 (writePart r.num 0 s))

/-- A sub-block is claimed (R301, R317, R400). -/
def writeClaim (c : Nat × Nat × Nat) (s : State) : State :=
  replicate [3, word c.1, word c.2.1, word c.2.2] (exportEntry 4 [word c.1, word c.2.1, word c.2.2, word s.twn.unit] [] s)

/-- A group is committed: claims, then records with consecutive numbers in stream order (R306 step 4). -/
def commitGroup (p : Product) (d : Draft) (nums : List Nat) : State :=
  let shift := ((entryFor d.state p).map (·.2.shift)).getD []
  let recs := (d.recs.zip nums).map fun x => { x.1 with num := x.2 }
  let s := d.claims.foldl (fun s c => writeClaim c s) d.state
  let s := recs.foldl (fun s r => writeIssue shift r s) s
  let s := (recs.map (·.pool)).eraseDups.foldl (fun s q => judgePool q s) s
  let s := modProduct p.num (fun p => { p with issued := true, records := nums, firstRec := nums.head? }) s
  judgeHigh (settleManifests s)

/-- The issue of a queued product (R306). -/
def issueGroup (p : Product) (s : State) : State :=
  let is := productStreams s p
  if is.isEmpty then modProduct p.num (fun p => { p with issued := true }) s
  else match calendarFailure s p is with
    | some e => voidFault p.num e s
    | none =>
      match issueStreams p is { state := s } with
      | .error e => voidFault p.num e s
      | .ok d =>
        let nums := nextRecords s (98304 + d.recs.length) d.recs.length s.tal.nextRec
        if nums.length = d.recs.length ∧ nums.all (fun n => journalFree s (n % 98304)) then commitGroup p d nums
        else voidFault p.num FaultCode.journalFull s

/-- Whether a queued product still waits for its codes: not issued, not void, no target (R189, R306). -/
def unissued (p : Product) : Bool := !p.issued && !bit p.flags 0 && p.target == 0

/-- TALLY_ISSUE_GROUP (R306): by the lead, in queue order, under its lease (R396); a lead whose parity is used up hands over to a SYNCED peer instead (R399). Not during a device-class fault or before the replay that follows it (R312, R547). A product
that was detected during the fault is late where its first line lies nearer than its job's minimum lead (R548). -/
def execTallyIssueGroup (t product : Nat) (s : State) : Host.Outcome State Fault Refusal :=
  onEvent t (fun s =>
    match s.prod.queue.find? unissued with
    | none => s
    | some p =>
      if p.num ≠ product ∨ faulted s ∨ s.flt.replayDue ∨ notLead s ∨ !domOn s 2 ∨ !leaseHeld s then s
      else if s.twn.role == .lead && s.twn.peerSynced && (productStreams s p).any (fun i => parityOut s s.tal.streams[i].pool) then sendHandover s
      else
        let waited := s.flt.replaying.contains p.num
        let s := { s with flt.replaying := s.flt.replaying.erase p.num }
        let lead := match jobOf s p.job with | some j => minLead s j (pdCfgs s) | none => 0
        if waited && decide (p.first < s.mot.line + lead) then voidFault p.num FaultCode.productLate s else issueGroup p s) s

/-! ### Durability and rendering (R14, R311) -/

/-- Whether the issue part of a record is durable: here, and at the peer of a lead with a standby (R14, R308, R386). -/
def issueDurable (s : State) (r : Rec) : Bool := bit r.local_ 0 && (bit r.peer 0 || !replicates s)

/-- ISSUE_DURABLE (R14): every issue record of a product is durable, and what depends on its codes may be computed. -/
def execIssueDurable (t product : Nat) (s : State) : Host.Outcome State Fault Refusal :=
  onEvent t (fun s =>
    let rs := recsOf s product
    if rs.isEmpty || !rs.all (issueDurable s) then s
    else rs.foldl (fun s r => modRec r.num (fun r => { r with durable := true }) s) s) s

/-- The lowest overlay slot that holds nothing (R311). -/
def freeSlot (s : State) : Option Nat := (List.range 2048).find? fun k => !s.tal.slots.any fun x => x.1 == k

/-- OVERLAY_RENDER (R311, R14): the overlay of a durable record takes a free slot; rendering waits while there is none. -/
def execOverlayRender (t record : Nat) (s : State) : Host.Outcome State Fault Refusal :=
  onEvent t (fun s =>
    match recOf s record, freeSlot s with
    | some r, some k =>
      if !r.durable || r.slot.isSome || r.final.isSome || (productOf s r.product).isNone then s
      else { modRec record (fun r => { r with slot := some k }) s with tal.slots := s.tal.slots ++ [(k, record)] }
    | _, _ => s) s

end Sys2Proof.Machine
end

