-- ==== Sys2Proof/Machine/Lanes.lean ====
section
/-!
DEFINITION. Operations on the serial lanes: what a lane serves and whether it has power (R266, R273), the lane that a Stall uses (R286), failing lanes and
ready spares (R284, R285).
-/
namespace Sys2Proof.Machine

/-! ### Functions and power (R266, R273) -/

/-- Whether a lane has a function that is enabled (R273). -/
def laneWanted (s : State) (n : Nat) : Bool :=
  if h : n < 24 then (s.stl[n]'h).enable
  else if n < 32 then bit s.ura.ports ((n - 24) / 2)
  else if h : n - 32 < 2 then (s.net[n - 32]'h).cfg.enable
  else true

/-- Whether the reference of a lane is good (R268). -/
def laneRefGood (s : State) (n : Nat) : Bool := if (laneOf s n).ser1 then !s.lan.failed[1] else !s.lan.failed[0]

/-- A lane goes to HUNT; what it learned of its far end by probes is asked again (R273, R276). -/
def huntLane (n : Nat) (s : State) : State :=
  modLane n (fun l => { l with state := .hunt, asked := [], answers := [], sent := 0, nextLam := none, huntAt := s.now, lowFrom := none, margFrom := none }) s

/-! ### The lane that serves a Stall or a Urara lane (R286, R287) -/

/-- Whether a spare is ready for a lane: UP, not in use, with the lane's far end, and at the lane's rate (R285). -/
def spareReady (s : State) (n k : Nat) : Bool :=
  let l := laneOf s n
  let p := laneOf s k
  laneUp s k && p.covers.isNone && !p.out && p.loopCid == 0
    && (if h : n < 24 then p.fast == (s.stl[n]'h).cfg.fast && p.farHead.isSome && p.farHead == (s.stl[n]'h).headId
        else p.fast && p.farNode.isSome && p.farNode.map (fun f => (f.1, f.2.1)) == l.farNode.map (fun f => (f.1, f.2.1)))

/-- The lower-numbered ready spare of a lane. -/
def readySpare (s : State) (n : Nat) : Option Nat := [34, 35].find? (spareReady s n)

/-- Whether a Stall's lane counts as locked for R261: its lane in use is UP, or a spare is ready for it (R286). -/
def stallLocked (s : State) (n : Nat) : Bool := laneUp s (usedLane s n) || (readySpare s n).isSome

/-- A calibration run holds a lane: its function waits until the run ends (R496). -/
def laneRun (s : State) (n : Nat) : Bool := s.led.runs.any fun r => r.item == 0x180 && r.inst % 64 == n

/-- The one-way latency of the lane a Stall uses, in units of 0.1 ns. -/
def stallLambda (s : State) (n : Nat) : Nat := (laneOf s (usedLane s n)).lambda

/-- A spare lane is used up, for a function or for good (R511, R512). -/
def useSpareLane (k : Nat) (s : State) : State :=
  if (laneOf s k).covers.isSome || (laneOf s k).out then s else granaryUse 4 (k - 34) 0 0 s

/-- A lane is failing (R284); a spare that fails is retired, and reported once (R285). -/
def failLane (n : Nat) (s : State) : State :=
  if n < 34 then modLane n (fun l => { l with failing := true }) s
  else if (laneOf s n).out then s
  else notify Notice.spareLaneOut n (modLane n (fun l => { l with failing := true, out := true }) (useSpareLane n s))

/-- The moments of a list that lie within the last `span` nanoseconds. -/
def recent (s : State) (span : Nat) (l : List Nat) : List Nat := l.filter fun m => decide (s.now < m + span)

end Sys2Proof.Machine
end

