-- ==== Sys2Proof/Machine/Weighbridge.lean ====
section
/-!
DEFINITION. The Weighbridge: results and their checks (R202), thinned lines (R218, R219), the decision of a line with its votes (R206, R207), losses and
retirement (R208, R210, R211), the log (R209), the digests of a pair of units (R392), and the rows that bring results in.
-/
namespace Sys2Proof.Machine

/-! ### Line slots -/

/-- The slot of a line. -/
def lineSlot (s : State) (line : Nat) : Option LineSlot := s.mil.lines.find? (fun l => l.line == line)

/-- A slot changed. -/
def modLine (line : Nat) (f : LineSlot → LineSlot) (s : State) : State :=
  { s with mil.lines := mapWhere (fun l => l.line == line) f s.mil.lines }

/-- Whether a slice computes a line in full: always, but for the stripe slice of a thinned line (R218). -/
def isFull (thin : Bool) (line slice : Nat) : Bool :=
  !thin || (if line % 2 = 1 then decide (slice < 16) else decide (16 ≤ slice))

/-- Whether a word of a line lies in its stripe (R218). -/
def inStripe (line g : Nat) : Bool := g % 8 == line % 8

/-- The words that a result carries: all of them, or those of the stripe. -/
def carried (line : Nat) (full : Bool) (ws : List (BitVec 72)) : List (BitVec 72) :=
  if full then ws else (ws.zipIdx.filter fun p => inStripe line p.2).map (·.1)

/-- Whether two results agree on every word that both carry. -/
def agree (line : Nat) (a b : LineResult) : Bool :=
  match a.words, b.words with
  | some x, some y =>
    if a.full == b.full then x == y
    else if a.full then carried line false x == y else x == carried line false y
  | _, _ => false

/-- The words of a line, Stall after Stall, in emission order. -/
def flatWords (ws : List (Nat × List (BitVec 72))) : List (BitVec 72) := ws.flatMap (·.2)

/-- Words in emission order given back to the Stalls of a layout. -/
def layWords : List (Nat × List (BitVec 72)) → List (BitVec 72) → List (Nat × List (BitVec 72))
  | [], _ => []
  | (k, ws) :: rest, l => (k, l.take ws.length) :: layWords rest (l.drop ws.length)

/-- What was received from a slice, checked as R202 states: causes 1 parity, 2 digest, 3 word count. -/
def checkResult (s : State) (r : Recipe) (slice : Nat) (full : Bool) (x : SliceRecv) : LineResult :=
  let layout := computeLine s r
  match x with
  | .clean => { slice := slice, full := full, words := some (carried r.line full (flatWords layout)) }
  | .absent c => { slice := slice, full := full, cause := c }
  | .raw ws a _ parity =>
    let want := (carried r.line full (flatWords layout)).length
    if !parity then { slice := slice, full := full, cause := 1 }
    else if ws.length ≠ want then { slice := slice, full := full, cause := 3 }
    else if full && a.toNat != lineDigest (lineDigests r.line (layWords layout ws)) then { slice := slice, full := full, cause := 2 }
    else { slice := slice, full := full, words := some ws }

/-- Whether the two comparators disagree on what came from a slice (R205). -/
def comparatorsDiffer : SliceRecv → Bool
  | .raw _ a b _ => a != b
  | _ => false

/-! ### Losses and retirement (R208, R210, R211) -/

/-- A slice replaced in its pair by the lowest idle working slice of its domain, or its pair taken out of service (R197, R211). -/
def replaceSlice (k : Nat) (s : State) : State :=
  match (List.finRange 16).find? fun i => s.mil.pairs[i].service && (s.mil.pairs[i].a == k || s.mil.pairs[i].b == k) with
  | none => s
  | some i =>
    match (idleSlices s (sliceDom k)).head? with
    | some n =>
      let s := { s with mil.pairs := upd s.mil.pairs i fun p => if k < 16 then { p with a := n.val } else { p with b := n.val } }
      let d : Fin 2 := if k < 16 then 0 else 1
      if (idleSlices s d.val).isEmpty && !s.mil.sparesOut[d] then
        notify Notice.millSparesOut d.val { s with mil.sparesOut := s.mil.sparesOut.set d true }
      else s
    | none => raise FaultCode.millShort 0 { s with mil.pairs := upd s.mil.pairs i fun p => { p with service := false } }

/-- The spare that takes the place of a slice in its pair: the lowest idle working slice of its domain (R23, R197). -/
def spareFor (k : Nat) (s : State) : Option Nat := if inPair s k then (idleSlices s (sliceDom k)).head?.map (·.val) else none

/-- What the retirement of a slice does to a line not yet decided (R24, R211, R221): a result in flight is recomputed on the spare, or is absent where there is none; a result
that takes part in a vote counts as absent; a vote that the slice itself computes goes on. -/
def leaveLine (k : Nat) (spare : Option Nat) (l : LineSlot) : LineSlot :=
  if l.sealed || l.unresolved then l
  else if k ∈ l.awaiting then
    match spare with
    | some n => { l with awaiting := n :: l.awaiting.erase k }
    | none => { l with awaiting := l.awaiting.erase k, results := l.results ++ [{ slice := k, full := isFull l.thin l.line k, cause := 7 }] }
  else if l.awaiting.isEmpty && decide (2 ≤ l.results.length) then
    { l with results := mapWhere (fun r => r.slice == k) (fun r => { r with words := none }) l.results }
  else l

/-- A slice is retired for good: reported and replaced; its lines in flight go to the spare, whose time counts from now (R24, R210, R211, R221). -/
def retireSlice (k : Fin 32) (s : State) : State :=
  if s.mil.slices[k].retired then s else
  let s := { s with mil.slices := upd s.mil.slices k fun x => { x with retired := true } }
  let spare := spareFor k.val s
  let moved := (s.mil.lines.filter fun l => !l.sealed && !l.unresolved && l.awaiting.contains k.val && spare.isSome).map (·.line)
  let s := replaceSlice k.val (notify Notice.sliceRetired k.val s)
  let s := granaryUse 1 (sliceDom k.val) 1 (idleSlices s (sliceDom k.val)).length s
  { s with
    mil.band := s.mil.band.map fun bs => bs.filter fun b => b.full || b.decoder != k.val,
    mil.recipes := mapWhere (fun r => moved.contains r.line) (fun r => { r with moment := s.now }) s.mil.recipes,
    mil.lines := s.mil.lines.map (leaveLine k.val spare) }

/-- A loss is charged to a slice at a moment; the Granary counts it (R208, R511). -/
def chargeNoted (k : Nat) (s : State) : State := { s with bgd.charges := (sliceDom k, devSec s) :: s.bgd.charges }

/-- A slice is charged with a loss at a line; three within 1,000,000,000 lines retire it (R208, R210). A retired slice is charged no more (R221). -/
def charge (line k : Nat) (s : State) : State :=
  if h : k < 32 then
    let ls := s.mil.slices[k].losses
    if s.mil.slices[k].retired then s else
    let s := chargeNoted k { s with mil.slices := upd s.mil.slices ⟨k, h⟩ fun x => { x with losses := (line :: x.losses).take 2 } }
    match ls with
    | _ :: l1 :: _ => if line < l1 + 1000000000 then retireSlice ⟨k, h⟩ s else s
    | _ => s
  else s

/-! ### Decisions (R203, R206, R209) -/

/-- The first two results from different slices that agree, at least one of them full. -/
def agreeing (line : Nat) : List LineResult → Option (LineResult × LineResult)
  | [] => none
  | a :: rest =>
    match rest.find? (fun b => a.slice != b.slice && (a.full || b.full) && agree line a b) with
    | some b => some (a, b)
    | none => agreeing line rest

/-- The index of the first unequal word of two lists. -/
def firstUnequal : Nat → List (BitVec 72) → List (BitVec 72) → Nat
  | n, a :: as, b :: bs => if a = b then firstUnequal (n + 1) as bs else n
  | n, _, _ => n

/-- The log entry of a line (R209). -/
def logEntry (s : State) (l : LineSlot) (outcome losers : Nat) : WbEntry :=
  let absents := maskOf (l.results.map fun r => r.words.isNone)
  let first := match l.results with
    | a :: b :: _ => (match a.words, b.words with | some x, some y => firstUnequal 0 x y | _, _ => 0)
    | _ => 0
  let cause := ((l.results.find? fun r => r.words.isNone).map (·.cause)).getD 0
  { line := l.line, slices := l.results.map (·.slice), outcome := outcome, losers := losers, absent := absents, cause := cause,
    first := first, sealAt := devTime s }

/-- A line that did not match at once gets a log entry and TWIN_MISMATCH (R209). -/
def logLine (e : WbEntry) (s : State) : State :=
  raise FaultCode.twinMismatch e.line { s with mil.log := (s.mil.log ++ [e]).drop ((s.mil.log.length + 1) - 4096) }

/-- A line's digest entry changed, or begun. -/
def modDigest (line : Nat) (f : LineDigest → LineDigest) (s : State) : State :=
  { s with twn.digests :=
      if s.twn.digests.any (fun x => x.line == line) then mapWhere (fun x => x.line == line) f s.twn.digests
      else (s.twn.digests ++ [f { line := line }]).drop ((s.twn.digests.length + 1) - 8192) }

/-- A line's digest entry is no longer needed. -/
def dropDigest (line : Nat) (s : State) : State := { s with twn.digests := s.twn.digests.filter fun x => x.line != line }

/-- A line whose digests differ while no unit or both saw a fault is suspect, with every product whose window holds it (R393). -/
def suspectLine (line : Nat) (s : State) : State :=
  (openAt s line).foldl (fun s p => setFlag p.num 4 s)
    { s with twn.suspects := s.twn.suspects ++ [line], twn.suspectN := sat 0xFFFFFFFF (s.twn.suspectN + 1) }

/-- The table of R393, once both digests and both CHECKs of a line are here. -/
def resolveMismatch (line : Nat) (s : State) : State :=
  match s.twn.digests.find? (fun x => x.line == line) with
  | none => s
  | some x =>
    match x.own, x.peer, x.check with
    | some a, some b, some theirs =>
      if !x.mism then s else
      let s := dropDigest line s
      let leads := s.twn.role == .lead
      if a.2 != b.2 then (if leads then s else dueYield FaultCode.twinDiverged (raise FaultCode.twinDiverged line s))
      else if x.fault == theirs then suspectLine line s
      else if x.fault then dueYield FaultCode.twinMismatch s
      else s
    | _, _, _ => s

/-- A line's two digests are compared once both are here; a mismatch sends CHECK (R392, R393). A unit that no longer sends takes no part (R405). -/
def compareDigests (line : Nat) (s : State) : State :=
  match s.twn.digests.find? (fun x => x.line == line) with
  | none => s
  | some x =>
    match x.own, x.peer with
    | some a, some b =>
      if x.mism || !(s.twn.role == .lead || s.twn.role == .synced) then s
      else if a == b then dropDigest line s
      else
        let s := modDigest line (fun x => { x with mism := true }) { s with twn.digestMis := sat 0xFFFFFFFF (s.twn.digestMis + 1) }
        resolveMismatch line (uraraSend s.twn.peer 0x56 [word line, word (flag x.fault)] s)
    | _, _ => s

/-- This unit's digest of a sealed line goes to the peer, and is kept for the comparison (R392). -/
def sendDigest (line d : Nat) (logged : Bool) (s : State) : State :=
  if !s.twn.bound || s.twn.role == .solo then s else
  let rd := match recipeOf s line with | some r => recipeDigest r | none => 0
  let s := uraraSend s.twn.peer 0x51 [word line, word d, word rd] s
  compareDigests line (modDigest line (fun x => { x with own := some (d, rd), ownAt := s.now, fault := logged }) s)

/-- A line is sealed with released words (R203, R206). -/
def sealLine (l : LineSlot) (ws : List (BitVec 72)) (logged : Bool) (s : State) : State :=
  match recipeOf s l.line with
  | none => s
  | some r =>
    let laid := layWords (computeLine s r) ws
    let ds := lineDigests l.line laid
    let s := modLine l.line (fun x => { x with sealed := true, words := laid, digests := ds, logged := logged, voting := none }) s
    let s := modRecipe l.line (fun r => { r with digest := lineDigest ds }) s
    sendDigest l.line (lineDigest ds) logged s

/-- A line that no two results decide: its products are voided and rejected (R206). -/
def unresolve (l : LineSlot) (s : State) : State :=
  let s := modLine l.line (fun x => { x with unresolved := true, voting := none, logged := true }) s
  let s := logLine (logEntry s l 4 0) s
  let ps := (openAt s l.line).filter fun p => !bit p.flags 0
  let s := raise FaultCode.lineUnresolved ((ps.head?.map (·.num)).getD 0) s
  ps.foldl (fun s p => voidProduct p.num 3 FaultCode.lineUnresolved s) s

/-- One line is decided, when all its results are in (R206). A slice is charged for a valid result that differs and for one that failed a
check of R202 (R208). -/
def decideLine (l : LineSlot) (s : State) : State :=
  if l.sealed || l.unresolved || !l.awaiting.isEmpty || l.voting.isSome || s.mil.halted then s else
  match agreeing l.line l.results with
  | some (a, b) =>
    let win := if a.full then a else b
    let clean := decide (l.results.length = 2)
    let lose := fun (r : LineResult) => r.words.isSome && !agree l.line r win
    let bad := l.results.filter fun r => lose r || (r.words.isNone && decide (1 ≤ r.cause) && decide (r.cause ≤ 3))
    let idx := (l.results.findIdx? (fun r => r.slice == win.slice)).getD 0
    let s := if clean then s else logLine (logEntry s l idx (maskOf (l.results.map lose))) s
    let s := sealLine l (win.words.getD []) (!clean) s
    bad.foldl (fun s r => charge l.line r.slice s) s
  | none => if 4 ≤ l.computed ∧ 4 ≤ l.results.length then unresolve l s else s

/-- Every slot that can be decided is decided; a retirement among them may make further ones decidable. -/
def decideLines : Nat → State → State
  | 0, s => s
  | n + 1, s => decideLines n (s.mil.lines.foldl (fun s l => match lineSlot s l.line with | some x => decideLine x s | none => s) s)

/-- The comparators' disagreement stops every seal (R205). -/
def weighbridgeFault (s : State) : State :=
  if s.mil.halted then s else raise FaultCode.weighbridgeFault 0 { s with mil.halted := true }

/-- One result is in. -/
def takeResult (line slice : Nat) (x : SliceRecv) (s : State) : State :=
  match lineSlot s line, recipeOf s line with
  | some l, some r =>
    if slice ∉ l.awaiting then s else
    let s := if comparatorsDiffer x then weighbridgeFault s else s
    let d : Fin 2 := if slice < 16 then 0 else 1
    let bad := (recipeSegs s r).filter fun i => match bandSlot s d i.1 with | some b => b.bad | none => false
    let x := if bad.isEmpty then x else .absent 5
    let note : Redecode → Redecode := fun q =>
      if bad.any (fun i => i.1 == q.item) then { q with lines := q.lines ++ [(line, slice)] } else q
    let s := { s with mil.redecode := s.mil.redecode.map note }
    decideLines 40 (modLine line (fun l =>
      { l with awaiting := l.awaiting.erase slice, results := l.results ++ [checkResult s r slice (isFull l.thin line slice) x] }) s)
  | _, _ => s

/-- SLICE_RESULT_COMPLETE (R202). -/
def execSliceResultComplete (t line : Nat) (slice : Fin 32) (r : SliceRecv) (s : State) : Host.Outcome State Fault Refusal :=
  onEvent t (takeResult line slice.val r) s

/-! ### Votes (R207) -/

/-- The recomputes in progress on the two vote lanes (R217). -/
def votesRunning (s : State) : Nat := (s.mil.lines.filter fun l => l.voting.isSome).length

/-- The vote slice of a line: the lowest idle working slice, of the other domain where a result is absent because of a fault in one, and for a
second recompute of the domain not used before, if they have one; else the first slice in service that holds no undecided line (R207). -/
def voteSlice (s : State) (l : LineSlot) : Option (Fin 32) :=
  let avoid : Option Nat :=
    match l.results.getLast? with
    | some r => if 2 < l.results.length then some (sliceDom r.slice)
                else (l.results.find? fun r => r.words.isNone).map fun r => sliceDom r.slice
    | none => none
  let i0 := idleSlices s 0
  let i1 := idleSlices s 1
  let fresh (k : Fin 32) : Bool := !l.results.any fun r => r.slice == k.val
  let pick : List (Fin 32) :=
    match avoid with
    | some 0 => i1 ++ i0
    | some _ => i0 ++ i1
    | none => i0 ++ i1
  match pick.find? fresh with
  | some k => some k
  | none => (List.finRange 32).find? fun k =>
      inPair s k.val && sliceWorks s k && fresh k && !s.mil.lines.any fun x => k.val ∈ x.awaiting || x.voting == some k.val

/-- VOTE_RECOMPUTE_START (R207): a recompute of a line that its results do not decide starts when a slice and a vote lane are free. A recipe that cannot be read
leaves the line unresolved (R474). -/
def execVoteRecomputeStart (t line : Nat) (recipeReadable : Bool) (s : State) : Host.Outcome State Fault Refusal :=
  onEvent t (fun s =>
    match lineSlot s line with
    | none => s
    | some l =>
      if l.sealed || l.unresolved || !l.awaiting.isEmpty || l.voting.isSome || decide (4 ≤ l.results.length) || decide (2 ≤ votesRunning s) then s
      else if !recipeReadable then unresolve l (raise FaultCode.wellUncorrectable (Config.recipeBurst line) s)
      else match voteSlice s l with
        | none => s
        | some k =>
          let s := modLine line (fun l => { l with voting := some k.val, voteFrom := s.now, computed := l.computed + 1 }) s
          { s with mil.slices := upd s.mil.slices k fun x => { x with vote := some line } }) s

/-- VOTE_RECOMPUTE_DONE (R206). -/
def execVoteRecomputeDone (t line : Nat) (r : SliceRecv) (s : State) : Host.Outcome State Fault Refusal :=
  onEvent t (fun s =>
    match lineSlot s line, recipeOf s line with
    | some l, some q =>
      match l.voting with
      | none => s
      | some k =>
        let s := if comparatorsDiffer r then weighbridgeFault s else s
        let s := { s with mil.slices := s.mil.slices.map fun x => if x.vote = some line then { x with vote := none } else x }
        decideLines 40 (modLine line (fun l => { l with voting := none, results := l.results ++ [checkResult s q k true r] }) s)
    | _, _ => s) s

/-- The result of a slice for a line is given up: absent for its time (R208, R209). -/
def giveUpResult (line : Nat) (slice : Nat) (vote : Bool) (s : State) : State :=
  let s := modLine line (fun l =>
    { l with
      awaiting := l.awaiting.erase slice, voting := if vote then none else l.voting,
      results := l.results ++ [{ slice := slice, full := vote || isFull l.thin line slice, cause := 7 }] }) s
  { s with mil.slices := s.mil.slices.map fun x => if vote && x.vote == some line then { x with vote := none } else x }

/-- SLICE_TIMEOUT (R208, R210): a result that has not come within C_line + 10 µs of t0 is absent, and its slice is charged and retired at once. -/
def execSliceTimeout (t line : Nat) (slice : Fin 32) (s : State) : Host.Outcome State Fault Refusal :=
  onEvent t (fun s =>
    match lineSlot s line, recipeOf s line with
    | some l, some r =>
      let due := cLine (activeW s) + 10000
      let first := decide (slice.val ∈ l.awaiting) && decide (r.moment + due ≤ s.now)
      let vote := l.voting == some slice.val && decide (l.voteFrom + due ≤ s.now)
      if first || vote then
        decideLines 40 (retireSlice slice (giveUpResult line slice.val vote (chargeNoted slice.val (raise FaultCode.sliceTimeout line s))))
      else s
    | _, _ => s) s

/-- INTAKE_SEGMENT_REDECODE (R141, R208): the intake decompressor has decoded a segment that failed in a slice. When it fails too, the block is corrupt: every product
whose lines use the tile is voided; otherwise the slices whose results it cost are charged. -/
def execIntakeSegmentRedecode (t : Nat) (item : SegItem) (s : State) : Host.Outcome State Fault Refusal :=
  onEvent t (fun s =>
    match s.mil.redecode.find? (fun q => q.item == item) with
    | none => s
    | some q =>
      let s := { s with
        mil.redecode := s.mil.redecode.filter fun x => x.item != item,
        mil.band := s.mil.band.map fun bs => bs.filter fun b => !(b.item == item && b.bad) }
      match jobOf s q.job with
      | none => s
      | some j =>
        if segDecodes s j item then decideLines 40 (q.lines.foldl (fun s x => charge x.1 x.2 s) s)
        else
          let addr := ((segTile j item).map (·.addr)).getD 0
          let s := { s with mil.corrupt := s.mil.corrupt ++ [(q.job, addr)] }
          (s.prod.queue.filter fun p => p.job == q.job && p.input == item.input && !bit p.flags 0).foldl
            (fun s p => voidProduct p.num 3 FaultCode.sheafTileCorrupt s) (raise FaultCode.sheafTileCorrupt addr s)) s

/-- MILL_DOMAIN_LOST (R212): a domain is lost as a whole; no further line is sealed. -/
def execMillDomainLost (t : Nat) (dom : Fin 2) (s : State) : Host.Outcome State Fault Refusal :=
  onEvent t (fun s =>
    if s.mil.lost[dom] || !millUp s dom then s
    else raise FaultCode.millDomainLost 0 { s with mil.lost := s.mil.lost.set dom true }) s

end Sys2Proof.Machine
end

