-- ==== Sys2Proof/Machine/Sight.lean ====
section
/-!
DEFINITION. What vision sees and decides: where a code is seen (R334, R335), units for the rings of role 6 (R342, R343), the outcome of a code (R338) with what follows from
it (R108, R309, R394), and the beginning and the end of a verification (R335, R339, R344).
-/
namespace Sys2Proof.Machine

/-! ### Sensors (R323, R334) -/

/-- A sensor's record. -/
def sensorOf (s : State) (n : Nat) : Sensor := if h : n < 8 then s.vis.sensors[n]'h else {}

/-- A sensor changed. -/
def modSensor (n : Nat) (f : Sensor → Sensor) (s : State) : State :=
  if h : n < 8 then { s with vis.sensors := upd s.vis.sensors ⟨n, h⟩ f } else s

/-- The smallest row pitch of a plane on the enabled Stalls, in 1/64 design pixel. -/
def leastPitch (s : State) (plane : Nat) : Nat :=
  (((elems s.stl).filter (·.enable)).flatMap fun st => (st.rows.filter fun r => r.plane == plane).map (·.pitch)).foldl min 0xFFFF

/-- Whether a sensor resolves a plane (R334). -/
def resolves (s : State) (x : Sensor) (plane : Nat) : Bool :=
  x.on && decide (2 * leastPitch s plane * x.colPitch ≤ 64 * 65536) && decide (2 * x.rowPitch ≤ 65536)

/-- Whether a sensor's across range holds columns [x0, x1) (R334). -/
def seesAcross (x : Sensor) (x0 x1 : Nat) : Bool :=
  decide (x.colOrigin ≤ 64 * x0) && decide ((64 * (x1 : Int) - x.colOrigin) * 65536 ≤ 64 * (x.width * x.colPitch : Nat))

/-- The medium line at which a frame's span begins, in 1/64 line (R334). -/
def frameBase (x : Sensor) (f : VisFrame) : Int := f.lm - 64 * x.camOffset

/-- Whether every pixel of a code's region maps inside a frame (R335). -/
def frameCovers (s : State) (f : VisFrame) (v : Verify) : Bool :=
  let x := sensorOf s f.sensor
  bit x.tracks v.track && seesAcross x v.x0 v.x1 && decide (frameBase x f ≤ 64 * v.y0)
    && decide ((64 * (v.y1 : Int) - frameBase x f) * 65536 ≤ 64 * (x.height * x.rowPitch : Nat))

/-- Whether a frame is used (R328). -/
def frameUsed (f : VisFrame) : Bool := !f.truncated && !f.damaged

/-- The detail of a vision fault (R543). -/
def frameDetail (sensor frame : Nat) : Nat := put (frame % 2 ^ 32) 32 + sensor

/-- A kept frame. -/
def frameOf (s : State) (sensor frame : Nat) : Option VisFrame := s.vis.frames.find? fun f => f.sensor == sensor && f.frame == frame

/-- The verification channel of a frame for a plane (R333, R336): channel 0 of a mono sensor. -/
def channelOf (s : State) (f : VisFrame) (cfg : VerifyCfg) (plane : Nat) : List (List Nat) :=
  let k := if (sensorOf s f.sensor).pattern = 4 then 0 else bits cfg.channels (3 * plane + 2) (3 * plane)
  f.chans.getD k []

/-! ### Units (R327, R342) -/

/-- A frame header (R327). -/
def frameHeader (s : State) (f : VisFrame) : List W64 :=
  let fs := f.fs16 / 65536
  [ word (put f.setId 48 + put (flag f.damaged) 37 + put (flag f.long) 36 + put (flag f.truncated) 35 + put f.sensor 32 + f.frame % 2 ^ 32),
    word (fs / 1000000000), word (fs % 1000000000), wordOfInt (f.lm / 64),
    word (put (sensorOf s f.sensor).width 32 + put f.raw.length 16 + (f.lm % 64).toNat) ]

/-- A vision unit: its first word and its content, a multiple of 8 bytes. -/
def visionUnit (kind : Nat) (content : List Byte) : List Byte := wordBytes (word (put (content.length + 8) 8 + kind)) ++ content

/-- The rings that vision units go to: the enabled ones of role 6, or the lowest of that role while none is enabled. -/
def visionRings (s : State) : List (Fin 16) :=
  let rs := (List.finRange 16).filter fun r => s.bar.rings[r].role == .visionOut
  let es := rs.filter fun r => s.bar.rings[r].enable
  if es.isEmpty then rs.take 1 else es

/-- The bytes of vision units that wait (R342). -/
def visionWaiting (s : State) : Nat :=
  (((List.finRange 16).filter fun r => s.bar.rings[r].role == .visionOut).map fun r => (s.bar.work[r].units.map fun u => u.data.length).sum).sum

/-- A vision unit waits for its rings; with the 4 MiB full, a result is discarded and reported and another unit is not made and counted (R342). -/
def sendVision (result : Bool) (sensor frame : Nat) (data : List Byte) (s : State) : State :=
  if 4194304 < visionWaiting s + data.length then
    if result then raise FaultCode.visionUnitsLost (frameDetail sensor frame) s else { s with vis.unmade := s.vis.unmade + 1 }
  else (visionRings s).foldl (fun s r => queueUnits r.val [{ data := data }] s) s

/-- A kind-3 unit: a crop of a frame's channel (R342). -/
def imageUnit (s : State) (f : VisFrame) (ch : List (List Nat)) (x0 y0 w h : Nat) : List Byte :=
  let px := ((ch.drop y0).take h).flatMap fun row => ((row.drop x0).take w).flatMap fun p => leBytes 2 p
  visionUnit 3 (wordsBytes (frameHeader s f ++ [word (put h 48 + put w 32 + put y0 16 + x0)])
    ++ px ++ List.replicate ((8 - px.length % 8) % 8) 0)

/-- The crop of a frame that shows a code's region: first column and row, width and height (R334, R342). -/
def cropOf (s : State) (f : VisFrame) (v : Verify) : Nat × Nat × Nat × Nat :=
  let x := sensorOf s f.sensor
  let cp := max 1 x.colPitch
  let rp := max 1 x.rowPitch
  let col := fun (q : Int) => ((q * 65536) / ((64 * cp : Nat) : Int)).toNat
  let c0 := min x.width (col (64 * v.x0 - x.colOrigin))
  let c1 := min x.width (col (64 * v.x1 - x.colOrigin) + 1)
  let r0 := min x.height ((64 * (v.y0 : Int) - frameBase x f) * 65536 / ((64 * rp : Nat) : Int)).toNat
  let r1 := min x.height (((64 * (v.y1 : Int) - frameBase x f) * 65536 / ((64 * rp : Nat) : Int)).toNat + 1)
  let a := if x.flipX then x.width - c1 else c0
  let b := if x.flipY then x.height - r1 else r0
  (a, b, c1 - c0, r1 - r0)

/-! ### Outcomes (R338) -/

/-- Whether an image reached step 2 of R337. -/
def imgReached : ImageResult → Bool
  | .graded .. => true
  | _ => false

/-- The grade of an image times 10: the lowest of its parameters, 0 where the code was not found or not decoded (R337, R338). -/
def imgGrade : ImageResult → Nat
  | .graded 0 (p :: ps) _ _ _ _ _ _ => ps.foldl min p
  | _ => 0

/-- The string an image decoded to. -/
def imgString : ImageResult → Option (List Byte)
  | .graded 0 _ _ d _ _ _ _ => d
  | _ => none

/-- Whether every glyph of a text passed in an image. -/
def imgText : ImageResult → Bool
  | .graded 0 _ ok _ _ _ _ _ => ok
  | _ => false

/-- The rows of an image that was found. -/
def imgRows : ImageResult → List RowFit
  | .graded 0 _ _ _ _ _ _ rs => rs
  | _ => []

/-- The results of a code's graded images, in order. -/
def gradedOf (v : Verify) : List ImageResult := v.images.filterMap fun i => match i.result with | some r => if imgReached r then some r else none | none => none

/-- The settings that rule a code. -/
def cfgOf (s : State) (v : Verify) : VerifyCfg := v.cfg.getD s.vis.cfg

/-- The outcome code of a code with its grade (R338). -/
def outcomeOf (s : State) (v : Verify) (r : Rec) : Nat × Nat :=
  let gs := gradedOf v
  let crcs := (gs.filterMap imgString).map crc64
  let total := (gs.map imgGrade).sum
  let text := r.symbology == 0
  let grade := if text || gs.isEmpty then 0xFF else total / gs.length
  let wrong := crcs.filter fun x => x != r.content
  if wrong.any fun x => s.tal.journal.any fun q => q.num != r.num && q.content == x then (5, grade)
  else if !wrong.isEmpty then (2, grade)
  else if gs.isEmpty then (6, 0xFF)
  else if text then (if gs.all imgText then 0 else 1, 0xFF)
  else if total < (cfgOf s v).gradeMin * gs.length then (1, grade)
  else (0, grade)

/-- A row entry of a result unit (R343). -/
def rowEntry (r : Option RowFit) : W64 :=
  match r with
  | none => 0
  | some r => word (put r.fit 48 + put (unsigned r.dy 16) 32 + put (unsigned r.dx 16) 16 + put 1 11 + put r.row 5 + r.stall)

/-- The two rows with the most modules, the first in order at equal counts. -/
def topRows (rs : List RowFit) : List RowFit :=
  let best (l : List RowFit) : Option RowFit := l.foldl (fun b r => match b with | some x => if x.fit < r.fit then some r else b | none => some r) none
  match best rs with
  | none => []
  | some a => a :: (best (rs.filter (· != a))).toList

/-- A result unit (R343). -/
def resultUnit (s : State) (v : Verify) (r : Rec) (out grade fault : Nat) : List W64 :=
  let first := v.images.find? fun i => (i.result.map imgReached).getD false
  let res := (first.bind (·.result)).getD .notReached
  let sensor := (first.map (·.sensor)).getD 0
  let frame := (first.map (·.frame)).getD 0
  let setId := ((frameOf s sensor frame).map (·.setId)).getD 0
  let plane := match (if h : r.stream < 16 then (s.tal.streams[r.stream]'h).template else none) with | some t => fld t.attr 2 0 | none => 0
  let nums : List Nat × Nat × Nat × Nat := match res with | .graded _ ps _ _ e m c _ => (ps, e, m, c) | _ => ([], 0, 0, 0)
  let rows := if out = 0 then topRows (imgRows res) else []
  let now := devNs s
  [ word r.num, word r.product,
    word (put fault 48 + put sensor 28 + put plane 24 + put r.symbology 16 + put grade 8 + put (gradedOf v).length 4 + out),
    word (put v.refused 48 + put setId 32 + frame % 2 ^ 32),
    word (leNat ((List.range 8).map fun j => BitVec.ofNat 8 (nums.1.getD j 0xFF))),
    word (put nums.2.2.2 32 + put nums.2.2.1 16 + nums.2.1),
    rowEntry rows[0]?, rowEntry rows[1]?,
    word (((imgString res).map crc64).getD 0), word (now / 1000000000), word (now % 1000000000) ]

/-- A unit is charged with a suspect line; its own second charge within 1,000,000 lines makes it yield (R394). -/
def chargeUnit (line unit : Nat) (s : State) : State :=
  if unit = s.twn.unit then
    let again := s.twn.charges.any fun l => decide (line < l + 1000000) && decide (l < line + 1000000)
    let s := { s with twn.charges := line :: s.twn.charges }
    if again then dueYield 0 s else s
  else { s with twn.peerCharges := line :: s.twn.peerCharges }

/-- Vision arbitrates the suspect lines that a code's overlay covers (R394): the unit whose copy fired each is charged, and the line is settled. -/
def settleSuspects (r : Rec) (bad : Bool) (s : State) : State :=
  let ls := s.twn.suspects.filter fun l => within r.firstLine (r.lastLine + 1) l
  let s := if bad then ls.foldl (fun s l => match s.twn.firers.find? (fun f => f.1 == l) with | some f => chargeUnit l f.2 s | none => s) s else s
  { s with twn.suspects := s.twn.suspects.filter fun l => !ls.contains l }

/-- The offsets of a verified code's rows go to the rows that live tracking follows (R194). -/
def feedLive (rs : List RowFit) (s : State) : State :=
  rs.foldl (fun s r =>
    let plane := if h : r.stall < 24 then ((s.stl[r.stall]'h).rows[r.row]?).map (·.plane) else none
    match plane with
    | none => s
    | some p =>
      if !bit s.mil.live p || (s.mil.learn.any fun l => bit l.planes p) then s else
      let x := (s.mil.liveRows.find? fun x => x.stall == r.stall && x.row == r.row).getD { stall := r.stall, row := r.row }
      let x := { x with across := x.across ++ [r.dx], along := x.along ++ [r.dy] }
      { s with mil.liveRows := (s.mil.liveRows.filter fun y => !(y.stall == r.stall && y.row == r.row)) ++ [x] }) s

/-- An outcome takes effect on its record and its product (R108, R112, R309, R338, R394). -/
def applyOutcome (rec_ out grade fault : Nat) (s : State) : State :=
  match recOf s rec_ with
  | none => s
  | some r =>
    if r.final.isSome || r.outcome != 0 then s else
    let s := modRec rec_ (fun r => { r with grade := grade }) s
    let s := settleSuspects r (out == 1 || out == 2) s
    if out = 0 then settleProduct r.product (modRec rec_ (fun r => { r with outcome := 1 }) s)
    else if out = 6 then
      let s := if fault = FaultCode.noFrame then raise fault 0 s else s
      settleProduct r.product (setFlag r.product 3 (modRec rec_ (fun r => { r with outcome := 2 }) s))
    else
      let s := if out = 5 then raise FaultCode.codeMisplaced r.product s else s
      settleProduct r.product (voidProduct r.product 2 0 (voidRec 4 0 rec_ s))

/-- The verification of a code ends (R338, R339): its units leave, and its outcome takes effect; a standby sends what it saw to the lead (R375, R394). -/
def endVerify (v : Verify) (s : State) : State :=
  let s := { s with vis.codes := s.vis.codes.filter fun x => x.rec_ != v.rec_ }
  match recOf s v.rec_ with
  | none => s
  | some r =>
    if r.final.isSome then s else
    let s := { s with vis.verAt := s.now :: s.vis.verAt.filter fun m => decide (s.now < m + 1000000000) }
    let o := outcomeOf s v r
    let fault := if o.1 = 6 then (if v.cause = 0 then FaultCode.noFrame else v.cause) else 0
    let ws := resultUnit s v r o.1 o.2 fault
    let cfg := cfgOf s v
    let first := (v.images.head?.map fun i => (i.sensor, i.frame)).getD (0, 0)
    let s := if cfg.results then sendVision true first.1 first.2 (visionUnit 1 (wordsBytes ws)) s else s
    let s := if cfg.failImages && o.1 != 0 then v.images.foldl (fun s i =>
        match frameOf s i.sensor i.frame with
        | some f =>
          let plane := match (if h : r.stream < 16 then (s.tal.streams[r.stream]'h).template else none) with | some t => fld t.attr 2 0 | none => 0
          let c := cropOf s f v
          sendVision false i.sensor i.frame (imageUnit s f (channelOf s f cfg plane) c.1 c.2.1 c.2.2.1 c.2.2.2) s
        | none => s) s
      else s
    if s.twn.role == .synced then (if o.1 = 6 then s else uraraSend s.twn.peer 0x55 ws s)
    else
      let s := if o.1 = 0 then feedLive (((gradedOf v).head?.map fun g => topRows (imgRows g)).getD []) s else s
      applyOutcome v.rec_ o.1 o.2 fault s

/-! ### The beginning and the end of a verification (R335, R339, R344) -/

/-- The region of a code: its knockout rectangle within the track and the window (R154, R335). -/
def regionOf (s : State) (r : Rec) (p : Product) : Option Verify :=
  match (if h : r.stream < 16 then some (s.tal.streams[r.stream]'h) else none), jobOf s p.job with
  | some x, some j =>
    match x.template, j.desc.tracks[p.track]? with
    | some t, some tr =>
      let sz := overlaySize t x.font
      let ox := tr.start + t.dx
      let oy := p.first + t.oy
      let qx := fld t.attr 39 32
      let qy := fld t.attr 47 40
      some { rec_ := r.num, product := p.num, track := p.track, x0 := max tr.start (ox - qx), x1 := min tr.stop (ox + sz.1 + qx),
             y0 := max p.first (oy - qy), y1 := min p.stop (oy + sz.2 + qy), firedAt := s.now }
    | _, _ => none
  | _, _ => none

/-- A code whose record has reached fired becomes a candidate; without a sensor that can cover it, it ends at once with NO_CAMERA (R335); with VIS off it is void
under VISION_OFF (R21, R344). -/
def beginVerify (n : Nat) (s : State) : State :=
  match recOf s n with
  | none => s
  | some r =>
    match productOf s r.product with
    | none => s
    | some p =>
      if !domOn s 11 then voidFault p.num FaultCode.visionOff (setFlag p.num 3 s)
      else match regionOf s r p with
        | none => s
        | some v =>
          let can := (List.range 8).filter fun k => (sensorOf s k).on && bit (sensorOf s k).tracks v.track && seesAcross (sensorOf s k) v.x0 v.x1
          if !can.isEmpty then { s with vis.codes := s.vis.codes ++ [{ v with sensors := can }] }
          else if s.twn.role == .synced then s
          else
            let s := if s.vis.noCam.contains r.stream then s
              else raise FaultCode.noCamera 0 { s with vis.noCam := s.vis.noCam ++ [r.stream] }
            endVerify { v with cause := FaultCode.noCamera } s

/-- The verification of a product's codes ends at its decision deadline (R339). -/
def verifyDeadline (product : Nat) (s : State) : State :=
  (s.vis.codes.filter fun v => v.product == product).foldl (fun s v => endVerify v s) s

/-- Whether an image of a code waits to be graded. -/
def imagesWait (v : Verify) : Bool := v.images.any fun i => i.result.isNone

/-- Every verification that is over ends: all its images graded, or no frame to come and none waiting (R339); one of a record that is final already is dropped
(R344). -/
def settleVerify (s : State) : State :=
  let s := { s with vis.codes := s.vis.codes.filter fun v => match recOf s v.rec_ with | some r => r.final.isNone | none => false }
  (s.vis.codes.filter fun v =>
    (decide ((cfgOf s v).maxImages ≤ v.images.length) || v.sensors.isEmpty) && !imagesWait v).foldl (fun s v => endVerify v s) s

end Sys2Proof.Machine
end

