-- ==== Sys2Proof/Machine/Stalls.lean ====
section
/-!
DEFINITION. Operations on the Stalls: items and permits (R244, R261 to R263), the period and the fire time (R238, R239), pulse tables (R243 to R246),
messages to the head station (R224, R230), retirement of elements (R181, R260), and how the firing of products and records ends (R108, R232, R309).
-/
namespace Sys2Proof.Machine

/-! ### Stalls and their items -/

/-- A Stall's record. -/
def stallOf (s : State) (k : Nat) : Stall := if h : k < 24 then s.stl[k]'h else {}

/-- A Stall changed. -/
def modStall (k : Nat) (f : Stall → Stall) (s : State) : State :=
  if h : k < 24 then { s with stl := upd s.stl ⟨k, h⟩ f } else s

/-- One of the counts of R264 rises. -/
def countStall (k : Nat) (i : Fin 8) (s : State) : State := modStall k (fun st => { st with counts := upd st.counts i (· + 1) }) s

/-- Whether an active job names a Stall (R223). -/
def stallNamed (s : State) (k : Nat) : Bool :=
  s.job.loaded.any fun j => jobIsActive s j.desc.id && (jobStalls j.desc).contains k

/-- The body of the calibration item in force. -/
def itemBody (s : State) (item : Nat) : Option (List Byte) := (s.led.items.find? fun i => i.item == item && i.valid).map (·.body)

/-- The identity that a placement map or a head item was made for (R172, R243). -/
def itemHead (s : State) (item : Nat) : Option W64 := (itemBody s item).map fun b => bodyWord b 1

/-- Whether the reported identity equals that of the placement map and of the head item (R173, R244, R261). -/
def identOk (s : State) (k : Nat) : Bool :=
  let h := (stallOf s k).headId
  h.isSome && itemHead s (0x100 + k) == h && itemHead s (0x140 + k) == h

/-- Whether a Stall's map is stale: the head station reports an identity that its map or its head item does not carry (R173, R244). -/
def mapStale (s : State) (k : Nat) : Bool := (stallOf s k).headId.isSome && !identOk s k

/-! ### The period and fire times (R222, R238, R239) -/

/-- T_min in whole nanoseconds, rounded up (R222). -/
def tMin (st : Stall) : Nat := ceilDiv 1000000000 (max 1 st.cfg.rate)

/-- The stamps of the latest boundaries without a rest of more than 100 ms between two, none before a moment. -/
def runOf (start : Nat) : List (Nat × Nat) → List Nat
  | [] => []
  | [b] => if start ≤ b.1 then [b.1] else []
  | b :: c :: rest =>
    if b.1 < start then [] else if 100000000 < b.1 - c.1 then [b.1] else b.1 :: runOf start (c :: rest)

/-- The moment the active job's activation took effect. -/
def activeSince (s : State) : Nat := match s.job.active with | some id => (match jobOf s id with | some j => j.activeAt | none => 0) | none => 0

/-- The period estimate p in nanoseconds (R238). -/
def period (s : State) : Nat :=
  match s.mot.bounds with
  | [] => 0
  | b0 :: rest =>
    let last := match rest with | b1 :: _ => b0.1 - b1.1 | [] => s.now - b0.1
    let p := match s.mot.bounds.drop 8 with
      | b8 :: _ => if 8 ≤ (runOf (activeSince s) s.mot.bounds).length then (b0.1 - b8.1) / 8 else last
      | [] => last
    if 100000000 < s.now - b0.1 then s.now - b0.1 else p

/-- The stamp of the boundary of a line, when it is kept. -/
def stampOf (s : State) (line : Nat) : Option Nat := (s.mot.bounds.find? fun b => b.2 == line).map (·.1)

/-- The predicted moment of a line's boundary. -/
def predict (s : State) (line : Nat) : Nat :=
  match s.mot.bounds with
  | b :: _ => b.1 + (line - s.mot.line) * period s
  | [] => s.now + (line - s.mot.line) * period s

/-- t_F of a boundary stamped at a moment, or of the middle of a fold (R239, R251). -/
def fireTime (st : Stall) (b : Nat) : Nat := match st.tPrev with | some t => max b (t + tMin st) | none => b

/-- W of row r of a Stall that its frames use now (R177, R178). -/
def wOf (st : Stall) (r : Nat) : Nat := st.ws.getD r 0

/-- The rows of a Stall in use with their numbers: the active rows, and each spare row with a spare in service (R183). -/
def rowsInUse (s : State) (k : Nat) : List (Nat × GeomRow) :=
  let st := stallOf s k
  let serving (g : GeomRow) : Bool := s.mil.retired.any fun r => r.stall == k &&
    (match r.spare with | some c => within (16384 + g.first) (16384 + g.first + g.count) c | none => false)
  (st.rows.zipIdx.map fun p => (p.2, p.1)) ++ ((st.spares.zipIdx.filter fun p => serving p.1).map fun p => (32 + p.2, p.1))

/-- W_min and W_max of a Stall's rows in use (R222). -/
def wSpan (s : State) (k : Nat) : Nat × Nat :=
  let ws := (rowsInUse s k).map fun r => wOf (stallOf s k) r.1
  match ws with
  | [] => (0, 0)
  | w :: rest => (rest.foldl min w, rest.foldl max w)

/-- W of every row, 0 to 31 active and 32 to 39 spare, under a map (R171). -/
def mapWs (st : Stall) (map : List Byte) : List Nat :=
  (List.range 40).map fun r =>
    match (if r < 32 then st.rows[r]? else st.spares[r - 32]?) with
    | some g => rowW map r g
    | none => 0

/-! ### Permits (R261 to R263) -/

/-- The conditions of R261 but for the grant and its latches. -/
def permitable (s : State) (k : Nat) : Bool :=
  let st := stallOf s k
  domOn s 9 && !faulted s && st.enable && stallLocked s k && identOk s k && st.zonesHot == 0 && !st.vppBad

/-- Every condition of R261. -/
def permitOk (s : State) (k : Nat) : Bool :=
  let st := stallOf s k
  st.granted && !st.faultLat && !st.identLat && !st.overLat && permitable s k

/-- A FIRE_PERMIT that withdraws ends when every output it names has changed (R263). -/
def settlePermits (s : State) : State :=
  let waits := s.cmd.slots.filter fun c => c.op == Op.firePermit && c.phase == .executing && !parB c 1 0
  waits.foldl (fun s c =>
    if (List.range 24).all fun k => !parB c 0 k || !(stallOf s k).permit || (stallOf s k).withdraw.isNone then done c s else s) s

/-- A permit is withdrawn at the end of the line in progress, or at once where none is (R262). -/
def withdrawPermit (k : Nat) (s : State) : State :=
  modStall k (fun st =>
    if !st.permit then st
    else if s.now < st.lineEnd then { st with withdraw := some (st.withdraw.getD st.lineEnd) }
    else { st with permit := false, withdraw := none }) s

/-- A permit is released at once. -/
def releasePermit (k : Nat) (s : State) : State := modStall k (fun st => { st with permit := false, withdraw := none }) s

/-- The output follows its conditions: asserted when all hold; released at once when the Stall is not enabled or its lane is not locked (R261). A role that asserts no
permit keeps it released (R386). -/
def refreshPermit (k : Nat) (s : State) : State :=
  let drives := s.twn.role != .copying && s.twn.role != .isolated && s.twn.role != .yielded
  if permitOk s k && drives then modStall k (fun st => { st with permit := true, withdraw := none }) s
  else if !(stallOf s k).enable || !stallLocked s k || !domOn s 9 then settlePermits (releasePermit k s)
  else s

/-! ### Products of a Stall -/

/-- The queued products, not void, that a Stall prints and whose window has not ended; with `coming` also those whose window has not opened. -/
def stallProducts (s : State) (k : Nat) (coming : Bool) : List Product :=
  s.prod.queue.filter fun p =>
    (!bit p.flags 0 || p.target != 0) && decide (s.mot.line < p.stop) && (coming || decide (p.first ≤ s.mot.line))
      && (match jobOf s p.job with | some j => (jobStalls j.desc).contains k | none => false)

/-- A product is voided under a fault and its firing stops. -/
def voidStop (n fault : Nat) (s : State) : State := voidFault n fault (stopProduct n s)

/-- HEAD_OVERTEMP: reported once with the Stall; its open products are voided, its permit latched off at the end of the line in progress (R255, R541). -/
def headOvertemp (k : Nat) (s : State) : State :=
  if (stallOf s k).overLat then s else
  let s := withdrawPermit k (raise FaultCode.headOvertemp k (modStall k (fun st => { st with overLat := true }) s))
  (stallProducts s k false).foldl (fun s p => voidProduct p.num 3 FaultCode.headOvertemp (stopProduct p.num s)) s

/-! ### Pulse tables (R243 to R246) -/

/-- `pre`, `gap` and `main` of a class corrected at grid point (ti, vi) (R245). -/
def pulseWidths (head : List Byte) (ti vi c : Nat) : Nat × Nat × Nat :=
  let w := bodyWord head (2 + c)
  let g := 32 * ti + vi
  let k := bodyWord head (18 + g / 2)
  let o := 32 * (g % 2)
  (min 1023 ((fld w 9 0 * fld k (o + 15) o + 2048) / 4096), fld w 19 10, min 1023 ((fld w 29 20 * fld k (o + 31) (o + 16) + 2048) / 4096))

/-- The pulse section: classes 1 to 15 (R227). -/
def pulseWords (head : List Byte) (ti vi : Nat) : List W64 :=
  (List.range 15).map fun i =>
    let p := pulseWidths head ti vi (i + 1)
    word (put p.2.2 20 + put p.2.1 10 + p.1)

/-- A number clamped to 0 to n. -/
def clampTo (n : Nat) (x : Int) : Nat := min n x.toNat

/-- The zones that hold channels in use (R245). -/
def zonesInUse (s : State) (k : Nat) : List Nat :=
  (List.range 17).filter fun z => (rowsInUse s k).any fun r =>
    let base := if r.1 < 32 then 0 else 16384
    overlaps (base + r.2.first) (base + r.2.first + r.2.count) (1024 * z) (1024 * z + 1024)

/-- The grid indices that the latest temperatures and voltage give (R245). The mean of the n zone temperatures is taken exactly: `sum` is n times it. -/
def gridOf (s : State) (k : Nat) (head : List Byte) : Nat × Nat :=
  let st := stallOf s k
  let ts := ((zonesInUse s k).map fun z => st.temps.getD z 0x8000).filter (· != 0x8000)
  let n : Int := ts.length
  let sum : Int := (ts.map fun t => signed t 16).foldl (· + ·) 0
  let w0 := bodyWord head 0
  let tb := signed (fld w0 39 32) 8
  let vb : Int := fld (bodyWord head 2) 15 0
  let keepT := decide ((sum - n * (4 * (tb + 2 * st.ti))).natAbs ≤ 5 * ts.length) && decide (st.ti ≤ fld w0 43 40)
  let keepV := decide (((st.vpp : Int) - (vb + 50 * st.vi)).natAbs ≤ 35) && decide (st.vi ≤ fld w0 48 44)
  (if ts.isEmpty || keepT then min st.ti (fld w0 43 40) else clampTo (fld w0 43 40) ((sum - n * (4 * tb - 4)) / (8 * n)),
   if keepV then st.vi else clampTo (fld w0 48 44) (((st.vpp : Int) - vb + 25) / 50))

/-- The grid indices follow; a change is carried by the next frame (R245, R246). -/
def moveGrid (k : Nat) (s : State) : State :=
  match itemBody s (0x140 + k) with
  | none => s
  | some head =>
    let g := gridOf s k head
    let st := stallOf s k
    if g.1 = st.ti ∧ g.2 = st.vi then s else modStall k (fun st => { st with ti := g.1, vi := g.2, pulseDue := true }) s

/-! ### Messages to the head station (R224, R230) -/

/-- A message takes the next `seq` and leaves on the lane in use (R230). -/
def sendMessage (k type : Nat) (ws : Nat → List W64) (s : State) : State :=
  let q := (stallOf s k).seq
  modStall k (fun st => { st with seq := (q + 1) % 65536 }) (emit (.head k type (ws q)) s)

/-- The `fine` values of row r of a Stall under a map (R172). -/
def rowFines (map : List Byte) (r : Nat) (g : GeomRow) : List Nat :=
  (List.range g.count).map fun i => mapFine map ((if r < 32 then 0 else 16384) + g.first + i)

/-- All rows of a Stall with their numbers. -/
def allRows (st : Stall) : List (Nat × GeomRow) :=
  (st.rows.zipIdx.map fun p => (p.2, p.1)) ++ st.spares.zipIdx.map fun p => (32 + p.2, p.1)

/-- The two words of a row (R94). -/
def rowWords (g : GeomRow) : List W64 :=
  [word (put (flag g.reverse) 37 + put g.count 22 + put g.first 8 + put g.plane 5 + g.stall),
   word (put (unsigned g.along 16) 48 + put g.pitch 32 + g.origin)]

/-- `fine` values ten to a word (R227). -/
def fineWords : Nat → List Nat → List W64
  | 0, _ => []
  | _, [] => []
  | fuel + 1, l => word ((((l.take 10).zipIdx.map fun p => put p.1 (6 * p.2))).sum) :: fineWords fuel (l.drop 10)

/-- The config message (R224, R242): the row list, the temperature limits, both pulse banks and, for each row, both delay banks, which take the current values. The
spec gives no places for its fields: the order is the model's. -/
def sendConfig (k : Nat) (s : State) : State :=
  let st := stallOf s k
  let map := ((epochOf s s.mil.placeEpochs s.mil.placeEpoch).body (0x100 + k))
  let fines := (allRows st).map fun r => (r.1, rowFines map r.1 r.2)
  let pulse := match itemBody s (0x140 + k) with | some head => pulseWords head st.ti st.vi | none => []
  let body := (allRows st).flatMap (fun r => rowWords r.2) ++ [word (put (unsigned st.cfg.tAbs 16) 16 + unsigned st.cfg.tReduce 16)]
    ++ pulse ++ pulse ++ fines.flatMap fun f => fineWords (f.2.length + 1) f.2
  modStall k (fun st => { st with fines := fines, loads := [], pulseDue := false })
    (sendMessage k 2 (fun q => word q :: body) (modStall k (fun st => { st with cfgSeq := some st.seq }) s))

/-- A Stall whose lane is locked and whose head station has sent IDENT answers its STALL_CONFIG (R223). -/
def settleStallConfig (k : Nat) (s : State) : State :=
  let st := stallOf s k
  match st.headId with
  | some h =>
    if st.waitCid != 0 && laneUp s (usedLane s k) then
      finish st.waitCid Status.done 0 [h] (modStall k (fun st => { st with waitCid := 0 }) s)
    else s
  | none => s

/-- A Stall's lane has entered UP: `seq` starts at 0, the config message is sent, and the permit may return (R223, R224, R230, R261). -/
def stallLocks (k : Nat) (s : State) : State :=
  let s := modStall k (fun st => { st with seq := 0 }) s
  refreshPermit k (settleStallConfig k (sendConfig k s))

/-! ### Retirement (R181, R260) -/

/-- A retired spare leaves its element, which is matched again with the next epoch (R182). -/
def dropSpare (k chan : Nat) (rs : List Retired) : List Retired :=
  rs.map fun r => if r.stall = k ∧ r.spare = some chan then { r with spare := none } else r

/-- The element spares of a Stall in service or retired (R511). -/
def sparesUsed (rs : List Retired) (k : Nat) : Nat :=
  (rs.filter fun r => r.stall == k && (r.spare.isSome || decide (16384 ≤ r.channel))).length

/-- Element spares that a change of the retirements uses are entered in the Granary (R511, R512). -/
def useSpareElems (k old : Nat) (s : State) : State :=
  let n := sparesUsed s.mil.retired k
  (List.range (n - old)).foldl (fun s i => granaryUse 9 k 256 (1024 - (old + i + 1)) s) s

/-- An element is retired (R181, R260): code 0 from the next frame built, an epoch with a spare or compensation, ELEMENT_RETIRED with the number of lines already
dispatched; in a standby the lead is told (R391). A channel that is retired already changes nothing. -/
def retireElement (k chan reason : Nat) (s : State) : State :=
  if s.mil.retired.any fun r => r.stall == k && r.channel == chan then s else
  let r : Retired := { stall := k, channel := chan, reason := reason }
  let s := keepEpochs s
  let old := sparesUsed s.mil.retired k
  let n := min 0xFFFFFF s.mil.lines.length
  let s := notify Notice.elementRetired (put n 40 + put reason 32 + put chan 16 + k)
    { s with mil.retired := dropSpare k chan s.mil.retired ++ [r] }
  let s := useSpareElems k old s
  placementDue (tellLead (retiredItems [r]) true s)

/-! ### The end of firing (R108, R216, R232, R309) -/

/-- The lowest boundary of a Stall whose frame is not at its end: the earliest frame held, or the next to be built. -/
def doneTo (st : Stall) : Nat := (st.frames.filter fun f => !f.spit).foldl (fun m f => min m f.line) st.builtTo

/-- Whether every frame of a Stall that carries a code of a line is at its end. -/
def lineEnded (s : State) (k line : Nat) : Bool := decide (line + (wSpan s k).2 < doneTo (stallOf s k))

/-- The Stalls of a product. -/
def productStalls (s : State) (p : Product) : List Nat := match jobOf s p.job with | some j => jobStalls j.desc | none => []

/-- A product whose last line is at its end on every Stall is printed; a record whose lines have all fired gets its fired part (R108, R309). -/
def settleFiring (s : State) : State :=
  let ps := s.prod.queue.filter fun p => !p.printed || (recsOf s p.num).any fun r => r.firedLine.isNone && r.final.isNone
  ps.foldl (fun s p =>
    let ks := productStalls s p
    let fired := fun (r : Rec) => r.firedLine.isNone && r.final.isNone && !p.stopped && ks.all fun k =>
      lineEnded s k r.lastLine && !(stallOf s k).missed.any fun l => within r.firstLine (r.lastLine + 1) l
    let s := ((recsOf s p.num).filter fired).foldl (fun s r => beginVerify r.num (firedPart r.num r.lastLine s)) s
    let ended := ks.all fun k => lineEnded s k (p.stop - 1)
    let s := if ended && !p.printed then modProduct p.num (fun p => { p with printed := true }) s else s
    settleProduct p.num s) s

/-- Flags of a frame given to their products (R112, R390). -/
def applyFlags (fs : List (Nat × Nat)) (s : State) : State :=
  fs.foldl (fun s f => modProduct f.1 (fun p => { p with flags := p.flags ||| f.2 }) s) s

/-- A frame is at its end, fired or not; the lines of one that was not fired count as missed (R232). -/
def endFrame (k line : Nat) (fired : Bool) (s : State) : State :=
  settleFiring (modStall k (fun st =>
    let gone := st.frames.filter fun f => f.line == line && !f.spit
    { st with
      frames := st.frames.filter fun f => f.spit || f.line != line,
      missed := if fired then st.missed else st.missed ++ gone.flatMap (·.sources) }) s)

/-- A fired frame's report says missed, or none came: LINE_MISSED for every product with a nonzero code on it (R232). -/
def missFrame (k : Nat) (f : Frame) (s : State) : State :=
  let s := countStall k 3 s
  let s := f.products.foldl (fun s n =>
    match productOf s n with
    | some p => if bit p.flags 0 then s else voidFault n FaultCode.lineMissed s
    | none => s) s
  endFrame k f.line false s

end Sys2Proof.Machine
end

