-- ==== Sys2Proof/Machine/Frames.lean ====
section
/-!
DEFINITION. FRAME_BUILD at a decision time (R236): the codes of every channel from the line each row needs (R177, R183), folding (R251, R252), thermal and duty
reduction (R248 to R250, R254), OVERSPEED (R253), pulse and delay sections (R242, R246), and the words of a line frame (R225 to R228).
-/
namespace Sys2Proof.Machine

/-! ### Codes of a frame (R236 steps 1 to 3) -/

/-- One channel with a nonzero code: where it comes from, the product that owns it, and its plane. -/
structure Dot where
  chan    : Nat
  code    : Nat
  source  : Nat
  plane   : Nat
  product : Option Nat
  job     : Nat
  deriving DecidableEq, Repr

/-- The code of a channel in a Stall's words (R166). -/
def wordCode (ws : List (BitVec 72)) (chan : Nat) : Nat :=
  match ws[chan / 18]? with | some w => bits w.toNat (4 * (chan % 18) + 3) (4 * (chan % 18)) | none => 0

/-- Whether a product fires nothing more: void without being a target, or its firing stopped; a product that has left the queue fires nothing. -/
def silent (s : State) (n : Nat) : Bool :=
  match productOf s n with
  | some p => p.stopped || (bit p.flags 0 && p.target == 0)
  | none => true

/-- The codes of one row from its source line (R236). -/
def rowDots (s : State) (k boundary : Nat) (r : Nat × GeomRow) : List Dot :=
  let st := stallOf s k
  let w := wOf st r.1
  if boundary < w then [] else
  let x := boundary - w
  match st.buffer.find? (fun b => b.1 == x), recipeOf s x with
  | some b, some rec =>
    let ep := epochOf s s.mil.placeEpochs rec.placeEpoch
    let base := if r.1 < 32 then 0 else 16384
    (rowElems (ep.body (0x100 + k)) k r.1 base r.2).filterMap fun e =>
      let c := wordCode b.2 e.chan
      if c = 0 || (s.mil.retired.any fun q => q.stall == k && q.channel == e.chan) then none else
      let owner := coverOf s rec (e.u / 64).toNat
      match owner with
      | none => none
      | some (q, j, _) =>
        if silent s q.num then none
        else some { chan := e.chan, code := c, source := x, plane := r.2.plane, product := some q.num, job := j.desc.id }
  | _, _ => []

/-- The codes of a boundary after steps 1 to 3. -/
def frameDots (s : State) (k boundary : Nat) : List Dot := (rowsInUse s k).flatMap (rowDots s k boundary)

/-- The source lines of a boundary. -/
def sourcesOf (s : State) (k boundary : Nat) : List Nat :=
  ((rowsInUse s k).filterMap fun r => if wOf (stallOf s k) r.1 ≤ boundary then some (boundary - wOf (stallOf s k) r.1) else none).eraseDups

/-- The source lines that are sealed and not empty. -/
def liveSources (s : State) (k boundary : Nat) : List Nat :=
  (sourcesOf s k boundary).filter fun x => (stallOf s k).buffer.any fun b => b.1 == x

/-! ### Folding (R251, R252) -/

/-- The folded code of a dot: the `fold` row of the density table of its plane, from the job of the product that owns it and the epoch of its source line. -/
def foldDot (s : State) (d : Dot) : Dot :=
  match jobOf s d.job, recipeOf s d.source with
  | some j, some r =>
    match j.desc.planes.find? (fun p => p.plane == d.plane) with
    | some p => { d with code := foldClass ((epochOf s s.mil.calEpochs r.calEpoch).body p.density) d.code }
    | none => d
  | _, _ => d

/-- Lines F and F + 1 folded: each channel takes the larger code, F's at equality (R252). -/
def foldDots (s : State) (a b : List Dot) : List Dot :=
  let from_ (d : Dot) (l : List Dot) : Nat := ((l.find? fun x => x.chan == d.chan).map (·.code)).getD 0
  let xs := a.filter fun d => decide (from_ d b ≤ d.code)
  let ys := b.filter fun d => decide (from_ d a < d.code)
  ((xs ++ ys).map (foldDot s)).filter fun d => d.code != 0

/-- Whether boundary F folds with the next one: predicted slack above half a period, and no source line of either late (R251, R265). -/
def folds (s : State) (k boundary : Nat) : Bool :=
  let st := stallOf s k
  let p := period s
  let b := s.now + p
  decide (0 < p) && decide (p < 2 * (fireTime st b - b))
    && !((sourcesOf s k boundary ++ sourcesOf s k (boundary + 1)).any fun x => st.late.contains x)

/-! ### Reduction (R248 to R250, R254) -/

/-- The codes of some channels lowered by one, once for each channel; a code of 1 is never lowered (R236, R250). -/
def lowerDots (ds : List Dot) (low : List Nat) (chans : List Nat) : List Dot × List Nat :=
  let hit := (ds.filter fun d => decide (2 ≤ d.code) && chans.contains d.chan && !low.contains d.chan).map (·.chan)
  (ds.map (fun d => if hit.contains d.chan then { d with code := d.code - 1 } else d), low ++ hit)

/-- The bucket of device time that holds now, for a window of some µs (R248). -/
def bucketOf (s : State) (window : Nat) : Nat := devNs s / max 1 (window * 1000 / 16)

/-- The fires of a channel in the buckets counted. -/
def firesOf (st : Stall) (bucket chan : Nat) : Nat :=
  ((st.fires.filter fun b => decide (bucket < b.1 + 16)).map fun b => b.2.count chan).sum

/-- The energy in the buckets counted. -/
def energyOf (st : Stall) (bucket : Nat) : Nat := ((st.energy.filter fun b => decide (bucket < b.1 + 16)).map (·.2)).sum

/-- The energy weight of a class in the head item (R243). -/
def classEnergy (head : List Byte) (c : Nat) : Nat := fld (bodyWord head (2 + c)) 39 32

/-- The channels of a Stall in service (R249): active ones not retired and spares in service. -/
def serviceCount (s : State) (k : Nat) : Nat :=
  let st := stallOf s k
  let mine := s.mil.retired.filter fun r => r.stall == k
  (st.rows.map (·.count)).sum - (mine.filter fun r => decide (r.channel < 16384)).length + (mine.filter fun r => r.spare.isSome).length

/-- N_e (R248). -/
def elemLimit (c : StallCfg) : Nat := c.elemPct * c.elemWindow * c.rate / 100000000

/-- E_lim (R249). -/
def headLimit (c : StallCfg) (n : Nat) : Nat := c.headPct * 255 * n * c.headWindow * c.rate / 100000000

/-- What a duty decision gives: the codes, whether the frame was reduced, whether a limit still holds (R250). -/
structure Duty where
  dots    : List Dot
  reduced : Bool
  still   : Bool
  deriving DecidableEq, Repr

/-- The duty decision of a frame (R248 to R250). -/
def dutyOf (s : State) (k : Nat) (ds : List Dot) (low : List Nat) : Duty :=
  let st := stallOf s k
  let head := (itemBody s (0x140 + k)).getD []
  let energy (l : List Dot) : Nat := (l.map fun d => classEnergy head d.code).sum
  let eb := bucketOf s st.cfg.elemWindow
  let used := energyOf st (bucketOf s st.cfg.headWindow)
  let lim := headLimit st.cfg (serviceCount s k)
  let hot := (ds.filter fun d => decide (elemLimit st.cfg < firesOf st eb d.chan + 1)).map (·.chan)
  let headOver := decide (lim < used + energy ds)
  let r := if headOver then lowerDots ds low (ds.map (·.chan)) else lowerDots ds low hot
  { dots := r.1, reduced := !hot.isEmpty || headOver, still := !hot.isEmpty || decide (lim < used + energy r.1) }

/-- The final codes enter the accounts (R236 step 7). -/
def account (k : Nat) (ds : List Dot) (s : State) : State :=
  let head := (itemBody s (0x140 + k)).getD []
  let e := (ds.map fun d => classEnergy head d.code).sum
  modStall k (fun st =>
    let eb := bucketOf s st.cfg.elemWindow
    let hb := bucketOf s st.cfg.headWindow
    { st with
      fires := (eb, ds.map (·.chan)) :: st.fires.filter (fun b => decide (eb < b.1 + 16)),
      energy := (hb, e) :: st.energy.filter (fun b => decide (hb < b.1 + 16)) }) s

/-! ### W, delay banks and sections (R178, R227, R242) -/

/-- The lines that a row would skip or send twice when its W changes at a boundary. -/
def wGap (boundary old new : Nat) : Nat × Nat :=
  if new < old then (boundary - old, boundary - new) else (boundary - new, boundary - old)

/-- The active job repeats (R178). -/
def continuous (s : State) : Bool :=
  match s.job.active with | some id => (match jobOf s id with | some j => j.desc.repeats != 0 | none => false) | none => false

/-- Every row whose W changed takes the new one at the first boundary at which no open window holds a line it would skip or send twice (R178). -/
def moveWs (k boundary : Nat) (s : State) : State :=
  let ep := epochOf s s.mil.placeEpochs s.mil.placeEpoch
  let want := mapWs (stallOf s k) (ep.body (0x100 + k))
  let free (old new : Nat) : Bool :=
    let g := wGap boundary old new
    !continuous s && !s.prod.queue.any fun p => overlaps p.first p.stop g.1 g.2
  let next (st : Stall) (r : Nat) : Nat :=
    let old := wOf st r
    let new := want.getD r 0
    if old == new || free old new then new else old
  modStall k (fun st => { st with ws := (List.range 40).map (next st) }) s

/-- Rows whose new delay bank is in force at a boundary switch to it (R242 step 3). -/
def switchBanks (k boundary : Nat) (s : State) : State :=
  modStall k (fun st =>
    let ready := st.loads.filter fun l => match l.start with | some f => decide (f + wOf st l.row ≤ boundary) | none => false
    { st with
      rowBank := ready.foldl (fun m l => m ^^^ 2 ^ l.row) st.rowBank,
      fines := mergeRows st.fines (ready.map fun l => (l.row, l.fines)),
      loads := st.loads.filter fun l => !ready.contains l }) s
where
  /-- Row values with new ones in place of the old. -/
  mergeRows (old new : List (Nat × List Nat)) : List (Nat × List Nat) :=
    new.foldl (fun l i => l.filter (fun x => x.1 != i.1) ++ [i]) old

/-- The `fine` values of the current bank of a row. -/
def currentFines (st : Stall) (r : Nat) : List Nat := ((st.fines.find? fun f => f.1 == r).map (·.2)).getD []

/-- The rows whose `fine` values change with the pending placement epoch, with the new values (R242). -/
def changedRows (s : State) (k : Nat) : List (Nat × List Nat) :=
  match s.mil.placePend.find? (fun i => i.1 == 0x100 + k) with
  | none => []
  | some i => ((allRows (stallOf s k)).map fun r => (r.1, rowFines i.2 r.1 r.2)).filter fun r => r.2 != currentFines (stallOf s k) r.1

/-- Whether every changed row of a Stall is loaded (R242 step 2). -/
def banksLoaded (s : State) (k : Nat) : Bool :=
  (changedRows s k).all fun r => (stallOf s k).loads.any fun l => l.row == r.1 && l.fines == r.2 && l.start.isNone && l.sent == r.2.length

/-- Every changed row begins its load, or begins it again where its values have changed since; a row waits for its earlier load (R242). -/
def beginLoads (k : Nat) (s : State) : State :=
  (changedRows s k).foldl (fun s r =>
    modStall k (fun st =>
      match st.loads.find? (fun l => l.row == r.1) with
      | none => { st with loads := st.loads ++ [{ row := r.1, fines := r.2 }] }
      | some l => if l.start.isSome || l.fines == r.2 then st
                  else { st with loads := mapWhere (fun x => x.row == r.1) (fun _ => { row := r.1, fines := r.2 }) st.loads }) s) s

/-- The blocks of a frame (R225, R227). -/
def frameBlocks (words : Nat) (pulse : Bool) (delay : Nat) : Nat := 7 + (if pulse then 15 else 0) + delay + ceilDiv (9 * words) 8

/-- Whether a frame of some blocks takes at most T_min − 1,000 ns (R223). A block takes 6.40 or 2.56 ns (R275). -/
def blocksFit (c : StallCfg) (blocks : Nat) : Bool :=
  decide (blocks * (if c.fast then 256 else 640) * c.rate + 100000 * c.rate ≤ 100000000000)

/-- The delay section of the next frame, with the load as it then stands (R242 step 1). -/
def delaySection (s : State) (k words : Nat) (pulse : Bool) : List W64 × Option BankLoad :=
  let st := stallOf s k
  match st.loads.find? (fun l => l.start.isNone && decide (l.sent < l.fines.length)), allRows st with
  | some l, rows =>
    let n := min 2048 (l.fines.length - l.sent)
    let g := (rows.find? fun r => r.1 == l.row).map (·.2)
    let first := (if l.row < 32 then 0 else 16384) + ((g.map (·.first)).getD 0) + l.sent
    let bank := !bit st.rowBank l.row
    let ws := word (put (flag bank) 27 + put n 15 + first) :: fineWords (n + 1) ((l.fines.drop l.sent).take n)
    if blocksFit st.cfg (frameBlocks words pulse ws.length) then (ws, some { l with sent := l.sent + n }) else ([], none)
  | none, _ => ([], none)

/-! ### The decision (R236) -/

/-- OVERSPEED: firing stops for every product with an open window on the Stall (R253). -/
def judgeSpeed (k : Nat) (s : State) : State :=
  let p := period s
  if 0 < p ∧ 2 * p < tMin (stallOf s k) then (stallProducts s k false).foldl (fun s q => voidStop q.num FaultCode.overspeed s) s else s

/-- The products of some channels, each once. -/
def ownersOf (ds : List Dot) : List Nat := (ds.filterMap (·.product)).eraseDups

/-- The lines of a boundary get no frame: they count as missed where they carry a code. -/
def dropLines (k : Nat) (lines : List Nat) (s : State) : State := modStall k (fun st => { st with missed := st.missed ++ lines }) s

/-- The frame of boundary F is fixed (R236, R237). -/
def buildFrame (k f : Nat) (s : State) : State :=
  let s := beginLoads k (switchBanks k f (moveWs k f s))
  let s := judgeSpeed k s
  let st := stallOf s k
  if st.absorbed = some f then modStall k (fun st => { st with absorbed := none, builtTo := f + 1 }) s else
  let a := frameDots s k f
  let live1 := liveSources s k f
  let live2 := liveSources s k (f + 1)
  let fold := folds s k f && !(live1.isEmpty && live2.isEmpty)
  let live := if fold then (live1 ++ live2).eraseDups else live1
  let s := modStall k (fun st => { st with builtTo := f + 1 }) s
  let s := if fold then modStall k (fun st => { st with absorbed := some (f + 1) }) s else s
  if live.isEmpty then s
  else if !st.permit || !laneUp s (usedLane s k) then settleFiring (dropLines k live s)
  else
    let ds := if fold then foldDots s a (frameDots s k (f + 1)) else a
    let s := if fold then countStall k 4 (notify Notice.lineFolded (put (f % 2 ^ 48) 16 + k) s) else s
    let lines := (sourcesOf s k f ++ sourcesOf s k (f + 1)).eraseDups
    let folded := if fold then
        (s.prod.queue.filter fun p => lines.any (within p.first p.stop) && (productStalls s p).contains k).map (·.num)
      else []
    let hot := (ds.filter fun d => bit st.hot (min 16 (d.chan / 1024))).map (·.chan)
    let t := lowerDots ds [] hot
    let s := if t.2.isEmpty then s else countStall k 7 s
    let d := dutyOf s k t.1 t.2
    let s := if d.reduced then countStall k 5 (notify Notice.dutyReduced (put (f % 2 ^ 48) 16 + k) s) else s
    let limited := ((if d.still then ownersOf d.dots else []) ++ ownersOf (ds.filter fun x => t.2.contains x.chan)).eraseDups
    let flags := folded.map (fun n => (n, 2)) ++ limited.map fun n => (n, 4)
    let s := if s.twn.bound then s else applyFlags flags s
    let s := if limited.isEmpty then s else countStall k 6 s
    let s := account k d.dots s
    let ep := epochOf s s.mil.placeEpochs s.mil.placeEpoch
    let words := stallWords (channelsOf s ep k) (fun c => ((d.dots.find? fun x => x.chan == c).map (·.code)).getD 0)
    let st := stallOf s k
    let pulse := match st.pulseDue, itemBody s (0x140 + k) with | true, some h => pulseWords h st.ti st.vi | _, _ => []
    let bank := if pulse.isEmpty then st.bank else !st.bank
    let dl := delaySection s k words.length (!pulse.isEmpty)
    let job := match recipeOf s (live.foldl min (live.headD 0)) with | some r => r.jobA | none => 0
    let fr : Frame := {
      line := f, fold := fold, job := job, bank := bank, pulse := pulse, delay := dl.1, rowBank := st.rowBank, words := words,
      sources := live, products := ownersOf d.dots, flags := flags }
    countStall k 0 (modStall k (fun st =>
      { st with
        bank := bank, pulseDue := st.pulseDue && pulse.isEmpty, frames := st.frames ++ [fr],
        loads := match dl.2 with | some l => mapWhere (fun x => x.row == l.row) (fun _ => l) st.loads | none => st.loads }) s)

/-! ### The words of a frame (R225 to R228) -/

/-- The bytes of a dose section: nine for each word, padded to a multiple of 8 (R227). -/
def doseBytes (ws : List (BitVec 72)) : List Byte :=
  let bs := ws.flatMap fun w => leBytes 9 w.toNat
  bs ++ List.replicate (8 * ceilDiv bs.length 8 - bs.length) 0

/-- Header, sections and CRC word of a frame under a sequence number (R225 to R228). -/
def frameWords (s : State) (k : Nat) (f : Frame) (seq : Nat) : List W64 :=
  let tag := ((itemHead s (0x100 + k)).map (·.toNat)).getD 0
  let head := [
    word (put seq 48 + f.line % 2 ^ 48),
    word (put f.delay.length 48 + put f.words.length 37 + put (flag (!f.pulse.isEmpty)) 36 + put (flag f.spit) 35 + put (flag f.fold) 34
      + put (flag f.bank) 33 + put s.twn.unit 32 + f.job),
    word f.rowBank, word (put k 32 + tag % 2 ^ 32)]
  let ws := head ++ f.pulse ++ f.delay ++ wordsOf (doseBytes f.words)
  ws ++ [word (crc32c (wordsBytes ws))]

/-- A frame is sent under the next number (R230). -/
def sendFrame (k : Nat) (f : Frame) (s : State) : State :=
  let q := (stallOf s k).seq
  let s := sendMessage k 1 (frameWords s k f) s
  modStall k (fun st => { st with
    frames := mapWhere (fun x => x.line == f.line && x.spit == f.spit) (fun x => { x with seq := some q, acked := false }) st.frames }) s

end Sys2Proof.Machine
end

