-- ==== Sys2Proof/Machine/StallCmds.lean ====
section
/-!
DEFINITION. The commands of the Stalls: STALL_CONFIG (R222, R223) and its time limit, DUTY_LIMITS (R247), FIRE_PERMIT (R263), ELEMENT_RETIRE (R181),
SPIT_CYCLE (R257), HEAD_STATUS (R264).
-/
namespace Sys2Proof.Machine

/-! ### STALL_CONFIG (R222, R223) -/

/-- The channels of two rows of one kind do not meet (R223). -/
def rowsApart : List GeomRow → Bool
  | [] => true
  | r :: rs => rs.all (fun q => !overlaps r.first (r.first + r.count) q.first (q.first + q.count)) && rowsApart rs

/-- The row list is valid: fields in range, its Stall, channels (R170, R223), offsets that some map can bring to W in [0, 511] with one row at 0 (R171). -/
def rowsOk (k : Nat) (act spare : List GeomRow) : Bool :=
  let rows := act ++ spare
  let spread := rows.all fun a => rows.all fun b => decide (a.along ≤ b.along + 56)
  rows.all (fun r => r.stall == k && decide (-127 ≤ r.along) && decide (r.along ≤ 639))
    && act.all (fun r => decide (r.first + r.count ≤ 16384))
    && spare.all (fun r => decide (r.first ≤ 1023) && decide (r.first + r.count ≤ 1024))
    && rowsApart act && rowsApart spare && spread && rows.any fun r => decide (r.along ≤ 128)

/-- The settings that STALL_CONFIG gives, with the duty limits kept (R222). -/
def stallCfgOf (c : Slot) (old : StallCfg) : StallCfg :=
  { old with
    fast := parB c 1 1, check := parF c 1 3 2, ogMask := parF c 1 7 4, ogFalling := parB c 1 8, rate := parF c 1 63 32,
    tReduce := signed (parF c 4 15 0) 16, tAbs := signed (parF c 4 31 16) 16, vppMin := parF c 4 47 32, vppMax := parF c 4 63 48,
    ogDelay := parF c 5 15 0, ogWidth := parF c 5 31 16 }

/-- The fields of STALL_CONFIG outside the row list are in range (R222). -/
def stallParamsOk (c : Slot) : Bool :=
  let n := parF c 1 21 16 + parF c 1 27 24
  decide (parF c 1 3 2 ≠ 3) && decide (1 ≤ parF c 1 21 16) && decide (parF c 1 21 16 ≤ 32) && decide (parF c 1 27 24 ≤ 8)
    && decide (1 ≤ parF c 1 63 32) && decide (parF c 1 63 32 ≤ 96000) && decide (parN c 3 = 16 * n)
    && (decide (parF c 1 3 2 ≠ 1) || decide (1 ≤ parF c 5 31 16))

/-- The channels of all enabled Stalls but one (R223). -/
def channelSum (s : State) (but : Nat) (f : Stall → List GeomRow) : Nat :=
  (((indexed s.stl).filter fun p => p.1 != but && p.2.enable).map fun p => ((f p.2).map (·.count)).sum).sum

/-- A Stall without work: what it holds of lines and frames is gone, its settings and its head station's reports stay. -/
def bareStall (st : Stall) : Stall :=
  { st with
    frames := [], buffer := [], missed := [], late := [], absorbed := none, tPrev := none, lineEnd := 0, spit := none, loads := [],
    fires := [], energy := [], noDrop := [], badRes := [], drives := [], missRun := 0 }

/-- A STALL_CONFIG that still waits on a Stall ends with LANE_DOWN. -/
def dropStallWait (k : Nat) (s : State) : State :=
  if (stallOf s k).waitCid = 0 then s
  else finish (stallOf s k).waitCid Status.laneDown 0 [] (modStall k (fun st => { st with waitCid := 0 }) s)

/-- The spare that covers a Stall returns to the rate hunt (R290). -/
def freeSpare (n : Nat) (s : State) : State :=
  match (laneOf s n).spare with
  | none => s
  | some k => modLane n (fun l => { l with spare := none }) (huntLane k (modLane k (fun l => { l with covers := none, farHead := none, farNode := none }) s))

/-- A Stall is unconfigured: its lane is held in electrical idle and FPn_N is released (R223, R282). -/
def disableStall (k : Nat) (s : State) : State :=
  let s := freeSpare k (dropStallWait k s)
  let s := modStall k (fun st => { bareStall st with enable := false, rows := [], spares := [], headId := none, identNew := false }) s
  settlePermits (releasePermit k (modLane k (fun l => { l with state := .idle, farHead := none }) s))

/-- A Stall is configured: its lane stays UP at its rate or begins its hunt, and the config message follows (R223, R224, R273). -/
def enableStall (c : Slot) (k : Nat) (act spare : List GeomRow) (s : State) : State :=
  let s := dropStallWait k s
  let cfg := stallCfgOf c (stallOf s k).cfg
  let s := if (stallOf s k).enable then s else granaryCount 3 0 s
  let s := mendConfig (fun h => match h with | .stall q _ => q.val == k | _ => false) s
  let keep := laneUp s (usedLane s k) && (stallOf s k).enable && cfg.fast == (stallOf s k).cfg.fast
  let s := modStall k (fun st => { bareStall st with enable := true, rows := act, spares := spare, cfg := cfg, waitCid := c.cid, waitAt := s.now }) s
  let s := modStall k (fun st => { st with ws := mapWs st ((epochOf s s.mil.placeEpochs s.mil.placeEpoch).body (0x100 + k)), builtTo := s.mot.line + 1 }) s
  if keep then settleStallConfig k (refreshPermit k (sendConfig k s))
  else
    let s := modStall k (fun st => { st with headId := none, identNew := false }) (freeSpare k s)
    let s := modLane k (fun l => { l with fast := cfg.fast, failing := false, alone := false, kept := false, lostAt := none }) s
    refreshPermit k (if lanePowered s k then huntLane k s else s)

/-- STALL_CONFIG with its row list read: the refusals of R223 in their order, or the new configuration. -/
def configStall (c : Slot) (k : Nat) (bs : List Byte) (s : State) : State :=
  let na := parF c 1 21 16
  match entries (geomEntry bs 0) (na + parF c 1 27 24) 0 with
  | none => refuse c Status.badGeometry s
  | some rows =>
    let act := rows.take na
    let spare := rows.drop na
    let cfg := stallCfgOf c {}
    let top := max ((act.map fun r => r.first + r.count).foldl max 0) ((spare.map fun r => 16384 + r.first + r.count).foldl max 0)
    if !rowsOk k act spare || decide (cfg.tAbs ≤ cfg.tReduce) || decide (cfg.vppMax ≤ cfg.vppMin) then refuse c Status.badGeometry s
    else if 262144 < channelSum s k (·.rows) + (act.map (·.count)).sum ∨ 16384 < channelSum s k (·.spares) + (spare.map (·.count)).sum then
      refuse c Status.elementLimit s
    else if !blocksFit cfg (frameBlocks (ceilDiv top 18) false 0) then refuse c Status.laneRateLow s
    else enableStall c k act spare s

/-- STALL_CONFIG (R222, R223). It waits for a run on the Stall's lane (R496). -/
def execStallConfig (t cid : Nat) (s : State) : Host.Outcome State Fault Refusal :=
  if laneRun (advance t s) ((parOf s cid 0).toNat % 32) then .next (advance t s)
  else onStart Op.stallConfig t cid (fun c s =>
    let k := parF c 0 4 0
    if 23 < k then refuse c Status.badParameter s
    else if stallNamed s k then refuse c Status.stallBusy s
    else if !parB c 1 0 then done c (disableStall k s)
    else if !stallParamsOk c then refuse c Status.badParameter s
    else withObject c (parN c 2) (parN c 3) (configStall c k) s) s

/-- STALL_CONFIG_LANE_TIMEOUT (R223): 200 ms without lane lock and IDENT. -/
def execStallConfigLaneTimeout (t : Nat) (st : Fin 24) (s : State) : Host.Outcome State Fault Refusal :=
  onEvent t (fun s =>
    let x := stallOf s st.val
    if x.waitCid != 0 && decide (x.waitAt + 200000000 ≤ s.now) then dropStallWait st.val s else s) s

/-! ### DUTY_LIMITS, FIRE_PERMIT, ELEMENT_RETIRE (R181, R247, R263) -/

/-- DUTY_LIMITS (R247): the accounts begin anew with the new buckets. -/
def execDutyLimits (t cid : Nat) (s : State) : Host.Outcome State Fault Refusal :=
  onStart Op.dutyLimits t cid (fun c s =>
    let k := parF c 0 4 0
    let ew := parF c 1 23 0
    let ep := parF c 1 39 32
    let hw := parF c 2 23 0
    let hp := parF c 2 39 32
    if 23 < k ∨ ew < 100 ∨ 10000 < ew ∨ ep < 1 ∨ 100 < ep ∨ hw < 1000 ∨ 1000000 < hw ∨ hp < 1 ∨ 100 < hp then refuse c Status.badParameter s
    else if stallNamed s k then refuse c Status.stallBusy s
    else done c (modStall k (fun st =>
      { st with cfg := { st.cfg with elemWindow := ew, elemPct := ep, headWindow := hw, headPct := hp }, fires := [], energy := [] }) s)) s

/-- The Stalls of a mask. -/
def maskStalls (m : Nat) : List Nat := (List.range 24).filter (bit m)

/-- FIRE_PERMIT (R263): a grant holds for the whole mask or is refused with the Stalls that fail; a withdrawal takes effect at the end of the line in progress. -/
def execFirePermit (t cid : Nat) (s : State) : Host.Outcome State Fault Refusal :=
  onStart Op.firePermit t cid (fun c s =>
    let ks := maskStalls (parN c 0)
    if parB c 1 0 then
      let bad := ks.filter fun k => !permitable s k
      if !bad.isEmpty then finish c.cid Status.permitDenied 0 [word ((bad.map fun k => 2 ^ k).sum)] s
      else
        done c (ks.foldl (fun s k => refreshPermit k (modStall k (fun st =>
          { st with granted := true, faultLat := false, identLat := false, overLat := false }) s)) s)
    else settlePermits (ks.foldl (fun s k => withdrawPermit k (modStall k (fun st => { st with granted := false }) s)) s)) s

/-- ELEMENT_RETIRE (R181). -/
def execElementRetire (t cid : Nat) (s : State) : Host.Outcome State Fault Refusal :=
  onStart Op.elementRetire t cid (fun c s =>
    if 23 < parN c 0 ∨ 17407 < parN c 1 then refuse c Status.badParameter s
    else done c (retireElement (parN c 0) (parN c 1) 1 s)) s

/-! ### SPIT_CYCLE (R257) -/

/-- The channels of a Stall in service, rising. -/
def serviceChannels (s : State) (k : Nat) : List Nat :=
  let st := stallOf s k
  let mine := s.mil.retired.filter fun r => r.stall == k
  let act := (List.range 16384).filter fun c => st.rows.any (fun g => within g.first (g.first + g.count) c) && !mine.any fun r => r.channel == c
  let sp := mine.filterMap (·.spare)
  act ++ (List.range 1024).filterMap fun i => if sp.contains (16384 + i) then some (16384 + i) else none

/-- A spit cycle that has ended on every Stall it names is answered with the channels checked and retired (R257). -/
def settleSpit (cid : Nat) (s : State) : State :=
  let mine := (elems s.stl).filterMap fun st => match st.spit with | some x => if x.cid = cid then some x else none | none => none
  if mine.all (·.ended) then
    let s : State := { s with stl := s.stl.map fun st =>
      match st.spit with | some x => if x.cid = cid then { st with spit := none } else st | none => st }
    finish cid Status.done 0 [word (mine.map (·.checked)).sum, word (mine.map (·.retired)).sum] s
  else s

/-- Whether this unit runs spit cycles: it is in no pair or holds the lead (R257, R390). -/
def runsSpit (s : State) : Bool := s.twn.role == .unbound || s.twn.role == .lead || s.twn.role == .solo

/-- SPIT_CYCLE (R257): the enabled Stalls of the mask begin the cycle; a unit that is not the lead sends no spit frame. -/
def execSpitCycle (t cid : Nat) (s : State) : Host.Outcome State Fault Refusal :=
  onStart Op.spitCycle t cid (fun c s =>
    let cls := parF c 1 3 0
    let n := parF c 1 15 8
    let ks := maskStalls (parN c 0)
    if cls = 0 ∨ n = 0 then refuse c Status.badParameter s
    else if ks.any fun k => (stallOf s k).spit.isSome then refuse c Status.stallBusy s
    else
      let begin_ (s : State) (k : Nat) : State :=
        if !(stallOf s k).enable || !runsSpit s then s else
        let todo := serviceChannels s k
        modStall k (fun st => { st with spit := some {
          cid := c.cid, cls := cls, check := parB c 1 4, fires := n, todo := todo, left := n, ended := todo.isEmpty } }) s
      settleSpit c.cid (ks.foldl begin_ s)) s

/-! ### HEAD_STATUS (R264) -/

/-- The latched causes of out5 [38:34]: the rows of R261 from the second on, in their order. -/
def latchedCauses (st : Stall) : Nat := flag st.faultLat + 4 * flag st.identLat + 8 * flag st.overLat

/-- The result words of HEAD_STATUS (R264). -/
def headStatusWords (s : State) (k : Nat) : List W64 :=
  let st := stallOf s k
  let mine := s.mil.retired.filter fun r => r.stall == k
  let temps := (List.range 5).map fun w =>
    word ((List.range 4).map fun i => if 4 * w + i < 17 then put (st.temps.getD (4 * w + i) 0x8000) (16 * i) else 0).sum
  temps ++ [
    word (put (latchedCauses st) 34 + put (flag st.permit) 33 + put (flag st.bank) 32 + put st.vi 24 + put st.ti 16 + st.vpp),
    word (put (min 65535 (s.mil.uncovered.filter fun e => e.1 == k).length) 32 + put (min 65535 (mine.filter fun r => r.spare.isSome).length) 16
      + min 65535 mine.length),
    word (stallLambda s k / 10)] ++ (elems st.counts).map word

/-- HEAD_STATUS (R264). -/
def execHeadStatus (t cid : Nat) (s : State) : Host.Outcome State Fault Refusal :=
  onStart Op.headStatus t cid (fun c s =>
    if 23 < parN c 0 then refuse c Status.badParameter s else answer c (headStatusWords s (parN c 0)) s) s

end Sys2Proof.Machine
end

