-- ==== Sys2Proof/Machine/StallEvents.lean ====
section
/-!
DEFINITION. What happens on a Stall: read-out (R235), frames and fire blocks (R237, R239), spit fires and drops (R257), the reports of the head station (R230 to
R233, R245, R254 to R259, R173), and the end of permits (R256, R262).
-/
namespace Sys2Proof.Machine

/-! ### Read-out (R235, R215) -/

/-- Whether a line's read falls due: the boundary L + W_min is at most 40 µs away (R235), and some row still needs the line. -/
def readDue (s : State) (k line : Nat) : Bool :=
  let w := wSpan s k
  stallNamed s k && decide (predict s (line + w.1) ≤ s.now + 40000) && decide (s.mot.line ≤ line + w.2)
    && !((stallOf s k).buffer.any fun b => b.1 == line) && !(stallOf s k).late.contains line

/-- A line that is not sealed when its read falls due is late: PRODUCT_LATE for each product whose window holds it, none for a line in no window (R26, R235). -/
def lateLine (k line : Nat) (s : State) : State :=
  let ps := (openAt s line).filter fun p => !bit p.flags 0 || p.target != 0
  if ps.isEmpty then s
  else
    let s := modStall k (fun st => { st with late := st.late ++ [line], missed := st.missed ++ [line] }) s
    settleFiring (ps.foldl (fun s p => voidStop p.num FaultCode.productLate s) s)

/-- STALL_READOUT (R235): the Stall reads its share of a sealed line, and once more when the digest check fails (R215). `read1` and `read2` say whether
each read passes the check. -/
def execStallReadout (t : Nat) (st : Fin 24) (line : Nat) (read1 read2 : Bool) (s : State) : Host.Outcome State Fault Refusal :=
  onEvent t (fun s =>
    let k := st.val
    if !readDue s k line then s else
    match lineSlot s line with
    | none => lateLine k line s
    | some l =>
      if !l.sealed then lateLine k line s else
      let ws := ((l.words.find? fun w => w.1 == k).map (·.2)).getD []
      if ws.isEmpty then s
      else if read1 || read2 then modStall k (fun x => { x with buffer := x.buffer ++ [(line, ws)] }) s
      else
        let s := modStall k (fun x => { x with late := x.late ++ [line], missed := x.missed ++ [line] }) s
        ((openAt s line).filter fun p => !bit p.flags 0 || p.target != 0).foldl (fun s p => voidFault p.num FaultCode.lineStoreDigest s) s) s

/-! ### Frames and fire blocks (R229, R237, R239) -/

/-- Whether this unit's role sends frames and fire blocks (R386). -/
def sends (s : State) : Bool := s.twn.role != .copying && s.twn.role != .isolated && s.twn.role != .yielded

/-- Whether a Stall may send now: its role, its permit and its lane (R16, R386). -/
def maySend (s : State) (k : Nat) : Bool := sends s && (stallOf s k).permit && laneUp s (usedLane s k)

/-- LINE_FRAME_SEND (R237, R239): the frame built first leaves once the previous fire block has been sent; one that R16 does not let leave is at its end. -/
def execLineFrameSend (t : Nat) (st : Fin 24) (s : State) : Host.Outcome State Fault Refusal :=
  onEvent t (fun s =>
    let x := stallOf s st.val
    match x.frames.find? (fun f => !f.spit && f.seq.isNone) with
    | none => s
    | some f =>
      if x.frames.any (fun g => !g.spit && decide (g.line < f.line) && g.firedAt.isNone) then s
      else if maySend s st.val then sendFrame st.val f s
      else endFrame st.val f.line false s) s

/-- The payload of a fire block (R229). -/
def fireWord (s : State) (line : Nat) : W64 := word (put s.twn.unit 48 + put (min (period s) 0xFFFFFFFF) 16 + line % 65536)

/-- FIRE_BLOCK_SEND (R239): the fire block of the earliest boundary reached leaves at t_F + 2,000 ns − λ. Without permit, lane or frame sent, the frame is at its end. -/
def execFireBlockSend (t : Nat) (st : Fin 24) (s : State) : Host.Outcome State Fault Refusal :=
  onEvent t (fun s =>
    let k := st.val
    match (stallOf s k).frames.find? (fun f => !f.spit && f.fireAt.isSome && f.firedAt.isNone) with
    | none => s
    | some f =>
      if 10 * s.now + stallLambda s k < 10 * (f.fireAt.getD 0 + 2000) then s
      else if !maySend s k || f.seq.isNone then endFrame k f.line false s
      else
        modStall k (fun x => { x with
          lineEnd := s.now + period s,
          frames := mapWhere (fun g => g.line == f.line && !g.spit) (fun g => { g with firedAt := some s.now }) x.frames })
          (emit (.head k 3 [fireWord s f.line]) s)) s

/-! ### Spit cycles (R257) -/

/-- The shortest distance of two spit fires (R257). -/
def spitGap (s : State) (st : Stall) : Nat :=
  max (ceilDiv 1000000000 (max 1 s.mot.cfg.pacerRate)) (max (tMin st) (100 * (st.cfg.ogDelay + st.cfg.ogWidth)))

/-- The cycle moves to its next channel, or ends. -/
def nextChannel (k : Nat) (s : State) : State :=
  match (stallOf s k).spit with
  | none => s
  | some x =>
    let rest := x.todo.drop 1
    let s := modStall k (fun st => { st with spit := some { x with todo := rest, left := x.fires, window := none, drop := false, ended := rest.isEmpty } }) s
    if rest.isEmpty then settleSpit x.cid s else s

/-- The `fine` value of a channel in the map in force. -/
def fineOf (s : State) (k chan : Nat) : Nat := mapFine ((epochOf s s.mil.placeEpochs s.mil.placeEpoch).body (0x100 + k)) chan

/-- The drop window of a channel fired now: from the arrival of the fire block plus its delay (R257). -/
def dropWindow (s : State) (k chan : Nat) : Nat × Nat × Nat :=
  let c := (stallOf s k).cfg
  let f := s.now + stallLambda s k / 10 + (2 * fineOf s k chan * period s + 64) / 128
  (f + 100 * c.ogDelay, f + 100 * (c.ogDelay + c.ogWidth), chan)

/-- SPIT_FIRE (R257): one spit frame with its fire block, while no product window of the Stall is open. -/
def execSpitFire (t : Nat) (st : Fin 24) (s : State) : Host.Outcome State Fault Refusal :=
  onEvent t (fun s =>
    let k := st.val
    let x := stallOf s k
    match x.spit with
    | none => s
    | some p =>
      let early := match p.last with | some m => decide (s.now < m + spitGap s x) | none => false
      let near := match x.tPrev with | some m => decide (s.now < m + tMin x) | none => false
      match p.todo with
      | [] => s
      | chan :: _ =>
        if p.ended || p.window.isSome || early || near || !(stallProducts s k false).isEmpty || !runsSpit s || !maySend s k then s
        else
          let ep := epochOf s s.mil.placeEpochs s.mil.placeEpoch
          let words := stallWords (channelsOf s ep k) (fun c => if c = chan then p.cls else 0)
          let fr : Frame := { line := x.spitN, spit := true, bank := x.bank, rowBank := x.rowBank, words := words, firedAt := some s.now }
          let s := sendFrame k fr (modStall k (fun st => { st with frames := st.frames ++ [fr], spitN := st.spitN + 1, tPrev := some s.now }) s)
          let s := account k [{ chan := chan, code := p.cls, source := 0, plane := 0, product := none, job := 0 }] s
          let s := countStall k 0 (emit (.head k 3 [fireWord s x.spitN]) s)
          let watch := decide (p.left = 1) && p.check && x.cfg.check == 1
          let s := modStall k (fun st =>
            { st with spit := some { p with left := p.left - 1, last := some s.now, drop := false, window := if watch then some (dropWindow s k chan) else none } }) s
          if p.left = 1 && !watch then nextChannel k s else s) s

/-- OG_EDGE (R257): an edge of the configured polarity on a watching input inside an open drop window is a drop. -/
def execOgEdge (t : Nat) (g : Fin 4) (rising : Bool) (s : State) : Host.Outcome State Fault Refusal :=
  onEvent t (fun s =>
    { s with stl := s.stl.map fun st =>
      match st.spit with
      | some p =>
        let seen := match p.window with | some w => within w.1 w.2.1 s.now | none => false
        if seen && bit st.cfg.ogMask g.val && rising != st.cfg.ogFalling then { st with spit := some { p with drop := true } } else st
      | none => st }) s

/-- SPIT_DROP_WINDOW_END (R257): no drop in two consecutive checks retires the channel. -/
def execSpitDropWindowEnd (t : Nat) (st : Fin 24) (s : State) : Host.Outcome State Fault Refusal :=
  onEvent t (fun s =>
    let k := st.val
    match (stallOf s k).spit with
    | none => s
    | some p =>
      match p.window with
      | none => s
      | some (_, e, chan) =>
        if s.now < e then s else
        let second := (stallOf s k).noDrop.contains chan
        let retire := !p.drop && second
        let s := modStall k (fun st =>
          { st with
            noDrop := if p.drop || second then st.noDrop.filter (· != chan) else st.noDrop ++ [chan],
            spit := some { p with checked := p.checked + 1, retired := p.retired + flag retire } }) s
        nextChannel k (if retire then retireElement k chan 3 s else s)) s

/-! ### ACK, NAK, FIRED (R230, R232) -/

/-- Whether a message of the head station is taken: the Stall is enabled and its lane UP (R273). -/
def hears (s : State) (k : Nat) : Bool := (stallOf s k).enable && laneUp s (usedLane s k)

/-- HEAD_ACK_RECEIVE (R230). -/
def execHeadAckReceive (t : Nat) (st : Fin 24) (seq : Nat) (s : State) : Host.Outcome State Fault Refusal :=
  onEvent t (fun s =>
    if !hears s st.val then s else
    modStall st.val (fun x => { x with
      lastAck := s.now, cfgSeq := if x.cfgSeq = some seq then none else x.cfgSeq,
      frames := mapWhere (fun f => f.seq == some seq) (fun f => { f with acked := true }) x.frames }) s) s

/-- The moment a frame's fire block reaches the head station, as known or predicted (R239, R251). -/
def arrivalOf (s : State) (k : Nat) (f : Frame) : Nat :=
  match f.fireAt with
  | some m => m + 2000
  | none => fireTime (stallOf s k) (predict s f.line + (if f.fold then period s / 2 else 0)) + 2000

/-- Whether a whole resend reaches the head station at least 1,000 ns before the frame's fire block (R230). -/
def resendFits (s : State) (k : Nat) (f : Frame) : Bool :=
  let blocks := frameBlocks f.words.length (!f.pulse.isEmpty) f.delay.length
  let time := blocks * (if (stallOf s k).cfg.fast then 256 else 640)
  decide (100 * s.now + time + 10 * stallLambda s k + 100000 ≤ 100 * arrivalOf s k f)

/-- HEAD_NAK_RECEIVE (R230). A reason changes nothing. -/
def execHeadNakReceive (t : Nat) (st : Fin 24) (seq _reason : Nat) (s : State) : Host.Outcome State Fault Refusal :=
  onEvent t (fun s =>
    let k := st.val
    if !hears s k then s else
    let s := countStall k 2 s
    if (stallOf s k).cfgSeq = some seq then countStall k 1 (sendConfig k s)
    else match (stallOf s k).frames.find? (fun f => f.seq == some seq && !f.acked && !f.spit && f.firedAt.isNone) with
      | none => s
      | some f => if resendFits s k f then countStall k 1 (sendFrame k f s) else s) s

/-- The unit whose copy fired is noted for its source lines in a pair (R394), newest first. -/
def noteFirer (lines : List Nat) (sender : Nat) (s : State) : State :=
  if s.twn.bound then { s with twn.firers := (lines.map (fun l => (l, sender)) ++ s.twn.firers).take 16384 } else s

/-- A frame that fired: its flags count when this unit's copy fired, and a standby sends them to the lead (R390). -/
def firedFrame (k : Nat) (f : Frame) (sender : Bool) (s : State) : State :=
  let own := decide (flag sender = s.twn.unit)
  let s := noteFirer f.sources (flag sender) s
  let s := if own && s.twn.bound then applyFlags f.flags s else s
  let s := if own && s.twn.role == .synced && !f.flags.isEmpty then
      uraraSend s.twn.peer 0x55 (word f.line :: f.flags.flatMap fun x => [word x.1, word x.2]) s
    else s
  endFrame k f.line true s

/-- HEAD_FIRED_RECEIVE (R232): the line counts as fired from either sender's copy, or as missed. -/
def execHeadFiredReceive (t : Nat) (st : Fin 24) (line16 : Nat) (sender missed : Bool) (s : State) : Host.Outcome State Fault Refusal :=
  onEvent t (fun s =>
    let k := st.val
    if !hears s k then s else
    let s := modStall k (fun x => { x with missRun := 0 }) s
    let x := stallOf s k
    match x.frames.find? (fun f => !f.spit && (f.firedAt.isSome || s.twn.bound) && f.line % 65536 == line16 % 65536) with
    | some f => if missed then missFrame k f s else firedFrame k f sender s
    | none =>
      match x.frames.find? (fun f => f.spit && f.line % 65536 == line16 % 65536) with
      | some f =>
        let s := modStall k (fun y => { y with frames := y.frames.filter fun g => !(g.spit && g.line == f.line) }) s
        if missed then countStall k 3 s else s
      | none =>
        match s.mot.bounds.find? (fun b => b.2 % 65536 == line16 % 65536) with
        | some b =>
          if missed || !s.twn.bound then s
          else
            let src := sourcesOf s k b.2
            settleFiring (noteFirer src (flag sender) (modStall k (fun y => { y with missed := y.missed.filter fun l => !src.contains l }) s))
        | none => s) s

/-- FIRED_TIMEOUT (R232): no FIRED within 10 µs of a fire block counts as missed; two in a row without an ACK for 10 µs make the lane failing (R284). -/
def execFiredTimeout (t : Nat) (st : Fin 24) (s : State) : Host.Outcome State Fault Refusal :=
  onEvent t (fun s =>
    let k := st.val
    match (stallOf s k).frames.find? (fun f => match f.firedAt with | some m => decide (m + 10000 ≤ s.now) | none => false) with
    | none => s
    | some f =>
      let s := modStall k (fun x => { x with missRun := x.missRun + 1 }) s
      let x := stallOf s k
      let s := if 2 ≤ x.missRun ∧ x.lastAck + 10000 ≤ s.now then failLane (usedLane s k) s else s
      if f.spit then countStall k 3 (modStall k (fun y => { y with frames := y.frames.filter fun g => !(g.spit && g.line == f.line) }) s)
      else missFrame k f s) s

/-! ### STATUS and ALARM (R233, R245, R254 to R256) -/

/-- The zones of some temperatures at or above a limit; 0x8000 means no sensor. -/
def zonesAt (limit : Int) (ts : List Nat) : Nat :=
  maskOf (ts.map fun t => t != 0x8000 && decide (limit ≤ signed t 16))

/-- HEAD_HOT for every zone whose state changes (R254). -/
def heatZones (k new : Nat) (s : State) : State :=
  let old := (stallOf s k).hot
  (List.range 17).foldl (fun s z =>
    if bit old z != bit new z then notify Notice.headHot (put (flag (bit new z)) 16 + put z 8 + k) s else s)
    (modStall k (fun st => { st with hot := new }) s)

/-- The supply is judged: out of range it withdraws the permit and is reported; back in range it is timed (R256). -/
def judgeVpp (k : Nat) (s : State) : State :=
  let st := stallOf s k
  if st.vpp < st.cfg.vppMin ∨ st.cfg.vppMax < st.vpp then
    let s := modStall k (fun st => { st with vppBad := true, vppSince := none }) s
    if st.vppBad then s else withdrawPermit k (raise FaultCode.vppRange k s)
  else if st.vppBad && st.vppSince.isNone then modStall k (fun st => { st with vppSince := some s.now }) s
  else s

/-- HEAD_STATUS_RECEIVE (R233, R245). -/
def execHeadStatusReceive (t : Nat) (st : Fin 24) (temps : List W64) (vpp : Nat) (s : State) : Host.Outcome State Fault Refusal :=
  onEvent t (fun s =>
    let k := st.val
    if !hears s k then s else
    let ts := (List.range 17).map fun z => fld (temps.getD (z / 4) 0) (16 * (z % 4) + 15) (16 * (z % 4))
    let cfg := (stallOf s k).cfg
    let hotter := zonesAt cfg.tAbs ts
    let s := modStall k (fun x => { x with temps := ts, vpp := vpp % 65536, zonesHot := hotter }) s
    let s := judgeVpp k (moveGrid k (heatZones k (zonesAt cfg.tReduce ts) s))
    if hotter ≠ 0 then headOvertemp k s else s) s

/-- VPP_RECOVER (R256): in range for 1 ms. -/
def execVppRecover (t : Nat) (st : Fin 24) (s : State) : Host.Outcome State Fault Refusal :=
  onEvent t (fun s =>
    let x := stallOf s st.val
    match x.vppSince with
    | some m =>
      if x.vppBad && decide (m + 1000000 ≤ s.now) then
        refreshPermit st.val (modStall st.val (fun y => { y with vppBad := false, vppSince := none }) s)
      else s
    | none => s) s

/-- A bit of a mask set or cleared. -/
def setBit (m i : Nat) (b : Bool) : Nat := if bit m i == b then m else m ^^^ 2 ^ i

/-- HEAD_ALARM_RECEIVE (R233, R254, R255). -/
def execHeadAlarmReceive (t : Nat) (st : Fin 24) (zone : Fin 17) (abs rising : Bool) (s : State) : Host.Outcome State Fault Refusal :=
  onEvent t (fun s =>
    let k := st.val
    if !hears s k then s
    else if !abs then heatZones k (setBit (stallOf s k).hot zone.val rising) s
    else
      let s := modStall k (fun x => { x with zonesHot := setBit x.zonesHot zone.val rising }) s
      if rising then headOvertemp k s else s) s

/-! ### RESIST, DRIVE, IDENT (R173, R258, R259) -/

/-- HEAD_RESIST_RECEIVE (R258): out of tolerance in two consecutive reports retires the channel. -/
def execHeadResistReceive (t : Nat) (st : Fin 24) (ch rMeas rRef : Nat) (s : State) : Host.Outcome State Fault Refusal :=
  onEvent t (fun s =>
    let k := st.val
    let x := stallOf s k
    if !hears s k || x.cfg.check != 2 || rRef == 0 then s
    else if 8 * rRef < 100 * ((rMeas : Int) - rRef).natAbs then
      if x.badRes.contains ch then retireElement k ch 2 (modStall k (fun y => { y with badRes := y.badRes.filter (· != ch) }) s)
      else modStall k (fun y => { y with badRes := y.badRes ++ [ch] }) s
    else modStall k (fun y => { y with badRes := y.badRes.filter (· != ch) }) s) s

/-- The line at or below L with some low 16 bits. -/
def fullLine (s : State) (line16 : Nat) : Nat := s.mot.line - (s.mot.line + 65536 - line16 % 65536) % 65536

/-- HEAD_DRIVE_RECEIVE (R259): reports on 3 distinct lines within 1,000,000 lines retire the channel. -/
def execHeadDriveReceive (t : Nat) (st : Fin 24) (ch line16 : Nat) (s : State) : Host.Outcome State Fault Refusal :=
  onEvent t (fun s =>
    let k := st.val
    if !hears s k then s else
    let line := fullLine s line16
    let ds := (stallOf s k).drives.filter fun d => decide (line < d.2 + 1000000) && d != (ch, line)
    let ds := ds ++ [(ch, line)]
    let s := modStall k (fun y => { y with drives := ds }) s
    if 3 ≤ (ds.filter fun d => d.1 == ch).length then retireElement k ch 4 s else s) s

/-- The work on a Stall that a changed head ends: its spit cycle without retirement (R265), its part of a target run (R195). -/
def endHeadWork (k : Nat) (s : State) : State :=
  let s := match (stallOf s k).spit with
    | some p => settleSpit p.cid (modStall k (fun st => { st with spit := some { p with ended := true, window := none } }) s)
    | none => s
  { s with mil.learn := s.mil.learn.map fun l => { l with ended := if l.ended.contains k then l.ended else l.ended ++ [k] } }

/-- A Stall's head station reports another identity (R173): its retirements and spares go, its work ends, the head station gets the current values, and
the next boundary judges the permit. -/
def changeHead (k : Nat) (h : W64) (s : State) : State :=
  let first := (stallOf s k).headId.isNone
  let s := modStall k (fun st => { st with headId := some h, identNew := true }) s
  let s := if itemHead s (0x100 + k) = some h then s
    else
      let s := keepEpochs s
      let had := s.mil.retired.any fun r => r.stall == k
      let s := { s with mil.retired := s.mil.retired.filter fun r => r.stall != k }
      if had then placementDue s else s
  if first then s else endHeadWork k (sendConfig k s)

/-- The Stall that a lane serves: its own number, or the one a spare covers. -/
def laneStall (s : State) (lane : Nat) : Option Nat :=
  if lane < 24 then some lane
  else match (laneOf s lane).covers with | some k => if k < 24 then some k else none | none => none

/-- HEAD_IDENT_RECEIVE (R173, R223, R285): a Stall learns its head station's identity; a spare learns its far end's. -/
def execHeadIdentReceive (t : Nat) (lane : Fin 36) (headId : W64) (s : State) : Host.Outcome State Fault Refusal :=
  onEvent t (fun s =>
    if !laneUp s lane.val || (within 24 34 lane.val) then s else
    let s := modLane lane.val (fun l => { l with farHead := some headId }) s
    match laneStall s lane.val with
    | none => (List.range 24).foldl (fun s k => if (stallOf s k).enable then refreshPermit k s else s) s
    | some k =>
      if !(stallOf s k).enable || usedLane s k != lane.val then s
      else
        let s := if (stallOf s k).headId = some headId then s else changeHead k headId s
        refreshPermit k (settleStallConfig k s)) s

/-! ### The end of a permit (R262) -/

/-- PERMIT_WITHDRAW_EFFECT (R262): a withdrawal that is due takes effect at the end of the line in progress. -/
def execPermitWithdrawEffect (t : Nat) (st : Fin 24) (s : State) : Host.Outcome State Fault Refusal :=
  onEvent t (fun s =>
    match (stallOf s st.val).withdraw with
    | none => s
    | some m => if s.now < m then s else settlePermits (releasePermit st.val s)) s

end Sys2Proof.Machine
end

