-- ==== Sys2Proof/Machine/LaneEvents.lean ====
section
/-!
DEFINITION. What happens on the serial lanes: bring-up and loss (R273 to R276, R283), probes (R277, R278), figure of merit and adaptation (R280, R281), failing
lanes, spares and moves (R284 to R287), the references (R268), LINK_STATUS and LOOPBACK (R288, R289).
-/
namespace Sys2Proof.Machine

/-! ### Entering and leaving UP (R273) -/

/-- Whether a lane carries Ethernet. -/
def isEthLane (n : Nat) : Bool := n == 32 || n == 33

/-- The Urara port of a lane. -/
def lanePort (n : Nat) : Nat := (n - 24) / 2

/-- Packets that wait on lane 24 + i are sent: the lowest class first, in a class the earliest first (R376). -/
def drainLink : Nat → Nat → State → State
  | 0, _, s => s
  | fuel + 1, i, s =>
    let l := linkOf s i
    match (List.range 4).findSome? (fun c => l.waiting.find? fun p => p.cls == c) with
    | none => s
    | some p =>
      if laneUp s (usedLane s (24 + i)) && decide (replayBytes l + 8 * (p.words.length + 3) ≤ 32768) then
        drainLink fuel i (transmit i p (modLink i (fun l => { l with waiting := l.waiting.erase p }) s))
      else s

/-- The moments at which ports went down follow the lanes (R378). -/
def notePorts (s : State) : State :=
  { s with ura.downAt := s.ura.downAt.mapIdx fun p d => if portUp s p then none else some (d.getD s.now) }

/-- A TOPOLOGY ends when every enabled port is UP and its neighbour is known (R372). -/
def settleTopology (s : State) : State :=
  let used := (List.range 4).filter (portUsed s)
  let known (p : Nat) : Bool := (laneOf s (24 + 2 * p)).farNode.isSome || (laneOf s (25 + 2 * p)).farNode.isSome
  if used.all fun p => portUp s p && known p then
    s.ura.topos.foldl (fun s w => finish w.1 Status.done 0 [word (used.map fun p => 2 ^ p).sum] s) { s with ura.topos := [] }
  else s

/-- What a lane in UP serves goes on: a Stall's lock, a Urara lane's packets, a spare's readiness. -/
def laneServes (n : Nat) (s : State) : State :=
  let s := notePorts s
  if n < 24 then (if usedLane s n = n then stallLocks n s else s)
  else if n < 32 then settleTopology (drainLink (linkOf s (n - 24)).waiting.length (n - 24) s)
  else s

/-- A lane enters UP (R273). -/
def enterUp (n : Nat) (s : State) : State :=
  laneServes n (modLane n (fun l => { l with state := .up, upSec := devSec s, kept := true, sentAt := s.now, asked := [], answers := [], lostAt := none }) s)

/-- A lane goes to PROBE, an Ethernet lane to UP (R273). -/
def enterProbe (n : Nat) (s : State) : State :=
  if isEthLane n then enterUp n s else modLane n (fun l => { l with state := .probe, sent := 0, asked := [], answers := [] }) s

/-- What a lane that is no longer UP served is told: a Stall's permit, the Urara ports. -/
def laneDown (n : Nat) (s : State) : State :=
  let s := notePorts s
  match laneStall s n with
  | some k => if usedLane s k = n then refreshPermit k s else s
  | none => (List.range 24).foldl (fun s k => if (stallOf s k).enable then refreshPermit k s else s) s

/-- LANE_SIGNAL_DETECT (R273, R282): an idle lane with a function begins its Wake burst; a hunting one has its t0 (R275). -/
def execLaneSignalDetect (t : Nat) (lane : Fin 36) (s : State) : Host.Outcome State Fault Refusal :=
  onEvent t (fun s =>
    if lanePowered s lane.val && laneWanted s lane.val && (laneOf s lane.val).state == .idle
    then emit (.lane lane.val 0x2D 0) (modLane lane.val (fun l => { l with state := .wake }) s) else s) s

/-- BLOCK_LOCK (R274, R276): ADAPT follows, or PROBE where lock returns within 100 µs with the adaptation values kept. -/
def execBlockLock (t : Nat) (lane : Fin 36) (s : State) : Host.Outcome State Fault Refusal :=
  onEvent t (fun s =>
    let n := lane.val
    let l := laneOf s n
    if !lanePowered s n || l.state != .hunt || !laneRefGood s n || l.loopCid != 0 then s else
    let quick := l.kept && match l.lostAt with | some m => decide (s.now ≤ m + 100000) | none => false
    let s := modLane n (fun l => { l with lockN := l.lockN + 1, lostAt := none }) s
    if quick then enterProbe n s else modLane n (fun l => { l with state := .adapt }) s) s

/-- ADAPT_DONE (R281). -/
def execAdaptDone (t : Nat) (lane : Fin 36) (fom ctle gain : Nat) (dfe : List Int) (s : State) : Host.Outcome State Fault Refusal :=
  onEvent t (fun s =>
    let n := lane.val
    if !lanePowered s n || (laneOf s n).state != .adapt then s
    else enterProbe n (modLane n (fun l =>
      { l with fom := min 1023 fom, fomLow := min l.fomLow (min 1023 fom), ctle := ctle % 16, gain := gain % 32, dfe := dfe.take 6, kept := true }) s)) s

/-- LANE_FAST_EXIT (R283): 32 valid headers bring the lane to UP with its kept λ; an invalid one sends it to HUNT. -/
def execLaneFastExit (t : Nat) (lane : Fin 36) (ok : Bool) (s : State) : Host.Outcome State Fault Refusal :=
  onEvent t (fun s =>
    if !lanePowered s lane.val || (laneOf s lane.val).state != .wake then s
    else if ok then enterUp lane.val s else huntLane lane.val s) s

/-! ### Probes (R277, R278) -/

/-- PROBE_SEND (R277): 16 in PROBE, at least 1 µs apart; one a second in UP. An unanswered probe breaks the run of 16 consecutive answers. -/
def execProbeSend (t : Nat) (lane : Fin 36) (s : State) : Host.Outcome State Fault Refusal :=
  onEvent t (fun s =>
    let n := lane.val
    let l := laneOf s n
    let due := (l.state == .probe && decide (l.sent < 16) && (decide (l.sent = 0) || decide (l.sentAt + 1000 ≤ s.now)))
      || (l.state == .up && decide (l.sentAt + 1000000000 ≤ s.now))
    if !lanePowered s n || isEthLane n || !due then s else
    let num := if l.state == .up then (l.sent + 1) % 65536 else l.sent
    emit (.lane n 0x4B num) (modLane n (fun l =>
      { l with
        sent := if l.state == .up then num else l.sent + 1, sentAt := s.now,
        answers := if l.state == .up && !l.asked.isEmpty then [] else l.answers,
        asked := if l.state == .up then [num] else l.asked ++ [num] }) s)) s

/-- PROBE_RECEIVE (R278): answered with an Echo that carries the turnaround. -/
def execProbeReceive (t : Nat) (lane : Fin 36) (num turn : Nat) (s : State) : Host.Outcome State Fault Refusal :=
  onEvent t (fun s =>
    let l := laneOf s lane.val
    if lanePowered s lane.val && !isEthLane lane.val && (l.state == .probe || l.state == .up) then
      emit (.lane lane.val 0x55 (put (turn % 2 ^ 24) 16 + num % 65536)) s
    else s) s

/-- λ of 16 answers: the mean round trip divided by 2, in units of 0.1 ns (R277). -/
def lambdaOf (answers : List Nat) : Nat := answers.sum / 32

/-- A measured λ is taken in UP; a change of more than 5 ns is reported (R277). -/
def takeLambda (n lam : Nat) (s : State) : State :=
  let old := (laneOf s n).lambda
  let s := modLane n (fun l => { l with lambda := lam, nextLam := none }) s
  if 50 < ((lam : Int) - old).natAbs then raise FaultCode.laneLatencyStep (put n 8) s else s

/-- PROBE_ECHO_RECEIVE (R277): 16 answers give λ. In PROBE the lane then enters UP, unless it is a Stall lane whose λ exceeds 1,700 ns; in UP a Stall lane
takes the new λ at the next line boundary. -/
def execProbeEchoReceive (t : Nat) (lane : Fin 36) (num roundTrip turn : Nat) (s : State) : Host.Outcome State Fault Refusal :=
  onEvent t (fun s =>
    let n := lane.val
    let l := laneOf s n
    if !lanePowered s n || !l.asked.contains num then s else
    let ans := l.answers ++ [roundTrip - turn]
    if ans.length < 16 then modLane n (fun l => { l with asked := l.asked.erase num, answers := ans }) s
    else
      let lam := lambdaOf ans
      let s := modLane n (fun l => { l with asked := l.asked.erase num, answers := [] }) s
      if l.state == .probe then
        if n < 24 ∧ 17000 < lam then raise FaultCode.laneLatency (put n 8) (modLane n (fun l => { l with sent := 0, asked := [] }) s)
        else enterUp n (modLane n (fun l => { l with lambda := lam }) s)
      else if l.state == .up then
        if n < 24 ∨ l.covers.any (· < 24) then modLane n (fun l => { l with nextLam := some lam }) s else takeLambda n lam s
      else s) s

/-! ### Moves of Urara lanes (R287) -/

/-- The content of a Move block (R270): the lane and the spare at the sender, the move number; a refusal has the spare bit clear. -/
def moveValue (lane : Nat) (spareBit : Bool) (num : Nat) : Nat := put (num % 256) 16 + put (flag spareBit) 14 + put lane 8

/-- The device sends a Move for a failing Urara lane with a ready spare, on both lanes of its port. -/
def startMove (n : Nat) (s : State) : State :=
  let p := lanePort n
  match readySpare s n with
  | none => s
  | some _ =>
    if s.lan.moving.any fun m => m.1 == p then s else
    let num := (if h : p < 4 then s.lan.moveN[p]'h else 0) + 1
    let v := moveValue n true num
    emits [.lane (24 + 2 * p) 0x66 v, .lane (25 + 2 * p) 0x66 v]
      { s with lan.moveN := s.lan.moveN.mapIdx fun i m => if i = p then num else m, lan.moving := s.lan.moving ++ [(p, n, num)] }

/-- Packets of a replay buffer not yet acknowledged are sent again from a link sequence on, in order; the port of one resent 3 times already goes down (R377). -/
def replayFrom (i lseq : Nat) (s : State) : State :=
  let l := linkOf s i
  let due := l.sent.filter fun e => decide ((e.1 + 65536 - lseq) % 65536 < 32768)
  if due.any fun e => decide (3 ≤ e.2.1) then
    let p := i / 2
    notePorts (huntLane (usedLane s (25 + 2 * p)) (huntLane (usedLane s (24 + 2 * p)) s))
  else
    let s := modLink i (fun l => { l with sent := l.sent.map fun e => if due.contains e then (e.1, e.2.1 + 1, e.2.2) else e, lastTx := s.now }) s
    emits (due.map fun e => Emit.packet (usedLane s (24 + i)) e.2.2.type (linkWords e.2.2 e.1 (ackOf s i))) s

/-- A Urara lane moves to its ready spare: the old lane hunts, what was not acknowledged is sent again on the spare (R287, R377). -/
def moveUrara (n : Nat) (s : State) : State :=
  match readySpare s n with
  | none => s
  | some k =>
    let s := modLane k (fun l => { l with covers := some n }) (huntLane n (useSpareLane k s))
    let s := notify Notice.laneMoved (put k 8 + n) (modLane n (fun l => { l with spare := some k, failing := false, alone := true }) s)
    let s := { s with lan.moving := s.lan.moving.filter fun m => m.2.1 != n }
    let low := ((linkOf s (n - 24)).sent.head?.map (·.1)).getD 0
    notePorts (replayFrom (n - 24) low s)

/-- MOVE_BLOCK_RECEIVE (R287): a Move with the number this end has sent completes the move; one that names a lane with a ready spare here is answered in kind and
completes it; any other is answered with the spare bit clear. A refusal leaves the lane in use. -/
def execMoveBlockReceive (t : Nat) (lane : Fin 36) (failing : Fin 36) (_spare : Fin 2) (spareBit : Bool) (num : Nat) (s : State) :
    Host.Outcome State Fault Refusal :=
  onEvent t (fun s =>
    if !(within 24 32 lane.val) || !lanePowered s lane.val then s else
    let p := lanePort lane.val
    let mine := s.lan.moving.find? fun m => m.1 == p
    if !spareBit then { s with lan.moving := s.lan.moving.filter fun m => m.1 != p }
    else match mine with
      | some m => if m.2.2 % 256 = num % 256 then moveUrara m.2.1 s else s
      | none =>
        match [24 + 2 * p, 25 + 2 * p].find? fun n => (laneOf s n).farNode.any fun f => f.2.2 == failing.val with
        | some n =>
          if (readySpare s n).isSome then
            let s := { s with lan.moveN := s.lan.moveN.mapIdx fun i m => if i = p then num else m }
            moveUrara n (emit (.lane lane.val 0x66 (moveValue n true num)) s)
          else emit (.lane lane.val 0x66 (moveValue n false num)) s
        | none => emit (.lane lane.val 0x66 (moveValue failing.val false num)) s) s

/-! ### Loss of lock and failing lanes (R274, R276, R284) -/

/-- A lane that is failing acts on it: a Urara lane asks for a move. -/
def judgeFailing (n : Nat) (s : State) : State :=
  if isEthLane n then s
  else
    let s := failLane n s
    if within 24 32 n then startMove n s else s

/-- LOSS_OF_LOCK (R274, R276, R284): back to HUNT with the adaptation values kept; three losses within 10 s make the lane failing. -/
def execLossOfLock (t : Nat) (lane : Fin 36) (hdrs : Nat) (s : State) : Host.Outcome State Fault Refusal :=
  onEvent t (fun s =>
    let n := lane.val
    let l := laneOf s n
    if !lanePowered s n || !(l.state == .adapt || l.state == .probe || l.state == .up) then s else
    let ls := recent s 10000000000 l.lossAt ++ [s.now]
    let s := modLane n (fun l =>
      { l with lossN := l.lossN + 1, badHdrs := l.badHdrs + hdrs, lostAt := some s.now, lossAt := ls }) s
    let s := huntLane n s
    let s := if 3 ≤ ls.length then judgeFailing n s else s
    laneDown n s) s

/-- RELOCK_TIMEOUT (R276, R284): block lock has not returned within 100 µs; the lane is failing and goes through ADAPT. -/
def execRelockTimeout (t : Nat) (lane : Fin 36) (s : State) : Host.Outcome State Fault Refusal :=
  onEvent t (fun s =>
    let n := lane.val
    let l := laneOf s n
    match l.lostAt with
    | some m =>
      if lanePowered s n && l.state == .hunt && decide (m + 100000 ≤ s.now) then
        laneDown n (judgeFailing n (modLane n (fun l => { l with kept := false, lostAt := none }) s))
      else s
    | none => s) s

/-! ### Figure of merit (R280, R281, R284) -/

/-- Whether two settings differ by one step of one setting (R281). -/
def oneStep (l : Lane) (x : EqTrial) : Bool :=
  let d (a b : Int) : Nat := (a - b).natAbs
  let taps := ((l.dfe.zip x.dfe).map fun p => d p.1 p.2).sum
  decide (x.dfe.length = l.dfe.length) && decide (d l.ctle x.ctle + d l.gain x.gain + taps = 1)

/-- FOM_SWEEP (R280, R281, R284): `fom` and the invalid headers since the last sweep; a trial one step away is taken when `fom` is at least 2 mV higher. -/
def execFomSweep (t : Nat) (lane : Fin 36) (fom hdrs : Nat) (trial : Option EqTrial) (s : State) : Host.Outcome State Fault Refusal :=
  onEvent t (fun s =>
    let n := lane.val
    let l := laneOf s n
    if !lanePowered s n || l.state == .idle || l.state == .hunt then s else
    let f := min 1023 fom
    let hs := (l.hdrAt.filter fun h => decide (s.now < h.1 + 1000000000)) ++ (if hdrs = 0 then [] else [(s.now, hdrs)])
    let l := { l with
      fom := f, fomLow := min l.fomLow f, badHdrs := l.badHdrs + hdrs, hdrAt := hs,
      lowFrom := if f < 15 then some (l.lowFrom.getD s.now) else none,
      margFrom := if f < 30 then some (l.margFrom.getD s.now) else none,
      marginal := l.marginal && decide (f < 30) }
    let l := match trial with
      | some x => if l.state == .up && oneStep l x && decide (f + 2 ≤ x.fom) then { l with ctle := x.ctle, gain := x.gain, dfe := x.dfe } else l
      | none => l
    let s := modLane n (fun _ => l) s
    if isEthLane n then s else
    let bad := (match l.lowFrom with | some m => decide (m + 1000000 ≤ s.now) | none => false) || decide (1000 ≤ (hs.map (·.2)).sum)
    let marg := !l.marginal && (match l.margFrom with | some m => decide (m + 10000000 ≤ s.now) | none => false)
    let s := if marg then notify Notice.laneMarginal (put f 16 + n) (modLane n (fun l => { l with marginal := true }) s) else s
    if bad && !l.failing then judgeFailing n s else s) s

/-! ### Spares and references (R268, R285) -/

/-- SPARE_RATE_HUNT_SWITCH (R285): a spare that covers no lane and is not UP hunts at the other rate after 2 ms. -/
def execSpareRateHuntSwitch (t : Nat) (lane : Fin 36) (s : State) : Host.Outcome State Fault Refusal :=
  onEvent t (fun s =>
    let n := lane.val
    let l := laneOf s n
    if n < 34 || !lanePowered s n || l.covers.isSome || l.out || l.state == .up || decide (s.now < l.huntAt + 2000000) then s
    else huntLane n (modLane n (fun l => { l with fast := !l.fast, kept := false }) s)) s

/-- The lanes on a reference move to the other one and hunt again with their adaptation values kept (R268). -/
def moveQuads (ref : Bool) (to_ : Bool) (s : State) : State :=
  (List.range 36).foldl (fun s n =>
    let l := laneOf s n
    if l.ser1 != ref then s
    else
      let s := modLane n (fun l => { l with ser1 := to_ }) s
      if l.state == .idle || !lanePowered s n then s
      else laneDown n (huntLane n (modLane n (fun l => { l with lostAt := some s.now }) s))) s

/-- REFCLK_SER_FAIL (R268). -/
def execRefclkSerFail (t : Nat) (ref : Fin 2) (s : State) : Host.Outcome State Fault Refusal :=
  onEvent t (fun s =>
    if s.lan.failed[ref] then s else
    let s := { s with lan.failed := s.lan.failed.set ref true }
    let r := decide (ref.val = 1)
    if (elems s.lan.failed).all id then raise FaultCode.refclkLost 0 (moveQuads true true (moveQuads false false s))
    else raise FaultCode.refclkFail 0 (moveQuads r (!r) s)) s

/-- REFCLK_SER_RECOVER (R268): the reference counts as good again; quads left on the other, failed one move to it. -/
def execRefclkSerRecover (t : Nat) (ref : Fin 2) (s : State) : Host.Outcome State Fault Refusal :=
  onEvent t (fun s =>
    if !s.lan.failed[ref] then s else
    let both := (elems s.lan.failed).all id
    let s := { s with lan.failed := s.lan.failed.set ref false }
    let r := decide (ref.val = 1)
    if both then moveQuads (!r) r s else s) s

/-! ### LINK_STATUS and LOOPBACK (R288, R289) -/

/-- The state code of a lane (R288). -/
def laneCode (s : State) (n : Nat) : Nat :=
  if !lanePowered s n then 7 else
  match (laneOf s n).state with
  | .idle => 0 | .wake => 1 | .hunt => 2 | .adapt => 3 | .probe => 4 | .up => 5

/-- The result words of LINK_STATUS (R288). -/
def linkStatusWords (s : State) (n : Nat) : List W64 :=
  let l := laneOf s n
  let other := if 34 ≤ n then l.covers.getD 0x3F else l.spare.getD 0
  let taps := ((l.dfe.take 6).zipIdx.map fun p => put (unsigned p.1 8) (16 + 8 * p.2)).sum
  [word (put other 8 + put (flag l.marginal) 5 + put (flag l.ser1) 4 + put (flag l.fast) 3 + laneCode s n),
   word (put l.fomLow 16 + l.fom), word (taps + put l.gain 8 + l.ctle), word (put (l.lossN % 2 ^ 32) 32 + l.lockN % 2 ^ 32), word l.badHdrs,
   word (put (l.errMsgs % 2 ^ 32) 32 + l.unknown % 2 ^ 32), word (if isEthLane n then 0 else l.lambda), word l.upSec]

/-- LINK_STATUS (R288): the lowest `fom` is counted anew from here. -/
def execLinkStatus (t cid : Nat) (s : State) : Host.Outcome State Fault Refusal :=
  onStart Op.linkStatus t cid (fun c s =>
    let n := parN c 0
    if 35 < n then refuse c Status.badParameter s
    else answer c (linkStatusWords s n) (modLane n (fun l => { l with fomLow := l.fom }) s)) s

/-- Whether a lane has a function in use (R289). -/
def laneBusy (s : State) (n : Nat) : Bool :=
  let l := laneOf s n
  l.loopCid != 0 || (if 34 ≤ n then l.covers.isSome else laneWanted s n)

/-- LOOPBACK (R289). -/
def execLoopback (t cid : Nat) (s : State) : Host.Outcome State Fault Refusal :=
  onStart Op.loopback t cid (fun c s =>
    let n := parN c 0
    let mode := parF c 1 3 0
    if 35 < n ∨ mode < 1 ∨ 3 < mode ∨ parF c 1 31 16 = 0 then refuse c Status.badParameter s
    else if laneBusy s n then refuse c Status.laneBusy s
    else laneDown n (modLane n (fun l => { l with state := .hunt, loopCid := c.cid, huntAt := s.now }) s)) s

/-- LOOPBACK_END (R289): the duration has passed; the counts are returned and the lane returns to HUNT. -/
def execLoopbackEnd (t : Nat) (lane : Fin 36) (bits errs hdrs fom : Nat) (s : State) : Host.Outcome State Fault Refusal :=
  onEvent t (fun s =>
    let n := lane.val
    let l := laneOf s n
    match running Op.loopback l.loopCid s with
    | none => s
    | some c =>
      if s.now < l.huntAt + parF c 1 31 16 * 1000000 then s
      else answer c [word bits, word errs, word hdrs, word (min 1023 fom)]
        (huntLane n (modLane n (fun l => { l with loopCid := 0, badHdrs := l.badHdrs + hdrs }) s))) s

end Sys2Proof.Machine
end

