-- ==== Sys2Proof/Machine/Epochs.lean ====
section
/-!
DEFINITION. The commits of calibration and placement epochs (R159, R185 to R187, R242, R391) and the matching of spares to retired elements (R182).
-/
namespace Sys2Proof.Machine

/-- The first line of an epoch: the lowest line not yet dispatched, or F_e in a pair once it is fixed (R159, R391). -/
def epochLine (s : State) (placement : Bool) : Option Nat :=
  if pairedEpochs s then
    match s.twn.epoch with
    | some e => if e.placement == placement then e.line else none
    | none => none
  else some s.mil.nextLine

/-- The epoch of a pair is over once it is committed; the lead proposes the next one that is due (R391). -/
def closeTwinEpoch (line : Nat) (s : State) : State :=
  if pairedEpochs s then proposeIfDue { s with twn.epoch := none, twn.lastFe := line } else s

/-- CAL_EPOCH_COMMIT (R159). -/
def execCalEpochCommit (t : Nat) (s : State) : Host.Outcome State Fault Refusal :=
  onEvent t (fun s =>
    match epochLine s false with
    | none => s
    | some f =>
      if s.mil.calPend.isEmpty then s else
      let cur := epochOf s s.mil.calEpochs s.mil.calEpoch
      let e : Epoch := { num := s.mil.calEpoch + 1, first := f, items := mergeItems cur.items s.mil.calPend }
      closeTwinEpoch f { s with mil.calEpoch := e.num, mil.calEpochs := e :: s.mil.calEpochs, mil.calPend := [] }) s

/-- The spare that may replace a retired element: on its Stall, in a spare row of its plane, not retired and not in service, within
`match_tol`, the nearest, the lower channel at equal distance (R182). -/
def matchSpare (s : State) (ep : Epoch) (stall chan : Nat) : Option Nat :=
  let plane := (List.range 8).find? fun p => (planeElems s ep p false).any fun e => e.stall == stall && e.chan == chan
  match plane with
  | none => none
  | some p =>
    match (planeElems s ep p false).find? (fun e => e.stall == stall && e.chan == chan) with
    | none => none
    | some e =>
      let tol := fld (bodyWord (ep.body (0x100 + stall)) 0) 39 32
      let cands := (planeElems s ep p true).filter fun x =>
        x.stall == stall && !isRetired ep stall x.chan && !(ep.retired.any fun r => r.stall == stall && r.spare == some x.chan)
          && decide ((x.u - e.u).natAbs ≤ tol)
      (nearest e.u cands).map (·.chan)

/-- Every retired element without a spare is matched, in order (R182, R187). -/
def matchSpares (s : State) : List Retired → Epoch → Epoch
  | [], ep => ep
  | r :: rs, ep =>
    if r.spare.isSome || decide (16384 ≤ r.channel) then matchSpares s rs ep
    else
      let sp := matchSpare s ep r.stall r.channel
      matchSpares s rs { ep with retired := ep.retired.map fun x => if x.stall = r.stall ∧ x.channel = r.channel then { x with spare := sp } else x }

/-- The placement epochs that a kept recipe names, or that are current (R186). -/
def namedEpochs (s : State) : List Epoch :=
  s.mil.placeEpochs.filter fun e => e.num == s.mil.placeEpoch || s.mil.recipes.any (fun r => r.placeEpoch == e.num)

/-- Whether an active job names a Stall. -/
def stallInJob (s : State) (k : Nat) : Bool := (activeJobs s).any fun j => (jobStalls j.desc).contains k

/-- The Stalls whose changed rows are loaded bank by bank: enabled ones of an active job (R242). -/
def bankedStalls (s : State) : List Nat := (List.range 24).filter fun k => (stallOf s k).enable && stallInJob s k

/-- What a committed epoch does to the Stalls: the loaded banks come into force with the first line of the epoch; a Stall without a job takes the new values
from the config message (R242). -/
def commitBanks (f : Nat) (s : State) : State :=
  (List.range 24).foldl (fun s k =>
    if (bankedStalls s).contains k then
      modStall k (fun st => { st with loads := st.loads.map fun l => if l.start.isNone && l.sent == l.fines.length then { l with start := some f } else l }) s
    else if (stallOf s k).enable && laneUp s (usedLane s k) then sendConfig k s
    else s) s

/-- The live corrections that a placement epoch brings into force are reported with its number (R194). -/
def reportTracked (num : Nat) (s : State) : State :=
  let due (x : Nat × Nat) : Bool := s.mil.placePend.any fun i => i.1 == 0x100 + x.1
  let s := (s.mil.tracked.filter due).foldl (fun s x => notify Notice.placementTracked (put num 32 + put x.2 5 + x.1) s) s
  { s with mil.tracked := s.mil.tracked.filter fun x => !due x }

/-- PLACEMENT_EPOCH_COMMIT (R186, R187, R242): learned values, then retirements, then spare matching, as one epoch once a slot is free and every changed
row is loaded. -/
def execPlacementEpochCommit (t : Nat) (s : State) : Host.Outcome State Fault Refusal :=
  onEvent t (fun s =>
    match epochLine s true with
    | none => s
    | some f =>
      let kept := namedEpochs s
      if !s.mil.placeDue ∨ 16 ≤ kept.length ∨ !(bankedStalls s).all (banksLoaded s) then s else
      let cur := epochOf s s.mil.placeEpochs s.mil.placeEpoch
      let e : Epoch := { num := s.mil.placeEpoch + 1, first := f, items := mergeItems cur.items s.mil.placePend, retired := s.mil.retired }
      let e := matchSpares s e.retired e
      let old := s.mil.retired
      let s := reportTracked e.num s
      let s := commitBanks f { s with
        mil.placeEpoch := e.num, mil.placeEpochs := e :: kept, mil.placePend := [], mil.placeDue := false, mil.retired := e.retired,
        mil.uncovered := [] }
      closeTwinEpoch f ((List.range 24).foldl (fun s k => useSpareElems k (sparesUsed old k) s) s)) s

end Sys2Proof.Machine
end

