-- ==== Sys2Proof/Machine/Cal.lean ====
section
/-!
DEFINITION. Calibration items: their lengths and validity rules (R157, R158, R172, R175, R244, R463, R491, R492), stored records (R488), a calibration write and
what it does once it is in force (R489, R490), and the rows CAL_READ, CAL_WRITE, PULSE_TABLE_LOAD and CAL_STAGING_COMMIT.
-/
namespace Sys2Proof.Machine

/-! ### Items (R491) -/

/-- The items in rising number (R491). -/
def calItems : List Nat :=
  List.range 64 ++ (List.range 24).map (0x100 + ·) ++ (List.range 8).map (0x120 + ·) ++ (List.range 24).map (0x140 + ·)
    ++ [0x160, 0x161, 0x180, 0x181, 0x182, 0x183, 0x184]

/-- The words of a DDR item body by its own header (R463). -/
def ddrWords (body : List Byte) : Nat :=
  let w := bodyWord body 0
  1 + 72 * ((List.range 7).filter fun r => fbit w (32 + r)).length * fld w 41 40

/-- The words of an item's body (R491); those of a DDR item follow from its header. -/
def itemWords (item : Nat) (body : List Byte) : Nat :=
  if item < 0x40 then 66 else if item < 0x118 then 4394 else if item < 0x128 then 145 else if item < 0x158 then 274
  else if item < 0x162 then ddrWords body
  else match item with | 0x180 => 109 | 0x181 => 79 | 0x182 => 25 | 0x183 => 13 | _ => 25

/-- Whether a list of numbers never falls. -/
def neverFalls : List Nat → Bool
  | a :: b :: rest => decide (a ≤ b) && neverFalls (b :: rest)
  | _ => true

/-- R158. -/
def densityOk (body : List Byte) : Bool :=
  density body 0 == 0 && neverFalls ((List.range 256).map (density body)) && foldClass body 0 == 0
    && ((List.range 16).all fun c => decide (c ≤ foldClass body c)) && neverFalls ((List.range 16).map (foldClass body))

/-- The ranges of R172. -/
def mapOk (stall : Nat) (body : List Byte) : Bool :=
  let w := bodyWord body 0
  fld w 4 0 == stall && fld w 15 8 == 1 && decide (fld w 39 32 ≤ 32) && decide (1 ≤ fld w 55 40) && decide (fld w 55 40 ≤ 512)

/-- Coefficient k of kernel phase f (R174). -/
def kernelAt (body : List Byte) (f k : Nat) : Int := signed (fld (bodyWord body (1 + f)) (16 * k + 15) (16 * k)) 16

/-- Boost entry B[x][y] (R174). -/
def boostEntry (body : List Byte) (x y : Nat) : Nat := fld (bodyWord body (65 + x)) (4 * y + 3) (4 * y)

/-- Whether a row of a Stall exists and prints a plane. -/
def rowOfPlane (s : State) (plane stall row : Nat) : Bool :=
  decide (stall < 24) && (allRows (stallOf s stall)).any fun r => r.1 == row && r.2.plane == plane

/-- R175. -/
def planeOk (s : State) (plane : Nat) (body : List Byte) : Bool :=
  let ks := List.range 4
  let xs := List.range 16
  ((List.range 64).all fun f =>
      (ks.all fun k => decide (-128 ≤ kernelAt body f k) && decide (kernelAt body f k ≤ 256)) && (ks.map (kernelAt body f)).sum == 256)
    && kernelAt body 0 0 == 0 && kernelAt body 0 1 == 256 && kernelAt body 0 2 == 0 && kernelAt body 0 3 == 0
    && (xs.all fun y => boostEntry body 0 y == y)
    && (xs.all fun x => (xs.all fun y => decide (y ≤ boostEntry body x y)) && neverFalls (xs.map (boostEntry body x)))
    && (xs.all fun y => neverFalls (xs.map fun x => boostEntry body x y))
    && decide (fld (bodyWord body 0) 36 32 ≤ 16)
    && ((List.range (fld (bodyWord body 0) 36 32)).all fun n =>
      let w := bodyWord body (113 + 2 * n)
      rowOfPlane s plane (fld w 4 0) (fld w 9 5) && rowOfPlane s plane (fld w 14 10) (fld w 19 15))

/-- R244. -/
def headItemOk (body : List Byte) : Bool :=
  let cs := (List.range 15).map (· + 1)
  let w0 := bodyWord body 0
  (cs.all fun c => fld (bodyWord body (2 + c)) 29 20 != 0)
    && neverFalls (cs.map fun c => fld (bodyWord body (2 + c)) 39 32)
    && ((List.range (fld w0 43 40 + 1)).all fun ti => (List.range (fld w0 48 44 + 1)).all fun vi =>
      let g := 32 * ti + vi
      let w := bodyWord body (18 + g / 2)
      fld w (32 * (g % 2) + 15) (32 * (g % 2)) != 0 && fld w (32 * (g % 2) + 31) (32 * (g % 2) + 16) != 0)

/-- The ranges of R492. -/
def siliconOk (item : Nat) (body : List Byte) : Bool :=
  match item with
  | 0x180 => (List.range 36).all fun l =>
      let a := bodyWord body (1 + 3 * l)
      let b := bodyWord body (2 + 3 * l)
      decide (fld a 5 0 ≤ 47) && decide (fld a 13 8 ≤ 47) && decide (fld b 39 32 ≤ 63) && decide (fld b 47 40 ≤ 63)
  | 0x183 => (List.range 12).all fun k => decide (fld (bodyWord body (1 + k)) 2 0 ≤ 3)
  | _ => true

/-- Whether a body meets its item's validity rule (R489). -/
def bodyOk (s : State) (item : Nat) (body : List Byte) : Bool :=
  if item < 0x40 then densityOk body
  else if item < 0x118 then mapOk (item - 0x100) body
  else if item < 0x128 then planeOk s (item - 0x120) body
  else if item < 0x158 then headItemOk body
  else siliconOk item body

/-! ### Records (R488) -/

/-- A stored record: header and body. -/
def calRecord (x : CalItem) : List Byte :=
  let ws := [word (put (x.body.length / 8) 32 + put 1 16 + x.item), word (put x.quality 32 + crc32c x.body),
             word (put (x.written % 2 ^ 32) 32 + x.origin)]
  wordsBytes (ws ++ [word (crc32c (wordsBytes ws))]) ++ x.body

/-- The stored record of an item; for one that holds none, zeros of its length. -/
def storedRecord (s : State) (item : Nat) : List Byte :=
  match s.led.items.find? fun x => x.item == item with
  | some x => calRecord x
  | none => List.replicate (32 + 8 * itemWords item []) 0

/-- The new record that a supplied one asks for, when it is in order (R489). -/
def suppliedItem (s : State) (item : Nat) (bs : List Byte) : Option CalItem :=
  let w0 := word (leAt bs 0 8)
  let w1 := word (leAt bs 8 8)
  let body := (bs.drop 32).take (8 * fld w0 63 32)
  if fld w0 15 0 == item && body.length == 8 * fld w0 63 32 && fld w0 63 32 == itemWords item body
      && crc32c body == fld w1 31 0 && bodyOk s item body then
    some { item := item, body := body, quality := fld w1 47 32, origin := 2 }
  else none

/-! ### Writes (R490) -/

/-- Whether a run or a write of an item is in progress. -/
def calBusy (s : State) (item : Nat) : Bool :=
  (s.led.runs.any fun r => r.item == item || (0x160 ≤ item && item < 0x162 && r.item == 0x160)) || s.led.staging.any fun w => w.new.item == item

/-- The calibration write at the front goes to the staging area (R490 step 1). -/
def startStaging (s : State) : State :=
  match s.led.staging with
  | w :: _ => { s with led.writes := s.led.writes ++ [.cal w.new.item] }
  | [] => s

/-- A calibration write is asked for; one at a time is in progress (R490). -/
def putCal (x : CalItem) (cid : Nat) (results : List W64) (s : State) : State :=
  let first := s.led.staging.isEmpty
  let s := { s with led.staging := s.led.staging ++ [{ new := x, cid := cid, results := results }] }
  if first then startStaging s else s

/-- The record of an item replaced. -/
def storeItem (x : CalItem) (s : State) : State :=
  { s with led.items := (s.led.items.filter fun y => y.item != x.item) ++ [x] }

/-- The identity that a written map or head item carries against the one reported: a mismatch is judged at the next boundary, a match may bring the
permit back (R173, R244, R261). -/
def judgeHead (k : Nat) (s : State) : State :=
  if (stallOf s k).headId.isNone then s
  else if identOk s k then refreshPermit k s
  else modStall k (fun st => { st with identNew := true }) s

/-- What a stored item does from now on (R159, R185, R246, R391, R491). `loaded` says that PULSE_TABLE_LOAD wrote it (R224), `fromPeer` that the
lead's proposal carries it. -/
def itemEffect (item : Nat) (body : List Byte) (loaded fromPeer : Bool) (s : State) : State :=
  let tell (placement : Bool) (s : State) : State := if fromPeer then s else tellLead [(item, body)] placement s
  if item < 0x40 then tell false (densityItem item body s)
  else if item < 0x118 then judgeHead (item - 0x100) (tell true (placementItem item body s))
  else if item < 0x128 then tell true (placementItem item body s)
  else if item < 0x158 then
    let k := item - 0x140
    let s := if pairedEpochs s then tell false (densityItem item body s) else s
    let s := modStall k (fun st => { st with pulseDue := true }) (moveGrid k s)
    let s := if loaded && (stallOf s k).enable && laneUp s (usedLane s k) then sendConfig k s else s
    judgeHead k s
  else s

/-- A standby whose part of a proposal is written reports its lowest undispatched line (R391, R496). -/
def reportEpoch (s : State) : State :=
  match s.twn.epoch with
  | some e =>
    if s.twn.role == .synced && !s.led.staging.any (·.twin) then uraraSend s.twn.peer 0x53 [1, word e.num, word (e.stop - 16)] s else s
  | none => s

/-- The calibration write at the front is in force (R490 steps 3 and 4, R487): its command ends, and the next write starts. -/
def commitCal (w : CalWrite) (s : State) : State :=
  let x := { w.new with written := devSec s }
  let loaded := match slotOf s w.cid with | some c => c.op == Op.pulseTableLoad | none => false
  let s := storeItem x (keepEpochs s)
  let s := itemEffect x.item x.body loaded w.twin { s with led.staging := s.led.staging.drop 1 }
  let s := if w.cid = 0 then s else finish w.cid Status.done 0 w.results s
  startStaging (if w.twin then reportEpoch s else s)

/-- CAL_STAGING_COMMIT (R490): the commit word of the staged record is durable. -/
def execCalStagingCommit (t : Nat) (s : State) : Host.Outcome State Fault Refusal :=
  onEvent t (fun s =>
    match s.led.staging with
    | w :: _ => if w.staged then commitCal w s else s
    | [] => s) s

/-! ### CAL_READ, CAL_WRITE, PULSE_TABLE_LOAD -/

/-- CAL_READ (R489). -/
def execCalRead (t cid : Nat) (s : State) : Host.Outcome State Fault Refusal :=
  onStart Op.calRead t cid (fun c s =>
    let items := if parN c 0 = 2 ^ 64 - 1 then calItems else if parN c 0 ∈ calItems then [parN c 0] else []
    if items.isEmpty then refuse c Status.badParameter s
    else if !outRing s (parN c 1) then refuse c Status.badRing s
    else outputOn c (parN c 1) (items.map (storedRecord s)) s) s

/-- A supplied record becomes a calibration write, unless it is refused (R489). -/
def writeSupplied (c : Slot) (item : Nat) (bs : List Byte) (s : State) : State :=
  match suppliedItem s item bs with
  | none => refuse c Status.badCalItem s
  | some x => if calBusy s item then refuse c Status.calRunning s else putCal x c.cid [] s

/-- CAL_WRITE (R489, R490). -/
def execCalWrite (t cid : Nat) (s : State) : Host.Outcome State Fault Refusal :=
  onStart Op.calWrite t cid (fun c s =>
    withObject c (parN c 1) (parN c 2) (fun bs s =>
      if parN c 0 ∈ calItems then writeSupplied c (parN c 0) bs s else refuse c Status.badCalItem s) s) s

/-- PULSE_TABLE_LOAD (R243, R244): the record of the Stall's head item. -/
def execPulseTableLoad (t cid : Nat) (s : State) : Host.Outcome State Fault Refusal :=
  onStart Op.pulseTableLoad t cid (fun c s =>
    withObject c (parN c 1) (parN c 2) (fun bs s =>
      if parN c 0 < 24 then writeSupplied c (0x140 + parN c 0) bs s else refuse c Status.badParameter s) s) s

end Sys2Proof.Machine
end

