-- ==== Sys2Proof/Machine/Ledger.lean ====
section
/-!
DEFINITION. The Ledger's controller: writes and their read-back (R480), write counts (R483), sparing of sectors (R484) and what follows when the spares
are out (R485), and the rows LEDGER_WRITE_COMPLETE and LEDGER_SECTOR_SPARE_COPY.
-/
namespace Sys2Proof.Machine

/-- The logical sector of a write (R308, R479, R490): the first staging sector stands for the staging area. -/
def writeSector : LWrite → Nat
  | .part n _ => n % 98304 / 32
  | .cal _ => 3318

/-- A sector of the journal whose slots hold only final, exported records (R485). -/
def sectorFree (s : State) (j : Nat) : Bool :=
  s.tal.journal.all fun r => r.num % 98304 / 32 != j || (r.final.isSome && bit r.sent 2)

/-- A logical sector is mapped to another physical one, and its other words are copied (R484). -/
def mapSector (logical phys : Nat) (s : State) : State :=
  notify Notice.ledgerSectorSpared (put phys 16 + logical)
    { s with led.remap := (s.led.remap.filter fun m => m.1 != logical) ++ [(logical, phys)], led.copying := s.led.copying ++ [logical] }

/-- The journal sector that may be donated: the lowest whose slots are all free, while more than 2,816 remain (R485). -/
def donated (s : State) : Option Nat :=
  if 256 ≤ s.led.lost.length then none
  else (List.range 3072).find? fun j => !(s.led.lost.contains j) && !(s.led.failing.contains (physSector s j)) && sectorFree s j

/-- A failing logical sector gets a spare: the lowest free one, or, with all spares in use, a journal sector for a sector outside the journal (R484,
R485). -/
def spareSector (logical : Nat) (s : State) : Option State :=
  if s.led.used < 448 then
    let n := s.led.used + 1
    let s := mapSector logical (3648 + s.led.used) { s with led.used := n }
    let s := granaryUse 7 0 112 (448 - n) s
    some (if n = 448 then notify Notice.ledgerSparesOut 0 { s with led.sparesOut := true } else s)
  else if 3072 ≤ logical then
    match donated s with
    | some j =>
      let p := physSector s j
      some (granaryCount 11 0 (notify Notice.ledgerJournalShrunk j (mapSector logical p { s with led.lost := s.led.lost ++ [j] })))
    | none => none
  else none

/-- A physical sector becomes failing. -/
def failSector (phys : Nat) (s : State) : State :=
  if s.led.failing.contains phys then s else { s with led.failing := s.led.failing ++ [phys] }

/-- One write of a physical sector is counted and the count saved every 2²⁰ writes; at 10¹² the sector becomes failing (R483). -/
def countWrite (phys : Nat) (s : State) : State :=
  let n := ((s.led.counts.find? fun c => c.1 == phys).map (·.2)).getD 0 + 1
  let s := { s with led.counts := (s.led.counts.filter fun c => c.1 != phys) ++ [(phys, n)] }
  let s := if n % 2 ^ 20 = 0 then { s with led.savedCounts := (s.led.savedCounts.filter fun c => c.1 != phys) ++ [(phys, n)] } else s
  if 1000000000000 ≤ n then failSector phys s else s

/-- Failing journal sectors that cannot be spared are retired with their slots once these are free (R485, R496). -/
def retireJournal (s : State) : State :=
  if !s.led.sparesOut then s else
  { s with led.lost := s.led.lost ++ (List.range 3072).filter fun j =>
      !(s.led.lost.contains j) && s.led.failing.contains (physSector s j) && sectorFree s j }

/-- A write is durable (R308, R480): the part counts as durable here, and the peer that sent it is told (R400); a calibration record stands in the staging
area (R490). -/
def writeDurable (w : LWrite) (s : State) : State :=
  match w with
  | .cal _ =>
    { s with led.staging := match s.led.staging with | x :: xs => { x with staged := true } :: xs | [] => [] }
  | .part n kind =>
    let s := modRec n (fun r => { r with local_ := r.local_ ||| 2 ^ kind }) s
    match s.twn.ackDue.find? fun a => a.1 == w with
    | some a => uraraSend s.twn.peer 0x52 [word a.2, 6] { s with twn.ackDue := s.twn.ackDue.filter fun x => x != a }
    | none => s

/-- A write whose sector fails for good (R482, R485): the record is damaged, or the calibration item is invalid and its command fails. -/
def writeLost (w : LWrite) (s : State) : State :=
  match w with
  | .part n _ => modRec n (fun r => { r with damaged := true }) s
  | .cal item =>
    let s := raise FaultCode.calCorrupt 0 { s with led.items := mapWhere (fun x => x.item == item) (fun x => { x with valid := false }) s.led.items }
    let cid := match s.led.staging with | x :: _ => x.cid | [] => 0
    let s := { s with led.staging := s.led.staging.drop 1 }
    startStaging (if cid = 0 then s else finish cid Status.faultNoEffect FaultCode.calCorrupt [] s)

/-- The write at the front has left the controller. -/
def popWrite (s : State) : State := { s with led.writes := s.led.writes.drop 1, led.tries := 0 }

/-- LEDGER_WRITE_COMPLETE (R480, R484): the write at the front ends with its read-back. A failing sector is spared first. A read-back that differs is tried again, and the
fourth failure spares the sector, where the write goes again. -/
def execLedgerWriteComplete (t : Nat) (readBackOk : Bool) (s : State) : Host.Outcome State Fault Refusal :=
  onEvent t (fun s =>
    match s.led.writes with
    | [] => s
    | w :: _ =>
      let sec := writeSector w
      let s := if s.led.failing.contains (physSector s sec) then (spareSector sec s).getD s else s
      let s := countWrite (physSector s sec) s
      retireJournal (
        if readBackOk then writeDurable w (popWrite s)
        else if s.led.tries < 3 then { s with led.tries := s.led.tries + 1 }
        else
          let s := failSector (physSector s sec) s
          match spareSector sec s with
          | some s => { s with led.tries := 0 }
          | none => writeLost w (popWrite s))) s

/-- LEDGER_SECTOR_SPARE_COPY (R484): the other words of a spared sector have been copied. -/
def execLedgerSectorSpareCopy (t sector : Nat) (s : State) : Host.Outcome State Fault Refusal :=
  onEvent t (fun s => { s with led.copying := s.led.copying.filter fun x => x != sector }) s

end Sys2Proof.Machine
end

