-- ==== Sys2Proof/Machine/Runs.lean ====
section
/-!
DEFINITION. Calibration runs: when one is refused (R464, R493, R495), the density table that two measurements give (R495), what a run writes (R494), and the rows CAL_RUN
and CAL_RUN_COMPLETE.
-/
namespace Sys2Proof.Machine

/-! ### What a run needs (R464, R493, R495) -/

/-- The instances of a run item: the bits its instance field uses, the highest instance, and the code for all; none for an item without a run (R491). -/
def runInstances : Nat → Option (Nat × Nat × Nat)
  | 0x180 => some (6, 35, 35)
  | 0x181 => some (7, 77, 0x7F)
  | 0x182 => some (5, 23, 31)
  | 0x183 => some (4, 3, 15)
  | 0x184 => some (5, 23, 31)
  | _ => none

/-- Whether p1 names an instance of an item with a run (R491, R493). -/
def runNamed (item p1 : Nat) : Bool :=
  if item < 0x40 then decide (p1 < 8)
  else if item = 0x160 ∨ item = 0x161 then decide (p1 < 16)
  else match runInstances item with
    | none => false
    | some (n, top, all) =>
      let i := p1 % 2 ^ n
      let rest := if item = 0x182 then p1 - put (bits p1 47 32) 32 else p1
      rest == i && (decide (i ≤ top) || i == all)

/-- Whether a PLL's island is idle (R493): a slice not in service, a lane without a function, any island while no job is active. -/
def pllIdle (s : State) (i : Nat) : Bool :=
  !jobActive s || (decide (i < 32) && !inPair s i) || (decide (42 ≤ i) && !laneBusy s (i - 42))

/-- The state-class refusal of a silicon run (R493). -/
def runInUse (s : State) (item p1 : Nat) : Option Nat :=
  let insts := fun (n top all : Nat) => if p1 % 2 ^ n = all ∧ top < all then List.range (top + 1) else [p1 % 2 ^ n]
  match item with
  | 0x180 => if laneBusy s (p1 % 64) then some Status.laneBusy else none
  | 0x181 => if (insts 7 77 0x7F).all (pllIdle s) then none else some Status.calInUse
  | 0x182 => if jobActive s || domOn s 7 || domOn s 8 || domOn s 9 || domOn s 11 then some Status.calInUse else none
  | 0x183 => if jobActive s && (insts 4 3 15).any (fun e => e == s.mot.cfg.primary || e == s.mot.cfg.check) then some Status.calInUse else none
  | _ => if (insts 5 23 31).any (fun k => (stallOf s k).enable && stallNamed s k) then some Status.calInUse else none

/-- The active jobs whose plane uses a density table (R495). -/
def tableJobs (s : State) (item plane : Nat) : List Job :=
  (activeJobs s).filter fun j => j.desc.planes.any fun p => p.plane == plane && p.density == item

/-- Whether some sensor resolves a plane. -/
def someResolves (s : State) (plane : Nat) : Bool := (List.range 8).any fun k => resolves s (sensorOf s k) plane

/-- The refusal of a density run (R482, R495). -/
def densityRefusal (s : State) (item plane : Nat) : Option Nat :=
  if (tableJobs s item plane).isEmpty then some Status.learnNoJob
  else if !domOn s 11 then some Status.visionOff
  else if !someResolves s plane then some Status.learnResolution
  else if (tableJobs s item plane).any fun j => j.desc.tracks.any fun t => decide (t.length < 272) then some Status.learnTooLong
  else if (itemBody s item).isNone then some Status.calInvalid
  else none

/-- The refusal of a DDR run (R464). -/
def ddrRefusal (s : State) (rate : Nat) : Option Nat :=
  if jobActive s then some Status.wellJobActive
  else if s.led.runs.any fun r => r.item == 0x160 then some Status.wellTraining
  else if 7 < rate ∨ s.well.maxRate < rate then some Status.badParameter
  else none

/-- The tracks of the active jobs whose next two products each become density targets (R495). -/
def densityWants (s : State) (item plane : Nat) : List (Nat × Nat) :=
  ((tableJobs s item plane).head?.map fun j => (List.range j.desc.tracks.length).flatMap fun t => [(t, 2), (t, 2)]).getD []

/-- CAL_RUN (R464, R493, R495). -/
def execCalRun (t cid : Nat) (s : State) : Host.Outcome State Fault Refusal :=
  onStart Op.calRun t cid (fun c s =>
    let item := parN c 0
    let p1 := parN c 1
    let start := fun (item : Nat) (s : State) => { s with led.runs := s.led.runs ++ [{ item := item, inst := p1, cid := c.cid }] }
    if !runNamed item p1 then refuse c Status.badParameter s
    else if item = 0x160 ∨ item = 0x161 then
      match ddrRefusal s p1 with
      | some st => refuse c st s
      | none => if calBusy s 0x160 || calBusy s 0x161 then refuse c Status.calRunning s else start 0x160 s
    else if calBusy s item then refuse c Status.calRunning s
    else if item < 0x40 then
      match densityRefusal s item p1 with
      | some st => refuse c st s
      | none => start item { s with prod.wants := s.prod.wants ++ densityWants s item p1 }
    else match runInUse s item p1 with
      | some st => refuse c st s
      | none => start item s) s

/-! ### The result of a run (R494, R495) -/

/-- The sums of the patch means of one measurement over its tracks. -/
def patchSums (ps : List (List Nat)) : List Nat := (List.range 17).map fun j => (ps.map fun p => p.getD j 0).sum

/-- Whether darkness rises from patch to patch. -/
def darkens : List Nat → Bool
  | a :: b :: rest => decide (b < a) && darkens (b :: rest)
  | _ => true

/-- The new target of a tone from the patch sums of a measurement and the current table (R495). -/
def newTarget (body : List Byte) (r : List Nat) (t : Nat) : Nat :=
  let r0 := r.getD 0 0
  let d := r0 - r.getD 16 0
  match (List.range 16).find? fun j => decide ((r0 - r.getD j 0) * 255 ≤ t * d) && decide (t * d ≤ (r0 - r.getD (j + 1) 0) * 255) with
  | none => density body t
  | some j =>
    let a : Int := density body (min 255 (16 * j))
    let b : Int := density body (min 255 (16 * (j + 1)))
    let num : Int := (t * d : Nat) - ((r0 - r.getD j 0) * 255 : Nat)
    let den : Int := (255 * (r.getD j 0 - r.getD (j + 1) 0) : Nat)
    ((2 * (a * den + (b - a) * num) + den) / (2 * den)).toNat

/-- The entries of a density table from tone 1 on, as its words, with entry 0 at 0, the `fold` row kept and the quality (R157, R495). -/
def densityBody (old : List Byte) (es : List Nat) (quality : Nat) : List Byte :=
  wordsBytes (((List.range 64).map fun w => word (((List.range 4).map fun k => put ((0 :: es).getD (4 * w + k) 0) (16 * k)).sum))
    ++ [bodyWord old 64, word quality])

/-- The outcome of a density run from its patches: the fault, or the new body with its quality (R494, R495). -/
def densityResult (s : State) (r : CalRunning) : Except Nat (List Byte × Nat) :=
  let body := (itemBody s r.item).getD []
  let tracks := (r.patches.map (·.1)).eraseDups
  let nth := fun (i : Nat) => patchSums (tracks.filterMap fun t => ((r.patches.filter fun p => p.1 == t)[i]?).map (·.2))
  let a := nth 0
  let b := nth 1
  if !darkens a || !darkens b then .error FaultCode.calFail
  else
    let es := (List.range 255).map fun t => (newTarget body a (t + 1), newTarget body b (t + 1))
    let m := (es.map fun e => ((e.1 : Int) - e.2).natAbs).foldl max 0
    if 32 < m then .error FaultCode.calDisagree
    else
      let q := 65535 * (64 - m) / 64
      let new := densityBody body (es.map fun e => (e.1 + e.2 + 1) / 2) q
      if densityOk new then .ok (new, q) else .error FaultCode.calFail

/-- The words of an item body that one instance owns (R492). -/
def instanceWords (item inst : Nat) : List Nat :=
  match runInstances item with
  | none => []
  | some (n, top, all) =>
    let i := inst % 2 ^ n
    let is := if i = all ∧ top < all then List.range (top + 1) else [i]
    let per := if item = 0x180 ∨ item = 0x183 then 3 else 1
    is.flatMap fun i => (List.range per).map fun k => 1 + per * i + k

/-- A body with the words of an instance replaced and the quality of the run; a lane's latencies stay (R492). -/
def runBody (old new : List Byte) (item inst quality : Nat) : List Byte :=
  let own := instanceWords item inst
  wordsBytes ((List.range (itemWords item new)).map fun i =>
    if i = 0 then word ((bodyWord new 0).toNat / 65536 * 65536 + quality)
    else if own.contains i then
      (if item = 0x180 ∧ i % 3 = 2 ∧ !old.isEmpty then word ((bodyWord new i).toNat / 2 ^ 32 * 2 ^ 32 + (bodyWord old i).toNat % 2 ^ 32)
       else bodyWord new i)
    else if old.isEmpty then bodyWord new i else bodyWord old i)

/-- A run ends without a result: nothing is written (R494). -/
def failRun (r : CalRunning) (fault : Nat) (s : State) : State :=
  let s := raise fault 0 { s with led.runs := s.led.runs.filter fun x => x != r }
  if r.cid = 0 then s else finish r.cid Status.faultNoEffect fault [] s

/-- The instances that a run of a silicon item calibrates (R491, R493). -/
def instancesOf (item p1 : Nat) : List Nat :=
  match runInstances item with
  | none => []
  | some (n, top, all) => if p1 % 2 ^ n = all ∧ top < all then List.range (top + 1) else [p1 % 2 ^ n]

/-- The device time of the last successful calibration of each instance is kept (R502). -/
def markCal (item p1 : Nat) (s : State) : State :=
  let new := (instancesOf item p1).map fun i => (item, i)
  { s with
    bgd.calAt := (s.bgd.calAt.filter fun x => !new.contains x.1) ++ new.map (fun x => (x, devSec s)),
    bgd.aged := s.bgd.aged.filter fun x => !new.contains x }

/-- A run ends with its result, which is written (R494, R490). -/
def endRun (r : CalRunning) (m : CalMeasure) (s : State) : State :=
  if r.item < 0x40 then
    match densityResult s r with
    | .error e => failRun r e s
    | .ok (body, q) => putCal { item := r.item, body := body, quality := q, origin := 1 } r.cid [word q] { s with led.runs := s.led.runs.filter fun x => x != r }
  else if !m.agree then failRun r FaultCode.calDisagree s
  else if !m.inRange then failRun r FaultCode.calFail s
  else if r.item = 0x160 then
    let half := m.body.length / 16 * 8
    let a := m.body.take half
    let b := m.body.drop half
    let q := min (fld (bodyWord a 0) 31 16) (fld (bodyWord b 0) 31 16)
    let rate := if r.inst = 0 then s.well.rate else r.inst
    let s := { s with
      led.runs := s.led.runs.filter fun x => x != r,
      well.cfgRate := rate, well.rate := rate, well.reduced := false,
      well.chans := s.well.chans.map fun c => { c with zqAt := s.now, moves := Vector.replicate 2 [], drifted := Vector.replicate 2 [] } }
    putCal { item := 0x161, body := b, quality := fld (bodyWord b 0) 31 16, origin := 1 } r.cid [word q]
      (putCal { item := 0x160, body := a, quality := fld (bodyWord a 0) 31 16, origin := 1 } 0 [] s)
  else
    let body := runBody ((itemBody s r.item).getD []) m.body r.item r.inst m.quality
    if siliconOk r.item body then
      putCal { item := r.item, body := body, quality := m.quality, origin := 1 } r.cid [word m.quality]
        (markCal r.item r.inst { s with led.runs := s.led.runs.filter fun x => x != r })
    else failRun r FaultCode.calFail s

/-- Whether the two measurements of a density run have been taken on every track of its job (R495). -/
def densityMeasured (s : State) (r : CalRunning) : Bool :=
  !(s.prod.wants.any fun w => w.2 == 2) && !r.patches.isEmpty
    && (r.patches.map (·.1)).all fun t => (r.patches.filter fun p => p.1 == t).length == 2

/-- CAL_RUN_COMPLETE (R464, R494, R495): the two measurements of a run are done. -/
def execCalRunComplete (t item : Nat) (m : CalMeasure) (s : State) : Host.Outcome State Fault Refusal :=
  onEvent t (fun s =>
    match s.led.runs.find? fun r => r.item == item && r.cid != 0 with
    | none => s
    | some r => if decide (r.item < 0x40) && !densityMeasured s r then s else endRun r m s) s

end Sys2Proof.Machine
end

