-- ==== Sys2Proof/Machine/Tasks.lean ====
section
/-!
DEFINITION. The background scheduler: the passes of the seven tasks, their order, shedding and BACKGROUND_LATE (R497 to R500), and SCRUB_CONFIG (R468, R498).
-/
namespace Sys2Proof.Machine

/-- A minute in nanoseconds. -/
def minuteNs : Nat := 60000000000

/-- The period of a task, numbered from 0 (R497, R498). -/
def taskPeriod (c : ScrubCfg) (i : Nat) : Nat :=
  match i with
  | 0 => c.wellPeriod * 60 * minuteNs
  | 1 => c.ledgerPeriod * 1440 * minuteNs
  | 2 => c.sramPeriod * minuteNs
  | 3 => c.testPeriod * minuteNs
  | 4 => 10 * minuteNs
  | 5 => c.recalPeriod * 1440 * minuteNs
  | _ => 1440 * minuteNs

/-- A task changed. -/
def modTask (i : Fin 7) (f : Task → Task) (s : State) : State := { s with bgd.tasks := upd s.bgd.tasks i f }

/-- Whether the next pass of a task is due: its period has passed since the start of the previous one (R497). -/
def taskDue (s : State) (i : Fin 7) : Bool :=
  let x := s.bgd.tasks[i]
  !x.running && (x.started == 0 || decide (x.started + taskPeriod s.bgd.cfg i.val ≤ s.now))

/-- Whether shedding pauses a task: tasks 1, 3, 4, 5 and 6 always, task 7 until 24 h after it fell due (R500). -/
def taskShed (s : State) (i : Fin 7) : Bool :=
  s.thm.shed && (match i.val with
    | 1 => false
    | 6 => !s.bgd.tasks[i].running && decide (s.now < s.bgd.tasks[i].started + 2 * taskPeriod s.bgd.cfg 6)
    | _ => true)

/-- Whether the scheduler runs at all: ready, no takeover, no activation between t2 and t4 (R506, R508, R518). -/
def schedulerRuns (s : State) : Bool :=
  s.pwr.ready && !s.bgd.takeover && (match s.bgd.act with | some a => a.stage != .paused && a.stage != .handed | none => true)

/-- Whether a channel of the Well serves requests or wakes for one. -/
def chanServes (s : State) (ch : Fin 2) : Bool := s.well.chans[ch].state == 1 || s.well.chans[ch].state == 2

/-- The spare control core (R505). -/
def spareCore (s : State) : Option (Fin 3) := (List.finRange 3).find? fun k => s.bgd.cores[k] == .spare

/-- The idle working slices that have not been tested in the present period of task 4 (R501). -/
def untested (s : State) : List (Fin 32) :=
  (idleSlices s 0 ++ idleSlices s 1).filter fun k => decide (s.mil.slices[k].tested < s.bgd.tasks[3].started) || !s.bgd.tasks[3].running

/-- Whether a task has anything to run on (R497). -/
def taskAble (s : State) (i : Fin 7) : Bool :=
  match i.val with
  | 0 => chanServes s 0 && chanServes s 1
  | 3 => !(untested s).isEmpty
  | 4 => (spareCore s).isSome
  | 5 => s.bgd.cfg.recalEnable
  | _ => true

/-- Repair work that waits: Ledger sector copies and Well repair windows (R499). SRAM repairs are made within their scrub. -/
def repairWaits (s : State) : Bool := !s.led.copying.isEmpty || !s.well.due.isEmpty

/-- The tasks that the scheduler serves before a task when several are due together (R499). -/
def servedBefore (i : Fin 7) : List (Fin 7) := ([0, 1, 2, 4, 3, 6, 5] : List (Fin 7)).takeWhile fun k => k != i

/-- Whether a batch of a task may run now: its pass is in progress, or is due with nothing that is served before it (R497, R499, R500). -/
def taskRuns (s : State) (i : Fin 7) : Bool :=
  schedulerRuns s && !taskShed s i && (s.bgd.tasks[i].running
    || (taskDue s i && !repairWaits s && (servedBefore i).all fun k => !(taskDue s k && !taskShed s k && taskAble s k)))

/-- The pass of a task begins, unless it is in progress. -/
def beginTask (i : Fin 7) (s : State) : State :=
  if s.bgd.tasks[i].running then s
  else modTask i (fun x => { x with running := true, started := s.now, period := taskPeriod s.bgd.cfg i.val, progress := 0, lates := 0, paused := 0 }) s

/-- A task has done `n` of `m` parts of its pass (R517). -/
def taskAt (i : Fin 7) (n m : Nat) (s : State) : State := modTask i (fun x => { x with progress := n * 2 ^ 32 / m }) s

/-- A task completes its pass (R517). -/
def endTask (i : Fin 7) (s : State) : State :=
  modTask i (fun x => { x with running := false, lastPass := devSec s, progress := 0 }) s

/-- Time that the periods of the passes in progress do not count (R499, R518). -/
def skipTime (d : Nat) (p : Fin 7 → Bool) (s : State) : State :=
  (List.finRange 7).foldl (fun s (i : Fin 7) => if p i then modTask i (fun x => if x.running then { x with paused := x.paused + d } else x) s else s) s

/-- Shedding starts with thermal step 1 or a DRAM above its range, and ends when both have cleared (R500, R536, R466). -/
def settleShed (s : State) : State :=
  let on := s.thm.steps[0].on || s.thm.dramHot
  if on == s.thm.shed then s
  else if on then notify Notice.backgroundShed 1 { s with thm.shed := true, thm.shedAt := s.now }
  else
    let s := (List.finRange 7).foldl (fun s (i : Fin 7) =>
      if taskDue s i && i != 1 then modTask i (fun x => { x with deferred := sat 0xFFFF (x.deferred + 1) }) s else s) s
    let s := skipTime (s.now - s.thm.shedAt) (fun i => i != 1 && i != 6) s
    notify Notice.backgroundShed 0 { s with thm.shed := false }

/-- BACKGROUND_LATE (R499): a pass that is not complete when its next period begins is reported once for that period. -/
def execBackgroundLate (t : Nat) (task : Fin 7) (s : State) : Host.Outcome State Fault Refusal :=
  onEvent t (fun s =>
    let x := s.bgd.tasks[task]
    if x.running && schedulerRuns s && !taskShed s task && decide (x.started + (x.lates + 1) * x.period + x.paused ≤ s.now) then
      notify Notice.backgroundLate (task.val + 1)
        (modTask task (fun x => { x with lates := x.lates + 1, late := sat 0xFFFF (x.late + 1) }) s)
    else s) s

/-- SCRUB_CONFIG (R468, R498). -/
def execScrubConfig (t cid : Nat) (s : State) : Host.Outcome State Fault Refusal :=
  onStart Op.scrubConfig t cid (fun c s =>
    let x : ScrubCfg :=
      { wellPeriod := parF c 0 15 0, srIdle := parF c 0 47 32, sramPeriod := parF c 1 10 0, ledgerPeriod := parF c 1 18 16,
        recalPeriod := parF c 1 40 32, testPeriod := parF c 1 58 48, bgShare := parF c 2 5 0, recalEnable := parB c 2 16 }
    let ok := within 1 169 x.wellPeriod && within 10 1441 x.sramPeriod && within 1 8 x.ledgerPeriod && within 1 366 x.recalPeriod
      && within 10 1441 x.testPeriod && within 1 51 x.bgShare
    if ok then done c { s with bgd.cfg := x } else refuse c Status.badParameter s) s

end Sys2Proof.Machine
end

