-- ==== Sys2Proof/Machine/Wells.lean ====
section
/-!
DEFINITION. The Well's own work: refresh and temperature (R466, R467), drift tracking (R465), self-refresh (R469), the patrol scrub (R471), row repair (R472, R473),
and the telemetry of a channel (R477).
-/
namespace Sys2Proof.Machine

/-- The capacity in bytes of an organisation (R454). -/
def wellCapacity (x4 : Bool) (density ranks : Nat) : Nat := 2 * ranks * (if x4 then 16 else 8) * density * 2 ^ 27

/-- Whether an organisation is one that R454 supports. -/
def wellSupported (density ranks : Nat) (x4 : Bool) : Bool :=
  (density == 8 || density == 16 || density == 32) && (ranks == 1 || ranks == 2)
    && decide (16 * 2 ^ 30 ≤ wellCapacity x4 density ranks) && decide (wellCapacity x4 density ranks ≤ 128 * 2 ^ 30)

/-- The data rate of a rate code in MT/s (R464). -/
def wellRateOf (code : Nat) : Nat := 2400 + 800 * code

/-- Whether a channel serves a rank at this moment. -/
def rankServes (s : State) (ch rank : Fin 2) : Bool := s.well.chans[ch].state == 1 && decide (rank.val < s.well.ranks)

/-! ### Refresh, temperature, drift (R465 to R467) -/

/-- WELL_REFRESH_DUE (R467): a refresh is postponed only while an urgent request has waited more than 1 µs and fewer than 4 are; otherwise it and the
postponed ones are issued. -/
def execWellRefreshDue (t : Nat) (ch rank : Fin 2) (urgentWait : Nat) (s : State) : Host.Outcome State Fault Refusal :=
  onEvent t (fun s =>
    if rankServes s ch rank then
      modChan ch (fun c =>
        let n := c.postponed[rank]
        { c with postponed := c.postponed.set rank (if decide (1000 < urgentWait) && decide (n < 4) then n + 1 else 0) }) s
    else s) s

/-- A device of any rank stands above its operating range. -/
def anyDramHot (s : State) : Bool := (elems s.well.chans).any fun c => (elems c.hot).any id

/-- DRAM_MR4_POLL (R466): refresh doubles at once and returns after two normal readings; a device above its range is reported, and background work is shed. -/
def execDramMr4Poll (t : Nat) (ch rank : Fin 2) (anyDouble anyHot : Bool) (s : State) : Host.Outcome State Fault Refusal :=
  onEvent t (fun s =>
    if rankServes s ch rank then
      let c := s.well.chans[ch]
      let high := anyDouble || anyHot
      let normal := if high then 0 else c.normal[rank] + 1
      let doubled := high || (c.doubled[rank] && decide (normal < 2))
      let was := c.hot[rank]
      let s := modChan ch (fun c => { c with normal := c.normal.set rank normal, doubled := c.doubled.set rank doubled, hot := c.hot.set rank anyHot }) s
      let s := if anyHot && !was then raise FaultCode.wellDramHot 0 s else s
      settleShed { s with thm.dramHot := anyDramHot s }
    else s) s

/-- One drift step of a lane: at most 1/64 UI (R465). -/
def driftStep (x : Int) : Int := if 1 < x then 1 else if x < -1 then -1 else x

/-- WELL_DRIFT_TRACK (R465): the write delays move by at most a step each; a lane more than 8 steps from its trained value is reported once. -/
def execWellDriftTrack (t : Nat) (ch rank : Fin 2) (moves : List Int) (s : State) : Host.Outcome State Fault Refusal :=
  onEvent t (fun s =>
    if rankServes s ch rank then
      let c := s.well.chans[ch]
      let now := (List.range 80).map fun l => c.moves[rank].getD l 0 + driftStep (moves.getD l 0)
      let far := (List.range 80).filter fun l => decide (8 < (now.getD l 0).natAbs) && !c.drifted[rank].contains l
      let s := modChan ch (fun c =>
        { c with moves := c.moves.set rank now, drifted := c.drifted.set rank (c.drifted[rank] ++ far), trackDue := false }) s
      far.foldl (fun s _ => raise FaultCode.wellDrift 0 s) s
    else s) s

/-- WELL_ZQ_CAL (R465): every 128 ms. -/
def execWellZqCal (t : Nat) (ch : Fin 2) (s : State) : Host.Outcome State Fault Refusal :=
  onEvent t (fun s =>
    if s.well.chans[ch].state == 1 && decide (s.well.chans[ch].zqAt + 128000000 ≤ s.now) then modChan ch (fun c => { c with zqAt := s.now }) s else s) s

/-! ### Self-refresh (R469) -/

/-- A channel goes into self-refresh, after the refreshes that are due or postponed. -/
def selfRefresh (ch : Fin 2) (s : State) : State :=
  modChan ch (fun c => { c with state := 2, postponed := Vector.replicate 2 0, srEntries := sat 0xFFFFFFFF (c.srEntries + 1) }) s

/-- SELF_REFRESH_ENTRY (R469): never with `sr_idle` 0, nor while a repair of the channel is due. -/
def execSelfRefreshEntry (t : Nat) (ch : Fin 2) (s : State) : Host.Outcome State Fault Refusal :=
  onEvent t (fun s =>
    let due := s.well.due.any (fun r => r.ch == ch) || (match s.well.hardNow with | some r => r.ch == ch | none => false)
    if s.well.chans[ch].state == 1 && s.bgd.cfg.srIdle != 0 && !due then selfRefresh ch s else s) s

/-- SELF_REFRESH_EXIT (R469): a request wakes the channel, and drift tracking is due at once. -/
def execSelfRefreshExit (t : Nat) (ch : Fin 2) (s : State) : Host.Outcome State Fault Refusal :=
  onEvent t (fun s =>
    if s.well.chans[ch].state == 2 then modChan ch (fun c => { c with state := 1, trackDue := true }) s else s) s

/-! ### Row repair (R472, R473) -/

/-- The device that a nibble lane of a sub-channel belongs to (R472). -/
def deviceOf (w : Well) (sub lane : Nat) : Nat := if w.x4 then 10 * sub + lane else 5 * sub + lane / 2

/-- Whether two rows lie in one device of one rank. -/
def sameDevice (a b : DramRow) : Bool := a.ch == b.ch && a.rank == b.rank && a.dev == b.dev

/-- The `detail` of a row event (R516). -/
def rowDetail (r : DramRow) : Nat := put r.ch.val 0 + put r.rank 1 + put r.bg 2 + put r.bank 5 + put r.row 8

/-- Whether the device of a row has been given up (R473). -/
def givenUp (w : Well) (r : DramRow) : Bool := w.given.contains (r.ch.val, r.rank, r.dev)

/-- A row becomes a repair candidate, unless it is one, was found without resources, or its device was given up. -/
def addCandidate (r : DramRow) (s : State) : State :=
  if s.well.due.contains r || s.well.out.contains r || givenUp s.well r then s else { s with well.due := s.well.due ++ [r] }

/-- 24 hours in nanoseconds. -/
def dayNs : Nat := 1440 * minuteNs

/-- A corrected error is attributed to a row of a device: two scrub passes or 8 errors within 24 h make it a candidate (R472), and more than 64 rows of its device
within 24 h end the device's repairs (R473). -/
def correctedIn (r : DramRow) (s : State) : State :=
  let old := (s.well.rowErrs.find? fun e => e.row == r).getD { row := r }
  let new : RowErrors := { old with
    passes := if old.passes.contains s.well.passes then old.passes else s.well.passes :: old.passes,
    times := s.now :: old.times.filter fun m => decide (s.now < m + dayNs) }
  let s := { s with well.rowErrs := (s.well.rowErrs.filter fun e => e.row != r) ++ [new] }
  let rows : List RowErrors := s.well.rowErrs.filter fun e => sameDevice e.row r && e.times.any fun m => decide (s.now < m + dayNs)
  if decide (64 < rows.length) && !givenUp s.well r then
    raise FaultCode.wellDeviceFail 0 { s with
      well.given := s.well.given ++ [(r.ch.val, r.rank, r.dev)], well.due := s.well.due.filter fun x => !sameDevice x r }
  else if decide (2 ≤ new.passes.length) || decide (8 ≤ new.times.length) then addCandidate r s
  else s

/-- WELL_REPAIR_WINDOW (R472, R473): a candidate is repaired by soft post-package repair and recorded, or stays in service for want of resources. -/
def execWellRepairWindow (t : Nat) (row : DramRow) (resourceLeft : Bool) (s : State) : Host.Outcome State Fault Refusal :=
  onEvent t (fun s =>
    if s.well.due.contains row && chanServes s row.ch then
      let s := { s with well.due := s.well.due.filter fun x => x != row }
      if resourceLeft then
        notify Notice.wellRowSpared (rowDetail row) { s with
          well.soft := s.well.soft ++ [row], well.rowErrs := s.well.rowErrs.filter fun e => e.row != row }
      else notify Notice.wellPprOut (rowDetail row) { s with well.out := s.well.out ++ [row] }
    else s) s

/-- The hard repairs made in a bank group. -/
def hardIn (s : State) (ch rank bg : Nat) : List DramRow := s.well.hard.filter fun r => r.ch.val == ch && r.rank == rank && r.bg == bg

/-- The lowest repair resource left of a bank group: that of its devices at first boot, less the hard repairs of its most repaired device (R473, R511). -/
def resourcesLeft (s : State) (ch rank bg : Nat) : Nat :=
  let rs := hardIn s ch rank bg
  Config.repairResource ch rank bg - ((rs.map fun r => (rs.filter fun x => x.dev == r.dev).length).foldl max 0)

/-- WELL_HARD_REPAIR (R473): with no job active for 10 s, the oldest recorded soft repair starts to be made hard. -/
def execWellHardRepair (t : Nat) (s : State) : Host.Outcome State Fault Refusal :=
  onEvent t (fun s =>
    match s.well.soft with
    | r :: _ =>
      if s.job.active.isNone && s.job.activating.isNone && decide (s.job.idleFrom + 10000000000 ≤ s.now) && s.well.hardNow.isNone && chanServes s r.ch then
        { s with well.hardNow := some r }
      else s
    | [] => s) s

/-- WELL_HARD_REPAIR_DONE (R473): the conversion is complete. -/
def execWellHardRepairDone (t : Nat) (s : State) : Host.Outcome State Fault Refusal :=
  onEvent t (fun s =>
    match s.well.hardNow with
    | some r =>
      let s := { s with well.hardNow := none, well.soft := s.well.soft.erase r, well.hard := s.well.hard ++ [r] }
      granaryUse 6 (r.ch.val + 2 * r.rank + 4 * r.bg) (Config.repairResource r.ch.val r.rank r.bg / 4)
        (resourcesLeft s r.ch.val r.rank r.bg) s
    | none => s) s

/-! ### Patrol scrub (R471) -/

/-- The bytes of one scrub batch. -/
def scrubBatch : Nat := 2 ^ 18

/-- One burst that the scrub read with an error: poisoned ones are left, correctable ones written back corrected, uncorrectable ones reported (R471, R472). -/
def scrubBurst (b : BurstFault) (s : State) : State :=
  let n := b.addr / 64
  let (row, sub) := wellRow s.well b.addr
  let row := { row with dev := deviceOf s.well sub b.lane }
  if s.well.poison.contains n then modChan row.ch (fun c => { c with uncorr := sat 0xFFFFFFFF (c.uncorr + 1) }) s
  else if b.correctable then correctedIn row (modChan row.ch (fun c => { c with corrected := sat (2 ^ 64 - 1) (c.corrected + 1) }) s)
  else
    let s := badBurst n s
    addCandidate row { s with well.poison := s.well.poison ++ [n] }

/-- WELL_PATROL_SCRUB (R471, R497): the next batch of task 1. -/
def execWellPatrolScrub (t : Nat) (bad : List BurstFault) (s : State) : Host.Outcome State Fault Refusal :=
  onEvent t (fun s =>
    if taskRuns s 0 && taskAble s 0 && !(s.led.runs.any fun r => r.item == 0x160) then
      let s := beginTask 0 s
      let at_ := s.well.scrubPos
      let s := (bad.filter fun b => within at_ (at_ + scrubBatch) b.addr && decide (b.addr < s.well.bytes)).foldl (fun s b => scrubBurst b s) s
      let next := at_ + scrubBatch
      if s.well.bytes ≤ next then endTask 0 { s with well.scrubPos := 0, well.passes := s.well.passes + 1 }
      else taskAt 0 next s.well.bytes { s with well.scrubPos := next }
    else s) s

/-! ### Telemetry (R477) -/

/-- Four values of 16 bits as a word. -/
def fourHalves (f : Nat → Nat) (i : Nat) : W64 := word (((List.range 4).map fun k => put (f (4 * i + k) % 65536) (16 * k)).sum)

/-- The words of TELEMETRY_READ block 0x10 or 0x11; `n` numbers the moment that the free values are read at. -/
def wellTelemetry (s : State) (ch : Fin 2) (n : Nat) : List W64 :=
  let c := s.well.chans[ch]
  let state := if s.led.runs.any (fun r => r.item == 0x160) then 0 else c.state
  let mine := fun (l : List DramRow) => (l.filter fun r => r.ch == ch).length
  let left := ((List.range s.well.ranks).flatMap fun r => (List.range 8).map fun g => resourcesLeft s ch.val r g).foldl min 0xFFFF
  let eyes := fun rank dir => (List.range 20).map (fourHalves fun l => if rank < s.well.ranks then Config.eyeWidth n ch.val rank dir l else 0)
  [ word (s.well.rate + put state 4 + put (maskOf (elems c.doubled)) 8 + put c.postponed[0] 16 + put c.postponed[1] 20),
    word c.corrected, word (c.uncorr + put c.poisonW 32),
    word (sat 0xFFFFFFFF s.well.passes + put (s.well.scrubPos * 2 ^ 32 / max 1 s.well.bytes) 32),
    word (sat 0xFFFF (mine s.well.soft) + put (sat 0xFFFF (mine s.well.hard)) 16 + put left 32),
    word (c.srEntries + put (Config.queueCount n ch.val 0 % 2 ^ 32) 32),
    word (Config.queueCount n ch.val 1 % 2 ^ 32 + put (Config.queueCount n ch.val 2 % 2 ^ 32) 32) ]
    ++ eyes 0 0 ++ eyes 0 1 ++ eyes 1 0 ++ eyes 1 1

end Sys2Proof.Machine
end

