-- ==== Sys2Proof/Machine/Activate.lean ====
section
/-!
DEFINITION. Activation: the minimum lead (R25, R111), MOTION_CONFIG (R96, R99, R101), the checks of JOB_ACTIVATE and JOB_SWITCH in their order (R574), the
screen stores (R164), what an activation or a switch sets (R105, R120 to R122, R197, R214), JOB_UNLOAD.
-/
namespace Sys2Proof.Machine

/-! ### MOTION_CONFIG (R96, R101) -/

/-- Words p0 to p7 of MOTION_CONFIG. -/
def motionCfgOf (c : Slot) : MotionCfg :=
  { primary := parF c 0 2 0, check := parF c 0 6 4, invert := parF c 0 11 8, pacerRate := parF c 0 55 32,
    cpl := #v[parN c 1, parN c 2, parN c 3, parN c 4],
    cpr := #v[parF c 5 31 0, parF c 5 63 32, parF c 6 31 0, parF c 6 63 32],
    checkTol := parF c 7 31 0, reverseTol := parF c 7 63 32 }

/-- The word of one PD input. -/
def pdCfgOf (c : Slot) (n : Nat) : PdCfg :=
  { enable := parB c (8 + n) 0, falling := parB c (8 + n) 1, debounce := parF c (8 + n) 19 4, lead := parF c (8 + n) 39 20,
    blank := parF c (8 + n) 59 40 }

/-- An encoder's `counts_per_line` is at least 1.0 where the settings name the encoder. -/
def cplOk (m : MotionCfg) (e : Nat) : Bool := if h : e < 4 then decide (2 ^ 32 ≤ m.cpl[e]'h) else true

/-- The checked fields are in range (R96). -/
def motionCfgOk (m : MotionCfg) : Bool :=
  decide (m.primary ≤ 4) && (decide (m.check ≤ 3) || m.check == 7) && m.check != m.primary
    && decide (1 ≤ m.pacerRate) && decide (m.pacerRate ≤ 96000) && cplOk m m.primary && cplOk m m.check

/-- The line source is set: L goes on from the present line, H from the present position (R97), both encoders' travel begins anew (R99). -/
def setSource (m : MotionCfg) (s : State) : State :=
  let line := lineOwed s
  let pos := posOf s m.primary
  { s with
    mot.cfg := m, mot.source := m.primary, mot.failover := false, mot.reversed := false, mot.mismatch := false,
    mot.lb := line, mot.h := pos, mot.hb := pos, mot.pacerB := s.mot.pacer,
    mot.base1 := pos, mot.base2 := posOf s m.check,
    mot.enc := s.mot.enc.map fun e => { e with failed := false, zPos := none } }

/-- The inputs take new settings for the edges stamped at or after a moment (R101). -/
def setInputs (moment : Nat) (pds : List PdCfg) (s : State) : State :=
  (List.finRange 8).foldl (fun s (n : Fin 8) =>
    let new := pds.getD n.val {}
    if s.mot.pds[n].cfg = new then s
    else { s with mot.pds := upd s.mot.pds n fun p => { p with old := p.cfg, oldEnds := moment, cfg := new } }) s

/-- MOTION_CONFIG (R96, R101). -/
def execMotionConfig (t cid : Nat) (s : State) : Host.Outcome State Fault Refusal :=
  onStart Op.motionConfig t cid (fun c s =>
    let m := motionCfgOf c
    let pds := (List.range 8).map (pdCfgOf c)
    let js := activeJobs s
    if !motionCfgOk m then refuse c Status.badParameter s
    else if jobActive s && m != s.mot.cfg then refuse c Status.motionBusy s
    else if js.any fun j => !leadsFit s j pds then
      finish c.cid Status.leadTooShort 0 [word ((js.map fun j => minLead s j pds).foldl max 0)] s
    else done c (mendConfig (fun h => match h with | .motion _ => true | _ => false) <| setInputs c.acceptAt pds (if m = s.mot.cfg then s else setSource m s))) s

/-! ### The checks of JOB_ACTIVATE and JOB_SWITCH (R574) -/

/-- The streams that a job's tracks place. -/
def jobStreams (j : Job) : List (Fin 16) := (List.finRange 16).filter fun i => j.desc.tracks.any fun t => bit t.templates i.val

/-- Check 6: a calendar element needs a clock that is not FREE (R350). -/
def needsTime (s : State) (j : Job) : Bool :=
  s.time.clk.state == .free && (jobStreams j).any fun i => match s.tal.streams[i].template with | some t => usesCalendar t | none => false

/-- Check 7: a stream is bound and not held (R292, R439). -/
def streamServes (s : State) (i : Fin 16) : Bool := s.tal.streams[i].template.isSome && !s.tal.streams[i].held

/-- The source streams that a template's elements name. -/
def sourcesNamed (t : Template) : List Nat :=
  t.elements.filterMap fun e => match e with
    | .serial _ _ src => if src = 31 then none else some src
    | .auth _ src => if src = 31 then none else some src
    | _ => none

/-- Check 7: every source stream of a placed stream is placed on the same track (R292). -/
def sourcesPlaced (s : State) (t : Track) : Bool :=
  ((List.finRange 16).filter fun i => bit t.templates i.val).all fun i =>
    match s.tal.streams[i].template with
    | some x => (sourcesNamed x).all (bit t.templates)
    | none => true

/-- Check 8: a map or a head item of a Stall was made for another head than the one that reports (R173, R244). -/
def itemsForeign (s : State) (k : Nat) : Bool :=
  match (stallOf s k).headId with
  | none => false
  | some h => [0x100 + k, 0x140 + k].any fun i => match itemHead s i with | some x => x != h | none => false

/-- The calibration items that a job needs (R482). -/
def jobItems (d : JobDesc) : List Nat :=
  (d.planes.map (·.density)) ++ (d.planes.map (0x120 + ·.plane)) ++ (jobStalls d).flatMap fun k => [0x100 + k, 0x140 + k]

/-- Check 10: a template's rectangle with its margins lies within a track (R156). -/
def placed (t : Track) (x : Template) (font : Option Font) : Bool :=
  let sz := overlaySize x font
  let qx := fld x.attr 39 32
  let qy := fld x.attr 47 40
  decide (qx ≤ x.dx) && decide (t.start + x.dx + sz.1 + qx ≤ t.stop) && decide (qy ≤ x.oy) && decide (x.oy + sz.2 + qy ≤ t.length)

/-- Check 10 for a whole job. -/
def placementsFit (s : State) (j : Job) : Bool :=
  j.desc.tracks.all fun t => (List.finRange 16).all fun i =>
    !bit t.templates i.val || match s.tal.streams[i].template with | some x => placed t x s.tal.streams[i].font | none => true

/-- Check 13: the Mill and the band store can carry a job beside another (R168). -/
def millFailure (s : State) (j : Job) (old : List Job) : Option Nat :=
  let n := ((j :: old).flatMap fun x => segItems x.desc).eraseDups.length
  let c := ((j :: old).map (·.cMax)).foldl max 0
  if workingSlices s < pairsNeeded j then some Status.millShort
  else if 1024 < n then some Status.bandLimit
  else if workingSlices s * 900000000 * 16 < n * c * j.desc.maxRate then some Status.millShort
  else none

/-- W_max of a job under the placement maps in force (R171, R214). -/
def jobWMax (s : State) (d : JobDesc) : Nat :=
  ((jobStalls d).flatMap fun k =>
    let st := stallOf s k
    (mapWs st ((epochOf s s.mil.placeEpochs s.mil.placeEpoch).body (0x100 + k))).take st.rows.length).foldl max 0

/-- The line-store depth of a job (R214). -/
def depthFor (s : State) (j : Job) : Nat := 1024 * max 1 (ceilDiv (jobWMax s j.desc + 3 + minLead s j (pdCfgs s)) 1024)

/-- The words that a line of a job carries (R166, R213). -/
def lineWordCount (s : State) (d : JobDesc) : Nat :=
  ((jobStalls d).map fun k => ceilDiv (channelsOf s (epochOf s s.mil.placeEpochs s.mil.placeEpoch) k) 18).sum

/-- The tile and overlay terms of a job's demand, in bytes a second (R476). -/
def tileDemand (s : State) (j : Job) : Nat :=
  let n := (segItems j.desc).length
  let w := ((jobStreams j).map fun i => match s.tal.streams[i].template with
    | some t => ceilDiv (overlaySize t s.tal.streams[i].font).1 64 * 8
    | none => 0).sum
  2 * n * j.sMax * j.desc.maxRate / 16 + 2 * w * j.desc.maxRate

/-- The demand D of jobs that run together, in bytes a second (R476). -/
def wellDemand (s : State) (js : List Job) : Nat :=
  let lines := (js.map fun j => 2 * (192 + 9 * lineWordCount s j.desc) * j.desc.maxRate).foldl max 0
  let fixed := (if domOn s 11 then 3600000000 else 0) + 2200000000 + s.bgd.cfg.bgShare * 16 * wellRateOf s.well.rate * 1000
  (js.map (tileDemand s)).sum + lines + fixed

/-- S, the sustained bandwidth of the Well at its working rate, in bytes a second (R475). -/
def wellSustained (s : State) : Nat := 90000000000 * wellRateOf s.well.rate / 8000

/-- The job with an array check made again where R470 asks for it, and the state with what it found (check 2). -/
def recheck (j : Job) (s : State) : Job × State :=
  if j.stale then
    let (j, s) := checkJob j s
    (j, modJob j.desc.id (fun _ => j) s)
  else (j, s)

/-- The arrays that jobs hold in the screen stores (R164). -/
def screenSlots (js : List Job) : List (Nat × Nat) := (js.flatMap (·.screens)).eraseDups

/-- Checks 5 to 16 of R574: the status and result words of the first that fails. `old` holds the outgoing job of a switch, `line` an explicit switch line. -/
def activationFailure (s : State) (j : Job) (old : List Job) (line : Option Nat) : Option (Nat × List W64) :=
  let plain (st : Nat) : Option (Nat × List W64) := some (st, [])
  let pds := pdCfgs s
  let lead := minLead s j pds
  if s.mot.cfg.primary = 4 then plain Status.pacerSource
  else if needsTime s j then plain Status.timeInvalid
  else if !(jobStreams j).all (streamServes s) then plain Status.streamUnbound
  else if !j.desc.tracks.all (sourcesPlaced s) then plain Status.streamSource
  else if (jobStalls j.desc).any (itemsForeign s) then plain Status.placementStale
  else if !(jobItems j.desc).all (fun i => (itemBody s i).isSome) then plain Status.calInvalid
  else if old.any (fun o => o.desc.rows != j.desc.rows) then plain Status.geometryMismatch
  else if !placementsFit s j then plain Status.placementClip
  else if !leadsFit s j pds then some (Status.leadTooShort, [word lead])
  else if (match line with | some l => decide (l < s.mot.line + lead) | none => false) then plain Status.linePast
  else match millFailure s j old with
    | some st => plain st
    | none =>
      if 8 < (screenSlots (j :: old)).length then plain Status.screenSlots
      else if 8192 < depthFor s j || (!old.isEmpty && decide (s.mil.depth < depthFor s j)) then plain Status.lineStoreDepth
      else if wellSustained s < wellDemand s (j :: old) then some (Status.wellBandwidth, [word (wellDemand s (j :: old) / 1000000)])
      else none

/-! ### Effects (R105, R164, R197) -/

/-- The arrays of a job are loaded into the screen stores; none, with SCREEN_INVALID, where one does not match its check value (R164). -/
def loadScreens (j : Job) : List (Nat × Nat) → State → Option State × State
  | [], s => (some s, s)
  | a :: as, s =>
    if arrayCrc s a.1 = some a.2 then
      loadScreens j as { s with
        mil.screens := if s.mil.screens.any (fun x => x.1 == a) then s.mil.screens else s.mil.screens ++ [(a, wellRead s a.1 arrayBytes)] }
    else (none, raise FaultCode.screenInvalid a.1 s)

/-- Arrays that no job of a list uses leave the screen stores. -/
def dropScreens (js : List Job) (s : State) : State :=
  { s with mil.screens := s.mil.screens.filter fun x => js.any fun j => j.screens.contains x.1 }

/-- A pair goes into service, with the lowest idle working slice of the domain in place of one that does not work (R197). -/
def servePair (i : Fin 16) (s : State) : State :=
  let works (k : Nat) : Bool := if h : k < 32 then sliceWorks s ⟨k, h⟩ else false
  let pick (d k : Nat) : Nat := if works k then k else ((idleSlices s d).head?.map (·.val)).getD k
  { s with mil.pairs := upd s.mil.pairs i fun p => { p with a := pick 0 p.a, b := pick 1 p.b, service := true } }

/-- Pairs 0 to P − 1 are in service: first those whole, then those that need another slice (R168, R197). -/
def servePairs (p : Nat) (s : State) : State :=
  let ks := (List.finRange 16).filter fun i => decide (i.val < p)
  let whole (s : State) (i : Fin 16) : Bool :=
    [s.mil.pairs[i].a, s.mil.pairs[i].b].all fun k => if h : k < 32 then sliceWorks s ⟨k, h⟩ else false
  let s := { s with mil.pairs := (List.finRange 16).foldl (fun v i => if decide (i.val < p) && !whole s i then v else upd v i fun x => { x with service := decide (i.val < p) || x.service }) s.mil.pairs }
  (ks.filter fun i => !s.mil.pairs[i].service).foldl (fun s i => servePair i s) s

/-- The Stalls of a job begin at the present line with the W that their maps give (R171, R178). -/
def startStalls (d : JobDesc) (s : State) : State :=
  (jobStalls d).foldl (fun s k => modStall k (fun st =>
    { st with
      ws := mapWs st ((epochOf s s.mil.placeEpochs s.mil.placeEpoch).body (0x100 + k)),
      builtTo := s.mot.line + 1, buffer := [], missed := [], late := [] }) s) s

/-- Whether a background or commanded run uses what the activation of a job makes busy (R493, R496). -/
def runHolds (s : State) (d : JobDesc) : Bool :=
  s.led.runs.any fun r => match r.item with
    | 0x160 => true
    | 0x181 => true
    | 0x182 => true
    | 0x183 => r.inst % 16 == 15 || r.inst % 16 == s.mot.cfg.primary || r.inst % 16 == s.mot.cfg.check
    | 0x184 => r.inst % 32 == 31 || (jobStalls d).contains (r.inst % 32)
    | _ => false

/-- Whether an activation has to wait: for a hard repair in progress (R473) or for a run (R496). -/
def activationWaits (s : State) (id : Nat) : Bool :=
  s.well.hardNow.isSome || match jobOf s id with | some j => runHolds s j.desc | none => false

/-- A JOB_LOAD that would replace a job learns what became of it (R89). -/
def noteFate (id fate : Nat) (s : State) : State :=
  { s with job.loading := mapWhere (fun l => l.job.desc.id == id && l.replacing && l.fate == 0) (fun l => { l with fate := fate }) s.job.loading }

/-- JOB_ACTIVATE goes on with its job: checks 2, 3 and 5 to 16 of R574, then the load of the screen stores (R164). -/
def beginActivate (c : Slot) (j : Job) (s : State) : State :=
  let (j, s) := recheck j s
  if !j.passed || s.led.badSaved then refuse c Status.jobNotReady s
  else if jobActive s || s.job.activating.isSome then refuse c Status.jobActive s
  else match activationFailure s j [] none with
    | some (st, ws) => finish c.cid st 0 ws s
    | none => noteFate j.desc.id 1 { s with job.activating := some (c.cid, j.desc.id, parN c 1) }

/-- JOB_ACTIVATE (R574, R164). While a hard repair or a run holds what it needs, the step does not occur (R473, R496). -/
def execJobActivate (t cid : Nat) (s : State) : Host.Outcome State Fault Refusal :=
  if activationWaits (advance t s) (parOf s cid 0).toNat then .next (advance t s)
  else onStart Op.jobActivate t cid (fun c s =>
    match jobOf s (parN c 0) with
    | none => refuse c Status.jobNotLoaded s
    | some j => beginActivate c j s) s

/-- A job becomes active at a first line (R105, R164, R168, R214). -/
def becomeActive (j : Job) (first : Nat) (s : State) : State :=
  let s := modJob j.desc.id (fun j => { j with la := first, activeAt := s.now }) s
  let s := servePairs (max 1 (pairsNeeded j)) { s with
    job.active := some j.desc.id, job.activating := none, mil.depth := depthFor s j, mil.nextLine := max s.mil.nextLine (s.mot.line + 1),
    vis.noCam := [], vis.noStreak := [] }
  startStalls j.desc (keepEpochs s)

/-- SCREEN_STORE_LOADED (R164): both screen stores hold good copies and the job is active, or JOB_ACTIVATE ends with JOB_NOT_READY. -/
def execScreenStoreLoaded (t : Nat) (s : State) : Host.Outcome State Fault Refusal :=
  onEvent t (fun s =>
    match s.job.activating with
    | none => s
    | some (cid, id, first) =>
      match jobOf s id with
      | none => finish cid Status.jobNotReady 0 [] { s with job.activating := none }
      | some j =>
        match loadScreens j (screenSlots [j]) (dropScreens [j] s) with
        | (none, s) => finish cid Status.jobNotReady 0 [] { s with job.activating := none }
        | (some s, _) => finish cid Status.done 0 [] (becomeActive j first s)) s

/-! ### JOB_SWITCH and JOB_UNLOAD (R120 to R122) -/

/-- A switch is accepted: it is pending, the new job's arrays are in the stores, its pairs in service (R120, R121, R164, R168). -/
def beginSwitch (c : Slot) (j old : Job) (line : Option Nat) (s : State) : State :=
  match loadScreens j (screenSlots [j]) (dropScreens [j, old] s) with
  | (none, s) => refuse c Status.jobNotReady s
  | (some s, _) =>
    let w : JobSwitch := { job := j.desc.id, cid := c.cid, line := line, stamp := c.acceptAt }
    let s := modJob j.desc.id (fun j => { j with la := line.getD 0, activeAt := 0 }) { s with job.switch := some w }
    noteFate j.desc.id 1 (servePairs (max (activePairs s) (pairsNeeded j)) s)

/-- JOB_SWITCH goes on with its job: the checks of R574 from the second on. -/
def checkSwitch (c : Slot) (j : Job) (s : State) : State :=
  let line := if parN c 1 = 2 ^ 64 - 1 then none else some (parN c 1)
  let (j, s) := recheck j s
  if !j.passed || s.led.badSaved then refuse c Status.jobNotReady s
  else match s.job.active with
    | none => refuse c Status.noActiveJob s
    | some id =>
      if jobIsActive s j.desc.id then refuse c Status.jobActive s
      else if s.job.switch.isSome then refuse c Status.switchPending s
      else match jobOf s id with
        | none => refuse c Status.noActiveJob s
        | some old =>
          match activationFailure s j [old] line with
          | some (st, ws) => finish c.cid st 0 ws s
          | none => beginSwitch c j old line s

/-- JOB_SWITCH (R120, R121, R574). -/
def execJobSwitch (t cid : Nat) (s : State) : Host.Outcome State Fault Refusal :=
  if activationWaits (advance t s) (parOf s cid 0).toNat then .next (advance t s)
  else onStart Op.jobSwitch t cid (fun c s =>
    match jobOf s (parN c 0) with
    | none => refuse c Status.jobNotLoaded s
    | some j => checkSwitch c j s) s

/-- A pending switch ends at its line: the reply leaves when L reaches S (R122). -/
def reachSwitch (s : State) : State :=
  match s.job.switch with
  | some w =>
    match w.line with
    | some l =>
      if !w.replied && decide (l ≤ s.mot.line) then
        settleSwitch (finish w.cid Status.done 0 [word l] { s with job.switch := some { w with replied := true } })
      else settleSwitch s
    | none => s
  | none => s

/-- A job is forgotten with its clear copies, its key and the arrays that no other job uses (R429, R574). -/
def unloadJob (id : Nat) (s : State) : State :=
  let s := { s with
    job.loaded := s.job.loaded.filter (fun j => j.desc.id != id),
    kry.jobKeys := s.kry.jobKeys.filter (fun k => k.job != id) }
  noteFate id 2 (dropScreens s.job.loaded s)

/-- JOB_UNLOAD (R574). -/
def execJobUnload (t cid : Nat) (s : State) : Host.Outcome State Fault Refusal :=
  onStart Op.jobUnload t cid (fun c s =>
    let id := parN c 0
    if (jobOf s id).isNone then refuse c Status.jobNotLoaded s
    else if incoming s id && !jobIsActive s id then refuse c Status.switchPending s
    else if jobIsActive s id || (s.job.activating.map fun a => a.2.1) == some id then refuse c Status.jobActive s
    else done c (unloadJob id s)) s

end Sys2Proof.Machine
end

