-- ==== Sys2Proof/Machine/Commands.lean ====
section
/-!
DEFINITION. The command service: intake (R40), replies and their hand-over (R33, R41, R47, R48), forwarding
(R49), IDENTIFY (R53), NET_CONFIG (R55), CRIER_CONFIG (R514).
-/
namespace Sys2Proof.Machine

/-! ### Intake (R27 to R42) -/

/-- The row of an opcode in the catalogue. -/
def opRow (op : Nat) : Option OpRow := catalogue.find? (fun r => r.code == op)

/-- Whether an opcode may carry priority 3 (R43). -/
def urgentAllowed (op : Nat) : Bool :=
  decide (op ∈ [Op.status, Op.abortTag, Op.firePermit, Op.twinYield, Op.zeroise])

/-- The slot a packet would take: its fields out of words 0 and 1 (R27, R28, R29). -/
def slotOfPacket (tr : Transport) (src : Nat) (ws : List W64) : Slot :=
  let w0 := ws.getD 0 0
  let w1 := ws.getD 1 0
  { tr := tr, src := src, op := fld w0 63 48, tag := fld w0 47 42, prio := fld w0 41 40,
    fence := fbit w0 25, quiet := fbit w0 26, bcast := fld w1 10 0 == 2047, seq := fld w0 23 0,
    session := fld w1 63 32, srcNode := fld w1 26 16,
    params := (ws.drop 2).take (fld w0 39 32) }

/-- The length in words that a packet's first word gives it (R30). -/
def packetWords (ws : List W64) : Nat :=
  2 + fld (ws.getD 0 0) 39 32 + 2 * flag (fbit (ws.getD 0 0) 24)

/-- Step 1 of R40: the packet is there whole. -/
def lengthOk (ws : List W64) : Bool := decide (2 ≤ ws.length) && decide (packetWords ws ≤ ws.length)

/-- A sequence is acceptable under R37. -/
def sequenceNew (x : Session) (q : Nat) : Bool :=
  (decide (x.high < q) && decide (q ≤ x.high + 65536))
    || (decide (x.high < q + 64) && decide (q ≤ x.high) && decide (1 ≤ q) && !bit x.seen (x.high - q))

/-- A sequence has already been accepted (R38). -/
def sequenceUsed (x : Session) (q : Nat) : Bool :=
  decide (x.high < q + 64) && decide (q ≤ x.high) && bit x.seen (x.high - q)

/-- A sequence is recorded as accepted: the window moves, and the cache keeps a place for its reply among the 64 most
recently accepted (R37, R38). -/
def acceptSequence (x : Session) (q : Nat) : Session :=
  let high := max x.high q
  let seen := if x.high < q then x.seen * 2 ^ (q - x.high) % 2 ^ 64 + 1 else x.seen + 2 ^ (x.high - q)
  { x with high := high, seen := seen, cache := ((q, []) :: x.cache).take 64 }

/-- Whether a session takes commands now: open, proved, and no close of it accepted (R39, R51, R426). -/
def sessionOpen (s : State) (id : Nat) : Bool :=
  match sessionOf s id with
  | none => false
  | some x => x.proved && !x.closing
      && !s.cmd.slots.any (fun c => c.op == Op.sessionClose && c.session == id && parF c 0 31 0 == id)

/-- The refusals sent in the present device second on each transport (R40, R571). -/
def refusalsNow (s : State) : Vector Nat 5 :=
  if s.cmd.refuseSec = devSec s then s.cmd.refuseCnt else Vector.replicate 5 0

/-- A refusal at one of the steps 1 to 5: answered without a trailer, at most 100 in a device second on each transport,
and silently beyond that (R40). -/
def refuseEarly (c : Slot) (status : Nat) (s : State) : State :=
  let i := trIndex c.tr
  let cnt := refusalsNow s
  let s := { s with cmd.refuseSec := devSec s, cmd.refuseCnt := cnt.set i (cnt[i] + 1) }
  if cnt[i] < 100 then
    let cid := s.cmd.nextCid
    let s := { s with cmd.nextCid := cid + 1 }
    sendReply c.tr c.src cid (replyWords { c with session := c.session } (ownNode s) true false status 0 []) s
  else s

/-- A refusal at one of the steps 6 to 12: answered at once with the session's trailer, and kept in the reply cache. -/
def refuseLate (c : Slot) (status : Nat) (s : State) : State :=
  let ws := sealReply s c.session (replyWords c (ownNode s) true false status 0 [])
  let s := cacheReply c.session c.seq ws s
  let cid := s.cmd.nextCid
  sendReply c.tr c.src cid ws { s with cmd.nextCid := cid + 1 }

/-- Whether a packet's trailer verifies under the session's command key (R36). -/
def macOk (x : Session) (ws : List W64) : Bool :=
  let n := 2 + fld (ws.getD 0 0) 39 32
  (ws.drop n).take 2 == macTrailer x.cmdKey (ws.take n)

/-- Steps 3 to 5 of R40: the status of the first that fails. -/
def authFailure (s : State) (c : Slot) (auth : Bool) (ws : List W64) : Option Nat :=
  if c.session = 0 then (if auth then some Status.macRequired else none)
  else if !sessionOpen s c.session then some Status.noSession
  else if !auth then some Status.macRequired
  else match sessionOf s c.session with
    | none => some Status.noSession
    | some x => if macOk x ws then none else some Status.macFail

/-- Whether the parameter words of a packet carry a bit that is reserved for its opcode (R8, R52). -/
def reservedBits (row : OpRow) (c : Slot) : Bool :=
  (row.masks.zip c.params).any fun p => p.2.toNat != (p.2 &&& word p.1).toNat

/-- Steps 7 to 11 of R40, with the place of R50 after step 7: the status of the first that fails. -/
def contentFailure (s : State) (c : Slot) (ws : List W64) : Option Nat :=
  match opRow c.op with
  | none => some Status.unknownOpcode
  | some row =>
    if c.bcast && !row.bcast then some Status.badNode
    else if roleOf s c.session ∉ row.roles then some Status.roleDenied
    else if c.params.length ≠ row.params then some Status.badLength
    else if fld (ws.getD 0 0) 31 27 ≠ 0 ∨ fld (ws.getD 1 0) 31 27 ≠ 0 ∨ fld (ws.getD 1 0) 15 11 ≠ 0 then
      some Status.reservedNonzero
    else if reservedBits row c then some Status.reservedNonzero
    else if c.prio = 3 ∧ !urgentAllowed c.op then some Status.priorityDenied
    else if s.cmd.slots.any (fun x => x.session == c.session && x.tag == c.tag) then some Status.tagInUse
    else none

/-- Whether a slot is free for a priority (R42). -/
def slotFree (s : State) (prio : Nat) : Bool :=
  let n := s.cmd.slots.length
  decide (n < 60) || (decide (n < 64) && prio == 3)

/-- A packet is accepted: it takes a slot (R41, R42). -/
def accept (c : Slot) (s : State) : State :=
  let cid := s.cmd.nextCid
  { s with
    cmd.nextCid := cid + 1,
    cmd.slots := s.cmd.slots ++ [{ c with cid := cid, acceptAt := s.now, phase := .waiting }] }

/-- A refusal at step 6 carries the trailer and is not cached: its sequence is not newly accepted. -/
def refuseSequence (c : Slot) (status : Nat) (s : State) : State :=
  let ws := sealReply s c.session (replyWords c (ownNode s) true false status 0 [])
  sendReply c.tr c.src s.cmd.nextCid ws { s with cmd.nextCid := s.cmd.nextCid + 1 }

/-- Steps 6 to 12 of R40 in a session other than 0, or steps 7 to 12 in session 0. -/
def acceptOrRefuse (c : Slot) (ws : List W64) (s : State) : State :=
  match sessionOf s c.session with
  | none =>
    match contentFailure s c ws with
    | some st => refuseLate c st s
    | none => if slotFree s c.prio then accept c s else refuseLate c Status.commandLimit s
  | some x =>
    if sequenceNew x c.seq then
      let s := modSession x.id (fun y => acceptSequence y c.seq) s
      match contentFailure s c ws with
      | some st => refuseLate c st s
      | none => if slotFree s c.prio then accept c s else refuseLate c Status.commandLimit s
    else if sequenceUsed x c.seq then
      if s.cmd.slots.any (fun y => y.session == c.session && y.seq == c.seq) then s
      else match x.cache.find? (fun e => e.1 == c.seq && !e.2.isEmpty) with
        | some e =>
          let body := e.2.take (e.2.length - 2)
          let w0 := body.getD 0 0 ||| word (2 ^ 26)
          let ws := sealReply s c.session (w0 :: body.drop 1)
          sendReply c.tr c.src s.cmd.nextCid ws { s with cmd.nextCid := s.cmd.nextCid + 1 }
        | none => refuseSequence c Status.duplicateSequence s
    else if c.seq ≤ x.high then refuseSequence c Status.duplicateSequence s
    else refuseSequence c Status.sequenceJump s

/-- A packet for another node is forwarded (R49). -/
def forward (c : Slot) (target : Nat) (ws : List W64) (s : State) : State :=
  let n := packetWords ws
  if 256 ≤ s.cmd.forwards.length then refuseEarly c Status.commandLimit s
  else if !s.ura.routes.any (fun r => r.node == target) then refuseEarly c Status.nodeUnreachable s
  else
    let f : Forward := { tr := c.tr, src := c.src, node := target, session := c.session, tag := c.tag, seq := c.seq }
    let w1 := word ((ws.getD 1 0).toNat - put (fld (ws.getD 1 0) 26 16) 16 + put (ownNode s) 16)
    uraraSend target 0x48 (ws.getD 0 0 :: w1 :: (ws.take n).drop 2) { s with cmd.forwards := s.cmd.forwards ++ [f] }

/-- One packet is taken whole and checked in the order of R40. A broadcast from a ring or a datagram is also sent on over the
link (R50, R379), and a node that does not hold its session discards it without a reply. -/
def intake (tr : Transport) (src : Nat) (ws : List W64) (s : State) : State :=
  let c := slotOfPacket tr src ws
  let target := fld (ws.getD 1 0) 10 0
  if !lengthOk ws then refuseEarly c Status.badLength s
  else if 2001 ≤ target ∧ target ≤ 2046 then refuseEarly c Status.badNode s
  else if target ≠ 0 ∧ target ≠ ownNode s ∧ target ≠ 2047 then
    if tr = .urara then s else forward c target ws s
  else
    let s := if target = 2047 ∧ tr ≠ .urara then uraraSend 2047 0x48 (ws.take (packetWords ws)) s else s
    match authFailure s c (fbit (ws.getD 0 0) 24) ws with
    | some st => if c.bcast && st == Status.noSession then s else refuseEarly c st s
    | none => acceptOrRefuse c ws s

/-- Whether a ring's next packet may be taken: no slot is free for its priority, and it stays at the head of the ring (R42). -/
def ringBlocked (s : State) (ws : List W64) : Bool := !slotFree s (fld (ws.getD 0 0) 41 40)

/-- Whether a command-in ring holds work (R46). -/
def ringHasPackets (s : State) (r : Fin 16) : Bool :=
  let g := s.bar.rings[r]
  g.enable && !g.pause && g.role == .commandIn && (g.head != g.tail || (s.bar.work[r]).desc.isSome)

/-- The turn rule of rings 0 and 1 (R46): ring 1 is served when ring 0 holds nothing or after 8 packets in a row from
ring 0. -/
def ringTurn (s : State) (r : Fin 16) : Bool :=
  if r = 0 then !(ringHasPackets s 1 && decide (8 ≤ s.cmd.ring0Run))
  else !ringHasPackets s 0 || decide (8 ≤ s.cmd.ring0Run)

/-- One packet is taken from the descriptor at the head of a command-in ring; its bytes count as done (R46, R71). A packet
that fails step 1 takes the rest of the descriptor with it. -/
def intakeRing (tr : Transport) (r : Fin 16) (avail : List W64) (s : State) : State :=
  match (s.bar.work[r]).desc with
  | none => s
  | some d =>
    let g := s.bar.rings[r]
    let left := (fld d.w2 31 0 - g.doneBytes) / 8
    let ws := avail.take left
    if left = 0 ∨ g.pause ∨ !g.enable ∨ g.role ≠ .commandIn ∨ !ringTurn s r ∨ ringBlocked s ws then s
    else
      let n := if lengthOk ws then packetWords ws else left
      let run := if r = 0 then (if ringHasPackets s 1 then s.cmd.ring0Run + 1 else 0) else 0
      let s := { s with
        bar.rings := upd s.bar.rings r fun g => { g with doneBytes := g.doneBytes + 8 * n },
        cmd.ring0Run := run }
      intake tr 0 ws s

/-- COMMAND_INTAKE (R40): from a ring, under the turn rule and while a slot is free; from a datagram, on an enabled port
of a powered NET; from the link. Commands are taken when the device is ready and no takeover or activation holds intake
(R61, R24, R508). -/
def execCommandIntake (t : Nat) (tr : Transport) (src : Nat) (avail : List W64) (s : State) :
    Host.Outcome State Fault Refusal :=
  onEvent t (fun s =>
    if !s.pwr.ready || s.bgd.takeover || !s.cmd.intakeOpen then s
    else match tr with
      | .ring0 => if domOn s 4 then intakeRing .ring0 0 avail s else s
      | .ring1 => if domOn s 4 then intakeRing .ring1 1 avail s else s
      | .eth0 => if domOn s 3 && (s.net[0]).cfg.enable then intake .eth0 src avail s else s
      | .eth1 => if domOn s 3 && (s.net[1]).cfg.enable then intake .eth1 src avail s else s
      | .urara => if domOn s 10 then intake .urara src avail s else s) s

/-- INTERIM_REPLY (R33): a command still outstanding without a final reply 2 ms after its acceptance, or before that, is
answered once with status 0x0001, `final` 0 and no result words. A quiet command and a broadcast (R50) get no such reply,
because none may be sent when the final status turns out 0 (R28; DEDUCED). -/
def execInterimReply (t cid : Nat) (s : State) : Host.Outcome State Fault Refusal :=
  onEvent t (fun s =>
    match slotOf s cid with
    | none => s
    | some c =>
      if c.phase == .committed || c.interim || c.quiet || c.bcast || c.op == Op.reset || c.op == Op.zeroise then s
      else
        let ws := sealReply s c.session (replyWords c (ownNode s) false false Status.accepted 0 [])
        sendReply c.tr c.src c.cid ws (modSlot cid (fun x => { x with interim := true }) s)) s

/-- REPLY_RING_WRITE (R47) moves the reply at the head of the commit order; the ring's side of it is in Rings. -/
def takeReply (cid : Nat) (s : State) : Option (List W64 × State) :=
  match s.cmd.replyQ with
  | [] => none
  | (k, ws) :: rest =>
    if k = cid then
      let s := { s with cmd.replyQ := rest }
      -- the final reply of the slot is handed over with its write; an interim reply leaves the slot as it is
      let isFinal := fbit (ws.getD 0 0) 24
      some (ws, if isFinal then handedOver cid s else s)
    else none

/-- UDP_REPLY_SEND (R48): the committed final reply of a command that came in a datagram leaves in a datagram of its own,
and the slot frees. -/
def execUdpReplySend (t cid : Nat) (s : State) : Host.Outcome State Fault Refusal :=
  onEvent t (fun s =>
    match slotOf s cid with
    | none => s
    | some c =>
      if c.phase == .committed && isEth c.tr && domOn s 3 then
        handedOver cid (emit (.reply c.tr c.src c.reply) s)
      else s) s

/-- Whether a reply answers a forwarded command (R49). -/
def answers (f : Forward) (ws : List W64) : Bool :=
  f.session == fld (ws.getD 1 0) 63 32 && f.tag == fld (ws.getD 0 0) 47 42
    && f.seq == fld (ws.getD 2 0) 23 0 && f.node == fld (ws.getD 1 0) 26 16

/-- URARA_REPLY_RECEIVE (R49): a reply for a forwarded command goes on through the command's original transport, and a
final one frees its entry; a reply that answers no entry is discarded. -/
def execUraraReplyReceive (t : Nat) (reply : List W64) (s : State) : Host.Outcome State Fault Refusal :=
  onEvent t (fun s =>
    if !domOn s 10 then s else
    match s.cmd.forwards.find? (fun f => answers f reply) with
    | none => s
    | some f =>
      let s := if fbit (reply.getD 0 0) 24
        then { s with cmd.forwards := s.cmd.forwards.filter (fun g => !answers g reply) } else s
      let cid := s.cmd.nextCid
      sendReply f.tr f.src cid reply { s with cmd.nextCid := cid + 1 }) s

/-! ### NET_CONFIG (R55) -/

/-- The settings a NET_CONFIG carries. -/
def netCfgOf (c : Slot) : NetCfg :=
  { enable := parB c 0 8, speed := parF c 0 10 9, fec := parB c 0 11, vlanEn := parB c 0 12, vlanId := parF c 0 27 16,
    pcp := parF c 0 30 28, cmdPort := parF c 0 47 32, ipv6 := parB c 0 48, recEnable := parB c 0 56,
    mac := parF c 1 47 0, pfxLen := parF c 1 55 48, ipLo := par c 2, ipHi := par c 3, recLo := par c 4, recHi := par c 5,
    recPort := parF c 6 15 0, gateway := parF c 7 31 0 }

/-- Whether a NET_CONFIG's fields lie in their ranges (R55). The VLAN ID is judged while tags are on, the record port while
the port sends records. -/
def netCfgOk (c : Slot) : Bool :=
  let n := netCfgOf c
  decide (n.speed ≠ 3) && decide (parF c 0 49 48 ≤ 1)
    && (if n.vlanEn then decide (1 ≤ n.vlanId) && decide (n.vlanId ≤ 4094) else decide (n.vlanId ≤ 4094))
    && decide (1 ≤ n.cmdPort) && decide (n.cmdPort ≤ 65534)
    && decide (n.pfxLen ≤ if n.ipv6 then 128 else 32)
    && (n.ipv6 || (decide (n.ipLo.toNat < 2 ^ 32) && n.ipHi == 0 && decide (n.recLo.toNat < 2 ^ 32) && n.recHi == 0))
    && (!n.recEnable || decide (1 ≤ n.recPort))

/-- Whether a port's settings give it an address to take commands on: IPv6 has at least its link-local one. -/
def hasAddress (n : NetCfg) : Bool := n.enable && (n.ipv6 || n.ipLo != 0)

/-- The MAC address a port uses under its settings (R55). -/
def macInUse (p : Nat) (n : NetCfg) : Nat := if n.mac = 0 then (Config.factoryMac p).toNat else n.mac

/-- The settings a port will have once the replies due have left. -/
def cfgAhead (p : NetPort) : NetCfg := p.next.getD p.cfg

/-- NET_CONFIG (R55): the settings are saved and take effect once the final reply has been sent. -/
def execNetConfig (t cid : Nat) (s : State) : Host.Outcome State Fault Refusal :=
  onStart Op.netConfig t cid (fun c s =>
    let p : Fin 2 := if parB c 0 0 then 1 else 0
    let other : Fin 2 := if parB c 0 0 then 0 else 1
    let n := netCfgOf c
    if !netCfgOk c then refuse c Status.badParameter s
    else if !domOn s 4 && !hasAddress n && !hasAddress (cfgAhead s.net[other]) then refuse c Status.domainRequired s
    else
      let s := { s with net := upd s.net p fun q => { q with next := some n, nextCid := c.cid } }
      answer c [word (macInUse p n)] (mendConfig (fun h => match h with | .net q _ => q == p | _ => false) s)) s

/-! ### IDENTIFY and CRIER_CONFIG -/

/-- The seven result words of IDENTIFY (R53). -/
def identifyWords (s : State) : List W64 :=
  [ word 0x00012618, word 0x4200, word (ownNode s), Config.serial,
    word (s.fwVersion[0] + put s.bgd.fwSlot 63), word s.fwVersion[1],
    word (s.well.bytes - 8 * 2 ^ 30) ]

/-- IDENTIFY (R53). -/
def execIdentify (t cid : Nat) (s : State) : Host.Outcome State Fault Refusal :=
  onStart Op.identify t cid (fun c s => answer c (identifyWords s) s) s

/-- CRIER_CONFIG (R514): the ring must have role 3, the rate limit at least 1, the collecting node be 0 or a node. -/
def execCrierConfig (t cid : Nat) (s : State) : Host.Outcome State Fault Refusal :=
  onStart Op.crierConfig t cid (fun c s =>
    if !ringHas s (parF c 1 3 0) [.crierOut] then refuse c Status.badRing s
    else if parF c 2 15 0 = 0 ∨ 2000 < parF c 3 10 0 then refuse c Status.badParameter s
    else done c { s with
      cri.mask := parF c 0 4 0, cri.ring := parF c 1 3 0, cri.ringOn := parB c 1 8,
      cri.rate := parF c 2 15 0, cri.collect := parF c 3 10 0 }) s

end Sys2Proof.Machine
end

