-- ==== Sys2Proof/Machine/UraraLink.lean ====
section
/-!
DEFINITION. The Urara link: node IDs, TOPOLOGY, announcements and routes (R371 to R373, R378), packets and their link layer (R374 to R379), TRIGGER events from
other nodes (R381, R382, R388) and time over the link (R383).
-/
namespace Sys2Proof.Machine

/-! ### Node IDs (R373) -/

/-- NODE_ID (R373). -/
def execNodeId (t cid : Nat) (s : State) : Host.Outcome State Fault Refusal :=
  onStart Op.nodeId t cid (fun c s =>
    let n := parN c 0
    if n = 0 ∨ 2000 < n then refuse c Status.badParameter s
    else if s.ura.announced.any fun a => a.1 == n && a.2 != Config.serial.toNat then refuse c Status.nodeConflict s
    else done c { s with node := n, ura.conflict := false, led.badSaved := false }) s

/-! ### Routes (R378, R382) -/

/-- The hop count that stands for a node that cannot be reached in a ROUTE (log entry 12). -/
def noRoute : Nat := 2047

/-- The path latency of a remote entry in ns, where its source has a route (R382). -/
def pathLatency (s : State) (r : Remote) : Option Nat :=
  let debounce := if h : r.local_ < 8 then (s.mot.pds[r.local_]'h).cfg.debounce else 0
  (s.ura.routes.find? fun x => x.node == r.node).map fun x => debounce + 2000 + 250 * x.hops + 500

/-- Remote entries whose path has become too long are disabled, each with TRIGGER_PATH_LONG (R382). -/
def judgeRemotes (s : State) : State :=
  let long (r : Remote) : Bool := r.enable && (match pathLatency s r with | some x => decide (s.ura.trigAllow < x) | none => false)
  let n := (s.ura.remotes.filter long).length
  let s := { s with ura.remotes := s.ura.remotes.map fun r => if long r then { r with enable := false } else r }
  (List.range n).foldl (fun s _ => raise FaultCode.triggerPathLong 0 s) s

/-- A packet to the neighbour on a port, which no node sends on. -/
def neighbourPacket (s : State) (type : Nat) (ws : List W64) : Packet :=
  { dest := 2047, src := if s.ura.conflict then 0 else s.node, cls := packetClass type ws, type := type, words := ws }

/-- The words of route changes (R375): node and hops, a word each. -/
def routeWords (cs : List (Nat × Nat)) : List W64 := cs.flatMap fun c => [word c.1, word c.2]

/-- Route changes leave on a port, at most 256 to a packet. -/
def sendRoutes : Nat → Nat → List (Nat × Nat) → State → State
  | 0, _, _, s => s
  | fuel + 1, port, cs, s =>
    if cs.isEmpty then s
    else sendRoutes fuel port (cs.drop 256) (sendPort port (neighbourPacket s 0x41 (routeWords (cs.take 256))) s)

/-- Changes are advertised on every port in use but the one they came from, by a node that may originate (R373, R378). -/
def advertise (cs : List (Nat × Nat)) (from_ : Option Nat) (s : State) : State :=
  if s.node = 0 || s.ura.conflict || cs.isEmpty then s
  else ((List.range 4).filter fun p => portUsed s p && from_ != some p).foldl (fun s p => sendRoutes (cs.length + 1) p cs s) s

/-- Whether a route through a port replaces another: fewer hops, at equal hops the lower port, or news of the same port (R378). -/
def betterRoute (new old : Route) : Bool :=
  old.port == new.port || decide (new.hops < old.hops) || (new.hops == old.hops && decide (new.port < old.port))

/-- One route learned through a port enters the table of 2,048, or leaves it where the node cannot be reached through its port any more. -/
def learnRoute (r : Route) (s : State) : State :=
  let old := s.ura.routes.find? fun x => x.node == r.node
  let rest := s.ura.routes.filter fun x => x.node != r.node
  if r.node = 0 || r.node == s.node then s
  else if noRoute ≤ r.hops then
    (match old with | some x => if x.port == r.port then { s with ura.routes := rest } else s | none => s)
  else match old with
    | some x => if betterRoute r x then { s with ura.routes := rest ++ [r] } else s
    | none => if s.ura.routes.length < 2048 then { s with ura.routes := s.ura.routes ++ [r] } else s

/-- What has changed between two route tables: each node with its new hops. -/
def routeChanges (old new : List Route) : List (Nat × Nat) :=
  ((new.filter fun r => !old.contains r).map fun r => (r.node, r.hops))
    ++ ((old.filter fun r => !new.any fun x => x.node == r.node).map fun r => (r.node, noRoute))

/-- After a change of the table: the change is advertised, remote entries are judged, a TOPOLOGY that waits may end. -/
def routesChanged (old : List Route) (from_ : Option Nat) (s : State) : State :=
  settleTopology (judgeRemotes (advertise (routeChanges old s.ura.routes) from_ s))

/-- The logical Urara lane 0 to 7 that a lane serves: its own, or that of the lane a spare covers. -/
def linkIndex (s : State) (n : Nat) : Option Nat :=
  if within 24 32 n then some (n - 24)
  else match (laneOf s n).covers with | some m => if within 24 32 m then some (m - 24) else none | none => none

/-- ANNOUNCE_SEND (R378): each Urara lane and spare lane in UP announces every 100 µs; a node in conflict or without an ID announces node 0 (R373). -/
def execAnnounceSend (t : Nat) (lane : Fin 36) (s : State) : Host.Outcome State Fault Refusal :=
  onEvent t (fun s =>
    let n := lane.val
    if n < 24 || isEthLane n || !laneUp s n || decide (s.now < (laneOf s n).annAt + 100000) then s
    else
      let s := modLane n (fun l => { l with annAt := s.now }) s
      let port := match linkIndex s n with | some i => i / 2 | none => 0
      let node := if s.ura.conflict then 0 else s.node
      let p := neighbourPacket s 0x40 [word node, Config.serial, word port, word n, word s.ura.topology]
      match linkIndex s n with
      | some i => transmit i p s
      | none => emit (.packet n 0x40 (linkWords p 0 0)) s) s

/-- ANNOUNCE_RECEIVE (R373, R378): the lane learns its far end; a neighbour is one hop away; an ID that another device announced under another serial is a conflict. -/
def execAnnounceReceive (t : Nat) (lane : Fin 36) (node serial port farLane : Nat) (s : State) : Host.Outcome State Fault Refusal :=
  onEvent t (fun s =>
    let n := lane.val
    if n < 24 || isEthLane n || !laneUp s n then s
    else
      let s := modLane n (fun l => { l with farNode := some (node, port, farLane) }) s
      if node = 0 then settleTopology s
      else
        let s := { s with ura.announced := s.ura.announced.filter (fun a => a.1 != node) ++ [(node, serial)] }
        let s := if node == s.node && serial != Config.serial.toNat && !s.ura.conflict
          then raise FaultCode.nodeConflict 0 { s with ura.conflict := true } else s
        match linkIndex s n with
        | none => s
        | some i => routesChanged s.ura.routes (some (i / 2)) (learnRoute { node := node, port := i / 2, hops := 1 } s)) s

/-- ROUTE_RECEIVE (R378): changes, or the neighbour's whole table, whose missing nodes expire. -/
def execRouteReceive (t : Nat) (port : Fin 4) (full : Bool) (changes : List RouteChange) (s : State) : Host.Outcome State Fault Refusal :=
  onEvent t (fun s =>
    if !portUsed s port.val || !portUp s port.val then s
    else
      let old := s.ura.routes
      let direct (r : Route) : Bool := r.hops == 1
      let s := if full then { s with ura.routes := old.filter fun r => r.port != port.val || direct r || changes.any fun c => c.node == r.node } else s
      let s := changes.foldl (fun s c => learnRoute { node := c.node, port := port.val, hops := min noRoute (c.hops + 1) } s) s
      routesChanged old (some port.val) s) s

/-- ROUTE_FULL_ADVERTISE (R378): every 100 ms. -/
def execRouteFullAdvertise (t : Nat) (s : State) : Host.Outcome State Fault Refusal :=
  onEvent t (fun s =>
    if s.now < s.ura.fullAt + 100000000 || !domOn s 10 then s
    else advertise (s.ura.routes.map fun r => (r.node, r.hops)) none { s with ura.fullAt := s.now }) s

/-- ROUTE_EXPIRE (R378): 300 µs after a port went down its routes are gone. -/
def execRouteExpire (t : Nat) (port : Fin 4) (s : State) : Host.Outcome State Fault Refusal :=
  onEvent t (fun s =>
    match s.ura.downAt[port] with
    | none => s
    | some m =>
      if s.now < m + 300000 then s
      else routesChanged s.ura.routes none { s with ura.routes := s.ura.routes.filter fun r => r.port != port.val }) s

/-! ### TOPOLOGY (R371, R372) -/

/-- The remote entries of TOPOLOGY. -/
def remotesOf (c : Slot) : List Remote :=
  (List.range 8).map fun k =>
    let x := parN c (4 + k / 2) / 2 ^ (32 * (k % 2))
    { local_ := bits x 2 0, enable := bit x 3, node := bits x 14 4, input := bits x 17 15 }

/-- Whether the ports enabled follow the rules of their topology (R372). -/
def portsOk (topology ports up : Nat) : Bool :=
  match topology with
  | 0 => ports == 0
  | 1 => decide (ports < 4)
  | 2 => true
  | _ => if up = 7 then ports != 15 else bit ports up

/-- TOPOLOGY (R371, R372): newly enabled ports begin their hunt, ports no longer in use fall idle, and the reply waits for the ports. It waits for a run on a lane of a port that it enables (R496). -/
def execTopology (t cid : Nat) (s : State) : Host.Outcome State Fault Refusal :=
  if (List.range 8).any fun i => laneRun (advance t s) (24 + i) && fbit (parOf s cid 0) (8 + i / 2) then .next (advance t s)
  else onStart Op.topology t cid (fun c s =>
    let topo := parF c 0 1 0
    let ports := parF c 0 11 8
    let up := parF c 0 18 16
    let rs := remotesOf c
    if (topo = 3 ∧ 4 ≤ up ∧ up ≠ 7) ∨ 2000 < parF c 2 10 0 ∨ (rs.any fun r => r.enable && (r.node == 0 || decide (2000 < r.node)))
    then refuse c Status.badParameter s
    else if !portsOk topo ports up then refuse c Status.badTopology s
    else if s.twn.bound && jobActive s && (match routePort s s.twn.peer with | some p => !bit ports p | none => false)
    then refuse c Status.topologyBusy s
    else
      let was := s.ura.ports
      let dom1 := parB c 2 16
      let moved := dom1 != s.ura.timeDom1
      let s := ((List.range 4).filter fun p => bit ports p && !bit was p).foldl (fun s _ => granaryCount 5 0 s) s
      let s := { s with
        ura.topology := topo, ura.ports := ports, ura.upPort := up, ura.trigAllow := parF c 1 31 0, ura.timeSource := parF c 2 10 0,
        ura.timeDom1 := dom1, ura.remotes := rs, ura.topos := s.ura.topos ++ [(c.cid, c.acceptAt)] }
      let s := if moved then followedFailed 1 (restartDom 1 s) else s
      let s := (List.range 8).foldl (fun s i =>
        let n := 24 + i
        let on := bit ports (i / 2)
        if on == bit was (i / 2) then s
        else if on then (if lanePowered s n then huntLane n s else s)
        else modLane n (fun l => { l with state := .idle, farNode := none }) (freeSpare n s)) s
      settleTopology (judgeRemotes (notePorts s))) s

/-- TOPOLOGY_REPLY_TIMEOUT (R372): 100 ms after its acceptance a TOPOLOGY ends with the ports that are UP. -/
def execTopologyReplyTimeout (t : Nat) (s : State) : Host.Outcome State Fault Refusal :=
  onEvent t (fun s =>
    let due := s.ura.topos.filter fun w => decide (w.2 + 100000000 ≤ s.now)
    let up := (((List.range 4).filter fun p => portUsed s p && portUp s p).map fun p => 2 ^ p).sum
    due.foldl (fun s w => finish w.1 Status.done 0 [word up] s) { s with ura.topos := s.ura.topos.filter fun w => !due.contains w }) s

/-! ### Packets and their link layer (R374 to R379) -/

/-- Whether a type is one of R375. -/
def knownType (type : Nat) : Bool :=
  [0x40, 0x41, 0x42, 0x43, 0x48, 0x49, 0x4A, 0x4B, 0x50, 0x51, 0x52, 0x53, 0x54, 0x55, 0x56, 0x57, 0x5C].contains type

/-- The packets that an `ack` covers leave the replay buffer, and waiting ones take their room (R377). -/
def takeAck (i ack : Nat) (s : State) : State :=
  let s := modLink i (fun l => { l with sent := l.sent.filter fun e => decide (32768 ≤ (ack + 65536 - e.1) % 65536) }) s
  drainLink (linkOf s i).waiting.length i s

/-- The receiver asks for the `lseq` it expects and discards until it comes (R377). -/
def sendNak (i : Nat) (s : State) : State :=
  if (linkOf s i).naked then s
  else
    let p := neighbourPacket s 0x43 [word (linkOf s i).expect]
    emit (.packet (usedLane s (24 + i)) 0x43 (linkWords p 0 (ackOf s i))) (modLink i (fun l => { l with naked := true }) s)

/-- A packet delivered here waits for the step of its type. -/
def deliverPacket (type src : Nat) (ws : List W64) (s : State) : State := { s with ura.inbox := s.ura.inbox ++ [(type, src, ws)] }

/-- The step of a type takes the oldest packet of that type. -/
def takeInbox (type : Nat) (s : State) : State :=
  { s with ura.inbox := s.ura.inbox.eraseP fun e => e.1 == type }

/-- A TIME packet that is sent on carries its residence and the latency of its ingress lane in `corr` (R383). -/
def forwardedWords (lane type : Nat) (ws : List W64) (s : State) : List W64 × State :=
  if type = 0x4B then
    let (n, s) := takeFresh s
    let lam := (laneOf s lane).lambda * 65536 / 10
    (ws.set 2 (word ((ws.getD 2 0).toNat + Config.residence n + lam)), s)
  else (ws, s)

/-- A packet in order: delivered here, discarded, or sent on (R374, R375, R379). -/
def takePacket (lane i : Nat) (type u0 u1 : Nat) (ws : List W64) (s : State) : State :=
  let dest := bits u0 10 0
  let src := bits u0 26 16
  let hops := bits u0 43 32
  let eseq := bits u1 63 32
  let neighbour := type == 0x40 || type == 0x41
  if !knownType type then { s with ura.unknown := s.ura.unknown + 1 }
  else if neighbour then deliverPacket type src ws s
  else
    let mine := s.node != 0 && !s.ura.conflict
    let p : Packet := { dest := dest, src := src, cls := bits u0 29 28, hops := hops + 1, eseq := eseq, type := type, words := ws }
    let onward (s : State) : State :=
      if 2047 ≤ hops + 1 then { s with ura.dropped := s.ura.dropped + 1 }
      else
        let (fw, s) := forwardedWords lane type ws s
        routePacket { p with words := fw } (some (i / 2)) s
    if dest = 2047 then
      if (mine && src == s.node) || s.ura.seen.contains (src, eseq) then s
      else
        let s := { s with ura.seen := ((src, eseq) :: s.ura.seen).take 1024 }
        onward (if mine then deliverPacket type src ws s else s)
    else if mine && dest == s.node then deliverPacket type src ws s
    else if dest == s.node then { s with ura.dropped := s.ura.dropped + 1 }
    else onward s

/-- URARA_PACKET_RECEIVE (R374 to R379): a packet is checked whole; a gap, a wrong length or a CRC failure draws one LNAK, a packet seen before is discarded. -/
def execUraraPacketReceive (t : Nat) (lane : Fin 36) (type : Nat) (words : List W64) (s : State) : Host.Outcome State Fault Refusal :=
  onEvent t (fun s =>
    match linkIndex s lane.val with
    | none => s
    | some i =>
      if !laneUp s lane.val then s else
      let u0 := (words.getD 0 0).toNat
      let u1 := (words.getD 1 0).toNat
      let body := words.take (words.length - 1)
      let good := words.length == bits u1 9 0 + 3 && fld (words.getD (words.length - 1) 0) 31 0 == crc32c (wordsBytes body)
      let ahead := (bits u0 63 48 + 65536 - (linkOf s i).expect) % 65536
      if !good then sendNak i s
      else if type = 0x42 then takeAck i (bits u1 31 16) s
      else if type = 0x43 then replayFrom i (fld (words.getD 2 0) 15 0) (takeAck i (bits u1 31 16) s)
      else if ahead = 0 then
        let s := modLink i (fun l => { l with expect := (l.expect + 1) % 65536, naked := false }) s
        takePacket lane.val i type u0 u1 (body.drop 2) (takeAck i (bits u1 31 16) s)
      else if ahead < 32768 then sendNak i s
      else takeAck i (bits u1 31 16) s) s

/-- LACK_RECEIVE (R377). -/
def execLackReceive (t : Nat) (lane : Fin 36) (ack : Nat) (s : State) : Host.Outcome State Fault Refusal :=
  onEvent t (fun s =>
    match linkIndex s lane.val with
    | some i => if laneUp s lane.val then takeAck i (ack % 65536) s else s
    | none => s) s

/-- LACK_SEND (R377): a lane with nothing to send for 1 µs acknowledges. -/
def execLackSend (t : Nat) (lane : Fin 36) (s : State) : Host.Outcome State Fault Refusal :=
  onEvent t (fun s =>
    match linkIndex s lane.val with
    | none => s
    | some i =>
      if !laneUp s lane.val || decide (s.now < (linkOf s i).lastTx + 1000) then s
      else emit (.packet lane.val 0x42 (linkWords (neighbourPacket s 0x42 []) 0 (ackOf s i))) (modLink i (fun l => { l with lastTx := s.now }) s)) s

/-- LNAK_RECEIVE (R377): what is in the replay buffer goes out again from the `lseq` named. -/
def execLnakReceive (t : Nat) (lane : Fin 36) (lseq : Nat) (s : State) : Host.Outcome State Fault Refusal :=
  onEvent t (fun s =>
    match linkIndex s lane.val with
    | some i => if laneUp s lane.val then replayFrom i (lseq % 65536) s else s
    | none => s) s

/-- URARA_COMMAND_RECEIVE (R49, R50): a command packet that the link delivered is taken as one from any transport. -/
def execUraraCommandReceive (t src : Nat) (payload : List W64) (s : State) : Host.Outcome State Fault Refusal :=
  onEvent t (fun s =>
    if !domOn s 10 || !s.pwr.ready || s.bgd.takeover || !s.cmd.intakeOpen then s
    else intake .urara src payload (takeInbox 0x48 s)) s

/-! ### TRIGGER events (R381, R388) -/

/-- The moment in elapsed local time of a stamp in device time. -/
def momentOf (s : State) (stamp : Nat) : Nat := s.now - (devTime s - stamp) / 65536

/-- A lead's event at its standby (R388): its product enters the queue under the lead's number, stamp, D and window; an event that was no forced product is compared with the
standby's own edge. -/
def leadTrigger (w : TriggerWords) (s : State) : State :=
  let moment := momentOf s w.stamp
  let cfg := pdSettings s.mot.pds[w.input] moment
  let s := match w.product with
    | some n => (createProduct w.input.val w.line (w.line + cfg.lead) w.stamp moment w.forced { s with mot.nextProd := n }).2
    | none => s
  if w.forced then s else pairEdge { input := w.input.val, line := w.line, stamp := w.stamp, moment := moment, matched := true } s

/-- An event for an enabled remote entry (R381): an edge on the local input with the source's stamp, or, too late, TRIGGER_LATE and a reject window. -/
def remoteTrigger (n : Fin 8) (w : TriggerWords) (s : State) : State :=
  let moment := momentOf s w.stamp
  let cfg := pdSettings s.mot.pds[n] moment
  let line := lineAt s moment
  if !cfg.enable then s
  else if w.stamp + 65536 * s.ura.trigAllow < devTime s then
    let s := raise FaultCode.triggerLate line s
    match jobFor s n.val (line + cfg.lead) moment with
    | some j => (match trackOn j n.val with | some (k, _) => rejectUnqueued k (line + cfg.lead) moment s | none => s)
    | none => s
  else acceptEdge n line w.stamp moment false cfg s

/-- TRIGGER_RECEIVE (R381, R388). -/
def execTriggerReceive (t src : Nat) (w : TriggerWords) (s : State) : Host.Outcome State Fault Refusal :=
  onEvent t (fun s =>
    if !domOn s 10 || !domOn s 9 then s else
    let s := takeInbox 0x4A s
    let s := if s.twn.bound && src == s.twn.peer && standby s && w.lead then leadTrigger w s else s
    if w.forced then s
    else
      let mine := s.ura.remotes.filter fun r => r.enable && r.node == src && r.input == w.input.val
      mine.foldl (fun s r => if h : r.local_ < 8 then remoteTrigger ⟨r.local_, h⟩ w s else s) s) s

/-! ### Time over the link (R383, R404) -/

/-- TIME_SEND (R383): this node's device time goes to a node that takes it, or to the twin peer. -/
def execTimeSend (t node : Nat) (s : State) : Host.Outcome State Fault Refusal :=
  onEvent t (fun s => uraraSend node 0x4B [word (stampSec (devTime s)), word (stampSub (devTime s)), 0] s) s

/-- The peer's clock minus this one's, in ns; beyond 10 µs it is reported, once until it has come back (R404). -/
def noteDiff (ns : Int) (s : State) : State :=
  let far := decide (10000 < ns.natAbs)
  let s := if far && !s.twn.diffSent then raise FaultCode.twinTimeDiff 0 s else s
  { s with twn.clockDiff := ns, twn.diffSent := far }

/-- A TIME sample of tracked domain 1, in place of PTP: its offset, and its path delay for R356 (R383). -/
def uraraSample (offset16 delay16 : Int) (s : State) : State :=
  let ps (x : Int) : Int := x * 1000 / 65536
  if !domOn s 3 then s
  else
    let s := if (domAt s 1).state == .listen then modDom 1 (fun x => { x with state := .acquire }) s else s
    let s := modDom 1 (fun x => { x with haveSync := true, delays := (ps delay16 :: x.delays).take 72 }) s
    let x := domAt s 1
    let s := if delayStepped x.delays s.time.cfg.delayStep && (x.state == .acquire || x.state == .locked)
      then raise FaultCode.timePathStep 1 (freeze 1 s) else s
    sample 1 (ps offset16) s

/-- TIME_RECEIVE (R383, R404): `tSrc` and `corr` in 2⁻¹⁶ ns, `lamIn` in 0.1 ns. -/
def execTimeReceive (t src : Nat) (tSrc corr lamIn : Nat) (s : State) : Host.Outcome State Fault Refusal :=
  onEvent t (fun s =>
    if !domOn s 10 then s else
    let s := takeInbox 0x4B s
    let delay : Int := (corr + lamIn * 65536 / 10 : Nat)
    let offset : Int := (tSrc : Int) + delay - (devTime s : Nat)
    let s := if s.twn.bound && src == s.twn.peer then noteDiff (offset / 65536) s else s
    if s.ura.timeDom1 && src == s.ura.timeSource then uraraSample offset delay s else s) s

/-- The records of four words in a list of words. -/
def recordsOf : Nat → List W64 → List (List W64)
  | 0, _ => []
  | n + 1, ws => if ws.length < 4 then [] else ws.take 4 :: recordsOf n (ws.drop 4)

/-- TELEMETRY_RECEIVE (R375, R514): the event records of another node, which the collecting node receives, leave on its Crier ring as they came. -/
def execTelemetryReceive (t src : Nat) (events : List W64) (s : State) : Host.Outcome State Fault Refusal :=
  onEvent t (fun s =>
    if !domOn s 10 || !domOn s 2 || src == 0 then s
    else
      let s := takeInbox 0x5C s
      if s.cri.ringOn then queueUnits s.cri.ring ((recordsOf events.length events).map fun r => { data := wordsBytes r }) s else s) s

end Sys2Proof.Machine
end

