-- ==== Sys2Proof/Machine/Twins.lean ====
section
/-!
DEFINITION. Twin pairs: roles (R386), the lease (R396 to R399), the witness (R385), replication (R400), the state copy (R401 to R403), line alignment (R387), epochs of a
pair (R391), digests and CHECK (R392, R393), yielding (R395), and the commands TWIN_BIND, TWIN_YIELD and TWIN_STATUS (R384, R395, R404). The payloads of LEASE, JREPL, EPOCH and
COPY are laid out by the model: the spec states what they hold.
-/
namespace Sys2Proof.Machine

/-! ### Roles (R386) -/

/-- The code of a role. -/
def roleCode (r : TwinRole) : Nat :=
  match r with
  | .unbound => 0 | .lead => 1 | .synced => 2 | .copying => 3 | .isolated => 4 | .yielded => 5 | .solo => 6

/-- Every permit is released at the end of its line in progress, or at once where none is (R262, R386). -/
def dropPermits (s : State) : State := settlePermits ((List.range 24).foldl (fun s k => withdrawPermit k s) s)

/-- Every permit follows its conditions again. -/
def raisePermits (s : State) : State := (List.range 24).foldl (fun s k => refreshPermit k s) s

/-- A unit enters a role: leaving SOLO and entering it are reported (R386), and the permits follow the role. -/
def enterRole (r : TwinRole) (s : State) : State :=
  let was := s.twn.role
  let s := { s with twn.role := r }
  let s := if was == .solo && r != .solo then notify Notice.twinSolo 0 s else if was != .solo && r == .solo then notify Notice.twinSolo 1 s else s
  if r == .copying || r == .isolated || r == .yielded then dropPermits s else raisePermits s

/-- The records of a lead that are not durable at a peer it replicates to are void, and their products rejected: the lease is lost (R320). -/
def voidUnreplicated (s : State) : State :=
  if !replicates s then s else
  ((s.tal.journal.filter fun r => r.final.isNone && !bit r.peer 0).map (·.product)).eraseDups.foldl
    (fun s n => voidProduct n 3 Config.leaseLossFault s) s

/-- A lead becomes ISOLATED: it abandons its claims and stops (R302, R397, R398). -/
def isolate (s : State) : State :=
  enterRole .isolated (abandonAll { s with
    twn.isolations := sat 0xFFFF (s.twn.isolations + 1), twn.peerSynced := false, twn.copying := false, twn.handing := false, twn.yieldDue := false,
    twn.replOut := [], twn.renewals := [], twn.epoch := none })

/-- A unit becomes YIELDED (R395). -/
def becomeYielded (s : State) : State :=
  let s := notify Notice.twinYielded s.twn.yieldCode s
  enterRole .yielded { s with
    twn.yields := sat 0xFFFF (s.twn.yields + 1), twn.yieldDue := false, twn.peerSynced := false, twn.copying := false, twn.aligned := false, twn.epoch := none }

/-- A unit begins to copy from the lead (R401, R403). -/
def becomeCopying (s : State) : State :=
  enterRole .copying { s with
    flt.redoTo := 0, flt.replaying := [], twn.aligned := false, twn.leaseFrom := 0, twn.progress := 0, twn.epoch := none, twn.edges := [], twn.peerSynced := false, twn.copying := false }

/-- A both-lead window of 4 ms begins (R302, R320, R398). -/
def openWindow (s : State) : State :=
  raise FaultCode.tallyBothLead 0 { s with twn.bothLead := true, twn.bothEnd := s.now + 4000000, twn.windows := sat 0xFFFF (s.twn.windows + 1) }

/-! ### The lease (R396 to R399) -/

/-- A LEASE message: kind 0 renew, 1 ack, 2 deny, 3 handover. -/
def sendLease (ws : List W64) (s : State) : State := uraraSend s.twn.peer 0x50 ws s

/-- LEASE_RENEW_SEND (R396): a lead whose lease has not expired, or a SOLO unit, sends a renewal every 5 ms. -/
def execLeaseRenewSend (t : Nat) (s : State) : Host.Outcome State Fault Refusal :=
  onEvent t (fun s =>
    let leads := (s.twn.role == .lead && !s.twn.leaseOut) || s.twn.role == .solo
    if !leads || decide (s.now < s.twn.renewAt + 5000000) then s
    else
      let n := s.twn.renewN + 1
      sendLease [0, word n, word s.now] { s with twn.renewN := n, twn.renewAt := s.now, twn.renewals := s.twn.renewals ++ [(n, s.now)] }) s

/-- LEASE_RENEW_RECEIVE (R396, R403, R405): a standby acknowledges at once with its role; an ISOLATED unit, or a YIELDED one whose cause has cleared, begins to copy; a unit that
holds the lead itself denies. -/
def execLeaseRenewReceive (t n : Nat) (s : State) : Host.Outcome State Fault Refusal :=
  onEvent t (fun s =>
    let s := takeInbox 0x50 s
    if s.twn.role == .unbound then s
    else if s.twn.role == .lead || s.twn.role == .solo then sendLease [2, word n] s
    else
      let s := if s.twn.role == .isolated || (s.twn.role == .yielded && !faulted s) then becomeCopying s else s
      let s := { s with twn.leaseFrom := s.now, twn.renewN := n, twn.renewAt := s.now }
      sendLease [1, word n, word (roleCode s.twn.role)] s) s

/-- The lead begins a state copy (R401): the copy number, its highest record and product numbers, and a LINEMARK. A copy that has not ended in 10 s has failed, with the
command that waits for it. -/
def beginCopy (s : State) : State :=
  let failed := s.twn.copying && s.twn.bindCid != 0
  let s := if failed then finish s.twn.bindCid Status.faultNoEffect FaultCode.twinConfigDiff [] { s with twn.bindCid := 0 } else s
  let s := { s with twn.copy := (s.twn.copy + 1) % 2 ^ 32, twn.copying := true, twn.copyAt := s.now, twn.progress := 0 }
  let mark := (s.mot.bounds.head?.map (·.1)).getD s.now
  let s := uraraSend s.twn.peer 0x57 [0, word s.twn.copy, word (s.tal.nextRec - 1), word (s.mot.nextProd - 1)] s
  uraraSend s.twn.peer 0x54 [word s.mot.line, word (devTime s - 65536 * (s.now - mark))] s

/-- What the role of the peer that acknowledged means to the lead: a SYNCED one is its peer, and one that copies is given a copy (R400, R401, R403). -/
def heedPeer (role : Nat) (s : State) : State :=
  let s := { s with twn.peerSynced := role == 2 }
  if role = 3 ∧ (!s.twn.copying ∨ s.twn.copyAt + 10000000000 ≤ s.now) then beginCopy s
  else if role ≠ 3 then { s with twn.copying := false } else s

/-- The old lead's part of a handover: it abandons its claims and becomes YIELDED where it yields, else SYNCED (R399, R302). -/
def handedLease (s : State) : State :=
  let s := abandonAll { s with twn.handing := false, twn.renewals := [], twn.peerSynced := false, twn.replOut := [] }
  if s.twn.yieldDue then
    let s := becomeYielded { s with twn.leaseFrom := s.now }
    if s.twn.yieldCid = 0 then s else finish s.twn.yieldCid Status.done 0 [] { s with twn.yieldCid := 0 }
  else enterRole .synced { s with twn.leaseFrom := s.now, twn.aligned := true }

/-- LEASE_ACK_RECEIVE (R396, R399): the lease runs to s_n + 20 ms, or the handover is complete. A SOLO unit that has a peer again is LEAD. -/
def execLeaseAckReceive (t n peerRole : Nat) (s : State) : Host.Outcome State Fault Refusal :=
  onEvent t (fun s =>
    let s := takeInbox 0x50 s
    if s.twn.handing then handedLease s
    else if !((s.twn.role == .lead && !s.twn.leaseOut) || s.twn.role == .solo) then s
    else match s.twn.renewals.find? (fun r => r.1 == n) with
      | none => s
      | some r =>
        let s := { s with
          twn.leaseEnd := max s.twn.leaseEnd (r.2 + 20000000), twn.leaseOut := false, twn.latency := (s.now - r.2 + 1) / 2,
          twn.renewals := s.twn.renewals.filter fun x => decide (n < x.1) }
        heedPeer peerRole (if s.twn.role == .solo then enterRole .lead s else s)) s

/-- LEASE_DENY_RECEIVE (R398). -/
def execLeaseDenyReceive (t : Nat) (s : State) : Host.Outcome State Fault Refusal :=
  onEvent t (fun s =>
    let s := takeInbox 0x50 s
    if s.twn.role == .lead || s.twn.role == .solo then isolate (voidUnreplicated s) else s) s

/-- LEAD_LEASE_EXPIRY (R397, R398): the lead stops issuing; what is not durable at the peer is void, and what would still be written is marked `both_lead` for 4 ms. -/
def execLeadLeaseExpiry (t : Nat) (s : State) : Host.Outcome State Fault Refusal :=
  onEvent t (fun s =>
    if s.twn.role != .lead || s.twn.leaseOut || decide (s.now < s.twn.leaseEnd) then s
    else openWindow (voidUnreplicated { s with twn.leaseOut := true, twn.outAt := s.now, twn.handing := false })) s

/-- LEAD_EXPIRY_DECISION (R397): 2 ms after expiry the lead is SOLO where the peer's witness is silent, else ISOLATED. -/
def execLeadExpiryDecision (t : Nat) (s : State) : Host.Outcome State Fault Refusal :=
  onEvent t (fun s =>
    if s.twn.role != .lead || !s.twn.leaseOut || decide (s.now < s.twn.outAt + 2000000) then s
    else if s.twn.witSilent then
      enterRole .solo { s with twn.leaseOut := false, twn.peerSynced := false, twn.copying := false, twn.renewals := [], twn.replOut := [] }
    else isolate { s with twn.leaseOut := false }) s

/-! ### Takeover (R387, R388, R397, R402, R405) -/

/-- An edge that the standby detected without a matching event becomes a product of the new lead, voided as late where its first line lies nearer than the job's
minimum lead (R388, R548). -/
def adoptEdge (e : TwinEdge) (s : State) : State :=
  if h : e.input < 8 then
    let cfg := pdSettings (s.mot.pds[e.input]'h) e.moment
    let (num, s) := createProduct e.input e.line (e.line + cfg.lead) e.stamp e.moment false s
    match num with
    | none => s
    | some n =>
      match productOf s n with
      | none => s
      | some p =>
        let lead := match jobOf s p.job with | some j => minLead s j (pdCfgs s) | none => 0
        if p.first < s.mot.line + lead then voidFault n FaultCode.productLate s else s
  else s

/-- Every edge without an event is adopted, in order of its stamp. -/
def adoptEdges (s : State) : State :=
  (s.twn.edges.filter fun e => !e.matched).foldl (fun s e => adoptEdge e s) { s with twn.edges := [] }

/-- The products of which records are missing at a takeover are void with reason 5: all without a record where the copy had not committed (R402), else those whose group came
over in part. -/
def voidUnheld (copying : Bool) (s : State) : State :=
  s.prod.queue.foldl (fun s p =>
    let need := (productStreams s p).length
    let have_ := (recsOf s p.num).length
    if bit p.flags 0 || need == 0 || have_ == need || (have_ == 0 && !copying) then s else voidProduct p.num 5 0 s) s

/-- The standby takes the lead as SOLO (R387, R397, R398, R402, R405): numbers go on 65,536 higher, a pending epoch is dropped, and the records of the next 4 ms are marked. -/
def takeOver (s : State) : State :=
  let copying := s.twn.role == .copying
  let s := enterRole .solo { s with
    twn.takeovers := sat 0xFFFF (s.twn.takeovers + 1), twn.epoch := none, twn.leaseOut := false, twn.handing := false, twn.yieldDue := false, twn.renewals := [],
    twn.peerSynced := false, tal.nextRec := s.tal.nextRec + 65535, mot.nextProd := s.mot.nextProd + 65535 }
  adoptEdges (voidUnheld copying (openWindow s))

/-- STANDBY_TAKEOVER (R397, R402, R403): no renewal by r_k + 22 ms. A unit that copies and has heard no lead takes it only where the peer's witness is silent. -/
def execStandbyTakeover (t : Nat) (s : State) : Host.Outcome State Fault Refusal :=
  onEvent t (fun s =>
    let heard := s.twn.leaseFrom != 0
    let due := decide (s.twn.leaseFrom + 22000000 ≤ s.now)
    if s.twn.role == .synced && due then takeOver s
    else if s.twn.role == .copying && ((heard && due) || (!heard && s.twn.witSilent)) then takeOver s
    else s) s

/-- LEASE_HANDOVER_RECEIVE (R399): the peer answers and is lead from that moment. -/
def execLeaseHandoverReceive (t record product n : Nat) (s : State) : Host.Outcome State Fault Refusal :=
  onEvent t (fun s =>
    let s := takeInbox 0x50 s
    if s.twn.role != .synced then s
    else
      let s := { s with
        tal.nextRec := max s.tal.nextRec (record + 1), mot.nextProd := max s.mot.nextProd (product + 1), twn.renewN := n, twn.renewAt := s.now,
        twn.leaseEnd := s.now + 20000000, twn.leaseOut := false, twn.renewals := [], twn.peerSynced := true, twn.epoch := none, twn.edges := [] }
      sendLease [1, word n, 1] (enterRole .lead s)) s

/-- BOTH_LEAD_WINDOW_END (R302): the window ends and the issuer abandons the rest of its claims. -/
def execBothLeadWindowEnd (t : Nat) (s : State) : Host.Outcome State Fault Refusal :=
  onEvent t (fun s =>
    if s.twn.bothLead && decide (s.twn.bothEnd ≤ s.now) then abandonAll { s with twn.bothLead := false } else s) s

/-! ### The witness (R385) -/

/-- WITNESS_TOGGLE (R385): every 1 ms while the CPU domain runs, once the device is ready (R529). -/
def execWitnessToggle (t : Nat) (s : State) : Host.Outcome State Fault Refusal :=
  onEvent t (fun s =>
    if s.twn.bound && s.pwr.ready && domOn s 2 && decide (s.twn.witTog + 1000000 ≤ s.now) then { s with twn.witLevel := !s.twn.witLevel, twn.witTog := s.now } else s) s

/-- WITNESS_EDGE (R385). -/
def execWitnessEdge (t : Nat) (s : State) : Host.Outcome State Fault Refusal :=
  onEvent t (fun s => if s.twn.bound then { s with twn.witAt := s.now, twn.witSilent := false } else s) s

/-- WITNESS_SILENT (R385): no edge for 5 ms. -/
def execWitnessSilent (t : Nat) (s : State) : Host.Outcome State Fault Refusal :=
  onEvent t (fun s => if s.twn.bound && decide (s.twn.witAt + 5000000 ≤ s.now) then { s with twn.witSilent := true } else s) s

/-! ### Digests and yields (R392 to R395) -/

/-- DIGEST_RECEIVE (R392). -/
def execDigestReceive (t line : Nat) (d recipe : W64) (s : State) : Host.Outcome State Fault Refusal :=
  onEvent t (fun s =>
    let s := takeInbox 0x51 s
    if !(s.twn.role == .lead || s.twn.role == .synced) then s else
    let late := s.twn.digests.any fun x => x.line == line && x.own.isSome && decide (x.ownAt + 1000000 < s.now)
    let s := if late then raise FaultCode.twinDigestLate line { s with twn.lateDig := s.twn.lateDig + 1 } else s
    compareDigests line (modDigest line (fun x => { x with peer := some (d.toNat, recipe.toNat) }) s)) s

/-- CHECK_RECEIVE (R393). -/
def execCheckReceive (t line : Nat) (peerFault : Bool) (s : State) : Host.Outcome State Fault Refusal :=
  onEvent t (fun s =>
    let s := takeInbox 0x56 s
    if !(s.twn.role == .lead || s.twn.role == .synced) then s
    else resolveMismatch line (modDigest line (fun x => { x with check := some peerFault }) s)) s

/-- UNIT_YIELD (R395): at its decision time a unit that is to yield stops; a lead with a SYNCED peer first hands over. -/
def execUnitYield (t : Nat) (s : State) : Host.Outcome State Fault Refusal :=
  onEvent t (fun s =>
    if !s.twn.yieldDue then s
    else if s.twn.role == .lead && s.twn.peerSynced then sendHandover s
    else if s.twn.role == .lead || s.twn.role == .synced then becomeYielded (if s.twn.role == .lead then abandonAll s else s)
    else { s with twn.yieldDue := false }) s

/-! ### Replication (R400, R403) -/

/-- A record from the words of its issue part (R308). Its data string is made again from its template, as the lead made it (R311). -/
def recordOf (s : State) (ws : List W64) : Rec :=
  let w (i : Nat) : W64 := ws.getD i 0
  let product := (w 1).toNat
  let stream := fld (w 2) 35 32
  let p := productOf s product
  let at_ := (w 5).toNat * 1000000000 + fld (w 6) 31 0
  let shown : Rec :=
    { num := (w 0).toNat, product := product, pool := fld (w 2) 31 0, stream := stream, unit := fld (w 2) 36 36, bothLead := fbit (w 2) 37,
      symbology := fld (w 2) 47 40, serial := (w 3).toNat, index := (w 4).toNat, issueAt := at_, calEntry := fld (w 6) 63 32, job := fld (w 7) 31 0,
      planVer := fld (w 7) 63 32, auth := (w 8).toNat, content := (w 9).toNat }
  let first := (p.map (·.first)).getD 0
  match (if h : stream < 16 then (s.tal.streams[stream]'h).template else none) with
  | none => shown
  | some t =>
    let plan := (s.tal.plans.find? fun x => x.2.ver == shown.planVer).map (·.2)
    let entry := (plan.bind fun x => x.entries[shown.calEntry]?).getD {}
    let grant := ((poolOf s shown.pool).bind fun q => q.grants.find? fun g => within g.base (g.base + g.count) shown.serial)
    let key := if s.kry.approved then none else grant.map fun g => (keyOf s g.authKey 3).getD []
    let line := (grant.map (·.lineId)).getD 0
    let feed : Feed := { serial := shown.serial, own := 0, lower := (recsOf s product).map fun r => (r.stream, r.serial, r.auth), entry := entry }
    let font := if h : stream < 16 then (s.tal.streams[stream]'h).font else none
    let data := ((codeData t feed key line shown.pool).map (·.1)).getD []
    { shown with data := data, firstLine := first + t.oy, lastLine := first + t.oy + (overlaySize t font).2 - 1 }

/-- The peer is told that a part, claim, grant or plan is durable here (R400); what a snapshot brought carries no number. -/
def acknowledge (seq : Nat) (s : State) : State := if seq = 0 then s else uraraSend s.twn.peer 0x52 [word seq, 6] s

/-- A part of the lead's journal goes into this unit's journal, to be acknowledged once it is durable (R400), and into its own record stream. -/
def storePart (seq n kind : Nat) (s : State) : State :=
  let w := LWrite.part n kind
  exportPart n kind { s with led.writes := s.led.writes ++ [w], twn.ackDue := if seq = 0 then s.twn.ackDue else s.twn.ackDue ++ [(w, seq)] }

/-- The issue part of a record of the lead at its standby. -/
def takeIssue (seq : Nat) (ws : List W64) (s : State) : State :=
  let r := recordOf s ws
  let shift := ((s.tal.plans.find? fun x => x.2.ver == r.planVer).bind fun x => x.2.entries[r.calEntry]?.map (·.shift)).getD []
  let s := { s with
    tal.journal := s.tal.journal.filter (fun x => x.num % 98304 != r.num % 98304) ++ [r], tal.nextRec := max s.tal.nextRec (r.num + 1) }
  let s := modPool r.pool (fun p => { p with
    grants := (p.grants.map fun g => if within g.base (g.base + g.count) r.serial then { g with used := g.used + 1 } else g).filter fun g => decide (g.used < g.count) }) s
  let s := modProduct r.product (fun p =>
    { p with issued := true, records := p.records ++ [r.num], firstRec := some (p.firstRec.getD r.num) }) s
  judgeHigh (storePart seq r.num 0 (intoManifest shift r s))

/-- A fired or final part of a record of the lead at its standby: the record takes it, and a final state settles the product here as well (R385, R400). -/
def takeLatePart (seq n kind : Nat) (x : W64) (s : State) : State :=
  match recOf s n with
  | none => s
  | some r =>
    if kind = 1 then storePart seq n 1 (modRec n (fun r => { r with firedLine := some x.toNat }) s)
    else
      let f : FinalPart := { kind := fld x 7 0, reason := fld x 15 8, grade := fld x 23 16, fault := fld x 47 32, secs := fld x 63 48 }
      let s := countManifests n f.kind (storePart seq n 2 (modRec n (fun r =>
        { r with final := some f, grade := f.grade, outcome := if f.kind = 1 then 1 else 2 }) s))
      let s := if f.kind = 2 then setFlag r.product 0 s else if f.kind = 3 then setFlag r.product 3 s else s
      settleProduct r.product s

/-- A part of another unit's journal at a unit that holds the lead: late records of an expired lead, or those that a resynchronising unit brings. The record is kept void with
reason 3, and its product rejected (R398, R403). -/
def takeForeign (seq kind : Nat) (ws : List W64) (s : State) : State :=
  if kind ≠ 0 ∨ (recOf s (ws.getD 0 0).toNat).isSome then acknowledge seq s
  else
    let r := recordOf s ws
    let s := { s with tal.journal := s.tal.journal.filter (fun x => x.num % 98304 != r.num % 98304) ++ [r], tal.nextRec := max s.tal.nextRec (r.num + 1) }
    let s := storePart seq r.num 0 s
    if (productOf s r.product).isSome then voidFault r.product FaultCode.tallyBothLead s
    else voidRec 3 FaultCode.tallyBothLead r.num (raise FaultCode.tallyBothLead r.product s)

/-- The check word of a part is right: its CRC-32C, and its seal (R308). -/
def partOk (kind : Nat) (ws : List W64) : Bool :=
  if kind = 0 then ws.length == 12 && fld (ws.getD 11 0) 31 0 == crc32c (wordsBytes (ws.take 11))
  else ws.length == 3 && fld (ws.getD 2 0) 31 0 == crc32c (wordsBytes (ws.take 2))

/-- One part arrives. -/
def takePart (seq record kind : Nat) (ws : List W64) (s : State) : State :=
  if !partOk kind ws then s
  else if s.twn.role == .lead || s.twn.role == .solo then takeForeign seq kind ws s
  else if !partsFromLead s then s
  else if kind = 0 then takeIssue seq ws s
  else takeLatePart seq record kind (ws.getD 1 0) s

/-- An acknowledgement makes a part durable at the peer (R400). -/
def takeReplAck (n : Nat) (s : State) : State :=
  match s.twn.replOut.find? (fun x => x.1 == n) with
  | none => s
  | some (_, w) =>
    let s := { s with twn.replOut := s.twn.replOut.filter fun x => x.1 != n }
    match w with
    | .part r kind => modRec r (fun x => { x with peer := x.peer ||| 2 ^ kind }) { s with twn.replHigh := max s.twn.replHigh r }
    | .cal _ => s

/-- A grant of the lead at its standby (R299, R400). -/
def takeGrant (pool : Nat) (ws : List W64) (s : State) : State :=
  let g := parseGrant ws
  let last := ((poolOf s pool).map (·.lastNo)).getD 0
  if g.no ≤ last then s else acceptGrant pool g s

/-- One item of JREPL. -/
def takeItem (seq : Nat) (i : JreplItem) (s : State) : State :=
  match i with
  | .part record kind body => takePart seq record kind (wordsOf body) s
  | .ack n => takeReplAck n s
  | .claim pool grant sub =>
    if !partsFromLead s then s
    else acknowledge seq (exportEntry 4 [word pool, word grant, word sub, word (1 - s.twn.unit)] [] (modPool pool (fun p => { p with
      grants := mapWhere (fun g => g.no == grant) (fun g => { g with peerSubs := g.peerSubs ++ [sub] }) p.grants }) s))
  | .grant pool body => if partsFromLead s then acknowledge seq (takeGrant pool (wordsOf body) s) else s
  | .plan body =>
    if !partsFromLead s then s
    else match parsePlan body (planNow s) with
      | some p => acknowledge seq (acceptPlan s.now p body s)
      | none => acknowledge seq s

/-- JREPL_RECEIVE (R400, R403). -/
def execJreplReceive (t seq : Nat) (item : JreplItem) (s : State) : Host.Outcome State Fault Refusal :=
  onEvent t (fun s =>
    let s := takeInbox 0x52 s
    if s.twn.bound then takeItem seq item s else s) s

/-! ### Epochs of a pair (R391) -/

/-- A retirement that the peer decided holds here too (R187, R391). -/
def takeRetired (stall chan reason : Nat) (s : State) : State :=
  if s.mil.retired.any (fun r => r.stall == stall && r.channel == chan) then s
  else { s with mil.retired := s.mil.retired ++ [{ stall := stall, channel := chan, reason := reason }], mil.placeDue := true }

/-- A changed item that the peer sent: a retirement, or an item that is written here (R391). -/
def takeChange (twin : Bool) (i : CalRec) (s : State) : State :=
  if 0x200 ≤ i.item then takeRetired (i.item - 0x200) (leAt i.body 0 4) (leAt i.body 4 4) s
  else
    let first := s.led.staging.isEmpty
    let w : CalWrite := { new := { item := i.item, body := i.body, quality := i.quality, origin := 2 }, twin := twin }
    let s := { s with led.staging := s.led.staging ++ [w] }
    if first then startStaging s else s

/-- EPOCH_PROPOSE_RECEIVE (R391): at the standby, a proposal, whose items are written and then answered with its lowest undispatched line; at the lead, a change that the standby
originated. -/
def execEpochProposeReceive (t epoch : Nat) (placement : Bool) (items : List CalRec) (s : State) : Host.Outcome State Fault Refusal :=
  onEvent t (fun s =>
    let s := takeInbox 0x53 s
    if s.twn.role == .synced then
      let s := { s with
        twn.epoch := some { num := epoch, placement := placement, items := items.map fun i => (i.item, i.body), stop := s.mil.nextLine + 16 }, twn.epochNum := epoch }
      reportEpoch (items.foldl (fun s i => takeChange true i s) s)
    else if s.twn.role == .lead then proposeIfDue (items.foldl (fun s i => takeChange false i s) s)
    else s) s

/-- EPOCH_COMMIT_RECEIVE (R391): at the lead, the standby's f, which fixes F_e; at the standby, F_e. -/
def execEpochCommitReceive (t epoch fe : Nat) (s : State) : Host.Outcome State Fault Refusal :=
  onEvent t (fun s =>
    let s := takeInbox 0x53 s
    match s.twn.epoch with
    | none => s
    | some e =>
      if e.num ≠ epoch ∨ e.line.isSome then s
      else if s.twn.role == .lead then
        let f := max e.stop (fe + 16)
        uraraSend s.twn.peer 0x53 [2, word e.num, word f] { s with twn.epoch := some { e with line := some f } }
      else if s.twn.role == .synced then { s with twn.epoch := some { e with line := some fe } }
      else s) s

/-! ### Line alignment (R387) -/

/-- The own line boundary whose stamp lies within half a line period of a moment. -/
def boundaryNear (s : State) (moment : Nat) : Option Nat :=
  (s.mot.bounds.find? fun b => decide (2 * (b.1 - moment) ≤ period s) && decide (2 * (moment - b.1) ≤ period s)).map (·.2)

/-- The line index moves by a difference: Lb, L, and everything that is counted from them (R387). -/
def shiftLines (from_ to_ : Nat) (s : State) : State :=
  let f (x : Nat) : Nat := x + to_ - from_
  { s with
    mot.lb := f s.mot.lb, mot.line := f s.mot.line, mot.bounds := s.mot.bounds.map fun b => (b.1, f b.2), mil.nextLine := f s.mil.nextLine,
    stl := s.stl.map fun st => { st with builtTo := f st.builtTo } }

/-- A mark of the lead (R387): a standby that is not aligned takes the lead's index; one that is and disagrees reports TWIN_LINE_SLIP and copies again. -/
def takeMark (line stamp : Nat) (s : State) : State :=
  match boundaryNear s (momentOf s stamp) with
  | none => s
  | some own =>
    if !s.twn.aligned then { shiftLines own line s with twn.aligned := true }
    else if own = line then s
    else becomeCopying (raise FaultCode.twinLineSlip line { s with twn.slips := s.twn.slips + 1 })

/-- LINEMARK_RECEIVE (R387). -/
def execLinemarkReceive (t line stamp : Nat) (s : State) : Host.Outcome State Fault Refusal :=
  onEvent t (fun s =>
    let s := takeInbox 0x54 s
    if standby s then takeMark line stamp s else s) s

/-- VERDICT_RECEIVE (R390, R394): the lead applies the flags of lines fired from the standby's copy, or the standby's verification result. -/
def execVerdictReceive (t : Nat) (v : Verdict) (s : State) : Host.Outcome State Fault Refusal :=
  onEvent t (fun s =>
    let s := takeInbox 0x55 s
    if s.twn.role != .lead then s
    else match v with
      | .flags items => applyFlags items s
      | .result ws =>
        let w := ws.getD 2 0
        applyOutcome (ws.getD 0 0).toNat (fld w 3 0) (fld w 15 8) (fld w 63 48) s) s

/-! ### The state copy (R401 to R403) -/

/-- A unit that copies sends the lead every record it holds that the lead may lack (R403). -/
def sendRecords (s : State) : State :=
  (s.tal.journal.filter fun r => !bit r.peer 0).foldl (fun s r =>
    uraraSend s.twn.peer 0x52 ([word s.twn.replSeq, 0] ++ issueWords r)
      { s with twn.replSeq := s.twn.replSeq + 1, twn.replOut := s.twn.replOut ++ [(s.twn.replSeq, .part r.num 0)] }) s

/-- COPY_BEGIN_RECEIVE (R401, R387, R403). `configEqual` says whether this unit's configuration equals the lead's digests of it. -/
def execCopyBeginReceive (t copy record product line stamp : Nat) (configEqual : Bool) (s : State) : Host.Outcome State Fault Refusal :=
  onEvent t (fun s =>
    let s := takeInbox 0x57 s
    if s.twn.role != .copying then s
    else
      let s := { s with twn.copy := copy, twn.progress := 0, twn.retryAt := 0 }
      if !configEqual then
        let s := raise FaultCode.twinConfigDiff 0 { s with twn.copyFault := FaultCode.twinConfigDiff, twn.retryAt := s.now + 10000000000 }
        if s.twn.bindCid = 0 then s else finish s.twn.bindCid Status.faultNoEffect FaultCode.twinConfigDiff [] { s with twn.bindCid := 0 }
      else
        sendRecords (takeMark line stamp { s with
          twn.copying := true, tal.nextRec := max s.tal.nextRec (record + 1), mot.nextProd := max s.mot.nextProd (product + 1) })) s

/-- A product of a snapshot. -/
def snapProduct (s : State) (p : SnapProduct) : Product :=
  { num := p.num, detect := p.detect, moment := momentOf s p.detect, detLine := p.detLine, first := p.first, stop := p.stop, job := p.job, track := p.track,
    input := p.input, flags := p.flags, issued := p.issued, gw := wordsAt s (momentOf s p.detect),
    records := (recsOf s p.num).map (·.num), firstRec := ((recsOf s p.num).head?).map (·.num) }

/-- The epochs of a snapshot of one kind, newest first. -/
def snapEpochs (retired : List Retired) (placement : Bool) (es : List SnapEpoch) : List Epoch :=
  ((es.filter fun e => e.placement == placement).map fun e =>
    { num := e.num, first := e.first, items := e.items.map fun i => (i.item, i.body), retired := retired }).reverse

/-- The snapshot takes effect (R401): items, journal, queue, epochs and retirements, with the config messages that the new maps ask for. -/
def applySnapshot (x : Snapshot) (s : State) : State :=
  let s := x.items.foldl (fun s i => storeItem { item := i.item, body := i.body, quality := i.quality, origin := 2, written := devSec s } s) s
  let s := x.journal.foldl (fun s i => takeItem 0 i s) s
  let rs : List Retired := x.retired.map fun r => { stall := r.1, channel := r.2.1, reason := r.2.2 }
  let cal := snapEpochs rs false x.epochs
  let place := snapEpochs rs true x.epochs
  let new := x.products.filter fun p => !(s.prod.queue.any fun q => q.num == p.num)
  let s := { s with
    prod.queue := new.map (snapProduct s) ++ s.prod.queue,
    mil.retired := rs, mil.calEpochs := cal, mil.placeEpochs := place, mil.calPend := [], mil.placePend := [], mil.placeDue := false,
    mil.calEpoch := (cal.head?.map (·.num)).getD s.mil.calEpoch, mil.placeEpoch := (place.head?.map (·.num)).getD s.mil.placeEpoch }
  (List.range 24).foldl (fun s k =>
    if (stallOf s k).enable then
      let s := modStall k (fun st => { st with pulseDue := true }) s
      if laneUp s (usedLane s k) then sendConfig k s else s
    else s) s

/-- A unit that has committed its copy is SYNCED: it answers, and the command that waited for it ends (R384, R395, R401). -/
def becomeSynced (s : State) : State :=
  let s := enterRole .synced { s with twn.copying := false, twn.progress := 65536, twn.copyFault := 0 }
  let s := uraraSend s.twn.peer 0x57 [2, word s.twn.copy] s
  let s := if s.twn.bindCid = 0 then s else finish s.twn.bindCid Status.done 0 [2] { s with twn.bindCid := 0 }
  if s.twn.yieldCid = 0 then s else finish s.twn.yieldCid Status.done 0 [] { s with twn.yieldCid := 0 }

/-- COPY_COMMIT_RECEIVE (R401): the digest is checked, the staged content written, and the unit is SYNCED. -/
def execCopyCommitReceive (t copy : Nat) (digestOk : Bool) (snap : Snapshot) (s : State) : Host.Outcome State Fault Refusal :=
  onEvent t (fun s =>
    let s := takeInbox 0x57 s
    if s.twn.role != .copying || !s.twn.copying || s.twn.copy != copy then s
    else if !digestOk then
      let s := { s with twn.copying := false, twn.copyFault := Config.copyDigestFault }
      if s.twn.bindCid = 0 then s else finish s.twn.bindCid Status.faultNoEffect Config.copyDigestFault [] { s with twn.bindCid := 0 }
    else becomeSynced (applySnapshot snap s)) s

/-- COPY_DONE_RECEIVE (R401): the lead has a SYNCED peer. -/
def execCopyDoneReceive (t copy : Nat) (s : State) : Host.Outcome State Fault Refusal :=
  onEvent t (fun s =>
    let s := takeInbox 0x57 s
    if s.twn.role != .lead || !s.twn.copying || s.twn.copy != copy then s
    else
      let s := { s with twn.copying := false, twn.peerSynced := true, twn.progress := 65536 }
      proposeIfDue (if s.twn.bindCid = 0 then s else finish s.twn.bindCid Status.done 0 [1] { s with twn.bindCid := 0 })) s

/-- TWIN_COPY_RETRY (R401): 10 s after a configuration difference the standby asks for the copy again. -/
def execTwinCopyRetry (t : Nat) (s : State) : Host.Outcome State Fault Refusal :=
  onEvent t (fun s =>
    if s.twn.role != .copying || s.twn.retryAt == 0 || decide (s.now < s.twn.retryAt) then s
    else uraraSend s.twn.peer 0x57 [3] { s with twn.retryAt := s.now + 10000000000 }) s

/-! ### TWIN_BIND, TWIN_YIELD, TWIN_STATUS (R384, R395, R404) -/

/-- The binding is made: unit 0 is the unit with the lower serial; the unit with a job active leads, else unit 0 (R384). -/
def bindTwin (c : Slot) (peerSerial : Nat) (peerJob : Bool) (s : State) : State :=
  let unit := if Config.serial.toNat < peerSerial then 0 else 1
  let leads := if jobActive s then true else if peerJob then false else unit == 0
  let s := { s with
    twn.bound := true, twn.bindCid := c.cid, twn.peer := parF c 0 10 0, twn.peerSerial := peerSerial, twn.map := parF c 1 23 0, twn.witOut := parF c 1 28 24,
    twn.witIn := parF c 1 36 32, twn.unit := unit, twn.witAt := s.now, twn.witTog := s.now, twn.leaseEnd := s.now + 20000000, twn.leaseOut := false }
  if leads then enterRole .lead s else becomeCopying s

/-- TWIN_BIND (R384). `peerSerial` and `peerJob` are what the peer tells of itself. -/
def execTwinBind (t cid peerSerial : Nat) (peerJob : Bool) (s : State) : Host.Outcome State Fault Refusal :=
  onStart Op.twinBind t cid (fun c s =>
    let peer := parF c 0 10 0
    if peer = s.node ∨ peer = 0 ∨ 2000 < peer ∨ 15 < parF c 1 28 24 ∨ 15 < parF c 1 36 32 ∨ parF c 1 28 24 = parF c 1 36 32 then
      refuse c Status.badParameter s
    else if (routePort s peer).isNone then refuse c Status.nodeUnreachable s
    else if s.twn.bound then refuse c Status.twinBound s
    else if jobActive s && peerJob && decide (peerSerial < Config.serial.toNat) then refuse c Status.twinJobActive s
    else bindTwin c peerSerial peerJob s) s

/-- TWIN_YIELD (R395): the final reply comes when the peer holds the lead, or when this unit is SYNCED again. -/
def execTwinYield (t cid : Nat) (s : State) : Host.Outcome State Fault Refusal :=
  onStart Op.twinYield t cid (fun c s =>
    if s.twn.role == .synced || (s.twn.role == .lead && s.twn.peerSynced) then dueYield 0 { s with twn.yieldCid := c.cid }
    else refuse c Status.peerNotSynced s) s

/-- The lease as TWIN_STATUS shows it: held by this unit as lead, or, at a standby, renewed within 20 ms (R396). -/
def leaseShown (s : State) : Bool :=
  match s.twn.role with
  | .lead => leaseHeld s
  | .solo => true
  | .unbound => false
  | _ => s.twn.leaseFrom != 0 && decide (s.now < s.twn.leaseFrom + 20000000)

/-- Whether the peer was heard on the link within 20 ms: by its acknowledgements or by its renewals. -/
def heartbeat (s : State) : Bool :=
  match s.twn.role with
  | .lead => decide (s.now < s.twn.leaseEnd)
  | .solo => false
  | .unbound => false
  | _ => s.twn.leaseFrom != 0 && decide (s.now < s.twn.leaseFrom + 20000000)

/-- The result words of TWIN_STATUS (R404). -/
def twinWords (s : State) : List W64 :=
  let w := s.twn
  [ word (put w.peer 16 + put (flag (heartbeat s)) 6 + put (flag (w.bound && !w.witSilent)) 5 + put (flag (leaseShown s)) 4 + put w.unit 3 + roleCode w.role),
    word (put w.renewals.length 32 + min 0xFFFFFFFF ((s.now - w.renewAt) / 1000)),
    word (put w.copyFault 48 + put (min 0xFFFF w.progress) 32 + w.copy),
    word (put w.suspectN 32 + w.digestMis),
    word (put w.isolations 48 + put w.windows 32 + put w.takeovers 16 + w.yields),
    word w.replHigh,
    word (put (w.slips % 2 ^ 32) 32 + w.lastFe % 2 ^ 32),
    wordOfInt w.clockDiff ]

/-- TWIN_STATUS (R404). -/
def execTwinStatus (t cid : Nat) (s : State) : Host.Outcome State Fault Refusal :=
  onStart Op.twinStatus t cid (fun c s => answer c (twinWords s) s) s

end Sys2Proof.Machine
end

