-- ==== Sys2Proof/Machine/Pipeline.lean ====
section
/-!
DEFINITION. The vision pipeline: black level and gain (R329), defect correction (R330), demosaic (R332), colour matrix (R333), and the statistics block
(R331). An image is a list of rows; positions outside it are mirrored about the edge pixel.
-/
namespace Sys2Proof.Machine

/-- A coordinate mirrored into 0 to n - 1 about the edge pixels (R330). -/
def mirror (n : Nat) (i : Int) : Nat :=
  let j := if i < 0 then -i else if (n : Int) ≤ i then 2 * ((n : Int) - 1) - i else i
  min (n - 1) j.toNat

/-- A pixel of an image, mirrored at the border. -/
def pick (img : List (List Int)) (x y : Int) : Int :=
  let row := img.getD (mirror img.length y) []
  row.getD (mirror row.length x) 0

/-- An image made pixel by pixel over the shape of another. -/
def remake (img : List (List Int)) (f : Int → Int → Int) : List (List Int) :=
  img.zipIdx.map fun r => r.1.zipIdx.map fun p => f p.2 r.2

/-- A value clamped to the 12-bit scale. -/
def clamp12 (x : Int) : Int := if x < 0 then 0 else if 4095 < x then 4095 else x

/-- Black level of mosaic position k (R324). -/
def blackOf (prof : List W64) (k : Nat) : Nat := fld (prof.getD 3 0) (12 * k + 11) (12 * k)

/-- Black level and digital gain (R329). -/
def levelled (x : Sensor) (gain : Nat) (raw : List (List Nat)) : List (List Int) :=
  raw.zipIdx.map fun r => r.1.zipIdx.map fun p =>
    let v : Int := if x.raw12 then p.1 else 4 * p.1
    let b : Int := blackOf x.profile (2 * (r.2 % 2) + p.2 % 2)
    min 4095 ((max 0 (v - b) * gain + 128) / 256)

/-- The static defects of a profile: columns and rows (R324). -/
def defectsOf (prof : List W64) : List (Nat × Nat) :=
  (List.range (fld (prof.getD 9 0) 12 0)).map fun d => (fld (prof.getD (10 + d) 0) 15 0, fld (prof.getD (10 + d) 0) 31 16)

/-- A number put into its place in a rising list. -/
def insertInt (a : Int) : List Int → List Int
  | [] => [a]
  | b :: bs => if a ≤ b then a :: b :: bs else b :: insertInt a bs

/-- A list of numbers in rising order. -/
def risingInts (l : List Int) : List Int := l.foldl (fun s a => insertInt a s) []

/-- Defect correction (R330): decisions and replacements use the uncorrected values. -/
def corrected (x : Sensor) (img : List (List Int)) : List (List Int) :=
  let d : Int := if x.pattern = 4 then 1 else 2
  let thr : Int := fld (x.profile.getD 3 0) 59 48
  let listed := defectsOf x.profile
  remake img fun cx cy =>
    let p := pick img cx cy
    let four := [pick img (cx - d) cy, pick img (cx + d) cy, pick img cx (cy - d), pick img cx (cy + d)]
    let eight := four ++ [pick img (cx - d) (cy - d), pick img (cx + d) (cy - d), pick img (cx - d) (cy + d), pick img (cx + d) (cy + d)]
    let s8 := risingInts eight
    let bad := listed.contains (cx.toNat, cy.toNat) || decide (s8.getD 7 0 + thr < p) || decide (p + thr < s8.getD 0 0)
    if bad then (let s4 := risingInts four; (s4.getD 1 0 + s4.getD 2 0) / 2) else p

/-- The colour of a site: 0 red, 1 green, 2 blue (R323). -/
def siteColour (pattern : Nat) (x y : Int) : Nat :=
  let k := (2 * (y % 2) + x % 2).toNat
  match pattern with
  | 0 => [0, 1, 1, 2].getD k 1
  | 1 => [1, 0, 2, 1].getD k 1
  | 2 => [1, 2, 0, 1].getD k 1
  | _ => [2, 1, 1, 0].getD k 1

/-- Two estimates weighted by each other's gradient; with no gradient, `even` (R332). -/
def weighed (a da b db even half : Int) : Int := if da + db = 0 then even else (a * db + b * da + half).tdiv (da + db)

/-- The green pass at a site (R332). -/
def greenAt (pattern : Nat) (img : List (List Int)) (x y : Int) : Int :=
  if siteColour pattern x y = 1 then pick img x y
  else
    let c := 2 * pick img x y
    let lapH := c - pick img (x - 2) y - pick img (x + 2) y
    let lapV := c - pick img x (y - 2) - pick img x (y + 2)
    let gh := (2 * (pick img (x - 1) y + pick img (x + 1) y) + lapH + 2) / 4
    let gv := (2 * (pick img x (y - 1) + pick img x (y + 1)) + lapV + 2) / 4
    let dh : Int := (pick img (x - 1) y - pick img (x + 1) y).natAbs + lapH.natAbs
    let dv : Int := (pick img x (y - 1) - pick img x (y + 1)).natAbs + lapV.natAbs
    clamp12 (weighed gh dh gv dv ((gh + gv + 1) / 2) ((dh + dv) / 2))

/-- Red or blue at a site, with the finished green image (R332). -/
def chromaAt (pattern c : Nat) (img green : List (List Int)) (x y : Int) : Int :=
  let diff := fun (a b : Int) => pick img a b - pick green a b
  let g := pick green x y
  if siteColour pattern x y = c then pick img x y
  else if siteColour pattern x y = 1 then
    let two := if siteColour pattern (x + 1) y = c then diff (x - 1) y + diff (x + 1) y else diff x (y - 1) + diff x (y + 1)
    clamp12 (g + two / 2)
  else
    let nw := (x - 1, y - 1)
    let ne := (x + 1, y - 1)
    let sw := (x - 1, y + 1)
    let se := (x + 1, y + 1)
    let d1 : Int := (pick img nw.1 nw.2 - pick img se.1 se.2).natAbs + (2 * g - pick green nw.1 nw.2 - pick green se.1 se.2).natAbs
    let d2 : Int := (pick img ne.1 ne.2 - pick img sw.1 sw.2).natAbs + (2 * g - pick green ne.1 ne.2 - pick green sw.1 sw.2).natAbs
    let e1 := (diff nw.1 nw.2 + diff se.1 se.2) / 2
    let e2 := (diff ne.1 ne.2 + diff sw.1 sw.2) / 2
    clamp12 (g + weighed e1 d1 e2 d2 ((e1 + e2) / 2) 0)

/-- Coefficient M[i][j] of the colour matrix, signed 4.12 (R324). -/
def matrixAt (prof : List W64) (i j : Nat) : Int :=
  let n := 3 * i + j
  signed (fld (prof.getD (4 + n / 4) 0) (16 * (n % 4) + 15) (16 * (n % 4))) 16

/-- The channels of a frame (R329 to R333): one of a mono sensor, three of a mosaic. -/
def channels (x : Sensor) (gain : Nat) (raw : List (List Nat)) : List (List (List Nat)) :=
  let img := corrected x (levelled x gain raw)
  let nat := fun (m : List (List Int)) => m.map fun r => r.map Int.toNat
  if x.pattern = 4 then [nat img]
  else
    let green := remake img (greenAt x.pattern img)
    let red := remake img (chromaAt x.pattern 0 img green)
    let blue := remake img (chromaAt x.pattern 2 img green)
    (List.range 3).map fun i => nat (remake img fun a b =>
      clamp12 ((matrixAt x.profile i 0 * pick red a b + matrixAt x.profile i 1 * pick green a b + matrixAt x.profile i 2 * pick blue a b + 2048) / 4096))

/-- The content of a statistics unit after the frame header (R331, R342): mean, counts at 4,095 and at 0, 256 bins. -/
def statsBytes (ch : List (List Nat)) : List Byte :=
  let ps := ch.flatMap id
  let count := fun (f : Nat → Bool) => (ps.filter f).length
  wordsBytes [word (put (count (· == 4095)) 16 + (if ps.isEmpty then 0 else ps.sum / ps.length)), word (count (· == 0))]
    ++ (List.range 256).flatMap fun b => leBytes 4 (count fun p => p / 16 == b)

end Sys2Proof.Machine
end

