-- ==== Sys2Proof/Machine/Vision.lean ====
section
/-!
DEFINITION. Sensors and their settings (R322 to R326), frames from the receivers to the verification queue (R327, R328, R335, R338, R339), streaks (R341), and the rows
SENSOR_CONFIG, SETTING_SET, SETTING_WRITE_ACK, VERIFY_CONFIG, IMAGE_CAPTURE, CAMERA_TRIGGER_PULSE_END, CSI_FRAME_START, CSI_LONG_PACKET, CSI_FRAME_END and
PIPELINE_FRAME_DONE.
-/
namespace Sys2Proof.Machine

/-! ### SENSOR_CONFIG (R323, R324) -/

/-- The sensor that a SENSOR_CONFIG describes. -/
def sensorFrom (c : Slot) (prof : List W64) : Sensor :=
  { on := true, rx := parF c 1 0 0, vc := parF c 1 3 2, raw12 := parB c 1 4, pattern := parF c 1 7 5, k := parF c 1 10 8, flipX := parB c 1 11,
    flipY := parB c 1 12, width := parF c 1 31 16, height := parF c 1 47 32, tracks := parF c 1 55 48, camOffset := parF c 2 31 0,
    rowPitch := parF c 2 63 32, colOrigin := signed (parF c 3 31 0) 32, colPitch := parF c 3 63 32, fsOffset := signed (parF c 4 31 0) 32,
    gpio := parF c 4 36 32, trigLines := parF c 4 63 40, profile := prof }

/-- Whether its fields lie in their ranges (R323). -/
def sensorOk (x : Sensor) : Bool :=
  decide (x.pattern ≤ 4) && decide (1 ≤ x.k) && decide (x.k ≤ 4) && decide (64 ≤ x.width) && decide (x.width ≤ 4096) && decide (16 ≤ x.height)
    && decide (x.height ≤ 4096) && decide (x.camOffset ≤ 1048575) && decide (1 ≤ x.rowPitch) && decide (1 ≤ x.colPitch)
    && (x.gpio == 31 || (decide (x.gpio ≤ 15) && decide (1 ≤ x.trigLines)))

/-- Whether a sensor profile is in order (R324). -/
def profileOk (ws : List W64) : Bool :=
  decide (10 ≤ ws.length) && fld (ws.getD 0 0) 31 0 == 0x53454E31
    && decide (1 ≤ fld (ws.getD 1 0) 19 16) && decide (fld (ws.getD 1 0) 19 16 ≤ 4)
    && decide (1 ≤ fld (ws.getD 2 0) 19 16) && decide (fld (ws.getD 2 0) 19 16 ≤ 4)
    && decide (fld (ws.getD 9 0) 12 0 ≤ 4096) && decide (10 + fld (ws.getD 9 0) 12 0 ≤ ws.length)

/-- Whether an active job has a track that a sensor verifies. -/
def sensorBusy (s : State) (x : Sensor) : Bool :=
  x.on && (activeJobs s).any fun j => (List.range j.desc.tracks.length).any fun t => bit x.tracks t

/-- The setting set that the I3C controller writes: the earliest accepted one that is not yet written, with its sensor (R325). -/
def setInWrite (s : State) : Option (Nat × SetReq) :=
  ((List.range 8).flatMap fun k => ((sensorOf s k).sets.filter fun q => q.apply.isNone).map fun q => (k, q)).foldl
    (fun (b : Option (Nat × SetReq)) q => match b with | some x => if q.2.cid < x.2.cid then some q else b | none => some q) none

/-- The write of the next setting set begins (R325). -/
def writeNextSet (s : State) : State := match setInWrite s with | some q => emit (.i3c q.1 q.2.id) s | none => s

/-- A setting set that is dropped before it is written ends its command. -/
def dropSets (sets : List SetReq) (s : State) : State :=
  (sets.filter fun q => q.apply.isNone).foldl (fun s q => finish q.cid Status.cancelled 0 [] s) s

/-- A sensor's new configuration (R322, R323, R325): its frames count from 0 under set 0; pending setting sets stay unless `k`, `width` or `height` changed. -/
def configSensor (n : Nat) (x : Sensor) (s : State) : State :=
  let old := sensorOf s n
  let keep := old.on && old.k == x.k && old.width == x.width && old.height == x.height
  let pend := old.sets.filter fun q => match q.apply with | some f => decide (old.frames ≤ f) | none => true
  if keep then
    modSensor n (fun _ => { x with sets := pend.map fun q => { q with apply := q.apply.map (· - old.frames) } }) s
  else
    let writing := (setInWrite s).map (·.1)
    let s := dropSets old.sets (modSensor n (fun _ => x) s)
    if writing = some n then writeNextSet s else s

/-- SENSOR_CONFIG (R323, R324). -/
def execSensorConfig (t cid : Nat) (s : State) : Host.Outcome State Fault Refusal :=
  onStart Op.sensorConfig t cid (fun c s =>
    let n := parF c 0 2 0
    let x := sensorFrom c []
    let clash := (List.range 8).any fun k => k != n && (sensorOf s k).on && (sensorOf s k).rx == x.rx && (sensorOf s k).vc == x.vc
    if !sensorOk x || clash then refuse c Status.badParameter s
    else if sensorBusy s (sensorOf s n) then refuse c Status.sensorBusy s
    else withObject c (parN c 5) (parF c 6 31 0) (fun bs s =>
      if profileOk (wordsOf bs) then done c (configSensor n (sensorFrom c (wordsOf bs)) s) else refuse c Status.badSensorProfile s) s) s

/-! ### Setting sets (R325, R326) -/

/-- SETTING_SET (R325). -/
def execSettingSet (t cid : Nat) (s : State) : Host.Outcome State Fault Refusal :=
  onStart Op.settingSet t cid (fun c s =>
    let n := parF c 0 2 0
    let id := parF c 1 15 0
    if id = 0 ∨ !(sensorOf s n).on then refuse c Status.badParameter s
    else
      let q : SetReq := { id := id, exp := parN c 2, gain := parF c 3 15 0, dgain := parF c 4 15 0, cid := c.cid }
      let idle := (setInWrite s).isNone
      let s := modSensor n (fun x => { x with sets := x.sets ++ [q] }) s
      if idle then writeNextSet s else s) s

/-- SETTING_WRITE_ACK (R325, R326): the final byte of the set in write is acknowledged, and it applies k frames after the last frame started, passing over a set of
the same frame; or the sensor does not acknowledge it, and it never applies. -/
def execSettingWriteAck (t : Nat) (sensor : Fin 8) (acked : Bool) (s : State) : Host.Outcome State Fault Refusal :=
  onEvent t (fun s =>
    let n := sensor.val
    match setInWrite s with
    | none => s
    | some (m, q) =>
      if m ≠ n then s
      else
        let x := sensorOf s n
        let at_ := x.frames + x.k - 1
        let rest := x.sets.filter fun y => y != q
        if acked then
          let passed := rest.filter fun y => y.apply == some at_
          let s := modSensor n (fun x => { x with sets := (rest.filter fun y => y.apply != some at_) ++ [{ q with apply := some at_ }] }) s
          let s := passed.foldl (fun s y => notify Notice.setSuperseded (put y.id 16 + n) s) s
          writeNextSet (finish q.cid Status.done 0 [word (at_ % 2 ^ 32)] s)
        else
          let s := raise FaultCode.sensorWrite (frameDetail n x.frames) (modSensor n (fun x => { x with sets := rest }) s)
          writeNextSet (finish q.cid Status.faultNoEffect FaultCode.sensorWrite [] s)) s

/-- The set that rules a frame: the one with the highest frame of application at or before it; set 0 before the first (R325, R326). -/
def setFor (x : Sensor) (frame : Nat) : Option SetReq :=
  x.sets.foldl (fun (b : Option SetReq) q =>
    match q.apply with
    | some f => if decide (f ≤ frame) && (match b with | some y => decide ((y.apply.getD 0) ≤ f) | none => true) then some q else b
    | none => b) none

/-- The exposure of a frame's set; that of set 0 is not stated. -/
def exposureOf (f : VisFrame) : Nat := match f.set with | some q => q.1 | none => Config.setZero f.sensor 0

/-- The digital gain of a frame's set; that of set 0 is not stated. -/
def gainOf (f : VisFrame) : Nat := match f.set with | some q => q.2 | none => Config.setZero f.sensor 1

/-! ### VERIFY_CONFIG, IMAGE_CAPTURE, trigger pulses -/

/-- VERIFY_CONFIG (R336). -/
def execVerifyConfig (t cid : Nat) (s : State) : Host.Outcome State Fault Refusal :=
  onStart Op.verifyConfig t cid (fun c s =>
    let v : VerifyCfg := {
      gradeMin := parF c 0 7 0, maxImages := parF c 0 10 8, ocvMin := parF c 0 23 16, regMin := parF c 1 15 0, search := parF c 1 23 16,
      dotMin := parF c 1 39 24, channels := parF c 2 23 0, streakClass := parF c 3 7 0, streakDepth := parF c 3 15 8, streakLines := parF c 3 31 16,
      streakProducts := parF c 3 39 32, results := parB c 4 0, stats := parB c 4 1, failImages := parB c 4 2 }
    let ok := decide (v.gradeMin ≤ 40) && decide (1 ≤ v.maxImages) && decide (v.maxImages ≤ 4) && decide (1 ≤ v.search) && decide (v.search ≤ 64)
      && (List.range 8).all fun k => decide (bits v.channels (3 * k + 2) (3 * k) ≤ 2)
    if ok then done c { s with vis.cfg := v } else refuse c Status.badParameter s) s

/-- IMAGE_CAPTURE (R342): the frames leave as they come. -/
def execImageCapture (t cid : Nat) (s : State) : Host.Outcome State Fault Refusal :=
  onStart Op.imageCapture t cid (fun c s =>
    if 8 ≤ parN c 0 ∨ parN c 1 = 0 then refuse c Status.badParameter s
    else if !outRing s (parN c 2) then refuse c Status.badRing s
    else { s with vis.captures := s.vis.captures ++ [{ cid := c.cid, sensor := parN c 0, ring := parN c 2, left := parN c 1 }] }) s

/-- CAMERA_TRIGGER_PULSE_END (R323): a trigger pulse ends after 1 µs. -/
def execCameraTriggerPulseEnd (t : Nat) (gpio : Fin 16) (s : State) : Host.Outcome State Fault Refusal :=
  onEvent t (fun s =>
    match s.vis.pulses[gpio] with
    | some m => if m + 1000 ≤ s.now then { s with vis.pulses := s.vis.pulses.set gpio none } else s
    | none => s) s

/-- What a line boundary does to the trigger outputs: a pulse starts where the line is a multiple of `trig_lines` (R323). -/
def triggerPulses (s : State) : State :=
  (elems s.vis.sensors).foldl (fun s x =>
    if h : x.gpio < 16 then
      if x.on && decide (0 < x.trigLines) && s.mot.line % x.trigLines == 0 && domOn s 11 then { s with vis.pulses := s.vis.pulses.set x.gpio (some s.now) } else s
    else s) s

/-! ### Frames (R321, R322, R326 to R328) -/

/-- The sensor on a virtual channel of a receiver. -/
def sensorAt (s : State) (rx : Fin 2) (vc : Fin 16) : Option Nat :=
  if 4 ≤ vc.val then none else (List.range 8).find? fun k => (sensorOf s k).on && (sensorOf s k).rx == rx.val && (sensorOf s k).vc == vc.val

/-- A packet that no sensor takes is discarded and counted (R321). -/
def discardPacket (s : State) : State := { s with vis.packets := s.vis.packets + 1 }

/-- A frame in progress is over: classified (R328), reported, and on its way through the pipeline. -/
def endVisFrame (n : Nat) (s : State) : State :=
  let x := sensorOf s n
  match x.cur with
  | none => s
  | some f =>
    let f := { f with truncated := f.truncated || decide (f.raw.length < x.height), feAt := s.now }
    let d := frameDetail n f.frame
    let s := if f.truncated then raise FaultCode.frameTruncated d s else s
    let s := if f.damaged then raise FaultCode.frameDamaged d s else if f.long then raise FaultCode.frameLong d s else s
    { modSensor n (fun x => { x with cur := none }) s with vis.frames := s.vis.frames ++ [f] }

/-- CSI_FRAME_START (R322, R326, R327): a frame begins; one that had no FE is truncated. -/
def execCsiFrameStart (t : Nat) (rx : Fin 2) (vc : Fin 16) (s : State) : Host.Outcome State Fault Refusal :=
  onEvent t (fun s =>
    if !domOn s 11 then s else
    match sensorAt s rx vc with
    | none => discardPacket s
    | some n =>
      let s := endVisFrame n (modSensor n (fun x => { x with cur := x.cur.map fun f => { f with truncated := true } }) s)
      let x := sensorOf s n
      let q := setFor x x.frames
      let f : VisFrame := { sensor := n, frame := x.frames, setId := (q.map (·.id)).getD 0, set := q.map fun q => (q.exp, q.dgain),
                            fs16 := devTime s, fsAt := s.now }
      let ruling := (q.bind (·.apply)).getD 0
      let stays (q : SetReq) : Bool := match q.apply with | some a => decide (ruling ≤ a) | none => true
      modSensor n (fun x => { x with frames := x.frames + 1, cur := some f, sets := x.sets.filter stays }) s) s

/-- CSI_LONG_PACKET (R321, R328): a row of pixels; another data type is discarded and counted, a packet that fails its check damages the frame, a row beyond `height` makes it
long, a row of another width damages it. -/
def execCsiLongPacket (t : Nat) (rx : Fin 2) (vc : Fin 16) (dtype : Nat) (ok : Bool) (pixels : List Nat) (s : State) :
    Host.Outcome State Fault Refusal :=
  onEvent t (fun s =>
    if !domOn s 11 then s else
    match sensorAt s rx vc with
    | none => discardPacket s
    | some n =>
      let x := sensorOf s n
      if !ok then modSensor n (fun x => { x with cur := x.cur.map fun f => { f with damaged := true } }) s
      else if dtype ≠ (if x.raw12 then 0x2C else 0x2B) then discardPacket s
      else modSensor n (fun x => { x with cur := x.cur.map fun f =>
          let f := if pixels.length = x.width then f else { f with damaged := true }
          if x.height ≤ f.raw.length then { f with long := true } else { f with raw := f.raw ++ [pixels] } }) s) s

/-- CSI_FRAME_END (R322, R327, R328): the frame is classified; an overflow of the receiver damages the frame in progress of each of its channels. -/
def execCsiFrameEnd (t : Nat) (rx : Fin 2) (vc : Fin 16) (overflow : Bool) (s : State) : Host.Outcome State Fault Refusal :=
  onEvent t (fun s =>
    if !domOn s 11 then s else
    let s : State := if overflow then { s with vis.sensors := s.vis.sensors.map fun x =>
        if x.rx = rx.val then { x with cur := x.cur.map fun f => { f with damaged := true } } else x } else s
    match sensorAt s rx vc with
    | none => discardPacket s
    | some n => endVisFrame n s) s

/-! ### The pipeline's end (R327, R331, R335, R338 to R342) -/

/-- The line index at a moment in 1/64, interpolated between the boundaries on either side and truncated (R327). -/
def lineAt64 (s : State) (moment : Int) : Int :=
  match s.mot.bounds.find? fun b => decide ((b.1 : Int) ≤ moment) with
  | none => match s.mot.bounds.getLast? with | some b => 64 * b.2 | none => 64 * s.mot.line
  | some b =>
    let next := (s.mot.bounds.reverse.find? fun c => decide (moment < (c.1 : Int)))
    match next with
    | some c => 64 * b.2 + 64 * (moment - b.1) / max 1 ((c.1 : Int) - b.1)
    | none => 64 * b.2

/-- A frame with its channels and L_m (R327, R329 to R333). -/
def processed (s : State) (f : VisFrame) : VisFrame :=
  let tm : Int := (f.fsAt : Int) - (sensorOf s f.sensor).fsOffset + exposureOf f / 2
  { f with lm := lineAt64 s tm, chans := channels (sensorOf s f.sensor) (gainOf f) f.raw, done := true }

/-- The images that wait to be graded (R338). -/
def queuedImages (s : State) : Nat := (s.vis.codes.map fun v => (v.images.filter fun i => i.result.isNone).length).sum

/-- A frame meets the code of one verification (R335, R338, R339): it is queued, or counted as refused with its cause, or the sensor can no longer cover the code. -/
def offerFrame (s : State) (f : VisFrame) (full : Bool) (v : Verify) : Verify :=
  let covers := decide (v.firedAt < f.feAt) && frameCovers s f v
  let v := if !covers then v
    else if f.damaged then { v with refused := v.refused + 1, cause := FaultCode.frameDamaged }
    else if f.truncated then { v with refused := v.refused + 1, cause := FaultCode.frameTruncated }
    else if full then { v with refused := v.refused + 1, cause := FaultCode.verifyOverload }
    else if (cfgOf s v).maxImages ≤ v.images.length then v
    else { v with cfg := some (cfgOf s v), images := v.images ++ [{ sensor := f.sensor, frame := f.frame }] }
  if frameUsed f && decide (64 * (v.y1 : Int) ≤ frameBase (sensorOf s f.sensor) f) then { v with sensors := v.sensors.filter (· != f.sensor) } else v

/-- A used frame leaves for the IMAGE_CAPTURE of its sensor; the last one ends the command (R342). -/
def captureFrame (f : VisFrame) (s : State) : State :=
  let x := sensorOf s f.sensor
  (s.vis.captures.filter fun c => c.sensor == f.sensor).foldl (fun s c =>
    let unit : OutUnit := { data := imageUnit s f (channelOf s f s.vis.cfg 0) 0 0 x.width f.raw.length, cid := c.cid, final := decide (c.left = 1) }
    let s := queueUnits c.ring [unit] s
    { s with vis.captures := (s.vis.captures.map fun y => if y.cid = c.cid then { y with left := y.left - 1 } else y).filter fun y => y.left != 0 }) s

/-- Whether an element is judged for streaks: neither retired nor beside a retired one (R341). -/
def streakJudged (s : State) (stall chan : Nat) : Bool :=
  !(s.mil.retired.any fun r => r.stall == stall && decide (r.channel ≤ chan + 1) && decide (chan ≤ r.channel + 1))

/-- The counted fires of one element on a frame (R341): it is retired once it was streaking in enough products in a row. -/
def noteStreak (o : StreakObs) (s : State) : State :=
  if !streakJudged s o.stall o.chan then s else
  let cfg := s.vis.cfg
  let k := (s.vis.streaks.find? fun x => x.stall == o.stall && x.chan == o.chan).getD { stall := o.stall, chan := o.chan, product := o.product }
  let k : Streak := if k.product = o.product then k
    else { k with product := o.product, weak := [], hit := false, run := if k.hit then k.run + 1 else 0 }
  let weak := (k.weak ++ o.weak)
  let latest := weak.drop (weak.length - cfg.streakLines)
  let streaking := decide (cfg.streakLines ≤ weak.length) && decide (0 < latest.length) && decide (latest.length ≤ 2 * (latest.filter id).length)
  let k := { k with weak := latest, hit := k.hit || streaking }
  let others := s.vis.streaks.filter fun x => !(x.stall == o.stall && x.chan == o.chan)
  if k.hit && decide (cfg.streakProducts ≤ k.run + 1) then retireElement o.stall o.chan 5 { s with vis.streaks := others }
  else { s with vis.streaks := others ++ [k] }

/-- STREAK_OFF is reported once for each plane of the active jobs that a sensor does not resolve (R341). -/
def reportStreakOff (f : VisFrame) (s : State) : State :=
  let x := sensorOf s f.sensor
  (activeJobs s).foldl (fun s j => j.desc.planes.foldl (fun s p =>
    if resolves s x p.plane || s.vis.noStreak.contains (f.sensor, p.plane) then s
    else notify Notice.streakOff (put j.desc.id 32 + put p.plane 8 + f.sensor) { s with vis.noStreak := s.vis.noStreak ++ [(f.sensor, p.plane)] }) s) s

/-- The plane of an element. -/
def planeOf (s : State) (stall chan : Nat) : Option Nat :=
  ((allRows (stallOf s stall)).find? fun r =>
    let base := if r.1 < 32 then 0 else 16384
    within (base + r.2.first) (base + r.2.first + r.2.count) chan).map (·.2.plane)

/-- Frames that no code under verification names any more leave. -/
def dropFrames (s : State) : State :=
  { s with vis.frames := s.vis.frames.filter fun f => !f.done || s.vis.codes.any fun v => v.images.any fun i => i.sensor == f.sensor && i.frame == f.frame }

/-- PIPELINE_FRAME_DONE (R331, R335, R338 to R342): statistics, captures, the verification queue, streaks. -/
def execPipelineFrameDone (t : Nat) (sensor : Fin 8) (streaks : List StreakObs) (s : State) : Host.Outcome State Fault Refusal :=
  onEvent t (fun s =>
    let n := sensor.val
    match s.vis.frames.find? fun f => f.sensor == n && !f.done with
    | none => s
    | some f0 =>
      let f := processed s f0
      let s := { s with vis.frames := s.vis.frames.map fun g => if g.sensor = n ∧ g.frame = f.frame ∧ !g.done then f else g }
      let s := if s.vis.cfg.stats then
          sendVision false n f.frame (visionUnit 2 (wordsBytes (frameHeader s f) ++ statsBytes (channelOf s f s.vis.cfg 0))) s
        else s
      let s := if frameUsed f then captureFrame f s else s
      let full := decide (256 ≤ queuedImages s)
      let s := if full && frameUsed f && s.vis.codes.any (fun v => decide (v.firedAt < f.feAt) && frameCovers s f v) then
          raise FaultCode.verifyOverload (frameDetail n f.frame) s
        else s
      let s := settleVerify { s with vis.codes := s.vis.codes.map (offerFrame s f full) }
      let s := if frameUsed f then
          let x := sensorOf s n
          let ok := fun (o : StreakObs) => match planeOf s o.stall o.chan with | some p => resolves s x p | none => false
          (streaks.filter ok).foldl (fun s o => noteStreak o s) (reportStreakOff f s)
        else s
      dropFrames s) s

end Sys2Proof.Machine
end

