-- ==== Sys2Proof/Machine/Boundary.lean ====
section
/-!
DEFINITION. What a line boundary does (R97): the encoder failover (R99), new latencies and lane moves of the Stalls (R277, R286), the fire time of the frames that
fire on it (R239), changed heads (R173), gates and decision deadlines (R114, R115, R339), the switch line (R122), the next frame of every Stall (R236), the
line-store slots that free (R216), LINEMARK (R387), trigger pulses (R323).
-/
namespace Sys2Proof.Machine

/-- ENCODER_FAILOVER (R99): the check encoder becomes the line source with H and L of this boundary. -/
def encoderFailover (s : State) : State :=
  let p := s.mot.source
  let c := s.mot.cfg.check
  let bad := if h : p < 4 then (s.mot.enc[p]'h).failed else false
  if bad && decide (c < 4) && !s.mot.failover then
    raise FaultCode.encoderFailover 0 { s with
      mot.source := c, mot.failover := true, mot.h := posOf s c, mot.hb := posOf s c, mot.lb := s.mot.line }
  else s

/-- The Stall lanes, and the spares that cover one, take the λ measured since the last boundary (R277). -/
def takeLambdas (s : State) : State :=
  (List.range 36).foldl (fun s n =>
    match (laneOf s n).nextLam with
    | some lam => if n < 24 ∨ 34 ≤ n then takeLambda n lam s else s
    | none => s) s

/-- The frames of a Stall that its head station has not acknowledged are sent again where R230 allows. -/
def resendUnacked (k : Nat) (s : State) : State :=
  ((stallOf s k).frames.filter fun f => f.seq.isSome && !f.acked && !f.spit && f.firedAt.isNone).foldl
    (fun s f => if resendFits s k f then countStall k 1 (sendFrame k f s) else s) s

/-- STALL_LANE_MOVE (R286): a Stall on a failing lane moves to the ready spare; the old lane hunts and is not used again by the Stall. -/
def moveStallLane (k : Nat) (s : State) : State :=
  let old := usedLane s k
  if !(laneOf s old).failing then s
  else match readySpare s k with
    | none => s
    | some n =>
      let s := modLane old (fun l => { l with covers := none }) (huntLane old (useSpareLane n s))
      let s := modLane n (fun l => { l with covers := some k }) s
      let s := modLane k (fun l => { l with spare := some n, failing := false, alone := true }) s
      resendUnacked k (notify Notice.laneMoved (put n 8 + k) s)

/-- The frame that fires on this boundary, stamped at a moment, gets its t_F, at a fold in the middle of the two boundaries (R239, R251). -/
def setFireTimes (stamp : Nat) (k : Nat) (s : State) : State :=
  let st := stallOf s k
  match st.frames.find? (fun f => !f.spit && f.line == s.mot.line && f.fireAt.isNone) with
  | none => s
  | some f =>
    let at_ := fireTime st (stamp + (if f.fold then period s / 2 else 0))
    modStall k (fun st => { st with
      tPrev := some at_,
      frames := mapWhere (fun g => !g.spit && g.line == f.line) (fun g => { g with fireAt := some at_ }) st.frames }) s

/-- A Stall whose head station reports an identity other than that of its map or head item loses its permit at this boundary, and its products are void under
HEAD_CHANGED (R173, R261). -/
def judgeIdent (k : Nat) (s : State) : State :=
  if !(stallOf s k).identNew then s
  else
    let s := modStall k (fun st => { st with identNew := false }) s
    if (stallOf s k).headId.isNone || identOk s k then refreshPermit k s
    else
      let s := settlePermits (releasePermit k (modStall k (fun st => { st with identLat := st.identLat || st.granted }) s))
      (stallProducts s k true).foldl (fun s p => voidStop p.num FaultCode.headChanged s) s

/-- What a boundary does to one Stall before the gates. -/
def stallBoundary (stamp : Nat) (s : State) (k : Nat) : State :=
  if (stallOf s k).enable then judgeIdent k (setFireTimes stamp k (moveStallLane k s)) else s

/-- The decision deadline of each product on each gate: the verification of its codes ends, and a product that is then ready is decided (R115, R339). -/
def deadlines (s : State) : State :=
  let due := fun (p : Product) (g : Fin 4) =>
    p.gw[g].serves p.track && !bit p.decided g && decide (p.first + p.gw[g].offset ≤ s.mot.line)
  let ps := s.prod.queue.filter fun p => (List.finRange 4).any fun (g : Fin 4) => due p g
  ps.foldl (fun s p =>
    ((List.finRange 4).filter fun (g : Fin 4) => due p g).foldl (fun s g => decideOn p.num g s) (verifyDeadline p.num s)) s

/-- The next frame of a Stall that an active job names is fixed (R236). -/
def stallBuild (s : State) (k : Nat) : State :=
  if (stallOf s k).enable && stallNamed s k && decide ((stallOf s k).builtTo ≤ s.mot.line + 1) then buildFrame k (s.mot.line + 1) s else s

/-- W_max over the Stalls in use. -/
def wMaxAll (s : State) : Nat :=
  (((List.range 24).filter fun k => stallNamed s k).map fun k => (wSpan s k).2).foldl max 0

/-- The line-store slots that free at this boundary (R216), and what a Stall keeps of lines long past. -/
def freeSlots (s : State) : State :=
  let w := wMaxAll s
  let ended := fun (l : LineSlot) =>
    (l.sealed || l.unresolved) && decide (l.line + w + 2 ≤ s.mot.line) && (List.range 24).all fun k => !stallNamed s k || lineEnded s k l.line
  { s with
    mil.lines := s.mil.lines.filter (fun l => !ended l),
    stl := s.stl.map fun st => { st with
      buffer := st.buffer.filter (fun b => decide (s.mot.line ≤ b.1 + 65536)),
      missed := st.missed.filter (fun l => decide (s.mot.line ≤ l + 1048576)),
      late := st.late.filter (fun l => decide (s.mot.line ≤ l + 65536)) } }

/-- LINEMARK_SEND (R387): the lead marks the boundaries whose index is a multiple of 65,536. -/
def lineMark (stamp : Nat) (s : State) : State :=
  if s.twn.role == .lead && s.mot.line % 65536 == 0 then
    uraraSend s.twn.peer 0x54 [word s.mot.line, word (devTime s - 65536 * (s.now - stamp))] s
  else s

/-- One line boundary: L rises by one (R97). -/
def boundary (s : State) : State :=
  let line := s.mot.line + 1
  let stamp := (stampOf s line).getD s.now
  let s := encoderFailover { s with mot.line := line }
  let s := (List.range 24).foldl (stallBoundary stamp) (takeLambdas s)
  let s := reachSwitch (gatesBoundary (deadlines s))
  let s := freeSlots (settleFiring ((List.range 24).foldl stallBuild s))
  triggerPulses (lineMark stamp s)

/-- LINE_BOUNDARY (R97): a boundary occurs while STL is powered and the line source has passed it. -/
def execLineBoundary (t : Nat) (s : State) : Host.Outcome State Fault Refusal :=
  onEvent t (fun s => if domOn s 9 && decide (s.mot.line < lineOwed s) then boundary s else s) s

/-- PACER_TICK (R101): the pacer, while it is the line source, makes a boundary. -/
def execPacerTick (t : Nat) (s : State) : Host.Outcome State Fault Refusal :=
  onEvent t (fun s =>
    if domOn s 9 && s.mot.source == 4 then
      let s := { s with mot.pacer := s.mot.pacer + 1 }
      boundary { s with mot.bounds := keepBounds (max 70000 s.ura.trigAllow) s.now ((s.now, s.mot.line + 1) :: s.mot.bounds) }
    else s) s

end Sys2Proof.Machine
end

