-- ==== Sys2Proof/Machine/Replay.lean ====
section
/-!
DEFINITION. Replay (R548, R312): the Tally's journal is judged, the products that are no longer in flight become void with reason 5, the line
store empties, and the lines of the products in flight are computed again. It runs when the last active device-class fault clears, and at ready after a reset.
-/
namespace Sys2Proof.Machine

/-- Whether no line of a product's window has reached a fire boundary since the permits were released, and its lines can still fire: STL
counted on (R98, R312, R548). -/
def inFlight (s : State) (p : Product) : Bool :=
  domOn s 9 && !bit p.flags 0 &&
    (productStalls s p).all fun k => (rowsInUse s k).all fun r =>
      let w := wOf (stallOf s k) r.1
      !overlaps (p.first + w) (p.stop + w) (s.flt.since + 1) (s.mot.line + 1)

/-- A part of a record that fails its checks here and at the peer is void under JOURNAL_CORRUPT (R312). -/
def voidDamaged (s : State) : State :=
  ((s.tal.journal.filter fun r => r.damaged && r.final.isNone && r.peer == 0).map (·.num)).foldl
    (fun s n => voidRec 3 FaultCode.journalCorrupt n s) s

/-- A product that is not in flight becomes void with reason 5; its event carries the code of the device fault, after a reset there is none (R548). -/
def voidLost (code : Option Nat) (s : State) (n : Nat) : State :=
  let s := voidProduct n 5 0 s
  match code with
  | some c => event c 3 n s
  | none => s

/-- The records whose product has left the queue become void with reason 5 (R312). -/
def voidOrphans (s : State) : State :=
  ((s.tal.journal.filter fun r => r.final.isNone && (productOf s r.product).isNone).map (·.num)).foldl (fun s n => voidRec 5 0 n s) s

/-- The line store empties; the dispatcher starts again at the lowest first line of a product in flight that has lines to fire, and the lines it had dispatched keep their recipes (R548). -/
def restartLines (s : State) : State :=
  let live := s.prod.queue.filter fun p => inFlight s p && decide (s.mot.line < p.stop + wMaxAll s)
  { s with
    mil.lines := [],
    mil.redecode := s.mil.redecode.map (fun r => { r with lines := [] }),
    mil.slices := s.mil.slices.map (fun x => { x with vote := none }),
    mil.nextLine := if live.isEmpty then s.mot.line else (live.map (·.first)).foldl min s.mil.nextLine,
    flt.redoTo := s.mil.nextLine,
    stl := s.stl.map fun st => { st with buffer := [], late := [] } }

/-- The products detected during the fault that have no issue record wait for their issue (R548). -/
def keepWaiting (s : State) : State :=
  { s with
    flt.replayDue := false,
    flt.replaying := (s.prod.queue.filter fun p => unissued p && decide (s.flt.sinceAt ≤ p.moment)).map (·.num) }

/-- Replay under the device fault that has cleared, or none after a reset (R548). -/
def replay (code : Option Nat) (s : State) : State :=
  let s := voidDamaged s
  let lost := (s.prod.queue.filter fun p => !bit p.flags 0 && !inFlight s p).map (·.num)
  let s := voidOrphans (lost.foldl (voidLost code) s)
  settleAll (keepWaiting (restartLines (abandonAll s)))

/-- A unit that replays: one that is bound to no peer, leads or is alone, and is not about to yield (R548). -/
def replays (s : State) : Bool := ownsQueue s && !s.twn.yieldDue

/-- A device-class fault clears; when it was the last one active, replay follows (R541, R548). -/
def clearFault (code : Nat) (s : State) : State :=
  if code ∈ s.flt.active then
    let s := { s with flt.active := s.flt.active.filter (· != code) }
    if s.flt.active.isEmpty && s.pwr.ready && replays s then replay (some code) s else s
  else s

end Sys2Proof.Machine
end

