-- ==== Sys2Proof/Machine/Checks.lean ====
section
/-!
DEFINITION. The check units: which algorithm serves a unit (R451), contexts (R448), the verification and the counters of a
ring transfer (R69, R452), CHECK_RUN (R446 to R449) and the periodic self-check (R451).
-/
namespace Sys2Proof.Machine

/-- The algorithm of R444 with a number. -/
def fixedCfg (k : Nat) : CheckCfg :=
  match k with
  | 0 => CheckCfg.crc32c | 1 => CheckCfg.crc32 | 2 => CheckCfg.crc16 | _ => CheckCfg.crc64

/-- Whether settings equal an algorithm of R444. -/
def isFixedAlg (c : CheckCfg) : Bool :=
  [CheckCfg.crc32c, CheckCfg.crc32, CheckCfg.crc16, CheckCfg.crc64].any fun a => { c with fixed := 0 } == a

/-- The settings under which a unit's users are served, none when a failed unit has no substitute (R451). -/
def servedBy (s : State) (u : Fin 5) : Option CheckCfg :=
  let x := s.chk.units[u]
  if !x.failed then some x.cfg else if isFixedAlg x.cfg then some x.cfg else none

/-- The check unit a number names, 0 to 4 (R442). -/
def unitOf (n : Nat) : Option (Fin 5) := if h : n < 5 then some ⟨n, h⟩ else none

/-- The descriptor at the head of a ring uses a check unit and has read its first byte (R448). -/
def ringHolds (s : State) (u : Fin 5) (w : RingWork) (g : Ring) : Bool :=
  match w.desc with
  | none => false
  | some d => (fbit d.w2 36 || fbit d.w2 37) && decide (0 < g.doneBytes)
      && (fld d.w2 41 39 == u.val || (u.val == 4 && match unitOf (fld d.w2 41 39) with
        | some v => (s.chk.units[v]).failed | none => false))

/-- Whether any user holds a context on a unit (R448, R453). -/
def contextHeld (s : State) (u : Fin 5) : Bool :=
  s.chk.scans.any (fun x => x.unit == u || (u.val == 4 && (s.chk.units[x.unit]).failed))
    || ((elems s.bar.work).zip (elems s.bar.rings)).any fun p => ringHolds s u p.1 p.2

/-- A unit's use is counted: bytes checked, and the fall-back's service when it stood in (R452). -/
def countUse (u : Fin 5) (n : Nat) (s : State) : State :=
  { s with chk.units := upd s.chk.units u fun x => { x with
      bytes := sat (2 ^ 64 - 1) (x.bytes + n),
      served := if x.failed then sat 0xFFFFFFFF (x.served + 1) else x.served } }

/-- A verification is counted; a mismatch is reported, at most 100 times a device second for each unit (R452, R571). -/
def countVerify (u : Fin 5) (ring : Nat) (ok : Bool) (s : State) : State :=
  let x := s.chk.units[u]
  let x := { x with verifies := sat 0xFFFFFFFF (x.verifies + 1) }
  if ok then { s with chk.units := s.chk.units.set u x } else
  let cnt := if x.evSec = devSec s then x.evCount else 0
  let x := { x with mismatch := sat 0xFFFFFFFF (x.mismatch + 1), lastMis := devSec s % 2 ^ 32, evSec := devSec s, evCount := cnt + 1 }
  let s := { s with chk.units := s.chk.units.set u x }
  if cnt < 100 then raise FaultCode.checkMismatch (Config.mismatchDetail u ring) s else s

/-! ### Configuration records (R447) -/

/-- The settings of a configuration record, when it keeps the table for a unit. -/
def recordCfg (u : Fin 5) (ws : List W64) : Option CheckCfg :=
  let w0 := ws.getD 0 0
  let w := fld w0 6 0
  let poly := (ws.getD 1 0).toNat
  let init := (ws.getD 2 0).toNat
  let xo := (ws.getD 3 0).toNat
  if fld w0 63 32 ≠ 0x43484B31 ∨ fbit w0 7 ∨ fld w0 15 10 ≠ 0 ∨ fld w0 31 18 ≠ 0 then none
  else if u.val = 4 then
    if w ≠ 0 ∨ fbit w0 8 ∨ fbit w0 9 ∨ poly ≠ 0 ∨ init ≠ 0 ∨ xo ≠ 0 then none
    else some { fixedCfg (fld w0 17 16) with fixed := fld w0 17 16 }
  else if w < 8 ∨ 64 < w ∨ fld w0 17 16 ≠ 0 ∨ poly % 2 = 0 ∨ 2 ^ w ≤ poly ∨ 2 ^ w ≤ init ∨ 2 ^ w ≤ xo then none
  else some { width := w, refin := fbit w0 8, refout := fbit w0 9, poly := poly, init := init, xorout := xo, fixed := 0 }

/-- The configuration record of a unit and its counters, eight words (R446, R447, R452). -/
def storeWords (u : Fin 5) (x : CheckUnit) : List W64 :=
  let c := x.cfg
  (if u.val = 4 then [word (put c.fixed 16 + put 0x43484B31 32), 0, 0, 0]
   else [word (c.width + put (flag c.refin) 8 + put (flag c.refout) 9 + put 0x43484B31 32), word c.poly, word c.init, word c.xorout])
  ++ [word x.bytes, word x.verifies, word (x.mismatch + put x.selfFails 32), word (x.served + put x.lastMis 32)]

/-! ### CHECK_RUN (R446, R448, R449) -/

/-- A scan starts; its value is returned when it completes (R446, R449). -/
def checkScan (c : Slot) (u : Fin 5) (s : State) : State :=
  if 4 ≤ s.chk.scans.length then refuse c Status.scanLimit s
  else match servedBy s u with
    | none => failWith c Status.faultNoEffect FaultCode.checkUnitFail s
    | some _ => { s with chk.scans := s.chk.scans ++ [{ cid := c.cid, unit := u, addr := parN c 1, len := parN c 2 }] }

/-- A load (R448): `agree` is what the unit's hardware found against the firmware's value. A load of the settings that makes
the values disagree marks the unit failed. -/
def checkLoad (c : Slot) (u : Fin 5) (agree : Bool) (bs : List Byte) (s : State) : State :=
  match recordCfg u (wordsOf bs) with
  | none => refuse c Status.badCheckConfig s
  | some cfg =>
    if contextHeld s u then refuse c Status.checkBusy s
    else if agree then
      let v := crc cfg checkText
      answer c [word v] (mendConfig (fun h => match h with | .check q _ => q == u | _ => false)
        { s with chk.units := upd s.chk.units u fun x => { x with cfg := cfg, loadValue := v, failed := false } })
    else
      let s := { s with chk.units := upd s.chk.units u fun x => { x with failed := true } }
      failWith c Status.faultPartial FaultCode.checkUnitFail (raise FaultCode.checkUnitFail 0 s)

/-- CHECK_RUN (R446): the parameters, then the range (R573), then the mode's own checks. -/
def execCheckRun (t cid : Nat) (agree : Bool) (s : State) : Host.Outcome State Fault Refusal :=
  onStart Op.checkRun t cid (fun c s =>
    match unitOf (parF c 0 2 0) with
    | none => refuse c Status.badParameter s
    | some u =>
      let addr := parN c 1
      let n := parN c 2
      match parF c 0 9 8 with
      | 0 =>
        if n = 0 ∨ 2 ^ 40 < n then refuse c Status.badParameter s
        else withRange c addr n (checkScan c u) s
      | 1 =>
        if n ≠ 32 ∨ addr % 8 ≠ 0 then refuse c Status.badParameter s
        else withObject c addr n (checkLoad c u agree) s
      | 2 =>
        if n ≠ 64 ∨ addr % 8 ≠ 0 then refuse c Status.badParameter s
        else withRange c addr n (fun s => answer c [0] (wellWrite addr (wordsBytes (storeWords u s.chk.units[u])) s)) s
      | _ => refuse c Status.badParameter s) s

/-- CHECK_SCAN_COMPLETE (R446, R449): the scan's value over the bytes of its range, or WELL_UNCORRECTABLE. -/
def execCheckScanComplete (t cid : Nat) (s : State) : Host.Outcome State Fault Refusal :=
  onEvent t (fun s =>
    match s.chk.scans.find? (fun x => x.cid == cid), running Op.checkRun cid s with
    | some x, some c =>
      let s := { s with chk.scans := s.chk.scans.filter (fun y => y.cid != cid) }
      if poisoned s x.addr x.len then
        failWith c Status.faultNoEffect FaultCode.wellUncorrectable (wellBad x.addr x.len s)
      else match servedBy s x.unit with
        | none => failWith c Status.faultNoEffect FaultCode.checkUnitFail s
        | some cfg => answer c [word (crc cfg (wellRead s x.addr x.len))] (countUse x.unit x.len s)
    | _, _ => s) s

/-! ### The periodic self-check (R451, R453) -/

/-- The scans of a unit that has just failed end with CHECK_UNIT_FAIL (R453). -/
def endScans (u : Fin 5) : List Scan → State → State
  | [], s => s
  | x :: xs, s =>
    endScans u xs (if x.unit = u then
      let s := { s with chk.scans := s.chk.scans.filter (fun y => y.cid != x.cid) }
      finish x.cid Status.faultNoEffect FaultCode.checkUnitFail [] s
    else s)

end Sys2Proof.Machine
end

