-- ==== Sys2Proof/Machine/Rings.lean ====
section
/-!
DEFINITION. The descriptor rings, the CSR map, interrupts and the pre-firmware mailbox (R57 to R87, R450).
-/
namespace Sys2Proof.Machine

/-! ### One ring -/

/-- One ring's registers changed. -/
def modRing (r : Fin 16) (f : Ring → Ring) (s : State) : State := { s with bar.rings := upd s.bar.rings r f }

/-- One ring's work changed. -/
def modWork (r : Fin 16) (f : RingWork → RingWork) (s : State) : State := { s with bar.work := upd s.bar.work r f }

/-- A ring's registers. -/
def ringAt (s : State) (r : Fin 16) : Ring := s.bar.rings[r]

/-- A ring's work. -/
def workAt (s : State) (r : Fin 16) : RingWork := s.bar.work[r]

/-- Whether a role moves data from the host to the device (R63). -/
def toDevice : RingRole → Bool
  | .commandIn => true | .jobIn => true | .generalIn => true | _ => false

/-- Whether a role moves data to the host (R63). -/
def toHost : RingRole → Bool
  | .unassigned => false | r => !toDevice r

/-- Whether a role's descriptors hold a Well address (R63). -/
def wellRole : RingRole → Bool
  | .jobIn => true | .generalIn => true | .generalOut => true | _ => false

/-- The domains a transfer of a role touches (R63). -/
def roleDomains : RingRole → List (Fin 12)
  | .unassigned => [] | .commandIn => [4, 2] | .replyOut => [4, 2] | .crierOut => [4, 2]
  | .recordsOut => [4, 2, 5, 6] | .visionOut => [4, 11, 5, 6]
  | .jobIn => [4, 5, 6] | .generalIn => [4, 5, 6] | .generalOut => [4, 5, 6]

/-- The ring attention bit (R81). -/
def attend (r : Fin 16) (s : State) : State := setInt (16 + r.val) s

/-- A ring-stopping completion code takes effect: the ring pauses, `error` and its code are set (R67). -/
def ringError (r : Fin 16) (code : Nat) (k : W32) (s : State) : State :=
  attend r (modRing r (fun g => { g with pause := true, paused := true, error := true, errCode := code, errIndex := k }) s)

/-- The ring's coalescing condition holds: its `ring_done` bit is set and its count starts again (R82). -/
def coalesceFire (r : Fin 16) (s : State) : State :=
  setInt r.val (modWork r (fun w => { w with irqCount := 0 }) s)

/-- One completion with `irq` 1 is counted (R82). -/
def countIrq (r : Fin 16) (s : State) : State :=
  let s := modWork r (fun w => { w with
    irqCount := w.irqCount + 1, irqFirst := if w.irqCount = 0 then s.now else w.irqFirst }) s
  if max 1 (ringAt s r).coalesce ≤ (workAt s r).irqCount then coalesceFire r s else s

/-- A shadow switch at t_s (R77). -/
def shadowSwitch (r : Fin 16) (s : State) : State :=
  attend r (modRing r (fun g => { g with
    base := g.sBase, log2n := g.sLog2n, head := g.sHead, tail := g.sTail,
    coalesce := bits g.sCtrl 15 8, holdoff := bits g.sCtrl 23 16, vector := bits g.sCtrl 28 24,
    doneBytes := 0, arm := false, switched := true, switchCnt := (g.switchCnt + 1) % 256 }) s)

/-- The host address of descriptor k (R70). -/
def descAddr (g : Ring) (k : W32) : Nat := g.base.toNat + 32 * (k.toNat % 2 ^ g.log2n)

/-- A descriptor completes: word 3 and then word 2 are written back, `head` advances, the completion is counted, the ring
stops where its code says so, and a shadow switch follows where R77 has one (R66, R67, R70, R77, R87). -/
def completeDesc (r : Fin 16) (code placed : Nat) (s : State) : State :=
  match (workAt s r).desc with
  | none => s
  | some d =>
    let g := ringAt s r
    let k := g.head
    let head := k + 1
    let a := descAddr g k
    let w2 := word (d.w2.toNat - fld d.w2 31 0 - put (flag (fbit d.w2 32)) 32 + placed)
    let s := emits [.hostWords (a + 24) [word (code + put head.toNat 16)], .hostWords (a + 16) [w2]] s
    let s := modWork r (fun w => { w with desc := none, moved := [] }) s
    let s := modRing r (fun g => { g with head := head, doneBytes := 0 }) s
    let s := if fbit d.w2 35 then countIrq r s else s
    if code = 3 then attend r (modRing r (fun g => { g with pause := true, paused := true, domainOff := true }) s)
    else if 4 ≤ code ∧ code ≠ 7 then ringError r code k s
    else if code ≠ 7 ∧ fbit d.w2 38 ∧ g.arm then shadowSwitch r s
    else s

/-- The bytes the data of a descriptor takes: its length less the check value it carries (R69). -/
def checkLen (s : State) (d : DescWords) : Nat :=
  if fbit d.w2 36 || fbit d.w2 37 then
    match unitOf (fld d.w2 41 39) with
    | some u => checkBytes ((servedBy s u).getD {})
    | none => 0
  else 0

/-- Whether a descriptor breaks a rule that completes it with BAD_DESC before any byte moves (R67, R68, R450). -/
def badDesc (s : State) (g : Ring) (d : DescWords) : Bool :=
  let len := fld d.w2 31 0
  let n := len - (if fbit d.w2 37 then checkLen s d else 0)
  let fixed := fbit d.w2 33 || fbit d.w2 34
  let chk := fbit d.w2 36 || fbit d.w2 37
  decide (fld d.w2 63 42 ≠ 0) || !fbit d.w2 32 || decide (5 ≤ fld d.w2 41 39) || decide (len = 0)
    || (wellRole g.role && (decide (d.w1.toNat % 8 ≠ 0) || decide (n % 8 ≠ 0)))
    || (!wellRole g.role && d.w1 != 0)
    || (fixed && decide (n % 8 ≠ 0))
    || ((if toDevice g.role then fbit d.w2 33 else fbit d.w2 34) && decide (d.w0.toNat % 8 ≠ 0))
    || (g.role == .commandIn && decide (len % 8 ≠ 0))
    || (fbit d.w2 36 && toDevice g.role) || (fbit d.w2 37 && toHost g.role)
    || (chk && match unitOf (fld d.w2 41 39) with
        | none => true
        | some u => match servedBy s u with
          | none => true
          | some cfg => decide (cfg.width % 8 ≠ 0) || (fbit d.w2 37 && decide (len ≤ checkBytes cfg)))

/-- Whether a descriptor touches a byte outside the host range (R65, R67). -/
def badRange (s : State) (g : Ring) (d : DescWords) : Bool :=
  let len := fld d.w2 31 0
  let chk := if fbit d.w2 36 || fbit d.w2 37 then checkLen s d else 0
  let fixedDev := if toDevice g.role then fbit d.w2 34 else fbit d.w2 33
  let n := if fixedDev then 8 else len - chk
  wellRole g.role && decide (hostEnd s < d.w1.toNat + n)

/-- Whether a ring may run: PCIE is on, it is enabled, has a role and neither a pause nor an error stops it. -/
def ringRuns (s : State) (r : Fin 16) : Bool :=
  let g := ringAt s r
  domOn s 4 && g.enable && !g.pause && !g.error && g.role != .unassigned

/-- DESCRIPTOR_FETCH (R70, R71): the next handed-over descriptor is read once, when the ring runs, the domains of its role are
on and no power-down of one of them is due (R79); one that breaks a rule completes at once. -/
def execDescriptorFetch (t : Nat) (r : Fin 16) (d : DescWords) (s : State) : Host.Outcome State Fault Refusal :=
  onEvent t (fun s =>
    let g := ringAt s r
    let w := workAt s r
    if !ringRuns s r || g.head == g.tail || w.desc.isSome || w.deadline.isSome
        || !(roleDomains g.role).all (fun k => domOn s k) then s
    else
      let s := modWork r (fun w => { w with desc := some d, moved := [] }) (modRing r (fun g => { g with doneBytes := 0 }) s)
      if badDesc s g d then completeDesc r 6 0 s
      else if badRange s g d then completeDesc r 5 0 s
      else s) s

/-! ### Transfers -/

/-- The data bytes of a host-to-device transfer reach the Well, at rising addresses or at one fixed address (R66, R68). -/
def placeInWell (d : DescWords) (off : Nat) (bs : List Byte) (s : State) : State :=
  if fbit d.w2 34 then (if bs.length < 8 then s else wellWrite d.w1.toNat (bs.drop (bs.length - 8)) s)
  else wellWrite (d.w1.toNat + off) bs s

/-- The bytes a command takes from an input ring go to its Well range or to its collection (R64). -/
def feedInput (r : Fin 16) (bs : List Byte) (s : State) : State :=
  let w := workAt s r
  let bs := bs.take w.inLeft
  let op := match slotOf s w.input with | some c => c.op | none => 0
  let s := if op = Op.wellWrite then wellWrite w.inAddr bs s else modWork r (fun w => { w with got := w.got ++ bs }) s
  let s := modWork r (fun w => { w with inAddr := w.inAddr + bs.length, inLeft := w.inLeft - bs.length }) s
  if (workAt s r).inLeft = 0 ∧ op = Op.wellWrite then
    done { cid := w.input } (modWork r (fun w => { w with input := 0 }) s)
  else s

/-- The data of a descriptor on a host-to-device ring goes to where it belongs. -/
def placeIn (r : Fin 16) (d : DescWords) (off : Nat) (bs : List Byte) (s : State) : State :=
  if (workAt s r).input ≠ 0 then feedInput r bs s else placeInWell d off bs s

/-- A host-to-device transfer is whole: the check is verified over the data bytes, and only those are placed (R69, R450). -/
def finishIn (r : Fin 16) (d : DescWords) (bs : List Byte) (s : State) : State :=
  let all := (workAt s r).moved ++ bs
  let off := (workAt s r).moved.length
  if fbit d.w2 37 then
    match unitOf (fld d.w2 41 39) with
    | none => completeDesc r 6 0 s
    | some u =>
      match servedBy s u with
      | none => completeDesc r 6 0 s
      | some cfg =>
        let n := all.length - checkBytes cfg
        let ok := leNat (all.drop n) == crc cfg (all.take n)
        let s := placeIn r d off ((all.take n).drop off) s
        let s := countVerify u r.val ok (countUse u n s)
        completeDesc r (if ok then 0 else 2) n s
  else completeDesc r 0 all.length (placeIn r d off bs s)

/-- The bytes that a unit of n bytes takes in its buffer, with the check value appended (R69). -/
def withCheck (d : DescWords) (bs : List Byte) (s : State) : List Byte × State :=
  if fbit d.w2 36 then
    match unitOf (fld d.w2 41 39) with
    | some u =>
      match servedBy s u with
      | some cfg => (bs ++ leBytes (checkBytes cfg) (crc cfg bs), countUse u bs.length s)
      | none => (bs, s)
    | none => (bs, s)
  else (bs, s)

/-- A unit's command ends when its last unit has left; a block of the record stream counts as exported (R316). -/
def unitEnds (u : OutUnit) (s : State) : State :=
  let s := match u.block with | some q => blockExported q s | none => s
  if u.final && u.cid != 0 then finish u.cid Status.done 0 u.results s else s

/-- One waiting unit fills the descriptor, or the buffer is too small for it (R47, R67, R69, R71). -/
def sendUnit (r : Fin 16) (d : DescWords) (u : OutUnit) (s : State) : State :=
  let room := fld d.w2 31 0 - (if fbit d.w2 36 then checkLen s d else 0)
  let data := if u.split then u.data.take room else u.data
  if room < data.length then completeDesc r 1 0 s
  else
    let (bs, s) := withCheck d data s
    let s := emit (.hostBytes d.w0.toNat bs) s
    let rest := if u.split then u.data.drop room else []
    let left := if rest.isEmpty then [] else [{ u with data := rest }]
    let s := modWork r (fun w => { w with units := left ++ w.units.drop 1 }) s
    let s := completeDesc r 0 bs.length s
    if rest.isEmpty then unitEnds u s else s

/-- A transfer of the Well to the host on a general ring (R63, R68): an uncorrectable burst ends it (R67, R457, R474). -/
def sendWell (r : Fin 16) (d : DescWords) (s : State) : State :=
  let n := fld d.w2 31 0 - (if fbit d.w2 36 then checkLen s d else 0)
  let a := d.w1.toNat
  let span := if fbit d.w2 33 then 8 else n
  if poisoned s a span then completeDesc r 8 0 (wellBad a span s)
  else
    let bs := if fbit d.w2 33 then (List.replicate (n / 8) (wellRead s a 8)).flatten else wellRead s a n
    let (bs, s) := withCheck d bs s
    completeDesc r 0 bs.length (emit (.hostBytes d.w0.toNat bs) s)

/-- The next waiting unit, when there is one, fills the descriptor. -/
def sendNext (r : Fin 16) (d : DescWords) (s : State) : State :=
  match (workAt s r).units with
  | u :: _ => sendUnit r d u s
  | [] => s

/-- DESCRIPTOR_COMPLETE (R67 to R71): the transfer of the descriptor at `head` ends. On a command-in ring it completes once
intake has taken every packet; on a host-to-device ring `x` holds the bytes read from the host since the last pause; on a
device-to-host ring the next waiting unit, or on a general ring without one the Well range of the descriptor, is written.
Replies and Crier events are written by their own steps. A host-side error leaves the unit waiting (R87). -/
def execDescriptorComplete (t : Nat) (r : Fin 16) (x : Xfer) (s : State) : Host.Outcome State Fault Refusal :=
  onEvent t (fun s =>
    let g := ringAt s r
    let w := workAt s r
    match w.desc with
    | none => s
    | some d =>
      if !g.enable || g.paused || !domOn s 4 then s
      else match x.how with
      | .hostAbort => completeDesc r 4 g.doneBytes s
      | .devEcc => if toHost g.role then completeDesc r 8 0 s else s
      | .full =>
        match g.role with
        | .commandIn => if g.doneBytes = fld d.w2 31 0 then completeDesc r 0 g.doneBytes s else s
        | .jobIn => if w.moved.length + x.data.length = fld d.w2 31 0 then finishIn r d x.data s else s
        | .generalIn => if w.moved.length + x.data.length = fld d.w2 31 0 then finishIn r d x.data s else s
        | .recordsOut => sendNext r d s
        | .visionOut => sendNext r d s
        | .generalOut => if w.units.isEmpty then sendWell r d s else sendNext r d s
        | _ => s) s

/-- The ring of role 2 that has a descriptor for a reply: the lowest (R47, R63). -/
def replyRing (s : State) : Option (Fin 16) :=
  (List.finRange 16).find? fun r =>
    (ringAt s r).role == .replyOut && (ringAt s r).enable && !(ringAt s r).pause && (workAt s r).desc.isSome

/-- REPLY_RING_WRITE (R41, R47): the reply at the head of the commit order is written into the fetched descriptor of
ring 2 and the descriptor is returned; one with less than 2,080 bytes is returned with SHORT_BUFFER and the reply waits. -/
def execReplyRingWrite (t cid : Nat) (s : State) : Host.Outcome State Fault Refusal :=
  onEvent t (fun s =>
    match replyRing s with
    | none => s
    | some r =>
      match (workAt s r).desc, takeReply cid s with
      | some d, some (ws, s') =>
        if fld d.w2 31 0 < 2080 then completeDesc r 1 0 s
        else
          let bs := wordsBytes ws
          let (bs, s') := withCheck d bs s'
          completeDesc r 0 bs.length (emit (.hostBytes d.w0.toNat bs) s')
      | _, _ => s) s

/-- RING_HOLDOFF_EXPIRY (R82): `holdoff` µs have passed since the first counted completion. -/
def execRingHoldoffExpiry (t : Nat) (r : Fin 16) (s : State) : Host.Outcome State Fault Refusal :=
  onEvent t (fun s =>
    let g := ringAt s r
    let w := workAt s r
    if 0 < w.irqCount ∧ 0 < g.holdoff ∧ w.irqFirst + 1000 * g.holdoff ≤ s.now then coalesceFire r s else s) s

/-! ### Pause, resume, enable, disable (R74 to R76) -/

/-- `pause` becomes 1 (R74). -/
def ringPause (r : Fin 16) (s : State) : State := modRing r (fun g => { g with pause := true }) s

/-- RING_PAUSE (R74). -/
def execRingPause (t : Nat) (r : Fin 16) (s : State) : Host.Outcome State Fault Refusal :=
  onEvent t (fun s => if domOn s 4 then ringPause r s else s) s

/-- A disabled ring ends: the descriptor at `head` completes with FLUSHED where bytes were placed, and `pause` and
`done_bytes` return to 0 (R76). -/
def ringFlush (r : Fin 16) (s : State) : State :=
  let n := (ringAt s r).doneBytes
  let s := if 0 < n then completeDesc r 7 n s else s
  modWork r (fun w => { w with desc := none, moved := [], stopping := false })
    (modRing r (fun g => { g with pause := false, paused := false, doneBytes := 0 }) s)

/-- RING_PAUSE_COMPLETE (R74): the reads already issued have placed `placed` bytes more; `done_bytes` and `head` then state
what has reached the destination, and `paused` becomes 1. A ring that is being disabled ends here (R76). -/
def execRingPauseComplete (t : Nat) (r : Fin 16) (placed : List Byte) (s : State) : Host.Outcome State Fault Refusal :=
  onEvent t (fun s =>
    let g := ringAt s r
    let w := workAt s r
    if !g.pause || g.paused || !domOn s 4 then s
    else
      let s := match w.desc with
        | none => s
        | some d =>
          let left := fld d.w2 31 0 - checkLen s d - g.doneBytes
          let bs := placed.take left
          if g.role = .jobIn ∨ g.role = .generalIn then
            let s := placeIn r d g.doneBytes bs s
            modWork r (fun w => { w with moved := w.moved ++ bs })
              (modRing r (fun g => { g with doneBytes := g.doneBytes + bs.length }) s)
          else s
      if w.stopping then ringFlush r s
      else attend r (modRing r (fun g => { g with paused := true }) s)) s

/-- `pause` is cleared: the ring goes on with the descriptor at `head` at byte `done_bytes`; ignored while `error` is 1 (R75). -/
def ringResume (r : Fin 16) (s : State) : State :=
  if (ringAt s r).error then s
  else modWork r (fun w => { w with deadline := none }) (modRing r (fun g => { g with pause := false, paused := false }) s)

/-- RING_RESUME (R75). -/
def execRingResume (t : Nat) (r : Fin 16) (s : State) : Host.Outcome State Fault Refusal :=
  onEvent t (fun s => if domOn s 4 then ringResume r s else s) s

/-- `enable` goes from 0 to 1: the ring starts at the present `head`; a size outside 3 to 16 sets `error` with BAD_DESC and
leaves the ring paused as R67 has it (R73, R76). -/
def ringEnable (r : Fin 16) (s : State) : State :=
  let g := ringAt s r
  if g.enable || (workAt s r).stopping then s
  else
    let s := modRing r (fun g => { g with enable := true, switchCnt := 0, doneBytes := 0 }) s
    if g.log2n < 3 ∨ 16 < g.log2n then ringError r 6 g.head s else s

/-- RING_ENABLE (R73, R76). -/
def execRingEnable (t : Nat) (r : Fin 16) (s : State) : Host.Outcome State Fault Refusal :=
  onEvent t (fun s => if domOn s 4 then ringEnable r s else s) s

/-- `enable` goes from 1 to 0: the ring first pauses, and ends when its pause completes; one already paused, or with no
descriptor in flight, ends at once (R76). -/
def ringDisable (r : Fin 16) (s : State) : State :=
  let g := ringAt s r
  if !g.enable then s
  else if g.paused || (workAt s r).desc.isNone then ringFlush r (modRing r (fun g => { g with enable := false }) s)
  else modWork r (fun w => { w with stopping := true }) (modRing r (fun g => { g with enable := false, pause := true }) s)

/-- RING_DISABLE (R76). -/
def execRingDisable (t : Nat) (r : Fin 16) (s : State) : Host.Outcome State Fault Refusal :=
  onEvent t (fun s => if domOn s 4 then ringDisable r s else s) s

/-- RING_TAIL is written: more than 2^n descriptors beyond `head`, or a count behind it, is ignored with BAD_DESC (R70). -/
def ringTail (r : Fin 16) (v : W32) (s : State) : State :=
  let g := ringAt s r
  if 2 ^ g.log2n < (v - g.head).toNat then
    attend r (modRing r (fun g => { g with error := true, errCode := 6, errIndex := g.head }) s)
  else modRing r (fun g => { g with tail := v }) s

/-- RING_TAIL_WRITE (R70). -/
def execRingTailWrite (t : Nat) (r : Fin 16) (v : W32) (s : State) : Host.Outcome State Fault Refusal :=
  onEvent t (fun s => if domOn s 4 then ringTail r v s else s) s

/-- RING_HEAD takes a write only while `enable` is 0 (R73). -/
def ringHead (r : Fin 16) (v : W32) (s : State) : State :=
  if (ringAt s r).enable then s else modRing r (fun g => { g with head := v }) s

/-- RING_HEAD_WRITE (R73). -/
def execRingHeadWrite (r : Fin 16) (v : W32) (s : State) : Host.Outcome State Fault Refusal :=
  .next (if domOn s 4 then ringHead r v s else s)

/-! ### The shadow set (R73, R77, R78) -/

/-- A shadow write while `switched` is 1 sets `late_write` (R73, R78). -/
def shadowTouched (r : Fin 16) (s : State) : State :=
  if (ringAt s r).switched then modRing r (fun g => { g with lateWrite := true }) s else s

/-- Shadow RING_CTRL is written; a write that sets `arm` while the active ring is enabled, idle and not paused switches at
once (R77). -/
def shadowCtrl (r : Fin 16) (v : W64) (s : State) : State :=
  let s := shadowTouched r s
  let s := modRing r (fun g => { g with
    sCtrl := v.toNat % 4 + put (bits v.toNat 15 8) 8 + put (bits v.toNat 23 16) 16 + put (bits v.toNat 28 24) 24,
    arm := fbit v 2 }) s
  let g := ringAt s r
  if fbit v 2 && g.enable && g.head == g.tail && !g.pause then shadowSwitch r s else s

/-- SHADOW_ARM_WRITE (R77, R78): a write of shadow RING_CTRL. -/
def execShadowArmWrite (t : Nat) (r : Fin 16) (v : W64) (s : State) : Host.Outcome State Fault Refusal :=
  onEvent t (fun s => if domOn s 4 then shadowCtrl r v s else s) s

/-! ### Status and interrupt registers (R73, R81) -/

/-- The W1C bits of RING_STATUS (R7, R73). -/
def ringStatusClear (r : Fin 16) (v : W64) (s : State) : State :=
  modRing r (fun g => { g with
    error := g.error && !fbit v 3, domainOff := g.domainOff && !fbit v 4,
    switched := g.switched && !fbit v 5, lateWrite := g.lateWrite && !fbit v 6 }) s

/-- RING_STATUS_CLEAR (R73). -/
def execRingStatusClear (t : Nat) (r : Fin 16) (v : W64) (s : State) : Host.Outcome State Fault Refusal :=
  onEvent t (fun s => if domOn s 4 then ringStatusClear r v s else s) s

/-- INT_STATUS is written: the bits written 1 are cleared (R7, R81). -/
def intClear (v : W64) (s : State) : State := { s with bar.intStatus := s.bar.intStatus &&& ~~~v }

/-- INT_STATUS_CLEAR (R81). -/
def execIntStatusClear (t : Nat) (v : W64) (s : State) : Host.Outcome State Fault Refusal :=
  onEvent t (fun s => if domOn s 4 then intClear v s else s) s

/-- MSIX_VECTOR_UNMASK (R82): the mask bit of a vector is cleared, and a message held back is sent. -/
def msixUnmask (v : Fin 32) (s : State) : State :=
  let s := { s with bar.msix := upd s.bar.msix v fun e => { e with masked := false } }
  if bit s.bar.pba v.val then emit (.msi v.val) { s with bar.pba := s.bar.pba - 2 ^ v.val } else s

/-- MSIX_VECTOR_UNMASK (R82). -/
def execMsixVectorUnmask (t : Nat) (v : Fin 32) (s : State) : Host.Outcome State Fault Refusal :=
  onEvent t (fun s => if domOn s 4 then msixUnmask v s else s) s

/-! ### The CSR map (R57 to R61, R73, R81, R84) -/

/-- The low bit of RESET_CAUSE that names the cause (R61). -/
def causeBit : ResetCause → Nat
  | .cold => 0 | .warmCmd => 1 | .resetPin => 2 | .tamper => 3 | .watchdog => 4 | .thermal => 5

/-- The bits of `domains_on` from bit 0 (R61). -/
def domainMask (s : State) : Nat := maskOf (elems s.pwr.domains)

/-- The mailbox is open: before ready, and after a boot failure until the next reset (R84). -/
def mbxOpen (s : State) : Bool := !s.pwr.ready

/-- RING_CTRL as it reads in the active set (R73). -/
def ctrlWord (g : Ring) : Nat :=
  let role : Nat := match g.role with
    | .unassigned => 0 | .commandIn => 1 | .replyOut => 2 | .crierOut => 3 | .jobIn => 4
    | .recordsOut => 5 | .visionOut => 6 | .generalIn => 7 | .generalOut => 8
  flag g.enable + 2 * flag g.pause + put g.coalesce 8 + put g.holdoff 16 + put g.vector 24 + put role 32

/-- RING_STATUS (R73). -/
def ringStatusWord (g : Ring) : Nat :=
  flag (g.enable && !g.pause) + 2 * flag g.paused + 4 * flag (g.head == g.tail) + 8 * flag g.error
    + 16 * flag g.domainOff + 32 * flag g.switched + 64 * flag g.lateWrite + put g.errCode 8 + put g.switchCnt 16

/-- A register of the active ring set by its offset in the set (R73). -/
def ringReg (g : Ring) (o : Nat) : W64 :=
  match o with
  | 0x00 => g.base | 0x08 => word g.log2n | 0x10 => word g.head.toNat | 0x18 => word g.tail.toNat
  | 0x20 => word (ctrlWord g) | 0x28 => word (ringStatusWord g) | 0x30 => word g.doneBytes | 0x38 => word g.errIndex.toNat
  | _ => 0

/-- A register of the shadow set by its offset in the set (R73). -/
def shadowReg (g : Ring) (o : Nat) : W64 :=
  match o with
  | 0x00 => g.sBase | 0x08 => word g.sLog2n | 0x10 => word g.sHead.toNat | 0x18 => word g.sTail.toNat
  | 0x20 => word (g.sCtrl + 4 * flag g.arm) | _ => 0

/-- DEVICE_STATUS (R61). -/
def deviceStatusWord (s : State) : Nat :=
  flag s.pwr.ready + put s.pwr.stage 8 + put (domainMask s) 16 + put (flag s.bgd.takeover) 32
    + put s.bgd.fwSlot 33 + put s.flt.deviceCount 40

/-- A 64-bit register of BAR0 by its offset; every other offset reads 0 (R8, R59). -/
def barRead (s : State) (off : Nat) : W64 :=
  if off = 0x0000 then word 0x00012618
  else if off = 0x0008 then word 0x4200
  else if off = 0x0010 then Config.serial
  else if off = 0x0018 then word s.node
  else if off = 0x0100 then word (deviceStatusWord s)
  else if off = 0x0108 then word (2 ^ causeBit s.pwr.cause)
  else if h : 0x400 ≤ off ∧ off < 0x800 then ringReg (s.bar.rings[(off - 0x400) / 0x40]'(by omega)) (off % 0x40)
  else if h : 0x800 ≤ off ∧ off < 0xC00 then shadowReg (s.bar.rings[(off - 0x800) / 0x40]'(by omega)) (off % 0x40)
  else if off = 0x1000 then s.bar.intStatus
  else if off = 0x1008 then s.bar.intEnable
  else if off = 0x1010 then word s.bar.intVector
  else if h : 0x1800 ≤ off ∧ off < 0x1A00 then
    let e := s.bar.msix[(off - 0x1800) / 16]'(by omega)
    if off % 16 = 0 then e.addr else word (e.data.toNat + put (flag e.masked) 32)
  else if off = 0x1C00 then word s.bar.pba
  else if !mbxOpen s then 0
  else if off = 0x2000 then word (s.pwr.stage + put s.pwr.bootError 8 + put 1 16)
  else if h : 0x2010 ≤ off ∧ off < 0x2030 then s.bar.mbxArg[(off - 0x2010) / 8]'(by omega)
  else if off = 0x2030 then word (s.bar.mbxResult + put (flag s.bar.mbxBusy) 8 + put s.bar.mbxOut 32)
  else 0

/-- The fields of the active RING_CTRL are written: `enable` and `pause` act as their own rules say (R73 to R76). -/
def ringCtrl (r : Fin 16) (v : W64) (s : State) : State :=
  let g := ringAt s r
  let s := modRing r (fun g => { g with coalesce := fld v 15 8, holdoff := fld v 23 16, vector := fld v 28 24 }) s
  let s := if fbit v 1 && !g.pause then ringPause r s else if !fbit v 1 && g.pause then ringResume r s else s
  if fbit v 0 && !g.enable then ringEnable r s else if !fbit v 0 && g.enable then ringDisable r s else s

/-- A write of a whole register of the active ring set (R73). -/
def ringRegWrite (r : Fin 16) (o : Nat) (v : W64) (s : State) : State :=
  match o with
  | 0x00 => modRing r (fun g => { g with base := v &&& ~~~63 }) s
  | 0x08 => modRing r (fun g => { g with log2n := v.toNat % 32 }) s
  | 0x10 => ringHead r (v.setWidth 32) s
  | 0x18 => ringTail r (v.setWidth 32) s
  | 0x20 => ringCtrl r v s
  | 0x28 => ringStatusClear r v s
  | _ => s

/-- A write of a whole register of the shadow set (R73, R78). -/
def shadowRegWrite (r : Fin 16) (o : Nat) (v : W64) (s : State) : State :=
  match o with
  | 0x00 => modRing r (fun g => { g with sBase := v &&& ~~~63 }) (shadowTouched r s)
  | 0x08 => modRing r (fun g => { g with sLog2n := v.toNat % 32 }) (shadowTouched r s)
  | 0x10 => modRing r (fun g => { g with sHead := v.setWidth 32 }) (shadowTouched r s)
  | 0x18 => modRing r (fun g => { g with sTail := v.setWidth 32 }) (shadowTouched r s)
  | 0x20 => shadowCtrl r v s
  | _ => s

/-- The bits INT_STATUS and INT_ENABLE have (R81). -/
def intBits : W64 := 0x7FFFFFFFFF

/-- An entry of the MSI-X table is written; clearing the mask bit sends a message held back (R59, R82). -/
def msixWrite (v : Fin 32) (hi : Bool) (x : W64) (s : State) : State :=
  if !hi then { s with bar.msix := upd s.bar.msix v fun e => { e with addr := x } }
  else
    let was := (s.bar.msix[v]).masked
    let s := { s with bar.msix := upd s.bar.msix v fun e => { e with data := x.setWidth 32, masked := fbit x 32 } }
    if was && !fbit x 32 then msixUnmask v s else s

/-- A mailbox operation is started by its code (R86): one that runs already ends the new one with result 5, and a code that names none is a bad argument. -/
def mbxStart (op : Nat) (s : State) : State :=
  if !mbxOpen s then s
  else if s.bar.mbxBusy then { s with bar.mbxResult := 5 }
  else if op = 0 ∨ 4 < op then setInt 33 { s with bar.mbxResult := 1, bar.mbxOut := 0 }
  else { s with bar.mbxBusy := true, bar.mbxOp := op, bar.mbxOut := 0 }

/-- A write of a whole register of BAR0; read-only and reserved offsets ignore it (R7, R8, R59). -/
def barWrite (off : Nat) (v : W64) (s : State) : State :=
  if h : 0x400 ≤ off ∧ off < 0x800 then ringRegWrite ⟨(off - 0x400) / 0x40, by omega⟩ (off % 0x40) v s
  else if h : 0x800 ≤ off ∧ off < 0xC00 then shadowRegWrite ⟨(off - 0x800) / 0x40, by omega⟩ (off % 0x40) v s
  else if off = 0x1000 then intClear v s
  else if off = 0x1008 then { s with bar.intEnable := v &&& intBits }
  else if off = 0x1010 then { s with bar.intVector := v.toNat % 32 }
  else if h : 0x1800 ≤ off ∧ off < 0x1A00 then msixWrite ⟨(off - 0x1800) / 16, by omega⟩ (decide (off % 16 = 8)) v s
  else if off = 0x2008 then mbxStart (v.toNat % 65536) s
  else if h : 0x2010 ≤ off ∧ off < 0x2030 then
    if mbxOpen s then { s with bar.mbxArg := s.bar.mbxArg.set ((off - 0x2010) / 8) v (by omega) } else s
  else s

/-- Whether a register's unwritten half must not be written back: W1C and WO registers (R7). -/
def clearOnWrite (off : Nat) : Bool :=
  decide (off = 0x1000) || decide (off = 0x2008) || (decide (0x400 ≤ off) && decide (off < 0x800) && decide (off % 0x40 = 0x28))

/-- BAR0_REGISTER_WRITE (R58): naturally aligned 64-bit and 32-bit writes; a 32-bit write changes only the addressed half;
any other is ignored. -/
def execBar0RegisterWrite (t off size : Nat) (v : W64) (s : State) : Host.Outcome State Fault Refusal :=
  onEvent t (fun s =>
    if !domOn s 4 then s
    else if size = 8 ∧ off % 8 = 0 then barWrite off v s
    else if size = 4 ∧ off % 4 = 0 then
      let base := off - off % 8
      let old := if clearOnWrite base then 0 else (barRead s base).toNat
      let half := v.toNat % 2 ^ 32
      let new := if off % 8 = 0 then put (old / 2 ^ 32) 32 + half else put half 32 + old % 2 ^ 32
      -- a tail or head half that holds no field changes nothing
      if off % 8 = 4 ∧ (base % 0x40 = 0x10 ∨ base % 0x40 = 0x18) ∧ 0x400 ≤ base ∧ base < 0xC00 then s
      else barWrite base (word new) s
    else s) s

/-- FUNCTION_LEVEL_RESET (R83): transfers end without write-backs, every BAR0 register except the mailbox returns to its
reset value; the units not yet written stay queued for their roles, and nothing else changes. -/
def execFunctionLevelReset (t : Nat) (s : State) : Host.Outcome State Fault Refusal :=
  onEvent t (fun s =>
    if !domOn s 4 then s else
    { s with
      bar.rings := Bar.ringsAtReset,
      bar.work := s.bar.work.map fun w => { w with desc := none, moved := [], irqCount := 0, deadline := none, stopping := false },
      bar.intStatus := 0, bar.intEnable := 0, bar.intVector := 16,
      bar.msix := Vector.replicate 32 {}, bar.pba := 0 }) s

/-! ### Domain power-down on the rings (R79, R80, R87) -/

/-- A power-down of a domain is requested: each ring whose role it touches starts no new descriptor; an idle one pauses at
once, and one already paused with bytes placed completes its descriptor at once with DOMAIN_OFF (R79, R87). -/
def ringPowerDown (dom : Fin 12) (r : Fin 16) (s : State) : State :=
  let g := ringAt s r
  let w := workAt s r
  if !(dom ∈ roleDomains g.role ∨ dom = 4) ∨ !g.enable then s
  else if w.desc.isNone then attend r (modRing r (fun g => { g with pause := true, paused := true }) s)
  else if g.paused then (if 0 < g.doneBytes then completeDesc r 3 g.doneBytes s else s)
  else modWork r (fun w => { w with deadline := some s.now }) s

/-- Every ring is told of a power-down. -/
def ringsPowerDown (dom : Fin 12) (s : State) : State :=
  (List.finRange 16).foldl (fun s r => ringPowerDown dom r s) s

/-- Whether every ring that a power-down touches has paused (R79). -/
def ringsDrained (dom : Fin 12) (s : State) : Bool :=
  (List.finRange 16).all fun r =>
    let g := ringAt s r
    !(decide (dom ∈ roleDomains g.role) || dom == 4) || !g.enable || g.paused || (workAt s r).desc.isNone

/-- RING_DOMAIN_DEADLINE (R79): 1 ms after the request the ring pauses; a descriptor with all its bytes placed keeps its normal
code, any other completes with DOMAIN_OFF. -/
def execRingDomainDeadline (t : Nat) (r : Fin 16) (s : State) : Host.Outcome State Fault Refusal :=
  onEvent t (fun s =>
    let g := ringAt s r
    match (workAt s r).deadline with
    | none => s
    | some t0 =>
      if s.now < t0 + 1000000 then s
      else
        let s := modWork r (fun w => { w with deadline := none }) s
        match (workAt s r).desc with
        | none => attend r (modRing r (fun g => { g with pause := true, paused := true }) s)
        | some d =>
          if g.doneBytes = fld d.w2 31 0 then
            attend r (modRing r (fun g => { g with pause := true, paused := true }) (completeDesc r 0 g.doneBytes s))
          else completeDesc r 3 g.doneBytes s) s

/-! ### RING_ROLE, WELL_READ, WELL_WRITE (R63, R64, R52) -/

/-- The role of a role code (R63). -/
def roleOfCode : Nat → Option RingRole
  | 0 => some .unassigned | 1 => some .commandIn | 2 => some .replyOut | 3 => some .crierOut | 4 => some .jobIn
  | 5 => some .recordsOut | 6 => some .visionOut | 7 => some .generalIn | 8 => some .generalOut | _ => none

/-- RING_ROLE (R64, R52): refused for a ring that is enabled, which the ring that carries the command always is. -/
def execRingRole (t cid : Nat) (s : State) : Host.Outcome State Fault Refusal :=
  onStart Op.ringRole t cid (fun c s =>
    if h : parN c 0 < 16 then
      match roleOfCode (parN c 1) with
      | none => refuse c Status.badParameter s
      | some role =>
        if (ringAt s ⟨parN c 0, h⟩).enable then refuse c Status.ringBusy s
        else done c (modRing ⟨parN c 0, h⟩ (fun g => { g with role := role }) s)
    else refuse c Status.badParameter s) s

/-- WELL_READ (R52, R64, R573): the range leaves on the named ring, descriptor by descriptor; the command ends with the last. -/
def execWellRead (t cid : Nat) (s : State) : Host.Outcome State Fault Refusal :=
  onStart Op.wellRead t cid (fun c s =>
    if !outRing s (parN c 2) then refuse c Status.badRing s
    else if parN c 1 = 0 then refuse c Status.badParameter s
    else withObject c (parN c 0) (parN c 1) (fun bs s =>
      queueUnits (parN c 2) [{ data := bs, cid := c.cid, final := true, split := true }] s) s) s

/-- WELL_WRITE (R52, R64, R573): the bytes of the named ring's next descriptors go to the range; the command ends with the
last byte. -/
def execWellWrite (t cid : Nat) (s : State) : Host.Outcome State Fault Refusal :=
  onStart Op.wellWrite t cid (fun c s =>
    if h : parN c 2 < 16 then
      if !inRing s (parN c 2) then refuse c Status.badRing s
      else if parN c 1 = 0 then refuse c Status.badParameter s
      else withRange c (parN c 0) (parN c 1) (fun s =>
        modWork ⟨parN c 2, h⟩ (fun w => { w with input := c.cid, inAddr := parN c 0, inLeft := parN c 1, got := [] }) s) s
    else refuse c Status.badRing s) s

/-! ### The check units' periodic self-check (R451, R453) -/

/-- The descriptors in flight on a unit that has just failed complete with BAD_DESC (R453). -/
def dropFailed (u : Fin 5) (r : Fin 16) (s : State) : State :=
  match (workAt s r).desc with
  | none => s
  | some d =>
    if (fbit d.w2 36 || fbit d.w2 37) && fld d.w2 41 39 == u.val && decide (0 < (ringAt s r).doneBytes)
    then completeDesc r 6 (ringAt s r).doneBytes s else s

/-- CHECK_UNIT_SELFCHECK (R451): between uses a unit recomputes its load check value; a different value marks it failed, and
the fall-back serves it where its settings allow. -/
def execCheckUnitSelfcheck (t : Nat) (u : Fin 4) (value : Nat) (s : State) : Host.Outcome State Fault Refusal :=
  onEvent t (fun s =>
    let i : Fin 5 := ⟨u.val, by omega⟩
    let x := s.chk.units[i]
    if value = x.loadValue ∨ x.failed then s
    else
      let s := (List.finRange 16).foldl (fun s r => dropFailed i r s) s
      let s := endScans i s.chk.scans s
      let s := { s with chk.units := upd s.chk.units i fun x => { x with failed := true, selfFails := sat 0xFFFFFFFF (x.selfFails + 1) } }
      let s := raise FaultCode.checkUnitFail 0 s
      if isFixedAlg x.cfg then notify Notice.checkFallback u.val s else s) s

end Sys2Proof.Machine
end

