-- ==== Sys2Proof/Machine/Granary.lean ====
section
/-!
DEFINITION. What the device reports of itself: GRANARY_REPORT (R510, R511), the telemetry blocks of TELEMETRY_READ (R209, R477, R517, R539), and the
Crier's records (R513 to R515).
-/
namespace Sys2Proof.Machine

/-! ### The Granary (R510, R511) -/

/-- 365 days in seconds. -/
def yearSecs : Nat := 365 * 86400

/-- The four words of one entry (R511); `unit` is how many units one recorded use stands for. -/
def granaryEntry (s : State) (kind inst delivered used remaining wear unit : Nat) : List W64 :=
  let uses := (granaryOf s kind inst).uses
  let recentUses := (uses.filter fun u => decide (devSec s < u + yearSecs)).length
  [ word (put (delivered % 2 ^ 32) 32 + put inst 8 + kind), word (put (remaining % 2 ^ 32) 32 + used % 2 ^ 32), word wear,
    word (put (uses.headD 0 % 2 ^ 32) 32 + unit * recentUses) ]

/-- The slices of a domain that are retired, and those that are idle and work. -/
def sliceCounts (s : State) (d : Nat) : Nat × Nat :=
  let mine := (List.finRange 32).filter fun (k : Fin 32) => k.val / 16 == d
  ((mine.filter fun k => s.mil.slices[k].retired).length, (mine.filter fun k => !s.mil.slices[k].retired && !inPair s k.val).length)

/-- The SRAM arrays of a domain (R503). -/
def arraysOf (d : Nat) : List Nat := (List.range 3072).filter fun a => Config.sramDomain a % 12 == d

/-- The rows of an array that are in spare rows. -/
def remapsOf (s : State) (a : Nat) : Nat := ((s.bgd.sram.find? fun x => x.array == a).map fun x => x.remaps.length).getD 0

/-- Spare rows of a domain in use, and arrays without a free one. -/
def sramUse (s : State) (d : Nat) : Nat × Nat :=
  let mine := s.bgd.sram.filter fun x => Config.sramDomain x.array % 12 == d
  ((mine.map fun x => x.remaps.length).sum, (mine.filter fun x => decide (2 ≤ x.remaps.length)).length)

/-- The entries of kind 6: every bank group of every rank fitted. -/
def dramEntries (s : State) : List W64 :=
  if s.well.bytes = 0 then [] else
  (List.range 8).flatMap fun g => (List.range s.well.ranks).flatMap fun r => (List.range 2).flatMap fun ch =>
    granaryEntry s 6 (ch + 2 * r + 4 * g) (Config.repairResource ch r g) (hardIn s ch r g).length (resourcesLeft s ch r g)
      (s.well.soft.filter fun x => x.ch.val == ch && x.rank == r && x.bg == g).length 1

/-- Every entry, in rising kind and instance (R511). -/
def granaryEntries (s : State) : List W64 :=
  let n2 := (elems s.bgd.cores).filter (· == .retired)
  let spareLane := fun (i : Nat) =>
    let l := laneOf s (34 + i)
    granaryEntry s 4 i 1 (flag (l.covers.isSome || l.out)) (flag (!l.covers.isSome && !l.out && lanePowered s (34 + i))) 0 1
  let stalls := ((elems s.stl).filter (·.enable)).length
  let ports := ((List.range 4).filter (portUsed s)).length
  let top := (s.led.counts.map (·.2)).foldl max 0
  let lost := 32 * s.led.lost.length
  ((List.range 2).flatMap fun d =>
      let c := sliceCounts s d
      granaryEntry s 1 d 16 c.1 c.2 (s.bgd.charges.filter fun x => x.1 == d && decide (devSec s < x.2 + yearSecs)).length 1)
    ++ granaryEntry s 2 0 1 n2.length (flag (spareCore s).isSome) s.bgd.transient.length 1
    ++ granaryEntry s 3 0 24 stalls (24 - stalls) 0 1
    ++ (List.range 2).flatMap spareLane
    ++ granaryEntry s 5 0 4 ports (4 - ports) 0 1
    ++ dramEntries s
    ++ granaryEntry s 7 0 448 s.led.used (448 - s.led.used) top 1
    ++ ((List.range 12).flatMap fun d =>
      let n := 2 * (arraysOf d).length
      let u := sramUse s d
      granaryEntry s 8 d n u.1 (n - u.1) u.2 1)
    ++ ((List.range 24).flatMap fun k =>
      let u := sparesUsed s.mil.retired k
      granaryEntry s 9 k 1024 u (1024 - u) (s.mil.retired.filter fun r => r.stall == k && decide (r.channel < 16384)).length 1)
    ++ ((indexed s.kry.rollback).flatMap fun p => granaryEntry s 10 p.1 32 p.2 (32 - p.2) 0 1)
    ++ granaryEntry s 11 0 98304 lost (98304 - lost) 0 32

/-- The report: its header and its entries (R510). -/
def granaryReport (s : State) : List W64 :=
  let es := granaryEntries s
  [word (put (es.length / 4) 48 + put 1 32 + 0x47524E52), word (devSec s), Config.serial, 0] ++ es

/-- GRANARY_REPORT (R510): to a ring, or to a Well address. -/
def execGranaryReport (t cid : Nat) (s : State) : Host.Outcome State Fault Refusal :=
  onStart Op.granaryReport t cid (fun c s =>
    let dest := parN c 0
    let bytes := wordsBytes (granaryReport s)
    let n := word bytes.length
    if dest < 16 then
      if outRing s dest then queueUnits dest [{ data := bytes, cid := c.cid, final := true, results := [n] }] s
      else refuse c Status.badRing s
    else if dest < 0x10000 ∨ dest % 8 ≠ 0 then refuse c Status.badParameter s
    else withRange c dest bytes.length (fun s => answer c [n] (wellWrite dest bytes s)) s) s

/-! ### Telemetry (R517) -/

/-- The words of one entry of the Weighbridge log (R209). -/
def logWords (e : WbEntry) : List W64 :=
  let slice := fun i => put (e.slices.getD i 0x3F) (8 * i)
  [ word e.line,
    word (slice 0 + slice 1 + slice 2 + slice 3 + put e.outcome 32 + put (e.losers % 16) 36 + put (e.absent % 16) 40 + put e.cause 44),
    word (e.first % 2 ^ 32),
    word (stampSub e.sealAt / 65536 + put (stampSec e.sealAt % 2 ^ 32) 32) ]

/-- The background record (R517). -/
def taskWords (x : Task) : List W64 :=
  [word x.lastPass, word (x.progress % 2 ^ 32 + put (sat 0xFFFF x.deferred) 32 + put (sat 0xFFFF x.late) 48)]

/-- The power domain that a temperature sensor sits in (R535): the Square and the CPU sensor in CPU, the lane quads with the lanes they hold (R21). -/
def sensorDomain (n : Nat) : Fin 12 :=
  if n ≤ 4 then 7 else if n ≤ 9 then 8 else if n = 10 then 2 else if n = 11 then 5 else if n = 12 then 6 else if n = 13 then 2
  else if n = 14 then 1 else if n = 15 then 3 else if n = 16 then 4 else if n = 17 then 11 else if n ≤ 19 then 9 else if n = 20 then 10
  else if n ≤ 22 then 9 else 10

/-- The thermal record (R539); `n` numbers the moment that the rail voltages are read at. -/
def thermalWords (s : State) (n : Nat) : List W64 :=
  let reading := fun (k : Nat) => if domOn s (sensorDomain k) then unsigned ((elems s.thm.temps).getD k 0) 16 else 0x8000
  ((List.range 6).map (fourHalves reading)) ++
  [ word (unsigned s.thm.tj 16 + put (maskOf ((elems s.thm.steps).map (·.on))) 16 + put s.thm.tjSensor 24),
    word (unsigned s.thm.tjMax 16),
    word (sat 0xFFFFFFFF (s.thm.step2Ns / 1000000000) + put (sat 0xFFFFFFFF (s.thm.step3Ns / 1000000000)) 32),
    word (sat 0xFFFF s.thm.trips + put (s.thm.lastTrip % 2 ^ 32) 16),
    word (put (Config.railMv n 0 % 65536) 0 + put (Config.railMv n 1 % 65536) 16 + put (Config.railMv n 2 % 65536) 32 + put (s.pwr.aonMv % 65536) 48) ]

/-- The words of a telemetry block; none for a code that no chapter states (R517). -/
def telemetryBlock (s : State) (block n : Nat) : Option (List W64) :=
  if block = 0 then some (s.mil.log.flatMap logWords)
  else if block = 1 then some ((elems s.bgd.tasks).flatMap taskWords)
  else if block = 0x10 then some (wellTelemetry s 0 n)
  else if block = 0x11 then some (wellTelemetry s 1 n)
  else if block = 0x20 then some (thermalWords s n)
  else none

/-- TELEMETRY_READ (R517). -/
def execTelemetryRead (t cid : Nat) (s : State) : Host.Outcome State Fault Refusal :=
  onStart Op.telemetryRead t cid (fun c s =>
    let (n, s) := takeFresh s
    match telemetryBlock s (parN c 0) n with
    | none => refuse c Status.badParameter s
    | some ws =>
      if !outRing s (parN c 1) then refuse c Status.badRing s
      else if ws.isEmpty then done c s
      else outputOn c (parN c 1) [wordsBytes ws] s) s

/-! ### The Crier (R513 to R515) -/

/-- The record of an event (R513). -/
def crierRecord (s : State) (e : Event) : List W64 :=
  [ word (put s.twn.unit 48 + put (sat 0xFFFF s.cri.lost) 32 + put e.source 24 + put e.cls 16 + e.code),
    word (stampSec e.time), word (stampSub e.time), word e.detail ]

/-- The queued event that leaves next: the one of the lowest time, the earliest queued among equals (R515). -/
def oldestEvent : List Event → Option Event
  | [] => none
  | e :: es =>
    match oldestEvent es with
    | some x => if x.time < e.time then some x else some e
    | none => some e

/-- Whether the Crier's ring takes a record now. -/
def crierRing (s : State) : Option Nat :=
  if h : s.cri.ring < 16 then
    let r : Fin 16 := ⟨s.cri.ring, h⟩
    if s.cri.ringOn && domOn s 4 && (ringAt s r).enable && (ringAt s r).role == .crierOut && (workAt s r).units.isEmpty then some s.cri.ring else none
  else none

/-- CRIER_EVENT_SEND (R513 to R515): the oldest record leaves on the ring and to the collecting node; it waits where neither takes it. -/
def execCrierEventSend (t : Nat) (s : State) : Host.Outcome State Fault Refusal :=
  onEvent t (fun s =>
    match oldestEvent s.cri.queue with
    | none => s
    | some e =>
      let far := s.cri.collect != 0 && s.cri.collect != ownNode s && domOn s 10
      let near := crierRing s
      if !domOn s 2 || (near.isNone && (s.cri.ringOn || !far)) then s
      else
        let ws := crierRecord s e
        let s := { s with cri.queue := s.cri.queue.erase e, cri.lost := 0 }
        let s := match near with | some r => queueUnits r [{ data := wordsBytes ws }] s | none => s
        if far then uraraSend s.cri.collect 0x5C ws s else s) s

/-- CRIER_SAMPLE (R497): every 1 s the Crier's hardware takes its telemetry samples, whatever the scheduler does. -/
def execCrierSample (t : Nat) (s : State) : Host.Outcome State Fault Refusal :=
  onEvent t (fun s => if domOn s 2 && decide (s.cri.sampleAt + 1000000000 ≤ s.now) then { s with cri.sampleAt := s.now } else s) s

end Sys2Proof.Machine
end

