-- ==== Sys2Proof/Machine/Krynto.lean ====
section
/-!
DEFINITION. The Krynto core's commands: certificates (R409), sessions and proofs (R424 to R427), packages (R415 to R417), credentials and ownership
(R418 to R421), images (R411 to R413), attestation (R434), and the erasures that zeroisation and transfers share (R421, R431).
-/
namespace Sys2Proof.Machine

/-! ### Roles and sessions (R422 to R427) -/

/-- The role of a code (R422). -/
def roleOfNat : Nat → Option Role
  | 0 => some .anonymous | 1 => some .vendor | 2 => some .owner | 3 => some .operator
  | 4 => some .maintainer | 5 => some .auditor | _ => none

/-- Whether a credential slot exists for a role: slot 0 for the Vendor and the Owner, slots 0 to 7 for the others (R417). -/
def slotInRange (r : Role) (slot : Nat) : Bool :=
  match r with
  | .vendor => slot == 0 | .owner => slot == 0 | .anonymous => false | _ => decide (slot < 8)

/-- The role key of a credential (R406, R419). -/
def credKey (c : Cred) : List Byte := c.key.getD Config.deliveryKey

/-- The credential in a slot of a role. -/
def credOf (s : State) (r : Role) (slot : Nat) : Option Cred := s.kry.creds.find? fun c => c.role == r && c.slot == slot

/-- A credential changed. -/
def modCred (r : Role) (slot : Nat) (f : Cred → Cred) (s : State) : State :=
  { s with kry.creds := mapWhere (fun c => c.role == r && c.slot == slot) f s.kry.creds }

/-- The policy's `vendor_enabled` (R420). -/
def vendorEnabled (s : State) : Bool := bit s.kry.policy 0

/-- Whether the core works: SEC is on, no hold stops its clock (R430) and no zeroisation has run (R431). -/
def coreRuns (s : State) : Bool := domOn s 1 && s.kry.hold.isNone && s.kry.latch.isNone

/-- A command of the core takes its effect once the core runs. -/
def onCore (op t cid : Nat) (k : Slot → State → State) (s : State) : Host.Outcome State Fault Refusal :=
  if coreRuns s then onStart op t cid k s else .next (advance t s)

/-- A session is closed as by SESSION_CLOSE: it takes no more commands, and ends once no command of it is outstanding (R39, R51). -/
def closeSession (id : Nat) (s : State) : State :=
  if s.cmd.slots.any (fun c => c.session == id) then modSession id (fun x => { x with closing := true }) s
  else endSession id s

/-- Several sessions are closed. -/
def closeAll (p : Session → Bool) (s : State) : State :=
  (s.cmd.sessions.filter p).foldl (fun s x => closeSession x.id s) s

/-- A session ID drawn from the DRBG: nonzero, bit 31 clear, not used since the last cold reset (R35, R424); `fuel` bounds the draws. -/
def drawId (used : List Nat) : Nat → Nat → Nat
  | 0, _ => used.foldl max 0 + 1
  | fuel + 1, n =>
    let x := (Config.drbg n).toNat % 2 ^ 31
    if x = 0 ∨ x ∈ used then drawId used fuel (n + 1) else x

/-- Why a SESSION_OPEN is refused (R424), in the order of its table. -/
def openFailure (s : State) (c : Slot) (pointOk ekOk : Bool) : Option Nat :=
  match roleOfNat (parF c 161 2 0) with
  | none => some Status.badParameter
  | some r =>
    let slot := parF c 161 15 8
    if !slotInRange r slot then some Status.badParameter
    else if !pointOk || !ekOk then some Status.badParameter
    else if r == .vendor && !vendorEnabled s then some Status.noCredential
    else match credOf s r slot with
      | none => some Status.noCredential
      | some k =>
        if k.lock.isSome then some Status.credentialLocked
        else if 32 ≤ s.cmd.sessions.length then some Status.sessionLimit
        else none

/-- SESSION_OPEN (R424, R425): with the entropy source failed no session can open (R435). -/
def execSessionOpen (t cid : Nat) (pointOk ekOk : Bool) (s : State) : Host.Outcome State Fault Refusal :=
  onCore Op.sessionOpen t cid (fun c s =>
    match openFailure s c pointOk ekOk with
    | some st => refuse c st s
    | none =>
      if FaultCode.entropyFail ∈ s.flt.active then failWith c Status.faultNoEffect FaultCode.entropyFail s
      else
        let n := s.fresh
        let role := (roleOfNat (parF c 161 2 0)).getD .anonymous
        let slot := parF c 161 15 8
        let rk := match credOf s role slot with | some k => credKey k | none => []
        let id := drawId s.cmd.usedIds 64 n
        let params := wordsBytes c.params
        let share := (List.range 148).map fun i => Config.keyShare n i
        let outs := word id :: share ++ [Config.drbg (n + 64)]
        let th := Config.sha384 (params ++ wordsBytes outs)
        let keys := Config.kdf (Config.sharedSecret n params ++ rk) ("JP2618 session".toList.map (fun ch => BitVec.ofNat 8 ch.toNat) ++ th)
        let x : Session := { id := id, role := role, cred := slot, cmdKey := keys.take 32, repKey := (keys.drop 32).take 32,
                             openedAt := s.now, th := th }
        answer c outs { s with
          fresh := n + 65,
          kry.requests := s.kry.requests + 1,
          cmd.sessions := s.cmd.sessions ++ [x],
          cmd.usedIds := id :: s.cmd.usedIds }) s

/-- The bytes of "PROVE" (R425). -/
def proveText : List Byte := [0x50, 0x52, 0x4F, 0x56, 0x45]

/-- A proof for a credential has failed (R426): the eighth in a row locks it for 60 s, and each further lock for twice as long, up to 3,600 s. -/
def failProof (r : Role) (slot : Nat) (s : State) : State :=
  modCred r slot (fun k =>
    if 8 ≤ k.fails + 1 then
      { k with fails := 0, locks := k.locks + 1, lock := some (s.now + min 3600 (60 * 2 ^ k.locks) * 1000000000) }
    else { k with fails := k.fails + 1 }) s

/-- SESSION_PROVE (R426): only a session that is open and not yet proven can be proven. -/
def execSessionProve (t cid : Nat) (s : State) : Host.Outcome State Fault Refusal :=
  onCore Op.sessionProve t cid (fun c s =>
    match s.cmd.sessions.find? (fun x => x.id == parN c 0 && !x.proved) with
    | none => refuse c Status.noSession s
    | some x =>
      let proof := fun k => Config.cmac (credKey k) (proveText ++ x.th)
      let same := roleOfNat (parF c 1 2 0) == some x.role && parF c 1 15 8 == x.cred
      let ok := same && match credOf s x.role x.cred with
        | none => false
        | some k => par c 2 == (proof k).extractLsb' 0 64 && par c 3 == (proof k).extractLsb' 64 64
      if ok then
        done c (modCred x.role x.cred (fun k => { k with fails := 0, locks := 0 })
          (modSession x.id (fun y => { y with proved := true }) s))
      else refuse c Status.proofFail (failProof x.role x.cred (endSession x.id s))) s

/-- SESSION_PROVE_TIMEOUT (R426): a session that is not proven within 10 s of its opening is discarded. -/
def execSessionProveTimeout (t sid : Nat) (s : State) : Host.Outcome State Fault Refusal :=
  onEvent t (fun s =>
    match sessionOf s sid with
    | none => s
    | some x => if !x.proved && decide (x.openedAt + 10000000000 ≤ s.now) then endSession sid s else s) s

/-- CREDENTIAL_UNLOCK (R426): the lock of a credential has run out. -/
def execCredentialUnlock (t role slot : Nat) (s : State) : Host.Outcome State Fault Refusal :=
  onEvent t (fun s =>
    match roleOfNat role with
    | none => s
    | some r => modCred r slot (fun k =>
        match k.lock with
        | some e => if e ≤ s.now then { k with lock := none } else k
        | none => k) s) s

/-- SESSION_CLOSE (R39, R51, R422): a role closes its own session, which ends once its last reply has left. -/
def execSessionClose (t cid : Nat) (s : State) : Host.Outcome State Fault Refusal :=
  onCore Op.sessionClose t cid (fun c s =>
    if parF c 0 31 0 ≠ c.session then refuse c Status.badParameter s
    else done c (modSession c.session (fun x => { x with closing := true }) s)) s

/-- GROUP_SESSION_EXPIRE (R427): a group session's `not_after` has passed. -/
def execGroupSessionExpire (t sid : Nat) (s : State) : Host.Outcome State Fault Refusal :=
  onEvent t (fun s =>
    match sessionOf s sid with
    | none => s
    | some x => if x.group && x.expires != 0 && decide ((x.expires : Int) ≤ utcNow s) then closeSession sid s else s) s

/-! ### Certificates (R409) -/

/-- The object of a certificate selector: the owner's certificates are those of the last transfer (R409, R419). -/
def certObject (s : State) (sel : Nat) : List Byte :=
  match sel, s.kry.certs with
  | 4, some p => p.1
  | 5, some p => p.2
  | _, _ => Config.cert sel

/-- Bytes with zeros up to a multiple of 8. -/
def padEight (bs : List Byte) : List Byte := bs ++ List.replicate ((8 - bs.length % 8) % 8) 0

/-- CERT_READ (R409). -/
def execCertRead (t cid : Nat) (s : State) : Host.Outcome State Fault Refusal :=
  onCore Op.certRead t cid (fun c s =>
    if 5 < parN c 0 then refuse c Status.badParameter s
    else if !outRing s (parN c 1) then refuse c Status.badRing s
    else
      let bs := certObject s (parN c 0)
      outputOn c (parN c 1) [wordBytes (word (parN c 0 + put bs.length 32)) ++ padEight bs] s) s

/-! ### The approved mode (R439) -/

/-- Whether a stream's template holds an authenticator element. -/
def hasAuth (x : Stream) : Bool :=
  match x.template with
  | some tm => tm.elements.any fun e => match e with | .auth _ _ => true | _ => false
  | none => false

/-- The approved mode follows the policy and the self-tests: an entry or an exit is reported, and holds or releases every bound stream with an authenticator
element. -/
def setMode (s : State) : State :=
  let on := bit s.kry.policy 1 && s.kry.tested
  if on == s.kry.approved then s
  else notify Notice.kryntoMode (flag on) { s with
    kry.approved := on,
    tal.streams := s.tal.streams.map fun x => { x with held := on && hasAuth x } }

/-! ### Packages (R415 to R417) -/

/-- The header fields and the body of a package (R415). -/
structure Package where
  kind     : Nat := 0
  device   : W64 := 0
  ref      : Nat := 0
  role     : Nat := 0
  slot     : Nat := 0
  no       : Nat := 0
  notAfter : Nat := 0
  wrapped  : Nat := 0
  body     : List Byte := []
  deriving DecidableEq, Repr

/-- The wrapped length of a kind (R417), when the kind exists. -/
def wrappedFor (kind : Nat) : Option Nat :=
  if kind = 4 then some 72 else if kind ∈ [1, 2, 3, 8, 9, 16] then some 40 else none

/-- The length of a package's certificate padded to 8 bytes (R420). -/
def padLen (n : Nat) : Nat := (n + 7) / 8 * 8

/-- Whether the body of a kind is well formed: 2,048 bytes of root key block for kind 9, the layout of R420 for kind 16, none else. -/
def pkgBodyOk (p : Package) (certsOk : Bool) : Bool :=
  if p.kind = 9 then p.body.length == 2048
  else if p.kind = 16 then
    certsOk && decide (16 ≤ p.body.length) && decide (leAt p.body 0 8 < 16)
      && p.body.length == 16 + padLen (leAt p.body 8 4) + padLen (leAt p.body 12 4)
  else p.body.isEmpty

/-- Whether the fields that a kind needs are in range (R417, R427). -/
def fieldsOk (p : Package) : Bool :=
  match p.kind with
  | 2 => decide (1 ≤ p.ref) && decide (p.ref ≤ 254)
  | 3 => decide (1 ≤ p.ref) && decide (p.ref ≤ 254)
  | 4 => decide (2 ^ 31 ≤ p.ref) && decide (p.ref < 2 ^ 32)
  | 8 => p.ref == 0 && decide (p.slot < 8) && decide (1 ≤ p.role) && decide (p.role ≤ 5)
  | 9 => decide (p.ref < 4) && p.slot == 0
  | 16 => p.slot == 0
  | _ => true

/-- Check 1 of R416: the package a byte string holds. -/
def parsePackage (bs : List Byte) (v : PkgVerdict) : Option Package :=
  let w := fun i => leAt bs (8 * i) 8
  let bodyLen := bits (w 6) 15 0
  let wrapped := bits (w 6) 31 16
  let p : Package := { kind := bits (w 0) 47 40, device := word (w 1), ref := w 2, role := bits (w 3) 2 0, slot := bits (w 3) 15 8,
                       no := w 4, notAfter := w 5, wrapped := wrapped, body := (bs.drop 56).take bodyLen }
  let total := padLen (56 + bodyLen + 96 + 1088 + wrapped) + 96 + 3309
  if 56 ≤ bs.length ∧ bits (w 0) 31 0 = 0x4B59504B ∧ bits (w 0) 39 32 = 1 ∧ bits (w 0) 63 48 = 0 ∧ bits (w 3) 7 3 = 0 ∧ bits (w 3) 63 16 = 0
      ∧ bits (w 6) 63 32 = 0 ∧ bodyLen % 8 = 0 ∧ bs.length = total ∧ wrappedFor p.kind = some wrapped then
    if fieldsOk p && pkgBodyOk p v.certsOk then some p else none
  else none

/-- Check 3 of R416: the kind is allowed for the opcode and for the session's role (R417, R418). -/
def kindAllowed (s : State) (c : Slot) (p : Package) : Bool :=
  let r := roleOf s c.session
  let own := r == .owner
  if c.op = Op.jobKeyLoad then
    match p.kind with
    | 1 => own || r == .operator
    | 2 => own
    | 3 => own
    | 4 => (p.role == 2 && own) || (p.role == 3 && (own || r == .operator)) || (p.role == 4 && (own || r == .maintainer))
    | _ => false
  else if c.op = Op.roleCredential then
    (p.kind == 8 && own && decide (3 ≤ p.role)) || (p.kind == 9 && own && vendorEnabled s)
  else p.kind == 16 && own

/-- Whether any grant that the device holds names a key ID (R416). -/
def keyGranted (s : State) (id : Nat) : Bool :=
  s.tal.pools.any fun p => p.grants.any fun g => g.ff1Key == id || g.authKey == id

/-- Checks 2 to 9 of R416 after check 1: the status of the first that fails. -/
def packageFailure (s : State) (c : Slot) (p : Package) (v : PkgVerdict) : Option Nat :=
  let rootOk := p.kind != 9 || (Config.sha384 p.body == Config.rootDigest p.ref && !bit s.kry.revoked p.ref)
  if p.device ≠ Config.serial then some Status.packageDevice
  else if !kindAllowed s c p then some Status.roleDenied
  else if !v.sigOk || !rootOk then some Status.packageSignature
  else if p.no ≤ s.kry.pkgNo then some Status.packageReplay
  else if p.notAfter ≠ 0 ∧ s.time.clk.state = .free then some Status.timeInvalid
  else if p.notAfter ≠ 0 ∧ (p.notAfter : Int) ≤ utcNow s then some Status.packageExpired
  else if !v.unwrapOk || v.key.length + 8 != p.wrapped then some Status.packageUnwrap
  else if p.kind = 4 ∧ 32 ≤ s.cmd.sessions.length then some Status.keyLimit
  else if (p.kind = 2 ∨ p.kind = 3) ∧ (s.kry.keys.any fun k => k.id == p.ref) ∧ keyGranted s p.ref then some Status.keyInUse
  else none

/-- A command goes on with a package that passes R573 and R416. -/
def withPackage (c : Slot) (addr len : Nat) (v : PkgVerdict) (k : Package → State → State) (s : State) : State :=
  withObject c addr len (fun bs s =>
    match parsePackage bs v with
    | none => refuse c Status.badPackage s
    | some p =>
      match packageFailure s c p v with
      | some st => refuse c st s
      | none => k p s) s

/-- A package is accepted: its number becomes the highest (R416). -/
def acceptPackage (p : Package) (s : State) : State := { s with kry.pkgNo := p.no }

/-- A handle that no job key holds, nonzero (R417); `fuel` bounds the draws. -/
def drawHandle (held : List Nat) : Nat → Nat → Nat
  | 0, _ => held.foldl max 0 + 1
  | fuel + 1, n =>
    let x := (Config.jobKeyHandle n).toNat
    if x = 0 ∨ x ∈ held then drawHandle held fuel (n + 1) else x

/-- A job key is installed in place of an earlier one of its job (R417). -/
def installJobKey (c : Slot) (p : Package) (key : List Byte) (s : State) : State :=
  let h := drawHandle (s.kry.jobKeys.map (·.handle)) 64 s.fresh
  let k : JobKey := { job := p.ref, handle := h, key := key, notAfter := p.notAfter }
  answer c [word h] { s with
    fresh := s.fresh + 64,
    kry.requests := s.kry.requests + 1,
    kry.jobKeys := s.kry.jobKeys.filter (fun x => x.job != p.ref) ++ [k] }

/-- A persistent key is installed under its ID (R417). -/
def installKey (c : Slot) (p : Package) (key : List Byte) (s : State) : State :=
  let k : KeyEntry := { id := p.ref, kind := p.kind, key := key }
  answer c [word p.ref] { s with kry.keys := s.kry.keys.filter (fun x => x.id != p.ref) ++ [k] }

/-- A group session is installed (R427). -/
def installGroup (c : Slot) (p : Package) (key : List Byte) (s : State) : State :=
  let x : Session := { id := p.ref, role := (roleOfNat p.role).getD .anonymous, cmdKey := key.take 32, repKey := key.drop 32, proved := true,
                       group := true, openedAt := s.now, expires := p.notAfter }
  answer c [word p.ref] { s with cmd.sessions := s.cmd.sessions ++ [x] }

/-- JOB_KEY_LOAD (R417, R427). -/
def execJobKeyLoad (t cid : Nat) (v : PkgVerdict) (s : State) : Host.Outcome State Fault Refusal :=
  onCore Op.jobKeyLoad t cid (fun c s =>
    withPackage c (parN c 0) (parN c 1) v (fun p s =>
      if p.kind = 1 then installJobKey c p v.key (acceptPackage p s)
      else if p.kind = 4 then
        (if s.cmd.sessions.any (fun x => x.id == p.ref) then refuse c Status.badParameter s
         else installGroup c p v.key (acceptPackage p s))
      else installKey c p v.key (acceptPackage p s)) s) s

/-! ### Credentials and ownership (R418 to R421) -/

/-- A credential is removed, and every session proven with it is closed (R418). -/
def removeCred (r : Role) (slot : Nat) (s : State) : State :=
  closeAll (fun x => x.role == r && x.cred == slot && x.proved && !x.group)
    { s with kry.creds := s.kry.creds.filter fun k => !(k.role == r && k.slot == slot) }

/-- ROLE_CREDENTIAL (R417, R418): a length of 0 removes a credential, and a package installs one for the role that p0 names. -/
def execRoleCredential (t cid : Nat) (v : PkgVerdict) (s : State) : Host.Outcome State Fault Refusal :=
  onCore Op.roleCredential t cid (fun c s =>
    match roleOfNat (parN c 0) with
    | none => refuse c Status.badParameter s
    | some .anonymous => refuse c Status.badParameter s
    | some .owner => refuse c Status.roleDenied s
    | some r =>
      if parN c 2 = 0 then
        (if parN c 1 / 8 ≠ 0 then refuse c Status.reservedNonzero s else done c (removeCred r (parN c 1) s))
      else withPackage c (parN c 1) (parN c 2) v (fun p s =>
        let named := if p.kind = 9 then some Role.vendor else roleOfNat p.role
        if named ≠ some r then refuse c Status.badParameter s
        else
          let k : Cred := { role := r, slot := p.slot, key := some v.key }
          let s := acceptPackage p s
          done c { s with kry.creds := (s.kry.creds.filter fun x => !(x.role == r && x.slot == p.slot)) ++ [k] }) s) s

/-- Why an OWNER_TRANSFER cannot be taken now (R421): a job active, a pair bound, a record not both final and exported. -/
def transferBusy (s : State) : Bool :=
  s.job.active.isSome || s.twn.bound || s.tal.journal.any fun r => !(r.final.isSome && bit r.sent 2)

/-- The new ownership record with the erasures that follow it (R421). -/
def transferOwner (own : Nat) (p : Package) (key : List Byte) (s : State) : State :=
  let n := leAt p.body 8 4
  let m := leAt p.body 12 4
  let policy := leAt p.body 0 8
  let keep := fun (k : Cred) => k.role == .vendor && bit policy 0
  let s := { s with
    kry.transfer := p.ref,
    kry.certs := some ((p.body.drop 16).take n, (p.body.drop (16 + padLen n)).take m),
    kry.policy := policy,
    kry.creds := s.kry.creds.filter keep ++ [{ role := .owner, slot := 0, key := some key }],
    kry.keys := [],
    kry.jobKeys := [],
    tal.pools := [],
    tal.journal := [],
    cmd.sessions := s.cmd.sessions.filter fun x => x.id == own || (x.proved && !x.group) }
  setMode (closeAll (fun x => x.id != own) (modSession own (fun x => { x with closing := true }) s))

/-- OWNER_TRANSFER (R420, R421). -/
def execOwnerTransfer (t cid : Nat) (v : PkgVerdict) (s : State) : Host.Outcome State Fault Refusal :=
  onCore Op.ownerTransfer t cid (fun c s =>
    if transferBusy s then refuse c Status.transferBusy s
    else withPackage c (parN c 0) (parN c 1) v (fun p s =>
      if p.ref ≠ s.kry.transfer + 1 then refuse c Status.transferSequence s
      else done c (transferOwner c.session p v.key (acceptPackage p s))) s) s

/-! ### Images (R411 to R413) -/

/-- A word of an image header. -/
def imgWord (h : List Byte) (i : Nat) : Nat := leAt h (8 * i) 8

/-- Whether an image's header has the magic, the format and zeros in its reserved fields (R411). -/
def imgHeaderOk (h : List Byte) : Bool :=
  decide (h.length = 88) && bits (imgWord h 0) 31 0 == 0x4A50494D && bits (imgWord h 0) 39 32 == 1 && bits (imgWord h 0) 63 40 == 0
    && bits (imgWord h 1) 63 48 == 0 && bits (imgWord h 2) 7 6 == 0 && bits (imgWord h 2) 15 14 == 0 && bits (imgWord h 2) 23 22 == 0
    && bits (imgWord h 2) 63 28 == 0 && bits (imgWord h 3) 63 32 == 0 && imgWord h 10 == 0

/-- The `fw_version` of an image header. -/
def imgVersion (h : List Byte) : Nat := bits (imgWord h 1) 47 0

/-- The rollback counter that an image names. -/
def imgCounter (h : List Byte) : Fin 64 := ⟨bits (imgWord h 2) 5 0 % 64, Nat.mod_lt _ (by decide)⟩

/-- The `boot_error` of the first check of R412 that an image fails. -/
def imgFailure (s : State) (v : ImgVerdict) : Option Nat :=
  let w := imgWord v.header 2
  if !v.readOk || !imgHeaderOk v.header then some 4
  else if !v.rootOk || bit s.kry.revoked (bits w 25 24) then some 3
  else if !v.ecdsaOk || !v.mldsaOk || !v.bodyOk then some 1
  else if bits w 13 8 < s.kry.rollback[imgCounter v.header] ∨ bits w 13 8 < bits w 21 16 then some 2
  else none

/-- The status of an image that fails a check of R412, for the commands (R413, R414). -/
def imgStatus (e : Nat) : Nat := if e = 2 then Status.rollback else Status.imageSignature

/-- The length of an image: header, root key block, body, signatures, padding (R411). -/
def imgLength (h : List Byte) : Nat := padLen (88 + 2048 + bits (imgWord h 3) 31 0 + 96 + 3309)

/-- A slot's image record set. -/
def setImage (k : Fin 2) (x : ImgSlot) (s : State) : State := { s with kry.images := s.kry.images.set k x }

/-- A slot left marked empty (R413). -/
def emptyImage (k : Fin 2) (s : State) : State := setImage k { empty := true } { s with fwVersion := s.fwVersion.set k 0 }

/-- IMAGE_STAGE (R413): an image that passes arrives from its ring and is then written to the slot. -/
def execImageStage (t cid : Nat) (v : ImgVerdict) (s : State) : Host.Outcome State Fault Refusal :=
  onCore Op.imageStage t cid (fun c s =>
    let slot : Fin 2 := if parB c 0 0 then 1 else 0
    if slot.val = s.bgd.fwSlot then refuse c Status.slotActive s
    else if !inRing s (parN c 1) then refuse c Status.badRing s
    else match imgFailure s v with
      | some e => refuse c (imgStatus e) s
      | none =>
        let st : Staging := { cid := c.cid, slot := slot, ring := parN c 1, header := v.header }
        let s := { s with kry.staging := some st }
        if h : parN c 1 < 16 then
          modWork ⟨parN c 1, h⟩ (fun w => { w with input := c.cid, inAddr := 0, inLeft := imgLength v.header, got := [] }) s
        else s) s

/-- IMAGE_SLOT_WRITTEN (R413): the image has arrived and been written; the read-back fills the slot, or XSPI_WRITE leaves it empty. -/
def execImageSlotWritten (t : Nat) (readBackOk : Bool) (s : State) : Host.Outcome State Fault Refusal :=
  onEvent t (fun s =>
    match s.kry.staging with
    | none => s
    | some x =>
      let left := if h : x.ring < 16 then (s.bar.work[x.ring]'h).inLeft else 0
      if left ≠ 0 then s
      else
        let s := { s with kry.staging := none, bar.work := s.bar.work.map fun w => if w.input = x.cid then { w with input := 0, got := [] } else w }
        if readBackOk then
          finish x.cid Status.done 0 []
            (setImage x.slot { header := x.header } { s with fwVersion := s.fwVersion.set x.slot (imgVersion x.header) })
        else finish x.cid Status.faultPartial FaultCode.xspiWrite [] (raise FaultCode.xspiWrite 0 (emptyImage x.slot s))) s

/-! ### Attestation (R434) -/

/-- The 16 bytes of a tamper log entry. -/
def tamperBytes (e : TamperEntry) : List Byte := leBytes 4 e.cause ++ leBytes 4 e.secs ++ leBytes 8 e.ns

/-- Bytes 0 to 463 of the attestation report. -/
def attestBody (c : Slot) (s : State) : List Byte :=
  leBytes 8 (0x41545331 + put 1 32) ++ wordsBytes [par c 0, par c 1, par c 2, par c 3, Config.serial, word 0x4200]
    ++ wordsBytes [word (devSec s), word (stampSub (devTime s))]
    ++ leBytes 8 (s.bgd.fwSlot + put (flag s.kry.approved) 1 + put (flag s.kry.tested) 2)
    ++ leBytes 8 s.fwVersion[0] ++ leBytes 8 s.fwVersion[1]
    ++ padTo 48 (Config.sha384 s.kry.images[0].header) ++ padTo 48 (Config.sha384 s.kry.images[1].header)
    ++ (elems s.kry.rollback).flatMap (leBytes 1)
    ++ leBytes 8 s.kry.revoked
    ++ padTo 48 (Config.sha384 (certObject s 4 ++ certObject s 5))
    ++ leBytes 8 s.kry.transfer ++ leBytes 8 s.kry.policy ++ leBytes 8 s.kry.pkgNo
    ++ padTo 128 ((s.kry.log.take 8).flatMap tamperBytes)

/-- ATTEST (R434): without an identity key the report cannot be made (R432). -/
def execAttest (t cid : Nat) (s : State) : Host.Outcome State Fault Refusal :=
  onCore Op.attest t cid (fun c s =>
    if !outRing s (parN c 4) then refuse c Status.badRing s
    else if !s.kry.identity then failWith c Status.faultNoEffect FaultCode.keyCorrupt s
    else
      let b := attestBody c s
      outputOn c (parN c 4) [padEight (b ++ padTo 96 (Config.sign 0 b) ++ padTo 3309 (Config.sign 1 b))] s) s

/-! ### Zeroisation (R431) -/

/-- The tamper log gains an event (R434): eight entries, the newest first. -/
def logTamper (cause : Nat) (s : State) : State :=
  { s with kry.log := ({ cause := cause, secs := devSec s % 2 ^ 32, ns := stampSub (devTime s) / 65536 } :: s.kry.log).take 8 }

/-- Zeroisation up to t2 (R431, R441): the latch is set, every key and every session is gone, no command completes or is answered any more, and the fire permits go as
for a device-class fault. -/
def zeroise (cause : Nat) (s : State) : State :=
  if s.kry.latch.isSome then s else
  let s := logTamper cause s
  let s := { s with stl := s.stl.map (latchStall s.now) }
  { s with
    kry.latch := some s.now,
    kry.keys := [],
    kry.jobKeys := [],
    kry.creds := [],
    kry.identity := false,
    bgd.act := none,
    kry.staging := none,
    cmd.sessions := [],
    cmd.slots := [],
    cmd.replyQ := [],
    cmd.intakeOpen := false }

/-- ZEROISE (R433): the constant starts zeroisation, and the command is never answered. -/
def execZeroise (t cid : Nat) (s : State) : Host.Outcome State Fault Refusal :=
  onCore Op.zeroise t cid (fun c s =>
    if parN c 0 ≠ 0x5A3C then refuse c Status.badParameter s else zeroise 8 s) s

end Sys2Proof.Machine
end

