-- ==== Sys2Proof/Machine/Upkeep.lean ====
section
/-!
DEFINITION. The background tasks beside the Well's: the Ledger scrub (R482, R484, R486), the SRAM scrub and its row repairs (R503, R504), the self-tests of idle slices
(R501), of the spare core (R505) and of the Krynto core (R436), silicon re-calibration (R502), and the entropy source (R435).
-/
namespace Sys2Proof.Machine

/-! ### The Ledger scrub (R482, R486) -/

/-- The seconds that the age of a sector is measured to: device time, or the saved floor while the clock is FREE (R486). -/
def ageSecs (s : State) : Nat :=
  if s.time.clk.state = .free then (match s.time.clk.floor with | some f => f / 2 ^ 48 / 1000000000 | none => 0) else devSec s

/-- A sector whose last full rewrite is more than 365 days old is rewritten (R486). -/
def rewriteAged (logical : Nat) (s : State) : State :=
  let p := physSector s logical
  let last := ((s.led.rewritten.find? fun x => x.1 == p).map (·.2)).getD 0
  if last + yearSecs < ageSecs s then
    countWrite p { s with led.rewritten := (s.led.rewritten.filter fun x => x.1 != p) ++ [(p, ageSecs s)] }
  else s

/-- Corrected errors of a physical sector in two different passes make it failing (R484). -/
def correctedSector (phys : Nat) (s : State) : State :=
  if s.led.seen.any fun x => x.1 == phys && x.2 != s.led.pass then failSector phys s
  else if s.led.seen.contains (phys, s.led.pass) then s
  else { s with led.seen := s.led.seen ++ [(phys, s.led.pass)] }

/-- A configuration record that failed: the settings in force stay until the next boot reads the record, which then gives its delivery value. -/
def breakConfig (h : LedgerHit) (s : State) : State := { s with led.broken := s.led.broken ++ [h] }

/-- A configuration record of which both copies fail is reported (R482). -/
def configLost (both : Bool) (f : State → State) (s : State) : State :=
  if both then raise FaultCode.configCorrupt 0 (f s) else s

/-- The parts of a journal slot that fail their checks: they are taken from the peer, or their record is void (R312, R482). -/
def slotLost (slot : Nat) (s : State) : State :=
  (s.tal.journal.filter fun r => r.num % 98304 == slot && r.peer == 0).foldl (fun s r =>
    let s := modRec r.num (fun r => { r with damaged := true }) s
    if r.final.isSome then raise FaultCode.journalCorrupt r.product s else voidFault r.product FaultCode.journalCorrupt s) s

/-- What an uncorrectable word damages (R482). -/
def ledgerHit (h : LedgerHit) (s : State) : State :=
  match h with
  | .journal slot => slotLost slot s
  | .cal item =>
    if s.led.items.any fun x => x.item == item && x.valid then
      raise FaultCode.calCorrupt 0 { s with led.items := mapWhere (fun x => x.item == item) (fun x => { x with valid := false }) s.led.items }
    else s
  | .key id both =>
    if !both then s
    else if id = 0 then raise FaultCode.keyCorrupt 0 { s with kry.identity := false }
    else raise FaultCode.keyCorrupt id { s with kry.keys := mapWhere (fun x => x.id == id) (fun x => { x with bad := true }) s.kry.keys }
  | .net _ both => configLost both (breakConfig h) s
  | .motion both => configLost both (breakConfig h) s
  | .stall _ both => configLost both (breakConfig h) s
  | .check _ both => configLost both (breakConfig h) s
  | .numbers both => configLost both (fun s => { s with led.badSaved := true }) s
  | .other both => configLost both id s

/-- LEDGER_SCRUB (R482, R484, R486): task 2 has read the sectors up to this one, with what it found in it. -/
def execLedgerScrub (t sector : Nat) (corrected : Bool) (bad : Option LedgerHit) (s : State) : Host.Outcome State Fault Refusal :=
  onEvent t (fun s =>
    if taskRuns s 1 && decide (s.led.scrubPos ≤ sector) && decide (sector < 4096) then
      let s := beginTask 1 s
      let s := ((List.range (sector + 1)).drop s.led.scrubPos).foldl (fun s l => rewriteAged l s) s
      let p := physSector s sector
      let s := if corrected then correctedSector p s else s
      let s := match bad with | some h => ledgerHit h (failSector p s) | none => s
      if sector = 4095 then endTask 1 { s with led.scrubPos := 0, led.pass := s.led.pass + 1 }
      else taskAt 1 (sector + 1) 4096 { s with led.scrubPos := sector + 1 }
    else s) s

/-! ### SRAM rows (R503, R504) -/

/-- The record of an array. -/
def sramOf (s : State) (a : Nat) : SramArray := (s.bgd.sram.find? fun x => x.array == a).getD { array := a }

/-- The record of an array replaced. -/
def putSram (x : SramArray) (s : State) : State := { s with bgd.sram := (s.bgd.sram.filter fun y => y.array != x.array) ++ [x] }

/-- A row is moved to the lowest free spare row of its array, when there is one (R503). -/
def repairRow (a row : Nat) (s : State) : State :=
  let x := sramOf s a
  if 2 ≤ x.remaps.length then s
  else
    let d := Config.sramDomain a % 12
    let x := { x with remaps := x.remaps ++ [row], seen := x.seen.filter fun e => e.1 != row }
    let s := notify Notice.sramRowSpared (put row 16 + a) (putSram x s)
    let n := 2 * (arraysOf d).length
    let s := granaryUse 8 d (n / 4) (n - (sramUse s d).1) s
    if x.remaps.length = 2 && !x.outSent then notify Notice.sramSparesOut a (putSram { x with outSent := true } s) else s

/-- Whether a row can still be repaired. -/
def rowRepairable (s : State) (a : Nat) : Bool := decide ((sramOf s a).remaps.length < 2)

/-- An uncorrectable word in a row of an array that no other chapter names raises SRAM_UNCORRECTABLE, which clears when the repair completes (R504). -/
def badRow (a row : Nat) (s : State) : State :=
  let fixable := rowRepairable s a
  let s := repairRow a row (if Config.sramNamed a then s else raise FaultCode.sramUncorrectable 0 s)
  if fixable && !Config.sramNamed a then clearFault FaultCode.sramUncorrectable s else s

/-- A corrected error in a row is kept with its pass; one in an earlier pass makes the row a candidate (R503). -/
def correctedRow (a row : Nat) (s : State) : State :=
  let x := sramOf s a
  if x.seen.any fun e => e.1 == row && e.2 != s.bgd.sramPass then repairRow a row s
  else if x.seen.contains (row, s.bgd.sramPass) then s
  else putSram { x with seen := x.seen ++ [(row, s.bgd.sramPass)] } s

/-- SRAM_SCRUB (R503): task 3 has read the arrays up to this row, with what it found in it. -/
def execSramScrub (t array row : Nat) (corrected uncorrectable : Bool) (s : State) : Host.Outcome State Fault Refusal :=
  onEvent t (fun s =>
    let pos := 512 * array + row
    let dom : Fin 12 := ⟨Config.sramDomain array % 12, Nat.mod_lt _ (by decide)⟩
    if taskRuns s 2 && decide (s.bgd.sramPos ≤ pos) && decide (array < 3072) && decide (row < 512) && domOn s dom then
      let s := beginTask 2 s
      let s := if uncorrectable then badRow array row s else if corrected then correctedRow array row s else s
      if pos = 3072 * 512 - 1 then endTask 2 { s with bgd.sramPos := 0, bgd.sramPass := s.bgd.sramPass + 1 }
      else taskAt 2 (pos + 1) (3072 * 512) { s with bgd.sramPos := pos + 1 }
    else s) s

/-! ### Self-tests (R501, R505, R436) -/

/-- Whether a slice of a lost domain that is on again is still to pass its test (R212, R501). -/
def lostUntested (s : State) (k : Fin 32) : Bool :=
  let d : Fin 2 := if k.val < 16 then 0 else 1
  s.mil.lost[d] && domOn s (if k.val < 16 then 7 else 8) && !s.mil.slices[k].retired && decide (s.mil.slices[k].tested ≤ s.flt.sinceAt)

/-- A lost domain works again once its slices have passed their tests (R212). -/
def restoreDomains (s : State) : State :=
  { s with mil.lost := ⟨#[s.mil.lost[0] && (domOn s 7 == false || (List.finRange 32).any fun (k : Fin 32) => k.val < 16 && lostUntested s k),
                          s.mil.lost[1] && (domOn s 8 == false || (List.finRange 32).any fun (k : Fin 32) => 16 ≤ k.val && lostUntested s k)], rfl⟩ }

/-- SLICE_SELFTEST (R501, R212): an idle working slice under task 4, or a slice of a domain that was lost. A slice that fails is retired. -/
def execSliceSelftest (t : Nat) (slice : Fin 32) (pass : Bool) (s : State) : Host.Outcome State Fault Refusal :=
  onEvent t (fun s =>
    let lost := lostUntested s slice
    if lost || (taskRuns s 3 && (untested s).contains slice) then
      let s := if lost then s else beginTask 3 s
      let s := { s with mil.slices := upd s.mil.slices slice fun x => { x with tested := s.now } }
      let s := if pass then s else retireSlice slice s
      if lost then restoreDomains s
      else if (untested s).isEmpty then endTask 3 s else taskAt 3 1 ((untested s).length + 1) s
    else s) s

/-- SPARE_CORE_SELFTEST (R505): task 5; a spare that fails is retired. -/
def execSpareCoreSelftest (t : Nat) (pass : Bool) (s : State) : Host.Outcome State Fault Refusal :=
  onEvent t (fun s =>
    match spareCore s with
    | none => s
    | some k =>
      if !taskRuns s 4 then s
      else
        let s := endTask 4 (beginTask 4 s)
        if pass then s else granaryCount 2 0 { s with bgd.cores := s.bgd.cores.set k .retired }) s

/-- KRYNTO_KAT (R436): task 7; a failure raises KRYNTO_SELFTEST and ends the approved mode (R439). -/
def execKryntoKat (t : Nat) (pass : Bool) (s : State) : Host.Outcome State Fault Refusal :=
  onEvent t (fun s =>
    if !taskRuns s 6 || !coreRuns s then s
    else
      let s := endTask 6 (beginTask 6 { s with kry.katAt := s.now })
      if pass then s else setMode (raise FaultCode.kryntoSelftest 0 { s with kry.tested := false })) s

/-! ### Silicon re-calibration (R502) -/

/-- Every instance of the silicon items. -/
def silicon : List (Nat × Nat) :=
  ([(0x180, 36), (0x181, 78), (0x182, 24), (0x183, 4), (0x184, 24)] : List (Nat × Nat)).flatMap fun p => (List.range p.2).map fun i => (p.1, i)

/-- An instance whose calibration is older than 4 × `recal_period` is reported once (R502). -/
def judgeAged (s : State) : State :=
  (s.bgd.calAt.filter fun x => decide (x.2 + 4 * s.bgd.cfg.recalPeriod * 86400 < devSec s) && !s.bgd.aged.contains x.1).foldl
    (fun s x => notify Notice.calAged (put x.1.2 16 + x.1.1) { s with bgd.aged := s.bgd.aged ++ [x.1] }) s

/-- Whether an instance waits for its re-calibration in this pass and R493 accepts it now. -/
def recalWaits (s : State) (x : Nat × Nat) : Bool := !s.bgd.recalDone.contains x && (runInUse s x.1 x.2).isNone

/-- SILICON_RECAL (R502): task 6 re-calibrates one instance that R493 accepts, and its pass ends when none is left. -/
def execSiliconRecal (t item inst : Nat) (m : CalMeasure) (s : State) : Host.Outcome State Fault Refusal :=
  onEvent t (fun s =>
    let s := judgeAged s
    if taskRuns s 5 && taskAble s 5 && silicon.contains (item, inst) && recalWaits s (item, inst) && !calBusy s item then
      let s := beginTask 5 s
      let s := endRun { item := item, inst := inst, cid := 0 } m { s with bgd.recalDone := s.bgd.recalDone ++ [(item, inst)] }
      if silicon.any (recalWaits s) then taskAt 5 s.bgd.recalDone.length silicon.length s else endTask 5 { s with bgd.recalDone := [] }
    else s) s

/-! ### Random numbers (R435) -/

/-- DRBG_RESEED (R435): after 2²⁰ requests or 1 s; a pass clears ENTROPY_FAIL, a failure raises it. -/
def execDrbgReseed (t : Nat) (pass : Bool) (s : State) : Host.Outcome State Fault Refusal :=
  onEvent t (fun s =>
    if !coreRuns s || (decide (s.now < s.kry.reseedAt + 1000000000) && decide (s.kry.requests < 2 ^ 20)) then s
    else if pass then clearFault FaultCode.entropyFail { s with kry.reseedAt := s.now, kry.requests := 0 }
    else if FaultCode.entropyFail ∈ s.flt.active then { s with kry.reseedAt := s.now }
    else raise FaultCode.entropyFail 0 { s with kry.reseedAt := s.now }) s

/-- ENTROPY_HEALTH_FAIL (R435): a health test of the entropy source fails. -/
def execEntropyHealthFail (t : Nat) (s : State) : Host.Outcome State Fault Refusal :=
  onEvent t (fun s =>
    if !domOn s 1 || decide (FaultCode.entropyFail ∈ s.flt.active) then s else raise FaultCode.entropyFail 0 s) s

end Sys2Proof.Machine
end

