-- ==== Sys2Proof/Machine/Cores.lean ====
section
/-!
DEFINITION. The control cores: takeovers (R24, R505 to R507), and the activation of firmware between lines (R414, R508, R509, R518).
-/
namespace Sys2Proof.Machine

/-! ### Takeovers (R506, R507) -/

/-- The cores in a state, the lowest first. -/
def coresIn (s : State) (x : CoreState) : List (Fin 3) := (List.finRange 3).filter fun k => s.bgd.cores[k] == x

/-- The working cores that stop at a takeover: the lockstep pair, or the single core. -/
def workingCores (s : State) : List (Fin 3) := coresIn s .lockstep ++ coresIn s .single

/-- CORE_TAKEOVER (R506): t0. The working cores stop and `takeover_start` is raised (R81). -/
def execCoreTakeover (t : Nat) (s : State) : Host.Outcome State Fault Refusal :=
  onEvent t (fun s =>
    if !s.pwr.ready || s.bgd.takeover || (workingCores s).isEmpty then s
    else setInt 35 { s with bgd.takeover := true, bgd.takeAt := s.now }) s

/-- 30 days in seconds. -/
def monthSecs : Nat := 30 * 86400

/-- The cores that fail their test, or that a third transient takeover within 30 days retires (R506): those that stopped, the ones that passed,
whether the takeover is transient, and the takeovers counted. -/
def coresLost (s : State) (stopped passed : List (Fin 3)) : List (Fin 3) :=
  let worn := fun (k : Fin 3) => decide (3 ≤ (s.bgd.transient.filter fun x => bit x.1 k.val && decide (devSec s < x.2 + monthSecs)).length)
  if stopped.length = passed.length then stopped.filter worn else stopped.filter fun k => !passed.contains k

/-- The roles of the cores after a takeover (R506, R507): the spare and the lower core that stays run in lockstep, another becomes the spare, and a core left alone runs single. -/
def newCores (spare : Option (Fin 3)) (kept : List (Fin 3)) (k : Fin 3) (old : CoreState) : CoreState :=
  let run := (match spare with | some x => [x] | none => []) ++ kept
  if old == .retired then .retired
  else if !run.contains k then .retired
  else if run.length = 1 then .single
  else if (run.take 2).contains k then .lockstep
  else .spare

/-- A firmware activation that a takeover met (R24, R518): before t2 it continues from t1, after it starts again from t2. -/
def resumeAct (s : State) : State :=
  match s.bgd.act with
  | none => s
  | some a =>
    let a := match a.stage with
      | .reading => a
      | .loaded => { a with t1 := s.now }
      | .paused => { a with t2 := s.now }
      | .handed => { a with stage := .paused, t2 := s.now }
    { s with bgd.act := some a }

/-- What a single core means (R507): a lead with a SYNCED peer yields, any other device reports it and goes on. -/
def judgeCores (s : State) : State :=
  match coresIn s .single with
  | [] => s
  | k :: _ =>
    if s.twn.role == .lead && s.twn.peerSynced then raise FaultCode.controlUnchecked 0 s else notify Notice.coreSingle k.val s

/-- TAKEOVER_COMPLETE (R506): t5, with the self-tests of the lower and of the higher stopped core. A takeover that leaves no core, or that met a single core, does not
complete. -/
def execTakeoverComplete (t : Nat) (passA passB : Bool) (s : State) : Host.Outcome State Fault Refusal :=
  onEvent t (fun s =>
    let stopped := coresIn s .lockstep
    let passed := (stopped.zip [passA, passB]).filterMap fun p => if p.2 then some p.1 else none
    let spare := spareCore s
    let transient := decide (stopped.length = 2) && decide (passed.length = 2)
    let s := if s.bgd.takeover && transient then
        { s with bgd.transient := (maskOf ((List.finRange 3).map fun (k : Fin 3) => stopped.contains k), devSec s) :: s.bgd.transient }
      else s
    let gone := coresLost s stopped passed
    let kept := passed.filter fun k => !gone.contains k
    if !s.bgd.takeover || stopped.isEmpty || (spare.isNone && kept.isEmpty) then s
    else
      let s := gone.foldl (fun s _ => granaryCount 2 0 s) s
      let s := { s with
        bgd.cores := Vector.ofFn fun (k : Fin 3) => newCores spare kept k s.bgd.cores[k],
        bgd.takeover := false }
      let s := skipTime (s.now - s.bgd.takeAt) (fun _ => true) s
      let s := notify Notice.coreTakeover (maskOf ((List.finRange 3).map fun (k : Fin 3) => gone.contains k) + put (flag transient) 8) s
      setInt 36 (resumeAct (judgeCores s))) s

/-! ### Firmware activation (R414, R508, R509) -/

/-- IMAGE_ACTIVATE (R414, R508): t0. It waits while another activation runs. -/
def execImageActivate (t cid : Nat) (v : ImgVerdict) (s : State) : Host.Outcome State Fault Refusal :=
  if s.bgd.act.isSome then .next (advance t s)
  else onCore Op.imageActivate t cid (fun c s =>
    let slot : Fin 2 := if parB c 0 0 then 1 else 0
    let busy := match s.kry.staging with | some x => x.slot == slot | none => false
    if s.kry.images[slot].empty || busy then refuse c Status.imageSignature s
    else match imgFailure s v with
      | some e => refuse c (imgStatus e) s
      | none =>
        if slot.val = s.bgd.fwSlot then refuse c Status.slotActive s
        else setImage slot { header := v.header } { s with bgd.act := some { cid := c.cid, slot := slot.val } }) s

/-- The activation ends under the firmware that runs: intake is open again. -/
def endAct (s : State) : State := { s with bgd.act := none, cmd.intakeOpen := true }

/-- FW_IMAGE_LOADED (R508): t1. Intake pauses; an image that is not verified again ends the activation. -/
def execFwImageLoaded (t : Nat) (ok : Bool) (s : State) : Host.Outcome State Fault Refusal :=
  onEvent t (fun s =>
    match s.bgd.act with
    | none => s
    | some a =>
      if a.stage != .reading || s.bgd.takeover then s
      else if ok then { s with bgd.act := some { a with stage := .loaded, t1 := s.now }, cmd.intakeOpen := false }
      else finish a.cid Status.imageSignature 0 [] (endAct s)) s

/-- Whether a command started before t1 has still to complete. -/
def othersRun (s : State) (a : Activation) : Bool := s.cmd.slots.any fun c => c.phase == .executing && c.cid != a.cid

/-- Whether t3 has come: a line boundary since the pause, or none to wait for, with no job active or the medium standing for more than 100 ms (R508). -/
def boundaryCame (s : State) (since : Nat) : Bool :=
  match s.mot.bounds with
  | b :: _ => !jobActive s || decide (since ≤ b.1) || decide (b.1 + 100000000 < s.now)
  | [] => true

/-- The header of the image in a slot. -/
def slotHeader (s : State) (slot : Nat) : List Byte := if slot = 0 then s.kry.images[0].header else s.kry.images[1].header

/-- The fuses that follow the final reply (R414): the image's counter rises to its floor, and every root slot below `revoke_below` is revoked. -/
def blowFuses (h : List Byte) (s : State) : State :=
  let w := imgWord h 2
  let c := imgCounter h
  let v := max s.kry.rollback[c] (bits w 21 16)
  let n := v - s.kry.rollback[c]
  let s := { s with
    kry.rollback := s.kry.rollback.set c v,
    kry.revoked := s.kry.revoked ||| (2 ^ bits w 27 26 - 1) }
  (List.range n).foldl (fun s i => granaryUse 10 c.val 8 (32 - (v - n + i + 1)) s) s

/-- The cluster runs the old image again (R509). -/
def revertAct (a : Activation) (s : State) : State :=
  notify Notice.fwReverted (put a.slot 48 + imgVersion (slotHeader s a.slot))
    (finish a.cid Status.faultNoEffect FaultCode.fwRevert [] (raise FaultCode.fwRevert 0 (endAct s)))

/-- FW_HANDOFF (R508, R509): t3 and t4. The new image runs from the hand-off block and sends the final reply; one that cannot read the block does not keep the cluster,
and one that does not answer keeps it until FW_REPLY_TIMEOUT. -/
def execFwHandoff (t : Nat) (readable replies : Bool) (s : State) : Host.Outcome State Fault Refusal :=
  onEvent t (fun s =>
    match s.bgd.act with
    | none => s
    | some a =>
      let from_ := if a.stage == .paused then a.t2 else a.t1
      if !(a.stage == .loaded || a.stage == .paused) || s.bgd.takeover || othersRun s a || !boundaryCame s from_ then s
      else if !readable then revertAct a s
      else if !replies then { s with bgd.act := some { a with stage := .handed, t2 := from_, t3 := s.now } }
      else
        let h := slotHeader s a.slot
        let s := endAct { s with bgd.fwSlot := a.slot, fwVersion := if a.slot = 0 then s.fwVersion.set 0 (imgVersion h) else s.fwVersion.set 1 (imgVersion h) }
        let s := skipTime (s.now - a.t1) (fun _ => true) (finish a.cid Status.done 0 [] s)
        blowFuses h (notify Notice.fwActivated (put a.slot 48 + imgVersion h) s)) s

/-- FW_ACTIVATE_BUSY_TIMEOUT (R509): commands started before t1 have not all completed by t1 + 2 s. -/
def execFwActivateBusyTimeout (t : Nat) (s : State) : Host.Outcome State Fault Refusal :=
  onEvent t (fun s =>
    match s.bgd.act with
    | none => s
    | some a =>
      if a.stage == .loaded && !s.bgd.takeover && othersRun s a && decide (a.t1 + 2000000000 ≤ s.now) then
        finish a.cid Status.imageBusy 0 [] (endAct s)
      else s) s

/-- FW_REPLY_TIMEOUT (R414, R509): no final reply within 5 s of t3. -/
def execFwReplyTimeout (t : Nat) (s : State) : Host.Outcome State Fault Refusal :=
  onEvent t (fun s =>
    match s.bgd.act with
    | none => s
    | some a => if a.stage == .handed && !s.bgd.takeover && decide (a.t3 + 5000000000 ≤ s.now) then revertAct a s else s) s

end Sys2Proof.Machine
end

