-- ==== Sys2Proof/Machine/Domains.lean ====
section
/-!
DEFINITION. Switching power domains (R21, R22, R79, R80, R523, R524): POWER_DOMAIN, the power-down once transfers have drained, the power-up, and what each domain loses and starts.
-/
namespace Sys2Proof.Machine

/-- The lanes of a domain (R21). -/
def lanesOf (d : Fin 12) : List Nat := (List.range 36).filter fun n => laneDomain n == d

/-- The lanes of a domain are powered down (R266). -/
def lanesOff (d : Fin 12) (s : State) : State := (lanesOf d).foldl (fun s n => modLane n (fun l => { l with state := .idle, nextLam := none }) s) s

/-- The lanes of a domain that have a function start in HUNT (R273). -/
def lanesOn (d : Fin 12) (s : State) : State := (lanesOf d).foldl (fun s n => if laneWanted s n then huntLane n s else s) s

/-- A bit of `domains_on` changes (R61, R81). -/
def setDomain (d : Fin 12) (on : Bool) (s : State) : State :=
  if domOn s d == on then s else setInt 37 { s with pwr.domains := s.pwr.domains.set d on }

/-- NET powers down (R365): the floor is saved, the clock runs on in HOLDOVER. -/
def netOff (s : State) : State :=
  let s := clockNetOff (saveFloor s)
  { s with net := s.net.map fun p => { p with router := 0, neigh := [] } }

/-- PCIE powers down: replies due on ring 2 are discarded and their slots free (R51). -/
def pcieOff (s : State) : State :=
  let s := { s with cmd.replyQ := [] }
  (s.cmd.slots.filter fun c => c.phase == .committed && isRing c.tr).foldl (fun s c => handedOver c.cid s) s

/-- Every BAR0 register returns to its reset value (R80); the roles of the rings and the units that wait for them are no registers of BAR0. -/
def barReset (b : Bar) : Bar :=
  { Bar.atReset with
    rings := Vector.ofFn fun (r : Fin 16) => Ring.atReset r.val b.rings[r].role,
    work := b.work.map fun w => { ({} : RingWork) with units := w.units, input := w.input, inAddr := w.inAddr, inLeft := w.inLeft, got := w.got } }

/-- STL loses what it holds of lines: the line store, the Weighbridge log, the work of the Stalls; the gates are high-impedance and hold the delivery word (R114, R524). -/
def stlOff (s : State) : State :=
  let s := { s with
    mil.lines := [],
    mil.log := [],
    stl := s.stl.map fun st => { bareStall st with permit := false, withdraw := none, granted := false, headId := none },
    prod.gates := Vector.replicate 4 {},
    mot.pds := s.mot.pds.map fun p => { p with burst := none } }
  settlePermits s

/-- A Mill domain loses its band store (R148). -/
def millOff (d : Fin 2) (s : State) : State :=
  { s with mil.band := s.mil.band.set d [] }

/-- RING loses the links, the routes and the packets received (R374, R378). -/
def ringOff (s : State) : State :=
  { s with ura.routes := [], ura.links := Vector.replicate 8 {}, ura.seen := [], ura.inbox := [] }

/-- VIS powers down (R21, R344): its sensors, frames and captures are gone, and every code that is not final becomes void under VISION_OFF, flagged unverified. -/
def visOff (s : State) : State :=
  let s := (elems s.vis.sensors).foldl (fun s x => dropSets x.sets s) s
  let s := s.vis.captures.foldl (fun s c => finish c.cid Status.visionOff 0 [] s) s
  let ns := ((s.tal.journal.filter fun r => r.final.isNone).map (·.product)).eraseDups
  let s := { s with vis := { ({} : Vision) with cfg := s.vis.cfg } }
  ns.foldl (fun s n => voidFault n FaultCode.visionOff (setFlag n 3 s)) s

/-- What a domain loses as it powers down (R523). -/
def domainOff (d : Fin 12) (s : State) : State :=
  let s := lanesOff d s
  let s := match d.val with
    | 3 => netOff s
    | 4 => pcieOff s
    | 5 => modChan 0 (fun c => { c with state := 3 }) (selfRefresh 0 s)
    | 6 => modChan 1 (fun c => { c with state := 3 }) (selfRefresh 1 s)
    | 7 => millOff 0 s
    | 8 => millOff 1 s
    | 9 => stlOff s
    | 10 => ringOff s
    | 11 => visOff s
    | _ => s
  setDomain d false s

/-- A channel of the Well serves again, and every loaded job counts as not checked (R470). -/
def ddrOn (ch : Fin 2) (s : State) : State :=
  modChan ch (fun c => { c with state := 1, trackDue := true }) { s with job.loaded := s.job.loaded.map fun j => { j with stale := true } }

/-- What a domain starts as it powers up (R523): lanes in HUNT, the Well under R470, NET under R365, PCIE with its registers reset. -/
def domainOn (d : Fin 12) (s : State) : State :=
  let s := setDomain d true s
  let s := match d.val with
    | 3 => (List.finRange 2).foldl (fun s (k : Fin 2) => restartDom k s) s
    | 4 => { s with bar := barReset s.bar }
    | 5 => ddrOn 0 s
    | 6 => ddrOn 1 s
    | _ => s
  lanesOn d s

/-- Whether a domain may go off while a job is active (R21): NET with PCIE on and a locked PPS as the time source, PCIE with an Ethernet port that carries commands, RING in
a device that is no unit of a pair and uses no port, VIS always. -/
def mayGoOff (s : State) (d : Nat) : Bool :=
  match d with
  | 3 => domOn s 4 && (lockedPps s false).isSome
  | 4 => domOn s 3 && (elems s.net).any fun p => hasAddress p.cfg
  | 10 => !s.twn.bound && s.ura.ports == 0
  | 11 => true
  | _ => false

/-- Whether a power-down is refused (R22). -/
def offRefused (s : State) (d : Nat) : Bool := jobActive s && !mayGoOff s d

/-- POWER_DOMAIN (R22, R79, R80, R523): a power-down stops the rings of the domain; the domains switch one at a time in acceptance order. -/
def execPowerDomain (t cid : Nat) (s : State) : Host.Outcome State Fault Refusal :=
  onStart Op.powerDomain t cid (fun c s =>
    let d := parF c 0 3 0
    let on := parB c 0 8
    if h : 3 ≤ d ∧ d ≤ 11 then
      if !on && offRefused s d then refuse c Status.domainRequired s
      else
        let s := { s with pwr.reqs := s.pwr.reqs ++ [{ cid := c.cid, dom := d, on := on, t0 := s.now }] }
        if on then s
        else
          let s := ringsPowerDown ⟨d, by omega⟩ s
          if d = 4 then setInt 38 s else s
    else refuse c Status.badParameter s) s

/-- Whether work in a domain must complete before it goes off: a spare on its way in (R22), a repair of its DRAM (R478). -/
def insertionRuns (s : State) (d : Nat) : Bool :=
  match d with
  | 5 => (match s.well.hardNow with | some r => r.ch == 0 | none => false)
  | 6 => (match s.well.hardNow with | some r => r.ch == 1 | none => false)
  | 9 => !s.lan.moving.isEmpty
  | 10 => !s.lan.moving.isEmpty
  | _ => false

/-- DOMAIN_POWER_DOWN_PROCEED (R79, R523): the rings have drained and the oldest request switches its domain off. -/
def execDomainPowerDownProceed (t : Nat) (s : State) : Host.Outcome State Fault Refusal :=
  onEvent t (fun s =>
    match s.pwr.reqs with
    | [] => s
    | q :: rest =>
      if h : q.dom < 12 then
        if q.on || insertionRuns s q.dom then s
        else if offRefused s q.dom then finish q.cid Status.domainRequired 0 [] { s with pwr.reqs := rest }
        else if !ringsDrained ⟨q.dom, h⟩ s then s
        else
          let s := { s with pwr.reqs := rest }
          finish q.cid Status.done 0 [] (if domOn s ⟨q.dom, h⟩ then domainOff ⟨q.dom, h⟩ s else s)
      else s) s

/-- DOMAIN_POWER_UP_DONE (R523): the oldest request has switched its domain on. -/
def execDomainPowerUpDone (t : Nat) (s : State) : Host.Outcome State Fault Refusal :=
  onEvent t (fun s =>
    match s.pwr.reqs with
    | [] => s
    | q :: rest =>
      if h : q.dom < 12 then
        if !q.on then s
        else
          let s := { s with pwr.reqs := rest }
          finish q.cid Status.done 0 [] (if domOn s ⟨q.dom, h⟩ then s else domainOn ⟨q.dom, h⟩ s)
      else s) s

end Sys2Proof.Machine
end

