-- ==== Sys2Proof/Machine/Thermal.lean ====
section
/-!
DEFINITION. Heat and the system reference: the thermal steps (R535, R536, R539), REFCLK_SYS (R533).
-/
namespace Sys2Proof.Machine

/-- The entry and exit levels of the three steps, in 1/4 °C (R536). -/
def stepLevels : Fin 3 → Int × Int
  | 0 => (400, 388)
  | 1 => (420, 408)
  | 2 => (440, 400)

/-- One conversion judged against one step: ten at or above its entry level enter it, a thousand below its exit level leave it. -/
def judgeStep (x : ThermStep) (entry exit tj : Int) : ThermStep :=
  let above := if entry ≤ tj then x.above + 1 else 0
  let below := if tj < exit then x.below + 1 else 0
  if !x.on && decide (10 ≤ above) then { above := 0, below := 0, on := true }
  else if x.on && decide (1000 ≤ below) then { above := 0, below := 0, on := false }
  else { x with above := sat 10 above, below := sat 1000 below }

/-- Tj with the sensor that sets it: the highest reading of a sensor in a powered domain. -/
def hottest (s : State) (rs : List Int) : Int × Nat :=
  ((rs.zipIdx.filter fun p => domOn s (sensorDomain p.2)).foldl (fun m p =>
    match m with | none => some p | some q => if q.1 < p.1 then some p else some q) none).getD (0, 0)

/-- Entry into step 3, or its exit (R536): JUNCTION_OVERTEMP voids every product with an open window, and the thermal record is saved (R539). -/
def stepThree (on : Bool) (s : State) : State :=
  if on then
    let s := raise FaultCode.junctionOvertemp 0 { s with thm.saved2 := s.thm.step2Ns, thm.saved3 := s.thm.step3Ns }
    ((openAt s s.mot.line).filter fun p => !bit p.flags 0).foldl (fun s p => voidProduct p.num 3 FaultCode.junctionOvertemp s) s
  else clearFault FaultCode.junctionOvertemp s

/-- Entry into thinning, or its exit (R218, R220). -/
def stepTwo (on : Bool) (s : State) : State := notify Notice.twinThinned (put s.mil.nextLine 16 + flag on) { s with mil.thinning := on }

/-- What a changed step does (R536). -/
def stepActs (old : Vector ThermStep 3) (s : State) : State :=
  let s := settleShed s
  let s := if s.thm.steps[1].on != old[1].on then stepTwo s.thm.steps[1].on s else s
  if s.thm.steps[2].on != old[2].on then stepThree s.thm.steps[2].on s else s

/-- TEMP_SENSOR_CONVERSION (R535, R536): every 100 µs while the CPU domain runs. -/
def execTempSensorConversion (t : Nat) (readings : List Int) (s : State) : Host.Outcome State Fault Refusal :=
  onEvent t (fun s =>
    if !domOn s 2 || decide (s.now < s.thm.convAt + 100000) then s
    else
      let (tj, k) := hottest s (readings.take 24)
      let old := s.thm.steps
      let d := s.now - s.thm.convAt
      let s := { s with
        thm.temps := Vector.ofFn fun (i : Fin 24) => readings.getD i.val 0,
        thm.tj := tj,
        thm.tjSensor := k,
        thm.tjMax := max s.thm.tjMax tj,
        thm.convAt := s.now,
        thm.step2Ns := if old[1].on then s.thm.step2Ns + d else s.thm.step2Ns,
        thm.step3Ns := if old[2].on then s.thm.step3Ns + d else s.thm.step3Ns,
        thm.steps := Vector.ofFn fun (i : Fin 3) => judgeStep old[i] (stepLevels i).1 (stepLevels i).2 tj }
      let s := if tj < -80 ∧ !s.thm.coldSent then raise FaultCode.junctionCold 0 { s with thm.coldSent := true } else s
      stepActs old s) s

/-- The clock when REFCLK_SYS fails (R533): FREE stays, any other state becomes HOLDOVER with `err` all ones. -/
def clockNoRef (s : State) : State :=
  if s.time.clk.state = .free then s
  else enterHoldover 0 true (modClk (fun c => { c with stepOver := true }) s)

/-- Every permit is released at once. -/
def releaseAll (s : State) : State :=
  settlePermits { s with stl := s.stl.map fun st => { st with permit := false, withdraw := none } }

/-- REFCLK_SYS_FAIL (R533); before the control cores have started, the boot ROM only waits (R540). -/
def execRefclkSysFail (t : Nat) (s : State) : Host.Outcome State Fault Refusal :=
  onEvent t (fun s =>
    if s.pwr.refSysLost then s
    else
      let s := { s with pwr.refSysLost := true }
      if s.pwr.stage < 5 ∨ s.pwr.bootError ≠ 0 then s
      else clockNoRef (releaseAll (raise FaultCode.refclkSysLost 0 s))) s

/-- REFCLK_SYS_RECOVER (R533): the reference has been good for 10 ms, and the fault clears. -/
def execRefclkSysRecover (t : Nat) (s : State) : Host.Outcome State Fault Refusal :=
  onEvent t (fun s => if s.pwr.refSysLost then clearFault FaultCode.refclkSysLost { s with pwr.refSysLost := false } else s) s

end Sys2Proof.Machine
end

