-- ==== Sys2Proof/Machine/Reset.lean ====
section
/-!
DEFINITION. Resets (R525 to R527): what a reset keeps of every unit, the saves that come before an announced one (R522, R527), RESET, RESET_N low, the AON watchdog, the
junction trip (R537), the power-down notice, the loss of power (R98) and the supply of AON (R520).
-/
namespace Sys2Proof.Machine

/-! ### What is saved (R522) -/

/-- The write in progress completes (R480, R522). -/
def finishWrite (s : State) : State :=
  match s.led.writes with
  | [] => s
  | w :: _ => writeDurable w (popWrite (countWrite (physSector s (writeSector w)) s))

/-- The line index, the product number, the time floor with ρ, the times of the thermal steps and the sector write counts are saved (R98, R348, R483, R539). -/
def saveNumbers (s : State) : State :=
  let s := saveFloor s
  { s with
    mot.savedLine := s.mot.line,
    mot.savedProd := s.mot.nextProd,
    thm.saved2 := s.thm.step2Ns,
    thm.saved3 := s.thm.step3Ns,
    led.savedCounts := s.led.counts }

/-- Steps 2 to 4 of R522. Before the configuration region is read nothing is saved (R540). -/
def powerSaves (s : State) : State :=
  let s := if s.pwr.stage < 5 ∨ s.pwr.bootError ≠ 0 then s else saveNumbers (finishWrite s)
  let rest (ch : Fin 2) (s : State) : State := if s.well.chans[ch].state == 1 then selfRefresh ch s else s
  rest 1 (rest 0 s)

/-! ### What a reset keeps (R526) -/

/-- The device clock: its count goes on in the keeper; ρ, the floor and the UTC offset stand as saved (R347, R348, R351). -/
def keptClock (c : Clock) : Clock :=
  { acc := c.acc, rho := c.savedRho, savedRho := c.savedRho, floor := c.floor, floorAt := c.floorAt, floorUtc := c.floorUtc }

/-- Whether the keeper carries a time that counts as set over this reset: it has run without a break since then, and the clock was not FREE (R346, R347). -/
def keeperKept (s : State) : Bool := s.pwr.keeper && !(s.pwr.started && s.time.clk.state == .free)

/-- The fault counts run from cold reset; no fault stays active, and replay is due (R543, R548, R550). -/
def keptFaults (cold : Bool) (f : Faults) : Faults :=
  if cold then { replayDue := true }
  else { deviceCount := f.deviceCount, correctable := f.correctable, line := f.line, product := f.product, replayDue := true }

/-- The thermal record (R539). -/
def keptThermal (cold : Bool) (h : Thermal) : Thermal :=
  { tjMax := if cold then 0 else h.tjMax, step2Ns := h.saved2, step3Ns := h.saved3, saved2 := h.saved2, saved3 := h.saved3, trips := h.trips, lastTrip := h.lastTrip }

/-- The cores that are not retired start as at delivery: two in lockstep, a third as the spare, one alone single (R505, R507). -/
def coresAtBoot (cores : Vector CoreState 3) : Vector CoreState 3 :=
  let kept := (List.finRange 3).filter fun (k : Fin 3) => cores[k] != .retired
  Vector.ofFn fun (k : Fin 3) => newCores none kept k cores[k]

/-- The background scheduler: retirements, remaps, uses of spares and the moments of calibration stand in the configuration region. -/
def keptBackground (b : Background) : Background :=
  { cores := coresAtBoot b.cores, transient := b.transient, charges := b.charges, fwSlot := b.fwSlot,
    sram := b.sram.map (fun a => { a with seen := [] }), sramPass := b.sramPass, aged := b.aged, uses := b.uses, calAt := b.calAt }

/-- The settings of TOPOLOGY (R371). -/
def keptUrara (u : Urara) : Urara :=
  { topology := u.topology, ports := u.ports, upPort := u.upPort, trigAllow := u.trigAllow, timeSource := u.timeSource, timeDom1 := u.timeDom1, remotes := u.remotes }

/-- The check units keep their settings and a failed mark; their counters run from cold reset (R442, R451, R452). -/
def keptChecks (cold : Bool) (k : Checks) : Checks :=
  { units := k.units.map fun x =>
      if cold then { cfg := x.cfg, loadValue := x.loadValue, failed := x.failed } else x }

/-- The motion settings and the saved numbers (R96, R98). -/
def keptMotion (m : Motion) : Motion :=
  { cfg := m.cfg, pds := m.pds.map (fun p => { cfg := p.cfg }), savedLine := m.savedLine, savedProd := m.savedProd }

/-- The Ledger: every write that is not durable is abandoned, a calibration record whose commit word is durable is copied home (R480, R490), and the write counts stand as saved (R483). -/
def keptLedger (s : State) : Ledger :=
  let home := (s.led.staging.filter (·.committed)).foldl (fun s x => storeItem x.new s) s
  { ({} : Ledger) with
    remap := s.led.remap, used := s.led.used, failing := s.led.failing, lost := s.led.lost, rewritten := s.led.rewritten,
    counts := s.led.savedCounts, savedCounts := s.led.savedCounts, pass := s.led.pass, sparesOut := s.led.sparesOut,
    items := home.led.items, badSaved := s.led.badSaved, broken := s.led.broken }

/-- A record with the parts of it that are durable. -/
def keptRec (r : Rec) : Rec :=
  { r with
    firedLine := if bit r.local_ 1 then r.firedLine else none,
    final := if bit r.local_ 2 then r.final else none,
    slot := none }

/-- The final state of a record whose final part was not durable no longer counts in its manifest (R318). -/
def uncountFinal (m : Manifest) (r : Rec) : Manifest :=
  match r.final with
  | some f => if bit r.local_ 2 || !m.records.contains r.num then m
    else if f.kind = 1 then { m with verified := m.verified - 1 }
    else if f.kind = 2 then { m with voided := m.voided - 1 } else { m with unver := m.unver - 1 }
  | none => m

/-- A manifest without the records that were not durable. -/
def keptManifest (journal : List Rec) (m : Manifest) : Manifest :=
  let gone := journal.filter fun r => !bit r.local_ 0 && m.records.contains r.num
  let m := journal.foldl uncountFinal m
  let short := (gone.map fun r => 8 * (issueWords r).length).sum
  { m with
    records := m.records.filter fun n => !(gone.any fun r => r.num == n),
    issues := m.issues.take (m.issues.length - short), cids := [] }

/-- The Tally: bindings, pools, plans and the durable journal stand; record numbers go on after the highest durable record (R299, R304, R312, R439). -/
def keptTally (t : Tally) : Tally :=
  let gone := t.journal.filter fun r => !bit r.local_ 0
  { t with
    streams := t.streams.map (fun x => { x with ahead := [], man := x.man.map (keptManifest t.journal) }),
    closed := t.closed.map (keptManifest t.journal),
    journal := (t.journal.filter fun r => bit r.local_ 0).map keptRec,
    nextRec := gone.foldl (fun n r => min n r.num) t.nextRec,
    blocks := t.blocks.map (fun b => { b with rings := 0 }),
    highSent := false, slots := [], dispTop := 0, closing := [] }

/-- A saved binding stands, and its unit resynchronises as standby (R400, R403). -/
def keptTwin (x : Twin) : Twin :=
  if x.bound && x.bindCid == 0 then
    { bound := true, peer := x.peer, peerSerial := x.peerSerial, map := x.map, witOut := x.witOut, witIn := x.witIn, unit := x.unit, role := .copying, epochNum := x.epochNum }
  else {}

/-- The Krynto core: what its key sectors, the configuration region, the fuses and AON hold. A slot that was being written holds no image that boots. -/
def keptKrynto (s : State) : Krynto :=
  let arrived := match s.kry.staging with
    | some x => if h : x.ring < 16 then decide ((s.bar.work[x.ring]'h).inLeft = 0) else true
    | none => false
  let images := match s.kry.staging with
    | some x => if arrived then s.kry.images.set x.slot { empty := true } else s.kry.images
    | none => s.kry.images
  { s.kry with
    jobKeys := [], images := images, staging := none, approved := false, tested := false, hold := none, holds := [],
    katAt := 0, reseedAt := 0, requests := 0 }

/-- The Mill: the retirements, with the losses that count towards the next (R210, R183). -/
def keptMill (m : Mill) : Mill :=
  { slices := m.slices.map (fun x => { retired := x.retired, losses := x.losses }), retired := m.retired, uncovered := m.uncovered,
    sparesOut := m.sparesOut, calEpoch := m.calEpoch, placeEpoch := m.placeEpoch, placeDue := m.placeDue }

/-- The lanes: those out of service, and the counts of R288. -/
def keptLanes (cold : Bool) (l : Lanes) : Lanes :=
  { failed := l.failed,
    lane := Vector.ofFn fun (n : Fin 36) =>
      let x := l.lane[n]
      let y : Lane := { ser1 := Lane.bank[n].ser1, out := x.out }
      if cold then y else { y with lockN := x.lockN, lossN := x.lossN, badHdrs := x.badHdrs, unknown := x.unknown, errMsgs := x.errMsgs } }

/-- A Stall: its settings, and the counts of R264. -/
def keptStall (cold : Bool) (x : Stall) : Stall :=
  { enable := x.enable, rows := x.rows, spares := x.spares, cfg := x.cfg, counts := if cold then Vector.replicate 8 0 else x.counts }

/-- The Well: its description and repairs, with the counters of R477; its content reads as 0. -/
def keptWell (cold : Bool) (w : Well) : Well :=
  { x4 := w.x4, density := w.density, ranks := w.ranks, dimms := w.dimms, cfgRate := w.cfgRate, soft := w.soft, hard := w.hard, out := w.out, given := w.given,
    passes := if cold then 0 else w.passes,
    chans := w.chans.map fun (c : WellChan) =>
      if cold then {} else { corrected := c.corrected, uncorr := c.uncorr, poisonW := c.poisonW, srEntries := c.srEntries } }

/-- What AON and the board hold of power over a reset (R347, R520, R526). -/
def keptPower (s : State) : Power :=
  let p := s.pwr
  { aonMv := p.aonMv, vbat := p.vbat, onVbat := p.onVbat, keeper := keeperKept s, railsAt := p.railsAt, resetLow := p.resetLow, cause := p.cause,
    noticed := p.noticed, powerLost := p.powerLost, tripHeld := p.tripHeld, refSysLost := p.refSysLost, tap := p.tap }

/-- A reset (R526): every domain but AON returns to its reset state. A cold reset also clears what counts from cold reset. -/
def resetBlock (cold : Bool) (s : State) : State :=
  { ({} : State) with
    pending := s.pending, now := s.now, outbox := s.outbox, fresh := s.fresh,
    cmd := { nextCid := s.cmd.nextCid, usedIds := if cold then [] else s.cmd.usedIds },
    net := s.net.map fun p => { cfg := p.next.getD p.cfg },
    time := { clk := keptClock s.time.clk, utc := { offset := s.time.clk.floorUtc } },
    pwr := keptPower s,
    thm := keptThermal cold s.thm,
    flt := keptFaults cold s.flt,
    bgd := keptBackground s.bgd,
    node := s.node,
    ura := keptUrara s.ura,
    fwVersion := s.fwVersion,
    well := keptWell cold s.well,
    chk := keptChecks cold s.chk,
    job := { idleFrom := s.now },
    mot := keptMotion s.mot,
    led := keptLedger s,
    tal := keptTally s.tal,
    twn := keptTwin s.twn,
    kry := keptKrynto s,
    mil := keptMill s.mil,
    lan := keptLanes cold s.lan,
    stl := s.stl.map (keptStall cold) }

/-- Boot begins at stage 0x01: the boot ROM runs on the control cluster, PCIE is powered and the mailbox open (R528). Keys that a zeroise latch condemns are
cleared first, and the latch with them (R431). -/
def startBoot (cause : ResetCause) (s : State) : State :=
  { s with
    pwr.domains := ⟨#[true, true, true, false, true, false, false, false, false, false, false, false], rfl⟩,
    pwr.stage := 1, pwr.stageAt := s.now, pwr.cause := cause, pwr.bootError := 0, pwr.lanesDone := false,
    kry.latch := none }

/-- Whether nothing holds the device in reset: RESET_N is high, and no trip, notice or loss of power waits for it. -/
def outOfReset (s : State) : Bool := !s.pwr.resetLow && !s.pwr.tripHeld && !s.pwr.noticed && !s.pwr.powerLost

/-! ### The commands and events -/

/-- RESET (R527): the saves of R522 with each permit released, then a warm or a cold reset. It waits while a takeover runs (R540) and is never answered (R51). -/
def execReset (t cid : Nat) (s : State) : Host.Outcome State Fault Refusal :=
  onStart Op.reset t cid (fun c s =>
    let cold := parB c 0 0
    startBoot (if cold then .cold else .warmCmd) (resetBlock cold (powerSaves (dropPermits s)))) s

/-- RESET_PIN_ASSERT (R525, R526): RESET_N low for less than 1 µs is ignored. A device that a trip, a notice or a loss of power already holds in reset stays in it. -/
def execResetPinAssert (t lowNs : Nat) (s : State) : Host.Outcome State Fault Refusal :=
  onEvent t (fun s =>
    if s.pwr.resetLow || decide (lowNs < 1000) then s
    else
      let s := { s with pwr.resetLow := true }
      if s.pwr.tripHeld || s.pwr.noticed || s.pwr.powerLost then s
      else resetBlock false { s with pwr.cause := .resetPin }) s

/-- The cause that the release of RESET_N reports (R525, R537): a trip unless AON has lost its supplies, a power-on after a notice or a loss of power, else the reset that RESET_N
itself made, or the power-on that came before. -/
def releaseCause (s : State) : ResetCause :=
  if s.pwr.tripHeld then .thermal else if s.pwr.noticed || s.pwr.powerLost then .cold else s.pwr.cause

/-- RESET_N_RELEASE (R528): t0 and t1. AON must have its supply (R521). -/
def execResetNRelease (t : Nat) (s : State) : Host.Outcome State Fault Refusal :=
  onEvent t (fun s =>
    if !s.pwr.resetLow || s.pwr.onVbat then s
    else
      let cause := releaseCause s
      let s := if cause = .cold then resetBlock true s else s
      startBoot cause { s with pwr.resetLow := false, pwr.tripHeld := false, pwr.noticed := false, pwr.powerLost := false }) s

/-- WATCHDOG_RESET (R506, R525): a takeover is not done by t0 + 100 ms. -/
def execWatchdogReset (t : Nat) (s : State) : Host.Outcome State Fault Refusal :=
  onEvent t (fun s =>
    if s.bgd.takeover && decide (s.bgd.takeAt + 100000000 ≤ s.now) then startBoot .watchdog (resetBlock false s) else s) s

/-- JUNCTION_TRIP (R537, R539): the device is held in reset until RESET_N is pulsed or the supplies cycle, and the trip is recorded. -/
def execJunctionTrip (t : Nat) (s : State) : Host.Outcome State Fault Refusal :=
  onEvent t (fun s =>
    if s.pwr.powerLost || s.pwr.tripHeld then s
    else
      let s := resetBlock false { s with thm.trips := s.thm.trips + 1, thm.lastTrip := devSec s % 2 ^ 32 }
      { s with pwr.tripHeld := true }) s

/-- POWER_DOWN_NOTICE (R522): permits at once, the Ledger write, the saves, self-refresh, and the device holds itself in reset. -/
def execPowerDownNotice (t : Nat) (s : State) : Host.Outcome State Fault Refusal :=
  onEvent t (fun s =>
    if s.pwr.noticed || s.pwr.powerLost then s
    else
      let s := resetBlock false (powerSaves (releaseAll s))
      { s with pwr.noticed := true, pwr.railsAt := some s.now }) s

/-- AON loses both supplies: the keeper stops, and so does the latch of a trip (R520, R537, R570). -/
def aonLoss (s : State) : State := { s with pwr.keeper := false, pwr.tripHeld := false, pwr.powerLost := s.pwr.powerLost || s.pwr.tripHeld }

/-- UNANNOUNCED_POWER_LOSS (R98): nothing is saved. -/
def execUnannouncedPowerLoss (t : Nat) (aonLost : Bool) (s : State) : Host.Outcome State Fault Refusal :=
  onEvent t (fun s =>
    let s := if s.pwr.powerLost then s
      else
        let s := resetBlock false s
        { s with pwr.powerLost := true, pwr.railsAt := some (s.pwr.railsAt.getD s.now) }
    if aonLost then aonLoss s else s) s

/-- AON_SUPPLY_SWITCH (R520, R570): AON runs from VDD_AON at or above 0.72 V and from VBAT below it; with neither the keeper stops. -/
def execAonSupplySwitch (t vddAonMv : Nat) (vbat : Bool) (s : State) : Host.Outcome State Fault Refusal :=
  onEvent t (fun s =>
    let on := decide (vddAonMv < 720)
    let s := { s with pwr.aonMv := vddAonMv, pwr.vbat := vbat, pwr.onVbat := on }
    if on && !vbat then aonLoss s else s) s

end Sys2Proof.Machine
end

