-- ==== Sys2Proof/Machine/Boot.lean ====
section
/-!
DEFINITION. From reset to ready (R85, R528): the stages of boot, each ended by one event, and what becomes of the block at ready (R403, R548).
-/
namespace Sys2Proof.Machine

/-- Whether boot is in a stage and goes on: nothing holds the device in reset, and the system reference is there (R540). -/
def bootAt (s : State) (stage : Nat) : Bool := outOfReset s && !s.pwr.refSysLost && s.pwr.stage == stage

/-- Boot goes on in the next stage. -/
def bootTo (stage : Nat) (s : State) : State := { s with pwr.stage := stage, pwr.stageAt := s.now }

/-- Boot stops: MBX_STAGE reads 0x80 plus the stage, with the cause, and the mailbox stays open (R84, R85). -/
def bootFail (error : Nat) (s : State) : State := { s with pwr.stage := 0x80 + s.pwr.stage, pwr.bootError := error }

/-- BOOT_SELFTESTS_DONE (R436): t2. -/
def execBootSelftestsDone (t : Nat) (pass : Bool) (s : State) : Host.Outcome State Fault Refusal :=
  onEvent t (fun s =>
    if !bootAt s 1 then s
    else if pass then bootTo 2 { s with kry.tested := true, kry.katAt := s.now, kry.reseedAt := s.now }
    else bootFail 5 s) s

/-! ### The image (R412) -/

/-- The `boot_error` of the image in a slot; a slot marked empty never boots (R413). -/
def slotFailure (s : State) (slot : Fin 2) (v : ImgVerdict) : Option Nat := if s.kry.images[slot].empty then some 4 else imgFailure s v

/-- The image of a slot runs. -/
def bootImage (slot : Fin 2) (v : ImgVerdict) (s : State) : State :=
  bootTo 4 (setImage slot { header := v.header } { s with bgd.fwSlot := slot.val, fwVersion := s.fwVersion.set slot (imgVersion v.header) })

/-- BOOT_IMAGE_VERIFIED (R412): t3, t4 and t4′, with the findings on slots A and B. The active slot boots, else the other; when both fail boot stops at stage 0x83. -/
def execBootImageVerified (t : Nat) (a b : ImgVerdict) (s : State) : Host.Outcome State Fault Refusal :=
  onEvent t (fun s =>
    if !bootAt s 2 then s
    else
      let first : Fin 2 := if s.bgd.fwSlot = 0 then 0 else 1
      let other : Fin 2 := if s.bgd.fwSlot = 0 then 1 else 0
      let of_ (k : Fin 2) : ImgVerdict := if k = 0 then a else b
      match slotFailure s first (of_ first) with
      | none => bootImage first (of_ first) s
      | some e =>
        match slotFailure s other (of_ other) with
        | none => bootImage other (of_ other) s
        | some _ => bootFail e (bootTo 3 s)) s

/-! ### The control cores (R528) -/

/-- A configuration record of which both copies fail takes its delivery value (R482). -/
def deliveryValue (s : State) (h : LedgerHit) : State :=
  match h with
  | .net p _ => { s with net := s.net.set p {} }
  | .motion _ => { s with mot.cfg := {}, mot.pds := Vector.replicate 8 {} }
  | .stall k _ => { s with stl := upd s.stl k fun x => { counts := x.counts } }
  | .check u _ => { s with chk.units := upd s.chk.units u fun x => { x with
      cfg := (({} : Checks).units[u]).cfg, loadValue := (({} : Checks).units[u]).loadValue } }
  | _ => s

/-- The configuration region is read: failed records take their delivery values, the saved numbers go on 1,048,576 higher (R98, R482). -/
def readConfig (s : State) : State :=
  let s := s.led.broken.foldl deliveryValue { s with led.broken := [] }
  let line := s.mot.savedLine + 1048576
  { s with mot.line := line, mot.lb := line, mot.source := s.mot.cfg.primary, mot.nextProd := s.mot.savedProd + 1048576, mot.prodSince := 0 }

/-- The clock starts, once in a boot (R347). -/
def startClock (s : State) : State :=
  if s.pwr.started then s
  else
    let s := clockBoot s.pwr.keeper (s.now - s.pwr.railsAt.getD s.now) s
    { s with pwr.started := true, pwr.keeper := !s.pwr.onVbat || s.pwr.vbat, pwr.railsAt := none }

/-- BOOT_CORES_STARTED (R528): t5. The configuration region is read, and every domain powered. -/
def execBootCoresStarted (t : Nat) (configOk : Bool) (s : State) : Host.Outcome State Fault Refusal :=
  onEvent t (fun s =>
    if !bootAt s 4 then s
    else if !configOk then bootFail 6 s
    else setInt 37 { (bootTo 5 (startClock (readConfig s))) with pwr.domains := Vector.replicate 12 true }) s

/-! ### The Well (R455, R462) -/

/-- Why the Well cannot be used before it is trained (R455). -/
def wellFailure (s : State) (spd : SpdRead) : Option Nat :=
  let w := s.well
  if w.dimms && (spd.x4 != w.x4 || spd.density != w.density || spd.ranks != w.ranks || !spd.alike) then some 1
  else if !wellSupported w.density w.ranks w.x4 || (w.dimms && !spd.formOk) then some 3 else none

/-- BOOT_WELL_TRAINED (R455, R462, R473): t6, with the SPD of the modules and the code of the highest rate that trained. The recorded soft repairs are applied again, and every lane
that has a function hunts (R275). -/
def execBootWellTrained (t : Nat) (spd : SpdRead) (rate : Option Nat) (s : State) : Host.Outcome State Fault Refusal :=
  onEvent t (fun s =>
    if !bootAt s 5 then s
    else match wellFailure s spd with
    | some e => bootFail e s
    | none =>
      match rate with
      | none => bootFail 2 s
      | some r =>
        if r = 0 then bootFail 2 s
        else
          let r := min r s.well.cfgRate
          let s := { s with
            well.bytes := wellCapacity s.well.x4 s.well.density s.well.ranks,
            well.rate := r,
            well.maxRate := if s.well.dimms then spd.maxRate else 7,
            well.reduced := decide (r < s.well.cfgRate),
            well.chans := s.well.chans.map fun c => { c with state := 1, zqAt := s.now } }
          ((List.range 36).filter (laneWanted s)).foldl (fun s n => huntLane n s) (bootTo 6 s)) s

/-- BOOT_LANE_STAGE_END (R275): t7, when every lane with a function is UP, or 20 ms after the stage began. -/
def execBootLaneStageEnd (t : Nat) (s : State) : Host.Outcome State Fault Refusal :=
  onEvent t (fun s =>
    if bootAt s 6 && (decide (s.pwr.stageAt + 20000000 ≤ s.now) || ((List.range 36).filter (laneWanted s)).all (laneUp s)) then
      { s with pwr.lanesDone := true }
    else s) s

/-! ### Ready (R403, R548) -/

/-- The Tally and the queue after a reset: a unit with a saved binding copies from the lead, any other replays its journal (R403, R548). -/
def resume (s : State) : State :=
  if s.twn.bound then becomeCopying { (abandonAll s) with flt.replayDue := false } else replay none s

/-- DEVICE_READY (R528): t8. The mailbox closes, `ready` is raised, and replay runs. -/
def execDeviceReady (t : Nat) (s : State) : Host.Outcome State Fault Refusal :=
  onEvent t (fun s =>
    if !bootAt s 6 || !s.pwr.lanesDone then s
    else
      let s := setInt 32 { (bootTo 7 s) with
        pwr.ready := true, pwr.readySec := devSec s % 2 ^ 32, bar.mbxBusy := false, bar.mbxRun := false, bar.mbxOp := 0 }
      let s := if s.well.reduced then raise FaultCode.wellRateReduced 0 s else s
      resume (setMode s)) s

end Sys2Proof.Machine
end

