-- ==== Sys2Proof/Machine/Learn.lean ====
section
/-!
DEFINITION. Placement learning (R188 to R195): target runs and their results, live tracking, and the rows PLACEMENT_LEARN and IMAGE_GRADED.
-/
namespace Sys2Proof.Machine

/-! ### PLACEMENT_LEARN (R188) -/

/-- The refusal of a target run (R188). -/
def learnRefusal (s : State) (planes : Nat) : Option Nat :=
  let ps := planesOf planes
  match (activeJobs s).find? fun j => ps.all fun p => j.desc.planes.any fun q => q.plane == p with
  | none => some Status.learnNoJob
  | some j =>
    let short := j.desc.tracks.any fun t => decide (t.length < 128 * ps.length)
    let seen := (List.range j.desc.tracks.length).all fun t =>
      let xs := (elems s.vis.sensors).filter fun x => x.on && bit x.tracks t
      !xs.isEmpty && xs.all fun x => ps.all fun p => resolves s x p
    if short then some Status.learnTooLong
    else if !domOn s 11 then some Status.visionOff
    else if !seen then some Status.learnResolution
    else none

/-- The next product of every track of the active job becomes a target (R189). -/
def wantTargets (s : State) : State :=
  match (activeJobs s).head? with
  | none => s
  | some j => { s with prod.wants := s.prod.wants ++ (List.range j.desc.tracks.length).map fun t => (t, 1) }

/-- Live tracking turned on or off on planes (R188); what was collected on them is dropped. -/
def setLive (planes : Nat) (on : Bool) (s : State) : State :=
  let live := if on then s.mil.live ||| planes else s.mil.live ^^^ (s.mil.live &&& planes)
  let gone (x : LiveRow) : Bool := match ((stallOf s x.stall).rows[x.row]?) with | some r => bit planes r.plane | none => true
  { s with mil.live := live, mil.liveRows := s.mil.liveRows.filter fun x => !gone x }

/-- PLACEMENT_LEARN (R188). -/
def execPlacementLearn (t cid : Nat) (s : State) : Host.Outcome State Fault Refusal :=
  onStart Op.placementLearn t cid (fun c s =>
    let planes := parF c 0 7 0
    let passes := parF c 1 3 0
    let cls := parF c 1 11 8
    if passes = 1 ∨ 8 < passes ∨ (passes ≠ 0 ∧ cls = 0) then refuse c Status.badLearn s
    else if passes = 0 then done c (setLive planes (parB c 1 4) s)
    else match learnRefusal s planes with
      | some st => refuse c st s
      | none =>
        if s.mil.learn.isSome then refuse c Status.calRunning s
        else
          let s := setLive planes (parB c 1 4) s
          wantTargets { keepEpochs s with mil.learn := some { cid := c.cid, planes := planes, cls := cls, passes := passes, pass := 1 } }) s

/-! ### Results of a target run (R190 to R193) -/

/-- A mean rounded half up. -/
def meanHalfUp (l : List Int) : Int := (2 * l.sum + l.length) / (2 * max 1 l.length)

/-- The median of a list; of an even number of values the mean of the middle two, rounded half up. -/
def median (l : List Int) : Int :=
  let r := risingInts l
  let n := r.length
  if n % 2 = 1 then r.getD (n / 2) 0 else meanHalfUp [r.getD (n / 2 - 1) 0, r.getD (n / 2) 0]

/-- Whether values differ by at most 4 (R191). -/
def closeBy (l : List Int) : Bool := match lowest l, highest l with | some a, some b => decide (b - a ≤ 4) | _, _ => false

/-- What the passes found of one element: in how many passes, and its accepted position and residual (R191). -/
structure Found where
  elem   : Elem
  passes : Nat
  value  : Option (Int × Int)
  deriving DecidableEq, Repr

/-- What a target run found of an element (R190, R191). -/
def foundOf (l : Learn) (e : Elem) : Found :=
  let ds := l.dots.filter fun d => d.2.stall == e.stall && d.2.chan == e.chan
  let n := (ds.map (·.1)).eraseDups.length
  let us := ds.map (·.2.u)
  let rs := ds.map (·.2.res)
  { elem := e, passes := n, value := if n = l.passes ∧ closeBy us ∧ closeBy rs then some (meanHalfUp us, meanHalfUp rs) else none }

/-- The elements that a target run judges on a plane: ranked, within a track's across range, on Stalls whose run goes on (R189, R193, R195). -/
def judgedElems (s : State) (l : Learn) (plane : Nat) : List Elem :=
  let ep := epochOf s s.mil.placeEpochs s.mil.placeEpoch
  let tracks := ((activeJobs s).map fun j => j.desc.tracks).flatMap id
  (ranked s ep plane).filter fun e =>
    !(l.ended.contains e.stall) && !(s.mil.retired.any fun r => r.stall == e.stall && r.channel == e.chan)
      && tracks.any fun t => decide (64 * (t.start : Int) ≤ e.u) && decide (e.u < 64 * (t.stop : Int))

/-- The body that a map starts from: the one in force for the head reported, or a new one with `dev` 0, `fine` 32 and row fields 0, which keeps the tolerances of the old
(R193). -/
def baseMap (s : State) (k : Nat) : List Byte :=
  let old := itemBody s (0x100 + k)
  if old.isSome ∧ itemHead s (0x100 + k) = (stallOf s k).headId then old.getD []
  else
    let w0 := match old with | some b => fld (bodyWord b 0) 55 32 | none => put 1 8
    wordsBytes ([word (put w0 32 + put 1 8 + k), ((stallOf s k).headId).getD 0] ++ List.replicate 40 0
      ++ List.replicate 4352 (word ((List.range 4).map fun i => put (32 * 1024) (16 * i)).sum))

/-- New fields of one row (R192): `row_across`, W and, per channel, `dev` and `fine`, none where the channel is to be retired; or nothing where a row field would leave its
range. -/
def rowResult (map : List Byte) (r : Nat) (g : GeomRow) (vals : List (Elem × Int × Int)) : Option (Int × Int × List (Nat × Option (Int × Nat))) :=
  let base := if r < 32 then 0 else 16384
  let nominal (c : Nat) : Int :=
    let j : Nat := c - (base + g.first)
    if g.reverse then (g.origin : Int) - j * g.pitch else (g.origin : Int) + j * g.pitch
  let w0 : Int := rowW map r g
  let pos := vals.map fun v => (v.1.chan, v.2.1 - nominal v.1.chan, 64 * w0 + mapFine map v.1.chan - v.2.2)
  let across := median (pos.map (·.2.1))
  let w := median (pos.map (·.2.2)) / 64
  let lines := w - g.along
  if decide (0 ≤ w) && decide (w ≤ 511) && decide (-128 ≤ lines) && decide (lines ≤ 127) then
    some (across, lines, pos.map fun p =>
      let dev := p.2.1 - across
      let fine := p.2.2 - 64 * w
      if decide (-512 ≤ dev) && decide (dev ≤ 511) && decide (-8 ≤ fine) && decide (fine ≤ 71) then (p.1, some (dev, clampTo 63 fine)) else (p.1, none))
  else none

/-- One channel's word in a map (R172). -/
def setChan (ws : List W64) (c : Nat) (dev : Int) (fine : Nat) : List W64 :=
  ws.set (42 + c / 4) (word (let w := (ws.getD (42 + c / 4) 0).toNat
    w - put (bits w (16 * (c % 4) + 15) (16 * (c % 4))) (16 * (c % 4)) + put (put fine 10 + unsigned dev 10) (16 * (c % 4))))

/-- The row fields in a map (R172). -/
def setRow (ws : List W64) (r : Nat) (across lines : Int) : List W64 :=
  ws.set (2 + r) (word (let w := (ws.getD (2 + r) 0).toNat; w / 2 ^ 40 * 2 ^ 40 + put (unsigned lines 8) 32 + unsigned across 32))

/-- The results of the rows of one Stall: the new map words with the channels to be retired, or nothing where a row is out of range (R192). -/
def stallResult (s : State) (k : Nat) (vals : List (Elem × Int × Int)) : Option (List W64 × List Nat) :=
  let map := baseMap s k
  (allRows (stallOf s k)).foldl (fun acc r =>
    let base := if r.1 < 32 then 0 else 16384
    let mine := vals.filter fun v => v.1.stall == k && within (base + r.2.first) (base + r.2.first + r.2.count) v.1.chan
    match acc with
    | none => none
    | some (ws, out) =>
      if mine.isEmpty then acc
      else match rowResult map r.1 r.2 mine with
        | none => none
        | some (across, lines, cs) =>
          let ws := setRow ws r.1 across lines
          some (cs.foldl (fun ws c => match c.2 with | some v => setChan ws c.1 v.1 v.2 | none => ws) ws,
                out ++ cs.filterMap fun c => if c.2.isNone then some c.1 else none)) (some (wordsOf map, []))

/-- Map words with their quality and the head they were learned on (R172, R192, R193). -/
def finishMap (s : State) (k quality : Nat) (ws : List W64) : List W64 :=
  let w0 := (ws.getD 0 0).toNat
  (ws.set 0 (word (w0 - put (bits w0 31 16) 16 + put quality 16))).set 1 (((stallOf s k).headId).getD 0)

/-- The plane items that a target run writes and the elements it retires: the planes whose results stand, the Stalls whose map is in range (R191 to
R193). -/
def finishLearn (l : Learn) (s : State) : State :=
  let founds := (planesOf l.planes).map fun p => (judgedElems s l p).map (foundOf l)
  let measured (fs : List Found) : Nat := (fs.filter fun f => f.passes != 0).length
  let disagree (fs : List Found) : Nat := (fs.filter fun f => f.passes != 0 && f.value.isNone).length
  let bad := founds.filter fun fs => decide (measured fs < 100 * disagree fs)
  let good := (founds.filter fun fs => decide (100 * disagree fs ≤ measured fs)).flatMap id
  let s := bad.foldl (fun s _ => raise FaultCode.calDisagree 0 s) s
  let unseen := (good.filter fun f => f.passes == 0).map fun f => (f.elem.stall, f.elem.chan)
  let vals := good.filterMap fun f => f.value.map fun v => (f.elem, v.1, v.2)
  let stalls := (List.range 24).filter fun k => vals.any fun v => v.1.stall == k
  let results := stalls.map fun k => (k, stallResult s k vals)
  let s := (results.filter fun r => r.2.isNone).foldl (fun s _ => raise FaultCode.placementRange 0 s) s
  let maps := results.filterMap fun r => r.2.map fun x =>
    let m := (good.filter fun f => f.elem.stall == r.1 && f.passes == l.passes).length
    let a := (vals.filter fun v => v.1.stall == r.1).length
    let q := 65535 * a / max 1 m
    (r.1, q, finishMap s r.1 q x.1, x.2)
  let gone := unseen ++ maps.flatMap fun m => m.2.2.2.map fun c => (m.1, c)
  let s := gone.foldl (fun s g => retireElement g.1 g.2 6 s) { s with mil.learn := none }
  let out0 := (maps.map (·.2.1)).foldl min 0xFFFF
  let res := [word (if maps.isEmpty then 0 else out0), word gone.length]
  if maps.isEmpty then finish l.cid Status.done 0 res s
  else maps.zipIdx.foldl (fun s m =>
    let last := m.2 + 1 == maps.length
    putCal { item := 0x100 + m.1.1, body := wordsBytes m.1.2.2.1, quality := m.1.2.1, origin := 3 } (if last then l.cid else 0) res s) s

/-- The measurement of one target product joins the run; after the last product of a pass the next pass starts or the run ends (R189 to R191). -/
def noteTarget (dots : List Dot64) (s : State) : State :=
  match s.mil.learn with
  | none => s
  | some l =>
    let tracks := match (activeJobs s).head? with | some j => j.desc.tracks.length | none => 0
    let l := { l with dots := l.dots ++ dots.map fun d => (l.pass, d), seen := l.seen + 1 }
    if l.seen < tracks then { s with mil.learn := some l }
    else if l.pass < l.passes then wantTargets { s with mil.learn := some { l with pass := l.pass + 1, seen := 0 } }
    else finishLearn l s

/-! ### Live tracking (R194) -/

/-- The latest body of an item: the one on its way, or the one in force. -/
def latestBody (s : State) (item : Nat) : Option (List Byte) :=
  match s.led.staging.reverse.find? fun w => w.new.item == item with
  | some w => some w.new.body
  | none => itemBody s item

/-- The correction of two estimates, each a sum of 32 offsets: they agree within 2/64, their mean is at least 4/64, and it is clamped to 8/64 (R194). -/
def liveCorrection (a b : Int) : Int :=
  if (a - b).natAbs ≤ 64 ∧ 256 ≤ (a + b).natAbs then
    let m := (a + b + 32) / 64
    if m < -8 then -8 else if 8 < m then 8 else m
  else 0

/-- A correction of a row: `row_across` by the across mean; `fine` of every element against the along mean, refused where one would leave 0 to 63 (R190, R194). -/
def correctRow (stall row : Nat) (across along : Int) (s : State) : State :=
  match latestBody s (0x100 + stall), (stallOf s stall).rows[row]? with
  | some body, some g =>
    let cs := (List.range g.count).map fun i => g.first + i
    let bad := along != 0 && cs.any fun c => decide ((mapFine body c : Int) - along < 0) || decide (63 < (mapFine body c : Int) - along)
    let s := if bad then raise FaultCode.placementRange 0 s else s
    let along := if bad then 0 else along
    if across = 0 ∧ along = 0 then s
    else
      let ws := setRow (wordsOf body) row (mapAcross body row + across) (mapLines body row)
      let ws := if along = 0 then ws else cs.foldl (fun ws c => setChan ws c (mapDev body c) ((mapFine body c : Int) - along).toNat) ws
      putCal { item := 0x100 + stall, body := wordsBytes ws, quality := fld (bodyWord body 0) 31 16, origin := 3 } 0 []
        { s with mil.tracked := s.mil.tracked ++ [(stall, row)] }
  | _, _ => s

/-- Every row with 32 products forms an estimate, and two that agree correct it, at most once in 10 s (R194). -/
def settleLive (s : State) : State :=
  s.mil.liveRows.foldl (fun s x =>
    if x.across.length < 32 then s
    else
      let est := ((x.across.take 32).sum, (x.along.take 32).sum)
      let free := match x.fixed with | some m => decide (m + 10000000000 ≤ s.now) | none => true
      let fix := match x.last with
        | some l => if free then (liveCorrection l.1 est.1, liveCorrection l.2 est.2) else (0, 0)
        | none => (0, 0)
      let did := fix.1 != 0 || fix.2 != 0
      let y := { x with across := x.across.drop 32, along := x.along.drop 32, last := if did then none else some est,
                        fixed := if did then some s.now else x.fixed }
      let s := { s with mil.liveRows := s.mil.liveRows.map fun z => if z.stall = x.stall ∧ z.row = x.row then y else z }
      if did then correctRow x.stall x.row fix.1 fix.2 s else s) s

/-! ### IMAGE_GRADED (R190, R337 to R339, R495) -/

/-- The result of one image joins the first image of the code that names the frame and waits. -/
def gradeImages (sensor frame : Nat) (g : ImageResult) : List VerImage → List VerImage
  | [] => []
  | i :: is => if i.sensor == sensor && i.frame == frame && i.result.isNone then { i with result := some g } :: is else i :: gradeImages sensor frame g is

/-- The track of a target product that is queued or was. -/
def targetTrack (s : State) (product kind : Nat) : Option Nat :=
  (productOf s product).bind fun p => if p.target = kind then some p.track else none

/-- IMAGE_GRADED (R337): the grading of one image of a code ends, or the measurement of a target product. -/
def execImageGraded (t record frame : Nat) (sensor : Fin 8) (g : ImageResult) (s : State) : Host.Outcome State Fault Refusal :=
  onEvent t (fun s =>
    match g with
    | .target p dots => if (targetTrack s p 1).isSome then noteTarget dots (modProduct p (fun p => { p with target := 3 }) s) else s
    | .patches p means =>
      match targetTrack s p 2 with
      | none => s
      | some k =>
        modProduct p (fun p => { p with target := 3 })
          { s with led.runs := s.led.runs.map fun r => if r.item < 0x40 then { r with patches := r.patches ++ [(k, means)] } else r }
    | g =>
      let s := { s with vis.codes := s.vis.codes.map fun v =>
          if v.rec_ = record then { v with images := gradeImages sensor.val frame g v.images } else v }
      settleLive (dropFrames (settleVerify s))) s

end Sys2Proof.Machine
end

