-- ==== Sys2Proof/Machine/Tamper.lean ====
section
/-!
DEFINITION. Tamper sensing and holds (R430 to R432), the clearing of device-class faults (R541, R548), Square timeouts (R20) and the test access port (R564).
-/
namespace Sys2Proof.Machine

/-! ### Tamper sensors (R430, R431) -/

/-- Whether the tamper logic senses: AON has a supply (R431, R520). -/
def tamperSenses (s : State) : Bool := !s.pwr.onVbat || s.pwr.vbat

/-- The cause of a sensor in the tamper log (R434). -/
def tamperCode : TamperCause → Nat
  | .mesh => 1 | .loop0 => 2 | .loop1 => 3 | .light => 4 | .tempHigh => 7 | .tempLow => 7

/-- Whether a sensor acts: a loop that is armed (R420), the light sensor only while VDD_AON supplies the domain. -/
def sensorActs (s : State) : TamperCause → Bool
  | .loop0 => bit s.kry.policy 2
  | .loop1 => bit s.kry.policy 3
  | .light => !s.pwr.onVbat
  | _ => true

/-- TAMPER_TRIP (R430, R431). -/
def execTamperTrip (t : Nat) (cause : TamperCause) (s : State) : Host.Outcome State Fault Refusal :=
  onEvent t (fun s => if tamperSenses s && sensorActs s cause then zeroise (tamperCode cause) s else s) s

/-- ZEROISE_RESET (R431): t3 and t4, while the CPU domain is powered: no key sector remains, and the device resets. -/
def execZeroiseReset (t : Nat) (s : State) : Host.Outcome State Fault Refusal :=
  onEvent t (fun s => if s.kry.latch.isSome && domOn s 2 then startBoot .tamper (resetBlock false s) else s) s

/-- TAMPER_HOLD_START (R430): the voltage or the clock sensor trips, the SEC clock stops, and KRYNTO_HOLD is raised. On VBAT alone a low VBAT is recorded only, and the clock is not sensed. -/
def execTamperHoldStart (t : Nat) (clockSensor : Bool) (s : State) : Host.Outcome State Fault Refusal :=
  onEvent t (fun s =>
    if !tamperSenses s || s.kry.hold.isSome || s.kry.latch.isSome then s
    else if s.pwr.onVbat || !domOn s 1 then (if clockSensor then s else logTamper 5 s)
    else
      let s := logTamper (if clockSensor then 6 else 5) s
      raise FaultCode.kryntoHold 0 { s with
        kry.hold := some s.now, kry.holds := s.now :: s.kry.holds.filter fun m => decide (s.now < m + 1000000000) }) s

/-- Whether a hold zeroises: it has lasted 10 ms, or is the 16th within 1 s (R430). -/
def holdFatal (s : State) : Bool :=
  match s.kry.hold with
  | some m => decide (m + 10000000 ≤ s.now) || decide (16 ≤ s.kry.holds.length)
  | none => false

/-- TAMPER_HOLD_CLEAR (R430): 1 ms after its condition has ended. -/
def execTamperHoldClear (t : Nat) (s : State) : Host.Outcome State Fault Refusal :=
  onEvent t (fun s =>
    match s.kry.hold with
    | some m => if holdFatal s || decide (s.now < m + 1000000) then s else clearFault FaultCode.kryntoHold { s with kry.hold := none }
    | none => s) s

/-- TAMPER_HOLD_TIMEOUT (R430): the cause of the hold is in the log already, and zeroisation is recorded under the same one. -/
def execTamperHoldTimeout (t : Nat) (s : State) : Host.Outcome State Fault Refusal :=
  onEvent t (fun s => if holdFatal s then zeroise ((s.kry.log.head?.map (·.cause)).getD 5) s else s) s

/-! ### Device-class faults that clear (R541, R544) -/

/-- Whether the clearing condition of a device-class fault holds (R544). The others do not clear, or clear with a step of their own. -/
def clears (s : State) (code : Nat) : Bool :=
  if code = FaultCode.junctionOvertemp then !s.thm.steps[2].on
  else if code = FaultCode.refclkSysLost then !s.pwr.refSysLost
  else if code = FaultCode.refclkLost then !s.lan.failed[0] || !s.lan.failed[1]
  else if code = FaultCode.kryntoHold then s.kry.hold.isNone
  else if code = FaultCode.twinDiverged then s.twn.role != .synced && s.twn.role != .lead
  else if code = FaultCode.millDomainLost then !s.mil.lost[0] && !s.mil.lost[1]
  else false

/-- DEVICE_FAULT_CLEAR (R541, R548). -/
def execDeviceFaultClear (t code : Nat) (s : State) : Host.Outcome State Fault Refusal :=
  onEvent t (fun s => if clears s code then clearFault code s else s) s

/-! ### The Square (R20) -/

/-- SQUARE_TIMEOUT (R20, R208): the acknowledge of a crossing has not returned. The result of a Mill line that waits for it counts as absent, and no slice is charged. -/
def execSquareTimeout (t line : Nat) (aon : Bool) (waited : Nat) (s : State) : Host.Outcome State Fault Refusal :=
  onEvent t (fun s =>
    if waited ≤ (if aon then 100000 else 2000) then s
    else
      let s := raise FaultCode.squareTimeout line s
      match lineSlot s line with
      | some l => if aon then s else (match l.awaiting.head? with | some k => takeResult line k (.absent 6) s | none => s)
      | none => s) s

/-! ### The test access port (R564) -/

/-- Whether an instruction drives or disconnects balls. -/
def tapDrives : TapInstr → Bool
  | .extest => true | .clamp => true | .highz => true | .extestPulse => true | .extestTrain => true
  | _ => false

/-- TAP_INSTRUCTION_LOAD (R564): an instruction that acts on the balls is loaded only while RESET_N holds the device in reset. -/
def execTapInstructionLoad (t : Nat) (i : TapInstr) (s : State) : Host.Outcome State Fault Refusal :=
  onEvent t (fun s => { s with pwr.tap := if tapDrives i && !s.pwr.resetLow then .bypass else i }) s

end Sys2Proof.Machine
end

