-- ==== Sys2Proof/Machine/Mailbox.lean ====
section
/-!
DEFINITION. The mailbox before ready (R84, R86): its four operations and their end.
-/
namespace Sys2Proof.Machine

/-- A mailbox operation of a code has been started by a write of MBX_OP and its transfers have not begun. -/
def mbxReady (s : State) (op : Nat) : Bool := mbxOpen s && domOn s 4 && s.bar.mbxBusy && s.bar.mbxOp == op && !s.bar.mbxRun

/-- Argument i as a number. -/
def mbxArgN (s : State) (i : Fin 4) : Nat := (s.bar.mbxArg[i]).toNat

/-- An object is written to host memory at arg0, arg1 bytes of it at most; `out` counts the bytes (R86). -/
def mbxWrite (bs : List Byte) (s : State) : State :=
  let data := bs.take (mbxArgN s 1)
  emit (.hostBytes (mbxArgN s 0) data) { s with bar.mbxRun := true, bar.mbxOut := data.length % 2 ^ 32 }

/-- MBX_BOOT_LOG (R86). -/
def execMbxBootLog (t : Nat) (s : State) : Host.Outcome State Fault Refusal :=
  onEvent t (fun s => if mbxReady s 1 then mbxWrite Config.bootLog s else s) s

/-- MBX_DEVICE_CERT (R86): the Fjarow device certificate. -/
def execMbxDeviceCert (t : Nat) (s : State) : Host.Outcome State Fault Refusal :=
  onEvent t (fun s => if mbxReady s 2 then mbxWrite (Config.cert 0) s else s) s

/-- MBX_RECOVERY_LOAD (R86): the image is read from the host. -/
def execMbxRecoveryLoad (t : Nat) (s : State) : Host.Outcome State Fault Refusal :=
  onEvent t (fun s => if mbxReady s 3 then { s with bar.mbxRun := true } else s) s

/-- Boot begins again at stage 0x01 (R86). -/
def retryBoot (s : State) : State := { s with pwr.stage := 1, pwr.stageAt := s.now, pwr.bootError := 0, pwr.lanesDone := false }

/-- MBX_RETRY_BOOT (R86). -/
def execMbxRetryBoot (t : Nat) (s : State) : Host.Outcome State Fault Refusal :=
  onEvent t (fun s => if mbxReady s 4 then retryBoot { s with bar.mbxRun := true } else s) s

/-- The mailbox operation ends with a result: `busy` clears, and the cause `mbx` is raised (R81, R84). -/
def mbxEnd (result : Nat) (s : State) : State :=
  setInt 33 { s with bar.mbxResult := result, bar.mbxBusy := false, bar.mbxRun := false, bar.mbxOp := 0 }

/-- A recovery image: refused for a slot that does not exist, a signature or the rollback check; written to its slot, which a flash error leaves empty, and boot begins
again (R86, R412, R413). -/
def endRecovery (v : ImgVerdict) (flashOk : Bool) (s : State) : State :=
  if 1 < mbxArgN s 2 then mbxEnd 1 s
  else
    let slot : Fin 2 := if mbxArgN s 2 = 0 then 0 else 1
    match imgFailure s v with
    | some e => mbxEnd (if e = 2 then 3 else 2) s
    | none =>
      if flashOk then
        mbxEnd 0 (retryBoot (setImage slot { header := v.header } { s with fwVersion := s.fwVersion.set slot (imgVersion v.header) }))
      else mbxEnd 4 (emptyImage slot s)

/-- MAILBOX_OPERATION_END (R84, R86). -/
def execMailboxOperationEnd (t : Nat) (v : ImgVerdict) (flashOk : Bool) (s : State) : Host.Outcome State Fault Refusal :=
  onEvent t (fun s =>
    if !(s.bar.mbxBusy && s.bar.mbxRun) then s
    else if s.bar.mbxOp = 3 then endRecovery v flashOk s
    else mbxEnd 0 s) s

end Sys2Proof.Machine
end

