-- ==== Sys2Proof/Machine/Net.lean ====
section
/-!
DEFINITION. The Ethernet ports beside commands (R55): own addresses, the next hop of the record stream, ARP, Neighbor Discovery, echo requests, router
advertisements, and the rate hunt. Addresses are numbers with byte 0 in bits [7:0], as NET_CONFIG lays them out.
-/
namespace Sys2Proof.Machine

/-- Whether a port takes part in the network: NET is powered and the port enabled. -/
def portOn (s : State) (p : Fin 2) : Bool := domOn s 3 && s.net[p].cfg.enable

/-- The set address of a port. -/
def setAddress (n : NetCfg) : Nat := n.ipLo.toNat + 2 ^ 64 * n.ipHi.toNat

/-- The link-local address of a port: FE80 and the modified EUI-64 of its MAC address (R55); the first octet of a MAC address is bits [47:40]. -/
def linkLocal (p : Nat) (n : NetCfg) : Nat :=
  let m := macInUse p n
  let o := fun i => bits m (47 - 8 * i) (40 - 8 * i)
  leNat ([0xFE, 0x80, 0, 0, 0, 0, 0, 0, o 0 ^^^ 2, o 1, o 2, 0xFF, 0xFE, o 3, o 4, o 5].map fun x => BitVec.ofNat 8 x)

/-- The addresses a port answers on (R55). -/
def ownAddresses (p : Nat) (n : NetCfg) : List Nat :=
  (if setAddress n = 0 then [] else [setAddress n]) ++ (if n.ipv6 then [linkLocal p n] else [])

/-- The number of bytes in network order, the first one highest. -/
def netOrder (bytes x : Nat) : Nat := leNat (leBytes bytes x).reverse

/-- Whether an address lies in a port's prefix. -/
def onLink (n : NetCfg) (x : Nat) : Bool :=
  let bytes := if n.ipv6 then 16 else 4
  let shift := 8 * bytes - n.pfxLen
  netOrder bytes x / 2 ^ shift == netOrder bytes (setAddress n) / 2 ^ shift

/-- The next hop of a port's record stream: the receiver itself, or the gateway or default router for one outside the prefix (R55). -/
def nextHop (q : NetPort) : Nat :=
  let n := q.cfg
  let dest := n.recLo.toNat + 2 ^ 64 * n.recHi.toNat
  let hop := if n.ipv6 then q.router else n.gateway
  if onLink n dest || hop == 0 || (n.ipv6 && netOrder 16 dest / 2 ^ 118 == 0x3FA) then dest else hop

/-- The link address known for an address on a port. -/
def linkAddress (s : State) (p : Fin 2) (x : Nat) : Option Nat := (s.net[p].neigh.find? fun e => e.1 == x).map (·.2)

/-- An ARP request or a Neighbor Solicitation for an address leaves: kind 3. -/
def askNeighbour (p : Fin 2) (x : Nat) (s : State) : State :=
  emit (.eth p.val 3 x (leBytes 6 (macInUse p.val s.net[p].cfg))) s

/-- An answer to a request for an address of the port leaves: kind 4 an ARP reply, kind 5 a Neighbor Advertisement. -/
def answerNeighbour (kind : Nat) (p : Fin 2) (target sender : Nat) (s : State) : State :=
  emit (.eth p.val kind sender (leBytes 16 target ++ leBytes 6 (macInUse p.val s.net[p].cfg))) s

/-- ARP_REQUEST_RECEIVE (R55): an IPv4 port answers for its own address. -/
def execArpRequestReceive (t : Nat) (p : Fin 2) (target sender : Nat) (s : State) : Host.Outcome State Fault Refusal :=
  onEvent t (fun s =>
    let n := s.net[p].cfg
    if portOn s p && !n.ipv6 && (ownAddresses p.val n).contains target then answerNeighbour 4 p target sender s else s) s

/-- NEIGHBOR_SOLICIT_RECEIVE (R55): an IPv6 port answers for its own addresses. -/
def execNeighborSolicitReceive (t : Nat) (p : Fin 2) (target sender : Nat) (s : State) : Host.Outcome State Fault Refusal :=
  onEvent t (fun s =>
    let n := s.net[p].cfg
    if portOn s p && n.ipv6 && (ownAddresses p.val n).contains target then answerNeighbour 5 p target sender s else s) s

/-- ICMP_ECHO_RECEIVE (R55): an echo request to one of the port's own addresses is answered with its payload: kind 6. -/
def execIcmpEchoReceive (t : Nat) (p : Fin 2) (target sender : Nat) (payload : List Byte) (s : State) : Host.Outcome State Fault Refusal :=
  onEvent t (fun s =>
    if portOn s p && (ownAddresses p.val s.net[p].cfg).contains target then emit (.eth p.val 6 sender payload) s else s) s

/-- ROUTER_ADVERT_RECEIVE (R55): an IPv6 port takes its default router, and no address, from it. -/
def execRouterAdvertReceive (t : Nat) (p : Fin 2) (router : Nat) (s : State) : Host.Outcome State Fault Refusal :=
  onEvent t (fun s =>
    if portOn s p && s.net[p].cfg.ipv6 then { s with net := upd s.net p fun q => { q with router := router } } else s) s

/-- ARP_REPLY_RECEIVE (R55): the link address of an address on the link is known. -/
def execArpReplyReceive (t : Nat) (p : Fin 2) (ip link : Nat) (s : State) : Host.Outcome State Fault Refusal :=
  onEvent t (fun s =>
    if portOn s p then
      { s with net := upd s.net p fun q => { q with neigh := q.neigh.filter (fun e => e.1 != ip) ++ [(ip, link)] } }
    else s) s

/-- NET_RATE_HUNT_SWITCH (R55): a hunting port without block lock tries the other rate after 2 ms. -/
def execNetRateHuntSwitch (t : Nat) (p : Fin 2) (s : State) : Host.Outcome State Fault Refusal :=
  onEvent t (fun s =>
    let n := 32 + p.val
    let l := laneOf s n
    if !portOn s p || s.net[p].cfg.speed != 0 || l.state != .hunt || decide (s.now < l.huntAt + 2000000) then s
    else
      let rate := 3 - s.net[p].rate
      modLane n (fun l => { l with fast := rate == 2, huntAt := s.now }) { s with net := upd s.net p fun q => { q with rate := rate } }) s

end Sys2Proof.Machine
end

