-- ==== Sys2Proof/Machine/Records.lean ====
section
/-!
DEFINITION. Export (R313 to R316): record blocks, their signatures and compression, delivery on rings and Ethernet, acknowledgement and resending, JOURNAL_READ.
-/
namespace Sys2Proof.Machine

/-- The bytes of a block-signature entry (R313). -/
def signatureSize : Nat := 3472

/-- The entries from the front that fit in 65,536 bytes with the signature entry (R314); one entry always goes. -/
def fitEntries (room : Nat) : List (List Byte × List (Nat × Nat)) → List (List Byte × List (Nat × Nat))
  | [] => []
  | e :: es => if e.1.length ≤ room then e :: fitEntries (room - e.1.length) es else []

/-- The block-signature entry over the bytes before it (R313, R314). -/
def signatureEntry (seq : Nat) (prev body : List Byte) : List Byte :=
  let head := wordsBytes [word (put signatureSize 8 + 15), word seq] ++ padTo 48 prev
  let signed := body ++ head
  padTo signatureSize (head ++ padTo 96 (Config.sign 0 signed) ++ padTo 3309 (Config.sign 1 signed))

/-- The decompressed bytes of a block. -/
def blockBytes (seq : Nat) (prev : List Byte) (es : List (List Byte × List (Nat × Nat))) : List Byte :=
  let body := es.flatMap (·.1)
  body ++ signatureEntry seq prev body

/-- The UDP port that record blocks leave from: the command port + 1 (R315). -/
def recordFrom (s : State) (p : Fin 2) : Nat := s.net[p].cfg.cmdPort + 1

/-- A block leaves in a datagram on a port (R315): kind 2, the receiver's port, the link address, the receiver's address, the source port and the block. While the
link address of the next hop is not known it is asked for, and the block stays owed (R55). -/
def sendBlock (p : Fin 2) (b : RecBlock) (s : State) : State :=
  let n := s.net[p].cfg
  match linkAddress s p (nextHop s.net[p]) with
  | some a =>
    emit (.eth p.val 2 n.recPort (leBytes 6 a ++ leBytes 8 n.recLo.toNat ++ leBytes 8 n.recHi.toNat ++ leBytes 2 (recordFrom s p) ++ b.sheaf)) s
  | none => askNeighbour p (nextHop s.net[p]) s

/-- A block goes to every enabled role-5 ring that has not been given it, and to every port that owes an acknowledgement (R313, R315). -/
def deliver (b : RecBlock) (s : State) : State :=
  let rs := (List.finRange 16).filter fun r => s.bar.rings[r].enable && s.bar.rings[r].role == .recordsOut && !bit b.rings r.val
  let s := rs.foldl (fun s r => queueUnits r.val [{ data := b.sheaf, block := some b.seq }] s) s
  let s := (List.finRange 2).foldl (fun s p => if owes s b p then sendBlock p b s else s) s
  let mark (x : RecBlock) : RecBlock := { x with sentAt := s.now, rings := rs.foldl (fun m r => m ||| 2 ^ r.val) x.rings }
  { s with tal.blocks := mapWhere (fun x => x.seq == b.seq) mark s.tal.blocks }

/-- Whether the block in progress closes now: the next entry would not fit, or 100 ms have passed since its first (R314). -/
def blockCloses (s : State) : Bool :=
  !s.tal.entries.isEmpty
    && (decide (65536 < (s.tal.entries.map fun e => e.1.length).sum + signatureSize) || decide (s.tal.blockAt + 100000000 ≤ s.now))

/-- RECORD_BLOCK_CLOSE (R314, R137, R315): the block is signed and compressed; where the checking decode failed it is stored raw and SHEAF_SELFCHECK reported. -/
def execRecordBlockClose (t : Nat) (selfcheckOk : Bool) (s : State) : Host.Outcome State Fault Refusal :=
  onEvent t (fun s =>
    if !blockCloses s || !domOn s 2 then s else
    let es := fitEntries (65536 - signatureSize) s.tal.entries
    let seq := s.tal.blockSeq
    let bytes := blockBytes seq s.tal.prevHash es
    let b : RecBlock := { seq := seq, parts := es.flatMap (·.2), sheaf := recordBlock true selfcheckOk bytes, sentAt := s.now }
    let s := if selfcheckOk then s else raise FaultCode.sheafSelfcheck 0 s
    deliver b { s with
      tal.blockSeq := seq + 1, tal.prevHash := Config.sha384 bytes, tal.entries := s.tal.entries.drop es.length, tal.blockAt := s.now,
      tal.blocks := s.tal.blocks ++ [b] }) s

/-- RECORD_STREAM_ACK (R315, R316): every block below the acknowledged sequence is exported and no longer owed to the port. -/
def execRecordStreamAck (t : Nat) (p : Fin 2) (upto : Nat) (s : State) : Host.Outcome State Fault Refusal :=
  onEvent t (fun s =>
    if !recordPort s p then s else
    let seqs := (s.tal.blocks.filter fun b => decide (b.seq < upto)).map (·.seq)
    let s := { s with tal.blocks := mapWhere (fun b => decide (b.seq < upto)) (fun b => { b with acked := b.acked ||| 2 ^ p.val }) s.tal.blocks }
    dropBlocks (seqs.foldl (fun s q => blockExported q s) s)) s

/-- RECORD_BLOCK_RESEND (R315): a block not acknowledged is sent again 100 ms after it was last sent; a ring of role 5 enabled since then gets it too (R313). -/
def execRecordBlockResend (t seq : Nat) (s : State) : Host.Outcome State Fault Refusal :=
  onEvent t (fun s =>
    match s.tal.blocks.find? (fun b => b.seq == seq) with
    | none => s
    | some b => if decide (b.sentAt + 100000000 ≤ s.now) && domOn s 2 then deliver b s else s) s

/-- The entries of a record still in the journal: each part it has (R313, R316). -/
def recordEntries (r : Rec) : List (List Byte × List (Nat × Nat)) :=
  let entry (type : Nat) (ws : List W64) : List Byte × List (Nat × Nat) := (wordsBytes (word (put (8 * (ws.length + 1)) 8 + type) :: ws), [])
  [entry 1 (issueWords r)] ++ (if r.firedLine.isSome then [entry 2 ((firedWords r).take 2)] else [])
    ++ (if r.final.isSome then [entry 3 ((finalWords r).take 2)] else [])

/-- The blocks of a JOURNAL_READ, numbered from 0 in a series of its own. -/
def readBlocks : Nat → Nat → List Byte → List (List Byte × List (Nat × Nat)) → List (List Byte)
  | 0, _, _, _ => []
  | fuel + 1, seq, prev, es =>
    if es.isEmpty then []
    else
      let now := fitEntries (65536 - signatureSize) es
      let bytes := blockBytes seq prev now
      recordBlock true true bytes :: readBlocks fuel (seq + 1) (Config.sha384 bytes) (es.drop now.length)

/-- JOURNAL_READ (R316): the records of [p0, p1) still in the journal, in signed blocks on ring p2. -/
def execJournalRead (t cid : Nat) (s : State) : Host.Outcome State Fault Refusal :=
  onStart Op.journalRead t cid (fun c s =>
    if !outRing s (parN c 2) then refuse c Status.badRing s
    else if parN c 1 < parN c 0 then refuse c Status.badParameter s
    else
      let rs := s.tal.journal.filter fun r => within (parN c 0) (parN c 1) r.num
      let es := rs.flatMap recordEntries
      let blocks := readBlocks (es.length + 1) 0 [] es
      if blocks.isEmpty then answer c [0] s
      else queueUnits (parN c 2) (blocks.zipIdx.map fun b =>
        { data := b.1, cid := c.cid, final := decide (b.2 + 1 = blocks.length), results := [word rs.length] }) s) s

end Sys2Proof.Machine
end

