-- ==== Sys2Proof/Machine/Status.lean ====
section
/-!
DEFINITION. STATUS (R54, R550), and ABORT_TAG with what stopping each opcode at its safe point leaves (R45, R56).
-/
namespace Sys2Proof.Machine

/-! ### STATUS -/

/-- out0. -/
def statusWord0 (s : State) : W64 :=
  word (flag (jobActive s) + put (flag s.job.switch.isSome) 1 + put (flag s.thm.shed) 2 + put (maskOf ((elems s.thm.steps).map (·.on))) 3
    + put (flag s.mil.thinning) 6 + put (flag s.kry.approved) 7 + put (roleCode s.twn.role) 8 + put (clockCode s.time.clk.state) 12
    + put (flag s.bgd.takeover) 15 + put (min 64 s.prod.queue.length) 16 + put (min 64 s.cmd.slots.length) 24
    + put (s.job.active.getD 0) 32)

/-- Sealed lines ahead of the earliest read-out: those from the lowest on that some Stall has still to read. -/
def sealedAhead (s : State) : Nat :=
  let sealed := s.mil.lines.filter (·.sealed)
  let unread (l : LineSlot) : Bool := l.words.any fun w =>
    stallNamed s w.1 && !(stallOf s w.1).late.contains l.line && !((stallOf s w.1).buffer.any fun b => b.1 == l.line)
  match (sealed.filter unread).map (·.line) with
  | [] => 0
  | n :: ns => let lo := ns.foldl min n; (sealed.filter fun l => decide (lo ≤ l.line)).length

/-- out1. -/
def statusWord1 (s : State) : W64 :=
  word (activePairs s + put (idleSlices s 0).length 8 + put (idleSlices s 1).length 16
    + put ((elems s.mil.slices).filter (·.retired)).length 24 + put (if jobActive s then s.mil.depth else 0) 32
    + put (sat 65535 (sealedAhead s)) 48)

/-- Up to four active device-class faults, the lowest code first (R550). -/
def activeCodes (s : State) : Nat :=
  let sorted := (List.range 0x1000).filter fun c => s.flt.active.contains c
  ((sorted.take 4).zipIdx.map fun p => put p.1 (16 * p.2)).sum

/-- The eight result words of STATUS (R54, R550). -/
def statusWords (s : State) : List W64 :=
  let recent := (s.tal.journal.filter fun r => r.unit == s.twn.unit && decide (devNs s < r.issueAt + 1000000000)).length
  let verified := (s.vis.verAt.filter fun m => decide (s.now < m + 1000000000)).length
  [ statusWord0 s, statusWord1 s, word s.mot.line,
    word (domainMask s + put s.bgd.fwSlot 12 + put s.flt.deviceCount 16 + put s.pwr.readySec 32),
    word (activeCodes s),
    word (s.flt.correctable + put s.flt.line 32 + put s.flt.product 48),
    word (maskOf ((elems s.stl).map (·.permit)) + put (maskOf ((elems s.stl).map (·.enable))) 24),
    word (slotsBusy s + put (sat 65535 recent) 32 + put (sat 65535 verified) 48) ]

/-- STATUS (R54, R550). -/
def execStatus (t cid : Nat) (s : State) : Host.Outcome State Fault Refusal :=
  onStart Op.status t cid (fun c s => answer c (statusWords s) s) s

/-! ### What a stopped command leaves (R56) -/

/-- The units of a stopped command that have not left a ring are dropped; those of one whose output stands leave without it. -/
def dropUnits (cid : Nat) (s : State) : State :=
  { s with bar.work := s.bar.work.map fun w => { w with units := w.units.filter fun u => u.cid != cid } }

/-- The units of a stopped command leave, and no longer end it. -/
def freeUnits (cid : Nat) (s : State) : State :=
  { s with bar.work := s.bar.work.map fun w => { w with units := mapWhere (fun u => u.cid == cid) (fun u => { u with cid := 0, final := false }) w.units } }

/-- A ring no longer collects input for a stopped command. -/
def dropInput (cid : Nat) (s : State) : State :=
  { s with bar.work := s.bar.work.map fun w => if w.input = cid then { w with input := 0, inLeft := 0, got := [] } else w }

/-- Whether a ring is inside a descriptor of a command's input: not between two descriptors. -/
def inputMoving (s : State) (cid : Nat) : Bool := (elems s.bar.work).any fun w => w.input == cid && cid != 0 && !w.moved.isEmpty

/-- A switch is cancelled (R122): products that had been given to the new job go to the outgoing one where it uses their input and nothing of them has been issued;
others will not be computed. -/
def cancelSwitch (w : JobSwitch) (s : State) : State :=
  let old := match s.job.active with | some id => jobOf s id | none => none
  let mine := s.prod.queue.filter fun p => p.job == w.job
  let s := { s with job.switch := none }
  mine.foldl (fun s p =>
    match (match old with | some j => (trackOn j p.input).map (fun (k : Nat × Track) => (j.desc.id, k.1)) | none => none) with
    | some x => if p.issued || decide (p.first < s.mil.nextLine) then voidFault p.num FaultCode.productLate s
        else modProduct p.num (fun p => { p with job := x.1, track := x.2 }) s
    | none => voidFault p.num FaultCode.productLate s) s

/-- A list of earlier gate words without the one that ends at a moment: that word rules on in place of the one after it. -/
def mergeOld (moment : Nat) (word_ : GateWord) : List (Nat × GateWord) → List (Nat × GateWord) × GateWord
  | [] => ([], word_)
  | (m, w) :: rest =>
    if m = moment then
      match rest with
      | [] => ([], w)
      | (m2, _) :: more => ((m2, w) :: more, word_)
    else let x := mergeOld moment word_ rest; ((m, w) :: x.1, x.2)

/-- A gate keeps its old word for every product (R56): the word of a stopped REJECT_POLICY accepted at a moment is gone. -/
def undoGate (moment : Nat) (s : State) (i : Fin 4) : State :=
  let g := s.prod.gates[i]
  match g.olds.find? fun o => o.1 == moment with
  | none => s
  | some o =>
    let next := (g.olds.find? fun x => decide (moment < x.1)).map (·.1)
    let x := mergeOld moment g.word g.olds
    let s := { s with prod.gates := upd s.prod.gates i fun g => { g with word := x.2, olds := x.1 } }
    let rules (p : Product) : Bool := decide (moment ≤ p.moment) && (match next with | some m => decide (p.moment < m) | none => true)
    { s with prod.queue := mapWhere rules (fun p => { p with gw := p.gw.set i o.2 }) s.prod.queue }

/-- A stopped POWER_DOMAIN: the domain stays as it was, and transfers in flight go on (R56, R79). -/
def dropPowerReq (q : PowerReq) (s : State) : State :=
  { s with
    pwr.reqs := s.pwr.reqs.filter fun x => x.cid != q.cid,
    bar.work := if q.on then s.bar.work else s.bar.work.map fun w => if w.deadline = some q.t0 then { w with deadline := none } else w }

/-- A stopped TWIN_BIND: both units stay unbound (R56). -/
def unbind (s : State) : State :=
  let s := enterRole .unbound s
  { s with twn := {} }

/-- What stopping an executing command leaves, for the opcodes and the moments that have a safe point (R56). -/
def stopAt (c : Slot) (s : State) : Option State :=
  let k := c.cid
  if c.op = Op.jobLoad then
    if s.job.loading.any fun l => l.cid == k then some { s with job.loading := s.job.loading.filter fun l => l.cid != k } else none
  else if c.op = Op.jobSwitch then
    match s.job.switch with
    | some w => if w.cid = k ∧ !w.replied then some (cancelSwitch w s) else none
    | none => none
  else if c.op = Op.rejectPolicy then
    match s.prod.policies.find? fun p => p.1 == k with
    | some p =>
      let gs := (List.finRange 4).filter fun g => bit p.2.2 g.val
      some (gs.foldl (undoGate p.2.1) { s with prod.policies := s.prod.policies.filter fun x => x.1 != k })
    | none => none
  else if c.op = Op.spitCycle then
    if (elems s.stl).any fun st => (match st.spit with | some x => x.cid == k | none => false) then
      some { s with stl := s.stl.map fun st => match st.spit with | some x => if x.cid = k then { st with spit := none } else st | none => st }
    else none
  else if c.op = Op.journalRead ∨ c.op = Op.calRead ∨ c.op = Op.wellRead then
    if (elems s.bar.work).any fun w => w.units.any fun u => u.cid == k then some (dropUnits k s) else none
  else if c.op = Op.calRun then
    match s.led.runs.find? fun r => r.cid == k with
    | some r => some { s with
        led.runs := s.led.runs.filter fun x => x.cid != k,
        prod.wants := if r.item < 0x40 then s.prod.wants.filter (fun w => w.2 != 2) else s.prod.wants }
    | none => none
  else if c.op = Op.placementLearn then
    match s.mil.learn with
    | some l => if l.cid = k then some { s with mil.learn := none, prod.wants := s.prod.wants.filter fun w => w.2 != 1 } else none
    | none => none
  else if c.op = Op.imageCapture then
    if s.vis.captures.any fun x => x.cid == k then some (freeUnits k { s with vis.captures := s.vis.captures.filter fun x => x.cid != k }) else none
  else if c.op = Op.imageStage then
    match s.kry.staging with
    | some x => if x.cid = k ∧ (if h : x.ring < 16 then (s.bar.work[x.ring]'h).inLeft ≠ 0 else True) then some (dropInput k { s with kry.staging := none }) else none
    | none => none
  else if c.op = Op.imageActivate then
    match s.bgd.act with
    | some a => if a.cid = k ∧ (a.stage = .reading ∨ a.stage = .loaded) then some (endAct s) else none
    | none => none
  else if c.op = Op.twinBind then
    if s.twn.bindCid = k then some (unbind s) else none
  else if c.op = Op.wellWrite then
    if (elems s.bar.work).any fun w => w.input == k then some (dropInput k s) else none
  else if c.op = Op.checkRun then
    if s.chk.scans.any fun x => x.cid == k then some { s with chk.scans := s.chk.scans.filter fun x => x.cid != k } else none
  else if c.op = Op.loopback then
    match (List.range 36).find? fun n => (laneOf s n).loopCid == k with
    | some n => some (huntLane n (modLane n (fun l => { l with loopCid := 0 }) s))
    | none => none
  else if c.op = Op.powerDomain then
    match s.pwr.reqs.find? fun q => q.cid == k with
    | some q => some (dropPowerReq q s)
    | none => none
  else none

/-- The outstanding command of a tag in the session of an ABORT_TAG. -/
def tagged (s : State) (c : Slot) (tag : Nat) : Option Slot := s.cmd.slots.find? fun x => x.session == c.session && x.tag == tag

/-- Whether the session's reply cache holds a final reply to a command of a tag (R38). -/
def tagReplied (s : State) (c : Slot) (tag : Nat) : Bool :=
  match sessionOf s c.session with
  | some x => x.cache.any fun e => !e.2.isEmpty && fld (e.2.getD 0 0) 47 42 == tag
  | none => false

/-- The named command is cancelled, and ABORT_TAG answers 0. -/
def cancel (c x : Slot) (s : State) : State := answer c [0] (refuse x Status.cancelled s)

/-- ABORT_TAG (R45, R56): a command that waits is removed; one that executes is stopped where its opcode has a safe point ahead. -/
def abortTag (c : Slot) (s : State) : State :=
  match tagged s c (parN c 0) with
  | some x =>
    match x.phase with
    | .waiting => cancel c x s
    | .committed => answer c [1] s
    | .executing =>
      match stopAt x s with
      | some s => cancel c x s
      | none => answer c [1] s
  | none => answer c [if tagReplied s c (parN c 0) then 1 else 2] s

/-- Whether the named command moves input inside a descriptor, so that its safe point is still to come. -/
def abortWaits (s : State) (cid : Nat) : Bool :=
  match slotOf s cid with
  | some c => (match tagged s c (parN c 0) with | some x => inputMoving s x.cid | none => false)
  | none => false

/-- ABORT_TAG (R45). -/
def execAbortTag (t cid : Nat) (s : State) : Host.Outcome State Fault Refusal :=
  if abortWaits s cid then .next (advance t s) else onStart Op.abortTag t cid abortTag s

end Sys2Proof.Machine
end

