-- ==== Sys2Proof/Machine/Dispatch.lean ====
section
/-!
DEFINITION. The dispatch: one arm per constructor of `Instr`, each one direct call of its meaning.
-/
namespace Sys2Proof.Machine

/-- The effect of a command on everything but the queue. -/
def exec (i : Instr) (s : State) : Host.Outcome State Fault Refusal :=
  match i with
  | .commandIntake t tr src avail => Sys2Proof.Machine.execCommandIntake t tr src avail s
  | .interimReply t cid => Sys2Proof.Machine.execInterimReply t cid s
  | .replyRingWrite t cid => Sys2Proof.Machine.execReplyRingWrite t cid s
  | .udpReplySend t cid => Sys2Proof.Machine.execUdpReplySend t cid s
  | .uraraReplyReceive t reply => Sys2Proof.Machine.execUraraReplyReceive t reply s
  | .identify t cid => Sys2Proof.Machine.execIdentify t cid s
  | .status t cid => Sys2Proof.Machine.execStatus t cid s
  | .abortTag t cid => Sys2Proof.Machine.execAbortTag t cid s
  | .netConfig t cid => Sys2Proof.Machine.execNetConfig t cid s
  | .powerDomain t cid => Sys2Proof.Machine.execPowerDomain t cid s
  | .domainPowerDownProceed t => Sys2Proof.Machine.execDomainPowerDownProceed t s
  | .domainPowerUpDone t => Sys2Proof.Machine.execDomainPowerUpDone t s
  | .granaryReport t cid => Sys2Proof.Machine.execGranaryReport t cid s
  | .crierConfig t cid => Sys2Proof.Machine.execCrierConfig t cid s
  | .reset t cid => Sys2Proof.Machine.execReset t cid s
  | .jobLoad t cid => Sys2Proof.Machine.execJobLoad t cid s
  | .jobCheckComplete t job clear => Sys2Proof.Machine.execJobCheckComplete t job clear s
  | .jobActivate t cid => Sys2Proof.Machine.execJobActivate t cid s
  | .screenStoreLoaded t => Sys2Proof.Machine.execScreenStoreLoaded t s
  | .jobSwitch t cid => Sys2Proof.Machine.execJobSwitch t cid s
  | .jobUnload t cid => Sys2Proof.Machine.execJobUnload t cid s
  | .motionConfig t cid => Sys2Proof.Machine.execMotionConfig t cid s
  | .rejectPolicy t cid => Sys2Proof.Machine.execRejectPolicy t cid s
  | .queueRead t cid => Sys2Proof.Machine.execQueueRead t cid s
  | .productForce t cid => Sys2Proof.Machine.execProductForce t cid s
  | .poolGrant t cid ecdsaOk mldsaOk => Sys2Proof.Machine.execPoolGrant t cid ecdsaOk mldsaOk s
  | .permutationTableDone t pool grant => Sys2Proof.Machine.execPermutationTableDone t pool grant s
  | .streamBind t cid => Sys2Proof.Machine.execStreamBind t cid s
  | .calendarLoad t cid => Sys2Proof.Machine.execCalendarLoad t cid s
  | .poolStatus t cid => Sys2Proof.Machine.execPoolStatus t cid s
  | .codeVoid t cid => Sys2Proof.Machine.execCodeVoid t cid s
  | .journalRead t cid => Sys2Proof.Machine.execJournalRead t cid s
  | .manifestClose t cid => Sys2Proof.Machine.execManifestClose t cid s
  | .stallConfig t cid => Sys2Proof.Machine.execStallConfig t cid s
  | .pulseTableLoad t cid => Sys2Proof.Machine.execPulseTableLoad t cid s
  | .dutyLimits t cid => Sys2Proof.Machine.execDutyLimits t cid s
  | .firePermit t cid => Sys2Proof.Machine.execFirePermit t cid s
  | .elementRetire t cid => Sys2Proof.Machine.execElementRetire t cid s
  | .spitCycle t cid => Sys2Proof.Machine.execSpitCycle t cid s
  | .headStatus t cid => Sys2Proof.Machine.execHeadStatus t cid s
  | .calRun t cid => Sys2Proof.Machine.execCalRun t cid s
  | .calRead t cid => Sys2Proof.Machine.execCalRead t cid s
  | .calWrite t cid => Sys2Proof.Machine.execCalWrite t cid s
  | .placementLearn t cid => Sys2Proof.Machine.execPlacementLearn t cid s
  | .timeRead t cid => Sys2Proof.Machine.execTimeRead t cid s
  | .ptpConfig t cid => Sys2Proof.Machine.execPtpConfig t cid s
  | .timeSelect t cid => Sys2Proof.Machine.execTimeSelect t cid s
  | .timeSet t cid => Sys2Proof.Machine.execTimeSet t cid s
  | .ppsConfig t cid => Sys2Proof.Machine.execPpsConfig t cid s
  | .sensorConfig t cid => Sys2Proof.Machine.execSensorConfig t cid s
  | .settingSet t cid => Sys2Proof.Machine.execSettingSet t cid s
  | .settingWriteAck t sensor acked => Sys2Proof.Machine.execSettingWriteAck t sensor acked s
  | .verifyConfig t cid => Sys2Proof.Machine.execVerifyConfig t cid s
  | .imageCapture t cid => Sys2Proof.Machine.execImageCapture t cid s
  | .certRead t cid => Sys2Proof.Machine.execCertRead t cid s
  | .sessionOpen t cid pointOk ekOk => Sys2Proof.Machine.execSessionOpen t cid pointOk ekOk s
  | .sessionProve t cid => Sys2Proof.Machine.execSessionProve t cid s
  | .sessionProveTimeout t sid => Sys2Proof.Machine.execSessionProveTimeout t sid s
  | .credentialUnlock t role slot => Sys2Proof.Machine.execCredentialUnlock t role slot s
  | .sessionClose t cid => Sys2Proof.Machine.execSessionClose t cid s
  | .groupSessionExpire t sid => Sys2Proof.Machine.execGroupSessionExpire t sid s
  | .ownerTransfer t cid v => Sys2Proof.Machine.execOwnerTransfer t cid v s
  | .roleCredential t cid v => Sys2Proof.Machine.execRoleCredential t cid v s
  | .jobKeyLoad t cid v => Sys2Proof.Machine.execJobKeyLoad t cid v s
  | .imageStage t cid v => Sys2Proof.Machine.execImageStage t cid v s
  | .imageActivate t cid v => Sys2Proof.Machine.execImageActivate t cid v s
  | .fwHandoff t readable replies => Sys2Proof.Machine.execFwHandoff t readable replies s
  | .fwActivateBusyTimeout t => Sys2Proof.Machine.execFwActivateBusyTimeout t s
  | .fwReplyTimeout t => Sys2Proof.Machine.execFwReplyTimeout t s
  | .zeroise t cid => Sys2Proof.Machine.execZeroise t cid s
  | .attest t cid => Sys2Proof.Machine.execAttest t cid s
  | .nodeId t cid => Sys2Proof.Machine.execNodeId t cid s
  | .topology t cid => Sys2Proof.Machine.execTopology t cid s
  | .twinBind t cid peerSerial peerJob => Sys2Proof.Machine.execTwinBind t cid peerSerial peerJob s
  | .twinYield t cid => Sys2Proof.Machine.execTwinYield t cid s
  | .twinStatus t cid => Sys2Proof.Machine.execTwinStatus t cid s
  | .linkStatus t cid => Sys2Proof.Machine.execLinkStatus t cid s
  | .ringRole t cid => Sys2Proof.Machine.execRingRole t cid s
  | .wellRead t cid => Sys2Proof.Machine.execWellRead t cid s
  | .wellWrite t cid => Sys2Proof.Machine.execWellWrite t cid s
  | .checkRun t cid agree => Sys2Proof.Machine.execCheckRun t cid agree s
  | .checkScanComplete t cid => Sys2Proof.Machine.execCheckScanComplete t cid s
  | .scrubConfig t cid => Sys2Proof.Machine.execScrubConfig t cid s
  | .loopback t cid => Sys2Proof.Machine.execLoopback t cid s
  | .loopbackEnd t lane bits errs hdrs fom => Sys2Proof.Machine.execLoopbackEnd t lane bits errs hdrs fom s
  | .telemetryRead t cid => Sys2Proof.Machine.execTelemetryRead t cid s
  | .ringTailWrite t r v => Sys2Proof.Machine.execRingTailWrite t r v s
  | .ringHeadWrite r v => Sys2Proof.Machine.execRingHeadWrite r v s
  | .ringEnable t r => Sys2Proof.Machine.execRingEnable t r s
  | .ringDisable t r => Sys2Proof.Machine.execRingDisable t r s
  | .ringPause t r => Sys2Proof.Machine.execRingPause t r s
  | .ringPauseComplete t r placed => Sys2Proof.Machine.execRingPauseComplete t r placed s
  | .ringResume t r => Sys2Proof.Machine.execRingResume t r s
  | .shadowArmWrite t r v => Sys2Proof.Machine.execShadowArmWrite t r v s
  | .ringStatusClear t r v => Sys2Proof.Machine.execRingStatusClear t r v s
  | .intStatusClear t v => Sys2Proof.Machine.execIntStatusClear t v s
  | .bar0RegisterWrite t off size v => Sys2Proof.Machine.execBar0RegisterWrite t off size v s
  | .descriptorFetch t r d => Sys2Proof.Machine.execDescriptorFetch t r d s
  | .descriptorComplete t r x => Sys2Proof.Machine.execDescriptorComplete t r x s
  | .ringHoldoffExpiry t r => Sys2Proof.Machine.execRingHoldoffExpiry t r s
  | .ringDomainDeadline t r => Sys2Proof.Machine.execRingDomainDeadline t r s
  | .functionLevelReset t => Sys2Proof.Machine.execFunctionLevelReset t s
  | .mbxBootLog t => Sys2Proof.Machine.execMbxBootLog t s
  | .mbxDeviceCert t => Sys2Proof.Machine.execMbxDeviceCert t s
  | .mbxRecoveryLoad t => Sys2Proof.Machine.execMbxRecoveryLoad t s
  | .mbxRetryBoot t => Sys2Proof.Machine.execMbxRetryBoot t s
  | .arpRequestReceive t p target sender => Sys2Proof.Machine.execArpRequestReceive t p target sender s
  | .neighborSolicitReceive t p target sender => Sys2Proof.Machine.execNeighborSolicitReceive t p target sender s
  | .icmpEchoReceive t p target sender payload => Sys2Proof.Machine.execIcmpEchoReceive t p target sender payload s
  | .routerAdvertReceive t p router => Sys2Proof.Machine.execRouterAdvertReceive t p router s
  | .netRateHuntSwitch t p => Sys2Proof.Machine.execNetRateHuntSwitch t p s
  | .encoderEdge t e isA up => Sys2Proof.Machine.execEncoderEdge t e isA up s
  | .encoderSignalLoss t e => Sys2Proof.Machine.execEncoderSignalLoss t e s
  | .encoderZPulse t e => Sys2Proof.Machine.execEncoderZPulse t e s
  | .lineBoundary t => Sys2Proof.Machine.execLineBoundary t s
  | .pacerTick t => Sys2Proof.Machine.execPacerTick t s
  | .lineIndexSave t => Sys2Proof.Machine.execLineIndexSave t s
  | .productNumberSave t => Sys2Proof.Machine.execProductNumberSave t s
  | .pdEdge t n level => Sys2Proof.Machine.execPdEdge t n level s
  | .detectAccept t n => Sys2Proof.Machine.execDetectAccept t n s
  | .ogEdge t g rising => Sys2Proof.Machine.execOgEdge t g rising s
  | .spitDropWindowEnd t st => Sys2Proof.Machine.execSpitDropWindowEnd t st s
  | .gateDecisionPlace t product g => Sys2Proof.Machine.execGateDecisionPlace t product g s
  | .tallyIssueGroup t product => Sys2Proof.Machine.execTallyIssueGroup t product s
  | .serialLookahead t stream => Sys2Proof.Machine.execSerialLookahead t stream s
  | .issueDurable t product => Sys2Proof.Machine.execIssueDurable t product s
  | .overlayRender t record => Sys2Proof.Machine.execOverlayRender t record s
  | .recordBlockClose t selfcheckOk => Sys2Proof.Machine.execRecordBlockClose t selfcheckOk s
  | .recordStreamAck t p upto => Sys2Proof.Machine.execRecordStreamAck t p upto s
  | .recordBlockResend t seq => Sys2Proof.Machine.execRecordBlockResend t seq s
  | .lineDispatch t line => Sys2Proof.Machine.execLineDispatch t line s
  | .segmentDecode t dom item => Sys2Proof.Machine.execSegmentDecode t dom item s
  | .segmentDecodeComplete t dom item fault => Sys2Proof.Machine.execSegmentDecodeComplete t dom item fault s
  | .intakeSegmentRedecode t item => Sys2Proof.Machine.execIntakeSegmentRedecode t item s
  | .sliceResultComplete t line slice r => Sys2Proof.Machine.execSliceResultComplete t line slice r s
  | .voteRecomputeStart t line recipeReadable => Sys2Proof.Machine.execVoteRecomputeStart t line recipeReadable s
  | .voteRecomputeDone t line r => Sys2Proof.Machine.execVoteRecomputeDone t line r s
  | .sliceTimeout t line slice => Sys2Proof.Machine.execSliceTimeout t line slice s
  | .millDomainLost t dom => Sys2Proof.Machine.execMillDomainLost t dom s
  | .calEpochCommit t => Sys2Proof.Machine.execCalEpochCommit t s
  | .placementEpochCommit t => Sys2Proof.Machine.execPlacementEpochCommit t s
  | .stallReadout t st line read1 read2 => Sys2Proof.Machine.execStallReadout t st line read1 read2 s
  | .lineFrameSend t st => Sys2Proof.Machine.execLineFrameSend t st s
  | .fireBlockSend t st => Sys2Proof.Machine.execFireBlockSend t st s
  | .spitFire t st => Sys2Proof.Machine.execSpitFire t st s
  | .headAckReceive t st seq => Sys2Proof.Machine.execHeadAckReceive t st seq s
  | .headNakReceive t st seq reason => Sys2Proof.Machine.execHeadNakReceive t st seq reason s
  | .headFiredReceive t st line16 sender missed => Sys2Proof.Machine.execHeadFiredReceive t st line16 sender missed s
  | .firedTimeout t st => Sys2Proof.Machine.execFiredTimeout t st s
  | .headStatusReceive t st temps vpp => Sys2Proof.Machine.execHeadStatusReceive t st temps vpp s
  | .vppRecover t st => Sys2Proof.Machine.execVppRecover t st s
  | .headAlarmReceive t st zone abs rising => Sys2Proof.Machine.execHeadAlarmReceive t st zone abs rising s
  | .headResistReceive t st ch rMeas rRef => Sys2Proof.Machine.execHeadResistReceive t st ch rMeas rRef s
  | .headIdentReceive t lane headId => Sys2Proof.Machine.execHeadIdentReceive t lane headId s
  | .headDriveReceive t st ch line16 => Sys2Proof.Machine.execHeadDriveReceive t st ch line16 s
  | .permitWithdrawEffect t st => Sys2Proof.Machine.execPermitWithdrawEffect t st s
  | .laneSignalDetect t lane => Sys2Proof.Machine.execLaneSignalDetect t lane s
  | .blockLock t lane => Sys2Proof.Machine.execBlockLock t lane s
  | .lossOfLock t lane hdrs => Sys2Proof.Machine.execLossOfLock t lane hdrs s
  | .relockTimeout t lane => Sys2Proof.Machine.execRelockTimeout t lane s
  | .adaptDone t lane fom ctle gain dfe => Sys2Proof.Machine.execAdaptDone t lane fom ctle gain dfe s
  | .probeReceive t lane num turn => Sys2Proof.Machine.execProbeReceive t lane num turn s
  | .probeEchoReceive t lane num roundTrip turn => Sys2Proof.Machine.execProbeEchoReceive t lane num roundTrip turn s
  | .probeSend t lane => Sys2Proof.Machine.execProbeSend t lane s
  | .fomSweep t lane fom hdrs trial => Sys2Proof.Machine.execFomSweep t lane fom hdrs trial s
  | .laneFastExit t lane ok => Sys2Proof.Machine.execLaneFastExit t lane ok s
  | .spareRateHuntSwitch t lane => Sys2Proof.Machine.execSpareRateHuntSwitch t lane s
  | .moveBlockReceive t lane failing spare spareBit num => Sys2Proof.Machine.execMoveBlockReceive t lane failing spare spareBit num s
  | .refclkSerFail t ref => Sys2Proof.Machine.execRefclkSerFail t ref s
  | .refclkSerRecover t ref => Sys2Proof.Machine.execRefclkSerRecover t ref s
  | .announceSend t lane => Sys2Proof.Machine.execAnnounceSend t lane s
  | .announceReceive t lane node serial port farLane => Sys2Proof.Machine.execAnnounceReceive t lane node serial port farLane s
  | .routeReceive t port full changes => Sys2Proof.Machine.execRouteReceive t port full changes s
  | .routeFullAdvertise t => Sys2Proof.Machine.execRouteFullAdvertise t s
  | .routeExpire t port => Sys2Proof.Machine.execRouteExpire t port s
  | .uraraPacketReceive t lane type words => Sys2Proof.Machine.execUraraPacketReceive t lane type words s
  | .lackReceive t lane ack => Sys2Proof.Machine.execLackReceive t lane ack s
  | .lackSend t lane => Sys2Proof.Machine.execLackSend t lane s
  | .lnakReceive t lane lseq => Sys2Proof.Machine.execLnakReceive t lane lseq s
  | .uraraCommandReceive t src payload => Sys2Proof.Machine.execUraraCommandReceive t src payload s
  | .triggerReceive t src w => Sys2Proof.Machine.execTriggerReceive t src w s
  | .timeSend t node => Sys2Proof.Machine.execTimeSend t node s
  | .timeReceive t src tSrc corr lamIn => Sys2Proof.Machine.execTimeReceive t src tSrc corr lamIn s
  | .leaseRenewSend t => Sys2Proof.Machine.execLeaseRenewSend t s
  | .leaseRenewReceive t n => Sys2Proof.Machine.execLeaseRenewReceive t n s
  | .leaseAckReceive t n peerRole => Sys2Proof.Machine.execLeaseAckReceive t n peerRole s
  | .leaseDenyReceive t => Sys2Proof.Machine.execLeaseDenyReceive t s
  | .leaseHandoverReceive t record product n => Sys2Proof.Machine.execLeaseHandoverReceive t record product n s
  | .leadLeaseExpiry t => Sys2Proof.Machine.execLeadLeaseExpiry t s
  | .leadExpiryDecision t => Sys2Proof.Machine.execLeadExpiryDecision t s
  | .standbyTakeover t => Sys2Proof.Machine.execStandbyTakeover t s
  | .witnessToggle t => Sys2Proof.Machine.execWitnessToggle t s
  | .witnessEdge t => Sys2Proof.Machine.execWitnessEdge t s
  | .witnessSilent t => Sys2Proof.Machine.execWitnessSilent t s
  | .digestReceive t line d recipe => Sys2Proof.Machine.execDigestReceive t line d recipe s
  | .checkReceive t line peerFault => Sys2Proof.Machine.execCheckReceive t line peerFault s
  | .unitYield t => Sys2Proof.Machine.execUnitYield t s
  | .jreplReceive t seq item => Sys2Proof.Machine.execJreplReceive t seq item s
  | .epochProposeReceive t epoch placement items => Sys2Proof.Machine.execEpochProposeReceive t epoch placement items s
  | .epochCommitReceive t epoch fe => Sys2Proof.Machine.execEpochCommitReceive t epoch fe s
  | .linemarkReceive t line stamp => Sys2Proof.Machine.execLinemarkReceive t line stamp s
  | .verdictReceive t v => Sys2Proof.Machine.execVerdictReceive t v s
  | .copyBeginReceive t copy record product line stamp configEqual => Sys2Proof.Machine.execCopyBeginReceive t copy record product line stamp configEqual s
  | .copyCommitReceive t copy digestOk snap => Sys2Proof.Machine.execCopyCommitReceive t copy digestOk snap s
  | .copyDoneReceive t copy => Sys2Proof.Machine.execCopyDoneReceive t copy s
  | .twinCopyRetry t => Sys2Proof.Machine.execTwinCopyRetry t s
  | .telemetryReceive t src events => Sys2Proof.Machine.execTelemetryReceive t src events s
  | .ptpSyncReceive t dom seq twoStep origin corr ingress => Sys2Proof.Machine.execPtpSyncReceive t dom seq twoStep origin corr ingress s
  | .ptpFollowUpReceive t dom seq origin corr => Sys2Proof.Machine.execPtpFollowUpReceive t dom seq origin corr s
  | .ptpAnnounceReceive t dom a => Sys2Proof.Machine.execPtpAnnounceReceive t dom a s
  | .ptpDelayReqSend t dom seq egress => Sys2Proof.Machine.execPtpDelayReqSend t dom seq egress s
  | .ptpDelayRespReceive t dom seq rx corr => Sys2Proof.Machine.execPtpDelayRespReceive t dom seq rx corr s
  | .ptpDomainTimeout t dom => Sys2Proof.Machine.execPtpDomainTimeout t dom s
  | .frozenGuardExpiry t dom => Sys2Proof.Machine.execFrozenGuardExpiry t dom s
  | .faultyDomainRecover t dom => Sys2Proof.Machine.execFaultyDomainRecover t dom s
  | .preferredDomainReturn t => Sys2Proof.Machine.execPreferredDomainReturn t s
  | .timeDisagree t => Sys2Proof.Machine.execTimeDisagree t s
  | .leapSecond t => Sys2Proof.Machine.execLeapSecond t s
  | .timeFloorSave t => Sys2Proof.Machine.execTimeFloorSave t s
  | .ppsInEdge t n rising => Sys2Proof.Machine.execPpsInEdge t n rising s
  | .ppsInLost t n => Sys2Proof.Machine.execPpsInLost t n s
  | .ppsOutPulse t n => Sys2Proof.Machine.execPpsOutPulse t n s
  | .ppsOutPulseEnd t n => Sys2Proof.Machine.execPpsOutPulseEnd t n s
  | .cameraTriggerPulseEnd t gpio => Sys2Proof.Machine.execCameraTriggerPulseEnd t gpio s
  | .csiFrameStart t rx vc => Sys2Proof.Machine.execCsiFrameStart t rx vc s
  | .csiLongPacket t rx vc dtype ok pixels => Sys2Proof.Machine.execCsiLongPacket t rx vc dtype ok pixels s
  | .csiFrameEnd t rx vc overflow => Sys2Proof.Machine.execCsiFrameEnd t rx vc overflow s
  | .pipelineFrameDone t sensor streaks => Sys2Proof.Machine.execPipelineFrameDone t sensor streaks s
  | .imageGraded t record frame sensor g => Sys2Proof.Machine.execImageGraded t record frame sensor g s
  | .ledgerWriteComplete t readBackOk => Sys2Proof.Machine.execLedgerWriteComplete t readBackOk s
  | .ledgerSectorSpareCopy t sector => Sys2Proof.Machine.execLedgerSectorSpareCopy t sector s
  | .wellRefreshDue t ch rank urgentWait => Sys2Proof.Machine.execWellRefreshDue t ch rank urgentWait s
  | .dramMr4Poll t ch rank anyDouble anyHot => Sys2Proof.Machine.execDramMr4Poll t ch rank anyDouble anyHot s
  | .wellDriftTrack t ch rank moves => Sys2Proof.Machine.execWellDriftTrack t ch rank moves s
  | .wellZqCal t ch => Sys2Proof.Machine.execWellZqCal t ch s
  | .selfRefreshEntry t ch => Sys2Proof.Machine.execSelfRefreshEntry t ch s
  | .selfRefreshExit t ch => Sys2Proof.Machine.execSelfRefreshExit t ch s
  | .wellRepairWindow t row resourceLeft => Sys2Proof.Machine.execWellRepairWindow t row resourceLeft s
  | .wellHardRepair t => Sys2Proof.Machine.execWellHardRepair t s
  | .wellPatrolScrub t bad => Sys2Proof.Machine.execWellPatrolScrub t bad s
  | .ledgerScrub t sector corrected bad => Sys2Proof.Machine.execLedgerScrub t sector corrected bad s
  | .sramScrub t array row corrected uncorrectable => Sys2Proof.Machine.execSramScrub t array row corrected uncorrectable s
  | .sliceSelftest t slice pass => Sys2Proof.Machine.execSliceSelftest t slice pass s
  | .spareCoreSelftest t pass => Sys2Proof.Machine.execSpareCoreSelftest t pass s
  | .siliconRecal t item inst m => Sys2Proof.Machine.execSiliconRecal t item inst m s
  | .kryntoKat t pass => Sys2Proof.Machine.execKryntoKat t pass s
  | .backgroundLate t task => Sys2Proof.Machine.execBackgroundLate t task s
  | .drbgReseed t pass => Sys2Proof.Machine.execDrbgReseed t pass s
  | .checkUnitSelfcheck t u value => Sys2Proof.Machine.execCheckUnitSelfcheck t u value s
  | .crierEventSend t => Sys2Proof.Machine.execCrierEventSend t s
  | .crierSample t => Sys2Proof.Machine.execCrierSample t s
  | .tempSensorConversion t readings => Sys2Proof.Machine.execTempSensorConversion t readings s
  | .junctionTrip t => Sys2Proof.Machine.execJunctionTrip t s
  | .refclkSysFail t => Sys2Proof.Machine.execRefclkSysFail t s
  | .refclkSysRecover t => Sys2Proof.Machine.execRefclkSysRecover t s
  | .tamperTrip t cause => Sys2Proof.Machine.execTamperTrip t cause s
  | .zeroiseReset t => Sys2Proof.Machine.execZeroiseReset t s
  | .tamperHoldStart t clockSensor => Sys2Proof.Machine.execTamperHoldStart t clockSensor s
  | .tamperHoldClear t => Sys2Proof.Machine.execTamperHoldClear t s
  | .tamperHoldTimeout t => Sys2Proof.Machine.execTamperHoldTimeout t s
  | .coreTakeover t => Sys2Proof.Machine.execCoreTakeover t s
  | .takeoverComplete t passA passB => Sys2Proof.Machine.execTakeoverComplete t passA passB s
  | .watchdogReset t => Sys2Proof.Machine.execWatchdogReset t s
  | .deviceFaultClear t code => Sys2Proof.Machine.execDeviceFaultClear t code s
  | .powerDownNotice t => Sys2Proof.Machine.execPowerDownNotice t s
  | .unannouncedPowerLoss t aonLost => Sys2Proof.Machine.execUnannouncedPowerLoss t aonLost s
  | .aonSupplySwitch t vddAonMv vbat => Sys2Proof.Machine.execAonSupplySwitch t vddAonMv vbat s
  | .resetPinAssert t lowNs => Sys2Proof.Machine.execResetPinAssert t lowNs s
  | .resetNRelease t => Sys2Proof.Machine.execResetNRelease t s
  | .bootSelftestsDone t pass => Sys2Proof.Machine.execBootSelftestsDone t pass s
  | .bootImageVerified t a b => Sys2Proof.Machine.execBootImageVerified t a b s
  | .bootCoresStarted t configOk => Sys2Proof.Machine.execBootCoresStarted t configOk s
  | .bootWellTrained t spd rate => Sys2Proof.Machine.execBootWellTrained t spd rate s
  | .bootLaneStageEnd t => Sys2Proof.Machine.execBootLaneStageEnd t s
  | .deviceReady t => Sys2Proof.Machine.execDeviceReady t s
  | .calStagingCommit t => Sys2Proof.Machine.execCalStagingCommit t s
  | .squareTimeout t line aon waited => Sys2Proof.Machine.execSquareTimeout t line aon waited s
  | .timeErrHigh t => Sys2Proof.Machine.execTimeErrHigh t s
  | .bothLeadWindowEnd t => Sys2Proof.Machine.execBothLeadWindowEnd t s
  | .stallConfigLaneTimeout t st => Sys2Proof.Machine.execStallConfigLaneTimeout t st s
  | .topologyReplyTimeout t => Sys2Proof.Machine.execTopologyReplyTimeout t s
  | .entropyHealthFail t => Sys2Proof.Machine.execEntropyHealthFail t s
  | .wellHardRepairDone t => Sys2Proof.Machine.execWellHardRepairDone t s
  | .calRunComplete t item m => Sys2Proof.Machine.execCalRunComplete t item m s
  | .imageSlotWritten t readBackOk => Sys2Proof.Machine.execImageSlotWritten t readBackOk s
  | .fwImageLoaded t ok => Sys2Proof.Machine.execFwImageLoaded t ok s
  | .mailboxOperationEnd t v flashOk => Sys2Proof.Machine.execMailboxOperationEnd t v flashOk s
  | .msixVectorUnmask t v => Sys2Proof.Machine.execMsixVectorUnmask t v s
  | .arpReplyReceive t p ip link => Sys2Proof.Machine.execArpReplyReceive t p ip link s
  | .tapInstructionLoad t instr => Sys2Proof.Machine.execTapInstructionLoad t instr s

end Sys2Proof.Machine
end

