-- ==== Sys2Proof/Safety.lean ====
section
/-!
DEFINITION. What the claims speak of: a command that may start and how its execution ended, a command in progress, the
invariants that a run keeps, and what a state says to its outside (outputs high-impedance, the permits).
-/
namespace Sys2Proof.Machine

/-- The command `c` of acceptance number `cid` and opcode `op` may start now (R44). -/
def Starts (op cid : Nat) (c : Slot) (s : State) : Prop :=
  slotOf s cid = some c ∧ c.op = op ∧ mayStart s c = true

/-- The state in which a command that starts at moment `t` takes its effect: time has passed and its slot executes. -/
def startedAt (t cid : Nat) (s : State) : State :=
  modSlot cid (fun x => { x with phase := .executing }) (advance t s)

/-- The command `c` of acceptance number `cid` and opcode `op` executes. -/
def Runs (op cid : Nat) (c : Slot) (s : State) : Prop :=
  slotOf s cid = some c ∧ c.op = op ∧ c.phase = .executing

/-- The execution of a command has ended with a status: its slot has its final reply committed with that status, or is free (R33, R41). -/
def Ended (cid status : Nat) (s : State) : Prop :=
  ∀ x ∈ s.cmd.slots, x.cid = cid → x.phase = .committed ∧ x.status = status

/-- The contents of the Well stand in their canonical form: addresses strictly rising, no cell listed that equals an unlisted byte. -/
def MemoryCanonical (s : State) : Prop := Memory.wf s.well.mem = true

/-- The slots hold at most 64 commands, in the order of their acceptance, each under an acceptance number of its own that was already given (R41, R42). -/
def SlotsOk (slots : List Slot) (next : Nat) : Prop :=
  slots.length ≤ 64 ∧ slots.Pairwise (fun a b => a.cid < b.cid) ∧ ∀ c ∈ slots, c.cid < next

/-- The slots of a state are in order. -/
def SlotsInOrder (s : State) : Prop := SlotsOk s.cmd.slots s.cmd.nextCid

/-- No gate output is driven, no permit asserted and no PPS output driven (R529). -/
def OutputsReleased (s : State) : Prop :=
  (∀ g : Fin 4, s.prod.gates[g].output = none) ∧ (∀ n : Fin 24, s.stl[n].permit = false) ∧
    (∀ k : Fin 2, s.time.outs[k].driven = false)

/-- What every reset leaves, against the state before it (R526, R529): no command, session or product, nothing in the Well, every output released, and the motion settings
and the queue of commands as they were. -/
def AfterReset (old new : State) : Prop :=
  new.cmd.slots = [] ∧ new.cmd.sessions = [] ∧ new.prod.queue = [] ∧ new.well.mem = [] ∧ OutputsReleased new ∧ new.mot.cfg = old.mot.cfg ∧
    new.pending = old.pending

end Sys2Proof.Machine
end

