-- ==== Sys2Proof/Certificates/Slice0/Obligations.lean ====
section
/-!
DEFINITION. The statements for the provers: what each command and event of the table does, in the terms of Safety and of the
named operations, with the frame of each; the invariants that every step keeps.
-/
open Sys2Proof Sys2Proof.Machine

/-- A step takes the command at the front of the queue and is that command's effect on the state with the rest of the queue. On an empty queue the block idles (the model's
choice: log entry 16). -/
def Obligations.StepRunsFrontCommand : Prop :=
  (∀ (c : Instr) (rest : List Instr) (s : State),
    Machine.step { s with pending := c :: rest } = Machine.exec c { s with pending := rest }) ∧
  (∀ s : State, s.pending = [] → Machine.step s = .next s)

/-- COMMAND_INTAKE accepts a packet (R40 to R42): from a datagram or the link, and from the descriptor at the head of a ring, a packet for this node that passes the checks
takes a slot with the next acceptance number, in the order of acceptance. `advance t s` is the state at the packet's moment. What never takes a slot (R40, R42): a packet
that ends before its own length is answered with BAD_LENGTH, one without a free slot with COMMAND_LIMIT; the slots stay as they are. -/
def Obligations.IntakeJudgesPackets : Prop :=
  ((∀ (t src : Nat) (tr : Transport) (ws : List W64) (s : State),
    s.pwr.ready = true → s.bgd.takeover = false → s.cmd.intakeOpen = true →
    ((tr = .eth0 ∧ domOn s 3 = true ∧ s.net[0].cfg.enable = true) ∨ (tr = .eth1 ∧ domOn s 3 = true ∧ s.net[1].cfg.enable = true)
      ∨ (tr = .urara ∧ domOn s 10 = true)) →
    lengthOk ws = true → (fld (ws.getD 1 0) 10 0 = 0 ∨ fld (ws.getD 1 0) 10 0 = s.node) → fld (ws.getD 1 0) 10 0 ≤ 2000 →
    fld (ws.getD 0 0) 24 24 = 0 → (slotOfPacket tr src ws).session = 0 → sessionOf s 0 = none →
    contentFailure (advance t s) (slotOfPacket tr src ws) ws = none → slotFree s (slotOfPacket tr src ws).prio = true →
    Machine.exec (.commandIntake t tr src ws) s = .next { advance t s with
      cmd.nextCid := s.cmd.nextCid + 1,
      cmd.slots := s.cmd.slots ++ [{ slotOfPacket tr src ws with
        cid := s.cmd.nextCid, acceptAt := (advance t s).now, phase := .waiting }] }) ∧
  (∀ (t : Nat) (d : DescWords) (avail : List W64) (s : State),
    s.pwr.ready = true → s.bgd.takeover = false → s.cmd.intakeOpen = true → domOn s 4 = true →
    s.bar.work[0].desc = some d → s.bar.rings[0].enable = true → s.bar.rings[0].pause = false → s.bar.rings[0].role = .commandIn →
    avail.length = (fld d.w2 31 0 - s.bar.rings[0].doneBytes) / 8 → 0 < avail.length →
    ringHasPackets s 1 = false → slotFree s (slotOfPacket .ring0 0 avail).prio = true → lengthOk avail = true →
    fld (avail.getD 1 0) 10 0 = 0 → fld (avail.getD 0 0) 24 24 = 0 → (slotOfPacket .ring0 0 avail).session = 0 → sessionOf s 0 = none →
    contentFailure (advance t s) (slotOfPacket .ring0 0 avail) avail = none →
    ∃ s', Machine.exec (.commandIntake t .ring0 0 avail) s = .next s' ∧
      s'.bar.rings[0].doneBytes = s.bar.rings[0].doneBytes + 8 * packetWords avail ∧
      s'.cmd.slots = s.cmd.slots ++ [{ slotOfPacket .ring0 0 avail with
        cid := s.cmd.nextCid, acceptAt := (advance t s).now, phase := .waiting }] ∧
      s' = { advance t s with cmd := s'.cmd, bar := s'.bar })) ∧
  (∀ (t src : Nat) (ws : List W64) (s : State),
    s.pwr.ready = true → s.bgd.takeover = false → s.cmd.intakeOpen = true → domOn s 3 = true → s.net[0].cfg.enable = true →
    (lengthOk ws = false →
      ∃ s', Machine.exec (.commandIntake t .eth0 src ws) s = .next s' ∧ s'.cmd.slots = s.cmd.slots ∧
        s' = refuseEarly (slotOfPacket .eth0 src ws) Status.badLength (advance t s)) ∧
    (lengthOk ws = true → fld (ws.getD 1 0) 10 0 = 0 → fld (ws.getD 0 0) 24 24 = 0 → (slotOfPacket .eth0 src ws).session = 0 →
      sessionOf s 0 = none → contentFailure (advance t s) (slotOfPacket .eth0 src ws) ws = none → 64 ≤ s.cmd.slots.length →
      ∃ s', Machine.exec (.commandIntake t .eth0 src ws) s = .next s' ∧ s'.cmd.slots = s.cmd.slots ∧
        s' = refuseLate (slotOfPacket .eth0 src ws) Status.commandLimit (advance t s)))

/-- INTERIM_REPLY, UDP_REPLY_SEND and URARA_REPLY_RECEIVE (R33, R48, R49): a command without a final reply is answered once with status 0x0001, `final` 0 and no results; a
committed reply leaves in a datagram and frees its slot; a final reply to a forwarded command goes on to the command's transport and frees its entry. REPLY_RING_WRITE
(R47): the reply at the head of the commit order is written into the descriptor of a buffer of at least 2,080 bytes and returned; a smaller buffer goes back with
SHORT_BUFFER and the reply waits. -/
def Obligations.RepliesLeaveInOrder : Prop :=
  ((∀ (t cid : Nat) (c : Slot) (s : State), slotOf s cid = some c → c.phase ≠ .committed → c.interim = false → c.quiet = false →
    c.bcast = false → c.op ≠ Op.reset → c.op ≠ Op.zeroise →
    Machine.exec (.interimReply t cid) s = .next (sendReply c.tr c.src c.cid
      (sealReply s c.session (replyWords c s.node false false 0x0001 0 []))
      (modSlot cid (fun x => { x with interim := true }) (advance t s)))) ∧
  (∀ (t cid : Nat) (c : Slot) (s : State), slotOf s cid = some c → c.phase = .committed → isEth c.tr = true → domOn s 3 = true →
    ∃ s', Machine.exec (.udpReplySend t cid) s = .next s' ∧ s'.outbox = .reply c.tr c.src c.reply :: s.outbox ∧
      s'.cmd.slots = s.cmd.slots.filter (fun x => x.cid != cid) ∧
      s' = { advance t s with cmd := s'.cmd, net := s'.net, outbox := s'.outbox }) ∧
  (∀ (t : Nat) (reply : List W64) (f : Forward) (s : State), domOn s 10 = true →
    s.cmd.forwards.find? (fun f => answers f reply) = some f → fld (reply.getD 0 0) 24 24 = 1 →
    Machine.exec (.uraraReplyReceive t reply) s = .next (sendReply f.tr f.src s.cmd.nextCid reply
      { advance t s with
        cmd.forwards := s.cmd.forwards.filter (fun g => !answers g reply), cmd.nextCid := s.cmd.nextCid + 1 }))) ∧
  (∀ (t cid : Nat) (r : Fin 16) (d : DescWords) (ws : List W64) (rest : List (Nat × List W64)) (s : State),
    replyRing s = some r → (workAt s r).desc = some d → s.cmd.replyQ = (cid, ws) :: rest →
    (fld d.w2 31 0 < 2080 → Machine.exec (.replyRingWrite t cid) s = .next (completeDesc r 1 0 (advance t s))) ∧
    (2080 ≤ fld d.w2 31 0 → fld d.w2 36 36 = 0 → fld (ws.getD 0 0) 24 24 = 1 →
      Machine.exec (.replyRingWrite t cid) s = .next (completeDesc r 0 (wordsBytes ws).length
        (emit (.hostBytes d.w0.toNat (wordsBytes ws)) (handedOver cid { advance t s with cmd.replyQ := rest })))))

/-- A final reply (R31 to R33, R38, R41): it is committed with its status and kept in the session's cache; on a ring with PCIE on it joins the commit order of ring 2; a quiet
command of status 0 has none, and its slot is free. Only the command service, the ports that wait for a reply, the link and the outputs change. -/
def Obligations.FinalReplyCommits : Prop :=
  ∀ (cid status fault : Nat) (results : List W64) (c : Slot) (s : State), slotOf s cid = some c →
    Ended cid status (finish cid status fault results s) ∧
    finish cid status fault results s = { s with
      cmd := (finish cid status fault results s).cmd, net := (finish cid status fault results s).net,
      ura := (finish cid status fault results s).ura, outbox := (finish cid status fault results s).outbox } ∧
    (c.quiet = false → c.bcast = false → (c.tr = .ring0 ∨ c.tr = .ring1) → domOn s 4 = true →
      (finish cid status fault results s).cmd.replyQ =
        s.cmd.replyQ ++ [(cid, sealReply s c.session (replyWords c s.node true false status fault results))]) ∧
    (c.quiet = true → status = 0 → slotOf (finish cid status fault results s) cid = none)

/-- A fault (R541 to R543): it is counted by its class and sent as an event at the present device time, and a device-class fault other than HEAD_OVERTEMP becomes active. A
fault changes nothing but the Crier, its interrupt, the outputs, the counts, the Stalls' permits and the yield of a pair. -/
def Obligations.FaultCountsByClass : Prop :=
  ∀ (code detail : Nat) (s : State),
    (classOf code = 1 → (raise code detail s).flt = { s.flt with correctable := min 0xFFFFFFFF (s.flt.correctable + 1) }) ∧
    (classOf code = 2 → (raise code detail s).flt = { s.flt with line := min 0xFFFF (s.flt.line + 1) }) ∧
    (classOf code = 3 → (raise code detail s).flt = { s.flt with product := min 0xFFFF (s.flt.product + 1) }) ∧
    (classOf code = 4 → code ≠ FaultCode.headOvertemp → code ∈ (raise code detail s).flt.active ∧
      (raise code detail s).flt.deviceCount = min 255 (s.flt.deviceCount + 1)) ∧
    raise code detail s = { s with
      cri := (raise code detail s).cri, bar := (raise code detail s).bar, outbox := (raise code detail s).outbox,
      flt := (raise code detail s).flt, stl := (raise code detail s).stl, twn := (raise code detail s).twn }

/-- A Crier event (R513 to R515, R571): with its class masked it leaves no trace; within the class's limit of the device second and with room in the queue it is the newest
record, with the code, class, time and detail it was given; beyond the limit it counts as lost. An interrupt (R81, R82): the bit of INT_STATUS becomes 1; when it was 0
and is enabled, its vector's message is sent, or kept in the pending-bit array while that vector is masked; when it was 1 already nothing is sent. -/
def Obligations.EventsQueueAndInterrupt : Prop :=
  (∀ (e : Event) (s : State), e.cls < 5 →
    (bit s.cri.mask e.cls = false → (crierPut e s).cri.queue = s.cri.queue ∧ (crierPut e s).cri.lost = s.cri.lost) ∧
    (bit s.cri.mask e.cls = true → stampSec e.time = s.cri.sec → s.cri.rate ≤ s.cri.sent.toList.getD e.cls 0 →
      (crierPut e s).cri.queue = s.cri.queue ∧ (crierPut e s).cri.lost = s.cri.lost + 1) ∧
    (bit s.cri.mask e.cls = true → stampSec e.time ≠ s.cri.sec → 0 < s.cri.rate → s.cri.queue.length < 3840 →
      (crierPut e s).cri.queue = s.cri.queue ++ [e] ∧ (crierPut e s).cri.lost = s.cri.lost)) ∧
  (∀ (i : Fin 39) (s : State),
    (setInt i.val s).bar.intStatus.getLsbD i.val = true ∧
    (∀ j : Fin 64, j.val ≠ i.val → (setInt i.val s).bar.intStatus.getLsbD j.val = s.bar.intStatus.getLsbD j.val) ∧
    (s.bar.intStatus.getLsbD i.val = true → (setInt i.val s).outbox = s.outbox ∧ (setInt i.val s).bar.pba = s.bar.pba) ∧
    (∀ v : Fin 32, intVectorOf s.bar i.val = v.val → s.bar.intStatus.getLsbD i.val = false → s.bar.intEnable.getLsbD i.val = true →
      (s.bar.msix[v].masked = false → (setInt i.val s).outbox = .msi v.val :: s.outbox ∧ (setInt i.val s).bar.pba = s.bar.pba) ∧
      (s.bar.msix[v].masked = true → (setInt i.val s).outbox = s.outbox ∧ (setInt i.val s).bar.pba = s.bar.pba ||| 2 ^ v.val)) ∧
    setInt i.val s = { s with bar := (setInt i.val s).bar, outbox := (setInt i.val s).outbox })

/-- RING_TAIL_WRITE, RING_HEAD_WRITE, RING_PAUSE, RING_RESUME, RING_ENABLE, RING_DISABLE, RING_PAUSE_COMPLETE (R70, R73 to R76): a tail of at most 2^n descriptors beyond the
head is taken and any other sets `error` with BAD_DESC; the head takes a write while the ring is disabled and keeps its value otherwise; pause, resume, enable and disable
act on their bits, a resume being ignored while `error` is 1; a pause completes when what was issued has arrived. SHADOW_ARM_WRITE (R77, R78): shadow RING_CTRL takes the
word; with `arm` set on an enabled, idle ring that is not paused the switch happens at once: the active registers take the shadow's, `switched` is set, the switch is
counted and `arm` returns to 0; on a ring with work left `arm` stays set and nothing switches yet. RING_STATUS_CLEAR, INT_STATUS_CLEAR, MSIX_VECTOR_UNMASK,
RING_HOLDOFF_EXPIRY (R7, R73, R81, R82): bits written 1 are cleared and no other; a vector whose mask is cleared sends the message held back; a hold-off that has passed
sets the ring's done bit and starts its count again. BAR0_REGISTER_WRITE and FUNCTION_LEVEL_RESET (R7, R8, R58, R81, R83): an aligned 64-bit write reaches its register
and a 32-bit write the addressed half alone; a read-only or unlisted offset, a misaligned access and any other size change nothing; a function-level reset returns every
register outside the mailbox to its reset value. -/
def Obligations.HostRegistersWork : Prop :=
  (∀ (t : Nat) (r : Fin 16) (v : W32) (s : State), domOn s 4 = true →
    ((v - (ringAt s r).head).toNat ≤ 2 ^ (ringAt s r).log2n →
      Machine.exec (.ringTailWrite t r v) s = .next (modRing r (fun g => { g with tail := v }) (advance t s))) ∧
    (2 ^ (ringAt s r).log2n < (v - (ringAt s r).head).toNat →
      Machine.exec (.ringTailWrite t r v) s = .next (attend r (modRing r (fun g => { g with
        error := true, errCode := 6, errIndex := g.head }) (advance t s)))) ∧
    ((ringAt s r).enable = false → Machine.exec (.ringHeadWrite r v) s = .next (modRing r (fun g => { g with head := v }) s)) ∧
    ((ringAt s r).enable = true → Machine.exec (.ringHeadWrite r v) s = .next s) ∧
    Machine.exec (.ringPause t r) s = .next (modRing r (fun g => { g with pause := true }) (advance t s)) ∧
    ((ringAt s r).error = false → Machine.exec (.ringResume t r) s = .next (modWork r (fun w => { w with deadline := none })
      (modRing r (fun g => { g with pause := false, paused := false }) (advance t s)))) ∧
    ((ringAt s r).error = true → Machine.exec (.ringResume t r) s = .next (advance t s)) ∧
    ((ringAt s r).enable = false → (workAt s r).stopping = false →
      (3 ≤ (ringAt s r).log2n → (ringAt s r).log2n ≤ 16 → Machine.exec (.ringEnable t r) s =
        .next (modRing r (fun g => { g with enable := true, switchCnt := 0, doneBytes := 0 }) (advance t s))) ∧
      ((ringAt s r).log2n < 3 ∨ 16 < (ringAt s r).log2n → Machine.exec (.ringEnable t r) s = .next (attend r (modRing r (fun g => { g with
        enable := true, switchCnt := 0, doneBytes := 0, pause := true, paused := true, error := true, errCode := 6, errIndex := g.head })
        (advance t s))))) ∧
    ((ringAt s r).enable = true →
      ((workAt s r).desc.isSome = true → (ringAt s r).paused = false → Machine.exec (.ringDisable t r) s =
        .next (modWork r (fun w => { w with stopping := true }) (modRing r (fun g => { g with enable := false, pause := true }) (advance t s)))) ∧
      ((workAt s r).desc = none → (ringAt s r).doneBytes = 0 → Machine.exec (.ringDisable t r) s =
        .next (modWork r (fun w => { w with desc := none, moved := [], stopping := false })
          (modRing r (fun g => { g with enable := false, pause := false, paused := false, doneBytes := 0 }) (advance t s))))) ∧
    ((ringAt s r).pause = true → (ringAt s r).paused = false → (workAt s r).desc = none → (workAt s r).stopping = false →
      Machine.exec (.ringPauseComplete t r []) s = .next (attend r (modRing r (fun g => { g with paused := true }) (advance t s))))) ∧
  (∀ (t : Nat) (r : Fin 16) (v : W64) (s : State), domOn s 4 = true → fbit v 2 = true → (ringAt s r).enable = true → (ringAt s r).pause = false →
    ∃ s', Machine.exec (.shadowArmWrite t r v) s = .next s' ∧ s' = { advance t s with bar := s'.bar, outbox := s'.outbox } ∧
    ((ringAt s r).head = (ringAt s r).tail →
      (ringAt s' r).base = (ringAt s r).sBase ∧ (ringAt s' r).log2n = (ringAt s r).sLog2n ∧ (ringAt s' r).head = (ringAt s r).sHead ∧
      (ringAt s' r).tail = (ringAt s r).sTail ∧ (ringAt s' r).switched = true ∧ (ringAt s' r).arm = false ∧ (ringAt s' r).doneBytes = 0 ∧
      (ringAt s' r).switchCnt = ((ringAt s r).switchCnt + 1) % 256 ∧ (ringAt s' r).vector = fld v 28 24 ∧
      s'.bar.intStatus.getLsbD (16 + r.val) = true) ∧
    ((ringAt s r).head ≠ (ringAt s r).tail →
      (ringAt s' r).base = (ringAt s r).base ∧ (ringAt s' r).head = (ringAt s r).head ∧ (ringAt s' r).arm = true ∧
      (ringAt s' r).switchCnt = (ringAt s r).switchCnt ∧ s'.outbox = s.outbox)) ∧
  (∀ (t : Nat) (r : Fin 16) (vec : Fin 32) (v : W64) (s : State), domOn s 4 = true →
    Machine.exec (.ringStatusClear t r v) s = .next (modRing r (fun g => { g with
      error := g.error && !fbit v 3, domainOff := g.domainOff && !fbit v 4,
      switched := g.switched && !fbit v 5, lateWrite := g.lateWrite && !fbit v 6 }) (advance t s)) ∧
    Machine.exec (.intStatusClear t v) s = .next { advance t s with bar.intStatus := s.bar.intStatus &&& ~~~v } ∧
    (bit s.bar.pba vec.val = true → Machine.exec (.msixVectorUnmask t vec) s = .next { advance t s with
      bar.msix := upd s.bar.msix vec fun e => { e with masked := false }, bar.pba := s.bar.pba - 2 ^ vec.val,
      outbox := .msi vec.val :: s.outbox }) ∧
    (0 < (workAt s r).irqCount → 0 < (ringAt s r).holdoff → (workAt s r).irqFirst + 1000 * (ringAt s r).holdoff ≤ t →
      Machine.exec (.ringHoldoffExpiry t r) s = .next (setInt r.val (modWork r (fun w => { w with irqCount := 0 }) (advance t s))))) ∧
  (∀ (t : Nat) (v : W64) (s : State), domOn s 4 = true →
    Machine.exec (.bar0RegisterWrite t 0x1008 8 v) s = .next { advance t s with bar.intEnable := v &&& 0x7FFFFFFFFF } ∧
    Machine.exec (.bar0RegisterWrite t 0x1008 4 v) s = .next { advance t s with
      bar.intEnable := word (put (s.bar.intEnable.toNat / 2 ^ 32) 32 + v.toNat % 2 ^ 32) &&& 0x7FFFFFFFFF } ∧
    Machine.exec (.bar0RegisterWrite t 0x100C 4 v) s = .next { advance t s with
      bar.intEnable := word (put (v.toNat % 2 ^ 32) 32 + s.bar.intEnable.toNat % 2 ^ 32) &&& 0x7FFFFFFFFF } ∧
    (∀ off ∈ [0x0000, 0x0008, 0x0010, 0x0018, 0x0100, 0x0108, 0x1C00, 0x3000],
      Machine.exec (.bar0RegisterWrite t off 8 v) s = .next (advance t s)) ∧
    Machine.exec (.bar0RegisterWrite t 0x1004 8 v) s = .next (advance t s) ∧
    Machine.exec (.bar0RegisterWrite t 0x1008 2 v) s = .next (advance t s) ∧
    (∃ s', Machine.exec (.functionLevelReset t) s = .next s' ∧ s' = { advance t s with bar := s'.bar } ∧
      s'.bar.rings = Bar.ringsAtReset ∧ s'.bar.intStatus = 0 ∧ s'.bar.intEnable = 0 ∧ s'.bar.intVector = 16 ∧
      s'.bar.mbxArg = s.bar.mbxArg ∧ s'.bar.mbxResult = s.bar.mbxResult ∧ s'.bar.mbxBusy = s.bar.mbxBusy ∧
      ∀ r : Fin 16, (workAt s' r).units = (workAt s r).units ∧ (workAt s' r).desc = none))

/-- DESCRIPTOR_FETCH (R66 to R71, R79): the descriptor at the head of a running ring is held; one that breaks a rule completes at once with BAD_DESC, one that leaves the host
range with BAD_RANGE. DESCRIPTOR_COMPLETE (R66 to R71): data of a host-to-device ring reach the Well at the descriptor's address and the descriptor completes with code 0
and their length; a general ring's descriptor returns the Well's bytes to the host; a host abort completes it with code 4; on a command ring it completes once intake has
taken all. A descriptor's completion (R66, R67, R70): words 3 and 2 are written back in that order to its place in host memory, `head` advances by one and `done_bytes`
returns to 0; a code of 4 and above other than FLUSHED stops the ring with `error` and the code, DOMAIN_OFF pauses it. -/
def Obligations.DescriptorsAreServed : Prop :=
  (∀ (t : Nat) (r : Fin 16) (d : DescWords) (s : State), ringRuns s r = true → (ringAt s r).head ≠ (ringAt s r).tail →
    (workAt s r).desc = none → (workAt s r).deadline = none → (∀ k ∈ roleDomains (ringAt s r).role, domOn s k = true) →
    let held := modWork r (fun w => { w with desc := some d, moved := [] }) (modRing r (fun g => { g with doneBytes := 0 }) (advance t s))
    (badDesc s (ringAt s r) d = false → badRange s (ringAt s r) d = false → Machine.exec (.descriptorFetch t r d) s = .next held) ∧
    (badDesc s (ringAt s r) d = true → Machine.exec (.descriptorFetch t r d) s = .next (completeDesc r 6 0 held)) ∧
    (badDesc s (ringAt s r) d = false → badRange s (ringAt s r) d = true →
      Machine.exec (.descriptorFetch t r d) s = .next (completeDesc r 5 0 held))) ∧
  (∀ (t : Nat) (r : Fin 16) (d : DescWords) (x : Xfer) (s : State), (workAt s r).desc = some d →
    (ringAt s r).enable = true → (ringAt s r).paused = false → domOn s 4 = true →
    (x.how = .hostAbort → Machine.exec (.descriptorComplete t r x) s = .next (completeDesc r 4 (ringAt s r).doneBytes (advance t s))) ∧
    (x.how = .full → (ringAt s r).role = .commandIn → (ringAt s r).doneBytes = fld d.w2 31 0 →
      Machine.exec (.descriptorComplete t r x) s = .next (completeDesc r 0 (ringAt s r).doneBytes (advance t s))) ∧
    (x.how = .full → (ringAt s r).role = .generalIn → (workAt s r).moved = [] → (workAt s r).input = 0 → fbit d.w2 37 = false → fbit d.w2 34 = false →
      x.data.length = fld d.w2 31 0 →
      Machine.exec (.descriptorComplete t r x) s = .next (completeDesc r 0 x.data.length (wellWrite d.w1.toNat x.data (advance t s)))) ∧
    (x.how = .full → (ringAt s r).role = .generalOut → (workAt s r).units = [] → fbit d.w2 36 = false → fbit d.w2 33 = false →
      poisoned s d.w1.toNat (fld d.w2 31 0) = false →
      Machine.exec (.descriptorComplete t r x) s = .next (completeDesc r 0 (wellRead s d.w1.toNat (fld d.w2 31 0)).length
        (emit (.hostBytes d.w0.toNat (wellRead s d.w1.toNat (fld d.w2 31 0))) (advance t s))))) ∧
  (∀ (r : Fin 16) (code placed : Nat) (d : DescWords) (s : State), (workAt s r).desc = some d → fbit d.w2 35 = false → fbit d.w2 38 = false →
    let s' := completeDesc r code placed s
    (ringAt s' r).head = (ringAt s r).head + 1 ∧ (ringAt s' r).doneBytes = 0 ∧ (workAt s' r).desc = none ∧
    (code < 3 → s'.outbox = .hostWords (descAddr (ringAt s r) (ringAt s r).head + 16)
        [word (d.w2.toNat - fld d.w2 31 0 - put (flag (fbit d.w2 32)) 32 + placed)] ::
      .hostWords (descAddr (ringAt s r) (ringAt s r).head + 24) [word (code + put ((ringAt s r).head + 1).toNat 16)] :: s.outbox) ∧
    (code = 3 → (ringAt s' r).paused = true ∧ (ringAt s' r).domainOff = true) ∧
    (4 ≤ code → code ≠ 7 → (ringAt s' r).paused = true ∧ (ringAt s' r).error = true ∧ (ringAt s' r).errCode = code ∧
      (ringAt s' r).errIndex = (ringAt s r).head) ∧
    s' = { s with bar := s'.bar, outbox := s'.outbox })

/-- RING_DOMAIN_DEADLINE, RING_ROLE, WELL_READ and WELL_WRITE (R63, R64, R79, R573): 1 ms after the request a descriptor that is not whole completes with DOMAIN_OFF; a
disabled ring takes its role, an enabled one is refused with RING_BUSY; a Well range leaves on an output ring as the command's last unit, or is taken from an input ring.
MBX_BOOT_LOG, MBX_DEVICE_CERT, MBX_RECOVERY_LOAD, MBX_RETRY_BOOT and MAILBOX_OPERATION_END (R84, R86): before ready, the boot log or the device certificate is written to
host memory as far as arg1 allows, with `out` its bytes; a recovery load starts; a retry restarts boot at stage 0x01; the end clears `busy`, gives the result and raises
the cause `mbx`. That the device certificate is certificate 0 of the part is the model's reading (log entry 25). -/
def Obligations.HostCommandsAnswer : Prop :=
  ((∀ (t t0 : Nat) (r : Fin 16) (d : DescWords) (s : State), (workAt s r).deadline = some t0 → t0 + 1000000 ≤ t → (workAt s r).desc = some d →
    (ringAt s r).doneBytes ≠ fld d.w2 31 0 → Machine.exec (.ringDomainDeadline t r) s =
      .next (completeDesc r 3 (ringAt s r).doneBytes (modWork r (fun w => { w with deadline := none }) (advance t s)))) ∧
  (∀ (t cid : Nat) (c : Slot) (r : Fin 16) (s : State), Starts Op.ringRole cid c s → parN c 0 = r.val →
    (∀ role, roleOfCode (parN c 1) = some role →
      ((ringAt s r).enable = false → Machine.exec (.ringRole t cid) s = .next (done c (modRing r (fun g => { g with role := role }) (startedAt t cid s)))) ∧
      ((ringAt s r).enable = true → Machine.exec (.ringRole t cid) s = .next (refuse c Status.ringBusy (startedAt t cid s))))) ∧
  (∀ (t cid : Nat) (c : Slot) (s : State), Starts Op.wellRead cid c s → outRing s (parN c 2) = true → 0 < parN c 1 →
    rangeFailure s (parN c 0) (parN c 1) = none → poisoned s (parN c 0) (parN c 1) = false →
    Machine.exec (.wellRead t cid) s = .next (queueUnits (parN c 2)
      [{ data := wellRead s (parN c 0) (parN c 1), cid := c.cid, final := true, split := true }] (startedAt t cid s))) ∧
  (∀ (t cid : Nat) (c : Slot) (r : Fin 16) (s : State), Starts Op.wellWrite cid c s → parN c 2 = r.val → inRing s r.val = true → 0 < parN c 1 →
    (rangeFailure s (parN c 0) (parN c 1) = none → Machine.exec (.wellWrite t cid) s = .next (modWork r (fun w => { w with
      input := c.cid, inAddr := parN c 0, inLeft := parN c 1, got := [] }) (startedAt t cid s))) ∧
    (s.well.bytes < parN c 0 + parN c 1 → Machine.exec (.wellWrite t cid) s = .next (refuse c Status.badRange (startedAt t cid s))) ∧
    (parN c 0 + parN c 1 ≤ s.well.bytes → s.well.bytes - 8 * 2 ^ 30 < parN c 0 + parN c 1 →
      Machine.exec (.wellWrite t cid) s = .next (refuse c Status.protectedRange (startedAt t cid s))))) ∧
  (∀ (t : Nat) (v : ImgVerdict) (ok : Bool) (s : State),
    (mbxReady s 1 = true → Machine.exec (.mbxBootLog t) s = .next { advance t s with
      bar.mbxRun := true, bar.mbxOut := (Config.bootLog.take (s.bar.mbxArg[1]).toNat).length % 2 ^ 32,
      outbox := .hostBytes (s.bar.mbxArg[0]).toNat (Config.bootLog.take (s.bar.mbxArg[1]).toNat) :: s.outbox }) ∧
    (mbxReady s 2 = true → Machine.exec (.mbxDeviceCert t) s = .next { advance t s with
      bar.mbxRun := true, bar.mbxOut := ((Config.cert 0).take (s.bar.mbxArg[1]).toNat).length % 2 ^ 32,
      outbox := .hostBytes (s.bar.mbxArg[0]).toNat ((Config.cert 0).take (s.bar.mbxArg[1]).toNat) :: s.outbox }) ∧
    (mbxReady s 3 = true → Machine.exec (.mbxRecoveryLoad t) s = .next { advance t s with bar.mbxRun := true }) ∧
    (mbxReady s 4 = true → Machine.exec (.mbxRetryBoot t) s = .next { advance t s with
      bar.mbxRun := true, pwr.stage := 1, pwr.stageAt := (advance t s).now, pwr.bootError := 0, pwr.lanesDone := false }) ∧
    (s.bar.mbxBusy = true → s.bar.mbxRun = true → s.bar.mbxOp ≠ 3 → ∃ s', Machine.exec (.mailboxOperationEnd t v ok) s = .next s' ∧
      s'.bar.mbxBusy = false ∧ s'.bar.mbxResult = 0 ∧ s'.bar.intStatus.getLsbD 33 = true ∧ s' = { advance t s with bar := s'.bar, outbox := s'.outbox }) ∧
    (s.bar.mbxBusy = true → s.bar.mbxRun = true → s.bar.mbxOp = 3 → imgFailure (advance t s) v = none → ok = true →
      ∀ slot : Fin 2, (s.bar.mbxArg[2]).toNat = slot.val → ∃ s', Machine.exec (.mailboxOperationEnd t v ok) s = .next s' ∧
      s'.bar.mbxBusy = false ∧ s'.bar.mbxResult = 0 ∧ s'.kry.images[slot] = { header := v.header } ∧ s'.pwr.stage = 1))

/-- The four algorithms of R444 with their settings and the check value of the nine bytes "123456789" that identifies each. CHECK_RUN in its three modes and
CHECK_SCAN_COMPLETE (R446 to R449, R452, R573): a scan of a good range starts and its end answers the check value of the bytes; a load of a good record with no context
held sets the unit and answers the value of the nine bytes; a store writes the record and the counters to the Well. CHECK_UNIT_SELFCHECK (R451): a unit that finds its
load value again stays as it is; one that finds another is failed, the failure is counted, and its settings stay. -/
def Obligations.CheckUnitsWork : Prop :=
  ((CheckCfg.crc32c = { width := 32, poly := 0x1EDC6F41, init := 0xFFFFFFFF, refin := true, refout := true, xorout := 0xFFFFFFFF, fixed := 0 } ∧
    crc CheckCfg.crc32c checkText = 0xE3069283) ∧
  (CheckCfg.crc32 = { width := 32, poly := 0x04C11DB7, init := 0xFFFFFFFF, refin := true, refout := true, xorout := 0xFFFFFFFF, fixed := 0 } ∧
    crc CheckCfg.crc32 checkText = 0xCBF43926) ∧
  (CheckCfg.crc16 = { width := 16, poly := 0x1021, init := 0xFFFF, refin := false, refout := false, xorout := 0, fixed := 0 } ∧
    crc CheckCfg.crc16 checkText = 0x29B1) ∧
  (CheckCfg.crc64 = { width := 64, poly := 0x42F0E1EBA9EA3693, init := 2 ^ 64 - 1, refin := true, refout := true, xorout := 2 ^ 64 - 1, fixed := 0 } ∧
    crc CheckCfg.crc64 checkText = 0x995DC9BBDF1939FA)) ∧
  ((∀ (t cid : Nat) (agree : Bool) (c : Slot) (u : Fin 5) (s : State), Starts Op.checkRun cid c s → unitOf (parF c 0 2 0) = some u →
    rangeFailure s (parN c 1) (parN c 2) = none →
    (parF c 0 9 8 = 0 → 0 < parN c 2 → parN c 2 ≤ 2 ^ 40 → s.chk.scans.length < 4 → (servedBy s u).isSome = true →
      Machine.exec (.checkRun t cid agree) s = .next { startedAt t cid s with
        chk.scans := s.chk.scans ++ [{ cid := c.cid, unit := u, addr := parN c 1, len := parN c 2 }] }) ∧
    (∀ cfg, parF c 0 9 8 = 1 → parN c 2 = 32 → parN c 1 % 8 = 0 → poisoned s (parN c 1) 32 = false →
      recordCfg u (wordsOf (wellRead s (parN c 1) 32)) = some cfg → contextHeld s u = false → agree = true →
      Machine.exec (.checkRun t cid agree) s = .next (answer c [word (crc cfg checkText)] { startedAt t cid s with
        chk.units := upd s.chk.units u fun x => { x with cfg := cfg, loadValue := crc cfg checkText, failed := false },
        led.broken := s.led.broken.filter fun h => !(match h with | .check q _ => q == u | _ => false) })) ∧
    (parF c 0 9 8 = 2 → parN c 2 = 64 → parN c 1 % 8 = 0 →
      Machine.exec (.checkRun t cid agree) s = .next (answer c [0]
        (wellWrite (parN c 1) (wordsBytes (storeWords u s.chk.units[u])) (startedAt t cid s))))) ∧
  (∀ (t cid : Nat) (c : Slot) (x : Scan) (cfg : CheckCfg) (s : State), Runs Op.checkRun cid c s →
    s.chk.scans.find? (fun y => y.cid == cid) = some x → poisoned s x.addr x.len = false → servedBy s x.unit = some cfg →
    Machine.exec (.checkScanComplete t cid) s = .next (answer c [word (crc cfg (wellRead s x.addr x.len))]
      (countUse x.unit x.len { advance t s with chk.scans := s.chk.scans.filter (fun y => y.cid != cid) })))) ∧
  (∀ (t value : Nat) (u : Fin 4) (s : State), s.chk.units[u.castSucc].failed = false →
    (value = s.chk.units[u.castSucc].loadValue → Machine.exec (.checkUnitSelfcheck t u value) s = .next (advance t s)) ∧
    (value ≠ s.chk.units[u.castSucc].loadValue → ∃ s', Machine.exec (.checkUnitSelfcheck t u value) s = .next s' ∧
      s'.chk.units[u.castSucc].failed = true ∧ s'.chk.units[u.castSucc].cfg = s.chk.units[u.castSucc].cfg ∧
      s'.chk.units[u.castSucc].selfFails = min 0xFFFFFFFF (s.chk.units[u.castSucc].selfFails + 1) ∧
      s'.flt.deviceCount = s.flt.deviceCount ∧ s'.well = s.well ∧ s'.led = s.led))

/-- CAL_READ, CAL_WRITE and PULSE_TABLE_LOAD (R243, R489, R490): the stored records of the items named leave on the ring; a record in order is staged as a write of its item
and goes to the Ledger's cells, its command waiting; one that is not in order is refused with BAD_CAL_ITEM. CAL_STAGING_COMMIT, CAL_RUN and CAL_RUN_COMPLETE (R464, R490,
R493, R494): a staged record whose commit word is durable becomes the item's stored record, stamped with the device second; a run that nothing refuses is in progress; its
result is written under the run's command, and measurements that disagree end it with CAL_DISAGREE and no write. LEDGER_WRITE_COMPLETE and LEDGER_SECTOR_SPARE_COPY (R308,
R480, R484): a journal part that reads back as written is durable here and leaves the controller; one that does not is tried again up to three times; a spared sector
whose words are copied copies no more. -/
def Obligations.CalibrationIsKept : Prop :=
  (∀ (t cid : Nat) (c : Slot) (s : State),
    (Starts Op.calRead cid c s → outRing s (parN c 1) = true →
      (parN c 0 ∈ calItems → Machine.exec (.calRead t cid) s = .next (outputOn c (parN c 1) [storedRecord s (parN c 0)] (startedAt t cid s))) ∧
      (parN c 0 = 2 ^ 64 - 1 → Machine.exec (.calRead t cid) s =
        .next (outputOn c (parN c 1) (calItems.map (storedRecord s)) (startedAt t cid s)))) ∧
    (Starts Op.calWrite cid c s → rangeFailure s (parN c 1) (parN c 2) = none → poisoned s (parN c 1) (parN c 2) = false → parN c 0 ∈ calItems →
      (∀ x, suppliedItem (startedAt t cid s) (parN c 0) (wellRead s (parN c 1) (parN c 2)) = some x → calBusy s (parN c 0) = false → s.led.staging = [] →
        Machine.exec (.calWrite t cid) s = .next { startedAt t cid s with
          led.staging := [{ new := x, cid := c.cid, results := [] }], led.writes := s.led.writes ++ [.cal x.item] }) ∧
      (suppliedItem (startedAt t cid s) (parN c 0) (wellRead s (parN c 1) (parN c 2)) = none →
        Machine.exec (.calWrite t cid) s = .next (refuse c Status.badCalItem (startedAt t cid s)))) ∧
    (Starts Op.pulseTableLoad cid c s → rangeFailure s (parN c 1) (parN c 2) = none → poisoned s (parN c 1) (parN c 2) = false → parN c 0 < 24 →
      ∀ x, suppliedItem (startedAt t cid s) (0x140 + parN c 0) (wellRead s (parN c 1) (parN c 2)) = some x → calBusy s (0x140 + parN c 0) = false →
      s.led.staging = [] → Machine.exec (.pulseTableLoad t cid) s = .next { startedAt t cid s with
        led.staging := [{ new := x, cid := c.cid, results := [] }], led.writes := s.led.writes ++ [.cal x.item] })) ∧
  ((∀ (t : Nat) (w : CalWrite) (rest : List CalWrite) (s : State), s.led.staging = w :: rest → w.staged = true →
    ∃ s', Machine.exec (.calStagingCommit t) s = .next s' ∧ s'.led.staging = rest ∧
      { w.new with written := devSec (advance t s) } ∈ s'.led.items ∧
      (∀ y ∈ s'.led.items, y.item = w.new.item → y.body = w.new.body) ∧ s'.well = s.well) ∧
  (∀ (t cid : Nat) (c : Slot) (s : State), Starts Op.calRun cid c s → runNamed (parN c 0) (parN c 1) = true →
    (parN c 0 ∈ [0x180, 0x181, 0x182, 0x183, 0x184] → calBusy s (parN c 0) = false → runInUse s (parN c 0) (parN c 1) = none →
      Machine.exec (.calRun t cid) s = .next { startedAt t cid s with
        led.runs := s.led.runs ++ [{ item := parN c 0, inst := parN c 1, cid := c.cid }] }) ∧
    (parN c 0 = 0x160 → ddrRefusal s (parN c 1) = none → calBusy s 0x160 = false → calBusy s 0x161 = false →
      Machine.exec (.calRun t cid) s = .next { startedAt t cid s with
        led.runs := s.led.runs ++ [{ item := 0x160, inst := parN c 1, cid := c.cid }] }) ∧
    (parN c 0 < 0x40 → calBusy s (parN c 0) = false → densityRefusal s (parN c 0) (parN c 1) = none →
      Machine.exec (.calRun t cid) s = .next { startedAt t cid s with
        prod.wants := s.prod.wants ++ densityWants s (parN c 0) (parN c 1),
        led.runs := s.led.runs ++ [{ item := parN c 0, inst := parN c 1, cid := c.cid }] })) ∧
  (∀ (t : Nat) (r : CalRunning) (m : CalMeasure) (s : State), s.led.runs.find? (fun x => x.item == r.item && x.cid != 0) = some r →
    r.item ∈ [0x180, 0x181, 0x182, 0x183, 0x184] →
    (m.agree = true → m.inRange = true → siliconOk r.item (runBody ((itemBody s r.item).getD []) m.body r.item r.inst m.quality) = true →
      ∃ s', Machine.exec (.calRunComplete t r.item m) s = .next s' ∧ s'.led.runs = s.led.runs.filter (fun x => x != r) ∧
        s'.led.staging = s.led.staging ++ [CalWrite.mk
          { item := r.item, body := runBody ((itemBody s r.item).getD []) m.body r.item r.inst m.quality, quality := m.quality, origin := 1 }
          r.cid [word m.quality] false false false] ∧ s' = { advance t s with led := s'.led, bgd := s'.bgd }) ∧
    (m.agree = false → ∃ s', Machine.exec (.calRunComplete t r.item m) s = .next s' ∧ s'.led.staging = s.led.staging ∧ s'.led.items = s.led.items ∧
      s'.led.runs = s.led.runs.filter (fun x => x != r) ∧ Ended r.cid Status.faultNoEffect s'))) ∧
  (∀ (t n kind sector : Nat) (rest : List LWrite) (s : State), 
    (s.led.writes = .part n kind :: rest → s.led.failing = [] → s.led.sparesOut = false →
      ((s.led.counts.find? fun c => c.1 == physSector s (n % 98304 / 32)).map (·.2)).getD 0 + 1 < 1000000000000 →
      (s.twn.ackDue = [] → ∃ s', Machine.exec (.ledgerWriteComplete t true) s = .next s' ∧ s'.led.writes = rest ∧ s'.led.tries = 0 ∧
        s'.tal = { s.tal with journal := mapWhere (fun r => r.num == n) (fun r => { r with local_ := r.local_ ||| 2 ^ kind }) s.tal.journal } ∧
        s' = { advance t s with tal := s'.tal, led := s'.led }) ∧
      (s.led.tries < 3 → ∃ s', Machine.exec (.ledgerWriteComplete t false) s = .next s' ∧ s'.led.writes = s.led.writes ∧ s'.led.tries = s.led.tries + 1 ∧
        s' = { advance t s with led := s'.led })) ∧
    Machine.exec (.ledgerSectorSpareCopy t sector) s = .next { advance t s with led.copying := s.led.copying.filter fun x => x != sector })

/-- RECORD_BLOCK_CLOSE, RECORD_STREAM_ACK, RECORD_BLOCK_RESEND and JOURNAL_READ (R313 to R316): a block that is due is signed, compressed and numbered, the next carries its
hash; an acknowledgement marks every block below its sequence for the port; a block not acknowledged for 100 ms is sent again; the records of a range leave in signed
blocks. ISSUE_DURABLE and OVERLAY_RENDER (R14, R311): when every issue record of a product is durable here, and at the peer where the unit replicates, its records are
durable; the overlay of a durable record takes the lowest free slot. -/
def Obligations.RecordsAreExported : Prop :=
  ((∀ (t : Nat) (s : State), blockCloses (advance t s) = true → domOn s 2 = true →
    ∃ s', Machine.exec (.recordBlockClose t true) s = .next s' ∧ s'.tal.blockSeq = s.tal.blockSeq + 1 ∧
      s'.tal.prevHash = Config.sha384 (blockBytes s.tal.blockSeq s.tal.prevHash (fitEntries (65536 - signatureSize) s.tal.entries)) ∧
      s'.tal.entries = s.tal.entries.drop (fitEntries (65536 - signatureSize) s.tal.entries).length ∧
      (∃ b ∈ s'.tal.blocks, b.seq = s.tal.blockSeq ∧ b.sheaf = recordBlock true true
        (blockBytes s.tal.blockSeq s.tal.prevHash (fitEntries (65536 - signatureSize) s.tal.entries))) ∧
      s'.tal.journal = s.tal.journal ∧ s'.led = s.led ∧ s'.cmd = s.cmd) ∧
  (∀ (t upto : Nat) (p : Fin 2) (s : State), recordPort s p = true →
    ∃ s', Machine.exec (.recordStreamAck t p upto) s = .next s' ∧ (∀ b ∈ s'.tal.blocks, b.seq < upto → bit b.acked p.val = true) ∧
      s'.led = s.led ∧ s'.cmd = s.cmd ∧ s'.tal.streams = s.tal.streams) ∧
  (∀ (t : Nat) (b : RecBlock) (s : State), s.tal.blocks.find? (fun x => x.seq == b.seq) = some b → b.sentAt + 100000000 ≤ t → domOn s 2 = true →
    Machine.exec (.recordBlockResend t b.seq) s = .next (deliver b (advance t s))) ∧
  (∀ (t cid : Nat) (c : Slot) (s : State), Starts Op.journalRead cid c s → outRing s (parN c 2) = true → parN c 0 ≤ parN c 1 →
    ((∀ r ∈ s.tal.journal, ¬ (parN c 0 ≤ r.num ∧ r.num < parN c 1)) →
      Machine.exec (.journalRead t cid) s = .next (answer c [0] (startedAt t cid s))) ∧
    (∀ es blocks, es = (s.tal.journal.filter fun r => within (parN c 0) (parN c 1) r.num).flatMap recordEntries →
      blocks = readBlocks (es.length + 1) 0 [] es → blocks ≠ [] →
      Machine.exec (.journalRead t cid) s = .next (queueUnits (parN c 2) (blocks.zipIdx.map fun b =>
        { data := b.1, cid := c.cid, final := decide (b.2 + 1 = blocks.length),
          results := [word (s.tal.journal.filter fun r => within (parN c 0) (parN c 1) r.num).length] }) (startedAt t cid s))))) ∧
  (∀ (t : Nat) (s : State),
    (∀ product, recsOf s product ≠ [] → (∀ r ∈ recsOf s product, bit r.local_ 0 = true ∧ (bit r.peer 0 = true ∨ replicates s = false)) →
      ∃ s', Machine.exec (.issueDurable t product) s = .next s' ∧ (∀ r ∈ s'.tal.journal, r.product = product → r.durable = true) ∧
        s' = { advance t s with tal.journal := s'.tal.journal } ∧ s'.tal.journal.map (·.num) = s.tal.journal.map (·.num)) ∧
    (∀ r k, recOf s r.num = some r → freeSlot s = some k → r.durable = true → r.slot = none → r.final = none → (productOf s r.product).isSome = true →
      Machine.exec (.overlayRender t r.num) s = .next { advance t s with
        tal.journal := mapWhere (fun x => x.num == r.num) (fun x => { x with slot := some k }) s.tal.journal,
        tal.slots := s.tal.slots ++ [(k, r.num)] }))

/-- JOB_LOAD, JOB_CHECK_COMPLETE and JOB_UNLOAD (R13, R88, R89, R94, R428, R429, R574): a description in order begins its check as a loading job, and one that is not is
refused with BAD_JOB; when its blocks are decompressed a first load is loaded whatever the check found, a replacement takes the place of its job only if it passed and
nothing overtook it; an inactive job is forgotten with its keys, its clear copies and the arrays that no other job uses. JOB_ACTIVATE and SCREEN_STORE_LOADED (R105, R164,
R168, R574): a job that passes every check begins its activation, one that fails gets the status of the first failing check; with its arrays in the screen stores the job
is active, and with an array that does not match JOB_ACTIVATE ends with JOB_NOT_READY. JOB_SWITCH (R120, R121, R574): an accepted switch is pending with its line, or with
none where the command leaves the line to the first product of the incoming job; the outgoing job stays active. -/
def Obligations.JobsComeAndGo : Prop :=
  ((∀ (t cid : Nat) (c : Slot) (s : State), Starts Op.jobLoad cid c s → loadFailure s (parN c 0) = none →
    rangeFailure s (parN c 1) (parN c 2) = none → poisoned s (parN c 1) (parN c 2) = false →
    (parN c 3 = 0 ∨ (s.kry.jobKeys.filter (fun k => k.handle == parN c 3 && k.job == parN c 0) ≠ [] ∧
      ∀ k ∈ s.kry.jobKeys, k.handle = parN c 3 → k.job = parN c 0 → k.notAfter = 0 ∨ utcNow (advance t s) < k.notAfter)) →
    (∀ d, parseJob (wellRead s (parN c 1) (parN c 2)) (parN c 0) (hostEnd s) = some d → geometryOk s d.rows = true →
      (parN c 3 = 0 ∨ clearFull s d = false) →
      Machine.exec (.jobLoad t cid) s = .next { startedAt t cid s with
        job.loading := s.job.loading ++ [{ job := { desc := d, key := parN c 3 }, cid := c.cid, replacing := (jobOf s d.id).isSome }] }) ∧
    (parseJob (wellRead s (parN c 1) (parN c 2)) (parN c 0) (hostEnd s) = none →
      Machine.exec (.jobLoad t cid) s = .next (refuse c Status.badJob (startedAt t cid s)))) ∧
  (∀ (t : Nat) (clear : List Decrypted) (l : Loading) (s : State) (r : Job × State),
    s.job.loading.find? (fun x => x.job.desc.id == l.job.desc.id) = some l →
    r = checkJob { l.job with clear := if l.job.key = 0 then [] else clear.filterMap fun e => e.clear.map fun b => (e.addr, b) }
      { advance t s with job.loading := s.job.loading.filter (fun x => x.job.desc.id != l.job.desc.id) } →
    ((l.replacing = false ∨ (l.fate = 0 ∧ r.1.passed = true)) →
      Machine.exec (.jobCheckComplete t l.job.desc.id clear) s = .next (finish l.cid Status.done 0 [] { r.2 with
        job.loaded := r.2.job.loaded.filter (fun x => x.desc.id != r.1.desc.id) ++ [r.1] })) ∧
    (l.replacing = true → l.fate = 0 → r.1.passed = false →
      Machine.exec (.jobCheckComplete t l.job.desc.id clear) s = .next (finish l.cid Status.jobNotReady 0 [] r.2)) ∧
    (l.replacing = true → l.fate = 1 →
      Machine.exec (.jobCheckComplete t l.job.desc.id clear) s = .next (finish l.cid Status.jobActive 0 [] r.2)) ∧
    (l.replacing = true → l.fate = 2 →
      Machine.exec (.jobCheckComplete t l.job.desc.id clear) s = .next (finish l.cid Status.cancelled 0 [] r.2))) ∧
  (∀ (t cid : Nat) (c : Slot) (s : State), Starts Op.jobUnload cid c s →
    ((jobOf s (parN c 0)).isSome = true → incoming s (parN c 0) = false → jobIsActive s (parN c 0) = false → s.job.activating = none →
      ∃ s', Machine.exec (.jobUnload t cid) s = .next s' ∧ s'.job.loaded = s.job.loaded.filter (fun j => j.desc.id != parN c 0) ∧
        s'.kry.jobKeys = s.kry.jobKeys.filter (fun k => k.job != parN c 0) ∧
        s'.mil.screens = s.mil.screens.filter (fun x => s'.job.loaded.any fun j => j.screens.contains x.1) ∧
        s'.well = s.well ∧ s'.prod = s.prod ∧ s'.job.active = s.job.active) ∧
    (jobOf s (parN c 0) = none → Machine.exec (.jobUnload t cid) s = .next (refuse c Status.jobNotLoaded (startedAt t cid s))) ∧
    ((jobOf s (parN c 0)).isSome = true → s.job.active = some (parN c 0) → s.job.switch = none →
      Machine.exec (.jobUnload t cid) s = .next (refuse c Status.jobActive (startedAt t cid s))))) ∧
  ((∀ (t cid : Nat) (c : Slot) (j : Job) (s : State), Starts Op.jobActivate cid c s → activationWaits (advance t s) (parN c 0) = false →
    jobOf s (parN c 0) = some j → j.stale = false → j.passed = true → s.led.badSaved = false → jobActive s = false → s.job.activating = none →
    (activationFailure (startedAt t cid s) j [] none = none →
      Machine.exec (.jobActivate t cid) s = .next { startedAt t cid s with
        job.activating := some (c.cid, j.desc.id, parN c 1),
        job.loading := mapWhere (fun l => l.job.desc.id == j.desc.id && l.replacing && l.fate == 0) (fun l => { l with fate := 1 }) s.job.loading }) ∧
    (∀ st ws, activationFailure (startedAt t cid s) j [] none = some (st, ws) →
      Machine.exec (.jobActivate t cid) s = .next (finish c.cid st 0 ws (startedAt t cid s)))) ∧
  (∀ (t cid id first : Nat) (j : Job) (s u : State) (o : Option State), s.job.activating = some (cid, id, first) → jobOf s id = some j →
    loadScreens j (screenSlots [j]) (dropScreens [j] (advance t s)) = (o, u) →
    (∀ v, o = some v → ∃ s', Machine.exec (.screenStoreLoaded t) s = .next s' ∧ s'.job.active = some j.desc.id ∧ s'.job.activating = none ∧
      Ended cid Status.done s' ∧ s'.well = v.well ∧ s'.mil.screens = v.mil.screens ∧ s'.mot = v.mot ∧ s'.prod = v.prod ∧ s'.led = v.led) ∧
    (o = none → Machine.exec (.screenStoreLoaded t) s = .next (finish cid Status.jobNotReady 0 [] { u with job.activating := none })))) ∧
  (∀ (t cid id : Nat) (c : Slot) (j old : Job) (line : Option Nat) (s u v : State), Starts Op.jobSwitch cid c s → activationWaits (advance t s) (parN c 0) = false →
    jobOf s (parN c 0) = some j → j.stale = false → j.passed = true → s.led.badSaved = false → s.job.active = some id → jobOf s id = some old →
    jobIsActive s j.desc.id = false → s.job.switch = none → line = (if parN c 1 = 2 ^ 64 - 1 then none else some (parN c 1)) →
    (activationFailure (startedAt t cid s) j [old] line = none →
      loadScreens j (screenSlots [j]) (dropScreens [j, old] (startedAt t cid s)) = (some v, u) →
      ∃ s', Machine.exec (.jobSwitch t cid) s = .next s' ∧
        s'.job.switch = some { job := j.desc.id, cid := c.cid, line := line, stamp := c.acceptAt } ∧
        s'.job.active = v.job.active ∧ s'.cmd = v.cmd ∧ s'.prod = v.prod ∧ s'.mot = v.mot ∧ s'.well = v.well) ∧
    (∀ st ws, activationFailure (startedAt t cid s) j [old] line = some (st, ws) →
      Machine.exec (.jobSwitch t cid) s = .next (finish c.cid st 0 ws (startedAt t cid s))))

/-- The check of R13 (R13, R141, R150, R160, R161): a job that passed has no tile whose envelope was not opened, whose bytes cannot be read, whose block does not decode or
whose decode takes more than 2,048 cycles, and every threshold array of it is valid and recorded with its check value; and a check that finds no fault changes no state. -/
def Obligations.PassedJobIsClean : Prop :=
  ∀ (j : Job) (s : State), (checkJob j s).1.passed = true →
    (∀ e ∈ j.desc.tiles, e.addr ≠ 0 → (j.key = 0 ∨ (j.clear.find? (fun x => x.1 == e.addr)).isSome = true) ∧ tileReadable s j e.addr = true ∧
      (∃ tile, decodeTile (tileBlock s j e.addr) = .ok tile) ∧ tileCycles (tileBlock s j e.addr) ≤ 2048) ∧
    (∀ p ∈ j.desc.planes, ∃ v, arrayCrc s p.thresh = some v ∧ (p.thresh, v) ∈ (checkJob j s).1.screens) ∧
    (checkJob j s).2 = s

/-- MOTION_CONFIG (R96, R97, R101, R111): settings in range that every active job's lead admits are in force for the edges stamped from the command's acceptance on; other
settings of the line source make L go on from the present line and the present position; with an active job they are refused with MOTION_BUSY. ENCODER_EDGE,
ENCODER_SIGNAL_LOSS and ENCODER_Z_PULSE (R95, R100): an edge moves the position by one in the direction that the level relation and `invert` give; an edge less than 10 ns
after one of the other channel, and a lost signal, are ENCODER_ERROR and move nothing; a Z pulse more than 2 counts from `counts_per_rev` marks the encoder.
PRODUCT_NUMBER_SAVE and LINE_INDEX_SAVE (R98): the product number is saved when it has advanced by 524,288 since the last save, the line index after 1,048,576 lines;
nothing else changes. -/
def Obligations.MotionIsFollowed : Prop :=
  (∀ (t cid : Nat) (c : Slot) (s : State), Starts Op.motionConfig cid c s → motionCfgOk (motionCfgOf c) = true →
    ((jobActive s = false ∨ motionCfgOf c = s.mot.cfg) → (∀ j ∈ activeJobs s, leadsFit s j ((List.range 8).map (pdCfgOf c)) = true) →
      ∃ s', Machine.exec (.motionConfig t cid) s = .next s' ∧ Ended cid Status.done s' ∧ s'.mot.cfg = motionCfgOf c ∧
        (∀ n : Fin 8, s'.mot.pds[n].cfg = pdCfgOf c n.val ∧ (s.mot.pds[n].cfg ≠ pdCfgOf c n.val →
          s'.mot.pds[n].old = s.mot.pds[n].cfg ∧ s'.mot.pds[n].oldEnds = c.acceptAt)) ∧
        (motionCfgOf c ≠ s.mot.cfg → s'.mot.source = (motionCfgOf c).primary ∧ s'.mot.lb = lineOwed s ∧ s'.mot.hb = posOf s (motionCfgOf c).primary ∧
          s'.mot.h = posOf s (motionCfgOf c).primary ∧ s'.mot.failover = false) ∧
        s'.mot.line = s.mot.line ∧ s'.prod = s.prod ∧ s'.well = s.well) ∧
    (jobActive s = true → motionCfgOf c ≠ s.mot.cfg →
      Machine.exec (.motionConfig t cid) s = .next (refuse c Status.motionBusy (startedAt t cid s)))) ∧
  (∀ (t : Nat) (e : Fin 4) (isA up : Bool) (s : State),
    ((s.mot.enc[e].seen && s.mot.enc[e].edgeA != isA && decide ((advance t s).now - s.mot.enc[e].edgeAt < 10)) = false →
      ∃ s', Machine.exec (.encoderEdge t e isA up) s = .next s' ∧
        s'.mot.enc[e].pos = s.mot.enc[e].pos + (if up = bit s.mot.cfg.invert e.val then -1 else 1) ∧ s'.mot.enc[e].errors = s.mot.enc[e].errors ∧
        (∀ x : Fin 4, x ≠ e → s'.mot.enc[x] = s.mot.enc[x]) ∧ s'.mot.line = s.mot.line ∧ s'.mot.pds = s.mot.pds ∧ s'.well = s.well) ∧
    ((s.mot.enc[e].seen && s.mot.enc[e].edgeA != isA && decide ((advance t s).now - s.mot.enc[e].edgeAt < 10)) = true →
      ∃ s', Machine.exec (.encoderEdge t e isA up) s = .next s' ∧ s'.mot.enc[e].pos = s.mot.enc[e].pos ∧
        s'.mot.enc[e].errors = s.mot.enc[e].errors + 1 ∧ s'.mot.enc[e].failed = true) ∧
    (∃ s', Machine.exec (.encoderSignalLoss t e) s = .next s' ∧ s'.mot.enc[e].pos = s.mot.enc[e].pos ∧
        s'.mot.enc[e].errors = s.mot.enc[e].errors + 1 ∧ s'.mot.enc[e].failed = true ∧ (∀ x : Fin 4, x ≠ e → s'.mot.enc[x] = s.mot.enc[x]) ∧
        s'.prod = s.prod ∧ s'.well = s.well) ∧
    (∀ fails, fails = (s.mot.cfg.cpr[e] != 0 && match s.mot.enc[e].zPos with
        | some z => decide (2 < (((s.mot.enc[e].pos - z).natAbs : Int) - s.mot.cfg.cpr[e]).natAbs)
        | none => false) →
      Machine.exec (.encoderZPulse t e) s = .next { advance t s with mot.enc := upd s.mot.enc e fun x =>
        { x with zPos := some x.pos, zFails := x.zFails + flag fails, failed := x.failed || fails } })) ∧
  (∀ (t : Nat) (s : State),
    Machine.exec (.productNumberSave t) s = .next { advance t s with
      mot.savedProd := if s.mot.savedProd + 524288 ≤ s.mot.nextProd then s.mot.nextProd else s.mot.savedProd } ∧
    Machine.exec (.lineIndexSave t) s = .next { advance t s with
      mot.savedLine := if s.mot.savedLine + 1048576 ≤ s.mot.line then s.mot.line else s.mot.savedLine })

/-- PD_EDGE and DETECT_ACCEPT (R102 to R105): the first transition of a burst is stamped with the device time; when the level has held for the debounce, an edge in the
blanking is only counted; one that counts starts the blanking and, on the unit that owns the queue, joins it as a product with the next number, at the edge's line plus
the lead. QUEUE_READ and PRODUCT_FORCE (R105, R109, R110): the records of the queue leave on the ring named or are written to the Well; a forced product at a line far
enough ahead, on an enabled input whose track an active job prints, joins the queue with the flag `forced` and the detect line that its first line gives; one too near is
refused with LINE_PAST. -/
def Obligations.ProductsAreQueued : Prop :=
  ((∀ (t : Nat) (n : Fin 8) (level : Bool) (s : State), s.mot.pds[n].level ≠ level → remoteInput s n.val = false →
    ∃ s', Machine.exec (.pdEdge t n level) s = .next s' ∧ s'.mot.pds[n].level = level ∧ s'.mot.pds[n].lastAt = (advance t s).now ∧
      (s.mot.pds[n].burst = none → s'.mot.pds[n].burst = some (advance t s).now ∧ s'.mot.pds[n].stamp16 = devTime (advance t s)) ∧
      (∀ m, s.mot.pds[n].burst = some m → s'.mot.pds[n].burst = some m ∧ s'.mot.pds[n].stamp16 = s.mot.pds[n].stamp16) ∧
      (∀ x : Fin 8, x ≠ n → s'.mot.pds[x] = s.mot.pds[x]) ∧ s'.prod.queue = s.prod.queue ∧ s'.well = s.well) ∧
  (∀ (t m line : Nat) (n : Fin 8) (cfg : PdCfg) (s : State), s.mot.pds[n].burst = some m → cfg = pdSettings s.mot.pds[n] m →
    s.mot.pds[n].lastAt + cfg.debounce ≤ (advance t s).now → line = lineAt s m →
    cfg.enable = true → s.mot.pds[n].level ≠ s.mot.pds[n].held → s.mot.pds[n].level = !cfg.falling →
    ((s.mot.pds[n].behind = true ∨ ∃ d, s.mot.pds[n].blankAt = some d ∧ d ≤ line ∧ line < d + cfg.blank) →
      ∃ s', Machine.exec (.detectAccept t n) s = .next s' ∧ s'.mot.pds[n].ignored = s.mot.pds[n].ignored + 1 ∧ s'.mot.pds[n].burst = none ∧
        s'.mot.nextProd = s.mot.nextProd ∧ s'.prod.queue = s.prod.queue) ∧
    (∀ j k tr, s.mot.pds[n].behind = false → s.mot.pds[n].blankAt = none → (s.twn.role = .unbound ∨ s.twn.role = .lead ∨ s.twn.role = .solo) →
      s.job.switch = none → s.job.active = some j.desc.id → jobOf s j.desc.id = some j → j.la ≤ line + cfg.lead → j.activeAt ≤ m →
      trackOn j n.val = some (k, tr) → s.prod.queue.length < 64 →
      ∃ s', Machine.exec (.detectAccept t n) s = .next s' ∧ s'.mot.nextProd = s.mot.nextProd + 1 ∧ s'.mot.pds[n].blankAt = some line ∧
        s'.mot.pds[n].burst = none ∧ s'.mot.pds[n].held = s.mot.pds[n].level ∧
        ∃ p ∈ s'.prod.queue, p.num = s.mot.nextProd ∧ p.detLine = line ∧ p.first = line + cfg.lead ∧ p.stop = line + cfg.lead + tr.length ∧
          p.detect = s.mot.pds[n].stamp16 ∧ p.job = j.desc.id ∧ p.track = k ∧ p.input = n.val))) ∧
  ((∀ (t cid : Nat) (c : Slot) (s : State), Starts Op.queueRead cid c s →
    (parN c 0 < 16 → outRing s (parN c 0) = true → s.prod.queue ≠ [] →
      Machine.exec (.queueRead t cid) s = .next (queueUnits (parN c 0)
        [{ data := wordsBytes (s.prod.queue.flatMap (queueRecord s)), cid := c.cid, final := true, results := [word s.prod.queue.length] }] (startedAt t cid s))) ∧
    (0x10000 ≤ parN c 0 → parN c 0 % 8 = 0 → rangeFailure s (parN c 0) 4096 = none →
      Machine.exec (.queueRead t cid) s = .next (answer c [word s.prod.queue.length]
        (wellWrite (parN c 0) (wordsBytes (s.prod.queue.flatMap (queueRecord s))) (startedAt t cid s))))) ∧
  (∀ (t cid : Nat) (c : Slot) (n : Fin 8) (s : State), Starts Op.productForce cid c s → parN c 0 = n.val →
    (parN c 1 < s.mot.line + s.mot.pds[n].cfg.lead →
      Machine.exec (.productForce t cid) s = .next (refuse c Status.linePast (startedAt t cid s))) ∧
    (∀ j k tr, s.mot.line + s.mot.pds[n].cfg.lead ≤ parN c 1 → standby s = false → s.mot.pds[n].cfg.enable = true → s.job.switch = none →
      s.job.active = some j.desc.id → jobOf s j.desc.id = some j → j.la ≤ parN c 1 → j.activeAt ≤ (advance t s).now → trackOn j n.val = some (k, tr) →
      s.prod.queue.length < 64 →
      ∃ s', Machine.exec (.productForce t cid) s = .next s' ∧ Ended cid Status.done s' ∧ s'.mot.nextProd = s.mot.nextProd + 1 ∧
        ∃ p ∈ s'.prod.queue, p.num = s.mot.nextProd ∧ p.first = parN c 1 ∧ p.detLine = parN c 1 - s.mot.pds[n].cfg.lead ∧ bit p.flags 7 = true ∧
          p.job = j.desc.id ∧ p.track = k ∧ p.stop = parN c 1 + tr.length)))

/-- LINE_BOUNDARY and PACER_TICK (R97, R101): a boundary that the line source owes raises the line index by one and drives every gate's output as the new line asks; where
none is owed nothing happens; a tick of the pacer that is the line source makes a boundary of its own. GATE_DECISION_PLACE and REJECT_POLICY (R108, R113, R114, R117,
R119): the decision of a ready product on a gate that serves its track is a window of that gate, which rejects when the gate's mask meets the product's flags; a listed
decision waits while the list has 256; new gate words are in force at once and the command ends when no earlier edge waits. -/
def Obligations.LinesMoveTheGates : Prop :=
  (∀ (t : Nat) (s : State), domOn s 9 = true →
    (s.mot.line < lineOwed s → ∃ s', Machine.exec (.lineBoundary t) s = .next s' ∧ s'.mot.line = s.mot.line + 1) ∧
    (lineOwed s ≤ s.mot.line → Machine.exec (.lineBoundary t) s = .next (advance t s)) ∧
    (s.mot.source = 4 → ∃ s', Machine.exec (.pacerTick t) s = .next s' ∧ s'.mot.line = s.mot.line + 1 ∧ s'.mot.pacer = s.mot.pacer + 1) ∧
    (s.mot.source ≠ 4 → Machine.exec (.pacerTick t) s = .next (advance t s))) ∧
  ((∀ (t n : Nat) (g : Fin 4) (p : Product) (s : State), productOf s n = some p → productReady s p = true → p.gw[g].serves p.track = true →
    bit p.decided g.val = false →
    (((gateWindow p.gw[g] p.first (p.gw[g].rejects p.flags) n).listed = false ∨ listUse s.prod.gates[g] < 256) →
      ∃ s', Machine.exec (.gateDecisionPlace t n g) s = .next s' ∧
        gateWindow p.gw[g] p.first (p.gw[g].rejects p.flags) n ∈ s'.prod.gates[g].windows ∧
        (∀ x : Fin 4, x ≠ g → s'.prod.gates[x] = s.prod.gates[x]) ∧ (∀ q ∈ s'.prod.queue, q.num = n → bit q.decided g.val = true) ∧
        s'.mot = s.mot ∧ s'.well = s.well) ∧
    ((gateWindow p.gw[g] p.first (p.gw[g].rejects p.flags) n).listed = true → 256 ≤ listUse s.prod.gates[g] →
      Machine.exec (.gateDecisionPlace t n g) s = .next (advance t s))) ∧
  (∀ (t cid : Nat) (c : Slot) (s : State), Starts Op.rejectPolicy cid c s →
    ((∀ i, i < 4 → gateWordOk (par c i) = true) →
      ∃ s', Machine.exec (.rejectPolicy t cid) s = .next s' ∧ (∀ i : Fin 4, s'.prod.gates[i].word = gateWord (par c i)) ∧
        (edgesBefore s c.acceptAt = false → Ended cid Status.done s') ∧ s'.prod.queue = s.prod.queue ∧ s'.mot = s.mot ∧ s'.well = s.well) ∧
    ((∃ i, i < 4 ∧ gateWordOk (par c i) = false) →
      Machine.exec (.rejectPolicy t cid) s = .next (refuse c Status.badParameter (startedAt t cid s)))))

/-- SEGMENT_DECODE and SEGMENT_DECODE_COMPLETE (R141, R148, R149): a segment of an active job that has a tile takes a slot of its domain's band store and the lowest slice
that can decode; it is complete when its bytes decode, and one that fails goes to the intake decompressor. LINE_DISPATCH (R146, R198, R199): a line that may be
dispatched, with a pair that can accept it, has its recipe written for the lowest such pair, awaits a result from both slices of the pair, and the next line is the one
after it; with no pair ready nothing happens. -/
def Obligations.BandsAreDispatched : Prop :=
  (∀ (t : Nat) (dom : Fin 2) (item : SegItem) (s : State),
    (∀ (j : Job) (k : Fin 32), segJob s item = some j → decoderOf s dom = some k → (segTile j item).isSome = true → item.seg ≤ 15 →
      (∀ b ∈ s.mil.band[dom], b.item ≠ item) → (tripleSlots s.mil.band[dom] item).length < 2 → s.mil.band[dom].length < 2048 →
      Machine.exec (.segmentDecode t dom item) s = .next { advance t s with
        mil.band := s.mil.band.set dom (s.mil.band[dom] ++ [{ item := item, job := j.desc.id, decoder := k.val, since := (advance t s).now }]) }) ∧
    (∀ (b : BandSlot) (j : Job), bandSlot s dom item = some b → b.full = false → jobOf s b.job = some j →
      (segDecodes s j item = true →
        Machine.exec (.segmentDecodeComplete t dom item none) s = .next { advance t s with
          mil.band := upd s.mil.band dom fun bs => mapWhere (fun x => x.item == item) (fun x => { x with full := true, bad := false }) bs }) ∧
      (∀ fault, (segDecodes s j item = false ∨ fault ≠ none) → (∀ r ∈ s.mil.redecode, r.item ≠ item) →
        Machine.exec (.segmentDecodeComplete t dom item fault) s = .next { advance t s with
          mil.band := upd s.mil.band dom fun bs => mapWhere (fun x => x.item == item) (fun x => { x with full := true, bad := true }) bs,
          mil.redecode := s.mil.redecode ++ [{ item := item, job := b.job }] }))) ∧
  (∀ (t line : Nat) (s : State),
    (∀ k, readyPair (advance t s) = some k → mayDispatch (advance t s) line = true →
      ∃ s', Machine.exec (.lineDispatch t line) s = .next s' ∧ s'.mil.nextLine = line + 1 ∧
        (∃ r ∈ s'.mil.recipes, r.line = line ∧ r.pair = k.val) ∧
        (∃ l ∈ s'.mil.lines, l.line = line ∧ l.awaiting = [s.mil.pairs[k].a, s.mil.pairs[k].b]) ∧
        s'.mil.pairs[k].accepted = (advance t s).now ∧ s'.mil.band = s.mil.band ∧ s'.well = s.well ∧ s'.mot = s.mot) ∧
    (readyPair (advance t s) = none → Machine.exec (.lineDispatch t line) s = .next (advance t s)))

/-- POOL_GRANT, PERMUTATION_TABLE_DONE, SERIAL_LOOKAHEAD, POOL_STATUS and CALENDAR_LOAD (R298 to R301, R303, R304): a good grant, the next of its pool and apart from every
range granted, joins its pool; the table's end makes it ready; serials are drawn ahead without being issued; a newer plan rules from the command's acceptance on.
STREAM_BIND, MANIFEST_CLOSE and CODE_VOID (R291, R292, R309, R310, R318): a template that passes its checks is bound with its pool, and the stream's manifest closes and
opens; a named manifest closes by command; a code that is not final becomes void for its reason, with its product. TALLY_ISSUE_GROUP (R305 to R307, R396): the first
product of the queue that waits for its codes, on a unit that holds the lease and with no device-class fault, is issued: at once where its track has no stream; with a
record for each stream where every stream has a serial; and void with the first failure's code otherwise. -/
def Obligations.RecordsAreIssued : Prop :=
  ((∀ (t cid : Nat) (c : Slot) (s : State),
    (∀ bs g pool, Starts Op.poolGrant cid c s → notLead s = false → rangeFailure s (parN c 0) (parN c 1) = none → poisoned s (parN c 0) (parN c 1) = false →
      bs = wellRead s (parN c 0) (parN c 1) → bs.length = 3493 → g = parseGrant (wordsOf (bs.take 88)) → pool = fld ((wordsOf (bs.take 88)).getD 1 0) 31 0 →
      grantHere s g = true → grantOk s (wordsOf (bs.take 88)) = true → g.no = ((poolOf s pool).map (·.lastNo) |>.getD 0) + 1 →
      (∀ r ∈ s.tal.ranges, overlaps r.1 (r.1 + r.2) g.base (g.base + g.count) = false) → digitsOk s pool (g.base + g.count - 1) = true →
      ((poolOf s pool).map (·.grants.length) |>.getD 0) < 4 → 
      (((poolOf s pool).map (·.grants.length) |>.getD 0) ≠ 0 ∨ (s.tal.pools.filter fun p => !p.grants.isEmpty).length < 32) →
      ∃ s', Machine.exec (.poolGrant t cid true true) s = .next s' ∧ Ended cid Status.done s' ∧ s'.tal.ranges = s.tal.ranges ++ [(g.base, g.count)] ∧
        (∃ p, poolOf s' pool = some p ∧ g ∈ p.grants ∧ p.lastNo = g.no) ∧ s'.tal.journal = s.tal.journal ∧ s'.well = s.well) ∧
    (∀ p, Starts Op.poolStatus cid c s → poolOf s (parN c 0) = some p → p.grants ≠ [] →
      Machine.exec (.poolStatus t cid) s = .next (answer c (poolWords s p) (startedAt t cid s))) ∧
    (∀ p, Starts Op.calendarLoad cid c s → notLead s = false → rangeFailure s (parN c 0) (parN c 1) = none → poisoned s (parN c 0) (parN c 1) = false →
      parsePlan (wellRead s (parN c 0) (parN c 1)) (planNow s) = some p →
      (∀ (i : Fin 16) (x : Template), s.tal.streams[i].template = some x → glyphsOk (some p) x s.tal.streams[i].font = true ∧ calendarOk (some p) x = true) →
      ∃ s', Machine.exec (.calendarLoad t cid) s = .next s' ∧ Ended cid Status.done s' ∧ s'.tal.plans = (c.acceptAt, p) :: s.tal.plans ∧ s'.well = s.well)) ∧
  (∀ (t : Nat) (s : State),
    (∀ pool grant, Machine.exec (.permutationTableDone t pool grant) s = .next { advance t s with
      tal.pools := mapWhere (fun p => p.id == pool) (fun p => { p with
        grants := mapWhere (fun g => g.no == grant && !g.ready) (fun g => { g with ready := true, readyAt := max (advance t s).now t }) p.grants }) s.tal.pools }) ∧
    (∀ (i : Fin 16) p g k m, poolOf s s.tal.streams[i].pool = some p → grantInUse s p = some (g, k, m) → g.ready = true →
      Machine.exec (.serialLookahead t i) s = .next { advance t s with tal.streams := upd s.tal.streams i fun x => { x with ahead := lookAhead s 64 g } }))) ∧
  (∀ (t cid : Nat) (c : Slot) (s : State),
    (∀ (i : Fin 16) out tm u font v, Starts Op.streamBind cid c s → parN c 0 = i.val → streamBusy s i.val = false →
      (parN c 2 = 0 ∨ (poolOf s (parN c 2)).isSome = true) → rangeFailure s (parN c 1) (streamSpan s 65537 (parN c 1)) = none →
      poisoned s (parN c 1) (streamSpan s 65537 (parN c 1)) = false →
      readStream (parN c 1) 65536 (wellRead s (parN c 1) (streamSpan s 65537 (parN c 1))) (startedAt t cid s) = (some out, u) → parseTemplate out = some tm →
      (if tm.symbology = 0 then readFont tm.aux u else (none, u)) = (font, v) → (tm.symbology = 0 → font.isSome = true) →
      (overlaySize tm font).1 ≤ 65535 → (overlaySize tm font).2 ≤ 65535 → checksOk [] tm.elements = true → tm.elements.all (sourceOk v i.val (parN c 2)) = true →
      fontCount v i font ≤ 64 → glyphsOk (planNow v) tm font = true → calendarOk (planNow v) tm = true → overlayBytes (overlaySize tm font) ≤ 131072 →
      Machine.exec (.streamBind t cid) s = .next (done c (bindStream i tm font (parN c 2) v))) ∧
    (∀ (i : Fin 16) m, Starts Op.manifestClose cid c s → parN c 0 = i.val → notLead s = false → s.tal.streams[i].man = some m →
      ∃ s', Machine.exec (.manifestClose t cid) s = .next s' ∧ s'.tal.nextMan = s.tal.nextMan + 1 ∧
        (∃ m', s'.tal.streams[i].man = some m' ∧ m'.records = [] ∧ m'.openAt = devSec (advance t s)) ∧
        (∀ j : Fin 16, j ≠ i → s'.tal.streams[j] = s.tal.streams[j]) ∧ s'.tal.journal = s.tal.journal ∧ s'.well = s.well) ∧
    (Starts Op.codeVoid cid c s → parN c 0 < 16 → parN c 1 < 2 ^ 32 → (parF c 3 7 0 = 1 ∨ 0x80 ≤ parF c 3 7 0) → notLead s = false →
      (namedRec s c = none → Machine.exec (.codeVoid t cid) s = .next (refuse c Status.noSuchCode (startedAt t cid s))) ∧
      (∀ r, namedRec s c = some r → r.final.isSome = true → Machine.exec (.codeVoid t cid) s = .next (refuse c Status.codeFinal (startedAt t cid s))) ∧
      (∀ r, namedRec s c = some r → r.final = none →
        Machine.exec (.codeVoid t cid) s = .next (done c (settleProduct r.product (voidProduct r.product 2 0 (voidRec (parF c 3 7 0) 0 r.num (startedAt t cid s)))))))) ∧
  (∀ (t : Nat) (p : Product) (s u : State), s.prod.queue.find? unissued = some p → faulted s = false → s.flt.replayDue = false → notLead s = false →
    domOn s 2 = true → leaseHeld (advance t s) = true → (s.twn.role ≠ .lead ∨ s.twn.peerSynced = false ∨ ∀ i ∈ productStreams s p, parityOut s s.tal.streams[i].pool = false) → p.num ∉ s.flt.replaying →
    u = { advance t s with flt.replaying := s.flt.replaying.erase p.num } →
    (productStreams u p = [] → Machine.exec (.tallyIssueGroup t p.num) s = .next (modProduct p.num (fun p => { p with issued := true }) u)) ∧
    (∀ d nums, productStreams u p ≠ [] → calendarFailure u p (productStreams u p) = none → issueStreams p (productStreams u p) { state := u } = .ok d →
      nums = nextRecords u (98304 + d.recs.length) d.recs.length s.tal.nextRec → nums.length = d.recs.length → (∀ n ∈ nums, journalFree u (n % 98304) = true) →
      Machine.exec (.tallyIssueGroup t p.num) s = .next (commitGroup p d nums)) ∧
    (∀ e, productStreams u p ≠ [] → calendarFailure u p (productStreams u p) = none → issueStreams p (productStreams u p) { state := u } = .error e →
      Machine.exec (.tallyIssueGroup t p.num) s = .next (voidFault p.num e u)))

/-- SLICE_RESULT_COMPLETE, VOTE_RECOMPUTE_START, VOTE_RECOMPUTE_DONE and SLICE_TIMEOUT (R202, R206 to R208, R210): a result, checked, joins its line, which the lines'
decisions then settle; an undecided line gets a recompute on the vote slice that R207 names; a result 10 µs late beyond C_line retires its slice. INTAKE_SEGMENT_REDECODE
and MILL_DOMAIN_LOST (R141, R208, R212): a segment that the intake decompressor decodes charges the slices whose results it cost; one that fails again makes its tile
corrupt under SHEAF_TILE_CORRUPT; a domain lost as a whole is lost and reported as a device-class fault, once. -/
def Obligations.ResultsAreJudged : Prop :=
  (∀ (t line : Nat) (s : State) (l : LineSlot) (r : Recipe), lineSlot s line = some l → recipeOf s line = some r →
    (∀ (slice : Fin 32) (x : SliceRecv), slice.val ∈ l.awaiting → comparatorsDiffer x = false → s.mil.redecode = [] →
      (∀ i ∈ recipeSegs s r, ∀ b, bandSlot s (if slice.val < 16 then 0 else 1) i.1 = some b → b.bad = false) →
      Machine.exec (.sliceResultComplete t line slice x) s = .next (decideLines 40 (modLine line (fun l =>
        { l with
          awaiting := l.awaiting.erase slice.val,
          results := l.results ++ [checkResult s r slice.val (isFull l.thin line slice.val) x] }) (advance t s)))) ∧
    (∀ k, l.sealed = false → l.unresolved = false → l.awaiting = [] → l.voting = none → l.results.length < 4 → votesRunning s < 2 → voteSlice s l = some k →
      Machine.exec (.voteRecomputeStart t line true) s = .next { advance t s with
        mil.lines := mapWhere (fun l => l.line == line) (fun l => { l with voting := some k.val, voteFrom := (advance t s).now, computed := l.computed + 1 }) s.mil.lines,
        mil.slices := upd s.mil.slices k fun x => { x with vote := some line } }) ∧
    (∀ k x, l.voting = some k → comparatorsDiffer x = false →
      Machine.exec (.voteRecomputeDone t line x) s = .next (decideLines 40 (modLine line (fun l =>
        { l with voting := none, results := l.results ++ [checkResult s r k true x] })
        { advance t s with mil.slices := s.mil.slices.map fun x => if x.vote = some line then { x with vote := none } else x }))) ∧
    (∀ slice : Fin 32, slice.val ∈ l.awaiting → r.moment + cLine (activeW s) + 10000 ≤ (advance t s).now → 
      ∃ s', Machine.exec (.sliceTimeout t line slice) s = .next s' ∧ s'.mil.slices[slice].retired = true ∧ s'.well = s.well)) ∧
  (∀ (t : Nat) (s : State),
    (∀ q j, s.mil.redecode.find? (fun x => x.item == q.item) = some q → jobOf s q.job = some j →
      (segDecodes s j q.item = true → Machine.exec (.intakeSegmentRedecode t q.item) s = .next (decideLines 40 (q.lines.foldl (fun s x => charge x.1 x.2 s)
        { advance t s with
          mil.redecode := s.mil.redecode.filter fun x => x.item != q.item,
          mil.band := s.mil.band.map fun bs => bs.filter fun b => !(b.item == q.item && b.bad) }))) ∧
      (segDecodes s j q.item = false → ∃ s', Machine.exec (.intakeSegmentRedecode t q.item) s = .next s' ∧
        (q.job, ((segTile j q.item).map (·.addr)).getD 0) ∈ s'.mil.corrupt ∧
        (∀ p ∈ s'.prod.queue, p.job = q.job → p.input = q.item.input → bit p.flags 0 = true) ∧ s'.well = s.well ∧ s'.mot = s.mot)) ∧
    (∀ dom : Fin 2, s.mil.lost[dom] = false → millUp s dom = true →
      ∃ s', Machine.exec (.millDomainLost t dom) s = .next s' ∧ s'.mil = { s.mil with lost := s.mil.lost.set dom true } ∧
        FaultCode.millDomainLost ∈ s'.flt.active ∧ s'.prod = s.prod ∧ s'.well = s.well))

/-- The decision of a line (R203, R206): with its results in, two results of different slices that agree, at least one of them full, seal the line with the full one's words
and their digests; without such a pair after four computations and four results the line is unresolved, its products are void, and it is never sealed. -/
def Obligations.AgreeingResultsSeal : Prop :=
  ∀ (l : LineSlot) (r : Recipe) (s : State), lineSlot s l.line = some l → recipeOf s l.line = some r → l.sealed = false → l.unresolved = false → l.awaiting = [] →
    l.voting = none → s.mil.halted = false →
    (∀ a b, agreeing l.line l.results = some (a, b) →
      a.slice ≠ b.slice ∧ (a.full = true ∨ b.full = true) ∧ agree l.line a b = true ∧
      ∃ x ∈ (decideLine l s).mil.lines, x.line = l.line ∧ x.sealed = true ∧
        x.words = layWords (computeLine s r) (((if a.full then a else b).words).getD []) ∧ x.digests = lineDigests l.line x.words) ∧
    (agreeing l.line l.results = none → 4 ≤ l.computed → 4 ≤ l.results.length →
      (∃ x ∈ (decideLine l s).mil.lines, x.line = l.line ∧ x.unresolved = true ∧ x.sealed = false) ∧
      (∀ p ∈ (decideLine l s).prod.queue, within p.first p.stop l.line = true → bit p.flags 0 = true)) ∧
    (agreeing l.line l.results = none → (l.computed < 4 ∨ l.results.length < 4) → decideLine l s = s)

/-- CAL_EPOCH_COMMIT and PLACEMENT_EPOCH_COMMIT (R159, R185 to R187): pending density tables come into force as the next calibration epoch at the epoch's line; a placement
change that is due comes into force as the next placement epoch, once an epoch slot is free and the changed rows are loaded. PLACEMENT_LEARN and IMAGE_GRADED (R188 to
R190, R337, R495): `passes` 0 turns live tracking of planes on or off; 2 to 8 passes start a target run, whose targets are the next products of every track; the patches
of a target product join the density run, and the grading of a code's image joins its image. -/
def Obligations.EpochsAndLearning : Prop :=
  (∀ (t f : Nat) (s : State),
    (epochLine s false = some f → s.mil.calPend ≠ [] →
      ∃ s', Machine.exec (.calEpochCommit t) s = .next s' ∧ s'.mil = { s.mil with
        calEpoch := s.mil.calEpoch + 1, calPend := [],
        calEpochs := Epoch.mk (s.mil.calEpoch + 1) f (mergeItems (epochOf s s.mil.calEpochs s.mil.calEpoch).items s.mil.calPend) [] :: s.mil.calEpochs } ∧
        s'.led = s.led ∧ s'.well = s.well ∧ s'.stl = s.stl) ∧
    (epochLine s true = some f → s.mil.placeDue = true → (namedEpochs s).length < 16 → (bankedStalls s).all (banksLoaded s) = true →
      ∃ s', Machine.exec (.placementEpochCommit t) s = .next s' ∧ s'.mil.placeEpoch = s.mil.placeEpoch + 1 ∧ s'.mil.placePend = [] ∧ s'.mil.placeDue = false ∧
        (∃ e ∈ s'.mil.placeEpochs, e.num = s.mil.placeEpoch + 1 ∧ e.first = f ∧
          e.items = mergeItems (epochOf s s.mil.placeEpochs s.mil.placeEpoch).items s.mil.placePend) ∧
        s'.mil.calEpoch = s.mil.calEpoch ∧ s'.well = s.well)) ∧
  ((∀ (t cid : Nat) (c : Slot) (s : State), Starts Op.placementLearn cid c s →
    (parF c 1 3 0 = 0 → Machine.exec (.placementLearn t cid) s = .next (done c (setLive (parF c 0 7 0) (parB c 1 4) (startedAt t cid s)))) ∧
    (2 ≤ parF c 1 3 0 → parF c 1 3 0 ≤ 8 → parF c 1 11 8 ≠ 0 → learnRefusal s (parF c 0 7 0) = none → s.mil.learn = none →
      ∃ s', Machine.exec (.placementLearn t cid) s = .next s' ∧
        s'.mil.learn = some { cid := c.cid, planes := parF c 0 7 0, cls := parF c 1 11 8, passes := parF c 1 3 0, pass := 1 } ∧
        s'.prod.queue = s.prod.queue ∧ s'.cmd = (startedAt t cid s).cmd ∧ s'.well = s.well)) ∧
  (∀ (t record frame : Nat) (sensor : Fin 8) (g : ImageResult) (s : State),
    (∀ p means k, g = .patches p means → targetTrack s p 2 = some k →
      Machine.exec (.imageGraded t record frame sensor g) s = .next { advance t s with
        prod.queue := mapWhere (fun x => x.num == p) (fun x => { x with target := 3 }) s.prod.queue,
        led.runs := s.led.runs.map fun r => if r.item < 0x40 then { r with patches := r.patches ++ [(k, means)] } else r }) ∧
    ((∀ p means, g ≠ .patches p means) → (∀ p dots, g ≠ .target p dots) →
      Machine.exec (.imageGraded t record frame sensor g) s = .next (settleLive (dropFrames (settleVerify { advance t s with
        vis.codes := s.vis.codes.map fun v => if v.rec_ = record then { v with images := gradeImages sensor.val frame g v.images } else v }))))))

/-- STALL_CONFIG and its time limit (R222, R223): a row list in order that stays within the element limits and the lane rate configures the Stall, which keeps its duty
limits; the disabled form leaves the Stall without rows, permit and identity; a command that has waited 200 ms for lane lock and IDENT ends with LANE_DOWN. DUTY_LIMITS,
ELEMENT_RETIRE and HEAD_STATUS (R181, R247, R264): limits in range start the accounts of a Stall anew; an element retired by command carries reason 1 and asks for a
placement epoch, one retired already changes nothing; the status words of a Stall are answered. -/
def Obligations.StallsAnswerCommands : Prop :=
  ((∀ (t cid : Nat) (c : Slot) (k : Fin 24) (s : State), Starts Op.stallConfig cid c s → laneRun s (parN c 0 % 32) = false → parF c 0 4 0 = k.val →
    stallNamed s k.val = false →
    (∀ rows na, na = parF c 1 21 16 → parB c 1 0 = true → stallParamsOk c = true → rangeFailure s (parN c 2) (parN c 3) = none →
      poisoned s (parN c 2) (parN c 3) = false → entries (geomEntry (wellRead s (parN c 2) (parN c 3)) 0) (na + parF c 1 27 24) 0 = some rows →
      rowsOk k.val (rows.take na) (rows.drop na) = true → (stallCfgOf c {}).tReduce < (stallCfgOf c {}).tAbs → (stallCfgOf c {}).vppMin < (stallCfgOf c {}).vppMax →
      channelSum s k.val (·.rows) + ((rows.take na).map (·.count)).sum ≤ 262144 → channelSum s k.val (·.spares) + ((rows.drop na).map (·.count)).sum ≤ 16384 →
      blocksFit (stallCfgOf c {}) (frameBlocks (ceilDiv (max (((rows.take na).map fun r => r.first + r.count).foldl max 0)
        (((rows.drop na).map fun r => 16384 + r.first + r.count).foldl max 0)) 18) false 0) = true →
      ∃ s', Machine.exec (.stallConfig t cid) s = .next s' ∧ s'.stl[k].enable = true ∧ s'.stl[k].rows = rows.take na ∧ s'.stl[k].spares = rows.drop na ∧
        s'.stl[k].cfg = stallCfgOf c s.stl[k].cfg ∧ s'.stl[k].frames = [] ∧ s'.prod = s.prod ∧ s'.mot = s.mot ∧ s'.well = s.well) ∧
    (parB c 1 0 = false → ∃ s', Machine.exec (.stallConfig t cid) s = .next s' ∧ s'.stl[k].enable = false ∧ s'.stl[k].rows = [] ∧ s'.stl[k].permit = false ∧
      s'.stl[k].headId = none ∧ s'.prod = s.prod ∧ s'.well = s.well)) ∧
  (∀ (t : Nat) (k : Fin 24) (s : State), s.stl[k].waitCid ≠ 0 → s.stl[k].waitAt + 200000000 ≤ (advance t s).now →
    Machine.exec (.stallConfigLaneTimeout t k) s = .next (finish s.stl[k].waitCid Status.laneDown 0 []
      { advance t s with stl := upd s.stl k fun x => { x with waitCid := 0 } }))) ∧
  (∀ (t cid : Nat) (c : Slot) (k : Fin 24) (s : State),
    (Starts Op.dutyLimits cid c s → parF c 0 4 0 = k.val → stallNamed s k.val = false → 100 ≤ parF c 1 23 0 → parF c 1 23 0 ≤ 10000 →
      1 ≤ parF c 1 39 32 → parF c 1 39 32 ≤ 100 → 1000 ≤ parF c 2 23 0 → parF c 2 23 0 ≤ 1000000 → 1 ≤ parF c 2 39 32 → parF c 2 39 32 ≤ 100 →
      Machine.exec (.dutyLimits t cid) s = .next (done c { startedAt t cid s with stl := upd s.stl k fun x =>
        { x with
          cfg := { x.cfg with elemWindow := parF c 1 23 0, elemPct := parF c 1 39 32, headWindow := parF c 2 23 0, headPct := parF c 2 39 32 },
          fires := [], energy := [] } })) ∧
    (Starts Op.elementRetire cid c s → parN c 0 = k.val → parN c 1 ≤ 17407 →
      ((∀ r ∈ s.mil.retired, ¬ (r.stall = k.val ∧ r.channel = parN c 1)) →
        ∃ s', Machine.exec (.elementRetire t cid) s = .next s' ∧ Ended cid Status.done s' ∧ s'.mil.placeDue = true ∧
          { stall := k.val, channel := parN c 1, reason := 1 } ∈ s'.mil.retired ∧ s'.mil.lines = s.mil.lines ∧ s'.prod = s.prod ∧ s'.well = s.well) ∧
      ((∃ r ∈ s.mil.retired, r.stall = k.val ∧ r.channel = parN c 1) →
        Machine.exec (.elementRetire t cid) s = .next (done c (startedAt t cid s)))) ∧
    (Starts Op.headStatus cid c s → parN c 0 = k.val →
      Machine.exec (.headStatus t cid) s = .next (answer c (headStatusWords s k.val) (startedAt t cid s))))

/-- FIRE_PERMIT and PERMIT_WITHDRAW_EFFECT (R261 to R263, R386): a grant holds for every Stall of the mask, whose latches it clears, or is refused with the Stalls that fail;
after a withdrawal no Stall of the mask is granted and each output is released or due to be; one due is released at its moment. SPIT_CYCLE, SPIT_FIRE, OG_EDGE and
SPIT_DROP_WINDOW_END (R257): the cycle begins on every enabled Stall of the mask with its channels in service; each fire lowers the count of its channel and opens a drop
window on a checked channel's last one; an edge of the right polarity in the window is a drop; two windows in a row without one retire the channel. -/
def Obligations.PermitsAndSpits : Prop :=
  ((∀ (t cid : Nat) (c : Slot) (s : State), Starts Op.firePermit cid c s →
    (parB c 1 0 = true → (∀ k : Fin 24, bit (parN c 0) k.val = true → permitable s k.val = true) →
      ∃ s', Machine.exec (.firePermit t cid) s = .next s' ∧ Ended cid Status.done s' ∧
        (∀ k : Fin 24, bit (parN c 0) k.val = true → s'.stl[k].granted = true ∧ s'.stl[k].faultLat = false ∧ s'.stl[k].identLat = false ∧
          s'.stl[k].overLat = false ∧ ((s.twn.role ≠ .copying ∧ s.twn.role ≠ .isolated ∧ s.twn.role ≠ .yielded) → s'.stl[k].permit = true)) ∧
        (∀ k : Fin 24, bit (parN c 0) k.val = false → s'.stl[k] = s.stl[k])) ∧
    (∀ bad, parB c 1 0 = true → bad = (maskStalls (parN c 0)).filter (fun k => !permitable s k) → bad ≠ [] →
      Machine.exec (.firePermit t cid) s = .next (finish c.cid Status.permitDenied 0 [word ((bad.map fun k => 2 ^ k).sum)] (startedAt t cid s))) ∧
    (parB c 1 0 = false → ∃ s', Machine.exec (.firePermit t cid) s = .next s' ∧
      (∀ k : Fin 24, bit (parN c 0) k.val = true → s'.stl[k].granted = false ∧ (s'.stl[k].permit = false ∨ s'.stl[k].withdraw.isSome = true)) ∧
      (∀ k : Fin 24, bit (parN c 0) k.val = false → s'.stl[k] = s.stl[k]) ∧ s'.prod = s.prod ∧ s'.well = s.well)) ∧
  (∀ (t m : Nat) (k : Fin 24) (s : State), s.stl[k].withdraw = some m →
    (m ≤ (advance t s).now → ∃ s', Machine.exec (.permitWithdrawEffect t k) s = .next s' ∧ s'.stl[k].permit = false ∧ s'.stl[k].withdraw = none ∧
      s'.prod = s.prod ∧ s'.well = s.well) ∧
    ((advance t s).now < m → Machine.exec (.permitWithdrawEffect t k) s = .next (advance t s)))) ∧
  ((∀ (t cid : Nat) (c : Slot) (s : State), Starts Op.spitCycle cid c s → parF c 1 3 0 ≠ 0 → parF c 1 15 8 ≠ 0 → runsSpit s = true →
    (∀ k : Fin 24, bit (parN c 0) k.val = true → s.stl[k].spit = none) →
    ∀ k : Fin 24, bit (parN c 0) k.val = true → s.stl[k].enable = true → serviceChannels s k.val ≠ [] →
      ∃ s', Machine.exec (.spitCycle t cid) s = .next s' ∧ s'.stl[k].spit = some {
        cid := c.cid, cls := parF c 1 3 0, check := parB c 1 4, fires := parF c 1 15 8, todo := serviceChannels s k.val, left := parF c 1 15 8, ended := false } ∧
        s'.prod = s.prod ∧ s'.well = s.well) ∧
  (∀ (t chan : Nat) (k : Fin 24) (p : Spit) (rest : List Nat) (s : State), s.stl[k].spit = some p → p.todo = chan :: rest → p.ended = false → p.window = none →
    (∀ m, p.last = some m → m + spitGap s s.stl[k] ≤ (advance t s).now) → (∀ m, s.stl[k].tPrev = some m → m + tMin s.stl[k] ≤ (advance t s).now) →
    stallProducts s k.val false = [] → runsSpit s = true → maySend s k.val = true →
    ∃ s', Machine.exec (.spitFire t k) s = .next s' ∧ s'.stl[k].spitN = s.stl[k].spitN + 1 ∧
      (p.left ≠ 1 → s'.stl[k].spit = some { p with left := p.left - 1, last := some (advance t s).now, drop := false, window := none }) ∧
      (p.left = 1 → p.check = true → s.stl[k].cfg.check = 1 → ∃ w, s'.stl[k].spit = some { p with left := 0, last := some (advance t s).now, drop := false, window := some w } ∧
        w.2.2 = chan) ∧
      (p.left = 1 → (p.check = false ∨ s.stl[k].cfg.check ≠ 1) → rest ≠ [] → ∃ q, s'.stl[k].spit = some q ∧ q.todo = rest ∧ q.left = p.fires ∧ q.ended = false)) ∧
  (∀ (t : Nat) (g : Fin 4) (rising : Bool) (s : State), ∃ s', Machine.exec (.ogEdge t g rising) s = .next s' ∧ s' = { advance t s with stl := s'.stl } ∧
    ∀ (k : Fin 24) (p : Spit) (w : Nat × Nat × Nat), s.stl[k].spit = some p → p.window = some w → bit s.stl[k].cfg.ogMask g.val = true →
      rising ≠ s.stl[k].cfg.ogFalling → within w.1 w.2.1 (advance t s).now = true → s'.stl[k] = { s.stl[k] with spit := some { p with drop := true } }) ∧
  (∀ (t b e chan : Nat) (k : Fin 24) (p : Spit) (s : State), s.stl[k].spit = some p → p.window = some (b, e, chan) → e ≤ (advance t s).now →
    ∃ s', Machine.exec (.spitDropWindowEnd t k) s = .next s' ∧
      (p.drop = true → s'.mil.retired = s.mil.retired ∧ chan ∉ s'.stl[k].noDrop) ∧
      (p.drop = false → chan ∉ s.stl[k].noDrop → s'.mil.retired = s.mil.retired ∧ chan ∈ s'.stl[k].noDrop) ∧
      (p.drop = false → chan ∈ s.stl[k].noDrop → ∃ r ∈ s'.mil.retired, r.stall = k.val ∧ r.channel = chan)))

/-- STALL_READOUT, LINE_FRAME_SEND and FIRE_BLOCK_SEND (R16, R215, R229, R235, R237, R239): a sealed line that is due is read into the Stall, one not sealed is late; the
frame built first leaves, or is at its end where the Stall may not send; its fire block leaves at t_F + 2,000 ns − λ and marks the line in progress. -/
def Obligations.FramesAreSentAndFired : Prop :=
  ∀ (t : Nat) (k : Fin 24) (s : State),
    (∀ (line : Nat) (r1 r2 : Bool), readDue (advance t s) k.val line = true →
      (∀ l ws, lineSlot s line = some l → l.sealed = true → l.words.find? (fun w => w.1 == k.val) = some (k.val, ws) → ws ≠ [] → (r1 = true ∨ r2 = true) →
        Machine.exec (.stallReadout t k line r1 r2) s = .next { advance t s with stl := upd s.stl k fun x => { x with buffer := x.buffer ++ [(line, ws)] } }) ∧
      ((lineSlot s line = none ∨ ∃ l, lineSlot s line = some l ∧ l.sealed = false) →
        Machine.exec (.stallReadout t k line r1 r2) s = .next (lateLine k.val line (advance t s)))) ∧
    (∀ f, s.stl[k].frames.find? (fun f => !f.spit && f.seq.isNone) = some f →
      (∀ g ∈ s.stl[k].frames, ¬ (g.spit = false ∧ g.line < f.line ∧ g.firedAt = none)) →
      (maySend s k.val = true → Machine.exec (.lineFrameSend t k) s = .next (sendFrame k.val f (advance t s))) ∧
      (maySend s k.val = false → Machine.exec (.lineFrameSend t k) s = .next (endFrame k.val f.line false (advance t s)))) ∧
    (∀ f m, s.stl[k].frames.find? (fun f => !f.spit && f.fireAt.isSome && f.firedAt.isNone) = some f → f.fireAt = some m →
      10 * (m + 2000) ≤ 10 * (advance t s).now + stallLambda s k.val →
      (maySend s k.val = true → f.seq.isSome = true →
        Machine.exec (.fireBlockSend t k) s = .next { advance t s with
          outbox := .head k.val 3 [fireWord (advance t s) f.line] :: s.outbox,
          stl := upd s.stl k fun x => { x with
            lineEnd := (advance t s).now + period (advance t s),
            frames := mapWhere (fun g => g.line == f.line && !g.spit) (fun g => { g with firedAt := some (advance t s).now }) x.frames } }) ∧
      ((maySend s k.val = false ∨ f.seq = none) → Machine.exec (.fireBlockSend t k) s = .next (endFrame k.val f.line false (advance t s))))

/-- HEAD_ACK_RECEIVE, HEAD_NAK_RECEIVE, HEAD_FIRED_RECEIVE and FIRED_TIMEOUT (R230, R232): an ACK marks its frame or ends the wait for the config message; a NAK is counted,
and what it names is sent again where it still fits; FIRED ends its frame, fired or missed; no FIRED 10 µs after the fire block is a miss. HEAD_STATUS_RECEIVE,
VPP_RECOVER and HEAD_ALARM_RECEIVE (R233, R245, R254 to R256): the reported temperatures and voltage are kept, the zones above the limits follow them, a zone above the
absolute limit latches the Stall off; a voltage out of range withdraws the permit and one in range for 1 ms ends that. HEAD_RESIST_RECEIVE, HEAD_DRIVE_RECEIVE and
HEAD_IDENT_RECEIVE (R173, R223, R258, R259): the second report in a row that is more than 8 % out of tolerance retires the channel, and so does the drive fault on a third
line within 1,000,000; an identity on the lane in use is the Stall's, and ends a STALL_CONFIG that waited for it. -/
def Obligations.HeadsAreHeard : Prop :=
  (∀ (t : Nat) (k : Fin 24) (s : State),
    (hears s k.val = true →
      (∀ seq, Machine.exec (.headAckReceive t k seq) s = .next { advance t s with stl := upd s.stl k fun x => { x with
        lastAck := (advance t s).now, cfgSeq := if x.cfgSeq = some seq then none else x.cfgSeq,
        frames := mapWhere (fun f => f.seq == some seq) (fun f => { f with acked := true }) x.frames } }) ∧
      (∀ seq reason, s.stl[k].cfgSeq = some seq →
        Machine.exec (.headNakReceive t k seq reason) s = .next (countStall k.val 1 (sendConfig k.val (countStall k.val 2 (advance t s))))) ∧
      (∀ seq reason f, s.stl[k].cfgSeq ≠ some seq → s.stl[k].frames.find? (fun f => f.seq == some seq && !f.acked && !f.spit && f.firedAt.isNone) = some f →
        Machine.exec (.headNakReceive t k seq reason) s = .next (if resendFits (countStall k.val 2 (advance t s)) k.val f
          then countStall k.val 1 (sendFrame k.val f (countStall k.val 2 (advance t s))) else countStall k.val 2 (advance t s))) ∧
      (∀ line16 sender missed f, s.stl[k].frames.find? (fun f => !f.spit && (f.firedAt.isSome || s.twn.bound) && f.line % 65536 == line16 % 65536) = some f →
        Machine.exec (.headFiredReceive t k line16 sender missed) s = .next (
          if missed then missFrame k.val f { advance t s with stl := upd s.stl k fun x => { x with missRun := 0 } }
          else firedFrame k.val f sender { advance t s with stl := upd s.stl k fun x => { x with missRun := 0 } }))) ∧
    (∀ f u, s.stl[k].frames.find? (fun f => match f.firedAt with | some m => decide (m + 10000 ≤ (advance t s).now) | none => false) = some f →
      u = { advance t s with stl := upd s.stl k fun x => { x with missRun := x.missRun + 1 } } →
      ∀ v, v = (if 1 ≤ s.stl[k].missRun ∧ s.stl[k].lastAck + 10000 ≤ (advance t s).now then failLane (usedLane s k.val) u else u) →
      Machine.exec (.firedTimeout t k) s = .next (if f.spit
        then countStall k.val 3 { v with stl := upd v.stl k fun y => { y with frames := y.frames.filter fun g => !(g.spit && g.line == f.line) } }
        else missFrame k.val f v))) ∧
  (∀ (t : Nat) (k : Fin 24) (s : State), 
    (hears s k.val = true →
      (∀ temps vpp ts, ts = (List.range 17).map (fun z => fld (temps.getD (z / 4) 0) (16 * (z % 4) + 15) (16 * (z % 4))) →
        ∃ s', Machine.exec (.headStatusReceive t k temps vpp) s = .next s' ∧ s'.stl[k].temps = ts ∧ s'.stl[k].vpp = vpp % 65536 ∧
          s'.stl[k].hot = zonesAt s.stl[k].cfg.tReduce ts ∧ s'.stl[k].zonesHot = zonesAt s.stl[k].cfg.tAbs ts ∧
          (zonesAt s.stl[k].cfg.tAbs ts ≠ 0 → s'.stl[k].overLat = true) ∧
          ((vpp % 65536 < s.stl[k].cfg.vppMin ∨ s.stl[k].cfg.vppMax < vpp % 65536) → s'.stl[k].vppBad = true) ∧ s'.well = s.well ∧ s'.mot = s.mot) ∧
      (∀ (zone : Fin 17) (rising : Bool),
        (∃ s', Machine.exec (.headAlarmReceive t k zone false rising) s = .next s' ∧ s'.stl[k].hot = setBit s.stl[k].hot zone.val rising ∧ s'.prod = s.prod) ∧
        (∃ s', Machine.exec (.headAlarmReceive t k zone true rising) s = .next s' ∧ s'.stl[k].zonesHot = setBit s.stl[k].zonesHot zone.val rising ∧
          (rising = true → s'.stl[k].overLat = true)))) ∧
    (∀ m, s.stl[k].vppSince = some m → s.stl[k].vppBad = true →
      (m + 1000000 ≤ (advance t s).now → ∃ s', Machine.exec (.vppRecover t k) s = .next s' ∧ s'.stl[k].vppBad = false ∧ s'.stl[k].vppSince = none ∧ s'.prod = s.prod) ∧
      ((advance t s).now < m + 1000000 → Machine.exec (.vppRecover t k) s = .next (advance t s)))) ∧
  (∀ (t : Nat) (k : Fin 24) (s : State), hears s k.val = true →
    (∀ ch rMeas rRef : Nat, s.stl[k].cfg.check = 2 → rRef ≠ 0 → 
      (8 * rRef < 100 * ((rMeas : Int) - rRef).natAbs → ch ∉ s.stl[k].badRes →
        Machine.exec (.headResistReceive t k ch rMeas rRef) s = .next { advance t s with stl := upd s.stl k fun y => { y with badRes := y.badRes ++ [ch] } }) ∧
      (8 * rRef < 100 * ((rMeas : Int) - rRef).natAbs → ch ∈ s.stl[k].badRes →
        ∃ s', Machine.exec (.headResistReceive t k ch rMeas rRef) s = .next s' ∧ (∃ r ∈ s'.mil.retired, r.stall = k.val ∧ r.channel = ch) ∧ s'.prod = s.prod ∧ s'.well = s.well) ∧
      (100 * ((rMeas : Int) - rRef).natAbs ≤ 8 * rRef →
        Machine.exec (.headResistReceive t k ch rMeas rRef) s = .next { advance t s with stl := upd s.stl k fun y => { y with badRes := y.badRes.filter (· != ch) } })) ∧
    (∀ ch line16 ds, ds = (s.stl[k].drives.filter fun d => decide (fullLine s line16 < d.2 + 1000000) && d != (ch, fullLine s line16)) ++ [(ch, fullLine s line16)] →
      ((ds.filter fun d => d.1 == ch).length < 3 →
        Machine.exec (.headDriveReceive t k ch line16) s = .next { advance t s with stl := upd s.stl k fun y => { y with drives := ds } }) ∧
      (3 ≤ (ds.filter fun d => d.1 == ch).length →
        ∃ s', Machine.exec (.headDriveReceive t k ch line16) s = .next s' ∧ (∃ r ∈ s'.mil.retired, r.stall = k.val ∧ r.channel = ch) ∧ s'.prod = s.prod ∧ s'.well = s.well)) ∧
    (∀ (lane : Fin 36) (h : W64), lane.val = usedLane s k.val → laneStall s lane.val = some k.val → (lane.val < 24 ∨ 34 ≤ lane.val) →
      ∃ s', Machine.exec (.headIdentReceive t lane h) s = .next s' ∧ s'.stl[k].headId = some h ∧ s'.lan.lane[lane].farHead = some h ∧
        (s.stl[k].waitCid ≠ 0 → Ended s.stl[k].waitCid Status.done s') ∧ s'.prod = s.prod ∧ s'.well = s.well))

/-- LANE_SIGNAL_DETECT, BLOCK_LOCK, ADAPT_DONE and LANE_FAST_EXIT (R273, R274, R276, R281 to R283): an idle lane with a function begins its Wake burst; block lock leads to
ADAPT, or to PROBE within 100 µs of a loss with the values kept; the adaptation's values are kept and the lane goes to PROBE, an Ethernet lane to UP; a fast exit leads to
UP, or to HUNT. PROBE_SEND, PROBE_RECEIVE and PROBE_ECHO_RECEIVE (R277, R278): 16 probes are sent in PROBE and one a second in UP; a probe is answered with an Echo that
carries the turnaround; 16 answers give λ, with which a lane in PROBE enters UP unless it is a Stall lane over 1,700 ns, and which a Stall lane in UP takes at the next
boundary. -/
def Obligations.LanesAreTrained : Prop :=
  (∀ (t : Nat) (lane : Fin 36) (s : State), lanePowered s lane.val = true →
    (s.lan.lane[lane].state = .idle → laneWanted s lane.val = true →
      Machine.exec (.laneSignalDetect t lane) s = .next { advance t s with
        outbox := .lane lane.val 0x2D 0 :: s.outbox, lan.lane := upd s.lan.lane lane fun l => { l with state := .wake } }) ∧
    (s.lan.lane[lane].state = .hunt → laneRefGood s lane.val = true → s.lan.lane[lane].loopCid = 0 →
      ((s.lan.lane[lane].kept = false ∨ ∀ m, s.lan.lane[lane].lostAt = some m → m + 100000 < (advance t s).now) →
        Machine.exec (.blockLock t lane) s = .next { advance t s with
          lan.lane := upd s.lan.lane lane fun l => { l with lockN := l.lockN + 1, lostAt := none, state := .adapt } }) ∧
      (∀ m, s.lan.lane[lane].kept = true → s.lan.lane[lane].lostAt = some m → (advance t s).now ≤ m + 100000 → isEthLane lane.val = false →
        Machine.exec (.blockLock t lane) s = .next { advance t s with
          lan.lane := upd s.lan.lane lane fun l => { l with lockN := l.lockN + 1, lostAt := none, state := .probe, sent := 0, asked := [], answers := [] } })) ∧
    (∀ fom ctle gain dfe, s.lan.lane[lane].state = .adapt →
      ∃ s', Machine.exec (.adaptDone t lane fom ctle gain dfe) s = .next s' ∧ s'.lan.lane[lane].fom = min 1023 fom ∧
        s'.lan.lane[lane].ctle = ctle % 16 ∧ s'.lan.lane[lane].gain = gain % 32 ∧ s'.lan.lane[lane].dfe = dfe.take 6 ∧ s'.lan.lane[lane].kept = true ∧
        s'.lan.lane[lane].state = (if isEthLane lane.val then .up else .probe)) ∧
    (∀ ok, s.lan.lane[lane].state = .wake →
      ∃ s', Machine.exec (.laneFastExit t lane ok) s = .next s' ∧ s'.lan.lane[lane].state = (if ok then .up else .hunt) ∧
        s'.lan.lane[lane].lambda = s.lan.lane[lane].lambda ∧ s'.prod = s.prod ∧ s'.well = s.well)) ∧
  (∀ (t : Nat) (lane : Fin 36) (s : State), lanePowered s lane.val = true → isEthLane lane.val = false →
    (s.lan.lane[lane].state = .probe → s.lan.lane[lane].sent < 16 → (s.lan.lane[lane].sent = 0 ∨ s.lan.lane[lane].sentAt + 1000 ≤ (advance t s).now) →
      Machine.exec (.probeSend t lane) s = .next { advance t s with
        outbox := .lane lane.val 0x4B s.lan.lane[lane].sent :: s.outbox,
        lan.lane := upd s.lan.lane lane fun l => { l with sent := l.sent + 1, sentAt := (advance t s).now, asked := l.asked ++ [l.sent] } }) ∧
    (s.lan.lane[lane].state = .up → s.lan.lane[lane].sentAt + 1000000000 ≤ (advance t s).now →
      Machine.exec (.probeSend t lane) s = .next { advance t s with
        outbox := .lane lane.val 0x4B ((s.lan.lane[lane].sent + 1) % 65536) :: s.outbox,
        lan.lane := upd s.lan.lane lane fun l => { l with
          sent := (l.sent + 1) % 65536, sentAt := (advance t s).now, answers := if l.asked.isEmpty then l.answers else [], asked := [(l.sent + 1) % 65536] } }) ∧
    (∀ num turn, (s.lan.lane[lane].state = .probe ∨ s.lan.lane[lane].state = .up) →
      Machine.exec (.probeReceive t lane num turn) s = .next { advance t s with
        outbox := .lane lane.val 0x55 (put (turn % 2 ^ 24) 16 + num % 65536) :: s.outbox }) ∧
    (∀ num trip turn lam, num ∈ s.lan.lane[lane].asked → lam = (s.lan.lane[lane].answers ++ [trip - turn]).sum / 32 →
      (s.lan.lane[lane].answers.length < 15 →
        Machine.exec (.probeEchoReceive t lane num trip turn) s = .next { advance t s with
          lan.lane := upd s.lan.lane lane fun l => { l with asked := l.asked.erase num, answers := l.answers ++ [trip - turn] } }) ∧
      (15 ≤ s.lan.lane[lane].answers.length → s.lan.lane[lane].state = .probe → (24 ≤ lane.val ∨ lam ≤ 17000) →
        ∃ s', Machine.exec (.probeEchoReceive t lane num trip turn) s = .next s' ∧ s'.lan.lane[lane].state = .up ∧ s'.lan.lane[lane].lambda = lam) ∧
      (15 ≤ s.lan.lane[lane].answers.length → s.lan.lane[lane].state = .probe → lane.val < 24 → 17000 < lam →
        ∃ s', Machine.exec (.probeEchoReceive t lane num trip turn) s = .next s' ∧ s'.lan.lane[lane].state = .probe ∧ s'.lan.lane[lane].sent = 0) ∧
      (15 ≤ s.lan.lane[lane].answers.length → s.lan.lane[lane].state = .up → lane.val < 24 →
        Machine.exec (.probeEchoReceive t lane num trip turn) s = .next { advance t s with
          lan.lane := upd s.lan.lane lane fun l => { l with asked := l.asked.erase num, answers := [], nextLam := some lam } })))

/-- LOSS_OF_LOCK, RELOCK_TIMEOUT, FOM_SWEEP and SPARE_RATE_HUNT_SWITCH (R274, R276, R280, R281, R284, R285): a lane that loses lock hunts with its values kept, and the third
loss within 10 s makes it failing, as does a relock that takes more than 100 µs; the figure of merit and its lowest are kept; a spare that finds no lock hunts at the
other rate. MOVE_BLOCK_RECEIVE (R270, R287): a Move without the spare bit drops this end's move; one with this end's number completes it; one that names a lane with a
ready spare is answered in kind and completed; and one whose lane has none is answered with the spare bit clear. -/
def Obligations.LanesAreRepaired : Prop :=
  (∀ (t : Nat) (lane : Fin 36) (s : State), lanePowered s lane.val = true →
    (∀ hdrs, (s.lan.lane[lane].state = .adapt ∨ s.lan.lane[lane].state = .probe ∨ s.lan.lane[lane].state = .up) →
      ∃ s', Machine.exec (.lossOfLock t lane hdrs) s = .next s' ∧ s'.lan.lane[lane].state = .hunt ∧ s'.lan.lane[lane].lossN = s.lan.lane[lane].lossN + 1 ∧
        s'.lan.lane[lane].badHdrs = s.lan.lane[lane].badHdrs + hdrs ∧ s'.lan.lane[lane].kept = s.lan.lane[lane].kept ∧
        s'.lan.lane[lane].lostAt = some (advance t s).now ∧
        (2 ≤ (recent (advance t s) 10000000000 s.lan.lane[lane].lossAt).length → lane.val < 32 → s'.lan.lane[lane].failing = true) ∧ s'.well = s.well) ∧
    (∀ m, s.lan.lane[lane].lostAt = some m → s.lan.lane[lane].state = .hunt → m + 100000 ≤ (advance t s).now →
      ∃ s', Machine.exec (.relockTimeout t lane) s = .next s' ∧ s'.lan.lane[lane].kept = false ∧ s'.lan.lane[lane].lostAt = none ∧
        (lane.val < 32 → s'.lan.lane[lane].failing = true) ∧ s'.well = s.well) ∧
    (∀ fom hdrs trial, s.lan.lane[lane].state ≠ .idle → s.lan.lane[lane].state ≠ .hunt →
      ∃ s', Machine.exec (.fomSweep t lane fom hdrs trial) s = .next s' ∧ s'.lan.lane[lane].fom = min 1023 fom ∧
        s'.lan.lane[lane].fomLow = min s.lan.lane[lane].fomLow (min 1023 fom) ∧ s'.lan.lane[lane].badHdrs = s.lan.lane[lane].badHdrs + hdrs ∧
        s'.lan.lane[lane].state = s.lan.lane[lane].state ∧
        (∀ x, trial = some x → s.lan.lane[lane].state = .up → oneStep s.lan.lane[lane] x = true → min 1023 fom + 2 ≤ x.fom →
          s'.lan.lane[lane].ctle = x.ctle ∧ s'.lan.lane[lane].gain = x.gain ∧ s'.lan.lane[lane].dfe = x.dfe) ∧
        (lane.val < 32 → 1000 ≤ hdrs → s'.lan.lane[lane].failing = true)) ∧
    (34 ≤ lane.val → s.lan.lane[lane].covers = none → s.lan.lane[lane].out = false → s.lan.lane[lane].state ≠ .up →
      s.lan.lane[lane].huntAt + 2000000 ≤ (advance t s).now →
      ∃ s', Machine.exec (.spareRateHuntSwitch t lane) s = .next s' ∧ s'.lan.lane[lane].fast = !s.lan.lane[lane].fast ∧
        s'.lan.lane[lane].state = .hunt ∧ s'.lan.lane[lane].kept = false ∧ s' = { advance t s with lan := s'.lan })) ∧
  (∀ (t num : Nat) (lane failing : Fin 36) (spare : Fin 2) (s : State), 24 ≤ lane.val → lane.val < 32 → lanePowered s lane.val = true →
    Machine.exec (.moveBlockReceive t lane failing spare false num) s = .next { advance t s with
      lan.moving := s.lan.moving.filter fun m => m.1 != lanePort lane.val } ∧
    (∀ m, s.lan.moving.find? (fun m => m.1 == lanePort lane.val) = some m → m.2.2 % 256 = num % 256 →
      Machine.exec (.moveBlockReceive t lane failing spare true num) s = .next (moveUrara m.2.1 (advance t s))) ∧
    (∀ n, s.lan.moving.find? (fun m => m.1 == lanePort lane.val) = none →
      [24 + 2 * lanePort lane.val, 25 + 2 * lanePort lane.val].find? (fun n => (laneOf s n).farNode.any fun f => f.2.2 == failing.val) = some n →
      ((readySpare s n).isSome = true → Machine.exec (.moveBlockReceive t lane failing spare true num) s = .next (moveUrara n { advance t s with
        outbox := .lane lane.val 0x66 (moveValue n true num) :: s.outbox,
        lan.moveN := s.lan.moveN.mapIdx fun i m => if i = lanePort lane.val then num else m })) ∧
      (readySpare s n = none → Machine.exec (.moveBlockReceive t lane failing spare true num) s = .next { advance t s with
        outbox := .lane lane.val 0x66 (moveValue n false num) :: s.outbox })))

/-- LINK_STATUS, LOOPBACK and LOOPBACK_END (R288, R289): the counts of a lane are answered and its lowest figure of merit begins anew; a lane without a function hunts in
loopback for its duration, after which the counts are answered and the lane hunts again. REFCLK_SER_FAIL and REFCLK_SER_RECOVER (R268): when one reference fails every
lane on it moves to the other and what runs hunts again; when both have failed the fault is REFCLK_LOST; a reference that recovers after both had failed takes every lane. -/
def Obligations.LaneCommandsAndClocks : Prop :=
  ((∀ (t cid : Nat) (c : Slot) (lane : Fin 36) (s : State),
    (Starts Op.linkStatus cid c s → parN c 0 = lane.val →
      Machine.exec (.linkStatus t cid) s = .next (answer c (linkStatusWords s lane.val) { startedAt t cid s with
        lan.lane := upd s.lan.lane lane fun l => { l with fomLow := l.fom } })) ∧
    (Starts Op.loopback cid c s → parN c 0 = lane.val → 1 ≤ parF c 1 3 0 → parF c 1 3 0 ≤ 3 → parF c 1 31 16 ≠ 0 → laneBusy s lane.val = false →
      ∃ s', Machine.exec (.loopback t cid) s = .next s' ∧ s'.lan.lane[lane] = { s.lan.lane[lane] with
        state := .hunt, loopCid := c.cid, huntAt := (advance t s).now } ∧ s'.prod = s.prod ∧ s'.well = s.well)) ∧
  (∀ (t bits errs hdrs fom : Nat) (c : Slot) (lane : Fin 36) (s : State), Runs Op.loopback s.lan.lane[lane].loopCid c s →
    s.lan.lane[lane].huntAt + parF c 1 31 16 * 1000000 ≤ (advance t s).now →
    ∃ s', Machine.exec (.loopbackEnd t lane bits errs hdrs fom) s = .next (answer c [word bits, word errs, word hdrs, word (min 1023 fom)] s') ∧
      s'.lan.lane[lane].state = .hunt ∧ s'.lan.lane[lane].loopCid = 0 ∧ s'.lan.lane[lane].badHdrs = s.lan.lane[lane].badHdrs + hdrs ∧
      s' = { advance t s with lan := s'.lan })) ∧
  (∀ (t : Nat) (ref : Fin 2) (s : State),
    (s.lan.failed[ref] = false →
      ∃ s', Machine.exec (.refclkSerFail t ref) s = .next s' ∧ s'.lan.failed = s.lan.failed.set ref true ∧
        ((∃ r : Fin 2, r ≠ ref ∧ s.lan.failed[r] = false) → ∀ lane : Fin 36, s'.lan.lane[lane].ser1 = decide (ref.val = 0)) ∧
        ((∃ r : Fin 2, r ≠ ref ∧ s.lan.failed[r] = true) → FaultCode.refclkLost ∈ s'.flt.active) ∧ s'.well = s.well) ∧
    (s.lan.failed[ref] = true →
      ∃ s', Machine.exec (.refclkSerRecover t ref) s = .next s' ∧ s'.lan.failed = s.lan.failed.set ref false ∧
        ((∀ r : Fin 2, s.lan.failed[r] = true) → ∀ lane : Fin 36, s'.lan.lane[lane].ser1 = decide (ref.val = 1)) ∧ s'.well = s.well))

/-- The stages of boot (R85, R412, R436, R455, R462, R482, R528): each ends with its event and leads to the next, or boot stops at 0x80 plus the stage with its error; the
images are tried from the active slot; the saved numbers go on 1,048,576 higher; at t8 the mailbox closes and the device is ready. RESET_N_RELEASE and AON_SUPPLY_SWITCH
(R520, R521, R525, R528, R570): with VDD_AON there, the release of RESET_N starts boot at stage 0x01 with AON, SEC, CPU and PCIE powered (the powered domains are the
model's reading: log entry 40) and reports its cause; AON runs from VBAT below 0.72 V, and with neither supply the keeper stops. -/
def Obligations.BootRuns : Prop :=
  (∀ (t : Nat) (s : State),
    (bootAt s 1 = true →
      Machine.exec (.bootSelftestsDone t true) s = .next { advance t s with
        pwr.stage := 2, pwr.stageAt := (advance t s).now, kry.tested := true, kry.katAt := (advance t s).now, kry.reseedAt := (advance t s).now } ∧
      Machine.exec (.bootSelftestsDone t false) s = .next { advance t s with pwr.stage := 0x80 + s.pwr.stage, pwr.bootError := 5 }) ∧
    (∀ (a b v w : ImgVerdict) (first other : Fin 2), bootAt s 2 = true →
      ((s.bgd.fwSlot = 0 ∧ first = 0 ∧ other = 1 ∧ v = a ∧ w = b) ∨ (s.bgd.fwSlot ≠ 0 ∧ first = 1 ∧ other = 0 ∧ v = b ∧ w = a)) →
      (slotFailure s first v = none → ∃ s', Machine.exec (.bootImageVerified t a b) s = .next s' ∧ s'.pwr.stage = 4 ∧ s'.bgd.fwSlot = first.val ∧
        s'.fwVersion = s.fwVersion.set first (imgVersion v.header)) ∧
      (∀ e, slotFailure s first v = some e → slotFailure s other w = none →
        ∃ s', Machine.exec (.bootImageVerified t a b) s = .next s' ∧ s'.pwr.stage = 4 ∧ s'.bgd.fwSlot = other.val ∧
        s'.fwVersion = s.fwVersion.set other (imgVersion w.header)) ∧
      (∀ e f, slotFailure s first v = some e → slotFailure s other w = some f →
        Machine.exec (.bootImageVerified t a b) s = .next { advance t s with
          pwr.stage := 0x83, pwr.stageAt := (advance t s).now, pwr.bootError := e })) ∧
    (bootAt s 4 = true →
      (∃ s', Machine.exec (.bootCoresStarted t true) s = .next s' ∧ s'.pwr.stage = 5 ∧ (∀ d : Fin 12, domOn s' d = true) ∧
        s'.mot.line = s.mot.savedLine + 1048576 ∧ s'.mot.nextProd = s.mot.savedProd + 1048576 ∧ s'.led.broken = []) ∧
      Machine.exec (.bootCoresStarted t false) s = .next { advance t s with pwr.stage := 0x80 + s.pwr.stage, pwr.bootError := 6 }) ∧
    (∀ spd rate, bootAt s 5 = true →
      (∀ e, wellFailure s spd = some e →
        Machine.exec (.bootWellTrained t spd rate) s = .next { advance t s with pwr.stage := 0x80 + s.pwr.stage, pwr.bootError := e }) ∧
      (∀ r, wellFailure s spd = none → rate = some r → 0 < r →
        ∃ s', Machine.exec (.bootWellTrained t spd rate) s = .next s' ∧ s'.pwr.stage = 6 ∧ s'.well.rate = min r s.well.cfgRate ∧
          s'.well.bytes = wellCapacity s.well.x4 s.well.density s.well.ranks ∧ s'.well.reduced = decide (r < s.well.cfgRate) ∧
          (∀ n : Fin 36, laneWanted s n.val = true → s'.lan.lane[n].state = .hunt))) ∧
    (bootAt s 6 = true → s.pwr.stageAt + 20000000 ≤ (advance t s).now →
      Machine.exec (.bootLaneStageEnd t) s = .next { advance t s with pwr.lanesDone := true }) ∧
    (bootAt s 6 = true → s.pwr.lanesDone = true →
      ∃ s', Machine.exec (.deviceReady t) s = .next s' ∧ s'.pwr.stage = 7 ∧ s'.pwr.ready = true ∧ s'.bar.mbxBusy = false ∧ s'.pwr.readySec = devSec (advance t s) % 2 ^ 32)) ∧
  (∀ (t : Nat) (s : State),
    (s.pwr.resetLow = true → s.pwr.onVbat = false →
      ∃ s', Machine.exec (.resetNRelease t) s = .next s' ∧ s'.pwr.stage = 1 ∧ s'.pwr.resetLow = false ∧ s'.pwr.tripHeld = false ∧ s'.pwr.cause = releaseCause s ∧
        (∀ d : Fin 12, domOn s' d = decide (d.val = 0 ∨ d.val = 1 ∨ d.val = 2 ∨ d.val = 4))) ∧
    (s.pwr.onVbat = true → Machine.exec (.resetNRelease t) s = .next (advance t s)) ∧
    (∀ mv, (720 ≤ mv → ∀ vbat, Machine.exec (.aonSupplySwitch t mv vbat) s = .next { advance t s with
        pwr.aonMv := mv, pwr.vbat := vbat, pwr.onVbat := false }) ∧
      (mv < 720 → Machine.exec (.aonSupplySwitch t mv true) s = .next { advance t s with
        pwr.aonMv := mv, pwr.vbat := true, pwr.onVbat := true } ∧
        ∃ s', Machine.exec (.aonSupplySwitch t mv false) s = .next s' ∧ s'.pwr.keeper = false ∧ s'.pwr.onVbat = true ∧ s'.pwr.tripHeld = false)))

/-- The resets (R22, R98, R431, R506, R522, R525 to R527, R537): RESET, RESET_N low for 1 µs, the watchdog, a junction trip, a notice of power-down, a loss of power and the
end of a zeroisation leave what every reset leaves; those announced save the line index and the product number first; the state tells which one it was. -/
def Obligations.ResetsClearTheBlock : Prop :=
  (∀ (t cid : Nat) (c : Slot) (s : State), Starts Op.reset cid c s →
    ∃ s', Machine.exec (.reset t cid) s = .next s' ∧ AfterReset s s' ∧ s'.pwr.stage = 1 ∧
      s'.pwr.cause = (if parB c 0 0 then .cold else .warmCmd) ∧
      (5 ≤ s.pwr.stage → s.pwr.bootError = 0 → s'.mot.savedLine = s.mot.line ∧ s'.mot.savedProd = s.mot.nextProd)) ∧
  (∀ (t : Nat) (s : State),
    (∀ low, s.pwr.resetLow = false →
      (low < 1000 → Machine.exec (.resetPinAssert t low) s = .next (advance t s)) ∧
      (1000 ≤ low → s.pwr.tripHeld = false → s.pwr.noticed = false → s.pwr.powerLost = false →
        ∃ s', Machine.exec (.resetPinAssert t low) s = .next s' ∧ AfterReset s s' ∧ s'.pwr.resetLow = true ∧ s'.pwr.cause = .resetPin ∧
          s'.mot.savedLine = s.mot.savedLine)) ∧
    (s.bgd.takeover = true → s.bgd.takeAt + 100000000 ≤ (advance t s).now →
      ∃ s', Machine.exec (.watchdogReset t) s = .next s' ∧ AfterReset s s' ∧ s'.pwr.stage = 1 ∧ s'.pwr.cause = .watchdog) ∧
    (s.pwr.powerLost = false → s.pwr.tripHeld = false →
      ∃ s', Machine.exec (.junctionTrip t) s = .next s' ∧ AfterReset s s' ∧ s'.pwr.tripHeld = true ∧ s'.thm.trips = s.thm.trips + 1) ∧
    (s.pwr.noticed = false → s.pwr.powerLost = false →
      ∃ s', Machine.exec (.powerDownNotice t) s = .next s' ∧ AfterReset s s' ∧ s'.pwr.noticed = true ∧
        (5 ≤ s.pwr.stage → s.pwr.bootError = 0 → s'.mot.savedLine = s.mot.line ∧ s'.mot.savedProd = s.mot.nextProd)) ∧
    (∀ aonLost, s.pwr.powerLost = false →
      ∃ s', Machine.exec (.unannouncedPowerLoss t aonLost) s = .next s' ∧ AfterReset s s' ∧ s'.pwr.powerLost = true ∧
        s'.mot.savedLine = s.mot.savedLine ∧ s'.mot.savedProd = s.mot.savedProd ∧ (aonLost = true → s'.pwr.keeper = false)) ∧
    (s.kry.latch.isSome = true → domOn s 2 = true →
      ∃ s', Machine.exec (.zeroiseReset t) s = .next s' ∧ AfterReset s s' ∧ s'.pwr.stage = 1 ∧ s'.pwr.cause = .tamper ∧ s'.kry.latch = none))

/-- POWER_DOMAIN and the switching of domains (R22, R79, R523): a request joins those that wait, and a power-down that the active job forbids is refused; the oldest request
switches its domain off once its rings have drained, or on, and its command is Done. TEMP_SENSOR_CONVERSION, REFCLK_SYS_FAIL and REFCLK_SYS_RECOVER (R533, R535, R536,
R539): a conversion sets Tj to the hottest reading of a powered domain and judges the three steps; a lost system reference releases every permit under REFCLK_SYS_LOST,
which its recovery clears. -/
def Obligations.PowerAndHeat : Prop :=
  ((∀ (t cid : Nat) (c : Slot) (s : State), Starts Op.powerDomain cid c s → 3 ≤ parF c 0 3 0 → parF c 0 3 0 ≤ 11 →
    (parB c 0 8 = true → Machine.exec (.powerDomain t cid) s = .next { startedAt t cid s with
      pwr.reqs := s.pwr.reqs ++ [{ cid := c.cid, dom := parF c 0 3 0, on := true, t0 := (advance t s).now }] }) ∧
    (parB c 0 8 = false → offRefused s (parF c 0 3 0) = false →
      ∃ s', Machine.exec (.powerDomain t cid) s = .next s' ∧ s'.pwr.domains = s.pwr.domains ∧
        s'.pwr.reqs = s.pwr.reqs ++ [{ cid := c.cid, dom := parF c 0 3 0, on := false, t0 := (advance t s).now }] ∧ s'.prod = s.prod ∧ s'.well = s.well) ∧
    (parB c 0 8 = false → offRefused s (parF c 0 3 0) = true →
      Machine.exec (.powerDomain t cid) s = .next (refuse c Status.domainRequired (startedAt t cid s)))) ∧
  (∀ (t : Nat) (q : PowerReq) (rest : List PowerReq) (d : Fin 12) (s : State), s.pwr.reqs = q :: rest → q.dom = d.val →
    (q.on = false → insertionRuns s d.val = false → offRefused s d.val = false → ringsDrained d s = true →
      ∃ s', Machine.exec (.domainPowerDownProceed t) s = .next s' ∧ domOn s' d = false ∧ s'.pwr.reqs = rest ∧ Ended q.cid Status.done s' ∧
        (∀ e : Fin 12, e ≠ d → domOn s' e = domOn s e)) ∧
    (q.on = true →
      ∃ s', Machine.exec (.domainPowerUpDone t) s = .next s' ∧ domOn s' d = true ∧ s'.pwr.reqs = rest ∧ Ended q.cid Status.done s' ∧
        (∀ e : Fin 12, e ≠ d → domOn s' e = domOn s e)))) ∧
  (∀ (t : Nat) (s : State),
    (∀ (rs : List Int) (tj : Int) (k : Nat), domOn s 2 = true → s.thm.convAt + 100000 ≤ (advance t s).now → (tj, k) = hottest s (rs.take 24) →
      ∃ s', Machine.exec (.tempSensorConversion t rs) s = .next s' ∧ s'.thm.tj = tj ∧ s'.thm.tjSensor = k ∧ s'.thm.tjMax = max s.thm.tjMax tj ∧
        s'.thm.convAt = (advance t s).now ∧ s'.thm.steps[0] = judgeStep s.thm.steps[0] 400 388 tj ∧ s'.thm.steps[1] = judgeStep s.thm.steps[1] 420 408 tj ∧
        s'.thm.steps[2] = judgeStep s.thm.steps[2] 440 400 tj ∧ s'.well = s.well ∧ s'.mot = s.mot) ∧
    (s.pwr.refSysLost = false →
      (5 ≤ s.pwr.stage → s.pwr.bootError = 0 → ∃ s', Machine.exec (.refclkSysFail t) s = .next s' ∧ s'.pwr.refSysLost = true ∧
        FaultCode.refclkSysLost ∈ s'.flt.active ∧ (∀ k : Fin 24, s'.stl[k].permit = false) ∧ s'.well = s.well) ∧
      ((s.pwr.stage < 5 ∨ s.pwr.bootError ≠ 0) → Machine.exec (.refclkSysFail t) s = .next { advance t s with pwr.refSysLost := true })) ∧
    (s.pwr.refSysLost = true → ∃ s', Machine.exec (.refclkSysRecover t) s = .next s' ∧ s'.pwr.refSysLost = false ∧
      FaultCode.refclkSysLost ∉ s'.flt.active ∧ s'.well = s.well))

/-- Tamper, cleared faults, the Square and the test port (R20, R430, R431, R541, R544, R564): a sensor that acts zeroises; the voltage or clock sensor holds the core, which a
clear after 1 ms ends and a hold of 10 ms or the 16th in 1 s turns into zeroisation; a fault whose condition is over leaves the active ones; a port instruction that
drives balls needs RESET_N low. CORE_TAKEOVER and TAKEOVER_COMPLETE (R24, R506, R507): the working cores stop and commands wait; at its end the spare runs in lockstep
with the lower core that passed, a core that failed is retired, and a core left alone runs single. -/
def Obligations.FailuresAreContained : Prop :=
  (∀ (t : Nat) (s : State),
    (∀ cause, tamperSenses s = true → sensorActs s cause = true → s.kry.latch = none →
      ∃ s', Machine.exec (.tamperTrip t cause) s = .next s' ∧ s'.kry.latch = some (advance t s).now ∧ s'.kry.keys = [] ∧ s'.kry.jobKeys = [] ∧ s'.kry.creds = [] ∧
        s'.cmd.slots = [] ∧ s'.cmd.sessions = [] ∧ s'.cmd.intakeOpen = false ∧ (∃ e, s'.kry.log.head? = some e ∧ e.cause = tamperCode cause) ∧ s'.well = s.well) ∧
    (∀ clock, tamperSenses s = true → s.kry.hold = none → s.kry.latch = none → s.pwr.onVbat = false → domOn s 1 = true →
      ∃ s', Machine.exec (.tamperHoldStart t clock) s = .next s' ∧ s'.kry.hold = some (advance t s).now ∧ FaultCode.kryntoHold ∈ s'.flt.active ∧
        (∃ e, s'.kry.log.head? = some e ∧ e.cause = (if clock then 6 else 5)) ∧ s'.kry.keys = s.kry.keys) ∧
    (∀ m, s.kry.hold = some m →
      (holdFatal (advance t s) = false → m + 1000000 ≤ (advance t s).now →
        ∃ s', Machine.exec (.tamperHoldClear t) s = .next s' ∧ s'.kry.hold = none ∧ FaultCode.kryntoHold ∉ s'.flt.active) ∧
      (holdFatal (advance t s) = true → s.kry.latch = none →
        ∃ s', Machine.exec (.tamperHoldTimeout t) s = .next s' ∧ s'.kry.latch = some (advance t s).now ∧ s'.kry.keys = [])) ∧
    (∀ code, (clears s code = true → ∃ s', Machine.exec (.deviceFaultClear t code) s = .next s' ∧ code ∉ s'.flt.active) ∧
      (clears s code = false → Machine.exec (.deviceFaultClear t code) s = .next (advance t s))) ∧
    (∀ line waited, (100000 < waited → Machine.exec (.squareTimeout t line true waited) s = .next (raise FaultCode.squareTimeout line (advance t s))) ∧
      (∀ l k, 2000 < waited → lineSlot s line = some l → l.awaiting.head? = some k →
        Machine.exec (.squareTimeout t line false waited) s = .next (takeResult line k (.absent 6) (raise FaultCode.squareTimeout line (advance t s))))) ∧
    (∀ i, Machine.exec (.tapInstructionLoad t i) s = .next { advance t s with
      pwr.tap := if tapDrives i && !s.pwr.resetLow then .bypass else i })) ∧
  ((∀ (t : Nat) (s : State), s.pwr.ready = true → s.bgd.takeover = false → workingCores s ≠ [] →
    ∃ s', Machine.exec (.coreTakeover t) s = .next s' ∧ s'.bgd = { s.bgd with takeover := true, takeAt := (advance t s).now } ∧
      s' = { advance t s with bgd := s'.bgd, bar := s'.bar, outbox := s'.outbox }) ∧
  (∀ (t : Nat) (i j k : Fin 3) (s : State), s.bgd.takeover = true → coresIn s .lockstep = [i, j] → spareCore s = some k → s.bgd.transient.length < 2 →
    (∃ s', Machine.exec (.takeoverComplete t true true) s = .next s' ∧ s'.bgd.takeover = false ∧ s'.bgd.cores[k] = .lockstep ∧
      s'.bgd.cores[i] = .lockstep ∧ s'.bgd.cores[j] = .spare ∧ s'.bgd.transient.length = s.bgd.transient.length + 1) ∧
    (∃ s', Machine.exec (.takeoverComplete t true false) s = .next s' ∧ s'.bgd.takeover = false ∧ s'.bgd.cores[k] = .lockstep ∧
      s'.bgd.cores[i] = .lockstep ∧ s'.bgd.cores[j] = .retired) ∧
    (∃ s', Machine.exec (.takeoverComplete t false false) s = .next s' ∧ s'.bgd.takeover = false ∧ s'.bgd.cores[k] = .single ∧
      s'.bgd.cores[i] = .retired ∧ s'.bgd.cores[j] = .retired)))

/-- Firmware activation (R414, R508, R509): a good image of the other slot begins it; intake pauses once the image is loaded; at the hand-off the new image runs and its
command is Done; commands that do not end within 2 s end it with IMAGE_BUSY; a block that cannot be read, or no reply within 5 s, returns the cluster to the old image.
IMAGE_STAGE, IMAGE_SLOT_WRITTEN and ZEROISE (R413, R431, R433): an image that passes its checks is taken in from its ring for the slot that does not run; when it has
arrived the slot holds it, or is empty where the read-back fails; the constant of ZEROISE erases every key and session, and any other value is refused. -/
def Obligations.ImagesAreHandled : Prop :=
  ((∀ (t cid : Nat) (c : Slot) (v : ImgVerdict) (slot : Fin 2) (s : State), Starts Op.imageActivate cid c s → s.bgd.act = none → coreRuns s = true →
    slot = (if parB c 0 0 then 1 else 0) → s.kry.images[slot].empty = false → (∀ x, s.kry.staging = some x → x.slot ≠ slot) →
    (imgFailure s v = none → slot.val ≠ s.bgd.fwSlot → Machine.exec (.imageActivate t cid v) s = .next { startedAt t cid s with
      bgd.act := some { cid := c.cid, slot := slot.val }, kry.images := s.kry.images.set slot { header := v.header } }) ∧
    (∀ e, imgFailure s v = some e → Machine.exec (.imageActivate t cid v) s = .next (refuse c (imgStatus e) (startedAt t cid s)))) ∧
  (∀ (t : Nat) (a : Activation) (s : State), s.bgd.act = some a → s.bgd.takeover = false →
    (a.stage = .reading →
      Machine.exec (.fwImageLoaded t true) s = .next { advance t s with
        bgd.act := some { a with stage := .loaded, t1 := (advance t s).now }, cmd.intakeOpen := false } ∧
      Machine.exec (.fwImageLoaded t false) s = .next (finish a.cid Status.imageSignature 0 []
        { advance t s with bgd.act := none, cmd.intakeOpen := true })) ∧
    (a.stage = .loaded → othersRun s a = false → boundaryCame (advance t s) a.t1 = true →
      (∃ s', Machine.exec (.fwHandoff t true true) s = .next s' ∧ s'.bgd.act = none ∧ s'.cmd.intakeOpen = true ∧ s'.bgd.fwSlot = a.slot ∧ Ended a.cid Status.done s') ∧
      (∀ r, ∃ s', Machine.exec (.fwHandoff t false r) s = .next s' ∧ s'.bgd.act = none ∧ s'.bgd.fwSlot = s.bgd.fwSlot ∧ Ended a.cid Status.faultNoEffect s') ∧
      Machine.exec (.fwHandoff t true false) s = .next { advance t s with
        bgd.act := some { a with stage := .handed, t2 := a.t1, t3 := (advance t s).now } }) ∧
    (a.stage = .loaded → othersRun s a = true → a.t1 + 2000000000 ≤ (advance t s).now →
      Machine.exec (.fwActivateBusyTimeout t) s = .next (finish a.cid Status.imageBusy 0 [] { advance t s with bgd.act := none, cmd.intakeOpen := true })) ∧
    (a.stage = .handed → a.t3 + 5000000000 ≤ (advance t s).now →
      ∃ s', Machine.exec (.fwReplyTimeout t) s = .next s' ∧ s'.bgd.act = none ∧ s'.bgd.fwSlot = s.bgd.fwSlot ∧ Ended a.cid Status.faultNoEffect s'))) ∧
  ((∀ (t cid : Nat) (c : Slot) (s : State), coreRuns s = true →
    (∀ (v : ImgVerdict) (slot : Fin 2) (r : Fin 16), Starts Op.imageStage cid c s → slot = (if parB c 0 0 then 1 else 0) → slot.val ≠ s.bgd.fwSlot →
      parN c 1 = r.val → inRing s r.val = true →
      (imgFailure s v = none → ∃ s', Machine.exec (.imageStage t cid v) s = .next s' ∧
        s'.kry.staging = some { cid := c.cid, slot := slot, ring := r.val, header := v.header } ∧ s'.bar.work[r].input = c.cid ∧
        s'.bar.work[r].inLeft = imgLength v.header ∧ s'.bar.work[r].got = [] ∧ s'.well = s.well) ∧
      (∀ e, imgFailure s v = some e → Machine.exec (.imageStage t cid v) s = .next (refuse c (imgStatus e) (startedAt t cid s)))) ∧
    (Starts Op.zeroise cid c s → s.kry.latch = none →
      (parN c 0 = 0x5A3C → ∃ s', Machine.exec (.zeroise t cid) s = .next s' ∧ s'.kry.latch = some (advance t s).now ∧ s'.kry.keys = [] ∧ s'.kry.jobKeys = [] ∧
        s'.kry.creds = [] ∧ s'.cmd.sessions = [] ∧ s'.cmd.slots = [] ∧ s'.cmd.intakeOpen = false ∧ s'.well = s.well) ∧
      (parN c 0 ≠ 0x5A3C → Machine.exec (.zeroise t cid) s = .next (refuse c Status.badParameter (startedAt t cid s))))) ∧
  (∀ (t : Nat) (x : Staging) (r : Fin 16) (s : State), s.kry.staging = some x → x.ring = r.val → s.bar.work[r].inLeft = 0 →
    (∃ s', Machine.exec (.imageSlotWritten t true) s = .next s' ∧ s'.kry.staging = none ∧ s'.kry.images = s.kry.images.set x.slot { header := x.header } ∧
      s'.fwVersion = s.fwVersion.set x.slot (imgVersion x.header) ∧ Ended x.cid Status.done s') ∧
    (∃ s', Machine.exec (.imageSlotWritten t false) s = .next s' ∧ s'.kry.staging = none ∧ s'.kry.images = s.kry.images.set x.slot { empty := true } ∧
      Ended x.cid Status.faultPartial s')))

/-- IDENTIFY, NET_CONFIG and CRIER_CONFIG (R53, R55, R514) take their effect and answer; `startedAt t cid s` is the state in which the command executes. STATUS and ABORT_TAG
(R45, R54, R56, R550): the status words are answered; a command that waits, or that executes and has a safe point ahead, is cancelled and the result is 0; one past that
point or already answered gives 1, and a tag that names nothing gives 2. -/
def Obligations.StatusCommandsAnswer : Prop :=
  (∀ (t cid : Nat) (c : Slot) (s : State),
    (Starts Op.identify cid c s → Machine.exec (.identify t cid) s = .next (answer c
      [0x00012618, 0x4200, word s.node, Config.serial, word (s.fwVersion[0] + put s.bgd.fwSlot 63), word s.fwVersion[1],
        word (s.well.bytes - 8 * 2 ^ 30)] (startedAt t cid s))) ∧
    (Starts Op.netConfig cid c s → netCfgOk c = true → domOn s 4 = true →
      Machine.exec (.netConfig t cid) s = .next (answer c [word (macInUse (parF c 0 0 0) (netCfgOf c))]
        { startedAt t cid s with
          net := upd s.net (if parB c 0 0 then 1 else 0) fun q => { q with next := some (netCfgOf c), nextCid := c.cid },
          led.broken := s.led.broken.filter fun h => !(match h with
            | .net q _ => q == (if parB c 0 0 then (1 : Fin 2) else 0) | _ => false) })) ∧
    (Starts Op.crierConfig cid c s → ringHas s (parF c 1 3 0) [.crierOut] = true → 1 ≤ parF c 2 15 0 → parF c 3 10 0 ≤ 2000 →
      Machine.exec (.crierConfig t cid) s = .next (done c { startedAt t cid s with
        cri.mask := parF c 0 4 0, cri.ring := parF c 1 3 0, cri.ringOn := parB c 1 8,
        cri.rate := parF c 2 15 0, cri.collect := parF c 3 10 0 }))) ∧
  (∀ (t cid : Nat) (c : Slot) (s : State),
    (Starts Op.status cid c s → Machine.exec (.status t cid) s = .next (answer c (statusWords (startedAt t cid s)) (startedAt t cid s))) ∧
    (Starts Op.abortTag cid c s → abortWaits s cid = false →
      (∀ x, tagged (startedAt t cid s) c (parN c 0) = some x →
        (x.phase = .waiting → Machine.exec (.abortTag t cid) s = .next (answer c [0] (refuse x Status.cancelled (startedAt t cid s)))) ∧
        (∀ u, x.phase = .executing → stopAt x (startedAt t cid s) = some u →
          Machine.exec (.abortTag t cid) s = .next (answer c [0] (refuse x Status.cancelled u))) ∧
        ((x.phase = .committed ∨ (x.phase = .executing ∧ stopAt x (startedAt t cid s) = none)) →
          Machine.exec (.abortTag t cid) s = .next (answer c [1] (startedAt t cid s)))) ∧
      (tagged (startedAt t cid s) c (parN c 0) = none → tagReplied s c (parN c 0) = false →
        Machine.exec (.abortTag t cid) s = .next (answer c [2] (startedAt t cid s)))))

/-- SESSION_OPEN, SESSION_PROVE and their ends (R39, R424 to R427): an open session has an ID that was not used before and is not proven; a right proof proves it and clears
the credential's failures, a wrong one ends it and counts; one not proven in 10 s is discarded; a lock that has run out is lifted; a role closes its own session only.
CERT_READ, JOB_KEY_LOAD, ROLE_CREDENTIAL, OWNER_TRANSFER and ATTEST (R409, R416 to R421, R434): a certificate leaves on the ring; an accepted package raises the package
number and installs its key, credential or owner, in place of the earlier one; a transfer erases what R421 names; a report needs the identity key. -/
def Obligations.TrustIsKept : Prop :=
  ((∀ (t cid : Nat) (c : Slot) (s : State), coreRuns s = true →
    (∀ pointOk ekOk, Starts Op.sessionOpen cid c s → openFailure s c pointOk ekOk = none → FaultCode.entropyFail ∉ s.flt.active →
      ∃ s' x outs, Machine.exec (.sessionOpen t cid pointOk ekOk) s = .next (answer c outs s') ∧ s'.cmd.sessions = s.cmd.sessions ++ [x] ∧
        outs.length = 150 ∧ outs.head? = some (word x.id) ∧ x.id ∉ s.cmd.usedIds ∧ s'.cmd.usedIds = x.id :: s.cmd.usedIds ∧ x.proved = false ∧
        some x.role = roleOfNat (parF c 161 2 0) ∧ x.cred = parF c 161 15 8 ∧ x.openedAt = (advance t s).now ∧ s'.kry.requests = s.kry.requests + 1) ∧
    (∀ x, Starts Op.sessionProve cid c s → s.cmd.sessions.find? (fun y => y.id == parN c 0 && !y.proved) = some x →
      (∀ k, credOf s x.role x.cred = some k → roleOfNat (parF c 1 2 0) = some x.role → parF c 1 15 8 = x.cred →
        par c 2 = (Config.cmac (credKey k) (proveText ++ x.th)).extractLsb' 0 64 → par c 3 = (Config.cmac (credKey k) (proveText ++ x.th)).extractLsb' 64 64 →
        Machine.exec (.sessionProve t cid) s = .next (done c { startedAt t cid s with
          kry.creds := mapWhere (fun k => k.role == x.role && k.slot == x.cred) (fun k => { k with fails := 0, locks := 0 }) s.kry.creds,
          cmd.sessions := mapWhere (fun y => y.id == x.id) (fun y => { y with proved := true }) s.cmd.sessions })) ∧
      ((∀ k, credOf s x.role x.cred = some k → par c 2 ≠ (Config.cmac (credKey k) (proveText ++ x.th)).extractLsb' 0 64) →
        Machine.exec (.sessionProve t cid) s = .next (refuse c Status.proofFail (failProof x.role x.cred (endSession x.id (startedAt t cid s)))))) ∧
    (Starts Op.sessionClose cid c s →
      (parF c 0 31 0 = c.session → Machine.exec (.sessionClose t cid) s = .next (done c { startedAt t cid s with
        cmd.sessions := mapWhere (fun x => x.id == c.session) (fun x => { x with closing := true }) s.cmd.sessions })) ∧
      (parF c 0 31 0 ≠ c.session → Machine.exec (.sessionClose t cid) s = .next (refuse c Status.badParameter (startedAt t cid s))))) ∧
  (∀ (t sid : Nat) (s : State),
    (∀ x, sessionOf s sid = some x →
      (x.proved = false → x.openedAt + 10000000000 ≤ (advance t s).now →
        Machine.exec (.sessionProveTimeout t sid) s = .next { advance t s with cmd.sessions := s.cmd.sessions.filter fun y => y.id != sid }) ∧
      ((x.proved = true ∨ (advance t s).now < x.openedAt + 10000000000) → Machine.exec (.sessionProveTimeout t sid) s = .next (advance t s)) ∧
      (x.group = true → x.expires ≠ 0 → (x.expires : Int) ≤ utcNow (advance t s) → s.cmd.slots.any (fun c => c.session == sid) = false →
        Machine.exec (.groupSessionExpire t sid) s = .next { advance t s with cmd.sessions := s.cmd.sessions.filter fun y => y.id != sid })) ∧
    (∀ (role slot : Nat) r, roleOfNat role = some r →
      Machine.exec (.credentialUnlock t role slot) s = .next { advance t s with
        kry.creds := mapWhere (fun k => k.role == r && k.slot == slot) (fun k => match k.lock with
          | some e => if e ≤ (advance t s).now then { k with lock := none } else k
          | none => k) s.kry.creds }))) ∧
  (∀ (t cid : Nat) (c : Slot) (v : PkgVerdict) (p : Package) (s : State), coreRuns s = true →
    (Starts Op.certRead cid c s → parN c 0 ≤ 5 → outRing s (parN c 1) = true →
      Machine.exec (.certRead t cid) s = .next (outputOn c (parN c 1)
        [wordBytes (word (parN c 0 + put (certObject s (parN c 0)).length 32)) ++ padEight (certObject s (parN c 0))] (startedAt t cid s))) ∧
    (Starts Op.jobKeyLoad cid c s → rangeFailure s (parN c 0) (parN c 1) = none → poisoned s (parN c 0) (parN c 1) = false →
      parsePackage (wellRead s (parN c 0) (parN c 1)) v = some p →
      (packageFailure (startedAt t cid s) c p v = none →
        ((p.kind = 2 ∨ p.kind = 3) → Machine.exec (.jobKeyLoad t cid v) s = .next (answer c [word p.ref] { startedAt t cid s with
          kry.pkgNo := p.no, kry.keys := s.kry.keys.filter (fun x => x.id != p.ref) ++ [{ id := p.ref, kind := p.kind, key := v.key }] })) ∧
        (p.kind = 1 → ∃ s' h, Machine.exec (.jobKeyLoad t cid v) s = .next (answer c [word h] s') ∧ s'.kry.pkgNo = p.no ∧
          s'.kry.jobKeys = s.kry.jobKeys.filter (fun x => x.job != p.ref) ++ [{ job := p.ref, handle := h, key := v.key, notAfter := p.notAfter }]) ∧
        (p.kind = 4 → s.cmd.sessions.any (fun x => x.id == p.ref) = false →
          ∃ s' x, Machine.exec (.jobKeyLoad t cid v) s = .next (answer c [word p.ref] s') ∧ s'.kry.pkgNo = p.no ∧ s'.cmd.sessions = s.cmd.sessions ++ [x] ∧
            x.id = p.ref ∧ x.group = true ∧ x.proved = true ∧ x.expires = p.notAfter)) ∧
      (∀ st, packageFailure (startedAt t cid s) c p v = some st →
        Machine.exec (.jobKeyLoad t cid v) s = .next (refuse c st (startedAt t cid s)))) ∧
    (∀ r, Starts Op.roleCredential cid c s → roleOfNat (parN c 0) = some r → r ≠ .anonymous → r ≠ .owner →
      (parN c 2 = 0 → parN c 1 < 8 → ∃ s', Machine.exec (.roleCredential t cid v) s = .next s' ∧ Ended cid Status.done s' ∧
        s'.kry.creds = s.kry.creds.filter (fun k => !(k.role == r && k.slot == parN c 1))) ∧
      (parN c 2 ≠ 0 → rangeFailure s (parN c 1) (parN c 2) = none → poisoned s (parN c 1) (parN c 2) = false →
        parsePackage (wellRead s (parN c 1) (parN c 2)) v = some p → packageFailure (startedAt t cid s) c p v = none →
        (if p.kind = 9 then some Role.vendor else roleOfNat p.role) = some r →
        Machine.exec (.roleCredential t cid v) s = .next (done c { startedAt t cid s with
          kry.pkgNo := p.no, kry.creds := s.kry.creds.filter (fun x => !(x.role == r && x.slot == p.slot)) ++ [{ role := r, slot := p.slot, key := some v.key }] }))) ∧
    (Starts Op.ownerTransfer cid c s →
      (transferBusy s = true → Machine.exec (.ownerTransfer t cid v) s = .next (refuse c Status.transferBusy (startedAt t cid s))) ∧
      (transferBusy s = false → rangeFailure s (parN c 0) (parN c 1) = none → poisoned s (parN c 0) (parN c 1) = false →
        parsePackage (wellRead s (parN c 0) (parN c 1)) v = some p → packageFailure (startedAt t cid s) c p v = none → p.ref = s.kry.transfer + 1 →
        ∃ s', Machine.exec (.ownerTransfer t cid v) s = .next s' ∧ Ended cid Status.done s' ∧ s'.kry.transfer = p.ref ∧ s'.kry.policy = leAt p.body 0 8 ∧
          s'.kry.keys = [] ∧ s'.kry.jobKeys = [] ∧ s'.tal.pools = [] ∧ s'.tal.journal = [] ∧ s'.kry.pkgNo = p.no ∧
          { role := .owner, slot := 0, key := some v.key } ∈ s'.kry.creds)) ∧
    (Starts Op.attest cid c s → outRing s (parN c 4) = true →
      (s.kry.identity = false → Machine.exec (.attest t cid) s = .next (failWith c Status.faultNoEffect FaultCode.keyCorrupt (startedAt t cid s))) ∧
      (∀ b, s.kry.identity = true → b = attestBody c (startedAt t cid s) →
        Machine.exec (.attest t cid) s = .next (outputOn c (parN c 4)
          [padEight (b ++ padTo 96 (Config.sign 0 b) ++ padTo 3309 (Config.sign 1 b))] (startedAt t cid s)))))

/-- The lock of R426: the eighth failed proof in a row for a credential locks it for 60 s, each further lock for twice as long, up to 3,600 s; one failure less only counts. -/
def Obligations.FailedProofsLock : Prop :=
  ∀ (r : Role) (slot : Nat) (k : Cred) (s : State), credOf s r slot = some k →
    (k.fails + 1 < 8 → ∃ k', credOf (failProof r slot s) r slot = some k' ∧ k'.fails = k.fails + 1 ∧ k'.lock = k.lock ∧ k'.locks = k.locks) ∧
    (8 ≤ k.fails + 1 → ∃ k', credOf (failProof r slot s) r slot = some k' ∧ k'.fails = 0 ∧ k'.locks = k.locks + 1 ∧
      (k.locks = 0 → k'.lock = some (s.now + 60000000000)) ∧ (∀ e, k'.lock = some e → e ≤ s.now + 3600000000000)) ∧
    (∀ r' slot', (r' ≠ r ∨ slot' ≠ slot) → credOf (failProof r slot s) r' slot' = credOf s r' slot')

/-- The port's own traffic (R55): an ARP request, a Neighbor Solicitation or an echo request for one of a port's own addresses is answered; the default router and the link
addresses learned are kept; a port that hunts its rate tries the other one after 2 ms. GRANARY_REPORT, TELEMETRY_READ and the Crier's records (R510, R513 to R515, R517):
the report goes to its ring or Well address; a telemetry block goes to its ring; the oldest event leaves on the Crier's ring and to the collecting node, and the count of
lost events begins anew. -/
def Obligations.PortsAndReports : Prop :=
  (∀ (t : Nat) (p : Fin 2) (s : State), portOn s p = true →
    (∀ target sender, target ∈ ownAddresses p.val s.net[p].cfg →
      (s.net[p].cfg.ipv6 = false → Machine.exec (.arpRequestReceive t p target sender) s = .next { advance t s with
        outbox := .eth p.val 4 sender (leBytes 16 target ++ leBytes 6 (macInUse p.val s.net[p].cfg)) :: s.outbox }) ∧
      (s.net[p].cfg.ipv6 = true → Machine.exec (.neighborSolicitReceive t p target sender) s = .next { advance t s with
        outbox := .eth p.val 5 sender (leBytes 16 target ++ leBytes 6 (macInUse p.val s.net[p].cfg)) :: s.outbox }) ∧
      (∀ payload, Machine.exec (.icmpEchoReceive t p target sender payload) s = .next { advance t s with outbox := .eth p.val 6 sender payload :: s.outbox })) ∧
    (∀ target sender, target ∉ ownAddresses p.val s.net[p].cfg →
      Machine.exec (.arpRequestReceive t p target sender) s = .next (advance t s) ∧
      Machine.exec (.neighborSolicitReceive t p target sender) s = .next (advance t s) ∧
      (∀ payload, Machine.exec (.icmpEchoReceive t p target sender payload) s = .next (advance t s))) ∧
    (∀ router, s.net[p].cfg.ipv6 = true →
      Machine.exec (.routerAdvertReceive t p router) s = .next { advance t s with net := upd s.net p fun q => { q with router := router } }) ∧
    (∀ ip link, Machine.exec (.arpReplyReceive t p ip link) s = .next { advance t s with
      net := upd s.net p fun q => { q with neigh := q.neigh.filter (fun e => e.1 != ip) ++ [(ip, link)] } }) ∧
    (s.net[p].cfg.speed = 0 → (laneOf s (32 + p.val)).state = .hunt → (laneOf s (32 + p.val)).huntAt + 2000000 ≤ (advance t s).now →
      Machine.exec (.netRateHuntSwitch t p) s = .next (modLane (32 + p.val) (fun l => { l with fast := 3 - s.net[p].rate == 2, huntAt := (advance t s).now })
        { advance t s with net := upd s.net p fun q => { q with rate := 3 - s.net[p].rate } }))) ∧
  ((∀ (t cid : Nat) (c : Slot) (s : State),
    (∀ bytes, Starts Op.granaryReport cid c s → bytes = wordsBytes (granaryReport (startedAt t cid s)) →
      (parN c 0 < 16 → outRing s (parN c 0) = true → Machine.exec (.granaryReport t cid) s = .next (queueUnits (parN c 0)
        [{ data := bytes, cid := c.cid, final := true, results := [word bytes.length] }] (startedAt t cid s))) ∧
      (0x10000 ≤ parN c 0 → parN c 0 % 8 = 0 → rangeFailure s (parN c 0) bytes.length = none →
        Machine.exec (.granaryReport t cid) s = .next (answer c [word bytes.length] (wellWrite (parN c 0) bytes (startedAt t cid s))))) ∧
    (∀ ws u, Starts Op.telemetryRead cid c s → u = { startedAt t cid s with fresh := s.fresh + 1 } → telemetryBlock u (parN c 0) s.fresh = some ws →
      outRing s (parN c 1) = true →
      (ws ≠ [] → Machine.exec (.telemetryRead t cid) s = .next (outputOn c (parN c 1) [wordsBytes ws] u)) ∧
      (ws = [] → Machine.exec (.telemetryRead t cid) s = .next (done c u)))) ∧
  (∀ (t : Nat) (e : Event) (s : State), oldestEvent s.cri.queue = some e → domOn s 2 = true →
    (∀ r, crierRing s = some r → (s.cri.collect = 0 ∨ s.cri.collect = ownNode s) →
      Machine.exec (.crierEventSend t) s = .next (queueUnits r [{ data := wordsBytes (crierRecord s e) }]
        { advance t s with cri.queue := s.cri.queue.erase e, cri.lost := 0 })) ∧
    (s.cri.ringOn = false → s.cri.collect ≠ 0 → s.cri.collect ≠ ownNode s → domOn s 10 = true →
      Machine.exec (.crierEventSend t) s = .next (uraraSend s.cri.collect 0x5C (crierRecord s e)
        { advance t s with cri.queue := s.cri.queue.erase e, cri.lost := 0 }))) ∧
  (∀ (t : Nat) (s : State), domOn s 2 = true → s.cri.sampleAt + 1000000000 ≤ (advance t s).now →
    Machine.exec (.crierSample t) s = .next { advance t s with cri.sampleAt := (advance t s).now }))

/-- SCRUB_CONFIG and BACKGROUND_LATE (R468, R498, R499): periods and shares in range are set; a pass that is not complete when its next period begins is reported and counted
once for it. The scrubs (R482, R484, R486, R503, R504): the Ledger scrub goes on to the sector after the one read and ends its pass at the last; an uncorrectable word of
a calibration item makes the item invalid; the SRAM scrub goes on to the next row, and an uncorrectable row is moved to a spare row while its array has one. The
self-tests and the random numbers (R212, R435, R436, R439, R501, R502, R505): a tested slice carries the moment, and is retired when it fails; a failing spare core is
retired; a failing test of the Krynto core is KRYNTO_SELFTEST and ends the approved mode; an instance is re-calibrated once in a pass; a reseed that fails is
ENTROPY_FAIL, which a pass clears. -/
def Obligations.BackgroundTasksRun : Prop :=
  ((∀ (t cid : Nat) (c : Slot) (s : State), Starts Op.scrubConfig cid c s → 1 ≤ parF c 0 15 0 → parF c 0 15 0 ≤ 168 → 10 ≤ parF c 1 10 0 → parF c 1 10 0 ≤ 1440 →
    1 ≤ parF c 1 18 16 → parF c 1 18 16 ≤ 7 → 1 ≤ parF c 1 40 32 → parF c 1 40 32 ≤ 365 → 10 ≤ parF c 1 58 48 → parF c 1 58 48 ≤ 1440 →
    1 ≤ parF c 2 5 0 → parF c 2 5 0 ≤ 50 →
    Machine.exec (.scrubConfig t cid) s = .next (done c { startedAt t cid s with bgd.cfg := {
      wellPeriod := parF c 0 15 0, srIdle := parF c 0 47 32, sramPeriod := parF c 1 10 0, ledgerPeriod := parF c 1 18 16, recalPeriod := parF c 1 40 32,
      testPeriod := parF c 1 58 48, bgShare := parF c 2 5 0, recalEnable := parB c 2 16 } })) ∧
  (∀ (t : Nat) (i : Fin 7) (s : State), s.bgd.tasks[i].running = true → schedulerRuns s = true → taskShed (advance t s) i = false →
    (s.bgd.tasks[i].started + (s.bgd.tasks[i].lates + 1) * s.bgd.tasks[i].period + s.bgd.tasks[i].paused ≤ (advance t s).now →
      ∃ s', Machine.exec (.backgroundLate t i) s = .next s' ∧ s'.bgd.tasks[i].lates = s.bgd.tasks[i].lates + 1 ∧
        s'.bgd.tasks[i].late = min 0xFFFF (s.bgd.tasks[i].late + 1) ∧ s'.bgd.tasks[i].running = true ∧
        s' = { advance t s with bgd := s'.bgd, cri := s'.cri, bar := s'.bar, outbox := s'.outbox }) ∧
    ((advance t s).now < s.bgd.tasks[i].started + (s.bgd.tasks[i].lates + 1) * s.bgd.tasks[i].period + s.bgd.tasks[i].paused →
      Machine.exec (.backgroundLate t i) s = .next (advance t s)))) ∧
  (∀ (t : Nat) (s : State),
    (∀ sector corrected bad, taskRuns (advance t s) 1 = true → s.led.scrubPos ≤ sector → sector < 4096 →
      ∃ s', Machine.exec (.ledgerScrub t sector corrected bad) s = .next s' ∧
        (sector < 4095 → s'.led.scrubPos = sector + 1 ∧ s'.led.pass = s.led.pass ∧ s'.bgd.tasks[1].running = true) ∧
        (sector = 4095 → s'.led.scrubPos = 0 ∧ s'.led.pass = s.led.pass + 1 ∧ s'.bgd.tasks[1].running = false) ∧
        (∀ item, bad = some (.cal item) → ∀ x ∈ s'.led.items, x.item = item → x.valid = false) ∧ s'.well = s.well) ∧
    (∀ array row corrected bad, taskRuns (advance t s) 2 = true → s.bgd.sramPos ≤ 512 * array + row → array < 3072 → row < 512 →
      domOn s ⟨Config.sramDomain array % 12, Nat.mod_lt _ (by decide)⟩ = true →
      ∃ s', Machine.exec (.sramScrub t array row corrected bad) s = .next s' ∧
        (512 * array + row < 3072 * 512 - 1 → s'.bgd.sramPos = 512 * array + row + 1 ∧ s'.bgd.sramPass = s.bgd.sramPass) ∧
        (512 * array + row = 3072 * 512 - 1 → s'.bgd.sramPos = 0 ∧ s'.bgd.sramPass = s.bgd.sramPass + 1) ∧
        (bad = true → (sramOf s array).remaps.length < 2 → row ∈ (sramOf s' array).remaps) ∧ s'.well = s.well)) ∧
  (∀ (t : Nat) (s : State),
    (∀ (k : Fin 32) (pass : Bool), lostUntested s k = false → taskRuns (advance t s) 3 = true → k ∈ untested s →
      ∃ s', Machine.exec (.sliceSelftest t k pass) s = .next s' ∧ s'.mil.slices[k].tested = (advance t s).now ∧
        (pass = false → s'.mil.slices[k].retired = true) ∧ (pass = true → s'.mil.slices[k].retired = s.mil.slices[k].retired) ∧ s'.well = s.well) ∧
    (∀ k pass, spareCore s = some k → taskRuns (advance t s) 4 = true →
      ∃ s', Machine.exec (.spareCoreSelftest t pass) s = .next s' ∧ s'.bgd.cores = (if pass then s.bgd.cores else s.bgd.cores.set k .retired) ∧
        s'.bgd.tasks[4].running = false ∧ s'.prod = s.prod ∧ s'.well = s.well) ∧
    (∀ pass, taskRuns (advance t s) 6 = true → coreRuns s = true →
      ∃ s', Machine.exec (.kryntoKat t pass) s = .next s' ∧ s'.kry.katAt = (advance t s).now ∧
        (pass = true → s'.kry.tested = s.kry.tested ∧ s'.flt = s.flt) ∧
        (pass = false → s'.kry.tested = false ∧ s'.kry.approved = false ∧ FaultCode.kryntoSelftest ∈ s'.flt.active)) ∧
    (∀ item inst m, (∀ x ∈ s.bgd.calAt, ¬ (x.2 + 4 * s.bgd.cfg.recalPeriod * 86400 < devSec (advance t s) ∧ x.1 ∉ s.bgd.aged)) →
      taskRuns (advance t s) 5 = true → taskAble s 5 = true → (item, inst) ∈ silicon → recalWaits s (item, inst) = true → calBusy s item = false →
      (item, inst) ∉ s.bgd.recalDone → ∃ s', Machine.exec (.siliconRecal t item inst m) s = .next s' ∧
        (s'.bgd.recalDone = s.bgd.recalDone ++ [(item, inst)] ∨ (s'.bgd.recalDone = [] ∧ s'.bgd.tasks[5].running = false)) ∧ s'.well = s.well) ∧
    (coreRuns s = true → (s.kry.reseedAt + 1000000000 ≤ (advance t s).now ∨ 2 ^ 20 ≤ s.kry.requests) →
      (∃ s', Machine.exec (.drbgReseed t true) s = .next s' ∧ s'.kry.reseedAt = (advance t s).now ∧ s'.kry.requests = 0 ∧ FaultCode.entropyFail ∉ s'.flt.active) ∧
      (∃ s', Machine.exec (.drbgReseed t false) s = .next s' ∧ s'.kry.reseedAt = (advance t s).now ∧ FaultCode.entropyFail ∈ s'.flt.active)) ∧
    (domOn s 1 = true → ∃ s', Machine.exec (.entropyHealthFail t) s = .next s' ∧ FaultCode.entropyFail ∈ s'.flt.active ∧ s'.kry = s.kry))

/-- Refresh, temperature, drift, ZQ and self-refresh of the Well (R465 to R467, R469): a refresh is postponed at most four times; hot or doubling devices double it at once
and two normal readings end that; a lane's delay moves by one step at most; a channel in self-refresh wakes for a request. Repair and patrol of the Well (R471 to R473,
R497, R511): a candidate is spared softly, or stays for want of resources; with no job active for 10 s the oldest soft repair is made hard; the patrol goes on by its
batch and counts a pass at the end. -/
def Obligations.WellIsTended : Prop :=
  (∀ (t : Nat) (ch rank : Fin 2) (s : State),
    (rankServes s ch rank = true →
      (∀ wait, Machine.exec (.wellRefreshDue t ch rank wait) s = .next { advance t s with well.chans := upd s.well.chans ch fun c =>
        { c with postponed := c.postponed.set rank (if decide (1000 < wait) && decide (c.postponed[rank] < 4) then c.postponed[rank] + 1 else 0) } }) ∧
      (∀ dbl hot, ∃ s', Machine.exec (.dramMr4Poll t ch rank dbl hot) s = .next s' ∧ s'.well.chans[ch].hot[rank] = hot ∧
        ((dbl = true ∨ hot = true) → s'.well.chans[ch].doubled[rank] = true) ∧
        (dbl = false → hot = false → 1 ≤ s.well.chans[ch].normal[rank] → s'.well.chans[ch].doubled[rank] = false) ∧
        s'.thm.dramHot = anyDramHot s' ∧ s'.well.mem = s.well.mem) ∧
      (∀ moves, ∃ s', Machine.exec (.wellDriftTrack t ch rank moves) s = .next s' ∧ s'.well.chans[ch].trackDue = false ∧
        (∀ l, l < 80 → (s'.well.chans[ch].moves[rank].getD l 0) = s.well.chans[ch].moves[rank].getD l 0 + driftStep (moves.getD l 0)) ∧ s'.well.mem = s.well.mem)) ∧
    (s.well.chans[ch].state = 1 → s.well.chans[ch].zqAt + 128000000 ≤ (advance t s).now →
      Machine.exec (.wellZqCal t ch) s = .next { advance t s with well.chans := upd s.well.chans ch fun c => { c with zqAt := (advance t s).now } }) ∧
    (s.well.chans[ch].state = 1 → s.bgd.cfg.srIdle ≠ 0 → (∀ r ∈ s.well.due, r.ch ≠ ch) → (∀ r, s.well.hardNow = some r → r.ch ≠ ch) →
      Machine.exec (.selfRefreshEntry t ch) s = .next { advance t s with well.chans := upd s.well.chans ch fun c =>
        { c with state := 2, postponed := Vector.replicate 2 0, srEntries := min 0xFFFFFFFF (c.srEntries + 1) } }) ∧
    (s.well.chans[ch].state = 2 →
      Machine.exec (.selfRefreshExit t ch) s = .next { advance t s with well.chans := upd s.well.chans ch fun c => { c with state := 1, trackDue := true } })) ∧
  (∀ (t : Nat) (s : State),
    (∀ row, row ∈ s.well.due → chanServes s row.ch = true →
      (∃ s', Machine.exec (.wellRepairWindow t row true) s = .next s' ∧ s'.well = { s.well with
        due := s.well.due.filter (fun x => x != row), soft := s.well.soft ++ [row], rowErrs := s.well.rowErrs.filter fun e => e.row != row }) ∧
      (∃ s', Machine.exec (.wellRepairWindow t row false) s = .next s' ∧ s'.well = { s.well with
        due := s.well.due.filter (fun x => x != row), out := s.well.out ++ [row] })) ∧
    (∀ r rest, s.well.soft = r :: rest → s.job.active = none → s.job.activating = none → s.job.idleFrom + 10000000000 ≤ (advance t s).now → s.well.hardNow = none →
      chanServes s r.ch = true → Machine.exec (.wellHardRepair t) s = .next { advance t s with well.hardNow := some r }) ∧
    (∀ r, s.well.hardNow = some r → ∃ s', Machine.exec (.wellHardRepairDone t) s = .next s' ∧ s'.well = { s.well with
      hardNow := none, soft := s.well.soft.erase r, hard := s.well.hard ++ [r] }) ∧
    (taskRuns (advance t s) 0 = true → taskAble s 0 = true → (∀ r ∈ s.led.runs, r.item ≠ 0x160) → ∀ bad,
      ∃ s', Machine.exec (.wellPatrolScrub t bad) s = .next s' ∧
        (s.well.scrubPos + 2 ^ 18 < s.well.bytes → s'.well.scrubPos = s.well.scrubPos + 2 ^ 18 ∧ s'.well.passes = s.well.passes) ∧
        (s.well.bytes ≤ s.well.scrubPos + 2 ^ 18 → s'.well.scrubPos = 0 ∧ s'.well.passes = s.well.passes + 1) ∧ s'.well.mem = s.well.mem))

/-- TIME_READ and PTP_CONFIG (R354, R366): the device time at which the command started, and the state of the clock; settings in range take effect, a domain whose own fields
change starts again in LISTEN, and settings out of range are refused with BAD_PARAMETER. TIME_SELECT and TIME_SET (R349, R367, R368): a LOCKED domain within `agree`, or
any LOCKED one with `force`, becomes the preferred one; a set clock follows it at once with `force`. TIME_SET sets a clock that was never set and has no job, forward
only, and leaves it in HOLDOVER; with `at_pps` it waits for the edge. Each refusal of its table. -/
def Obligations.TimeCommandsAnswer : Prop :=
  (∀ (t cid : Nat) (c : Slot) (s : State),
    (Starts Op.timeRead cid c s → Machine.exec (.timeRead t cid) s = .next (answer c
      [word (stampSec (devTime (advance t s))), word (stampSub (devTime (advance t s))), word (timeWord (advance t s))] (startedAt t cid s))) ∧
    (Starts Op.ptpConfig cid c s →
      (ptpCfgOk c = false → Machine.exec (.ptpConfig t cid) s = .next (refuse c Status.badParameter (startedAt t cid s))) ∧
      (ptpCfgOk c = true → ∃ s', Machine.exec (.ptpConfig t cid) s = .next s' ∧ Ended cid Status.done s' ∧ s'.time.cfg = ptpCfgOf c ∧
        (∀ d : Fin 2, s'.time.doms[d].enable = parB c d.val 0 ∧ s'.time.doms[d].port = parF c d.val 1 1 ∧ s'.time.doms[d].transport = parF c d.val 3 2 ∧
          s'.time.doms[d].domNumber = parF c d.val 15 8 ∧
          ((s.time.doms[d].enable ≠ parB c d.val 0 ∨ s.time.doms[d].port ≠ parF c d.val 1 1 ∨ s.time.doms[d].transport ≠ parF c d.val 3 2 ∨
              s.time.doms[d].domNumber ≠ parF c d.val 15 8) →
            s'.time.doms[d].state = if domRuns s' d then .listen else .off)) ∧
        s'.time.clk.acc = (advance t s).time.clk.acc ∧ s'.well = s.well))) ∧
  (∀ (t cid : Nat) (c : Slot) (s : State),
    (∀ d : Fin 2, Starts Op.timeSelect cid c s → d = (if parB c 0 0 then 1 else 0) →
      ((domAt s d).state ≠ .locked → Machine.exec (.timeSelect t cid) s = .next (refuse c Status.timeNotLocked (startedAt t cid s))) ∧
      ((domAt s d).state = .locked → parB c 0 8 = false → 1000 * s.time.cfg.agree < nsOf (domAt s d).offset →
        Machine.exec (.timeSelect t cid) s = .next (refuse c Status.timeNoAgree (startedAt t cid s))) ∧
      ((domAt s d).state = .locked → parB c 0 8 = false → nsOf (domAt s d).offset ≤ 1000 * s.time.cfg.agree →
        Machine.exec (.timeSelect t cid) s = .next (done c (modClk (fun k => { k with preferred := d }) (startedAt t cid s)))) ∧
      ((domAt s d).state = .locked → parB c 0 8 = true → ∃ s', Machine.exec (.timeSelect t cid) s = .next s' ∧ Ended cid Status.done s' ∧
        s'.time.clk.preferred = d ∧ (s.time.clk.state ≠ .free → s.time.clk.state ≠ .kept → s'.time.clk.followed = some d) ∧ s'.well = s.well)) ∧
    (∀ ns frac acc, Starts Op.timeSet cid c s → ns = parF c 1 45 16 → frac = parF c 1 15 0 → acc = (parN c 0 * 1000000000 + ns) * 2 ^ 48 + frac * 2 ^ 32 →
      (1000000000 ≤ ns ∨ (parB c 1 48 = true ∧ (ns ≠ 0 ∨ frac ≠ 0)) → Machine.exec (.timeSet t cid) s = .next (refuse c Status.badParameter (startedAt t cid s))) ∧
      (ns < 1000000000 → (parB c 1 48 = true → ns = 0 ∧ frac = 0) →
        (s.time.clk.stepped = true ∨ s.time.clk.stepOver = true ∨ (s.time.clk.state ≠ .free ∧ s.time.clk.state ≠ .kept) →
          Machine.exec (.timeSet t cid) s = .next (refuse c Status.timeAlreadySet (startedAt t cid s))) ∧
        (s.time.clk.stepped = false → s.time.clk.stepOver = false → (s.time.clk.state = .free ∨ s.time.clk.state = .kept) →
          (jobActive s = true → Machine.exec (.timeSet t cid) s = .next (refuse c Status.timeJobActive (startedAt t cid s))) ∧
          (jobActive s = false → parB c 1 48 = true → lockedPps s false = none →
            Machine.exec (.timeSet t cid) s = .next (refuse c Status.ppsNotLocked (startedAt t cid s))) ∧
          (∀ n, jobActive s = false → parB c 1 48 = true → lockedPps s false = some n →
            Machine.exec (.timeSet t cid) s = .next (modClk (fun k => { k with setAtPps := some (cid, parN c 0) }) (startedAt t cid s))) ∧
          (jobActive s = false → parB c 1 48 = false → acc < (advance t s).time.clk.acc →
            Machine.exec (.timeSet t cid) s = .next (refuse c Status.timeBackward (startedAt t cid s))) ∧
          (jobActive s = false → parB c 1 48 = false → (advance t s).time.clk.acc ≤ acc →
            ∃ s', Machine.exec (.timeSet t cid) s = .next s' ∧ Ended cid Status.done s' ∧ s'.time.clk.acc = acc ∧ s'.time.clk.state = .holdover ∧
              s'.time.clk.stepped = true ∧ s'.time.clk.errBase = s.time.cfg.lockThr ∧ s'.time.clk.errAll = false ∧ s'.well = s.well)))))

/-- The samples of a domain (R352, R353, R355, R356): a two-step Sync and its Follow_Up do what a one-step Sync with the sum of the corrections does; without a path delay the
Sync only keeps the domain alive; a sample is the master's time at the ingress less the ingress stamp: a jump of it against the model makes the domain FAULTY and is not
applied, a frozen domain's is not applied either, another is its new offset; the sixteenth good one in a row locks a domain in ACQUIRE. The other messages and the timers
of a domain (R351, R353, R355, R356, R359): a better master's Announce leaves LISTEN, the followed master's UTC offset is taken; a Delay_Req is stamped; a Delay_Resp
gives a path delay, and a step of it freezes the domain; a domain without samples returns to LISTEN and the other is followed; `guard` thaws it, 60 s of agreement mend
it, and the preferred domain is followed again. -/
def Obligations.TimeFollowsDomains : Prop :=
  (∀ (t : Nat) (d : Fin 2) (seq : Nat) (origin corr ingress : Int) (s : State), domUp s d = true → (domAt s d).state ≠ .listen →
    (∀ guess later, s.now ≤ t → ∃ s1 s2, Machine.exec (.ptpSyncReceive t d seq true guess corr ingress) s = .next s1 ∧
      Machine.exec (.ptpFollowUpReceive t d seq origin later) s1 = .next s2 ∧
      Machine.exec (.ptpSyncReceive t d seq false origin (corr + later) ingress) s = .next s2) ∧
    ((domAt s d).delays = [] → Machine.exec (.ptpSyncReceive t d seq false origin corr ingress) s = .next (modDom d (fun x => { x with
      t1 := origin, t2 := ingress - ingressOf s d, syncCorr := corr, haveSync := true, syncSeq := none, lastSample := (advance t s).now }) (advance t s))) ∧
    (∀ mpd rest off dev, (domAt s d).delays = mpd :: rest → (domAt s d).state ≠ .off → off = origin + corr + mpd + (domAt s d).asym - (ingress - ingressOf s d) →
      dev = nsOf (off - (domAt s d).model) →
      ((domAt s d).haveModel = true → (domAt s d).state ≠ .faulty → 1000 * s.time.cfg.jumpLimit < dev →
        ∃ s', Machine.exec (.ptpSyncReceive t d seq false origin corr ingress) s = .next s' ∧ (domAt s' d).state = .faulty ∧
          (domAt s' d).offset = (domAt s d).offset ∧ (domAt s' d).haveModel = false ∧ (domAt s' (otherDom d)).offset = (domAt s (otherDom d)).offset) ∧
      ((domAt s d).state = .frozen → ((domAt s d).haveModel = true → dev ≤ 1000 * s.time.cfg.jumpLimit) →
        ∃ s', Machine.exec (.ptpSyncReceive t d seq false origin corr ingress) s = .next s' ∧ (domAt s' d).state = .frozen ∧
          (domAt s' d).offset = (domAt s d).offset ∧ (domAt s' d).lastSample = (advance t s).now) ∧
      ((domAt s d).state ≠ .frozen → s.time.clk.state ≠ .free → s.time.clk.state ≠ .kept →
        ((domAt s d).haveModel = true → (domAt s d).state ≠ .faulty → dev ≤ 1000 * s.time.cfg.jumpLimit) →
        ∃ s', Machine.exec (.ptpSyncReceive t d seq false origin corr ingress) s = .next s' ∧ (domAt s' d).offset = off ∧ (domAt s' d).haveModel = true ∧
          (domAt s' d).good = (if dev ≤ s.time.cfg.lockThr ∧ (domAt s d).haveModel = true then (domAt s d).good + 1 else 0) ∧
          ((domAt s d).state = .acquire → (domAt s' d).state = if 16 ≤ (domAt s' d).good then .locked else .acquire) ∧
          (domAt s' (otherDom d)).offset = (domAt s (otherDom d)).offset ∧ s'.time.clk.acc = (advance t s).time.clk.acc ∧ s'.well = s.well))) ∧
  (∀ (t : Nat) (d : Fin 2) (s : State),
    (domUp s d = true →
      (∀ a, (domAt s d).state = .listen → a.better = true → s.time.clk.followed ≠ some d →
        Machine.exec (.ptpAnnounceReceive t d a) s = .next (modDom d (fun x => { x with
          state := .acquire, good := 0, haveModel := false, delays := [], lastSample := (advance t s).now }) (advance t s))) ∧
      (∀ a, (domAt s d).state ≠ .listen → s.time.clk.followed = some d → a.leap61 = false → a.leap59 = false →
        Machine.exec (.ptpAnnounceReceive t d a) s = .next (if a.utcValid && s.time.cfg.utcAnnounce
          then { advance t s with time.utc.offset := a.utcOffset, time.utc.heard := true } else advance t s)) ∧
      (∀ a, (domAt s d).state ≠ .listen → s.time.clk.followed = some d → a.leap61 = true → s.time.utc.leap61 = false → s.time.utc.leap59 = false →
        ∃ s', Machine.exec (.ptpAnnounceReceive t d a) s = .next s' ∧ s'.time.utc.leap61 = true ∧ s'.time.utc.leap59 = false ∧
          ((s'.time.utc.leapAt : Int) - s'.time.utc.offset) % 86400 = 0 ∧ devSec (advance t s) < s'.time.utc.leapAt ∧
          s'.time.utc.leapAt ≤ devSec (advance t s) + 86400) ∧
      (∀ seq egress, (domAt s d).state ≠ .listen → Machine.exec (.ptpDelayReqSend t d seq egress) s = .next (modDom d (fun x => { x with
          reqSeq := some seq, reqOut := egress + egressOf s d }) { advance t s with outbox := .eth (domAt s d).port 1 (domAt s d).domNumber [] :: s.outbox })) ∧
      (∀ seq rx corr mpd ds, (domAt s d).reqSeq = some seq → (domAt s d).haveSync = true →
        mpd = (((domAt s d).t2 - (domAt s d).t1 - (domAt s d).syncCorr) + (rx - (domAt s d).reqOut - corr)) / 2 → ds = (mpd :: (domAt s d).delays).take 72 →
        (delayStepped ds s.time.cfg.delayStep = false → Machine.exec (.ptpDelayRespReceive t d seq rx corr) s =
          .next (modDom d (fun x => { x with reqSeq := none, delays := ds }) (advance t s))) ∧
        (delayStepped ds s.time.cfg.delayStep = true → ((domAt s d).state = .acquire ∨ (domAt s d).state = .locked) →
          ∃ s', Machine.exec (.ptpDelayRespReceive t d seq rx corr) s = .next s' ∧ (domAt s' d).state = .frozen ∧ (domAt s' d).frozenAt = (advance t s).now ∧
            (domAt s' d).delays = ds ∧ (domAt s' (otherDom d)) = domAt s (otherDom d)))) ∧
    ((domAt s d).state ≠ .off → (domAt s d).state ≠ .listen → (domAt s d).lastSample + 1000000000 ≤ (advance t s).now →
      ∃ s', Machine.exec (.ptpDomainTimeout t d) s = .next s' ∧ (domAt s' d).state = .listen ∧ (domAt s' d).delays = [] ∧
        (s.time.clk.followed = some d → (domAt s (otherDom d)).state = .locked → nsOf (domAt s (otherDom d)).offset ≤ 1000 * s.time.cfg.agree →
          s'.time.clk.followed = some (otherDom d)) ∧
        (s.time.clk.followed = some d → (domAt s (otherDom d)).state ≠ .locked → s'.time.clk.followed = none ∧ s'.time.clk.state = .holdover) ∧
        s'.time.clk.acc = (advance t s).time.clk.acc) ∧
    ((domAt s d).state = .frozen → (domAt s d).frozenAt + 1000000000 * s.time.cfg.guard ≤ (advance t s).now →
      Machine.exec (.frozenGuardExpiry t d) s = .next (modDom d (fun x => { x with state := .acquire, good := 0, haveModel := false }) (advance t s))) ∧
    (∀ a, (domAt s d).state = .faulty → (domAt s d).agreeFrom = some a → a + 60000000000 ≤ (advance t s).now →
      Machine.exec (.faultyDomainRecover t d) s = .next (modDom d (fun x => { x with state := .locked, lockedFrom := some (advance t s).now }) (advance t s))) ∧
    (∀ a l, s.time.clk.preferred = d → s.time.clk.followed = some (otherDom d) → (domAt s d).state = .locked → (domAt s d).agreeFrom = some a →
      (domAt s d).lockedFrom = some l → a + 60000000000 ≤ (advance t s).now → l + 60000000000 ≤ (advance t s).now →
      ∃ s', Machine.exec (.preferredDomainReturn t) s = .next s' ∧ s'.time.clk.followed = some d ∧ s'.time.clk.acc = (advance t s).time.clk.acc ∧ s'.time.doms = s.time.doms))

/-- TIME_DISAGREE, TIME_ERR_HIGH, LEAP_SECOND and TIME_FLOOR_SAVE (R348, R351, R360, R361): domains apart for 10 s are told apart by an arbitrating PPS input, and without one
the error bound is raised by their gap; a bound above the alarm is noted once; the UTC offset changes at the leap second; the floor is saved every 60 s. The PPS balls
(R362 to R364, R367): PPS_CONFIG sets them; the edge that marks the second is stamped less `in_delay`, eight edges 1 s ± 10 µs apart lock an input, and 1.5 s without one
unlocks it; the edge of the locked input sets the clock for a TIME_SET that waits; an enabled output asserts at the second less `out_adv`, for `width` microseconds. -/
def Obligations.ClockAndPulsesAreWatched : Prop :=
  (∀ (t : Nat) (s : State),
    (∀ a, s.time.clk.disagree = some a → a + 10000000000 ≤ (advance t s).now → s.time.clk.disSent = false →
      ∃ s', Machine.exec (.timeDisagree t) s = .next s' ∧ s'.time.clk.disSent = true ∧
        (lockedPps s true = none → s'.time.clk.errRaise = nsOf ((domAt s 0).offset - (domAt s 1).offset) ∧ s'.time.doms = s.time.doms) ∧
        (∀ n, lockedPps s true = some n → ∀ d : Fin 2, (domAt s' d).offset = (domAt s d).offset ∧
          (domAt s' d).state = if s.time.cfg.xcheck < nsOf (subSecond (domAt s d).offset - 1000 * (s.time.ins[n]).phase) then .faulty else (domAt s d).state) ∧
        s'.time.clk.acc = (advance t s).time.clk.acc ∧ s'.well = s.well) ∧
    (1000000 * s.time.cfg.errAlarm < errNow (advance t s) →
      ∃ s', Machine.exec (.timeErrHigh t) s = .next s' ∧ s'.time.clk.errHigh = true ∧ s'.time.clk.acc = (advance t s).time.clk.acc ∧ s'.time.doms = s.time.doms ∧
        (s.time.clk.errHigh = true → s' = advance t s)) ∧
    (errNow (advance t s) ≤ 1000000 * s.time.cfg.errAlarm →
      Machine.exec (.timeErrHigh t) s = .next (modClk (fun c => { c with errHigh := false }) (advance t s))) ∧
    (s.time.utc.leap61 = true → s.time.utc.leapAt + 1 ≤ devSec (advance t s) → Machine.exec (.leapSecond t) s =
      .next { advance t s with time.utc.offset := s.time.utc.offset + 1, time.utc.leap61 := false }) ∧
    (s.time.utc.leap61 = false → s.time.utc.leap59 = true → s.time.utc.leapAt - 1 ≤ devSec (advance t s) → Machine.exec (.leapSecond t) s =
      .next { advance t s with time.utc.offset := s.time.utc.offset - 1, time.utc.leap59 := false }) ∧
    (s.time.clk.floorAt + 60000000000 ≤ (advance t s).now → Machine.exec (.timeFloorSave t) s = .next { advance t s with
      time.clk.floor := some (advance t s).time.clk.acc, time.clk.savedRho := s.time.clk.rho, time.clk.floorAt := (advance t s).now,
      time.clk.floorUtc := s.time.utc.offset, thm.saved2 := s.thm.step2Ns, thm.saved3 := s.thm.step3Ns })) ∧
  ((∀ (t cid : Nat) (c : Slot) (s : State), Starts Op.ppsConfig cid c s →
    (¬ (1 ≤ parF c 2 31 8 ∧ parF c 2 31 8 ≤ 900000 ∧ 1 ≤ parF c 3 31 8 ∧ parF c 3 31 8 ≤ 900000) →
      Machine.exec (.ppsConfig t cid) s = .next (refuse c Status.badParameter (startedAt t cid s))) ∧
    (1 ≤ parF c 2 31 8 ∧ parF c 2 31 8 ≤ 900000 ∧ 1 ≤ parF c 3 31 8 ∧ parF c 3 31 8 ≤ 900000 →
      ∃ s', Machine.exec (.ppsConfig t cid) s = .next s' ∧ Ended cid Status.done s' ∧
        (∀ n : Fin 2, s'.time.ins[n].enable = parB c n.val 0 ∧ s'.time.ins[n].falling = parB c n.val 1 ∧ s'.time.ins[n].arbiter = parB c n.val 2 ∧
          s'.time.ins[n].inDelay = parF c n.val 31 16) ∧
        (∀ n : Fin 2, s'.time.outs[n].enable = parB c (n.val + 2) 0 ∧ s'.time.outs[n].activeLow = parB c (n.val + 2) 1 ∧
          s'.time.outs[n].width = parF c (n.val + 2) 31 8 ∧ s'.time.outs[n].adv = signed (parF c (n.val + 2) 63 32) 32 ∧
          (parB c (n.val + 2) 0 = true → s'.time.outs[n].driven = true)) ∧
        s'.time.clk = (advance t s).time.clk ∧ s'.well = s.well)) ∧
  (∀ (t : Nat) (n : Fin 2) (rising : Bool) (s : State), s.time.ins[n].enable = true → s.time.ins[n].falling = !rising →
    ∃ s', Machine.exec (.ppsInEdge t n rising) s = .next s' ∧ s'.time.ins[n].last = some (devNs (advance t s) - s.time.ins[n].inDelay) ∧
      (∀ p, s.time.ins[n].last = some p → p + 999990000 ≤ devNs (advance t s) - s.time.ins[n].inDelay →
        devNs (advance t s) - s.time.ins[n].inDelay ≤ p + 1000010000 → s'.time.ins[n].edges = min 8 (s.time.ins[n].edges + 1)) ∧
      (s.time.ins[n].last = none → s'.time.ins[n].edges = 1) ∧ s'.time.ins[n].locked = decide (8 ≤ s'.time.ins[n].edges) ∧
      (∀ x : Fin 2, x ≠ n → s'.time.ins[x] = s.time.ins[x]) ∧ s'.time.doms = s.time.doms ∧ s'.well = s.well ∧
      (∀ cid sec, s.time.clk.setAtPps = some (cid, sec) → lockedPps s' false = some n → s.time.clk.stepped = false →
        (s.time.clk.state = .free ∨ s.time.clk.state = .kept) → (advance t s).time.clk.acc ≤ sec * 1000000000 * 2 ^ 48 →
        s'.time.clk.acc = sec * 1000000000 * 2 ^ 48 ∧ s'.time.clk.state = .holdover ∧ Ended cid Status.done s')) ∧
  (∀ (t : Nat) (n : Fin 2) (s : State),
    (∀ p, s.time.ins[n].last = some p → s.time.ins[n].locked = true → p + 1500000000 ≤ devNs (advance t s) →
      ∃ s', Machine.exec (.ppsInLost t n) s = .next s' ∧ s'.time.ins[n].locked = false ∧ s'.time.ins[n].edges = 0 ∧
        (∀ x : Fin 2, x ≠ n → s'.time.ins[x] = s.time.ins[x]) ∧ s'.time.clk.acc = (advance t s).time.clk.acc ∧ s'.time.doms = s.time.doms) ∧
    (s.time.outs[n].enable = true → s.time.clk.state ≠ .free → s.time.outs[n].pulse = false →
      ((devNs (advance t s) : Int) + s.time.outs[n].adv + 2) % 1000000000 ≤ 4 → Machine.exec (.ppsOutPulse t n) s = .next { advance t s with
        time.outs := upd s.time.outs n fun x => { x with pulse := true, started := devNs (advance t s) } }) ∧
    (s.time.outs[n].pulse = true → s.time.outs[n].started + 1000 * s.time.outs[n].width ≤ devNs (advance t s) →
      Machine.exec (.ppsOutPulseEnd t n) s = .next { advance t s with time.outs := upd s.time.outs n fun x => { x with pulse := false } })))

/-- TWIN_BIND, TWIN_YIELD and TWIN_STATUS (R384, R395, R404): the unit with the lower serial is unit 0; the one with a job active leads, else unit 0; the other copies. A
SYNCED unit, or a lead whose peer is SYNCED, is to yield; another is refused with PEER_NOT_SYNCED. Each refusal of TWIN_BIND. The witness (R385): an output toggles once
in a millisecond while a ready, bound unit's CPU domain runs; an edge of the peer's is heard; 5 ms without one are silence. -/
def Obligations.TwinsAreBoundAndHeard : Prop :=
  (∀ (t cid serial : Nat) (job : Bool) (c : Slot) (s : State),
    (∀ ok, Starts Op.twinBind cid c s →
      ok = (parF c 0 10 0 ≠ s.node ∧ parF c 0 10 0 ≠ 0 ∧ parF c 0 10 0 ≤ 2000 ∧ parF c 1 28 24 ≤ 15 ∧ parF c 1 36 32 ≤ 15 ∧ parF c 1 28 24 ≠ parF c 1 36 32) →
      (¬ ok → Machine.exec (.twinBind t cid serial job) s = .next (refuse c Status.badParameter (startedAt t cid s))) ∧
      (ok → routePort s (parF c 0 10 0) = none → Machine.exec (.twinBind t cid serial job) s = .next (refuse c Status.nodeUnreachable (startedAt t cid s))) ∧
      (ok → routePort s (parF c 0 10 0) ≠ none → s.twn.bound = true → Machine.exec (.twinBind t cid serial job) s = .next (refuse c Status.twinBound (startedAt t cid s))) ∧
      (ok → routePort s (parF c 0 10 0) ≠ none → s.twn.bound = false → jobActive s = true → job = true → serial < Config.serial.toNat →
        Machine.exec (.twinBind t cid serial job) s = .next (refuse c Status.twinJobActive (startedAt t cid s))) ∧
      (ok → routePort s (parF c 0 10 0) ≠ none → s.twn.bound = false → ¬ (jobActive s = true ∧ job = true ∧ serial < Config.serial.toNat) →
        ∃ s', Machine.exec (.twinBind t cid serial job) s = .next s' ∧ s'.twn.bound = true ∧ s'.twn.bindCid = cid ∧ s'.twn.peer = parF c 0 10 0 ∧
          s'.twn.peerSerial = serial ∧ s'.twn.witOut = parF c 1 28 24 ∧ s'.twn.witIn = parF c 1 36 32 ∧
          s'.twn.unit = (if Config.serial.toNat < serial then 0 else 1) ∧
          s'.twn.role = (if jobActive s = true ∨ (job = false ∧ Config.serial.toNat < serial) then .lead else .copying) ∧ s'.well = s.well)) ∧
    (Starts Op.twinYield cid c s →
      ((s.twn.role = .synced ∨ (s.twn.role = .lead ∧ s.twn.peerSynced = true)) → ∃ s', Machine.exec (.twinYield t cid) s = .next s' ∧ s'.twn.yieldDue = true ∧
        s'.twn.yieldCid = cid ∧ s'.twn.role = s.twn.role ∧ s' = { startedAt t cid s with twn := s'.twn }) ∧
      (¬ (s.twn.role = .synced ∨ (s.twn.role = .lead ∧ s.twn.peerSynced = true)) →
        Machine.exec (.twinYield t cid) s = .next (refuse c Status.peerNotSynced (startedAt t cid s)))) ∧
    (Starts Op.twinStatus cid c s → Machine.exec (.twinStatus t cid) s = .next (answer c (twinWords (startedAt t cid s)) (startedAt t cid s)))) ∧
  (∀ (t : Nat) (s : State), s.twn.bound = true →
    (s.pwr.ready = true → domOn s 2 = true → s.twn.witTog + 1000000 ≤ (advance t s).now →
      Machine.exec (.witnessToggle t) s = .next { advance t s with twn.witLevel := !s.twn.witLevel, twn.witTog := (advance t s).now }) ∧
    Machine.exec (.witnessEdge t) s = .next { advance t s with twn.witAt := (advance t s).now, twn.witSilent := false } ∧
    (s.twn.witAt + 5000000 ≤ (advance t s).now → Machine.exec (.witnessSilent t) s = .next { advance t s with twn.witSilent := true }) ∧
    ((advance t s).now < s.twn.witAt + 5000000 → Machine.exec (.witnessSilent t) s = .next (advance t s)))

/-- The lease (R302, R386, R396 to R399): a lead renews every 5 ms; a standby answers at once; the acknowledgement of a renewal carries the lease to 20 ms after it was sent;
at its end the lead stops, and 2 ms later it is SOLO where the peer's witness is silent, else ISOLATED; a denied lead is ISOLATED; a standby without a renewal for 22 ms
takes the lead with numbers 65,536 higher; a handover makes the standby LEAD; the both-lead window lasts 4 ms. An isolated or yielded unit keeps no permit beyond the line
in progress. -/
def Obligations.LeadsHoldALease : Prop :=
  ∀ (t : Nat) (s : State),
    (((s.twn.role = .lead ∧ s.twn.leaseOut = false) ∨ s.twn.role = .solo) → s.twn.renewAt + 5000000 ≤ (advance t s).now →
      Machine.exec (.leaseRenewSend t) s = .next (sendLease [0, word (s.twn.renewN + 1), word (advance t s).now] { advance t s with
        twn.renewN := s.twn.renewN + 1, twn.renewAt := (advance t s).now, twn.renewals := s.twn.renewals ++ [(s.twn.renewN + 1, (advance t s).now)] })) ∧
    (∀ n, (s.twn.role = .lead ∨ s.twn.role = .solo → Machine.exec (.leaseRenewReceive t n) s = .next (sendLease [2, word n] (takeInbox 0x50 (advance t s)))) ∧
      (s.twn.role = .synced ∨ s.twn.role = .copying → Machine.exec (.leaseRenewReceive t n) s = .next (sendLease [1, word n, word (roleCode s.twn.role)]
        { takeInbox 0x50 (advance t s) with twn.leaseFrom := (advance t s).now, twn.renewN := n, twn.renewAt := (advance t s).now })) ∧
      (s.twn.role = .isolated → ∃ s', Machine.exec (.leaseRenewReceive t n) s = .next s' ∧ s'.twn.role = .copying ∧ s'.twn.leaseFrom = (advance t s).now)) ∧
    (∀ n role m, s.twn.handing = false → s.twn.role = .lead → s.twn.leaseOut = false → s.twn.renewals.find? (fun r => r.1 == n) = some (n, m) →
      ∃ s', Machine.exec (.leaseAckReceive t n role) s = .next s' ∧ s'.twn.leaseEnd = max s.twn.leaseEnd (m + 20000000) ∧ s'.twn.role = .lead ∧
        s'.twn.peerSynced = decide (role = 2) ∧ s'.prod = s.prod ∧ s'.well = s.well) ∧
    (∀ n role, s.twn.handing = true → ∃ s', Machine.exec (.leaseAckReceive t n role) s = .next s' ∧ s'.twn.handing = false ∧
      s'.twn.role = if s.twn.yieldDue then .yielded else .synced) ∧
    (s.twn.role = .lead ∨ s.twn.role = .solo → ∃ s', Machine.exec (.leaseDenyReceive t) s = .next s' ∧ s'.twn.role = .isolated ∧
      ∀ k : Fin 24, s'.stl[k].permit = false ∨ s'.stl[k].withdraw ≠ none) ∧
    (s.twn.role = .lead → s.twn.leaseOut = false → s.twn.leaseEnd ≤ (advance t s).now → ∃ s', Machine.exec (.leadLeaseExpiry t) s = .next s' ∧ s'.twn.leaseOut = true ∧
      s'.twn.outAt = (advance t s).now ∧ s'.twn.bothLead = true ∧ s'.twn.bothEnd = (advance t s).now + 4000000 ∧ leaseHeld s' = false) ∧
    (s.twn.role = .lead → s.twn.leaseOut = true → s.twn.outAt + 2000000 ≤ (advance t s).now → ∃ s', Machine.exec (.leadExpiryDecision t) s = .next s' ∧
      s'.twn.leaseOut = false ∧ s'.twn.role = if s.twn.witSilent then .solo else .isolated) ∧
    (((s.twn.role = .synced ∧ s.twn.leaseFrom + 22000000 ≤ (advance t s).now) ∨
        (s.twn.role = .copying ∧ s.twn.leaseFrom = 0 ∧ s.twn.witSilent = true)) →
      ∃ s', Machine.exec (.standbyTakeover t) s = .next s' ∧ s'.twn.role = .solo ∧ s'.twn.bothLead = true ∧ s.mot.nextProd + 65535 ≤ s'.mot.nextProd) ∧
    (s.twn.role = .synced → (advance t s).now < s.twn.leaseFrom + 22000000 → Machine.exec (.standbyTakeover t) s = .next (advance t s)) ∧
    (∀ record product n, s.twn.role = .synced → ∃ s', Machine.exec (.leaseHandoverReceive t record product n) s = .next s' ∧ s'.twn.role = .lead ∧
      s'.tal.nextRec = max s.tal.nextRec (record + 1) ∧ s'.mot.nextProd = max s.mot.nextProd (product + 1) ∧ s'.twn.leaseEnd = (advance t s).now + 20000000) ∧
    (s.twn.bothLead = true → s.twn.bothEnd ≤ (advance t s).now → ∃ s', Machine.exec (.bothLeadWindowEnd t) s = .next s' ∧ s'.twn.bothLead = false) ∧
    (s.twn.yieldDue = true → ((s.twn.role = .lead ∧ s.twn.peerSynced = false) ∨ s.twn.role = .synced) → ∃ s', Machine.exec (.unitYield t) s = .next s' ∧
      s'.twn.role = .yielded ∧ s'.twn.yieldDue = false ∧ ∀ k : Fin 24, s'.stl[k].permit = false ∨ s'.stl[k].withdraw ≠ none)

/-- Digests and CHECK (R392, R393): equal digests of a line settle it; different ones are counted, and the other unit's fault bit then tells: where both or neither saw a
fault the line is suspect, the unit that alone saw one yields, and where the recipes differ the standby yields. The state copy (R401, R403): a unit that copies refuses a
lead whose configuration differs and asks again after 10 s; else its numbers go on from the lead's; a copy that commits with its digest right makes it SYNCED, and the
lead has a SYNCED peer. -/
def Obligations.PairsAgree : Prop :=
  (∀ (t line : Nat) (d recipe : W64) (x : LineDigest) (s : State), (s.twn.role = .lead ∨ s.twn.role = .synced) →
    s.twn.digests.find? (fun y => y.line == line) = some x →
    ((∀ y ∈ s.twn.digests, y.line = line → (advance t s).now ≤ y.ownAt + 1000000) → x.mism = false →
      (x.own = none → Machine.exec (.digestReceive t line d recipe) s =
        .next (modDigest line (fun y => { y with peer := some (d.toNat, recipe.toNat) }) (takeInbox 0x51 (advance t s)))) ∧
      (x.own = some (d.toNat, recipe.toNat) → Machine.exec (.digestReceive t line d recipe) s =
        .next { takeInbox 0x51 (advance t s) with twn.digests := s.twn.digests.filter fun y => y.line != line }) ∧
      (∀ own, x.own = some own → own ≠ (d.toNat, recipe.toNat) → ∃ s', Machine.exec (.digestReceive t line d recipe) s = .next s' ∧
        s'.twn.digestMis = min 0xFFFFFFFF (s.twn.digestMis + 1))) ∧
    (∀ own peer theirs, x.own = some own → x.peer = some peer → x.mism = true →
      (own.2 = peer.2 → x.fault = theirs → ∃ s', Machine.exec (.checkReceive t line theirs) s = .next s' ∧ line ∈ s'.twn.suspects ∧
        s'.twn.suspectN = min 0xFFFFFFFF (s.twn.suspectN + 1) ∧ s'.twn.yieldDue = s.twn.yieldDue) ∧
      (own.2 = peer.2 → x.fault = true → theirs = false → ∃ s', Machine.exec (.checkReceive t line theirs) s = .next s' ∧ s'.twn.yieldDue = true ∧
        s'.twn.suspects = s.twn.suspects) ∧
      (own.2 = peer.2 → x.fault = false → theirs = true → Machine.exec (.checkReceive t line theirs) s =
        .next { takeInbox 0x56 (advance t s) with twn.digests := s.twn.digests.filter fun y => y.line != line }) ∧
      (own.2 ≠ peer.2 → s.twn.role = .synced → ∃ s', Machine.exec (.checkReceive t line theirs) s = .next s' ∧ s'.twn.yieldDue = true) ∧
      (own.2 ≠ peer.2 → s.twn.role = .lead → Machine.exec (.checkReceive t line theirs) s =
        .next { takeInbox 0x56 (advance t s) with twn.digests := s.twn.digests.filter fun y => y.line != line }))) ∧
  (∀ (t : Nat) (s : State),
    (∀ copy record product line stamp, s.twn.role = .copying →
      (∃ s', Machine.exec (.copyBeginReceive t copy record product line stamp false) s = .next s' ∧ s'.twn.copyFault = FaultCode.twinConfigDiff ∧
        s'.twn.retryAt = (advance t s).now + 10000000000 ∧ s'.twn.role = .copying ∧ s'.mot.line = s.mot.line) ∧
      (∃ s', Machine.exec (.copyBeginReceive t copy record product line stamp true) s = .next s' ∧ s'.tal.nextRec = max s.tal.nextRec (record + 1) ∧
        s'.mot.nextProd = max s.mot.nextProd (product + 1) ∧ s'.twn.role = .copying ∧ s'.twn.copy = copy)) ∧
    (∀ snap, s.twn.role = .copying → s.twn.copying = true →
      (∃ s', Machine.exec (.copyCommitReceive t s.twn.copy true snap) s = .next s' ∧ s'.twn.role = .synced ∧ s'.twn.progress = 65536 ∧ s'.twn.copyFault = 0) ∧
      (∃ s', Machine.exec (.copyCommitReceive t s.twn.copy false snap) s = .next s' ∧ s'.twn.role = .copying ∧ s'.twn.copying = false ∧ s'.led = s.led ∧ s'.prod = s.prod)) ∧
    (s.twn.role = .lead → s.twn.copying = true → ∃ s', Machine.exec (.copyDoneReceive t s.twn.copy) s = .next s' ∧ s'.twn.peerSynced = true ∧ s'.twn.copying = false ∧ s'.twn.role = .lead) ∧
    (s.twn.role = .copying → s.twn.retryAt ≠ 0 → s.twn.retryAt ≤ (advance t s).now → Machine.exec (.twinCopyRetry t) s =
      .next (uraraSend s.twn.peer 0x57 [3] { advance t s with twn.retryAt := (advance t s).now + 10000000000 })) ∧
    (s.twn.role = .copying → (advance t s).now < s.twn.retryAt → Machine.exec (.twinCopyRetry t) s = .next (advance t s)))

/-- What a standby takes over (R387, R390, R391, R394, R400): an acknowledgement makes a part durable at the peer; an issue part of the lead enters the standby's journal; a
proposal is answered with the lowest undispatched line plus 16; the lead fixes F_e as the later of the two; the first mark aligns the line index, and a later one that
disagrees is a slip and a new copy; the lead takes a standby's flags and results. -/
def Obligations.StandbysFollow : Prop :=
  ∀ (t : Nat) (s : State),
    (∀ seq n w, s.twn.bound = true → s.twn.replOut.find? (fun x => x.1 == n) = some (n, .cal w) → Machine.exec (.jreplReceive t seq (.ack n)) s =
      .next { takeInbox 0x52 (advance t s) with twn.replOut := s.twn.replOut.filter fun x => x.1 != n }) ∧
    (∀ seq n r k, s.twn.bound = true → s.twn.replOut.find? (fun x => x.1 == n) = some (n, .part r k) → ∃ s', Machine.exec (.jreplReceive t seq (.ack n)) s = .next s' ∧
      (∀ x ∈ s'.tal.journal, x.num = r → bit x.peer k = true) ∧ s'.twn.replHigh = max s.twn.replHigh r) ∧
    (∀ seq n body, s.twn.bound = true → s.twn.role = .synced → partOk 0 (wordsOf body) = true →
      ∃ s', Machine.exec (.jreplReceive t seq (.part n 0 body)) s = .next s' ∧ (∃ r ∈ s'.tal.journal, r.num = ((wordsOf body).getD 0 0).toNat ∧
        r.product = ((wordsOf body).getD 1 0).toNat ∧ r.serial = ((wordsOf body).getD 3 0).toNat) ∧ ((wordsOf body).getD 0 0).toNat < s'.tal.nextRec ∧
        (seq ≠ 0 → (LWrite.part ((wordsOf body).getD 0 0).toNat 0, seq) ∈ s'.twn.ackDue)) ∧
    (∀ epoch placement items, s.twn.role = .synced → ∃ s', Machine.exec (.epochProposeReceive t epoch placement items) s = .next s' ∧ s'.twn.epochNum = epoch ∧
      s'.twn.epoch = some { num := epoch, placement := placement, items := items.map (fun i => (i.item, i.body)), stop := s.mil.nextLine + 16 }) ∧
    (∀ e fe, s.twn.epoch = some e → e.line = none →
      (s.twn.role = .lead → Machine.exec (.epochCommitReceive t e.num fe) s = .next (uraraSend s.twn.peer 0x53 [2, word e.num, word (max e.stop (fe + 16))]
        { takeInbox 0x53 (advance t s) with twn.epoch := some { e with line := some (max e.stop (fe + 16)) } })) ∧
      (s.twn.role = .synced → Machine.exec (.epochCommitReceive t e.num fe) s =
        .next { takeInbox 0x53 (advance t s) with twn.epoch := some { e with line := some fe } })) ∧
    (∀ line stamp own, (s.twn.role = .synced ∨ s.twn.role = .copying) → boundaryNear (takeInbox 0x54 (advance t s)) (momentOf (takeInbox 0x54 (advance t s)) stamp) = some own →
      (s.twn.aligned = false → ∃ s', Machine.exec (.linemarkReceive t line stamp) s = .next s' ∧ s'.twn.aligned = true ∧ s'.mot.line = s.mot.line + line - own ∧ s'.prod = s.prod) ∧
      (s.twn.aligned = true → own = line → Machine.exec (.linemarkReceive t line stamp) s = .next (takeInbox 0x54 (advance t s))) ∧
      (s.twn.aligned = true → own ≠ line → ∃ s', Machine.exec (.linemarkReceive t line stamp) s = .next s' ∧ s'.twn.role = .copying ∧ s'.twn.slips = s.twn.slips + 1 ∧
        s'.mot.line = s.mot.line)) ∧
    (s.twn.role = .lead → (∀ items, ∃ s', Machine.exec (.verdictReceive t (.flags items)) s = .next s' ∧ s'.prod.queue.map (·.num) = s.prod.queue.map (·.num) ∧ s'.tal = s.tal ∧
        ∀ n f, items = [(n, f)] → ∀ p ∈ s'.prod.queue, p.num = n → ∃ q ∈ s.prod.queue, q.num = n ∧ p.flags = q.flags ||| f) ∧
      (∀ ws, Machine.exec (.verdictReceive t (.result ws)) s = .next (applyOutcome (ws.getD 0 0).toNat (fld (ws.getD 2 0) 3 0) (fld (ws.getD 2 0) 15 8)
        (fld (ws.getD 2 0) 63 48) (takeInbox 0x55 (advance t s)))))

/-- NODE_ID, TOPOLOGY and its reply (R371 to R373): an ID from 1 to 2000 that no other device announced is taken; settings in range whose ports fit their topology are in
force, and the command waits for its ports, at most 100 ms. Each refusal. Announcements and routes (R373, R378): a lane in UP announces every 100 µs; the far end of a
lane is learned, a neighbour is one hop away, and an own ID under another serial is a conflict; a route of a neighbour counts one hop more, a full table takes away what
it lacks; 300 µs after a port went down its routes are gone. -/
def Obligations.LinkIsJoined : Prop :=
  (∀ (t cid : Nat) (c : Slot) (s : State),
    (Starts Op.nodeId cid c s →
      (parN c 0 = 0 ∨ 2000 < parN c 0 → Machine.exec (.nodeId t cid) s = .next (refuse c Status.badParameter (startedAt t cid s))) ∧
      (∀ a ∈ s.ura.announced, parN c 0 ≠ 0 → parN c 0 ≤ 2000 → a.1 = parN c 0 → a.2 ≠ Config.serial.toNat →
        Machine.exec (.nodeId t cid) s = .next (refuse c Status.nodeConflict (startedAt t cid s))) ∧
      (parN c 0 ≠ 0 → parN c 0 ≤ 2000 → (∀ a ∈ s.ura.announced, a.1 = parN c 0 → a.2 = Config.serial.toNat) → Machine.exec (.nodeId t cid) s =
        .next (done c { startedAt t cid s with node := parN c 0, ura.conflict := false, led.badSaved := false }))) ∧
    (∀ ok, Starts Op.topology cid c s → ((List.range 8).any fun i => laneRun (advance t s) (24 + i) && fbit (parOf (advance t s) cid 0) (8 + i / 2)) = false →
      ok = (¬ (parF c 0 1 0 = 3 ∧ 4 ≤ parF c 0 18 16 ∧ parF c 0 18 16 ≠ 7) ∧ parF c 2 10 0 ≤ 2000 ∧ ∀ r ∈ remotesOf c, r.enable = true → r.node ≠ 0 ∧ r.node ≤ 2000) →
      (¬ ok → Machine.exec (.topology t cid) s = .next (refuse c Status.badParameter (startedAt t cid s))) ∧
      (ok → portsOk (parF c 0 1 0) (parF c 0 11 8) (parF c 0 18 16) = false → Machine.exec (.topology t cid) s = .next (refuse c Status.badTopology (startedAt t cid s))) ∧
      (∀ p, ok → portsOk (parF c 0 1 0) (parF c 0 11 8) (parF c 0 18 16) = true → s.twn.bound = true → jobActive s = true → routePort s s.twn.peer = some p →
        bit (parF c 0 11 8) p = false → Machine.exec (.topology t cid) s = .next (refuse c Status.topologyBusy (startedAt t cid s))) ∧
      (ok → portsOk (parF c 0 1 0) (parF c 0 11 8) (parF c 0 18 16) = true → (s.twn.bound = false ∨ jobActive s = false) →
        ∃ s', Machine.exec (.topology t cid) s = .next s' ∧ s'.ura.topology = parF c 0 1 0 ∧ s'.ura.ports = parF c 0 11 8 ∧ s'.ura.upPort = parF c 0 18 16 ∧
          s'.ura.trigAllow = parF c 1 31 0 ∧ s'.ura.timeSource = parF c 2 10 0 ∧ s'.ura.timeDom1 = parB c 2 16 ∧
          s'.ura.remotes.map (·.node) = (remotesOf c).map (·.node) ∧ (s'.ura.topos = [] ∨ (cid, c.acceptAt) ∈ s'.ura.topos) ∧ s'.prod = s.prod)) ∧
    (∃ s', Machine.exec (.topologyReplyTimeout t) s = .next s' ∧ s'.ura.topos = s.ura.topos.filter (fun w => decide ((advance t s).now < w.2 + 100000000)) ∧
      ∀ w ∈ s.ura.topos, w.2 + 100000000 ≤ (advance t s).now → Ended w.1 Status.done s')) ∧
  (∀ (t : Nat) (s : State),
    (∀ (lane : Fin 36) i p, 24 ≤ lane.val → isEthLane lane.val = false → laneUp s lane.val = true → (laneOf s lane.val).annAt + 100000 ≤ (advance t s).now →
      linkIndex s lane.val = some i → s.ura.conflict = false →
      p = neighbourPacket s 0x40 [word s.node, Config.serial, word (i / 2), word lane.val, word s.ura.topology] →
      Machine.exec (.announceSend t lane) s = .next (transmit i p (modLane lane.val (fun l => { l with annAt := (advance t s).now }) (advance t s)))) ∧
    (∀ (lane : Fin 36) i node serial port far, 24 ≤ lane.val → isEthLane lane.val = false → laneUp s lane.val = true → linkIndex s lane.val = some i →
      ∃ s', Machine.exec (.announceReceive t lane node serial port far) s = .next s' ∧ (laneOf s' lane.val).farNode = some (node, port, far) ∧
        (node = 0 → s'.ura.routes = s.ura.routes ∧ s'.ura.announced = s.ura.announced) ∧
        (node ≠ 0 → (node, serial) ∈ s'.ura.announced) ∧
        (node ≠ 0 → node = s.node → serial ≠ Config.serial.toNat → s'.ura.conflict = true) ∧
        (node ≠ s.node → s'.ura.conflict = s.ura.conflict) ∧
        (node ≠ 0 → node ≠ s.node → s.ura.routes.length < 2048 → ∃ r ∈ s'.ura.routes, r.node = node ∧ r.hops ≤ 1) ∧ s'.node = s.node) ∧
    (∀ (port : Fin 4) full changes, portUsed s port.val = true → portUp s port.val = true →
      ∃ s', Machine.exec (.routeReceive t port full changes) s = .next s' ∧
        (∀ r ∈ s'.ura.routes, r ∈ s.ura.routes ∨ (r.port = port.val ∧ ∃ c ∈ changes, r.node = c.node ∧ r.hops = min noRoute (c.hops + 1))) ∧
        (full = true → ∀ r ∈ s'.ura.routes, r.port = port.val → r.hops = 1 ∨ ∃ c ∈ changes, c.node = r.node)) ∧
    (domOn s 10 = true → s.ura.fullAt + 100000000 ≤ (advance t s).now → Machine.exec (.routeFullAdvertise t) s =
      .next (advertise (s.ura.routes.map fun r => (r.node, r.hops)) none { advance t s with ura.fullAt := (advance t s).now })) ∧
    (∀ (port : Fin 4) m, s.ura.downAt[port] = some m → m + 300000 ≤ (advance t s).now → ∃ s', Machine.exec (.routeExpire t port) s = .next s' ∧
      s'.ura.routes = s.ura.routes.filter fun r => r.port != port.val))

/-- The link layer (R374 to R377): a packet that is wrong in its length or its check, or ahead of the one expected, draws one LNAK; the one expected is acknowledged and, sent
to this node, delivered; an unknown type is counted; one seen before is discarded. An acknowledgement empties the replay buffer, a LNAK sends it again, an idle lane
acknowledges after 1 µs. What the link delivers (R49, R383, R388, R404, R514): a command is taken as one from any transport; a lead's TRIGGER puts the product into its
standby's queue under the lead's number and stamp; this node's time is sent and the peer's compared; the events of other nodes leave on the ring of the collecting node. -/
def Obligations.PacketsAreTaken : Prop :=
  (∀ (t i : Nat) (lane : Fin 36) (s : State), linkIndex s lane.val = some i → laneUp s lane.val = true →
    (∀ type words u0 u1, u0 = (words.getD 0 0).toNat → u1 = (words.getD 1 0).toNat →
      (¬ (words.length = bits u1 9 0 + 3 ∧ fld (words.getD (words.length - 1) 0) 31 0 = crc32c (wordsBytes (words.take (words.length - 1)))) →
        Machine.exec (.uraraPacketReceive t lane type words) s = .next (sendNak i (advance t s))) ∧
      (words.length = bits u1 9 0 + 3 → fld (words.getD (words.length - 1) 0) 31 0 = crc32c (wordsBytes (words.take (words.length - 1))) → type ≠ 0x42 → type ≠ 0x43 →
        (0 < (bits u0 63 48 + 65536 - (linkOf s i).expect) % 65536 → (bits u0 63 48 + 65536 - (linkOf s i).expect) % 65536 < 32768 →
          Machine.exec (.uraraPacketReceive t lane type words) s = .next (sendNak i (advance t s))) ∧
        (32768 ≤ (bits u0 63 48 + 65536 - (linkOf s i).expect) % 65536 →
          Machine.exec (.uraraPacketReceive t lane type words) s = .next (takeAck i (bits u1 31 16) (advance t s))) ∧
        ((bits u0 63 48 + 65536 - (linkOf s i).expect) % 65536 = 0 →
          ∃ s', Machine.exec (.uraraPacketReceive t lane type words) s = .next s' ∧ s'.prod = s.prod ∧ s'.well = s.well ∧
            (i < 8 → knownType type = false → s'.ura.unknown = s.ura.unknown + 1 ∧ s'.ura.inbox = s.ura.inbox ∧ (linkOf s' i).expect = ((linkOf s i).expect + 1) % 65536) ∧
            (i < 8 → knownType type = true → type ≠ 0x40 → type ≠ 0x41 → s.node ≠ 0 → s.ura.conflict = false → bits u0 10 0 = s.node → s.node ≠ 2047 →
              s'.ura.inbox = s.ura.inbox ++ [(type, bits u0 26 16, (words.take (words.length - 1)).drop 2)] ∧
              (linkOf s' i).expect = ((linkOf s i).expect + 1) % 65536 ∧ (linkOf s' i).naked = false)))) ∧
    (∀ ack, Machine.exec (.lackReceive t lane ack) s = .next (takeAck i (ack % 65536) (advance t s)) ∧
      (i < 8 → (linkOf s i).waiting = [] → Machine.exec (.lackReceive t lane ack) s = .next (modLink i (fun l => { l with
        sent := l.sent.filter fun e => decide (32768 ≤ (ack % 65536 + 65536 - e.1) % 65536) }) (advance t s)))) ∧
    ((linkOf s i).lastTx + 1000 ≤ (advance t s).now → Machine.exec (.lackSend t lane) s = .next (emit (.packet lane.val 0x42
      (linkWords (neighbourPacket s 0x42 []) 0 (ackOf s i))) (modLink i (fun l => { l with lastTx := (advance t s).now }) (advance t s)))) ∧
    (∀ lseq, Machine.exec (.lnakReceive t lane lseq) s = .next (replayFrom i (lseq % 65536) (advance t s)))) ∧
  (∀ (t src : Nat) (s : State),
    (∀ ws, domOn s 10 = true → s.pwr.ready = true → s.bgd.takeover = false → s.cmd.intakeOpen = true →
      Machine.exec (.uraraCommandReceive t src ws) s = .next (intake .urara src ws (takeInbox 0x48 (advance t s)))) ∧
    (∀ (w : TriggerWords) u m n j k tr, u = takeInbox 0x4A (advance t s) → m = momentOf u w.stamp → domOn s 10 = true → domOn s 9 = true → s.twn.bound = true →
      src = s.twn.peer → standby s = true → w.lead = true → w.product = some n → (∀ r ∈ s.ura.remotes, r.node ≠ src) → s.job.switch = none →
      jobFor u w.input.val (w.line + (pdSettings u.mot.pds[w.input] m).lead) m = some j → trackOn j w.input.val = some (k, tr) → s.prod.queue.length < 64 →
      ∃ s', Machine.exec (.triggerReceive t src w) s = .next s' ∧ s'.mot.nextProd = n + 1 ∧ ∃ p ∈ s'.prod.queue, p.num = n ∧ p.detLine = w.line ∧ p.detect = w.stamp ∧
        p.first = w.line + (pdSettings u.mot.pds[w.input] m).lead ∧ p.job = j.desc.id ∧ p.input = w.input.val) ∧
    (∀ (w : TriggerWords), domOn s 10 = true → domOn s 9 = true → (∀ r ∈ s.ura.remotes, r.node ≠ src) → (s.twn.bound = false ∨ src ≠ s.twn.peer) →
      Machine.exec (.triggerReceive t src w) s = .next (takeInbox 0x4A (advance t s))) ∧
    (∀ node, Machine.exec (.timeSend t node) s = .next (uraraSend node 0x4B
      [word (stampSec (devTime (advance t s))), word (stampSub (devTime (advance t s))), 0] (advance t s))) ∧
    (∀ tSrc corr lam, domOn s 10 = true → s.twn.bound = true → src = s.twn.peer → (s.ura.timeDom1 = false ∨ src ≠ s.ura.timeSource) →
      ∃ s', Machine.exec (.timeReceive t src tSrc corr lam) s = .next s' ∧
        s'.twn.clockDiff = ((tSrc : Int) + ((corr + lam * 65536 / 10 : Nat) : Int) - (devTime (advance t s) : Nat)) / 65536 ∧
        s'.twn.diffSent = decide (10000 < s'.twn.clockDiff.natAbs) ∧ s'.time = (advance t s).time) ∧
    (∀ tSrc corr lam, domOn s 10 = true → (s.twn.bound = false ∨ src ≠ s.twn.peer) → s.ura.timeDom1 = true → src = s.ura.timeSource →
      Machine.exec (.timeReceive t src tSrc corr lam) s = .next (uraraSample ((tSrc : Int) + ((corr + lam * 65536 / 10 : Nat) : Int) - (devTime (advance t s) : Nat))
        ((corr + lam * 65536 / 10 : Nat) : Int) (takeInbox 0x4B (advance t s)))) ∧
    (∀ a b c d : W64, domOn s 10 = true → domOn s 2 = true → src ≠ 0 →
      (s.cri.ringOn = true → Machine.exec (.telemetryReceive t src [a, b, c, d]) s =
        .next (queueUnits s.cri.ring [{ data := wordsBytes [a, b, c, d] }] (takeInbox 0x5C (advance t s)))) ∧
      (s.cri.ringOn = false → Machine.exec (.telemetryReceive t src [a, b, c, d]) s = .next (takeInbox 0x5C (advance t s)))))

/-- SENSOR_CONFIG and VERIFY_CONFIG (R323, R324, R336): a sensor in range whose channel is free is configured from its profile, and counts its frames from 0; it is refused
while an active job's track uses it; settings of the verification in range are in force. Setting sets (R325, R326): an accepted set is queued, and written when none is in
write; an acknowledged set applies k - 1 frames after the frames started so far, over a set of the same frame; one that the sensor does not acknowledge fails its command
with SENSOR_WRITE and never applies. -/
def Obligations.SensorsAndSettings : Prop :=
  (∀ (t cid : Nat) (c : Slot) (s : State),
    (∀ n x, Starts Op.sensorConfig cid c s → n = parF c 0 2 0 → x = sensorFrom c [] →
      (sensorOk x = false ∨ (∃ k, k < 8 ∧ k ≠ n ∧ (sensorOf s k).on = true ∧ (sensorOf s k).rx = x.rx ∧ (sensorOf s k).vc = x.vc) →
        Machine.exec (.sensorConfig t cid) s = .next (refuse c Status.badParameter (startedAt t cid s))) ∧
      (sensorOk x = true → (∀ k, k < 8 → k ≠ n → ¬ ((sensorOf s k).on = true ∧ (sensorOf s k).rx = x.rx ∧ (sensorOf s k).vc = x.vc)) →
        (sensorBusy s (sensorOf s n) = true → Machine.exec (.sensorConfig t cid) s = .next (refuse c Status.sensorBusy (startedAt t cid s))) ∧
        (∀ bs, sensorBusy s (sensorOf s n) = false → rangeFailure s (parN c 5) (parF c 6 31 0) = none → poisoned s (parN c 5) (parF c 6 31 0) = false → bs = wellRead s (parN c 5) (parF c 6 31 0) →
          (profileOk (wordsOf bs) = false → Machine.exec (.sensorConfig t cid) s = .next (refuse c Status.badSensorProfile (startedAt t cid s))) ∧
          (profileOk (wordsOf bs) = true → (sensorOf s n).on = false → (sensorOf s n).sets = [] → Machine.exec (.sensorConfig t cid) s =
            .next (done c (modSensor n (fun _ => sensorFrom c (wordsOf bs)) (startedAt t cid s))))))) ∧
    (∀ v : VerifyCfg, Starts Op.verifyConfig cid c s → v = {
        gradeMin := parF c 0 7 0, maxImages := parF c 0 10 8, ocvMin := parF c 0 23 16, regMin := parF c 1 15 0, search := parF c 1 23 16,
        dotMin := parF c 1 39 24, channels := parF c 2 23 0, streakClass := parF c 3 7 0, streakDepth := parF c 3 15 8, streakLines := parF c 3 31 16,
        streakProducts := parF c 3 39 32, results := parB c 4 0, stats := parB c 4 1, failImages := parB c 4 2 } →
      ((v.gradeMin ≤ 40 ∧ 1 ≤ v.maxImages ∧ v.maxImages ≤ 4 ∧ 1 ≤ v.search ∧ v.search ≤ 64 ∧ ∀ k, k < 8 → bits v.channels (3 * k + 2) (3 * k) ≤ 2) →
        Machine.exec (.verifyConfig t cid) s = .next (done c { startedAt t cid s with vis.cfg := v })) ∧
      (¬ (v.gradeMin ≤ 40 ∧ 1 ≤ v.maxImages ∧ v.maxImages ≤ 4 ∧ 1 ≤ v.search ∧ v.search ≤ 64 ∧ ∀ k, k < 8 → bits v.channels (3 * k + 2) (3 * k) ≤ 2) →
        Machine.exec (.verifyConfig t cid) s = .next (refuse c Status.badParameter (startedAt t cid s))))) ∧
  ((∀ (t cid : Nat) (c : Slot) (q : SetReq) (s : State), Starts Op.settingSet cid c s →
    q = { id := parF c 1 15 0, exp := parN c 2, gain := parF c 3 15 0, dgain := parF c 4 15 0, cid := cid } →
    (parF c 1 15 0 = 0 ∨ (sensorOf s (parF c 0 2 0)).on = false → Machine.exec (.settingSet t cid) s = .next (refuse c Status.badParameter (startedAt t cid s))) ∧
    (parF c 1 15 0 ≠ 0 → (sensorOf s (parF c 0 2 0)).on = true → ∃ s', Machine.exec (.settingSet t cid) s = .next s' ∧
      (sensorOf s' (parF c 0 2 0)).sets = (sensorOf s (parF c 0 2 0)).sets ++ [q] ∧ s'.cmd = (startedAt t cid s).cmd ∧
      (setInWrite s ≠ none → s'.outbox = s.outbox) ∧ s'.well = s.well)) ∧
  (∀ (t : Nat) (n : Fin 8) (q : SetReq) (at_ : Nat) (s : State), setInWrite s = some (n.val, q) → at_ = (sensorOf s n.val).frames + (sensorOf s n.val).k - 1 →
    (∃ s', Machine.exec (.settingWriteAck t n true) s = .next s' ∧ { q with apply := some at_ } ∈ (sensorOf s' n.val).sets ∧ q ∉ (sensorOf s' n.val).sets ∧
      (∀ y ∈ (sensorOf s' n.val).sets, y.apply = some at_ → y = { q with apply := some at_ }) ∧ Ended q.cid Status.done s') ∧
    (∃ s', Machine.exec (.settingWriteAck t n false) s = .next s' ∧ (sensorOf s' n.val).sets = (sensorOf s n.val).sets.filter (· != q) ∧
      Ended q.cid Status.faultNoEffect s')))

/-- Frames (R321, R322, R327, R328): a frame starts under the next number with the device time of its start; its rows of the right type and width are kept, one row too many
makes it long and a failed check damages it; its end hands it to the pipeline, truncated where rows are missing; a packet that no sensor takes is counted. IMAGE_CAPTURE,
the trigger pulse and PIPELINE_FRAME_DONE (R323, R327, R335, R342): a capture of frames waits for them; a pulse ends after 1 µs; a frame that has left the pipeline is
kept only while a code under verification names it. -/
def Obligations.FramesComeAndGo : Prop :=
  (∀ (t : Nat) (rx : Fin 2) (vc : Fin 16) (s : State), domOn s 11 = true →
    (sensorAt s rx vc = none → Machine.exec (.csiFrameStart t rx vc) s = .next { advance t s with vis.packets := s.vis.packets + 1 } ∧
      (∀ dtype ok px, Machine.exec (.csiLongPacket t rx vc dtype ok px) s = .next { advance t s with vis.packets := s.vis.packets + 1 }) ∧
      Machine.exec (.csiFrameEnd t rx vc false) s = .next { advance t s with vis.packets := s.vis.packets + 1 }) ∧
    (∀ n x, sensorAt s rx vc = some n → x = sensorOf s n →
      (∃ s', Machine.exec (.csiFrameStart t rx vc) s = .next s' ∧ (sensorOf s' n).frames = x.frames + 1 ∧
        (∃ f, (sensorOf s' n).cur = some f ∧ f.frame = x.frames ∧ f.fs16 = devTime (advance t s) ∧ f.fsAt = (advance t s).now ∧ f.raw = []) ∧
        (∀ f, x.cur = some f → ∃ g ∈ s'.vis.frames, g.frame = f.frame ∧ g.truncated = true) ∧ (x.cur = none → s'.vis.frames = s.vis.frames)) ∧
      (∀ f px, x.cur = some f → px.length = x.width →
        (f.raw.length < x.height → Machine.exec (.csiLongPacket t rx vc (if x.raw12 then 0x2C else 0x2B) true px) s =
          .next (modSensor n (fun y => { y with cur := some { f with raw := f.raw ++ [px] } }) (advance t s))) ∧
        (x.height ≤ f.raw.length → Machine.exec (.csiLongPacket t rx vc (if x.raw12 then 0x2C else 0x2B) true px) s =
          .next (modSensor n (fun y => { y with cur := some { f with long := true } }) (advance t s)))) ∧
      (∀ f dtype px, x.cur = some f → Machine.exec (.csiLongPacket t rx vc dtype false px) s =
        .next (modSensor n (fun y => { y with cur := some { f with damaged := true } }) (advance t s))) ∧
      (∀ f, x.cur = some f → ∃ s', Machine.exec (.csiFrameEnd t rx vc false) s = .next s' ∧ (sensorOf s' n).cur = none ∧ s'.vis.frames = s.vis.frames ++ [{ f with
        truncated := f.truncated || decide (f.raw.length < x.height), feAt := (advance t s).now }]))) ∧
  ((∀ (t cid : Nat) (c : Slot) (s : State), Starts Op.imageCapture cid c s →
    (8 ≤ parN c 0 ∨ parN c 1 = 0 → Machine.exec (.imageCapture t cid) s = .next (refuse c Status.badParameter (startedAt t cid s))) ∧
    (parN c 0 < 8 → parN c 1 ≠ 0 → outRing s (parN c 2) = false → Machine.exec (.imageCapture t cid) s = .next (refuse c Status.badRing (startedAt t cid s))) ∧
    (parN c 0 < 8 → parN c 1 ≠ 0 → outRing s (parN c 2) = true → Machine.exec (.imageCapture t cid) s = .next { startedAt t cid s with
      vis.captures := s.vis.captures ++ [{ cid := cid, sensor := parN c 0, ring := parN c 2, left := parN c 1 }] })) ∧
  (∀ (t m : Nat) (g : Fin 16) (s : State), s.vis.pulses[g] = some m →
    (m + 1000 ≤ (advance t s).now → Machine.exec (.cameraTriggerPulseEnd t g) s = .next { advance t s with vis.pulses := s.vis.pulses.set g none }) ∧
    ((advance t s).now < m + 1000 → Machine.exec (.cameraTriggerPulseEnd t g) s = .next (advance t s))) ∧
  (∀ (t : Nat) (n : Fin 8) (f : VisFrame) (streaks : List StreakObs) (s : State), s.vis.frames.find? (fun f => f.sensor == n.val && !f.done) = some f →
    ∃ s', Machine.exec (.pipelineFrameDone t n streaks) s = .next s' ∧
      (∀ g ∈ s'.vis.frames, g.done = false ∨ ∃ v ∈ s'.vis.codes, ∃ i ∈ v.images, i.sensor = g.sensor ∧ i.frame = g.frame) ∧
      (∀ v ∈ s'.vis.codes, ∃ v0 ∈ s.vis.codes, v.rec_ = v0.rec_)))

/-- R43: only STATUS, ABORT_TAG, FIRE_PERMIT, TWIN_YIELD and ZEROISE may carry priority 3: a packet of priority 3 with another opcode passes no check of its content, so it
never takes a slot; for these five the priority stands against nothing. -/
def Obligations.UrgentOpcodesOnly : Prop :=
  (∀ (s : State) (c : Slot) (ws : List W64), c.prio = 3 →
    (c.op ≠ Op.status → c.op ≠ Op.abortTag → c.op ≠ Op.firePermit → c.op ≠ Op.twinYield → c.op ≠ Op.zeroise → contentFailure s c ws ≠ none) ∧
    (c.op = Op.status ∨ c.op = Op.abortTag ∨ c.op = Op.firePermit ∨ c.op = Op.twinYield ∨ c.op = Op.zeroise →
      contentFailure s c ws = contentFailure s { c with prio := 2 } ws)) ∧
  (∀ (s : State) (c : Slot) (ws : List W64), c.prio = 3 → (c.op ≠ Op.status ∧ c.op ≠ Op.abortTag ∧ c.op ≠ Op.firePermit ∧ c.op ≠ Op.twinYield ∧ c.op ≠ Op.zeroise) →
    (acceptOrRefuse c ws s).cmd.slots = s.cmd.slots)

/-- R100: between successive Z pulses of an encoder whose `counts_per_rev` is not zero the device counts the positions, and a count that differs from `counts_per_rev` by more
than 2 is a Z-check failure of that encoder; the first pulse only marks the place, and a zero `counts_per_rev` checks nothing. -/
def Obligations.ZPulsesCheckTheRevolution : Prop :=
  ∀ (t : Nat) (e : Fin 4) (s : State), ∃ s', Machine.exec (.encoderZPulse t e) s = .next s' ∧ s'.mot.enc[e].zPos = some s.mot.enc[e].pos ∧
    s'.mot.enc[e].pos = s.mot.enc[e].pos ∧ (∀ x : Fin 4, x ≠ e → s'.mot.enc[x] = s.mot.enc[x]) ∧
    (∀ z count, s.mot.enc[e].zPos = some z → count = (s.mot.enc[e].pos - z).natAbs → s.mot.cfg.cpr[e] ≠ 0 →
      (s.mot.cfg.cpr[e] + 2 < count ∨ count + 2 < s.mot.cfg.cpr[e] → s'.mot.enc[e].zFails = s.mot.enc[e].zFails + 1 ∧ s'.mot.enc[e].failed = true) ∧
      (count ≤ s.mot.cfg.cpr[e] + 2 → s.mot.cfg.cpr[e] ≤ count + 2 → s'.mot.enc[e].zFails = s.mot.enc[e].zFails ∧ s'.mot.enc[e].failed = s.mot.enc[e].failed)) ∧
    (s.mot.enc[e].zPos = none ∨ s.mot.cfg.cpr[e] = 0 → s'.mot.enc[e].zFails = s.mot.enc[e].zFails ∧ s'.mot.enc[e].failed = s.mot.enc[e].failed)

/-- R104: an accepted detect at line D makes the input ignore, and count, the further edges whose detect line lies in [D, D + `blank_lines`). -/
def Obligations.BlankedEdgesAreIgnored : Prop :=
  ∀ (t m line : Nat) (n : Fin 8) (cfg : PdCfg) (s : State), s.mot.pds[n].burst = some m → cfg = pdSettings s.mot.pds[n] m →
    s.mot.pds[n].lastAt + cfg.debounce ≤ (advance t s).now → line = lineAt s m → s.mot.pds[n].behind = false →
    cfg.enable = true → s.mot.pds[n].level ≠ s.mot.pds[n].held → s.mot.pds[n].level = !cfg.falling →
    (∀ d, s.mot.pds[n].blankAt = some d → d ≤ line → line < d + cfg.blank →
      ∃ s', Machine.exec (.detectAccept t n) s = .next s' ∧ s'.mot.pds[n].ignored = s.mot.pds[n].ignored + 1 ∧ s'.mot.pds[n].blankAt = some d ∧
        s'.mot.pds[n].counted = s.mot.pds[n].counted ∧ s'.mot.nextProd = s.mot.nextProd ∧ s'.prod.queue.length = s.prod.queue.length) ∧
    ((∀ d, s.mot.pds[n].blankAt = some d → line < d ∨ d + cfg.blank ≤ line) →
      ∃ s', Machine.exec (.detectAccept t n) s = .next s' ∧ s'.mot.pds[n].blankAt = some line ∧ s'.mot.pds[n].ignored = s.mot.pds[n].ignored)

/-- Every command and event ends its step in a next state: the model raises no fault and refuses nothing, at any operands and in any state. -/
def Obligations.EveryCommandAnswers : Prop :=
  ∀ (i : Instr) (s : State), ∃ t, Machine.exec i s = .next t

/-- What the machine holds right after reset (R529, with the values that log entries 1 and 16 name where the spec gives none): no command waits or is outstanding, no session,
job or product, nothing in the Well, every output released, boot at stage 0 with only AON on, an unbound twin unit, and a free clock. -/
def Obligations.ResetHoldsNothing : Prop :=
  State.reset.pending = [] ∧ State.reset.cmd.slots = [] ∧ State.reset.cmd.sessions = [] ∧ State.reset.prod.queue = [] ∧ State.reset.well.mem = [] ∧
    OutputsReleased State.reset ∧ State.reset.pwr.stage = 0 ∧ State.reset.pwr.ready = false ∧ (∀ d : Fin 12, domOn State.reset d = decide (d = 0)) ∧
    State.reset.job.active = none ∧ State.reset.twn.role = .unbound ∧ State.reset.time.clk.state = .free

/-- The invariants that every step keeps hold right after reset. -/
def Obligations.InvariantsHoldAtReset : Prop :=
MemoryCanonical State.reset ∧ SlotsInOrder State.reset

/-- Every step keeps the canonical form of the Well's contents: addresses rise, and no byte is listed that reads as an unlisted one would. -/
def Obligations.StepsKeepMemoryCanonical : Prop :=
  ∀ s t : State, MemoryCanonical s → Machine.step s = .next t → MemoryCanonical t

/-- Every step keeps the command slots in order (R41, R42): at most 64 commands are outstanding, in the order of their acceptance numbers, each below the next number to be
given. -/
def Obligations.StepsKeepSlotsInOrder : Prop :=
  ∀ s t : State, SlotsInOrder s → Machine.step s = .next t → SlotsInOrder t

/-- Nothing goes back: a step takes the front command and no other off the queue, elapsed time does not fall, an acceptance number is never given again (R41), and no index of
a free value is used twice. -/
def Obligations.StepsNeverGoBack : Prop :=
  ∀ s t : State, Machine.step s = .next t → t.pending = s.pending.tail ∧ s.now ≤ t.now ∧ s.cmd.nextCid ≤ t.cmd.nextCid ∧ s.fresh ≤ t.fresh
end

