-- ==== Sys2Proof/Laws/Keeps.lean ====
section
/-!
SUPPORT. The relation that every operation keeps, the laws of the Well's memory and of the slots, and the shared operations, time, jobs and gates: each operation from a state keeps it.
-/
namespace Sys2Proof.Machine

/-- What every operation keeps, over the fields it speaks of: the queue as it was, time not behind, a canonical Well canonical, slots in order in order, and the
acceptance numbers and the free-value counter not behind. -/
def Kept (s : State) (p : List Instr) (n : Nat) (m : List Host.Cell) (l : List Slot) (c f : Nat) : Prop :=
  p = s.pending ∧ s.now ≤ n ∧ (Memory.wf s.well.mem = true → Memory.wf m = true) ∧ (SlotsOk s.cmd.slots s.cmd.nextCid → SlotsOk l c) ∧ s.cmd.nextCid ≤ c ∧ s.fresh ≤ f
/-- Every operation from `s` to `t` keeps the queue, the invariants and the rising counters. -/
def Keeps (s t : State) : Prop := Kept s t.pending t.now t.well.mem t.cmd.slots t.cmd.nextCid t.fresh
/-- A step's next state keeps them. -/
def KeepsO (r : State) : Host.Outcome State Fault Refusal → Prop
  | .next t => Keeps r t
  | _ => True
theorem KeepsO.next {r t : State} (h : Keeps r t) : KeepsO r (.next t) := h
theorem Keeps.refl (s : State) : Keeps s s := ⟨rfl, Nat.le_refl _, id, id, Nat.le_refl _, Nat.le_refl _⟩
theorem Keeps.foldl {α : Type} {r s : State} {l : List α} {g : State → α → State} (h : Keeps r s) (k : ∀ x a, Keeps r x → Keeps r (g x a)) :
    Keeps r (l.foldl g s) := by
  induction l generalizing s with
  | nil => exact h
  | cons a l ih => exact ih (k _ _ h)
theorem Keeps.ofPair {α : Type} {r s' : State} {p : α × State} {n : α} (e : p = (n, s')) (h : Keeps r p.2) : Keeps r s' := by
  subst e; exact h
/-- Slots may change but for their acceptance numbers, or leave; acceptance numbers may go on. -/
theorem SlotsOk.map {l : List Slot} {n : Nat} {f : Slot → Slot} (hf : ∀ x, (f x).cid = x.cid) (h : SlotsOk l n) : SlotsOk (l.map f) n := by
  obtain ⟨a, b, c⟩ := h
  refine ⟨by simpa using a, ?_, ?_⟩
  · rw [List.pairwise_map]; simpa [hf] using b
  · intro x hx; obtain ⟨y, hy, rfl⟩ := List.mem_map.1 hx; rw [hf]; exact c y hy
theorem SlotsOk.filter {l : List Slot} {n : Nat} {p : Slot → Bool} (h : SlotsOk l n) : SlotsOk (l.filter p) n :=
  ⟨Nat.le_trans (List.length_filter_le _ _) h.1, h.2.1.filter _, fun c hc => h.2.2 c ((List.mem_filter.1 hc).1)⟩
theorem SlotsOk.next {l : List Slot} {n m : Nat} (h : SlotsOk l n) (hm : n ≤ m) : SlotsOk l m :=
  ⟨h.1, h.2.1, fun c hc => Nat.lt_of_lt_of_le (h.2.2 c hc) hm⟩
theorem SlotsOk.add {l : List Slot} {n : Nat} {c : Slot} (h : SlotsOk l n) (hl : l.length < 64) (hc : c.cid = n) : SlotsOk (l ++ [c]) (n + 1) := by
  refine ⟨by simp; omega, ?_, ?_⟩
  · rw [List.pairwise_append]
    exact ⟨h.2.1, by simp, fun a ha b hb => by simp at hb; subst hb; rw [hc]; exact h.2.2 a ha⟩
  · intro x hx
    rcases List.mem_append.1 hx with h1 | h1
    · exact Nat.lt_succ_of_lt (h.2.2 x h1)
    · simp at h1; subst h1; omega
theorem SlotsOk.nil (n : Nat) : SlotsOk [] n := ⟨by simp, by simp, by simp⟩
theorem Kept.next {r : State} {p n m l c f} (h : Kept r p n m l c f) : Kept r p n m l (c + 1) f :=
  ⟨h.1, h.2.1, h.2.2.1, fun w => (h.2.2.2.1 w).next (Nat.le_succ _), Nat.le_succ_of_le h.2.2.2.2.1, h.2.2.2.2.2⟩
theorem Kept.drew {r : State} {p n m l c f k} (h : Kept r p n m l c f) : Kept r p n m l c (f + k) :=
  ⟨h.1, h.2.1, h.2.2.1, h.2.2.2.1, h.2.2.2.2.1, Nat.le_trans h.2.2.2.2.2 (Nat.le_add_right _ _)⟩
theorem Memory.wfFrom_mono {m : List Host.Cell} : ∀ {a b : Nat}, a ≤ b → Memory.wfFrom b m = true → Memory.wfFrom a m = true := by
  intro a b hab h
  cases m with
  | nil => rfl
  | cons x xs =>
    simp only [Memory.wfFrom, Bool.and_eq_true, decide_eq_true_eq] at h ⊢
    exact ⟨⟨Nat.le_trans hab h.1.1, h.1.2⟩, h.2⟩
theorem Memory.wfFrom_write {m : List Host.Cell} : ∀ {lo x : Nat} {v : Byte}, lo ≤ x → Memory.wfFrom lo m = true → Memory.wfFrom lo (Memory.write m x v) = true := by
  induction m with
  | nil =>
    intro lo x v hx _
    unfold Memory.write; split
    · rfl
    · next hv => simp [Memory.wfFrom, hx, hv]
  | cons c rest ih =>
    intro lo x v hx h
    obtain ⟨a, b⟩ := c
    simp only [Memory.wfFrom, Bool.and_eq_true, decide_eq_true_eq] at h
    unfold Memory.write
    split
    · next hlt =>
      split
      · simp only [Memory.wfFrom, Bool.and_eq_true, decide_eq_true_eq]; exact h
      · next hv =>
        simp only [Memory.wfFrom, Bool.and_eq_true, decide_eq_true_eq]
        exact ⟨⟨hx, by simpa using hv⟩, ⟨⟨by omega, h.1.2⟩, h.2⟩⟩
    · next hlt =>
      split
      · next he =>
        split
        · exact Memory.wfFrom_mono (by omega) h.2
        · next hv =>
          simp only [Memory.wfFrom, Bool.and_eq_true, decide_eq_true_eq]
          exact ⟨⟨h.1.1, by simpa using hv⟩, h.2⟩
      · next he =>
        simp only [Memory.wfFrom, Bool.and_eq_true, decide_eq_true_eq]
        exact ⟨h.1, ih (by omega) h.2⟩
theorem Memory.wf_write {m : List Host.Cell} {x : Nat} {v : Byte} (h : Memory.wf m = true) : Memory.wf (Memory.write m x v) = true :=
  Memory.wfFrom_write (Nat.zero_le _) h
theorem Memory.wf_writeAll {bs : List Byte} : ∀ {m : List Host.Cell} {x : Nat}, Memory.wf m = true → Memory.wf (Memory.writeAll m x bs) = true := by
  induction bs with
  | nil => intro m x h; exact h
  | cons v vs ih => intro m x h; exact ih (Memory.wf_write h)

/-! ### Machine/Link -/

theorem emit_keeps {r s : State} {a1} (h : Keeps r s) : Keeps r (emit a1 s) := by
  unfold emit
  repeat' first
    | with_reducible assumption
    | (unfold Keeps; dsimp only; refine (?_ : Keeps _ _))

theorem emits_keeps {r s : State} {a1} (h : Keeps r s) : Keeps r (emits a1 s) := by
  unfold emits
  repeat' first
    | with_reducible assumption
    | (unfold Keeps; dsimp only; refine (?_ : Keeps _ _))

theorem takeFresh_keeps {r s : State} (h : Keeps r s) : Keeps r (takeFresh s).2 :=
  ⟨h.1, h.2.1, h.2.2.1, h.2.2.2.1, h.2.2.2.2.1, Nat.le_succ_of_le h.2.2.2.2.2⟩

theorem modLane_keeps {r s : State} {a1 a2} (h : Keeps r s) : Keeps r (modLane a1 a2 s) := by
  unfold modLane
  repeat' first
    | with_reducible assumption
    | (extract_lets +onlyGivenNames x; clear_value x)
    | split
    | (unfold Keeps; dsimp only; refine (?_ : Keeps _ _))

theorem modLink_keeps {r s : State} {a1 a2} (h : Keeps r s) : Keeps r (modLink a1 a2 s) := by
  unfold modLink
  repeat' first
    | with_reducible assumption
    | (extract_lets +onlyGivenNames x; clear_value x)
    | split
    | (unfold Keeps; dsimp only; refine (?_ : Keeps _ _))

theorem transmit_keeps {r s : State} {a1 a2} (h : Keeps r s) : Keeps r (transmit a1 a2 s) := by
  unfold transmit
  repeat' first
    | with_reducible assumption
    | (with_reducible apply emit_keeps)
    | (with_reducible apply modLink_keeps)
    | (extract_lets +onlyGivenNames x; clear_value x)
    | split

theorem sendPort_keeps {r s : State} {a1 a2} (h : Keeps r s) : Keeps r (sendPort a1 a2 s) := by
  unfold sendPort
  repeat' first
    | with_reducible assumption
    | (with_reducible apply transmit_keeps)

theorem routePacket_keeps {r s : State} {a1 a2} (h : Keeps r s) : Keeps r (routePacket a1 a2 s) := by
  unfold routePacket
  repeat' first
    | with_reducible assumption
    | (with_reducible apply sendPort_keeps)
    | (extract_lets +onlyGivenNames x; clear_value x)
    | split
    | with_reducible refine Keeps.foldl ?_ (fun _ _ _ => ?_)
    | (unfold Keeps; dsimp only; refine (?_ : Keeps _ _))

theorem uraraSend_keeps {r s : State} {a1 a2 a3} (h : Keeps r s) : Keeps r (uraraSend a1 a2 a3 s) := by
  unfold uraraSend
  repeat' first
    | with_reducible assumption
    | (with_reducible apply routePacket_keeps)
    | (with_reducible apply emit_keeps)
    | (extract_lets +onlyGivenNames x; have hx : Keeps r x := ?_; clear_value x; rotate_left; subst x; rotate_right)
    | (extract_lets +onlyGivenNames x; clear_value x)
    | split
    | (unfold Keeps; dsimp only; refine (?_ : Keeps _ _))

/-! ### Machine/Ops -/

theorem advance_keeps {r s : State} {a1} (h : Keeps r s) : Keeps r (advance a1 s) :=
  ⟨h.1, Nat.le_trans h.2.1 (Nat.le_max_left _ _), h.2.2⟩

theorem sendVector_keeps {r s : State} {a1} (h : Keeps r s) : Keeps r (sendVector a1 s) := by
  unfold sendVector
  repeat' first
    | with_reducible assumption
    | (with_reducible apply emit_keeps)
    | (extract_lets +onlyGivenNames x; clear_value x)
    | split
    | (unfold Keeps; dsimp only; refine (?_ : Keeps _ _))

theorem setInt_keeps {r s : State} {a1} (h : Keeps r s) : Keeps r (setInt a1 s) := by
  unfold setInt
  repeat' first
    | with_reducible assumption
    | (with_reducible apply sendVector_keeps)
    | (extract_lets +onlyGivenNames x; have hx : Keeps r x := ?_; clear_value x; rotate_left; subst x; rotate_right)
    | (extract_lets +onlyGivenNames x; clear_value x)
    | split
    | (unfold Keeps; dsimp only; refine (?_ : Keeps _ _))

theorem crierPut_keeps {r s : State} {a1} (h : Keeps r s) : Keeps r (crierPut a1 s) := by
  unfold crierPut
  repeat' first
    | with_reducible assumption
    | (with_reducible apply setInt_keeps)
    | (extract_lets +onlyGivenNames x; have hx : Keeps r x := ?_; clear_value x; rotate_left; subst x; rotate_right)
    | (extract_lets +onlyGivenNames x; clear_value x)
    | split
    | (unfold Keeps; dsimp only; refine (?_ : Keeps _ _))

theorem event_keeps {r s : State} {a1 a2 a3} (h : Keeps r s) : Keeps r (event a1 a2 a3 s) := by
  unfold event
  repeat' first
    | with_reducible assumption
    | (with_reducible apply crierPut_keeps)

theorem notify_keeps {r s : State} {a1 a2} (h : Keeps r s) : Keeps r (notify a1 a2 s) := by
  unfold notify
  repeat' first
    | with_reducible assumption
    | (with_reducible apply event_keeps)

theorem dueYield_keeps {r s : State} {a1} (h : Keeps r s) : Keeps r (dueYield a1 s) := by
  unfold dueYield
  repeat' first
    | with_reducible assumption
    | (extract_lets +onlyGivenNames x; clear_value x)
    | split
    | (unfold Keeps; dsimp only; refine (?_ : Keeps _ _))

theorem deviceFault_keeps {r s : State} {a1} (h : Keeps r s) : Keeps r (deviceFault a1 s) := by
  unfold deviceFault
  repeat' first
    | with_reducible assumption
    | (with_reducible apply dueYield_keeps)
    | (extract_lets +onlyGivenNames x; clear_value x)
    | split
    | (unfold Keeps; dsimp only; refine (?_ : Keeps _ _))

theorem raise_keeps {r s : State} {a1 a2} (h : Keeps r s) : Keeps r (raise a1 a2 s) := by
  unfold raise
  repeat' first
    | with_reducible assumption
    | (with_reducible apply event_keeps)
    | (with_reducible apply deviceFault_keeps)
    | (extract_lets +onlyGivenNames x; have hx : Keeps r x := ?_; clear_value x; rotate_left; subst x; rotate_right)
    | (extract_lets +onlyGivenNames x; clear_value x)
    | split
    | (unfold Keeps; dsimp only; refine (?_ : Keeps _ _))

theorem putGranary_keeps {r s : State} {a1} (h : Keeps r s) : Keeps r (putGranary a1 s) := by
  unfold putGranary
  repeat' first
    | with_reducible assumption
    | (extract_lets +onlyGivenNames x; clear_value x)
    | (unfold Keeps; dsimp only; refine (?_ : Keeps _ _))

theorem granaryCount_keeps {r s : State} {a1 a2} (h : Keeps r s) : Keeps r (granaryCount a1 a2 s) := by
  unfold granaryCount
  repeat' first
    | with_reducible assumption
    | (with_reducible apply putGranary_keeps)

theorem granaryUse_keeps {r s : State} {a1 a2 a3 a4} (h : Keeps r s) : Keeps r (granaryUse a1 a2 a3 a4 s) := by
  unfold granaryUse
  repeat' first
    | with_reducible assumption
    | (with_reducible apply granaryCount_keeps)
    | (with_reducible apply putGranary_keeps)
    | (with_reducible apply notify_keeps)
    | (extract_lets +onlyGivenNames x; have hx : Keeps r x := ?_; clear_value x; rotate_left; subst x; rotate_right)
    | (extract_lets +onlyGivenNames x; clear_value x)
    | split

theorem mendConfig_keeps {r s : State} {a1} (h : Keeps r s) : Keeps r (mendConfig a1 s) := by
  unfold mendConfig
  repeat' first
    | with_reducible assumption
    | (extract_lets +onlyGivenNames x; clear_value x)
    | (unfold Keeps; dsimp only; refine (?_ : Keeps _ _))

theorem sendReply_keeps {r s : State} {a1 a2 a3 a4} (h : Keeps r s) : Keeps r (sendReply a1 a2 a3 a4 s) := by
  unfold sendReply
  repeat' first
    | with_reducible assumption
    | (with_reducible apply emit_keeps)
    | (with_reducible apply uraraSend_keeps)
    | (extract_lets +onlyGivenNames x; have hx : Keeps r x := ?_; clear_value x; rotate_left; subst x; rotate_right)
    | (extract_lets +onlyGivenNames x; (first | (have hw : (x : Well) = x := rfl) | (have hw : (x : Cmd) = x := rfl) | (have hw : (x : _ → State) = x := rfl) | (have hw : (x : _ → _ → State) = x := rfl) | (have hw : (x : _ → _ → _ → State) = x := rfl) | (have hw : (x : _ → _ → _ → _ → State) = x := rfl)); clear hw; subst x)
    | split
    | (unfold Keeps; dsimp only; refine (?_ : Keeps _ _))

theorem modSlot_keeps {r s : State} {a1} {a2 : Slot → Slot} (h : Keeps r s) (hf : ∀ x, (a2 x).cid = x.cid) : Keeps r (modSlot a1 a2 s) :=
  ⟨h.1, h.2.1, h.2.2.1, fun w => (h.2.2.2.1 w).map (fun x => by dsimp only; split <;> simp [hf]), h.2.2.2.2.1, h.2.2.2.2.2⟩

theorem modSession_keeps {r s : State} {a1 a2} (h : Keeps r s) : Keeps r (modSession a1 a2 s) := by
  unfold modSession
  repeat' first
    | with_reducible assumption
    | (extract_lets +onlyGivenNames x; (first | (have hw : (x : Well) = x := rfl) | (have hw : (x : Cmd) = x := rfl) | (have hw : (x : _ → State) = x := rfl) | (have hw : (x : _ → _ → State) = x := rfl) | (have hw : (x : _ → _ → _ → State) = x := rfl) | (have hw : (x : _ → _ → _ → _ → State) = x := rfl)); clear hw; subst x)
    | (unfold Keeps; dsimp only; refine (?_ : Keeps _ _))

theorem cacheReply_keeps {r s : State} {a1 a2 a3} (h : Keeps r s) : Keeps r (cacheReply a1 a2 a3 s) := by
  unfold cacheReply
  repeat' first
    | with_reducible assumption
    | (with_reducible apply modSession_keeps)

theorem endSession_keeps {r s : State} {a1} (h : Keeps r s) : Keeps r (endSession a1 s) := by
  unfold endSession
  repeat' first
    | with_reducible assumption
    | (extract_lets +onlyGivenNames x; (first | (have hw : (x : Well) = x := rfl) | (have hw : (x : Cmd) = x := rfl) | (have hw : (x : _ → State) = x := rfl) | (have hw : (x : _ → _ → State) = x := rfl) | (have hw : (x : _ → _ → _ → State) = x := rfl) | (have hw : (x : _ → _ → _ → _ → State) = x := rfl)); clear hw; subst x)
    | (unfold Keeps; dsimp only; refine (?_ : Keeps _ _))

theorem Kept.drop {r : State} {p n m l c f q} (h : Kept r p n m l c f) : Kept r p n m (l.filter q) c f :=
  ⟨h.1, h.2.1, h.2.2.1, fun w => (h.2.2.2.1 w).filter, h.2.2.2.2⟩
theorem handedOver_keeps {r s : State} {a1} (h : Keeps r s) : Keeps r (handedOver a1 s) := by
  unfold handedOver
  dsimp only
  repeat' split
  all_goals first
    | exact h
    | exact Kept.drop h
    | exact endSession_keeps (Kept.drop h)

theorem finish_keeps {r s : State} {a1 a2 a3 a4} (h : Keeps r s) : Keeps r (finish a1 a2 a3 a4 s) := by
  unfold finish
  repeat' first
    | with_reducible assumption
    | (with_reducible apply handedOver_keeps)
    | (with_reducible apply cacheReply_keeps)
    | (with_reducible refine modSlot_keeps ?_ (fun _ => rfl))
    | (with_reducible apply sendReply_keeps)
    | (extract_lets +onlyGivenNames x; have hx : Keeps r x := ?_; clear_value x; rotate_left; subst x; rotate_right)
    | (extract_lets +onlyGivenNames x; clear_value x)
    | split

theorem done_keeps {r s : State} {a1} (h : Keeps r s) : Keeps r (done a1 s) := by
  unfold done
  repeat' first
    | with_reducible assumption
    | (with_reducible apply finish_keeps)

theorem answer_keeps {r s : State} {a1 a2} (h : Keeps r s) : Keeps r (answer a1 a2 s) := by
  unfold answer
  repeat' first
    | with_reducible assumption
    | (with_reducible apply finish_keeps)

theorem refuse_keeps {r s : State} {a1 a2} (h : Keeps r s) : Keeps r (refuse a1 a2 s) := by
  unfold refuse
  repeat' first
    | with_reducible assumption
    | (with_reducible apply finish_keeps)

theorem failWith_keeps {r s : State} {a1 a2 a3} (h : Keeps r s) : Keeps r (failWith a1 a2 a3 s) := by
  unfold failWith
  repeat' first
    | with_reducible assumption
    | (with_reducible apply finish_keeps)

theorem startCmd_keeps {r s t : State} {op cid} {c : Slot} (h : Keeps r s) (e : startCmd op cid s = some (c, t)) : Keeps r t := by
  unfold startCmd at e
  split at e
  · cases e
  · split at e
    · simp only [Option.some.injEq, Prod.mk.injEq] at e; obtain ⟨_, rfl⟩ := e; exact modSlot_keeps h (fun _ => rfl)
    · cases e
theorem onStart_keeps {r s : State} {a1 a2 a3} {a4 : Slot → State → State} (h : Keeps r s)
    (k4 : ∀ {y1 x}, Keeps r x → Keeps r (a4 y1 x)) : KeepsO r (onStart a1 a2 a3 a4 s) := by
  unfold onStart
  refine KeepsO.next ?_
  split
  · exact advance_keeps h
  · exact k4 (startCmd_keeps (advance_keeps h) (by assumption))

theorem onEvent_keeps {r s : State} {a1 a2} (h : Keeps r s) (k2 : ∀ x, Keeps r x → Keeps r (a2 x)) : KeepsO r (onEvent a1 a2 s) := by
  unfold onEvent
  repeat' first
    | with_reducible assumption
    | (with_reducible apply advance_keeps)
    | (with_reducible apply k2)
    | (with_reducible refine KeepsO.next ?_)

theorem queueUnits_keeps {r s : State} {a1 a2} (h : Keeps r s) : Keeps r (queueUnits a1 a2 s) := by
  unfold queueUnits
  repeat' first
    | with_reducible assumption
    | (extract_lets +onlyGivenNames x; clear_value x)
    | split
    | (unfold Keeps; dsimp only; refine (?_ : Keeps _ _))

theorem outputOn_keeps {r s : State} {a1 a2 a3} (h : Keeps r s) : Keeps r (outputOn a1 a2 a3 s) := by
  unfold outputOn
  repeat' first
    | with_reducible assumption
    | (with_reducible apply queueUnits_keeps)

/-! ### Machine/Memory -/

theorem modChan_keeps {r s : State} {a1 a2} (h : Keeps r s) : Keeps r (modChan a1 a2 s) := by
  unfold modChan
  repeat' first
    | with_reducible assumption
    | (extract_lets +onlyGivenNames x; (first | (have hw : (x : Well) = x := rfl) | (have hw : (x : Cmd) = x := rfl) | (have hw : (x : _ → State) = x := rfl) | (have hw : (x : _ → _ → State) = x := rfl) | (have hw : (x : _ → _ → _ → State) = x := rfl) | (have hw : (x : _ → _ → _ → _ → State) = x := rfl)); clear hw; subst x)
    | (unfold Keeps; dsimp only; refine (?_ : Keeps _ _))

theorem badBurst_keeps {r s : State} {a1} (h : Keeps r s) : Keeps r (badBurst a1 s) := by
  unfold badBurst
  repeat' first
    | with_reducible assumption
    | (with_reducible apply raise_keeps)
    | (with_reducible apply modChan_keeps)

theorem wellBad_keeps {r s : State} {a1 a2} (h : Keeps r s) : Keeps r (wellBad a1 a2 s) := by
  unfold wellBad
  repeat' first
    | with_reducible assumption
    | (with_reducible apply badBurst_keeps)

theorem countPoison_keeps {r s : State} {a1} (h : Keeps r s) : Keeps r (countPoison a1 s) := by
  unfold countPoison
  repeat' first
    | with_reducible assumption
    | (with_reducible apply modChan_keeps)
    | with_reducible refine Keeps.foldl ?_ (fun _ _ _ => ?_)

theorem wellWrite_keeps {r s : State} {a1 a2} (h : Keeps r s) : Keeps r (wellWrite a1 a2 s) := by
  unfold wellWrite
  apply countPoison_keeps
  exact ⟨h.1, h.2.1, fun w => Memory.wf_writeAll (h.2.2.1 w), h.2.2.2⟩

theorem withObject_keeps {r s : State} {a1 a2 a3 a4} (h : Keeps r s) (k4 : ∀ y1 x, Keeps r x → Keeps r (a4 y1 x)) : Keeps r (withObject a1 a2 a3 a4 s) := by
  unfold withObject
  repeat' first
    | with_reducible assumption
    | (with_reducible apply refuse_keeps)
    | (with_reducible apply failWith_keeps)
    | (with_reducible apply wellBad_keeps)
    | (with_reducible apply k4)
    | split

theorem withRange_keeps {r s : State} {a1 a2 a3 a4} (h : Keeps r s) (k4 : ∀ x, Keeps r x → Keeps r (a4 x)) : Keeps r (withRange a1 a2 a3 a4 s) := by
  unfold withRange
  repeat' first
    | with_reducible assumption
    | (with_reducible apply refuse_keeps)
    | (with_reducible apply k4)
    | split

/-! ### Machine/TimeKeeping -/

theorem modClk_keeps {r s : State} {a1} (h : Keeps r s) : Keeps r (modClk a1 s) := by
  unfold modClk
  repeat' first
    | with_reducible assumption
    | (extract_lets +onlyGivenNames x; clear_value x)
    | (unfold Keeps; dsimp only; refine (?_ : Keeps _ _))

theorem modDom_keeps {r s : State} {a1 a2} (h : Keeps r s) : Keeps r (modDom a1 a2 s) := by
  unfold modDom
  repeat' first
    | with_reducible assumption
    | (extract_lets +onlyGivenNames x; clear_value x)
    | (unfold Keeps; dsimp only; refine (?_ : Keeps _ _))

theorem steer_keeps {r s : State} {a1 a2} (h : Keeps r s) : Keeps r (steer a1 a2 s) := by
  unfold steer
  repeat' first
    | with_reducible assumption
    | (with_reducible apply modClk_keeps)
    | (with_reducible apply raise_keeps)
    | (extract_lets +onlyGivenNames x; have hx : Keeps r x := ?_; clear_value x; rotate_left; subst x; rotate_right)
    | (extract_lets +onlyGivenNames x; clear_value x)
    | split

theorem enterHoldover_keeps {r s : State} {a1 a2} (h : Keeps r s) : Keeps r (enterHoldover a1 a2 s) := by
  unfold enterHoldover
  repeat' first
    | with_reducible assumption
    | (with_reducible apply modClk_keeps)
    | (with_reducible apply notify_keeps)

theorem follow_keeps {r s : State} {a1} (h : Keeps r s) : Keeps r (follow a1 s) := by
  unfold follow
  repeat' first
    | with_reducible assumption
    | (with_reducible apply modClk_keeps)

theorem switchTo_keeps {r s : State} {a1} (h : Keeps r s) : Keeps r (switchTo a1 s) := by
  unfold switchTo
  repeat' first
    | with_reducible assumption
    | (with_reducible apply notify_keeps)
    | (with_reducible apply follow_keeps)

theorem followedFailed_keeps {r s : State} {a1} (h : Keeps r s) : Keeps r (followedFailed a1 s) := by
  unfold followedFailed
  repeat' first
    | with_reducible assumption
    | (with_reducible apply switchTo_keeps)
    | (with_reducible apply enterHoldover_keeps)
    | split

theorem holdoverFollow_keeps {r s : State} (h : Keeps r s) : Keeps r (holdoverFollow s) := by
  unfold holdoverFollow
  repeat' first
    | with_reducible assumption
    | (with_reducible apply switchTo_keeps)
    | (extract_lets +onlyGivenNames x; clear_value x)
    | split

theorem firstFollow_keeps {r s : State} {a1} (h : Keeps r s) : Keeps r (firstFollow a1 s) := by
  unfold firstFollow
  repeat' first
    | with_reducible assumption
    | (with_reducible apply modClk_keeps)
    | (with_reducible apply follow_keeps)
    | (with_reducible apply modDom_keeps)
    | (with_reducible apply notify_keeps)
    | (extract_lets +onlyGivenNames x; have hx : Keeps r x := ?_; clear_value x; rotate_left; subst x; rotate_right)
    | (extract_lets +onlyGivenNames x; clear_value x)
    | split

theorem followSample_keeps {r s : State} {a1} (h : Keeps r s) : Keeps r (followSample a1 s) := by
  unfold followSample
  repeat' first
    | with_reducible assumption
    | (with_reducible apply modClk_keeps)
    | (with_reducible apply steer_keeps)
    | (extract_lets +onlyGivenNames x; have hx : Keeps r x := ?_; clear_value x; rotate_left; subst x; rotate_right)
    | split

theorem noteAgreement_keeps {r s : State} (h : Keeps r s) : Keeps r (noteAgreement s) := by
  unfold noteAgreement
  repeat' first
    | with_reducible assumption
    | (with_reducible apply modDom_keeps)
    | (with_reducible apply modClk_keeps)
    | (extract_lets +onlyGivenNames x; have hx : Keeps r x := ?_; clear_value x; rotate_left; subst x; rotate_right)
    | (extract_lets +onlyGivenNames x; clear_value x)
    | split

theorem sample_keeps {r s : State} {a1 a2} (h : Keeps r s) : Keeps r (sample a1 a2 s) := by
  unfold sample
  repeat' first
    | with_reducible assumption
    | (with_reducible apply modDom_keeps)
    | (with_reducible apply noteAgreement_keeps)
    | (with_reducible apply holdoverFollow_keeps)
    | (with_reducible apply followedFailed_keeps)
    | (with_reducible apply raise_keeps)
    | (with_reducible apply followSample_keeps)
    | (with_reducible apply firstFollow_keeps)
    | (extract_lets +onlyGivenNames x; have hx : Keeps r x := ?_; clear_value x; rotate_left; subst x; rotate_right)
    | (extract_lets +onlyGivenNames x; clear_value x)
    | split

theorem completeSync_keeps {r s : State} {a1} (h : Keeps r s) : Keeps r (completeSync a1 s) := by
  unfold completeSync
  repeat' first
    | with_reducible assumption
    | (with_reducible apply modDom_keeps)
    | (with_reducible apply sample_keeps)
    | (extract_lets +onlyGivenNames x; have hx : Keeps r x := ?_; clear_value x; rotate_left; subst x; rotate_right)
    | split

theorem execPtpSyncReceive_keeps {r s : State} {a1 a2 a3 a4 a5 a6 a7} (h : Keeps r s) : KeepsO r (execPtpSyncReceive a1 a2 a3 a4 a5 a6 a7 s) := by
  unfold execPtpSyncReceive
  repeat' first
    | with_reducible assumption
    | (intro _)
    | (with_reducible apply onEvent_keeps)
    | (with_reducible apply modDom_keeps)
    | (with_reducible apply completeSync_keeps)
    | (extract_lets +onlyGivenNames x; have hx : Keeps r x := ?_; clear_value x; rotate_left; subst x; rotate_right)
    | split

theorem execPtpFollowUpReceive_keeps {r s : State} {a1 a2 a3 a4 a5} (h : Keeps r s) : KeepsO r (execPtpFollowUpReceive a1 a2 a3 a4 a5 s) := by
  unfold execPtpFollowUpReceive
  repeat' first
    | with_reducible assumption
    | (intro _)
    | (with_reducible apply onEvent_keeps)
    | (with_reducible apply completeSync_keeps)
    | (with_reducible apply modDom_keeps)
    | split

theorem execPtpAnnounceReceive_keeps {r s : State} {a1 a2 a3} (h : Keeps r s) : KeepsO r (execPtpAnnounceReceive a1 a2 a3 s) := by
  unfold execPtpAnnounceReceive
  repeat' first
    | with_reducible assumption
    | (intro _)
    | (with_reducible apply onEvent_keeps)
    | (with_reducible apply modDom_keeps)
    | (extract_lets +onlyGivenNames x; have hx : Keeps r x := ?_; clear_value x; rotate_left; subst x; rotate_right)
    | (extract_lets +onlyGivenNames x; clear_value x)
    | split
    | (unfold Keeps; dsimp only; refine (?_ : Keeps _ _))

theorem execPtpDelayReqSend_keeps {r s : State} {a1 a2 a3 a4} (h : Keeps r s) : KeepsO r (execPtpDelayReqSend a1 a2 a3 a4 s) := by
  unfold execPtpDelayReqSend
  repeat' first
    | with_reducible assumption
    | (intro _)
    | (with_reducible apply onEvent_keeps)
    | (with_reducible apply emit_keeps)
    | (with_reducible apply modDom_keeps)
    | (extract_lets +onlyGivenNames x; have hx : Keeps r x := ?_; clear_value x; rotate_left; subst x; rotate_right)
    | split

theorem freeze_keeps {r s : State} {a1} (h : Keeps r s) : Keeps r (freeze a1 s) := by
  unfold freeze
  repeat' first
    | with_reducible assumption
    | (with_reducible apply modDom_keeps)

theorem execPtpDelayRespReceive_keeps {r s : State} {a1 a2 a3 a4 a5} (h : Keeps r s) : KeepsO r (execPtpDelayRespReceive a1 a2 a3 a4 a5 s) := by
  unfold execPtpDelayRespReceive
  repeat' first
    | with_reducible assumption
    | (intro _)
    | (with_reducible apply onEvent_keeps)
    | (with_reducible apply modDom_keeps)
    | (with_reducible apply raise_keeps)
    | (with_reducible apply freeze_keeps)
    | (extract_lets +onlyGivenNames x; have hx : Keeps r x := ?_; clear_value x; rotate_left; subst x; rotate_right)
    | (extract_lets +onlyGivenNames x; clear_value x)
    | split

theorem execPtpDomainTimeout_keeps {r s : State} {a1 a2} (h : Keeps r s) : KeepsO r (execPtpDomainTimeout a1 a2 s) := by
  unfold execPtpDomainTimeout
  repeat' first
    | with_reducible assumption
    | (intro _)
    | (with_reducible apply onEvent_keeps)
    | (with_reducible apply modDom_keeps)
    | (with_reducible apply noteAgreement_keeps)
    | (with_reducible apply holdoverFollow_keeps)
    | (with_reducible apply followedFailed_keeps)
    | (extract_lets +onlyGivenNames x; have hx : Keeps r x := ?_; clear_value x; rotate_left; subst x; rotate_right)
    | (extract_lets +onlyGivenNames x; clear_value x)
    | split

theorem execFrozenGuardExpiry_keeps {r s : State} {a1 a2} (h : Keeps r s) : KeepsO r (execFrozenGuardExpiry a1 a2 s) := by
  unfold execFrozenGuardExpiry
  repeat' first
    | with_reducible assumption
    | (intro _)
    | (with_reducible apply onEvent_keeps)
    | (with_reducible apply modDom_keeps)
    | (extract_lets +onlyGivenNames x; clear_value x)
    | split

theorem execFaultyDomainRecover_keeps {r s : State} {a1 a2} (h : Keeps r s) : KeepsO r (execFaultyDomainRecover a1 a2 s) := by
  unfold execFaultyDomainRecover
  repeat' first
    | with_reducible assumption
    | (intro _)
    | (with_reducible apply onEvent_keeps)
    | (with_reducible apply modDom_keeps)
    | split

theorem execPreferredDomainReturn_keeps {r s : State} {a1} (h : Keeps r s) : KeepsO r (execPreferredDomainReturn a1 s) := by
  unfold execPreferredDomainReturn
  repeat' first
    | with_reducible assumption
    | (intro _)
    | (with_reducible apply onEvent_keeps)
    | (with_reducible apply switchTo_keeps)
    | (extract_lets +onlyGivenNames x; clear_value x)
    | split

theorem arbitrate_keeps {r s : State} {a1 a2} (h : Keeps r s) : Keeps r (arbitrate a1 a2 s) := by
  unfold arbitrate
  repeat' first
    | with_reducible assumption
    | (with_reducible apply followedFailed_keeps)
    | (with_reducible apply modDom_keeps)
    | split

theorem execTimeDisagree_keeps {r s : State} {a1} (h : Keeps r s) : KeepsO r (execTimeDisagree a1 s) := by
  unfold execTimeDisagree
  repeat' first
    | with_reducible assumption
    | (intro _)
    | (with_reducible apply onEvent_keeps)
    | (with_reducible apply raise_keeps)
    | (with_reducible apply modClk_keeps)
    | (with_reducible apply arbitrate_keeps)
    | (extract_lets +onlyGivenNames x; have hx : Keeps r x := ?_; clear_value x; rotate_left; subst x; rotate_right)
    | (extract_lets +onlyGivenNames x; clear_value x)
    | split

theorem execTimeErrHigh_keeps {r s : State} {a1} (h : Keeps r s) : KeepsO r (execTimeErrHigh a1 s) := by
  unfold execTimeErrHigh
  repeat' first
    | with_reducible assumption
    | (intro _)
    | (with_reducible apply onEvent_keeps)
    | (with_reducible apply raise_keeps)
    | (with_reducible apply modClk_keeps)
    | split

theorem execLeapSecond_keeps {r s : State} {a1} (h : Keeps r s) : KeepsO r (execLeapSecond a1 s) := by
  unfold execLeapSecond
  repeat' first
    | with_reducible assumption
    | (intro _)
    | (with_reducible apply onEvent_keeps)
    | (extract_lets +onlyGivenNames x; clear_value x)
    | split
    | (unfold Keeps; dsimp only; refine (?_ : Keeps _ _))

theorem saveFloor_keeps {r s : State} (h : Keeps r s) : Keeps r (saveFloor s) := by
  unfold saveFloor
  repeat' first
    | with_reducible assumption
    | (with_reducible apply modClk_keeps)

theorem execTimeFloorSave_keeps {r s : State} {a1} (h : Keeps r s) : KeepsO r (execTimeFloorSave a1 s) := by
  unfold execTimeFloorSave
  repeat' first
    | with_reducible assumption
    | (intro _)
    | (with_reducible apply onEvent_keeps)
    | (with_reducible apply saveFloor_keeps)
    | (extract_lets +onlyGivenNames x; have hx : Keeps r x := ?_; clear_value x; rotate_left; subst x; rotate_right)
    | (extract_lets +onlyGivenNames x; clear_value x)
    | split
    | (unfold Keeps; dsimp only; refine (?_ : Keeps _ _))

theorem timeSetStep_keeps {r s : State} {a1} (h : Keeps r s) : Keeps r (timeSetStep a1 s) := by
  unfold timeSetStep
  repeat' first
    | with_reducible assumption
    | (with_reducible apply modClk_keeps)
    | (with_reducible apply notify_keeps)
    | (with_reducible apply enterHoldover_keeps)

theorem ppsSetStep_keeps {r s : State} {a1} (h : Keeps r s) : Keeps r (ppsSetStep a1 s) := by
  unfold ppsSetStep
  repeat' first
    | with_reducible assumption
    | (with_reducible apply modClk_keeps)
    | (with_reducible apply finish_keeps)
    | (with_reducible apply timeSetStep_keeps)
    | (extract_lets +onlyGivenNames x; have hx : Keeps r x := ?_; clear_value x; rotate_left; subst x; rotate_right)
    | (extract_lets +onlyGivenNames x; clear_value x)
    | split

theorem ppsDiscipline_keeps {r s : State} {a1} (h : Keeps r s) : Keeps r (ppsDiscipline a1 s) := by
  unfold ppsDiscipline
  repeat' first
    | with_reducible assumption
    | (with_reducible apply modClk_keeps)
    | (with_reducible apply steer_keeps)
    | (extract_lets +onlyGivenNames x; have hx : Keeps r x := ?_; clear_value x; rotate_left; subst x; rotate_right)
    | split

theorem execPpsInEdge_keeps {r s : State} {a1 a2 a3} (h : Keeps r s) : KeepsO r (execPpsInEdge a1 a2 a3 s) := by
  unfold execPpsInEdge
  repeat' first
    | with_reducible assumption
    | (intro _)
    | (with_reducible apply onEvent_keeps)
    | (with_reducible apply ppsDiscipline_keeps)
    | (with_reducible apply ppsSetStep_keeps)
    | (extract_lets +onlyGivenNames x; have hx : Keeps r x := ?_; clear_value x; rotate_left; subst x; rotate_right)
    | (extract_lets +onlyGivenNames x; clear_value x)
    | split
    | (unfold Keeps; dsimp only; refine (?_ : Keeps _ _))

theorem execPpsInLost_keeps {r s : State} {a1 a2} (h : Keeps r s) : KeepsO r (execPpsInLost a1 a2 s) := by
  unfold execPpsInLost
  repeat' first
    | with_reducible assumption
    | (intro _)
    | (with_reducible apply onEvent_keeps)
    | (with_reducible apply raise_keeps)
    | (with_reducible apply modClk_keeps)
    | (extract_lets +onlyGivenNames x; have hx : Keeps r x := ?_; clear_value x; rotate_left; subst x; rotate_right)
    | (extract_lets +onlyGivenNames x; clear_value x)
    | split
    | (unfold Keeps; dsimp only; refine (?_ : Keeps _ _))

theorem execPpsOutPulse_keeps {r s : State} {a1 a2} (h : Keeps r s) : KeepsO r (execPpsOutPulse a1 a2 s) := by
  unfold execPpsOutPulse
  repeat' first
    | with_reducible assumption
    | (intro _)
    | (with_reducible apply onEvent_keeps)
    | (extract_lets +onlyGivenNames x; clear_value x)
    | split
    | (unfold Keeps; dsimp only; refine (?_ : Keeps _ _))

theorem execPpsOutPulseEnd_keeps {r s : State} {a1 a2} (h : Keeps r s) : KeepsO r (execPpsOutPulseEnd a1 a2 s) := by
  unfold execPpsOutPulseEnd
  repeat' first
    | with_reducible assumption
    | (intro _)
    | (with_reducible apply onEvent_keeps)
    | (extract_lets +onlyGivenNames x; clear_value x)
    | split
    | (unfold Keeps; dsimp only; refine (?_ : Keeps _ _))

theorem execPpsConfig_keeps {r s : State} {a1 a2} (h : Keeps r s) : KeepsO r (execPpsConfig a1 a2 s) := by
  unfold execPpsConfig
  repeat' first
    | with_reducible assumption
    | (intro _)
    | (with_reducible apply onStart_keeps)
    | (with_reducible apply refuse_keeps)
    | (with_reducible apply done_keeps)
    | (extract_lets +onlyGivenNames x; clear_value x)
    | split
    | (unfold Keeps; dsimp only; refine (?_ : Keeps _ _))

theorem execTimeRead_keeps {r s : State} {a1 a2} (h : Keeps r s) : KeepsO r (execTimeRead a1 a2 s) := by
  unfold execTimeRead
  repeat' first
    | with_reducible assumption
    | (intro _)
    | (with_reducible apply onStart_keeps)
    | (with_reducible apply answer_keeps)

theorem execTimeSelect_keeps {r s : State} {a1 a2} (h : Keeps r s) : KeepsO r (execTimeSelect a1 a2 s) := by
  unfold execTimeSelect
  repeat' first
    | with_reducible assumption
    | (intro _)
    | (with_reducible apply onStart_keeps)
    | (with_reducible apply refuse_keeps)
    | (with_reducible apply modClk_keeps)
    | (with_reducible apply switchTo_keeps)
    | (with_reducible apply done_keeps)
    | (extract_lets +onlyGivenNames x; have hx : Keeps r x := ?_; clear_value x; rotate_left; subst x; rotate_right)
    | (extract_lets +onlyGivenNames x; clear_value x)
    | split

theorem execTimeSet_keeps {r s : State} {a1 a2} (h : Keeps r s) : KeepsO r (execTimeSet a1 a2 s) := by
  unfold execTimeSet
  repeat' first
    | with_reducible assumption
    | (intro _)
    | (with_reducible apply onStart_keeps)
    | (with_reducible apply refuse_keeps)
    | (with_reducible apply modClk_keeps)
    | (with_reducible apply done_keeps)
    | (with_reducible apply timeSetStep_keeps)
    | (extract_lets +onlyGivenNames x; clear_value x)
    | split

theorem ptpDomain_keeps {r s : State} {a1 a2 a3 a4 a5 a6} (h : Keeps r s) : Keeps r (ptpDomain a1 a2 a3 a4 a5 a6 s) := by
  unfold ptpDomain
  repeat' first
    | with_reducible assumption
    | (with_reducible apply followedFailed_keeps)
    | (with_reducible apply modDom_keeps)
    | (with_reducible apply freeze_keeps)
    | (extract_lets +onlyGivenNames x; have hx : Keeps r x := ?_; clear_value x; rotate_left; subst x; rotate_right)
    | (extract_lets +onlyGivenNames x; clear_value x)
    | split
    | (unfold Keeps; dsimp only; refine (?_ : Keeps _ _))

theorem execPtpConfig_keeps {r s : State} {a1 a2} (h : Keeps r s) : KeepsO r (execPtpConfig a1 a2 s) := by
  unfold execPtpConfig
  repeat' first
    | with_reducible assumption
    | (intro _)
    | (with_reducible apply onStart_keeps)
    | (with_reducible apply refuse_keeps)
    | (with_reducible apply ptpDomain_keeps)
    | (with_reducible apply done_keeps)
    | (with_reducible apply noteAgreement_keeps)
    | (with_reducible apply holdoverFollow_keeps)
    | (extract_lets +onlyGivenNames x; have hx : Keeps r x := ?_; clear_value x; rotate_left; subst x; rotate_right)
    | (extract_lets +onlyGivenNames x; clear_value x)
    | split
    | (unfold Keeps; dsimp only; refine (?_ : Keeps _ _))

theorem restartDom_keeps {r s : State} {a1} (h : Keeps r s) : Keeps r (restartDom a1 s) := by
  unfold restartDom
  repeat' first
    | with_reducible assumption
    | (with_reducible apply modDom_keeps)

theorem clockNetOff_keeps {r s : State} (h : Keeps r s) : Keeps r (clockNetOff s) := by
  unfold clockNetOff
  repeat' first
    | with_reducible assumption
    | (with_reducible apply restartDom_keeps)
    | (with_reducible apply enterHoldover_keeps)
    | (extract_lets +onlyGivenNames x; have hx : Keeps r x := ?_; clear_value x; rotate_left; subst x; rotate_right)
    | split
    | with_reducible refine Keeps.foldl ?_ (fun _ _ _ => ?_)

theorem clockBoot_keeps {r s : State} {a1 a2} (h : Keeps r s) : Keeps r (clockBoot a1 a2 s) := by
  unfold clockBoot
  repeat' first
    | with_reducible assumption
    | (with_reducible apply modClk_keeps)
    | (extract_lets +onlyGivenNames x; clear_value x)
    | split

/-! ### Machine/Jobs -/

theorem checkTile_keeps {r s : State} {a1 a2} (h : Keeps r s) : Keeps r (checkTile a1 a2 s).2 := by
  unfold checkTile
  repeat' first
    | with_reducible assumption
    | (with_reducible apply raise_keeps)
    | (with_reducible apply wellBad_keeps)
    | (extract_lets +onlyGivenNames x; clear_value x)
    | split

theorem checkTiles_keeps {r : State} {a1} : ∀ {a2} {s : State}, Keeps r s → Keeps r (checkTiles a1 a2 s).2 := by
  intro a2
  induction a2 with
  | nil => intro s h; exact h
  | cons t ts ih =>
    intro s h
    unfold checkTiles
    have hx := checkTile_keeps (a1 := a1) (a2 := t.addr) h
    split
    · next e => rw [e] at hx; exact ih hx
    · next e => rw [e] at hx; exact hx

theorem checkArrays_keeps {r : State} : ∀ {a1} {s : State}, Keeps r s → Keeps r (checkArrays a1 s).2 := by
  intro a1
  induction a1 with
  | nil => intro s h; exact h
  | cons t ts ih =>
    intro s h
    unfold checkArrays
    split
    · exact raise_keeps h
    · have hx := ih h
      split
      · next e => rw [e] at hx; exact hx
      · next e => rw [e] at hx; exact hx

theorem checkJob_keeps {r s : State} {a1} (h : Keeps r s) : Keeps r (checkJob a1 s).2 := by
  unfold checkJob
  repeat' first
    | with_reducible assumption
    | (with_reducible apply checkTiles_keeps)
    | (with_reducible apply checkArrays_keeps)
    | (extract_lets +onlyGivenNames x; clear_value x)
    | split
    | (dsimp -zeta only)
    | (with_reducible refine Keeps.ofPair (by assumption) ?_)

theorem modJob_keeps {r s : State} {a1 a2} (h : Keeps r s) : Keeps r (modJob a1 a2 s) := by
  unfold modJob
  repeat' first
    | with_reducible assumption
    | (extract_lets +onlyGivenNames x; clear_value x)
    | (unfold Keeps; dsimp only; refine (?_ : Keeps _ _))

theorem beginLoad_keeps {r s : State} {a1 a2} (h : Keeps r s) : Keeps r (beginLoad a1 a2 s) := by
  unfold beginLoad
  repeat' first
    | with_reducible assumption
    | (with_reducible apply refuse_keeps)
    | (extract_lets +onlyGivenNames x; clear_value x)
    | split
    | (unfold Keeps; dsimp only; refine (?_ : Keeps _ _))

theorem installJob_keeps {r s : State} {a1} (h : Keeps r s) : Keeps r (installJob a1 s) := by
  unfold installJob
  repeat' first
    | with_reducible assumption
    | (extract_lets +onlyGivenNames x; clear_value x)
    | (unfold Keeps; dsimp only; refine (?_ : Keeps _ _))

theorem endLoad_keeps {r s : State} {a1 a2} (h : Keeps r s) : Keeps r (endLoad a1 a2 s) := by
  unfold endLoad
  repeat' first
    | with_reducible assumption
    | (with_reducible apply checkJob_keeps)
    | (with_reducible apply finish_keeps)
    | (with_reducible apply installJob_keeps)
    | (extract_lets +onlyGivenNames x; have hx : Keeps r x := ?_; clear_value x; rotate_left; subst x; rotate_right)
    | (extract_lets +onlyGivenNames x; clear_value x)
    | split
    | (unfold Keeps; dsimp only; refine (?_ : Keeps _ _))
    | (with_reducible refine Keeps.ofPair (by assumption) ?_)

theorem execJobLoad_keeps {r s : State} {a1 a2} (h : Keeps r s) : KeepsO r (execJobLoad a1 a2 s) := by
  unfold execJobLoad
  repeat' first
    | with_reducible assumption
    | (intro _)
    | (with_reducible apply onStart_keeps)
    | (with_reducible apply refuse_keeps)
    | (with_reducible apply withObject_keeps)
    | (with_reducible apply beginLoad_keeps)
    | split

theorem execJobCheckComplete_keeps {r s : State} {a1 a2 a3} (h : Keeps r s) : KeepsO r (execJobCheckComplete a1 a2 a3 s) := by
  unfold execJobCheckComplete
  repeat' first
    | with_reducible assumption
    | (intro _)
    | (with_reducible apply onEvent_keeps)
    | (with_reducible apply endLoad_keeps)
    | split

/-! ### Machine/Journal -/

theorem modRec_keeps {r s : State} {a1 a2} (h : Keeps r s) : Keeps r (modRec a1 a2 s) := by
  unfold modRec
  repeat' first
    | with_reducible assumption
    | (extract_lets +onlyGivenNames x; clear_value x)
    | (unfold Keeps; dsimp only; refine (?_ : Keeps _ _))

theorem ledgerWrite_keeps {r s : State} {a1 a2} (h : Keeps r s) : Keeps r (ledgerWrite a1 a2 s) := by
  unfold ledgerWrite
  repeat' first
    | with_reducible assumption
    | (with_reducible apply uraraSend_keeps)
    | (extract_lets +onlyGivenNames x; have hx : Keeps r x := ?_; clear_value x; rotate_left; subst x; rotate_right)
    | (extract_lets +onlyGivenNames x; clear_value x)
    | split
    | (unfold Keeps; dsimp only; refine (?_ : Keeps _ _))

theorem replicate_keeps {r s : State} {a1} (h : Keeps r s) : Keeps r (replicate a1 s) := by
  unfold replicate
  repeat' first
    | with_reducible assumption
    | (with_reducible apply uraraSend_keeps)
    | (extract_lets +onlyGivenNames x; clear_value x)
    | split
    | (unfold Keeps; dsimp only; refine (?_ : Keeps _ _))

theorem writePart_keeps {r s : State} {a1 a2} (h : Keeps r s) : Keeps r (writePart a1 a2 s) := by
  unfold writePart
  repeat' first
    | with_reducible assumption
    | (with_reducible apply ledgerWrite_keeps)
    | split

theorem exportEntry_keeps {r s : State} {a1 a2 a3} (h : Keeps r s) : Keeps r (exportEntry a1 a2 a3 s) := by
  unfold exportEntry
  repeat' first
    | with_reducible assumption
    | (extract_lets +onlyGivenNames x; clear_value x)
    | split
    | (unfold Keeps; dsimp only; refine (?_ : Keeps _ _))

theorem exportPart_keeps {r s : State} {a1 a2} (h : Keeps r s) : Keeps r (exportPart a1 a2 s) := by
  unfold exportPart
  repeat' first
    | with_reducible assumption
    | (with_reducible apply exportEntry_keeps)
    | split

theorem settleManifests_keeps {r s : State} (h : Keeps r s) : Keeps r (settleManifests s) := by
  unfold settleManifests
  repeat' first
    | with_reducible assumption
    | (with_reducible apply exportEntry_keeps)
    | (with_reducible apply finish_keeps)
    | (extract_lets +onlyGivenNames x; have hx : Keeps r x := ?_; clear_value x; rotate_left; subst x; rotate_right)
    | (extract_lets +onlyGivenNames x; clear_value x)
    | with_reducible refine Keeps.foldl ?_ (fun _ _ _ => ?_)
    | (unfold Keeps; dsimp only; refine (?_ : Keeps _ _))

theorem countManifests_keeps {r s : State} {a1 a2} (h : Keeps r s) : Keeps r (countManifests a1 a2 s) := by
  unfold countManifests
  repeat' first
    | with_reducible assumption
    | (with_reducible apply settleManifests_keeps)
    | (extract_lets +onlyGivenNames x; clear_value x)
    | (unfold Keeps; dsimp only; refine (?_ : Keeps _ _))

theorem finalise_keeps {r s : State} {a1 a2 a3 a4 a5} (h : Keeps r s) : Keeps r (finalise a1 a2 a3 a4 a5 s) := by
  unfold finalise
  repeat' first
    | with_reducible assumption
    | (with_reducible apply modRec_keeps)
    | (with_reducible apply countManifests_keeps)
    | (with_reducible apply exportPart_keeps)
    | (with_reducible apply writePart_keeps)
    | (extract_lets +onlyGivenNames x; have hx : Keeps r x := ?_; clear_value x; rotate_left; subst x; rotate_right)
    | (extract_lets +onlyGivenNames x; clear_value x)
    | split

theorem voidRec_keeps {r s : State} {a1 a2 a3} (h : Keeps r s) : Keeps r (voidRec a1 a2 a3 s) := by
  unfold voidRec
  repeat' first
    | with_reducible assumption
    | (with_reducible apply finalise_keeps)

theorem voidRecs_keeps {r s : State} {a1 a2 a3} (h : Keeps r s) : Keeps r (voidRecs a1 a2 a3 s) := by
  unfold voidRecs
  repeat' first
    | with_reducible assumption
    | (with_reducible apply voidRec_keeps)
    | with_reducible refine Keeps.foldl ?_ (fun _ _ _ => ?_)

theorem firedPart_keeps {r s : State} {a1 a2} (h : Keeps r s) : Keeps r (firedPart a1 a2 s) := by
  unfold firedPart
  repeat' first
    | with_reducible assumption
    | (with_reducible apply exportPart_keeps)
    | (with_reducible apply writePart_keeps)
    | (with_reducible apply modRec_keeps)
    | split

theorem judgeHigh_keeps {r s : State} (h : Keeps r s) : Keeps r (judgeHigh s) := by
  unfold judgeHigh
  repeat' first
    | with_reducible assumption
    | (with_reducible apply notify_keeps)
    | (extract_lets +onlyGivenNames x; clear_value x)
    | split
    | (unfold Keeps; dsimp only; refine (?_ : Keeps _ _))

theorem markSent_keeps {r s : State} {a1} (h : Keeps r s) : Keeps r (markSent a1 s) := by
  unfold markSent
  repeat' first
    | with_reducible assumption
    | (with_reducible apply judgeHigh_keeps)
    | (extract_lets +onlyGivenNames x; clear_value x)
    | (unfold Keeps; dsimp only; refine (?_ : Keeps _ _))

theorem dropBlocks_keeps {r s : State} (h : Keeps r s) : Keeps r (dropBlocks s) := by
  unfold dropBlocks
  repeat' first
    | with_reducible assumption
    | (extract_lets +onlyGivenNames x; clear_value x)
    | (unfold Keeps; dsimp only; refine (?_ : Keeps _ _))

theorem blockExported_keeps {r s : State} {a1} (h : Keeps r s) : Keeps r (blockExported a1 s) := by
  unfold blockExported
  repeat' first
    | with_reducible assumption
    | (with_reducible apply dropBlocks_keeps)
    | (with_reducible apply markSent_keeps)
    | (extract_lets +onlyGivenNames x; clear_value x)
    | split
    | (unfold Keeps; dsimp only; refine (?_ : Keeps _ _))

/-! ### Machine/Gates -/

theorem modProduct_keeps {r s : State} {a1 a2} (h : Keeps r s) : Keeps r (modProduct a1 a2 s) := by
  unfold modProduct
  repeat' first
    | with_reducible assumption
    | (extract_lets +onlyGivenNames x; clear_value x)
    | (unfold Keeps; dsimp only; refine (?_ : Keeps _ _))

theorem setFlag_keeps {r s : State} {a1 a2} (h : Keeps r s) : Keeps r (setFlag a1 a2 s) := by
  unfold setFlag
  repeat' first
    | with_reducible assumption
    | (with_reducible apply modProduct_keeps)

theorem collateral_keeps {r s : State} {a1} (h : Keeps r s) : Keeps r (collateral a1 s) := by
  unfold collateral
  repeat' first
    | with_reducible assumption
    | (with_reducible apply setFlag_keeps)
    | (with_reducible apply notify_keeps)

theorem placeWindow_keeps {r s : State} {a1 a2 a3} (h : Keeps r s) : Keeps r (placeWindow a1 a2 a3 s) := by
  unfold placeWindow
  repeat' first
    | with_reducible assumption
    | (with_reducible apply collateral_keeps)
    | (extract_lets +onlyGivenNames x; have hx : Keeps r x := ?_; clear_value x; rotate_left; subst x; rotate_right)
    | (extract_lets +onlyGivenNames x; clear_value x)
    | split
    | with_reducible refine Keeps.foldl ?_ (fun _ _ _ => ?_)
    | (unfold Keeps; dsimp only; refine (?_ : Keeps _ _))

theorem rejectUnqueued_keeps {r s : State} {a1 a2 a3} (h : Keeps r s) : Keeps r (rejectUnqueued a1 a2 a3 s) := by
  unfold rejectUnqueued
  repeat' first
    | with_reducible assumption
    | (with_reducible apply placeWindow_keeps)
    | (extract_lets +onlyGivenNames x; clear_value x)
    | split
    | with_reducible refine Keeps.foldl ?_ (fun _ _ _ => ?_)

theorem voidProduct_keeps {r s : State} {a1 a2 a3} (h : Keeps r s) : Keeps r (voidProduct a1 a2 a3 s) := by
  unfold voidProduct
  repeat' first
    | with_reducible assumption
    | (with_reducible apply voidRecs_keeps)
    | (with_reducible apply setFlag_keeps)
    | (extract_lets +onlyGivenNames x; have hx : Keeps r x := ?_; clear_value x; rotate_left; subst x; rotate_right)
    | (extract_lets +onlyGivenNames x; clear_value x)
    | split
    | with_reducible refine Keeps.foldl ?_ (fun _ _ _ => ?_)
    | (unfold Keeps; dsimp only; refine (?_ : Keeps _ _))

theorem voidFault_keeps {r s : State} {a1 a2} (h : Keeps r s) : Keeps r (voidFault a1 a2 s) := by
  unfold voidFault
  repeat' first
    | with_reducible assumption
    | (with_reducible apply voidProduct_keeps)
    | (with_reducible apply raise_keeps)

theorem stopProduct_keeps {r s : State} {a1} (h : Keeps r s) : Keeps r (stopProduct a1 s) := by
  unfold stopProduct
  repeat' first
    | with_reducible assumption
    | (with_reducible apply modProduct_keeps)

theorem closeRecords_keeps {r s : State} {a1} (h : Keeps r s) : Keeps r (closeRecords a1 s) := by
  unfold closeRecords
  repeat' first
    | with_reducible assumption
    | (with_reducible apply finalise_keeps)
    | split
    | with_reducible refine Keeps.foldl ?_ (fun _ _ _ => ?_)

theorem settleSwitch_keeps {r s : State} (h : Keeps r s) : Keeps r (settleSwitch s) := by
  unfold settleSwitch
  repeat' first
    | with_reducible assumption
    | (with_reducible apply notify_keeps)
    | (extract_lets +onlyGivenNames x; clear_value x)
    | split
    | (unfold Keeps; dsimp only; refine (?_ : Keeps _ _))

theorem settleProduct_keeps {r s : State} {a1} (h : Keeps r s) : Keeps r (settleProduct a1 s) := by
  unfold settleProduct
  repeat' first
    | with_reducible assumption
    | (with_reducible apply setFlag_keeps)
    | (with_reducible apply notify_keeps)
    | (with_reducible apply closeRecords_keeps)
    | (with_reducible apply settleSwitch_keeps)
    | (extract_lets +onlyGivenNames x; have hx : Keeps r x := ?_; clear_value x; rotate_left; subst x; rotate_right)
    | (extract_lets +onlyGivenNames x; clear_value x)
    | split
    | (unfold Keeps; dsimp only; refine (?_ : Keeps _ _))

theorem settleAll_keeps {r s : State} (h : Keeps r s) : Keeps r (settleAll s) := by
  unfold settleAll
  repeat' first
    | with_reducible assumption
    | (with_reducible apply settleProduct_keeps)
    | with_reducible refine Keeps.foldl ?_ (fun _ _ _ => ?_)

theorem decideOn_keeps {r s : State} {a1 a2} (h : Keeps r s) : Keeps r (decideOn a1 a2 s) := by
  unfold decideOn
  repeat' first
    | with_reducible assumption
    | (with_reducible apply placeWindow_keeps)
    | (with_reducible apply modProduct_keeps)
    | (with_reducible apply settleProduct_keeps)
    | (extract_lets +onlyGivenNames x; have hx : Keeps r x := ?_; clear_value x; rotate_left; subst x; rotate_right)
    | (extract_lets +onlyGivenNames x; clear_value x)
    | split

theorem deadlineOn_keeps {r s : State} {a1 a2} (h : Keeps r s) : Keeps r (deadlineOn a1 a2 s) := by
  unfold deadlineOn
  repeat' first
    | with_reducible assumption
    | (with_reducible apply raise_keeps)
    | (with_reducible apply setFlag_keeps)
    | (with_reducible apply placeWindow_keeps)
    | (with_reducible apply settleProduct_keeps)
    | (with_reducible apply modProduct_keeps)
    | (extract_lets +onlyGivenNames x; have hx : Keeps r x := ?_; clear_value x; rotate_left; subst x; rotate_right)
    | (extract_lets +onlyGivenNames x; clear_value x)
    | split

theorem driveGates_keeps {r s : State} (h : Keeps r s) : Keeps r (driveGates s) := by
  unfold driveGates
  repeat' first
    | with_reducible assumption
    | (extract_lets +onlyGivenNames x; clear_value x)
    | (unfold Keeps; dsimp only; refine (?_ : Keeps _ _))

theorem gatesBoundary_keeps {r s : State} (h : Keeps r s) : Keeps r (gatesBoundary s) := by
  unfold gatesBoundary
  repeat' first
    | with_reducible assumption
    | (with_reducible apply deadlineOn_keeps)
    | (with_reducible apply driveGates_keeps)
    | (extract_lets +onlyGivenNames x; clear_value x)
    | with_reducible refine Keeps.foldl ?_ (fun _ _ _ => ?_)
    | (unfold Keeps; dsimp only; refine (?_ : Keeps _ _))

theorem execGateDecisionPlace_keeps {r s : State} {a1 a2 a3} (h : Keeps r s) : KeepsO r (execGateDecisionPlace a1 a2 a3 s) := by
  unfold execGateDecisionPlace
  repeat' first
    | with_reducible assumption
    | (intro _)
    | (with_reducible apply onEvent_keeps)
    | (with_reducible apply decideOn_keeps)

theorem endPolicy_keeps {r s : State} {a1 a2} (h : Keeps r s) : Keeps r (endPolicy a1 a2 s) := by
  unfold endPolicy
  repeat' first
    | with_reducible assumption
    | (with_reducible apply finish_keeps)
    | (with_reducible apply driveGates_keeps)
    | (extract_lets +onlyGivenNames x; clear_value x)
    | with_reducible refine Keeps.foldl ?_ (fun _ _ _ => ?_)
    | (unfold Keeps; dsimp only; refine (?_ : Keeps _ _))

theorem settlePolicies_keeps {r s : State} (h : Keeps r s) : Keeps r (settlePolicies s) := by
  unfold settlePolicies
  repeat' first
    | with_reducible assumption
    | (with_reducible apply endPolicy_keeps)
    | (extract_lets +onlyGivenNames x; have hx : Keeps r x := ?_; clear_value x; rotate_left; subst x; rotate_right)
    | (extract_lets +onlyGivenNames x; clear_value x)
    | with_reducible refine Keeps.foldl ?_ (fun _ _ _ => ?_)
    | (unfold Keeps; dsimp only; refine (?_ : Keeps _ _))

theorem setGateWords_keeps {r s : State} {a1} (h : Keeps r s) : Keeps r (setGateWords a1 s) := by
  unfold setGateWords
  repeat' first
    | with_reducible assumption
    | (extract_lets +onlyGivenNames x; clear_value x)
    | split
    | with_reducible refine Keeps.foldl ?_ (fun _ _ _ => ?_)
    | (unfold Keeps; dsimp only; refine (?_ : Keeps _ _))

theorem execRejectPolicy_keeps {r s : State} {a1 a2} (h : Keeps r s) : KeepsO r (execRejectPolicy a1 a2 s) := by
  unfold execRejectPolicy
  repeat' first
    | with_reducible assumption
    | (intro _)
    | (with_reducible apply onStart_keeps)
    | (with_reducible apply refuse_keeps)
    | (with_reducible apply setGateWords_keeps)
    | (with_reducible apply settlePolicies_keeps)
    | (extract_lets +onlyGivenNames x; have hx : Keeps r x := ?_; clear_value x; rotate_left; subst x; rotate_right)
    | (extract_lets +onlyGivenNames x; clear_value x)
    | split
    | (unfold Keeps; dsimp only; refine (?_ : Keeps _ _))

end Sys2Proof.Machine
end

