-- ==== Sys2Proof/Laws/KeepsMill.lean ====
section
/-!
SUPPORT. The operations of the products, the mill, the Tally and the Weighbridge keep what Keeps says.
-/
namespace Sys2Proof.Machine

/-! ### Machine/Products -/

theorem fixSwitch_keeps {r s : State} {a1 a2} (h : Keeps r s) : Keeps r (fixSwitch a1 a2 s) := by
  unfold fixSwitch
  repeat' first
    | with_reducible assumption
    | (with_reducible apply modJob_keeps)
    | (with_reducible apply finish_keeps)
    | (extract_lets +onlyGivenNames x; clear_value x)
    | (unfold Keeps; dsimp only; refine (?_ : Keeps _ _))

theorem queueProduct_keeps {r s : State} {a1} (h : Keeps r s) : Keeps r (queueProduct a1 s) := by
  unfold queueProduct
  repeat' first
    | with_reducible assumption
    | (with_reducible apply voidFault_keeps)
    | (with_reducible apply stopProduct_keeps)
    | (with_reducible apply setFlag_keeps)
    | (with_reducible apply modProduct_keeps)
    | (extract_lets +onlyGivenNames x; have hx : Keeps r x := ?_; clear_value x; rotate_left; subst x; rotate_right)
    | (extract_lets +onlyGivenNames x; clear_value x)
    | split
    | (unfold Keeps; dsimp only; refine (?_ : Keeps _ _))

theorem createProduct_keeps {r s : State} {a1 a2 a3 a4 a5 a6} (h : Keeps r s) : Keeps r (createProduct a1 a2 a3 a4 a5 a6 s).2 := by
  unfold createProduct
  repeat' first
    | with_reducible assumption
    | (with_reducible apply rejectUnqueued_keeps)
    | (with_reducible apply raise_keeps)
    | (with_reducible apply queueProduct_keeps)
    | (with_reducible apply fixSwitch_keeps)
    | (extract_lets +onlyGivenNames x; have hx : Keeps r x := ?_; clear_value x; rotate_left; subst x; rotate_right)
    | (extract_lets +onlyGivenNames x; clear_value x)
    | split
    | (dsimp -zeta only)
    | (unfold Keeps; dsimp only; refine (?_ : Keeps _ _))

theorem sendTrigger_keeps {r s : State} {a1 a2 a3 a4 a5} (h : Keeps r s) : Keeps r (sendTrigger a1 a2 a3 a4 a5 s) := by
  unfold sendTrigger
  repeat' first
    | with_reducible assumption
    | (with_reducible apply uraraSend_keeps)
    | (extract_lets +onlyGivenNames x; have hx : Keeps r x := ?_; clear_value x; rotate_left; subst x; rotate_right)
    | (extract_lets +onlyGivenNames x; clear_value x)
    | split

theorem execQueueRead_keeps {r s : State} {a1 a2} (h : Keeps r s) : KeepsO r (execQueueRead a1 a2 s) := by
  unfold execQueueRead
  repeat' first
    | with_reducible assumption
    | (intro _)
    | (with_reducible apply onStart_keeps)
    | (with_reducible apply refuse_keeps)
    | (with_reducible apply answer_keeps)
    | (with_reducible apply queueUnits_keeps)
    | (with_reducible apply withRange_keeps)
    | (with_reducible apply wellWrite_keeps)
    | (extract_lets +onlyGivenNames x; clear_value x)
    | split

theorem execProductForce_keeps {r s : State} {a1 a2} (h : Keeps r s) : KeepsO r (execProductForce a1 a2 s) := by
  unfold execProductForce
  repeat' first
    | with_reducible assumption
    | (intro _)
    | (with_reducible apply onStart_keeps)
    | (with_reducible apply refuse_keeps)
    | (with_reducible apply createProduct_keeps)
    | (with_reducible apply done_keeps)
    | (with_reducible apply sendTrigger_keeps)
    | (extract_lets +onlyGivenNames x; clear_value x)
    | split

theorem execProductNumberSave_keeps {r s : State} {a1} (h : Keeps r s) : KeepsO r (execProductNumberSave a1 s) := by
  unfold execProductNumberSave
  repeat' first
    | with_reducible assumption
    | (intro _)
    | (with_reducible apply onEvent_keeps)
    | (extract_lets +onlyGivenNames x; clear_value x)
    | split
    | (unfold Keeps; dsimp only; refine (?_ : Keeps _ _))

theorem execLineIndexSave_keeps {r s : State} {a1} (h : Keeps r s) : KeepsO r (execLineIndexSave a1 s) := by
  unfold execLineIndexSave
  repeat' first
    | with_reducible assumption
    | (intro _)
    | (with_reducible apply onEvent_keeps)
    | (extract_lets +onlyGivenNames x; clear_value x)
    | split
    | (unfold Keeps; dsimp only; refine (?_ : Keeps _ _))

/-! ### Machine/Motion -/

theorem judgeMismatch_keeps {r s : State} (h : Keeps r s) : Keeps r (judgeMismatch s) := by
  unfold judgeMismatch
  repeat' first
    | with_reducible assumption
    | (with_reducible apply raise_keeps)
    | (with_reducible apply setFlag_keeps)
    | (extract_lets +onlyGivenNames x; have hx : Keeps r x := ?_; clear_value x; rotate_left; subst x; rotate_right)
    | (extract_lets +onlyGivenNames x; clear_value x)
    | split
    | with_reducible refine Keeps.foldl ?_ (fun _ _ _ => ?_)
    | (unfold Keeps; dsimp only; refine (?_ : Keeps _ _))

theorem judgeReverse_keeps {r s : State} (h : Keeps r s) : Keeps r (judgeReverse s) := by
  unfold judgeReverse
  repeat' first
    | with_reducible assumption
    | (with_reducible apply raise_keeps)
    | (with_reducible apply voidFault_keeps)
    | (extract_lets +onlyGivenNames x; have hx : Keeps r x := ?_; clear_value x; rotate_left; subst x; rotate_right)
    | (extract_lets +onlyGivenNames x; clear_value x)
    | split
    | with_reducible refine Keeps.foldl ?_ (fun _ _ _ => ?_)
    | (unfold Keeps; dsimp only; refine (?_ : Keeps _ _))

theorem raiseH_keeps {r s : State} (h : Keeps r s) : Keeps r (raiseH s) := by
  unfold raiseH
  repeat' first
    | with_reducible assumption
    | (extract_lets +onlyGivenNames x; have hx : Keeps r x := ?_; clear_value x; rotate_left; subst x; rotate_right)
    | (extract_lets +onlyGivenNames x; clear_value x)
    | split
    | (unfold Keeps; dsimp only; refine (?_ : Keeps _ _))

theorem encoderError_keeps {r s : State} {a1} (h : Keeps r s) : Keeps r (encoderError a1 s) := by
  unfold encoderError
  repeat' first
    | with_reducible assumption
    | (with_reducible apply raise_keeps)
    | (extract_lets +onlyGivenNames x; clear_value x)
    | (unfold Keeps; dsimp only; refine (?_ : Keeps _ _))

theorem encoderEdge_keeps {r s : State} {a1 a2 a3} (h : Keeps r s) : Keeps r (encoderEdge a1 a2 a3 s) := by
  unfold encoderEdge
  repeat' first
    | with_reducible assumption
    | (with_reducible apply encoderError_keeps)
    | (with_reducible apply judgeReverse_keeps)
    | (with_reducible apply judgeMismatch_keeps)
    | (with_reducible apply raiseH_keeps)
    | (extract_lets +onlyGivenNames x; have hx : Keeps r x := ?_; clear_value x; rotate_left; subst x; rotate_right)
    | (extract_lets +onlyGivenNames x; clear_value x)
    | split
    | (unfold Keeps; dsimp only; refine (?_ : Keeps _ _))

theorem execEncoderEdge_keeps {r s : State} {a1 a2 a3 a4} (h : Keeps r s) : KeepsO r (execEncoderEdge a1 a2 a3 a4 s) := by
  unfold execEncoderEdge
  repeat' first
    | with_reducible assumption
    | (intro _)
    | (with_reducible apply onEvent_keeps)
    | (with_reducible apply encoderEdge_keeps)

theorem execEncoderSignalLoss_keeps {r s : State} {a1 a2} (h : Keeps r s) : KeepsO r (execEncoderSignalLoss a1 a2 s) := by
  unfold execEncoderSignalLoss
  repeat' first
    | with_reducible assumption
    | (intro _)
    | (with_reducible apply onEvent_keeps)
    | (with_reducible apply encoderError_keeps)

theorem execEncoderZPulse_keeps {r s : State} {a1 a2} (h : Keeps r s) : KeepsO r (execEncoderZPulse a1 a2 s) := by
  unfold execEncoderZPulse
  repeat' first
    | with_reducible assumption
    | (intro _)
    | (with_reducible apply onEvent_keeps)
    | (extract_lets +onlyGivenNames x; clear_value x)
    | (unfold Keeps; dsimp only; refine (?_ : Keeps _ _))

theorem execPdEdge_keeps {r s : State} {a1 a2 a3} (h : Keeps r s) : KeepsO r (execPdEdge a1 a2 a3 s) := by
  unfold execPdEdge
  repeat' first
    | with_reducible assumption
    | (intro _)
    | (with_reducible apply onEvent_keeps)
    | (with_reducible apply settlePolicies_keeps)
    | (extract_lets +onlyGivenNames x; have hx : Keeps r x := ?_; clear_value x; rotate_left; subst x; rotate_right)
    | (extract_lets +onlyGivenNames x; clear_value x)
    | split
    | (unfold Keeps; dsimp only; refine (?_ : Keeps _ _))

theorem pairEdge_keeps {r s : State} {a1} (h : Keeps r s) : Keeps r (pairEdge a1 s) := by
  unfold pairEdge
  repeat' first
    | with_reducible assumption
    | (with_reducible apply raise_keeps)
    | (extract_lets +onlyGivenNames x; have hx : Keeps r x := ?_; clear_value x; rotate_left; subst x; rotate_right)
    | (extract_lets +onlyGivenNames x; clear_value x)
    | split
    | with_reducible refine Keeps.foldl ?_ (fun _ _ _ => ?_)
    | (unfold Keeps; dsimp only; refine (?_ : Keeps _ _))

theorem standbyEdge_keeps {r s : State} {a1 a2 a3 a4} (h : Keeps r s) : Keeps r (standbyEdge a1 a2 a3 a4 s) := by
  unfold standbyEdge
  repeat' first
    | with_reducible assumption
    | (with_reducible apply pairEdge_keeps)

theorem acceptEdge_keeps {r s : State} {a1 a2 a3 a4 a5 a6} (h : Keeps r s) : Keeps r (acceptEdge a1 a2 a3 a4 a5 a6 s) := by
  unfold acceptEdge
  repeat' first
    | with_reducible assumption
    | (with_reducible apply sendTrigger_keeps)
    | (with_reducible apply standbyEdge_keeps)
    | (with_reducible apply createProduct_keeps)
    | (extract_lets +onlyGivenNames x; have hx : Keeps r x := ?_; clear_value x; rotate_left; subst x; rotate_right)
    | (extract_lets +onlyGivenNames x; clear_value x)
    | split
    | (unfold Keeps; dsimp only; refine (?_ : Keeps _ _))

theorem execDetectAccept_keeps {r s : State} {a1 a2} (h : Keeps r s) : KeepsO r (execDetectAccept a1 a2 s) := by
  unfold execDetectAccept
  repeat' first
    | with_reducible assumption
    | (intro _)
    | (with_reducible apply onEvent_keeps)
    | (with_reducible apply acceptEdge_keeps)
    | (with_reducible apply settlePolicies_keeps)
    | (extract_lets +onlyGivenNames x; have hx : Keeps r x := ?_; clear_value x; rotate_left; subst x; rotate_right)
    | (extract_lets +onlyGivenNames x; clear_value x)
    | split
    | (unfold Keeps; dsimp only; refine (?_ : Keeps _ _))

/-! ### Machine/Dispatcher -/

theorem modRecipe_keeps {r s : State} {a1 a2} (h : Keeps r s) : Keeps r (modRecipe a1 a2 s) := by
  unfold modRecipe
  repeat' first
    | with_reducible assumption
    | (extract_lets +onlyGivenNames x; clear_value x)
    | (unfold Keeps; dsimp only; refine (?_ : Keeps _ _))

theorem execSegmentDecode_keeps {r s : State} {a1 a2 a3} (h : Keeps r s) : KeepsO r (execSegmentDecode a1 a2 a3 s) := by
  unfold execSegmentDecode
  repeat' first
    | with_reducible assumption
    | (intro _)
    | (with_reducible apply onEvent_keeps)
    | (extract_lets +onlyGivenNames x; clear_value x)
    | split
    | (unfold Keeps; dsimp only; refine (?_ : Keeps _ _))

theorem execSegmentDecodeComplete_keeps {r s : State} {a1 a2 a3 a4} (h : Keeps r s) : KeepsO r (execSegmentDecodeComplete a1 a2 a3 a4 s) := by
  unfold execSegmentDecodeComplete
  repeat' first
    | with_reducible assumption
    | (intro _)
    | (with_reducible apply onEvent_keeps)
    | (extract_lets +onlyGivenNames x; have hx : Keeps r x := ?_; clear_value x; rotate_left; subst x; rotate_right)
    | (extract_lets +onlyGivenNames x; clear_value x)
    | split
    | (unfold Keeps; dsimp only; refine (?_ : Keeps _ _))

theorem flagThin_keeps {r s : State} {a1} (h : Keeps r s) : Keeps r (flagThin a1 s) := by
  unfold flagThin
  repeat' first
    | with_reducible assumption
    | (with_reducible apply setFlag_keeps)
    | split
    | with_reducible refine Keeps.foldl ?_ (fun _ _ _ => ?_)

theorem reportBare_keeps {r s : State} {a1} (h : Keeps r s) : Keeps r (reportBare a1 s) := by
  unfold reportBare
  repeat' first
    | with_reducible assumption
    | (with_reducible apply notify_keeps)
    | (extract_lets +onlyGivenNames x; clear_value x)
    | with_reducible refine Keeps.foldl ?_ (fun _ _ _ => ?_)
    | (unfold Keeps; dsimp only; refine (?_ : Keeps _ _))

theorem freeOverlays_keeps {r s : State} {a1} (h : Keeps r s) : Keeps r (freeOverlays a1 s) := by
  unfold freeOverlays
  repeat' first
    | with_reducible assumption
    | (extract_lets +onlyGivenNames x; clear_value x)
    | (unfold Keeps; dsimp only; refine (?_ : Keeps _ _))

theorem execLineDispatch_keeps {r s : State} {a1 a2} (h : Keeps r s) : KeepsO r (execLineDispatch a1 a2 s) := by
  unfold execLineDispatch
  repeat' first
    | with_reducible assumption
    | (intro _)
    | (with_reducible apply onEvent_keeps)
    | (with_reducible apply reportBare_keeps)
    | (with_reducible apply freeOverlays_keeps)
    | (with_reducible apply flagThin_keeps)
    | (extract_lets +onlyGivenNames x; have hx : Keeps r x := ?_; clear_value x; rotate_left; subst x; rotate_right)
    | (extract_lets +onlyGivenNames x; clear_value x)
    | split
    | (unfold Keeps; dsimp only; refine (?_ : Keeps _ _))

theorem proposeIfDue_keeps {r s : State} (h : Keeps r s) : Keeps r (proposeIfDue s) := by
  unfold proposeIfDue
  repeat' first
    | with_reducible assumption
    | (with_reducible apply uraraSend_keeps)
    | (extract_lets +onlyGivenNames x; (first | (have hw : (x : Well) = x := rfl) | (have hw : (x : Cmd) = x := rfl) | (have hw : (x : _ → State) = x := rfl) | (have hw : (x : _ → _ → State) = x := rfl) | (have hw : (x : _ → _ → _ → State) = x := rfl) | (have hw : (x : _ → _ → _ → _ → State) = x := rfl)); clear hw; subst x)
    | (extract_lets +onlyGivenNames x; clear_value x)
    | split
    | (unfold Keeps; dsimp only; refine (?_ : Keeps _ _))

theorem tellLead_keeps {r s : State} {a1 a2} (h : Keeps r s) : Keeps r (tellLead a1 a2 s) := by
  unfold tellLead
  repeat' first
    | with_reducible assumption
    | (with_reducible apply uraraSend_keeps)
    | split

theorem placementDue_keeps {r s : State} (h : Keeps r s) : Keeps r (placementDue s) := by
  unfold placementDue
  repeat' first
    | with_reducible assumption
    | (with_reducible apply proposeIfDue_keeps)
    | (extract_lets +onlyGivenNames x; clear_value x)
    | (unfold Keeps; dsimp only; refine (?_ : Keeps _ _))

theorem placementItem_keeps {r s : State} {a1 a2} (h : Keeps r s) : Keeps r (placementItem a1 a2 s) := by
  unfold placementItem
  repeat' first
    | with_reducible assumption
    | (with_reducible apply placementDue_keeps)
    | (extract_lets +onlyGivenNames x; clear_value x)
    | (unfold Keeps; dsimp only; refine (?_ : Keeps _ _))

theorem densityItem_keeps {r s : State} {a1 a2} (h : Keeps r s) : Keeps r (densityItem a1 a2 s) := by
  unfold densityItem
  repeat' first
    | with_reducible assumption
    | (with_reducible apply proposeIfDue_keeps)
    | (extract_lets +onlyGivenNames x; clear_value x)
    | (unfold Keeps; dsimp only; refine (?_ : Keeps _ _))

theorem keepEpochs_keeps {r s : State} (h : Keeps r s) : Keeps r (keepEpochs s) := by
  unfold keepEpochs
  repeat' first
    | with_reducible assumption
    | (extract_lets +onlyGivenNames x; have hx : Keeps r x := ?_; clear_value x; rotate_left; subst x; rotate_right)
    | (extract_lets +onlyGivenNames x; clear_value x)
    | split
    | (unfold Keeps; dsimp only; refine (?_ : Keeps _ _))

/-! ### Machine/Tally -/

theorem modStream_keeps {r s : State} {a1 a2} (h : Keeps r s) : Keeps r (modStream a1 a2 s) := by
  unfold modStream
  repeat' first
    | with_reducible assumption
    | (extract_lets +onlyGivenNames x; clear_value x)
    | (unfold Keeps; dsimp only; refine (?_ : Keeps _ _))

theorem modPool_keeps {r s : State} {a1 a2} (h : Keeps r s) : Keeps r (modPool a1 a2 s) := by
  unfold modPool
  repeat' first
    | with_reducible assumption
    | (extract_lets +onlyGivenNames x; clear_value x)
    | (unfold Keeps; dsimp only; refine (?_ : Keeps _ _))

theorem readStream_keeps {r s : State} {a1 a2 a3} (h : Keeps r s) : Keeps r (readStream a1 a2 a3 s).2 := by
  unfold readStream
  repeat' first
    | with_reducible assumption
    | (with_reducible apply raise_keeps)
    | split

theorem readFont_keeps {r s : State} {a1} (h : Keeps r s) : Keeps r (readFont a1 s).2 := by
  unfold readFont
  repeat' first
    | with_reducible assumption
    | (with_reducible apply readStream_keeps)
    | (extract_lets +onlyGivenNames x; clear_value x)
    | split
    | (dsimp -zeta only)
    | (with_reducible refine Keeps.ofPair (by assumption) ?_)

theorem closeManifest_keeps {r s : State} {a1 a2 a3} (h : Keeps r s) : Keeps r (closeManifest a1 a2 a3 s) := by
  unfold closeManifest
  repeat' first
    | with_reducible assumption
    | (with_reducible apply modStream_keeps)
    | (extract_lets +onlyGivenNames x; have hx : Keeps r x := ?_; clear_value x; rotate_left; subst x; rotate_right)
    | (extract_lets +onlyGivenNames x; clear_value x)
    | split
    | (unfold Keeps; dsimp only; refine (?_ : Keeps _ _))

theorem execManifestClose_keeps {r s : State} {a1 a2} (h : Keeps r s) : KeepsO r (execManifestClose a1 a2 s) := by
  unfold execManifestClose
  repeat' first
    | with_reducible assumption
    | (intro _)
    | (with_reducible apply onStart_keeps)
    | (with_reducible apply refuse_keeps)
    | (with_reducible apply closeManifest_keeps)
    | (with_reducible apply settleManifests_keeps)
    | (extract_lets +onlyGivenNames x; have hx : Keeps r x := ?_; clear_value x; rotate_left; subst x; rotate_right)
    | (extract_lets +onlyGivenNames x; clear_value x)
    | split
    | with_reducible refine Keeps.foldl ?_ (fun _ _ _ => ?_)
    | (unfold Keeps; dsimp only; refine (?_ : Keeps _ _))

theorem bindStream_keeps {r s : State} {a1 a2 a3 a4} (h : Keeps r s) : Keeps r (bindStream a1 a2 a3 a4 s) := by
  unfold bindStream
  repeat' first
    | with_reducible assumption
    | (with_reducible apply closeManifest_keeps)
    | (with_reducible apply settleManifests_keeps)
    | (with_reducible apply modStream_keeps)

theorem bindChecked_keeps {r s : State} {a1 a2 a3} (h : Keeps r s) : Keeps r (bindChecked a1 a2 a3 s) := by
  unfold bindChecked
  repeat' first
    | with_reducible assumption
    | (with_reducible apply readStream_keeps)
    | (with_reducible apply refuse_keeps)
    | (with_reducible apply readFont_keeps)
    | (with_reducible apply done_keeps)
    | (with_reducible apply bindStream_keeps)
    | (extract_lets +onlyGivenNames x; clear_value x)
    | split
    | (dsimp -zeta only)
    | (with_reducible refine Keeps.ofPair (by assumption) ?_)

theorem execStreamBind_keeps {r s : State} {a1 a2} (h : Keeps r s) : KeepsO r (execStreamBind a1 a2 s) := by
  unfold execStreamBind
  repeat' first
    | with_reducible assumption
    | (intro _)
    | (with_reducible apply onStart_keeps)
    | (with_reducible apply refuse_keeps)
    | (with_reducible apply withObject_keeps)
    | (with_reducible apply bindChecked_keeps)
    | split

theorem putGrant_keeps {r s : State} {a1 a2} (h : Keeps r s) : Keeps r (putGrant a1 a2 s) := by
  unfold putGrant
  repeat' first
    | with_reducible assumption
    | (with_reducible apply modPool_keeps)

theorem judgePool_keeps {r s : State} {a1} (h : Keeps r s) : Keeps r (judgePool a1 s) := by
  unfold judgePool
  repeat' first
    | with_reducible assumption
    | (with_reducible apply notify_keeps)
    | (with_reducible apply modPool_keeps)
    | split

theorem acceptGrant_keeps {r s : State} {a1 a2} (h : Keeps r s) : Keeps r (acceptGrant a1 a2 s) := by
  unfold acceptGrant
  repeat' first
    | with_reducible assumption
    | (with_reducible apply modPool_keeps)
    | (with_reducible apply judgePool_keeps)
    | (with_reducible apply replicate_keeps)
    | (with_reducible apply exportEntry_keeps)
    | (extract_lets +onlyGivenNames x; clear_value x)
    | split
    | (dsimp -zeta only)
    | (unfold Keeps; dsimp only; refine (?_ : Keeps _ _))

theorem grantChecked_keeps {r s : State} {a1 a2 a3 a4} (h : Keeps r s) : Keeps r (grantChecked a1 a2 a3 a4 s) := by
  unfold grantChecked
  repeat' first
    | with_reducible assumption
    | (with_reducible apply refuse_keeps)
    | (with_reducible apply done_keeps)
    | (with_reducible apply acceptGrant_keeps)
    | (extract_lets +onlyGivenNames x; clear_value x)
    | split

theorem execPoolGrant_keeps {r s : State} {a1 a2 a3 a4} (h : Keeps r s) : KeepsO r (execPoolGrant a1 a2 a3 a4 s) := by
  unfold execPoolGrant
  repeat' first
    | with_reducible assumption
    | (intro _)
    | (with_reducible apply onStart_keeps)
    | (with_reducible apply refuse_keeps)
    | (with_reducible apply withObject_keeps)
    | (with_reducible apply grantChecked_keeps)
    | split

theorem execPermutationTableDone_keeps {r s : State} {a1 a2 a3} (h : Keeps r s) : KeepsO r (execPermutationTableDone a1 a2 a3 s) := by
  unfold execPermutationTableDone
  repeat' first
    | with_reducible assumption
    | (intro _)
    | (with_reducible apply onEvent_keeps)
    | (with_reducible apply modPool_keeps)

theorem execSerialLookahead_keeps {r s : State} {a1 a2} (h : Keeps r s) : KeepsO r (execSerialLookahead a1 a2 s) := by
  unfold execSerialLookahead
  repeat' first
    | with_reducible assumption
    | (intro _)
    | (with_reducible apply onEvent_keeps)
    | (with_reducible apply modStream_keeps)
    | (extract_lets +onlyGivenNames x; clear_value x)
    | split

theorem abandonGrant_keeps {r s : State} {a1 a2} (h : Keeps r s) : Keeps r (abandonGrant a1 a2 s) := by
  unfold abandonGrant
  repeat' first
    | with_reducible assumption
    | (with_reducible apply putGrant_keeps)
    | (with_reducible apply exportEntry_keeps)
    | (extract_lets +onlyGivenNames x; have hx : Keeps r x := ?_; clear_value x; rotate_left; subst x; rotate_right)
    | (extract_lets +onlyGivenNames x; clear_value x)
    | split
    | (unfold Keeps; dsimp only; refine (?_ : Keeps _ _))

theorem abandonAll_keeps {r s : State} (h : Keeps r s) : Keeps r (abandonAll s) := by
  unfold abandonAll
  repeat' first
    | with_reducible assumption
    | (with_reducible apply judgePool_keeps)
    | (with_reducible apply abandonGrant_keeps)
    | (extract_lets +onlyGivenNames x; have hx : Keeps r x := ?_; clear_value x; rotate_left; subst x; rotate_right)
    | (extract_lets +onlyGivenNames x; clear_value x)
    | with_reducible refine Keeps.foldl ?_ (fun _ _ _ => ?_)
    | (unfold Keeps; dsimp only; refine (?_ : Keeps _ _))

theorem sendHandover_keeps {r s : State} (h : Keeps r s) : Keeps r (sendHandover s) := by
  unfold sendHandover
  repeat' first
    | with_reducible assumption
    | (with_reducible apply uraraSend_keeps)
    | (extract_lets +onlyGivenNames x; clear_value x)
    | split
    | (unfold Keeps; dsimp only; refine (?_ : Keeps _ _))

theorem execPoolStatus_keeps {r s : State} {a1 a2} (h : Keeps r s) : KeepsO r (execPoolStatus a1 a2 s) := by
  unfold execPoolStatus
  repeat' first
    | with_reducible assumption
    | (intro _)
    | (with_reducible apply onStart_keeps)
    | (with_reducible apply refuse_keeps)
    | (with_reducible apply answer_keeps)
    | split

theorem acceptPlan_keeps {r s : State} {a1 a2 a3} (h : Keeps r s) : Keeps r (acceptPlan a1 a2 a3 s) := by
  unfold acceptPlan
  repeat' first
    | with_reducible assumption
    | (with_reducible apply replicate_keeps)
    | (with_reducible apply exportEntry_keeps)
    | (extract_lets +onlyGivenNames x; clear_value x)
    | (unfold Keeps; dsimp only; refine (?_ : Keeps _ _))

theorem execCalendarLoad_keeps {r s : State} {a1 a2} (h : Keeps r s) : KeepsO r (execCalendarLoad a1 a2 s) := by
  unfold execCalendarLoad
  repeat' first
    | with_reducible assumption
    | (intro _)
    | (with_reducible apply onStart_keeps)
    | (with_reducible apply refuse_keeps)
    | (with_reducible apply withObject_keeps)
    | (with_reducible apply done_keeps)
    | (with_reducible apply acceptPlan_keeps)
    | (extract_lets +onlyGivenNames x; clear_value x)
    | split

theorem execCodeVoid_keeps {r s : State} {a1 a2} (h : Keeps r s) : KeepsO r (execCodeVoid a1 a2 s) := by
  unfold execCodeVoid
  repeat' first
    | with_reducible assumption
    | (intro _)
    | (with_reducible apply onStart_keeps)
    | (with_reducible apply refuse_keeps)
    | (with_reducible apply voidRec_keeps)
    | (with_reducible apply done_keeps)
    | (with_reducible apply settleProduct_keeps)
    | (with_reducible apply voidProduct_keeps)
    | (extract_lets +onlyGivenNames x; have hx : Keeps r x := ?_; clear_value x; rotate_left; subst x; rotate_right)
    | (extract_lets +onlyGivenNames x; clear_value x)
    | split

/-! ### Machine/Issue -/

theorem intoManifest_keeps {r s : State} {a1 a2} (h : Keeps r s) : Keeps r (intoManifest a1 a2 s) := by
  unfold intoManifest
  repeat' first
    | with_reducible assumption
    | (with_reducible apply closeManifest_keeps)
    | (with_reducible apply modStream_keeps)
    | split

theorem writeIssue_keeps {r s : State} {a1 a2} (h : Keeps r s) : Keeps r (writeIssue a1 a2 s) := by
  unfold writeIssue
  repeat' first
    | with_reducible assumption
    | (with_reducible apply intoManifest_keeps)
    | (with_reducible apply exportPart_keeps)
    | (with_reducible apply writePart_keeps)
    | (extract_lets +onlyGivenNames x; clear_value x)
    | (unfold Keeps; dsimp only; refine (?_ : Keeps _ _))

theorem writeClaim_keeps {r s : State} {a1} (h : Keeps r s) : Keeps r (writeClaim a1 s) := by
  unfold writeClaim
  repeat' first
    | with_reducible assumption
    | (with_reducible apply replicate_keeps)
    | (with_reducible apply exportEntry_keeps)

theorem issueStream_keeps {r : State} {p : Product} {d d' : Draft} {i} (h : Keeps r d.state) (e : issueStream p d i = .ok d') : Keeps r d'.state := by
  unfold issueStream at e
  dsimp only at e
  repeat' split at e
  all_goals first
    | (cases e; exact h)
    | (cases e; exact putGrant_keeps h)
    | cases e
theorem issueStreams_keeps {r : State} {p : Product} {d' : Draft} : ∀ {is} {d : Draft}, Keeps r d.state → issueStreams p is d = .ok d' → Keeps r d'.state := by
  intro is
  induction is with
  | nil => intro d h e; cases e; exact h
  | cons i is ih =>
    intro d h e
    unfold issueStreams at e
    split at e
    · next e' => exact ih (issueStream_keeps h e') e
    · cases e
theorem commitGroup_keeps {r : State} {p : Product} {d : Draft} {l} (h : Keeps r d.state) : Keeps r (commitGroup p d l) := by
  unfold commitGroup
  dsimp only
  refine judgeHigh_keeps (settleManifests_keeps (modProduct_keeps (Keeps.foldl (Keeps.foldl (Keeps.foldl h ?_) ?_) ?_)))
  · intro x a hx; exact writeClaim_keeps hx
  · intro x a hx; exact writeIssue_keeps hx
  · intro x a hx; exact judgePool_keeps hx
theorem issueGroup_keeps {r s : State} {a1} (h : Keeps r s) : Keeps r (issueGroup a1 s) := by
  unfold issueGroup
  dsimp only
  split
  · exact modProduct_keeps h
  · split
    · exact voidFault_keeps h
    · split
      · exact voidFault_keeps h
      · next e =>
        split
        · exact commitGroup_keeps (issueStreams_keeps (d := { state := s }) h e)
        · exact voidFault_keeps h

theorem execTallyIssueGroup_keeps {r s : State} {a1 a2} (h : Keeps r s) : KeepsO r (execTallyIssueGroup a1 a2 s) := by
  unfold execTallyIssueGroup
  repeat' first
    | with_reducible assumption
    | (intro _)
    | (with_reducible apply onEvent_keeps)
    | (with_reducible apply sendHandover_keeps)
    | (with_reducible apply voidFault_keeps)
    | (with_reducible apply issueGroup_keeps)
    | (extract_lets +onlyGivenNames x; have hx : Keeps r x := ?_; clear_value x; rotate_left; subst x; rotate_right)
    | (extract_lets +onlyGivenNames x; clear_value x)
    | split
    | (unfold Keeps; dsimp only; refine (?_ : Keeps _ _))

theorem execIssueDurable_keeps {r s : State} {a1 a2} (h : Keeps r s) : KeepsO r (execIssueDurable a1 a2 s) := by
  unfold execIssueDurable
  repeat' first
    | with_reducible assumption
    | (intro _)
    | (with_reducible apply onEvent_keeps)
    | (with_reducible apply modRec_keeps)
    | (extract_lets +onlyGivenNames x; clear_value x)
    | split
    | with_reducible refine Keeps.foldl ?_ (fun _ _ _ => ?_)

theorem execOverlayRender_keeps {r s : State} {a1 a2} (h : Keeps r s) : KeepsO r (execOverlayRender a1 a2 s) := by
  unfold execOverlayRender
  repeat' first
    | with_reducible assumption
    | (intro _)
    | (with_reducible apply onEvent_keeps)
    | (with_reducible apply modRec_keeps)
    | (extract_lets +onlyGivenNames x; have hx : Keeps r x := ?_; clear_value x; rotate_left; subst x; rotate_right)
    | (extract_lets +onlyGivenNames x; clear_value x)
    | split
    | (unfold Keeps; dsimp only; refine (?_ : Keeps _ _))

/-! ### Machine/Weighbridge -/

theorem modLine_keeps {r s : State} {a1 a2} (h : Keeps r s) : Keeps r (modLine a1 a2 s) := by
  unfold modLine
  repeat' first
    | with_reducible assumption
    | (extract_lets +onlyGivenNames x; clear_value x)
    | (unfold Keeps; dsimp only; refine (?_ : Keeps _ _))

theorem replaceSlice_keeps {r s : State} {a1} (h : Keeps r s) : Keeps r (replaceSlice a1 s) := by
  unfold replaceSlice
  repeat' first
    | with_reducible assumption
    | (with_reducible apply notify_keeps)
    | (with_reducible apply raise_keeps)
    | (extract_lets +onlyGivenNames x; have hx : Keeps r x := ?_; clear_value x; rotate_left; subst x; rotate_right)
    | (extract_lets +onlyGivenNames x; clear_value x)
    | split
    | (unfold Keeps; dsimp only; refine (?_ : Keeps _ _))

theorem retireSlice_keeps {r s : State} {a1} (h : Keeps r s) : Keeps r (retireSlice a1 s) := by
  unfold retireSlice
  repeat' first
    | with_reducible assumption
    | (with_reducible apply replaceSlice_keeps)
    | (with_reducible apply notify_keeps)
    | (with_reducible apply granaryUse_keeps)
    | (extract_lets +onlyGivenNames x; have hx : Keeps r x := ?_; clear_value x; rotate_left; subst x; rotate_right)
    | (extract_lets +onlyGivenNames x; clear_value x)
    | split
    | (unfold Keeps; dsimp only; refine (?_ : Keeps _ _))

theorem chargeNoted_keeps {r s : State} {a1} (h : Keeps r s) : Keeps r (chargeNoted a1 s) := by
  unfold chargeNoted
  exact h

theorem charge_keeps {r s : State} {a1 a2} (h : Keeps r s) : Keeps r (charge a1 a2 s) := by
  unfold charge
  repeat' first
    | with_reducible assumption
    | (with_reducible apply retireSlice_keeps)
    | (with_reducible apply chargeNoted_keeps)
    | (extract_lets +onlyGivenNames x; have hx : Keeps r x := ?_; clear_value x; rotate_left; subst x; rotate_right)
    | (extract_lets +onlyGivenNames x; clear_value x)
    | split
    | (unfold Keeps; dsimp only; refine (?_ : Keeps _ _))

theorem logLine_keeps {r s : State} {a1} (h : Keeps r s) : Keeps r (logLine a1 s) := by
  unfold logLine
  repeat' first
    | with_reducible assumption
    | (with_reducible apply raise_keeps)
    | (extract_lets +onlyGivenNames x; clear_value x)
    | (unfold Keeps; dsimp only; refine (?_ : Keeps _ _))

theorem modDigest_keeps {r s : State} {a1 a2} (h : Keeps r s) : Keeps r (modDigest a1 a2 s) := by
  unfold modDigest
  repeat' first
    | with_reducible assumption
    | (extract_lets +onlyGivenNames x; clear_value x)
    | split
    | (unfold Keeps; dsimp only; refine (?_ : Keeps _ _))

theorem dropDigest_keeps {r s : State} {a1} (h : Keeps r s) : Keeps r (dropDigest a1 s) := by
  unfold dropDigest
  repeat' first
    | with_reducible assumption
    | (extract_lets +onlyGivenNames x; clear_value x)
    | (unfold Keeps; dsimp only; refine (?_ : Keeps _ _))

theorem suspectLine_keeps {r s : State} {a1} (h : Keeps r s) : Keeps r (suspectLine a1 s) := by
  unfold suspectLine
  repeat' first
    | with_reducible assumption
    | (with_reducible apply setFlag_keeps)
    | (extract_lets +onlyGivenNames x; clear_value x)
    | with_reducible refine Keeps.foldl ?_ (fun _ _ _ => ?_)
    | (unfold Keeps; dsimp only; refine (?_ : Keeps _ _))

theorem resolveMismatch_keeps {r s : State} {a1} (h : Keeps r s) : Keeps r (resolveMismatch a1 s) := by
  unfold resolveMismatch
  repeat' first
    | with_reducible assumption
    | (with_reducible apply dropDigest_keeps)
    | (with_reducible apply dueYield_keeps)
    | (with_reducible apply raise_keeps)
    | (with_reducible apply suspectLine_keeps)
    | (extract_lets +onlyGivenNames x; have hx : Keeps r x := ?_; clear_value x; rotate_left; subst x; rotate_right)
    | (extract_lets +onlyGivenNames x; clear_value x)
    | split

theorem compareDigests_keeps {r s : State} {a1} (h : Keeps r s) : Keeps r (compareDigests a1 s) := by
  unfold compareDigests
  repeat' first
    | with_reducible assumption
    | (with_reducible apply dropDigest_keeps)
    | (with_reducible apply modDigest_keeps)
    | (with_reducible apply resolveMismatch_keeps)
    | (with_reducible apply uraraSend_keeps)
    | (extract_lets +onlyGivenNames x; have hx : Keeps r x := ?_; clear_value x; rotate_left; subst x; rotate_right)
    | (extract_lets +onlyGivenNames x; clear_value x)
    | split
    | (unfold Keeps; dsimp only; refine (?_ : Keeps _ _))

theorem sendDigest_keeps {r s : State} {a1 a2 a3} (h : Keeps r s) : Keeps r (sendDigest a1 a2 a3 s) := by
  unfold sendDigest
  repeat' first
    | with_reducible assumption
    | (with_reducible apply uraraSend_keeps)
    | (with_reducible apply compareDigests_keeps)
    | (with_reducible apply modDigest_keeps)
    | (extract_lets +onlyGivenNames x; have hx : Keeps r x := ?_; clear_value x; rotate_left; subst x; rotate_right)
    | (extract_lets +onlyGivenNames x; clear_value x)
    | split

theorem sealLine_keeps {r s : State} {a1 a2 a3} (h : Keeps r s) : Keeps r (sealLine a1 a2 a3 s) := by
  unfold sealLine
  repeat' first
    | with_reducible assumption
    | (with_reducible apply modLine_keeps)
    | (with_reducible apply modRecipe_keeps)
    | (with_reducible apply sendDigest_keeps)
    | split

theorem unresolve_keeps {r s : State} {a1} (h : Keeps r s) : Keeps r (unresolve a1 s) := by
  unfold unresolve
  repeat' first
    | with_reducible assumption
    | (with_reducible apply modLine_keeps)
    | (with_reducible apply logLine_keeps)
    | (with_reducible apply raise_keeps)
    | (with_reducible apply voidProduct_keeps)
    | (extract_lets +onlyGivenNames x; have hx : Keeps r x := ?_; clear_value x; rotate_left; subst x; rotate_right)
    | (extract_lets +onlyGivenNames x; clear_value x)
    | with_reducible refine Keeps.foldl ?_ (fun _ _ _ => ?_)

theorem decideLine_keeps {r s : State} {a1} (h : Keeps r s) : Keeps r (decideLine a1 s) := by
  unfold decideLine
  repeat' first
    | with_reducible assumption
    | (with_reducible apply logLine_keeps)
    | (with_reducible apply sealLine_keeps)
    | (with_reducible apply charge_keeps)
    | (with_reducible apply unresolve_keeps)
    | (extract_lets +onlyGivenNames x; have hx : Keeps r x := ?_; clear_value x; rotate_left; subst x; rotate_right)
    | (extract_lets +onlyGivenNames x; clear_value x)
    | split
    | with_reducible refine Keeps.foldl ?_ (fun _ _ _ => ?_)

theorem decideLines_keeps {r : State} : ∀ {a1} {s : State}, Keeps r s → Keeps r (decideLines a1 s) := by
  intro a1
  induction a1 with
  | zero => intro s h; exact h
  | succ n ih =>
    intro s h
    refine ih (Keeps.foldl h ?_)
    intro x a hx
    split
    · exact decideLine_keeps hx
    · exact hx

theorem weighbridgeFault_keeps {r s : State} (h : Keeps r s) : Keeps r (weighbridgeFault s) := by
  unfold weighbridgeFault
  repeat' first
    | with_reducible assumption
    | (with_reducible apply raise_keeps)
    | (extract_lets +onlyGivenNames x; clear_value x)
    | split
    | (unfold Keeps; dsimp only; refine (?_ : Keeps _ _))

theorem takeResult_keeps {r s : State} {a1 a2 a3} (h : Keeps r s) : Keeps r (takeResult a1 a2 a3 s) := by
  unfold takeResult
  repeat' first
    | with_reducible assumption
    | (with_reducible apply weighbridgeFault_keeps)
    | (with_reducible apply decideLines_keeps)
    | (with_reducible apply modLine_keeps)
    | (extract_lets +onlyGivenNames x; have hx : Keeps r x := ?_; clear_value x; rotate_left; subst x; rotate_right)
    | (extract_lets +onlyGivenNames x; clear_value x)
    | split
    | (unfold Keeps; dsimp only; refine (?_ : Keeps _ _))

theorem execSliceResultComplete_keeps {r s : State} {a1 a2 a3 a4} (h : Keeps r s) : KeepsO r (execSliceResultComplete a1 a2 a3 a4 s) := by
  unfold execSliceResultComplete
  repeat' first
    | with_reducible assumption
    | (intro _)
    | (with_reducible apply onEvent_keeps)
    | (with_reducible apply takeResult_keeps)

theorem execVoteRecomputeStart_keeps {r s : State} {a1 a2 a3} (h : Keeps r s) : KeepsO r (execVoteRecomputeStart a1 a2 a3 s) := by
  unfold execVoteRecomputeStart
  repeat' first
    | with_reducible assumption
    | (intro _)
    | (with_reducible apply onEvent_keeps)
    | (with_reducible apply unresolve_keeps)
    | (with_reducible apply raise_keeps)
    | (with_reducible apply modLine_keeps)
    | (extract_lets +onlyGivenNames x; have hx : Keeps r x := ?_; clear_value x; rotate_left; subst x; rotate_right)
    | (extract_lets +onlyGivenNames x; clear_value x)
    | split
    | (unfold Keeps; dsimp only; refine (?_ : Keeps _ _))

theorem execVoteRecomputeDone_keeps {r s : State} {a1 a2 a3} (h : Keeps r s) : KeepsO r (execVoteRecomputeDone a1 a2 a3 s) := by
  unfold execVoteRecomputeDone
  repeat' first
    | with_reducible assumption
    | (intro _)
    | (with_reducible apply onEvent_keeps)
    | (with_reducible apply weighbridgeFault_keeps)
    | (with_reducible apply decideLines_keeps)
    | (with_reducible apply modLine_keeps)
    | (extract_lets +onlyGivenNames x; have hx : Keeps r x := ?_; clear_value x; rotate_left; subst x; rotate_right)
    | (extract_lets +onlyGivenNames x; clear_value x)
    | split
    | (unfold Keeps; dsimp only; refine (?_ : Keeps _ _))

theorem giveUpResult_keeps {r s : State} {a1 a2 a3} (h : Keeps r s) : Keeps r (giveUpResult a1 a2 a3 s) := by
  unfold giveUpResult; dsimp only
  unfold modLine; exact h

theorem execSliceTimeout_keeps {r s : State} {a1 a2 a3} (h : Keeps r s) : KeepsO r (execSliceTimeout a1 a2 a3 s) := by
  unfold execSliceTimeout
  repeat' first
    | with_reducible assumption
    | (intro _)
    | (with_reducible apply onEvent_keeps)
    | (with_reducible apply decideLines_keeps)
    | (with_reducible apply retireSlice_keeps)
    | (with_reducible apply giveUpResult_keeps)
    | (with_reducible apply chargeNoted_keeps)
    | (with_reducible apply raise_keeps)
    | (extract_lets +onlyGivenNames x; clear_value x)
    | split

theorem execIntakeSegmentRedecode_keeps {r s : State} {a1 a2} (h : Keeps r s) : KeepsO r (execIntakeSegmentRedecode a1 a2 s) := by
  unfold execIntakeSegmentRedecode
  repeat' first
    | with_reducible assumption
    | (intro _)
    | (with_reducible apply onEvent_keeps)
    | (with_reducible apply decideLines_keeps)
    | (with_reducible apply charge_keeps)
    | (with_reducible apply voidProduct_keeps)
    | (with_reducible apply raise_keeps)
    | (extract_lets +onlyGivenNames x; have hx : Keeps r x := ?_; clear_value x; rotate_left; subst x; rotate_right)
    | (extract_lets +onlyGivenNames x; clear_value x)
    | split
    | with_reducible refine Keeps.foldl ?_ (fun _ _ _ => ?_)
    | (unfold Keeps; dsimp only; refine (?_ : Keeps _ _))

theorem execMillDomainLost_keeps {r s : State} {a1 a2} (h : Keeps r s) : KeepsO r (execMillDomainLost a1 a2 s) := by
  unfold execMillDomainLost
  repeat' first
    | with_reducible assumption
    | (intro _)
    | (with_reducible apply onEvent_keeps)
    | (with_reducible apply raise_keeps)
    | (extract_lets +onlyGivenNames x; clear_value x)
    | split
    | (unfold Keeps; dsimp only; refine (?_ : Keeps _ _))

end Sys2Proof.Machine
end

