-- ==== Sys2Proof/Laws/KeepsStalls.lean ====
section
/-!
SUPPORT. The operations of the vision results, the Stalls, calibration, the Ledger and the lanes keep what Keeps says.
-/
namespace Sys2Proof.Machine

/-! ### Machine/Sight -/

theorem modSensor_keeps {r s : State} {a1 a2} (h : Keeps r s) : Keeps r (modSensor a1 a2 s) := by
  unfold modSensor
  repeat' first
    | with_reducible assumption
    | (extract_lets +onlyGivenNames x; clear_value x)
    | split
    | (unfold Keeps; dsimp only; refine (?_ : Keeps _ _))

theorem sendVision_keeps {r s : State} {a1 a2 a3 a4} (h : Keeps r s) : Keeps r (sendVision a1 a2 a3 a4 s) := by
  unfold sendVision
  repeat' first
    | with_reducible assumption
    | (with_reducible apply raise_keeps)
    | (with_reducible apply queueUnits_keeps)
    | (extract_lets +onlyGivenNames x; clear_value x)
    | split
    | with_reducible refine Keeps.foldl ?_ (fun _ _ _ => ?_)
    | (unfold Keeps; dsimp only; refine (?_ : Keeps _ _))

theorem chargeUnit_keeps {r s : State} {a1 a2} (h : Keeps r s) : Keeps r (chargeUnit a1 a2 s) := by
  unfold chargeUnit
  repeat' first
    | with_reducible assumption
    | (with_reducible apply dueYield_keeps)
    | (extract_lets +onlyGivenNames x; have hx : Keeps r x := ?_; clear_value x; rotate_left; subst x; rotate_right)
    | (extract_lets +onlyGivenNames x; clear_value x)
    | split
    | (unfold Keeps; dsimp only; refine (?_ : Keeps _ _))

theorem settleSuspects_keeps {r s : State} {a1 a2} (h : Keeps r s) : Keeps r (settleSuspects a1 a2 s) := by
  unfold settleSuspects
  repeat' first
    | with_reducible assumption
    | (with_reducible apply chargeUnit_keeps)
    | (extract_lets +onlyGivenNames x; have hx : Keeps r x := ?_; clear_value x; rotate_left; subst x; rotate_right)
    | (extract_lets +onlyGivenNames x; clear_value x)
    | split
    | with_reducible refine Keeps.foldl ?_ (fun _ _ _ => ?_)
    | (unfold Keeps; dsimp only; refine (?_ : Keeps _ _))

theorem feedLive_keeps {r s : State} {a1} (h : Keeps r s) : Keeps r (feedLive a1 s) := by
  unfold feedLive
  repeat' first
    | with_reducible assumption
    | (extract_lets +onlyGivenNames x; clear_value x)
    | split
    | with_reducible refine Keeps.foldl ?_ (fun _ _ _ => ?_)
    | (unfold Keeps; dsimp only; refine (?_ : Keeps _ _))

theorem applyOutcome_keeps {r s : State} {a1 a2 a3 a4} (h : Keeps r s) : Keeps r (applyOutcome a1 a2 a3 a4 s) := by
  unfold applyOutcome
  repeat' first
    | with_reducible assumption
    | (with_reducible apply modRec_keeps)
    | (with_reducible apply settleSuspects_keeps)
    | (with_reducible apply settleProduct_keeps)
    | (with_reducible apply raise_keeps)
    | (with_reducible apply setFlag_keeps)
    | (with_reducible apply voidProduct_keeps)
    | (with_reducible apply voidRec_keeps)
    | (extract_lets +onlyGivenNames x; have hx : Keeps r x := ?_; clear_value x; rotate_left; subst x; rotate_right)
    | split

theorem endVerify_keeps {r s : State} {a1} (h : Keeps r s) : Keeps r (endVerify a1 s) := by
  unfold endVerify
  repeat' first
    | with_reducible assumption
    | (with_reducible apply sendVision_keeps)
    | (with_reducible apply uraraSend_keeps)
    | (with_reducible apply feedLive_keeps)
    | (with_reducible apply applyOutcome_keeps)
    | (extract_lets +onlyGivenNames x; have hx : Keeps r x := ?_; clear_value x; rotate_left; subst x; rotate_right)
    | (extract_lets +onlyGivenNames x; clear_value x)
    | split
    | with_reducible refine Keeps.foldl ?_ (fun _ _ _ => ?_)
    | (unfold Keeps; dsimp only; refine (?_ : Keeps _ _))

theorem beginVerify_keeps {r s : State} {a1} (h : Keeps r s) : Keeps r (beginVerify a1 s) := by
  unfold beginVerify
  repeat' first
    | with_reducible assumption
    | (with_reducible apply voidFault_keeps)
    | (with_reducible apply setFlag_keeps)
    | (with_reducible apply raise_keeps)
    | (with_reducible apply endVerify_keeps)
    | (extract_lets +onlyGivenNames x; have hx : Keeps r x := ?_; clear_value x; rotate_left; subst x; rotate_right)
    | (extract_lets +onlyGivenNames x; clear_value x)
    | split
    | (unfold Keeps; dsimp only; refine (?_ : Keeps _ _))

theorem verifyDeadline_keeps {r s : State} {a1} (h : Keeps r s) : Keeps r (verifyDeadline a1 s) := by
  unfold verifyDeadline
  repeat' first
    | with_reducible assumption
    | (with_reducible apply endVerify_keeps)
    | with_reducible refine Keeps.foldl ?_ (fun _ _ _ => ?_)

theorem settleVerify_keeps {r s : State} (h : Keeps r s) : Keeps r (settleVerify s) := by
  unfold settleVerify
  repeat' first
    | with_reducible assumption
    | (with_reducible apply endVerify_keeps)
    | (extract_lets +onlyGivenNames x; have hx : Keeps r x := ?_; clear_value x; rotate_left; subst x; rotate_right)
    | (extract_lets +onlyGivenNames x; clear_value x)
    | with_reducible refine Keeps.foldl ?_ (fun _ _ _ => ?_)
    | (unfold Keeps; dsimp only; refine (?_ : Keeps _ _))

/-! ### Machine/Lanes -/

theorem huntLane_keeps {r s : State} {a1} (h : Keeps r s) : Keeps r (huntLane a1 s) := by
  unfold huntLane
  repeat' first
    | with_reducible assumption
    | (with_reducible apply modLane_keeps)

theorem useSpareLane_keeps {r s : State} {a1} (h : Keeps r s) : Keeps r (useSpareLane a1 s) := by
  unfold useSpareLane
  repeat' first
    | with_reducible assumption
    | (with_reducible apply granaryUse_keeps)
    | split

theorem failLane_keeps {r s : State} {a1} (h : Keeps r s) : Keeps r (failLane a1 s) := by
  unfold failLane
  repeat' first
    | with_reducible assumption
    | (with_reducible apply modLane_keeps)
    | (with_reducible apply notify_keeps)
    | (with_reducible apply useSpareLane_keeps)
    | split

/-! ### Machine/Stalls -/

theorem modStall_keeps {r s : State} {a1 a2} (h : Keeps r s) : Keeps r (modStall a1 a2 s) := by
  unfold modStall
  repeat' first
    | with_reducible assumption
    | split
    | (unfold Keeps; dsimp only; refine (?_ : Keeps _ _))

theorem countStall_keeps {r s : State} {a1 a2} (h : Keeps r s) : Keeps r (countStall a1 a2 s) := by
  unfold countStall
  repeat' first
    | with_reducible assumption
    | (with_reducible apply modStall_keeps)

theorem settlePermits_keeps {r s : State} (h : Keeps r s) : Keeps r (settlePermits s) := by
  unfold settlePermits
  repeat' first
    | with_reducible assumption
    | (with_reducible apply done_keeps)
    | (extract_lets +onlyGivenNames x; clear_value x)
    | split
    | with_reducible refine Keeps.foldl ?_ (fun _ _ _ => ?_)

theorem withdrawPermit_keeps {r s : State} {a1} (h : Keeps r s) : Keeps r (withdrawPermit a1 s) := by
  unfold withdrawPermit
  repeat' first
    | with_reducible assumption
    | (with_reducible apply modStall_keeps)

theorem releasePermit_keeps {r s : State} {a1} (h : Keeps r s) : Keeps r (releasePermit a1 s) := by
  unfold releasePermit
  repeat' first
    | with_reducible assumption
    | (with_reducible apply modStall_keeps)

theorem refreshPermit_keeps {r s : State} {a1} (h : Keeps r s) : Keeps r (refreshPermit a1 s) := by
  unfold refreshPermit
  repeat' first
    | with_reducible assumption
    | (with_reducible apply modStall_keeps)
    | (with_reducible apply settlePermits_keeps)
    | (with_reducible apply releasePermit_keeps)
    | (extract_lets +onlyGivenNames x; clear_value x)
    | split

theorem voidStop_keeps {r s : State} {a1 a2} (h : Keeps r s) : Keeps r (voidStop a1 a2 s) := by
  unfold voidStop
  repeat' first
    | with_reducible assumption
    | (with_reducible apply voidFault_keeps)
    | (with_reducible apply stopProduct_keeps)

theorem headOvertemp_keeps {r s : State} {a1} (h : Keeps r s) : Keeps r (headOvertemp a1 s) := by
  unfold headOvertemp
  repeat' first
    | with_reducible assumption
    | (with_reducible apply withdrawPermit_keeps)
    | (with_reducible apply raise_keeps)
    | (with_reducible apply modStall_keeps)
    | (with_reducible apply voidProduct_keeps)
    | (with_reducible apply stopProduct_keeps)
    | (extract_lets +onlyGivenNames x; have hx : Keeps r x := ?_; clear_value x; rotate_left; subst x; rotate_right)
    | split
    | with_reducible refine Keeps.foldl ?_ (fun _ _ _ => ?_)

theorem moveGrid_keeps {r s : State} {a1} (h : Keeps r s) : Keeps r (moveGrid a1 s) := by
  unfold moveGrid
  repeat' first
    | with_reducible assumption
    | (with_reducible apply modStall_keeps)
    | (extract_lets +onlyGivenNames x; clear_value x)
    | split

theorem sendMessage_keeps {r s : State} {a1 a2 a3} (h : Keeps r s) : Keeps r (sendMessage a1 a2 a3 s) := by
  unfold sendMessage
  repeat' first
    | with_reducible assumption
    | (with_reducible apply modStall_keeps)
    | (with_reducible apply emit_keeps)

theorem sendConfig_keeps {r s : State} {a1} (h : Keeps r s) : Keeps r (sendConfig a1 s) := by
  unfold sendConfig
  repeat' first
    | with_reducible assumption
    | (with_reducible apply modStall_keeps)
    | (with_reducible apply sendMessage_keeps)

theorem settleStallConfig_keeps {r s : State} {a1} (h : Keeps r s) : Keeps r (settleStallConfig a1 s) := by
  unfold settleStallConfig
  repeat' first
    | with_reducible assumption
    | (with_reducible apply finish_keeps)
    | (with_reducible apply modStall_keeps)
    | (extract_lets +onlyGivenNames x; clear_value x)
    | split

theorem stallLocks_keeps {r s : State} {a1} (h : Keeps r s) : Keeps r (stallLocks a1 s) := by
  unfold stallLocks
  repeat' first
    | with_reducible assumption
    | (with_reducible apply modStall_keeps)
    | (with_reducible apply refreshPermit_keeps)
    | (with_reducible apply settleStallConfig_keeps)
    | (with_reducible apply sendConfig_keeps)

theorem useSpareElems_keeps {r s : State} {a1 a2} (h : Keeps r s) : Keeps r (useSpareElems a1 a2 s) := by
  unfold useSpareElems
  repeat' first
    | with_reducible assumption
    | (with_reducible apply granaryUse_keeps)
    | (extract_lets +onlyGivenNames x; clear_value x)
    | with_reducible refine Keeps.foldl ?_ (fun _ _ _ => ?_)

theorem retireElement_keeps {r s : State} {a1 a2 a3} (h : Keeps r s) : Keeps r (retireElement a1 a2 a3 s) := by
  unfold retireElement
  repeat' first
    | with_reducible assumption
    | (with_reducible apply keepEpochs_keeps)
    | (with_reducible apply notify_keeps)
    | (with_reducible apply useSpareElems_keeps)
    | (with_reducible apply placementDue_keeps)
    | (with_reducible apply tellLead_keeps)
    | (extract_lets +onlyGivenNames x; have hx : Keeps r x := ?_; clear_value x; rotate_left; subst x; rotate_right)
    | (extract_lets +onlyGivenNames x; clear_value x)
    | split
    | (unfold Keeps; dsimp only; refine (?_ : Keeps _ _))

theorem settleFiring_keeps {r s : State} (h : Keeps r s) : Keeps r (settleFiring s) := by
  unfold settleFiring
  repeat' first
    | with_reducible assumption
    | (with_reducible apply beginVerify_keeps)
    | (with_reducible apply firedPart_keeps)
    | (with_reducible apply modProduct_keeps)
    | (with_reducible apply settleProduct_keeps)
    | (extract_lets +onlyGivenNames x; clear_value x)
    | split
    | with_reducible refine Keeps.foldl ?_ (fun _ _ _ => ?_)

theorem applyFlags_keeps {r s : State} {a1} (h : Keeps r s) : Keeps r (applyFlags a1 s) := by
  unfold applyFlags
  repeat' first
    | with_reducible assumption
    | (with_reducible apply modProduct_keeps)
    | with_reducible refine Keeps.foldl ?_ (fun _ _ _ => ?_)

theorem endFrame_keeps {r s : State} {a1 a2 a3} (h : Keeps r s) : Keeps r (endFrame a1 a2 a3 s) := by
  unfold endFrame
  repeat' first
    | with_reducible assumption
    | (with_reducible apply settleFiring_keeps)
    | (with_reducible apply modStall_keeps)

theorem missFrame_keeps {r s : State} {a1 a2} (h : Keeps r s) : Keeps r (missFrame a1 a2 s) := by
  unfold missFrame
  repeat' first
    | with_reducible assumption
    | (with_reducible apply countStall_keeps)
    | (with_reducible apply voidFault_keeps)
    | (with_reducible apply endFrame_keeps)
    | split
    | with_reducible refine Keeps.foldl ?_ (fun _ _ _ => ?_)

/-! ### Machine/Frames -/

theorem account_keeps {r s : State} {a1 a2} (h : Keeps r s) : Keeps r (account a1 a2 s) := by
  unfold account
  repeat' first
    | with_reducible assumption
    | (with_reducible apply modStall_keeps)

theorem moveWs_keeps {r s : State} {a1 a2} (h : Keeps r s) : Keeps r (moveWs a1 a2 s) := by
  unfold moveWs
  repeat' first
    | with_reducible assumption
    | (with_reducible apply modStall_keeps)

theorem switchBanks_keeps {r s : State} {a1 a2} (h : Keeps r s) : Keeps r (switchBanks a1 a2 s) := by
  unfold switchBanks
  repeat' first
    | with_reducible assumption
    | (with_reducible apply modStall_keeps)

theorem beginLoads_keeps {r s : State} {a1} (h : Keeps r s) : Keeps r (beginLoads a1 s) := by
  unfold beginLoads
  repeat' first
    | with_reducible assumption
    | (with_reducible apply modStall_keeps)
    | with_reducible refine Keeps.foldl ?_ (fun _ _ _ => ?_)

theorem judgeSpeed_keeps {r s : State} {a1} (h : Keeps r s) : Keeps r (judgeSpeed a1 s) := by
  unfold judgeSpeed
  repeat' first
    | with_reducible assumption
    | (with_reducible apply voidStop_keeps)
    | (extract_lets +onlyGivenNames x; clear_value x)
    | split
    | with_reducible refine Keeps.foldl ?_ (fun _ _ _ => ?_)

theorem dropLines_keeps {r s : State} {a1 a2} (h : Keeps r s) : Keeps r (dropLines a1 a2 s) := by
  unfold dropLines
  repeat' first
    | with_reducible assumption
    | (with_reducible apply modStall_keeps)

theorem buildFrame_keeps {r s : State} {a1 a2} (h : Keeps r s) : Keeps r (buildFrame a1 a2 s) := by
  unfold buildFrame
  repeat' first
    | with_reducible assumption
    | (with_reducible apply beginLoads_keeps)
    | (with_reducible apply switchBanks_keeps)
    | (with_reducible apply moveWs_keeps)
    | (with_reducible apply judgeSpeed_keeps)
    | (with_reducible apply modStall_keeps)
    | (with_reducible apply settleFiring_keeps)
    | (with_reducible apply dropLines_keeps)
    | (with_reducible apply countStall_keeps)
    | (with_reducible apply notify_keeps)
    | (with_reducible apply applyFlags_keeps)
    | (with_reducible apply account_keeps)
    | (extract_lets +onlyGivenNames x; have hx : Keeps r x := ?_; clear_value x; rotate_left; subst x; rotate_right)
    | (extract_lets +onlyGivenNames x; clear_value x)
    | split

theorem sendFrame_keeps {r s : State} {a1 a2} (h : Keeps r s) : Keeps r (sendFrame a1 a2 s) := by
  unfold sendFrame
  repeat' first
    | with_reducible assumption
    | (with_reducible apply sendMessage_keeps)
    | (with_reducible apply modStall_keeps)

/-! ### Machine/Epochs -/

theorem closeTwinEpoch_keeps {r s : State} {a1} (h : Keeps r s) : Keeps r (closeTwinEpoch a1 s) := by
  unfold closeTwinEpoch
  repeat' first
    | with_reducible assumption
    | (with_reducible apply proposeIfDue_keeps)
    | (extract_lets +onlyGivenNames x; clear_value x)
    | split
    | (unfold Keeps; dsimp only; refine (?_ : Keeps _ _))

theorem execCalEpochCommit_keeps {r s : State} {a1} (h : Keeps r s) : KeepsO r (execCalEpochCommit a1 s) := by
  unfold execCalEpochCommit
  repeat' first
    | with_reducible assumption
    | (intro _)
    | (with_reducible apply onEvent_keeps)
    | (with_reducible apply closeTwinEpoch_keeps)
    | (extract_lets +onlyGivenNames x; clear_value x)
    | split
    | (unfold Keeps; dsimp only; refine (?_ : Keeps _ _))

theorem commitBanks_keeps {r s : State} {a1} (h : Keeps r s) : Keeps r (commitBanks a1 s) := by
  unfold commitBanks
  repeat' first
    | with_reducible assumption
    | (with_reducible apply modStall_keeps)
    | (with_reducible apply sendConfig_keeps)
    | split
    | with_reducible refine Keeps.foldl ?_ (fun _ _ _ => ?_)

theorem reportTracked_keeps {r s : State} {a1} (h : Keeps r s) : Keeps r (reportTracked a1 s) := by
  unfold reportTracked
  repeat' first
    | with_reducible assumption
    | (with_reducible apply notify_keeps)
    | (extract_lets +onlyGivenNames x; have hx : Keeps r x := ?_; clear_value x; rotate_left; subst x; rotate_right)
    | (extract_lets +onlyGivenNames x; clear_value x)
    | with_reducible refine Keeps.foldl ?_ (fun _ _ _ => ?_)
    | (unfold Keeps; dsimp only; refine (?_ : Keeps _ _))

theorem execPlacementEpochCommit_keeps {r s : State} {a1} (h : Keeps r s) : KeepsO r (execPlacementEpochCommit a1 s) := by
  unfold execPlacementEpochCommit
  repeat' first
    | with_reducible assumption
    | (intro _)
    | (with_reducible apply onEvent_keeps)
    | (with_reducible apply reportTracked_keeps)
    | (with_reducible apply commitBanks_keeps)
    | (with_reducible apply closeTwinEpoch_keeps)
    | (with_reducible apply useSpareElems_keeps)
    | (extract_lets +onlyGivenNames x; have hx : Keeps r x := ?_; clear_value x; rotate_left; subst x; rotate_right)
    | (extract_lets +onlyGivenNames x; clear_value x)
    | split
    | with_reducible refine Keeps.foldl ?_ (fun _ _ _ => ?_)
    | (unfold Keeps; dsimp only; refine (?_ : Keeps _ _))

/-! ### Machine/StallCmds -/

theorem dropStallWait_keeps {r s : State} {a1} (h : Keeps r s) : Keeps r (dropStallWait a1 s) := by
  unfold dropStallWait
  repeat' first
    | with_reducible assumption
    | (with_reducible apply finish_keeps)
    | (with_reducible apply modStall_keeps)
    | split

theorem freeSpare_keeps {r s : State} {a1} (h : Keeps r s) : Keeps r (freeSpare a1 s) := by
  unfold freeSpare
  repeat' first
    | with_reducible assumption
    | (with_reducible apply modLane_keeps)
    | (with_reducible apply huntLane_keeps)
    | split

theorem disableStall_keeps {r s : State} {a1} (h : Keeps r s) : Keeps r (disableStall a1 s) := by
  unfold disableStall
  repeat' first
    | with_reducible assumption
    | (with_reducible apply freeSpare_keeps)
    | (with_reducible apply dropStallWait_keeps)
    | (with_reducible apply modStall_keeps)
    | (with_reducible apply settlePermits_keeps)
    | (with_reducible apply releasePermit_keeps)
    | (with_reducible apply modLane_keeps)

theorem enableStall_keeps {r s : State} {a1 a2 a3 a4} (h : Keeps r s) : Keeps r (enableStall a1 a2 a3 a4 s) := by
  unfold enableStall
  repeat' first
    | with_reducible assumption
    | (with_reducible apply dropStallWait_keeps)
    | (with_reducible apply granaryCount_keeps)
    | (with_reducible apply mendConfig_keeps)
    | (with_reducible apply modStall_keeps)
    | (with_reducible apply settleStallConfig_keeps)
    | (with_reducible apply refreshPermit_keeps)
    | (with_reducible apply sendConfig_keeps)
    | (with_reducible apply freeSpare_keeps)
    | (with_reducible apply modLane_keeps)
    | (with_reducible apply huntLane_keeps)
    | (extract_lets +onlyGivenNames x; have hx : Keeps r x := ?_; clear_value x; rotate_left; subst x; rotate_right)
    | (extract_lets +onlyGivenNames x; clear_value x)
    | split

theorem configStall_keeps {r s : State} {a1 a2 a3} (h : Keeps r s) : Keeps r (configStall a1 a2 a3 s) := by
  unfold configStall
  repeat' first
    | with_reducible assumption
    | (with_reducible apply refuse_keeps)
    | (with_reducible apply enableStall_keeps)
    | (extract_lets +onlyGivenNames x; clear_value x)
    | split

theorem execStallConfig_keeps {r s : State} {a1 a2} (h : Keeps r s) : KeepsO r (execStallConfig a1 a2 s) := by
  unfold execStallConfig
  repeat' first
    | with_reducible assumption
    | (intro _)
    | (with_reducible apply advance_keeps)
    | (with_reducible apply onStart_keeps)
    | (with_reducible apply refuse_keeps)
    | (with_reducible apply done_keeps)
    | (with_reducible apply disableStall_keeps)
    | (with_reducible apply withObject_keeps)
    | (with_reducible apply configStall_keeps)
    | (with_reducible refine KeepsO.next ?_)
    | (extract_lets +onlyGivenNames x; clear_value x)
    | split

theorem execStallConfigLaneTimeout_keeps {r s : State} {a1 a2} (h : Keeps r s) : KeepsO r (execStallConfigLaneTimeout a1 a2 s) := by
  unfold execStallConfigLaneTimeout
  repeat' first
    | with_reducible assumption
    | (intro _)
    | (with_reducible apply onEvent_keeps)
    | (with_reducible apply dropStallWait_keeps)
    | (extract_lets +onlyGivenNames x; clear_value x)
    | split

theorem execDutyLimits_keeps {r s : State} {a1 a2} (h : Keeps r s) : KeepsO r (execDutyLimits a1 a2 s) := by
  unfold execDutyLimits
  repeat' first
    | with_reducible assumption
    | (intro _)
    | (with_reducible apply onStart_keeps)
    | (with_reducible apply refuse_keeps)
    | (with_reducible apply done_keeps)
    | (with_reducible apply modStall_keeps)
    | (extract_lets +onlyGivenNames x; clear_value x)
    | split

theorem execFirePermit_keeps {r s : State} {a1 a2} (h : Keeps r s) : KeepsO r (execFirePermit a1 a2 s) := by
  unfold execFirePermit
  repeat' first
    | with_reducible assumption
    | (intro _)
    | (with_reducible apply onStart_keeps)
    | (with_reducible apply finish_keeps)
    | (with_reducible apply done_keeps)
    | (with_reducible apply refreshPermit_keeps)
    | (with_reducible apply modStall_keeps)
    | (with_reducible apply settlePermits_keeps)
    | (with_reducible apply withdrawPermit_keeps)
    | (extract_lets +onlyGivenNames x; clear_value x)
    | split
    | with_reducible refine Keeps.foldl ?_ (fun _ _ _ => ?_)

theorem execElementRetire_keeps {r s : State} {a1 a2} (h : Keeps r s) : KeepsO r (execElementRetire a1 a2 s) := by
  unfold execElementRetire
  repeat' first
    | with_reducible assumption
    | (intro _)
    | (with_reducible apply onStart_keeps)
    | (with_reducible apply refuse_keeps)
    | (with_reducible apply done_keeps)
    | (with_reducible apply retireElement_keeps)
    | split

theorem settleSpit_keeps {r s : State} {a1} (h : Keeps r s) : Keeps r (settleSpit a1 s) := by
  unfold settleSpit
  repeat' first
    | with_reducible assumption
    | (with_reducible apply finish_keeps)
    | (extract_lets +onlyGivenNames x; have hx : Keeps r x := ?_; clear_value x; rotate_left; subst x; rotate_right)
    | (extract_lets +onlyGivenNames x; clear_value x)
    | split
    | (unfold Keeps; dsimp only; refine (?_ : Keeps _ _))

theorem execSpitCycle_keeps {r s : State} {a1 a2} (h : Keeps r s) : KeepsO r (execSpitCycle a1 a2 s) := by
  unfold execSpitCycle
  repeat' first
    | with_reducible assumption
    | (intro _)
    | (with_reducible apply onStart_keeps)
    | (with_reducible apply refuse_keeps)
    | (with_reducible apply modStall_keeps)
    | (with_reducible apply settleSpit_keeps)
    | (extract_lets +onlyGivenNames x; (first | (have hw : (x : Well) = x := rfl) | (have hw : (x : Cmd) = x := rfl) | (have hw : (x : _ → State) = x := rfl) | (have hw : (x : _ → _ → State) = x := rfl) | (have hw : (x : _ → _ → _ → State) = x := rfl) | (have hw : (x : _ → _ → _ → _ → State) = x := rfl)); clear hw; subst x)
    | (extract_lets +onlyGivenNames x; clear_value x)
    | split
    | with_reducible refine Keeps.foldl ?_ (fun _ _ _ => ?_)

theorem execHeadStatus_keeps {r s : State} {a1 a2} (h : Keeps r s) : KeepsO r (execHeadStatus a1 a2 s) := by
  unfold execHeadStatus
  repeat' first
    | with_reducible assumption
    | (intro _)
    | (with_reducible apply onStart_keeps)
    | (with_reducible apply refuse_keeps)
    | (with_reducible apply answer_keeps)
    | split

/-! ### Machine/StallEvents -/

theorem lateLine_keeps {r s : State} {a1 a2} (h : Keeps r s) : Keeps r (lateLine a1 a2 s) := by
  unfold lateLine
  repeat' first
    | with_reducible assumption
    | (with_reducible apply modStall_keeps)
    | (with_reducible apply settleFiring_keeps)
    | (with_reducible apply voidStop_keeps)
    | (extract_lets +onlyGivenNames x; have hx : Keeps r x := ?_; clear_value x; rotate_left; subst x; rotate_right)
    | (extract_lets +onlyGivenNames x; clear_value x)
    | split
    | with_reducible refine Keeps.foldl ?_ (fun _ _ _ => ?_)

theorem execStallReadout_keeps {r s : State} {a1 a2 a3 a4 a5} (h : Keeps r s) : KeepsO r (execStallReadout a1 a2 a3 a4 a5 s) := by
  unfold execStallReadout
  repeat' first
    | with_reducible assumption
    | (intro _)
    | (with_reducible apply onEvent_keeps)
    | (with_reducible apply lateLine_keeps)
    | (with_reducible apply modStall_keeps)
    | (with_reducible apply voidFault_keeps)
    | (extract_lets +onlyGivenNames x; have hx : Keeps r x := ?_; clear_value x; rotate_left; subst x; rotate_right)
    | (extract_lets +onlyGivenNames x; clear_value x)
    | split
    | with_reducible refine Keeps.foldl ?_ (fun _ _ _ => ?_)

theorem execLineFrameSend_keeps {r s : State} {a1 a2} (h : Keeps r s) : KeepsO r (execLineFrameSend a1 a2 s) := by
  unfold execLineFrameSend
  repeat' first
    | with_reducible assumption
    | (intro _)
    | (with_reducible apply onEvent_keeps)
    | (with_reducible apply sendFrame_keeps)
    | (with_reducible apply endFrame_keeps)
    | (extract_lets +onlyGivenNames x; clear_value x)
    | split

theorem execFireBlockSend_keeps {r s : State} {a1 a2} (h : Keeps r s) : KeepsO r (execFireBlockSend a1 a2 s) := by
  unfold execFireBlockSend
  repeat' first
    | with_reducible assumption
    | (intro _)
    | (with_reducible apply onEvent_keeps)
    | (with_reducible apply endFrame_keeps)
    | (with_reducible apply modStall_keeps)
    | (with_reducible apply emit_keeps)
    | (extract_lets +onlyGivenNames x; clear_value x)
    | split

theorem nextChannel_keeps {r s : State} {a1} (h : Keeps r s) : Keeps r (nextChannel a1 s) := by
  unfold nextChannel
  repeat' first
    | with_reducible assumption
    | (with_reducible apply modStall_keeps)
    | (with_reducible apply settleSpit_keeps)
    | (extract_lets +onlyGivenNames x; have hx : Keeps r x := ?_; clear_value x; rotate_left; subst x; rotate_right)
    | (extract_lets +onlyGivenNames x; clear_value x)
    | split

theorem execSpitFire_keeps {r s : State} {a1 a2} (h : Keeps r s) : KeepsO r (execSpitFire a1 a2 s) := by
  unfold execSpitFire
  repeat' first
    | with_reducible assumption
    | (intro _)
    | (with_reducible apply onEvent_keeps)
    | (with_reducible apply sendFrame_keeps)
    | (with_reducible apply modStall_keeps)
    | (with_reducible apply account_keeps)
    | (with_reducible apply countStall_keeps)
    | (with_reducible apply emit_keeps)
    | (with_reducible apply nextChannel_keeps)
    | (extract_lets +onlyGivenNames x; have hx : Keeps r x := ?_; clear_value x; rotate_left; subst x; rotate_right)
    | (extract_lets +onlyGivenNames x; clear_value x)
    | split

theorem execOgEdge_keeps {r s : State} {a1 a2 a3} (h : Keeps r s) : KeepsO r (execOgEdge a1 a2 a3 s) := by
  unfold execOgEdge
  repeat' first
    | with_reducible assumption
    | (intro _)
    | (with_reducible apply onEvent_keeps)
    | (unfold Keeps; dsimp only; refine (?_ : Keeps _ _))

theorem execSpitDropWindowEnd_keeps {r s : State} {a1 a2} (h : Keeps r s) : KeepsO r (execSpitDropWindowEnd a1 a2 s) := by
  unfold execSpitDropWindowEnd
  repeat' first
    | with_reducible assumption
    | (intro _)
    | (with_reducible apply onEvent_keeps)
    | (with_reducible apply modStall_keeps)
    | (with_reducible apply nextChannel_keeps)
    | (with_reducible apply retireElement_keeps)
    | (extract_lets +onlyGivenNames x; have hx : Keeps r x := ?_; clear_value x; rotate_left; subst x; rotate_right)
    | (extract_lets +onlyGivenNames x; clear_value x)
    | split

theorem execHeadAckReceive_keeps {r s : State} {a1 a2 a3} (h : Keeps r s) : KeepsO r (execHeadAckReceive a1 a2 a3 s) := by
  unfold execHeadAckReceive
  repeat' first
    | with_reducible assumption
    | (intro _)
    | (with_reducible apply onEvent_keeps)
    | (with_reducible apply modStall_keeps)
    | split

theorem execHeadNakReceive_keeps {r s : State} {a1 a2 a3 a4} (h : Keeps r s) : KeepsO r (execHeadNakReceive a1 a2 a3 a4 s) := by
  unfold execHeadNakReceive
  repeat' first
    | with_reducible assumption
    | (intro _)
    | (with_reducible apply onEvent_keeps)
    | (with_reducible apply countStall_keeps)
    | (with_reducible apply sendConfig_keeps)
    | (with_reducible apply sendFrame_keeps)
    | (extract_lets +onlyGivenNames x; have hx : Keeps r x := ?_; clear_value x; rotate_left; subst x; rotate_right)
    | (extract_lets +onlyGivenNames x; clear_value x)
    | split

theorem noteFirer_keeps {r s : State} {a1 a2} (h : Keeps r s) : Keeps r (noteFirer a1 a2 s) := by
  unfold noteFirer
  repeat' first
    | with_reducible assumption
    | (extract_lets +onlyGivenNames x; clear_value x)
    | split
    | (unfold Keeps; dsimp only; refine (?_ : Keeps _ _))

theorem firedFrame_keeps {r s : State} {a1 a2 a3} (h : Keeps r s) : Keeps r (firedFrame a1 a2 a3 s) := by
  unfold firedFrame
  repeat' first
    | with_reducible assumption
    | (with_reducible apply noteFirer_keeps)
    | (with_reducible apply applyFlags_keeps)
    | (with_reducible apply uraraSend_keeps)
    | (with_reducible apply endFrame_keeps)
    | split

theorem execHeadFiredReceive_keeps {r s : State} {a1 a2 a3 a4 a5} (h : Keeps r s) : KeepsO r (execHeadFiredReceive a1 a2 a3 a4 a5 s) := by
  unfold execHeadFiredReceive
  repeat' first
    | with_reducible assumption
    | (intro _)
    | (with_reducible apply onEvent_keeps)
    | (with_reducible apply modStall_keeps)
    | (with_reducible apply missFrame_keeps)
    | (with_reducible apply firedFrame_keeps)
    | (with_reducible apply countStall_keeps)
    | (with_reducible apply settleFiring_keeps)
    | (with_reducible apply noteFirer_keeps)
    | (extract_lets +onlyGivenNames x; have hx : Keeps r x := ?_; clear_value x; rotate_left; subst x; rotate_right)
    | (extract_lets +onlyGivenNames x; clear_value x)
    | split

theorem execFiredTimeout_keeps {r s : State} {a1 a2} (h : Keeps r s) : KeepsO r (execFiredTimeout a1 a2 s) := by
  unfold execFiredTimeout
  repeat' first
    | with_reducible assumption
    | (intro _)
    | (with_reducible apply onEvent_keeps)
    | (with_reducible apply modStall_keeps)
    | (with_reducible apply failLane_keeps)
    | (with_reducible apply countStall_keeps)
    | (with_reducible apply missFrame_keeps)
    | (extract_lets +onlyGivenNames x; have hx : Keeps r x := ?_; clear_value x; rotate_left; subst x; rotate_right)
    | (extract_lets +onlyGivenNames x; clear_value x)
    | split

theorem heatZones_keeps {r s : State} {a1 a2} (h : Keeps r s) : Keeps r (heatZones a1 a2 s) := by
  unfold heatZones
  repeat' first
    | with_reducible assumption
    | (with_reducible apply notify_keeps)
    | (with_reducible apply modStall_keeps)
    | (extract_lets +onlyGivenNames x; clear_value x)
    | split
    | with_reducible refine Keeps.foldl ?_ (fun _ _ _ => ?_)

theorem judgeVpp_keeps {r s : State} {a1} (h : Keeps r s) : Keeps r (judgeVpp a1 s) := by
  unfold judgeVpp
  repeat' first
    | with_reducible assumption
    | (with_reducible apply modStall_keeps)
    | (with_reducible apply withdrawPermit_keeps)
    | (with_reducible apply raise_keeps)
    | (extract_lets +onlyGivenNames x; have hx : Keeps r x := ?_; clear_value x; rotate_left; subst x; rotate_right)
    | (extract_lets +onlyGivenNames x; clear_value x)
    | split

theorem execHeadStatusReceive_keeps {r s : State} {a1 a2 a3 a4} (h : Keeps r s) : KeepsO r (execHeadStatusReceive a1 a2 a3 a4 s) := by
  unfold execHeadStatusReceive
  repeat' first
    | with_reducible assumption
    | (intro _)
    | (with_reducible apply onEvent_keeps)
    | (with_reducible apply modStall_keeps)
    | (with_reducible apply judgeVpp_keeps)
    | (with_reducible apply moveGrid_keeps)
    | (with_reducible apply heatZones_keeps)
    | (with_reducible apply headOvertemp_keeps)
    | (extract_lets +onlyGivenNames x; have hx : Keeps r x := ?_; clear_value x; rotate_left; subst x; rotate_right)
    | (extract_lets +onlyGivenNames x; clear_value x)
    | split

theorem execVppRecover_keeps {r s : State} {a1 a2} (h : Keeps r s) : KeepsO r (execVppRecover a1 a2 s) := by
  unfold execVppRecover
  repeat' first
    | with_reducible assumption
    | (intro _)
    | (with_reducible apply onEvent_keeps)
    | (with_reducible apply refreshPermit_keeps)
    | (with_reducible apply modStall_keeps)
    | (extract_lets +onlyGivenNames x; clear_value x)
    | split

theorem execHeadAlarmReceive_keeps {r s : State} {a1 a2 a3 a4 a5} (h : Keeps r s) : KeepsO r (execHeadAlarmReceive a1 a2 a3 a4 a5 s) := by
  unfold execHeadAlarmReceive
  repeat' first
    | with_reducible assumption
    | (intro _)
    | (with_reducible apply onEvent_keeps)
    | (with_reducible apply heatZones_keeps)
    | (with_reducible apply modStall_keeps)
    | (with_reducible apply headOvertemp_keeps)
    | (extract_lets +onlyGivenNames x; have hx : Keeps r x := ?_; clear_value x; rotate_left; subst x; rotate_right)
    | (extract_lets +onlyGivenNames x; clear_value x)
    | split

theorem execHeadResistReceive_keeps {r s : State} {a1 a2 a3 a4 a5} (h : Keeps r s) : KeepsO r (execHeadResistReceive a1 a2 a3 a4 a5 s) := by
  unfold execHeadResistReceive
  repeat' first
    | with_reducible assumption
    | (intro _)
    | (with_reducible apply onEvent_keeps)
    | (with_reducible apply retireElement_keeps)
    | (with_reducible apply modStall_keeps)
    | (extract_lets +onlyGivenNames x; clear_value x)
    | split

theorem execHeadDriveReceive_keeps {r s : State} {a1 a2 a3 a4} (h : Keeps r s) : KeepsO r (execHeadDriveReceive a1 a2 a3 a4 s) := by
  unfold execHeadDriveReceive
  repeat' first
    | with_reducible assumption
    | (intro _)
    | (with_reducible apply onEvent_keeps)
    | (with_reducible apply modStall_keeps)
    | (with_reducible apply retireElement_keeps)
    | (extract_lets +onlyGivenNames x; have hx : Keeps r x := ?_; clear_value x; rotate_left; subst x; rotate_right)
    | (extract_lets +onlyGivenNames x; clear_value x)
    | split

theorem endHeadWork_keeps {r s : State} {a1} (h : Keeps r s) : Keeps r (endHeadWork a1 s) := by
  unfold endHeadWork
  repeat' first
    | with_reducible assumption
    | (with_reducible apply settleSpit_keeps)
    | (with_reducible apply modStall_keeps)
    | (extract_lets +onlyGivenNames x; have hx : Keeps r x := ?_; clear_value x; rotate_left; subst x; rotate_right)
    | (extract_lets +onlyGivenNames x; clear_value x)
    | split
    | (unfold Keeps; dsimp only; refine (?_ : Keeps _ _))

theorem changeHead_keeps {r s : State} {a1 a2} (h : Keeps r s) : Keeps r (changeHead a1 a2 s) := by
  unfold changeHead
  repeat' first
    | with_reducible assumption
    | (with_reducible apply modStall_keeps)
    | (with_reducible apply keepEpochs_keeps)
    | (with_reducible apply placementDue_keeps)
    | (with_reducible apply endHeadWork_keeps)
    | (with_reducible apply sendConfig_keeps)
    | (extract_lets +onlyGivenNames x; have hx : Keeps r x := ?_; clear_value x; rotate_left; subst x; rotate_right)
    | (extract_lets +onlyGivenNames x; clear_value x)
    | split
    | (unfold Keeps; dsimp only; refine (?_ : Keeps _ _))

theorem execHeadIdentReceive_keeps {r s : State} {a1 a2 a3} (h : Keeps r s) : KeepsO r (execHeadIdentReceive a1 a2 a3 s) := by
  unfold execHeadIdentReceive
  repeat' first
    | with_reducible assumption
    | (intro _)
    | (with_reducible apply onEvent_keeps)
    | (with_reducible apply modLane_keeps)
    | (with_reducible apply refreshPermit_keeps)
    | (with_reducible apply changeHead_keeps)
    | (with_reducible apply settleStallConfig_keeps)
    | (extract_lets +onlyGivenNames x; have hx : Keeps r x := ?_; clear_value x; rotate_left; subst x; rotate_right)
    | split
    | with_reducible refine Keeps.foldl ?_ (fun _ _ _ => ?_)

theorem execPermitWithdrawEffect_keeps {r s : State} {a1 a2} (h : Keeps r s) : KeepsO r (execPermitWithdrawEffect a1 a2 s) := by
  unfold execPermitWithdrawEffect
  repeat' first
    | with_reducible assumption
    | (intro _)
    | (with_reducible apply onEvent_keeps)
    | (with_reducible apply settlePermits_keeps)
    | (with_reducible apply releasePermit_keeps)
    | split

/-! ### Machine/Cal -/

theorem startStaging_keeps {r s : State} (h : Keeps r s) : Keeps r (startStaging s) := by
  unfold startStaging
  repeat' first
    | with_reducible assumption
    | (extract_lets +onlyGivenNames x; clear_value x)
    | split
    | (unfold Keeps; dsimp only; refine (?_ : Keeps _ _))

theorem putCal_keeps {r s : State} {a1 a2 a3} (h : Keeps r s) : Keeps r (putCal a1 a2 a3 s) := by
  unfold putCal
  repeat' first
    | with_reducible assumption
    | (with_reducible apply startStaging_keeps)
    | (extract_lets +onlyGivenNames x; have hx : Keeps r x := ?_; clear_value x; rotate_left; subst x; rotate_right)
    | (extract_lets +onlyGivenNames x; clear_value x)
    | split
    | (unfold Keeps; dsimp only; refine (?_ : Keeps _ _))

theorem storeItem_keeps {r s : State} {a1} (h : Keeps r s) : Keeps r (storeItem a1 s) := by
  unfold storeItem
  repeat' first
    | with_reducible assumption
    | (extract_lets +onlyGivenNames x; clear_value x)
    | (unfold Keeps; dsimp only; refine (?_ : Keeps _ _))

theorem judgeHead_keeps {r s : State} {a1} (h : Keeps r s) : Keeps r (judgeHead a1 s) := by
  unfold judgeHead
  repeat' first
    | with_reducible assumption
    | (with_reducible apply refreshPermit_keeps)
    | (with_reducible apply modStall_keeps)
    | split

theorem itemEffect_keeps {r s : State} {a1 a2 a3 a4} (h : Keeps r s) : Keeps r (itemEffect a1 a2 a3 a4 s) := by
  unfold itemEffect
  repeat' first
    | with_reducible assumption
    | (with_reducible apply tellLead_keeps)
    | (with_reducible apply densityItem_keeps)
    | (with_reducible apply judgeHead_keeps)
    | (with_reducible apply placementItem_keeps)
    | (with_reducible apply modStall_keeps)
    | (with_reducible apply moveGrid_keeps)
    | (with_reducible apply sendConfig_keeps)
    | (extract_lets +onlyGivenNames x; have hx : Keeps r x := ?_; clear_value x; rotate_left; subst x; rotate_right)
    | (extract_lets +onlyGivenNames x; (first | (have hw : (x : Well) = x := rfl) | (have hw : (x : Cmd) = x := rfl) | (have hw : (x : _ → State) = x := rfl) | (have hw : (x : _ → _ → State) = x := rfl) | (have hw : (x : _ → _ → _ → State) = x := rfl) | (have hw : (x : _ → _ → _ → _ → State) = x := rfl)); clear hw; subst x)
    | (extract_lets +onlyGivenNames x; clear_value x)
    | split

theorem reportEpoch_keeps {r s : State} (h : Keeps r s) : Keeps r (reportEpoch s) := by
  unfold reportEpoch
  repeat' first
    | with_reducible assumption
    | (with_reducible apply uraraSend_keeps)
    | split

theorem commitCal_keeps {r s : State} {a1} (h : Keeps r s) : Keeps r (commitCal a1 s) := by
  unfold commitCal
  repeat' first
    | with_reducible assumption
    | (with_reducible apply storeItem_keeps)
    | (with_reducible apply keepEpochs_keeps)
    | (with_reducible apply itemEffect_keeps)
    | (with_reducible apply finish_keeps)
    | (with_reducible apply startStaging_keeps)
    | (with_reducible apply reportEpoch_keeps)
    | (extract_lets +onlyGivenNames x; clear_value x)
    | split
    | (unfold Keeps; dsimp only; refine (?_ : Keeps _ _))

theorem execCalStagingCommit_keeps {r s : State} {a1} (h : Keeps r s) : KeepsO r (execCalStagingCommit a1 s) := by
  unfold execCalStagingCommit
  repeat' first
    | with_reducible assumption
    | (intro _)
    | (with_reducible apply onEvent_keeps)
    | (with_reducible apply commitCal_keeps)
    | split

theorem execCalRead_keeps {r s : State} {a1 a2} (h : Keeps r s) : KeepsO r (execCalRead a1 a2 s) := by
  unfold execCalRead
  repeat' first
    | with_reducible assumption
    | (intro _)
    | (with_reducible apply onStart_keeps)
    | (with_reducible apply refuse_keeps)
    | (with_reducible apply outputOn_keeps)
    | (extract_lets +onlyGivenNames x; clear_value x)
    | split

theorem writeSupplied_keeps {r s : State} {a1 a2 a3} (h : Keeps r s) : Keeps r (writeSupplied a1 a2 a3 s) := by
  unfold writeSupplied
  repeat' first
    | with_reducible assumption
    | (with_reducible apply refuse_keeps)
    | (with_reducible apply putCal_keeps)
    | split

theorem execCalWrite_keeps {r s : State} {a1 a2} (h : Keeps r s) : KeepsO r (execCalWrite a1 a2 s) := by
  unfold execCalWrite
  repeat' first
    | with_reducible assumption
    | (intro _)
    | (with_reducible apply onStart_keeps)
    | (with_reducible apply withObject_keeps)
    | (with_reducible apply writeSupplied_keeps)
    | (with_reducible apply refuse_keeps)
    | split

theorem execPulseTableLoad_keeps {r s : State} {a1 a2} (h : Keeps r s) : KeepsO r (execPulseTableLoad a1 a2 s) := by
  unfold execPulseTableLoad
  repeat' first
    | with_reducible assumption
    | (intro _)
    | (with_reducible apply onStart_keeps)
    | (with_reducible apply withObject_keeps)
    | (with_reducible apply writeSupplied_keeps)
    | (with_reducible apply refuse_keeps)
    | split

/-! ### Machine/Ledger -/

theorem mapSector_keeps {r s : State} {a1 a2} (h : Keeps r s) : Keeps r (mapSector a1 a2 s) := by
  unfold mapSector
  repeat' first
    | with_reducible assumption
    | (with_reducible apply notify_keeps)
    | (extract_lets +onlyGivenNames x; clear_value x)
    | (unfold Keeps; dsimp only; refine (?_ : Keeps _ _))

theorem failSector_keeps {r s : State} {a1} (h : Keeps r s) : Keeps r (failSector a1 s) := by
  unfold failSector
  repeat' first
    | with_reducible assumption
    | (extract_lets +onlyGivenNames x; clear_value x)
    | split
    | (unfold Keeps; dsimp only; refine (?_ : Keeps _ _))

theorem countWrite_keeps {r s : State} {a1} (h : Keeps r s) : Keeps r (countWrite a1 s) := by
  unfold countWrite
  repeat' first
    | with_reducible assumption
    | (with_reducible apply failSector_keeps)
    | (extract_lets +onlyGivenNames x; have hx : Keeps r x := ?_; clear_value x; rotate_left; subst x; rotate_right)
    | (extract_lets +onlyGivenNames x; clear_value x)
    | split
    | (unfold Keeps; dsimp only; refine (?_ : Keeps _ _))

theorem retireJournal_keeps {r s : State} (h : Keeps r s) : Keeps r (retireJournal s) := by
  unfold retireJournal
  repeat' first
    | with_reducible assumption
    | (extract_lets +onlyGivenNames x; clear_value x)
    | split
    | (unfold Keeps; dsimp only; refine (?_ : Keeps _ _))

theorem writeDurable_keeps {r s : State} {a1} (h : Keeps r s) : Keeps r (writeDurable a1 s) := by
  unfold writeDurable
  repeat' first
    | with_reducible assumption
    | (with_reducible apply modRec_keeps)
    | (with_reducible apply uraraSend_keeps)
    | (extract_lets +onlyGivenNames x; have hx : Keeps r x := ?_; clear_value x; rotate_left; subst x; rotate_right)
    | (extract_lets +onlyGivenNames x; clear_value x)
    | split
    | (unfold Keeps; dsimp only; refine (?_ : Keeps _ _))

theorem writeLost_keeps {r s : State} {a1} (h : Keeps r s) : Keeps r (writeLost a1 s) := by
  unfold writeLost
  repeat' first
    | with_reducible assumption
    | (with_reducible apply modRec_keeps)
    | (with_reducible apply raise_keeps)
    | (with_reducible apply startStaging_keeps)
    | (with_reducible apply finish_keeps)
    | (extract_lets +onlyGivenNames x; clear_value x)
    | split
    | (unfold Keeps; dsimp only; refine (?_ : Keeps _ _))

theorem popWrite_keeps {r s : State} (h : Keeps r s) : Keeps r (popWrite s) := by
  unfold popWrite
  repeat' first
    | with_reducible assumption
    | (extract_lets +onlyGivenNames x; clear_value x)
    | (unfold Keeps; dsimp only; refine (?_ : Keeps _ _))

theorem spareSector_keeps {r s t : State} {a1} (h : Keeps r s) (e : spareSector a1 s = some t) : Keeps r t := by
  unfold spareSector at e
  dsimp only at e
  repeat' split at e
  all_goals first
    | (cases e; done)
    | (simp only [Option.some.injEq] at e; subst e; first
        | exact notify_keeps (granaryUse_keeps (mapSector_keeps h))
        | exact granaryUse_keeps (mapSector_keeps h)
        | exact granaryCount_keeps (notify_keeps (mapSector_keeps h)))
theorem spareSector_getD {r s : State} {a1} (h : Keeps r s) : Keeps r ((spareSector a1 s).getD s) := by
  cases e : spareSector a1 s with
  | none => exact h
  | some t => exact spareSector_keeps h e
theorem execLedgerWriteComplete_keeps {r s : State} {a1 a2} (h : Keeps r s) : KeepsO r (execLedgerWriteComplete a1 a2 s) := by
  unfold execLedgerWriteComplete
  repeat' first
    | with_reducible assumption
    | (intro _)
    | (with_reducible apply onEvent_keeps)
    | (with_reducible apply countWrite_keeps)
    | (with_reducible apply retireJournal_keeps)
    | (with_reducible apply writeDurable_keeps)
    | (with_reducible apply popWrite_keeps)
    | (with_reducible apply failSector_keeps)
    | (with_reducible apply writeLost_keeps)
    | (with_reducible apply spareSector_getD)
    | (with_reducible refine spareSector_keeps ?_ (by assumption))
    | (extract_lets +onlyGivenNames x; have hx : Keeps r x := ?_; clear_value x; rotate_left; subst x; rotate_right)
    | (extract_lets +onlyGivenNames x; clear_value x)
    | split
    | (unfold Keeps; dsimp only; refine (?_ : Keeps _ _))

theorem execLedgerSectorSpareCopy_keeps {r s : State} {a1 a2} (h : Keeps r s) : KeepsO r (execLedgerSectorSpareCopy a1 a2 s) := by
  unfold execLedgerSectorSpareCopy
  repeat' first
    | with_reducible assumption
    | (intro _)
    | (with_reducible apply onEvent_keeps)
    | (extract_lets +onlyGivenNames x; clear_value x)
    | (unfold Keeps; dsimp only; refine (?_ : Keeps _ _))

/-! ### Machine/LaneEvents -/

theorem drainLink_keeps {r : State} {a2} : ∀ {a1} {s : State}, Keeps r s → Keeps r (drainLink a1 a2 s) := by
  intro a1
  induction a1 with
  | zero => intro s h; exact h
  | succ n ih =>
    intro s h
    unfold drainLink
    dsimp only
    split
    · exact h
    · split
      · exact ih (transmit_keeps (modLink_keeps h))
      · exact h

theorem notePorts_keeps {r s : State} (h : Keeps r s) : Keeps r (notePorts s) := by
  unfold notePorts
  repeat' first
    | with_reducible assumption
    | (extract_lets +onlyGivenNames x; clear_value x)
    | (unfold Keeps; dsimp only; refine (?_ : Keeps _ _))

theorem settleTopology_keeps {r s : State} (h : Keeps r s) : Keeps r (settleTopology s) := by
  unfold settleTopology
  repeat' first
    | with_reducible assumption
    | (with_reducible apply finish_keeps)
    | (extract_lets +onlyGivenNames x; clear_value x)
    | split
    | with_reducible refine Keeps.foldl ?_ (fun _ _ _ => ?_)
    | (unfold Keeps; dsimp only; refine (?_ : Keeps _ _))

theorem laneServes_keeps {r s : State} {a1} (h : Keeps r s) : Keeps r (laneServes a1 s) := by
  unfold laneServes
  repeat' first
    | with_reducible assumption
    | (with_reducible apply notePorts_keeps)
    | (with_reducible apply stallLocks_keeps)
    | (with_reducible apply settleTopology_keeps)
    | (with_reducible apply drainLink_keeps)
    | (extract_lets +onlyGivenNames x; have hx : Keeps r x := ?_; clear_value x; rotate_left; subst x; rotate_right)
    | split

theorem enterUp_keeps {r s : State} {a1} (h : Keeps r s) : Keeps r (enterUp a1 s) := by
  unfold enterUp
  repeat' first
    | with_reducible assumption
    | (with_reducible apply laneServes_keeps)
    | (with_reducible apply modLane_keeps)

theorem enterProbe_keeps {r s : State} {a1} (h : Keeps r s) : Keeps r (enterProbe a1 s) := by
  unfold enterProbe
  repeat' first
    | with_reducible assumption
    | (with_reducible apply enterUp_keeps)
    | (with_reducible apply modLane_keeps)
    | split

theorem laneDown_keeps {r s : State} {a1} (h : Keeps r s) : Keeps r (laneDown a1 s) := by
  unfold laneDown
  repeat' first
    | with_reducible assumption
    | (with_reducible apply notePorts_keeps)
    | (with_reducible apply refreshPermit_keeps)
    | (extract_lets +onlyGivenNames x; have hx : Keeps r x := ?_; clear_value x; rotate_left; subst x; rotate_right)
    | split
    | with_reducible refine Keeps.foldl ?_ (fun _ _ _ => ?_)

theorem execLaneSignalDetect_keeps {r s : State} {a1 a2} (h : Keeps r s) : KeepsO r (execLaneSignalDetect a1 a2 s) := by
  unfold execLaneSignalDetect
  repeat' first
    | with_reducible assumption
    | (intro _)
    | (with_reducible apply onEvent_keeps)
    | (with_reducible apply emit_keeps)
    | (with_reducible apply modLane_keeps)
    | split

theorem execBlockLock_keeps {r s : State} {a1 a2} (h : Keeps r s) : KeepsO r (execBlockLock a1 a2 s) := by
  unfold execBlockLock
  repeat' first
    | with_reducible assumption
    | (intro _)
    | (with_reducible apply onEvent_keeps)
    | (with_reducible apply modLane_keeps)
    | (with_reducible apply enterProbe_keeps)
    | (extract_lets +onlyGivenNames x; have hx : Keeps r x := ?_; clear_value x; rotate_left; subst x; rotate_right)
    | (extract_lets +onlyGivenNames x; clear_value x)
    | split

theorem execAdaptDone_keeps {r s : State} {a1 a2 a3 a4 a5 a6} (h : Keeps r s) : KeepsO r (execAdaptDone a1 a2 a3 a4 a5 a6 s) := by
  unfold execAdaptDone
  repeat' first
    | with_reducible assumption
    | (intro _)
    | (with_reducible apply onEvent_keeps)
    | (with_reducible apply enterProbe_keeps)
    | (with_reducible apply modLane_keeps)
    | (extract_lets +onlyGivenNames x; clear_value x)
    | split

theorem execLaneFastExit_keeps {r s : State} {a1 a2 a3} (h : Keeps r s) : KeepsO r (execLaneFastExit a1 a2 a3 s) := by
  unfold execLaneFastExit
  repeat' first
    | with_reducible assumption
    | (intro _)
    | (with_reducible apply onEvent_keeps)
    | (with_reducible apply enterUp_keeps)
    | (with_reducible apply huntLane_keeps)
    | split

theorem execProbeSend_keeps {r s : State} {a1 a2} (h : Keeps r s) : KeepsO r (execProbeSend a1 a2 s) := by
  unfold execProbeSend
  repeat' first
    | with_reducible assumption
    | (intro _)
    | (with_reducible apply onEvent_keeps)
    | (with_reducible apply emit_keeps)
    | (with_reducible apply modLane_keeps)
    | (extract_lets +onlyGivenNames x; clear_value x)
    | split

theorem execProbeReceive_keeps {r s : State} {a1 a2 a3 a4} (h : Keeps r s) : KeepsO r (execProbeReceive a1 a2 a3 a4 s) := by
  unfold execProbeReceive
  repeat' first
    | with_reducible assumption
    | (intro _)
    | (with_reducible apply onEvent_keeps)
    | (with_reducible apply emit_keeps)
    | (extract_lets +onlyGivenNames x; clear_value x)
    | split

theorem takeLambda_keeps {r s : State} {a1 a2} (h : Keeps r s) : Keeps r (takeLambda a1 a2 s) := by
  unfold takeLambda
  repeat' first
    | with_reducible assumption
    | (with_reducible apply modLane_keeps)
    | (with_reducible apply raise_keeps)
    | (extract_lets +onlyGivenNames x; have hx : Keeps r x := ?_; clear_value x; rotate_left; subst x; rotate_right)
    | (extract_lets +onlyGivenNames x; clear_value x)
    | split

theorem execProbeEchoReceive_keeps {r s : State} {a1 a2 a3 a4 a5} (h : Keeps r s) : KeepsO r (execProbeEchoReceive a1 a2 a3 a4 a5 s) := by
  unfold execProbeEchoReceive
  repeat' first
    | with_reducible assumption
    | (intro _)
    | (with_reducible apply onEvent_keeps)
    | (with_reducible apply modLane_keeps)
    | (with_reducible apply raise_keeps)
    | (with_reducible apply enterUp_keeps)
    | (with_reducible apply takeLambda_keeps)
    | (extract_lets +onlyGivenNames x; have hx : Keeps r x := ?_; clear_value x; rotate_left; subst x; rotate_right)
    | (extract_lets +onlyGivenNames x; clear_value x)
    | split

theorem startMove_keeps {r s : State} {a1} (h : Keeps r s) : Keeps r (startMove a1 s) := by
  unfold startMove
  repeat' first
    | with_reducible assumption
    | (with_reducible apply emits_keeps)
    | (extract_lets +onlyGivenNames x; clear_value x)
    | split
    | (unfold Keeps; dsimp only; refine (?_ : Keeps _ _))

theorem replayFrom_keeps {r s : State} {a1 a2} (h : Keeps r s) : Keeps r (replayFrom a1 a2 s) := by
  unfold replayFrom
  repeat' first
    | with_reducible assumption
    | (with_reducible apply notePorts_keeps)
    | (with_reducible apply huntLane_keeps)
    | (with_reducible apply modLink_keeps)
    | (with_reducible apply emits_keeps)
    | (extract_lets +onlyGivenNames x; have hx : Keeps r x := ?_; clear_value x; rotate_left; subst x; rotate_right)
    | (extract_lets +onlyGivenNames x; clear_value x)
    | split

theorem moveUrara_keeps {r s : State} {a1} (h : Keeps r s) : Keeps r (moveUrara a1 s) := by
  unfold moveUrara
  repeat' first
    | with_reducible assumption
    | (with_reducible apply modLane_keeps)
    | (with_reducible apply huntLane_keeps)
    | (with_reducible apply useSpareLane_keeps)
    | (with_reducible apply notify_keeps)
    | (with_reducible apply notePorts_keeps)
    | (with_reducible apply replayFrom_keeps)
    | (extract_lets +onlyGivenNames x; clear_value x)
    | split
    | (unfold Keeps; dsimp only; refine (?_ : Keeps _ _))

theorem execMoveBlockReceive_keeps {r s : State} {a1 a2 a3 a4 a5 a6} (h : Keeps r s) : KeepsO r (execMoveBlockReceive a1 a2 a3 a4 a5 a6 s) := by
  unfold execMoveBlockReceive
  repeat' first
    | with_reducible assumption
    | (intro _)
    | (with_reducible apply onEvent_keeps)
    | (with_reducible apply moveUrara_keeps)
    | (with_reducible apply emit_keeps)
    | (extract_lets +onlyGivenNames x; have hx : Keeps r x := ?_; clear_value x; rotate_left; subst x; rotate_right)
    | (extract_lets +onlyGivenNames x; clear_value x)
    | split
    | (unfold Keeps; dsimp only; refine (?_ : Keeps _ _))

theorem judgeFailing_keeps {r s : State} {a1} (h : Keeps r s) : Keeps r (judgeFailing a1 s) := by
  unfold judgeFailing
  repeat' first
    | with_reducible assumption
    | (with_reducible apply failLane_keeps)
    | (with_reducible apply startMove_keeps)
    | (extract_lets +onlyGivenNames x; have hx : Keeps r x := ?_; clear_value x; rotate_left; subst x; rotate_right)
    | split

theorem execLossOfLock_keeps {r s : State} {a1 a2 a3} (h : Keeps r s) : KeepsO r (execLossOfLock a1 a2 a3 s) := by
  unfold execLossOfLock
  repeat' first
    | with_reducible assumption
    | (intro _)
    | (with_reducible apply onEvent_keeps)
    | (with_reducible apply modLane_keeps)
    | (with_reducible apply huntLane_keeps)
    | (with_reducible apply judgeFailing_keeps)
    | (with_reducible apply laneDown_keeps)
    | (extract_lets +onlyGivenNames x; have hx : Keeps r x := ?_; clear_value x; rotate_left; subst x; rotate_right)
    | (extract_lets +onlyGivenNames x; clear_value x)
    | split

theorem execRelockTimeout_keeps {r s : State} {a1 a2} (h : Keeps r s) : KeepsO r (execRelockTimeout a1 a2 s) := by
  unfold execRelockTimeout
  repeat' first
    | with_reducible assumption
    | (intro _)
    | (with_reducible apply onEvent_keeps)
    | (with_reducible apply laneDown_keeps)
    | (with_reducible apply judgeFailing_keeps)
    | (with_reducible apply modLane_keeps)
    | (extract_lets +onlyGivenNames x; clear_value x)
    | split

theorem execFomSweep_keeps {r s : State} {a1 a2 a3 a4 a5} (h : Keeps r s) : KeepsO r (execFomSweep a1 a2 a3 a4 a5 s) := by
  unfold execFomSweep
  repeat' first
    | with_reducible assumption
    | (intro _)
    | (with_reducible apply onEvent_keeps)
    | (with_reducible apply modLane_keeps)
    | (with_reducible apply notify_keeps)
    | (with_reducible apply judgeFailing_keeps)
    | (extract_lets +onlyGivenNames x; have hx : Keeps r x := ?_; clear_value x; rotate_left; subst x; rotate_right)
    | (extract_lets +onlyGivenNames x; clear_value x)
    | split

theorem execSpareRateHuntSwitch_keeps {r s : State} {a1 a2} (h : Keeps r s) : KeepsO r (execSpareRateHuntSwitch a1 a2 s) := by
  unfold execSpareRateHuntSwitch
  repeat' first
    | with_reducible assumption
    | (intro _)
    | (with_reducible apply onEvent_keeps)
    | (with_reducible apply huntLane_keeps)
    | (with_reducible apply modLane_keeps)
    | (extract_lets +onlyGivenNames x; clear_value x)
    | split

theorem moveQuads_keeps {r s : State} {a1 a2} (h : Keeps r s) : Keeps r (moveQuads a1 a2 s) := by
  unfold moveQuads
  repeat' first
    | with_reducible assumption
    | (with_reducible apply modLane_keeps)
    | (with_reducible apply laneDown_keeps)
    | (with_reducible apply huntLane_keeps)
    | (extract_lets +onlyGivenNames x; have hx : Keeps r x := ?_; clear_value x; rotate_left; subst x; rotate_right)
    | (extract_lets +onlyGivenNames x; clear_value x)
    | split
    | with_reducible refine Keeps.foldl ?_ (fun _ _ _ => ?_)

theorem execRefclkSerFail_keeps {r s : State} {a1 a2} (h : Keeps r s) : KeepsO r (execRefclkSerFail a1 a2 s) := by
  unfold execRefclkSerFail
  repeat' first
    | with_reducible assumption
    | (intro _)
    | (with_reducible apply onEvent_keeps)
    | (with_reducible apply raise_keeps)
    | (with_reducible apply moveQuads_keeps)
    | (extract_lets +onlyGivenNames x; have hx : Keeps r x := ?_; clear_value x; rotate_left; subst x; rotate_right)
    | (extract_lets +onlyGivenNames x; clear_value x)
    | split
    | (unfold Keeps; dsimp only; refine (?_ : Keeps _ _))

theorem execRefclkSerRecover_keeps {r s : State} {a1 a2} (h : Keeps r s) : KeepsO r (execRefclkSerRecover a1 a2 s) := by
  unfold execRefclkSerRecover
  repeat' first
    | with_reducible assumption
    | (intro _)
    | (with_reducible apply onEvent_keeps)
    | (with_reducible apply moveQuads_keeps)
    | (extract_lets +onlyGivenNames x; have hx : Keeps r x := ?_; clear_value x; rotate_left; subst x; rotate_right)
    | (extract_lets +onlyGivenNames x; clear_value x)
    | split
    | (unfold Keeps; dsimp only; refine (?_ : Keeps _ _))

theorem execLinkStatus_keeps {r s : State} {a1 a2} (h : Keeps r s) : KeepsO r (execLinkStatus a1 a2 s) := by
  unfold execLinkStatus
  repeat' first
    | with_reducible assumption
    | (intro _)
    | (with_reducible apply onStart_keeps)
    | (with_reducible apply refuse_keeps)
    | (with_reducible apply answer_keeps)
    | (with_reducible apply modLane_keeps)
    | (extract_lets +onlyGivenNames x; clear_value x)
    | split

theorem execLoopback_keeps {r s : State} {a1 a2} (h : Keeps r s) : KeepsO r (execLoopback a1 a2 s) := by
  unfold execLoopback
  repeat' first
    | with_reducible assumption
    | (intro _)
    | (with_reducible apply onStart_keeps)
    | (with_reducible apply refuse_keeps)
    | (with_reducible apply laneDown_keeps)
    | (with_reducible apply modLane_keeps)
    | (extract_lets +onlyGivenNames x; clear_value x)
    | split

theorem execLoopbackEnd_keeps {r s : State} {a1 a2 a3 a4 a5 a6} (h : Keeps r s) : KeepsO r (execLoopbackEnd a1 a2 a3 a4 a5 a6 s) := by
  unfold execLoopbackEnd
  repeat' first
    | with_reducible assumption
    | (intro _)
    | (with_reducible apply onEvent_keeps)
    | (with_reducible apply answer_keeps)
    | (with_reducible apply huntLane_keeps)
    | (with_reducible apply modLane_keeps)
    | (extract_lets +onlyGivenNames x; clear_value x)
    | split

/-! ### Machine/Runs -/

theorem execCalRun_keeps {r s : State} {a1 a2} (h : Keeps r s) : KeepsO r (execCalRun a1 a2 s) := by
  unfold execCalRun
  repeat' first
    | with_reducible assumption
    | (intro _)
    | (with_reducible apply onStart_keeps)
    | (with_reducible apply refuse_keeps)
    | (extract_lets +onlyGivenNames x; (first | (have hw : (x : Well) = x := rfl) | (have hw : (x : Cmd) = x := rfl) | (have hw : (x : _ → State) = x := rfl) | (have hw : (x : _ → _ → State) = x := rfl) | (have hw : (x : _ → _ → _ → State) = x := rfl) | (have hw : (x : _ → _ → _ → _ → State) = x := rfl)); clear hw; subst x)
    | (extract_lets +onlyGivenNames x; clear_value x)
    | split
    | (dsimp -zeta only)
    | (unfold Keeps; dsimp only; refine (?_ : Keeps _ _))

theorem failRun_keeps {r s : State} {a1 a2} (h : Keeps r s) : Keeps r (failRun a1 a2 s) := by
  unfold failRun
  repeat' first
    | with_reducible assumption
    | (with_reducible apply raise_keeps)
    | (with_reducible apply finish_keeps)
    | (extract_lets +onlyGivenNames x; have hx : Keeps r x := ?_; clear_value x; rotate_left; subst x; rotate_right)
    | (extract_lets +onlyGivenNames x; clear_value x)
    | split
    | (unfold Keeps; dsimp only; refine (?_ : Keeps _ _))

theorem markCal_keeps {r s : State} {a1 a2} (h : Keeps r s) : Keeps r (markCal a1 a2 s) := by
  unfold markCal
  repeat' first
    | with_reducible assumption
    | (extract_lets +onlyGivenNames x; clear_value x)
    | (unfold Keeps; dsimp only; refine (?_ : Keeps _ _))

theorem endRun_keeps {r s : State} {a1 a2} (h : Keeps r s) : Keeps r (endRun a1 a2 s) := by
  unfold endRun
  repeat' first
    | with_reducible assumption
    | (with_reducible apply failRun_keeps)
    | (with_reducible apply putCal_keeps)
    | (with_reducible apply markCal_keeps)
    | (extract_lets +onlyGivenNames x; have hx : Keeps r x := ?_; clear_value x; rotate_left; subst x; rotate_right)
    | (extract_lets +onlyGivenNames x; (first | (have hw : (x : Well) = x := rfl) | (have hw : (x : Cmd) = x := rfl) | (have hw : (x : _ → State) = x := rfl) | (have hw : (x : _ → _ → State) = x := rfl) | (have hw : (x : _ → _ → _ → State) = x := rfl) | (have hw : (x : _ → _ → _ → _ → State) = x := rfl)); clear hw; subst x)
    | (extract_lets +onlyGivenNames x; clear_value x)
    | split
    | (unfold Keeps; dsimp only; refine (?_ : Keeps _ _))

theorem execCalRunComplete_keeps {r s : State} {a1 a2 a3} (h : Keeps r s) : KeepsO r (execCalRunComplete a1 a2 a3 s) := by
  unfold execCalRunComplete
  repeat' first
    | with_reducible assumption
    | (intro _)
    | (with_reducible apply onEvent_keeps)
    | (with_reducible apply endRun_keeps)
    | split

end Sys2Proof.Machine
end

