-- ==== Sys2Proof/Laws/KeepsRings.lean ====
section
/-!
SUPPORT. The operations of the background tasks, the Well, firmware, the check units, command intake and the rings keep what Keeps says.
-/
namespace Sys2Proof.Machine

/-! ### Machine/Tasks -/

theorem modTask_keeps {r s : State} {a1 a2} (h : Keeps r s) : Keeps r (modTask a1 a2 s) := by
  unfold modTask
  repeat' first
    | with_reducible assumption
    | (extract_lets +onlyGivenNames x; clear_value x)
    | (unfold Keeps; dsimp only; refine (?_ : Keeps _ _))

theorem beginTask_keeps {r s : State} {a1} (h : Keeps r s) : Keeps r (beginTask a1 s) := by
  unfold beginTask
  repeat' first
    | with_reducible assumption
    | (with_reducible apply modTask_keeps)
    | split

theorem taskAt_keeps {r s : State} {a1 a2 a3} (h : Keeps r s) : Keeps r (taskAt a1 a2 a3 s) := by
  unfold taskAt
  repeat' first
    | with_reducible assumption
    | (with_reducible apply modTask_keeps)

theorem endTask_keeps {r s : State} {a1} (h : Keeps r s) : Keeps r (endTask a1 s) := by
  unfold endTask
  repeat' first
    | with_reducible assumption
    | (with_reducible apply modTask_keeps)

theorem skipTime_keeps {r s : State} {a1 a2} (h : Keeps r s) : Keeps r (skipTime a1 a2 s) := by
  unfold skipTime
  repeat' first
    | with_reducible assumption
    | (with_reducible apply modTask_keeps)
    | split
    | with_reducible refine Keeps.foldl ?_ (fun _ _ _ => ?_)

theorem settleShed_keeps {r s : State} (h : Keeps r s) : Keeps r (settleShed s) := by
  unfold settleShed
  repeat' first
    | with_reducible assumption
    | (with_reducible apply notify_keeps)
    | (with_reducible apply modTask_keeps)
    | (with_reducible apply skipTime_keeps)
    | (extract_lets +onlyGivenNames x; have hx : Keeps r x := ?_; clear_value x; rotate_left; subst x; rotate_right)
    | (extract_lets +onlyGivenNames x; clear_value x)
    | split
    | with_reducible refine Keeps.foldl ?_ (fun _ _ _ => ?_)
    | (unfold Keeps; dsimp only; refine (?_ : Keeps _ _))

theorem execBackgroundLate_keeps {r s : State} {a1 a2} (h : Keeps r s) : KeepsO r (execBackgroundLate a1 a2 s) := by
  unfold execBackgroundLate
  repeat' first
    | with_reducible assumption
    | (intro _)
    | (with_reducible apply onEvent_keeps)
    | (with_reducible apply notify_keeps)
    | (with_reducible apply modTask_keeps)
    | (extract_lets +onlyGivenNames x; clear_value x)
    | split

theorem execScrubConfig_keeps {r s : State} {a1 a2} (h : Keeps r s) : KeepsO r (execScrubConfig a1 a2 s) := by
  unfold execScrubConfig
  repeat' first
    | with_reducible assumption
    | (intro _)
    | (with_reducible apply onStart_keeps)
    | (with_reducible apply done_keeps)
    | (with_reducible apply refuse_keeps)
    | (extract_lets +onlyGivenNames x; clear_value x)
    | split
    | (unfold Keeps; dsimp only; refine (?_ : Keeps _ _))

/-! ### Machine/Wells -/

theorem execWellRefreshDue_keeps {r s : State} {a1 a2 a3 a4} (h : Keeps r s) : KeepsO r (execWellRefreshDue a1 a2 a3 a4 s) := by
  unfold execWellRefreshDue
  repeat' first
    | with_reducible assumption
    | (intro _)
    | (with_reducible apply onEvent_keeps)
    | (with_reducible apply modChan_keeps)
    | split

theorem execDramMr4Poll_keeps {r s : State} {a1 a2 a3 a4 a5} (h : Keeps r s) : KeepsO r (execDramMr4Poll a1 a2 a3 a4 a5 s) := by
  unfold execDramMr4Poll
  repeat' first
    | with_reducible assumption
    | (intro _)
    | (with_reducible apply onEvent_keeps)
    | (with_reducible apply modChan_keeps)
    | (with_reducible apply raise_keeps)
    | (with_reducible apply settleShed_keeps)
    | (extract_lets +onlyGivenNames x; have hx : Keeps r x := ?_; clear_value x; rotate_left; subst x; rotate_right)
    | (extract_lets +onlyGivenNames x; clear_value x)
    | split
    | (unfold Keeps; dsimp only; refine (?_ : Keeps _ _))

theorem execWellDriftTrack_keeps {r s : State} {a1 a2 a3 a4} (h : Keeps r s) : KeepsO r (execWellDriftTrack a1 a2 a3 a4 s) := by
  unfold execWellDriftTrack
  repeat' first
    | with_reducible assumption
    | (intro _)
    | (with_reducible apply onEvent_keeps)
    | (with_reducible apply modChan_keeps)
    | (with_reducible apply raise_keeps)
    | (extract_lets +onlyGivenNames x; have hx : Keeps r x := ?_; clear_value x; rotate_left; subst x; rotate_right)
    | (extract_lets +onlyGivenNames x; clear_value x)
    | split
    | with_reducible refine Keeps.foldl ?_ (fun _ _ _ => ?_)

theorem execWellZqCal_keeps {r s : State} {a1 a2} (h : Keeps r s) : KeepsO r (execWellZqCal a1 a2 s) := by
  unfold execWellZqCal
  repeat' first
    | with_reducible assumption
    | (intro _)
    | (with_reducible apply onEvent_keeps)
    | (with_reducible apply modChan_keeps)
    | split

theorem selfRefresh_keeps {r s : State} {a1} (h : Keeps r s) : Keeps r (selfRefresh a1 s) := by
  unfold selfRefresh
  repeat' first
    | with_reducible assumption
    | (with_reducible apply modChan_keeps)

theorem execSelfRefreshEntry_keeps {r s : State} {a1 a2} (h : Keeps r s) : KeepsO r (execSelfRefreshEntry a1 a2 s) := by
  unfold execSelfRefreshEntry
  repeat' first
    | with_reducible assumption
    | (intro _)
    | (with_reducible apply onEvent_keeps)
    | (with_reducible apply selfRefresh_keeps)
    | (extract_lets +onlyGivenNames x; clear_value x)
    | split

theorem execSelfRefreshExit_keeps {r s : State} {a1 a2} (h : Keeps r s) : KeepsO r (execSelfRefreshExit a1 a2 s) := by
  unfold execSelfRefreshExit
  repeat' first
    | with_reducible assumption
    | (intro _)
    | (with_reducible apply onEvent_keeps)
    | (with_reducible apply modChan_keeps)
    | split

theorem addCandidate_keeps {r s : State} {a1} (h : Keeps r s) : Keeps r (addCandidate a1 s) := by
  unfold addCandidate
  repeat' first
    | with_reducible assumption
    | (extract_lets +onlyGivenNames x; (first | (have hw : (x : Well) = x := rfl) | (have hw : (x : Cmd) = x := rfl) | (have hw : (x : _ → State) = x := rfl) | (have hw : (x : _ → _ → State) = x := rfl) | (have hw : (x : _ → _ → _ → State) = x := rfl) | (have hw : (x : _ → _ → _ → _ → State) = x := rfl)); clear hw; subst x)
    | split
    | (unfold Keeps; dsimp only; refine (?_ : Keeps _ _))

theorem correctedIn_keeps {r s : State} {a1} (h : Keeps r s) : Keeps r (correctedIn a1 s) := by
  unfold correctedIn
  repeat' first
    | with_reducible assumption
    | (with_reducible apply raise_keeps)
    | (with_reducible apply addCandidate_keeps)
    | (extract_lets +onlyGivenNames x; have hx : Keeps r x := ?_; clear_value x; rotate_left; subst x; rotate_right)
    | (extract_lets +onlyGivenNames x; (first | (have hw : (x : Well) = x := rfl) | (have hw : (x : Cmd) = x := rfl) | (have hw : (x : _ → State) = x := rfl) | (have hw : (x : _ → _ → State) = x := rfl) | (have hw : (x : _ → _ → _ → State) = x := rfl) | (have hw : (x : _ → _ → _ → _ → State) = x := rfl)); clear hw; subst x)
    | (extract_lets +onlyGivenNames x; clear_value x)
    | split
    | (unfold Keeps; dsimp only; refine (?_ : Keeps _ _))

theorem execWellRepairWindow_keeps {r s : State} {a1 a2 a3} (h : Keeps r s) : KeepsO r (execWellRepairWindow a1 a2 a3 s) := by
  unfold execWellRepairWindow
  repeat' first
    | with_reducible assumption
    | (intro _)
    | (with_reducible apply onEvent_keeps)
    | (with_reducible apply notify_keeps)
    | (extract_lets +onlyGivenNames x; have hx : Keeps r x := ?_; clear_value x; rotate_left; subst x; rotate_right)
    | (extract_lets +onlyGivenNames x; (first | (have hw : (x : Well) = x := rfl) | (have hw : (x : Cmd) = x := rfl) | (have hw : (x : _ → State) = x := rfl) | (have hw : (x : _ → _ → State) = x := rfl) | (have hw : (x : _ → _ → _ → State) = x := rfl) | (have hw : (x : _ → _ → _ → _ → State) = x := rfl)); clear hw; subst x)
    | split
    | (unfold Keeps; dsimp only; refine (?_ : Keeps _ _))

theorem execWellHardRepair_keeps {r s : State} {a1} (h : Keeps r s) : KeepsO r (execWellHardRepair a1 s) := by
  unfold execWellHardRepair
  repeat' first
    | with_reducible assumption
    | (intro _)
    | (with_reducible apply onEvent_keeps)
    | (extract_lets +onlyGivenNames x; (first | (have hw : (x : Well) = x := rfl) | (have hw : (x : Cmd) = x := rfl) | (have hw : (x : _ → State) = x := rfl) | (have hw : (x : _ → _ → State) = x := rfl) | (have hw : (x : _ → _ → _ → State) = x := rfl) | (have hw : (x : _ → _ → _ → _ → State) = x := rfl)); clear hw; subst x)
    | split
    | (unfold Keeps; dsimp only; refine (?_ : Keeps _ _))

theorem execWellHardRepairDone_keeps {r s : State} {a1} (h : Keeps r s) : KeepsO r (execWellHardRepairDone a1 s) := by
  unfold execWellHardRepairDone
  repeat' first
    | with_reducible assumption
    | (intro _)
    | (with_reducible apply onEvent_keeps)
    | (with_reducible apply granaryUse_keeps)
    | (extract_lets +onlyGivenNames x; (first | (have hw : (x : Well) = x := rfl) | (have hw : (x : Cmd) = x := rfl) | (have hw : (x : _ → State) = x := rfl) | (have hw : (x : _ → _ → State) = x := rfl) | (have hw : (x : _ → _ → _ → State) = x := rfl) | (have hw : (x : _ → _ → _ → _ → State) = x := rfl)); clear hw; subst x)
    | split
    | (unfold Keeps; dsimp only; refine (?_ : Keeps _ _))

theorem scrubBurst_keeps {r s : State} {a1} (h : Keeps r s) : Keeps r (scrubBurst a1 s) := by
  unfold scrubBurst
  repeat' first
    | with_reducible assumption
    | (with_reducible apply modChan_keeps)
    | (with_reducible apply correctedIn_keeps)
    | (with_reducible apply badBurst_keeps)
    | (with_reducible apply addCandidate_keeps)
    | (extract_lets +onlyGivenNames x; have hx : Keeps r x := ?_; clear_value x; rotate_left; subst x; rotate_right)
    | (extract_lets +onlyGivenNames x; (first | (have hw : (x : Well) = x := rfl) | (have hw : (x : Cmd) = x := rfl) | (have hw : (x : _ → State) = x := rfl) | (have hw : (x : _ → _ → State) = x := rfl) | (have hw : (x : _ → _ → _ → State) = x := rfl) | (have hw : (x : _ → _ → _ → _ → State) = x := rfl)); clear hw; subst x)
    | (extract_lets +onlyGivenNames x; clear_value x)
    | split
    | (unfold Keeps; dsimp only; refine (?_ : Keeps _ _))

theorem execWellPatrolScrub_keeps {r s : State} {a1 a2} (h : Keeps r s) : KeepsO r (execWellPatrolScrub a1 a2 s) := by
  unfold execWellPatrolScrub
  repeat' first
    | with_reducible assumption
    | (intro _)
    | (with_reducible apply onEvent_keeps)
    | (with_reducible apply beginTask_keeps)
    | (with_reducible apply scrubBurst_keeps)
    | (with_reducible apply endTask_keeps)
    | (with_reducible apply taskAt_keeps)
    | (extract_lets +onlyGivenNames x; have hx : Keeps r x := ?_; clear_value x; rotate_left; subst x; rotate_right)
    | (extract_lets +onlyGivenNames x; (first | (have hw : (x : Well) = x := rfl) | (have hw : (x : Cmd) = x := rfl) | (have hw : (x : _ → State) = x := rfl) | (have hw : (x : _ → _ → State) = x := rfl) | (have hw : (x : _ → _ → _ → State) = x := rfl) | (have hw : (x : _ → _ → _ → _ → State) = x := rfl)); clear hw; subst x)
    | (extract_lets +onlyGivenNames x; clear_value x)
    | split
    | with_reducible refine Keeps.foldl ?_ (fun _ _ _ => ?_)
    | (unfold Keeps; dsimp only; refine (?_ : Keeps _ _))

/-! ### Machine/Activate -/

theorem setSource_keeps {r s : State} {a1} (h : Keeps r s) : Keeps r (setSource a1 s) := by
  unfold setSource
  repeat' first
    | with_reducible assumption
    | (extract_lets +onlyGivenNames x; clear_value x)
    | (unfold Keeps; dsimp only; refine (?_ : Keeps _ _))

theorem setInputs_keeps {r s : State} {a1 a2} (h : Keeps r s) : Keeps r (setInputs a1 a2 s) := by
  unfold setInputs
  repeat' first
    | with_reducible assumption
    | (extract_lets +onlyGivenNames x; clear_value x)
    | split
    | with_reducible refine Keeps.foldl ?_ (fun _ _ _ => ?_)
    | (unfold Keeps; dsimp only; refine (?_ : Keeps _ _))

theorem execMotionConfig_keeps {r s : State} {a1 a2} (h : Keeps r s) : KeepsO r (execMotionConfig a1 a2 s) := by
  unfold execMotionConfig
  repeat' first
    | with_reducible assumption
    | (intro _)
    | (with_reducible apply onStart_keeps)
    | (with_reducible apply refuse_keeps)
    | (with_reducible apply finish_keeps)
    | (with_reducible apply done_keeps)
    | (with_reducible apply mendConfig_keeps)
    | (with_reducible apply setInputs_keeps)
    | (with_reducible apply setSource_keeps)
    | (extract_lets +onlyGivenNames x; clear_value x)
    | split

theorem recheck_keeps {r s : State} {a1} (h : Keeps r s) : Keeps r (recheck a1 s).2 := by
  unfold recheck
  repeat' first
    | with_reducible assumption
    | (with_reducible apply checkJob_keeps)
    | (with_reducible apply modJob_keeps)
    | split

theorem loadScreens_keeps {r : State} {a1} : ∀ {a2} {s : State}, Keeps r s → Keeps r (loadScreens a1 a2 s).2 ∧ ∀ t, (loadScreens a1 a2 s).1 = some t → Keeps r t := by
  intro a2
  induction a2 with
  | nil => intro s h; exact ⟨h, fun t e => by cases e; exact h⟩
  | cons t ts ih =>
    intro s h
    unfold loadScreens
    split
    · exact ih h
    · exact ⟨raise_keeps h, fun t e => by cases e⟩
theorem loadScreens_none {r s t : State} {a1 a2} (h : Keeps r s) (e : loadScreens a1 a2 s = (none, t)) : Keeps r t := by
  have hx := (loadScreens_keeps (a1 := a1) (a2 := a2) h).1; rw [e] at hx; exact hx
theorem loadScreens_some {r s t u : State} {a1 a2} (h : Keeps r s) (e : loadScreens a1 a2 s = (some t, u)) : Keeps r t :=
  (loadScreens_keeps (a1 := a1) (a2 := a2) h).2 t (by rw [e])

theorem dropScreens_keeps {r s : State} {a1} (h : Keeps r s) : Keeps r (dropScreens a1 s) := by
  unfold dropScreens
  repeat' first
    | with_reducible assumption
    | (extract_lets +onlyGivenNames x; clear_value x)
    | (unfold Keeps; dsimp only; refine (?_ : Keeps _ _))

theorem servePair_keeps {r s : State} {a1} (h : Keeps r s) : Keeps r (servePair a1 s) := by
  unfold servePair
  repeat' first
    | with_reducible assumption
    | (extract_lets +onlyGivenNames x; clear_value x)
    | (unfold Keeps; dsimp only; refine (?_ : Keeps _ _))

theorem servePairs_keeps {r s : State} {a1} (h : Keeps r s) : Keeps r (servePairs a1 s) := by
  unfold servePairs
  repeat' first
    | with_reducible assumption
    | (with_reducible apply servePair_keeps)
    | (extract_lets +onlyGivenNames x; have hx : Keeps r x := ?_; clear_value x; rotate_left; subst x; rotate_right)
    | (extract_lets +onlyGivenNames x; clear_value x)
    | with_reducible refine Keeps.foldl ?_ (fun _ _ _ => ?_)
    | (unfold Keeps; dsimp only; refine (?_ : Keeps _ _))

theorem startStalls_keeps {r s : State} {a1} (h : Keeps r s) : Keeps r (startStalls a1 s) := by
  unfold startStalls
  repeat' first
    | with_reducible assumption
    | (with_reducible apply modStall_keeps)
    | with_reducible refine Keeps.foldl ?_ (fun _ _ _ => ?_)

theorem noteFate_keeps {r s : State} {a1 a2} (h : Keeps r s) : Keeps r (noteFate a1 a2 s) := by
  unfold noteFate
  repeat' first
    | with_reducible assumption
    | (extract_lets +onlyGivenNames x; clear_value x)
    | (unfold Keeps; dsimp only; refine (?_ : Keeps _ _))

theorem beginActivate_keeps {r s : State} {a1 a2} (h : Keeps r s) : Keeps r (beginActivate a1 a2 s) := by
  unfold beginActivate
  repeat' first
    | with_reducible assumption
    | (with_reducible apply recheck_keeps)
    | (with_reducible apply refuse_keeps)
    | (with_reducible apply finish_keeps)
    | (with_reducible apply noteFate_keeps)
    | (extract_lets +onlyGivenNames x; clear_value x)
    | split
    | (unfold Keeps; dsimp only; refine (?_ : Keeps _ _))
    | (with_reducible refine Keeps.ofPair (by assumption) ?_)

theorem execJobActivate_keeps {r s : State} {a1 a2} (h : Keeps r s) : KeepsO r (execJobActivate a1 a2 s) := by
  unfold execJobActivate
  repeat' first
    | with_reducible assumption
    | (intro _)
    | (with_reducible apply advance_keeps)
    | (with_reducible apply onStart_keeps)
    | (with_reducible apply refuse_keeps)
    | (with_reducible apply beginActivate_keeps)
    | (with_reducible refine KeepsO.next ?_)
    | split

theorem becomeActive_keeps {r s : State} {a1 a2} (h : Keeps r s) : Keeps r (becomeActive a1 a2 s) := by
  unfold becomeActive
  repeat' first
    | with_reducible assumption
    | (with_reducible apply modJob_keeps)
    | (with_reducible apply servePairs_keeps)
    | (with_reducible apply startStalls_keeps)
    | (with_reducible apply keepEpochs_keeps)
    | (extract_lets +onlyGivenNames x; clear_value x)
    | (unfold Keeps; dsimp only; refine (?_ : Keeps _ _))

theorem execScreenStoreLoaded_keeps {r s : State} {a1} (h : Keeps r s) : KeepsO r (execScreenStoreLoaded a1 s) := by
  unfold execScreenStoreLoaded
  repeat' first
    | with_reducible assumption
    | (intro _)
    | (with_reducible apply onEvent_keeps)
    | (with_reducible apply finish_keeps)
    | (with_reducible apply dropScreens_keeps)
    | (with_reducible apply becomeActive_keeps)
    | (refine loadScreens_none ?_ (by assumption))
    | (refine loadScreens_some ?_ (by assumption))
    | (extract_lets +onlyGivenNames x; clear_value x)
    | split
    | (unfold Keeps; dsimp only; refine (?_ : Keeps _ _))

theorem beginSwitch_keeps {r s : State} {a1 a2 a3 a4} (h : Keeps r s) : Keeps r (beginSwitch a1 a2 a3 a4 s) := by
  unfold beginSwitch
  repeat' first
    | with_reducible assumption
    | (with_reducible apply dropScreens_keeps)
    | (with_reducible apply refuse_keeps)
    | (with_reducible apply modJob_keeps)
    | (with_reducible apply noteFate_keeps)
    | (with_reducible apply servePairs_keeps)
    | (refine loadScreens_none ?_ (by assumption))
    | (refine loadScreens_some ?_ (by assumption))
    | (extract_lets +onlyGivenNames x; clear_value x)
    | split
    | (unfold Keeps; dsimp only; refine (?_ : Keeps _ _))

theorem checkSwitch_keeps {r s : State} {a1 a2} (h : Keeps r s) : Keeps r (checkSwitch a1 a2 s) := by
  unfold checkSwitch
  repeat' first
    | with_reducible assumption
    | (with_reducible apply recheck_keeps)
    | (with_reducible apply refuse_keeps)
    | (with_reducible apply finish_keeps)
    | (with_reducible apply beginSwitch_keeps)
    | (extract_lets +onlyGivenNames x; clear_value x)
    | split
    | (with_reducible refine Keeps.ofPair (by assumption) ?_)

theorem execJobSwitch_keeps {r s : State} {a1 a2} (h : Keeps r s) : KeepsO r (execJobSwitch a1 a2 s) := by
  unfold execJobSwitch
  repeat' first
    | with_reducible assumption
    | (intro _)
    | (with_reducible apply advance_keeps)
    | (with_reducible apply onStart_keeps)
    | (with_reducible apply refuse_keeps)
    | (with_reducible apply checkSwitch_keeps)
    | (with_reducible refine KeepsO.next ?_)
    | split

theorem reachSwitch_keeps {r s : State} (h : Keeps r s) : Keeps r (reachSwitch s) := by
  unfold reachSwitch
  repeat' first
    | with_reducible assumption
    | (with_reducible apply settleSwitch_keeps)
    | (with_reducible apply finish_keeps)
    | (extract_lets +onlyGivenNames x; clear_value x)
    | split
    | (unfold Keeps; dsimp only; refine (?_ : Keeps _ _))

theorem unloadJob_keeps {r s : State} {a1} (h : Keeps r s) : Keeps r (unloadJob a1 s) := by
  unfold unloadJob
  repeat' first
    | with_reducible assumption
    | (with_reducible apply noteFate_keeps)
    | (with_reducible apply dropScreens_keeps)
    | (extract_lets +onlyGivenNames x; clear_value x)
    | (unfold Keeps; dsimp only; refine (?_ : Keeps _ _))

theorem execJobUnload_keeps {r s : State} {a1 a2} (h : Keeps r s) : KeepsO r (execJobUnload a1 a2 s) := by
  unfold execJobUnload
  repeat' first
    | with_reducible assumption
    | (intro _)
    | (with_reducible apply onStart_keeps)
    | (with_reducible apply refuse_keeps)
    | (with_reducible apply done_keeps)
    | (with_reducible apply unloadJob_keeps)
    | (extract_lets +onlyGivenNames x; clear_value x)
    | split

/-! ### Machine/Checks -/

theorem countUse_keeps {r s : State} {a1 a2} (h : Keeps r s) : Keeps r (countUse a1 a2 s) := by
  unfold countUse
  repeat' first
    | with_reducible assumption
    | (extract_lets +onlyGivenNames x; clear_value x)
    | (unfold Keeps; dsimp only; refine (?_ : Keeps _ _))

theorem countVerify_keeps {r s : State} {a1 a2 a3} (h : Keeps r s) : Keeps r (countVerify a1 a2 a3 s) := by
  unfold countVerify
  repeat' first
    | with_reducible assumption
    | (with_reducible apply raise_keeps)
    | (extract_lets +onlyGivenNames x; have hx : Keeps r x := ?_; clear_value x; rotate_left; subst x; rotate_right)
    | (extract_lets +onlyGivenNames x; clear_value x)
    | split
    | (unfold Keeps; dsimp only; refine (?_ : Keeps _ _))

theorem checkScan_keeps {r s : State} {a1 a2} (h : Keeps r s) : Keeps r (checkScan a1 a2 s) := by
  unfold checkScan
  repeat' first
    | with_reducible assumption
    | (with_reducible apply refuse_keeps)
    | (with_reducible apply failWith_keeps)
    | (extract_lets +onlyGivenNames x; clear_value x)
    | split
    | (unfold Keeps; dsimp only; refine (?_ : Keeps _ _))

theorem checkLoad_keeps {r s : State} {a1 a2 a3 a4} (h : Keeps r s) : Keeps r (checkLoad a1 a2 a3 a4 s) := by
  unfold checkLoad
  repeat' first
    | with_reducible assumption
    | (with_reducible apply refuse_keeps)
    | (with_reducible apply answer_keeps)
    | (with_reducible apply mendConfig_keeps)
    | (with_reducible apply failWith_keeps)
    | (with_reducible apply raise_keeps)
    | (extract_lets +onlyGivenNames x; have hx : Keeps r x := ?_; clear_value x; rotate_left; subst x; rotate_right)
    | (extract_lets +onlyGivenNames x; clear_value x)
    | split
    | (unfold Keeps; dsimp only; refine (?_ : Keeps _ _))

theorem execCheckRun_keeps {r s : State} {a1 a2 a3} (h : Keeps r s) : KeepsO r (execCheckRun a1 a2 a3 s) := by
  unfold execCheckRun
  repeat' first
    | with_reducible assumption
    | (intro _)
    | (with_reducible apply onStart_keeps)
    | (with_reducible apply refuse_keeps)
    | (with_reducible apply withRange_keeps)
    | (with_reducible apply checkScan_keeps)
    | (with_reducible apply withObject_keeps)
    | (with_reducible apply checkLoad_keeps)
    | (with_reducible apply answer_keeps)
    | (with_reducible apply wellWrite_keeps)
    | (extract_lets +onlyGivenNames x; clear_value x)
    | split

theorem execCheckScanComplete_keeps {r s : State} {a1 a2} (h : Keeps r s) : KeepsO r (execCheckScanComplete a1 a2 s) := by
  unfold execCheckScanComplete
  repeat' first
    | with_reducible assumption
    | (intro _)
    | (with_reducible apply onEvent_keeps)
    | (with_reducible apply failWith_keeps)
    | (with_reducible apply wellBad_keeps)
    | (with_reducible apply answer_keeps)
    | (with_reducible apply countUse_keeps)
    | (extract_lets +onlyGivenNames x; have hx : Keeps r x := ?_; clear_value x; rotate_left; subst x; rotate_right)
    | (extract_lets +onlyGivenNames x; clear_value x)
    | split
    | (unfold Keeps; dsimp only; refine (?_ : Keeps _ _))

theorem endScans_keeps {r : State} {a1} : ∀ {a2} {s : State}, Keeps r s → Keeps r (endScans a1 a2 s) := by
  intro a2
  induction a2 with
  | nil => intro s h; exact h
  | cons t ts ih =>
    intro s h
    refine ih ?_
    split
    · exact finish_keeps h
    · exact h

/-! ### Machine/Commands -/

theorem refuseEarly_keeps {r s : State} {a1 a2} (h : Keeps r s) : Keeps r (refuseEarly a1 a2 s) := by
  unfold refuseEarly
  repeat' first
    | with_reducible assumption
    | (with_reducible apply sendReply_keeps)
    | (extract_lets +onlyGivenNames x; have hx : Keeps r x := ?_; clear_value x; rotate_left; subst x; rotate_right)
    | (extract_lets +onlyGivenNames x; (first | (have hw : (x : Nat) = x := rfl) | (have hw : (x : Well) = x := rfl) | (have hw : (x : Cmd) = x := rfl) | (have hw : (x : _ → State) = x := rfl) | (have hw : (x : _ → _ → State) = x := rfl) | (have hw : (x : _ → _ → _ → State) = x := rfl) | (have hw : (x : _ → _ → _ → _ → State) = x := rfl)); clear hw; subst x)
    | (extract_lets +onlyGivenNames x; clear_value x)
    | split
    | (unfold Keeps; dsimp only; refine (?_ : Keeps _ _))
    | (unfold Keeps; dsimp only; refine Kept.next ?_; refine (?_ : Keeps _ _))

theorem refuseLate_keeps {r s : State} {a1 a2} (h : Keeps r s) : Keeps r (refuseLate a1 a2 s) := by
  unfold refuseLate
  repeat' first
    | with_reducible assumption
    | (with_reducible apply cacheReply_keeps)
    | (with_reducible apply sendReply_keeps)
    | (extract_lets +onlyGivenNames x; (first | (have hw : (x : Nat) = x := rfl) | (have hw : (x : Well) = x := rfl) | (have hw : (x : Cmd) = x := rfl) | (have hw : (x : _ → State) = x := rfl) | (have hw : (x : _ → _ → State) = x := rfl) | (have hw : (x : _ → _ → _ → State) = x := rfl) | (have hw : (x : _ → _ → _ → _ → State) = x := rfl)); clear hw; subst x)
    | (unfold Keeps; dsimp only; refine Kept.next ?_; refine (?_ : Keeps _ _))

theorem accept_keeps {r s : State} {a1 : Slot} (h : Keeps r s) (hf : slotFree s a1.prio = true) : Keeps r (accept a1 s) := by
  refine ⟨h.1, h.2.1, h.2.2.1, fun w => (h.2.2.2.1 w).add ?_ rfl, Nat.le_succ_of_le h.2.2.2.2.1, h.2.2.2.2.2⟩
  simp only [slotFree, Bool.or_eq_true, Bool.and_eq_true, decide_eq_true_eq] at hf
  omega

theorem refuseSequence_keeps {r s : State} {a1 a2} (h : Keeps r s) : Keeps r (refuseSequence a1 a2 s) := by
  unfold refuseSequence
  repeat' first
    | with_reducible assumption
    | (with_reducible apply sendReply_keeps)
    | (extract_lets +onlyGivenNames x; (first | (have hw : (x : Nat) = x := rfl) | (have hw : (x : Well) = x := rfl) | (have hw : (x : Cmd) = x := rfl) | (have hw : (x : _ → State) = x := rfl) | (have hw : (x : _ → _ → State) = x := rfl) | (have hw : (x : _ → _ → _ → State) = x := rfl) | (have hw : (x : _ → _ → _ → _ → State) = x := rfl)); clear hw; subst x)
    | (unfold Keeps; dsimp only; refine Kept.next ?_; refine (?_ : Keeps _ _))

theorem acceptOrRefuse_keeps {r s : State} {a1 a2} (h : Keeps r s) : Keeps r (acceptOrRefuse a1 a2 s) := by
  unfold acceptOrRefuse
  repeat' first
    | with_reducible assumption
    | (with_reducible apply refuseLate_keeps)
    | (with_reducible refine accept_keeps ?_ (by assumption))
    | (with_reducible apply modSession_keeps)
    | (with_reducible apply sendReply_keeps)
    | (with_reducible apply refuseSequence_keeps)
    | (extract_lets +onlyGivenNames x; have hx : Keeps r x := ?_; clear_value x; rotate_left; subst x; rotate_right)
    | (extract_lets +onlyGivenNames x; (first | (have hw : (x : Well) = x := rfl) | (have hw : (x : Cmd) = x := rfl) | (have hw : (x : _ → State) = x := rfl) | (have hw : (x : _ → _ → State) = x := rfl) | (have hw : (x : _ → _ → _ → State) = x := rfl) | (have hw : (x : _ → _ → _ → _ → State) = x := rfl)); clear hw; subst x)
    | split
    | (unfold Keeps; dsimp only; refine Kept.next ?_; refine (?_ : Keeps _ _))

theorem forward_keeps {r s : State} {a1 a2 a3} (h : Keeps r s) : Keeps r (forward a1 a2 a3 s) := by
  unfold forward
  repeat' first
    | with_reducible assumption
    | (with_reducible apply refuseEarly_keeps)
    | (with_reducible apply uraraSend_keeps)
    | (extract_lets +onlyGivenNames x; (first | (have hw : (x : Well) = x := rfl) | (have hw : (x : Cmd) = x := rfl) | (have hw : (x : _ → State) = x := rfl) | (have hw : (x : _ → _ → State) = x := rfl) | (have hw : (x : _ → _ → _ → State) = x := rfl) | (have hw : (x : _ → _ → _ → _ → State) = x := rfl)); clear hw; subst x)
    | (extract_lets +onlyGivenNames x; clear_value x)
    | split
    | (unfold Keeps; dsimp only; refine (?_ : Keeps _ _))

theorem intake_keeps {r s : State} {a1 a2 a3} (h : Keeps r s) : Keeps r (intake a1 a2 a3 s) := by
  unfold intake
  repeat' first
    | with_reducible assumption
    | (with_reducible apply refuseEarly_keeps)
    | (with_reducible apply forward_keeps)
    | (with_reducible apply uraraSend_keeps)
    | (with_reducible apply acceptOrRefuse_keeps)
    | (extract_lets +onlyGivenNames x; have hx : Keeps r x := ?_; clear_value x; rotate_left; subst x; rotate_right)
    | (extract_lets +onlyGivenNames x; clear_value x)
    | split

theorem intakeRing_keeps {r s : State} {a1 a2 a3} (h : Keeps r s) : Keeps r (intakeRing a1 a2 a3 s) := by
  unfold intakeRing
  repeat' first
    | with_reducible assumption
    | (with_reducible apply intake_keeps)
    | (extract_lets +onlyGivenNames x; have hx : Keeps r x := ?_; clear_value x; rotate_left; subst x; rotate_right)
    | (extract_lets +onlyGivenNames x; (first | (have hw : (x : Well) = x := rfl) | (have hw : (x : Cmd) = x := rfl) | (have hw : (x : _ → State) = x := rfl) | (have hw : (x : _ → _ → State) = x := rfl) | (have hw : (x : _ → _ → _ → State) = x := rfl) | (have hw : (x : _ → _ → _ → _ → State) = x := rfl)); clear hw; subst x)
    | (extract_lets +onlyGivenNames x; clear_value x)
    | split
    | (unfold Keeps; dsimp only; refine (?_ : Keeps _ _))

theorem execCommandIntake_keeps {r s : State} {a1 a2 a3 a4} (h : Keeps r s) : KeepsO r (execCommandIntake a1 a2 a3 a4 s) := by
  unfold execCommandIntake
  repeat' first
    | with_reducible assumption
    | (intro _)
    | (with_reducible apply onEvent_keeps)
    | (with_reducible apply intakeRing_keeps)
    | (with_reducible apply intake_keeps)
    | split

theorem execInterimReply_keeps {r s : State} {a1 a2} (h : Keeps r s) : KeepsO r (execInterimReply a1 a2 s) := by
  unfold execInterimReply
  repeat' first
    | with_reducible assumption
    | (intro _)
    | (with_reducible apply onEvent_keeps)
    | (with_reducible apply sendReply_keeps)
    | (with_reducible refine modSlot_keeps ?_ (fun _ => rfl))
    | (extract_lets +onlyGivenNames x; clear_value x)
    | split

theorem execUdpReplySend_keeps {r s : State} {a1 a2} (h : Keeps r s) : KeepsO r (execUdpReplySend a1 a2 s) := by
  unfold execUdpReplySend
  repeat' first
    | with_reducible assumption
    | (intro _)
    | (with_reducible apply onEvent_keeps)
    | (with_reducible apply handedOver_keeps)
    | (with_reducible apply emit_keeps)
    | split

theorem execUraraReplyReceive_keeps {r s : State} {a1 a2} (h : Keeps r s) : KeepsO r (execUraraReplyReceive a1 a2 s) := by
  unfold execUraraReplyReceive
  repeat' first
    | with_reducible assumption
    | (intro _)
    | (with_reducible apply onEvent_keeps)
    | (with_reducible apply sendReply_keeps)
    | (extract_lets +onlyGivenNames x; have hx : Keeps r x := ?_; clear_value x; rotate_left; subst x; rotate_right)
    | (extract_lets +onlyGivenNames x; (first | (have hw : (x : Nat) = x := rfl) | (have hw : (x : Well) = x := rfl) | (have hw : (x : Cmd) = x := rfl) | (have hw : (x : _ → State) = x := rfl) | (have hw : (x : _ → _ → State) = x := rfl) | (have hw : (x : _ → _ → _ → State) = x := rfl) | (have hw : (x : _ → _ → _ → _ → State) = x := rfl)); clear hw; subst x)
    | split
    | (unfold Keeps; dsimp only; refine (?_ : Keeps _ _))
    | (unfold Keeps; dsimp only; refine Kept.next ?_; refine (?_ : Keeps _ _))

theorem execNetConfig_keeps {r s : State} {a1 a2} (h : Keeps r s) : KeepsO r (execNetConfig a1 a2 s) := by
  unfold execNetConfig
  repeat' first
    | with_reducible assumption
    | (intro _)
    | (with_reducible apply onStart_keeps)
    | (with_reducible apply refuse_keeps)
    | (with_reducible apply answer_keeps)
    | (with_reducible apply mendConfig_keeps)
    | (extract_lets +onlyGivenNames x; clear_value x)
    | split
    | (unfold Keeps; dsimp only; refine (?_ : Keeps _ _))

theorem execIdentify_keeps {r s : State} {a1 a2} (h : Keeps r s) : KeepsO r (execIdentify a1 a2 s) := by
  unfold execIdentify
  repeat' first
    | with_reducible assumption
    | (intro _)
    | (with_reducible apply onStart_keeps)
    | (with_reducible apply answer_keeps)

theorem execCrierConfig_keeps {r s : State} {a1 a2} (h : Keeps r s) : KeepsO r (execCrierConfig a1 a2 s) := by
  unfold execCrierConfig
  repeat' first
    | with_reducible assumption
    | (intro _)
    | (with_reducible apply onStart_keeps)
    | (with_reducible apply refuse_keeps)
    | (with_reducible apply done_keeps)
    | (extract_lets +onlyGivenNames x; clear_value x)
    | split
    | (unfold Keeps; dsimp only; refine (?_ : Keeps _ _))

/-! ### Machine/Rings -/

theorem modRing_keeps {r s : State} {a1 a2} (h : Keeps r s) : Keeps r (modRing a1 a2 s) := by
  unfold modRing
  repeat' first
    | with_reducible assumption
    | (extract_lets +onlyGivenNames x; clear_value x)
    | (unfold Keeps; dsimp only; refine (?_ : Keeps _ _))

theorem modWork_keeps {r s : State} {a1 a2} (h : Keeps r s) : Keeps r (modWork a1 a2 s) := by
  unfold modWork
  repeat' first
    | with_reducible assumption
    | (extract_lets +onlyGivenNames x; clear_value x)
    | (unfold Keeps; dsimp only; refine (?_ : Keeps _ _))

theorem attend_keeps {r s : State} {a1} (h : Keeps r s) : Keeps r (attend a1 s) := by
  unfold attend
  repeat' first
    | with_reducible assumption
    | (with_reducible apply setInt_keeps)

theorem ringError_keeps {r s : State} {a1 a2 a3} (h : Keeps r s) : Keeps r (ringError a1 a2 a3 s) := by
  unfold ringError
  repeat' first
    | with_reducible assumption
    | (with_reducible apply attend_keeps)
    | (with_reducible apply modRing_keeps)

theorem coalesceFire_keeps {r s : State} {a1} (h : Keeps r s) : Keeps r (coalesceFire a1 s) := by
  unfold coalesceFire
  repeat' first
    | with_reducible assumption
    | (with_reducible apply setInt_keeps)
    | (with_reducible apply modWork_keeps)

theorem countIrq_keeps {r s : State} {a1} (h : Keeps r s) : Keeps r (countIrq a1 s) := by
  unfold countIrq
  repeat' first
    | with_reducible assumption
    | (with_reducible apply modWork_keeps)
    | (with_reducible apply coalesceFire_keeps)
    | (extract_lets +onlyGivenNames x; have hx : Keeps r x := ?_; clear_value x; rotate_left; subst x; rotate_right)
    | split

theorem shadowSwitch_keeps {r s : State} {a1} (h : Keeps r s) : Keeps r (shadowSwitch a1 s) := by
  unfold shadowSwitch
  repeat' first
    | with_reducible assumption
    | (with_reducible apply attend_keeps)
    | (with_reducible apply modRing_keeps)

theorem completeDesc_keeps {r s : State} {a1 a2 a3} (h : Keeps r s) : Keeps r (completeDesc a1 a2 a3 s) := by
  unfold completeDesc
  repeat' first
    | with_reducible assumption
    | (with_reducible apply emits_keeps)
    | (with_reducible apply modWork_keeps)
    | (with_reducible apply modRing_keeps)
    | (with_reducible apply countIrq_keeps)
    | (with_reducible apply attend_keeps)
    | (with_reducible apply ringError_keeps)
    | (with_reducible apply shadowSwitch_keeps)
    | (extract_lets +onlyGivenNames x; have hx : Keeps r x := ?_; clear_value x; rotate_left; subst x; rotate_right)
    | (extract_lets +onlyGivenNames x; clear_value x)
    | split

theorem execDescriptorFetch_keeps {r s : State} {a1 a2 a3} (h : Keeps r s) : KeepsO r (execDescriptorFetch a1 a2 a3 s) := by
  unfold execDescriptorFetch
  repeat' first
    | with_reducible assumption
    | (intro _)
    | (with_reducible apply onEvent_keeps)
    | (with_reducible apply modWork_keeps)
    | (with_reducible apply modRing_keeps)
    | (with_reducible apply completeDesc_keeps)
    | (extract_lets +onlyGivenNames x; have hx : Keeps r x := ?_; clear_value x; rotate_left; subst x; rotate_right)
    | (extract_lets +onlyGivenNames x; clear_value x)
    | split

theorem placeInWell_keeps {r s : State} {a1 a2 a3} (h : Keeps r s) : Keeps r (placeInWell a1 a2 a3 s) := by
  unfold placeInWell
  repeat' first
    | with_reducible assumption
    | (with_reducible apply wellWrite_keeps)
    | split

theorem feedInput_keeps {r s : State} {a1 a2} (h : Keeps r s) : Keeps r (feedInput a1 a2 s) := by
  unfold feedInput
  repeat' first
    | with_reducible assumption
    | (with_reducible apply wellWrite_keeps)
    | (with_reducible apply modWork_keeps)
    | (with_reducible apply done_keeps)
    | (extract_lets +onlyGivenNames x; have hx : Keeps r x := ?_; clear_value x; rotate_left; subst x; rotate_right)
    | (extract_lets +onlyGivenNames x; clear_value x)
    | split

theorem placeIn_keeps {r s : State} {a1 a2 a3 a4} (h : Keeps r s) : Keeps r (placeIn a1 a2 a3 a4 s) := by
  unfold placeIn
  repeat' first
    | with_reducible assumption
    | (with_reducible apply feedInput_keeps)
    | (with_reducible apply placeInWell_keeps)
    | split

theorem finishIn_keeps {r s : State} {a1 a2 a3} (h : Keeps r s) : Keeps r (finishIn a1 a2 a3 s) := by
  unfold finishIn
  repeat' first
    | with_reducible assumption
    | (with_reducible apply completeDesc_keeps)
    | (with_reducible apply placeIn_keeps)
    | (with_reducible apply countVerify_keeps)
    | (with_reducible apply countUse_keeps)
    | (extract_lets +onlyGivenNames x; clear_value x)
    | split

theorem withCheck_keeps {r s : State} {a1 a2} (h : Keeps r s) : Keeps r (withCheck a1 a2 s).2 := by
  unfold withCheck
  repeat' first
    | with_reducible assumption
    | (with_reducible apply countUse_keeps)
    | split

theorem unitEnds_keeps {r s : State} {a1} (h : Keeps r s) : Keeps r (unitEnds a1 s) := by
  unfold unitEnds
  repeat' first
    | with_reducible assumption
    | (with_reducible apply blockExported_keeps)
    | (with_reducible apply finish_keeps)
    | (extract_lets +onlyGivenNames x; have hx : Keeps r x := ?_; clear_value x; rotate_left; subst x; rotate_right)
    | split

theorem sendUnit_keeps {r s : State} {a1 a2 a3} (h : Keeps r s) : Keeps r (sendUnit a1 a2 a3 s) := by
  unfold sendUnit
  repeat' first
    | with_reducible assumption
    | (with_reducible apply completeDesc_keeps)
    | (with_reducible apply withCheck_keeps)
    | (with_reducible apply emit_keeps)
    | (with_reducible apply modWork_keeps)
    | (with_reducible apply unitEnds_keeps)
    | (extract_lets +onlyGivenNames x; have hx : Keeps r x := ?_; clear_value x; rotate_left; subst x; rotate_right)
    | (extract_lets +onlyGivenNames x; clear_value x)
    | split
    | (with_reducible refine Keeps.ofPair (by assumption) ?_)

theorem sendWell_keeps {r s : State} {a1 a2} (h : Keeps r s) : Keeps r (sendWell a1 a2 s) := by
  unfold sendWell
  repeat' first
    | with_reducible assumption
    | (with_reducible apply completeDesc_keeps)
    | (with_reducible apply wellBad_keeps)
    | (with_reducible apply withCheck_keeps)
    | (with_reducible apply emit_keeps)
    | (extract_lets +onlyGivenNames x; clear_value x)
    | split

theorem sendNext_keeps {r s : State} {a1 a2} (h : Keeps r s) : Keeps r (sendNext a1 a2 s) := by
  unfold sendNext
  repeat' first
    | with_reducible assumption
    | (with_reducible apply sendUnit_keeps)
    | split

theorem execDescriptorComplete_keeps {r s : State} {a1 a2 a3} (h : Keeps r s) : KeepsO r (execDescriptorComplete a1 a2 a3 s) := by
  unfold execDescriptorComplete
  repeat' first
    | with_reducible assumption
    | (intro _)
    | (with_reducible apply onEvent_keeps)
    | (with_reducible apply completeDesc_keeps)
    | (with_reducible apply finishIn_keeps)
    | (with_reducible apply sendNext_keeps)
    | (with_reducible apply sendWell_keeps)
    | (extract_lets +onlyGivenNames x; clear_value x)
    | split

theorem takeReply_keeps {r s t : State} {a1 w} (h : Keeps r s) (e : takeReply a1 s = some (w, t)) : Keeps r t := by
  unfold takeReply at e
  split at e
  · cases e
  · split at e
    · simp only [Option.some.injEq, Prod.mk.injEq] at e
      obtain ⟨_, rfl⟩ := e
      split
      · exact handedOver_keeps h
      · exact h
    · cases e
theorem execReplyRingWrite_keeps {r s : State} {a1 a2} (h : Keeps r s) : KeepsO r (execReplyRingWrite a1 a2 s) := by
  unfold execReplyRingWrite
  apply onEvent_keeps h
  intro x hx
  split
  · exact hx
  · split
    · next e =>
      split
      · exact completeDesc_keeps hx
      · dsimp only
        exact completeDesc_keeps (emit_keeps (withCheck_keeps (takeReply_keeps hx e)))
    · exact hx

theorem execRingHoldoffExpiry_keeps {r s : State} {a1 a2} (h : Keeps r s) : KeepsO r (execRingHoldoffExpiry a1 a2 s) := by
  unfold execRingHoldoffExpiry
  repeat' first
    | with_reducible assumption
    | (intro _)
    | (with_reducible apply onEvent_keeps)
    | (with_reducible apply coalesceFire_keeps)
    | (extract_lets +onlyGivenNames x; clear_value x)
    | split

theorem ringPause_keeps {r s : State} {a1} (h : Keeps r s) : Keeps r (ringPause a1 s) := by
  unfold ringPause
  repeat' first
    | with_reducible assumption
    | (with_reducible apply modRing_keeps)

theorem execRingPause_keeps {r s : State} {a1 a2} (h : Keeps r s) : KeepsO r (execRingPause a1 a2 s) := by
  unfold execRingPause
  repeat' first
    | with_reducible assumption
    | (intro _)
    | (with_reducible apply onEvent_keeps)
    | (with_reducible apply ringPause_keeps)
    | split

theorem ringFlush_keeps {r s : State} {a1} (h : Keeps r s) : Keeps r (ringFlush a1 s) := by
  unfold ringFlush
  repeat' first
    | with_reducible assumption
    | (with_reducible apply completeDesc_keeps)
    | (with_reducible apply modWork_keeps)
    | (with_reducible apply modRing_keeps)
    | split

theorem execRingPauseComplete_keeps {r s : State} {a1 a2 a3} (h : Keeps r s) : KeepsO r (execRingPauseComplete a1 a2 a3 s) := by
  unfold execRingPauseComplete
  repeat' first
    | with_reducible assumption
    | (intro _)
    | (with_reducible apply onEvent_keeps)
    | (with_reducible apply placeIn_keeps)
    | (with_reducible apply modWork_keeps)
    | (with_reducible apply modRing_keeps)
    | (with_reducible apply ringFlush_keeps)
    | (with_reducible apply attend_keeps)
    | (extract_lets +onlyGivenNames x; have hx : Keeps r x := ?_; clear_value x; rotate_left; subst x; rotate_right)
    | (extract_lets +onlyGivenNames x; clear_value x)
    | split

theorem ringResume_keeps {r s : State} {a1} (h : Keeps r s) : Keeps r (ringResume a1 s) := by
  unfold ringResume
  repeat' first
    | with_reducible assumption
    | (with_reducible apply modWork_keeps)
    | (with_reducible apply modRing_keeps)
    | split

theorem execRingResume_keeps {r s : State} {a1 a2} (h : Keeps r s) : KeepsO r (execRingResume a1 a2 s) := by
  unfold execRingResume
  repeat' first
    | with_reducible assumption
    | (intro _)
    | (with_reducible apply onEvent_keeps)
    | (with_reducible apply ringResume_keeps)
    | split

theorem ringEnable_keeps {r s : State} {a1} (h : Keeps r s) : Keeps r (ringEnable a1 s) := by
  unfold ringEnable
  repeat' first
    | with_reducible assumption
    | (with_reducible apply modRing_keeps)
    | (with_reducible apply ringError_keeps)
    | (extract_lets +onlyGivenNames x; have hx : Keeps r x := ?_; clear_value x; rotate_left; subst x; rotate_right)
    | (extract_lets +onlyGivenNames x; clear_value x)
    | split

theorem execRingEnable_keeps {r s : State} {a1 a2} (h : Keeps r s) : KeepsO r (execRingEnable a1 a2 s) := by
  unfold execRingEnable
  repeat' first
    | with_reducible assumption
    | (intro _)
    | (with_reducible apply onEvent_keeps)
    | (with_reducible apply ringEnable_keeps)
    | split

theorem ringDisable_keeps {r s : State} {a1} (h : Keeps r s) : Keeps r (ringDisable a1 s) := by
  unfold ringDisable
  repeat' first
    | with_reducible assumption
    | (with_reducible apply ringFlush_keeps)
    | (with_reducible apply modRing_keeps)
    | (with_reducible apply modWork_keeps)
    | (extract_lets +onlyGivenNames x; clear_value x)
    | split

theorem execRingDisable_keeps {r s : State} {a1 a2} (h : Keeps r s) : KeepsO r (execRingDisable a1 a2 s) := by
  unfold execRingDisable
  repeat' first
    | with_reducible assumption
    | (intro _)
    | (with_reducible apply onEvent_keeps)
    | (with_reducible apply ringDisable_keeps)
    | split

theorem ringTail_keeps {r s : State} {a1 a2} (h : Keeps r s) : Keeps r (ringTail a1 a2 s) := by
  unfold ringTail
  repeat' first
    | with_reducible assumption
    | (with_reducible apply attend_keeps)
    | (with_reducible apply modRing_keeps)
    | (extract_lets +onlyGivenNames x; clear_value x)
    | split

theorem execRingTailWrite_keeps {r s : State} {a1 a2 a3} (h : Keeps r s) : KeepsO r (execRingTailWrite a1 a2 a3 s) := by
  unfold execRingTailWrite
  repeat' first
    | with_reducible assumption
    | (intro _)
    | (with_reducible apply onEvent_keeps)
    | (with_reducible apply ringTail_keeps)
    | split

theorem ringHead_keeps {r s : State} {a1 a2} (h : Keeps r s) : Keeps r (ringHead a1 a2 s) := by
  unfold ringHead
  repeat' first
    | with_reducible assumption
    | (with_reducible apply modRing_keeps)
    | split

theorem execRingHeadWrite_keeps {r s : State} {a1 a2} (h : Keeps r s) : KeepsO r (execRingHeadWrite a1 a2 s) := by
  unfold execRingHeadWrite
  repeat' first
    | with_reducible assumption
    | (with_reducible apply ringHead_keeps)
    | (with_reducible refine KeepsO.next ?_)
    | split

theorem shadowTouched_keeps {r s : State} {a1} (h : Keeps r s) : Keeps r (shadowTouched a1 s) := by
  unfold shadowTouched
  repeat' first
    | with_reducible assumption
    | (with_reducible apply modRing_keeps)
    | split

theorem shadowCtrl_keeps {r s : State} {a1 a2} (h : Keeps r s) : Keeps r (shadowCtrl a1 a2 s) := by
  unfold shadowCtrl
  repeat' first
    | with_reducible assumption
    | (with_reducible apply shadowTouched_keeps)
    | (with_reducible apply modRing_keeps)
    | (with_reducible apply shadowSwitch_keeps)
    | (extract_lets +onlyGivenNames x; have hx : Keeps r x := ?_; clear_value x; rotate_left; subst x; rotate_right)
    | (extract_lets +onlyGivenNames x; clear_value x)
    | split

theorem execShadowArmWrite_keeps {r s : State} {a1 a2 a3} (h : Keeps r s) : KeepsO r (execShadowArmWrite a1 a2 a3 s) := by
  unfold execShadowArmWrite
  repeat' first
    | with_reducible assumption
    | (intro _)
    | (with_reducible apply onEvent_keeps)
    | (with_reducible apply shadowCtrl_keeps)
    | split

theorem ringStatusClear_keeps {r s : State} {a1 a2} (h : Keeps r s) : Keeps r (ringStatusClear a1 a2 s) := by
  unfold ringStatusClear
  repeat' first
    | with_reducible assumption
    | (with_reducible apply modRing_keeps)

theorem execRingStatusClear_keeps {r s : State} {a1 a2 a3} (h : Keeps r s) : KeepsO r (execRingStatusClear a1 a2 a3 s) := by
  unfold execRingStatusClear
  repeat' first
    | with_reducible assumption
    | (intro _)
    | (with_reducible apply onEvent_keeps)
    | (with_reducible apply ringStatusClear_keeps)
    | split

theorem intClear_keeps {r s : State} {a1} (h : Keeps r s) : Keeps r (intClear a1 s) := by
  unfold intClear
  repeat' first
    | with_reducible assumption
    | (extract_lets +onlyGivenNames x; clear_value x)
    | (unfold Keeps; dsimp only; refine (?_ : Keeps _ _))

theorem execIntStatusClear_keeps {r s : State} {a1 a2} (h : Keeps r s) : KeepsO r (execIntStatusClear a1 a2 s) := by
  unfold execIntStatusClear
  repeat' first
    | with_reducible assumption
    | (intro _)
    | (with_reducible apply onEvent_keeps)
    | (with_reducible apply intClear_keeps)
    | split

theorem msixUnmask_keeps {r s : State} {a1} (h : Keeps r s) : Keeps r (msixUnmask a1 s) := by
  unfold msixUnmask
  repeat' first
    | with_reducible assumption
    | (with_reducible apply emit_keeps)
    | (extract_lets +onlyGivenNames x; have hx : Keeps r x := ?_; clear_value x; rotate_left; subst x; rotate_right)
    | (extract_lets +onlyGivenNames x; clear_value x)
    | split
    | (unfold Keeps; dsimp only; refine (?_ : Keeps _ _))

theorem execMsixVectorUnmask_keeps {r s : State} {a1 a2} (h : Keeps r s) : KeepsO r (execMsixVectorUnmask a1 a2 s) := by
  unfold execMsixVectorUnmask
  repeat' first
    | with_reducible assumption
    | (intro _)
    | (with_reducible apply onEvent_keeps)
    | (with_reducible apply msixUnmask_keeps)
    | split

theorem ringCtrl_keeps {r s : State} {a1 a2} (h : Keeps r s) : Keeps r (ringCtrl a1 a2 s) := by
  unfold ringCtrl
  repeat' first
    | with_reducible assumption
    | (with_reducible apply modRing_keeps)
    | (with_reducible apply ringPause_keeps)
    | (with_reducible apply ringResume_keeps)
    | (with_reducible apply ringEnable_keeps)
    | (with_reducible apply ringDisable_keeps)
    | (extract_lets +onlyGivenNames x; have hx : Keeps r x := ?_; clear_value x; rotate_left; subst x; rotate_right)
    | (extract_lets +onlyGivenNames x; clear_value x)
    | split

theorem ringRegWrite_keeps {r s : State} {a1 a2 a3} (h : Keeps r s) : Keeps r (ringRegWrite a1 a2 a3 s) := by
  unfold ringRegWrite
  repeat' first
    | with_reducible assumption
    | (with_reducible apply modRing_keeps)
    | (with_reducible apply ringHead_keeps)
    | (with_reducible apply ringTail_keeps)
    | (with_reducible apply ringCtrl_keeps)
    | (with_reducible apply ringStatusClear_keeps)
    | split

theorem shadowRegWrite_keeps {r s : State} {a1 a2 a3} (h : Keeps r s) : Keeps r (shadowRegWrite a1 a2 a3 s) := by
  unfold shadowRegWrite
  repeat' first
    | with_reducible assumption
    | (with_reducible apply modRing_keeps)
    | (with_reducible apply shadowTouched_keeps)
    | (with_reducible apply shadowCtrl_keeps)
    | split

theorem msixWrite_keeps {r s : State} {a1 a2 a3} (h : Keeps r s) : Keeps r (msixWrite a1 a2 a3 s) := by
  unfold msixWrite
  repeat' first
    | with_reducible assumption
    | (with_reducible apply msixUnmask_keeps)
    | (extract_lets +onlyGivenNames x; have hx : Keeps r x := ?_; clear_value x; rotate_left; subst x; rotate_right)
    | (extract_lets +onlyGivenNames x; clear_value x)
    | split
    | (unfold Keeps; dsimp only; refine (?_ : Keeps _ _))

theorem mbxStart_keeps {r s : State} {a1} (h : Keeps r s) : Keeps r (mbxStart a1 s) := by
  unfold mbxStart
  repeat' first
    | with_reducible assumption
    | (with_reducible apply setInt_keeps)
    | (extract_lets +onlyGivenNames x; clear_value x)
    | split
    | (unfold Keeps; dsimp only; refine (?_ : Keeps _ _))

theorem barWrite_keeps {r s : State} {a1 a2} (h : Keeps r s) : Keeps r (barWrite a1 a2 s) := by
  unfold barWrite
  repeat' first
    | with_reducible assumption
    | (with_reducible apply ringRegWrite_keeps)
    | (with_reducible apply shadowRegWrite_keeps)
    | (with_reducible apply intClear_keeps)
    | (with_reducible apply msixWrite_keeps)
    | (with_reducible apply mbxStart_keeps)
    | (extract_lets +onlyGivenNames x; clear_value x)
    | split
    | (unfold Keeps; dsimp only; refine (?_ : Keeps _ _))

theorem execBar0RegisterWrite_keeps {r s : State} {a1 a2 a3 a4} (h : Keeps r s) : KeepsO r (execBar0RegisterWrite a1 a2 a3 a4 s) := by
  unfold execBar0RegisterWrite
  repeat' first
    | with_reducible assumption
    | (intro _)
    | (with_reducible apply onEvent_keeps)
    | (with_reducible apply barWrite_keeps)
    | (extract_lets +onlyGivenNames x; clear_value x)
    | split

theorem execFunctionLevelReset_keeps {r s : State} {a1} (h : Keeps r s) : KeepsO r (execFunctionLevelReset a1 s) := by
  unfold execFunctionLevelReset
  repeat' first
    | with_reducible assumption
    | (intro _)
    | (with_reducible apply onEvent_keeps)
    | (extract_lets +onlyGivenNames x; clear_value x)
    | split
    | (unfold Keeps; dsimp only; refine (?_ : Keeps _ _))

theorem ringPowerDown_keeps {r s : State} {a1 a2} (h : Keeps r s) : Keeps r (ringPowerDown a1 a2 s) := by
  unfold ringPowerDown
  repeat' first
    | with_reducible assumption
    | (with_reducible apply attend_keeps)
    | (with_reducible apply modRing_keeps)
    | (with_reducible apply completeDesc_keeps)
    | (with_reducible apply modWork_keeps)
    | (extract_lets +onlyGivenNames x; clear_value x)
    | split

theorem ringsPowerDown_keeps {r s : State} {a1} (h : Keeps r s) : Keeps r (ringsPowerDown a1 s) := by
  unfold ringsPowerDown
  repeat' first
    | with_reducible assumption
    | (with_reducible apply ringPowerDown_keeps)
    | with_reducible refine Keeps.foldl ?_ (fun _ _ _ => ?_)

theorem execRingDomainDeadline_keeps {r s : State} {a1 a2} (h : Keeps r s) : KeepsO r (execRingDomainDeadline a1 a2 s) := by
  unfold execRingDomainDeadline
  repeat' first
    | with_reducible assumption
    | (intro _)
    | (with_reducible apply onEvent_keeps)
    | (with_reducible apply modWork_keeps)
    | (with_reducible apply attend_keeps)
    | (with_reducible apply modRing_keeps)
    | (with_reducible apply completeDesc_keeps)
    | (extract_lets +onlyGivenNames x; have hx : Keeps r x := ?_; clear_value x; rotate_left; subst x; rotate_right)
    | (extract_lets +onlyGivenNames x; clear_value x)
    | split

theorem execRingRole_keeps {r s : State} {a1 a2} (h : Keeps r s) : KeepsO r (execRingRole a1 a2 s) := by
  unfold execRingRole
  repeat' first
    | with_reducible assumption
    | (intro _)
    | (with_reducible apply onStart_keeps)
    | (with_reducible apply refuse_keeps)
    | (with_reducible apply done_keeps)
    | (with_reducible apply modRing_keeps)
    | split

theorem execWellRead_keeps {r s : State} {a1 a2} (h : Keeps r s) : KeepsO r (execWellRead a1 a2 s) := by
  unfold execWellRead
  repeat' first
    | with_reducible assumption
    | (intro _)
    | (with_reducible apply onStart_keeps)
    | (with_reducible apply refuse_keeps)
    | (with_reducible apply withObject_keeps)
    | (with_reducible apply queueUnits_keeps)
    | split

theorem execWellWrite_keeps {r s : State} {a1 a2} (h : Keeps r s) : KeepsO r (execWellWrite a1 a2 s) := by
  unfold execWellWrite
  repeat' first
    | with_reducible assumption
    | (intro _)
    | (with_reducible apply onStart_keeps)
    | (with_reducible apply refuse_keeps)
    | (with_reducible apply withRange_keeps)
    | (with_reducible apply modWork_keeps)
    | split

theorem dropFailed_keeps {r s : State} {a1 a2} (h : Keeps r s) : Keeps r (dropFailed a1 a2 s) := by
  unfold dropFailed
  repeat' first
    | with_reducible assumption
    | (with_reducible apply completeDesc_keeps)
    | split

theorem execCheckUnitSelfcheck_keeps {r s : State} {a1 a2 a3} (h : Keeps r s) : KeepsO r (execCheckUnitSelfcheck a1 a2 a3 s) := by
  unfold execCheckUnitSelfcheck
  repeat' first
    | with_reducible assumption
    | (intro _)
    | (with_reducible apply onEvent_keeps)
    | (with_reducible apply dropFailed_keeps)
    | (with_reducible apply endScans_keeps)
    | (with_reducible apply raise_keeps)
    | (with_reducible apply notify_keeps)
    | split
    | with_reducible refine Keeps.foldl ?_ (fun _ _ _ => ?_)
    | (unfold Keeps; dsimp only; refine (?_ : Keeps _ _))

end Sys2Proof.Machine
end

