-- ==== Sys2Proof/Laws/KeepsLink.lean ====
section
/-!
SUPPORT. The operations of the Urara link, the twins, vision, line boundaries and the Krynto core keep what Keeps says.
-/
namespace Sys2Proof.Machine

/-! ### Machine/UraraLink -/

theorem execNodeId_keeps {r s : State} {a1 a2} (h : Keeps r s) : KeepsO r (execNodeId a1 a2 s) := by
  unfold execNodeId
  repeat' first
    | with_reducible assumption
    | (intro _)
    | (with_reducible apply onStart_keeps)
    | (with_reducible apply refuse_keeps)
    | (with_reducible apply done_keeps)
    | (extract_lets +onlyGivenNames x; clear_value x)
    | split
    | (unfold Keeps; dsimp only; refine (?_ : Keeps _ _))

theorem judgeRemotes_keeps {r s : State} (h : Keeps r s) : Keeps r (judgeRemotes s) := by
  unfold judgeRemotes
  repeat' first
    | with_reducible assumption
    | (with_reducible apply raise_keeps)
    | (extract_lets +onlyGivenNames x; have hx : Keeps r x := ?_; clear_value x; rotate_left; subst x; rotate_right)
    | (extract_lets +onlyGivenNames x; clear_value x)
    | with_reducible refine Keeps.foldl ?_ (fun _ _ _ => ?_)
    | (unfold Keeps; dsimp only; refine (?_ : Keeps _ _))

theorem sendRoutes_keeps {r : State} {a2} : ∀ {a1 a3} {s : State}, Keeps r s → Keeps r (sendRoutes a1 a2 a3 s) := by
  intro a1
  induction a1 with
  | zero => intro a3 s h; exact h
  | succ n ih =>
    intro a3 s h
    unfold sendRoutes
    split
    · exact h
    · exact ih (sendPort_keeps h)

theorem advertise_keeps {r s : State} {a1 a2} (h : Keeps r s) : Keeps r (advertise a1 a2 s) := by
  unfold advertise
  repeat' first
    | with_reducible assumption
    | (with_reducible apply sendRoutes_keeps)
    | split
    | with_reducible refine Keeps.foldl ?_ (fun _ _ _ => ?_)

theorem learnRoute_keeps {r s : State} {a1} (h : Keeps r s) : Keeps r (learnRoute a1 s) := by
  unfold learnRoute
  repeat' first
    | with_reducible assumption
    | (extract_lets +onlyGivenNames x; clear_value x)
    | split
    | (unfold Keeps; dsimp only; refine (?_ : Keeps _ _))

theorem routesChanged_keeps {r s : State} {a1 a2} (h : Keeps r s) : Keeps r (routesChanged a1 a2 s) := by
  unfold routesChanged
  repeat' first
    | with_reducible assumption
    | (with_reducible apply settleTopology_keeps)
    | (with_reducible apply judgeRemotes_keeps)
    | (with_reducible apply advertise_keeps)

theorem execAnnounceSend_keeps {r s : State} {a1 a2} (h : Keeps r s) : KeepsO r (execAnnounceSend a1 a2 s) := by
  unfold execAnnounceSend
  repeat' first
    | with_reducible assumption
    | (intro _)
    | (with_reducible apply onEvent_keeps)
    | (with_reducible apply modLane_keeps)
    | (with_reducible apply transmit_keeps)
    | (with_reducible apply emit_keeps)
    | (extract_lets +onlyGivenNames x; have hx : Keeps r x := ?_; clear_value x; rotate_left; subst x; rotate_right)
    | (extract_lets +onlyGivenNames x; clear_value x)
    | split

theorem execAnnounceReceive_keeps {r s : State} {a1 a2 a3 a4 a5 a6} (h : Keeps r s) : KeepsO r (execAnnounceReceive a1 a2 a3 a4 a5 a6 s) := by
  unfold execAnnounceReceive
  repeat' first
    | with_reducible assumption
    | (intro _)
    | (with_reducible apply onEvent_keeps)
    | (with_reducible apply modLane_keeps)
    | (with_reducible apply settleTopology_keeps)
    | (with_reducible apply raise_keeps)
    | (with_reducible apply routesChanged_keeps)
    | (with_reducible apply learnRoute_keeps)
    | (extract_lets +onlyGivenNames x; have hx : Keeps r x := ?_; clear_value x; rotate_left; subst x; rotate_right)
    | (extract_lets +onlyGivenNames x; clear_value x)
    | split
    | (unfold Keeps; dsimp only; refine (?_ : Keeps _ _))

theorem execRouteReceive_keeps {r s : State} {a1 a2 a3 a4} (h : Keeps r s) : KeepsO r (execRouteReceive a1 a2 a3 a4 s) := by
  unfold execRouteReceive
  repeat' first
    | with_reducible assumption
    | (intro _)
    | (with_reducible apply onEvent_keeps)
    | (with_reducible apply learnRoute_keeps)
    | (with_reducible apply routesChanged_keeps)
    | (extract_lets +onlyGivenNames x; have hx : Keeps r x := ?_; clear_value x; rotate_left; subst x; rotate_right)
    | (extract_lets +onlyGivenNames x; clear_value x)
    | split
    | with_reducible refine Keeps.foldl ?_ (fun _ _ _ => ?_)
    | (unfold Keeps; dsimp only; refine (?_ : Keeps _ _))

theorem execRouteFullAdvertise_keeps {r s : State} {a1} (h : Keeps r s) : KeepsO r (execRouteFullAdvertise a1 s) := by
  unfold execRouteFullAdvertise
  repeat' first
    | with_reducible assumption
    | (intro _)
    | (with_reducible apply onEvent_keeps)
    | (with_reducible apply advertise_keeps)
    | (extract_lets +onlyGivenNames x; clear_value x)
    | split
    | (unfold Keeps; dsimp only; refine (?_ : Keeps _ _))

theorem execRouteExpire_keeps {r s : State} {a1 a2} (h : Keeps r s) : KeepsO r (execRouteExpire a1 a2 s) := by
  unfold execRouteExpire
  repeat' first
    | with_reducible assumption
    | (intro _)
    | (with_reducible apply onEvent_keeps)
    | (with_reducible apply routesChanged_keeps)
    | (extract_lets +onlyGivenNames x; clear_value x)
    | split
    | (unfold Keeps; dsimp only; refine (?_ : Keeps _ _))

theorem execTopology_keeps {r s : State} {a1 a2} (h : Keeps r s) : KeepsO r (execTopology a1 a2 s) := by
  unfold execTopology
  repeat' first
    | with_reducible assumption
    | (intro _)
    | (with_reducible apply advance_keeps)
    | (with_reducible apply onStart_keeps)
    | (with_reducible apply refuse_keeps)
    | (with_reducible apply granaryCount_keeps)
    | (with_reducible apply followedFailed_keeps)
    | (with_reducible apply restartDom_keeps)
    | (with_reducible apply huntLane_keeps)
    | (with_reducible apply modLane_keeps)
    | (with_reducible apply freeSpare_keeps)
    | (with_reducible apply settleTopology_keeps)
    | (with_reducible apply judgeRemotes_keeps)
    | (with_reducible apply notePorts_keeps)
    | (with_reducible refine KeepsO.next ?_)
    | (extract_lets +onlyGivenNames x; have hx : Keeps r x := ?_; clear_value x; rotate_left; subst x; rotate_right)
    | (extract_lets +onlyGivenNames x; clear_value x)
    | split
    | with_reducible refine Keeps.foldl ?_ (fun _ _ _ => ?_)
    | (unfold Keeps; dsimp only; refine (?_ : Keeps _ _))

theorem execTopologyReplyTimeout_keeps {r s : State} {a1} (h : Keeps r s) : KeepsO r (execTopologyReplyTimeout a1 s) := by
  unfold execTopologyReplyTimeout
  repeat' first
    | with_reducible assumption
    | (intro _)
    | (with_reducible apply onEvent_keeps)
    | (with_reducible apply finish_keeps)
    | (extract_lets +onlyGivenNames x; clear_value x)
    | with_reducible refine Keeps.foldl ?_ (fun _ _ _ => ?_)
    | (unfold Keeps; dsimp only; refine (?_ : Keeps _ _))

theorem takeAck_keeps {r s : State} {a1 a2} (h : Keeps r s) : Keeps r (takeAck a1 a2 s) := by
  unfold takeAck
  repeat' first
    | with_reducible assumption
    | (with_reducible apply modLink_keeps)
    | (with_reducible apply drainLink_keeps)

theorem sendNak_keeps {r s : State} {a1} (h : Keeps r s) : Keeps r (sendNak a1 s) := by
  unfold sendNak
  repeat' first
    | with_reducible assumption
    | (with_reducible apply emit_keeps)
    | (with_reducible apply modLink_keeps)
    | (extract_lets +onlyGivenNames x; clear_value x)
    | split

theorem deliverPacket_keeps {r s : State} {a1 a2 a3} (h : Keeps r s) : Keeps r (deliverPacket a1 a2 a3 s) := by
  unfold deliverPacket
  repeat' first
    | with_reducible assumption
    | (extract_lets +onlyGivenNames x; clear_value x)
    | (unfold Keeps; dsimp only; refine (?_ : Keeps _ _))

theorem takeInbox_keeps {r s : State} {a1} (h : Keeps r s) : Keeps r (takeInbox a1 s) := by
  unfold takeInbox
  repeat' first
    | with_reducible assumption
    | (extract_lets +onlyGivenNames x; clear_value x)
    | (unfold Keeps; dsimp only; refine (?_ : Keeps _ _))

theorem forwardedWords_keeps {r s : State} {a1 a2 a3} (h : Keeps r s) : Keeps r (forwardedWords a1 a2 a3 s).2 := by
  unfold forwardedWords
  repeat' first
    | with_reducible assumption
    | (with_reducible apply takeFresh_keeps)
    | split

theorem takePacket_keeps {r s : State} {a1 a2 a3 a4 a5 a6} (h : Keeps r s) : Keeps r (takePacket a1 a2 a3 a4 a5 a6 s) := by
  unfold takePacket
  repeat' first
    | with_reducible assumption
    | (with_reducible apply deliverPacket_keeps)
    | (with_reducible apply forwardedWords_keeps)
    | (with_reducible apply routePacket_keeps)
    | (extract_lets +onlyGivenNames x; have hx : Keeps r x := ?_; clear_value x; rotate_left; subst x; rotate_right)
    | (extract_lets +onlyGivenNames x; (first | (have hw : (x : Well) = x := rfl) | (have hw : (x : Cmd) = x := rfl) | (have hw : (x : _ → State) = x := rfl) | (have hw : (x : _ → _ → State) = x := rfl) | (have hw : (x : _ → _ → _ → State) = x := rfl) | (have hw : (x : _ → _ → _ → _ → State) = x := rfl)); clear hw; subst x)
    | (extract_lets +onlyGivenNames x; clear_value x)
    | split
    | (dsimp -zeta only)
    | (unfold Keeps; dsimp only; refine (?_ : Keeps _ _))

theorem execUraraPacketReceive_keeps {r s : State} {a1 a2 a3 a4} (h : Keeps r s) : KeepsO r (execUraraPacketReceive a1 a2 a3 a4 s) := by
  unfold execUraraPacketReceive
  repeat' first
    | with_reducible assumption
    | (intro _)
    | (with_reducible apply onEvent_keeps)
    | (with_reducible apply sendNak_keeps)
    | (with_reducible apply takeAck_keeps)
    | (with_reducible apply replayFrom_keeps)
    | (with_reducible apply modLink_keeps)
    | (with_reducible apply takePacket_keeps)
    | (extract_lets +onlyGivenNames x; have hx : Keeps r x := ?_; clear_value x; rotate_left; subst x; rotate_right)
    | (extract_lets +onlyGivenNames x; clear_value x)
    | split

theorem execLackReceive_keeps {r s : State} {a1 a2 a3} (h : Keeps r s) : KeepsO r (execLackReceive a1 a2 a3 s) := by
  unfold execLackReceive
  repeat' first
    | with_reducible assumption
    | (intro _)
    | (with_reducible apply onEvent_keeps)
    | (with_reducible apply takeAck_keeps)
    | split

theorem execLackSend_keeps {r s : State} {a1 a2} (h : Keeps r s) : KeepsO r (execLackSend a1 a2 s) := by
  unfold execLackSend
  repeat' first
    | with_reducible assumption
    | (intro _)
    | (with_reducible apply onEvent_keeps)
    | (with_reducible apply emit_keeps)
    | (with_reducible apply modLink_keeps)
    | split

theorem execLnakReceive_keeps {r s : State} {a1 a2 a3} (h : Keeps r s) : KeepsO r (execLnakReceive a1 a2 a3 s) := by
  unfold execLnakReceive
  repeat' first
    | with_reducible assumption
    | (intro _)
    | (with_reducible apply onEvent_keeps)
    | (with_reducible apply replayFrom_keeps)
    | split

theorem execUraraCommandReceive_keeps {r s : State} {a1 a2 a3} (h : Keeps r s) : KeepsO r (execUraraCommandReceive a1 a2 a3 s) := by
  unfold execUraraCommandReceive
  repeat' first
    | with_reducible assumption
    | (intro _)
    | (with_reducible apply onEvent_keeps)
    | (with_reducible apply intake_keeps)
    | (with_reducible apply takeInbox_keeps)
    | split

theorem leadTrigger_keeps {r s : State} {a1} (h : Keeps r s) : Keeps r (leadTrigger a1 s) := by
  unfold leadTrigger
  repeat' first
    | with_reducible assumption
    | (with_reducible apply createProduct_keeps)
    | (with_reducible apply pairEdge_keeps)
    | (extract_lets +onlyGivenNames x; have hx : Keeps r x := ?_; clear_value x; rotate_left; subst x; rotate_right)
    | (extract_lets +onlyGivenNames x; clear_value x)
    | split
    | (unfold Keeps; dsimp only; refine (?_ : Keeps _ _))

theorem remoteTrigger_keeps {r s : State} {a1 a2} (h : Keeps r s) : Keeps r (remoteTrigger a1 a2 s) := by
  unfold remoteTrigger
  repeat' first
    | with_reducible assumption
    | (with_reducible apply raise_keeps)
    | (with_reducible apply rejectUnqueued_keeps)
    | (with_reducible apply acceptEdge_keeps)
    | (extract_lets +onlyGivenNames x; have hx : Keeps r x := ?_; clear_value x; rotate_left; subst x; rotate_right)
    | (extract_lets +onlyGivenNames x; clear_value x)
    | split

theorem execTriggerReceive_keeps {r s : State} {a1 a2 a3} (h : Keeps r s) : KeepsO r (execTriggerReceive a1 a2 a3 s) := by
  unfold execTriggerReceive
  repeat' first
    | with_reducible assumption
    | (intro _)
    | (with_reducible apply onEvent_keeps)
    | (with_reducible apply takeInbox_keeps)
    | (with_reducible apply leadTrigger_keeps)
    | (with_reducible apply remoteTrigger_keeps)
    | (extract_lets +onlyGivenNames x; have hx : Keeps r x := ?_; clear_value x; rotate_left; subst x; rotate_right)
    | (extract_lets +onlyGivenNames x; clear_value x)
    | split
    | with_reducible refine Keeps.foldl ?_ (fun _ _ _ => ?_)

theorem execTimeSend_keeps {r s : State} {a1 a2} (h : Keeps r s) : KeepsO r (execTimeSend a1 a2 s) := by
  unfold execTimeSend
  repeat' first
    | with_reducible assumption
    | (intro _)
    | (with_reducible apply onEvent_keeps)
    | (with_reducible apply uraraSend_keeps)

theorem noteDiff_keeps {r s : State} {a1} (h : Keeps r s) : Keeps r (noteDiff a1 s) := by
  unfold noteDiff
  repeat' first
    | with_reducible assumption
    | (with_reducible apply raise_keeps)
    | (extract_lets +onlyGivenNames x; have hx : Keeps r x := ?_; clear_value x; rotate_left; subst x; rotate_right)
    | (extract_lets +onlyGivenNames x; clear_value x)
    | split
    | (unfold Keeps; dsimp only; refine (?_ : Keeps _ _))

theorem uraraSample_keeps {r s : State} {a1 a2} (h : Keeps r s) : Keeps r (uraraSample a1 a2 s) := by
  unfold uraraSample
  repeat' first
    | with_reducible assumption
    | (with_reducible apply modDom_keeps)
    | (with_reducible apply raise_keeps)
    | (with_reducible apply freeze_keeps)
    | (with_reducible apply sample_keeps)
    | (extract_lets +onlyGivenNames x; have hx : Keeps r x := ?_; clear_value x; rotate_left; subst x; rotate_right)
    | (extract_lets +onlyGivenNames x; clear_value x)
    | split

theorem execTimeReceive_keeps {r s : State} {a1 a2 a3 a4 a5} (h : Keeps r s) : KeepsO r (execTimeReceive a1 a2 a3 a4 a5 s) := by
  unfold execTimeReceive
  repeat' first
    | with_reducible assumption
    | (intro _)
    | (with_reducible apply onEvent_keeps)
    | (with_reducible apply takeInbox_keeps)
    | (with_reducible apply noteDiff_keeps)
    | (with_reducible apply uraraSample_keeps)
    | (extract_lets +onlyGivenNames x; have hx : Keeps r x := ?_; clear_value x; rotate_left; subst x; rotate_right)
    | (extract_lets +onlyGivenNames x; clear_value x)
    | split

theorem execTelemetryReceive_keeps {r s : State} {a1 a2 a3} (h : Keeps r s) : KeepsO r (execTelemetryReceive a1 a2 a3 s) := by
  unfold execTelemetryReceive
  repeat' first
    | with_reducible assumption
    | (intro _)
    | (with_reducible apply onEvent_keeps)
    | (with_reducible apply takeInbox_keeps)
    | (with_reducible apply queueUnits_keeps)
    | (extract_lets +onlyGivenNames x; have hx : Keeps r x := ?_; clear_value x; rotate_left; subst x; rotate_right)
    | split

/-! ### Machine/Twins -/

theorem dropPermits_keeps {r s : State} (h : Keeps r s) : Keeps r (dropPermits s) := by
  unfold dropPermits
  repeat' first
    | with_reducible assumption
    | (with_reducible apply settlePermits_keeps)
    | (with_reducible apply withdrawPermit_keeps)
    | with_reducible refine Keeps.foldl ?_ (fun _ _ _ => ?_)

theorem raisePermits_keeps {r s : State} (h : Keeps r s) : Keeps r (raisePermits s) := by
  unfold raisePermits
  repeat' first
    | with_reducible assumption
    | (with_reducible apply refreshPermit_keeps)
    | with_reducible refine Keeps.foldl ?_ (fun _ _ _ => ?_)

theorem enterRole_keeps {r s : State} {a1} (h : Keeps r s) : Keeps r (enterRole a1 s) := by
  unfold enterRole
  repeat' first
    | with_reducible assumption
    | (with_reducible apply notify_keeps)
    | (with_reducible apply dropPermits_keeps)
    | (with_reducible apply raisePermits_keeps)
    | (extract_lets +onlyGivenNames x; have hx : Keeps r x := ?_; clear_value x; rotate_left; subst x; rotate_right)
    | (extract_lets +onlyGivenNames x; clear_value x)
    | split
    | (unfold Keeps; dsimp only; refine (?_ : Keeps _ _))

theorem voidUnreplicated_keeps {r s : State} (h : Keeps r s) : Keeps r (voidUnreplicated s) := by
  unfold voidUnreplicated
  repeat' first
    | with_reducible assumption
    | (with_reducible apply voidProduct_keeps)
    | split
    | with_reducible refine Keeps.foldl ?_ (fun _ _ _ => ?_)

theorem isolate_keeps {r s : State} (h : Keeps r s) : Keeps r (isolate s) := by
  unfold isolate
  repeat' first
    | with_reducible assumption
    | (with_reducible apply enterRole_keeps)
    | (with_reducible apply abandonAll_keeps)
    | (extract_lets +onlyGivenNames x; clear_value x)
    | (unfold Keeps; dsimp only; refine (?_ : Keeps _ _))

theorem becomeYielded_keeps {r s : State} (h : Keeps r s) : Keeps r (becomeYielded s) := by
  unfold becomeYielded
  repeat' first
    | with_reducible assumption
    | (with_reducible apply notify_keeps)
    | (with_reducible apply enterRole_keeps)
    | (extract_lets +onlyGivenNames x; clear_value x)
    | (unfold Keeps; dsimp only; refine (?_ : Keeps _ _))

theorem becomeCopying_keeps {r s : State} (h : Keeps r s) : Keeps r (becomeCopying s) := by
  unfold becomeCopying
  repeat' first
    | with_reducible assumption
    | (with_reducible apply enterRole_keeps)
    | (extract_lets +onlyGivenNames x; clear_value x)
    | (unfold Keeps; dsimp only; refine (?_ : Keeps _ _))

theorem openWindow_keeps {r s : State} (h : Keeps r s) : Keeps r (openWindow s) := by
  unfold openWindow
  repeat' first
    | with_reducible assumption
    | (with_reducible apply raise_keeps)
    | (extract_lets +onlyGivenNames x; clear_value x)
    | (unfold Keeps; dsimp only; refine (?_ : Keeps _ _))

theorem sendLease_keeps {r s : State} {a1} (h : Keeps r s) : Keeps r (sendLease a1 s) := by
  unfold sendLease
  repeat' first
    | with_reducible assumption
    | (with_reducible apply uraraSend_keeps)

theorem execLeaseRenewSend_keeps {r s : State} {a1} (h : Keeps r s) : KeepsO r (execLeaseRenewSend a1 s) := by
  unfold execLeaseRenewSend
  repeat' first
    | with_reducible assumption
    | (intro _)
    | (with_reducible apply onEvent_keeps)
    | (with_reducible apply sendLease_keeps)
    | (extract_lets +onlyGivenNames x; clear_value x)
    | split
    | (unfold Keeps; dsimp only; refine (?_ : Keeps _ _))

theorem execLeaseRenewReceive_keeps {r s : State} {a1 a2} (h : Keeps r s) : KeepsO r (execLeaseRenewReceive a1 a2 s) := by
  unfold execLeaseRenewReceive
  repeat' first
    | with_reducible assumption
    | (intro _)
    | (with_reducible apply onEvent_keeps)
    | (with_reducible apply takeInbox_keeps)
    | (with_reducible apply sendLease_keeps)
    | (with_reducible apply becomeCopying_keeps)
    | (extract_lets +onlyGivenNames x; have hx : Keeps r x := ?_; clear_value x; rotate_left; subst x; rotate_right)
    | (extract_lets +onlyGivenNames x; clear_value x)
    | split
    | (unfold Keeps; dsimp only; refine (?_ : Keeps _ _))

theorem beginCopy_keeps {r s : State} (h : Keeps r s) : Keeps r (beginCopy s) := by
  unfold beginCopy
  repeat' first
    | with_reducible assumption
    | (with_reducible apply finish_keeps)
    | (with_reducible apply uraraSend_keeps)
    | (extract_lets +onlyGivenNames x; clear_value x)
    | split
    | (unfold Keeps; dsimp only; refine (?_ : Keeps _ _))

theorem heedPeer_keeps {r s : State} {a1} (h : Keeps r s) : Keeps r (heedPeer a1 s) := by
  unfold heedPeer
  repeat' first
    | with_reducible assumption
    | (with_reducible apply beginCopy_keeps)
    | split
    | (unfold Keeps; dsimp only; refine (?_ : Keeps _ _))

theorem handedLease_keeps {r s : State} (h : Keeps r s) : Keeps r (handedLease s) := by
  unfold handedLease
  repeat' first
    | with_reducible assumption
    | (with_reducible apply abandonAll_keeps)
    | (with_reducible apply becomeYielded_keeps)
    | (with_reducible apply finish_keeps)
    | (with_reducible apply enterRole_keeps)
    | (extract_lets +onlyGivenNames x; have hx : Keeps r x := ?_; clear_value x; rotate_left; subst x; rotate_right)
    | (extract_lets +onlyGivenNames x; clear_value x)
    | split
    | (unfold Keeps; dsimp only; refine (?_ : Keeps _ _))

theorem execLeaseAckReceive_keeps {r s : State} {a1 a2 a3} (h : Keeps r s) : KeepsO r (execLeaseAckReceive a1 a2 a3 s) := by
  unfold execLeaseAckReceive
  repeat' first
    | with_reducible assumption
    | (intro _)
    | (with_reducible apply onEvent_keeps)
    | (with_reducible apply takeInbox_keeps)
    | (with_reducible apply handedLease_keeps)
    | (with_reducible apply heedPeer_keeps)
    | (with_reducible apply enterRole_keeps)
    | (extract_lets +onlyGivenNames x; have hx : Keeps r x := ?_; clear_value x; rotate_left; subst x; rotate_right)
    | (extract_lets +onlyGivenNames x; clear_value x)
    | split
    | (unfold Keeps; dsimp only; refine (?_ : Keeps _ _))

theorem execLeaseDenyReceive_keeps {r s : State} {a1} (h : Keeps r s) : KeepsO r (execLeaseDenyReceive a1 s) := by
  unfold execLeaseDenyReceive
  repeat' first
    | with_reducible assumption
    | (intro _)
    | (with_reducible apply onEvent_keeps)
    | (with_reducible apply takeInbox_keeps)
    | (with_reducible apply isolate_keeps)
    | (with_reducible apply voidUnreplicated_keeps)
    | (extract_lets +onlyGivenNames x; have hx : Keeps r x := ?_; clear_value x; rotate_left; subst x; rotate_right)
    | split

theorem execLeadLeaseExpiry_keeps {r s : State} {a1} (h : Keeps r s) : KeepsO r (execLeadLeaseExpiry a1 s) := by
  unfold execLeadLeaseExpiry
  repeat' first
    | with_reducible assumption
    | (intro _)
    | (with_reducible apply onEvent_keeps)
    | (with_reducible apply openWindow_keeps)
    | (with_reducible apply voidUnreplicated_keeps)
    | (extract_lets +onlyGivenNames x; clear_value x)
    | split
    | (unfold Keeps; dsimp only; refine (?_ : Keeps _ _))

theorem execLeadExpiryDecision_keeps {r s : State} {a1} (h : Keeps r s) : KeepsO r (execLeadExpiryDecision a1 s) := by
  unfold execLeadExpiryDecision
  repeat' first
    | with_reducible assumption
    | (intro _)
    | (with_reducible apply onEvent_keeps)
    | (with_reducible apply enterRole_keeps)
    | (with_reducible apply isolate_keeps)
    | (extract_lets +onlyGivenNames x; clear_value x)
    | split
    | (unfold Keeps; dsimp only; refine (?_ : Keeps _ _))

theorem adoptEdge_keeps {r s : State} {a1} (h : Keeps r s) : Keeps r (adoptEdge a1 s) := by
  unfold adoptEdge
  repeat' first
    | with_reducible assumption
    | (with_reducible apply createProduct_keeps)
    | (with_reducible apply voidFault_keeps)
    | (extract_lets +onlyGivenNames x; clear_value x)
    | split
    | (with_reducible refine Keeps.ofPair (by assumption) ?_)

theorem adoptEdges_keeps {r s : State} (h : Keeps r s) : Keeps r (adoptEdges s) := by
  unfold adoptEdges
  repeat' first
    | with_reducible assumption
    | (with_reducible apply adoptEdge_keeps)
    | (extract_lets +onlyGivenNames x; clear_value x)
    | with_reducible refine Keeps.foldl ?_ (fun _ _ _ => ?_)
    | (unfold Keeps; dsimp only; refine (?_ : Keeps _ _))

theorem voidUnheld_keeps {r s : State} {a1} (h : Keeps r s) : Keeps r (voidUnheld a1 s) := by
  unfold voidUnheld
  repeat' first
    | with_reducible assumption
    | (with_reducible apply voidProduct_keeps)
    | (extract_lets +onlyGivenNames x; clear_value x)
    | split
    | with_reducible refine Keeps.foldl ?_ (fun _ _ _ => ?_)

theorem takeOver_keeps {r s : State} (h : Keeps r s) : Keeps r (takeOver s) := by
  unfold takeOver
  repeat' first
    | with_reducible assumption
    | (with_reducible apply enterRole_keeps)
    | (with_reducible apply adoptEdges_keeps)
    | (with_reducible apply voidUnheld_keeps)
    | (with_reducible apply openWindow_keeps)
    | (extract_lets +onlyGivenNames x; clear_value x)
    | (unfold Keeps; dsimp only; refine (?_ : Keeps _ _))

theorem execStandbyTakeover_keeps {r s : State} {a1} (h : Keeps r s) : KeepsO r (execStandbyTakeover a1 s) := by
  unfold execStandbyTakeover
  repeat' first
    | with_reducible assumption
    | (intro _)
    | (with_reducible apply onEvent_keeps)
    | (with_reducible apply takeOver_keeps)
    | (extract_lets +onlyGivenNames x; clear_value x)
    | split

theorem execLeaseHandoverReceive_keeps {r s : State} {a1 a2 a3 a4} (h : Keeps r s) : KeepsO r (execLeaseHandoverReceive a1 a2 a3 a4 s) := by
  unfold execLeaseHandoverReceive
  repeat' first
    | with_reducible assumption
    | (intro _)
    | (with_reducible apply onEvent_keeps)
    | (with_reducible apply takeInbox_keeps)
    | (with_reducible apply sendLease_keeps)
    | (with_reducible apply enterRole_keeps)
    | (extract_lets +onlyGivenNames x; have hx : Keeps r x := ?_; clear_value x; rotate_left; subst x; rotate_right)
    | (extract_lets +onlyGivenNames x; clear_value x)
    | split
    | (unfold Keeps; dsimp only; refine (?_ : Keeps _ _))

theorem execBothLeadWindowEnd_keeps {r s : State} {a1} (h : Keeps r s) : KeepsO r (execBothLeadWindowEnd a1 s) := by
  unfold execBothLeadWindowEnd
  repeat' first
    | with_reducible assumption
    | (intro _)
    | (with_reducible apply onEvent_keeps)
    | (with_reducible apply abandonAll_keeps)
    | (extract_lets +onlyGivenNames x; clear_value x)
    | split
    | (unfold Keeps; dsimp only; refine (?_ : Keeps _ _))

theorem execWitnessToggle_keeps {r s : State} {a1} (h : Keeps r s) : KeepsO r (execWitnessToggle a1 s) := by
  unfold execWitnessToggle
  repeat' first
    | with_reducible assumption
    | (intro _)
    | (with_reducible apply onEvent_keeps)
    | (extract_lets +onlyGivenNames x; clear_value x)
    | split
    | (unfold Keeps; dsimp only; refine (?_ : Keeps _ _))

theorem execWitnessEdge_keeps {r s : State} {a1} (h : Keeps r s) : KeepsO r (execWitnessEdge a1 s) := by
  unfold execWitnessEdge
  repeat' first
    | with_reducible assumption
    | (intro _)
    | (with_reducible apply onEvent_keeps)
    | (extract_lets +onlyGivenNames x; clear_value x)
    | split
    | (unfold Keeps; dsimp only; refine (?_ : Keeps _ _))

theorem execWitnessSilent_keeps {r s : State} {a1} (h : Keeps r s) : KeepsO r (execWitnessSilent a1 s) := by
  unfold execWitnessSilent
  repeat' first
    | with_reducible assumption
    | (intro _)
    | (with_reducible apply onEvent_keeps)
    | (extract_lets +onlyGivenNames x; clear_value x)
    | split
    | (unfold Keeps; dsimp only; refine (?_ : Keeps _ _))

theorem execDigestReceive_keeps {r s : State} {a1 a2 a3 a4} (h : Keeps r s) : KeepsO r (execDigestReceive a1 a2 a3 a4 s) := by
  unfold execDigestReceive
  repeat' first
    | with_reducible assumption
    | (intro _)
    | (with_reducible apply onEvent_keeps)
    | (with_reducible apply takeInbox_keeps)
    | (with_reducible apply raise_keeps)
    | (with_reducible apply compareDigests_keeps)
    | (with_reducible apply modDigest_keeps)
    | (extract_lets +onlyGivenNames x; have hx : Keeps r x := ?_; clear_value x; rotate_left; subst x; rotate_right)
    | (extract_lets +onlyGivenNames x; clear_value x)
    | split
    | (unfold Keeps; dsimp only; refine (?_ : Keeps _ _))

theorem execCheckReceive_keeps {r s : State} {a1 a2 a3} (h : Keeps r s) : KeepsO r (execCheckReceive a1 a2 a3 s) := by
  unfold execCheckReceive
  repeat' first
    | with_reducible assumption
    | (intro _)
    | (with_reducible apply onEvent_keeps)
    | (with_reducible apply takeInbox_keeps)
    | (with_reducible apply resolveMismatch_keeps)
    | (with_reducible apply modDigest_keeps)
    | (extract_lets +onlyGivenNames x; have hx : Keeps r x := ?_; clear_value x; rotate_left; subst x; rotate_right)
    | split

theorem execUnitYield_keeps {r s : State} {a1} (h : Keeps r s) : KeepsO r (execUnitYield a1 s) := by
  unfold execUnitYield
  repeat' first
    | with_reducible assumption
    | (intro _)
    | (with_reducible apply onEvent_keeps)
    | (with_reducible apply sendHandover_keeps)
    | (with_reducible apply becomeYielded_keeps)
    | (with_reducible apply abandonAll_keeps)
    | (extract_lets +onlyGivenNames x; clear_value x)
    | split
    | (unfold Keeps; dsimp only; refine (?_ : Keeps _ _))

theorem acknowledge_keeps {r s : State} {a1} (h : Keeps r s) : Keeps r (acknowledge a1 s) := by
  unfold acknowledge
  repeat' first
    | with_reducible assumption
    | (with_reducible apply uraraSend_keeps)
    | split

theorem storePart_keeps {r s : State} {a1 a2 a3} (h : Keeps r s) : Keeps r (storePart a1 a2 a3 s) := by
  unfold storePart
  repeat' first
    | with_reducible assumption
    | (with_reducible apply exportPart_keeps)
    | (extract_lets +onlyGivenNames x; clear_value x)
    | split
    | (unfold Keeps; dsimp only; refine (?_ : Keeps _ _))

theorem takeIssue_keeps {r s : State} {a1 a2} (h : Keeps r s) : Keeps r (takeIssue a1 a2 s) := by
  unfold takeIssue
  repeat' first
    | with_reducible assumption
    | (with_reducible apply modPool_keeps)
    | (with_reducible apply modProduct_keeps)
    | (with_reducible apply judgeHigh_keeps)
    | (with_reducible apply storePart_keeps)
    | (with_reducible apply intoManifest_keeps)
    | (extract_lets +onlyGivenNames x; clear_value x)
    | (unfold Keeps; dsimp only; refine (?_ : Keeps _ _))

theorem takeLatePart_keeps {r s : State} {a1 a2 a3 a4} (h : Keeps r s) : Keeps r (takeLatePart a1 a2 a3 a4 s) := by
  unfold takeLatePart
  repeat' first
    | with_reducible assumption
    | (with_reducible apply storePart_keeps)
    | (with_reducible apply modRec_keeps)
    | (with_reducible apply countManifests_keeps)
    | (with_reducible apply setFlag_keeps)
    | (with_reducible apply settleProduct_keeps)
    | (extract_lets +onlyGivenNames x; have hx : Keeps r x := ?_; clear_value x; rotate_left; subst x; rotate_right)
    | (extract_lets +onlyGivenNames x; clear_value x)
    | split

theorem takeForeign_keeps {r s : State} {a1 a2 a3} (h : Keeps r s) : Keeps r (takeForeign a1 a2 a3 s) := by
  unfold takeForeign
  repeat' first
    | with_reducible assumption
    | (with_reducible apply acknowledge_keeps)
    | (with_reducible apply storePart_keeps)
    | (with_reducible apply voidFault_keeps)
    | (with_reducible apply voidRec_keeps)
    | (with_reducible apply raise_keeps)
    | (extract_lets +onlyGivenNames x; have hx : Keeps r x := ?_; clear_value x; rotate_left; subst x; rotate_right)
    | (extract_lets +onlyGivenNames x; clear_value x)
    | split
    | (unfold Keeps; dsimp only; refine (?_ : Keeps _ _))

theorem takePart_keeps {r s : State} {a1 a2 a3 a4} (h : Keeps r s) : Keeps r (takePart a1 a2 a3 a4 s) := by
  unfold takePart
  repeat' first
    | with_reducible assumption
    | (with_reducible apply takeForeign_keeps)
    | (with_reducible apply takeIssue_keeps)
    | (with_reducible apply takeLatePart_keeps)
    | split

theorem takeReplAck_keeps {r s : State} {a1} (h : Keeps r s) : Keeps r (takeReplAck a1 s) := by
  unfold takeReplAck
  repeat' first
    | with_reducible assumption
    | (with_reducible apply modRec_keeps)
    | (extract_lets +onlyGivenNames x; have hx : Keeps r x := ?_; clear_value x; rotate_left; subst x; rotate_right)
    | (extract_lets +onlyGivenNames x; clear_value x)
    | split
    | (unfold Keeps; dsimp only; refine (?_ : Keeps _ _))

theorem takeGrant_keeps {r s : State} {a1 a2} (h : Keeps r s) : Keeps r (takeGrant a1 a2 s) := by
  unfold takeGrant
  repeat' first
    | with_reducible assumption
    | (with_reducible apply acceptGrant_keeps)
    | (extract_lets +onlyGivenNames x; clear_value x)
    | split

theorem takeItem_keeps {r s : State} {a1 a2} (h : Keeps r s) : Keeps r (takeItem a1 a2 s) := by
  unfold takeItem
  repeat' first
    | with_reducible assumption
    | (with_reducible apply takePart_keeps)
    | (with_reducible apply takeReplAck_keeps)
    | (with_reducible apply acknowledge_keeps)
    | (with_reducible apply exportEntry_keeps)
    | (with_reducible apply modPool_keeps)
    | (with_reducible apply takeGrant_keeps)
    | (with_reducible apply acceptPlan_keeps)
    | split

theorem execJreplReceive_keeps {r s : State} {a1 a2 a3} (h : Keeps r s) : KeepsO r (execJreplReceive a1 a2 a3 s) := by
  unfold execJreplReceive
  repeat' first
    | with_reducible assumption
    | (intro _)
    | (with_reducible apply onEvent_keeps)
    | (with_reducible apply takeInbox_keeps)
    | (with_reducible apply takeItem_keeps)
    | (extract_lets +onlyGivenNames x; have hx : Keeps r x := ?_; clear_value x; rotate_left; subst x; rotate_right)
    | split

theorem takeRetired_keeps {r s : State} {a1 a2 a3} (h : Keeps r s) : Keeps r (takeRetired a1 a2 a3 s) := by
  unfold takeRetired
  repeat' first
    | with_reducible assumption
    | (extract_lets +onlyGivenNames x; clear_value x)
    | split
    | (unfold Keeps; dsimp only; refine (?_ : Keeps _ _))

theorem takeChange_keeps {r s : State} {a1 a2} (h : Keeps r s) : Keeps r (takeChange a1 a2 s) := by
  unfold takeChange
  repeat' first
    | with_reducible assumption
    | (with_reducible apply takeRetired_keeps)
    | (with_reducible apply startStaging_keeps)
    | (extract_lets +onlyGivenNames x; have hx : Keeps r x := ?_; clear_value x; rotate_left; subst x; rotate_right)
    | (extract_lets +onlyGivenNames x; clear_value x)
    | split
    | (unfold Keeps; dsimp only; refine (?_ : Keeps _ _))

theorem execEpochProposeReceive_keeps {r s : State} {a1 a2 a3 a4} (h : Keeps r s) : KeepsO r (execEpochProposeReceive a1 a2 a3 a4 s) := by
  unfold execEpochProposeReceive
  repeat' first
    | with_reducible assumption
    | (intro _)
    | (with_reducible apply onEvent_keeps)
    | (with_reducible apply takeInbox_keeps)
    | (with_reducible apply reportEpoch_keeps)
    | (with_reducible apply takeChange_keeps)
    | (with_reducible apply proposeIfDue_keeps)
    | (extract_lets +onlyGivenNames x; have hx : Keeps r x := ?_; clear_value x; rotate_left; subst x; rotate_right)
    | (extract_lets +onlyGivenNames x; clear_value x)
    | split
    | with_reducible refine Keeps.foldl ?_ (fun _ _ _ => ?_)
    | (unfold Keeps; dsimp only; refine (?_ : Keeps _ _))

theorem execEpochCommitReceive_keeps {r s : State} {a1 a2 a3} (h : Keeps r s) : KeepsO r (execEpochCommitReceive a1 a2 a3 s) := by
  unfold execEpochCommitReceive
  repeat' first
    | with_reducible assumption
    | (intro _)
    | (with_reducible apply onEvent_keeps)
    | (with_reducible apply takeInbox_keeps)
    | (with_reducible apply uraraSend_keeps)
    | (extract_lets +onlyGivenNames x; have hx : Keeps r x := ?_; clear_value x; rotate_left; subst x; rotate_right)
    | (extract_lets +onlyGivenNames x; clear_value x)
    | split
    | (unfold Keeps; dsimp only; refine (?_ : Keeps _ _))

theorem shiftLines_keeps {r s : State} {a1 a2} (h : Keeps r s) : Keeps r (shiftLines a1 a2 s) := by
  unfold shiftLines
  repeat' first
    | with_reducible assumption
    | (extract_lets +onlyGivenNames x; clear_value x)
    | (unfold Keeps; dsimp only; refine (?_ : Keeps _ _))

theorem takeMark_keeps {r s : State} {a1 a2} (h : Keeps r s) : Keeps r (takeMark a1 a2 s) := by
  unfold takeMark
  repeat' first
    | with_reducible assumption
    | (with_reducible apply shiftLines_keeps)
    | (with_reducible apply becomeCopying_keeps)
    | (with_reducible apply raise_keeps)
    | (extract_lets +onlyGivenNames x; have hx : Keeps r x := ?_; clear_value x; rotate_left; subst x; rotate_right)
    | (extract_lets +onlyGivenNames x; clear_value x)
    | split
    | (unfold Keeps; dsimp only; refine (?_ : Keeps _ _))

theorem execLinemarkReceive_keeps {r s : State} {a1 a2 a3} (h : Keeps r s) : KeepsO r (execLinemarkReceive a1 a2 a3 s) := by
  unfold execLinemarkReceive
  repeat' first
    | with_reducible assumption
    | (intro _)
    | (with_reducible apply onEvent_keeps)
    | (with_reducible apply takeInbox_keeps)
    | (with_reducible apply takeMark_keeps)
    | (extract_lets +onlyGivenNames x; have hx : Keeps r x := ?_; clear_value x; rotate_left; subst x; rotate_right)
    | split

theorem execVerdictReceive_keeps {r s : State} {a1 a2} (h : Keeps r s) : KeepsO r (execVerdictReceive a1 a2 s) := by
  unfold execVerdictReceive
  repeat' first
    | with_reducible assumption
    | (intro _)
    | (with_reducible apply onEvent_keeps)
    | (with_reducible apply takeInbox_keeps)
    | (with_reducible apply applyFlags_keeps)
    | (with_reducible apply applyOutcome_keeps)
    | (extract_lets +onlyGivenNames x; have hx : Keeps r x := ?_; clear_value x; rotate_left; subst x; rotate_right)
    | split

theorem sendRecords_keeps {r s : State} (h : Keeps r s) : Keeps r (sendRecords s) := by
  unfold sendRecords
  repeat' first
    | with_reducible assumption
    | (with_reducible apply uraraSend_keeps)
    | (extract_lets +onlyGivenNames x; clear_value x)
    | with_reducible refine Keeps.foldl ?_ (fun _ _ _ => ?_)
    | (unfold Keeps; dsimp only; refine (?_ : Keeps _ _))

theorem execCopyBeginReceive_keeps {r s : State} {a1 a2 a3 a4 a5 a6 a7} (h : Keeps r s) : KeepsO r (execCopyBeginReceive a1 a2 a3 a4 a5 a6 a7 s) := by
  unfold execCopyBeginReceive
  repeat' first
    | with_reducible assumption
    | (intro _)
    | (with_reducible apply onEvent_keeps)
    | (with_reducible apply takeInbox_keeps)
    | (with_reducible apply raise_keeps)
    | (with_reducible apply finish_keeps)
    | (with_reducible apply sendRecords_keeps)
    | (with_reducible apply takeMark_keeps)
    | (extract_lets +onlyGivenNames x; have hx : Keeps r x := ?_; clear_value x; rotate_left; subst x; rotate_right)
    | (extract_lets +onlyGivenNames x; clear_value x)
    | split
    | (unfold Keeps; dsimp only; refine (?_ : Keeps _ _))

theorem applySnapshot_keeps {r s : State} {a1} (h : Keeps r s) : Keeps r (applySnapshot a1 s) := by
  unfold applySnapshot
  repeat' first
    | with_reducible assumption
    | (with_reducible apply storeItem_keeps)
    | (with_reducible apply takeItem_keeps)
    | (with_reducible apply modStall_keeps)
    | (with_reducible apply sendConfig_keeps)
    | (extract_lets +onlyGivenNames x; have hx : Keeps r x := ?_; clear_value x; rotate_left; subst x; rotate_right)
    | (extract_lets +onlyGivenNames x; clear_value x)
    | split
    | with_reducible refine Keeps.foldl ?_ (fun _ _ _ => ?_)
    | (unfold Keeps; dsimp only; refine (?_ : Keeps _ _))

theorem becomeSynced_keeps {r s : State} (h : Keeps r s) : Keeps r (becomeSynced s) := by
  unfold becomeSynced
  repeat' first
    | with_reducible assumption
    | (with_reducible apply enterRole_keeps)
    | (with_reducible apply uraraSend_keeps)
    | (with_reducible apply finish_keeps)
    | (extract_lets +onlyGivenNames x; have hx : Keeps r x := ?_; clear_value x; rotate_left; subst x; rotate_right)
    | (extract_lets +onlyGivenNames x; clear_value x)
    | split
    | (unfold Keeps; dsimp only; refine (?_ : Keeps _ _))

theorem execCopyCommitReceive_keeps {r s : State} {a1 a2 a3 a4} (h : Keeps r s) : KeepsO r (execCopyCommitReceive a1 a2 a3 a4 s) := by
  unfold execCopyCommitReceive
  repeat' first
    | with_reducible assumption
    | (intro _)
    | (with_reducible apply onEvent_keeps)
    | (with_reducible apply takeInbox_keeps)
    | (with_reducible apply finish_keeps)
    | (with_reducible apply becomeSynced_keeps)
    | (with_reducible apply applySnapshot_keeps)
    | split
    | (unfold Keeps; dsimp only; refine (?_ : Keeps _ _))

theorem execCopyDoneReceive_keeps {r s : State} {a1 a2} (h : Keeps r s) : KeepsO r (execCopyDoneReceive a1 a2 s) := by
  unfold execCopyDoneReceive
  repeat' first
    | with_reducible assumption
    | (intro _)
    | (with_reducible apply onEvent_keeps)
    | (with_reducible apply takeInbox_keeps)
    | (with_reducible apply proposeIfDue_keeps)
    | (with_reducible apply finish_keeps)
    | split
    | (unfold Keeps; dsimp only; refine (?_ : Keeps _ _))

theorem execTwinCopyRetry_keeps {r s : State} {a1} (h : Keeps r s) : KeepsO r (execTwinCopyRetry a1 s) := by
  unfold execTwinCopyRetry
  repeat' first
    | with_reducible assumption
    | (intro _)
    | (with_reducible apply onEvent_keeps)
    | (with_reducible apply uraraSend_keeps)
    | (extract_lets +onlyGivenNames x; clear_value x)
    | split
    | (unfold Keeps; dsimp only; refine (?_ : Keeps _ _))

theorem bindTwin_keeps {r s : State} {a1 a2 a3} (h : Keeps r s) : Keeps r (bindTwin a1 a2 a3 s) := by
  unfold bindTwin
  repeat' first
    | with_reducible assumption
    | (with_reducible apply enterRole_keeps)
    | (with_reducible apply becomeCopying_keeps)
    | (extract_lets +onlyGivenNames x; have hx : Keeps r x := ?_; clear_value x; rotate_left; subst x; rotate_right)
    | (extract_lets +onlyGivenNames x; clear_value x)
    | split
    | (unfold Keeps; dsimp only; refine (?_ : Keeps _ _))

theorem execTwinBind_keeps {r s : State} {a1 a2 a3 a4} (h : Keeps r s) : KeepsO r (execTwinBind a1 a2 a3 a4 s) := by
  unfold execTwinBind
  repeat' first
    | with_reducible assumption
    | (intro _)
    | (with_reducible apply onStart_keeps)
    | (with_reducible apply refuse_keeps)
    | (with_reducible apply bindTwin_keeps)
    | (extract_lets +onlyGivenNames x; clear_value x)
    | split

theorem execTwinYield_keeps {r s : State} {a1 a2} (h : Keeps r s) : KeepsO r (execTwinYield a1 a2 s) := by
  unfold execTwinYield
  repeat' first
    | with_reducible assumption
    | (intro _)
    | (with_reducible apply onStart_keeps)
    | (with_reducible apply dueYield_keeps)
    | (with_reducible apply refuse_keeps)
    | (extract_lets +onlyGivenNames x; clear_value x)
    | split
    | (unfold Keeps; dsimp only; refine (?_ : Keeps _ _))

theorem execTwinStatus_keeps {r s : State} {a1 a2} (h : Keeps r s) : KeepsO r (execTwinStatus a1 a2 s) := by
  unfold execTwinStatus
  repeat' first
    | with_reducible assumption
    | (intro _)
    | (with_reducible apply onStart_keeps)
    | (with_reducible apply answer_keeps)

/-! ### Machine/Vision -/

theorem writeNextSet_keeps {r s : State} (h : Keeps r s) : Keeps r (writeNextSet s) := by
  unfold writeNextSet
  repeat' first
    | with_reducible assumption
    | (with_reducible apply emit_keeps)
    | split

theorem dropSets_keeps {r s : State} {a1} (h : Keeps r s) : Keeps r (dropSets a1 s) := by
  unfold dropSets
  repeat' first
    | with_reducible assumption
    | (with_reducible apply finish_keeps)
    | with_reducible refine Keeps.foldl ?_ (fun _ _ _ => ?_)

theorem configSensor_keeps {r s : State} {a1 a2} (h : Keeps r s) : Keeps r (configSensor a1 a2 s) := by
  unfold configSensor
  repeat' first
    | with_reducible assumption
    | (with_reducible apply modSensor_keeps)
    | (with_reducible apply dropSets_keeps)
    | (with_reducible apply writeNextSet_keeps)
    | (extract_lets +onlyGivenNames x; have hx : Keeps r x := ?_; clear_value x; rotate_left; subst x; rotate_right)
    | (extract_lets +onlyGivenNames x; clear_value x)
    | split

theorem execSensorConfig_keeps {r s : State} {a1 a2} (h : Keeps r s) : KeepsO r (execSensorConfig a1 a2 s) := by
  unfold execSensorConfig
  repeat' first
    | with_reducible assumption
    | (intro _)
    | (with_reducible apply onStart_keeps)
    | (with_reducible apply refuse_keeps)
    | (with_reducible apply withObject_keeps)
    | (with_reducible apply done_keeps)
    | (with_reducible apply configSensor_keeps)
    | (extract_lets +onlyGivenNames x; clear_value x)
    | split

theorem execSettingSet_keeps {r s : State} {a1 a2} (h : Keeps r s) : KeepsO r (execSettingSet a1 a2 s) := by
  unfold execSettingSet
  repeat' first
    | with_reducible assumption
    | (intro _)
    | (with_reducible apply onStart_keeps)
    | (with_reducible apply refuse_keeps)
    | (with_reducible apply modSensor_keeps)
    | (with_reducible apply writeNextSet_keeps)
    | (extract_lets +onlyGivenNames x; have hx : Keeps r x := ?_; clear_value x; rotate_left; subst x; rotate_right)
    | (extract_lets +onlyGivenNames x; clear_value x)
    | split

theorem execSettingWriteAck_keeps {r s : State} {a1 a2 a3} (h : Keeps r s) : KeepsO r (execSettingWriteAck a1 a2 a3 s) := by
  unfold execSettingWriteAck
  repeat' first
    | with_reducible assumption
    | (intro _)
    | (with_reducible apply onEvent_keeps)
    | (with_reducible apply modSensor_keeps)
    | (with_reducible apply notify_keeps)
    | (with_reducible apply writeNextSet_keeps)
    | (with_reducible apply finish_keeps)
    | (with_reducible apply raise_keeps)
    | (extract_lets +onlyGivenNames x; have hx : Keeps r x := ?_; clear_value x; rotate_left; subst x; rotate_right)
    | (extract_lets +onlyGivenNames x; clear_value x)
    | split
    | with_reducible refine Keeps.foldl ?_ (fun _ _ _ => ?_)

theorem execVerifyConfig_keeps {r s : State} {a1 a2} (h : Keeps r s) : KeepsO r (execVerifyConfig a1 a2 s) := by
  unfold execVerifyConfig
  repeat' first
    | with_reducible assumption
    | (intro _)
    | (with_reducible apply onStart_keeps)
    | (with_reducible apply done_keeps)
    | (with_reducible apply refuse_keeps)
    | (extract_lets +onlyGivenNames x; clear_value x)
    | split
    | (unfold Keeps; dsimp only; refine (?_ : Keeps _ _))

theorem execImageCapture_keeps {r s : State} {a1 a2} (h : Keeps r s) : KeepsO r (execImageCapture a1 a2 s) := by
  unfold execImageCapture
  repeat' first
    | with_reducible assumption
    | (intro _)
    | (with_reducible apply onStart_keeps)
    | (with_reducible apply refuse_keeps)
    | (extract_lets +onlyGivenNames x; clear_value x)
    | split
    | (unfold Keeps; dsimp only; refine (?_ : Keeps _ _))

theorem execCameraTriggerPulseEnd_keeps {r s : State} {a1 a2} (h : Keeps r s) : KeepsO r (execCameraTriggerPulseEnd a1 a2 s) := by
  unfold execCameraTriggerPulseEnd
  repeat' first
    | with_reducible assumption
    | (intro _)
    | (with_reducible apply onEvent_keeps)
    | (extract_lets +onlyGivenNames x; clear_value x)
    | split
    | (unfold Keeps; dsimp only; refine (?_ : Keeps _ _))

theorem triggerPulses_keeps {r s : State} (h : Keeps r s) : Keeps r (triggerPulses s) := by
  unfold triggerPulses
  repeat' first
    | with_reducible assumption
    | (extract_lets +onlyGivenNames x; clear_value x)
    | split
    | with_reducible refine Keeps.foldl ?_ (fun _ _ _ => ?_)
    | (unfold Keeps; dsimp only; refine (?_ : Keeps _ _))

theorem discardPacket_keeps {r s : State} (h : Keeps r s) : Keeps r (discardPacket s) := by
  unfold discardPacket
  repeat' first
    | with_reducible assumption
    | (extract_lets +onlyGivenNames x; clear_value x)
    | (unfold Keeps; dsimp only; refine (?_ : Keeps _ _))

theorem endVisFrame_keeps {r s : State} {a1} (h : Keeps r s) : Keeps r (endVisFrame a1 s) := by
  unfold endVisFrame
  repeat' first
    | with_reducible assumption
    | (with_reducible apply raise_keeps)
    | (with_reducible apply modSensor_keeps)
    | (extract_lets +onlyGivenNames x; have hx : Keeps r x := ?_; clear_value x; rotate_left; subst x; rotate_right)
    | (extract_lets +onlyGivenNames x; clear_value x)
    | split
    | (unfold Keeps; dsimp only; refine (?_ : Keeps _ _))

theorem execCsiFrameStart_keeps {r s : State} {a1 a2 a3} (h : Keeps r s) : KeepsO r (execCsiFrameStart a1 a2 a3 s) := by
  unfold execCsiFrameStart
  repeat' first
    | with_reducible assumption
    | (intro _)
    | (with_reducible apply onEvent_keeps)
    | (with_reducible apply discardPacket_keeps)
    | (with_reducible apply endVisFrame_keeps)
    | (with_reducible apply modSensor_keeps)
    | split

theorem execCsiLongPacket_keeps {r s : State} {a1 a2 a3 a4 a5 a6} (h : Keeps r s) : KeepsO r (execCsiLongPacket a1 a2 a3 a4 a5 a6 s) := by
  unfold execCsiLongPacket
  repeat' first
    | with_reducible assumption
    | (intro _)
    | (with_reducible apply onEvent_keeps)
    | (with_reducible apply discardPacket_keeps)
    | (with_reducible apply modSensor_keeps)
    | (extract_lets +onlyGivenNames x; clear_value x)
    | split

theorem execCsiFrameEnd_keeps {r s : State} {a1 a2 a3 a4} (h : Keeps r s) : KeepsO r (execCsiFrameEnd a1 a2 a3 a4 s) := by
  unfold execCsiFrameEnd
  repeat' first
    | with_reducible assumption
    | (intro _)
    | (with_reducible apply onEvent_keeps)
    | (with_reducible apply discardPacket_keeps)
    | (with_reducible apply endVisFrame_keeps)
    | (extract_lets +onlyGivenNames x; have hx : Keeps r x := ?_; clear_value x; rotate_left; subst x; rotate_right)
    | (extract_lets +onlyGivenNames x; clear_value x)
    | split
    | (unfold Keeps; dsimp only; refine (?_ : Keeps _ _))

theorem captureFrame_keeps {r s : State} {a1} (h : Keeps r s) : Keeps r (captureFrame a1 s) := by
  unfold captureFrame
  repeat' first
    | with_reducible assumption
    | (with_reducible apply queueUnits_keeps)
    | (extract_lets +onlyGivenNames x; have hx : Keeps r x := ?_; clear_value x; rotate_left; subst x; rotate_right)
    | (extract_lets +onlyGivenNames x; clear_value x)
    | with_reducible refine Keeps.foldl ?_ (fun _ _ _ => ?_)
    | (unfold Keeps; dsimp only; refine (?_ : Keeps _ _))

theorem noteStreak_keeps {r s : State} {a1} (h : Keeps r s) : Keeps r (noteStreak a1 s) := by
  unfold noteStreak
  repeat' first
    | with_reducible assumption
    | (with_reducible apply retireElement_keeps)
    | (extract_lets +onlyGivenNames x; clear_value x)
    | split
    | (unfold Keeps; dsimp only; refine (?_ : Keeps _ _))

theorem reportStreakOff_keeps {r s : State} {a1} (h : Keeps r s) : Keeps r (reportStreakOff a1 s) := by
  unfold reportStreakOff
  repeat' first
    | with_reducible assumption
    | (with_reducible apply notify_keeps)
    | (extract_lets +onlyGivenNames x; clear_value x)
    | split
    | with_reducible refine Keeps.foldl ?_ (fun _ _ _ => ?_)
    | (unfold Keeps; dsimp only; refine (?_ : Keeps _ _))

theorem dropFrames_keeps {r s : State} (h : Keeps r s) : Keeps r (dropFrames s) := by
  unfold dropFrames
  repeat' first
    | with_reducible assumption
    | (extract_lets +onlyGivenNames x; clear_value x)
    | (unfold Keeps; dsimp only; refine (?_ : Keeps _ _))

theorem execPipelineFrameDone_keeps {r s : State} {a1 a2 a3} (h : Keeps r s) : KeepsO r (execPipelineFrameDone a1 a2 a3 s) := by
  unfold execPipelineFrameDone
  repeat' first
    | with_reducible assumption
    | (intro _)
    | (with_reducible apply onEvent_keeps)
    | (with_reducible apply sendVision_keeps)
    | (with_reducible apply captureFrame_keeps)
    | (with_reducible apply raise_keeps)
    | (with_reducible apply settleVerify_keeps)
    | (with_reducible apply noteStreak_keeps)
    | (with_reducible apply reportStreakOff_keeps)
    | (with_reducible apply dropFrames_keeps)
    | (extract_lets +onlyGivenNames x; clear_value x)
    | split
    | with_reducible refine Keeps.foldl ?_ (fun _ _ _ => ?_)
    | (dsimp -zeta only)
    | (unfold Keeps; dsimp only; refine (?_ : Keeps _ _))

/-! ### Machine/Boundary -/

theorem encoderFailover_keeps {r s : State} (h : Keeps r s) : Keeps r (encoderFailover s) := by
  unfold encoderFailover
  repeat' first
    | with_reducible assumption
    | (with_reducible apply raise_keeps)
    | (extract_lets +onlyGivenNames x; clear_value x)
    | split
    | (unfold Keeps; dsimp only; refine (?_ : Keeps _ _))

theorem takeLambdas_keeps {r s : State} (h : Keeps r s) : Keeps r (takeLambdas s) := by
  unfold takeLambdas
  repeat' first
    | with_reducible assumption
    | (with_reducible apply takeLambda_keeps)
    | split
    | with_reducible refine Keeps.foldl ?_ (fun _ _ _ => ?_)

theorem resendUnacked_keeps {r s : State} {a1} (h : Keeps r s) : Keeps r (resendUnacked a1 s) := by
  unfold resendUnacked
  repeat' first
    | with_reducible assumption
    | (with_reducible apply countStall_keeps)
    | (with_reducible apply sendFrame_keeps)
    | split
    | with_reducible refine Keeps.foldl ?_ (fun _ _ _ => ?_)

theorem moveStallLane_keeps {r s : State} {a1} (h : Keeps r s) : Keeps r (moveStallLane a1 s) := by
  unfold moveStallLane
  repeat' first
    | with_reducible assumption
    | (with_reducible apply modLane_keeps)
    | (with_reducible apply huntLane_keeps)
    | (with_reducible apply useSpareLane_keeps)
    | (with_reducible apply resendUnacked_keeps)
    | (with_reducible apply notify_keeps)
    | (extract_lets +onlyGivenNames x; clear_value x)
    | split

theorem setFireTimes_keeps {r s : State} {a1 a2} (h : Keeps r s) : Keeps r (setFireTimes a1 a2 s) := by
  unfold setFireTimes
  repeat' first
    | with_reducible assumption
    | (with_reducible apply modStall_keeps)
    | (extract_lets +onlyGivenNames x; clear_value x)
    | split

theorem judgeIdent_keeps {r s : State} {a1} (h : Keeps r s) : Keeps r (judgeIdent a1 s) := by
  unfold judgeIdent
  repeat' first
    | with_reducible assumption
    | (with_reducible apply modStall_keeps)
    | (with_reducible apply refreshPermit_keeps)
    | (with_reducible apply settlePermits_keeps)
    | (with_reducible apply releasePermit_keeps)
    | (with_reducible apply voidStop_keeps)
    | (extract_lets +onlyGivenNames x; have hx : Keeps r x := ?_; clear_value x; rotate_left; subst x; rotate_right)
    | split
    | with_reducible refine Keeps.foldl ?_ (fun _ _ _ => ?_)

theorem stallBoundary_keeps {r s : State} {a1 a3} (h : Keeps r s) : Keeps r (stallBoundary a1 s a3) := by
  unfold stallBoundary
  repeat' first
    | with_reducible assumption
    | (with_reducible apply judgeIdent_keeps)
    | (with_reducible apply setFireTimes_keeps)
    | (with_reducible apply moveStallLane_keeps)
    | split

theorem deadlines_keeps {r s : State} (h : Keeps r s) : Keeps r (deadlines s) := by
  unfold deadlines
  repeat' first
    | with_reducible assumption
    | (with_reducible apply decideOn_keeps)
    | (with_reducible apply verifyDeadline_keeps)
    | (extract_lets +onlyGivenNames x; clear_value x)
    | with_reducible refine Keeps.foldl ?_ (fun _ _ _ => ?_)

theorem stallBuild_keeps {r s : State} {a2} (h : Keeps r s) : Keeps r (stallBuild s a2) := by
  unfold stallBuild
  repeat' first
    | with_reducible assumption
    | (with_reducible apply buildFrame_keeps)
    | split

theorem freeSlots_keeps {r s : State} (h : Keeps r s) : Keeps r (freeSlots s) := by
  unfold freeSlots
  repeat' first
    | with_reducible assumption
    | (extract_lets +onlyGivenNames x; clear_value x)
    | (unfold Keeps; dsimp only; refine (?_ : Keeps _ _))

theorem lineMark_keeps {r s : State} {a1} (h : Keeps r s) : Keeps r (lineMark a1 s) := by
  unfold lineMark
  repeat' first
    | with_reducible assumption
    | (with_reducible apply uraraSend_keeps)
    | split

theorem boundary_keeps {r s : State} (h : Keeps r s) : Keeps r (boundary s) := by
  unfold boundary
  repeat' first
    | with_reducible assumption
    | (with_reducible apply encoderFailover_keeps)
    | (with_reducible apply stallBoundary_keeps)
    | (with_reducible apply takeLambdas_keeps)
    | (with_reducible apply reachSwitch_keeps)
    | (with_reducible apply gatesBoundary_keeps)
    | (with_reducible apply deadlines_keeps)
    | (with_reducible apply freeSlots_keeps)
    | (with_reducible apply settleFiring_keeps)
    | (with_reducible apply stallBuild_keeps)
    | (with_reducible apply triggerPulses_keeps)
    | (with_reducible apply lineMark_keeps)
    | (extract_lets +onlyGivenNames x; clear_value x)
    | with_reducible refine Keeps.foldl ?_ (fun _ _ _ => ?_)
    | (unfold Keeps; dsimp only; refine (?_ : Keeps _ _))

theorem execLineBoundary_keeps {r s : State} {a1} (h : Keeps r s) : KeepsO r (execLineBoundary a1 s) := by
  unfold execLineBoundary
  repeat' first
    | with_reducible assumption
    | (intro _)
    | (with_reducible apply onEvent_keeps)
    | (with_reducible apply boundary_keeps)
    | split

theorem execPacerTick_keeps {r s : State} {a1} (h : Keeps r s) : KeepsO r (execPacerTick a1 s) := by
  unfold execPacerTick
  repeat' first
    | with_reducible assumption
    | (intro _)
    | (with_reducible apply onEvent_keeps)
    | (with_reducible apply boundary_keeps)
    | (extract_lets +onlyGivenNames x; have hx : Keeps r x := ?_; clear_value x; rotate_left; subst x; rotate_right)
    | (extract_lets +onlyGivenNames x; clear_value x)
    | split
    | (unfold Keeps; dsimp only; refine (?_ : Keeps _ _))

/-! ### Machine/Replay -/

theorem voidDamaged_keeps {r s : State} (h : Keeps r s) : Keeps r (voidDamaged s) := by
  unfold voidDamaged
  repeat' first
    | with_reducible assumption
    | (with_reducible apply voidRec_keeps)
    | with_reducible refine Keeps.foldl ?_ (fun _ _ _ => ?_)

theorem voidLost_keeps {r s : State} {a1 a3} (h : Keeps r s) : Keeps r (voidLost a1 s a3) := by
  unfold voidLost
  repeat' first
    | with_reducible assumption
    | (with_reducible apply voidProduct_keeps)
    | (with_reducible apply event_keeps)
    | (extract_lets +onlyGivenNames x; have hx : Keeps r x := ?_; clear_value x; rotate_left; subst x; rotate_right)
    | split

theorem voidOrphans_keeps {r s : State} (h : Keeps r s) : Keeps r (voidOrphans s) := by
  unfold voidOrphans
  repeat' first
    | with_reducible assumption
    | (with_reducible apply voidRec_keeps)
    | with_reducible refine Keeps.foldl ?_ (fun _ _ _ => ?_)

theorem restartLines_keeps {r s : State} (h : Keeps r s) : Keeps r (restartLines s) := by
  unfold restartLines
  repeat' first
    | with_reducible assumption
    | (extract_lets +onlyGivenNames x; clear_value x)
    | split
    | (unfold Keeps; dsimp only; refine (?_ : Keeps _ _))

theorem keepWaiting_keeps {r s : State} (h : Keeps r s) : Keeps r (keepWaiting s) := by
  unfold keepWaiting
  repeat' first
    | with_reducible assumption
    | (extract_lets +onlyGivenNames x; clear_value x)
    | (unfold Keeps; dsimp only; refine (?_ : Keeps _ _))

theorem replay_keeps {r s : State} {a1} (h : Keeps r s) : Keeps r (replay a1 s) := by
  unfold replay
  repeat' first
    | with_reducible assumption
    | (with_reducible apply voidDamaged_keeps)
    | (with_reducible apply voidOrphans_keeps)
    | (with_reducible apply voidLost_keeps)
    | (with_reducible apply settleAll_keeps)
    | (with_reducible apply keepWaiting_keeps)
    | (with_reducible apply restartLines_keeps)
    | (with_reducible apply abandonAll_keeps)
    | with_reducible refine Keeps.foldl ?_ (fun _ _ _ => ?_)

theorem clearFault_keeps {r s : State} {a1} (h : Keeps r s) : Keeps r (clearFault a1 s) := by
  unfold clearFault
  repeat' first
    | with_reducible assumption
    | (with_reducible apply replay_keeps)
    | (extract_lets +onlyGivenNames x; have hx : Keeps r x := ?_; clear_value x; rotate_left; subst x; rotate_right)
    | (extract_lets +onlyGivenNames x; clear_value x)
    | split
    | (unfold Keeps; dsimp only; refine (?_ : Keeps _ _))

/-! ### Machine/Granary -/

theorem execGranaryReport_keeps {r s : State} {a1 a2} (h : Keeps r s) : KeepsO r (execGranaryReport a1 a2 s) := by
  unfold execGranaryReport
  repeat' first
    | with_reducible assumption
    | (intro _)
    | (with_reducible apply onStart_keeps)
    | (with_reducible apply queueUnits_keeps)
    | (with_reducible apply refuse_keeps)
    | (with_reducible apply withRange_keeps)
    | (with_reducible apply answer_keeps)
    | (with_reducible apply wellWrite_keeps)
    | (extract_lets +onlyGivenNames x; clear_value x)
    | split

theorem execTelemetryRead_keeps {r s : State} {a1 a2} (h : Keeps r s) : KeepsO r (execTelemetryRead a1 a2 s) := by
  unfold execTelemetryRead
  repeat' first
    | with_reducible assumption
    | (intro _)
    | (with_reducible apply onStart_keeps)
    | (with_reducible apply takeFresh_keeps)
    | (with_reducible apply refuse_keeps)
    | (with_reducible apply done_keeps)
    | (with_reducible apply outputOn_keeps)
    | split
    | (with_reducible refine Keeps.ofPair (by assumption) ?_)

theorem execCrierEventSend_keeps {r s : State} {a1} (h : Keeps r s) : KeepsO r (execCrierEventSend a1 s) := by
  unfold execCrierEventSend
  repeat' first
    | with_reducible assumption
    | (intro _)
    | (with_reducible apply onEvent_keeps)
    | (with_reducible apply queueUnits_keeps)
    | (with_reducible apply uraraSend_keeps)
    | (extract_lets +onlyGivenNames x; have hx : Keeps r x := ?_; clear_value x; rotate_left; subst x; rotate_right)
    | (extract_lets +onlyGivenNames x; clear_value x)
    | split
    | (unfold Keeps; dsimp only; refine (?_ : Keeps _ _))

theorem execCrierSample_keeps {r s : State} {a1} (h : Keeps r s) : KeepsO r (execCrierSample a1 s) := by
  unfold execCrierSample
  repeat' first
    | with_reducible assumption
    | (intro _)
    | (with_reducible apply onEvent_keeps)
    | (extract_lets +onlyGivenNames x; clear_value x)
    | split
    | (unfold Keeps; dsimp only; refine (?_ : Keeps _ _))

/-! ### Machine/Krynto -/

theorem modCred_keeps {r s : State} {a1 a2 a3} (h : Keeps r s) : Keeps r (modCred a1 a2 a3 s) := by
  unfold modCred
  repeat' first
    | with_reducible assumption
    | (extract_lets +onlyGivenNames x; clear_value x)
    | (unfold Keeps; dsimp only; refine (?_ : Keeps _ _))

theorem onCore_keeps {r s : State} {a1 a2 a3 a4} (h : Keeps r s) (k4 : ∀ y1 x, Keeps r x → Keeps r (a4 y1 x)) : KeepsO r (onCore a1 a2 a3 a4 s) := by
  unfold onCore
  repeat' first
    | with_reducible assumption
    | (with_reducible apply onStart_keeps)
    | (with_reducible apply advance_keeps)
    | (with_reducible refine KeepsO.next ?_)
    | split

theorem closeSession_keeps {r s : State} {a1} (h : Keeps r s) : Keeps r (closeSession a1 s) := by
  unfold closeSession
  repeat' first
    | with_reducible assumption
    | (with_reducible apply modSession_keeps)
    | (with_reducible apply endSession_keeps)
    | split

theorem closeAll_keeps {r s : State} {a1} (h : Keeps r s) : Keeps r (closeAll a1 s) := by
  unfold closeAll
  repeat' first
    | with_reducible assumption
    | (with_reducible apply closeSession_keeps)
    | with_reducible refine Keeps.foldl ?_ (fun _ _ _ => ?_)

theorem execSessionOpen_keeps {r s : State} {a1 a2 a3 a4} (h : Keeps r s) : KeepsO r (execSessionOpen a1 a2 a3 a4 s) := by
  unfold execSessionOpen
  repeat' first
    | with_reducible assumption
    | (intro _)
    | (with_reducible apply onCore_keeps)
    | (with_reducible apply refuse_keeps)
    | (with_reducible apply failWith_keeps)
    | (with_reducible apply answer_keeps)
    | (extract_lets +onlyGivenNames x; (first | (have hw : (x : Nat) = x := rfl) | (have hw : (x : Well) = x := rfl) | (have hw : (x : Cmd) = x := rfl) | (have hw : (x : _ → State) = x := rfl) | (have hw : (x : _ → _ → State) = x := rfl) | (have hw : (x : _ → _ → _ → State) = x := rfl) | (have hw : (x : _ → _ → _ → _ → State) = x := rfl)); clear hw; subst x)
    | (extract_lets +onlyGivenNames x; clear_value x)
    | split
    | (unfold Keeps; dsimp only; refine Kept.drew ?_; refine (?_ : Keeps _ _))

theorem failProof_keeps {r s : State} {a1 a2} (h : Keeps r s) : Keeps r (failProof a1 a2 s) := by
  unfold failProof
  repeat' first
    | with_reducible assumption
    | (with_reducible apply modCred_keeps)

theorem execSessionProve_keeps {r s : State} {a1 a2} (h : Keeps r s) : KeepsO r (execSessionProve a1 a2 s) := by
  unfold execSessionProve
  repeat' first
    | with_reducible assumption
    | (intro _)
    | (with_reducible apply onCore_keeps)
    | (with_reducible apply refuse_keeps)
    | (with_reducible apply done_keeps)
    | (with_reducible apply modCred_keeps)
    | (with_reducible apply modSession_keeps)
    | (with_reducible apply failProof_keeps)
    | (with_reducible apply endSession_keeps)
    | (extract_lets +onlyGivenNames x; clear_value x)
    | split

theorem execSessionProveTimeout_keeps {r s : State} {a1 a2} (h : Keeps r s) : KeepsO r (execSessionProveTimeout a1 a2 s) := by
  unfold execSessionProveTimeout
  repeat' first
    | with_reducible assumption
    | (intro _)
    | (with_reducible apply onEvent_keeps)
    | (with_reducible apply endSession_keeps)
    | split

theorem execCredentialUnlock_keeps {r s : State} {a1 a2 a3} (h : Keeps r s) : KeepsO r (execCredentialUnlock a1 a2 a3 s) := by
  unfold execCredentialUnlock
  repeat' first
    | with_reducible assumption
    | (intro _)
    | (with_reducible apply onEvent_keeps)
    | (with_reducible apply modCred_keeps)
    | split

theorem execSessionClose_keeps {r s : State} {a1 a2} (h : Keeps r s) : KeepsO r (execSessionClose a1 a2 s) := by
  unfold execSessionClose
  repeat' first
    | with_reducible assumption
    | (intro _)
    | (with_reducible apply onCore_keeps)
    | (with_reducible apply refuse_keeps)
    | (with_reducible apply done_keeps)
    | (with_reducible apply modSession_keeps)
    | split

theorem execGroupSessionExpire_keeps {r s : State} {a1 a2} (h : Keeps r s) : KeepsO r (execGroupSessionExpire a1 a2 s) := by
  unfold execGroupSessionExpire
  repeat' first
    | with_reducible assumption
    | (intro _)
    | (with_reducible apply onEvent_keeps)
    | (with_reducible apply closeSession_keeps)
    | split

theorem execCertRead_keeps {r s : State} {a1 a2} (h : Keeps r s) : KeepsO r (execCertRead a1 a2 s) := by
  unfold execCertRead
  repeat' first
    | with_reducible assumption
    | (intro _)
    | (with_reducible apply onCore_keeps)
    | (with_reducible apply refuse_keeps)
    | (with_reducible apply outputOn_keeps)
    | (extract_lets +onlyGivenNames x; clear_value x)
    | split

theorem setMode_keeps {r s : State} (h : Keeps r s) : Keeps r (setMode s) := by
  unfold setMode
  repeat' first
    | with_reducible assumption
    | (with_reducible apply notify_keeps)
    | (extract_lets +onlyGivenNames x; clear_value x)
    | split
    | (unfold Keeps; dsimp only; refine (?_ : Keeps _ _))

theorem withPackage_keeps {r s : State} {a1 a2 a3 a4 a5} (h : Keeps r s) (k5 : ∀ y1 x, Keeps r x → Keeps r (a5 y1 x)) : Keeps r (withPackage a1 a2 a3 a4 a5 s) := by
  unfold withPackage
  repeat' first
    | with_reducible assumption
    | (intro _)
    | (with_reducible apply withObject_keeps)
    | (with_reducible apply refuse_keeps)
    | (with_reducible apply k5)
    | split

theorem acceptPackage_keeps {r s : State} {a1} (h : Keeps r s) : Keeps r (acceptPackage a1 s) := by
  unfold acceptPackage
  repeat' first
    | with_reducible assumption
    | (extract_lets +onlyGivenNames x; clear_value x)
    | (unfold Keeps; dsimp only; refine (?_ : Keeps _ _))

theorem installJobKey_keeps {r s : State} {a1 a2 a3} (h : Keeps r s) : Keeps r (installJobKey a1 a2 a3 s) := by
  unfold installJobKey
  exact answer_keeps ⟨h.1, h.2.1, h.2.2.1, h.2.2.2.1, h.2.2.2.2.1, Nat.le_trans h.2.2.2.2.2 (Nat.le_add_right _ _)⟩

theorem installKey_keeps {r s : State} {a1 a2 a3} (h : Keeps r s) : Keeps r (installKey a1 a2 a3 s) := by
  unfold installKey
  repeat' first
    | with_reducible assumption
    | (with_reducible apply answer_keeps)
    | (extract_lets +onlyGivenNames x; clear_value x)
    | (unfold Keeps; dsimp only; refine (?_ : Keeps _ _))

theorem installGroup_keeps {r s : State} {a1 a2 a3} (h : Keeps r s) : Keeps r (installGroup a1 a2 a3 s) := by
  unfold installGroup
  repeat' first
    | with_reducible assumption
    | (with_reducible apply answer_keeps)
    | (extract_lets +onlyGivenNames x; (first | (have hw : (x : Well) = x := rfl) | (have hw : (x : Cmd) = x := rfl) | (have hw : (x : _ → State) = x := rfl) | (have hw : (x : _ → _ → State) = x := rfl) | (have hw : (x : _ → _ → _ → State) = x := rfl) | (have hw : (x : _ → _ → _ → _ → State) = x := rfl)); clear hw; subst x)
    | (unfold Keeps; dsimp only; refine (?_ : Keeps _ _))

theorem execJobKeyLoad_keeps {r s : State} {a1 a2 a3} (h : Keeps r s) : KeepsO r (execJobKeyLoad a1 a2 a3 s) := by
  unfold execJobKeyLoad
  repeat' first
    | with_reducible assumption
    | (intro _)
    | (with_reducible apply onCore_keeps)
    | (with_reducible apply withPackage_keeps)
    | (with_reducible apply installJobKey_keeps)
    | (with_reducible apply acceptPackage_keeps)
    | (with_reducible apply refuse_keeps)
    | (with_reducible apply installGroup_keeps)
    | (with_reducible apply installKey_keeps)
    | split

theorem removeCred_keeps {r s : State} {a1 a2} (h : Keeps r s) : Keeps r (removeCred a1 a2 s) := by
  unfold removeCred
  repeat' first
    | with_reducible assumption
    | (with_reducible apply closeAll_keeps)
    | (extract_lets +onlyGivenNames x; clear_value x)
    | (unfold Keeps; dsimp only; refine (?_ : Keeps _ _))

theorem execRoleCredential_keeps {r s : State} {a1 a2 a3} (h : Keeps r s) : KeepsO r (execRoleCredential a1 a2 a3 s) := by
  unfold execRoleCredential
  repeat' first
    | with_reducible assumption
    | (intro _)
    | (with_reducible apply onCore_keeps)
    | (with_reducible apply refuse_keeps)
    | (with_reducible apply done_keeps)
    | (with_reducible apply removeCred_keeps)
    | (with_reducible apply withPackage_keeps)
    | (with_reducible apply acceptPackage_keeps)
    | (extract_lets +onlyGivenNames x; have hx : Keeps r x := ?_; clear_value x; rotate_left; subst x; rotate_right)
    | (extract_lets +onlyGivenNames x; clear_value x)
    | split
    | (unfold Keeps; dsimp only; refine (?_ : Keeps _ _))

theorem transferOwner_keeps {r s : State} {a1 a2 a3} (h : Keeps r s) : Keeps r (transferOwner a1 a2 a3 s) := by
  unfold transferOwner
  repeat' first
    | with_reducible assumption
    | (with_reducible apply setMode_keeps)
    | (with_reducible apply closeAll_keeps)
    | (with_reducible apply modSession_keeps)
    | (extract_lets +onlyGivenNames x; (first | (have hw : (x : Well) = x := rfl) | (have hw : (x : Cmd) = x := rfl) | (have hw : (x : _ → State) = x := rfl) | (have hw : (x : _ → _ → State) = x := rfl) | (have hw : (x : _ → _ → _ → State) = x := rfl) | (have hw : (x : _ → _ → _ → _ → State) = x := rfl)); clear hw; subst x)
    | (extract_lets +onlyGivenNames x; clear_value x)
    | (unfold Keeps; dsimp only; refine (?_ : Keeps _ _))

theorem execOwnerTransfer_keeps {r s : State} {a1 a2 a3} (h : Keeps r s) : KeepsO r (execOwnerTransfer a1 a2 a3 s) := by
  unfold execOwnerTransfer
  repeat' first
    | with_reducible assumption
    | (intro _)
    | (with_reducible apply onCore_keeps)
    | (with_reducible apply refuse_keeps)
    | (with_reducible apply withPackage_keeps)
    | (with_reducible apply done_keeps)
    | (with_reducible apply transferOwner_keeps)
    | (with_reducible apply acceptPackage_keeps)
    | split

theorem setImage_keeps {r s : State} {a1 a2} (h : Keeps r s) : Keeps r (setImage a1 a2 s) := by
  unfold setImage
  repeat' first
    | with_reducible assumption
    | (extract_lets +onlyGivenNames x; clear_value x)
    | (unfold Keeps; dsimp only; refine (?_ : Keeps _ _))

theorem emptyImage_keeps {r s : State} {a1} (h : Keeps r s) : Keeps r (emptyImage a1 s) := by
  unfold emptyImage
  repeat' first
    | with_reducible assumption
    | (with_reducible apply setImage_keeps)
    | (unfold Keeps; dsimp only; refine (?_ : Keeps _ _))

theorem execImageStage_keeps {r s : State} {a1 a2 a3} (h : Keeps r s) : KeepsO r (execImageStage a1 a2 a3 s) := by
  unfold execImageStage
  repeat' first
    | with_reducible assumption
    | (intro _)
    | (with_reducible apply onCore_keeps)
    | (with_reducible apply refuse_keeps)
    | (with_reducible apply modWork_keeps)
    | (extract_lets +onlyGivenNames x; have hx : Keeps r x := ?_; clear_value x; rotate_left; subst x; rotate_right)
    | (extract_lets +onlyGivenNames x; clear_value x)
    | split
    | (unfold Keeps; dsimp only; refine (?_ : Keeps _ _))

theorem execImageSlotWritten_keeps {r s : State} {a1 a2} (h : Keeps r s) : KeepsO r (execImageSlotWritten a1 a2 s) := by
  unfold execImageSlotWritten
  repeat' first
    | with_reducible assumption
    | (intro _)
    | (with_reducible apply onEvent_keeps)
    | (with_reducible apply finish_keeps)
    | (with_reducible apply setImage_keeps)
    | (with_reducible apply raise_keeps)
    | (with_reducible apply emptyImage_keeps)
    | (extract_lets +onlyGivenNames x; have hx : Keeps r x := ?_; clear_value x; rotate_left; subst x; rotate_right)
    | (extract_lets +onlyGivenNames x; clear_value x)
    | split
    | (unfold Keeps; dsimp only; refine (?_ : Keeps _ _))

theorem execAttest_keeps {r s : State} {a1 a2} (h : Keeps r s) : KeepsO r (execAttest a1 a2 s) := by
  unfold execAttest
  repeat' first
    | with_reducible assumption
    | (intro _)
    | (with_reducible apply onCore_keeps)
    | (with_reducible apply refuse_keeps)
    | (with_reducible apply failWith_keeps)
    | (with_reducible apply outputOn_keeps)
    | (extract_lets +onlyGivenNames x; clear_value x)
    | split

theorem logTamper_keeps {r s : State} {a1} (h : Keeps r s) : Keeps r (logTamper a1 s) := by
  unfold logTamper
  repeat' first
    | with_reducible assumption
    | (extract_lets +onlyGivenNames x; clear_value x)
    | (unfold Keeps; dsimp only; refine (?_ : Keeps _ _))

theorem zeroise_keeps {r s : State} {a1} (h : Keeps r s) : Keeps r (zeroise a1 s) := by
  unfold zeroise
  split
  · exact h
  · have hx : Keeps r (logTamper a1 s) := logTamper_keeps h
    exact ⟨hx.1, hx.2.1, hx.2.2.1, fun _ => SlotsOk.nil _, hx.2.2.2.2.1, hx.2.2.2.2.2⟩

theorem execZeroise_keeps {r s : State} {a1 a2} (h : Keeps r s) : KeepsO r (execZeroise a1 a2 s) := by
  unfold execZeroise
  repeat' first
    | with_reducible assumption
    | (intro _)
    | (with_reducible apply onCore_keeps)
    | (with_reducible apply refuse_keeps)
    | (with_reducible apply zeroise_keeps)
    | split

end Sys2Proof.Machine
end

