-- ==== Sys2Proof/Laws/KeepsPower.lean ====
section
/-!
SUPPORT. The operations of upkeep, the cores, power, reset, boot, learning, tamper, the mailbox, the network, the records and status keep what Keeps says.
-/
namespace Sys2Proof.Machine

/-! ### Machine/Upkeep -/

theorem rewriteAged_keeps {r s : State} {a1} (h : Keeps r s) : Keeps r (rewriteAged a1 s) := by
  unfold rewriteAged
  repeat' first
    | with_reducible assumption
    | (with_reducible apply countWrite_keeps)
    | (extract_lets +onlyGivenNames x; clear_value x)
    | split
    | (unfold Keeps; dsimp only; refine (?_ : Keeps _ _))

theorem correctedSector_keeps {r s : State} {a1} (h : Keeps r s) : Keeps r (correctedSector a1 s) := by
  unfold correctedSector
  repeat' first
    | with_reducible assumption
    | (with_reducible apply failSector_keeps)
    | (extract_lets +onlyGivenNames x; clear_value x)
    | split
    | (unfold Keeps; dsimp only; refine (?_ : Keeps _ _))

theorem breakConfig_keeps {r s : State} {a1} (h : Keeps r s) : Keeps r (breakConfig a1 s) := by
  unfold breakConfig
  repeat' first
    | with_reducible assumption
    | (extract_lets +onlyGivenNames x; clear_value x)
    | (unfold Keeps; dsimp only; refine (?_ : Keeps _ _))

theorem configLost_keeps {r s : State} {a1 a2} (h : Keeps r s) (k2 : ∀ x, Keeps r x → Keeps r (a2 x)) : Keeps r (configLost a1 a2 s) := by
  unfold configLost
  repeat' first
    | with_reducible assumption
    | (with_reducible apply raise_keeps)
    | (with_reducible apply k2)
    | split

theorem slotLost_keeps {r s : State} {a1} (h : Keeps r s) : Keeps r (slotLost a1 s) := by
  unfold slotLost
  repeat' first
    | with_reducible assumption
    | (with_reducible apply modRec_keeps)
    | (with_reducible apply raise_keeps)
    | (with_reducible apply voidFault_keeps)
    | (extract_lets +onlyGivenNames x; have hx : Keeps r x := ?_; clear_value x; rotate_left; subst x; rotate_right)
    | split
    | with_reducible refine Keeps.foldl ?_ (fun _ _ _ => ?_)

theorem ledgerHit_keeps {r s : State} {a1} (h : Keeps r s) : Keeps r (ledgerHit a1 s) := by
  unfold ledgerHit
  repeat' split
  all_goals first
    | exact h
    | exact slotLost_keeps h
    | exact raise_keeps h
    | exact configLost_keeps h (fun _ hx => hx)
    | exact configLost_keeps h (fun _ hx => breakConfig_keeps hx)

theorem execLedgerScrub_keeps {r s : State} {a1 a2 a3 a4} (h : Keeps r s) : KeepsO r (execLedgerScrub a1 a2 a3 a4 s) := by
  unfold execLedgerScrub
  repeat' first
    | with_reducible assumption
    | (intro _)
    | (with_reducible apply onEvent_keeps)
    | (with_reducible apply beginTask_keeps)
    | (with_reducible apply rewriteAged_keeps)
    | (with_reducible apply correctedSector_keeps)
    | (with_reducible apply ledgerHit_keeps)
    | (with_reducible apply failSector_keeps)
    | (with_reducible apply endTask_keeps)
    | (with_reducible apply taskAt_keeps)
    | (extract_lets +onlyGivenNames x; have hx : Keeps r x := ?_; clear_value x; rotate_left; subst x; rotate_right)
    | (extract_lets +onlyGivenNames x; clear_value x)
    | split
    | with_reducible refine Keeps.foldl ?_ (fun _ _ _ => ?_)
    | (unfold Keeps; dsimp only; refine (?_ : Keeps _ _))

theorem putSram_keeps {r s : State} {a1} (h : Keeps r s) : Keeps r (putSram a1 s) := by
  unfold putSram
  repeat' first
    | with_reducible assumption
    | (extract_lets +onlyGivenNames x; clear_value x)
    | (unfold Keeps; dsimp only; refine (?_ : Keeps _ _))

theorem repairRow_keeps {r s : State} {a1 a2} (h : Keeps r s) : Keeps r (repairRow a1 a2 s) := by
  unfold repairRow
  repeat' first
    | with_reducible assumption
    | (with_reducible apply notify_keeps)
    | (with_reducible apply putSram_keeps)
    | (with_reducible apply granaryUse_keeps)
    | (extract_lets +onlyGivenNames x; have hx : Keeps r x := ?_; clear_value x; rotate_left; subst x; rotate_right)
    | (extract_lets +onlyGivenNames x; clear_value x)
    | split

theorem badRow_keeps {r s : State} {a1 a2} (h : Keeps r s) : Keeps r (badRow a1 a2 s) := by
  unfold badRow
  repeat' first
    | with_reducible assumption
    | (with_reducible apply repairRow_keeps)
    | (with_reducible apply raise_keeps)
    | (with_reducible apply clearFault_keeps)
    | (extract_lets +onlyGivenNames x; have hx : Keeps r x := ?_; clear_value x; rotate_left; subst x; rotate_right)
    | (extract_lets +onlyGivenNames x; clear_value x)
    | split

theorem correctedRow_keeps {r s : State} {a1 a2} (h : Keeps r s) : Keeps r (correctedRow a1 a2 s) := by
  unfold correctedRow
  repeat' first
    | with_reducible assumption
    | (with_reducible apply repairRow_keeps)
    | (with_reducible apply putSram_keeps)
    | (extract_lets +onlyGivenNames x; clear_value x)
    | split

theorem execSramScrub_keeps {r s : State} {a1 a2 a3 a4 a5} (h : Keeps r s) : KeepsO r (execSramScrub a1 a2 a3 a4 a5 s) := by
  unfold execSramScrub
  repeat' first
    | with_reducible assumption
    | (intro _)
    | (with_reducible apply onEvent_keeps)
    | (with_reducible apply beginTask_keeps)
    | (with_reducible apply badRow_keeps)
    | (with_reducible apply correctedRow_keeps)
    | (with_reducible apply endTask_keeps)
    | (with_reducible apply taskAt_keeps)
    | (extract_lets +onlyGivenNames x; have hx : Keeps r x := ?_; clear_value x; rotate_left; subst x; rotate_right)
    | (extract_lets +onlyGivenNames x; clear_value x)
    | split
    | (unfold Keeps; dsimp only; refine (?_ : Keeps _ _))

theorem restoreDomains_keeps {r s : State} (h : Keeps r s) : Keeps r (restoreDomains s) := by
  unfold restoreDomains
  repeat' first
    | with_reducible assumption
    | (extract_lets +onlyGivenNames x; clear_value x)
    | (unfold Keeps; dsimp only; refine (?_ : Keeps _ _))

theorem execSliceSelftest_keeps {r s : State} {a1 a2 a3} (h : Keeps r s) : KeepsO r (execSliceSelftest a1 a2 a3 s) := by
  unfold execSliceSelftest
  repeat' first
    | with_reducible assumption
    | (intro _)
    | (with_reducible apply onEvent_keeps)
    | (with_reducible apply beginTask_keeps)
    | (with_reducible apply retireSlice_keeps)
    | (with_reducible apply restoreDomains_keeps)
    | (with_reducible apply endTask_keeps)
    | (with_reducible apply taskAt_keeps)
    | (extract_lets +onlyGivenNames x; have hx : Keeps r x := ?_; clear_value x; rotate_left; subst x; rotate_right)
    | (extract_lets +onlyGivenNames x; clear_value x)
    | split
    | (unfold Keeps; dsimp only; refine (?_ : Keeps _ _))

theorem execSpareCoreSelftest_keeps {r s : State} {a1 a2} (h : Keeps r s) : KeepsO r (execSpareCoreSelftest a1 a2 s) := by
  unfold execSpareCoreSelftest
  repeat' first
    | with_reducible assumption
    | (intro _)
    | (with_reducible apply onEvent_keeps)
    | (with_reducible apply endTask_keeps)
    | (with_reducible apply beginTask_keeps)
    | (with_reducible apply granaryCount_keeps)
    | (extract_lets +onlyGivenNames x; have hx : Keeps r x := ?_; clear_value x; rotate_left; subst x; rotate_right)
    | (extract_lets +onlyGivenNames x; clear_value x)
    | split
    | (unfold Keeps; dsimp only; refine (?_ : Keeps _ _))

theorem execKryntoKat_keeps {r s : State} {a1 a2} (h : Keeps r s) : KeepsO r (execKryntoKat a1 a2 s) := by
  unfold execKryntoKat
  repeat' first
    | with_reducible assumption
    | (intro _)
    | (with_reducible apply onEvent_keeps)
    | (with_reducible apply endTask_keeps)
    | (with_reducible apply beginTask_keeps)
    | (with_reducible apply setMode_keeps)
    | (with_reducible apply raise_keeps)
    | (extract_lets +onlyGivenNames x; have hx : Keeps r x := ?_; clear_value x; rotate_left; subst x; rotate_right)
    | (extract_lets +onlyGivenNames x; clear_value x)
    | split
    | (unfold Keeps; dsimp only; refine (?_ : Keeps _ _))

theorem judgeAged_keeps {r s : State} (h : Keeps r s) : Keeps r (judgeAged s) := by
  unfold judgeAged
  repeat' first
    | with_reducible assumption
    | (with_reducible apply notify_keeps)
    | (extract_lets +onlyGivenNames x; clear_value x)
    | with_reducible refine Keeps.foldl ?_ (fun _ _ _ => ?_)
    | (unfold Keeps; dsimp only; refine (?_ : Keeps _ _))

theorem execSiliconRecal_keeps {r s : State} {a1 a2 a3 a4} (h : Keeps r s) : KeepsO r (execSiliconRecal a1 a2 a3 a4 s) := by
  unfold execSiliconRecal
  repeat' first
    | with_reducible assumption
    | (intro _)
    | (with_reducible apply onEvent_keeps)
    | (with_reducible apply judgeAged_keeps)
    | (with_reducible apply beginTask_keeps)
    | (with_reducible apply endRun_keeps)
    | (with_reducible apply taskAt_keeps)
    | (with_reducible apply endTask_keeps)
    | (extract_lets +onlyGivenNames x; have hx : Keeps r x := ?_; clear_value x; rotate_left; subst x; rotate_right)
    | (extract_lets +onlyGivenNames x; clear_value x)
    | split
    | (unfold Keeps; dsimp only; refine (?_ : Keeps _ _))

theorem execDrbgReseed_keeps {r s : State} {a1 a2} (h : Keeps r s) : KeepsO r (execDrbgReseed a1 a2 s) := by
  unfold execDrbgReseed
  repeat' first
    | with_reducible assumption
    | (intro _)
    | (with_reducible apply onEvent_keeps)
    | (with_reducible apply clearFault_keeps)
    | (with_reducible apply raise_keeps)
    | (extract_lets +onlyGivenNames x; clear_value x)
    | split
    | (unfold Keeps; dsimp only; refine (?_ : Keeps _ _))

theorem execEntropyHealthFail_keeps {r s : State} {a1} (h : Keeps r s) : KeepsO r (execEntropyHealthFail a1 s) := by
  unfold execEntropyHealthFail
  repeat' first
    | with_reducible assumption
    | (intro _)
    | (with_reducible apply onEvent_keeps)
    | (with_reducible apply raise_keeps)
    | split

/-! ### Machine/Cores -/

theorem execCoreTakeover_keeps {r s : State} {a1} (h : Keeps r s) : KeepsO r (execCoreTakeover a1 s) := by
  unfold execCoreTakeover
  repeat' first
    | with_reducible assumption
    | (intro _)
    | (with_reducible apply onEvent_keeps)
    | (with_reducible apply setInt_keeps)
    | (extract_lets +onlyGivenNames x; clear_value x)
    | split
    | (unfold Keeps; dsimp only; refine (?_ : Keeps _ _))

theorem resumeAct_keeps {r s : State} (h : Keeps r s) : Keeps r (resumeAct s) := by
  unfold resumeAct
  repeat' first
    | with_reducible assumption
    | (extract_lets +onlyGivenNames x; clear_value x)
    | split
    | (unfold Keeps; dsimp only; refine (?_ : Keeps _ _))

theorem judgeCores_keeps {r s : State} (h : Keeps r s) : Keeps r (judgeCores s) := by
  unfold judgeCores
  repeat' first
    | with_reducible assumption
    | (with_reducible apply raise_keeps)
    | (with_reducible apply notify_keeps)
    | split

theorem execTakeoverComplete_keeps {r s : State} {a1 a2 a3} (h : Keeps r s) : KeepsO r (execTakeoverComplete a1 a2 a3 s) := by
  unfold execTakeoverComplete
  repeat' first
    | with_reducible assumption
    | (intro _)
    | (with_reducible apply onEvent_keeps)
    | (with_reducible apply granaryCount_keeps)
    | (with_reducible apply skipTime_keeps)
    | (with_reducible apply notify_keeps)
    | (with_reducible apply setInt_keeps)
    | (with_reducible apply resumeAct_keeps)
    | (with_reducible apply judgeCores_keeps)
    | (extract_lets +onlyGivenNames x; have hx : Keeps r x := ?_; clear_value x; rotate_left; subst x; rotate_right)
    | (extract_lets +onlyGivenNames x; clear_value x)
    | split
    | with_reducible refine Keeps.foldl ?_ (fun _ _ _ => ?_)
    | (unfold Keeps; dsimp only; refine (?_ : Keeps _ _))

theorem execImageActivate_keeps {r s : State} {a1 a2 a3} (h : Keeps r s) : KeepsO r (execImageActivate a1 a2 a3 s) := by
  unfold execImageActivate
  repeat' first
    | with_reducible assumption
    | (intro _)
    | (with_reducible apply advance_keeps)
    | (with_reducible apply onCore_keeps)
    | (with_reducible apply refuse_keeps)
    | (with_reducible apply setImage_keeps)
    | (with_reducible refine KeepsO.next ?_)
    | split
    | (unfold Keeps; dsimp only; refine (?_ : Keeps _ _))

theorem endAct_keeps {r s : State} (h : Keeps r s) : Keeps r (endAct s) := by
  unfold endAct
  repeat' first
    | with_reducible assumption
    | (extract_lets +onlyGivenNames x; (first | (have hw : (x : Well) = x := rfl) | (have hw : (x : Cmd) = x := rfl) | (have hw : (x : _ → State) = x := rfl) | (have hw : (x : _ → _ → State) = x := rfl) | (have hw : (x : _ → _ → _ → State) = x := rfl) | (have hw : (x : _ → _ → _ → _ → State) = x := rfl)); clear hw; subst x)
    | (extract_lets +onlyGivenNames x; clear_value x)
    | (unfold Keeps; dsimp only; refine (?_ : Keeps _ _))

theorem execFwImageLoaded_keeps {r s : State} {a1 a2} (h : Keeps r s) : KeepsO r (execFwImageLoaded a1 a2 s) := by
  unfold execFwImageLoaded
  repeat' first
    | with_reducible assumption
    | (intro _)
    | (with_reducible apply onEvent_keeps)
    | (with_reducible apply finish_keeps)
    | (with_reducible apply endAct_keeps)
    | (extract_lets +onlyGivenNames x; (first | (have hw : (x : Well) = x := rfl) | (have hw : (x : Cmd) = x := rfl) | (have hw : (x : _ → State) = x := rfl) | (have hw : (x : _ → _ → State) = x := rfl) | (have hw : (x : _ → _ → _ → State) = x := rfl) | (have hw : (x : _ → _ → _ → _ → State) = x := rfl)); clear hw; subst x)
    | (extract_lets +onlyGivenNames x; clear_value x)
    | split
    | (unfold Keeps; dsimp only; refine (?_ : Keeps _ _))

theorem blowFuses_keeps {r s : State} {a1} (h : Keeps r s) : Keeps r (blowFuses a1 s) := by
  unfold blowFuses
  repeat' first
    | with_reducible assumption
    | (with_reducible apply granaryUse_keeps)
    | (extract_lets +onlyGivenNames x; clear_value x)
    | with_reducible refine Keeps.foldl ?_ (fun _ _ _ => ?_)
    | (unfold Keeps; dsimp only; refine (?_ : Keeps _ _))

theorem revertAct_keeps {r s : State} {a1} (h : Keeps r s) : Keeps r (revertAct a1 s) := by
  unfold revertAct
  repeat' first
    | with_reducible assumption
    | (with_reducible apply notify_keeps)
    | (with_reducible apply finish_keeps)
    | (with_reducible apply raise_keeps)
    | (with_reducible apply endAct_keeps)

theorem execFwHandoff_keeps {r s : State} {a1 a2 a3} (h : Keeps r s) : KeepsO r (execFwHandoff a1 a2 a3 s) := by
  unfold execFwHandoff
  repeat' first
    | with_reducible assumption
    | (intro _)
    | (with_reducible apply onEvent_keeps)
    | (with_reducible apply revertAct_keeps)
    | (with_reducible apply endAct_keeps)
    | (with_reducible apply skipTime_keeps)
    | (with_reducible apply finish_keeps)
    | (with_reducible apply blowFuses_keeps)
    | (with_reducible apply notify_keeps)
    | (extract_lets +onlyGivenNames x; have hx : Keeps r x := ?_; clear_value x; rotate_left; subst x; rotate_right)
    | (extract_lets +onlyGivenNames x; clear_value x)
    | split
    | (unfold Keeps; dsimp only; refine (?_ : Keeps _ _))

theorem execFwActivateBusyTimeout_keeps {r s : State} {a1} (h : Keeps r s) : KeepsO r (execFwActivateBusyTimeout a1 s) := by
  unfold execFwActivateBusyTimeout
  repeat' first
    | with_reducible assumption
    | (intro _)
    | (with_reducible apply onEvent_keeps)
    | (with_reducible apply finish_keeps)
    | (with_reducible apply endAct_keeps)
    | split

theorem execFwReplyTimeout_keeps {r s : State} {a1} (h : Keeps r s) : KeepsO r (execFwReplyTimeout a1 s) := by
  unfold execFwReplyTimeout
  repeat' first
    | with_reducible assumption
    | (intro _)
    | (with_reducible apply onEvent_keeps)
    | (with_reducible apply revertAct_keeps)
    | split

/-! ### Machine/Domains -/

theorem lanesOff_keeps {r s : State} {a1} (h : Keeps r s) : Keeps r (lanesOff a1 s) := by
  unfold lanesOff
  repeat' first
    | with_reducible assumption
    | (with_reducible apply modLane_keeps)
    | with_reducible refine Keeps.foldl ?_ (fun _ _ _ => ?_)

theorem lanesOn_keeps {r s : State} {a1} (h : Keeps r s) : Keeps r (lanesOn a1 s) := by
  unfold lanesOn
  repeat' first
    | with_reducible assumption
    | (with_reducible apply huntLane_keeps)
    | split
    | with_reducible refine Keeps.foldl ?_ (fun _ _ _ => ?_)

theorem setDomain_keeps {r s : State} {a1 a2} (h : Keeps r s) : Keeps r (setDomain a1 a2 s) := by
  unfold setDomain
  repeat' first
    | with_reducible assumption
    | (with_reducible apply setInt_keeps)
    | (extract_lets +onlyGivenNames x; clear_value x)
    | split
    | (unfold Keeps; dsimp only; refine (?_ : Keeps _ _))

theorem netOff_keeps {r s : State} (h : Keeps r s) : Keeps r (netOff s) := by
  unfold netOff
  repeat' first
    | with_reducible assumption
    | (with_reducible apply clockNetOff_keeps)
    | (with_reducible apply saveFloor_keeps)
    | (extract_lets +onlyGivenNames x; have hx : Keeps r x := ?_; clear_value x; rotate_left; subst x; rotate_right)
    | (unfold Keeps; dsimp only; refine (?_ : Keeps _ _))

theorem pcieOff_keeps {r s : State} (h : Keeps r s) : Keeps r (pcieOff s) := by
  unfold pcieOff
  repeat' first
    | with_reducible assumption
    | (with_reducible apply handedOver_keeps)
    | (extract_lets +onlyGivenNames x; have hx : Keeps r x := ?_; clear_value x; rotate_left; subst x; rotate_right)
    | (extract_lets +onlyGivenNames x; (first | (have hw : (x : Well) = x := rfl) | (have hw : (x : Cmd) = x := rfl) | (have hw : (x : _ → State) = x := rfl) | (have hw : (x : _ → _ → State) = x := rfl) | (have hw : (x : _ → _ → _ → State) = x := rfl) | (have hw : (x : _ → _ → _ → _ → State) = x := rfl)); clear hw; subst x)
    | with_reducible refine Keeps.foldl ?_ (fun _ _ _ => ?_)
    | (unfold Keeps; dsimp only; refine (?_ : Keeps _ _))

theorem stlOff_keeps {r s : State} (h : Keeps r s) : Keeps r (stlOff s) := by
  unfold stlOff
  repeat' first
    | with_reducible assumption
    | (with_reducible apply settlePermits_keeps)
    | (extract_lets +onlyGivenNames x; clear_value x)
    | (unfold Keeps; dsimp only; refine (?_ : Keeps _ _))

theorem millOff_keeps {r s : State} {a1} (h : Keeps r s) : Keeps r (millOff a1 s) := by
  unfold millOff
  repeat' first
    | with_reducible assumption
    | (extract_lets +onlyGivenNames x; clear_value x)
    | (unfold Keeps; dsimp only; refine (?_ : Keeps _ _))

theorem ringOff_keeps {r s : State} (h : Keeps r s) : Keeps r (ringOff s) := by
  unfold ringOff
  repeat' first
    | with_reducible assumption
    | (extract_lets +onlyGivenNames x; clear_value x)
    | (unfold Keeps; dsimp only; refine (?_ : Keeps _ _))

theorem visOff_keeps {r s : State} (h : Keeps r s) : Keeps r (visOff s) := by
  unfold visOff
  repeat' first
    | with_reducible assumption
    | (with_reducible apply dropSets_keeps)
    | (with_reducible apply finish_keeps)
    | (with_reducible apply voidFault_keeps)
    | (with_reducible apply setFlag_keeps)
    | (extract_lets +onlyGivenNames x; have hx : Keeps r x := ?_; clear_value x; rotate_left; subst x; rotate_right)
    | (extract_lets +onlyGivenNames x; clear_value x)
    | with_reducible refine Keeps.foldl ?_ (fun _ _ _ => ?_)
    | (unfold Keeps; dsimp only; refine (?_ : Keeps _ _))

theorem domainOff_keeps {r s : State} {a1} (h : Keeps r s) : Keeps r (domainOff a1 s) := by
  unfold domainOff
  repeat' first
    | with_reducible assumption
    | (with_reducible apply lanesOff_keeps)
    | (with_reducible apply netOff_keeps)
    | (with_reducible apply pcieOff_keeps)
    | (with_reducible apply modChan_keeps)
    | (with_reducible apply selfRefresh_keeps)
    | (with_reducible apply millOff_keeps)
    | (with_reducible apply stlOff_keeps)
    | (with_reducible apply ringOff_keeps)
    | (with_reducible apply visOff_keeps)
    | (with_reducible apply setDomain_keeps)
    | split

theorem ddrOn_keeps {r s : State} {a1} (h : Keeps r s) : Keeps r (ddrOn a1 s) := by
  unfold ddrOn
  repeat' first
    | with_reducible assumption
    | (with_reducible apply modChan_keeps)
    | (extract_lets +onlyGivenNames x; clear_value x)
    | (unfold Keeps; dsimp only; refine (?_ : Keeps _ _))

theorem domainOn_keeps {r s : State} {a1} (h : Keeps r s) : Keeps r (domainOn a1 s) := by
  unfold domainOn
  repeat' first
    | with_reducible assumption
    | (with_reducible apply setDomain_keeps)
    | (with_reducible apply restartDom_keeps)
    | (with_reducible apply ddrOn_keeps)
    | (with_reducible apply lanesOn_keeps)
    | split
    | with_reducible refine Keeps.foldl ?_ (fun _ _ _ => ?_)
    | (unfold Keeps; dsimp only; refine (?_ : Keeps _ _))

theorem execPowerDomain_keeps {r s : State} {a1 a2} (h : Keeps r s) : KeepsO r (execPowerDomain a1 a2 s) := by
  unfold execPowerDomain
  repeat' first
    | with_reducible assumption
    | (intro _)
    | (with_reducible apply onStart_keeps)
    | (with_reducible apply refuse_keeps)
    | (with_reducible apply ringsPowerDown_keeps)
    | (with_reducible apply setInt_keeps)
    | split
    | (unfold Keeps; dsimp only; refine (?_ : Keeps _ _))

theorem execDomainPowerDownProceed_keeps {r s : State} {a1} (h : Keeps r s) : KeepsO r (execDomainPowerDownProceed a1 s) := by
  unfold execDomainPowerDownProceed
  repeat' first
    | with_reducible assumption
    | (intro _)
    | (with_reducible apply onEvent_keeps)
    | (with_reducible apply finish_keeps)
    | (with_reducible apply domainOff_keeps)
    | (extract_lets +onlyGivenNames x; have hx : Keeps r x := ?_; clear_value x; rotate_left; subst x; rotate_right)
    | (extract_lets +onlyGivenNames x; clear_value x)
    | split
    | (unfold Keeps; dsimp only; refine (?_ : Keeps _ _))

theorem execDomainPowerUpDone_keeps {r s : State} {a1} (h : Keeps r s) : KeepsO r (execDomainPowerUpDone a1 s) := by
  unfold execDomainPowerUpDone
  repeat' first
    | with_reducible assumption
    | (intro _)
    | (with_reducible apply onEvent_keeps)
    | (with_reducible apply finish_keeps)
    | (with_reducible apply domainOn_keeps)
    | (extract_lets +onlyGivenNames x; have hx : Keeps r x := ?_; clear_value x; rotate_left; subst x; rotate_right)
    | (extract_lets +onlyGivenNames x; clear_value x)
    | split
    | (unfold Keeps; dsimp only; refine (?_ : Keeps _ _))

/-! ### Machine/Thermal -/

theorem stepThree_keeps {r s : State} {a1} (h : Keeps r s) : Keeps r (stepThree a1 s) := by
  unfold stepThree
  repeat' first
    | with_reducible assumption
    | (with_reducible apply raise_keeps)
    | (with_reducible apply voidProduct_keeps)
    | (with_reducible apply clearFault_keeps)
    | (extract_lets +onlyGivenNames x; have hx : Keeps r x := ?_; clear_value x; rotate_left; subst x; rotate_right)
    | (extract_lets +onlyGivenNames x; clear_value x)
    | split
    | with_reducible refine Keeps.foldl ?_ (fun _ _ _ => ?_)
    | (unfold Keeps; dsimp only; refine (?_ : Keeps _ _))

theorem stepTwo_keeps {r s : State} {a1} (h : Keeps r s) : Keeps r (stepTwo a1 s) := by
  unfold stepTwo
  repeat' first
    | with_reducible assumption
    | (with_reducible apply notify_keeps)
    | (extract_lets +onlyGivenNames x; clear_value x)
    | (unfold Keeps; dsimp only; refine (?_ : Keeps _ _))

theorem stepActs_keeps {r s : State} {a1} (h : Keeps r s) : Keeps r (stepActs a1 s) := by
  unfold stepActs
  repeat' first
    | with_reducible assumption
    | (with_reducible apply settleShed_keeps)
    | (with_reducible apply stepTwo_keeps)
    | (with_reducible apply stepThree_keeps)
    | (extract_lets +onlyGivenNames x; have hx : Keeps r x := ?_; clear_value x; rotate_left; subst x; rotate_right)
    | split

theorem execTempSensorConversion_keeps {r s : State} {a1 a2} (h : Keeps r s) : KeepsO r (execTempSensorConversion a1 a2 s) := by
  unfold execTempSensorConversion
  repeat' first
    | with_reducible assumption
    | (intro _)
    | (with_reducible apply onEvent_keeps)
    | (with_reducible apply raise_keeps)
    | (with_reducible apply stepActs_keeps)
    | (extract_lets +onlyGivenNames x; clear_value x)
    | split
    | (dsimp -zeta only)
    | (unfold Keeps; dsimp only; refine (?_ : Keeps _ _))

theorem clockNoRef_keeps {r s : State} (h : Keeps r s) : Keeps r (clockNoRef s) := by
  unfold clockNoRef
  repeat' first
    | with_reducible assumption
    | (with_reducible apply enterHoldover_keeps)
    | (with_reducible apply modClk_keeps)
    | split

theorem releaseAll_keeps {r s : State} (h : Keeps r s) : Keeps r (releaseAll s) := by
  unfold releaseAll
  repeat' first
    | with_reducible assumption
    | (with_reducible apply settlePermits_keeps)
    | (unfold Keeps; dsimp only; refine (?_ : Keeps _ _))

theorem execRefclkSysFail_keeps {r s : State} {a1} (h : Keeps r s) : KeepsO r (execRefclkSysFail a1 s) := by
  unfold execRefclkSysFail
  repeat' first
    | with_reducible assumption
    | (intro _)
    | (with_reducible apply onEvent_keeps)
    | (with_reducible apply clockNoRef_keeps)
    | (with_reducible apply releaseAll_keeps)
    | (with_reducible apply raise_keeps)
    | split
    | (unfold Keeps; dsimp only; refine (?_ : Keeps _ _))

theorem execRefclkSysRecover_keeps {r s : State} {a1} (h : Keeps r s) : KeepsO r (execRefclkSysRecover a1 s) := by
  unfold execRefclkSysRecover
  repeat' first
    | with_reducible assumption
    | (intro _)
    | (with_reducible apply onEvent_keeps)
    | (with_reducible apply clearFault_keeps)
    | (extract_lets +onlyGivenNames x; clear_value x)
    | split
    | (unfold Keeps; dsimp only; refine (?_ : Keeps _ _))

/-! ### Machine/Reset -/

theorem finishWrite_keeps {r s : State} (h : Keeps r s) : Keeps r (finishWrite s) := by
  unfold finishWrite
  repeat' first
    | with_reducible assumption
    | (with_reducible apply writeDurable_keeps)
    | (with_reducible apply popWrite_keeps)
    | (with_reducible apply countWrite_keeps)
    | split

theorem saveNumbers_keeps {r s : State} (h : Keeps r s) : Keeps r (saveNumbers s) := by
  unfold saveNumbers
  repeat' first
    | with_reducible assumption
    | (with_reducible apply saveFloor_keeps)
    | (extract_lets +onlyGivenNames x; have hx : Keeps r x := ?_; clear_value x; rotate_left; subst x; rotate_right)
    | (extract_lets +onlyGivenNames x; clear_value x)
    | (unfold Keeps; dsimp only; refine (?_ : Keeps _ _))

theorem powerSaves_keeps {r s : State} (h : Keeps r s) : Keeps r (powerSaves s) := by
  unfold powerSaves
  dsimp only
  repeat' split
  all_goals first
    | exact h
    | exact saveNumbers_keeps (finishWrite_keeps h)
    | exact selfRefresh_keeps h
    | exact selfRefresh_keeps (selfRefresh_keeps h)
    | exact selfRefresh_keeps (saveNumbers_keeps (finishWrite_keeps h))
    | exact selfRefresh_keeps (selfRefresh_keeps (saveNumbers_keeps (finishWrite_keeps h)))

theorem resetBlock_keeps {r s : State} {a1} (h : Keeps r s) : Keeps r (resetBlock a1 s) :=
  ⟨h.1, h.2.1, fun _ => rfl, fun _ => SlotsOk.nil _, h.2.2.2.2.1, h.2.2.2.2.2⟩

theorem startBoot_keeps {r s : State} {a1} (h : Keeps r s) : Keeps r (startBoot a1 s) := by
  unfold startBoot
  repeat' first
    | with_reducible assumption
    | (extract_lets +onlyGivenNames x; clear_value x)
    | (unfold Keeps; dsimp only; refine (?_ : Keeps _ _))

theorem execReset_keeps {r s : State} {a1 a2} (h : Keeps r s) : KeepsO r (execReset a1 a2 s) := by
  unfold execReset
  repeat' first
    | with_reducible assumption
    | (intro _)
    | (with_reducible apply onStart_keeps)
    | (with_reducible apply startBoot_keeps)
    | (with_reducible apply resetBlock_keeps)
    | (with_reducible apply powerSaves_keeps)
    | (with_reducible apply dropPermits_keeps)

theorem execResetPinAssert_keeps {r s : State} {a1 a2} (h : Keeps r s) : KeepsO r (execResetPinAssert a1 a2 s) := by
  unfold execResetPinAssert
  repeat' first
    | with_reducible assumption
    | (intro _)
    | (with_reducible apply onEvent_keeps)
    | (with_reducible apply resetBlock_keeps)
    | (extract_lets +onlyGivenNames x; have hx : Keeps r x := ?_; clear_value x; rotate_left; subst x; rotate_right)
    | (extract_lets +onlyGivenNames x; clear_value x)
    | split
    | (unfold Keeps; dsimp only; refine (?_ : Keeps _ _))

theorem execResetNRelease_keeps {r s : State} {a1} (h : Keeps r s) : KeepsO r (execResetNRelease a1 s) := by
  unfold execResetNRelease
  repeat' first
    | with_reducible assumption
    | (intro _)
    | (with_reducible apply onEvent_keeps)
    | (with_reducible apply resetBlock_keeps)
    | (with_reducible apply startBoot_keeps)
    | (extract_lets +onlyGivenNames x; have hx : Keeps r x := ?_; clear_value x; rotate_left; subst x; rotate_right)
    | (extract_lets +onlyGivenNames x; clear_value x)
    | split
    | (unfold Keeps; dsimp only; refine (?_ : Keeps _ _))

theorem execWatchdogReset_keeps {r s : State} {a1} (h : Keeps r s) : KeepsO r (execWatchdogReset a1 s) := by
  unfold execWatchdogReset
  repeat' first
    | with_reducible assumption
    | (intro _)
    | (with_reducible apply onEvent_keeps)
    | (with_reducible apply startBoot_keeps)
    | (with_reducible apply resetBlock_keeps)
    | split

theorem execJunctionTrip_keeps {r s : State} {a1} (h : Keeps r s) : KeepsO r (execJunctionTrip a1 s) := by
  unfold execJunctionTrip
  repeat' first
    | with_reducible assumption
    | (intro _)
    | (with_reducible apply onEvent_keeps)
    | (with_reducible apply resetBlock_keeps)
    | (extract_lets +onlyGivenNames x; have hx : Keeps r x := ?_; clear_value x; rotate_left; subst x; rotate_right)
    | (extract_lets +onlyGivenNames x; clear_value x)
    | split
    | (unfold Keeps; dsimp only; refine (?_ : Keeps _ _))

theorem execPowerDownNotice_keeps {r s : State} {a1} (h : Keeps r s) : KeepsO r (execPowerDownNotice a1 s) := by
  unfold execPowerDownNotice
  repeat' first
    | with_reducible assumption
    | (intro _)
    | (with_reducible apply onEvent_keeps)
    | (with_reducible apply resetBlock_keeps)
    | (with_reducible apply powerSaves_keeps)
    | (with_reducible apply releaseAll_keeps)
    | (extract_lets +onlyGivenNames x; have hx : Keeps r x := ?_; clear_value x; rotate_left; subst x; rotate_right)
    | (extract_lets +onlyGivenNames x; clear_value x)
    | split
    | (unfold Keeps; dsimp only; refine (?_ : Keeps _ _))

theorem aonLoss_keeps {r s : State} (h : Keeps r s) : Keeps r (aonLoss s) := by
  unfold aonLoss
  repeat' first
    | with_reducible assumption
    | (extract_lets +onlyGivenNames x; clear_value x)
    | (unfold Keeps; dsimp only; refine (?_ : Keeps _ _))

theorem execUnannouncedPowerLoss_keeps {r s : State} {a1 a2} (h : Keeps r s) : KeepsO r (execUnannouncedPowerLoss a1 a2 s) := by
  unfold execUnannouncedPowerLoss
  repeat' first
    | with_reducible assumption
    | (intro _)
    | (with_reducible apply onEvent_keeps)
    | (with_reducible apply resetBlock_keeps)
    | (with_reducible apply aonLoss_keeps)
    | (extract_lets +onlyGivenNames x; have hx : Keeps r x := ?_; clear_value x; rotate_left; subst x; rotate_right)
    | (extract_lets +onlyGivenNames x; clear_value x)
    | split
    | (unfold Keeps; dsimp only; refine (?_ : Keeps _ _))

theorem execAonSupplySwitch_keeps {r s : State} {a1 a2 a3} (h : Keeps r s) : KeepsO r (execAonSupplySwitch a1 a2 a3 s) := by
  unfold execAonSupplySwitch
  repeat' first
    | with_reducible assumption
    | (intro _)
    | (with_reducible apply onEvent_keeps)
    | (with_reducible apply aonLoss_keeps)
    | (extract_lets +onlyGivenNames x; have hx : Keeps r x := ?_; clear_value x; rotate_left; subst x; rotate_right)
    | (extract_lets +onlyGivenNames x; clear_value x)
    | split
    | (unfold Keeps; dsimp only; refine (?_ : Keeps _ _))

/-! ### Machine/Boot -/

theorem bootTo_keeps {r s : State} {a1} (h : Keeps r s) : Keeps r (bootTo a1 s) := by
  unfold bootTo
  repeat' first
    | with_reducible assumption
    | (extract_lets +onlyGivenNames x; clear_value x)
    | (unfold Keeps; dsimp only; refine (?_ : Keeps _ _))

theorem bootFail_keeps {r s : State} {a1} (h : Keeps r s) : Keeps r (bootFail a1 s) := by
  unfold bootFail
  repeat' first
    | with_reducible assumption
    | (extract_lets +onlyGivenNames x; clear_value x)
    | (unfold Keeps; dsimp only; refine (?_ : Keeps _ _))

theorem execBootSelftestsDone_keeps {r s : State} {a1 a2} (h : Keeps r s) : KeepsO r (execBootSelftestsDone a1 a2 s) := by
  unfold execBootSelftestsDone
  repeat' first
    | with_reducible assumption
    | (intro _)
    | (with_reducible apply onEvent_keeps)
    | (with_reducible apply bootTo_keeps)
    | (with_reducible apply bootFail_keeps)
    | (extract_lets +onlyGivenNames x; clear_value x)
    | split
    | (unfold Keeps; dsimp only; refine (?_ : Keeps _ _))

theorem bootImage_keeps {r s : State} {a1 a2} (h : Keeps r s) : Keeps r (bootImage a1 a2 s) := by
  unfold bootImage
  repeat' first
    | with_reducible assumption
    | (with_reducible apply bootTo_keeps)
    | (with_reducible apply setImage_keeps)
    | (extract_lets +onlyGivenNames x; clear_value x)
    | (unfold Keeps; dsimp only; refine (?_ : Keeps _ _))

theorem execBootImageVerified_keeps {r s : State} {a1 a2 a3} (h : Keeps r s) : KeepsO r (execBootImageVerified a1 a2 a3 s) := by
  unfold execBootImageVerified
  repeat' first
    | with_reducible assumption
    | (intro _)
    | (with_reducible apply onEvent_keeps)
    | (with_reducible apply bootImage_keeps)
    | (with_reducible apply bootFail_keeps)
    | (with_reducible apply bootTo_keeps)
    | (extract_lets +onlyGivenNames x; clear_value x)
    | split

theorem deliveryValue_keeps {r s : State} {a2} (h : Keeps r s) : Keeps r (deliveryValue s a2) := by
  unfold deliveryValue
  repeat' first
    | with_reducible assumption
    | (extract_lets +onlyGivenNames x; clear_value x)
    | split
    | (dsimp -zeta only)
    | (unfold Keeps; dsimp only; refine (?_ : Keeps _ _))

theorem readConfig_keeps {r s : State} (h : Keeps r s) : Keeps r (readConfig s) := by
  unfold readConfig
  repeat' first
    | with_reducible assumption
    | (with_reducible apply deliveryValue_keeps)
    | (extract_lets +onlyGivenNames x; have hx : Keeps r x := ?_; clear_value x; rotate_left; subst x; rotate_right)
    | (extract_lets +onlyGivenNames x; clear_value x)
    | with_reducible refine Keeps.foldl ?_ (fun _ _ _ => ?_)
    | (unfold Keeps; dsimp only; refine (?_ : Keeps _ _))

theorem startClock_keeps {r s : State} (h : Keeps r s) : Keeps r (startClock s) := by
  unfold startClock
  repeat' first
    | with_reducible assumption
    | (with_reducible apply clockBoot_keeps)
    | (extract_lets +onlyGivenNames x; have hx : Keeps r x := ?_; clear_value x; rotate_left; subst x; rotate_right)
    | (extract_lets +onlyGivenNames x; clear_value x)
    | split
    | (unfold Keeps; dsimp only; refine (?_ : Keeps _ _))

theorem execBootCoresStarted_keeps {r s : State} {a1 a2} (h : Keeps r s) : KeepsO r (execBootCoresStarted a1 a2 s) := by
  unfold execBootCoresStarted
  repeat' first
    | with_reducible assumption
    | (intro _)
    | (with_reducible apply onEvent_keeps)
    | (with_reducible apply bootFail_keeps)
    | (with_reducible apply setInt_keeps)
    | (with_reducible apply bootTo_keeps)
    | (with_reducible apply startClock_keeps)
    | (with_reducible apply readConfig_keeps)
    | (extract_lets +onlyGivenNames x; have hx : Keeps r x := ?_; clear_value x; rotate_left; subst x; rotate_right)
    | (extract_lets +onlyGivenNames x; clear_value x)
    | split
    | (unfold Keeps; dsimp only; refine (?_ : Keeps _ _))

theorem execBootWellTrained_keeps {r s : State} {a1 a2 a3} (h : Keeps r s) : KeepsO r (execBootWellTrained a1 a2 a3 s) := by
  unfold execBootWellTrained
  repeat' first
    | with_reducible assumption
    | (intro _)
    | (with_reducible apply onEvent_keeps)
    | (with_reducible apply bootFail_keeps)
    | (with_reducible apply huntLane_keeps)
    | (with_reducible apply bootTo_keeps)
    | (extract_lets +onlyGivenNames x; have hx : Keeps r x := ?_; clear_value x; rotate_left; subst x; rotate_right)
    | (extract_lets +onlyGivenNames x; (first | (have hw : (x : Well) = x := rfl) | (have hw : (x : Cmd) = x := rfl) | (have hw : (x : _ → State) = x := rfl) | (have hw : (x : _ → _ → State) = x := rfl) | (have hw : (x : _ → _ → _ → State) = x := rfl) | (have hw : (x : _ → _ → _ → _ → State) = x := rfl)); clear hw; subst x)
    | (extract_lets +onlyGivenNames x; clear_value x)
    | split
    | with_reducible refine Keeps.foldl ?_ (fun _ _ _ => ?_)
    | (unfold Keeps; dsimp only; refine (?_ : Keeps _ _))

theorem execBootLaneStageEnd_keeps {r s : State} {a1} (h : Keeps r s) : KeepsO r (execBootLaneStageEnd a1 s) := by
  unfold execBootLaneStageEnd
  repeat' first
    | with_reducible assumption
    | (intro _)
    | (with_reducible apply onEvent_keeps)
    | (extract_lets +onlyGivenNames x; clear_value x)
    | split
    | (unfold Keeps; dsimp only; refine (?_ : Keeps _ _))

theorem resume_keeps {r s : State} (h : Keeps r s) : Keeps r (resume s) := by
  unfold resume
  repeat' first
    | with_reducible assumption
    | (with_reducible apply becomeCopying_keeps)
    | (with_reducible apply abandonAll_keeps)
    | (with_reducible apply replay_keeps)
    | (extract_lets +onlyGivenNames x; have hx : Keeps r x := ?_; clear_value x; rotate_left; subst x; rotate_right)
    | (extract_lets +onlyGivenNames x; clear_value x)
    | split
    | (unfold Keeps; dsimp only; refine (?_ : Keeps _ _))

theorem execDeviceReady_keeps {r s : State} {a1} (h : Keeps r s) : KeepsO r (execDeviceReady a1 s) := by
  unfold execDeviceReady
  repeat' first
    | with_reducible assumption
    | (intro _)
    | (with_reducible apply onEvent_keeps)
    | (with_reducible apply setInt_keeps)
    | (with_reducible apply bootTo_keeps)
    | (with_reducible apply raise_keeps)
    | (with_reducible apply resume_keeps)
    | (with_reducible apply setMode_keeps)
    | (extract_lets +onlyGivenNames x; have hx : Keeps r x := ?_; clear_value x; rotate_left; subst x; rotate_right)
    | (extract_lets +onlyGivenNames x; clear_value x)
    | split
    | (unfold Keeps; dsimp only; refine (?_ : Keeps _ _))

/-! ### Machine/Learn -/

theorem wantTargets_keeps {r s : State} (h : Keeps r s) : Keeps r (wantTargets s) := by
  unfold wantTargets
  repeat' first
    | with_reducible assumption
    | (extract_lets +onlyGivenNames x; clear_value x)
    | split
    | (unfold Keeps; dsimp only; refine (?_ : Keeps _ _))

theorem setLive_keeps {r s : State} {a1 a2} (h : Keeps r s) : Keeps r (setLive a1 a2 s) := by
  unfold setLive
  repeat' first
    | with_reducible assumption
    | (extract_lets +onlyGivenNames x; clear_value x)
    | (unfold Keeps; dsimp only; refine (?_ : Keeps _ _))

theorem execPlacementLearn_keeps {r s : State} {a1 a2} (h : Keeps r s) : KeepsO r (execPlacementLearn a1 a2 s) := by
  unfold execPlacementLearn
  repeat' first
    | with_reducible assumption
    | (intro _)
    | (with_reducible apply onStart_keeps)
    | (with_reducible apply refuse_keeps)
    | (with_reducible apply done_keeps)
    | (with_reducible apply setLive_keeps)
    | (with_reducible apply wantTargets_keeps)
    | (with_reducible apply keepEpochs_keeps)
    | (extract_lets +onlyGivenNames x; have hx : Keeps r x := ?_; clear_value x; rotate_left; subst x; rotate_right)
    | (extract_lets +onlyGivenNames x; clear_value x)
    | split
    | (unfold Keeps; dsimp only; refine (?_ : Keeps _ _))

theorem finishLearn_keeps {r s : State} {a1} (h : Keeps r s) : Keeps r (finishLearn a1 s) := by
  unfold finishLearn
  repeat' first
    | with_reducible assumption
    | (with_reducible apply raise_keeps)
    | (with_reducible apply retireElement_keeps)
    | (with_reducible apply finish_keeps)
    | (with_reducible apply putCal_keeps)
    | (extract_lets +onlyGivenNames x; have hx : Keeps r x := ?_; clear_value x; rotate_left; subst x; rotate_right)
    | (extract_lets +onlyGivenNames x; clear_value x)
    | split
    | with_reducible refine Keeps.foldl ?_ (fun _ _ _ => ?_)
    | (unfold Keeps; dsimp only; refine (?_ : Keeps _ _))

theorem noteTarget_keeps {r s : State} {a1} (h : Keeps r s) : Keeps r (noteTarget a1 s) := by
  unfold noteTarget
  dsimp only
  repeat' split
  all_goals first
    | exact h
    | exact finishLearn_keeps h
    | (apply wantTargets_keeps; exact h)

theorem correctRow_keeps {r s : State} {a1 a2 a3 a4} (h : Keeps r s) : Keeps r (correctRow a1 a2 a3 a4 s) := by
  unfold correctRow
  repeat' first
    | with_reducible assumption
    | (with_reducible apply raise_keeps)
    | (with_reducible apply putCal_keeps)
    | (extract_lets +onlyGivenNames x; have hx : Keeps r x := ?_; clear_value x; rotate_left; subst x; rotate_right)
    | (extract_lets +onlyGivenNames x; clear_value x)
    | split
    | (unfold Keeps; dsimp only; refine (?_ : Keeps _ _))

theorem settleLive_keeps {r s : State} (h : Keeps r s) : Keeps r (settleLive s) := by
  unfold settleLive
  repeat' first
    | with_reducible assumption
    | (with_reducible apply correctRow_keeps)
    | (extract_lets +onlyGivenNames x; have hx : Keeps r x := ?_; clear_value x; rotate_left; subst x; rotate_right)
    | (extract_lets +onlyGivenNames x; clear_value x)
    | split
    | with_reducible refine Keeps.foldl ?_ (fun _ _ _ => ?_)
    | (unfold Keeps; dsimp only; refine (?_ : Keeps _ _))

theorem execImageGraded_keeps {r s : State} {a1 a2 a3 a4 a5} (h : Keeps r s) : KeepsO r (execImageGraded a1 a2 a3 a4 a5 s) := by
  unfold execImageGraded
  repeat' first
    | with_reducible assumption
    | (intro _)
    | (with_reducible apply onEvent_keeps)
    | (with_reducible apply noteTarget_keeps)
    | (with_reducible apply modProduct_keeps)
    | (with_reducible apply settleLive_keeps)
    | (with_reducible apply dropFrames_keeps)
    | (with_reducible apply settleVerify_keeps)
    | (extract_lets +onlyGivenNames x; clear_value x)
    | split
    | (unfold Keeps; dsimp only; refine (?_ : Keeps _ _))

/-! ### Machine/Tamper -/

theorem execTamperTrip_keeps {r s : State} {a1 a2} (h : Keeps r s) : KeepsO r (execTamperTrip a1 a2 s) := by
  unfold execTamperTrip
  repeat' first
    | with_reducible assumption
    | (intro _)
    | (with_reducible apply onEvent_keeps)
    | (with_reducible apply zeroise_keeps)
    | split

theorem execZeroiseReset_keeps {r s : State} {a1} (h : Keeps r s) : KeepsO r (execZeroiseReset a1 s) := by
  unfold execZeroiseReset
  repeat' first
    | with_reducible assumption
    | (intro _)
    | (with_reducible apply onEvent_keeps)
    | (with_reducible apply startBoot_keeps)
    | (with_reducible apply resetBlock_keeps)
    | split

theorem execTamperHoldStart_keeps {r s : State} {a1 a2} (h : Keeps r s) : KeepsO r (execTamperHoldStart a1 a2 s) := by
  unfold execTamperHoldStart
  repeat' first
    | with_reducible assumption
    | (intro _)
    | (with_reducible apply onEvent_keeps)
    | (with_reducible apply logTamper_keeps)
    | (with_reducible apply raise_keeps)
    | (extract_lets +onlyGivenNames x; have hx : Keeps r x := ?_; clear_value x; rotate_left; subst x; rotate_right)
    | (extract_lets +onlyGivenNames x; clear_value x)
    | split
    | (unfold Keeps; dsimp only; refine (?_ : Keeps _ _))

theorem execTamperHoldClear_keeps {r s : State} {a1} (h : Keeps r s) : KeepsO r (execTamperHoldClear a1 s) := by
  unfold execTamperHoldClear
  repeat' first
    | with_reducible assumption
    | (intro _)
    | (with_reducible apply onEvent_keeps)
    | (with_reducible apply clearFault_keeps)
    | (extract_lets +onlyGivenNames x; clear_value x)
    | split
    | (unfold Keeps; dsimp only; refine (?_ : Keeps _ _))

theorem execTamperHoldTimeout_keeps {r s : State} {a1} (h : Keeps r s) : KeepsO r (execTamperHoldTimeout a1 s) := by
  unfold execTamperHoldTimeout
  repeat' first
    | with_reducible assumption
    | (intro _)
    | (with_reducible apply onEvent_keeps)
    | (with_reducible apply zeroise_keeps)
    | split

theorem execDeviceFaultClear_keeps {r s : State} {a1 a2} (h : Keeps r s) : KeepsO r (execDeviceFaultClear a1 a2 s) := by
  unfold execDeviceFaultClear
  repeat' first
    | with_reducible assumption
    | (intro _)
    | (with_reducible apply onEvent_keeps)
    | (with_reducible apply clearFault_keeps)
    | split

theorem execSquareTimeout_keeps {r s : State} {a1 a2 a3 a4} (h : Keeps r s) : KeepsO r (execSquareTimeout a1 a2 a3 a4 s) := by
  unfold execSquareTimeout
  repeat' first
    | with_reducible assumption
    | (intro _)
    | (with_reducible apply onEvent_keeps)
    | (with_reducible apply raise_keeps)
    | (with_reducible apply takeResult_keeps)
    | (extract_lets +onlyGivenNames x; have hx : Keeps r x := ?_; clear_value x; rotate_left; subst x; rotate_right)
    | split

theorem execTapInstructionLoad_keeps {r s : State} {a1 a2} (h : Keeps r s) : KeepsO r (execTapInstructionLoad a1 a2 s) := by
  unfold execTapInstructionLoad
  repeat' first
    | with_reducible assumption
    | (intro _)
    | (with_reducible apply onEvent_keeps)
    | (extract_lets +onlyGivenNames x; clear_value x)
    | split
    | (unfold Keeps; dsimp only; refine (?_ : Keeps _ _))

/-! ### Machine/Mailbox -/

theorem mbxWrite_keeps {r s : State} {a1} (h : Keeps r s) : Keeps r (mbxWrite a1 s) := by
  unfold mbxWrite
  repeat' first
    | with_reducible assumption
    | (with_reducible apply emit_keeps)
    | (extract_lets +onlyGivenNames x; clear_value x)
    | (unfold Keeps; dsimp only; refine (?_ : Keeps _ _))

theorem execMbxBootLog_keeps {r s : State} {a1} (h : Keeps r s) : KeepsO r (execMbxBootLog a1 s) := by
  unfold execMbxBootLog
  repeat' first
    | with_reducible assumption
    | (intro _)
    | (with_reducible apply onEvent_keeps)
    | (with_reducible apply mbxWrite_keeps)
    | split

theorem execMbxDeviceCert_keeps {r s : State} {a1} (h : Keeps r s) : KeepsO r (execMbxDeviceCert a1 s) := by
  unfold execMbxDeviceCert
  repeat' first
    | with_reducible assumption
    | (intro _)
    | (with_reducible apply onEvent_keeps)
    | (with_reducible apply mbxWrite_keeps)
    | split

theorem execMbxRecoveryLoad_keeps {r s : State} {a1} (h : Keeps r s) : KeepsO r (execMbxRecoveryLoad a1 s) := by
  unfold execMbxRecoveryLoad
  repeat' first
    | with_reducible assumption
    | (intro _)
    | (with_reducible apply onEvent_keeps)
    | (extract_lets +onlyGivenNames x; clear_value x)
    | split
    | (unfold Keeps; dsimp only; refine (?_ : Keeps _ _))

theorem retryBoot_keeps {r s : State} (h : Keeps r s) : Keeps r (retryBoot s) := by
  unfold retryBoot
  repeat' first
    | with_reducible assumption
    | (extract_lets +onlyGivenNames x; clear_value x)
    | (unfold Keeps; dsimp only; refine (?_ : Keeps _ _))

theorem execMbxRetryBoot_keeps {r s : State} {a1} (h : Keeps r s) : KeepsO r (execMbxRetryBoot a1 s) := by
  unfold execMbxRetryBoot
  repeat' first
    | with_reducible assumption
    | (intro _)
    | (with_reducible apply onEvent_keeps)
    | (with_reducible apply retryBoot_keeps)
    | (extract_lets +onlyGivenNames x; clear_value x)
    | split
    | (unfold Keeps; dsimp only; refine (?_ : Keeps _ _))

theorem mbxEnd_keeps {r s : State} {a1} (h : Keeps r s) : Keeps r (mbxEnd a1 s) := by
  unfold mbxEnd
  repeat' first
    | with_reducible assumption
    | (with_reducible apply setInt_keeps)
    | (extract_lets +onlyGivenNames x; clear_value x)
    | (unfold Keeps; dsimp only; refine (?_ : Keeps _ _))

theorem endRecovery_keeps {r s : State} {a1 a2} (h : Keeps r s) : Keeps r (endRecovery a1 a2 s) := by
  unfold endRecovery
  repeat' first
    | with_reducible assumption
    | (with_reducible apply mbxEnd_keeps)
    | (with_reducible apply retryBoot_keeps)
    | (with_reducible apply setImage_keeps)
    | (with_reducible apply emptyImage_keeps)
    | split
    | (unfold Keeps; dsimp only; refine (?_ : Keeps _ _))

theorem execMailboxOperationEnd_keeps {r s : State} {a1 a2 a3} (h : Keeps r s) : KeepsO r (execMailboxOperationEnd a1 a2 a3 s) := by
  unfold execMailboxOperationEnd
  repeat' first
    | with_reducible assumption
    | (intro _)
    | (with_reducible apply onEvent_keeps)
    | (with_reducible apply endRecovery_keeps)
    | (with_reducible apply mbxEnd_keeps)
    | split

/-! ### Machine/Net -/

theorem askNeighbour_keeps {r s : State} {a1 a2} (h : Keeps r s) : Keeps r (askNeighbour a1 a2 s) := by
  unfold askNeighbour
  repeat' first
    | with_reducible assumption
    | (with_reducible apply emit_keeps)

theorem answerNeighbour_keeps {r s : State} {a1 a2 a3 a4} (h : Keeps r s) : Keeps r (answerNeighbour a1 a2 a3 a4 s) := by
  unfold answerNeighbour
  repeat' first
    | with_reducible assumption
    | (with_reducible apply emit_keeps)

theorem execArpRequestReceive_keeps {r s : State} {a1 a2 a3 a4} (h : Keeps r s) : KeepsO r (execArpRequestReceive a1 a2 a3 a4 s) := by
  unfold execArpRequestReceive
  repeat' first
    | with_reducible assumption
    | (intro _)
    | (with_reducible apply onEvent_keeps)
    | (with_reducible apply answerNeighbour_keeps)
    | (extract_lets +onlyGivenNames x; clear_value x)
    | split

theorem execNeighborSolicitReceive_keeps {r s : State} {a1 a2 a3 a4} (h : Keeps r s) : KeepsO r (execNeighborSolicitReceive a1 a2 a3 a4 s) := by
  unfold execNeighborSolicitReceive
  repeat' first
    | with_reducible assumption
    | (intro _)
    | (with_reducible apply onEvent_keeps)
    | (with_reducible apply answerNeighbour_keeps)
    | (extract_lets +onlyGivenNames x; clear_value x)
    | split

theorem execIcmpEchoReceive_keeps {r s : State} {a1 a2 a3 a4 a5} (h : Keeps r s) : KeepsO r (execIcmpEchoReceive a1 a2 a3 a4 a5 s) := by
  unfold execIcmpEchoReceive
  repeat' first
    | with_reducible assumption
    | (intro _)
    | (with_reducible apply onEvent_keeps)
    | (with_reducible apply emit_keeps)
    | split

theorem execRouterAdvertReceive_keeps {r s : State} {a1 a2 a3} (h : Keeps r s) : KeepsO r (execRouterAdvertReceive a1 a2 a3 s) := by
  unfold execRouterAdvertReceive
  repeat' first
    | with_reducible assumption
    | (intro _)
    | (with_reducible apply onEvent_keeps)
    | split
    | (unfold Keeps; dsimp only; refine (?_ : Keeps _ _))

theorem execArpReplyReceive_keeps {r s : State} {a1 a2 a3 a4} (h : Keeps r s) : KeepsO r (execArpReplyReceive a1 a2 a3 a4 s) := by
  unfold execArpReplyReceive
  repeat' first
    | with_reducible assumption
    | (intro _)
    | (with_reducible apply onEvent_keeps)
    | split
    | (unfold Keeps; dsimp only; refine (?_ : Keeps _ _))

theorem execNetRateHuntSwitch_keeps {r s : State} {a1 a2} (h : Keeps r s) : KeepsO r (execNetRateHuntSwitch a1 a2 s) := by
  unfold execNetRateHuntSwitch
  repeat' first
    | with_reducible assumption
    | (intro _)
    | (with_reducible apply onEvent_keeps)
    | (with_reducible apply modLane_keeps)
    | (extract_lets +onlyGivenNames x; clear_value x)
    | split
    | (unfold Keeps; dsimp only; refine (?_ : Keeps _ _))

/-! ### Machine/Records -/

theorem sendBlock_keeps {r s : State} {a1 a2} (h : Keeps r s) : Keeps r (sendBlock a1 a2 s) := by
  unfold sendBlock
  repeat' first
    | with_reducible assumption
    | (with_reducible apply emit_keeps)
    | (with_reducible apply askNeighbour_keeps)
    | (extract_lets +onlyGivenNames x; clear_value x)
    | split

theorem deliver_keeps {r s : State} {a1} (h : Keeps r s) : Keeps r (deliver a1 s) := by
  unfold deliver
  repeat' first
    | with_reducible assumption
    | (with_reducible apply queueUnits_keeps)
    | (with_reducible apply sendBlock_keeps)
    | (extract_lets +onlyGivenNames x; have hx : Keeps r x := ?_; clear_value x; rotate_left; subst x; rotate_right)
    | (extract_lets +onlyGivenNames x; clear_value x)
    | split
    | with_reducible refine Keeps.foldl ?_ (fun _ _ _ => ?_)
    | (unfold Keeps; dsimp only; refine (?_ : Keeps _ _))

theorem execRecordBlockClose_keeps {r s : State} {a1 a2} (h : Keeps r s) : KeepsO r (execRecordBlockClose a1 a2 s) := by
  unfold execRecordBlockClose
  repeat' first
    | with_reducible assumption
    | (intro _)
    | (with_reducible apply onEvent_keeps)
    | (with_reducible apply raise_keeps)
    | (with_reducible apply deliver_keeps)
    | (extract_lets +onlyGivenNames x; have hx : Keeps r x := ?_; clear_value x; rotate_left; subst x; rotate_right)
    | (extract_lets +onlyGivenNames x; clear_value x)
    | split
    | (unfold Keeps; dsimp only; refine (?_ : Keeps _ _))

theorem execRecordStreamAck_keeps {r s : State} {a1 a2 a3} (h : Keeps r s) : KeepsO r (execRecordStreamAck a1 a2 a3 s) := by
  unfold execRecordStreamAck
  repeat' first
    | with_reducible assumption
    | (intro _)
    | (with_reducible apply onEvent_keeps)
    | (with_reducible apply dropBlocks_keeps)
    | (with_reducible apply blockExported_keeps)
    | (extract_lets +onlyGivenNames x; have hx : Keeps r x := ?_; clear_value x; rotate_left; subst x; rotate_right)
    | (extract_lets +onlyGivenNames x; clear_value x)
    | split
    | with_reducible refine Keeps.foldl ?_ (fun _ _ _ => ?_)
    | (unfold Keeps; dsimp only; refine (?_ : Keeps _ _))

theorem execRecordBlockResend_keeps {r s : State} {a1 a2} (h : Keeps r s) : KeepsO r (execRecordBlockResend a1 a2 s) := by
  unfold execRecordBlockResend
  repeat' first
    | with_reducible assumption
    | (intro _)
    | (with_reducible apply onEvent_keeps)
    | (with_reducible apply deliver_keeps)
    | split

theorem execJournalRead_keeps {r s : State} {a1 a2} (h : Keeps r s) : KeepsO r (execJournalRead a1 a2 s) := by
  unfold execJournalRead
  repeat' first
    | with_reducible assumption
    | (intro _)
    | (with_reducible apply onStart_keeps)
    | (with_reducible apply refuse_keeps)
    | (with_reducible apply answer_keeps)
    | (with_reducible apply queueUnits_keeps)
    | (extract_lets +onlyGivenNames x; clear_value x)
    | split

/-! ### Machine/Status -/

theorem execStatus_keeps {r s : State} {a1 a2} (h : Keeps r s) : KeepsO r (execStatus a1 a2 s) := by
  unfold execStatus
  repeat' first
    | with_reducible assumption
    | (intro _)
    | (with_reducible apply onStart_keeps)
    | (with_reducible apply answer_keeps)

theorem dropUnits_keeps {r s : State} {a1} (h : Keeps r s) : Keeps r (dropUnits a1 s) := by
  unfold dropUnits
  repeat' first
    | with_reducible assumption
    | (extract_lets +onlyGivenNames x; clear_value x)
    | (unfold Keeps; dsimp only; refine (?_ : Keeps _ _))

theorem freeUnits_keeps {r s : State} {a1} (h : Keeps r s) : Keeps r (freeUnits a1 s) := by
  unfold freeUnits
  repeat' first
    | with_reducible assumption
    | (extract_lets +onlyGivenNames x; clear_value x)
    | (unfold Keeps; dsimp only; refine (?_ : Keeps _ _))

theorem dropInput_keeps {r s : State} {a1} (h : Keeps r s) : Keeps r (dropInput a1 s) := by
  unfold dropInput
  repeat' first
    | with_reducible assumption
    | (extract_lets +onlyGivenNames x; clear_value x)
    | (unfold Keeps; dsimp only; refine (?_ : Keeps _ _))

theorem cancelSwitch_keeps {r s : State} {a1} (h : Keeps r s) : Keeps r (cancelSwitch a1 s) := by
  unfold cancelSwitch
  repeat' first
    | with_reducible assumption
    | (with_reducible apply voidFault_keeps)
    | (with_reducible apply modProduct_keeps)
    | (extract_lets +onlyGivenNames x; have hx : Keeps r x := ?_; clear_value x; rotate_left; subst x; rotate_right)
    | (extract_lets +onlyGivenNames x; clear_value x)
    | split
    | with_reducible refine Keeps.foldl ?_ (fun _ _ _ => ?_)
    | (unfold Keeps; dsimp only; refine (?_ : Keeps _ _))

theorem undoGate_keeps {r s : State} {a1 a3} (h : Keeps r s) : Keeps r (undoGate a1 s a3) := by
  unfold undoGate
  repeat' first
    | with_reducible assumption
    | (extract_lets +onlyGivenNames x; have hx : Keeps r x := ?_; clear_value x; rotate_left; subst x; rotate_right)
    | (extract_lets +onlyGivenNames x; clear_value x)
    | split
    | (unfold Keeps; dsimp only; refine (?_ : Keeps _ _))

theorem dropPowerReq_keeps {r s : State} {a1} (h : Keeps r s) : Keeps r (dropPowerReq a1 s) := by
  unfold dropPowerReq
  repeat' first
    | with_reducible assumption
    | (extract_lets +onlyGivenNames x; clear_value x)
    | split
    | (unfold Keeps; dsimp only; refine (?_ : Keeps _ _))

theorem unbind_keeps {r s : State} (h : Keeps r s) : Keeps r (unbind s) := by
  unfold unbind
  repeat' first
    | with_reducible assumption
    | (with_reducible apply enterRole_keeps)
    | (extract_lets +onlyGivenNames x; have hx : Keeps r x := ?_; clear_value x; rotate_left; subst x; rotate_right)
    | (unfold Keeps; dsimp only; refine (?_ : Keeps _ _))

theorem cancel_keeps {r s : State} {a1 a2} (h : Keeps r s) : Keeps r (cancel a1 a2 s) := by
  unfold cancel
  repeat' first
    | with_reducible assumption
    | (with_reducible apply answer_keeps)
    | (with_reducible apply refuse_keeps)

/-- An operation that may decline keeps them where it does not. -/
def KeepsP (r : State) : Option State → Prop
  | some t => Keeps r t
  | none => True
theorem KeepsP.some {r t : State} (h : Keeps r t) : KeepsP r (some t) := h
theorem KeepsP.none {r : State} : KeepsP r none := trivial
theorem KeepsP.ite {r : State} {c : Prop} [Decidable c] {a b : Option State} (h1 : KeepsP r a) (h2 : KeepsP r b) : KeepsP r (if c then a else b) := by
  split <;> assumption
theorem stopAt_keeps {r s : State} {a1} (h : Keeps r s) : KeepsP r (stopAt a1 s) := by
  unfold stopAt
  dsimp only
  repeat' first
    | exact KeepsP.none
    | with_reducible refine KeepsP.ite ?_ ?_
    | with_reducible refine KeepsP.some ?_
    | with_reducible assumption
    | with_reducible apply cancelSwitch_keeps
    | (with_reducible refine Keeps.foldl ?_ (fun _ _ hx => undoGate_keeps hx))
    | with_reducible apply dropUnits_keeps
    | with_reducible apply freeUnits_keeps
    | with_reducible apply dropInput_keeps
    | with_reducible apply endAct_keeps
    | with_reducible apply unbind_keeps
    | with_reducible apply huntLane_keeps
    | with_reducible apply modLane_keeps
    | with_reducible apply dropPowerReq_keeps
    | exact h
    | split
theorem abortTag_keeps {r s : State} {a1} (h : Keeps r s) : Keeps r (abortTag a1 s) := by
  unfold abortTag
  repeat' split
  all_goals first
    | exact answer_keeps h
    | exact cancel_keeps h
    | (rename_i x _ _ _ _ _ e; have hx := stopAt_keeps (a1 := x) h; rw [e] at hx; exact cancel_keeps hx)

theorem execAbortTag_keeps {r s : State} {a1 a2} (h : Keeps r s) : KeepsO r (execAbortTag a1 a2 s) := by
  unfold execAbortTag
  repeat' first
    | with_reducible assumption
    | (intro _)
    | (with_reducible apply advance_keeps)
    | (with_reducible apply onStart_keeps)
    | (with_reducible apply abortTag_keeps)
    | (with_reducible refine KeepsO.next ?_)
    | split

end Sys2Proof.Machine
end

