-- ==== Sys2Proof/Laws/Memory.lean ====
section
/-!
SUPPORT. The laws of the Well's bytes: what a read sees after a write, at the same place and elsewhere; ranges as sequences of
bytes; words as bytes.
-/
namespace Sys2Proof.Machine

/-! ### One byte -/

theorem Memory.read_low {m : List Host.Cell} {lo x : Nat} (h : Memory.wfFrom lo m = true) (hx : x < lo) : Memory.read m x = Memory.unlisted := by
  cases m with
  | nil => rfl
  | cons c rest =>
    obtain ⟨a, b⟩ := c
    simp only [Memory.wfFrom, Bool.and_eq_true, decide_eq_true_eq] at h
    unfold Memory.read
    rw [if_neg (by omega), if_pos (by omega)]

theorem Memory.read_write_from {m : List Host.Cell} : ∀ {lo x y : Nat} {v : Byte}, Memory.wfFrom lo m = true →
    Memory.read (Memory.write m x v) y = if y = x then v else Memory.read m y := by
  induction m with
  | nil =>
    intro lo x y v _
    unfold Memory.write
    split
    · next hv => subst hv; split <;> rfl
    · unfold Memory.read
      split
      · rfl
      · split <;> rfl
  | cons c rest ih =>
    intro lo x y v h
    obtain ⟨a, b⟩ := c
    simp only [Memory.wfFrom, Bool.and_eq_true, decide_eq_true_eq] at h
    have hrest := h.2
    unfold Memory.write
    split
    · next hlt =>
      split
      · next hv =>
        split
        · next hy => subst hy; subst hv; unfold Memory.read; rw [if_neg (by omega), if_pos hlt]
        · rfl
      · by_cases hy : y = x
        · rw [if_pos hy, Memory.read, if_pos hy]
        · rw [if_neg hy, Memory.read, if_neg hy]
          by_cases hyx : y < x
          · rw [if_pos hyx, Memory.read, if_neg (by omega), if_pos (by omega)]
          · rw [if_neg hyx]
    · next hlt =>
      split
      · next he =>
        subst he
        split
        · next hv =>
          by_cases hy : y = x
          · subst hy; rw [if_pos rfl, hv]; exact Memory.read_low hrest (by omega)
          · rw [if_neg hy]
            by_cases hlow : y < x
            · rw [Memory.read_low hrest (by omega), Memory.read, if_neg hy, if_pos hlow]
            · rw [Memory.read.eq_def ((x, b) :: rest)]; simp only [hy, hlow, if_false]
        · by_cases hy : y = x
          · subst hy; rw [if_pos rfl]; unfold Memory.read; rw [if_pos rfl]
          · rw [if_neg hy]; unfold Memory.read; rw [if_neg hy, if_neg hy]
      · next he =>
        unfold Memory.read
        by_cases hya : y = a
        · rw [if_pos hya, if_neg (by omega), if_pos hya]
        · rw [if_neg hya]
          by_cases hlow : y < a
          · rw [if_pos hlow, if_neg (by omega), if_neg hya, if_pos hlow]
          · rw [if_neg hlow, ih hrest, if_neg hya, if_neg hlow]

/-- A byte read after a write to it is the byte written, and a write leaves every other byte alone. -/
theorem Memory.read_write {m : List Host.Cell} {x y : Nat} {v : Byte} (h : Memory.wf m = true) :
    Memory.read (Memory.write m x v) y = if y = x then v else Memory.read m y := Memory.read_write_from (lo := 0) h

/-! ### Ranges -/

/-- A byte below or above a range written is as it was. -/
theorem Memory.read_writeAll_other {bs : List Byte} : ∀ {m : List Host.Cell} {x y : Nat}, Memory.wf m = true → (y < x ∨ x + bs.length ≤ y) →
    Memory.read (Memory.writeAll m x bs) y = Memory.read m y := by
  induction bs with
  | nil => intro m x y _ _; rfl
  | cons v vs ih =>
    intro m x y h hy
    rw [List.length_cons] at hy
    show Memory.read (Memory.writeAll (Memory.write m x v) (x + 1) vs) y = _
    rw [ih (Memory.wf_write h) (by omega), Memory.read_write h, if_neg (by omega)]

@[simp] theorem Memory.length_readAll (m : List Host.Cell) : ∀ n x, (Memory.readAll m n x).length = n
  | 0, _ => rfl
  | n + 1, x => by simp [Memory.readAll, Memory.length_readAll m n]

theorem Memory.readAll_add (m : List Host.Cell) (b : Nat) : ∀ a x, Memory.readAll m (a + b) x = Memory.readAll m a x ++ Memory.readAll m b (x + a)
  | 0, x => by simp [Memory.readAll]
  | a + 1, x => by
    rw [show a + 1 + b = (a + b) + 1 by omega, Memory.readAll, Memory.readAll, Memory.readAll_add m b a, List.cons_append]
    congr 3; omega

theorem Memory.readAll_congr {m k : List Host.Cell} : ∀ {n x : Nat}, (∀ y, x ≤ y → y < x + n → Memory.read m y = Memory.read k y) →
    Memory.readAll m n x = Memory.readAll k n x
  | 0, _, _ => rfl
  | n + 1, x, h => by
    rw [Memory.readAll, Memory.readAll, h x (by omega) (by omega), Memory.readAll_congr fun y a b => h y (by omega) (by omega)]

/-- A range read after it was written holds the bytes written. -/
theorem Memory.readAll_writeAll {bs : List Byte} : ∀ {m : List Host.Cell} {x : Nat}, Memory.wf m = true →
    Memory.readAll (Memory.writeAll m x bs) bs.length x = bs := by
  induction bs with
  | nil => intro m x _; rfl
  | cons v vs ih =>
    intro m x h
    have hw := Memory.wf_write (x := x) (v := v) h
    rw [List.length_cons, Memory.readAll]
    show Memory.read (Memory.writeAll (Memory.write m x v) (x + 1) vs) x :: Memory.readAll (Memory.writeAll (Memory.write m x v) (x + 1) vs) vs.length (x + 1) = _
    rw [Memory.read_writeAll_other hw (Or.inl (by omega)), Memory.read_write h, if_pos rfl, ih hw]

/-- A range apart from the one written reads as before. -/
theorem Memory.readAll_writeAll_other {bs : List Byte} {m : List Host.Cell} {x y n : Nat} (h : Memory.wf m = true) (hy : y + n ≤ x ∨ x + bs.length ≤ y) :
    Memory.readAll (Memory.writeAll m x bs) n y = Memory.readAll m n y :=
  Memory.readAll_congr fun z a b => Memory.read_writeAll_other h (by omega)

theorem Memory.readAll_nil : ∀ n x, Memory.readAll [] n x = List.replicate n Memory.unlisted
  | 0, _ => rfl
  | n + 1, x => by rw [Memory.readAll, Memory.readAll_nil n, List.replicate_succ]; rfl

/-! ### Words as bytes -/

@[simp] theorem length_leBytes : ∀ n x, (leBytes n x).length = n
  | 0, _ => rfl
  | n + 1, x => by simp [leBytes, length_leBytes n]

theorem leNat_leBytes : ∀ n x, leNat (leBytes n x) = x % 256 ^ n
  | 0, x => by simp [leBytes, leNat, Nat.mod_one]
  | n + 1, x => by
    rw [leBytes, leNat, leNat_leBytes n, BitVec.toNat_ofNat, show (256 : Nat) ^ (n + 1) = 256 * 256 ^ n by rw [Nat.pow_succ, Nat.mul_comm], Nat.mod_mul]

/-- The eight bytes of a word give the word back. -/
theorem leNat_wordBytes (w : W64) : leNat (wordBytes w) = w.toNat := by
  unfold wordBytes; rw [leNat_leBytes]; exact Nat.mod_eq_of_lt w.isLt

end Sys2Proof.Machine
end

