-- ==== Sys2Proof/Laws/Ops.lean ====
section
/-!
SUPPORT. Once for each shared operation: everything it can change. The existence form of a frame says that the result is the old
state with some values in the named fields; the equation form rewrites with it; the projection lemmas are for simp.
-/
namespace Sys2Proof.Machine

/-! ### Outputs, interrupts and events -/

theorem sendVector_changes (v : Nat) (s : State) : ∃ b o, sendVector v s = { s with bar := b, outbox := o } := by
  unfold sendVector; split
  · split <;> exact ⟨_, _, rfl⟩
  · exact ⟨_, _, rfl⟩

theorem setInt_changes (i : Nat) (s : State) : ∃ b o, setInt i s = { s with bar := b, outbox := o } := by
  unfold setInt; dsimp only; split
  · obtain ⟨b, o, h⟩ := sendVector_changes (intVectorOf { s.bar with intStatus := s.bar.intStatus ||| BitVec.ofNat 64 (2 ^ i) } i)
      { s with bar.intStatus := s.bar.intStatus ||| BitVec.ofNat 64 (2 ^ i) }
    exact ⟨b, o, h⟩
  · exact ⟨_, _, rfl⟩

theorem setInt_frame (i : Nat) (s : State) :
    setInt i s = { s with bar := (setInt i s).bar, outbox := (setInt i s).outbox } := by
  obtain ⟨b, o, h⟩ := setInt_changes i s; rw [h]

theorem crierPut_changes (e : Event) (s : State) : ∃ c b o, crierPut e s = { s with cri := c, bar := b, outbox := o } := by
  unfold crierPut; dsimp only
  repeat' split
  all_goals first
    | exact ⟨_, _, _, rfl⟩
    | (rw [setInt_frame]; exact ⟨_, _, _, rfl⟩)

theorem crierPut_frame (e : Event) (s : State) : crierPut e s =
    { s with cri := (crierPut e s).cri, bar := (crierPut e s).bar, outbox := (crierPut e s).outbox } := by
  obtain ⟨c, b, o, h⟩ := crierPut_changes e s; rw [h]

theorem event_frame (code cls detail : Nat) (s : State) : event code cls detail s =
    { s with cri := (event code cls detail s).cri, bar := (event code cls detail s).bar, outbox := (event code cls detail s).outbox } :=
  crierPut_frame _ _

theorem notify_frame (code detail : Nat) (s : State) : notify code detail s =
    { s with cri := (notify code detail s).cri, bar := (notify code detail s).bar, outbox := (notify code detail s).outbox } :=
  crierPut_frame _ _

theorem dueYield_changes (code : Nat) (s : State) : ∃ w, dueYield code s = { s with twn := w } := by
  unfold dueYield; split <;> exact ⟨_, rfl⟩

theorem deviceFault_changes (code : Nat) (s : State) : ∃ f l w, deviceFault code s = { s with flt := f, stl := l, twn := w } := by
  unfold deviceFault; split
  · exact ⟨_, _, _, rfl⟩
  · dsimp only
    obtain ⟨w, h⟩ := dueYield_changes code { s with
      flt.active := s.flt.active ++ [code],
      flt.since := if s.flt.active.isEmpty then s.mot.line else s.flt.since,
      flt.sinceAt := if s.flt.active.isEmpty then s.now else s.flt.sinceAt,
      stl := s.stl.map (latchStall s.now) }
    exact ⟨_, _, w, h⟩

theorem raise_changes (code detail : Nat) (s : State) :
    ∃ c b o f l w, raise code detail s = { s with cri := c, bar := b, outbox := o, flt := f, stl := l, twn := w } := by
  obtain ⟨c, b, o, h⟩ := crierPut_changes
    { code := code, cls := classOf code, source := sourceOf code, time := devTime s, detail := detail } s
  unfold raise; dsimp only
  rw [show event code (classOf code) detail s = { s with cri := c, bar := b, outbox := o } from h]
  repeat' split
  all_goals first
    | exact ⟨_, _, _, _, _, _, rfl⟩
    | (obtain ⟨f, l, w, h'⟩ := deviceFault_changes code { s with
        cri := c, bar := b, outbox := o, flt.deviceCount := sat 255 (s.flt.deviceCount + 1) }
       exact ⟨_, _, _, _, _, _, h'⟩)

theorem raise_frame (code detail : Nat) (s : State) : raise code detail s = { s with
    cri := (raise code detail s).cri, bar := (raise code detail s).bar, outbox := (raise code detail s).outbox,
    flt := (raise code detail s).flt, stl := (raise code detail s).stl, twn := (raise code detail s).twn } := by
  obtain ⟨c, b, o, f, l, w, h⟩ := raise_changes code detail s; rw [h]

@[simp] theorem event_flt (code cls detail : Nat) (s : State) : (event code cls detail s).flt = s.flt := by rw [event_frame]
@[simp] theorem dueYield_flt (code : Nat) (s : State) : (dueYield code s).flt = s.flt := by
  obtain ⟨w, h⟩ := dueYield_changes code s; rw [h]

/-- The count at a limit is the smaller of the two. -/
theorem sat_eq_min (a b : Nat) : sat a b = min a b := by unfold sat; split <;> omega

theorem granaryUse_changes (kind inst limit remaining : Nat) (s : State) :
    ∃ g c b o, granaryUse kind inst limit remaining s = { s with bgd := g, cri := c, bar := b, outbox := o } := by
  unfold granaryUse granaryCount putGranary; dsimp only; split
  · rw [notify_frame]; exact ⟨_, _, _, _, rfl⟩
  · exact ⟨_, _, _, _, rfl⟩

theorem granaryUse_frame (kind inst limit remaining : Nat) (s : State) : granaryUse kind inst limit remaining s = { s with
    bgd := (granaryUse kind inst limit remaining s).bgd, cri := (granaryUse kind inst limit remaining s).cri,
    bar := (granaryUse kind inst limit remaining s).bar, outbox := (granaryUse kind inst limit remaining s).outbox } := by
  obtain ⟨g, c, b, o, h⟩ := granaryUse_changes kind inst limit remaining s; rw [h]

/-! ### The link -/

theorem modLink_changes (i : Nat) (f : LinkLane → LinkLane) (s : State) : ∃ u, modLink i f s = { s with ura := u } := by
  unfold modLink; split <;> exact ⟨_, rfl⟩

theorem modLink_frame (i : Nat) (f : LinkLane → LinkLane) (s : State) : modLink i f s = { s with ura := (modLink i f s).ura } := by
  obtain ⟨u, h⟩ := modLink_changes i f s; rw [h]

theorem transmit_changes (i : Nat) (p : Packet) (s : State) : ∃ u o, transmit i p s = { s with ura := u, outbox := o } := by
  unfold transmit emit; dsimp only; split <;> rw [modLink_frame] <;> exact ⟨_, _, rfl⟩

theorem sendPorts_changes (ports : List Nat) (p : Packet) (s : State) :
    ∃ u o, ports.foldl (fun s k => sendPort k p s) s = { s with ura := u, outbox := o } := by
  induction ports generalizing s with
  | nil => exact ⟨_, _, rfl⟩
  | cons k ks ih =>
    obtain ⟨u, o, h⟩ := transmit_changes (laneFor s k p.cls) p s
    obtain ⟨u', o', h'⟩ := ih (sendPort k p s)
    exact ⟨u', o', by rw [List.foldl_cons, h', sendPort, h]⟩

theorem routePacket_changes (p : Packet) (port : Option Nat) (s : State) :
    ∃ u o, routePacket p port s = { s with ura := u, outbox := o } := by
  unfold routePacket; split
  · exact sendPorts_changes _ _ _
  · split
    · exact transmit_changes _ _ _
    · exact ⟨_, _, rfl⟩

theorem uraraSend_changes (dest type : Nat) (ws : List W64) (s : State) :
    ∃ u o, uraraSend dest type ws s = { s with ura := u, outbox := o } := by
  unfold uraraSend; split
  · exact ⟨_, _, rfl⟩
  · dsimp only
    obtain ⟨u, o, h⟩ := routePacket_changes
      { dest := dest, src := s.node, cls := packetClass type ws, eseq := eseqOf s dest (packetClass type ws), type := type, words := ws } none
      (emit (.urara dest type ws) { s with ura.eseqs := s.ura.eseqs.filter (fun e => e.1 != (dest, packetClass type ws))
        ++ [((dest, packetClass type ws), eseqOf s dest (packetClass type ws) + 1)] })
    exact ⟨u, o, h⟩

theorem uraraSend_frame (dest type : Nat) (ws : List W64) (s : State) : uraraSend dest type ws s =
    { s with ura := (uraraSend dest type ws s).ura, outbox := (uraraSend dest type ws s).outbox } := by
  obtain ⟨u, o, h⟩ := uraraSend_changes dest type ws s; rw [h]

/-! ### Replies -/

theorem sendReply_changes (tr : Transport) (src cid : Nat) (ws : List W64) (s : State) :
    ∃ q u o, sendReply tr src cid ws s = { s with cmd.replyQ := q, ura := u, outbox := o } := by
  unfold sendReply; split
  · split <;> exact ⟨_, _, _, rfl⟩
  · dsimp only; split
    · obtain ⟨u, o, h⟩ := uraraSend_changes src 0x49 ws (emit (.reply tr src ws) s)
      exact ⟨s.cmd.replyQ, u, o, h⟩
    · exact ⟨_, _, _, rfl⟩

theorem sendReply_frame (tr : Transport) (src cid : Nat) (ws : List W64) (s : State) : sendReply tr src cid ws s =
    { s with cmd := (sendReply tr src cid ws s).cmd, ura := (sendReply tr src cid ws s).ura, outbox := (sendReply tr src cid ws s).outbox } := by
  obtain ⟨q, u, o, h⟩ := sendReply_changes tr src cid ws s; rw [h]

@[simp] theorem sendReply_slots (tr : Transport) (src cid : Nat) (ws : List W64) (s : State) :
    (sendReply tr src cid ws s).cmd.slots = s.cmd.slots := by
  obtain ⟨q, u, o, h⟩ := sendReply_changes tr src cid ws s; rw [h]

theorem handedOver_changes (cid : Nat) (s : State) : ∃ c n, handedOver cid s = { s with cmd := c, net := n } := by
  unfold handedOver; split
  · exact ⟨_, _, rfl⟩
  · dsimp only; unfold endSession; dsimp only; repeat' split
    all_goals exact ⟨_, _, rfl⟩

theorem handedOver_frame (cid : Nat) (s : State) : handedOver cid s =
    { s with cmd := (handedOver cid s).cmd, net := (handedOver cid s).net } := by
  obtain ⟨c, n, h⟩ := handedOver_changes cid s; rw [h]

/-- A slot that is handed over is gone. -/
theorem handedOver_slots (cid : Nat) (s : State) : (handedOver cid s).cmd.slots = s.cmd.slots.filter (fun x => x.cid != cid) := by
  unfold handedOver; split
  · rename_i h
    refine (List.filter_eq_self.2 fun x hx => ?_).symm
    have := List.find?_eq_none.1 h x hx
    simpa using this
  · dsimp only; unfold endSession; dsimp only; repeat' split
    all_goals rfl

theorem finish_changes (cid status fault : Nat) (results : List W64) (s : State) :
    ∃ c n u o, finish cid status fault results s = { s with cmd := c, net := n, ura := u, outbox := o } := by
  unfold finish; split
  · exact ⟨_, _, _, _, rfl⟩
  · rename_i c _
    split
    · rw [handedOver_frame]; exact ⟨_, _, _, _, rfl⟩
    · dsimp only
      unfold modSlot cacheReply modSession; dsimp only
      split
      · rw [handedOver_frame, sendReply_frame]; exact ⟨_, _, _, _, rfl⟩
      · exact ⟨_, _, _, _, rfl⟩
      · exact ⟨_, _, _, _, rfl⟩
      · split
        · rw [sendReply_frame]; exact ⟨_, _, _, _, rfl⟩
        · rw [handedOver_frame]; exact ⟨_, _, _, _, rfl⟩

theorem finish_frame (cid status fault : Nat) (results : List W64) (s : State) : finish cid status fault results s = { s with
    cmd := (finish cid status fault results s).cmd, net := (finish cid status fault results s).net,
    ura := (finish cid status fault results s).ura, outbox := (finish cid status fault results s).outbox } := by
  obtain ⟨c, n, u, o, h⟩ := finish_changes cid status fault results s; rw [h]

/-! ### Starting -/

/-- A command that starts takes its effect in the state in which its slot executes. -/
theorem startCmd_starts {op t cid : Nat} {c : Slot} {s : State} (h : Starts op cid c s) :
    startCmd op cid (advance t s) = some (c, startedAt t cid s) := by
  obtain ⟨h1, h2, h3⟩ := h
  have h1' : slotOf (advance t s) cid = some c := h1
  have h3' : mayStart (advance t s) c = true := h3
  simp [startCmd, h1', h2, h3', startedAt]

theorem onStart_starts {op t cid : Nat} {c : Slot} {k : Slot → State → State} {s : State} (h : Starts op cid c s) :
    onStart op t cid k s = .next (k c (startedAt t cid s)) := by
  simp [onStart, startCmd_starts h]

/-- Everything a command's step can do: time reaches its moment, and the command takes its effect or stays as it is. -/
theorem onStart_cases (op t cid : Nat) (k : Slot → State → State) (s : State) :
    (∃ c, Starts op cid c s ∧ onStart op t cid k s = .next (k c (startedAt t cid s))) ∨
    (startCmd op cid (advance t s) = none ∧ onStart op t cid k s = .next (advance t s)) := by
  by_cases h : ∃ c, Starts op cid c s
  · obtain ⟨c, hc⟩ := h; exact .inl ⟨c, hc, onStart_starts hc⟩
  · right
    have hn : startCmd op cid (advance t s) = none := by
      unfold startCmd; split
      · rfl
      · rename_i c hc
        split
        · rename_i h2
          simp only [Bool.and_eq_true, beq_iff_eq] at h2
          exact absurd ⟨c, hc, h2.1, h2.2⟩ h
        · rfl
    exact ⟨hn, by simp [onStart, hn]⟩

end Sys2Proof.Machine
end

