-- ==== Sys2Proof/Laws/State.lean ====
section
/-!
SUPPORT. What each named update of State leaves as it was: one lemma for each field, true by unfolding, so that a proof need not open a record update.
-/
namespace Sys2Proof.Machine

/-! ### advance -/

@[simp] theorem advance_pending (t : Nat) (s : State) : (advance t s).pending = s.pending := rfl
@[simp] theorem advance_outbox (t : Nat) (s : State) : (advance t s).outbox = s.outbox := rfl
@[simp] theorem advance_fresh (t : Nat) (s : State) : (advance t s).fresh = s.fresh := rfl
@[simp] theorem advance_cmd (t : Nat) (s : State) : (advance t s).cmd = s.cmd := rfl
@[simp] theorem advance_bar (t : Nat) (s : State) : (advance t s).bar = s.bar := rfl
@[simp] theorem advance_net (t : Nat) (s : State) : (advance t s).net = s.net := rfl
@[simp] theorem advance_pwr (t : Nat) (s : State) : (advance t s).pwr = s.pwr := rfl
@[simp] theorem advance_thm (t : Nat) (s : State) : (advance t s).thm = s.thm := rfl
@[simp] theorem advance_flt (t : Nat) (s : State) : (advance t s).flt = s.flt := rfl
@[simp] theorem advance_cri (t : Nat) (s : State) : (advance t s).cri = s.cri := rfl
@[simp] theorem advance_bgd (t : Nat) (s : State) : (advance t s).bgd = s.bgd := rfl
@[simp] theorem advance_node (t : Nat) (s : State) : (advance t s).node = s.node := rfl
@[simp] theorem advance_ura (t : Nat) (s : State) : (advance t s).ura = s.ura := rfl
@[simp] theorem advance_fwVersion (t : Nat) (s : State) : (advance t s).fwVersion = s.fwVersion := rfl
@[simp] theorem advance_vis (t : Nat) (s : State) : (advance t s).vis = s.vis := rfl
@[simp] theorem advance_well (t : Nat) (s : State) : (advance t s).well = s.well := rfl
@[simp] theorem advance_chk (t : Nat) (s : State) : (advance t s).chk = s.chk := rfl
@[simp] theorem advance_job (t : Nat) (s : State) : (advance t s).job = s.job := rfl
@[simp] theorem advance_mot (t : Nat) (s : State) : (advance t s).mot = s.mot := rfl
@[simp] theorem advance_prod (t : Nat) (s : State) : (advance t s).prod = s.prod := rfl
@[simp] theorem advance_led (t : Nat) (s : State) : (advance t s).led = s.led := rfl
@[simp] theorem advance_tal (t : Nat) (s : State) : (advance t s).tal = s.tal := rfl
@[simp] theorem advance_twn (t : Nat) (s : State) : (advance t s).twn = s.twn := rfl
@[simp] theorem advance_kry (t : Nat) (s : State) : (advance t s).kry = s.kry := rfl
@[simp] theorem advance_mil (t : Nat) (s : State) : (advance t s).mil = s.mil := rfl
@[simp] theorem advance_lan (t : Nat) (s : State) : (advance t s).lan = s.lan := rfl
@[simp] theorem advance_stl (t : Nat) (s : State) : (advance t s).stl = s.stl := rfl

/-! ### emit -/

@[simp] theorem emit_pending (e : Emit) (s : State) : (emit e s).pending = s.pending := rfl
@[simp] theorem emit_now (e : Emit) (s : State) : (emit e s).now = s.now := rfl
@[simp] theorem emit_fresh (e : Emit) (s : State) : (emit e s).fresh = s.fresh := rfl
@[simp] theorem emit_cmd (e : Emit) (s : State) : (emit e s).cmd = s.cmd := rfl
@[simp] theorem emit_bar (e : Emit) (s : State) : (emit e s).bar = s.bar := rfl
@[simp] theorem emit_net (e : Emit) (s : State) : (emit e s).net = s.net := rfl
@[simp] theorem emit_time (e : Emit) (s : State) : (emit e s).time = s.time := rfl
@[simp] theorem emit_pwr (e : Emit) (s : State) : (emit e s).pwr = s.pwr := rfl
@[simp] theorem emit_thm (e : Emit) (s : State) : (emit e s).thm = s.thm := rfl
@[simp] theorem emit_flt (e : Emit) (s : State) : (emit e s).flt = s.flt := rfl
@[simp] theorem emit_cri (e : Emit) (s : State) : (emit e s).cri = s.cri := rfl
@[simp] theorem emit_bgd (e : Emit) (s : State) : (emit e s).bgd = s.bgd := rfl
@[simp] theorem emit_node (e : Emit) (s : State) : (emit e s).node = s.node := rfl
@[simp] theorem emit_ura (e : Emit) (s : State) : (emit e s).ura = s.ura := rfl
@[simp] theorem emit_fwVersion (e : Emit) (s : State) : (emit e s).fwVersion = s.fwVersion := rfl
@[simp] theorem emit_vis (e : Emit) (s : State) : (emit e s).vis = s.vis := rfl
@[simp] theorem emit_well (e : Emit) (s : State) : (emit e s).well = s.well := rfl
@[simp] theorem emit_chk (e : Emit) (s : State) : (emit e s).chk = s.chk := rfl
@[simp] theorem emit_job (e : Emit) (s : State) : (emit e s).job = s.job := rfl
@[simp] theorem emit_mot (e : Emit) (s : State) : (emit e s).mot = s.mot := rfl
@[simp] theorem emit_prod (e : Emit) (s : State) : (emit e s).prod = s.prod := rfl
@[simp] theorem emit_led (e : Emit) (s : State) : (emit e s).led = s.led := rfl
@[simp] theorem emit_tal (e : Emit) (s : State) : (emit e s).tal = s.tal := rfl
@[simp] theorem emit_twn (e : Emit) (s : State) : (emit e s).twn = s.twn := rfl
@[simp] theorem emit_kry (e : Emit) (s : State) : (emit e s).kry = s.kry := rfl
@[simp] theorem emit_mil (e : Emit) (s : State) : (emit e s).mil = s.mil := rfl
@[simp] theorem emit_lan (e : Emit) (s : State) : (emit e s).lan = s.lan := rfl
@[simp] theorem emit_stl (e : Emit) (s : State) : (emit e s).stl = s.stl := rfl

/-! ### modSlot -/

@[simp] theorem modSlot_pending (i : Nat) (f : Slot → Slot) (s : State) : (modSlot i f s).pending = s.pending := rfl
@[simp] theorem modSlot_now (i : Nat) (f : Slot → Slot) (s : State) : (modSlot i f s).now = s.now := rfl
@[simp] theorem modSlot_outbox (i : Nat) (f : Slot → Slot) (s : State) : (modSlot i f s).outbox = s.outbox := rfl
@[simp] theorem modSlot_fresh (i : Nat) (f : Slot → Slot) (s : State) : (modSlot i f s).fresh = s.fresh := rfl
@[simp] theorem modSlot_bar (i : Nat) (f : Slot → Slot) (s : State) : (modSlot i f s).bar = s.bar := rfl
@[simp] theorem modSlot_net (i : Nat) (f : Slot → Slot) (s : State) : (modSlot i f s).net = s.net := rfl
@[simp] theorem modSlot_time (i : Nat) (f : Slot → Slot) (s : State) : (modSlot i f s).time = s.time := rfl
@[simp] theorem modSlot_pwr (i : Nat) (f : Slot → Slot) (s : State) : (modSlot i f s).pwr = s.pwr := rfl
@[simp] theorem modSlot_thm (i : Nat) (f : Slot → Slot) (s : State) : (modSlot i f s).thm = s.thm := rfl
@[simp] theorem modSlot_flt (i : Nat) (f : Slot → Slot) (s : State) : (modSlot i f s).flt = s.flt := rfl
@[simp] theorem modSlot_cri (i : Nat) (f : Slot → Slot) (s : State) : (modSlot i f s).cri = s.cri := rfl
@[simp] theorem modSlot_bgd (i : Nat) (f : Slot → Slot) (s : State) : (modSlot i f s).bgd = s.bgd := rfl
@[simp] theorem modSlot_node (i : Nat) (f : Slot → Slot) (s : State) : (modSlot i f s).node = s.node := rfl
@[simp] theorem modSlot_ura (i : Nat) (f : Slot → Slot) (s : State) : (modSlot i f s).ura = s.ura := rfl
@[simp] theorem modSlot_fwVersion (i : Nat) (f : Slot → Slot) (s : State) : (modSlot i f s).fwVersion = s.fwVersion := rfl
@[simp] theorem modSlot_vis (i : Nat) (f : Slot → Slot) (s : State) : (modSlot i f s).vis = s.vis := rfl
@[simp] theorem modSlot_well (i : Nat) (f : Slot → Slot) (s : State) : (modSlot i f s).well = s.well := rfl
@[simp] theorem modSlot_chk (i : Nat) (f : Slot → Slot) (s : State) : (modSlot i f s).chk = s.chk := rfl
@[simp] theorem modSlot_job (i : Nat) (f : Slot → Slot) (s : State) : (modSlot i f s).job = s.job := rfl
@[simp] theorem modSlot_mot (i : Nat) (f : Slot → Slot) (s : State) : (modSlot i f s).mot = s.mot := rfl
@[simp] theorem modSlot_prod (i : Nat) (f : Slot → Slot) (s : State) : (modSlot i f s).prod = s.prod := rfl
@[simp] theorem modSlot_led (i : Nat) (f : Slot → Slot) (s : State) : (modSlot i f s).led = s.led := rfl
@[simp] theorem modSlot_tal (i : Nat) (f : Slot → Slot) (s : State) : (modSlot i f s).tal = s.tal := rfl
@[simp] theorem modSlot_twn (i : Nat) (f : Slot → Slot) (s : State) : (modSlot i f s).twn = s.twn := rfl
@[simp] theorem modSlot_kry (i : Nat) (f : Slot → Slot) (s : State) : (modSlot i f s).kry = s.kry := rfl
@[simp] theorem modSlot_mil (i : Nat) (f : Slot → Slot) (s : State) : (modSlot i f s).mil = s.mil := rfl
@[simp] theorem modSlot_lan (i : Nat) (f : Slot → Slot) (s : State) : (modSlot i f s).lan = s.lan := rfl
@[simp] theorem modSlot_stl (i : Nat) (f : Slot → Slot) (s : State) : (modSlot i f s).stl = s.stl := rfl

/-! ### modSession -/

@[simp] theorem modSession_pending (i : Nat) (f : Session → Session) (s : State) : (modSession i f s).pending = s.pending := rfl
@[simp] theorem modSession_now (i : Nat) (f : Session → Session) (s : State) : (modSession i f s).now = s.now := rfl
@[simp] theorem modSession_outbox (i : Nat) (f : Session → Session) (s : State) : (modSession i f s).outbox = s.outbox := rfl
@[simp] theorem modSession_fresh (i : Nat) (f : Session → Session) (s : State) : (modSession i f s).fresh = s.fresh := rfl
@[simp] theorem modSession_bar (i : Nat) (f : Session → Session) (s : State) : (modSession i f s).bar = s.bar := rfl
@[simp] theorem modSession_net (i : Nat) (f : Session → Session) (s : State) : (modSession i f s).net = s.net := rfl
@[simp] theorem modSession_time (i : Nat) (f : Session → Session) (s : State) : (modSession i f s).time = s.time := rfl
@[simp] theorem modSession_pwr (i : Nat) (f : Session → Session) (s : State) : (modSession i f s).pwr = s.pwr := rfl
@[simp] theorem modSession_thm (i : Nat) (f : Session → Session) (s : State) : (modSession i f s).thm = s.thm := rfl
@[simp] theorem modSession_flt (i : Nat) (f : Session → Session) (s : State) : (modSession i f s).flt = s.flt := rfl
@[simp] theorem modSession_cri (i : Nat) (f : Session → Session) (s : State) : (modSession i f s).cri = s.cri := rfl
@[simp] theorem modSession_bgd (i : Nat) (f : Session → Session) (s : State) : (modSession i f s).bgd = s.bgd := rfl
@[simp] theorem modSession_node (i : Nat) (f : Session → Session) (s : State) : (modSession i f s).node = s.node := rfl
@[simp] theorem modSession_ura (i : Nat) (f : Session → Session) (s : State) : (modSession i f s).ura = s.ura := rfl
@[simp] theorem modSession_fwVersion (i : Nat) (f : Session → Session) (s : State) : (modSession i f s).fwVersion = s.fwVersion := rfl
@[simp] theorem modSession_vis (i : Nat) (f : Session → Session) (s : State) : (modSession i f s).vis = s.vis := rfl
@[simp] theorem modSession_well (i : Nat) (f : Session → Session) (s : State) : (modSession i f s).well = s.well := rfl
@[simp] theorem modSession_chk (i : Nat) (f : Session → Session) (s : State) : (modSession i f s).chk = s.chk := rfl
@[simp] theorem modSession_job (i : Nat) (f : Session → Session) (s : State) : (modSession i f s).job = s.job := rfl
@[simp] theorem modSession_mot (i : Nat) (f : Session → Session) (s : State) : (modSession i f s).mot = s.mot := rfl
@[simp] theorem modSession_prod (i : Nat) (f : Session → Session) (s : State) : (modSession i f s).prod = s.prod := rfl
@[simp] theorem modSession_led (i : Nat) (f : Session → Session) (s : State) : (modSession i f s).led = s.led := rfl
@[simp] theorem modSession_tal (i : Nat) (f : Session → Session) (s : State) : (modSession i f s).tal = s.tal := rfl
@[simp] theorem modSession_twn (i : Nat) (f : Session → Session) (s : State) : (modSession i f s).twn = s.twn := rfl
@[simp] theorem modSession_kry (i : Nat) (f : Session → Session) (s : State) : (modSession i f s).kry = s.kry := rfl
@[simp] theorem modSession_mil (i : Nat) (f : Session → Session) (s : State) : (modSession i f s).mil = s.mil := rfl
@[simp] theorem modSession_lan (i : Nat) (f : Session → Session) (s : State) : (modSession i f s).lan = s.lan := rfl
@[simp] theorem modSession_stl (i : Nat) (f : Session → Session) (s : State) : (modSession i f s).stl = s.stl := rfl

/-! ### modRing -/

@[simp] theorem modRing_pending (r : Fin 16) (f : Ring → Ring) (s : State) : (modRing r f s).pending = s.pending := rfl
@[simp] theorem modRing_now (r : Fin 16) (f : Ring → Ring) (s : State) : (modRing r f s).now = s.now := rfl
@[simp] theorem modRing_outbox (r : Fin 16) (f : Ring → Ring) (s : State) : (modRing r f s).outbox = s.outbox := rfl
@[simp] theorem modRing_fresh (r : Fin 16) (f : Ring → Ring) (s : State) : (modRing r f s).fresh = s.fresh := rfl
@[simp] theorem modRing_cmd (r : Fin 16) (f : Ring → Ring) (s : State) : (modRing r f s).cmd = s.cmd := rfl
@[simp] theorem modRing_net (r : Fin 16) (f : Ring → Ring) (s : State) : (modRing r f s).net = s.net := rfl
@[simp] theorem modRing_time (r : Fin 16) (f : Ring → Ring) (s : State) : (modRing r f s).time = s.time := rfl
@[simp] theorem modRing_pwr (r : Fin 16) (f : Ring → Ring) (s : State) : (modRing r f s).pwr = s.pwr := rfl
@[simp] theorem modRing_thm (r : Fin 16) (f : Ring → Ring) (s : State) : (modRing r f s).thm = s.thm := rfl
@[simp] theorem modRing_flt (r : Fin 16) (f : Ring → Ring) (s : State) : (modRing r f s).flt = s.flt := rfl
@[simp] theorem modRing_cri (r : Fin 16) (f : Ring → Ring) (s : State) : (modRing r f s).cri = s.cri := rfl
@[simp] theorem modRing_bgd (r : Fin 16) (f : Ring → Ring) (s : State) : (modRing r f s).bgd = s.bgd := rfl
@[simp] theorem modRing_node (r : Fin 16) (f : Ring → Ring) (s : State) : (modRing r f s).node = s.node := rfl
@[simp] theorem modRing_ura (r : Fin 16) (f : Ring → Ring) (s : State) : (modRing r f s).ura = s.ura := rfl
@[simp] theorem modRing_fwVersion (r : Fin 16) (f : Ring → Ring) (s : State) : (modRing r f s).fwVersion = s.fwVersion := rfl
@[simp] theorem modRing_vis (r : Fin 16) (f : Ring → Ring) (s : State) : (modRing r f s).vis = s.vis := rfl
@[simp] theorem modRing_well (r : Fin 16) (f : Ring → Ring) (s : State) : (modRing r f s).well = s.well := rfl
@[simp] theorem modRing_chk (r : Fin 16) (f : Ring → Ring) (s : State) : (modRing r f s).chk = s.chk := rfl
@[simp] theorem modRing_job (r : Fin 16) (f : Ring → Ring) (s : State) : (modRing r f s).job = s.job := rfl
@[simp] theorem modRing_mot (r : Fin 16) (f : Ring → Ring) (s : State) : (modRing r f s).mot = s.mot := rfl
@[simp] theorem modRing_prod (r : Fin 16) (f : Ring → Ring) (s : State) : (modRing r f s).prod = s.prod := rfl
@[simp] theorem modRing_led (r : Fin 16) (f : Ring → Ring) (s : State) : (modRing r f s).led = s.led := rfl
@[simp] theorem modRing_tal (r : Fin 16) (f : Ring → Ring) (s : State) : (modRing r f s).tal = s.tal := rfl
@[simp] theorem modRing_twn (r : Fin 16) (f : Ring → Ring) (s : State) : (modRing r f s).twn = s.twn := rfl
@[simp] theorem modRing_kry (r : Fin 16) (f : Ring → Ring) (s : State) : (modRing r f s).kry = s.kry := rfl
@[simp] theorem modRing_mil (r : Fin 16) (f : Ring → Ring) (s : State) : (modRing r f s).mil = s.mil := rfl
@[simp] theorem modRing_lan (r : Fin 16) (f : Ring → Ring) (s : State) : (modRing r f s).lan = s.lan := rfl
@[simp] theorem modRing_stl (r : Fin 16) (f : Ring → Ring) (s : State) : (modRing r f s).stl = s.stl := rfl

/-! ### modWork -/

@[simp] theorem modWork_pending (r : Fin 16) (f : RingWork → RingWork) (s : State) : (modWork r f s).pending = s.pending := rfl
@[simp] theorem modWork_now (r : Fin 16) (f : RingWork → RingWork) (s : State) : (modWork r f s).now = s.now := rfl
@[simp] theorem modWork_outbox (r : Fin 16) (f : RingWork → RingWork) (s : State) : (modWork r f s).outbox = s.outbox := rfl
@[simp] theorem modWork_fresh (r : Fin 16) (f : RingWork → RingWork) (s : State) : (modWork r f s).fresh = s.fresh := rfl
@[simp] theorem modWork_cmd (r : Fin 16) (f : RingWork → RingWork) (s : State) : (modWork r f s).cmd = s.cmd := rfl
@[simp] theorem modWork_net (r : Fin 16) (f : RingWork → RingWork) (s : State) : (modWork r f s).net = s.net := rfl
@[simp] theorem modWork_time (r : Fin 16) (f : RingWork → RingWork) (s : State) : (modWork r f s).time = s.time := rfl
@[simp] theorem modWork_pwr (r : Fin 16) (f : RingWork → RingWork) (s : State) : (modWork r f s).pwr = s.pwr := rfl
@[simp] theorem modWork_thm (r : Fin 16) (f : RingWork → RingWork) (s : State) : (modWork r f s).thm = s.thm := rfl
@[simp] theorem modWork_flt (r : Fin 16) (f : RingWork → RingWork) (s : State) : (modWork r f s).flt = s.flt := rfl
@[simp] theorem modWork_cri (r : Fin 16) (f : RingWork → RingWork) (s : State) : (modWork r f s).cri = s.cri := rfl
@[simp] theorem modWork_bgd (r : Fin 16) (f : RingWork → RingWork) (s : State) : (modWork r f s).bgd = s.bgd := rfl
@[simp] theorem modWork_node (r : Fin 16) (f : RingWork → RingWork) (s : State) : (modWork r f s).node = s.node := rfl
@[simp] theorem modWork_ura (r : Fin 16) (f : RingWork → RingWork) (s : State) : (modWork r f s).ura = s.ura := rfl
@[simp] theorem modWork_fwVersion (r : Fin 16) (f : RingWork → RingWork) (s : State) : (modWork r f s).fwVersion = s.fwVersion := rfl
@[simp] theorem modWork_vis (r : Fin 16) (f : RingWork → RingWork) (s : State) : (modWork r f s).vis = s.vis := rfl
@[simp] theorem modWork_well (r : Fin 16) (f : RingWork → RingWork) (s : State) : (modWork r f s).well = s.well := rfl
@[simp] theorem modWork_chk (r : Fin 16) (f : RingWork → RingWork) (s : State) : (modWork r f s).chk = s.chk := rfl
@[simp] theorem modWork_job (r : Fin 16) (f : RingWork → RingWork) (s : State) : (modWork r f s).job = s.job := rfl
@[simp] theorem modWork_mot (r : Fin 16) (f : RingWork → RingWork) (s : State) : (modWork r f s).mot = s.mot := rfl
@[simp] theorem modWork_prod (r : Fin 16) (f : RingWork → RingWork) (s : State) : (modWork r f s).prod = s.prod := rfl
@[simp] theorem modWork_led (r : Fin 16) (f : RingWork → RingWork) (s : State) : (modWork r f s).led = s.led := rfl
@[simp] theorem modWork_tal (r : Fin 16) (f : RingWork → RingWork) (s : State) : (modWork r f s).tal = s.tal := rfl
@[simp] theorem modWork_twn (r : Fin 16) (f : RingWork → RingWork) (s : State) : (modWork r f s).twn = s.twn := rfl
@[simp] theorem modWork_kry (r : Fin 16) (f : RingWork → RingWork) (s : State) : (modWork r f s).kry = s.kry := rfl
@[simp] theorem modWork_mil (r : Fin 16) (f : RingWork → RingWork) (s : State) : (modWork r f s).mil = s.mil := rfl
@[simp] theorem modWork_lan (r : Fin 16) (f : RingWork → RingWork) (s : State) : (modWork r f s).lan = s.lan := rfl
@[simp] theorem modWork_stl (r : Fin 16) (f : RingWork → RingWork) (s : State) : (modWork r f s).stl = s.stl := rfl

/-! ### modClk -/

@[simp] theorem modClk_pending (f : Clock → Clock) (s : State) : (modClk f s).pending = s.pending := rfl
@[simp] theorem modClk_now (f : Clock → Clock) (s : State) : (modClk f s).now = s.now := rfl
@[simp] theorem modClk_outbox (f : Clock → Clock) (s : State) : (modClk f s).outbox = s.outbox := rfl
@[simp] theorem modClk_fresh (f : Clock → Clock) (s : State) : (modClk f s).fresh = s.fresh := rfl
@[simp] theorem modClk_cmd (f : Clock → Clock) (s : State) : (modClk f s).cmd = s.cmd := rfl
@[simp] theorem modClk_bar (f : Clock → Clock) (s : State) : (modClk f s).bar = s.bar := rfl
@[simp] theorem modClk_net (f : Clock → Clock) (s : State) : (modClk f s).net = s.net := rfl
@[simp] theorem modClk_pwr (f : Clock → Clock) (s : State) : (modClk f s).pwr = s.pwr := rfl
@[simp] theorem modClk_thm (f : Clock → Clock) (s : State) : (modClk f s).thm = s.thm := rfl
@[simp] theorem modClk_flt (f : Clock → Clock) (s : State) : (modClk f s).flt = s.flt := rfl
@[simp] theorem modClk_cri (f : Clock → Clock) (s : State) : (modClk f s).cri = s.cri := rfl
@[simp] theorem modClk_bgd (f : Clock → Clock) (s : State) : (modClk f s).bgd = s.bgd := rfl
@[simp] theorem modClk_node (f : Clock → Clock) (s : State) : (modClk f s).node = s.node := rfl
@[simp] theorem modClk_ura (f : Clock → Clock) (s : State) : (modClk f s).ura = s.ura := rfl
@[simp] theorem modClk_fwVersion (f : Clock → Clock) (s : State) : (modClk f s).fwVersion = s.fwVersion := rfl
@[simp] theorem modClk_vis (f : Clock → Clock) (s : State) : (modClk f s).vis = s.vis := rfl
@[simp] theorem modClk_well (f : Clock → Clock) (s : State) : (modClk f s).well = s.well := rfl
@[simp] theorem modClk_chk (f : Clock → Clock) (s : State) : (modClk f s).chk = s.chk := rfl
@[simp] theorem modClk_job (f : Clock → Clock) (s : State) : (modClk f s).job = s.job := rfl
@[simp] theorem modClk_mot (f : Clock → Clock) (s : State) : (modClk f s).mot = s.mot := rfl
@[simp] theorem modClk_prod (f : Clock → Clock) (s : State) : (modClk f s).prod = s.prod := rfl
@[simp] theorem modClk_led (f : Clock → Clock) (s : State) : (modClk f s).led = s.led := rfl
@[simp] theorem modClk_tal (f : Clock → Clock) (s : State) : (modClk f s).tal = s.tal := rfl
@[simp] theorem modClk_twn (f : Clock → Clock) (s : State) : (modClk f s).twn = s.twn := rfl
@[simp] theorem modClk_kry (f : Clock → Clock) (s : State) : (modClk f s).kry = s.kry := rfl
@[simp] theorem modClk_mil (f : Clock → Clock) (s : State) : (modClk f s).mil = s.mil := rfl
@[simp] theorem modClk_lan (f : Clock → Clock) (s : State) : (modClk f s).lan = s.lan := rfl
@[simp] theorem modClk_stl (f : Clock → Clock) (s : State) : (modClk f s).stl = s.stl := rfl

/-! ### modDom -/

@[simp] theorem modDom_pending (d : Fin 2) (f : PtpDom → PtpDom) (s : State) : (modDom d f s).pending = s.pending := rfl
@[simp] theorem modDom_now (d : Fin 2) (f : PtpDom → PtpDom) (s : State) : (modDom d f s).now = s.now := rfl
@[simp] theorem modDom_outbox (d : Fin 2) (f : PtpDom → PtpDom) (s : State) : (modDom d f s).outbox = s.outbox := rfl
@[simp] theorem modDom_fresh (d : Fin 2) (f : PtpDom → PtpDom) (s : State) : (modDom d f s).fresh = s.fresh := rfl
@[simp] theorem modDom_cmd (d : Fin 2) (f : PtpDom → PtpDom) (s : State) : (modDom d f s).cmd = s.cmd := rfl
@[simp] theorem modDom_bar (d : Fin 2) (f : PtpDom → PtpDom) (s : State) : (modDom d f s).bar = s.bar := rfl
@[simp] theorem modDom_net (d : Fin 2) (f : PtpDom → PtpDom) (s : State) : (modDom d f s).net = s.net := rfl
@[simp] theorem modDom_pwr (d : Fin 2) (f : PtpDom → PtpDom) (s : State) : (modDom d f s).pwr = s.pwr := rfl
@[simp] theorem modDom_thm (d : Fin 2) (f : PtpDom → PtpDom) (s : State) : (modDom d f s).thm = s.thm := rfl
@[simp] theorem modDom_flt (d : Fin 2) (f : PtpDom → PtpDom) (s : State) : (modDom d f s).flt = s.flt := rfl
@[simp] theorem modDom_cri (d : Fin 2) (f : PtpDom → PtpDom) (s : State) : (modDom d f s).cri = s.cri := rfl
@[simp] theorem modDom_bgd (d : Fin 2) (f : PtpDom → PtpDom) (s : State) : (modDom d f s).bgd = s.bgd := rfl
@[simp] theorem modDom_node (d : Fin 2) (f : PtpDom → PtpDom) (s : State) : (modDom d f s).node = s.node := rfl
@[simp] theorem modDom_ura (d : Fin 2) (f : PtpDom → PtpDom) (s : State) : (modDom d f s).ura = s.ura := rfl
@[simp] theorem modDom_fwVersion (d : Fin 2) (f : PtpDom → PtpDom) (s : State) : (modDom d f s).fwVersion = s.fwVersion := rfl
@[simp] theorem modDom_vis (d : Fin 2) (f : PtpDom → PtpDom) (s : State) : (modDom d f s).vis = s.vis := rfl
@[simp] theorem modDom_well (d : Fin 2) (f : PtpDom → PtpDom) (s : State) : (modDom d f s).well = s.well := rfl
@[simp] theorem modDom_chk (d : Fin 2) (f : PtpDom → PtpDom) (s : State) : (modDom d f s).chk = s.chk := rfl
@[simp] theorem modDom_job (d : Fin 2) (f : PtpDom → PtpDom) (s : State) : (modDom d f s).job = s.job := rfl
@[simp] theorem modDom_mot (d : Fin 2) (f : PtpDom → PtpDom) (s : State) : (modDom d f s).mot = s.mot := rfl
@[simp] theorem modDom_prod (d : Fin 2) (f : PtpDom → PtpDom) (s : State) : (modDom d f s).prod = s.prod := rfl
@[simp] theorem modDom_led (d : Fin 2) (f : PtpDom → PtpDom) (s : State) : (modDom d f s).led = s.led := rfl
@[simp] theorem modDom_tal (d : Fin 2) (f : PtpDom → PtpDom) (s : State) : (modDom d f s).tal = s.tal := rfl
@[simp] theorem modDom_twn (d : Fin 2) (f : PtpDom → PtpDom) (s : State) : (modDom d f s).twn = s.twn := rfl
@[simp] theorem modDom_kry (d : Fin 2) (f : PtpDom → PtpDom) (s : State) : (modDom d f s).kry = s.kry := rfl
@[simp] theorem modDom_mil (d : Fin 2) (f : PtpDom → PtpDom) (s : State) : (modDom d f s).mil = s.mil := rfl
@[simp] theorem modDom_lan (d : Fin 2) (f : PtpDom → PtpDom) (s : State) : (modDom d f s).lan = s.lan := rfl
@[simp] theorem modDom_stl (d : Fin 2) (f : PtpDom → PtpDom) (s : State) : (modDom d f s).stl = s.stl := rfl

/-! ### modTask -/

@[simp] theorem modTask_pending (i : Fin 7) (f : Task → Task) (s : State) : (modTask i f s).pending = s.pending := rfl
@[simp] theorem modTask_now (i : Fin 7) (f : Task → Task) (s : State) : (modTask i f s).now = s.now := rfl
@[simp] theorem modTask_outbox (i : Fin 7) (f : Task → Task) (s : State) : (modTask i f s).outbox = s.outbox := rfl
@[simp] theorem modTask_fresh (i : Fin 7) (f : Task → Task) (s : State) : (modTask i f s).fresh = s.fresh := rfl
@[simp] theorem modTask_cmd (i : Fin 7) (f : Task → Task) (s : State) : (modTask i f s).cmd = s.cmd := rfl
@[simp] theorem modTask_bar (i : Fin 7) (f : Task → Task) (s : State) : (modTask i f s).bar = s.bar := rfl
@[simp] theorem modTask_net (i : Fin 7) (f : Task → Task) (s : State) : (modTask i f s).net = s.net := rfl
@[simp] theorem modTask_time (i : Fin 7) (f : Task → Task) (s : State) : (modTask i f s).time = s.time := rfl
@[simp] theorem modTask_pwr (i : Fin 7) (f : Task → Task) (s : State) : (modTask i f s).pwr = s.pwr := rfl
@[simp] theorem modTask_thm (i : Fin 7) (f : Task → Task) (s : State) : (modTask i f s).thm = s.thm := rfl
@[simp] theorem modTask_flt (i : Fin 7) (f : Task → Task) (s : State) : (modTask i f s).flt = s.flt := rfl
@[simp] theorem modTask_cri (i : Fin 7) (f : Task → Task) (s : State) : (modTask i f s).cri = s.cri := rfl
@[simp] theorem modTask_node (i : Fin 7) (f : Task → Task) (s : State) : (modTask i f s).node = s.node := rfl
@[simp] theorem modTask_ura (i : Fin 7) (f : Task → Task) (s : State) : (modTask i f s).ura = s.ura := rfl
@[simp] theorem modTask_fwVersion (i : Fin 7) (f : Task → Task) (s : State) : (modTask i f s).fwVersion = s.fwVersion := rfl
@[simp] theorem modTask_vis (i : Fin 7) (f : Task → Task) (s : State) : (modTask i f s).vis = s.vis := rfl
@[simp] theorem modTask_well (i : Fin 7) (f : Task → Task) (s : State) : (modTask i f s).well = s.well := rfl
@[simp] theorem modTask_chk (i : Fin 7) (f : Task → Task) (s : State) : (modTask i f s).chk = s.chk := rfl
@[simp] theorem modTask_job (i : Fin 7) (f : Task → Task) (s : State) : (modTask i f s).job = s.job := rfl
@[simp] theorem modTask_mot (i : Fin 7) (f : Task → Task) (s : State) : (modTask i f s).mot = s.mot := rfl
@[simp] theorem modTask_prod (i : Fin 7) (f : Task → Task) (s : State) : (modTask i f s).prod = s.prod := rfl
@[simp] theorem modTask_led (i : Fin 7) (f : Task → Task) (s : State) : (modTask i f s).led = s.led := rfl
@[simp] theorem modTask_tal (i : Fin 7) (f : Task → Task) (s : State) : (modTask i f s).tal = s.tal := rfl
@[simp] theorem modTask_twn (i : Fin 7) (f : Task → Task) (s : State) : (modTask i f s).twn = s.twn := rfl
@[simp] theorem modTask_kry (i : Fin 7) (f : Task → Task) (s : State) : (modTask i f s).kry = s.kry := rfl
@[simp] theorem modTask_mil (i : Fin 7) (f : Task → Task) (s : State) : (modTask i f s).mil = s.mil := rfl
@[simp] theorem modTask_lan (i : Fin 7) (f : Task → Task) (s : State) : (modTask i f s).lan = s.lan := rfl
@[simp] theorem modTask_stl (i : Fin 7) (f : Task → Task) (s : State) : (modTask i f s).stl = s.stl := rfl

/-! ### modChan -/

@[simp] theorem modChan_pending (i : Fin 2) (f : WellChan → WellChan) (s : State) : (modChan i f s).pending = s.pending := rfl
@[simp] theorem modChan_now (i : Fin 2) (f : WellChan → WellChan) (s : State) : (modChan i f s).now = s.now := rfl
@[simp] theorem modChan_outbox (i : Fin 2) (f : WellChan → WellChan) (s : State) : (modChan i f s).outbox = s.outbox := rfl
@[simp] theorem modChan_fresh (i : Fin 2) (f : WellChan → WellChan) (s : State) : (modChan i f s).fresh = s.fresh := rfl
@[simp] theorem modChan_cmd (i : Fin 2) (f : WellChan → WellChan) (s : State) : (modChan i f s).cmd = s.cmd := rfl
@[simp] theorem modChan_bar (i : Fin 2) (f : WellChan → WellChan) (s : State) : (modChan i f s).bar = s.bar := rfl
@[simp] theorem modChan_net (i : Fin 2) (f : WellChan → WellChan) (s : State) : (modChan i f s).net = s.net := rfl
@[simp] theorem modChan_time (i : Fin 2) (f : WellChan → WellChan) (s : State) : (modChan i f s).time = s.time := rfl
@[simp] theorem modChan_pwr (i : Fin 2) (f : WellChan → WellChan) (s : State) : (modChan i f s).pwr = s.pwr := rfl
@[simp] theorem modChan_thm (i : Fin 2) (f : WellChan → WellChan) (s : State) : (modChan i f s).thm = s.thm := rfl
@[simp] theorem modChan_flt (i : Fin 2) (f : WellChan → WellChan) (s : State) : (modChan i f s).flt = s.flt := rfl
@[simp] theorem modChan_cri (i : Fin 2) (f : WellChan → WellChan) (s : State) : (modChan i f s).cri = s.cri := rfl
@[simp] theorem modChan_bgd (i : Fin 2) (f : WellChan → WellChan) (s : State) : (modChan i f s).bgd = s.bgd := rfl
@[simp] theorem modChan_node (i : Fin 2) (f : WellChan → WellChan) (s : State) : (modChan i f s).node = s.node := rfl
@[simp] theorem modChan_ura (i : Fin 2) (f : WellChan → WellChan) (s : State) : (modChan i f s).ura = s.ura := rfl
@[simp] theorem modChan_fwVersion (i : Fin 2) (f : WellChan → WellChan) (s : State) : (modChan i f s).fwVersion = s.fwVersion := rfl
@[simp] theorem modChan_vis (i : Fin 2) (f : WellChan → WellChan) (s : State) : (modChan i f s).vis = s.vis := rfl
@[simp] theorem modChan_chk (i : Fin 2) (f : WellChan → WellChan) (s : State) : (modChan i f s).chk = s.chk := rfl
@[simp] theorem modChan_job (i : Fin 2) (f : WellChan → WellChan) (s : State) : (modChan i f s).job = s.job := rfl
@[simp] theorem modChan_mot (i : Fin 2) (f : WellChan → WellChan) (s : State) : (modChan i f s).mot = s.mot := rfl
@[simp] theorem modChan_prod (i : Fin 2) (f : WellChan → WellChan) (s : State) : (modChan i f s).prod = s.prod := rfl
@[simp] theorem modChan_led (i : Fin 2) (f : WellChan → WellChan) (s : State) : (modChan i f s).led = s.led := rfl
@[simp] theorem modChan_tal (i : Fin 2) (f : WellChan → WellChan) (s : State) : (modChan i f s).tal = s.tal := rfl
@[simp] theorem modChan_twn (i : Fin 2) (f : WellChan → WellChan) (s : State) : (modChan i f s).twn = s.twn := rfl
@[simp] theorem modChan_kry (i : Fin 2) (f : WellChan → WellChan) (s : State) : (modChan i f s).kry = s.kry := rfl
@[simp] theorem modChan_mil (i : Fin 2) (f : WellChan → WellChan) (s : State) : (modChan i f s).mil = s.mil := rfl
@[simp] theorem modChan_lan (i : Fin 2) (f : WellChan → WellChan) (s : State) : (modChan i f s).lan = s.lan := rfl
@[simp] theorem modChan_stl (i : Fin 2) (f : WellChan → WellChan) (s : State) : (modChan i f s).stl = s.stl := rfl

/-! ### modStream -/

@[simp] theorem modStream_pending (i : Fin 16) (f : Stream → Stream) (s : State) : (modStream i f s).pending = s.pending := rfl
@[simp] theorem modStream_now (i : Fin 16) (f : Stream → Stream) (s : State) : (modStream i f s).now = s.now := rfl
@[simp] theorem modStream_outbox (i : Fin 16) (f : Stream → Stream) (s : State) : (modStream i f s).outbox = s.outbox := rfl
@[simp] theorem modStream_fresh (i : Fin 16) (f : Stream → Stream) (s : State) : (modStream i f s).fresh = s.fresh := rfl
@[simp] theorem modStream_cmd (i : Fin 16) (f : Stream → Stream) (s : State) : (modStream i f s).cmd = s.cmd := rfl
@[simp] theorem modStream_bar (i : Fin 16) (f : Stream → Stream) (s : State) : (modStream i f s).bar = s.bar := rfl
@[simp] theorem modStream_net (i : Fin 16) (f : Stream → Stream) (s : State) : (modStream i f s).net = s.net := rfl
@[simp] theorem modStream_time (i : Fin 16) (f : Stream → Stream) (s : State) : (modStream i f s).time = s.time := rfl
@[simp] theorem modStream_pwr (i : Fin 16) (f : Stream → Stream) (s : State) : (modStream i f s).pwr = s.pwr := rfl
@[simp] theorem modStream_thm (i : Fin 16) (f : Stream → Stream) (s : State) : (modStream i f s).thm = s.thm := rfl
@[simp] theorem modStream_flt (i : Fin 16) (f : Stream → Stream) (s : State) : (modStream i f s).flt = s.flt := rfl
@[simp] theorem modStream_cri (i : Fin 16) (f : Stream → Stream) (s : State) : (modStream i f s).cri = s.cri := rfl
@[simp] theorem modStream_bgd (i : Fin 16) (f : Stream → Stream) (s : State) : (modStream i f s).bgd = s.bgd := rfl
@[simp] theorem modStream_node (i : Fin 16) (f : Stream → Stream) (s : State) : (modStream i f s).node = s.node := rfl
@[simp] theorem modStream_ura (i : Fin 16) (f : Stream → Stream) (s : State) : (modStream i f s).ura = s.ura := rfl
@[simp] theorem modStream_fwVersion (i : Fin 16) (f : Stream → Stream) (s : State) : (modStream i f s).fwVersion = s.fwVersion := rfl
@[simp] theorem modStream_vis (i : Fin 16) (f : Stream → Stream) (s : State) : (modStream i f s).vis = s.vis := rfl
@[simp] theorem modStream_well (i : Fin 16) (f : Stream → Stream) (s : State) : (modStream i f s).well = s.well := rfl
@[simp] theorem modStream_chk (i : Fin 16) (f : Stream → Stream) (s : State) : (modStream i f s).chk = s.chk := rfl
@[simp] theorem modStream_job (i : Fin 16) (f : Stream → Stream) (s : State) : (modStream i f s).job = s.job := rfl
@[simp] theorem modStream_mot (i : Fin 16) (f : Stream → Stream) (s : State) : (modStream i f s).mot = s.mot := rfl
@[simp] theorem modStream_prod (i : Fin 16) (f : Stream → Stream) (s : State) : (modStream i f s).prod = s.prod := rfl
@[simp] theorem modStream_led (i : Fin 16) (f : Stream → Stream) (s : State) : (modStream i f s).led = s.led := rfl
@[simp] theorem modStream_twn (i : Fin 16) (f : Stream → Stream) (s : State) : (modStream i f s).twn = s.twn := rfl
@[simp] theorem modStream_kry (i : Fin 16) (f : Stream → Stream) (s : State) : (modStream i f s).kry = s.kry := rfl
@[simp] theorem modStream_mil (i : Fin 16) (f : Stream → Stream) (s : State) : (modStream i f s).mil = s.mil := rfl
@[simp] theorem modStream_lan (i : Fin 16) (f : Stream → Stream) (s : State) : (modStream i f s).lan = s.lan := rfl
@[simp] theorem modStream_stl (i : Fin 16) (f : Stream → Stream) (s : State) : (modStream i f s).stl = s.stl := rfl

/-! ### modPool -/

@[simp] theorem modPool_pending (i : Nat) (f : Pool → Pool) (s : State) : (modPool i f s).pending = s.pending := rfl
@[simp] theorem modPool_now (i : Nat) (f : Pool → Pool) (s : State) : (modPool i f s).now = s.now := rfl
@[simp] theorem modPool_outbox (i : Nat) (f : Pool → Pool) (s : State) : (modPool i f s).outbox = s.outbox := rfl
@[simp] theorem modPool_fresh (i : Nat) (f : Pool → Pool) (s : State) : (modPool i f s).fresh = s.fresh := rfl
@[simp] theorem modPool_cmd (i : Nat) (f : Pool → Pool) (s : State) : (modPool i f s).cmd = s.cmd := rfl
@[simp] theorem modPool_bar (i : Nat) (f : Pool → Pool) (s : State) : (modPool i f s).bar = s.bar := rfl
@[simp] theorem modPool_net (i : Nat) (f : Pool → Pool) (s : State) : (modPool i f s).net = s.net := rfl
@[simp] theorem modPool_time (i : Nat) (f : Pool → Pool) (s : State) : (modPool i f s).time = s.time := rfl
@[simp] theorem modPool_pwr (i : Nat) (f : Pool → Pool) (s : State) : (modPool i f s).pwr = s.pwr := rfl
@[simp] theorem modPool_thm (i : Nat) (f : Pool → Pool) (s : State) : (modPool i f s).thm = s.thm := rfl
@[simp] theorem modPool_flt (i : Nat) (f : Pool → Pool) (s : State) : (modPool i f s).flt = s.flt := rfl
@[simp] theorem modPool_cri (i : Nat) (f : Pool → Pool) (s : State) : (modPool i f s).cri = s.cri := rfl
@[simp] theorem modPool_bgd (i : Nat) (f : Pool → Pool) (s : State) : (modPool i f s).bgd = s.bgd := rfl
@[simp] theorem modPool_node (i : Nat) (f : Pool → Pool) (s : State) : (modPool i f s).node = s.node := rfl
@[simp] theorem modPool_ura (i : Nat) (f : Pool → Pool) (s : State) : (modPool i f s).ura = s.ura := rfl
@[simp] theorem modPool_fwVersion (i : Nat) (f : Pool → Pool) (s : State) : (modPool i f s).fwVersion = s.fwVersion := rfl
@[simp] theorem modPool_vis (i : Nat) (f : Pool → Pool) (s : State) : (modPool i f s).vis = s.vis := rfl
@[simp] theorem modPool_well (i : Nat) (f : Pool → Pool) (s : State) : (modPool i f s).well = s.well := rfl
@[simp] theorem modPool_chk (i : Nat) (f : Pool → Pool) (s : State) : (modPool i f s).chk = s.chk := rfl
@[simp] theorem modPool_job (i : Nat) (f : Pool → Pool) (s : State) : (modPool i f s).job = s.job := rfl
@[simp] theorem modPool_mot (i : Nat) (f : Pool → Pool) (s : State) : (modPool i f s).mot = s.mot := rfl
@[simp] theorem modPool_prod (i : Nat) (f : Pool → Pool) (s : State) : (modPool i f s).prod = s.prod := rfl
@[simp] theorem modPool_led (i : Nat) (f : Pool → Pool) (s : State) : (modPool i f s).led = s.led := rfl
@[simp] theorem modPool_twn (i : Nat) (f : Pool → Pool) (s : State) : (modPool i f s).twn = s.twn := rfl
@[simp] theorem modPool_kry (i : Nat) (f : Pool → Pool) (s : State) : (modPool i f s).kry = s.kry := rfl
@[simp] theorem modPool_mil (i : Nat) (f : Pool → Pool) (s : State) : (modPool i f s).mil = s.mil := rfl
@[simp] theorem modPool_lan (i : Nat) (f : Pool → Pool) (s : State) : (modPool i f s).lan = s.lan := rfl
@[simp] theorem modPool_stl (i : Nat) (f : Pool → Pool) (s : State) : (modPool i f s).stl = s.stl := rfl

/-! ### modRec -/

@[simp] theorem modRec_pending (n : Nat) (f : Rec → Rec) (s : State) : (modRec n f s).pending = s.pending := rfl
@[simp] theorem modRec_now (n : Nat) (f : Rec → Rec) (s : State) : (modRec n f s).now = s.now := rfl
@[simp] theorem modRec_outbox (n : Nat) (f : Rec → Rec) (s : State) : (modRec n f s).outbox = s.outbox := rfl
@[simp] theorem modRec_fresh (n : Nat) (f : Rec → Rec) (s : State) : (modRec n f s).fresh = s.fresh := rfl
@[simp] theorem modRec_cmd (n : Nat) (f : Rec → Rec) (s : State) : (modRec n f s).cmd = s.cmd := rfl
@[simp] theorem modRec_bar (n : Nat) (f : Rec → Rec) (s : State) : (modRec n f s).bar = s.bar := rfl
@[simp] theorem modRec_net (n : Nat) (f : Rec → Rec) (s : State) : (modRec n f s).net = s.net := rfl
@[simp] theorem modRec_time (n : Nat) (f : Rec → Rec) (s : State) : (modRec n f s).time = s.time := rfl
@[simp] theorem modRec_pwr (n : Nat) (f : Rec → Rec) (s : State) : (modRec n f s).pwr = s.pwr := rfl
@[simp] theorem modRec_thm (n : Nat) (f : Rec → Rec) (s : State) : (modRec n f s).thm = s.thm := rfl
@[simp] theorem modRec_flt (n : Nat) (f : Rec → Rec) (s : State) : (modRec n f s).flt = s.flt := rfl
@[simp] theorem modRec_cri (n : Nat) (f : Rec → Rec) (s : State) : (modRec n f s).cri = s.cri := rfl
@[simp] theorem modRec_bgd (n : Nat) (f : Rec → Rec) (s : State) : (modRec n f s).bgd = s.bgd := rfl
@[simp] theorem modRec_node (n : Nat) (f : Rec → Rec) (s : State) : (modRec n f s).node = s.node := rfl
@[simp] theorem modRec_ura (n : Nat) (f : Rec → Rec) (s : State) : (modRec n f s).ura = s.ura := rfl
@[simp] theorem modRec_fwVersion (n : Nat) (f : Rec → Rec) (s : State) : (modRec n f s).fwVersion = s.fwVersion := rfl
@[simp] theorem modRec_vis (n : Nat) (f : Rec → Rec) (s : State) : (modRec n f s).vis = s.vis := rfl
@[simp] theorem modRec_well (n : Nat) (f : Rec → Rec) (s : State) : (modRec n f s).well = s.well := rfl
@[simp] theorem modRec_chk (n : Nat) (f : Rec → Rec) (s : State) : (modRec n f s).chk = s.chk := rfl
@[simp] theorem modRec_job (n : Nat) (f : Rec → Rec) (s : State) : (modRec n f s).job = s.job := rfl
@[simp] theorem modRec_mot (n : Nat) (f : Rec → Rec) (s : State) : (modRec n f s).mot = s.mot := rfl
@[simp] theorem modRec_prod (n : Nat) (f : Rec → Rec) (s : State) : (modRec n f s).prod = s.prod := rfl
@[simp] theorem modRec_led (n : Nat) (f : Rec → Rec) (s : State) : (modRec n f s).led = s.led := rfl
@[simp] theorem modRec_twn (n : Nat) (f : Rec → Rec) (s : State) : (modRec n f s).twn = s.twn := rfl
@[simp] theorem modRec_kry (n : Nat) (f : Rec → Rec) (s : State) : (modRec n f s).kry = s.kry := rfl
@[simp] theorem modRec_mil (n : Nat) (f : Rec → Rec) (s : State) : (modRec n f s).mil = s.mil := rfl
@[simp] theorem modRec_lan (n : Nat) (f : Rec → Rec) (s : State) : (modRec n f s).lan = s.lan := rfl
@[simp] theorem modRec_stl (n : Nat) (f : Rec → Rec) (s : State) : (modRec n f s).stl = s.stl := rfl

/-! ### modProduct -/

@[simp] theorem modProduct_pending (n : Nat) (f : Product → Product) (s : State) : (modProduct n f s).pending = s.pending := rfl
@[simp] theorem modProduct_now (n : Nat) (f : Product → Product) (s : State) : (modProduct n f s).now = s.now := rfl
@[simp] theorem modProduct_outbox (n : Nat) (f : Product → Product) (s : State) : (modProduct n f s).outbox = s.outbox := rfl
@[simp] theorem modProduct_fresh (n : Nat) (f : Product → Product) (s : State) : (modProduct n f s).fresh = s.fresh := rfl
@[simp] theorem modProduct_cmd (n : Nat) (f : Product → Product) (s : State) : (modProduct n f s).cmd = s.cmd := rfl
@[simp] theorem modProduct_bar (n : Nat) (f : Product → Product) (s : State) : (modProduct n f s).bar = s.bar := rfl
@[simp] theorem modProduct_net (n : Nat) (f : Product → Product) (s : State) : (modProduct n f s).net = s.net := rfl
@[simp] theorem modProduct_time (n : Nat) (f : Product → Product) (s : State) : (modProduct n f s).time = s.time := rfl
@[simp] theorem modProduct_pwr (n : Nat) (f : Product → Product) (s : State) : (modProduct n f s).pwr = s.pwr := rfl
@[simp] theorem modProduct_thm (n : Nat) (f : Product → Product) (s : State) : (modProduct n f s).thm = s.thm := rfl
@[simp] theorem modProduct_flt (n : Nat) (f : Product → Product) (s : State) : (modProduct n f s).flt = s.flt := rfl
@[simp] theorem modProduct_cri (n : Nat) (f : Product → Product) (s : State) : (modProduct n f s).cri = s.cri := rfl
@[simp] theorem modProduct_bgd (n : Nat) (f : Product → Product) (s : State) : (modProduct n f s).bgd = s.bgd := rfl
@[simp] theorem modProduct_node (n : Nat) (f : Product → Product) (s : State) : (modProduct n f s).node = s.node := rfl
@[simp] theorem modProduct_ura (n : Nat) (f : Product → Product) (s : State) : (modProduct n f s).ura = s.ura := rfl
@[simp] theorem modProduct_fwVersion (n : Nat) (f : Product → Product) (s : State) : (modProduct n f s).fwVersion = s.fwVersion := rfl
@[simp] theorem modProduct_vis (n : Nat) (f : Product → Product) (s : State) : (modProduct n f s).vis = s.vis := rfl
@[simp] theorem modProduct_well (n : Nat) (f : Product → Product) (s : State) : (modProduct n f s).well = s.well := rfl
@[simp] theorem modProduct_chk (n : Nat) (f : Product → Product) (s : State) : (modProduct n f s).chk = s.chk := rfl
@[simp] theorem modProduct_job (n : Nat) (f : Product → Product) (s : State) : (modProduct n f s).job = s.job := rfl
@[simp] theorem modProduct_mot (n : Nat) (f : Product → Product) (s : State) : (modProduct n f s).mot = s.mot := rfl
@[simp] theorem modProduct_led (n : Nat) (f : Product → Product) (s : State) : (modProduct n f s).led = s.led := rfl
@[simp] theorem modProduct_tal (n : Nat) (f : Product → Product) (s : State) : (modProduct n f s).tal = s.tal := rfl
@[simp] theorem modProduct_twn (n : Nat) (f : Product → Product) (s : State) : (modProduct n f s).twn = s.twn := rfl
@[simp] theorem modProduct_kry (n : Nat) (f : Product → Product) (s : State) : (modProduct n f s).kry = s.kry := rfl
@[simp] theorem modProduct_mil (n : Nat) (f : Product → Product) (s : State) : (modProduct n f s).mil = s.mil := rfl
@[simp] theorem modProduct_lan (n : Nat) (f : Product → Product) (s : State) : (modProduct n f s).lan = s.lan := rfl
@[simp] theorem modProduct_stl (n : Nat) (f : Product → Product) (s : State) : (modProduct n f s).stl = s.stl := rfl

/-! ### modJob -/

@[simp] theorem modJob_pending (n : Nat) (f : Job → Job) (s : State) : (modJob n f s).pending = s.pending := rfl
@[simp] theorem modJob_now (n : Nat) (f : Job → Job) (s : State) : (modJob n f s).now = s.now := rfl
@[simp] theorem modJob_outbox (n : Nat) (f : Job → Job) (s : State) : (modJob n f s).outbox = s.outbox := rfl
@[simp] theorem modJob_fresh (n : Nat) (f : Job → Job) (s : State) : (modJob n f s).fresh = s.fresh := rfl
@[simp] theorem modJob_cmd (n : Nat) (f : Job → Job) (s : State) : (modJob n f s).cmd = s.cmd := rfl
@[simp] theorem modJob_bar (n : Nat) (f : Job → Job) (s : State) : (modJob n f s).bar = s.bar := rfl
@[simp] theorem modJob_net (n : Nat) (f : Job → Job) (s : State) : (modJob n f s).net = s.net := rfl
@[simp] theorem modJob_time (n : Nat) (f : Job → Job) (s : State) : (modJob n f s).time = s.time := rfl
@[simp] theorem modJob_pwr (n : Nat) (f : Job → Job) (s : State) : (modJob n f s).pwr = s.pwr := rfl
@[simp] theorem modJob_thm (n : Nat) (f : Job → Job) (s : State) : (modJob n f s).thm = s.thm := rfl
@[simp] theorem modJob_flt (n : Nat) (f : Job → Job) (s : State) : (modJob n f s).flt = s.flt := rfl
@[simp] theorem modJob_cri (n : Nat) (f : Job → Job) (s : State) : (modJob n f s).cri = s.cri := rfl
@[simp] theorem modJob_bgd (n : Nat) (f : Job → Job) (s : State) : (modJob n f s).bgd = s.bgd := rfl
@[simp] theorem modJob_node (n : Nat) (f : Job → Job) (s : State) : (modJob n f s).node = s.node := rfl
@[simp] theorem modJob_ura (n : Nat) (f : Job → Job) (s : State) : (modJob n f s).ura = s.ura := rfl
@[simp] theorem modJob_fwVersion (n : Nat) (f : Job → Job) (s : State) : (modJob n f s).fwVersion = s.fwVersion := rfl
@[simp] theorem modJob_vis (n : Nat) (f : Job → Job) (s : State) : (modJob n f s).vis = s.vis := rfl
@[simp] theorem modJob_well (n : Nat) (f : Job → Job) (s : State) : (modJob n f s).well = s.well := rfl
@[simp] theorem modJob_chk (n : Nat) (f : Job → Job) (s : State) : (modJob n f s).chk = s.chk := rfl
@[simp] theorem modJob_mot (n : Nat) (f : Job → Job) (s : State) : (modJob n f s).mot = s.mot := rfl
@[simp] theorem modJob_prod (n : Nat) (f : Job → Job) (s : State) : (modJob n f s).prod = s.prod := rfl
@[simp] theorem modJob_led (n : Nat) (f : Job → Job) (s : State) : (modJob n f s).led = s.led := rfl
@[simp] theorem modJob_tal (n : Nat) (f : Job → Job) (s : State) : (modJob n f s).tal = s.tal := rfl
@[simp] theorem modJob_twn (n : Nat) (f : Job → Job) (s : State) : (modJob n f s).twn = s.twn := rfl
@[simp] theorem modJob_kry (n : Nat) (f : Job → Job) (s : State) : (modJob n f s).kry = s.kry := rfl
@[simp] theorem modJob_mil (n : Nat) (f : Job → Job) (s : State) : (modJob n f s).mil = s.mil := rfl
@[simp] theorem modJob_lan (n : Nat) (f : Job → Job) (s : State) : (modJob n f s).lan = s.lan := rfl
@[simp] theorem modJob_stl (n : Nat) (f : Job → Job) (s : State) : (modJob n f s).stl = s.stl := rfl

/-! ### modRecipe -/

@[simp] theorem modRecipe_pending (n : Nat) (f : Recipe → Recipe) (s : State) : (modRecipe n f s).pending = s.pending := rfl
@[simp] theorem modRecipe_now (n : Nat) (f : Recipe → Recipe) (s : State) : (modRecipe n f s).now = s.now := rfl
@[simp] theorem modRecipe_outbox (n : Nat) (f : Recipe → Recipe) (s : State) : (modRecipe n f s).outbox = s.outbox := rfl
@[simp] theorem modRecipe_fresh (n : Nat) (f : Recipe → Recipe) (s : State) : (modRecipe n f s).fresh = s.fresh := rfl
@[simp] theorem modRecipe_cmd (n : Nat) (f : Recipe → Recipe) (s : State) : (modRecipe n f s).cmd = s.cmd := rfl
@[simp] theorem modRecipe_bar (n : Nat) (f : Recipe → Recipe) (s : State) : (modRecipe n f s).bar = s.bar := rfl
@[simp] theorem modRecipe_net (n : Nat) (f : Recipe → Recipe) (s : State) : (modRecipe n f s).net = s.net := rfl
@[simp] theorem modRecipe_time (n : Nat) (f : Recipe → Recipe) (s : State) : (modRecipe n f s).time = s.time := rfl
@[simp] theorem modRecipe_pwr (n : Nat) (f : Recipe → Recipe) (s : State) : (modRecipe n f s).pwr = s.pwr := rfl
@[simp] theorem modRecipe_thm (n : Nat) (f : Recipe → Recipe) (s : State) : (modRecipe n f s).thm = s.thm := rfl
@[simp] theorem modRecipe_flt (n : Nat) (f : Recipe → Recipe) (s : State) : (modRecipe n f s).flt = s.flt := rfl
@[simp] theorem modRecipe_cri (n : Nat) (f : Recipe → Recipe) (s : State) : (modRecipe n f s).cri = s.cri := rfl
@[simp] theorem modRecipe_bgd (n : Nat) (f : Recipe → Recipe) (s : State) : (modRecipe n f s).bgd = s.bgd := rfl
@[simp] theorem modRecipe_node (n : Nat) (f : Recipe → Recipe) (s : State) : (modRecipe n f s).node = s.node := rfl
@[simp] theorem modRecipe_ura (n : Nat) (f : Recipe → Recipe) (s : State) : (modRecipe n f s).ura = s.ura := rfl
@[simp] theorem modRecipe_fwVersion (n : Nat) (f : Recipe → Recipe) (s : State) : (modRecipe n f s).fwVersion = s.fwVersion := rfl
@[simp] theorem modRecipe_vis (n : Nat) (f : Recipe → Recipe) (s : State) : (modRecipe n f s).vis = s.vis := rfl
@[simp] theorem modRecipe_well (n : Nat) (f : Recipe → Recipe) (s : State) : (modRecipe n f s).well = s.well := rfl
@[simp] theorem modRecipe_chk (n : Nat) (f : Recipe → Recipe) (s : State) : (modRecipe n f s).chk = s.chk := rfl
@[simp] theorem modRecipe_job (n : Nat) (f : Recipe → Recipe) (s : State) : (modRecipe n f s).job = s.job := rfl
@[simp] theorem modRecipe_mot (n : Nat) (f : Recipe → Recipe) (s : State) : (modRecipe n f s).mot = s.mot := rfl
@[simp] theorem modRecipe_prod (n : Nat) (f : Recipe → Recipe) (s : State) : (modRecipe n f s).prod = s.prod := rfl
@[simp] theorem modRecipe_led (n : Nat) (f : Recipe → Recipe) (s : State) : (modRecipe n f s).led = s.led := rfl
@[simp] theorem modRecipe_tal (n : Nat) (f : Recipe → Recipe) (s : State) : (modRecipe n f s).tal = s.tal := rfl
@[simp] theorem modRecipe_twn (n : Nat) (f : Recipe → Recipe) (s : State) : (modRecipe n f s).twn = s.twn := rfl
@[simp] theorem modRecipe_kry (n : Nat) (f : Recipe → Recipe) (s : State) : (modRecipe n f s).kry = s.kry := rfl
@[simp] theorem modRecipe_lan (n : Nat) (f : Recipe → Recipe) (s : State) : (modRecipe n f s).lan = s.lan := rfl
@[simp] theorem modRecipe_stl (n : Nat) (f : Recipe → Recipe) (s : State) : (modRecipe n f s).stl = s.stl := rfl

/-! ### modLine -/

@[simp] theorem modLine_pending (n : Nat) (f : LineSlot → LineSlot) (s : State) : (modLine n f s).pending = s.pending := rfl
@[simp] theorem modLine_now (n : Nat) (f : LineSlot → LineSlot) (s : State) : (modLine n f s).now = s.now := rfl
@[simp] theorem modLine_outbox (n : Nat) (f : LineSlot → LineSlot) (s : State) : (modLine n f s).outbox = s.outbox := rfl
@[simp] theorem modLine_fresh (n : Nat) (f : LineSlot → LineSlot) (s : State) : (modLine n f s).fresh = s.fresh := rfl
@[simp] theorem modLine_cmd (n : Nat) (f : LineSlot → LineSlot) (s : State) : (modLine n f s).cmd = s.cmd := rfl
@[simp] theorem modLine_bar (n : Nat) (f : LineSlot → LineSlot) (s : State) : (modLine n f s).bar = s.bar := rfl
@[simp] theorem modLine_net (n : Nat) (f : LineSlot → LineSlot) (s : State) : (modLine n f s).net = s.net := rfl
@[simp] theorem modLine_time (n : Nat) (f : LineSlot → LineSlot) (s : State) : (modLine n f s).time = s.time := rfl
@[simp] theorem modLine_pwr (n : Nat) (f : LineSlot → LineSlot) (s : State) : (modLine n f s).pwr = s.pwr := rfl
@[simp] theorem modLine_thm (n : Nat) (f : LineSlot → LineSlot) (s : State) : (modLine n f s).thm = s.thm := rfl
@[simp] theorem modLine_flt (n : Nat) (f : LineSlot → LineSlot) (s : State) : (modLine n f s).flt = s.flt := rfl
@[simp] theorem modLine_cri (n : Nat) (f : LineSlot → LineSlot) (s : State) : (modLine n f s).cri = s.cri := rfl
@[simp] theorem modLine_bgd (n : Nat) (f : LineSlot → LineSlot) (s : State) : (modLine n f s).bgd = s.bgd := rfl
@[simp] theorem modLine_node (n : Nat) (f : LineSlot → LineSlot) (s : State) : (modLine n f s).node = s.node := rfl
@[simp] theorem modLine_ura (n : Nat) (f : LineSlot → LineSlot) (s : State) : (modLine n f s).ura = s.ura := rfl
@[simp] theorem modLine_fwVersion (n : Nat) (f : LineSlot → LineSlot) (s : State) : (modLine n f s).fwVersion = s.fwVersion := rfl
@[simp] theorem modLine_vis (n : Nat) (f : LineSlot → LineSlot) (s : State) : (modLine n f s).vis = s.vis := rfl
@[simp] theorem modLine_well (n : Nat) (f : LineSlot → LineSlot) (s : State) : (modLine n f s).well = s.well := rfl
@[simp] theorem modLine_chk (n : Nat) (f : LineSlot → LineSlot) (s : State) : (modLine n f s).chk = s.chk := rfl
@[simp] theorem modLine_job (n : Nat) (f : LineSlot → LineSlot) (s : State) : (modLine n f s).job = s.job := rfl
@[simp] theorem modLine_mot (n : Nat) (f : LineSlot → LineSlot) (s : State) : (modLine n f s).mot = s.mot := rfl
@[simp] theorem modLine_prod (n : Nat) (f : LineSlot → LineSlot) (s : State) : (modLine n f s).prod = s.prod := rfl
@[simp] theorem modLine_led (n : Nat) (f : LineSlot → LineSlot) (s : State) : (modLine n f s).led = s.led := rfl
@[simp] theorem modLine_tal (n : Nat) (f : LineSlot → LineSlot) (s : State) : (modLine n f s).tal = s.tal := rfl
@[simp] theorem modLine_twn (n : Nat) (f : LineSlot → LineSlot) (s : State) : (modLine n f s).twn = s.twn := rfl
@[simp] theorem modLine_kry (n : Nat) (f : LineSlot → LineSlot) (s : State) : (modLine n f s).kry = s.kry := rfl
@[simp] theorem modLine_lan (n : Nat) (f : LineSlot → LineSlot) (s : State) : (modLine n f s).lan = s.lan := rfl
@[simp] theorem modLine_stl (n : Nat) (f : LineSlot → LineSlot) (s : State) : (modLine n f s).stl = s.stl := rfl

/-! ### modDigest -/

@[simp] theorem modDigest_pending (n : Nat) (f : LineDigest → LineDigest) (s : State) : (modDigest n f s).pending = s.pending := rfl
@[simp] theorem modDigest_now (n : Nat) (f : LineDigest → LineDigest) (s : State) : (modDigest n f s).now = s.now := rfl
@[simp] theorem modDigest_outbox (n : Nat) (f : LineDigest → LineDigest) (s : State) : (modDigest n f s).outbox = s.outbox := rfl
@[simp] theorem modDigest_fresh (n : Nat) (f : LineDigest → LineDigest) (s : State) : (modDigest n f s).fresh = s.fresh := rfl
@[simp] theorem modDigest_cmd (n : Nat) (f : LineDigest → LineDigest) (s : State) : (modDigest n f s).cmd = s.cmd := rfl
@[simp] theorem modDigest_bar (n : Nat) (f : LineDigest → LineDigest) (s : State) : (modDigest n f s).bar = s.bar := rfl
@[simp] theorem modDigest_net (n : Nat) (f : LineDigest → LineDigest) (s : State) : (modDigest n f s).net = s.net := rfl
@[simp] theorem modDigest_time (n : Nat) (f : LineDigest → LineDigest) (s : State) : (modDigest n f s).time = s.time := rfl
@[simp] theorem modDigest_pwr (n : Nat) (f : LineDigest → LineDigest) (s : State) : (modDigest n f s).pwr = s.pwr := rfl
@[simp] theorem modDigest_thm (n : Nat) (f : LineDigest → LineDigest) (s : State) : (modDigest n f s).thm = s.thm := rfl
@[simp] theorem modDigest_flt (n : Nat) (f : LineDigest → LineDigest) (s : State) : (modDigest n f s).flt = s.flt := rfl
@[simp] theorem modDigest_cri (n : Nat) (f : LineDigest → LineDigest) (s : State) : (modDigest n f s).cri = s.cri := rfl
@[simp] theorem modDigest_bgd (n : Nat) (f : LineDigest → LineDigest) (s : State) : (modDigest n f s).bgd = s.bgd := rfl
@[simp] theorem modDigest_node (n : Nat) (f : LineDigest → LineDigest) (s : State) : (modDigest n f s).node = s.node := rfl
@[simp] theorem modDigest_ura (n : Nat) (f : LineDigest → LineDigest) (s : State) : (modDigest n f s).ura = s.ura := rfl
@[simp] theorem modDigest_fwVersion (n : Nat) (f : LineDigest → LineDigest) (s : State) : (modDigest n f s).fwVersion = s.fwVersion := rfl
@[simp] theorem modDigest_vis (n : Nat) (f : LineDigest → LineDigest) (s : State) : (modDigest n f s).vis = s.vis := rfl
@[simp] theorem modDigest_well (n : Nat) (f : LineDigest → LineDigest) (s : State) : (modDigest n f s).well = s.well := rfl
@[simp] theorem modDigest_chk (n : Nat) (f : LineDigest → LineDigest) (s : State) : (modDigest n f s).chk = s.chk := rfl
@[simp] theorem modDigest_job (n : Nat) (f : LineDigest → LineDigest) (s : State) : (modDigest n f s).job = s.job := rfl
@[simp] theorem modDigest_mot (n : Nat) (f : LineDigest → LineDigest) (s : State) : (modDigest n f s).mot = s.mot := rfl
@[simp] theorem modDigest_prod (n : Nat) (f : LineDigest → LineDigest) (s : State) : (modDigest n f s).prod = s.prod := rfl
@[simp] theorem modDigest_led (n : Nat) (f : LineDigest → LineDigest) (s : State) : (modDigest n f s).led = s.led := rfl
@[simp] theorem modDigest_tal (n : Nat) (f : LineDigest → LineDigest) (s : State) : (modDigest n f s).tal = s.tal := rfl
@[simp] theorem modDigest_kry (n : Nat) (f : LineDigest → LineDigest) (s : State) : (modDigest n f s).kry = s.kry := rfl
@[simp] theorem modDigest_mil (n : Nat) (f : LineDigest → LineDigest) (s : State) : (modDigest n f s).mil = s.mil := rfl
@[simp] theorem modDigest_lan (n : Nat) (f : LineDigest → LineDigest) (s : State) : (modDigest n f s).lan = s.lan := rfl
@[simp] theorem modDigest_stl (n : Nat) (f : LineDigest → LineDigest) (s : State) : (modDigest n f s).stl = s.stl := rfl

/-! ### modCred -/

@[simp] theorem modCred_pending (r : Role) (n : Nat) (f : Cred → Cred) (s : State) : (modCred r n f s).pending = s.pending := rfl
@[simp] theorem modCred_now (r : Role) (n : Nat) (f : Cred → Cred) (s : State) : (modCred r n f s).now = s.now := rfl
@[simp] theorem modCred_outbox (r : Role) (n : Nat) (f : Cred → Cred) (s : State) : (modCred r n f s).outbox = s.outbox := rfl
@[simp] theorem modCred_fresh (r : Role) (n : Nat) (f : Cred → Cred) (s : State) : (modCred r n f s).fresh = s.fresh := rfl
@[simp] theorem modCred_cmd (r : Role) (n : Nat) (f : Cred → Cred) (s : State) : (modCred r n f s).cmd = s.cmd := rfl
@[simp] theorem modCred_bar (r : Role) (n : Nat) (f : Cred → Cred) (s : State) : (modCred r n f s).bar = s.bar := rfl
@[simp] theorem modCred_net (r : Role) (n : Nat) (f : Cred → Cred) (s : State) : (modCred r n f s).net = s.net := rfl
@[simp] theorem modCred_time (r : Role) (n : Nat) (f : Cred → Cred) (s : State) : (modCred r n f s).time = s.time := rfl
@[simp] theorem modCred_pwr (r : Role) (n : Nat) (f : Cred → Cred) (s : State) : (modCred r n f s).pwr = s.pwr := rfl
@[simp] theorem modCred_thm (r : Role) (n : Nat) (f : Cred → Cred) (s : State) : (modCred r n f s).thm = s.thm := rfl
@[simp] theorem modCred_flt (r : Role) (n : Nat) (f : Cred → Cred) (s : State) : (modCred r n f s).flt = s.flt := rfl
@[simp] theorem modCred_cri (r : Role) (n : Nat) (f : Cred → Cred) (s : State) : (modCred r n f s).cri = s.cri := rfl
@[simp] theorem modCred_bgd (r : Role) (n : Nat) (f : Cred → Cred) (s : State) : (modCred r n f s).bgd = s.bgd := rfl
@[simp] theorem modCred_node (r : Role) (n : Nat) (f : Cred → Cred) (s : State) : (modCred r n f s).node = s.node := rfl
@[simp] theorem modCred_ura (r : Role) (n : Nat) (f : Cred → Cred) (s : State) : (modCred r n f s).ura = s.ura := rfl
@[simp] theorem modCred_fwVersion (r : Role) (n : Nat) (f : Cred → Cred) (s : State) : (modCred r n f s).fwVersion = s.fwVersion := rfl
@[simp] theorem modCred_vis (r : Role) (n : Nat) (f : Cred → Cred) (s : State) : (modCred r n f s).vis = s.vis := rfl
@[simp] theorem modCred_well (r : Role) (n : Nat) (f : Cred → Cred) (s : State) : (modCred r n f s).well = s.well := rfl
@[simp] theorem modCred_chk (r : Role) (n : Nat) (f : Cred → Cred) (s : State) : (modCred r n f s).chk = s.chk := rfl
@[simp] theorem modCred_job (r : Role) (n : Nat) (f : Cred → Cred) (s : State) : (modCred r n f s).job = s.job := rfl
@[simp] theorem modCred_mot (r : Role) (n : Nat) (f : Cred → Cred) (s : State) : (modCred r n f s).mot = s.mot := rfl
@[simp] theorem modCred_prod (r : Role) (n : Nat) (f : Cred → Cred) (s : State) : (modCred r n f s).prod = s.prod := rfl
@[simp] theorem modCred_led (r : Role) (n : Nat) (f : Cred → Cred) (s : State) : (modCred r n f s).led = s.led := rfl
@[simp] theorem modCred_tal (r : Role) (n : Nat) (f : Cred → Cred) (s : State) : (modCred r n f s).tal = s.tal := rfl
@[simp] theorem modCred_twn (r : Role) (n : Nat) (f : Cred → Cred) (s : State) : (modCred r n f s).twn = s.twn := rfl
@[simp] theorem modCred_mil (r : Role) (n : Nat) (f : Cred → Cred) (s : State) : (modCred r n f s).mil = s.mil := rfl
@[simp] theorem modCred_lan (r : Role) (n : Nat) (f : Cred → Cred) (s : State) : (modCred r n f s).lan = s.lan := rfl
@[simp] theorem modCred_stl (r : Role) (n : Nat) (f : Cred → Cred) (s : State) : (modCred r n f s).stl = s.stl := rfl

/-! ### takeInbox -/

@[simp] theorem takeInbox_pending (n : Nat) (s : State) : (takeInbox n s).pending = s.pending := rfl
@[simp] theorem takeInbox_now (n : Nat) (s : State) : (takeInbox n s).now = s.now := rfl
@[simp] theorem takeInbox_outbox (n : Nat) (s : State) : (takeInbox n s).outbox = s.outbox := rfl
@[simp] theorem takeInbox_fresh (n : Nat) (s : State) : (takeInbox n s).fresh = s.fresh := rfl
@[simp] theorem takeInbox_cmd (n : Nat) (s : State) : (takeInbox n s).cmd = s.cmd := rfl
@[simp] theorem takeInbox_bar (n : Nat) (s : State) : (takeInbox n s).bar = s.bar := rfl
@[simp] theorem takeInbox_net (n : Nat) (s : State) : (takeInbox n s).net = s.net := rfl
@[simp] theorem takeInbox_time (n : Nat) (s : State) : (takeInbox n s).time = s.time := rfl
@[simp] theorem takeInbox_pwr (n : Nat) (s : State) : (takeInbox n s).pwr = s.pwr := rfl
@[simp] theorem takeInbox_thm (n : Nat) (s : State) : (takeInbox n s).thm = s.thm := rfl
@[simp] theorem takeInbox_flt (n : Nat) (s : State) : (takeInbox n s).flt = s.flt := rfl
@[simp] theorem takeInbox_cri (n : Nat) (s : State) : (takeInbox n s).cri = s.cri := rfl
@[simp] theorem takeInbox_bgd (n : Nat) (s : State) : (takeInbox n s).bgd = s.bgd := rfl
@[simp] theorem takeInbox_node (n : Nat) (s : State) : (takeInbox n s).node = s.node := rfl
@[simp] theorem takeInbox_fwVersion (n : Nat) (s : State) : (takeInbox n s).fwVersion = s.fwVersion := rfl
@[simp] theorem takeInbox_vis (n : Nat) (s : State) : (takeInbox n s).vis = s.vis := rfl
@[simp] theorem takeInbox_well (n : Nat) (s : State) : (takeInbox n s).well = s.well := rfl
@[simp] theorem takeInbox_chk (n : Nat) (s : State) : (takeInbox n s).chk = s.chk := rfl
@[simp] theorem takeInbox_job (n : Nat) (s : State) : (takeInbox n s).job = s.job := rfl
@[simp] theorem takeInbox_mot (n : Nat) (s : State) : (takeInbox n s).mot = s.mot := rfl
@[simp] theorem takeInbox_prod (n : Nat) (s : State) : (takeInbox n s).prod = s.prod := rfl
@[simp] theorem takeInbox_led (n : Nat) (s : State) : (takeInbox n s).led = s.led := rfl
@[simp] theorem takeInbox_tal (n : Nat) (s : State) : (takeInbox n s).tal = s.tal := rfl
@[simp] theorem takeInbox_twn (n : Nat) (s : State) : (takeInbox n s).twn = s.twn := rfl
@[simp] theorem takeInbox_kry (n : Nat) (s : State) : (takeInbox n s).kry = s.kry := rfl
@[simp] theorem takeInbox_mil (n : Nat) (s : State) : (takeInbox n s).mil = s.mil := rfl
@[simp] theorem takeInbox_lan (n : Nat) (s : State) : (takeInbox n s).lan = s.lan := rfl
@[simp] theorem takeInbox_stl (n : Nat) (s : State) : (takeInbox n s).stl = s.stl := rfl

/-! ### modLane (an index out of range changes nothing) -/

@[simp] theorem modLane_pending (n : Nat) (f : Lane → Lane) (s : State) : (modLane n f s).pending = s.pending := by unfold modLane; split <;> rfl
@[simp] theorem modLane_now (n : Nat) (f : Lane → Lane) (s : State) : (modLane n f s).now = s.now := by unfold modLane; split <;> rfl
@[simp] theorem modLane_outbox (n : Nat) (f : Lane → Lane) (s : State) : (modLane n f s).outbox = s.outbox := by unfold modLane; split <;> rfl
@[simp] theorem modLane_fresh (n : Nat) (f : Lane → Lane) (s : State) : (modLane n f s).fresh = s.fresh := by unfold modLane; split <;> rfl
@[simp] theorem modLane_cmd (n : Nat) (f : Lane → Lane) (s : State) : (modLane n f s).cmd = s.cmd := by unfold modLane; split <;> rfl
@[simp] theorem modLane_bar (n : Nat) (f : Lane → Lane) (s : State) : (modLane n f s).bar = s.bar := by unfold modLane; split <;> rfl
@[simp] theorem modLane_net (n : Nat) (f : Lane → Lane) (s : State) : (modLane n f s).net = s.net := by unfold modLane; split <;> rfl
@[simp] theorem modLane_time (n : Nat) (f : Lane → Lane) (s : State) : (modLane n f s).time = s.time := by unfold modLane; split <;> rfl
@[simp] theorem modLane_pwr (n : Nat) (f : Lane → Lane) (s : State) : (modLane n f s).pwr = s.pwr := by unfold modLane; split <;> rfl
@[simp] theorem modLane_thm (n : Nat) (f : Lane → Lane) (s : State) : (modLane n f s).thm = s.thm := by unfold modLane; split <;> rfl
@[simp] theorem modLane_flt (n : Nat) (f : Lane → Lane) (s : State) : (modLane n f s).flt = s.flt := by unfold modLane; split <;> rfl
@[simp] theorem modLane_cri (n : Nat) (f : Lane → Lane) (s : State) : (modLane n f s).cri = s.cri := by unfold modLane; split <;> rfl
@[simp] theorem modLane_bgd (n : Nat) (f : Lane → Lane) (s : State) : (modLane n f s).bgd = s.bgd := by unfold modLane; split <;> rfl
@[simp] theorem modLane_node (n : Nat) (f : Lane → Lane) (s : State) : (modLane n f s).node = s.node := by unfold modLane; split <;> rfl
@[simp] theorem modLane_ura (n : Nat) (f : Lane → Lane) (s : State) : (modLane n f s).ura = s.ura := by unfold modLane; split <;> rfl
@[simp] theorem modLane_fwVersion (n : Nat) (f : Lane → Lane) (s : State) : (modLane n f s).fwVersion = s.fwVersion := by unfold modLane; split <;> rfl
@[simp] theorem modLane_vis (n : Nat) (f : Lane → Lane) (s : State) : (modLane n f s).vis = s.vis := by unfold modLane; split <;> rfl
@[simp] theorem modLane_well (n : Nat) (f : Lane → Lane) (s : State) : (modLane n f s).well = s.well := by unfold modLane; split <;> rfl
@[simp] theorem modLane_chk (n : Nat) (f : Lane → Lane) (s : State) : (modLane n f s).chk = s.chk := by unfold modLane; split <;> rfl
@[simp] theorem modLane_job (n : Nat) (f : Lane → Lane) (s : State) : (modLane n f s).job = s.job := by unfold modLane; split <;> rfl
@[simp] theorem modLane_mot (n : Nat) (f : Lane → Lane) (s : State) : (modLane n f s).mot = s.mot := by unfold modLane; split <;> rfl
@[simp] theorem modLane_prod (n : Nat) (f : Lane → Lane) (s : State) : (modLane n f s).prod = s.prod := by unfold modLane; split <;> rfl
@[simp] theorem modLane_led (n : Nat) (f : Lane → Lane) (s : State) : (modLane n f s).led = s.led := by unfold modLane; split <;> rfl
@[simp] theorem modLane_tal (n : Nat) (f : Lane → Lane) (s : State) : (modLane n f s).tal = s.tal := by unfold modLane; split <;> rfl
@[simp] theorem modLane_twn (n : Nat) (f : Lane → Lane) (s : State) : (modLane n f s).twn = s.twn := by unfold modLane; split <;> rfl
@[simp] theorem modLane_kry (n : Nat) (f : Lane → Lane) (s : State) : (modLane n f s).kry = s.kry := by unfold modLane; split <;> rfl
@[simp] theorem modLane_mil (n : Nat) (f : Lane → Lane) (s : State) : (modLane n f s).mil = s.mil := by unfold modLane; split <;> rfl
@[simp] theorem modLane_stl (n : Nat) (f : Lane → Lane) (s : State) : (modLane n f s).stl = s.stl := by unfold modLane; split <;> rfl

/-! ### modLink (an index out of range changes nothing) -/

@[simp] theorem modLink_pending (n : Nat) (f : LinkLane → LinkLane) (s : State) : (modLink n f s).pending = s.pending := by unfold modLink; split <;> rfl
@[simp] theorem modLink_now (n : Nat) (f : LinkLane → LinkLane) (s : State) : (modLink n f s).now = s.now := by unfold modLink; split <;> rfl
@[simp] theorem modLink_outbox (n : Nat) (f : LinkLane → LinkLane) (s : State) : (modLink n f s).outbox = s.outbox := by unfold modLink; split <;> rfl
@[simp] theorem modLink_fresh (n : Nat) (f : LinkLane → LinkLane) (s : State) : (modLink n f s).fresh = s.fresh := by unfold modLink; split <;> rfl
@[simp] theorem modLink_cmd (n : Nat) (f : LinkLane → LinkLane) (s : State) : (modLink n f s).cmd = s.cmd := by unfold modLink; split <;> rfl
@[simp] theorem modLink_bar (n : Nat) (f : LinkLane → LinkLane) (s : State) : (modLink n f s).bar = s.bar := by unfold modLink; split <;> rfl
@[simp] theorem modLink_net (n : Nat) (f : LinkLane → LinkLane) (s : State) : (modLink n f s).net = s.net := by unfold modLink; split <;> rfl
@[simp] theorem modLink_time (n : Nat) (f : LinkLane → LinkLane) (s : State) : (modLink n f s).time = s.time := by unfold modLink; split <;> rfl
@[simp] theorem modLink_pwr (n : Nat) (f : LinkLane → LinkLane) (s : State) : (modLink n f s).pwr = s.pwr := by unfold modLink; split <;> rfl
@[simp] theorem modLink_thm (n : Nat) (f : LinkLane → LinkLane) (s : State) : (modLink n f s).thm = s.thm := by unfold modLink; split <;> rfl
@[simp] theorem modLink_flt (n : Nat) (f : LinkLane → LinkLane) (s : State) : (modLink n f s).flt = s.flt := by unfold modLink; split <;> rfl
@[simp] theorem modLink_cri (n : Nat) (f : LinkLane → LinkLane) (s : State) : (modLink n f s).cri = s.cri := by unfold modLink; split <;> rfl
@[simp] theorem modLink_bgd (n : Nat) (f : LinkLane → LinkLane) (s : State) : (modLink n f s).bgd = s.bgd := by unfold modLink; split <;> rfl
@[simp] theorem modLink_node (n : Nat) (f : LinkLane → LinkLane) (s : State) : (modLink n f s).node = s.node := by unfold modLink; split <;> rfl
@[simp] theorem modLink_fwVersion (n : Nat) (f : LinkLane → LinkLane) (s : State) : (modLink n f s).fwVersion = s.fwVersion := by unfold modLink; split <;> rfl
@[simp] theorem modLink_vis (n : Nat) (f : LinkLane → LinkLane) (s : State) : (modLink n f s).vis = s.vis := by unfold modLink; split <;> rfl
@[simp] theorem modLink_well (n : Nat) (f : LinkLane → LinkLane) (s : State) : (modLink n f s).well = s.well := by unfold modLink; split <;> rfl
@[simp] theorem modLink_chk (n : Nat) (f : LinkLane → LinkLane) (s : State) : (modLink n f s).chk = s.chk := by unfold modLink; split <;> rfl
@[simp] theorem modLink_job (n : Nat) (f : LinkLane → LinkLane) (s : State) : (modLink n f s).job = s.job := by unfold modLink; split <;> rfl
@[simp] theorem modLink_mot (n : Nat) (f : LinkLane → LinkLane) (s : State) : (modLink n f s).mot = s.mot := by unfold modLink; split <;> rfl
@[simp] theorem modLink_prod (n : Nat) (f : LinkLane → LinkLane) (s : State) : (modLink n f s).prod = s.prod := by unfold modLink; split <;> rfl
@[simp] theorem modLink_led (n : Nat) (f : LinkLane → LinkLane) (s : State) : (modLink n f s).led = s.led := by unfold modLink; split <;> rfl
@[simp] theorem modLink_tal (n : Nat) (f : LinkLane → LinkLane) (s : State) : (modLink n f s).tal = s.tal := by unfold modLink; split <;> rfl
@[simp] theorem modLink_twn (n : Nat) (f : LinkLane → LinkLane) (s : State) : (modLink n f s).twn = s.twn := by unfold modLink; split <;> rfl
@[simp] theorem modLink_kry (n : Nat) (f : LinkLane → LinkLane) (s : State) : (modLink n f s).kry = s.kry := by unfold modLink; split <;> rfl
@[simp] theorem modLink_mil (n : Nat) (f : LinkLane → LinkLane) (s : State) : (modLink n f s).mil = s.mil := by unfold modLink; split <;> rfl
@[simp] theorem modLink_lan (n : Nat) (f : LinkLane → LinkLane) (s : State) : (modLink n f s).lan = s.lan := by unfold modLink; split <;> rfl
@[simp] theorem modLink_stl (n : Nat) (f : LinkLane → LinkLane) (s : State) : (modLink n f s).stl = s.stl := by unfold modLink; split <;> rfl

/-! ### modStall (an index out of range changes nothing) -/

@[simp] theorem modStall_pending (n : Nat) (f : Stall → Stall) (s : State) : (modStall n f s).pending = s.pending := by unfold modStall; split <;> rfl
@[simp] theorem modStall_now (n : Nat) (f : Stall → Stall) (s : State) : (modStall n f s).now = s.now := by unfold modStall; split <;> rfl
@[simp] theorem modStall_outbox (n : Nat) (f : Stall → Stall) (s : State) : (modStall n f s).outbox = s.outbox := by unfold modStall; split <;> rfl
@[simp] theorem modStall_fresh (n : Nat) (f : Stall → Stall) (s : State) : (modStall n f s).fresh = s.fresh := by unfold modStall; split <;> rfl
@[simp] theorem modStall_cmd (n : Nat) (f : Stall → Stall) (s : State) : (modStall n f s).cmd = s.cmd := by unfold modStall; split <;> rfl
@[simp] theorem modStall_bar (n : Nat) (f : Stall → Stall) (s : State) : (modStall n f s).bar = s.bar := by unfold modStall; split <;> rfl
@[simp] theorem modStall_net (n : Nat) (f : Stall → Stall) (s : State) : (modStall n f s).net = s.net := by unfold modStall; split <;> rfl
@[simp] theorem modStall_time (n : Nat) (f : Stall → Stall) (s : State) : (modStall n f s).time = s.time := by unfold modStall; split <;> rfl
@[simp] theorem modStall_pwr (n : Nat) (f : Stall → Stall) (s : State) : (modStall n f s).pwr = s.pwr := by unfold modStall; split <;> rfl
@[simp] theorem modStall_thm (n : Nat) (f : Stall → Stall) (s : State) : (modStall n f s).thm = s.thm := by unfold modStall; split <;> rfl
@[simp] theorem modStall_flt (n : Nat) (f : Stall → Stall) (s : State) : (modStall n f s).flt = s.flt := by unfold modStall; split <;> rfl
@[simp] theorem modStall_cri (n : Nat) (f : Stall → Stall) (s : State) : (modStall n f s).cri = s.cri := by unfold modStall; split <;> rfl
@[simp] theorem modStall_bgd (n : Nat) (f : Stall → Stall) (s : State) : (modStall n f s).bgd = s.bgd := by unfold modStall; split <;> rfl
@[simp] theorem modStall_node (n : Nat) (f : Stall → Stall) (s : State) : (modStall n f s).node = s.node := by unfold modStall; split <;> rfl
@[simp] theorem modStall_ura (n : Nat) (f : Stall → Stall) (s : State) : (modStall n f s).ura = s.ura := by unfold modStall; split <;> rfl
@[simp] theorem modStall_fwVersion (n : Nat) (f : Stall → Stall) (s : State) : (modStall n f s).fwVersion = s.fwVersion := by unfold modStall; split <;> rfl
@[simp] theorem modStall_vis (n : Nat) (f : Stall → Stall) (s : State) : (modStall n f s).vis = s.vis := by unfold modStall; split <;> rfl
@[simp] theorem modStall_well (n : Nat) (f : Stall → Stall) (s : State) : (modStall n f s).well = s.well := by unfold modStall; split <;> rfl
@[simp] theorem modStall_chk (n : Nat) (f : Stall → Stall) (s : State) : (modStall n f s).chk = s.chk := by unfold modStall; split <;> rfl
@[simp] theorem modStall_job (n : Nat) (f : Stall → Stall) (s : State) : (modStall n f s).job = s.job := by unfold modStall; split <;> rfl
@[simp] theorem modStall_mot (n : Nat) (f : Stall → Stall) (s : State) : (modStall n f s).mot = s.mot := by unfold modStall; split <;> rfl
@[simp] theorem modStall_prod (n : Nat) (f : Stall → Stall) (s : State) : (modStall n f s).prod = s.prod := by unfold modStall; split <;> rfl
@[simp] theorem modStall_led (n : Nat) (f : Stall → Stall) (s : State) : (modStall n f s).led = s.led := by unfold modStall; split <;> rfl
@[simp] theorem modStall_tal (n : Nat) (f : Stall → Stall) (s : State) : (modStall n f s).tal = s.tal := by unfold modStall; split <;> rfl
@[simp] theorem modStall_twn (n : Nat) (f : Stall → Stall) (s : State) : (modStall n f s).twn = s.twn := by unfold modStall; split <;> rfl
@[simp] theorem modStall_kry (n : Nat) (f : Stall → Stall) (s : State) : (modStall n f s).kry = s.kry := by unfold modStall; split <;> rfl
@[simp] theorem modStall_mil (n : Nat) (f : Stall → Stall) (s : State) : (modStall n f s).mil = s.mil := by unfold modStall; split <;> rfl
@[simp] theorem modStall_lan (n : Nat) (f : Stall → Stall) (s : State) : (modStall n f s).lan = s.lan := by unfold modStall; split <;> rfl

/-! ### modSensor (an index out of range changes nothing) -/

@[simp] theorem modSensor_pending (n : Nat) (f : Sensor → Sensor) (s : State) : (modSensor n f s).pending = s.pending := by unfold modSensor; split <;> rfl
@[simp] theorem modSensor_now (n : Nat) (f : Sensor → Sensor) (s : State) : (modSensor n f s).now = s.now := by unfold modSensor; split <;> rfl
@[simp] theorem modSensor_outbox (n : Nat) (f : Sensor → Sensor) (s : State) : (modSensor n f s).outbox = s.outbox := by unfold modSensor; split <;> rfl
@[simp] theorem modSensor_fresh (n : Nat) (f : Sensor → Sensor) (s : State) : (modSensor n f s).fresh = s.fresh := by unfold modSensor; split <;> rfl
@[simp] theorem modSensor_cmd (n : Nat) (f : Sensor → Sensor) (s : State) : (modSensor n f s).cmd = s.cmd := by unfold modSensor; split <;> rfl
@[simp] theorem modSensor_bar (n : Nat) (f : Sensor → Sensor) (s : State) : (modSensor n f s).bar = s.bar := by unfold modSensor; split <;> rfl
@[simp] theorem modSensor_net (n : Nat) (f : Sensor → Sensor) (s : State) : (modSensor n f s).net = s.net := by unfold modSensor; split <;> rfl
@[simp] theorem modSensor_time (n : Nat) (f : Sensor → Sensor) (s : State) : (modSensor n f s).time = s.time := by unfold modSensor; split <;> rfl
@[simp] theorem modSensor_pwr (n : Nat) (f : Sensor → Sensor) (s : State) : (modSensor n f s).pwr = s.pwr := by unfold modSensor; split <;> rfl
@[simp] theorem modSensor_thm (n : Nat) (f : Sensor → Sensor) (s : State) : (modSensor n f s).thm = s.thm := by unfold modSensor; split <;> rfl
@[simp] theorem modSensor_flt (n : Nat) (f : Sensor → Sensor) (s : State) : (modSensor n f s).flt = s.flt := by unfold modSensor; split <;> rfl
@[simp] theorem modSensor_cri (n : Nat) (f : Sensor → Sensor) (s : State) : (modSensor n f s).cri = s.cri := by unfold modSensor; split <;> rfl
@[simp] theorem modSensor_bgd (n : Nat) (f : Sensor → Sensor) (s : State) : (modSensor n f s).bgd = s.bgd := by unfold modSensor; split <;> rfl
@[simp] theorem modSensor_node (n : Nat) (f : Sensor → Sensor) (s : State) : (modSensor n f s).node = s.node := by unfold modSensor; split <;> rfl
@[simp] theorem modSensor_ura (n : Nat) (f : Sensor → Sensor) (s : State) : (modSensor n f s).ura = s.ura := by unfold modSensor; split <;> rfl
@[simp] theorem modSensor_fwVersion (n : Nat) (f : Sensor → Sensor) (s : State) : (modSensor n f s).fwVersion = s.fwVersion := by unfold modSensor; split <;> rfl
@[simp] theorem modSensor_well (n : Nat) (f : Sensor → Sensor) (s : State) : (modSensor n f s).well = s.well := by unfold modSensor; split <;> rfl
@[simp] theorem modSensor_chk (n : Nat) (f : Sensor → Sensor) (s : State) : (modSensor n f s).chk = s.chk := by unfold modSensor; split <;> rfl
@[simp] theorem modSensor_job (n : Nat) (f : Sensor → Sensor) (s : State) : (modSensor n f s).job = s.job := by unfold modSensor; split <;> rfl
@[simp] theorem modSensor_mot (n : Nat) (f : Sensor → Sensor) (s : State) : (modSensor n f s).mot = s.mot := by unfold modSensor; split <;> rfl
@[simp] theorem modSensor_prod (n : Nat) (f : Sensor → Sensor) (s : State) : (modSensor n f s).prod = s.prod := by unfold modSensor; split <;> rfl
@[simp] theorem modSensor_led (n : Nat) (f : Sensor → Sensor) (s : State) : (modSensor n f s).led = s.led := by unfold modSensor; split <;> rfl
@[simp] theorem modSensor_tal (n : Nat) (f : Sensor → Sensor) (s : State) : (modSensor n f s).tal = s.tal := by unfold modSensor; split <;> rfl
@[simp] theorem modSensor_twn (n : Nat) (f : Sensor → Sensor) (s : State) : (modSensor n f s).twn = s.twn := by unfold modSensor; split <;> rfl
@[simp] theorem modSensor_kry (n : Nat) (f : Sensor → Sensor) (s : State) : (modSensor n f s).kry = s.kry := by unfold modSensor; split <;> rfl
@[simp] theorem modSensor_mil (n : Nat) (f : Sensor → Sensor) (s : State) : (modSensor n f s).mil = s.mil := by unfold modSensor; split <;> rfl
@[simp] theorem modSensor_lan (n : Nat) (f : Sensor → Sensor) (s : State) : (modSensor n f s).lan = s.lan := by unfold modSensor; split <;> rfl
@[simp] theorem modSensor_stl (n : Nat) (f : Sensor → Sensor) (s : State) : (modSensor n f s).stl = s.stl := by unfold modSensor; split <;> rfl

end Sys2Proof.Machine
end

