-- ==== Sys2Proof/WellFormed.lean ====
section
/-!
DEFINITION. The commands whose operands lie in the ranges that the spec gives them: widths of fields, counts of rows, sectors, sensors, lanes.
-/
namespace Sys2Proof

/-- The header of an image is whole (R411). -/
def headerWhole (v : ImgVerdict) : Bool := !v.readOk || decide (v.header.length = 88)

/-- A segment names a plane of the Mill (R91, R135). -/
def segOk (i : SegItem) : Bool := decide (i.plane < 8)

/-- A result received, or absent for a cause of R209. -/
def recvOk : SliceRecv → Bool
  | .clean => true
  | .raw _ _ _ _ => true
  | .absent c => decide (c < 8)

/-- The settings of an equalizer (R280). -/
def eqOk (ctle gain : Nat) (dfe : List Int) : Bool :=
  decide (ctle < 16) && decide (gain < 32) && decide (dfe.length = 6) && dfe.all fun x => decide (-128 ≤ x) && decide (x < 128)

/-- A row of the fitted DRAM (R454, R458). -/
def rowOk (r : DramRow) : Bool := decide (r.rank < 2) && decide (r.bg < 8) && decide (r.bank < 4) && decide (r.row < 2 ^ 17) && decide (r.dev < 20)

/-- The figures of one image (R337, R495). -/
def gradeOk : ImageResult → Bool
  | .notReached => true
  | .graded v ps _ _ _ _ _ _ => decide (v < 3) && ps.all fun p => decide (p ≤ 40)
  | .target _ _ => true
  | .patches _ ms => decide (ms.length = 17)

/-- Whether a command is well formed. -/
def wf (i : Instr) : Bool :=
  match i with
  | .commandIntake _ _ _ _ => true
  | .interimReply _ _ => true
  | .replyRingWrite _ _ => true
  | .udpReplySend _ _ => true
  | .uraraReplyReceive _ reply => decide (3 ≤ reply.length)
  | .identify _ _ => true
  | .status _ _ => true
  | .abortTag _ _ => true
  | .netConfig _ _ => true
  | .powerDomain _ _ => true
  | .domainPowerDownProceed _ => true
  | .domainPowerUpDone _ => true
  | .granaryReport _ _ => true
  | .crierConfig _ _ => true
  | .reset _ _ => true
  | .jobLoad _ _ => true
  | .jobCheckComplete _ job _ => decide (job < 2 ^ 32)
  | .jobActivate _ _ => true
  | .screenStoreLoaded _ => true
  | .jobSwitch _ _ => true
  | .jobUnload _ _ => true
  | .motionConfig _ _ => true
  | .rejectPolicy _ _ => true
  | .queueRead _ _ => true
  | .productForce _ _ => true
  | .poolGrant _ _ _ _ => true
  | .permutationTableDone _ _ _ => true
  | .streamBind _ _ => true
  | .calendarLoad _ _ => true
  | .poolStatus _ _ => true
  | .codeVoid _ _ => true
  | .journalRead _ _ => true
  | .manifestClose _ _ => true
  | .stallConfig _ _ => true
  | .pulseTableLoad _ _ => true
  | .dutyLimits _ _ => true
  | .firePermit _ _ => true
  | .elementRetire _ _ => true
  | .spitCycle _ _ => true
  | .headStatus _ _ => true
  | .calRun _ _ => true
  | .calRead _ _ => true
  | .calWrite _ _ => true
  | .placementLearn _ _ => true
  | .timeRead _ _ => true
  | .ptpConfig _ _ => true
  | .timeSelect _ _ => true
  | .timeSet _ _ => true
  | .ppsConfig _ _ => true
  | .sensorConfig _ _ => true
  | .settingSet _ _ => true
  | .settingWriteAck _ _ _ => true
  | .verifyConfig _ _ => true
  | .imageCapture _ _ => true
  | .certRead _ _ => true
  | .sessionOpen _ _ _ _ => true
  | .sessionProve _ _ => true
  | .sessionProveTimeout _ _ => true
  | .credentialUnlock _ role slot => decide (role < 6) && decide (slot < 256)
  | .sessionClose _ _ => true
  | .groupSessionExpire _ _ => true
  | .ownerTransfer _ _ _ => true
  | .roleCredential _ _ _ => true
  | .jobKeyLoad _ _ _ => true
  | .imageStage _ _ v => headerWhole v
  | .imageActivate _ _ v => headerWhole v
  | .fwHandoff _ _ _ => true
  | .fwActivateBusyTimeout _ => true
  | .fwReplyTimeout _ => true
  | .zeroise _ _ => true
  | .attest _ _ => true
  | .nodeId _ _ => true
  | .topology _ _ => true
  | .twinBind _ _ _ _ => true
  | .twinYield _ _ => true
  | .twinStatus _ _ => true
  | .linkStatus _ _ => true
  | .ringRole _ _ => true
  | .wellRead _ _ => true
  | .wellWrite _ _ => true
  | .checkRun _ _ _ => true
  | .checkScanComplete _ _ => true
  | .scrubConfig _ _ => true
  | .loopback _ _ => true
  | .loopbackEnd _ _ _ _ _ fom => decide (fom < 1024)
  | .telemetryRead _ _ => true
  | .ringTailWrite _ _ _ => true
  | .ringHeadWrite _ _ => true
  | .ringEnable _ _ => true
  | .ringDisable _ _ => true
  | .ringPause _ _ => true
  | .ringPauseComplete _ _ _ => true
  | .ringResume _ _ => true
  | .shadowArmWrite _ _ _ => true
  | .ringStatusClear _ _ _ => true
  | .intStatusClear _ _ => true
  | .bar0RegisterWrite _ _ _ _ => true
  | .descriptorFetch _ _ _ => true
  | .descriptorComplete _ _ _ => true
  | .ringHoldoffExpiry _ _ => true
  | .ringDomainDeadline _ _ => true
  | .functionLevelReset _ => true
  | .mbxBootLog _ => true
  | .mbxDeviceCert _ => true
  | .mbxRecoveryLoad _ => true
  | .mbxRetryBoot _ => true
  | .arpRequestReceive _ _ target sender => decide (target < 2 ^ 32) && decide (sender < 2 ^ 48)
  | .neighborSolicitReceive _ _ target _ => decide (target < 2 ^ 128)
  | .icmpEchoReceive _ _ target _ _ => decide (target < 2 ^ 128)
  | .routerAdvertReceive _ _ router => decide (router < 2 ^ 48)
  | .netRateHuntSwitch _ _ => true
  | .encoderEdge _ _ _ _ => true
  | .encoderSignalLoss _ _ => true
  | .encoderZPulse _ _ => true
  | .lineBoundary _ => true
  | .pacerTick _ => true
  | .lineIndexSave _ => true
  | .productNumberSave _ => true
  | .pdEdge _ _ _ => true
  | .detectAccept _ _ => true
  | .ogEdge _ _ _ => true
  | .spitDropWindowEnd _ _ => true
  | .gateDecisionPlace _ _ _ => true
  | .tallyIssueGroup _ _ => true
  | .serialLookahead _ _ => true
  | .issueDurable _ _ => true
  | .overlayRender _ _ => true
  | .recordBlockClose _ _ => true
  | .recordStreamAck _ _ upto => decide (upto < 2 ^ 64)
  | .recordBlockResend _ _ => true
  | .lineDispatch _ _ => true
  | .segmentDecode _ _ item => segOk item
  | .segmentDecodeComplete _ _ item fault => segOk item && (match fault with | some f => decide (f < 256) | none => true)
  | .intakeSegmentRedecode _ item => segOk item
  | .sliceResultComplete _ _ _ r => recvOk r
  | .voteRecomputeStart _ _ _ => true
  | .voteRecomputeDone _ _ r => recvOk r
  | .sliceTimeout _ _ _ => true
  | .millDomainLost _ _ => true
  | .calEpochCommit _ => true
  | .placementEpochCommit _ => true
  | .stallReadout _ _ _ _ _ => true
  | .lineFrameSend _ _ => true
  | .fireBlockSend _ _ => true
  | .spitFire _ _ => true
  | .headAckReceive _ _ seq => decide (seq < 65536)
  | .headNakReceive _ _ seq reason => decide (seq < 65536) && decide (reason < 256)
  | .headFiredReceive _ _ line16 _ _ => decide (line16 < 65536)
  | .firedTimeout _ _ => true
  | .headStatusReceive _ _ temps vpp => decide (temps.length = 5) && decide (vpp < 65536)
  | .vppRecover _ _ => true
  | .headAlarmReceive _ _ _ _ _ => true
  | .headResistReceive _ _ ch rMeas rRef => decide (ch < 17408) && decide (rMeas < 65536) && decide (rRef < 65536)
  | .headIdentReceive _ _ _ => true
  | .headDriveReceive _ _ ch line16 => decide (ch < 17408) && decide (line16 < 65536)
  | .permitWithdrawEffect _ _ => true
  | .laneSignalDetect _ _ => true
  | .blockLock _ _ => true
  | .lossOfLock _ _ _ => true
  | .relockTimeout _ _ => true
  | .adaptDone _ _ fom ctle gain dfe => decide (fom < 1024) && eqOk ctle gain dfe
  | .probeReceive _ _ _ _ => true
  | .probeEchoReceive _ _ _ _ _ => true
  | .probeSend _ _ => true
  | .fomSweep _ _ fom _ trial => decide (fom < 1024) && (match trial with | some e => decide (e.fom < 1024) && eqOk e.ctle e.gain e.dfe | none => true)
  | .laneFastExit _ _ _ => true
  | .spareRateHuntSwitch _ _ => true
  | .moveBlockReceive _ _ _ _ _ _ => true
  | .refclkSerFail _ _ => true
  | .refclkSerRecover _ _ => true
  | .announceSend _ _ => true
  | .announceReceive _ _ node _ port farLane => decide (node < 2048) && decide (port < 4) && decide (farLane < 36)
  | .routeReceive _ _ _ changes => changes.all fun c => decide (c.node < 2048) && decide (c.hops < 256)
  | .routeFullAdvertise _ => true
  | .routeExpire _ _ => true
  | .uraraPacketReceive _ _ type words => decide (type < 256) && decide (2 ≤ words.length)
  | .lackReceive _ _ _ => true
  | .lackSend _ _ => true
  | .lnakReceive _ _ _ => true
  | .uraraCommandReceive _ src _ => decide (src < 2048)
  | .triggerReceive _ src _ => decide (src < 2048)
  | .timeSend _ node => decide (node < 2048)
  | .timeReceive _ src _ _ _ => decide (src < 2048)
  | .leaseRenewSend _ => true
  | .leaseRenewReceive _ _ => true
  | .leaseAckReceive _ _ peerRole => decide (peerRole < 7)
  | .leaseDenyReceive _ => true
  | .leaseHandoverReceive _ _ _ _ => true
  | .leadLeaseExpiry _ => true
  | .leadExpiryDecision _ => true
  | .standbyTakeover _ => true
  | .witnessToggle _ => true
  | .witnessEdge _ => true
  | .witnessSilent _ => true
  | .digestReceive _ _ _ _ => true
  | .checkReceive _ _ _ => true
  | .unitYield _ => true
  | .jreplReceive _ _ _ => true
  | .epochProposeReceive _ _ _ _ => true
  | .epochCommitReceive _ _ _ => true
  | .linemarkReceive _ _ _ => true
  | .verdictReceive _ _ => true
  | .copyBeginReceive _ _ _ _ _ _ _ => true
  | .copyCommitReceive _ _ _ snap => snap.retired.all fun r => decide (r.1 < 24) && decide (r.2.1 < 17408)
  | .copyDoneReceive _ _ => true
  | .twinCopyRetry _ => true
  | .telemetryReceive _ src _ => decide (src < 2048)
  | .ptpSyncReceive _ _ _ _ _ _ _ => true
  | .ptpFollowUpReceive _ _ _ _ _ => true
  | .ptpAnnounceReceive _ _ _ => true
  | .ptpDelayReqSend _ _ _ _ => true
  | .ptpDelayRespReceive _ _ _ _ _ => true
  | .ptpDomainTimeout _ _ => true
  | .frozenGuardExpiry _ _ => true
  | .faultyDomainRecover _ _ => true
  | .preferredDomainReturn _ => true
  | .timeDisagree _ => true
  | .leapSecond _ => true
  | .timeFloorSave _ => true
  | .ppsInEdge _ _ _ => true
  | .ppsInLost _ _ => true
  | .ppsOutPulse _ _ => true
  | .ppsOutPulseEnd _ _ => true
  | .cameraTriggerPulseEnd _ _ => true
  | .csiFrameStart _ _ _ => true
  | .csiLongPacket _ _ _ dtype _ pixels => decide (dtype < 64) && pixels.all fun p => decide (p < 4096)
  | .csiFrameEnd _ _ _ _ => true
  | .pipelineFrameDone _ _ streaks => streaks.all fun o => decide (o.stall < 24) && decide (o.chan < 17408)
  | .imageGraded _ _ _ _ g => gradeOk g
  | .ledgerWriteComplete _ _ => true
  | .ledgerSectorSpareCopy _ sector => decide (sector < 4096)
  | .wellRefreshDue _ _ _ _ => true
  | .dramMr4Poll _ _ _ _ _ => true
  | .wellDriftTrack _ _ _ moves => decide (moves.length ≤ 80)
  | .wellZqCal _ _ => true
  | .selfRefreshEntry _ _ => true
  | .selfRefreshExit _ _ => true
  | .wellRepairWindow _ row _ => rowOk row
  | .wellHardRepair _ => true
  | .wellPatrolScrub _ bad => bad.all fun b => decide (b.addr < 2 ^ 37) && decide (b.lane < 40)
  | .ledgerScrub _ sector _ _ => decide (sector < 4096)
  | .sramScrub _ array row _ _ => decide (array < 3072) && decide (row < 512)
  | .sliceSelftest _ _ _ => true
  | .spareCoreSelftest _ _ => true
  | .siliconRecal _ item _ _ => decide (item < 0x1000)
  | .kryntoKat _ _ => true
  | .backgroundLate _ _ => true
  | .drbgReseed _ _ => true
  | .checkUnitSelfcheck _ _ _ => true
  | .crierEventSend _ => true
  | .crierSample _ => true
  | .tempSensorConversion _ readings => decide (readings.length = 24)
  | .junctionTrip _ => true
  | .refclkSysFail _ => true
  | .refclkSysRecover _ => true
  | .tamperTrip _ _ => true
  | .zeroiseReset _ => true
  | .tamperHoldStart _ _ => true
  | .tamperHoldClear _ => true
  | .tamperHoldTimeout _ => true
  | .coreTakeover _ => true
  | .takeoverComplete _ _ _ => true
  | .watchdogReset _ => true
  | .deviceFaultClear _ code => decide (code < 0x8000)
  | .powerDownNotice _ => true
  | .unannouncedPowerLoss _ _ => true
  | .aonSupplySwitch _ vddAonMv _ => decide (vddAonMv < 65536)
  | .resetPinAssert _ _ => true
  | .resetNRelease _ => true
  | .bootSelftestsDone _ _ => true
  | .bootImageVerified _ a b => headerWhole a && headerWhole b
  | .bootCoresStarted _ _ => true
  | .bootWellTrained _ _ rate => match rate with | some r => decide (1 ≤ r) && decide (r ≤ 7) | none => true
  | .bootLaneStageEnd _ => true
  | .deviceReady _ => true
  | .calStagingCommit _ => true
  | .squareTimeout _ _ _ _ => true
  | .timeErrHigh _ => true
  | .bothLeadWindowEnd _ => true
  | .stallConfigLaneTimeout _ _ => true
  | .topologyReplyTimeout _ => true
  | .entropyHealthFail _ => true
  | .wellHardRepairDone _ => true
  | .calRunComplete _ item _ => decide (item < 0x1000)
  | .imageSlotWritten _ _ => true
  | .fwImageLoaded _ _ => true
  | .mailboxOperationEnd _ v _ => headerWhole v
  | .msixVectorUnmask _ _ => true
  | .arpReplyReceive _ _ ip link => decide (ip < 2 ^ 128) && decide (link < 2 ^ 48)
  | .tapInstructionLoad _ _ => true

end Sys2Proof
end

