-- ==== Sys2Proof/Tests/Slice0.lean ====
section
/-!
SUPPORT. Tests of one step each, with results taken from the spec's rules, and the witnesses: for every statement that has
hypotheses, concrete states and operands that meet them, clause by clause. A witness of `Obligations.X` is named `wit_X…`; where X has
several parts, the name goes on with a name for the part.
-/
open Sys2Proof Sys2Proof.Machine

set_option Elab.async false

namespace Sys2Proof.Tests

/-! ### Small states -/

/-- A device that is ready, every power domain on. -/
def base : State := { pwr := { domains := Vector.replicate 12 true, ready := true, stage := 7, resetLow := false }, well := { bytes := 64 * 2 ^ 30 } }

/-- A command of session 0 that came on ring 0, accepted as number 1. -/
def cmdOf (op : Nat) (ps : List W64) : Slot := { cid := 1, op := op, params := ps }

/-- A state that holds that command alone, waiting. -/
def withCmd (c : Slot) (s : State) : State := { s with cmd.slots := [c], cmd.nextCid := c.cid + 1 }

/-- The ready device with one waiting command. -/
def at1 (op : Nat) (ps : List W64) : State := withCmd (cmdOf op ps) base

/-- The command of the same kind, executing. -/
def runOf (op : Nat) (ps : List W64) : Slot := { cmdOf op ps with phase := .executing }

theorem starts_of {op cid : Nat} {c : Slot} {s : State}
    (h : (decide (slotOf s cid = some c) && decide (c.op = op) && mayStart s c) = true) : Starts op cid c s := by
  simp only [Bool.and_eq_true, decide_eq_true_eq] at h
  exact ⟨h.1.1, h.1.2, h.2⟩

theorem runs_of {op cid : Nat} {c : Slot} {s : State}
    (h : (decide (slotOf s cid = some c) && decide (c.op = op) && decide (c.phase = .executing)) = true) : Runs op cid c s := by
  simp only [Bool.and_eq_true, decide_eq_true_eq] at h
  exact ⟨h.1.1, h.1.2, h.2⟩

/-! ### Witnesses: the command service -/

/-- An IDENTIFY packet for node 0 in session 0. -/
def identifyPacket : List W64 := [word (put Op.identify 48), 0]

theorem wit_StepRunsFrontCommand_EmptyQueueIdles : ∃ s : State, s.pending = [] := ⟨base, rfl⟩

/-- The ready device whose Ethernet port 0 takes packets. -/
def netBase : State := { base with net := upd base.net 0 fun p => { p with cfg.enable := true } }

theorem wit_IntakeJudgesPackets_IntakeAcceptsIntoSlot_port : ∃ (t src : Nat) (tr : Transport) (ws : List W64) (s : State),
    s.pwr.ready = true ∧ s.bgd.takeover = false ∧ s.cmd.intakeOpen = true ∧
    ((tr = .eth0 ∧ domOn s 3 = true ∧ s.net[0].cfg.enable = true) ∨ (tr = .eth1 ∧ domOn s 3 = true ∧ s.net[1].cfg.enable = true)
      ∨ (tr = .urara ∧ domOn s 10 = true)) ∧
    lengthOk ws = true ∧ (fld (ws.getD 1 0) 10 0 = 0 ∨ fld (ws.getD 1 0) 10 0 = s.node) ∧ fld (ws.getD 1 0) 10 0 ≤ 2000 ∧
    fld (ws.getD 0 0) 24 24 = 0 ∧ (slotOfPacket tr src ws).session = 0 ∧ sessionOf s 0 = none ∧
    contentFailure (advance t s) (slotOfPacket tr src ws) ws = none ∧ slotFree s (slotOfPacket tr src ws).prio = true :=
  ⟨5, 0, .urara, identifyPacket, base, by decide +kernel⟩

/-- The fetched descriptor of ring 0 holds two words. -/
def ring0Base : State := { base with
  bar.rings := upd base.bar.rings 0 fun r => { r with enable := true }
  bar.work := upd base.bar.work 0 fun r => { r with desc := some { w0 := 0, w1 := 0, w2 := 16 } } }

theorem wit_IntakeJudgesPackets_IntakeAcceptsIntoSlot_ring : ∃ (t : Nat) (d : DescWords) (avail : List W64) (s : State),
    s.pwr.ready = true ∧ s.bgd.takeover = false ∧ s.cmd.intakeOpen = true ∧ domOn s 4 = true ∧
    s.bar.work[0].desc = some d ∧ s.bar.rings[0].enable = true ∧ s.bar.rings[0].pause = false ∧ s.bar.rings[0].role = .commandIn ∧
    avail.length = (fld d.w2 31 0 - s.bar.rings[0].doneBytes) / 8 ∧ 0 < avail.length ∧
    ringHasPackets s 1 = false ∧ slotFree s (slotOfPacket .ring0 0 avail).prio = true ∧ lengthOk avail = true ∧
    fld (avail.getD 1 0) 10 0 = 0 ∧ fld (avail.getD 0 0) 24 24 = 0 ∧ (slotOfPacket .ring0 0 avail).session = 0 ∧ sessionOf s 0 = none ∧
    contentFailure (advance t s) (slotOfPacket .ring0 0 avail) avail = none :=
  ⟨5, { w0 := 0, w1 := 0, w2 := 16 }, identifyPacket, ring0Base, by decide +kernel⟩

/-- A device whose 64 slots are taken, each by a command of its own tag in session 9. -/
def fullBase : State := { netBase with
  cmd.slots := (List.range 64).map fun k => { cmdOf Op.identify [] with cid := k + 1, tag := k, session := 9 }
  cmd.nextCid := 65 }

theorem wit_IntakeJudgesPackets_IntakeRefusesWithoutSlot : ∃ (t src : Nat) (ws ws' : List W64) (s : State),
    s.pwr.ready = true ∧ s.bgd.takeover = false ∧ s.cmd.intakeOpen = true ∧ domOn s 3 = true ∧ s.net[0].cfg.enable = true ∧
    lengthOk ws = false ∧
    lengthOk ws' = true ∧ fld (ws'.getD 1 0) 10 0 = 0 ∧ fld (ws'.getD 0 0) 24 24 = 0 ∧ (slotOfPacket .eth0 src ws').session = 0 ∧
      sessionOf s 0 = none ∧ contentFailure (advance t s) (slotOfPacket .eth0 src ws') ws' = none ∧ 64 ≤ s.cmd.slots.length :=
  ⟨5, 0, [0], identifyPacket, fullBase, by decide +kernel⟩

theorem wit_RepliesLeaveInOrder_RepliesLeave :
    (∃ (cid : Nat) (c : Slot) (s : State), slotOf s cid = some c ∧ c.phase ≠ .committed ∧ c.interim = false ∧ c.quiet = false ∧
      c.bcast = false ∧ c.op ≠ Op.reset ∧ c.op ≠ Op.zeroise) ∧
    (∃ (cid : Nat) (c : Slot) (s : State), slotOf s cid = some c ∧ c.phase = .committed ∧ isEth c.tr = true ∧ domOn s 3 = true) ∧
    (∃ (reply : List W64) (f : Forward) (s : State), domOn s 10 = true ∧
      s.cmd.forwards.find? (fun f => answers f reply) = some f ∧ fld (reply.getD 0 0) 24 24 = 1) :=
  ⟨⟨1, runOf Op.identify [], withCmd (runOf Op.identify []) base, by decide +kernel⟩,
   ⟨1, { cmdOf Op.identify [] with phase := .committed, tr := .eth0 },
    withCmd { cmdOf Op.identify [] with phase := .committed, tr := .eth0 } base, by decide +kernel⟩,
   ⟨[word (put 1 24), 0, 0], {}, { base with cmd.forwards := [{}] }, by decide +kernel⟩⟩

/-- Ring 2 works and holds a fetched descriptor of `n` bytes; one reply waits for it. -/
def ring2Base (n : Nat) : State := { base with
  cmd.replyQ := [(1, [word (put 1 24), 0, 0])]
  bar.rings := upd base.bar.rings 2 fun r => { r with enable := true }
  bar.work := upd base.bar.work 2 fun r => { r with desc := some { w0 := 0, w1 := 0, w2 := word n } } }

theorem wit_RepliesLeaveInOrder_ReplyRingTakesCommitOrder (n : Nat) (h : n = 2079 ∨ n = 2080) :
    ∃ (r : Fin 16) (d : DescWords) (ws : List W64) (rest : List (Nat × List W64)) (s : State),
    replyRing s = some r ∧ (workAt s r).desc = some d ∧ s.cmd.replyQ = (1, ws) :: rest ∧ fld d.w2 31 0 = n ∧
      fld d.w2 36 36 = 0 ∧ fld (ws.getD 0 0) 24 24 = 1 := by
  refine ⟨2, { w0 := 0, w1 := 0, w2 := word n }, [word (put 1 24), 0, 0], [], ring2Base n, ?_⟩
  rcases h with h | h <;> subst h <;> decide +kernel

theorem wit_FinalReplyCommits :
    (∃ (c : Slot) (s : State), slotOf s 1 = some c ∧ c.quiet = false ∧ c.bcast = false ∧ (c.tr = .ring0 ∨ c.tr = .ring1) ∧ domOn s 4 = true) ∧
    (∃ (c : Slot) (s : State), slotOf s 1 = some c ∧ c.quiet = true) :=
  ⟨⟨runOf Op.identify [], withCmd (runOf Op.identify []) base, by decide +kernel⟩,
   ⟨{ runOf Op.identify [] with quiet := true }, withCmd { runOf Op.identify [] with quiet := true } base, by decide +kernel⟩⟩

/-- NET_CONFIG parameters for port 0: no VLAN, command port 50000, IPv4. -/
def netParams : List W64 := [word (put 1 8 + put 50000 32), 0, word 0x0A000001, 0, 0, 0, 0, 0]

theorem wit_StatusCommandsAnswer_IdentifyNetCrierComplete :
    (∃ (c : Slot) (s : State), Starts Op.identify 1 c s) ∧
    (∃ (c : Slot) (s : State), Starts Op.netConfig 1 c s ∧ netCfgOk c = true ∧ domOn s 4 = true) ∧
    (∃ (c : Slot) (s : State), Starts Op.crierConfig 1 c s ∧ ringHas s (parF c 1 3 0) [.crierOut] = true ∧ 1 ≤ parF c 2 15 0 ∧ parF c 3 10 0 ≤ 2000) :=
  ⟨⟨cmdOf Op.identify [], at1 Op.identify [], starts_of (by decide +kernel)⟩,
   ⟨cmdOf Op.netConfig netParams, at1 Op.netConfig netParams, starts_of (by decide +kernel), by decide +kernel⟩,
   ⟨cmdOf Op.crierConfig [31, word (3 + put 1 8), 1, 2000], at1 Op.crierConfig [31, word (3 + put 1 8), 1, 2000],
    starts_of (by decide +kernel), by decide +kernel⟩⟩

/-- A code of each class (R66, R571). -/
theorem wit_FaultCountsByClass : classOf FaultCode.junctionCold = 1 ∧ classOf 0x0101 = 2 ∧ classOf 0x0204 = 3 ∧ classOf 0x0102 = 4 ∧ 0x0102 ≠ FaultCode.headOvertemp := by decide +kernel

theorem wit_EventsQueueAndInterrupt_CrierQueuesWithinLimits :
    (∃ (e : Event) (s : State), e.cls < 5 ∧ bit s.cri.mask e.cls = false) ∧
    (∃ (e : Event) (s : State), e.cls < 5 ∧ bit s.cri.mask e.cls = true ∧ stampSec e.time = s.cri.sec ∧ s.cri.rate ≤ s.cri.sent.toList.getD e.cls 0) ∧
    (∃ (e : Event) (s : State), e.cls < 5 ∧ bit s.cri.mask e.cls = true ∧ stampSec e.time ≠ s.cri.sec ∧ 0 < s.cri.rate ∧ s.cri.queue.length < 3840) :=
  ⟨⟨{ cls := 4 }, { base with cri.mask := 0 }, by decide +kernel⟩,
   ⟨{ cls := 4 }, { base with cri.mask := 31, cri.rate := 0, cri.sec := 0 }, by decide +kernel⟩,
   ⟨{ cls := 4 }, { base with cri.mask := 31, cri.rate := 1, cri.sec := 7 }, by decide +kernel⟩⟩

theorem wit_EventsQueueAndInterrupt_InterruptSendsOnRise :
    (∃ s : State, s.bar.intStatus.getLsbD 38 = true) ∧
    (∃ (v : Fin 32) (s : State), intVectorOf s.bar 38 = v.val ∧ s.bar.intStatus.getLsbD 38 = false ∧ s.bar.intEnable.getLsbD 38 = true ∧
      s.bar.msix[v].masked = true) ∧
    (∃ (v : Fin 32) (s : State), intVectorOf s.bar 38 = v.val ∧ s.bar.intStatus.getLsbD 38 = false ∧ s.bar.intEnable.getLsbD 38 = true ∧
      s.bar.msix[v].masked = false) :=
  ⟨⟨{ base with bar.intStatus := word (2 ^ 38) }, by decide +kernel⟩,
   ⟨16, { base with bar.intEnable := word (2 ^ 38) }, by decide +kernel⟩,
   ⟨16, { base with bar.intEnable := word (2 ^ 38), bar.msix := upd base.bar.msix 16 fun m => { m with masked := false } }, by decide +kernel⟩⟩

/-! ### Witnesses: rings and the mailbox -/

/-- The ready device with ring `r` changed. -/
def onRing (r : Fin 16) (f : Ring → Ring) (g : RingWork → RingWork) (s : State) : State :=
  { s with bar.rings := upd s.bar.rings r f, bar.work := upd s.bar.work r g }

/-- A ring of eight descriptors, enabled. -/
def live (g : Ring) : Ring := { g with enable := true, log2n := 3 }

/-- Ring 4 with eight descriptors, disabled, and enabled with a descriptor fetched. -/
def r4 : State := onRing 4 (fun g => { g with log2n := 3 }) id base
def r4live : State := onRing 4 live (fun w => { w with desc := some { w0 := 0, w1 := 0, w2 := word (8 + put 1 32) } }) base

theorem wit_HostRegistersWork_RingControlBits_tail : domOn r4 4 = true ∧ (8 - (ringAt r4 4).head).toNat ≤ 2 ^ (ringAt r4 4).log2n ∧
    2 ^ (ringAt r4 4).log2n < ((9 : W32) - (ringAt r4 4).head).toNat := by decide +kernel
theorem wit_HostRegistersWork_RingControlBits_head : (ringAt r4 4).enable = false ∧ domOn r4live 4 = true ∧ (ringAt r4live 4).enable = true := by decide +kernel
theorem wit_HostRegistersWork_RingControlBits_resume : (ringAt r4 4).error = false ∧ domOn r4 4 = true ∧
    (ringAt (onRing 4 (fun g => { g with error := true }) id r4) 4).error = true ∧
    domOn (onRing 4 (fun g => { g with error := true }) id r4) 4 = true := by decide +kernel
theorem wit_HostRegistersWork_RingControlBits_enable : (ringAt r4 4).enable = false ∧ (workAt r4 4).stopping = false ∧ 3 ≤ (ringAt r4 4).log2n ∧ (ringAt r4 4).log2n ≤ 16 ∧
    (ringAt base 4).enable = false ∧ (workAt base 4).stopping = false ∧ (ringAt base 4).log2n < 3 ∧
    (ringAt (onRing 4 (fun g => { g with log2n := 17 }) id r4) 4).enable = false ∧ 16 < (ringAt (onRing 4 (fun g => { g with log2n := 17 }) id r4) 4).log2n := by
  decide +kernel
theorem wit_HostRegistersWork_RingControlBits_disable : (ringAt r4live 4).enable = true ∧ (workAt r4live 4).desc.isSome = true ∧ (ringAt r4live 4).paused = false ∧
    (ringAt (onRing 4 live id base) 4).enable = true ∧ (workAt (onRing 4 live id base) 4).desc = none ∧ (ringAt (onRing 4 live id base) 4).doneBytes = 0 := by
  decide +kernel
theorem wit_HostRegistersWork_RingControlBits_pause : let s := onRing 4 (fun g => { g with pause := true }) id base
    domOn s 4 = true ∧ (ringAt s 4).pause = true ∧ (ringAt s 4).paused = false ∧ (workAt s 4).desc = none ∧ (workAt s 4).stopping = false := by
  decide +kernel

theorem wit_HostRegistersWork_ShadowArmSwitches : let s := onRing 4 live id base; let s' := onRing 4 (fun g => { live g with tail := 1 }) id base
    domOn s 4 = true ∧ fbit (4 : W64) 2 = true ∧ (ringAt s 4).enable = true ∧ (ringAt s 4).pause = false ∧ (ringAt s 4).head = (ringAt s 4).tail ∧
    domOn s' 4 = true ∧ (ringAt s' 4).enable = true ∧ (ringAt s' 4).pause = false ∧ (ringAt s' 4).head ≠ (ringAt s' 4).tail := by
  decide +kernel

theorem wit_HostRegistersWork_StatusBitsClear : let s := onRing 4 (fun g => { g with holdoff := 1 }) (fun w => { w with irqCount := 1, irqFirst := 5 }) { base with bar.pba := 2 ^ 31 }
    domOn s 4 = true ∧ bit s.bar.pba (31 : Fin 32).val = true ∧ 0 < (workAt s 4).irqCount ∧ 0 < (ringAt s 4).holdoff ∧
    (workAt s 4).irqFirst + 1000 * (ringAt s 4).holdoff ≤ 1005 := by decide +kernel

theorem wit_DescriptorsAreServed_DescriptorFetchJudges : let s := onRing 4 (fun g => { live g with tail := 1 }) id base
    ringRuns s 4 = true ∧ (ringAt s 4).head ≠ (ringAt s 4).tail ∧ (workAt s 4).desc = none ∧ (workAt s 4).deadline = none ∧
    (∀ k ∈ roleDomains (ringAt s 4).role, domOn s k = true) ∧
    (let d : DescWords := { w0 := 0, w1 := 0, w2 := word (8 + put 1 32) }; badDesc s (ringAt s 4) d = false ∧ badRange s (ringAt s 4) d = false) ∧
    (let d : DescWords := { w0 := 0, w1 := 4, w2 := word (8 + put 1 32) }; badDesc s (ringAt s 4) d = true) ∧
    (let d : DescWords := { w0 := 0, w1 := word (56 * 2 ^ 30), w2 := word (8 + put 1 32) }
     badDesc s (ringAt s 4) d = false ∧ badRange s (ringAt s 4) d = true) := by decide +kernel

/-- A descriptor of eight bytes that is handed over. -/
def d8 : DescWords := { w0 := 0, w1 := 0, w2 := word (8 + put 1 32) }

theorem wit_DescriptorsAreServed_DescriptorCompletes_command : let s := onRing 0 (fun g => { live g with doneBytes := 8 }) (fun w => { w with desc := some d8 }) base
    (workAt s 0).desc = some d8 ∧ (ringAt s 0).enable = true ∧ (ringAt s 0).paused = false ∧ domOn s 4 = true ∧
    (ringAt s 0).role = .commandIn ∧ (ringAt s 0).doneBytes = fld d8.w2 31 0 := by decide +kernel
theorem wit_DescriptorsAreServed_DescriptorCompletes_in : let s := onRing 12 live (fun w => { w with desc := some d8 }) base
    (workAt s 12).desc = some d8 ∧ (ringAt s 12).enable = true ∧ (ringAt s 12).paused = false ∧ domOn s 4 = true ∧
    (ringAt s 12).role = .generalIn ∧ (workAt s 12).moved = [] ∧ (workAt s 12).input = 0 ∧ fbit d8.w2 37 = false ∧ fbit d8.w2 34 = false ∧
    ([1, 2, 3, 4, 5, 6, 7, 8] : List Byte).length = fld d8.w2 31 0 := by decide +kernel
theorem wit_DescriptorsAreServed_DescriptorCompletes_out : let s := onRing 14 live (fun w => { w with desc := some d8 }) base
    (workAt s 14).desc = some d8 ∧ (ringAt s 14).enable = true ∧ (ringAt s 14).paused = false ∧ domOn s 4 = true ∧
    (ringAt s 14).role = .generalOut ∧ (workAt s 14).units = [] ∧ fbit d8.w2 36 = false ∧ fbit d8.w2 33 = false ∧
    poisoned s d8.w1.toNat (fld d8.w2 31 0) = false := by decide +kernel

theorem wit_DescriptorsAreServed_CompletionWritesBack : (workAt r4live 4).desc = some d8 ∧ fbit d8.w2 35 = false ∧ fbit d8.w2 38 = false := by decide +kernel

theorem wit_HostRegistersWork_Bar0WritesAndFlr : domOn base 4 = true := by decide +kernel

theorem wit_HostCommandsAnswer_RingCommandsComplete_deadline : let s := onRing 4 live (fun w => { w with desc := some d8, deadline := some 7 }) base
    (workAt s 4).deadline = some 7 ∧ 7 + 1000000 ≤ 1000007 ∧ (workAt s 4).desc = some d8 ∧ (ringAt s 4).doneBytes ≠ fld d8.w2 31 0 := by decide +kernel
theorem wit_HostCommandsAnswer_RingCommandsComplete_role : Starts Op.ringRole 1 (cmdOf Op.ringRole [15, 8]) (at1 Op.ringRole [15, 8]) ∧
    parN (cmdOf Op.ringRole [15, 8]) 0 = (15 : Fin 16).val ∧ roleOfCode (parN (cmdOf Op.ringRole [15, 8]) 1) = some .generalOut ∧
    (ringAt (at1 Op.ringRole [15, 8]) 15).enable = false ∧
    Starts Op.ringRole 1 (cmdOf Op.ringRole [15, 8]) (onRing 15 live id (at1 Op.ringRole [15, 8])) ∧
    (ringAt (onRing 15 live id (at1 Op.ringRole [15, 8])) 15).enable = true :=
  ⟨starts_of (by decide +kernel), by decide +kernel, by decide +kernel, by decide +kernel, starts_of (by decide +kernel), by decide +kernel⟩
theorem wit_HostCommandsAnswer_RingCommandsComplete_read : let c := cmdOf Op.wellRead [0, 8, 14]; let s := at1 Op.wellRead [0, 8, 14]
    Starts Op.wellRead 1 c s ∧ outRing s (parN c 2) = true ∧ 0 < parN c 1 ∧ rangeFailure s (parN c 0) (parN c 1) = none ∧
    poisoned s (parN c 0) (parN c 1) = false := ⟨starts_of (by decide +kernel), by decide +kernel⟩
/-- WELL_WRITE of eight bytes at an address, from ring 12. -/
def wellWriteAt (a : Nat) : List W64 := [word a, 8, 12]
theorem wit_HostCommandsAnswer_RingCommandsComplete_write : let c := cmdOf Op.wellWrite (wellWriteAt (56 * 2 ^ 30 - 8)); let s := at1 Op.wellWrite (wellWriteAt (56 * 2 ^ 30 - 8))
    Starts Op.wellWrite 1 c s ∧ parN c 2 = (12 : Fin 16).val ∧ inRing s (12 : Fin 16).val = true ∧ 0 < parN c 1 ∧ rangeFailure s (parN c 0) (parN c 1) = none :=
  ⟨starts_of (by decide +kernel), by decide +kernel⟩
theorem wit_HostCommandsAnswer_RingCommandsComplete_protected : let c := cmdOf Op.wellWrite (wellWriteAt (56 * 2 ^ 30)); let s := at1 Op.wellWrite (wellWriteAt (56 * 2 ^ 30))
    Starts Op.wellWrite 1 c s ∧ parN c 2 = (12 : Fin 16).val ∧ inRing s (12 : Fin 16).val = true ∧ 0 < parN c 1 ∧ parN c 0 + parN c 1 ≤ s.well.bytes ∧
    s.well.bytes - 8 * 2 ^ 30 < parN c 0 + parN c 1 :=
  ⟨starts_of (by decide +kernel), by decide +kernel⟩
theorem wit_HostCommandsAnswer_RingCommandsComplete_range : let c := cmdOf Op.wellWrite (wellWriteAt (64 * 2 ^ 30)); let s := at1 Op.wellWrite (wellWriteAt (64 * 2 ^ 30))
    Starts Op.wellWrite 1 c s ∧ parN c 2 = (12 : Fin 16).val ∧ inRing s (12 : Fin 16).val = true ∧ 0 < parN c 1 ∧ s.well.bytes < parN c 0 + parN c 1 :=
  ⟨starts_of (by decide +kernel), by decide +kernel⟩

/-- A device in boot with mailbox operation `op` waiting or under way. -/
def mbx (op : Nat) (run : Bool) : State := { base with pwr.ready := false, bar.mbxBusy := true, bar.mbxOp := op, bar.mbxRun := run, bar.mbxArg := #v[0, 64, 1, 0] }

/-- An image header with the magic and format of R411 and zeros elsewhere, every check passed. -/
def goodImage : ImgVerdict := { readOk := true, header := [0x4D, 0x49, 0x50, 0x4A, 1] ++ List.replicate 83 0, rootOk := true, ecdsaOk := true, mldsaOk := true, bodyOk := true }

theorem wit_HostCommandsAnswer_MailboxOperations : mbxReady (mbx 1 false) 1 = true ∧ mbxReady (mbx 2 false) 2 = true ∧ mbxReady (mbx 3 false) 3 = true ∧
    mbxReady (mbx 4 false) 4 = true ∧ (mbx 4 true).bar.mbxBusy = true ∧ (mbx 4 true).bar.mbxRun = true ∧ (mbx 4 true).bar.mbxOp ≠ 3 ∧
    (mbx 3 true).bar.mbxBusy = true ∧ (mbx 3 true).bar.mbxRun = true ∧ (mbx 3 true).bar.mbxOp = 3 ∧ imgFailure (advance 9 (mbx 3 true)) goodImage = none ∧
    ((mbx 3 true).bar.mbxArg[2]).toNat = (1 : Fin 2).val := by decide +kernel

/-! ### Witnesses: check units, calibration, the Ledger and the record stream -/

/-- The record of unit 0 as CHECK_RUN loads it (R447): "CHK1", width 32, reflected, with the CRC-32C numbers. -/
def chkRecord : List W64 := [word (32 + put 1 8 + put 1 9 + put 0x43484B31 32), 0x1EDC6F41, 0xFFFFFFFF, 0xFFFFFFFF]

/-- CHECK_RUN of unit 0 in a mode, on a range at address 64. -/
def chkRun (mode len : Nat) : List W64 := [word (put mode 8), 64, word len]

theorem wit_CheckUnitsWork_CheckRunModes_scan : let c := cmdOf Op.checkRun (chkRun 0 9); let s := at1 Op.checkRun (chkRun 0 9)
    Starts Op.checkRun 1 c s ∧ unitOf (parF c 0 2 0) = some 0 ∧ rangeFailure s (parN c 1) (parN c 2) = none ∧ parF c 0 9 8 = 0 ∧
    0 < parN c 2 ∧ parN c 2 ≤ 2 ^ 40 ∧ s.chk.scans.length < 4 ∧ (servedBy s 0).isSome = true :=
  ⟨starts_of (by decide +kernel), by decide +kernel⟩
theorem wit_CheckUnitsWork_CheckRunModes_load : let c := cmdOf Op.checkRun (chkRun 1 32); let s := wellWrite 64 (wordsBytes chkRecord) (at1 Op.checkRun (chkRun 1 32))
    Starts Op.checkRun 1 c s ∧ unitOf (parF c 0 2 0) = some 0 ∧ rangeFailure s (parN c 1) (parN c 2) = none ∧ parF c 0 9 8 = 1 ∧ parN c 2 = 32 ∧
    parN c 1 % 8 = 0 ∧ poisoned s (parN c 1) 32 = false ∧ recordCfg 0 (wordsOf (wellRead s (parN c 1) 32)) = some CheckCfg.crc32c ∧ contextHeld s 0 = false :=
  ⟨starts_of (by decide +kernel), by decide +kernel⟩
theorem wit_CheckUnitsWork_CheckRunModes_store : let c := cmdOf Op.checkRun (chkRun 2 64); let s := at1 Op.checkRun (chkRun 2 64)
    Starts Op.checkRun 1 c s ∧ unitOf (parF c 0 2 0) = some 0 ∧ rangeFailure s (parN c 1) (parN c 2) = none ∧ parF c 0 9 8 = 2 ∧ parN c 2 = 64 ∧
    parN c 1 % 8 = 0 := ⟨starts_of (by decide +kernel), by decide +kernel⟩
theorem wit_CheckUnitsWork_CheckRunModes_end : let c := runOf Op.checkRun (chkRun 0 9)
    let s := { withCmd c base with chk.scans := [{ cid := 1, unit := 0, addr := 64, len := 9 }] }
    Runs Op.checkRun 1 c s ∧ s.chk.scans.find? (fun y => y.cid == 1) = some { cid := 1, unit := 0, addr := 64, len := 9 } ∧ poisoned s 64 9 = false ∧
    servedBy s 0 = some CheckCfg.crc32c := ⟨runs_of (by decide +kernel), by decide +kernel⟩

theorem wit_CheckUnitsWork_CheckUnitSelfcheckFails : base.chk.units[(3 : Fin 4).castSucc].failed = false := by decide +kernel

/-- A calibration record of an item with a body of zeros (R489). -/
def zeroBody (item : Nat) : List Byte := List.replicate (8 * itemWords item []) 0
def calBytes (item : Nat) (body : List Byte) : List Byte :=
  wordsBytes [word (item + put (body.length / 8) 32), word (crc32c body), 0, 0] ++ body

theorem wit_CalibrationIsKept_CalibrationCommandsStage_read : let c := cmdOf Op.calRead [0x184, 14]; let s := at1 Op.calRead [0x184, 14]
    let d := cmdOf Op.calRead [word (2 ^ 64 - 1), 14]; let u := at1 Op.calRead [word (2 ^ 64 - 1), 14]
    (Starts Op.calRead 1 c s ∧ outRing s (parN c 1) = true ∧ parN c 0 ∈ calItems) ∧
    (Starts Op.calRead 1 d u ∧ outRing u (parN d 1) = true ∧ parN d 0 = 2 ^ 64 - 1) :=
  ⟨⟨starts_of (by decide +kernel), by decide +kernel⟩, ⟨starts_of (by decide +kernel), by decide +kernel⟩⟩

/-- CAL_WRITE of item 0x184 from address 64. -/
def calWriteP : List W64 := [0x184, 64, word (32 + 200)]
theorem wit_CalibrationIsKept_CalibrationCommandsStage_write : let c := cmdOf Op.calWrite calWriteP
    let s := wellWrite 64 (calBytes 0x184 (zeroBody 0x184)) (at1 Op.calWrite calWriteP)
    Starts Op.calWrite 1 c s ∧ rangeFailure s (parN c 1) (parN c 2) = none ∧ poisoned s (parN c 1) (parN c 2) = false ∧ parN c 0 ∈ calItems ∧
    suppliedItem (startedAt 7 1 s) (parN c 0) (wellRead s (parN c 1) (parN c 2)) = some { item := 0x184, body := zeroBody 0x184, origin := 2 } ∧
    calBusy s (parN c 0) = false ∧ s.led.staging = [] := ⟨starts_of (by decide +kernel), by decide +kernel⟩
theorem wit_CalibrationIsKept_CalibrationCommandsStage_bad : let c := cmdOf Op.calWrite calWriteP; let s := at1 Op.calWrite calWriteP
    Starts Op.calWrite 1 c s ∧ rangeFailure s (parN c 1) (parN c 2) = none ∧ poisoned s (parN c 1) (parN c 2) = false ∧ parN c 0 ∈ calItems ∧
    suppliedItem (startedAt 7 1 s) (parN c 0) (wellRead s (parN c 1) (parN c 2)) = none := ⟨starts_of (by decide +kernel), by decide +kernel⟩

theorem wit_CalibrationIsKept_CalibrationRunsWrite_commit : let w : CalWrite := { new := { item := 0x184, body := zeroBody 0x184 }, cid := 1, staged := true }
    let s := { base with led.staging := [w] }
    s.led.staging = [w] ∧ w.staged = true := by decide +kernel
theorem wit_CalibrationIsKept_CalibrationRunsWrite_silicon : let c := cmdOf Op.calRun [0x184, 23]; let s := at1 Op.calRun [0x184, 23]
    Starts Op.calRun 1 c s ∧ runNamed (parN c 0) (parN c 1) = true ∧ parN c 0 ∈ [0x180, 0x181, 0x182, 0x183, 0x184] ∧ calBusy s (parN c 0) = false ∧
    runInUse s (parN c 0) (parN c 1) = none := ⟨starts_of (by decide +kernel), by decide +kernel⟩
theorem wit_CalibrationIsKept_CalibrationRunsWrite_dram : let c := cmdOf Op.calRun [0x160, 7]; let s := at1 Op.calRun [0x160, 7]
    Starts Op.calRun 1 c s ∧ runNamed (parN c 0) (parN c 1) = true ∧ parN c 0 = 0x160 ∧ ddrRefusal s (parN c 1) = none ∧ calBusy s 0x160 = false ∧
    calBusy s 0x161 = false := ⟨starts_of (by decide +kernel), by decide +kernel⟩

/-- A job that prints plane 0 on one track of 272 lines, active. -/
def jobA : Job := { desc := { id := 5, maxRate := 1000, artWidth := 4096, repeats := 10, planes := [{}], tracks := [{ length := 272, stop := 272, artRow := 0 }] }, passed := true }
def jobBase : State := { base with job.loaded := [jobA], job.active := some 5 }

theorem wit_CalibrationIsKept_CalibrationRunsWrite_density : let c := cmdOf Op.calRun [0, 0]
    let s := withCmd c { jobBase with led.items := [{ item := 0, body := zeroBody 0 }], vis.sensors := upd base.vis.sensors 7 fun x => { x with on := true } }
    Starts Op.calRun 1 c s ∧ runNamed (parN c 0) (parN c 1) = true ∧ parN c 0 < 0x40 ∧ calBusy s (parN c 0) = false ∧ densityRefusal s (parN c 0) (parN c 1) = none :=
  ⟨starts_of (by decide +kernel), by decide +kernel⟩

theorem wit_CalibrationIsKept_CalibrationRunsWrite_end : let r : CalRunning := { item := 0x184, inst := 23, cid := 1 }
    let s := { base with led.runs := [r] }
    s.led.runs.find? (fun x => x.item == r.item && x.cid != 0) = some r ∧ r.item ∈ [0x180, 0x181, 0x182, 0x183, 0x184] ∧
    siliconOk r.item (runBody ((itemBody s r.item).getD []) (zeroBody 0x184) r.item r.inst 9) = true := by decide +kernel

/-- A Ledger that writes the issue part of record 3. -/
def partWaits (tries : Nat) : State := { base with led.writes := [.part 3 0], led.tries := tries }
theorem wit_CalibrationIsKept_LedgerWritesEnd : let s := partWaits 2
    s.led.writes = .part 3 0 :: [] ∧ s.led.failing = [] ∧ s.led.sparesOut = false ∧
    ((s.led.counts.find? fun c => c.1 == physSector s (3 % 98304 / 32)).map (·.2)).getD 0 + 1 < 1000000000000 ∧ s.twn.ackDue = [] ∧ s.led.tries < 3 := by
  decide +kernel

theorem wit_RecordsAreExported_RecordStreamExports_close : let s := { base with tal.entries := [([1, 2, 3], [(1, 2)])], tal.blockAt := 7 }
    blockCloses (advance 100000007 s) = true ∧ domOn s 2 = true := by decide +kernel
theorem wit_RecordsAreExported_RecordStreamExports_ack : recordPort { base with net := upd base.net 1 fun p => { p with cfg.enable := true, cfg.recEnable := true } } 1 = true := by
  decide +kernel
theorem wit_RecordsAreExported_RecordStreamExports_resend : let b : RecBlock := { seq := 4, sentAt := 7 }; let s := { base with tal.blocks := [b] }
    s.tal.blocks.find? (fun x => x.seq == b.seq) = some b ∧ b.sentAt + 100000000 ≤ 100000007 ∧ domOn s 2 = true := by decide +kernel
theorem wit_RecordsAreExported_RecordStreamExports_empty : let c := cmdOf Op.journalRead [2, 2, 14]; let s := { at1 Op.journalRead [2, 2, 14] with tal.journal := [{ num := 2 }] }
    Starts Op.journalRead 1 c s ∧ outRing s (parN c 2) = true ∧ parN c 0 ≤ parN c 1 ∧ (∀ r ∈ s.tal.journal, ¬ (parN c 0 ≤ r.num ∧ r.num < parN c 1)) :=
  ⟨starts_of (by decide +kernel), by decide +kernel⟩
theorem wit_RecordsAreExported_RecordStreamExports_read : let c := cmdOf Op.journalRead [2, 3, 14]; let s := { at1 Op.journalRead [2, 3, 14] with tal.journal := [{ num := 2 }] }
    Starts Op.journalRead 1 c s ∧ outRing s (parN c 2) = true ∧ parN c 0 ≤ parN c 1 ∧
    ∃ es blocks, es = (s.tal.journal.filter fun r => within (parN c 0) (parN c 1) r.num).flatMap recordEntries ∧
      blocks = readBlocks (es.length + 1) 0 [] es ∧ blocks ≠ [] := by
  refine ⟨starts_of (by decide +kernel), by decide +kernel, by decide +kernel, _, _, rfl, rfl, ?_⟩
  show (if _ = true then [] else _ :: _) ≠ []
  rw [if_neg (by decide +kernel)]; simp

/-! ### Witnesses: jobs -/

/-- A job description of R90 to R94: job 5, plane 0, one track of 272 lines on input 0, one row of the 128 first nozzles of Stall 0, no tiles. -/
def jobWords : List W64 :=
  [word (0x4A4F4230 + put 1 32), word (5 + put 1 32 + put 1 36), word (600 + put 1000 32), word (4096 + put 10 32), 64, 80, 80, word (112 + put 1 32),
   0, 0, word (put 272 32), word (put 128 32), 0, 0, word (put 128 22), word (put 100 32)]
def jobText : List Byte := wordsBytes jobWords ++ leBytes 8 (crc32c (wordsBytes jobWords))
def jobD : JobDesc := { id := 5, dpi := 600, maxRate := 1000, artWidth := 4096, repeats := 10, planes := [{}], tracks := [{ length := 272, stop := 128 }],
                        rows := [{ count := 128, pitch := 100 }] }

/-- JOB_LOAD of job 5 from address 64, no key. -/
def loadP : List W64 := [5, 64, 136, 0]
/-- The device whose Stall 0 has the row of that job. -/
def rowBase : State := { base with stl := upd base.stl 0 fun st => { st with rows := [{ count := 128, pitch := 100 }] } }

theorem wit_JobsComeAndGo_JobsLoadAndUnload_load : let c := cmdOf Op.jobLoad loadP; let s := wellWrite 64 jobText (withCmd c rowBase)
    Starts Op.jobLoad 1 c s ∧ loadFailure s (parN c 0) = none ∧ rangeFailure s (parN c 1) (parN c 2) = none ∧ poisoned s (parN c 1) (parN c 2) = false ∧
    parN c 3 = 0 ∧ parseJob (wellRead s (parN c 1) (parN c 2)) (parN c 0) (hostEnd s) = some jobD ∧ geometryOk s jobD.rows = true :=
  ⟨starts_of (by decide +kernel), by decide +kernel⟩
theorem wit_JobsComeAndGo_JobsLoadAndUnload_bad : let c := cmdOf Op.jobLoad loadP; let s := withCmd c base
    Starts Op.jobLoad 1 c s ∧ loadFailure s (parN c 0) = none ∧ rangeFailure s (parN c 1) (parN c 2) = none ∧ poisoned s (parN c 1) (parN c 2) = false ∧
    parN c 3 = 0 ∧ parseJob (wellRead s (parN c 1) (parN c 2)) (parN c 0) (hostEnd s) = none :=
  ⟨starts_of (by decide +kernel), by decide +kernel⟩

/-- A loading of a job without planes, first or in the place of a job. -/
def loadingOf (replacing : Bool) (fate : Nat) (planes : List Plane) : Loading := { job := { desc := { id := 5, planes := planes } }, cid := 1, replacing := replacing, fate := fate }
theorem wit_JobsComeAndGo_JobsLoadAndUnload_check (replacing : Bool) (fate : Nat) (planes : List Plane) : let l := loadingOf replacing fate planes; let s := { base with job.loading := [l] }
    s.job.loading.find? (fun x => x.job.desc.id == l.job.desc.id) = some l := by simp [List.find?]
theorem wit_JobsComeAndGo_JobsLoadAndUnload_passed : (checkJob { (loadingOf true 0 []).job with clear := [] } base).1.passed = true ∧
    (checkJob { (loadingOf true 0 [{ thresh := 4 }]).job with clear := [] } base).1.passed = false := by decide +kernel

/-- A job whose tiles are all transparent passes. -/
theorem wit_PassedJobIsClean : (checkJob { desc := { id := 5, tiles := [{}, {}] } } base).1.passed = true := by decide +kernel

theorem wit_JobsComeAndGo_JobsLoadAndUnload_unload : let c := cmdOf Op.jobUnload [5]
    (let s := withCmd c { base with job.loaded := [jobA] }
     Starts Op.jobUnload 1 c s ∧ (jobOf s (parN c 0)).isSome = true ∧ incoming s (parN c 0) = false ∧ jobIsActive s (parN c 0) = false ∧ s.job.activating = none) ∧
    (let s := withCmd c base; Starts Op.jobUnload 1 c s ∧ jobOf s (parN c 0) = none) ∧
    (let s := withCmd c jobBase; Starts Op.jobUnload 1 c s ∧ (jobOf s (parN c 0)).isSome = true ∧ s.job.active = some (parN c 0) ∧ s.job.switch = none) :=
  ⟨⟨starts_of (by decide +kernel), by decide +kernel⟩, ⟨starts_of (by decide +kernel), by decide +kernel⟩, ⟨starts_of (by decide +kernel), by decide +kernel⟩⟩

/-- A passed job without planes. -/
def plainJob (id : Nat) : Job := { desc := { id := id, maxRate := 1000, artWidth := 4096, repeats := 10 }, passed := true }
/-- The device with the Well at its full rate and jobs 5 and 6 loaded. -/
def twoJobs : State := { base with job.loaded := [plainJob 5, plainJob 6], well.rate := 7, mot.cfg.primary := 0 }

theorem wit_JobsComeAndGo_JobBecomesActive_ok : let c := cmdOf Op.jobActivate [5, 0]; let s := withCmd c twoJobs
    Starts Op.jobActivate 1 c s ∧ activationWaits (advance 7 s) (parN c 0) = false ∧ jobOf s (parN c 0) = some (plainJob 5) ∧ (plainJob 5).stale = false ∧
    (plainJob 5).passed = true ∧ s.led.badSaved = false ∧ jobActive s = false ∧ s.job.activating = none ∧
    activationFailure (startedAt 7 1 s) (plainJob 5) [] none = none :=
  ⟨starts_of (by decide +kernel), by decide +kernel⟩
theorem wit_JobsComeAndGo_JobBecomesActive_refused : let c := cmdOf Op.jobActivate [5, 0]; let s := withCmd c { twoJobs with mot.cfg.primary := 4 }
    Starts Op.jobActivate 1 c s ∧ activationWaits (advance 7 s) (parN c 0) = false ∧ jobOf s (parN c 0) = some (plainJob 5) ∧ (plainJob 5).stale = false ∧
    (plainJob 5).passed = true ∧ s.led.badSaved = false ∧ jobActive s = false ∧ s.job.activating = none ∧
    activationFailure (startedAt 7 1 s) (plainJob 5) [] none = some (Status.pacerSource, []) :=
  ⟨starts_of (by decide +kernel), by decide +kernel⟩
theorem wit_JobsComeAndGo_JobBecomesActive_loaded : let s := { twoJobs with job.activating := some (1, 5, 0) }
    s.job.activating = some (1, 5, 0) ∧ jobOf s 5 = some (plainJob 5) ∧
    (loadScreens (plainJob 5) (screenSlots [plainJob 5]) (dropScreens [plainJob 5] (advance 7 s))).1.isSome = true ∧
    (let j := { plainJob 5 with screens := [(4, 0)] }; (loadScreens j (screenSlots [j]) (dropScreens [j] (advance 7 s))).1 = none) := by decide +kernel

theorem wit_JobsComeAndGo_JobSwitchPends_ok : let c := cmdOf Op.jobSwitch [6, word (2 ^ 64 - 1)]; let s := withCmd c { twoJobs with job.active := some 5 }
    Starts Op.jobSwitch 1 c s ∧ activationWaits (advance 7 s) (parN c 0) = false ∧ jobOf s (parN c 0) = some (plainJob 6) ∧ (plainJob 6).stale = false ∧
    (plainJob 6).passed = true ∧ s.led.badSaved = false ∧ s.job.active = some 5 ∧ jobOf s 5 = some (plainJob 5) ∧ jobIsActive s (plainJob 6).desc.id = false ∧
    s.job.switch = none ∧ parN c 1 = 2 ^ 64 - 1 ∧ activationFailure (startedAt 7 1 s) (plainJob 6) [plainJob 5] none = none ∧
    (loadScreens (plainJob 6) (screenSlots [plainJob 6]) (dropScreens [plainJob 6, plainJob 5] (startedAt 7 1 s))).1.isSome = true :=
  ⟨starts_of (by decide +kernel), by decide +kernel⟩
theorem wit_JobsComeAndGo_JobSwitchPends_refused : let c := cmdOf Op.jobSwitch [6, 9]; let s := withCmd c { twoJobs with job.active := some 5, mot.cfg.primary := 4 }
    Starts Op.jobSwitch 1 c s ∧ activationWaits (advance 7 s) (parN c 0) = false ∧ jobOf s (parN c 0) = some (plainJob 6) ∧ s.led.badSaved = false ∧
    s.job.active = some 5 ∧ jobOf s 5 = some (plainJob 5) ∧ jobIsActive s (plainJob 6).desc.id = false ∧ s.job.switch = none ∧ parN c 1 ≠ 2 ^ 64 - 1 ∧
    activationFailure (startedAt 7 1 s) (plainJob 6) [plainJob 5] (some (parN c 1)) = some (Status.pacerSource, []) :=
  ⟨starts_of (by decide +kernel), by decide +kernel⟩

/-! ### Witnesses: motion, products, gates -/

/-- MOTION_CONFIG: primary encoder 0, no check encoder, the pacer at 1 kHz, one count a line, every input off. -/
def motionP : List W64 := [word (put 7 4 + put 1000 32), word (2 ^ 32), word (2 ^ 32), word (2 ^ 32), word (2 ^ 32), 0, 0, 0] ++ List.replicate 8 0

theorem wit_MotionIsFollowed_MotionConfigSets_ok : let c := cmdOf Op.motionConfig motionP; let s := withCmd c base
    Starts Op.motionConfig 1 c s ∧ motionCfgOk (motionCfgOf c) = true ∧ jobActive s = false ∧ (∀ j ∈ activeJobs s, leadsFit s j ((List.range 8).map (pdCfgOf c)) = true) ∧
    motionCfgOf c ≠ s.mot.cfg :=
  ⟨starts_of (by decide +kernel), by decide +kernel⟩
theorem wit_MotionIsFollowed_MotionConfigSets_busy : let c := cmdOf Op.motionConfig motionP; let s := withCmd c jobBase
    Starts Op.motionConfig 1 c s ∧ motionCfgOk (motionCfgOf c) = true ∧ jobActive s = true ∧ motionCfgOf c ≠ s.mot.cfg :=
  ⟨starts_of (by decide +kernel), by decide +kernel⟩

/-- Encoder 3 with its last edge, on channel A, at moment 100. -/
def encBase : State := { base with mot.enc := upd base.mot.enc 3 fun e => { e with seen := true, edgeA := true, edgeAt := 100 } }
theorem wit_MotionIsFollowed_EncodersCount :
    (encBase.mot.enc[(3 : Fin 4)].seen && encBase.mot.enc[(3 : Fin 4)].edgeA != false && decide ((advance 110 encBase).now - encBase.mot.enc[(3 : Fin 4)].edgeAt < 10)) = false ∧
    (encBase.mot.enc[(3 : Fin 4)].seen && encBase.mot.enc[(3 : Fin 4)].edgeA != false && decide ((advance 109 encBase).now - encBase.mot.enc[(3 : Fin 4)].edgeAt < 10)) = true := by
  decide +kernel

theorem wit_ProductsAreQueued_EdgesMakeProducts_edge : base.mot.pds[(7 : Fin 8)].level ≠ true ∧ remoteInput base 7 = false ∧ base.mot.pds[(7 : Fin 8)].burst = none ∧
    (let s := { base with mot.pds := upd base.mot.pds 7 fun p => { p with burst := some 4 } }
     s.mot.pds[(7 : Fin 8)].level ≠ true ∧ remoteInput s 7 = false ∧ s.mot.pds[(7 : Fin 8)].burst = some 4) := by decide +kernel

/-- Input 0 enabled with debounce 10, lead 200 and blanking 50, its level just risen at moment 90; job 5 active. -/
def pdCfgA : PdCfg := { enable := true, debounce := 10, lead := 200, blank := 50 }
def edgeBase (blankAt : Option Nat) : State := { jobBase with
  mot.pds := upd base.mot.pds 0 fun p => { p with cfg := pdCfgA, level := true, burst := some 90, lastAt := 90, blankAt := blankAt } }
theorem wit_ProductsAreQueued_EdgesMakeProducts_blanked : let s := edgeBase (some 0)
    s.mot.pds[(0 : Fin 8)].burst = some 90 ∧ pdCfgA = pdSettings s.mot.pds[(0 : Fin 8)] 90 ∧ s.mot.pds[(0 : Fin 8)].lastAt + pdCfgA.debounce ≤ (advance 100 s).now ∧ 0 = lineAt s 90 ∧
    pdCfgA.enable = true ∧ s.mot.pds[(0 : Fin 8)].level ≠ s.mot.pds[(0 : Fin 8)].held ∧ s.mot.pds[(0 : Fin 8)].level = !pdCfgA.falling ∧
    (∃ d, s.mot.pds[(0 : Fin 8)].blankAt = some d ∧ d ≤ 0 ∧ 0 < d + pdCfgA.blank) := by
  refine ⟨by decide +kernel, by decide +kernel, by decide +kernel, by decide +kernel, by decide +kernel, by decide +kernel, by decide +kernel, 0, by decide +kernel⟩
theorem wit_ProductsAreQueued_EdgesMakeProducts_product : let s := edgeBase none
    s.mot.pds[(0 : Fin 8)].burst = some 90 ∧ pdCfgA = pdSettings s.mot.pds[(0 : Fin 8)] 90 ∧ s.mot.pds[(0 : Fin 8)].lastAt + pdCfgA.debounce ≤ (advance 100 s).now ∧ 0 = lineAt s 90 ∧
    pdCfgA.enable = true ∧ s.mot.pds[(0 : Fin 8)].level ≠ s.mot.pds[(0 : Fin 8)].held ∧ s.mot.pds[(0 : Fin 8)].level = !pdCfgA.falling ∧
    s.mot.pds[(0 : Fin 8)].behind = false ∧ s.mot.pds[(0 : Fin 8)].blankAt = none ∧ s.twn.role = .unbound ∧ s.job.switch = none ∧ s.job.active = some jobA.desc.id ∧
    jobOf s jobA.desc.id = some jobA ∧ jobA.la ≤ 0 + pdCfgA.lead ∧ jobA.activeAt ≤ 90 ∧ trackOn jobA 0 = some (0, { length := 272, stop := 272, artRow := 0 }) ∧
    s.prod.queue.length < 64 := by decide +kernel

/-- Two lines are owed under encoder 0, or a tick of the pacer. -/
theorem wit_LinesMoveTheGates_BoundaryRaisesLine : (let s := { base with mot.source := 0, mot.h := 2, mot.line := 1 }; domOn s 9 = true ∧ s.mot.line < lineOwed s) ∧
    (let s := { base with mot.source := 0, mot.h := 1, mot.line := 1 }; domOn s 9 = true ∧ lineOwed s ≤ s.mot.line ∧ s.mot.source ≠ 4) ∧
    (let s := { base with mot.source := 4 }; domOn s 9 = true ∧ s.mot.source = 4) := by decide +kernel

theorem wit_ProductsAreQueued_QueueIsReadAndForced_ring : let c := cmdOf Op.queueRead [15]; let s := withCmd c { base with prod.queue := [{}] }
    Starts Op.queueRead 1 c s ∧ parN c 0 < 16 ∧ outRing s (parN c 0) = true ∧ s.prod.queue ≠ [] :=
  ⟨starts_of (by decide +kernel), by decide +kernel⟩
theorem wit_ProductsAreQueued_QueueIsReadAndForced_well : let c := cmdOf Op.queueRead [0x10000]; let s := withCmd c base
    Starts Op.queueRead 1 c s ∧ 0x10000 ≤ parN c 0 ∧ parN c 0 % 8 = 0 ∧ rangeFailure s (parN c 0) 4096 = none :=
  ⟨starts_of (by decide +kernel), by decide +kernel⟩
theorem wit_ProductsAreQueued_QueueIsReadAndForced_past : let c := cmdOf Op.productForce [0, 199]; let s := withCmd c (edgeBase none)
    Starts Op.productForce 1 c s ∧ parN c 0 = (0 : Fin 8).val ∧ parN c 1 < s.mot.line + s.mot.pds[(0 : Fin 8)].cfg.lead :=
  ⟨starts_of (by decide +kernel), by decide +kernel⟩
theorem wit_ProductsAreQueued_QueueIsReadAndForced_force : let c := cmdOf Op.productForce [0, 200]; let s := withCmd c (edgeBase none)
    Starts Op.productForce 1 c s ∧ parN c 0 = (0 : Fin 8).val ∧ s.mot.line + s.mot.pds[(0 : Fin 8)].cfg.lead ≤ parN c 1 ∧ standby s = false ∧
    s.mot.pds[(0 : Fin 8)].cfg.enable = true ∧ s.job.switch = none ∧ s.job.active = some jobA.desc.id ∧ jobOf s jobA.desc.id = some jobA ∧ jobA.la ≤ parN c 1 ∧
    jobA.activeAt ≤ (advance 7 s).now ∧ trackOn jobA 0 = some (0, { length := 272, stop := 272, artRow := 0 }) ∧ s.prod.queue.length < 64 :=
  ⟨starts_of (by decide +kernel), by decide +kernel⟩

/-- A product that has been printed, with a gate word that serves its track and whose reject window is listed. -/
def gw3 : GateWord := { mask := 1, tracks := 1, enable := true, offset := 10, length := 5 }
def prodP : Product := { num := 2, first := 100, stop := 372, flags := 1, printed := true, gw := (Vector.replicate 4 {}).set 3 gw3 }
def gateBase (n : Nat) : State := { base with prod.queue := [prodP], prod.gates := upd base.prod.gates 3 fun g =>
  { g with windows := List.replicate n { reject := true, word := gw3 } } }
theorem wit_LinesMoveTheGates_GateDecisionsPlaced_place : let s := gateBase 255
    productOf s 2 = some prodP ∧ productReady s prodP = true ∧ prodP.gw[(3 : Fin 4)].serves prodP.track = true ∧ bit prodP.decided 3 = false ∧
    listUse s.prod.gates[(3 : Fin 4)] < 256 := by decide +kernel
theorem wit_LinesMoveTheGates_GateDecisionsPlaced_full : let s := gateBase 256
    productOf s 2 = some prodP ∧ productReady s prodP = true ∧ prodP.gw[(3 : Fin 4)].serves prodP.track = true ∧ bit prodP.decided 3 = false ∧
    (gateWindow prodP.gw[(3 : Fin 4)] prodP.first (prodP.gw[(3 : Fin 4)].rejects prodP.flags) 2).listed = true ∧ 256 ≤ listUse s.prod.gates[(3 : Fin 4)] := by decide +kernel
/-- Four gate words with the lowest length that R117 takes, and with a length of 0. -/
def policyP (len : Nat) : List W64 := [word (put 1 24 + put len 48), 0, 0, 0]
theorem wit_LinesMoveTheGates_GateDecisionsPlaced_policy :
    (let c := cmdOf Op.rejectPolicy (policyP 1); let s := withCmd c base
     Starts Op.rejectPolicy 1 c s ∧ (∀ i, i < 4 → gateWordOk (par c i) = true) ∧ edgesBefore s c.acceptAt = false) ∧
    (let c := cmdOf Op.rejectPolicy (policyP 0); let s := withCmd c base
     Starts Op.rejectPolicy 1 c s ∧ ∃ i, i < 4 ∧ gateWordOk (par c i) = false) :=
  ⟨⟨starts_of (by decide +kernel), by decide +kernel, by decide +kernel⟩, ⟨starts_of (by decide +kernel), 0, by decide +kernel⟩⟩

/-! ### Witnesses: the Mill -/

/-- A job with two tiles whose blocks are unreadable as blocks, and a segment of it. -/
def jobTiles : Job := { desc := { id := 5, planes := [{}], tracks := [{ length := 272, stop := 256 }], tiles := [{ addr := 64, col := 0, row := 0 }] }, passed := true }
def itemA : SegItem := { plane := 0, col := 0, row := 0, seg := 15, input := 0 }
def tileBase : State := { base with job.loaded := [jobTiles], job.active := some 5 }
/-- The same segment of a column without a tile. -/
def itemB : SegItem := { itemA with row := 9 }

theorem wit_BandsAreDispatched_SegmentsFillTheBand_decode : segJob tileBase itemA = some jobTiles ∧ decoderOf tileBase 1 = some 16 ∧ (segTile jobTiles itemA).isSome = true ∧ itemA.seg ≤ 15 ∧
    (∀ b ∈ tileBase.mil.band[(1 : Fin 2)], b.item ≠ itemA) ∧ (tripleSlots tileBase.mil.band[(1 : Fin 2)] itemA).length < 2 ∧
    tileBase.mil.band[(1 : Fin 2)].length < 2048 := by decide +kernel
/-- A band slot that is being filled with a segment. -/
def slotFor (i : SegItem) : BandSlot := { item := i, job := 5 }
def bandBase (i : SegItem) : State := { tileBase with mil.band := upd tileBase.mil.band 0 fun _ => [slotFor i] }
theorem wit_BandsAreDispatched_SegmentsFillTheBand_complete :
    (bandSlot (bandBase itemB) 0 itemB = some (slotFor itemB) ∧ (slotFor itemB).full = false ∧ jobOf (bandBase itemB) (slotFor itemB).job = some jobTiles ∧
      segDecodes (bandBase itemB) jobTiles itemB = true) ∧
    (bandSlot (bandBase itemA) 0 itemA = some (slotFor itemA) ∧ jobOf (bandBase itemA) (slotFor itemA).job = some jobTiles ∧
      segDecodes (bandBase itemA) jobTiles itemA = false ∧ ∀ r ∈ (bandBase itemA).mil.redecode, r.item ≠ itemA) := by decide +kernel

/-- Job 5 active, one product in the window of line 100, which is closed; pair 3 alone in service. -/
def dispBase : State := { jobBase with
  prod.queue := [{ num := 1, first := 100, stop := 372, job := 5, issued := true }]
  mil.nextLine := 100
  mil.pairs := upd base.mil.pairs 3 fun p => { p with service := true } }
theorem wit_BandsAreDispatched_LinesAreDispatched : readyPair (advance 7 dispBase) = some 3 ∧ mayDispatch (advance 7 dispBase) 100 = true ∧ readyPair (advance 7 base) = none := by
  decide +kernel

/-- A job whose track carries stream 0. -/
def jobStream : Job := { desc := { id := 5, templates := 1, planes := [{}], tracks := [{ length := 272, stop := 256, templates := 1 }] }, passed := true }
def prodU (job : Nat) : Product := { num := 1, first := 100, stop := 372, job := job }
def issueBase (job : Job) (tp : Option Template) : State := { base with
  job.loaded := [job], job.active := some 5, prod.queue := [prodU 5], tal.streams := upd base.tal.streams 0 fun x => { x with template := tp } }
/-- A Code 128 template of one literal digit. -/
def tplA : Template := { symbology := 5, modX := 1, modY := 1, aux := 1000, elements := [.literal [0x31]] }
theorem wit_RecordsAreIssued_IssueFormsRecords_ready (job : Job) (tp : Option Template) (h : (job, tp) = (jobA, none) ∨ (job, tp) = (jobStream, none) ∨ (job, tp) = (jobStream, some tplA)) :
    let s := issueBase job tp
    s.prod.queue.find? unissued = some (prodU 5) ∧ faulted s = false ∧ s.flt.replayDue = false ∧ notLead s = false ∧ domOn s 2 = true ∧
    leaseHeld (advance 7 s) = true ∧ s.twn.role ≠ .lead ∧ (prodU 5).num ∉ s.flt.replaying := by
  rcases h with h | h | h <;> injection h with h1 h2 <;> subst h1 h2 <;> decide +kernel
theorem wit_RecordsAreIssued_IssueFormsRecords_plain : let u := advance 7 (issueBase jobA none); productStreams u (prodU 5) = [] := by decide +kernel
theorem wit_RecordsAreIssued_IssueFormsRecords_records : let s := issueBase jobStream (some tplA); let u := advance 7 s
    productStreams u (prodU 5) ≠ [] ∧ calendarFailure u (prodU 5) (productStreams u (prodU 5)) = none ∧
    (issueStreams (prodU 5) (productStreams u (prodU 5)) { state := u }).toOption.map (fun d =>
      (d.recs.length, nextRecords u (98304 + d.recs.length) d.recs.length s.tal.nextRec)) = some (1, [0]) ∧ journalFree u (0 % 98304) = true := by decide +kernel
theorem wit_RecordsAreIssued_IssueFormsRecords_fails : let s := issueBase jobStream none; let u := advance 7 s
    productStreams u (prodU 5) ≠ [] ∧ calendarFailure u (prodU 5) (productStreams u (prodU 5)) = none ∧
    (issueStreams (prodU 5) (productStreams u (prodU 5)) { state := u }).toOption.isNone = true := by decide +kernel

theorem wit_RecordsAreExported_RecordsBecomeDurable_issue : let s := { base with tal.journal := [{ num := 3, product := 2, local_ := 1 }] }
    recsOf s 2 ≠ [] ∧ ∀ r ∈ recsOf s 2, bit r.local_ 0 = true ∧ (bit r.peer 0 = true ∨ replicates s = false) := by decide +kernel
theorem wit_RecordsAreExported_RecordsBecomeDurable_overlay : let r : Rec := { num := 3, product := 2, durable := true }
    let s := { base with tal.journal := [r], tal.slots := [(0, 9)], prod.queue := [{ num := 2 }] }
    recOf s r.num = some r ∧ freeSlot s = some 1 ∧ r.durable = true ∧ r.slot = none ∧ r.final = none ∧ (productOf s r.product).isSome = true := by decide +kernel

/-- Line 7 in the line store under computation, with its recipe. -/
def lineBase (l : LineSlot) : State := { base with mil.lines := [l], mil.recipes := [{ line := 7, moment := 100 }] }
def recA : Recipe := { line := 7, moment := 100 }
theorem wit_ResultsAreJudged_ResultsReachTheirLine_result : let l : LineSlot := { line := 7, awaiting := [0, 16] }; let s := lineBase l
    lineSlot s 7 = some l ∧ recipeOf s 7 = some recA ∧ (16 : Fin 32).val ∈ l.awaiting ∧ comparatorsDiffer .clean = false ∧ s.mil.redecode = [] ∧
    ∀ i ∈ recipeSegs s recA, ∀ b, bandSlot s (if (16 : Fin 32).val < 16 then 0 else 1) i.1 = some b → b.bad = false := by
  refine ⟨by decide +kernel, by decide +kernel, by decide +kernel, by decide +kernel, by decide +kernel, ?_⟩
  intro i hi; exact absurd hi (by simp [recA, recipeSegs])
theorem wit_ResultsAreJudged_ResultsReachTheirLine_vote : let l : LineSlot := { line := 7, results := [{ slice := 0 }, { slice := 16, cause := 1 }] }; let s := lineBase l
    lineSlot s 7 = some l ∧ recipeOf s 7 = some recA ∧ l.sealed = false ∧ l.unresolved = false ∧ l.awaiting = [] ∧ l.voting = none ∧ l.results.length < 4 ∧
    votesRunning s < 2 ∧ (voteSlice s l).isSome = true := by decide +kernel
theorem wit_ResultsAreJudged_ResultsReachTheirLine_voted : let l : LineSlot := { line := 7, voting := some 5 }; let s := lineBase l
    lineSlot s 7 = some l ∧ recipeOf s 7 = some recA ∧ l.voting = some 5 ∧ comparatorsDiffer (.absent 1) = false := by decide +kernel
theorem wit_ResultsAreJudged_ResultsReachTheirLine_timeout : let l : LineSlot := { line := 7, awaiting := [31] }; let s := lineBase l
    lineSlot s 7 = some l ∧ recipeOf s 7 = some recA ∧ (31 : Fin 32).val ∈ l.awaiting ∧ recA.moment + cLine (activeW s) + 10000 ≤ (advance 20000 s).now := by
  decide +kernel

/-- Line 7 with its results in. -/
def judged (rs : List LineResult) (n : Nat) : LineSlot := { line := 7, results := rs, computed := n }
theorem wit_AgreeingResultsSeal_base (rs : List LineResult) (n : Nat) : let l := judged rs n
    lineSlot (lineBase l) l.line = some l ∧ recipeOf (lineBase l) l.line = some recA ∧ l.sealed = false ∧ l.unresolved = false ∧ l.awaiting = [] ∧ l.voting = none ∧
    (lineBase l).mil.halted = false := ⟨rfl, rfl, rfl, rfl, rfl, rfl, rfl⟩
theorem wit_AgreeingResultsSeal_cases :
    (agreeing 7 [{ slice := 0, words := some [1] }, { slice := 16, words := some [1] }]).isSome = true ∧
    agreeing 7 [{ slice := 0, words := some [1] }, { slice := 16, words := some [2] }] = none ∧
    agreeing 7 [{ slice := 0 }, { slice := 16 }, { slice := 1 }, { slice := 17 }] = none := by decide +kernel

theorem wit_ResultsAreJudged_SegmentsAreRedecoded :
    (let q : Redecode := { item := itemB, job := 5 }; let s := { tileBase with mil.redecode := [q] }
     s.mil.redecode.find? (fun x => x.item == q.item) = some q ∧ jobOf s q.job = some jobTiles ∧ segDecodes s jobTiles q.item = true) ∧
    (let q : Redecode := { item := itemA, job := 5 }; let s := { tileBase with mil.redecode := [q] }
     s.mil.redecode.find? (fun x => x.item == q.item) = some q ∧ jobOf s q.job = some jobTiles ∧ segDecodes s jobTiles q.item = false) ∧
    base.mil.lost[(1 : Fin 2)] = false ∧ millUp base 1 = true := by decide +kernel

theorem wit_EpochsAndLearning_EpochsCommit : (let s := { base with mil.calPend := [(0, [])] }; epochLine s false = some 0 ∧ s.mil.calPend ≠ []) ∧
    (let s := { base with mil.placeDue := true }
     epochLine s true = some 0 ∧ s.mil.placeDue = true ∧ (namedEpochs s).length < 16 ∧ (bankedStalls s).all (banksLoaded s) = true) := by decide +kernel

theorem wit_EpochsAndLearning_LearningRuns_live : Starts Op.placementLearn 1 (cmdOf Op.placementLearn [1, word (put 1 4)]) (at1 Op.placementLearn [1, word (put 1 4)]) ∧
    parF (cmdOf Op.placementLearn [1, word (put 1 4)]) 1 3 0 = 0 := ⟨starts_of (by decide +kernel), by decide +kernel⟩
theorem wit_EpochsAndLearning_LearningRuns_run : let c := cmdOf Op.placementLearn [1, word (8 + put 1 8)]
    let s := withCmd c { jobBase with vis.sensors := upd base.vis.sensors 0 fun x => { x with on := true, tracks := 1 } }
    Starts Op.placementLearn 1 c s ∧ 2 ≤ parF c 1 3 0 ∧ parF c 1 3 0 ≤ 8 ∧ parF c 1 11 8 ≠ 0 ∧ learnRefusal s (parF c 0 7 0) = none ∧ s.mil.learn = none :=
  ⟨starts_of (by decide +kernel), by decide +kernel⟩
theorem wit_EpochsAndLearning_LearningRuns_patches : targetTrack { base with prod.queue := [{ num := 4, target := 2, track := 1 }] } 4 2 = some 1 := by decide +kernel
theorem wit_EpochsAndLearning_LearningRuns_graded : (∀ p means, ImageResult.notReached ≠ .patches p means) ∧ (∀ p dots, ImageResult.notReached ≠ .target p dots) :=
  ⟨fun _ _ h => ImageResult.noConfusion h, fun _ _ h => ImageResult.noConfusion h⟩

/-! ### Witnesses: Stalls -/

/-- STALL_CONFIG of Stall 0: one row, its list at address 64, 1,000 lines a second, limits in order. -/
def stallP : List W64 := [0, word (1 + put 1 16 + put 1000 32), 64, 16, word (50 + put 60 16 + put 10 32 + put 20 48), 0]
def rowText : List Byte := wordsBytes [word (put 128 22), word (put 100 32)]
theorem wit_StallsAnswerCommands_StallsAreConfigured_on : let c := cmdOf Op.stallConfig stallP; let s := wellWrite 64 rowText (withCmd c base)
    let rows : List GeomRow := [{ count := 128, pitch := 100 }]
    Starts Op.stallConfig 1 c s ∧ laneRun s (parN c 0 % 32) = false ∧ parF c 0 4 0 = (0 : Fin 24).val ∧ stallNamed s 0 = false ∧ 1 = parF c 1 21 16 ∧
    parB c 1 0 = true ∧ stallParamsOk c = true ∧ rangeFailure s (parN c 2) (parN c 3) = none ∧ poisoned s (parN c 2) (parN c 3) = false ∧
    entries (geomEntry (wellRead s (parN c 2) (parN c 3)) 0) (1 + parF c 1 27 24) 0 = some rows ∧ rowsOk 0 (rows.take 1) (rows.drop 1) = true ∧
    (stallCfgOf c {}).tReduce < (stallCfgOf c {}).tAbs ∧ (stallCfgOf c {}).vppMin < (stallCfgOf c {}).vppMax ∧
    channelSum s 0 (·.rows) + ((rows.take 1).map (·.count)).sum ≤ 262144 ∧ channelSum s 0 (·.spares) + ((rows.drop 1).map (·.count)).sum ≤ 16384 ∧
    blocksFit (stallCfgOf c {}) (frameBlocks (ceilDiv (max (((rows.take 1).map fun r => r.first + r.count).foldl max 0)
        (((rows.drop 1).map fun r => 16384 + r.first + r.count).foldl max 0)) 18) false 0) = true :=
  ⟨starts_of (by decide +kernel), by decide +kernel⟩
theorem wit_StallsAnswerCommands_StallsAreConfigured_off : let c := cmdOf Op.stallConfig [23, 0, 0, 0, 0, 0]; let s := withCmd c base
    Starts Op.stallConfig 1 c s ∧ laneRun s (parN c 0 % 32) = false ∧ parF c 0 4 0 = (23 : Fin 24).val ∧ stallNamed s 23 = false ∧ parB c 1 0 = false :=
  ⟨starts_of (by decide +kernel), by decide +kernel⟩

/-- The device with Stall `k` changed. -/
def onStall (k : Fin 24) (f : Stall → Stall) (s : State) : State := { s with stl := upd s.stl k f }
theorem wit_StallsAnswerCommands_StallsAreConfigured_timeout : let s := onStall 23 (fun x => { x with waitCid := 1, waitAt := 5 }) base
    s.stl[(23 : Fin 24)].waitCid ≠ 0 ∧ s.stl[(23 : Fin 24)].waitAt + 200000000 ≤ (advance 200000005 s).now := by decide +kernel

/-- DUTY_LIMITS at the ends of its ranges. -/
def dutyLow : List W64 := [0, word (100 + put 1 32), word (1000 + put 1 32)]
def dutyHigh : List W64 := [23, word (10000 + put 100 32), word (1000000 + put 100 32)]
theorem wit_StallsAnswerCommands_StallCommandsAnswer_duty (k : Fin 24) (ps : List W64) (h : (k, ps) = (0, dutyLow) ∨ (k, ps) = (23, dutyHigh)) : let c := cmdOf Op.dutyLimits ps; let s := withCmd c base
    Starts Op.dutyLimits 1 c s ∧ parF c 0 4 0 = k.val ∧ stallNamed s k.val = false ∧ 100 ≤ parF c 1 23 0 ∧ parF c 1 23 0 ≤ 10000 ∧ 1 ≤ parF c 1 39 32 ∧ parF c 1 39 32 ≤ 100 ∧
    1000 ≤ parF c 2 23 0 ∧ parF c 2 23 0 ≤ 1000000 ∧ 1 ≤ parF c 2 39 32 ∧ parF c 2 39 32 ≤ 100 := by
  rcases h with h | h <;> injection h with h1 h2 <;> subst h1 h2 <;> exact ⟨starts_of (by decide +kernel), by decide +kernel⟩
theorem wit_StallsAnswerCommands_StallCommandsAnswer_retire : let c := cmdOf Op.elementRetire [23, 17407]; let s := withCmd c base
    let u := { s with mil.retired := [{ stall := 23, channel := 17407 }] }
    Starts Op.elementRetire 1 c s ∧ parN c 0 = (23 : Fin 24).val ∧ parN c 1 ≤ 17407 ∧ (∀ r ∈ s.mil.retired, ¬ (r.stall = (23 : Fin 24).val ∧ r.channel = parN c 1)) ∧
    Starts Op.elementRetire 1 c u ∧ ∃ r ∈ u.mil.retired, r.stall = (23 : Fin 24).val ∧ r.channel = parN c 1 :=
  ⟨starts_of (by decide +kernel), by decide +kernel, by decide +kernel, by decide +kernel, starts_of (by decide +kernel), by decide +kernel⟩
theorem wit_StallsAnswerCommands_StallCommandsAnswer_status : Starts Op.headStatus 1 (cmdOf Op.headStatus [23]) (at1 Op.headStatus [23]) ∧
    parN (cmdOf Op.headStatus [23]) 0 = (23 : Fin 24).val := ⟨starts_of (by decide +kernel), by decide +kernel⟩

/-- Stall 0 enabled with one row, its lane UP and identified, its permit on. -/
def rowOn (x : Stall) : Stall :=
  { x with enable := true, rows := [{ count := 128, pitch := 100 }], headId := some 7, permit := true, granted := true, cfg.rate := 1000 }
def stallUpBase : State := { base with
  led.items := [{ item := 0x100, body := wordsBytes [0, 7] }, { item := 0x140, body := wordsBytes [0, 7] }]
  stl := upd base.stl 0 rowOn
  lan.lane := upd base.lan.lane 0 fun l => { l with state := .up, farHead := some 7 } }

theorem wit_PermitsAndSpits_PermitsFollowCommands_grant : let c := cmdOf Op.firePermit [1, 1]; let s := withCmd c stallUpBase
    Starts Op.firePermit 1 c s ∧ parB c 1 0 = true ∧ (∀ k : Fin 24, bit (parN c 0) k.val = true → permitable s k.val = true) ∧ bit (parN c 0) 0 = true ∧
    (s.twn.role ≠ .copying ∧ s.twn.role ≠ .isolated ∧ s.twn.role ≠ .yielded) :=
  ⟨starts_of (by decide +kernel), by decide +kernel⟩
theorem wit_PermitsAndSpits_PermitsFollowCommands_denied : let c := cmdOf Op.firePermit [3, 1]; let s := withCmd c stallUpBase
    Starts Op.firePermit 1 c s ∧ parB c 1 0 = true ∧ (maskStalls (parN c 0)).filter (fun k => !permitable s k) = [1] :=
  ⟨starts_of (by decide +kernel), by decide +kernel⟩
theorem wit_PermitsAndSpits_PermitsFollowCommands_withdraw : let c := cmdOf Op.firePermit [1, 0]; let s := withCmd c stallUpBase
    Starts Op.firePermit 1 c s ∧ parB c 1 0 = false ∧ bit (parN c 0) 0 = true := ⟨starts_of (by decide +kernel), by decide +kernel⟩
theorem wit_PermitsAndSpits_PermitsFollowCommands_effect : let s := onStall 0 (fun x => { x with withdraw := some 90 }) base
    s.stl[(0 : Fin 24)].withdraw = some 90 ∧ 90 ≤ (advance 90 s).now ∧ (advance 89 s).now < 90 := by decide +kernel

theorem wit_PermitsAndSpits_SpitCyclesCheckDrops_start : let c := cmdOf Op.spitCycle [1, word (15 + put 1 8)]; let s := withCmd c stallUpBase
    Starts Op.spitCycle 1 c s ∧ parF c 1 3 0 ≠ 0 ∧ parF c 1 15 8 ≠ 0 ∧ runsSpit s = true ∧ (∀ k : Fin 24, bit (parN c 0) k.val = true → s.stl[k].spit = none) ∧
    bit (parN c 0) (0 : Fin 24).val = true ∧ s.stl[(0 : Fin 24)].enable = true ∧ serviceChannels s 0 ≠ [] := ⟨starts_of (by decide +kernel), by decide +kernel⟩

/-- Stall 0 in a spit cycle. -/
def spitBase (p : Spit) (check : Nat) : State := onStall 0 (fun x => { x with spit := some p, cfg.check := check }) stallUpBase
theorem wit_PermitsAndSpits_SpitCyclesCheckDrops_fire (left check : Nat) (chk : Bool) (h : (left, check, chk) = (2, 0, false) ∨ (left, check, chk) = (1, 1, true) ∨ (left, check, chk) = (1, 0, false)) :
    let p : Spit := { todo := [5, 6], left := left, fires := 2, check := chk }; let s := spitBase p check
    s.stl[(0 : Fin 24)].spit = some p ∧ p.todo = 5 :: [6] ∧ p.ended = false ∧ p.window = none ∧ p.last = none ∧ s.stl[(0 : Fin 24)].tPrev = none ∧
    stallProducts s 0 false = [] ∧ runsSpit s = true ∧ maySend s 0 = true ∧
    ((p.left ≠ 1) ∨ (p.left = 1 ∧ p.check = true ∧ s.stl[(0 : Fin 24)].cfg.check = 1) ∨ (p.left = 1 ∧ p.check = false ∧ [6] ≠ ([] : List Nat))) := by
  rcases h with h | h | h <;> injection h with h1 h2 <;> injection h2 with h2 h3 <;> subst h1 h2 h3 <;> decide +kernel
theorem wit_PermitsAndSpits_SpitCyclesCheckDrops_edge : let p : Spit := { window := some (100, 200, 5) }; let s := onStall 0 (fun x => { x with cfg.ogMask := 8, cfg.ogFalling := true }) (spitBase p 1)
    s.stl[(0 : Fin 24)].spit = some p ∧ p.window = some (100, 200, 5) ∧ bit s.stl[(0 : Fin 24)].cfg.ogMask (3 : Fin 4).val = true ∧
    false ≠ s.stl[(0 : Fin 24)].cfg.ogFalling ∧ within 100 200 (advance 100 s).now = true := by decide +kernel
theorem wit_PermitsAndSpits_SpitCyclesCheckDrops_end (drop : Bool) (noDrop : List Nat) (h : noDrop = [] ∨ noDrop = [5]) : let p : Spit := { window := some (100, 200, 5), drop := drop }
    let s := onStall 0 (fun x => { x with noDrop := noDrop }) (spitBase p 1)
    s.stl[(0 : Fin 24)].spit = some p ∧ p.window = some (100, 200, 5) ∧ 200 ≤ (advance 200 s).now ∧ p.drop = drop ∧ (5 ∉ s.stl[(0 : Fin 24)].noDrop ∨ 5 ∈ s.stl[(0 : Fin 24)].noDrop) := by
  rcases h with h | h <;> subst h <;> cases drop <;> decide +kernel

/-- Stall 0 prints job 5; line 7 stands in the line store. -/
def readBase (l : List LineSlot) : State := { stallUpBase with
  job.loaded := [{ jobA with desc := { jobA.desc with rows := [{ count := 128, pitch := 100 }] } }], job.active := some 5, mil.lines := l }
theorem wit_FramesAreSentAndFired_read : let l : LineSlot := { line := 0, sealed := true, words := [(0, [1])] }; let s := readBase [l]
    readDue (advance 7 s) 0 0 = true ∧ lineSlot s 0 = some l ∧ l.sealed = true ∧ l.words.find? (fun w => w.1 == 0) = some (0, [1]) ∧
    readDue (advance 7 (readBase [])) 0 0 = true ∧ lineSlot (readBase []) 0 = none := by decide +kernel
/-- A built frame of line 3. -/
def frameA : Frame := { line := 3 }
theorem wit_FramesAreSentAndFired_send : let s := onStall 0 (fun x => { x with frames := [frameA] }) stallUpBase; let u := onStall 0 (fun x => { x with permit := false }) s
    s.stl[(0 : Fin 24)].frames.find? (fun f => !f.spit && f.seq.isNone) = some frameA ∧
    (∀ g ∈ s.stl[(0 : Fin 24)].frames, ¬ (g.spit = false ∧ g.line < frameA.line ∧ g.firedAt = none)) ∧ maySend s 0 = true ∧
    u.stl[(0 : Fin 24)].frames.find? (fun f => !f.spit && f.seq.isNone) = some frameA ∧ maySend u 0 = false := by decide +kernel
/-- The same frame sent, with its fire moment. -/
def frameS : Frame := { line := 3, seq := some 1, fireAt := some 1000 }
theorem wit_FramesAreSentAndFired_fire : let s := onStall 0 (fun x => { x with frames := [frameS] }) stallUpBase; let u := onStall 0 (fun x => { x with permit := false }) s
    s.stl[(0 : Fin 24)].frames.find? (fun f => !f.spit && f.fireAt.isSome && f.firedAt.isNone) = some frameS ∧ frameS.fireAt = some 1000 ∧
    10 * (1000 + 2000) ≤ 10 * (advance 3000 s).now + stallLambda s 0 ∧ maySend s 0 = true ∧ frameS.seq.isSome = true ∧
    u.stl[(0 : Fin 24)].frames.find? (fun f => !f.spit && f.fireAt.isSome && f.firedAt.isNone) = some frameS ∧ maySend u 0 = false := by decide +kernel

theorem wit_HeadsAreHeard_HeadStationsReport_nak : let s := onStall 0 (fun x => { x with frames := [frameS] }) stallUpBase
    hears s 0 = true ∧ s.stl[(0 : Fin 24)].cfgSeq ≠ some 1 ∧
    s.stl[(0 : Fin 24)].frames.find? (fun f => f.seq == some 1 && !f.acked && !f.spit && f.firedAt.isNone) = some frameS ∧
    hears (onStall 0 (fun x => { x with cfgSeq := some 2 }) s) 0 = true ∧ (onStall 0 (fun x => { x with cfgSeq := some 2 }) s).stl[(0 : Fin 24)].cfgSeq = some 2 := by
  decide +kernel
theorem wit_HeadsAreHeard_HeadStationsReport_fired : let f := { frameS with firedAt := some 3000 }; let s := onStall 0 (fun x => { x with frames := [f] }) stallUpBase
    hears s 0 = true ∧ s.stl[(0 : Fin 24)].frames.find? (fun f => !f.spit && (f.firedAt.isSome || s.twn.bound) && f.line % 65536 == 3 % 65536) = some f ∧
    s.stl[(0 : Fin 24)].frames.find? (fun f => match f.firedAt with | some m => decide (m + 10000 ≤ (advance 13000 s).now) | none => false) = some f := by decide +kernel

theorem wit_HeadsAreHeard_HeadStatusIsJudged : hears stallUpBase 0 = true ∧
    (let s := onStall 0 (fun x => { x with vppSince := some 7, vppBad := true }) stallUpBase
     s.stl[(0 : Fin 24)].vppSince = some 7 ∧ s.stl[(0 : Fin 24)].vppBad = true ∧ 7 + 1000000 ≤ (advance 1000007 s).now ∧ (advance 1000006 s).now < 7 + 1000000) := by decide +kernel

theorem wit_HeadsAreHeard_HeadReportsRetire_resist : let s := onStall 0 (fun x => { x with cfg.check := 2, badRes := [5] }) stallUpBase
    hears s 0 = true ∧ s.stl[(0 : Fin 24)].cfg.check = 2 ∧ (100 : Nat) ≠ 0 ∧ 8 * 100 < 100 * (((109 : Nat) : Int) - (100 : Nat)).natAbs ∧ 6 ∉ s.stl[(0 : Fin 24)].badRes ∧
    5 ∈ s.stl[(0 : Fin 24)].badRes ∧ 100 * (((108 : Nat) : Int) - (100 : Nat)).natAbs ≤ 8 * 100 := by decide +kernel
theorem wit_HeadsAreHeard_HeadReportsRetire_drive : let s := onStall 0 (fun x => { x with drives := [(5, 0), (5, 1)] }) { stallUpBase with mot.line := 10 }
    hears s 0 = true ∧ (let ds := (s.stl[(0 : Fin 24)].drives.filter fun d => decide (fullLine s 2 < d.2 + 1000000) && d != (5, fullLine s 2)) ++ [(5, fullLine s 2)]
      3 ≤ (ds.filter fun d => d.1 == 5).length) ∧
    (let ds := (s.stl[(0 : Fin 24)].drives.filter fun d => decide (fullLine s 2 < d.2 + 1000000) && d != (6, fullLine s 2)) ++ [(6, fullLine s 2)];
      (ds.filter fun d => d.1 == 6).length < 3) := by decide +kernel
theorem wit_HeadsAreHeard_HeadReportsRetire_ident : let s := onStall 0 (fun x => { x with waitCid := 1 }) stallUpBase
    hears s 0 = true ∧ (0 : Fin 36).val = usedLane s 0 ∧ laneStall s (0 : Fin 36).val = some 0 ∧ ((0 : Fin 36).val < 24) ∧ s.stl[(0 : Fin 24)].waitCid ≠ 0 := by decide +kernel

/-! ### Witnesses: lanes -/

/-- The device with one lane changed. -/
def onLane (n : Fin 36) (f : Lane → Lane) (s : State) : State := { s with lan.lane := upd s.lan.lane n f }
def laneIn (n : Fin 36) (st : LaneState) : State := onLane n (fun l => { l with state := st }) base

theorem wit_LanesAreTrained_LanesComeUp_wake : let s := onLane 0 (fun l => { l with state := .idle }) stallUpBase
    lanePowered s (0 : Fin 36).val = true ∧ s.lan.lane[(0 : Fin 36)].state = .idle ∧ laneWanted s (0 : Fin 36).val = true ∧
    lanePowered (laneIn 35 .wake) (35 : Fin 36).val = true ∧ (laneIn 35 .wake).lan.lane[(35 : Fin 36)].state = .wake ∧
    lanePowered (laneIn 33 .adapt) (33 : Fin 36).val = true ∧ (laneIn 33 .adapt).lan.lane[(33 : Fin 36)].state = .adapt := by decide +kernel
theorem wit_LanesAreTrained_LanesComeUp_lock : let s := laneIn 0 .hunt; let u := onLane 0 (fun l => { l with kept := true, lostAt := some 7 }) s
    lanePowered s (0 : Fin 36).val = true ∧ s.lan.lane[(0 : Fin 36)].state = .hunt ∧ laneRefGood s (0 : Fin 36).val = true ∧ s.lan.lane[(0 : Fin 36)].loopCid = 0 ∧
    s.lan.lane[(0 : Fin 36)].kept = false ∧ lanePowered u (0 : Fin 36).val = true ∧ u.lan.lane[(0 : Fin 36)].state = .hunt ∧ laneRefGood u (0 : Fin 36).val = true ∧
    u.lan.lane[(0 : Fin 36)].loopCid = 0 ∧ u.lan.lane[(0 : Fin 36)].kept = true ∧ u.lan.lane[(0 : Fin 36)].lostAt = some 7 ∧
    7 + 100000 < (advance 100008 u).now ∧ (advance 100007 u).now ≤ 7 + 100000 ∧ isEthLane (0 : Fin 36).val = false := by decide +kernel

theorem wit_LanesAreTrained_ProbesMeasureLatency_send : let s := onLane 23 (fun l => { l with sent := 15, sentAt := 7 }) (laneIn 23 .probe)
    lanePowered s (23 : Fin 36).val = true ∧ isEthLane (23 : Fin 36).val = false ∧ s.lan.lane[(23 : Fin 36)].state = .probe ∧ s.lan.lane[(23 : Fin 36)].sent < 16 ∧
    s.lan.lane[(23 : Fin 36)].sentAt + 1000 ≤ (advance 1007 s).now ∧ (laneIn 23 .probe).lan.lane[(23 : Fin 36)].sent = 0 ∧
    lanePowered (laneIn 23 .up) (23 : Fin 36).val = true ∧ (laneIn 23 .up).lan.lane[(23 : Fin 36)].state = .up ∧
    (laneIn 23 .up).lan.lane[(23 : Fin 36)].sentAt + 1000000000 ≤ (advance 1000000000 (laneIn 23 .up)).now := by decide +kernel
/-- A lane that waits for the echo of probe 3 with `n` answers of 34,000 tenths there and back. -/
def answered (lane : Fin 36) (st : LaneState) (n : Nat) : State := onLane lane (fun l => { l with asked := [3], answers := List.replicate n 34000 }) (laneIn lane st)
theorem wit_LanesAreTrained_ProbesMeasureLatency_echo :
    (let s := answered 23 .probe 14; lanePowered s 23 = true ∧ 3 ∈ s.lan.lane[(23 : Fin 36)].asked ∧ s.lan.lane[(23 : Fin 36)].answers.length < 15) ∧
    (let s := answered 23 .probe 15; 3 ∈ s.lan.lane[(23 : Fin 36)].asked ∧ 15 ≤ s.lan.lane[(23 : Fin 36)].answers.length ∧ s.lan.lane[(23 : Fin 36)].state = .probe ∧
      (s.lan.lane[(23 : Fin 36)].answers ++ [34100 - 100]).sum / 32 ≤ 17000 ∧ 17000 < (s.lan.lane[(23 : Fin 36)].answers ++ [34132 - 100]).sum / 32) ∧
    (let s := answered 24 .probe 15; lanePowered s 24 = true ∧ 3 ∈ s.lan.lane[(24 : Fin 36)].asked ∧ 15 ≤ s.lan.lane[(24 : Fin 36)].answers.length ∧ 24 ≤ (24 : Fin 36).val) ∧
    (let s := answered 23 .up 15; 3 ∈ s.lan.lane[(23 : Fin 36)].asked ∧ 15 ≤ s.lan.lane[(23 : Fin 36)].answers.length ∧ s.lan.lane[(23 : Fin 36)].state = .up) := by decide +kernel

theorem wit_LanesAreRepaired_LanesAreJudged_loss : let s := onLane 31 (fun l => { l with lossAt := [1, 2] }) (laneIn 31 .up)
    lanePowered s (31 : Fin 36).val = true ∧ s.lan.lane[(31 : Fin 36)].state = .up ∧ 2 ≤ (recent (advance 10000000000 s) 10000000000 s.lan.lane[(31 : Fin 36)].lossAt).length ∧
    (31 : Fin 36).val < 32 := by decide +kernel
theorem wit_LanesAreRepaired_LanesAreJudged_relock : let s := onLane 31 (fun l => { l with lostAt := some 7 }) (laneIn 31 .hunt)
    lanePowered s (31 : Fin 36).val = true ∧ s.lan.lane[(31 : Fin 36)].lostAt = some 7 ∧ s.lan.lane[(31 : Fin 36)].state = .hunt ∧ 7 + 100000 ≤ (advance 100007 s).now := by
  decide +kernel
theorem wit_LanesAreRepaired_LanesAreJudged_sweep : let s := laneIn 31 .up; let x : EqTrial := { fom := 12, ctle := 1, gain := 0, dfe := [0, 0, 0, 0, 0, 0] }
    lanePowered s (31 : Fin 36).val = true ∧ s.lan.lane[(31 : Fin 36)].state ≠ .idle ∧ s.lan.lane[(31 : Fin 36)].state ≠ .hunt ∧ s.lan.lane[(31 : Fin 36)].state = .up ∧
    oneStep s.lan.lane[(31 : Fin 36)] x = true ∧ min 1023 10 + 2 ≤ x.fom := by decide +kernel
theorem wit_LanesAreRepaired_LanesAreJudged_spare : let s := laneIn 34 .hunt
    lanePowered s (34 : Fin 36).val = true ∧ 34 ≤ (34 : Fin 36).val ∧ s.lan.lane[(34 : Fin 36)].covers = none ∧ s.lan.lane[(34 : Fin 36)].out = false ∧
    s.lan.lane[(34 : Fin 36)].state ≠ .up ∧ s.lan.lane[(34 : Fin 36)].huntAt + 2000000 ≤ (advance 2000000 s).now := by decide +kernel

theorem wit_LanesAreRepaired_MovesAreAgreed_own : let s := { base with lan.moving := [(3, 30, 258)] }
    24 ≤ (31 : Fin 36).val ∧ (31 : Fin 36).val < 32 ∧ lanePowered s (31 : Fin 36).val = true ∧
    s.lan.moving.find? (fun m => m.1 == lanePort (31 : Fin 36).val) = some (3, 30, 258) ∧ 258 % 256 = 2 % 256 := by decide +kernel
/-- Lane 30's far end is lane 29 of node 4; both spares are UP there. -/
def moveBase (spares : Bool) : State := onLane 30 (fun l => { l with farNode := some (4, 0, 29) })
  (onLane 34 (fun l => { l with state := (if spares then .up else .hunt), farNode := some (4, 0, 34) }) { base with ura.ports := 15 })
theorem wit_LanesAreRepaired_MovesAreAgreed_other : (∀ b : Bool, 24 ≤ (31 : Fin 36).val ∧ (31 : Fin 36).val < 32 ∧ lanePowered (moveBase b) (31 : Fin 36).val = true ∧
      (moveBase b).lan.moving.find? (fun m => m.1 == lanePort (31 : Fin 36).val) = none ∧
      [24 + 2 * lanePort (31 : Fin 36).val, 25 + 2 * lanePort (31 : Fin 36).val].find? (fun n => (laneOf (moveBase b) n).farNode.any fun f => f.2.2 == (29 : Fin 36).val) = some 30) ∧
    (readySpare (moveBase true) 30).isSome = true ∧ readySpare (moveBase false) 30 = none := by decide +kernel

theorem wit_LaneCommandsAndClocks_LaneCommandsAnswer : (Starts Op.linkStatus 1 (cmdOf Op.linkStatus [35]) (at1 Op.linkStatus [35]) ∧ parN (cmdOf Op.linkStatus [35]) 0 = (35 : Fin 36).val) ∧
    (let c := cmdOf Op.loopback [35, word (3 + put 1 16)]; let s := withCmd c base
     Starts Op.loopback 1 c s ∧ parN c 0 = (35 : Fin 36).val ∧ 1 ≤ parF c 1 3 0 ∧ parF c 1 3 0 ≤ 3 ∧ parF c 1 31 16 ≠ 0 ∧ laneBusy s (35 : Fin 36).val = false) ∧
    (let c := runOf Op.loopback [35, word (3 + put 1 16)]; let s := onLane 35 (fun l => { l with loopCid := 1, huntAt := 7 }) (withCmd c base)
     Runs Op.loopback s.lan.lane[(35 : Fin 36)].loopCid c s ∧ s.lan.lane[(35 : Fin 36)].huntAt + parF c 1 31 16 * 1000000 ≤ (advance 1000007 s).now) :=
  ⟨⟨starts_of (by decide +kernel), by decide +kernel⟩, ⟨starts_of (by decide +kernel), by decide +kernel⟩, ⟨runs_of (by decide +kernel), by decide +kernel⟩⟩

theorem wit_LaneCommandsAndClocks_ReferencesMoveLanes : base.lan.failed[(0 : Fin 2)] = false ∧ (∃ r : Fin 2, r ≠ 0 ∧ base.lan.failed[r] = false) ∧
    (let s := { base with lan.failed := #v[true, true] }; s.lan.failed[(1 : Fin 2)] = true ∧ ∀ r : Fin 2, s.lan.failed[r] = true) ∧
    (let s := { base with lan.failed := #v[false, true] }; s.lan.failed[(0 : Fin 2)] = false ∧ ∃ r : Fin 2, r ≠ 0 ∧ s.lan.failed[r] = true) := by
  refine ⟨by decide +kernel, ⟨1, by decide +kernel⟩, by decide +kernel, by decide +kernel, ⟨1, by decide +kernel⟩⟩

/-! ### Witnesses: boot, resets, power, tamper, cores, firmware, status -/

/-- The device in a stage of boot. -/
def bootIn (stage : Nat) : State := { base with pwr.ready := false, pwr.stage := stage, pwr.stageAt := 7 }
/-- What the modules of the fitted Well answer, and an image whose second signature fails. -/
def spdOk : SpdRead := { x4 := true, density := 16, ranks := 1, alike := true, formOk := true, maxRate := 7 }
def badImage : ImgVerdict := { goodImage with mldsaOk := false }

theorem wit_BootRuns_BootStagesFollow : bootAt (bootIn 1) 1 = true ∧ bootAt (bootIn 2) 2 = true ∧ (bootIn 2).bgd.fwSlot = 0 ∧
    ({ bootIn 2 with bgd.fwSlot := 1 } : State).bgd.fwSlot ≠ 0 ∧ (∀ k : Fin 2, slotFailure (bootIn 2) k goodImage = none) ∧
    (∀ k : Fin 2, slotFailure (bootIn 2) k badImage = some 1) ∧ bootAt (bootIn 4) 4 = true ∧ bootAt (bootIn 5) 5 = true ∧ wellFailure (bootIn 5) spdOk = none ∧
    wellFailure (bootIn 5) { spdOk with alike := false } = some 1 ∧ bootAt (bootIn 6) 6 = true ∧ (bootIn 6).pwr.stageAt + 20000000 ≤ (advance 20000007 (bootIn 6)).now ∧
    bootAt { bootIn 6 with pwr.lanesDone := true } 6 = true := by decide +kernel

theorem wit_ResetsClearTheBlock_command : Starts Op.reset 1 (cmdOf Op.reset [1]) (at1 Op.reset [1]) ∧ 5 ≤ (at1 Op.reset [1]).pwr.stage ∧
    (at1 Op.reset [1]).pwr.bootError = 0 := ⟨starts_of (by decide +kernel), by decide +kernel⟩
theorem wit_ResetsClearTheBlock_events : base.pwr.resetLow = false ∧ base.pwr.tripHeld = false ∧ base.pwr.noticed = false ∧ base.pwr.powerLost = false ∧ 5 ≤ base.pwr.stage ∧
    base.pwr.bootError = 0 ∧ (let s := { base with bgd.takeover := true, bgd.takeAt := 7 }; s.bgd.takeover = true ∧ s.bgd.takeAt + 100000000 ≤ (advance 100000007 s).now) ∧
    (let s := { base with kry.latch := some 7 }; s.kry.latch.isSome = true ∧ domOn s 2 = true) := by decide +kernel

theorem wit_BootRuns_ReleaseStartsBoot : State.reset.pwr.resetLow = true ∧ State.reset.pwr.onVbat = false ∧ ({ base with pwr.onVbat := true } : State).pwr.onVbat = true := by
  decide +kernel

theorem wit_PowerAndHeat_DomainsSwitch_command : let on := cmdOf Op.powerDomain [word (11 + put 1 8)]; let off := cmdOf Op.powerDomain [3]; let cpu := cmdOf Op.powerDomain [8]
    (Starts Op.powerDomain 1 on (withCmd on base) ∧ 3 ≤ parF on 0 3 0 ∧ parF on 0 3 0 ≤ 11 ∧ parB on 0 8 = true) ∧
    (Starts Op.powerDomain 1 off (withCmd off base) ∧ 3 ≤ parF off 0 3 0 ∧ parF off 0 3 0 ≤ 11 ∧ parB off 0 8 = false ∧ offRefused (withCmd off base) (parF off 0 3 0) = false) ∧
    (Starts Op.powerDomain 1 cpu (withCmd cpu jobBase) ∧ 3 ≤ parF cpu 0 3 0 ∧ parF cpu 0 3 0 ≤ 11 ∧ parB cpu 0 8 = false ∧ offRefused (withCmd cpu jobBase) (parF cpu 0 3 0) = true) :=
  ⟨⟨starts_of (by decide +kernel), by decide +kernel⟩, ⟨starts_of (by decide +kernel), by decide +kernel⟩, ⟨starts_of (by decide +kernel), by decide +kernel⟩⟩
theorem wit_PowerAndHeat_DomainsSwitch_event : let q : PowerReq := { cid := 1, dom := 11, on := false }; let s := { base with pwr.reqs := [q] }
    s.pwr.reqs = q :: [] ∧ q.dom = (11 : Fin 12).val ∧ q.on = false ∧ insertionRuns s (11 : Fin 12).val = false ∧ offRefused s (11 : Fin 12).val = false ∧ ringsDrained 11 s = true := by
  decide +kernel

theorem wit_PowerAndHeat_HeatAndReferenceAreJudged : (let s := { base with thm.convAt := 7 }
      domOn s 2 = true ∧ s.thm.convAt + 100000 ≤ (advance 100007 s).now ∧ hottest s (List.take 24 (List.replicate 24 399 ++ [500])) = (399, 0)) ∧
    base.pwr.refSysLost = false ∧ 5 ≤ base.pwr.stage ∧ base.pwr.bootError = 0 ∧ (bootIn 4).pwr.refSysLost = false ∧ (bootIn 4).pwr.stage < 5 ∧
    ({ base with pwr.refSysLost := true } : State).pwr.refSysLost = true := by decide +kernel

theorem wit_FailuresAreContained_TamperIsActedOn_trip : tamperSenses base = true ∧ sensorActs base .mesh = true ∧ base.kry.latch = none ∧ base.kry.hold = none ∧ base.pwr.onVbat = false ∧
    domOn base 1 = true := by decide +kernel
theorem wit_FailuresAreContained_TamperIsActedOn_hold : let s := { base with kry.hold := some 7 }
    s.kry.hold = some 7 ∧ holdFatal (advance 1000007 s) = false ∧ 7 + 1000000 ≤ (advance 1000007 s).now ∧ holdFatal (advance 10000007 s) = true ∧ s.kry.latch = none := by
  decide +kernel
theorem wit_FailuresAreContained_TamperIsActedOn_clear : clears base FaultCode.refclkSysLost = true ∧ clears { base with pwr.refSysLost := true } FaultCode.refclkSysLost = false := by decide +kernel
theorem wit_FailuresAreContained_TamperIsActedOn_square : let l : LineSlot := { line := 7, awaiting := [3, 19] }
    lineSlot (lineBase l) 7 = some l ∧ l.awaiting.head? = some 3 ∧ 2000 < 2001 ∧ 100000 < 100001 := by decide +kernel

theorem wit_FailuresAreContained_CoresAreTakenOver : base.pwr.ready = true ∧ base.bgd.takeover = false ∧ workingCores base ≠ [] ∧
    (let s := { base with bgd.takeover := true, bgd.transient := [(0, 1)] }
     s.bgd.takeover = true ∧ coresIn s .lockstep = [0, 1] ∧ spareCore s = some 2 ∧ s.bgd.transient.length < 2) := by decide +kernel

/-- IMAGE_ACTIVATE of slot 1. -/
theorem wit_ImagesAreHandled_FirmwareIsActivated_command : let c := cmdOf Op.imageActivate [1]; let s := withCmd c base
    Starts Op.imageActivate 1 c s ∧ s.bgd.act = none ∧ coreRuns s = true ∧ (1 : Fin 2) = (if parB c 0 0 then 1 else 0) ∧ s.kry.images[(1 : Fin 2)].empty = false ∧
    s.kry.staging = none ∧ imgFailure s goodImage = none ∧ (1 : Fin 2).val ≠ s.bgd.fwSlot ∧ imgFailure s badImage = some 1 :=
  ⟨starts_of (by decide +kernel), by decide +kernel⟩
/-- An activation in a stage, beside another command that executes or not. -/
def actIn (a : Activation) (busy : Bool) : State := { base with
  bgd.act := some a
  cmd.slots := [{ runOf Op.imageActivate [1] with cid := 1 }] ++ (if busy then [{ runOf Op.wellRead [] with cid := 2 }] else [])
  cmd.nextCid := 3 }
theorem wit_ImagesAreHandled_FirmwareIsActivated_events : let r : Activation := { cid := 1, slot := 1, stage := .reading }; let l : Activation := { cid := 1, slot := 1, stage := .loaded, t1 := 7 }
    let h : Activation := { cid := 1, slot := 1, stage := .handed, t1 := 7, t2 := 7, t3 := 9 }
    (actIn r false).bgd.act = some r ∧ (actIn r false).bgd.takeover = false ∧ r.stage = .reading ∧
    (actIn l false).bgd.act = some l ∧ (actIn l false).bgd.takeover = false ∧ l.stage = .loaded ∧ othersRun (actIn l false) l = false ∧ boundaryCame (advance 8 (actIn l false)) l.t1 = true ∧
    (actIn l true).bgd.takeover = false ∧ othersRun (actIn l true) l = true ∧ l.t1 + 2000000000 ≤ (advance 2000000007 (actIn l true)).now ∧
    (actIn h false).bgd.act = some h ∧ h.stage = .handed ∧ h.t3 + 5000000000 ≤ (advance 5000000009 (actIn h false)).now := by decide +kernel

/-- ABORT_TAG of tag 7 beside a command of that tag. -/
def abortBase (x : Option Slot) : State := { base with
  cmd.slots := x.toList ++ [{ cmdOf Op.abortTag [7] with cid := 2, prio := 3 }]
  cmd.nextCid := 3 }
def abortC : Slot := { cmdOf Op.abortTag [7] with cid := 2, prio := 3 }
def victim (op : Nat) (ph : Phase) : Slot := { cmdOf op [] with tag := 7, phase := ph }
theorem wit_StatusCommandsAnswer_StatusAndAbortAnswer_status : Starts Op.status 1 (cmdOf Op.status []) (at1 Op.status []) := starts_of (by decide +kernel)
theorem wit_StatusCommandsAnswer_StatusAndAbortAnswer_abort (x : Slot) (h : x ∈ [victim Op.wellRead .waiting, victim Op.calRun .executing, victim Op.wellRead .executing, victim Op.wellRead .committed]) :
    Starts Op.abortTag 2 abortC (abortBase (some x)) ∧ abortWaits (abortBase (some x)) 2 = false ∧
    (tagged (startedAt 7 2 (abortBase (some x))) abortC (parN abortC 0) = some x) := by
  simp only [List.mem_cons, List.not_mem_nil, or_false] at h
  rcases h with h | h | h | h <;> subst h <;> exact ⟨starts_of (by decide +kernel), by decide +kernel⟩
theorem wit_StatusCommandsAnswer_StatusAndAbortAnswer_stops : (stopAt (victim Op.wellRead .executing) (startedAt 7 2 (abortBase (some (victim Op.wellRead .executing))))).isNone = true ∧
    (let s := { abortBase (some (victim Op.calRun .executing)) with led.runs := [{ item := 0x184, cid := 1 }] }
     (stopAt (victim Op.calRun .executing) (startedAt 7 2 s)).isSome = true) ∧
    tagged (startedAt 7 2 (abortBase none)) abortC (parN abortC 0) = none ∧ tagReplied (abortBase none) abortC (parN abortC 0) = false ∧
    abortWaits (abortBase none) 2 = false := by decide +kernel

/-! ### Witnesses: the Krynto core -/

/-- A state with the owner's session 9, and a command in it. -/
def owned (role : Role) (s : State) : State := { s with cmd.sessions := [{ id := 9, role := role, proved := true }] }
def inNine (op : Nat) (ps : List W64) : Slot := { cmdOf op ps with session := 9 }
def ownedAt (op : Nat) (ps : List W64) : State := owned .owner (withCmd (inNine op ps) base)

/-- SESSION_OPEN parameters for operator, credential 7. -/
def openP : List W64 := List.replicate 161 0 ++ [word (3 + put 7 8)]
theorem wit_TrustIsKept_SessionsOpenAndClose_open : let c := cmdOf Op.sessionOpen openP
    let s := withCmd c { base with kry.creds := [{ role := .operator, slot := 7 }] }
    coreRuns s = true ∧ Starts Op.sessionOpen 1 c s ∧ openFailure s c true true = none ∧ FaultCode.entropyFail ∉ s.flt.active :=
  ⟨by decide +kernel, starts_of (by decide +kernel), by decide +kernel⟩

/-- A session that waits for its proof, its credential, and a command with the right or another proof. -/
def unproved : Session := { id := 7, role := .operator, cred := 2 }
def credA : Cred := { role := .operator, slot := 2 }
def proofOf (x : Session) : BitVec 128 := Config.cmac (credKey credA) (proveText ++ x.th)
def proveP (a b : W64) : List W64 := [7, word (3 + put 2 8), a, b]
def proveSt (c : Slot) : State := withCmd c { base with cmd.sessions := [unproved], kry.creds := [credA] }
theorem wit_TrustIsKept_SessionsOpenAndClose_prove : let c := cmdOf Op.sessionProve (proveP ((proofOf unproved).extractLsb' 0 64) ((proofOf unproved).extractLsb' 64 64)); let s := proveSt c
    coreRuns s = true ∧ Starts Op.sessionProve 1 c s ∧ s.cmd.sessions.find? (fun y => y.id == parN c 0 && !y.proved) = some unproved ∧
    credOf s unproved.role unproved.cred = some credA ∧ roleOfNat (parF c 1 2 0) = some unproved.role ∧ parF c 1 15 8 = unproved.cred ∧
    par c 2 = (Config.cmac (credKey credA) (proveText ++ unproved.th)).extractLsb' 0 64 ∧
    par c 3 = (Config.cmac (credKey credA) (proveText ++ unproved.th)).extractLsb' 64 64 :=
  ⟨by decide +kernel, ⟨rfl, rfl, by decide +kernel⟩, by decide +kernel, by decide +kernel, by decide +kernel, by decide +kernel, rfl, rfl⟩
theorem wit_TrustIsKept_SessionsOpenAndClose_wrong : let c := cmdOf Op.sessionProve (proveP ((proofOf unproved).extractLsb' 0 64 + 1) 0); let s := proveSt c
    coreRuns s = true ∧ Starts Op.sessionProve 1 c s ∧ s.cmd.sessions.find? (fun y => y.id == parN c 0 && !y.proved) = some unproved ∧
    (∀ k, credOf s unproved.role unproved.cred = some k → par c 2 ≠ (Config.cmac (credKey k) (proveText ++ unproved.th)).extractLsb' 0 64) := by
  refine ⟨by decide +kernel, ⟨rfl, rfl, by decide +kernel⟩, by decide +kernel, ?_⟩
  intro k hk
  have : k = credA := by
    have h : credOf (proveSt (cmdOf Op.sessionProve (proveP ((proofOf unproved).extractLsb' 0 64 + 1) 0))) unproved.role unproved.cred = some credA := by decide +kernel
    exact (Option.some.inj (h.symm.trans hk)).symm
  subst this
  show (proofOf unproved).extractLsb' 0 64 + 1 ≠ (proofOf unproved).extractLsb' 0 64
  generalize (proofOf unproved).extractLsb' 0 64 = a
  intro h
  have h' : a + 1 - a = a - a := by rw [h]
  rw [BitVec.add_comm, BitVec.add_sub_cancel, BitVec.sub_self] at h'
  exact absurd h' (by decide)
theorem wit_TrustIsKept_SessionsOpenAndClose_close : let c := inNine Op.sessionClose [9]; let s := ownedAt Op.sessionClose [9]; let d := inNine Op.sessionClose [8]; let u := ownedAt Op.sessionClose [8]
    (coreRuns s = true ∧ Starts Op.sessionClose 1 c s ∧ parF c 0 31 0 = c.session) ∧ (coreRuns u = true ∧ Starts Op.sessionClose 1 d u ∧ parF d 0 31 0 ≠ d.session) :=
  ⟨⟨by decide +kernel, starts_of (by decide +kernel), by decide +kernel⟩, ⟨by decide +kernel, starts_of (by decide +kernel), by decide +kernel⟩⟩
theorem wit_TrustIsKept_SessionsOpenAndClose_timeout : let s := { base with cmd.sessions := [unproved] }
    sessionOf s 7 = some unproved ∧ unproved.proved = false ∧ unproved.openedAt + 10000000000 ≤ (advance 10000000000 s).now ∧
    (advance 9999999999 s).now < unproved.openedAt + 10000000000 := by decide +kernel
theorem wit_TrustIsKept_SessionsOpenAndClose_group : let x : Session := { id := 7, group := true, expires := 1 }; let s := { base with cmd.sessions := [x], time.clk.acc := 2 ^ 48 * 100000000000 }
    sessionOf s 7 = some x ∧ x.group = true ∧ x.expires ≠ 0 ∧ (x.expires : Int) ≤ utcNow (advance 7 s) ∧ s.cmd.slots.any (fun c => c.session == 7) = false := by
  decide +kernel
theorem wit_TrustIsKept_SessionsOpenAndClose_unlock : roleOfNat 5 = some .auditor := rfl

theorem wit_FailedProofsLock (fails locks : Nat) (h : (fails, locks) ∈ [(6, 0), (7, 0), (7, 9)]) : let k : Cred := { credA with fails := fails, locks := locks }
    let s := { base with kry.creds := [k] }
    credOf s .operator 2 = some k ∧ (k.fails + 1 < 8 ∨ 8 ≤ k.fails + 1) ∧ ((Role.auditor ≠ Role.operator) ∨ (3 : Nat) ≠ 2) := by
  simp only [List.mem_cons, List.not_mem_nil, or_false] at h
  rcases h with h | h | h <;> injection h with h1 h2 <;> subst h1 h2 <;> decide +kernel

/-- A package of R416 for this device, without a body or with one of zeros. -/
def pkgBytes (kind ref role slot no wrapped : Nat) (body : List Byte) : List Byte :=
  wordsBytes [word (0x4B59504B + put 1 32 + put kind 40), Config.serial, word ref, word (role + put slot 8), word no, 0, word (body.length + put wrapped 16)] ++ body
    ++ List.replicate (padLen (56 + body.length + 96 + 1088 + wrapped) + 96 + 3309 - 56 - body.length) 0
def pkgOf (kind ref role slot no wrapped : Nat) (body : List Byte) : Package :=
  { kind := kind, device := Config.serial, ref := ref, role := role, slot := slot, no := no, wrapped := wrapped, body := body }
/-- The Krynto core's finding that all is well, with a key of the wrapped length less 8. -/
def pkgGood (n : Nat) : PkgVerdict := { sigOk := true, unwrapOk := true, certsOk := true, key := List.replicate n 1 }

theorem parsed_device {bs : List Byte} {v : PkgVerdict} {p : Package} (h : parsePackage bs v = some p) : p.device = word (leAt bs 8 8) := by
  unfold parsePackage at h
  dsimp only at h
  split at h
  · split at h
    · injection h with h; rw [← h]
    · exact absurd h (by simp)
  · exact absurd h (by simp)

theorem parsed_pkg {kind ref role slot no wrapped : Nat} {body : List Byte} {v : PkgVerdict}
    (h : (parsePackage (pkgBytes kind ref role slot no wrapped body) v).map (fun p => { p with device := 0 }) =
      some { pkgOf kind ref role slot no wrapped body with device := 0 }) :
    parsePackage (pkgBytes kind ref role slot no wrapped body) v = some (pkgOf kind ref role slot no wrapped body) := by
  cases hp : parsePackage (pkgBytes kind ref role slot no wrapped body) v with
  | none => rw [hp] at h; exact absurd h (by simp)
  | some p =>
    have hd := parsed_device hp
    have hs : word (leAt (pkgBytes kind ref role slot no wrapped body) 8 8) = Config.serial := by
      show word (leNat (wordBytes Config.serial)) = _
      rw [leNat_wordBytes]; exact BitVec.ofNat_toNat _ _ |>.trans (BitVec.setWidth_eq _)
    rw [hp] at h
    obtain ⟨k, d, r, ro, sl, n, na, w, b⟩ := p
    simp only [pkgOf, Option.map_some, Option.some.injEq, Package.mk.injEq] at h ⊢
    simp only at hd
    rw [hs] at hd
    obtain ⟨h1, -, h2, h3, h4, h5, h6, h7, h8⟩ := h
    exact ⟨h1, hd, h2, h3, h4, h5, h6, h7, h8⟩

/-- The packages of the witnesses: a job key, an FF1 key, a group session, an operator's credential 7, an owner. -/
def pkg1 := pkgOf 1 5 0 0 1 40 []
def pkg2 := pkgOf 2 254 0 0 1 40 []
def pkg4 := pkgOf 4 (2 ^ 31) 3 0 1 72 []
def pkg8 := pkgOf 8 0 3 7 1 40 []
def pkg16 := pkgOf 16 1 0 0 1 40 (List.replicate 16 0)
theorem parsed1 : parsePackage (pkgBytes 1 5 0 0 1 40 []) (pkgGood 32) = some pkg1 := parsed_pkg (by decide +kernel)
theorem parsed2 : parsePackage (pkgBytes 2 254 0 0 1 40 []) (pkgGood 32) = some pkg2 := parsed_pkg (by decide +kernel)
theorem parsed4 : parsePackage (pkgBytes 4 (2 ^ 31) 3 0 1 72 []) (pkgGood 64) = some pkg4 := parsed_pkg (by decide +kernel)
theorem parsed8 : parsePackage (pkgBytes 8 0 3 7 1 40 []) (pkgGood 32) = some pkg8 := parsed_pkg (by decide +kernel)
theorem parsed16 : parsePackage (pkgBytes 16 1 0 0 1 40 (List.replicate 16 0)) (pkgGood 32) = some pkg16 := parsed_pkg (by decide +kernel)

/-- The Well holds the package at address 64. -/
def withPkg (bs : List Byte) (s : State) : State := { s with well.mem := Memory.writeAll [] 64 bs }
theorem pkg_there (bs : List Byte) (n : Nat) (s : State) (h : bs.length = n) : wellRead (withPkg bs s) 64 n = bs := by
  subst h; exact Memory.readAll_writeAll rfl

theorem pkg_passes {kind ref role slot no wrapped : Nat} {body : List Byte} {c : Slot} {v : PkgVerdict} {s : State} (h9 : kind ≠ 9)
    (hk : kindAllowed s c (pkgOf kind ref role slot no wrapped body) = true) (hv : v.sigOk = true ∧ v.unwrapOk = true ∧ v.key.length + 8 = wrapped)
    (hn : s.kry.pkgNo < no) (hl : ¬ (kind = 4 ∧ 32 ≤ s.cmd.sessions.length))
    (hg : ¬ ((kind = 2 ∨ kind = 3) ∧ (s.kry.keys.any fun k => k.id == ref) = true ∧ keyGranted s ref = true)) :
    packageFailure s c (pkgOf kind ref role slot no wrapped body) v = none := by
  obtain ⟨v1, v2, v3⟩ := hv
  have hk' : kindAllowed s c { kind := kind, device := Config.serial, ref := ref, role := role, slot := slot, no := no, wrapped := wrapped, body := body } = true := hk
  unfold packageFailure pkgOf
  simp only [ne_eq, not_true_eq_false, if_false, hk', v1, v2, v3, hl, hg, Nat.not_le.mpr hn, false_and, bne_self_eq_false, Bool.not_true,
    Bool.false_eq_true, Bool.or_false]
  simp [h9]

theorem pkg_unsigned {kind ref role slot no wrapped : Nat} {body : List Byte} {c : Slot} {v : PkgVerdict} {s : State}
    (hk : kindAllowed s c (pkgOf kind ref role slot no wrapped body) = true) (hv : v.sigOk = false) :
    packageFailure s c (pkgOf kind ref role slot no wrapped body) v = some Status.packageSignature := by
  have hk' : kindAllowed s c { kind := kind, device := Config.serial, ref := ref, role := role, slot := slot, no := no, wrapped := wrapped, body := body } = true := hk
  unfold packageFailure pkgOf
  simp only [ne_eq, not_true_eq_false, if_false, hk', hv, Bool.not_true, Bool.false_eq_true, Bool.not_false, Bool.true_or, if_true]

/-- JOB_KEY_LOAD of a package of `n` bytes at address 64, by the owner. -/
def keyLoadP (n : Nat) : List W64 := [64, word n]
def keySt (n : Nat) (bs : List Byte) : State := withPkg bs (ownedAt Op.jobKeyLoad (keyLoadP n))
theorem starts_pkg {op cid : Nat} {c : Slot} {s : State} (bs : List Byte) (h : Starts op cid c s) : Starts op cid c (withPkg bs s) := h

theorem wit_TrustIsKept_PackagesTakeEffect_read : let c := cmdOf Op.certRead [5, 14]; let s := withCmd c base
    coreRuns s = true ∧ Starts Op.certRead 1 c s ∧ parN c 0 ≤ 5 ∧ outRing s (parN c 1) = true := ⟨by decide +kernel, starts_of (by decide +kernel), by decide +kernel⟩
theorem wit_TrustIsKept_PackagesTakeEffect_key2 : let c := inNine Op.jobKeyLoad (keyLoadP 4685); let s := keySt 4685 (pkgBytes 2 254 0 0 1 40 [])
    coreRuns s = true ∧ Starts Op.jobKeyLoad 1 c s ∧ rangeFailure s (parN c 0) (parN c 1) = none ∧ poisoned s (parN c 0) (parN c 1) = false ∧
    parsePackage (wellRead s (parN c 0) (parN c 1)) (pkgGood 32) = some pkg2 ∧ packageFailure (startedAt 7 1 s) c pkg2 (pkgGood 32) = none ∧ pkg2.kind = 2 :=
  ⟨by decide +kernel, starts_pkg _ (starts_of (by decide +kernel)), by decide +kernel, by decide +kernel,
   (congrArg (parsePackage · (pkgGood 32)) (pkg_there _ _ _ (by decide +kernel))).trans parsed2,
   pkg_passes (by decide) (by decide +kernel) (by decide +kernel) (by decide +kernel) (by decide +kernel) (by decide +kernel), rfl⟩
theorem wit_TrustIsKept_PackagesTakeEffect_key1 : let c := inNine Op.jobKeyLoad (keyLoadP 4685); let s := keySt 4685 (pkgBytes 1 5 0 0 1 40 [])
    coreRuns s = true ∧ Starts Op.jobKeyLoad 1 c s ∧ rangeFailure s (parN c 0) (parN c 1) = none ∧ poisoned s (parN c 0) (parN c 1) = false ∧
    parsePackage (wellRead s (parN c 0) (parN c 1)) (pkgGood 32) = some pkg1 ∧ packageFailure (startedAt 7 1 s) c pkg1 (pkgGood 32) = none ∧ pkg1.kind = 1 :=
  ⟨by decide +kernel, starts_pkg _ (starts_of (by decide +kernel)), by decide +kernel, by decide +kernel,
   (congrArg (parsePackage · (pkgGood 32)) (pkg_there _ _ _ (by decide +kernel))).trans parsed1,
   pkg_passes (by decide) (by decide +kernel) (by decide +kernel) (by decide +kernel) (by decide +kernel) (by decide +kernel), rfl⟩
theorem wit_TrustIsKept_PackagesTakeEffect_key4 : let c := inNine Op.jobKeyLoad (keyLoadP 4717); let s := keySt 4717 (pkgBytes 4 (2 ^ 31) 3 0 1 72 [])
    coreRuns s = true ∧ Starts Op.jobKeyLoad 1 c s ∧ rangeFailure s (parN c 0) (parN c 1) = none ∧ poisoned s (parN c 0) (parN c 1) = false ∧
    parsePackage (wellRead s (parN c 0) (parN c 1)) (pkgGood 64) = some pkg4 ∧ packageFailure (startedAt 7 1 s) c pkg4 (pkgGood 64) = none ∧ pkg4.kind = 4 ∧
    s.cmd.sessions.any (fun x => x.id == pkg4.ref) = false :=
  ⟨by decide +kernel, starts_pkg _ (starts_of (by decide +kernel)), by decide +kernel, by decide +kernel,
   (congrArg (parsePackage · (pkgGood 64)) (pkg_there _ _ _ (by decide +kernel))).trans parsed4,
   pkg_passes (by decide) (by decide +kernel) (by decide +kernel) (by decide +kernel) (by decide +kernel) (by decide +kernel), rfl, by decide +kernel⟩
theorem wit_TrustIsKept_PackagesTakeEffect_refused : let c := inNine Op.jobKeyLoad (keyLoadP 4685); let s := keySt 4685 (pkgBytes 1 5 0 0 1 40 []); let v := { pkgGood 32 with sigOk := false }
    coreRuns s = true ∧ Starts Op.jobKeyLoad 1 c s ∧ rangeFailure s (parN c 0) (parN c 1) = none ∧ poisoned s (parN c 0) (parN c 1) = false ∧
    parsePackage (wellRead s (parN c 0) (parN c 1)) v = some pkg1 ∧ packageFailure (startedAt 7 1 s) c pkg1 v = some Status.packageSignature :=
  ⟨by decide +kernel, starts_pkg _ (starts_of (by decide +kernel)), by decide +kernel, by decide +kernel,
   (congrArg (parsePackage · { pkgGood 32 with sigOk := false }) (pkg_there _ _ _ (by decide +kernel))).trans (parsed_pkg (by decide +kernel)),
   pkg_unsigned (by decide +kernel) rfl⟩
theorem wit_TrustIsKept_PackagesTakeEffect_remove : let c := inNine Op.roleCredential [3, 7, 0]; let s := ownedAt Op.roleCredential [3, 7, 0]
    coreRuns s = true ∧ Starts Op.roleCredential 1 c s ∧ roleOfNat (parN c 0) = some .operator ∧ Role.operator ≠ .anonymous ∧ Role.operator ≠ .owner ∧ parN c 2 = 0 ∧ parN c 1 < 8 :=
  ⟨by decide +kernel, starts_of (by decide +kernel), by decide +kernel⟩
theorem wit_TrustIsKept_PackagesTakeEffect_add : let c := inNine Op.roleCredential [3, 64, 4685]; let s := withPkg (pkgBytes 8 0 3 7 1 40 []) (ownedAt Op.roleCredential [3, 64, 4685])
    coreRuns s = true ∧ Starts Op.roleCredential 1 c s ∧ roleOfNat (parN c 0) = some .operator ∧ parN c 2 ≠ 0 ∧ rangeFailure s (parN c 1) (parN c 2) = none ∧
    poisoned s (parN c 1) (parN c 2) = false ∧ parsePackage (wellRead s (parN c 1) (parN c 2)) (pkgGood 32) = some pkg8 ∧
    packageFailure (startedAt 7 1 s) c pkg8 (pkgGood 32) = none ∧ (if pkg8.kind = 9 then some Role.vendor else roleOfNat pkg8.role) = some .operator :=
  ⟨by decide +kernel, starts_pkg _ (starts_of (by decide +kernel)), by decide +kernel, by decide +kernel, by decide +kernel, by decide +kernel,
   (congrArg (parsePackage · (pkgGood 32)) (pkg_there _ _ _ (by decide +kernel))).trans parsed8,
   pkg_passes (by decide) (by decide +kernel) (by decide +kernel) (by decide +kernel) (by decide +kernel) (by decide +kernel), by decide +kernel⟩
theorem wit_TrustIsKept_PackagesTakeEffect_transfer : let c := inNine Op.ownerTransfer [64, 4701]
    let s := withPkg (pkgBytes 16 1 0 0 1 40 (List.replicate 16 0)) (ownedAt Op.ownerTransfer [64, 4701])
    coreRuns s = true ∧ Starts Op.ownerTransfer 1 c s ∧ transferBusy s = false ∧ rangeFailure s (parN c 0) (parN c 1) = none ∧ poisoned s (parN c 0) (parN c 1) = false ∧
    parsePackage (wellRead s (parN c 0) (parN c 1)) (pkgGood 32) = some pkg16 ∧ packageFailure (startedAt 7 1 s) c pkg16 (pkgGood 32) = none ∧
    pkg16.ref = s.kry.transfer + 1 :=
  ⟨by decide +kernel, starts_pkg _ (starts_of (by decide +kernel)), by decide +kernel, by decide +kernel, by decide +kernel,
   (congrArg (parsePackage · (pkgGood 32)) (pkg_there _ _ _ (by decide +kernel))).trans parsed16,
   pkg_passes (by decide) (by decide +kernel) (by decide +kernel) (by decide +kernel) (by decide +kernel) (by decide +kernel), by decide +kernel⟩
theorem wit_TrustIsKept_PackagesTakeEffect_busy : let c := inNine Op.ownerTransfer [64, 4701]; let s := { ownedAt Op.ownerTransfer [64, 4701] with job.active := some 5 }
    coreRuns s = true ∧ Starts Op.ownerTransfer 1 c s ∧ transferBusy s = true := ⟨by decide +kernel, starts_of (by decide +kernel), by decide +kernel⟩
theorem wit_TrustIsKept_PackagesTakeEffect_attest (b : Bool) : let c := cmdOf Op.attest [1, 2, 3, 4, 14]; let s := withCmd c { base with kry.identity := b }
    coreRuns s = true ∧ Starts Op.attest 1 c s ∧ outRing s (parN c 4) = true ∧ s.kry.identity = b := by
  cases b <;> exact ⟨by decide +kernel, starts_of (by decide +kernel), by decide +kernel⟩

theorem wit_ImagesAreHandled_ImagesAndZeroise_stage : let c := cmdOf Op.imageStage [1, 12]; let s := withCmd c base
    coreRuns s = true ∧ Starts Op.imageStage 1 c s ∧ (1 : Fin 2) = (if parB c 0 0 then 1 else 0) ∧ (1 : Fin 2).val ≠ s.bgd.fwSlot ∧ parN c 1 = (12 : Fin 16).val ∧
    inRing s (12 : Fin 16).val = true ∧ imgFailure s goodImage = none ∧ imgFailure s badImage = some 1 :=
  ⟨by decide +kernel, starts_of (by decide +kernel), by decide +kernel⟩
theorem wit_ImagesAreHandled_ImagesAndZeroise_zeroise : (let c := cmdOf Op.zeroise [0x5A3C]; let s := withCmd c base; coreRuns s = true ∧ Starts Op.zeroise 1 c s ∧ s.kry.latch = none ∧ parN c 0 = 0x5A3C) ∧
    (let c := cmdOf Op.zeroise [0x5A3D]; let s := withCmd c base; coreRuns s = true ∧ Starts Op.zeroise 1 c s ∧ s.kry.latch = none ∧ parN c 0 ≠ 0x5A3C) :=
  ⟨⟨by decide +kernel, starts_of (by decide +kernel), by decide +kernel⟩, ⟨by decide +kernel, starts_of (by decide +kernel), by decide +kernel⟩⟩
theorem wit_ImagesAreHandled_ImagesAndZeroise_written : let x : Staging := { cid := 1, slot := 1, ring := 12, header := [] }; let s := { base with kry.staging := some x }
    s.kry.staging = some x ∧ x.ring = (12 : Fin 16).val ∧ s.bar.work[(12 : Fin 16)].inLeft = 0 := by decide +kernel

/-! ### Witnesses: ports, reports, background tasks -/

/-- Port 1 on, with an IPv4 or an IPv6 address. -/
def portBase (v6 : Bool) : State := { base with net := upd base.net 1 fun p => { p with cfg.enable := true, cfg.ipv6 := v6, cfg.ipLo := 7, cfg.mac := 9 } }
theorem wit_PortsAndReports_PortsAnswer : (∀ v6 : Bool, portOn (portBase v6) 1 = true ∧ 7 ∈ ownAddresses (1 : Fin 2).val (portBase v6).net[(1 : Fin 2)].cfg ∧
      8 ∉ ownAddresses (1 : Fin 2).val (portBase v6).net[(1 : Fin 2)].cfg ∧ (portBase v6).net[(1 : Fin 2)].cfg.ipv6 = v6) ∧
    (let s := { portBase false with lan.lane := upd base.lan.lane 33 fun l => { l with state := .hunt } }
     portOn s 1 = true ∧ s.net[(1 : Fin 2)].cfg.speed = 0 ∧ (laneOf s (32 + (1 : Fin 2).val)).state = .hunt ∧
     (laneOf s (32 + (1 : Fin 2).val)).huntAt + 2000000 ≤ (advance 2000000 s).now) := by decide +kernel

theorem wit_PortsAndReports_ReportsLeave_granary : (let c := cmdOf Op.granaryReport [15]; let s := withCmd c base; Starts Op.granaryReport 1 c s ∧ parN c 0 < 16 ∧ outRing s (parN c 0) = true) ∧
    (let c := cmdOf Op.granaryReport [0x10000]; let s := withCmd c base
     Starts Op.granaryReport 1 c s ∧ 0x10000 ≤ parN c 0 ∧ parN c 0 % 8 = 0 ∧ rangeFailure s (parN c 0) (wordsBytes (granaryReport (startedAt 7 1 s))).length = none) :=
  ⟨⟨starts_of (by decide +kernel), by decide +kernel⟩, ⟨starts_of (by decide +kernel), by decide +kernel⟩⟩
theorem wit_PortsAndReports_ReportsLeave_telemetry : let c := cmdOf Op.telemetryRead [1, 15]; let s := withCmd c base; let d := cmdOf Op.telemetryRead [0, 15]; let u := withCmd d base
    (Starts Op.telemetryRead 1 c s ∧ outRing s (parN c 1) = true ∧ (∃ ws, telemetryBlock { startedAt 7 1 s with fresh := s.fresh + 1 } (parN c 0) s.fresh = some ws ∧ ws ≠ [])) ∧
    (Starts Op.telemetryRead 1 d u ∧ outRing u (parN d 1) = true ∧ telemetryBlock { startedAt 7 1 u with fresh := u.fresh + 1 } (parN d 0) u.fresh = some []) := by
  refine ⟨⟨starts_of (by decide +kernel), by decide +kernel, _, rfl, by decide +kernel⟩, starts_of (by decide +kernel), by decide +kernel, by decide +kernel⟩
theorem wit_PortsAndReports_ReportsLeave_crier : (let s := onRing 3 live id { base with cri.queue := [{ cls := 1 }], cri.ring := 3, cri.ringOn := true }
      oldestEvent s.cri.queue = some { cls := 1 } ∧ domOn s 2 = true ∧ crierRing s = some 3 ∧ s.cri.collect = 0) ∧
    (let s := { base with cri.queue := [{ cls := 1 }], cri.collect := 4, cri.ringOn := false }
     oldestEvent s.cri.queue = some { cls := 1 } ∧ domOn s 2 = true ∧ s.cri.ringOn = false ∧ s.cri.collect ≠ 0 ∧ s.cri.collect ≠ ownNode s ∧ domOn s 10 = true) ∧
    base.cri.sampleAt + 1000000000 ≤ (advance 1000000000 base).now := by decide +kernel

/-- SCRUB_CONFIG at the ends of its ranges. -/
def scrubLow : List W64 := [1, word (10 + put 1 16 + put 1 32 + put 10 48), 1]
def scrubHigh : List W64 := [168, word (1440 + put 7 16 + put 365 32 + put 1440 48), 50]
theorem wit_BackgroundTasksRun_BackgroundIsScheduled_config (ps : List W64) (h : ps = scrubLow ∨ ps = scrubHigh) : let c := cmdOf Op.scrubConfig ps; let s := withCmd c base
    Starts Op.scrubConfig 1 c s ∧ 1 ≤ parF c 0 15 0 ∧ parF c 0 15 0 ≤ 168 ∧ 10 ≤ parF c 1 10 0 ∧ parF c 1 10 0 ≤ 1440 ∧
    1 ≤ parF c 1 18 16 ∧ parF c 1 18 16 ≤ 7 ∧ 1 ≤ parF c 1 40 32 ∧ parF c 1 40 32 ≤ 365 ∧ 10 ≤ parF c 1 58 48 ∧ parF c 1 58 48 ≤ 1440 ∧
    1 ≤ parF c 2 5 0 ∧ parF c 2 5 0 ≤ 50 := by
  rcases h with h | h <;> subst h <;> exact ⟨starts_of (by decide +kernel), by decide +kernel⟩
/-- A device in which background task `i` runs since moment 7. -/
def taskBase (i : Fin 7) : State := { base with bgd.tasks := upd base.bgd.tasks i fun x => { x with running := true, started := 7, period := 100 } }
theorem wit_BackgroundTasksRun_BackgroundIsScheduled_late : (taskBase 6).bgd.tasks[(6 : Fin 7)].running = true ∧ schedulerRuns (taskBase 6) = true ∧ taskShed (advance 107 (taskBase 6)) 6 = false ∧
    (let x := (taskBase 6).bgd.tasks[(6 : Fin 7)]
     x.started + (x.lates + 1) * x.period + x.paused ≤ (advance 107 (taskBase 6)).now ∧ (advance 106 (taskBase 6)).now < x.started + (x.lates + 1) * x.period + x.paused) := by
  decide +kernel

theorem wit_BackgroundTasksRun_ScrubsMoveOn_ledger : taskRuns (advance 9 (taskBase 1)) 1 = true ∧ (taskBase 1).led.scrubPos ≤ 4094 ∧ 4094 < 4095 ∧ (taskBase 1).led.scrubPos ≤ 4095 ∧ 4095 < 4096 := by
  decide +kernel
theorem wit_BackgroundTasksRun_ScrubsMoveOn_sram : taskRuns (advance 9 (taskBase 2)) 2 = true ∧ (taskBase 2).bgd.sramPos ≤ 512 * 3071 + 511 ∧ 3071 < 3072 ∧ 511 < 512 ∧
    domOn (taskBase 2) ⟨Config.sramDomain 3071 % 12, Nat.mod_lt _ (by decide)⟩ = true ∧ (sramOf (taskBase 2) 3071).remaps.length < 2 ∧ 512 * 3071 + 511 = 3072 * 512 - 1 := by
  refine ⟨by decide +kernel, by decide +kernel, by decide, by decide, ?_, by decide +kernel, by decide⟩
  simp [domOn, taskBase, base]

theorem wit_BackgroundTasksRun_SelfTestsJudge_slice : lostUntested (taskBase 3) 31 = false ∧ taskRuns (advance 9 (taskBase 3)) 3 = true ∧ (31 : Fin 32) ∈ untested (taskBase 3) ∧
    spareCore (taskBase 4) = some 2 ∧ taskRuns (advance 9 (taskBase 4)) 4 = true ∧ taskRuns (advance 9 (taskBase 6)) 6 = true ∧ coreRuns (taskBase 6) = true := by decide +kernel
theorem wit_BackgroundTasksRun_SelfTestsJudge_recal : (∀ x ∈ (taskBase 5).bgd.calAt, ¬ (x.2 + 4 * (taskBase 5).bgd.cfg.recalPeriod * 86400 < devSec (advance 9 (taskBase 5)) ∧ x.1 ∉ (taskBase 5).bgd.aged)) ∧
    taskRuns (advance 9 (taskBase 5)) 5 = true ∧ taskAble (taskBase 5) 5 = true ∧ (0x184, 23) ∈ silicon ∧ recalWaits (taskBase 5) (0x184, 23) = true ∧
    calBusy (taskBase 5) 0x184 = false ∧ (0x184, 23) ∉ (taskBase 5).bgd.recalDone := by decide +kernel
theorem wit_BackgroundTasksRun_SelfTestsJudge_reseed : coreRuns base = true ∧ base.kry.reseedAt + 1000000000 ≤ (advance 1000000000 base).now ∧ domOn base 1 = true := by decide +kernel

/-! ### Witnesses: the Well's own work, the Tally's commands -/

/-- The device with channel 1 of the Well in a state, two ranks. -/
def chanBase (st : Nat) : State := { base with well.ranks := 2, well.chans := upd base.well.chans 1 fun c => { c with state := st, normal := Vector.replicate 2 1 } }
theorem wit_WellIsTended_WellIsRefreshed : rankServes (chanBase 1) 1 1 = true ∧ 1 ≤ (chanBase 1).well.chans[(1 : Fin 2)].normal[(1 : Fin 2)] ∧
    (chanBase 1).well.chans[(1 : Fin 2)].state = 1 ∧ (chanBase 1).well.chans[(1 : Fin 2)].zqAt + 128000000 ≤ (advance 128000000 (chanBase 1)).now ∧
    (chanBase 1).bgd.cfg.srIdle ≠ 0 ∧ (∀ r ∈ (chanBase 1).well.due, r.ch ≠ 1) ∧ (chanBase 1).well.hardNow = none ∧
    (chanBase 2).well.chans[(1 : Fin 2)].state = 2 := by decide +kernel

/-- A row of channel 1. -/
def rowB : DramRow := { ch := 1, rank := 0, bg := 1, bank := 2, row := 3, dev := 4 }
theorem wit_WellIsTended_WellIsRepaired : (let s := { chanBase 1 with well.due := [rowB] }; rowB ∈ s.well.due ∧ chanServes s rowB.ch = true) ∧
    (let s := { chanBase 1 with well.soft := [rowB], job.idleFrom := 7 }
     s.well.soft = rowB :: [] ∧ s.job.active = none ∧ s.job.activating = none ∧ s.job.idleFrom + 10000000000 ≤ (advance 10000000007 s).now ∧ s.well.hardNow = none ∧
     chanServes s rowB.ch = true) ∧
    ({ base with well.hardNow := some rowB } : State).well.hardNow = some rowB ∧
    (let s := { taskBase 0 with well.chans := base.well.chans.map fun c => { c with state := 1 } }
     taskRuns (advance 9 s) 0 = true ∧ taskAble s 0 = true ∧ (∀ r ∈ s.led.runs, r.item ≠ 0x160) ∧ s.well.scrubPos + 2 ^ 18 < s.well.bytes ∧
     taskRuns (advance 9 { s with well.scrubPos := 64 * 2 ^ 30 - 2 ^ 18 }) 0 = true ∧ ({ s with well.scrubPos := 64 * 2 ^ 30 - 2 ^ 18 } : State).well.bytes ≤ 64 * 2 ^ 30 - 2 ^ 18 + 2 ^ 18) := by
  decide +kernel

/-- A grant of 256 serials from 1,000 to this device: pool 3, grant 1, keys 1 and 2. -/
def grantBytes : List Byte :=
  wordsBytes [word (0x47524E54 + put 1 32), word (3 + put 1 32), 1000, 256, word (8 + put 1 8 + put 2 16), 0, Config.serial, 0, 0, 0, 5] ++ List.replicate 3405 0
def grantA : Grant := parseGrant (wordsOf (grantBytes.take 88))
def grantSt (c : Slot) : State := withPkg grantBytes { withCmd c base with kry.keys := [{ id := 1, kind := 2 }, { id := 2, kind := 3 }] }
theorem grant_here (s : State) (h : s.twn.bound = false) : grantHere s grantA = true := by
  have hu : grantA.unit0 = Config.serial.toNat := by
    show (word (leNat (wordBytes Config.serial))).toNat = _
    rw [leNat_wordBytes]
    show (BitVec.ofNat 64 Config.serial.toNat).toNat = _
    rw [BitVec.toNat_ofNat]; exact Nat.mod_eq_of_lt Config.serial.isLt
  unfold grantHere
  simp [hu, h]
set_option maxRecDepth 20000 in
theorem wit_RecordsAreIssued_GrantsAndPlansAreAccepted_grant : let c := cmdOf Op.poolGrant [64, 3493]; let s := grantSt c; let bs := wellRead s (parN c 0) (parN c 1)
    Starts Op.poolGrant 1 c s ∧ notLead s = false ∧ rangeFailure s (parN c 0) (parN c 1) = none ∧ poisoned s (parN c 0) (parN c 1) = false ∧ bs.length = 3493 ∧
    grantA = parseGrant (wordsOf (bs.take 88)) ∧ 3 = fld ((wordsOf (bs.take 88)).getD 1 0) 31 0 ∧ grantHere s grantA = true ∧ grantOk s (wordsOf (bs.take 88)) = true ∧
    grantA.no = ((poolOf s 3).map (·.lastNo) |>.getD 0) + 1 ∧ (∀ r ∈ s.tal.ranges, overlaps r.1 (r.1 + r.2) grantA.base (grantA.base + grantA.count) = false) ∧
    digitsOk s 3 (grantA.base + grantA.count - 1) = true ∧ ((poolOf s 3).map (·.grants.length) |>.getD 0) < 4 ∧
    (s.tal.pools.filter fun p => !p.grants.isEmpty).length < 32 := by
  have hb : wellRead (grantSt (cmdOf Op.poolGrant [64, 3493])) 64 3493 = grantBytes := pkg_there grantBytes 3493 _ (by decide +kernel)
  refine ⟨starts_pkg _ (starts_of (by decide +kernel)), by decide +kernel, by decide +kernel, by decide +kernel, Memory.length_readAll _ _ _, ?_, ?_, grant_here _ rfl, ?_,
    by decide +kernel, by decide +kernel, by decide +kernel, by decide +kernel, by decide +kernel⟩
  · exact congrArg (fun b : List Byte => parseGrant (wordsOf (b.take 88))) hb.symm
  · refine Eq.trans ?_ (congrArg (fun b : List Byte => fld ((wordsOf (b.take 88)).getD 1 0) 31 0) hb.symm); decide +kernel
  · refine Eq.trans (congrArg (fun b : List Byte => grantOk (grantSt (cmdOf Op.poolGrant [64, 3493])) (wordsOf (b.take 88))) hb) ?_; decide +kernel

theorem wit_RecordsAreIssued_GrantsAndPlansAreAccepted_status : let p : Pool := { id := 3, grants := [{ no := 1 }] }; let c := cmdOf Op.poolStatus [3]; let s := withCmd c { base with tal.pools := [p] }
    Starts Op.poolStatus 1 c s ∧ poolOf s (parN c 0) = some p ∧ p.grants ≠ [] := ⟨starts_of (by decide +kernel), by decide +kernel⟩

/-- A plan of one entry, seconds 5 to 9, its texts "A". -/
def planEntry : List Byte := leBytes 8 5 ++ leBytes 8 9 ++ padTo 16 [1, 0x41] ++ padTo 16 [1, 0x41] ++ padTo 8 [1, 0x41] ++ padTo 24 [1, 0x41] ++ List.replicate 16 0
def planBytes : List Byte := wordsBytes [word (0x434C4E31 + put 1 32), word (1 + put 7 32), 0, word (crc32c planEntry)] ++ planEntry
theorem wit_RecordsAreIssued_GrantsAndPlansAreAccepted_plan : let c := cmdOf Op.calendarLoad [64, 128]; let s := wellWrite 64 planBytes (withCmd c base)
    Starts Op.calendarLoad 1 c s ∧ notLead s = false ∧ rangeFailure s (parN c 0) (parN c 1) = none ∧ poisoned s (parN c 0) (parN c 1) = false ∧
    (parsePlan (wellRead s (parN c 0) (parN c 1)) (planNow s)).isSome = true ∧
    (∀ (i : Fin 16), s.tal.streams[i].template = none) := ⟨starts_of (by decide +kernel), by decide +kernel⟩
theorem wit_RecordsAreIssued_GrantsAndPlansAreAccepted_ahead : let g : Grant := { no := 1, base := 1000, count := 256, subLog2 := 8 }; let p : Pool := { id := 3, grants := [g] }
    let s := { base with tal.pools := [p], tal.streams := upd base.tal.streams 15 fun x => { x with pool := 3 } }
    poolOf s s.tal.streams[(15 : Fin 16)].pool = some p ∧ grantInUse s p = some (g, 0, some 0) ∧ g.ready = true := by decide +kernel

/-- The bytes of a Code 128 template of one digit, as one raw block at address 64. -/
def tplBytes : List Byte := wordsBytes [word (0x544D5031 + put 1 32), word (put 1 4), 0, word (5 + put 1 16 + put 1 24 + put 1 32), 1000, 1, word (put 1 16), 0x31]
def blockBytesOf (bs : List Byte) : List Byte := wordsBytes [word (0x5346 + put 1 16 + put 1 20 + put 1 21 + put 2 22 + put bs.length 32), word (bs.length + put (crc32c bs) 32)] ++ bs
def tplB : Template := { attr := word (put 1 4), symbology := 5, modX := 1, modY := 1, size := 1, aux := 1000, elements := [.literal [0x31]] }
theorem wit_RecordsAreIssued_StreamsBindAndVoid_bind : let c := cmdOf Op.streamBind [15, 64, 0]; let s := wellWrite 64 (blockBytesOf tplBytes) (withCmd c base); let u := startedAt 7 1 s
    Starts Op.streamBind 1 c s ∧ parN c 0 = (15 : Fin 16).val ∧ streamBusy s (15 : Fin 16).val = false ∧ parN c 2 = 0 ∧
    rangeFailure s (parN c 1) (streamSpan s 65537 (parN c 1)) = none ∧ poisoned s (parN c 1) (streamSpan s 65537 (parN c 1)) = false ∧
    (readStream (parN c 1) 65536 (wellRead s (parN c 1) (streamSpan s 65537 (parN c 1))) u).1 = some tplBytes ∧ parseTemplate tplBytes = some tplB ∧ tplB.symbology ≠ 0 ∧
    (overlaySize tplB none).1 ≤ 65535 ∧ (overlaySize tplB none).2 ≤ 65535 ∧ checksOk [] tplB.elements = true ∧ tplB.elements.all (sourceOk u (15 : Fin 16).val (parN c 2)) = true ∧
    fontCount u 15 none ≤ 64 ∧ glyphsOk (planNow u) tplB none = true ∧ calendarOk (planNow u) tplB = true ∧ overlayBytes (overlaySize tplB none) ≤ 131072 :=
  ⟨starts_of (by decide +kernel), by decide +kernel⟩
theorem wit_RecordsAreIssued_StreamsBindAndVoid_close : let m : Manifest := { stream := 15 }; let c := cmdOf Op.manifestClose [15]
    let s := withCmd c { base with tal.streams := upd base.tal.streams 15 fun x => { x with man := some m } }
    Starts Op.manifestClose 1 c s ∧ parN c 0 = (15 : Fin 16).val ∧ notLead s = false ∧ s.tal.streams[(15 : Fin 16)].man = some m := ⟨starts_of (by decide +kernel), by decide +kernel⟩
/-- CODE_VOID of serial 9 of pool 3 on stream 15, reason 0x80, beside a record. -/
def voidSt (r : Option Rec) : State := withCmd (cmdOf Op.codeVoid [15, 3, 9, 0x80]) { base with tal.journal := r.toList }
theorem wit_RecordsAreIssued_StreamsBindAndVoid_void : let c := cmdOf Op.codeVoid [15, 3, 9, 0x80]; let r : Rec := { num := 4, stream := 15, pool := 3, serial := 9 }
    (∀ x, x = none ∨ x = some r ∨ x = some { r with final := some {} } →
      Starts Op.codeVoid 1 c (voidSt x) ∧ parN c 0 < 16 ∧ parN c 1 < 2 ^ 32 ∧ 0x80 ≤ parF c 3 7 0 ∧ notLead (voidSt x) = false) ∧
    namedRec (voidSt none) c = none ∧ namedRec (voidSt (some r)) c = some r ∧ r.final = none ∧
    namedRec (voidSt (some { r with final := some {} })) c = some { r with final := some {} } := by
  refine ⟨?_, by decide +kernel, by decide +kernel, by decide +kernel, by decide +kernel⟩
  intro x h; rcases h with h | h | h <;> subst h <;> exact ⟨starts_of (by decide +kernel), by decide +kernel⟩

/-! ### Witnesses: device time -/

/-- The device with one domain changed and its clock in a state, following `f`. -/
def onDom (d : Fin 2) (f : PtpDom → PtpDom) (s : State) : State := { s with time.doms := upd s.time.doms d f }
def clockIn (st : ClockState) (f : Option (Fin 2)) (s : State) : State := { s with time.clk.state := st, time.clk.followed := f }
/-- PTP_CONFIG: domain 0 on port 1, its other fields in range at their lower ends. -/
def ptpP (guard : Nat) : List W64 := [word (1 + 2), 0, word (1 + put 1 16 + put 50 32 + put guard 48), word (10 + put 10 16 + put 1 56), 0, 0, 0, 0]

theorem wit_TimeCommandsAnswer_TimeIsReadAndConfigured : Starts Op.timeRead 1 (cmdOf Op.timeRead []) (at1 Op.timeRead []) ∧
    (Starts Op.ptpConfig 1 (cmdOf Op.ptpConfig (ptpP 0)) (at1 Op.ptpConfig (ptpP 0)) ∧ ptpCfgOk (cmdOf Op.ptpConfig (ptpP 0)) = false) ∧
    (Starts Op.ptpConfig 1 (cmdOf Op.ptpConfig (ptpP 1)) (at1 Op.ptpConfig (ptpP 1)) ∧ ptpCfgOk (cmdOf Op.ptpConfig (ptpP 1)) = true ∧
      (at1 Op.ptpConfig (ptpP 1)).time.doms[(0 : Fin 2)].enable ≠ parB (cmdOf Op.ptpConfig (ptpP 1)) (0 : Fin 2).val 0) :=
  ⟨starts_of (by decide +kernel), ⟨starts_of (by decide +kernel), by decide +kernel⟩, ⟨starts_of (by decide +kernel), by decide +kernel⟩⟩

/-- TIME_SELECT of domain 1, with or without `force`, beside a domain 1 in a state at an offset in ps. -/
def selectC (force : Bool) : Slot := cmdOf Op.timeSelect [word (1 + if force then put 1 8 else 0)]
def selectS (force : Bool) (st : DomState) (off : Int) : State := withCmd (selectC force) (clockIn .locked (some 0) (onDom 1 (fun x => { x with state := st, offset := off }) base))
theorem wit_TimeCommandsAnswer_TimeIsSelectedAndSet_select :
    (Starts Op.timeSelect 1 (selectC false) (selectS false .acquire 0) ∧ (1 : Fin 2) = (if parB (selectC false) 0 0 then 1 else 0) ∧ (domAt (selectS false .acquire 0) 1).state ≠ .locked) ∧
    (Starts Op.timeSelect 1 (selectC false) (selectS false .locked 10000001) ∧ parB (selectC false) 0 8 = false ∧ (domAt (selectS false .locked 10000001) 1).state = .locked ∧
      1000 * (selectS false .locked 10000001).time.cfg.agree < nsOf (domAt (selectS false .locked 10000001) 1).offset) ∧
    (Starts Op.timeSelect 1 (selectC false) (selectS false .locked 10000000) ∧
      nsOf (domAt (selectS false .locked 10000000) 1).offset ≤ 1000 * (selectS false .locked 10000000).time.cfg.agree) ∧
    (Starts Op.timeSelect 1 (selectC true) (selectS true .locked 10000001) ∧ parB (selectC true) 0 8 = true ∧ (selectS true .locked 10000001).time.clk.state ≠ .free ∧
      (selectS true .locked 10000001).time.clk.state ≠ .kept) :=
  ⟨⟨starts_of (by decide +kernel), by decide +kernel⟩, ⟨starts_of (by decide +kernel), by decide +kernel⟩, ⟨starts_of (by decide +kernel), by decide +kernel⟩,
   ⟨starts_of (by decide +kernel), by decide +kernel⟩⟩
/-- TIME_SET to second 5, with nanoseconds, with or without `at_pps`. -/
def setC (ns : Nat) (pps : Bool) : Slot := cmdOf Op.timeSet [5, word (put ns 16 + if pps then put 1 48 else 0)]
def setS (ns : Nat) (pps : Bool) (s : State) : State := withCmd (setC ns pps) s
/-- PPS input 1 locked. -/
def ppsBase (arb : Bool) : State := { base with time.ins := upd base.time.ins 1 fun x => { x with enable := true, locked := true, arbiter := arb } }
theorem wit_TimeCommandsAnswer_TimeIsSelectedAndSet_set :
    (Starts Op.timeSet 1 (setC 1000000000 false) (setS 1000000000 false base) ∧ 1000000000 ≤ parF (setC 1000000000 false) 1 45 16) ∧
    (Starts Op.timeSet 1 (setC 1 true) (setS 1 true base) ∧ parB (setC 1 true) 1 48 = true ∧ parF (setC 1 true) 1 45 16 ≠ 0) ∧
    (Starts Op.timeSet 1 (setC 7 false) (setS 7 false { base with time.clk.stepped := true }) ∧ (setS 7 false { base with time.clk.stepped := true }).time.clk.stepped = true) ∧
    (Starts Op.timeSet 1 (setC 7 false) (setS 7 false jobBase) ∧ (setS 7 false jobBase).time.clk.stepped = false ∧ (setS 7 false jobBase).time.clk.stepOver = false ∧
      (setS 7 false jobBase).time.clk.state = .free ∧ jobActive (setS 7 false jobBase) = true) ∧
    (Starts Op.timeSet 1 (setC 0 true) (setS 0 true base) ∧ jobActive (setS 0 true base) = false ∧ lockedPps (setS 0 true base) false = none) ∧
    (Starts Op.timeSet 1 (setC 0 true) (setS 0 true (ppsBase false)) ∧ jobActive (setS 0 true (ppsBase false)) = false ∧ lockedPps (setS 0 true (ppsBase false)) false = some 1) ∧
    (let s := setS 7 false { base with time.clk.acc := 6000000000 * 2 ^ 48 }
     Starts Op.timeSet 1 (setC 7 false) s ∧ jobActive s = false ∧ (parN (setC 7 false) 0 * 1000000000 + 7) * 2 ^ 48 + 0 * 2 ^ 32 < (advance 9 s).time.clk.acc) ∧
    (Starts Op.timeSet 1 (setC 7 false) (setS 7 false base) ∧ (advance 9 (setS 7 false base)).time.clk.acc ≤ (parN (setC 7 false) 0 * 1000000000 + 7) * 2 ^ 48 + 0 * 2 ^ 32) :=
  ⟨⟨starts_of (by decide +kernel), by decide +kernel⟩, ⟨starts_of (by decide +kernel), by decide +kernel⟩, ⟨starts_of (by decide +kernel), by decide +kernel⟩,
   ⟨starts_of (by decide +kernel), by decide +kernel⟩, ⟨starts_of (by decide +kernel), by decide +kernel⟩, ⟨starts_of (by decide +kernel), by decide +kernel⟩,
   ⟨starts_of (by decide +kernel), by decide +kernel⟩, ⟨starts_of (by decide +kernel), by decide +kernel⟩⟩

/-- Domain 1 enabled, in a state, with path delays, a model that predicts 0 and `good` good samples. -/
def sampleS (st : DomState) (ds : List Int) (good : Nat) : State :=
  clockIn .locked (some 0) (onDom 1 (fun x => { x with enable := true, state := st, delays := ds, haveModel := true, good := good }) base)
theorem wit_TimeFollowsDomains_SamplesAreJudged (st : DomState) (h : st = .acquire ∨ st = .frozen ∨ st = .locked) : domUp (sampleS st [] 0) 1 = true ∧ (domAt (sampleS st [] 0) 1).state ≠ .listen ∧
    (sampleS st [] 0).now ≤ 9 ∧ (domAt (sampleS st [] 0) 1).delays = [] ∧ domUp (sampleS st [50] 15) 1 = true ∧ (domAt (sampleS st [50] 15) 1).delays = 50 :: [] ∧
    (domAt (sampleS st [50] 15) 1).state ≠ .off ∧ (domAt (sampleS st [50] 15) 1).haveModel = true ∧ (domAt (sampleS st [50] 15) 1).state ≠ .faulty ∧
    nsOf (1000000 - (domAt (sampleS st [50] 15) 1).model) ≤ (sampleS st [50] 15).time.cfg.lockThr ∧
    1000 * (sampleS st [50] 15).time.cfg.jumpLimit < nsOf (1000001000 - (domAt (sampleS st [50] 15) 1).model) ∧
    (1000000 : Int) = 999950 + 0 + 50 + (domAt (sampleS st [50] 15) 1).asym - (0 - ingressOf (sampleS st [50] 15) 1) ∧
    (sampleS st [50] 15).time.clk.state ≠ .free ∧ (sampleS st [50] 15).time.clk.state ≠ .kept := by
  rcases h with h | h | h <;> subst h <;> decide +kernel

/-- An Announce of the followed master, and one that leaves LISTEN. -/
def annA : Announce := { seq := 1, better := true, utcOffset := 38, utcValid := true, leap61 := false, leap59 := false }
def domS (f : Option (Fin 2)) (g : PtpDom → PtpDom) : State := clockIn .locked f (onDom 1 (fun x => g { x with enable := true }) base)
theorem wit_TimeFollowsDomains_DomainsAreKept_messages :
    (let s := domS none (fun x => { x with state := .listen }); domUp s 1 = true ∧ (domAt s 1).state = .listen ∧ annA.better = true ∧ s.time.clk.followed ≠ some 1) ∧
    (let s := domS (some 1) (fun x => { x with state := .locked }); domUp s 1 = true ∧ (domAt s 1).state ≠ .listen ∧ s.time.clk.followed = some 1 ∧ annA.leap61 = false ∧ annA.leap59 = false ∧
      ({ annA with leap61 := true } : Announce).leap61 = true ∧ s.time.utc.leap61 = false ∧ s.time.utc.leap59 = false) ∧
    (let s := domS (some 1) (fun x => { x with state := .locked, reqSeq := some 4, haveSync := true }); domUp s 1 = true ∧ (domAt s 1).reqSeq = some 4 ∧ (domAt s 1).haveSync = true ∧
      delayStepped (((((domAt s 1).t2 - (domAt s 1).t1 - (domAt s 1).syncCorr) + (100 - (domAt s 1).reqOut - 0)) / 2 :: (domAt s 1).delays).take 72) s.time.cfg.delayStep = false) ∧
    (let s := domS (some 1) (fun x => { x with state := .locked, reqSeq := some 4, haveSync := true, delays := List.replicate 71 0 }); domUp s 1 = true ∧ (domAt s 1).state = .locked ∧
      delayStepped (((((domAt s 1).t2 - (domAt s 1).t1 - (domAt s 1).syncCorr) + (3300000 - (domAt s 1).reqOut - 0)) / 2 :: (domAt s 1).delays).take 72) s.time.cfg.delayStep = true) := by
  decide +kernel
theorem wit_TimeFollowsDomains_DomainsAreKept_timers :
    (let s := onDom 0 (fun x => { x with state := .locked }) (domS (some 1) (fun x => { x with state := .locked, lastSample := 7 }))
     (domAt s 1).state ≠ .off ∧ (domAt s 1).state ≠ .listen ∧ (domAt s 1).lastSample + 1000000000 ≤ (advance 1000000007 s).now ∧ s.time.clk.followed = some 1 ∧
     (domAt s (otherDom 1)).state = .locked ∧ nsOf (domAt s (otherDom 1)).offset ≤ 1000 * s.time.cfg.agree) ∧
    (let s := domS (some 1) (fun x => { x with state := .locked, lastSample := 7 }); (domAt s (otherDom 1)).state ≠ .locked ∧ s.time.clk.followed = some 1) ∧
    (let s := domS none (fun x => { x with state := .frozen, frozenAt := 7 }); (domAt s 1).state = .frozen ∧ (domAt s 1).frozenAt + 1000000000 * s.time.cfg.guard ≤ (advance 10000000007 s).now) ∧
    (let s := domS none (fun x => { x with state := .faulty, agreeFrom := some 7 }); (domAt s 1).state = .faulty ∧ (domAt s 1).agreeFrom = some 7 ∧ 7 + 60000000000 ≤ (advance 60000000007 s).now) ∧
    (let s := { domS (some 0) (fun x => { x with state := .locked, agreeFrom := some 7, lockedFrom := some 7 }) with time.clk.preferred := 1 }
     s.time.clk.preferred = 1 ∧ s.time.clk.followed = some (otherDom 1) ∧ (domAt s 1).state = .locked ∧ (domAt s 1).agreeFrom = some 7 ∧ (domAt s 1).lockedFrom = some 7) := by
  decide +kernel

theorem wit_ClockAndPulsesAreWatched_ClockIsWatched : (let s := { base with time.clk.disagree := some 7 }; s.time.clk.disagree = some 7 ∧ 7 + 10000000000 ≤ (advance 10000000007 s).now ∧ s.time.clk.disSent = false ∧
      lockedPps s true = none) ∧ (let s := { ppsBase true with time.clk.disagree := some 7 }; s.time.clk.disSent = false ∧ lockedPps s true = some 1) ∧
    1000000 * base.time.cfg.errAlarm < errNow (advance 7 base) ∧ (let s := clockIn .locked none base; errNow (advance 7 s) ≤ 1000000 * s.time.cfg.errAlarm) ∧
    (let s := { base with time.clk.acc := 11 * 1000000000 * 2 ^ 48, time.utc.leap61 := true, time.utc.leapAt := 10 }; s.time.utc.leap61 = true ∧ s.time.utc.leapAt + 1 ≤ devSec (advance 0 s)) ∧
    (let s := { base with time.clk.acc := 9 * 1000000000 * 2 ^ 48, time.utc.leap59 := true, time.utc.leapAt := 10 }
     s.time.utc.leap61 = false ∧ s.time.utc.leap59 = true ∧ s.time.utc.leapAt - 1 ≤ devSec (advance 0 s)) ∧
    base.time.clk.floorAt + 60000000000 ≤ (advance 60000000000 base).now := by decide +kernel

/-- PPS_CONFIG with a width for output 1. -/
def ppsP (w : Nat) : List W64 := [1, 0, word (1 + put 1 8), word (put w 8)]
theorem wit_ClockAndPulsesAreWatched_PulsesMarkSeconds_config : (Starts Op.ppsConfig 1 (cmdOf Op.ppsConfig (ppsP 900001)) (at1 Op.ppsConfig (ppsP 900001)) ∧
      ¬ (1 ≤ parF (cmdOf Op.ppsConfig (ppsP 900001)) 2 31 8 ∧ parF (cmdOf Op.ppsConfig (ppsP 900001)) 2 31 8 ≤ 900000 ∧ 1 ≤ parF (cmdOf Op.ppsConfig (ppsP 900001)) 3 31 8 ∧
        parF (cmdOf Op.ppsConfig (ppsP 900001)) 3 31 8 ≤ 900000)) ∧
    (Starts Op.ppsConfig 1 (cmdOf Op.ppsConfig (ppsP 900000)) (at1 Op.ppsConfig (ppsP 900000)) ∧
      1 ≤ parF (cmdOf Op.ppsConfig (ppsP 900000)) 2 31 8 ∧ parF (cmdOf Op.ppsConfig (ppsP 900000)) 2 31 8 ≤ 900000 ∧ 1 ≤ parF (cmdOf Op.ppsConfig (ppsP 900000)) 3 31 8 ∧
        parF (cmdOf Op.ppsConfig (ppsP 900000)) 3 31 8 ≤ 900000) := ⟨⟨starts_of (by decide +kernel), by decide +kernel⟩, ⟨starts_of (by decide +kernel), by decide +kernel⟩⟩
/-- PPS input 1 with seven good edges behind it, the last at 4 s, and a TIME_SET that waits for the edge at second 9. -/
def edgeWait : State := { withCmd (runOf Op.timeSet []) base with
  time.ins := upd base.time.ins 1 fun x => { x with enable := true, edges := 7, last := some 4000000000 }
  time.clk.acc := 5000000000 * 2 ^ 48, time.clk.setAtPps := some (1, 9) }
theorem steer_ins (ask : Int) (d : Nat) (s : State) : (steer ask d s).time.ins = s.time.ins := by
  unfold steer; dsimp only
  split
  · rw [raise_frame]; rfl
  · rfl
theorem ppsDiscipline_ins (n : Fin 2) (s : State) : (ppsDiscipline n s).time.ins = s.time.ins := by
  unfold ppsDiscipline
  split
  · rfl
  · exact steer_ins _ _ _
theorem wit_ClockAndPulsesAreWatched_PulsesMarkSeconds_edge : edgeWait.time.ins[(1 : Fin 2)].enable = true ∧ edgeWait.time.ins[(1 : Fin 2)].falling = !true ∧
    edgeWait.time.ins[(1 : Fin 2)].last = some 4000000000 ∧ 4000000000 + 999990000 ≤ devNs (advance 0 edgeWait) - edgeWait.time.ins[(1 : Fin 2)].inDelay ∧
    devNs (advance 0 edgeWait) - edgeWait.time.ins[(1 : Fin 2)].inDelay ≤ 4000000000 + 1000010000 ∧ edgeWait.time.clk.setAtPps = some (1, 9) ∧
    edgeWait.time.clk.stepped = false ∧ edgeWait.time.clk.state = .free ∧ (advance 0 edgeWait).time.clk.acc ≤ 9 * 1000000000 * 2 ^ 48 := by decide +kernel
/-- The input counts as locked after that edge, the last of the clause's hypotheses. -/
theorem wit_ClockAndPulsesAreWatched_PulsesMarkSeconds_locked : ∃ s', Machine.exec (.ppsInEdge 0 1 true) edgeWait = .next s' ∧ lockedPps s' false = some 1 := by
  refine ⟨_, rfl, ?_⟩
  dsimp only
  rw [if_neg (by decide +kernel)]
  unfold lockedPps
  rw [ppsDiscipline_ins]
  decide +kernel
theorem wit_ClockAndPulsesAreWatched_PulsesMarkSeconds_timers :
    (let s := { base with time.ins := upd base.time.ins 1 fun x => { x with locked := true, last := some 7 }, time.clk.acc := 1500000007 * 2 ^ 48 }
     s.time.ins[(1 : Fin 2)].last = some 7 ∧ s.time.ins[(1 : Fin 2)].locked = true ∧ 7 + 1500000000 ≤ devNs (advance 0 s)) ∧
    (let s := { clockIn .locked none base with time.outs := upd base.time.outs 1 fun x => { x with enable := true, adv := 100 }, time.clk.acc := 3999999902 * 2 ^ 48 }
     s.time.outs[(1 : Fin 2)].enable = true ∧ s.time.clk.state ≠ .free ∧ s.time.outs[(1 : Fin 2)].pulse = false ∧
     ((devNs (advance 0 s) : Int) + s.time.outs[(1 : Fin 2)].adv + 2) % 1000000000 ≤ 4) ∧
    (let s := { base with time.outs := upd base.time.outs 1 fun x => { x with pulse := true, width := 1 }, time.clk.acc := 1000 * 2 ^ 48 }
     s.time.outs[(1 : Fin 2)].pulse = true ∧ s.time.outs[(1 : Fin 2)].started + 1000 * s.time.outs[(1 : Fin 2)].width ≤ devNs (advance 0 s)) := by decide +kernel


/-! ### Witnesses: twin pairs -/

/-- A device with a route to node 2, node 1 itself. -/
def linkBase : State := { base with node := 1, ura.routes := [{ node := 2, port := 1, hops := 1 }] }
/-- The same, bound to node 2, in a role, 30 ms of elapsed time behind it. -/
def pairIn (r : TwinRole) : State := { linkBase with now := 30000000, twn.bound := true, twn.peer := 2, twn.role := r }
def bindP (node inPin : Nat) : List W64 := [word node, word (put 3 24 + put inPin 32)]

theorem wit_TwinsAreBoundAndHeard_TwinsAreBound_refused : (let c := cmdOf Op.twinBind (bindP 2 3);
      Starts Op.twinBind 1 c (withCmd c linkBase) ∧
      ¬ (parF c 0 10 0 ≠ (withCmd c linkBase).node ∧ parF c 0 10 0 ≠ 0 ∧ parF c 0 10 0 ≤ 2000 ∧ parF c 1 28 24 ≤ 15 ∧ parF c 1 36 32 ≤ 15 ∧ parF c 1 28 24 ≠ parF c 1 36 32)) ∧
    (let c := cmdOf Op.twinBind (bindP 3 4);
      Starts Op.twinBind 1 c (withCmd c linkBase) ∧
      (parF c 0 10 0 ≠ (withCmd c linkBase).node ∧ parF c 0 10 0 ≠ 0 ∧ parF c 0 10 0 ≤ 2000 ∧ parF c 1 28 24 ≤ 15 ∧ parF c 1 36 32 ≤ 15 ∧ parF c 1 28 24 ≠ parF c 1 36 32) ∧
      routePort (withCmd c linkBase) (parF c 0 10 0) = none) ∧
    (let c := cmdOf Op.twinBind (bindP 2 15); let s := withCmd c { linkBase with twn.bound := true };
      Starts Op.twinBind 1 c s ∧
      (parF c 0 10 0 ≠ s.node ∧ parF c 0 10 0 ≠ 0 ∧ parF c 0 10 0 ≤ 2000 ∧ parF c 1 28 24 ≤ 15 ∧ parF c 1 36 32 ≤ 15 ∧ parF c 1 28 24 ≠ parF c 1 36 32) ∧
      routePort s (parF c 0 10 0) ≠ none ∧ s.twn.bound = true) :=
  ⟨⟨starts_of (by decide +kernel), by decide +kernel⟩, ⟨starts_of (by decide +kernel), by decide +kernel⟩, ⟨starts_of (by decide +kernel), by decide +kernel⟩⟩
/-- Two active jobs are refused at the unit with the higher serial; on every device whose serial is not 0 there is a lower one. -/
theorem wit_TwinsAreBoundAndHeard_TwinsAreBound_jobs (h : 0 < Config.serial.toNat) : let c := cmdOf Op.twinBind (bindP 2 15); let s := withCmd c { linkBase with job.active := some 5 }
    Starts Op.twinBind 1 c s ∧
      (parF c 0 10 0 ≠ s.node ∧ parF c 0 10 0 ≠ 0 ∧ parF c 0 10 0 ≤ 2000 ∧ parF c 1 28 24 ≤ 15 ∧ parF c 1 36 32 ≤ 15 ∧ parF c 1 28 24 ≠ parF c 1 36 32) ∧
      routePort s (parF c 0 10 0) ≠ none ∧ s.twn.bound = false ∧ jobActive s = true ∧ 0 < Config.serial.toNat :=
  ⟨starts_of (by decide +kernel), by decide +kernel, by decide +kernel, by decide +kernel, by decide +kernel, h⟩
theorem wit_TwinsAreBoundAndHeard_TwinsAreBound : (let c := cmdOf Op.twinBind (bindP 2 15); let s := withCmd c linkBase;
      Starts Op.twinBind 1 c s ∧
      (parF c 0 10 0 ≠ s.node ∧ parF c 0 10 0 ≠ 0 ∧ parF c 0 10 0 ≤ 2000 ∧ parF c 1 28 24 ≤ 15 ∧ parF c 1 36 32 ≤ 15 ∧ parF c 1 28 24 ≠ parF c 1 36 32) ∧
      routePort s (parF c 0 10 0) ≠ none ∧ s.twn.bound = false ∧ jobActive s = false) ∧
    Starts Op.twinYield 1 (cmdOf Op.twinYield []) (withCmd (cmdOf Op.twinYield []) (pairIn .synced)) ∧ (withCmd (cmdOf Op.twinYield []) (pairIn .synced)).twn.role = .synced ∧
    Starts Op.twinYield 1 (cmdOf Op.twinYield []) (withCmd (cmdOf Op.twinYield []) (pairIn .lead)) ∧
    ¬ ((pairIn .lead).twn.role = .synced ∨ ((pairIn .lead).twn.role = .lead ∧ (pairIn .lead).twn.peerSynced = true)) ∧
    Starts Op.twinStatus 1 (cmdOf Op.twinStatus []) (at1 Op.twinStatus []) :=
  ⟨⟨starts_of (by decide +kernel), by decide +kernel⟩, starts_of (by decide +kernel), rfl, starts_of (by decide +kernel), by decide +kernel, starts_of (by decide +kernel)⟩

theorem wit_LeadsHoldALease_lead : ((pairIn .lead).twn.role = .lead ∧ (pairIn .lead).twn.leaseOut = false) ∧
    (pairIn .lead).twn.renewAt + 5000000 ≤ (advance 0 (pairIn .lead)).now ∧
    (pairIn .synced).twn.role = .synced ∧ (pairIn .copying).twn.role = .copying ∧ (pairIn .isolated).twn.role = .isolated ∧
    (let s := { pairIn .lead with twn.renewals := [(4, 29000000)] };
      s.twn.handing = false ∧ s.twn.role = .lead ∧ s.twn.leaseOut = false ∧ s.twn.renewals.find? (fun r => r.1 == 4) = some (4, 29000000)) ∧
    ({ pairIn .lead with twn.handing := true } : State).twn.handing = true ∧ (pairIn .solo).twn.role = .solo ∧
    (let s := { pairIn .lead with twn.leaseEnd := 31000000 };
      s.twn.role = .lead ∧ s.twn.leaseOut = false ∧ s.twn.leaseEnd ≤ (advance 31000000 s).now) ∧
    (let s := { pairIn .lead with twn.leaseOut := true, twn.outAt := 30000000 };
      s.twn.role = .lead ∧ s.twn.leaseOut = true ∧ s.twn.outAt + 2000000 ≤ (advance 32000000 s).now) := by decide +kernel
theorem wit_LeadsHoldALease_standby : (let s := { pairIn .synced with twn.leaseFrom := 10000000 };
      s.twn.role = .synced ∧ s.twn.leaseFrom + 22000000 ≤ (advance 32000000 s).now ∧ (advance 31999999 s).now < s.twn.leaseFrom + 22000000) ∧
    (let s := { pairIn .copying with twn.witSilent := true }; s.twn.role = .copying ∧ s.twn.leaseFrom = 0 ∧ s.twn.witSilent = true) ∧
    (let s := { pairIn .lead with twn.bothLead := true, twn.bothEnd := 34000000 }; s.twn.bothLead = true ∧ s.twn.bothEnd ≤ (advance 34000000 s).now) ∧
    (let s := { pairIn .lead with twn.yieldDue := true }; s.twn.yieldDue = true ∧ s.twn.role = .lead ∧ s.twn.peerSynced = false) := by decide +kernel

theorem wit_TwinsAreBoundAndHeard_WitnessesAreHeard : (pairIn .lead).twn.bound = true ∧ (pairIn .lead).pwr.ready = true ∧ domOn (pairIn .lead) 2 = true ∧
    (pairIn .lead).twn.witTog + 1000000 ≤ (advance 0 (pairIn .lead)).now ∧ (pairIn .lead).twn.witAt + 5000000 ≤ (advance 0 (pairIn .lead)).now ∧
    (let s := { pairIn .lead with twn.witAt := 30000000 } ; (advance 34999999 s).now < s.twn.witAt + 5000000) := by decide +kernel

/-- A pair that compares line 40, with what this unit holds of it. -/
def compares (x : LineDigest) (r : TwinRole) : State := { pairIn r with twn.digests := [{ line := 39 }, x] }
theorem wit_PairsAgree_PairsCompareDoses_digest : (let x : LineDigest := { line := 40, ownAt := 29500000 }; let s := compares x .lead;
      (s.twn.role = .lead ∨ s.twn.role = .synced) ∧ s.twn.digests.find? (fun y => y.line == 40) = some x ∧
      (∀ y ∈ s.twn.digests, y.line = 40 → (advance 0 s).now ≤ y.ownAt + 1000000) ∧ x.mism = false ∧ x.own = none) ∧
    (let x : LineDigest := { line := 40, ownAt := 29000000, own := some (7, 8) }; let s := compares x .synced;
      (s.twn.role = .lead ∨ s.twn.role = .synced) ∧ s.twn.digests.find? (fun y => y.line == 40) = some x ∧
      (∀ y ∈ s.twn.digests, y.line = 40 → (advance 0 s).now ≤ y.ownAt + 1000000) ∧ x.mism = false ∧ x.own = some ((7 : W64).toNat, (8 : W64).toNat) ∧
      ((7, 8) : Nat × Nat) ≠ ((9 : W64).toNat, (8 : W64).toNat)) := by decide +kernel
theorem wit_PairsAgree_PairsCompareDoses_check : (let x (f : Bool) (r : Nat) : LineDigest := { line := 40, own := some (7, 8), peer := some (9, r), mism := true, fault := f };
      (∀ f r, (compares (x f r) .lead).twn.digests.find? (fun y => y.line == 40) = some (x f r) ∧ (x f r).own = some (7, 8) ∧ (x f r).peer = some (9, r) ∧ (x f r).mism = true) ∧
      ((7, 8) : Nat × Nat).2 = ((9, 8) : Nat × Nat).2 ∧ (x true 8).fault = true ∧ (x false 8).fault = false ∧ ((7, 8) : Nat × Nat).2 ≠ ((9, 6) : Nat × Nat).2 ∧
      (compares (x true 6) .synced).twn.role = .synced ∧ (compares (x true 6) .lead).twn.role = .lead) := by
  refine ⟨fun f r => ⟨?_, rfl, rfl, rfl⟩, by decide, rfl, rfl, by decide, rfl, rfl⟩
  rfl

/-- An issue part of record 12, product 3, with its check. -/
def issueWords : List W64 := let ws : List W64 := [12, 3, 0, 1000, 0, 0, 0, 0, 0, 0, 0]; ws ++ [word (crc32c (wordsBytes ws))]
theorem wit_StandbysFollow_parts : (let s := { pairIn .lead with twn.replOut := [(4, .cal 0x101), (5, .part 12 0)], tal.journal := [{ num := 12 }] };
      s.twn.bound = true ∧ s.twn.replOut.find? (fun x => x.1 == 4) = some (4, .cal 0x101) ∧ s.twn.replOut.find? (fun x => x.1 == 5) = some (5, .part 12 0) ∧
      s.tal.journal.any (fun x => x.num == 12) = true) ∧
    (pairIn .synced).twn.bound = true ∧ (pairIn .synced).twn.role = .synced ∧ partOk 0 (wordsOf (wordsBytes issueWords)) = true := by decide +kernel
theorem wit_StandbysFollow_epochs : (pairIn .synced).twn.role = .synced ∧
    (let e : TwinEpoch := { num := 3, stop := 90 };
      ({ pairIn .lead with twn.epoch := some e } : State).twn.epoch = some e ∧ e.line = none ∧ ({ pairIn .lead with twn.epoch := some e } : State).twn.role = .lead ∧
      ({ pairIn .synced with twn.epoch := some e } : State).twn.epoch = some e ∧ ({ pairIn .synced with twn.epoch := some e } : State).twn.role = .synced) ∧
    (let s := { pairIn .copying with mot.bounds := [(30000000, 101), (29900000, 100)] };
      s.twn.role = .copying ∧ boundaryNear (takeInbox 0x54 (advance 0 s)) (momentOf (takeInbox 0x54 (advance 0 s)) 0) = some 101 ∧ s.twn.aligned = false ∧
      ({ s with twn.aligned := true } : State).twn.aligned = true ∧ 101 ≠ 100) ∧ (pairIn .lead).twn.role = .lead ∧
    (let s := { pairIn .lead with prod.queue := [{ num := 6, flags := 1 }] }; s.twn.role = .lead ∧ s.prod.queue.any (fun p => p.num == 6) = true) := by decide +kernel

theorem wit_PairsAgree_CopiesMakeSynced : (let s := { pairIn .copying with twn.copying := true, twn.copy := 7, twn.retryAt := 40000000 };
      s.twn.role = .copying ∧ s.twn.copying = true ∧ s.twn.copy = 7 ∧ s.twn.retryAt ≠ 0 ∧ s.twn.retryAt ≤ (advance 40000000 s).now ∧ (advance 39999999 s).now < s.twn.retryAt) ∧
    (let s := { pairIn .lead with twn.copying := true }; s.twn.role = .lead ∧ s.twn.copying = true) := by decide +kernel

/-! ### Witnesses: the Urara link -/

theorem wit_LinkIsJoined_NodesJoinTheLink_id : (let c := cmdOf Op.nodeId [2000]; let s := withCmd c base;
      Starts Op.nodeId 1 c s ∧ parN c 0 ≠ 0 ∧ parN c 0 ≤ 2000 ∧ (∀ a ∈ s.ura.announced, a.1 = parN c 0 → a.2 = Config.serial.toNat)) ∧
    (let c := cmdOf Op.nodeId [2001]; Starts Op.nodeId 1 c (withCmd c base) ∧ 2000 < parN c 0) ∧
    (let c := cmdOf Op.nodeId [5]; let s := withCmd c { base with ura.announced := [(5, Config.serial.toNat + 1)] };
      Starts Op.nodeId 1 c s ∧ ∃ a ∈ s.ura.announced, parN c 0 ≠ 0 ∧ parN c 0 ≤ 2000 ∧ a.1 = parN c 0 ∧ a.2 ≠ Config.serial.toNat) :=
  ⟨⟨starts_of (by decide +kernel), by decide +kernel, by decide +kernel, by intro a h; cases h⟩, ⟨starts_of (by decide +kernel), by decide +kernel⟩,
    starts_of (by decide +kernel), _, List.mem_singleton.mpr rfl, by decide +kernel, by decide +kernel, by decide +kernel, by simp⟩
/-- TOPOLOGY with a topology, ports and an up port. -/
def topoC (k ports up : Nat) : Slot := cmdOf Op.topology [word (k + put ports 8 + put up 16)]
/-- What TOPOLOGY checks, with its starting conditions, on a state. -/
def topoStarts (c : Slot) (s : State) : Bool := decide (slotOf s 1 = some c) && decide (c.op = Op.topology) && mayStart s c &&
  !((List.range 8).any fun i => laneRun (advance 7 s) (24 + i) && fbit (parOf (advance 7 s) 1 0) (8 + i / 2))
theorem wit_LinkIsJoined_NodesJoinTheLink_topology :
    (let c := topoC 3 15 4; topoStarts c (withCmd c base) = true ∧ (parF c 0 1 0 = 3 ∧ 4 ≤ parF c 0 18 16 ∧ parF c 0 18 16 ≠ 7)) ∧
    (let c := topoC 1 4 0; topoStarts c (withCmd c base) = true ∧ ¬ (parF c 0 1 0 = 3 ∧ 4 ≤ parF c 0 18 16 ∧ parF c 0 18 16 ≠ 7) ∧ parF c 2 10 0 ≤ 2000 ∧
      (∀ r ∈ remotesOf c, r.enable = true → r.node ≠ 0 ∧ r.node ≤ 2000) ∧ portsOk (parF c 0 1 0) (parF c 0 11 8) (parF c 0 18 16) = false) ∧
    (let c := topoC 1 3 0; topoStarts c (withCmd c base) = true ∧ ¬ (parF c 0 1 0 = 3 ∧ 4 ≤ parF c 0 18 16 ∧ parF c 0 18 16 ≠ 7) ∧ parF c 2 10 0 ≤ 2000 ∧
      (∀ r ∈ remotesOf c, r.enable = true → r.node ≠ 0 ∧ r.node ≤ 2000) ∧ portsOk (parF c 0 1 0) (parF c 0 11 8) (parF c 0 18 16) = true ∧
      (withCmd c base).twn.bound = false) ∧
    (let c := topoC 1 1 0; let s := withCmd c { pairIn .lead with job.active := some 5 };
      topoStarts c s = true ∧ portsOk (parF c 0 1 0) (parF c 0 11 8) (parF c 0 18 16) = true ∧ s.twn.bound = true ∧ jobActive s = true ∧
      routePort s s.twn.peer = some 1 ∧ bit (parF c 0 11 8) 1 = false) ∧
    (let s := { base with ura.topos := [(3, 50)] }; ∃ w ∈ s.ura.topos, w.2 + 100000000 ≤ (advance 100000050 s).now) := by decide +kernel

/-- Lane 26, the first of port 1, UP. -/
def laneBase : State := { linkBase with ura.ports := 15, lan.lane := base.lan.lane.set 26 { state := .up }, time.clk.acc := 7 * 2 ^ 48 }
theorem wit_LinkIsJoined_RoutesAreLearned : 24 ≤ (26 : Fin 36).val ∧ isEthLane 26 = false ∧ laneUp laneBase 26 = true ∧ (laneOf laneBase 26).annAt + 100000 ≤ (advance 100000 laneBase).now ∧
    linkIndex laneBase 26 = some 2 ∧ laneBase.ura.conflict = false ∧ 2 ≠ laneBase.node ∧ laneBase.ura.routes.length < 2048 ∧
    laneBase.node ≠ 0 ∧ (∃ serial, serial ≠ Config.serial.toNat) ∧ portUsed laneBase 1 = true ∧ portUp laneBase 1 = true ∧ domOn laneBase 10 = true ∧
    laneBase.ura.fullAt + 100000000 ≤ (advance 100000000 laneBase).now ∧
    (let s := { laneBase with ura.downAt := base.ura.downAt.set 1 (some 9) }; s.ura.downAt[(1 : Fin 4)] = some 9 ∧ 9 + 300000 ≤ (advance 300009 s).now) := by
  refine ⟨by decide +kernel, by decide +kernel, by decide +kernel, by decide +kernel, by decide +kernel, by decide +kernel, by decide +kernel, by decide +kernel,
    by decide +kernel, ⟨Config.serial.toNat + 1, by simp⟩, by decide +kernel, by decide +kernel, by decide +kernel, by decide +kernel, by decide +kernel⟩

/-- A packet for node 1 under a link sequence. -/
def packetA (lseq : Nat) : List W64 := linkWords { dest := 1, src := 2, eseq := 4, type := 0x4A, words := [1, 2, 3] } lseq 0
theorem wit_PacketsAreTaken_PacketsAreDelivered_frames : (∀ lseq : Fin 65536, lseq = 0 ∨ lseq = 1 ∨ lseq = 32767 ∨ lseq = 32768 → (packetA lseq.val).length = bits ((packetA lseq.val).getD 1 0).toNat 9 0 + 3 ∧
      fld ((packetA lseq.val).getD ((packetA lseq.val).length - 1) 0) 31 0 = crc32c (wordsBytes ((packetA lseq.val).take ((packetA lseq.val).length - 1))) ∧
      bits ((packetA lseq.val).getD 0 0).toNat 63 48 = lseq.val ∧ bits ((packetA lseq.val).getD 0 0).toNat 10 0 = laneBase.node) := by
  intro lseq h
  rcases h with rfl | rfl | rfl | rfl <;> decide +kernel
theorem wit_PacketsAreTaken_PacketsAreDelivered : linkIndex laneBase 26 = some 2 ∧ laneUp laneBase 26 = true ∧
    ¬ (([] : List W64).length = bits (([] : List W64).getD 1 0).toNat 9 0 + 3) ∧ (linkOf laneBase 2).expect = 0 ∧
    0 < (32767 + 65536 - (linkOf laneBase 2).expect) % 65536 ∧ (32767 + 65536 - (linkOf laneBase 2).expect) % 65536 < 32768 ∧
    32768 ≤ (32768 + 65536 - (linkOf laneBase 2).expect) % 65536 ∧ (0 + 65536 - (linkOf laneBase 2).expect) % 65536 = 0 ∧
    knownType 0x4A = true ∧ knownType 0x4C = false ∧ laneBase.node ≠ 0 ∧ laneBase.node ≠ 2047 ∧ laneBase.ura.conflict = false ∧ (linkOf laneBase 2).waiting = [] ∧
    (linkOf laneBase 2).lastTx + 1000 ≤ (advance 1000 laneBase).now := by decide +kernel

/-- A lead's event on input 0 at line 50, its product 6. -/
def leadEvent : TriggerWords := { input := 0, lead := true, forced := false, line := 50, stamp := 0, product := some 6 }
theorem wit_PacketsAreTaken_DeliveriesAreTaken_command : domOn linkBase 10 = true ∧ linkBase.pwr.ready = true ∧ linkBase.bgd.takeover = false ∧ linkBase.cmd.intakeOpen = true := by decide +kernel
theorem wit_PacketsAreTaken_DeliveriesAreTaken_trigger : let s := { pairIn .synced with job.loaded := [jobA], job.active := some 5 }
    let u := takeInbox 0x4A (advance 7 s); let m := momentOf u leadEvent.stamp;
    domOn s 10 = true ∧ domOn s 9 = true ∧ s.twn.bound = true ∧ 2 = s.twn.peer ∧ standby s = true ∧ leadEvent.lead = true ∧ leadEvent.product = some 6 ∧
    (∀ r ∈ s.ura.remotes, r.node ≠ 2) ∧ s.job.switch = none ∧ jobFor u 0 (50 + (pdSettings u.mot.pds[(0 : Fin 8)] m).lead) m = some jobA ∧
    trackOn jobA 0 = some (0, { length := 272, stop := 272, artRow := 0 }) ∧ s.prod.queue.length < 64 := by decide +kernel
theorem wit_PacketsAreTaken_DeliveriesAreTaken_time : domOn linkBase 9 = true ∧ (∀ r ∈ linkBase.ura.remotes, r.node ≠ 2) ∧ linkBase.twn.bound = false ∧
    (pairIn .lead).twn.bound = true ∧ 2 = (pairIn .lead).twn.peer ∧ (pairIn .lead).ura.timeDom1 = false ∧
    (let s := { linkBase with ura.timeDom1 := true, ura.timeSource := 2 }; s.twn.bound = false ∧ s.ura.timeDom1 = true ∧ 2 = s.ura.timeSource) ∧
    domOn linkBase 2 = true ∧ linkBase.cri.ringOn = true ∧ ({ linkBase with cri.ringOn := false } : State).cri.ringOn = false := by decide +kernel

/-! ### Witnesses: vision -/

/-- SENSOR_CONFIG of sensor 7 on receiver 0, virtual channel 0, 64 by 16 pixels, its profile of 80 bytes at 64. -/
def sensC (width : Nat) : Slot := cmdOf Op.sensorConfig [7, word (put 1 8 + put width 16 + put 16 32), word (put 1 32), word (put 1 32), word (put 31 32), 64, 80]
/-- The profile of a sensor without a list of registers. -/
def profA : List Byte := wordsBytes [0x53454E31, word (put 1 16), word (put 1 16), 0, 0, 0, 0, 0, 0, 0]
/-- A sensor that is on, and a state in which sensor n is. -/
def sensA : Sensor := { on := true, width := 64, height := 16, tracks := 1 }
def sensAt (n : Fin 8) (x : Sensor) (s : State) : State := { s with vis.sensors := upd s.vis.sensors n fun _ => x }
theorem wit_SensorsAndSettings_SensorsAreConfigured_refused :
    (let c := sensC 63; Starts Op.sensorConfig 1 c (withCmd c base) ∧ sensorOk (sensorFrom c []) = false) ∧
    (let c := sensC 64; let s := withCmd c (sensAt 2 sensA base);
      Starts Op.sensorConfig 1 c s ∧ sensorOk (sensorFrom c []) = true ∧ ∃ k, k < 8 ∧ k ≠ 7 ∧ (sensorOf s k).on = true ∧ (sensorOf s k).rx = (sensorFrom c []).rx ∧
        (sensorOf s k).vc = (sensorFrom c []).vc) ∧
    (let c := sensC 64; let s := withCmd c (sensAt 7 sensA jobBase);
      Starts Op.sensorConfig 1 c s ∧ (∀ k, k < 8 → k ≠ 7 → ¬ ((sensorOf s k).on = true ∧ (sensorOf s k).rx = 0 ∧ (sensorOf s k).vc = 0)) ∧ sensorBusy s (sensorOf s 7) = true) :=
  ⟨⟨starts_of (by decide +kernel), by decide +kernel⟩, ⟨starts_of (by decide +kernel), by decide +kernel, 2, by decide +kernel⟩,
    starts_of (by decide +kernel), by decide +kernel, by decide +kernel⟩
theorem wit_SensorsAndSettings_SensorsAreConfigured_profiles : let c := sensC 64; let s := withCmd c base;
    Starts Op.sensorConfig 1 c s ∧ 7 = parF c 0 2 0 ∧ sensorOk (sensorFrom c []) = true ∧
    (∀ k, k < 8 → k ≠ 7 → ¬ ((sensorOf s k).on = true ∧ (sensorOf s k).rx = (sensorFrom c []).rx ∧ (sensorOf s k).vc = (sensorFrom c []).vc)) ∧
    sensorBusy s (sensorOf s 7) = false ∧ rangeFailure s (parN c 5) (parF c 6 31 0) = none ∧ poisoned s (parN c 5) (parF c 6 31 0) = false ∧
    profileOk (wordsOf (wellRead s (parN c 5) (parF c 6 31 0))) = false := ⟨starts_of (by decide +kernel), by decide +kernel⟩
theorem wit_SensorsAndSettings_SensorsAreConfigured : let c := sensC 64; let s := withPkg profA (withCmd c base);
    Starts Op.sensorConfig 1 c s ∧ sensorBusy s (sensorOf s 7) = false ∧ rangeFailure s (parN c 5) (parF c 6 31 0) = none ∧
    poisoned s (parN c 5) (parF c 6 31 0) = false ∧ profileOk (wordsOf (wellRead s (parN c 5) (parF c 6 31 0))) = true ∧ (sensorOf s 7).on = false ∧ (sensorOf s 7).sets = [] := by
  have hb : wellRead (withPkg profA (withCmd (sensC 64) base)) 64 80 = profA := pkg_there profA 80 _ (by decide +kernel)
  refine ⟨starts_pkg _ (starts_of (by decide +kernel)), by decide +kernel, by decide +kernel, by decide +kernel, ?_, by decide +kernel, by decide +kernel⟩
  exact Eq.trans (congrArg (fun b : List Byte => profileOk (wordsOf b)) hb) (by decide +kernel)
/-- VERIFY_CONFIG with a search distance. -/
def verC (search : Nat) : Slot := cmdOf Op.verifyConfig [word (40 + put 4 8), word (put search 16), 0, 0, 0]
theorem wit_SensorsAndSettings_SensorsAreConfigured_verify : Starts Op.verifyConfig 1 (verC 64) (withCmd (verC 64) base) ∧
    (parF (verC 64) 0 7 0 ≤ 40 ∧ 1 ≤ parF (verC 64) 0 10 8 ∧ parF (verC 64) 0 10 8 ≤ 4 ∧ 1 ≤ parF (verC 64) 1 23 16 ∧ parF (verC 64) 1 23 16 ≤ 64 ∧
      ∀ k, k < 8 → bits (parF (verC 64) 2 23 0) (3 * k + 2) (3 * k) ≤ 2) ∧
    Starts Op.verifyConfig 1 (verC 65) (withCmd (verC 65) base) ∧ ¬ parF (verC 65) 1 23 16 ≤ 64 :=
  ⟨starts_of (by decide +kernel), by decide +kernel, starts_of (by decide +kernel), by decide +kernel⟩

/-- SETTING_SET of sensor 7. -/
def setReqC (id : Nat) : Slot := cmdOf Op.settingSet [7, word id, 500, 256, 256]
theorem wit_SensorsAndSettings_SettingsApplyToFrames : (Starts Op.settingSet 1 (setReqC 0) (withCmd (setReqC 0) (sensAt 7 sensA base)) ∧ parF (setReqC 0) 1 15 0 = 0) ∧
    (Starts Op.settingSet 1 (setReqC 3) (withCmd (setReqC 3) base) ∧ (sensorOf (withCmd (setReqC 3) base) 7).on = false) ∧
    (Starts Op.settingSet 1 (setReqC 3) (withCmd (setReqC 3) (sensAt 7 sensA base)) ∧ parF (setReqC 3) 1 15 0 ≠ 0 ∧ parF (setReqC 3) 0 2 0 = 7 ∧
      (sensorOf (withCmd (setReqC 3) (sensAt 7 sensA base)) 7).on = true ∧
      setInWrite (withCmd (setReqC 3) (sensAt 7 { sensA with sets := [{ id := 2 }] } base)) ≠ none) ∧
    (let s := sensAt 7 { sensA with sets := [{ id := 2, apply := some 5 }, { id := 3, cid := 1 }], frames := 4, k := 2 } base;
      setInWrite s = some (7, { id := 3, cid := 1 }) ∧ 5 = (sensorOf s 7).frames + (sensorOf s 7).k - 1) :=
  ⟨⟨starts_of (by decide +kernel), by decide +kernel⟩, ⟨starts_of (by decide +kernel), by decide +kernel⟩,
    ⟨starts_of (by decide +kernel), by decide +kernel⟩, by decide +kernel⟩

theorem wit_FramesComeAndGo_FramesAreReceived : domOn base 11 = true ∧ sensorAt base 0 3 = none ∧ sensorAt (sensAt 7 sensA base) 0 0 = some 7 ∧ sensorAt (sensAt 7 sensA base) 0 4 = none ∧
    (let f : VisFrame := { sensor := 7, raw := List.replicate 15 [] }; let x := { sensA with cur := some f };
      sensorAt (sensAt 7 x base) 0 0 = some 7 ∧ (sensorOf (sensAt 7 x base) 7).cur = some f ∧ (List.replicate 64 0).length = x.width ∧ f.raw.length < x.height) ∧
    (let f : VisFrame := { sensor := 7, raw := List.replicate 16 [] }; (sensorOf (sensAt 7 { sensA with cur := some f } base) 7).cur = some f ∧ sensA.height ≤ f.raw.length) ∧
    (sensorOf (sensAt 7 sensA base) 7).cur = none := by decide +kernel

theorem wit_FramesComeAndGo_FramesAreUsed : (let c := cmdOf Op.imageCapture [8, 1, 14]; Starts Op.imageCapture 1 c (withCmd c base) ∧ 8 ≤ parN c 0) ∧
    (let c := cmdOf Op.imageCapture [7, 1, 3]; Starts Op.imageCapture 1 c (withCmd c base) ∧ parN c 0 < 8 ∧ parN c 1 ≠ 0 ∧ outRing (withCmd c base) (parN c 2) = false) ∧
    (let c := cmdOf Op.imageCapture [7, 1, 14]; Starts Op.imageCapture 1 c (withCmd c base) ∧ parN c 0 < 8 ∧ parN c 1 ≠ 0 ∧ outRing (withCmd c base) (parN c 2) = true) ∧
    (let s := { base with vis.pulses := base.vis.pulses.set 15 (some 9) }; s.vis.pulses[(15 : Fin 16)] = some 9 ∧ 9 + 1000 ≤ (advance 1009 s).now ∧ (advance 1008 s).now < 9 + 1000) ∧
    (let f : VisFrame := { sensor := 7, frame := 3 }; let s := { base with vis.frames := [{ sensor := 7, done := true }, f] };
      s.vis.frames.find? (fun f => f.sensor == (7 : Fin 8).val && !f.done) = some f) :=
  ⟨⟨starts_of (by decide +kernel), by decide +kernel⟩, ⟨starts_of (by decide +kernel), by decide +kernel⟩, ⟨starts_of (by decide +kernel), by decide +kernel⟩,
    by decide +kernel, by decide +kernel⟩

/-! ### Witnesses: single rules and the machine as a whole -/

theorem wit_ZPulsesCheckTheRevolution : (let s := { base with mot.enc := upd base.mot.enc 3 fun x => { x with zPos := some 0, pos := 4003 }, mot.cfg.cpr := base.mot.cfg.cpr.set 3 4000 };
      s.mot.enc[(3 : Fin 4)].zPos = some 0 ∧ 4003 = (s.mot.enc[(3 : Fin 4)].pos - 0).natAbs ∧ s.mot.cfg.cpr[(3 : Fin 4)] ≠ 0 ∧ s.mot.cfg.cpr[(3 : Fin 4)] + 2 < 4003) ∧
    (let s := { base with mot.enc := upd base.mot.enc 3 fun x => { x with zPos := some 0, pos := -3998 }, mot.cfg.cpr := base.mot.cfg.cpr.set 3 4000 };
      3998 = (s.mot.enc[(3 : Fin 4)].pos - 0).natAbs ∧ s.mot.cfg.cpr[(3 : Fin 4)] ≠ 0 ∧ 3998 ≤ s.mot.cfg.cpr[(3 : Fin 4)] + 2 ∧ s.mot.cfg.cpr[(3 : Fin 4)] ≤ 3998 + 2) ∧
    base.mot.enc[(3 : Fin 4)].zPos = none := by decide +kernel

theorem wit_UrgentOpcodesOnly : ({ cmdOf Op.wellRead [0, 64, 14] with prio := 3 } : Slot).prio = 3 ∧ Op.wellRead ≠ Op.status ∧ Op.wellRead ≠ Op.abortTag ∧
    Op.wellRead ≠ Op.firePermit ∧ Op.wellRead ≠ Op.twinYield ∧ Op.wellRead ≠ Op.zeroise ∧ ({ cmdOf Op.zeroise [] with prio := 3 } : Slot).op = Op.zeroise := by decide

/-- Input 5 with a burst that started at 9, its line boundaries, and where it was blanked last. -/
def blankBase (at_ : Option Nat) : State := { base with mot.bounds := [(5, 101), (2, 100)], mot.pds := upd base.mot.pds 5 fun p =>
  { p with cfg := { p.cfg with enable := true, falling := false, blank := 10, debounce := 50 }, burst := some 9, level := true, held := false, lastAt := 9, blankAt := at_ } }
theorem wit_BlankedEdgesAreIgnored (at_ : Option Nat) : let s := blankBase at_;
    s.mot.pds[(5 : Fin 8)].burst = some 9 ∧ s.mot.pds[(5 : Fin 8)].lastAt + (pdSettings s.mot.pds[(5 : Fin 8)] 9).debounce ≤ (advance 59 s).now ∧ 101 = lineAt s 9 ∧
    s.mot.pds[(5 : Fin 8)].behind = false ∧ (pdSettings s.mot.pds[(5 : Fin 8)] 9).enable = true ∧ s.mot.pds[(5 : Fin 8)].level ≠ s.mot.pds[(5 : Fin 8)].held ∧
    (s.mot.pds[(5 : Fin 8)].level = !(pdSettings s.mot.pds[(5 : Fin 8)] 9).falling) ∧ (pdSettings s.mot.pds[(5 : Fin 8)] 9).blank = 10 ∧ s.mot.pds[(5 : Fin 8)].blankAt = at_ := by
  refine ⟨rfl, ?_, rfl, rfl, rfl, Bool.noConfusion, rfl, rfl, rfl⟩
  show 9 + 50 ≤ 59; decide
theorem wit_BlankedEdgesAreIgnored_bounds : (92 ≤ 101 ∧ 101 < 92 + 10) ∧ (101 ≤ 101 ∧ 101 < 101 + 10) ∧ 91 + 10 ≤ 101 := by decide

/-- A state whose next command ends in a next state, for the statements of every step. -/
theorem wit_StepsNeverGoBack : ∃ t, Machine.step { base with pending := [.abortTag 7 3] } = .next t := ⟨_, rfl⟩
theorem wit_StepsKeepMemoryCanonical : MemoryCanonical { base with pending := [.abortTag 7 3], well.mem := [(64, 1), (65, 2)] } ∧
    ∃ t, Machine.step { base with pending := [.abortTag 7 3], well.mem := [(64, 1), (65, 2)] } = .next t := ⟨by show Memory.wf _ = true; decide +kernel, _, rfl⟩
theorem wit_StepsKeepSlotsInOrder : SlotsInOrder { withCmd (cmdOf Op.status []) base with pending := [.status 7 1] } ∧
    ∃ t, Machine.step { withCmd (cmdOf Op.status []) base with pending := [.status 7 1] } = .next t :=
  ⟨⟨by decide, by simp [withCmd, cmdOf], by decide⟩, _, rfl⟩

/-! ### Worked examples of the spec -/

/-- "Activating a job over UDP" (R27): the words of the packet, and its first bytes. -/
def exPacket : List W64 := [0x0202150201000123, 0x00002A7C00000000, 7, 0x989680]
theorem test_packet_fields : (let c := slotOfPacket .ring0 0 exPacket; c.op = Op.jobActivate ∧ c.tag = 5 ∧ c.prio = 1 ∧ c.seq = 0x123 ∧ c.session = 0x2A7C ∧
    c.srcNode = 0 ∧ c.bcast = false ∧ c.params = [7, 10000000]) ∧ (wordsBytes exPacket).take 8 = [0x23, 0x01, 0x00, 0x01, 0x02, 0x15, 0x02, 0x02] := by decide +kernel
/-- "A bottling-line track": p8 of MOTION_CONFIG (R96). -/
theorem test_motion_config_input : pdCfgOf (cmdOf Op.motionConfig (List.replicate 8 0 ++ [0x000096000EC07D01])) 0 =
    { enable := true, falling := false, debounce := 2000, lead := 236, blank := 150 } := by decide +kernel
/-- "A fail-safe gate" (R113): p0 of REJECT_POLICY. -/
theorem test_gate_word : gateWord 0x008E012745010019 =
    { mask := 0x19, tracks := 1, enable := true, activeLow := false, failSafe := true, offset := 4724, length := 142 } := by decide +kernel
/-- The gate window of the bottle detected at 5,000,177, first line 5,000,413. -/
theorem test_gate_window : (let w := Machine.gateWindow (gateWord 0x008E012745010019) 5000413 false 1; (w.start, w.stop)) = (5005137, 5005279) := by decide +kernel

/-- "Decoding a small block" (R124 to R131). -/
def exPayload : List Byte := [0x03, 0x41, 0x42, 0x43, 0x44, 0x4A, 0x03, 0x00, 0x95, 0x20]
def exOutput : List Byte := [0x41, 0x42, 0x43, 0x44, 0x41, 0x42, 0x43, 0x44, 0x41, 0x42, 0x43, 0x44, 0x41, 0x42, 0x43, 0x44, 0x41, 0x42] ++ List.replicate 22 0x20
theorem test_sheaf_block : (decodeBlock (wordsBytes [0x0000002800A15346, word (10 + put (crc32c exOutput) 32)] ++ exPayload ++ List.replicate 6 0) 2 65536 none).toOption =
    some exOutput := by decide +kernel
/-- "A tile of constant tone" (R139): the header word, the table's offset of entry 15, one segment. -/
theorem test_tile_header : (let h := sheafHead (wordsBytes ([0x000100000F215346, 0x40] ++ (List.range 16).map fun k => word (4 * k)));
    h.raw = false ∧ h.last = true ∧ h.kind = 0 ∧ h.segs = 16 ∧ h.outSize = 65536 ∧ h.inSize = 64 ∧ h.lead = 144 ∧ h.total = 208 ∧ (h.table.getD 15 (0, 0)).1 = 60) := by decide +kernel
theorem test_tile_token : ((readToken [0xBF, 0xC0, 0x0F, 0x80]).toOption.map fun t => (t.kind, t.len, t.arg, t.taken)) = some (2, 4096, 0x80, 4) := by decide +kernel

/-- "One dose word and its sideband" (R163). -/
theorem test_sideband : sideband 0x000000999999000000 = 0x3C := by decide +kernel

/-- "The full-width carton press": 16 rows of 16,384 channels at 96,000 lines/s. -/
def carton (rate : Nat) : Job := { desc := { id := 1, maxRate := rate, rows := (List.range 16).map fun k => { stall := k, count := 16384 }, tracks := [{}] } }
/-- "Jobs must fit the Mill" (R168) and the year 6 example: 14 pairs, and 13 at 89,263 lines/s. -/
theorem test_pairs_needed : pairsNeeded (carton 96000) = 14 ∧ pairsNeeded (carton 89263) = 13 := by decide +kernel
/-- "The budget at both ends of use" (R25, R111): 57 lines for the press, 3 for the coder; 106 over 1,999 hops (R371). -/
theorem test_minimum_lead : leadFor base (carton 96000) [{ debounce := 2000 }] 0 = 57 ∧
    leadFor { base with ura.trigAllow := 510000, ura.remotes := [{ local_ := 0, enable := true }] } (carton 96000) [{ debounce := 2000 }] 0 = 106 ∧
    leadFor { base with twn.bound := true, twn.latency := 250 } { desc := { maxRate := 7087, rows := [{ count := 512 }], tracks := [{}] } } [{ debounce := 2000 }] 0 = 3 := by
  decide +kernel

/-- "A seam on a label press" (R179, R180). -/
def exZone : Zone := { stallA := 0, rowA := 0, stallB := 1, rowB := 0, za := 159722, zb := 163787, shift := 64 }
theorem test_seam : seamAt (List.replicate 840 0 ++ [77]) 2000000 [] exZone = 160944 := by decide +kernel
theorem test_seam_masks : (let m (st : Nat) (u : Int) := seamMasks [(exZone, 160944)] { stall := st, row := 0, chan := 0, u := u }
    (m 0 160906, m 0 160970, m 1 160938, m 1 161002)) = (false, true, true, false) := by decide +kernel

/-- "Correction on the bottling coder" (R245): class 9 at grid point (11, 13). -/
def exHead : List Byte := wordsBytes (List.replicate 11 0 ++ [word (60 + put 200 10 + put 750 20)] ++ List.replicate 188 0 ++ [word (put 4301 32 + put 4178 48)])
theorem test_pulse_correction : pulseWidths exHead 11 13 9 = (63, 200, 765) := by decide +kernel
/-- "The element limit at the two ends" (R248). -/
theorem test_element_limit : elemLimit { rate := 96000 } = 81 ∧ elemLimit { rate := 8000 } = 6 := by decide +kernel
/-- "A surge on the bottling coder" (R251): F2 fires alone, F3 folds. -/
def surge (now prev tPrev : Nat) : State := { base with now := now, mot.bounds := [(now, 2), (prev, 1)], stl := upd base.stl 0 fun x => { x with cfg.rate := 8000, tPrev := some tPrev } }
theorem test_fold : folds (surge 105263 0 125000) 0 2 = false ∧ folds (surge 210526 105263 250000) 0 3 = true := by decide +kernel

/-- "With `utc_offset` 37" (R351). -/
theorem test_utc : utcAt { base with time.utc.offset := 37 } 1790000037 = 1790000000 := by decide +kernel
/-- "A custom CRC on unit 3" (R441, R443): CRC-16/ARC over "123456789". -/
theorem test_crc16_arc : crc { width := 16, poly := 0x8005, init := 0, xorout := 0 } [0x31, 0x32, 0x33, 0x34, 0x35, 0x36, 0x37, 0x38, 0x39] = 0xBB3D := by decide +kernel
/-- "One entry of a density run" (R495). -/
def exTable : List Byte := wordsBytes (List.replicate 28 0 ++ [1800, 0, 0, 0, 2050])
theorem test_density_entry : newTarget exTable [3600, 3400, 3200, 3000, 2800, 2600, 2300, 2100, 1920, 1700, 1500, 1300, 1100, 900, 700, 500, 400] 128 = 1948 := by decide +kernel

/-! ### The queue -/

/-- The front command runs on the rest; an empty queue idles. -/
theorem test_step_order : Machine.step { State.reset with pending := [.witnessEdge 7, .witnessSilent 9] } = Machine.exec (.witnessEdge 7) { State.reset with pending := [.witnessSilent 9] } := by rfl
theorem test_step_idle : Machine.step State.reset = .next State.reset := by rfl
/-- The table gives its rows no bits, so no word spells a command. -/
theorem test_no_words : decodeTableWord 16 0x1234 = none ∧ State.reset.withFetchWord 16 0x1234 = State.reset := ⟨rfl, rfl⟩

/-! ### Ill-formed commands are refused by `wf` -/

/-- A verdict whose header has a given length, its image read or not. -/
def verdictOf (n : Nat) (read : Bool) : ImgVerdict := { readOk := read, header := List.replicate n 0, rootOk := true, ecdsaOk := true, mldsaOk := true, bodyOk := true }
theorem test_wf_header : wf (.imageStage 0 1 (verdictOf 87 true)) = false ∧ wf (.imageStage 0 1 (verdictOf 88 true)) = true ∧ wf (.imageActivate 0 1 (verdictOf 0 false)) = true ∧
    wf (.bootImageVerified 0 (verdictOf 88 true) (verdictOf 1 true)) = false := by decide
theorem test_wf_segment : wf (.segmentDecode 0 0 { plane := 8, col := 0, row := 0, seg := 0, input := 0 }) = false ∧
    wf (.segmentDecode 0 0 { plane := 7, col := 0, row := 0, seg := 0, input := 0 }) = true ∧
    wf (.segmentDecodeComplete 0 0 { plane := 7, col := 0, row := 0, seg := 0, input := 0 } (some 256)) = false := by decide
theorem test_wf_result : wf (.sliceResultComplete 0 5 31 (.absent 8)) = false ∧ wf (.sliceResultComplete 0 5 31 (.absent 7)) = true := by decide
theorem test_wf_equalizer : wf (.adaptDone 0 35 40 16 0 [0, 0, 0, 0, 0, 0]) = false ∧ wf (.adaptDone 0 35 40 15 31 [0, 0, 0, 0, 0]) = false ∧
    wf (.adaptDone 0 35 40 15 31 [0, 0, 0, 0, 0, 128]) = false ∧ wf (.adaptDone 0 35 1024 15 31 [0, 0, 0, 0, 0, 127]) = false ∧
    wf (.adaptDone 0 35 1023 15 31 [0, 0, 0, 0, 0, -128]) = true := by decide
theorem test_wf_row : wf (.wellRepairWindow 0 { ch := 1, rank := 2, bg := 0, bank := 0, row := 0, dev := 0 } true) = false ∧
    wf (.wellRepairWindow 0 { ch := 1, rank := 1, bg := 8, bank := 0, row := 0, dev := 0 } true) = false ∧
    wf (.wellRepairWindow 0 { ch := 1, rank := 1, bg := 7, bank := 4, row := 0, dev := 0 } true) = false ∧
    wf (.wellRepairWindow 0 { ch := 1, rank := 1, bg := 7, bank := 3, row := 2 ^ 17, dev := 0 } true) = false ∧
    wf (.wellRepairWindow 0 { ch := 1, rank := 1, bg := 7, bank := 3, row := 0, dev := 20 } true) = false ∧
    wf (.wellRepairWindow 0 { ch := 1, rank := 1, bg := 7, bank := 3, row := 0, dev := 19 } true) = true := by decide
theorem test_wf_grade : wf (.imageGraded 0 1 2 7 (.patches 1 (List.replicate 16 0))) = false ∧ wf (.imageGraded 0 1 2 7 (.patches 1 (List.replicate 17 0))) = true := by decide
theorem test_wf_head_station : wf (.headStatusReceive 0 23 [0, 0, 0, 0] 9) = false ∧ wf (.headStatusReceive 0 23 [0, 0, 0, 0, 0] 65536) = false ∧
    wf (.headNakReceive 0 23 65535 256) = false ∧ wf (.headAckReceive 0 23 65536) = false ∧ wf (.headResistReceive 0 23 17408 1 1) = false := by decide
theorem test_wf_link : wf (.announceReceive 0 26 2048 0 0 0) = false ∧ wf (.announceReceive 0 26 2047 0 4 0) = false ∧ wf (.announceReceive 0 26 2047 0 3 36) = false ∧
    wf (.announceReceive 0 26 2047 0 3 35) = true ∧ wf (.uraraPacketReceive 0 26 256 [0, 0]) = false ∧ wf (.uraraPacketReceive 0 26 0x4A [0]) = false ∧
    wf (.leaseAckReceive 0 5 7) = false ∧ wf (.timeSend 0 2048) = false := by decide
theorem test_wf_upkeep : wf (.ledgerScrub 0 4096 false none) = false ∧ wf (.sramScrub 0 3072 0 false false) = false ∧ wf (.sramScrub 0 3071 512 false false) = false ∧
    wf (.sramScrub 0 3071 511 false false) = true ∧ wf (.deviceFaultClear 0 0x8000) = false := by decide
theorem test_wf_network : wf (.arpRequestReceive 0 0 (2 ^ 32) 0) = false ∧ wf (.routerAdvertReceive 0 1 (2 ^ 48)) = false ∧ wf (.uraraReplyReceive 0 [0, 0]) = false ∧
    wf (.csiLongPacket 0 0 0 64 true []) = false ∧ wf (.csiLongPacket 0 0 0 0x2B true [4096]) = false := by decide

end Sys2Proof.Tests
end

section
/-!
What shared operations leave alone: the end of a command, events and interrupts, and the settling of commands, permits and writes.
-/
namespace Sys2Proof.Machine

/-! ### Folds -/

/-- What one step of a fold keeps between its states, the whole fold keeps. -/
theorem foldl_rel {α : Type} {R : State → State → Prop} (hrefl : ∀ s, R s s) (htrans : ∀ {s t u}, R s t → R t u → R s u) {g : State → α → State}
    (hg : ∀ s a, R s (g s a)) (l : List α) (s : State) : R s (l.foldl g s) := by
  induction l generalizing s with
  | nil => exact hrefl s
  | cons a l ih => exact htrans (hg s a) (ih (g s a))

/-- A field that no step of a fold changes. -/
theorem foldl_keeps {α β : Type} (π : State → β) {g : State → α → State} (hg : ∀ s a, π (g s a) = π s) (l : List α) (s : State) :
    π (l.foldl g s) = π s :=
  foldl_rel (R := fun s t => π t = π s) (fun _ => rfl) (fun h k => k.trans h) hg l s

/-! ### The end of a command -/

@[simp] theorem finish_job (cid status fault : Nat) (ws : List W64) (s : State) : (finish cid status fault ws s).job = s.job := by rw [finish_frame]
@[simp] theorem finish_kry (cid status fault : Nat) (ws : List W64) (s : State) : (finish cid status fault ws s).kry = s.kry := by rw [finish_frame]
@[simp] theorem finish_mil (cid status fault : Nat) (ws : List W64) (s : State) : (finish cid status fault ws s).mil = s.mil := by rw [finish_frame]
@[simp] theorem finish_well (cid status fault : Nat) (ws : List W64) (s : State) : (finish cid status fault ws s).well = s.well := by rw [finish_frame]
@[simp] theorem finish_mot (cid status fault : Nat) (ws : List W64) (s : State) : (finish cid status fault ws s).mot = s.mot := by rw [finish_frame]
@[simp] theorem finish_prod (cid status fault : Nat) (ws : List W64) (s : State) : (finish cid status fault ws s).prod = s.prod := by rw [finish_frame]
@[simp] theorem finish_led (cid status fault : Nat) (ws : List W64) (s : State) : (finish cid status fault ws s).led = s.led := by rw [finish_frame]
@[simp] theorem finish_pwr (cid status fault : Nat) (ws : List W64) (s : State) : (finish cid status fault ws s).pwr = s.pwr := by rw [finish_frame]

theorem handedOver_ended (cid status : Nat) (s : State) : Ended cid status (handedOver cid s) := by
  intro x hx hcid
  rw [handedOver_slots] at hx
  simp [hcid] at hx

/-- The slots of a command whose reply is committed, whatever becomes of the reply. -/
theorem ended_of_committed {cid status : Nat} {ws : List W64} {l : List Slot} {s : State}
    (h : s.cmd.slots = mapWhere (fun x => x.cid == cid) (fun x => { x with phase := .committed, status := status, reply := ws }) l) :
    Ended cid status s := by
  intro x hx hcid
  rw [h] at hx
  obtain ⟨y, -, rfl⟩ := List.mem_map.1 hx
  split
  · exact ⟨rfl, rfl⟩
  · next hne => rw [if_neg hne] at hcid; simp [hcid] at hne

theorem finish_ended (cid status fault : Nat) (results : List W64) (s : State) : Ended cid status (finish cid status fault results s) := by
  unfold finish
  split
  · next hnone => exact fun x hx hcid => absurd hcid (by simpa using List.find?_eq_none.1 hnone x hx)
  · next c _ =>
    split
    · exact handedOver_ended _ _ _
    · dsimp only
      split
      · exact handedOver_ended _ _ _
      · exact ended_of_committed rfl
      · exact ended_of_committed rfl
      · split
        · exact ended_of_committed (sendReply_slots _ _ _ _ _)
        · exact handedOver_ended _ _ _

/-! ### What settling leaves alone -/

/-- What the settling of commands, permits, records, products and writes leaves as it was: power, heat, the Krynto core, the Well, motion, the queue and the active faults. -/
structure Settles (s t : State) : Prop where
  pwr : t.pwr = s.pwr
  thm : t.thm = s.thm
  kry : t.kry = s.kry
  well : t.well = s.well
  mot : t.mot = s.mot
  pending : t.pending = s.pending
  active : t.flt.active = s.flt.active

theorem Settles.refl (s : State) : Settles s s := ⟨rfl, rfl, rfl, rfl, rfl, rfl, rfl⟩

theorem Settles.trans {s t u : State} (h : Settles s t) (k : Settles t u) : Settles s u :=
  ⟨k.pwr.trans h.pwr, k.thm.trans h.thm, k.kry.trans h.kry, k.well.trans h.well, k.mot.trans h.mot, k.pending.trans h.pending,
    k.active.trans h.active⟩

/-- The last operation first, for an operation that is named after fields have changed. -/
theorem Settles.after {s t u : State} (k : Settles t u) (h : Settles s t) : Settles s u := h.trans k

theorem Settles.foldl {α : Type} {g : State → α → State} (hg : ∀ s a, Settles s (g s a)) (l : List α) (s : State) :
    Settles s (l.foldl g s) := foldl_rel .refl .trans hg l s

theorem advance_settles (t : Nat) (s : State) : Settles s (advance t s) := ⟨rfl, rfl, rfl, rfl, rfl, rfl, rfl⟩

theorem finish_settles (cid status fault : Nat) (results : List W64) (s : State) : Settles s (finish cid status fault results s) := by
  rw [finish_frame]; exact ⟨rfl, rfl, rfl, rfl, rfl, rfl, rfl⟩

theorem uraraSend_settles (dest type : Nat) (ws : List W64) (s : State) : Settles s (uraraSend dest type ws s) := by
  rw [uraraSend_frame]; exact ⟨rfl, rfl, rfl, rfl, rfl, rfl, rfl⟩

theorem modStall_settles (k : Nat) (f : Stall → Stall) (s : State) : Settles s (modStall k f s) := by
  constructor <;> simp

/-! ### Permits -/

theorem settlePermits_settles (s : State) : Settles s (settlePermits s) := by
  unfold settlePermits
  refine .foldl (fun s c => ?_) _ s
  split
  · exact finish_settles _ _ _ _ s
  · exact .refl s

theorem dropPermits_settles (s : State) : Settles s (dropPermits s) :=
  (Settles.foldl (fun s k => modStall_settles k _ s) _ s).trans (settlePermits_settles _)

theorem releaseAll_settles (s : State) : Settles s (releaseAll s) :=
  (settlePermits_settles _).after ⟨rfl, rfl, rfl, rfl, rfl, rfl, rfl⟩

end Sys2Proof.Machine
end

section
/-!
Lemmas about the check of R13, and the statement about a job that passed it.
-/
namespace Sys2Proof.Machine

/-- What the check of R13 asks of the tile at an address. -/
def TileClean (s : State) (j : Job) (addr : Nat) : Prop :=
  (j.key = 0 ∨ (j.clear.find? (fun x => x.1 == addr)).isSome = true) ∧ tileReadable s j addr = true ∧
    (∃ tile, decodeTile (tileBlock s j addr) = .ok tile) ∧ tileCycles (tileBlock s j addr) ≤ 2048

theorem checkTile_passed {j : Job} {addr : Nat} {s s' : State} (h : checkTile j addr s = (true, s')) :
    s' = s ∧ (addr ≠ 0 → TileClean s j addr) := by
  unfold checkTile at h
  split at h
  · next h0 => cases h; exact ⟨rfl, fun hne => absurd h0 hne⟩
  · split at h
    · cases h
    · next hopen =>
      split at h
      · cases h
      · next hread =>
        dsimp only at h
        split at h
        · cases h
        · next tile hdec =>
          split at h
          · cases h
          · next hcyc =>
            cases h
            refine ⟨rfl, fun _ => ⟨?_, by simpa using hread, ⟨tile, hdec⟩, Nat.le_of_not_lt hcyc⟩⟩
            by_cases hkey : j.key = 0
            · exact .inl hkey
            · exact .inr (Option.isSome_iff_ne_none.2 fun hnone => hopen ⟨hkey, Option.isNone_iff_eq_none.2 hnone⟩)

theorem checkTiles_passed {j : Job} {ts : List Tile} {s s' : State} (h : checkTiles j ts s = (true, s')) :
    s' = s ∧ ∀ e ∈ ts, e.addr ≠ 0 → TileClean s j e.addr := by
  induction ts with
  | nil => cases h; exact ⟨rfl, by simp⟩
  | cons t ts ih =>
    rw [checkTiles] at h
    split at h
    · next s1 ht =>
      obtain ⟨rfl, hclean⟩ := checkTile_passed ht
      obtain ⟨hs, hrest⟩ := ih h
      exact ⟨hs, List.forall_mem_cons.2 ⟨hclean, hrest⟩⟩
    · cases h

theorem checkArrays_valid {as : List Nat} {s s' : State} {l : List (Nat × Nat)} (h : checkArrays as s = (some l, s')) :
    s' = s ∧ ∀ a ∈ as, ∃ v, arrayCrc s a = some v ∧ (a, v) ∈ l := by
  induction as generalizing l with
  | nil => cases h; exact ⟨rfl, by simp⟩
  | cons a as ih =>
    rw [checkArrays] at h
    split at h
    · cases h
    · next v hv =>
      split at h
      · next l' s1 hrest =>
        cases h
        obtain ⟨hs, hin⟩ := ih hrest
        refine ⟨hs, List.forall_mem_cons.2 ⟨⟨v, hv, List.mem_cons_self⟩, fun b hb => ?_⟩⟩
        obtain ⟨w, hw, hmem⟩ := hin b hb
        exact ⟨w, hw, List.mem_cons_of_mem _ hmem⟩
      · cases h

theorem thresh_mem_arrayAddrs {d : JobDesc} {p : Plane} (hp : p ∈ d.planes) : p.thresh ∈ arrayAddrs d :=
  List.mem_eraseDups.2 (List.mem_map_of_mem hp)

/-- Settles O14: a check that passed took the passing branch at each tile and each array, and those branches hand the state on. -/
theorem passedJobIsClean : Obligations.PassedJobIsClean := by
  intro j s h
  unfold checkJob at h ⊢
  split at h
  · cases h
  · next s1 htiles =>
    obtain ⟨rfl, hclean⟩ := checkTiles_passed htiles
    split at h
    · cases h
    · next l s2 harrays =>
      obtain ⟨rfl, hvalid⟩ := checkArrays_valid harrays
      exact ⟨hclean, fun p hp => hvalid _ (thresh_mem_arrayAddrs hp), rfl⟩

end Sys2Proof.Machine
end

section
/-!
The saves before a reset, what a reset leaves, and the statement about the resets.
-/
namespace Sys2Proof.Machine

/-! ### The saves before a reset (R522) -/

theorem countWrite_settles (phys : Nat) (s : State) : Settles s (countWrite phys s) := by
  unfold countWrite failSector
  dsimp only
  repeat' split
  all_goals exact ⟨rfl, rfl, rfl, rfl, rfl, rfl, rfl⟩

theorem writeDurable_settles (w : LWrite) (s : State) : Settles s (writeDurable w s) := by
  unfold writeDurable
  cases w with
  | cal item => exact ⟨rfl, rfl, rfl, rfl, rfl, rfl, rfl⟩
  | part n kind =>
    dsimp only
    split
    · exact (uraraSend_settles _ _ _ _).after ⟨rfl, rfl, rfl, rfl, rfl, rfl, rfl⟩
    · exact ⟨rfl, rfl, rfl, rfl, rfl, rfl, rfl⟩

theorem finishWrite_settles (s : State) : Settles s (finishWrite s) := by
  unfold finishWrite
  split
  · exact .refl s
  · have hpop : ∀ u : State, Settles u (popWrite u) := fun _ => ⟨rfl, rfl, rfl, rfl, rfl, rfl, rfl⟩
    exact ((countWrite_settles _ s).trans (hpop _)).trans (writeDurable_settles _ _)

/-- The state whose numbers R522 saves: before the configuration region is read none are. -/
def numbersSaved (s : State) : State := if s.pwr.stage < 5 ∨ s.pwr.bootError ≠ 0 then s else saveNumbers (finishWrite s)

/-- A channel that works goes into self-refresh. -/
def chanSleeps (ch : Fin 2) (s : State) : State := if s.well.chans[ch].state == 1 then selfRefresh ch s else s

theorem chanSleeps_mot (ch : Fin 2) (s : State) : (chanSleeps ch s).mot = s.mot := by
  unfold chanSleeps; split <;> rfl

theorem chanSleeps_pending (ch : Fin 2) (s : State) : (chanSleeps ch s).pending = s.pending := by
  unfold chanSleeps; split <;> rfl

theorem powerSaves_eq (s : State) : powerSaves s = chanSleeps 1 (chanSleeps 0 (numbersSaved s)) := rfl

theorem saveNumbers_cfg (s : State) : (saveNumbers s).mot.cfg = s.mot.cfg := rfl
theorem saveNumbers_pending (s : State) : (saveNumbers s).pending = s.pending := rfl
theorem saveNumbers_saves (s : State) : (saveNumbers s).mot.savedLine = s.mot.line ∧ (saveNumbers s).mot.savedProd = s.mot.nextProd := ⟨rfl, rfl⟩

theorem powerSaves_cfg (s : State) : (powerSaves s).mot.cfg = s.mot.cfg := by
  rw [powerSaves_eq, chanSleeps_mot, chanSleeps_mot, numbersSaved]
  split
  · rfl
  · rw [saveNumbers_cfg, (finishWrite_settles s).mot]

theorem powerSaves_pending (s : State) : (powerSaves s).pending = s.pending := by
  rw [powerSaves_eq, chanSleeps_pending, chanSleeps_pending, numbersSaved]
  split
  · rfl
  · rw [saveNumbers_pending, (finishWrite_settles s).pending]

theorem powerSaves_saves {s : State} (hstage : 5 ≤ s.pwr.stage) (herr : s.pwr.bootError = 0) :
    (powerSaves s).mot.savedLine = s.mot.line ∧ (powerSaves s).mot.savedProd = s.mot.nextProd := by
  rw [powerSaves_eq, chanSleeps_mot, chanSleeps_mot, numbersSaved, if_neg (by omega), ← (finishWrite_settles s).mot]
  exact saveNumbers_saves _

/-! ### What a reset leaves (R526) -/

theorem resetBlock_afterReset {old s : State} (cold : Bool) (hcfg : s.mot.cfg = old.mot.cfg) (hpend : s.pending = old.pending) :
    AfterReset old (resetBlock cold s) := by
  refine ⟨rfl, rfl, rfl, rfl, ⟨fun g => ?_, fun n => ?_, fun k => ?_⟩, hcfg, hpend⟩
  · show (Vector.replicate 4 ({} : Gate))[g].output = none
    simp
  · show (s.stl.map (keptStall cold))[n].permit = false
    simp [keptStall]
  · show (Vector.replicate 2 ({} : PpsOut))[k].driven = false
    simp

theorem startBoot_afterReset {old s : State} {cause : ResetCause} (h : AfterReset old s) : AfterReset old (startBoot cause s) := h

theorem resetBlock_savedLine (cold : Bool) (s : State) : (resetBlock cold s).mot.savedLine = s.mot.savedLine := rfl
theorem resetBlock_savedProd (cold : Bool) (s : State) : (resetBlock cold s).mot.savedProd = s.mot.savedProd := rfl

/-- A reset after the saves of R522, from a state that settling has reached. -/
theorem resetBlock_powerSaves {old s : State} (cold : Bool) (h : Settles old s) :
    AfterReset old (resetBlock cold (powerSaves s)) ∧
      (5 ≤ old.pwr.stage → old.pwr.bootError = 0 →
        (resetBlock cold (powerSaves s)).mot.savedLine = old.mot.line ∧ (resetBlock cold (powerSaves s)).mot.savedProd = old.mot.nextProd) := by
  refine ⟨resetBlock_afterReset cold (by rw [powerSaves_cfg, h.mot]) (by rw [powerSaves_pending, h.pending]), fun hstage herr => ?_⟩
  rw [← h.pwr] at hstage herr
  rw [← h.mot, resetBlock_savedLine, resetBlock_savedProd]
  exact powerSaves_saves hstage herr

/-! ### The commands and events that reset (R525 to R527) -/

theorem execReset_starts {t cid : Nat} {c : Slot} {s : State} (h : Starts Op.reset cid c s) :
    execReset t cid s = .next (startBoot (if parB c 0 0 then .cold else .warmCmd)
      (resetBlock (parB c 0 0) (powerSaves (dropPermits (startedAt t cid s))))) := onStart_starts h

theorem execResetPinAssert_short {t low : Nat} {s : State} (hlow : low < 1000) : execResetPinAssert t low s = .next (advance t s) := by
  simp [execResetPinAssert, onEvent, hlow]

theorem execResetPinAssert_resets {t low : Nat} {s : State} (hhigh : s.pwr.resetLow = false) (hlow : 1000 ≤ low) (htrip : s.pwr.tripHeld = false)
    (hnote : s.pwr.noticed = false) (hlost : s.pwr.powerLost = false) :
    execResetPinAssert t low s = .next (resetBlock false { advance t s with pwr.resetLow := true, pwr.cause := .resetPin }) := by
  simp [execResetPinAssert, onEvent, hhigh, htrip, hnote, hlost, Nat.not_lt.2 hlow]

theorem execWatchdogReset_due {t : Nat} {s : State} (htake : s.bgd.takeover = true) (hdue : s.bgd.takeAt + 100000000 ≤ (advance t s).now) :
    execWatchdogReset t s = .next (startBoot .watchdog (resetBlock false (advance t s))) := by
  simp [execWatchdogReset, onEvent, htake, hdue]

theorem execJunctionTrip_holds {t : Nat} {s : State} (hlost : s.pwr.powerLost = false) (htrip : s.pwr.tripHeld = false) :
    ∃ u, execJunctionTrip t s = .next { u with pwr.tripHeld := true } ∧ AfterReset s u ∧ u.thm.trips = s.thm.trips + 1 := by
  refine ⟨resetBlock false { advance t s with thm.trips := s.thm.trips + 1, thm.lastTrip := devSec (advance t s) % 2 ^ 32 },
    ?_, resetBlock_afterReset _ rfl rfl, rfl⟩
  simp [execJunctionTrip, onEvent, hlost, htrip]

theorem execPowerDownNotice_holds {t : Nat} {s : State} (hnote : s.pwr.noticed = false) (hlost : s.pwr.powerLost = false) :
    ∃ u, execPowerDownNotice t s = .next { u with pwr.noticed := true, pwr.railsAt := some u.now } ∧ AfterReset s u ∧
      (5 ≤ s.pwr.stage → s.pwr.bootError = 0 → u.mot.savedLine = s.mot.line ∧ u.mot.savedProd = s.mot.nextProd) := by
  refine ⟨resetBlock false (powerSaves (releaseAll (advance t s))), ?_, ?_⟩
  · simp [execPowerDownNotice, onEvent, hnote, hlost]
  · exact resetBlock_powerSaves (old := s) false ((releaseAll_settles _).after (advance_settles t s))

/-- What a loss of power leaves of AON where AON keeps a supply or loses it. -/
def aonAfterLoss (aonLost : Bool) (s : State) : State := if aonLost then aonLoss s else s

theorem aonAfterLoss_afterReset {old s : State} (aonLost : Bool) (h : AfterReset old s) : AfterReset old (aonAfterLoss aonLost s) := by
  unfold aonAfterLoss; split <;> exact h

theorem aonAfterLoss_mot (aonLost : Bool) (s : State) : (aonAfterLoss aonLost s).mot = s.mot := by
  unfold aonAfterLoss; split <;> rfl

theorem aonAfterLoss_powerLost {s : State} (aonLost : Bool) (h : s.pwr.powerLost = true) : (aonAfterLoss aonLost s).pwr.powerLost = true := by
  unfold aonAfterLoss aonLoss; split <;> simp [h]

theorem execUnannouncedPowerLoss_first {t : Nat} {aonLost : Bool} {s : State} (hlost : s.pwr.powerLost = false) :
    ∃ at_, execUnannouncedPowerLoss t aonLost s = .next (aonAfterLoss aonLost { resetBlock false (advance t s) with
      pwr.powerLost := true, pwr.railsAt := at_ }) := by
  refine ⟨some ((resetBlock false (advance t s)).pwr.railsAt.getD (resetBlock false (advance t s)).now), ?_⟩
  simp [execUnannouncedPowerLoss, onEvent, hlost, aonAfterLoss]

theorem execZeroiseReset_due {t : Nat} {s : State} (hlatch : s.kry.latch.isSome = true) (hcpu : domOn s 2 = true) :
    execZeroiseReset t s = .next (startBoot .tamper (resetBlock false (advance t s))) := by
  have hcpu' : domOn (advance t s) 2 = true := hcpu
  simp [execZeroiseReset, onEvent, hlatch, hcpu']

/-- Settles O31: every reset is `resetBlock`, which `AfterReset` describes, and those announced come after `powerSaves`. -/
theorem resetsClearTheBlock : Obligations.ResetsClearTheBlock := by
  refine ⟨fun t cid c s h => ?_, fun t s => ⟨fun low hhigh => ⟨fun hlow => execResetPinAssert_short hlow, fun hlow htrip hnote hlost => ?_⟩,
    fun htake hdue => ?_, fun hlost htrip => ?_, fun hnote hlost => ?_, fun aonLost hlost => ?_, fun hlatch hcpu => ?_⟩⟩
  · obtain ⟨hclear, hsaved⟩ := resetBlock_powerSaves (parB c 0 0) (dropPermits_settles (startedAt t cid s))
    exact ⟨_, execReset_starts h, startBoot_afterReset hclear, rfl, rfl, hsaved⟩
  · exact ⟨_, execResetPinAssert_resets hhigh hlow htrip hnote hlost, resetBlock_afterReset _ rfl rfl, rfl, rfl, rfl⟩
  · exact ⟨_, execWatchdogReset_due htake hdue, startBoot_afterReset (resetBlock_afterReset _ rfl rfl), rfl, rfl⟩
  · obtain ⟨u, heq, hclear, htrips⟩ := execJunctionTrip_holds (t := t) hlost htrip
    exact ⟨_, heq, hclear, rfl, htrips⟩
  · obtain ⟨u, heq, hclear, hsaved⟩ := execPowerDownNotice_holds (t := t) hnote hlost
    exact ⟨_, heq, hclear, rfl, hsaved⟩
  · obtain ⟨m, heq⟩ := execUnannouncedPowerLoss_first (t := t) (aonLost := aonLost) hlost
    refine ⟨_, heq, aonAfterLoss_afterReset _ (resetBlock_afterReset (old := s) false rfl rfl), aonAfterLoss_powerLost _ rfl, ?_, ?_, ?_⟩
    · rw [aonAfterLoss_mot]; rfl
    · rw [aonAfterLoss_mot]; rfl
    · rintro rfl; rfl
  · exact ⟨_, execZeroiseReset_due hlatch hcpu, startBoot_afterReset (resetBlock_afterReset _ rfl rfl), rfl, rfl, rfl⟩

end Sys2Proof.Machine
end

section
/-!
How jobs are loaded, checked, unloaded, activated and switched, and the statement about them.
-/
namespace Sys2Proof.Machine

/-! ### Loading (R13, R88, R89) -/

theorem withObject_reads {c : Slot} {addr n : Nat} {k : List Byte → State → State} {s : State} (hrange : rangeFailure s addr n = none)
    (hgood : poisoned s addr n = false) : withObject c addr n k s = k (wellRead s addr n) s := by
  simp only [withObject, hrange, hgood, Bool.false_eq_true, if_false]

/-- The key handle of a JOB_LOAD is none, or names a key of the job that has not expired (R428, R441). -/
def JobKeyServes (s : State) (handle job : Nat) : Prop :=
  handle = 0 ∨ (s.kry.jobKeys.filter (fun k => k.handle == handle && k.job == job) ≠ [] ∧
    ∀ k ∈ s.kry.jobKeys, k.handle = handle → k.job = job → k.notAfter = 0 ∨ utcNow s < k.notAfter)

theorem JobKeyServes.found {s : State} {handle job : Nat} (h : JobKeyServes s handle job) :
    ¬ (handle ≠ 0 ∧ (s.kry.jobKeys.filter fun k => k.handle == handle && k.job == job).isEmpty = true) := by
  rintro ⟨hne, hempty⟩
  obtain h0 | ⟨hfound, -⟩ := h
  · exact hne h0
  · exact hfound (List.isEmpty_iff.1 hempty)

theorem JobKeyServes.current {s : State} {handle job : Nat} (h : JobKeyServes s handle job) :
    ¬ (decide (handle ≠ 0) && (s.kry.jobKeys.filter fun k => k.handle == handle && k.job == job).any
      (fun k => k.notAfter != 0 && decide ((k.notAfter : Int) ≤ utcNow s))) = true := by
  obtain h0 | ⟨-, hall⟩ := h
  · simp [h0]
  · simp only [Bool.and_eq_true, List.any_eq_true, List.mem_filter, beq_iff_eq, bne_iff_ne, decide_eq_true_eq]
    rintro ⟨-, k, ⟨hk, hhandle, hjob⟩, hne, hle⟩
    rcases hall k hk hhandle hjob with h0 | hlt
    · exact hne h0
    · omega

theorem beginLoad_begins {c : Slot} {bs : List Byte} {d : JobDesc} {s : State} (hkey : JobKeyServes s (parN c 3) (parN c 0))
    (hd : parseJob bs (parN c 0) (hostEnd s) = some d) (hgeom : geometryOk s d.rows = true) (hclear : parN c 3 = 0 ∨ clearFull s d = false) :
    beginLoad c bs s = { s with
      job.loading := s.job.loading ++ [{ job := { desc := d, key := parN c 3 }, cid := c.cid, replacing := (jobOf s d.id).isSome }] } := by
  have hroom : (decide (parN c 3 ≠ 0) && clearFull s d) = false := by
    rcases hclear with h0 | hfull
    · simp [h0]
    · simp [hfull]
  simp only [beginLoad, if_neg hkey.found, if_neg hkey.current, hd, hgeom, hroom, Bool.not_true, Bool.false_eq_true, if_false]

theorem beginLoad_bad {c : Slot} {bs : List Byte} {s : State} (hkey : JobKeyServes s (parN c 3) (parN c 0))
    (hd : parseJob bs (parN c 0) (hostEnd s) = none) : beginLoad c bs s = refuse c Status.badJob s := by
  simp only [beginLoad, if_neg hkey.found, if_neg hkey.current, hd]

theorem execJobLoad_begins {t cid : Nat} {c : Slot} {s : State} (h : Starts Op.jobLoad cid c s) (hload : loadFailure s (parN c 0) = none)
    (hrange : rangeFailure s (parN c 1) (parN c 2) = none) (hgood : poisoned s (parN c 1) (parN c 2) = false) :
    execJobLoad t cid s = .next (beginLoad c (wellRead s (parN c 1) (parN c 2)) (startedAt t cid s)) := by
  have hload' : loadFailure (startedAt t cid s) (parN c 0) = none := hload
  have hrange' : rangeFailure (startedAt t cid s) (parN c 1) (parN c 2) = none := hrange
  have hgood' : poisoned (startedAt t cid s) (parN c 1) (parN c 2) = false := hgood
  refine (onStart_starts h).trans ?_
  simp only [hload', withObject_reads hrange' hgood']
  rfl

/-! ### The end of the check (R13, R89) -/

theorem execJobCheckComplete_ends {t : Nat} {clear : List Decrypted} {l : Loading} {s : State}
    (h : s.job.loading.find? (fun x => x.job.desc.id == l.job.desc.id) = some l) :
    execJobCheckComplete t l.job.desc.id clear s = .next (endLoad l clear (advance t s)) := by
  simp only [execJobCheckComplete, onEvent, advance_job, h]

/-- The job that the check of a loading job is made on: with the clear copies of its envelopes. -/
def jobToCheck (l : Loading) (clear : List Decrypted) : Job :=
  { l.job with clear := if l.job.key = 0 then [] else clear.filterMap fun e => e.clear.map fun b => (e.addr, b) }

/-- The state that a loading job has left. -/
def notLoading (id : Nat) (s : State) : State := { s with job.loading := s.job.loading.filter fun x => x.job.desc.id != id }

theorem endLoad_eq {l : Loading} {clear : List Decrypted} {j : Job} {s u : State}
    (h : checkJob (jobToCheck l clear) (notLoading l.job.desc.id s) = (j, u)) :
    endLoad l clear s =
      if !l.replacing then finish l.cid Status.done 0 [] (installJob j u)
      else if l.fate = 1 then finish l.cid Status.jobActive 0 [] u
      else if l.fate = 2 then finish l.cid Status.cancelled 0 [] u
      else if !j.passed then finish l.cid Status.jobNotReady 0 [] u
      else finish l.cid Status.done 0 [] (installJob j u) := by
  unfold jobToCheck notLoading at h
  simp only [endLoad, h]

theorem endLoad_installs {l : Loading} {clear : List Decrypted} {j : Job} {s u : State}
    (h : checkJob (jobToCheck l clear) (notLoading l.job.desc.id s) = (j, u)) (hin : l.replacing = false ∨ (l.fate = 0 ∧ j.passed = true)) :
    endLoad l clear s = finish l.cid Status.done 0 [] (installJob j u) := by
  rw [endLoad_eq h]
  rcases hin with hfirst | ⟨hfate, hpassed⟩
  · simp [hfirst]
  · simp [hfate, hpassed]

/-! ### Unloading (R574) -/

theorem execJobUnload_forgets {t cid : Nat} {c : Slot} {s : State} (h : Starts Op.jobUnload cid c s) (hjob : (jobOf s (parN c 0)).isSome = true)
    (hin : incoming s (parN c 0) = false) (hact : jobIsActive s (parN c 0) = false) (hbeg : s.job.activating = none) :
    execJobUnload t cid s = .next (finish c.cid Status.done 0 [] (unloadJob (parN c 0) (startedAt t cid s))) := by
  have hjob' : (jobOf (startedAt t cid s) (parN c 0)).isNone = false := Option.isNone_eq_false_iff.2 hjob
  have hin' : incoming (startedAt t cid s) (parN c 0) = false := hin
  have hact' : jobIsActive (startedAt t cid s) (parN c 0) = false := hact
  have hbeg' : (startedAt t cid s).job.activating = none := hbeg
  refine (onStart_starts h).trans ?_
  simp [hjob', hin', hact', hbeg', done]

theorem execJobUnload_unknown {t cid : Nat} {c : Slot} {s : State} (h : Starts Op.jobUnload cid c s) (hjob : jobOf s (parN c 0) = none) :
    execJobUnload t cid s = .next (refuse c Status.jobNotLoaded (startedAt t cid s)) := by
  have hjob' : jobOf (startedAt t cid s) (parN c 0) = none := hjob
  refine (onStart_starts h).trans ?_
  simp [hjob']

theorem execJobUnload_active {t cid : Nat} {c : Slot} {s : State} (h : Starts Op.jobUnload cid c s) (hjob : (jobOf s (parN c 0)).isSome = true)
    (hact : s.job.active = some (parN c 0)) (hswitch : s.job.switch = none) :
    execJobUnload t cid s = .next (refuse c Status.jobActive (startedAt t cid s)) := by
  have hjob' : (jobOf (startedAt t cid s) (parN c 0)).isNone = false := Option.isNone_eq_false_iff.2 hjob
  have hin' : incoming (startedAt t cid s) (parN c 0) = false := by simp [incoming, startedAt, hswitch]
  have hact' : jobIsActive (startedAt t cid s) (parN c 0) = true := by simp [jobIsActive, startedAt, hact]
  refine (onStart_starts h).trans ?_
  simp [hjob', hin', hact']

/-! ### Activating (R105, R164, R574) -/

theorem recheck_fresh {j : Job} {s : State} (h : j.stale = false) : recheck j s = (j, s) := by
  simp [recheck, h]

theorem parOf_starts {op cid i : Nat} {c : Slot} {s : State} (h : Starts op cid c s) : (parOf s cid i).toNat = parN c i := by
  simp [parOf, h.1, parN]

theorem execJobActivate_begins {t cid : Nat} {c : Slot} {j : Job} {s : State} (h : Starts Op.jobActivate cid c s)
    (hwait : activationWaits (advance t s) (parN c 0) = false) (hj : jobOf s (parN c 0) = some j) :
    execJobActivate t cid s = .next (beginActivate c j (startedAt t cid s)) := by
  have hj' : jobOf (startedAt t cid s) (parN c 0) = some j := hj
  rw [execJobActivate, parOf_starts h, hwait, if_neg Bool.false_ne_true, onStart_starts h]
  simp only [hj']

theorem beginActivate_judges {c : Slot} {j : Job} {s : State} (hfresh : j.stale = false) (hpassed : j.passed = true)
    (hled : s.led.badSaved = false) (hact : jobActive s = false) (hbeg : s.job.activating = none) :
    (activationFailure s j [] none = none →
      beginActivate c j s = noteFate j.desc.id 1 { s with job.activating := some (c.cid, j.desc.id, parN c 1) }) ∧
    (∀ st ws, activationFailure s j [] none = some (st, ws) → beginActivate c j s = finish c.cid st 0 ws s) := by
  refine ⟨fun hfail => ?_, fun st ws hfail => ?_⟩ <;>
    simp [beginActivate, recheck_fresh hfresh, hpassed, hled, hact, hbeg, hfail]

theorem servePairFold_changes (ks : List (Fin 16)) (s : State) : ∃ v, ks.foldl (fun s i => servePair i s) s = { s with mil.pairs := v } := by
  induction ks generalizing s with
  | nil => exact ⟨_, rfl⟩
  | cons k ks ih =>
    obtain ⟨v, hv⟩ := ih (servePair k s)
    exact ⟨v, hv⟩

theorem servePairs_changes (p : Nat) (s : State) : ∃ v, servePairs p s = { s with mil.pairs := v } := by
  unfold servePairs
  dsimp only
  obtain ⟨v, hv⟩ := servePairFold_changes _ _
  rw [hv]
  exact ⟨v, rfl⟩

theorem modStall_changes (k : Nat) (f : Stall → Stall) (s : State) : ∃ v, modStall k f s = { s with stl := v } := by
  unfold modStall; split <;> exact ⟨_, rfl⟩

theorem startStalls_changes (d : JobDesc) (s : State) : ∃ v, startStalls d s = { s with stl := v } := by
  unfold startStalls
  generalize jobStalls d = ks
  induction ks generalizing s with
  | nil => exact ⟨_, rfl⟩
  | cons k ks ih =>
    rw [List.foldl_cons]
    obtain ⟨v, hv⟩ := modStall_changes k _ s
    rw [hv]
    obtain ⟨w, hw⟩ := ih { s with stl := v }
    exact ⟨w, hw⟩

theorem keepEpochs_changes (s : State) : ∃ c p, keepEpochs s = { s with mil.calEpochs := c, mil.placeEpochs := p } := by
  unfold keepEpochs
  dsimp only
  repeat' split
  all_goals exact ⟨_, _, rfl⟩

/-- Everything the activation of a job changes. -/
theorem becomeActive_changes (j : Job) (first : Nat) (s : State) :
    ∃ l m v x, becomeActive j first s = { s with job.loaded := l, job.active := some j.desc.id, job.activating := none, mil := m, stl := v, vis := x } ∧
      m.screens = s.mil.screens := by
  unfold becomeActive modJob
  dsimp only
  obtain ⟨v, hv⟩ := servePairs_changes (max 1 (pairsNeeded j)) _
  rw [hv]
  obtain ⟨c, p, hcp⟩ := keepEpochs_changes _
  rw [hcp]
  obtain ⟨w, hw⟩ := startStalls_changes j.desc _
  exact ⟨_, _, _, _, hw, rfl⟩

theorem execScreenStoreLoaded_ends {t cid id first : Nat} {j : Job} {s : State} (h : s.job.activating = some (cid, id, first)) (hj : jobOf s id = some j) :
    (∀ v u, loadScreens j (screenSlots [j]) (dropScreens [j] (advance t s)) = (some v, u) →
      execScreenStoreLoaded t s = .next (finish cid Status.done 0 [] (becomeActive j first v))) ∧
    (∀ u, loadScreens j (screenSlots [j]) (dropScreens [j] (advance t s)) = (none, u) →
      execScreenStoreLoaded t s = .next (finish cid Status.jobNotReady 0 [] { u with job.activating := none })) := by
  have hj' : jobOf (advance t s) id = some j := hj
  refine ⟨fun v u hload => ?_, fun u hload => ?_⟩ <;>
    simp only [execScreenStoreLoaded, onEvent, advance_job, h, hj', hload]

/-! ### Switching (R120, R121, R574) -/

theorem execJobSwitch_begins {t cid : Nat} {c : Slot} {j : Job} {s : State} (h : Starts Op.jobSwitch cid c s)
    (hwait : activationWaits (advance t s) (parN c 0) = false) (hj : jobOf s (parN c 0) = some j) :
    execJobSwitch t cid s = .next (checkSwitch c j (startedAt t cid s)) := by
  have hj' : jobOf (startedAt t cid s) (parN c 0) = some j := hj
  rw [execJobSwitch, parOf_starts h, hwait, if_neg Bool.false_ne_true, onStart_starts h]
  simp only [hj']

/-- The line that a JOB_SWITCH names; none leaves it to the first product of the incoming job. -/
def switchLine (c : Slot) : Option Nat := if parN c 1 = 2 ^ 64 - 1 then none else some (parN c 1)

theorem checkSwitch_judges {c : Slot} {j old : Job} {id : Nat} {s : State} (hfresh : j.stale = false) (hpassed : j.passed = true)
    (hled : s.led.badSaved = false) (hact : s.job.active = some id) (hold : jobOf s id = some old) (hnot : jobIsActive s j.desc.id = false)
    (hswitch : s.job.switch = none) :
    (activationFailure s j [old] (switchLine c) = none → checkSwitch c j s = beginSwitch c j old (switchLine c) s) ∧
    (∀ st ws, activationFailure s j [old] (switchLine c) = some (st, ws) → checkSwitch c j s = finish c.cid st 0 ws s) := by
  unfold switchLine
  refine ⟨fun hfail => ?_, fun st ws hfail => ?_⟩ <;>
    simp only [checkSwitch, recheck_fresh hfresh, hpassed, hled, hact, hold, hnot, hswitch, hfail, Bool.not_true, Bool.or_self,
      Option.isSome_none, Bool.false_eq_true, if_false]

/-- Everything an accepted switch changes from the state with the new arrays loaded. -/
theorem beginSwitch_changes {c : Slot} {j old : Job} {line : Option Nat} {s u v : State}
    (h : loadScreens j (screenSlots [j]) (dropScreens [j, old] s) = (some v, u)) :
    ∃ l k w, beginSwitch c j old line s = { v with
      job.loaded := l, job.loading := k, job.switch := some { job := j.desc.id, cid := c.cid, line := line, stamp := c.acceptAt }, mil.pairs := w } := by
  simp only [beginSwitch, h]
  obtain ⟨w, hw⟩ := servePairs_changes _ _
  rw [hw]
  exact ⟨_, _, _, rfl⟩

/-! ### The statement -/

/-- Settles O13: each case is one branch of its command or event, and the frames of the operations on it give the fields named. -/
theorem jobsComeAndGo : Obligations.JobsComeAndGo := by
  refine ⟨⟨fun t cid c s h hload hrange hgood hkey => ?_, fun t clear l s r hl hr => ?_, fun t cid c s h => ⟨?_, ?_, ?_⟩⟩,
    ⟨fun t cid c j s h hwait hj hfresh hpassed hled hact hbeg => ?_, fun t cid id first j s u o hbeg hj hload => ⟨?_, ?_⟩⟩,
    fun t cid id c j old line s u v h hwait hj hfresh hpassed hled hact hold hnot hswitch hline => ?_⟩
  · have hkey' : JobKeyServes (startedAt t cid s) (parN c 3) (parN c 0) := hkey
    have heq := execJobLoad_begins (t := t) h hload hrange hgood
    exact ⟨fun d hd hgeom hclear => heq.trans (congrArg _ (beginLoad_begins hkey' hd hgeom hclear)),
      fun hd => heq.trans (congrArg _ (beginLoad_bad hkey' hd))⟩
  · have heq := execJobCheckComplete_ends (t := t) (clear := clear) hl
    have hcheck : checkJob (jobToCheck l clear) (notLoading l.job.desc.id (advance t s)) = (r.1, r.2) := hr.symm
    refine ⟨fun hin => heq.trans (congrArg _ (endLoad_installs hcheck hin)), fun hrep hfate hfailed => heq.trans (congrArg _ ?_),
      fun hrep hfate => heq.trans (congrArg _ ?_), fun hrep hfate => heq.trans (congrArg _ ?_)⟩
    · simp [endLoad_eq hcheck, hrep, hfate, hfailed]
    · simp [endLoad_eq hcheck, hrep, hfate]
    · simp [endLoad_eq hcheck, hrep, hfate]
  · intro hjob hin hact hbeg
    refine ⟨_, execJobUnload_forgets h hjob hin hact hbeg, ?_⟩
    simp only [finish_job, finish_kry, finish_mil, finish_well, finish_prod]
    exact ⟨rfl, rfl, rfl, rfl, rfl, rfl⟩
  · exact execJobUnload_unknown h
  · exact execJobUnload_active h
  · have heq := execJobActivate_begins (t := t) h hwait hj
    obtain ⟨hbegins, hfails⟩ := beginActivate_judges (c := c) (s := startedAt t cid s) hfresh hpassed hled hact hbeg
    exact ⟨fun hfail => heq.trans (congrArg _ (hbegins hfail)), fun st ws hfail => heq.trans (congrArg _ (hfails st ws hfail))⟩
  · rintro v rfl
    obtain ⟨l, m, w, x, hactive, hscreens⟩ := becomeActive_changes j first v
    refine ⟨_, (execScreenStoreLoaded_ends hbeg hj).1 v u hload, ?_, ?_, finish_ended _ _ _ _ _, ?_⟩ <;>
      simp only [finish_job, finish_mil, finish_well, finish_mot, finish_prod, finish_led, hactive, hscreens, and_self]
  · rintro rfl
    exact (execScreenStoreLoaded_ends hbeg hj).2 u hload
  · subst hline
    have heq := execJobSwitch_begins (t := t) h hwait hj
    obtain ⟨hbegins, hfails⟩ := checkSwitch_judges (c := c) (s := startedAt t cid s) hfresh hpassed hled hact hold hnot hswitch
    refine ⟨fun hfail hload => ?_, fun st ws hfail => heq.trans (congrArg _ (hfails st ws hfail))⟩
    obtain ⟨l, k, w, hsw⟩ := beginSwitch_changes (c := c) (line := switchLine c) hload
    exact ⟨_, heq.trans (congrArg _ ((hbegins hfail).trans hsw)), rfl, rfl, rfl, rfl, rfl, rfl⟩

end Sys2Proof.Machine
end

section
/-!
The reads, frames and fire blocks of a Stall, and the statement about them.
-/
namespace Sys2Proof.Machine

theorem stallOf_fin (s : State) (k : Fin 24) : stallOf s k.val = s.stl[k] := by
  simp [stallOf]

theorem modStall_fin (k : Fin 24) (f : Stall → Stall) (s : State) : modStall k.val f s = { s with stl := upd s.stl k f } := by
  simp [modStall]

theorem execStallReadout_reads {t : Nat} {k : Fin 24} {line : Nat} {r1 r2 : Bool} {l : LineSlot} {ws : List (BitVec 72)} {s : State}
    (hdue : readDue (advance t s) k.val line = true) (hl : lineSlot s line = some l) (hseal : l.sealed = true)
    (hws : l.words.find? (fun w => w.1 == k.val) = some (k.val, ws)) (hne : ws ≠ []) (hread : r1 = true ∨ r2 = true) :
    execStallReadout t k line r1 r2 s = .next { advance t s with stl := upd s.stl k fun x => { x with buffer := x.buffer ++ [(line, ws)] } } := by
  have hl' : lineSlot (advance t s) line = some l := hl
  have hread' : (r1 || r2) = true := by simpa using hread
  simp [execStallReadout, onEvent, hdue, hl', hseal, hws, hne, hread', modStall_fin]

theorem execStallReadout_late {t : Nat} {k : Fin 24} {line : Nat} {r1 r2 : Bool} {s : State} (hdue : readDue (advance t s) k.val line = true)
    (hopen : lineSlot s line = none ∨ ∃ l, lineSlot s line = some l ∧ l.sealed = false) :
    execStallReadout t k line r1 r2 s = .next (lateLine k.val line (advance t s)) := by
  rcases hopen with hnone | ⟨l, hl, hseal⟩
  · have hnone' : lineSlot (advance t s) line = none := hnone
    simp [execStallReadout, onEvent, hdue, hnone']
  · have hl' : lineSlot (advance t s) line = some l := hl
    simp [execStallReadout, onEvent, hdue, hl', hseal]

theorem execLineFrameSend_first {t : Nat} {k : Fin 24} {f : Frame} {s : State} (hf : s.stl[k].frames.find? (fun f => !f.spit && f.seq.isNone) = some f)
    (hprev : ∀ g ∈ s.stl[k].frames, ¬ (g.spit = false ∧ g.line < f.line ∧ g.firedAt = none)) :
    execLineFrameSend t k s =
      .next (if maySend s k.val then sendFrame k.val f (advance t s) else endFrame k.val f.line false (advance t s)) := by
  have hany : s.stl[k].frames.any (fun g => !g.spit && decide (g.line < f.line) && g.firedAt.isNone) = false := by
    simpa [List.any_eq_false] using hprev
  have hsend : maySend (advance t s) k.val = maySend s k.val := rfl
  simp only [execLineFrameSend, onEvent, stallOf_fin, advance_stl, hf, hany, hsend, Bool.false_eq_true, if_false]

theorem execFireBlockSend_due {t : Nat} {k : Fin 24} {f : Frame} {m : Nat} {s : State}
    (hf : s.stl[k].frames.find? (fun f => !f.spit && f.fireAt.isSome && f.firedAt.isNone) = some f) (hm : f.fireAt = some m)
    (hdue : 10 * (m + 2000) ≤ 10 * (advance t s).now + stallLambda s k.val) :
    execFireBlockSend t k s = .next (if !maySend s k.val || f.seq.isNone then endFrame k.val f.line false (advance t s)
      else { advance t s with
        outbox := .head k.val 3 [fireWord (advance t s) f.line] :: s.outbox,
        stl := upd s.stl k fun x => { x with
          lineEnd := (advance t s).now + period (advance t s),
          frames := mapWhere (fun g => g.line == f.line && !g.spit) (fun g => { g with firedAt := some (advance t s).now }) x.frames } }) := by
  have hsend : maySend (advance t s) k.val = maySend s k.val := rfl
  have hlam : stallLambda (advance t s) k.val = stallLambda s k.val := rfl
  simp only [execFireBlockSend, onEvent, stallOf_fin, advance_stl, hf, hm, Option.getD_some, hlam, if_neg (Nat.not_lt.2 hdue), hsend, modStall_fin]
  rfl

/-- Settles O25: in each case one branch of the event is left, and it is the state that the statement names. -/
theorem framesAreSentAndFired : Obligations.FramesAreSentAndFired := by
  intro t k s
  refine ⟨fun line r1 r2 hdue => ⟨fun l ws hl hseal hws hne hread => execStallReadout_reads hdue hl hseal hws hne hread,
    execStallReadout_late hdue⟩, fun f hf hprev => ?_, fun f m hf hm hdue => ?_⟩
  · have heq := execLineFrameSend_first (t := t) hf hprev
    exact ⟨fun hsend => heq.trans (by rw [if_pos hsend]), fun hsend => heq.trans (by simp [hsend])⟩
  · have heq := execFireBlockSend_due hf hm hdue
    refine ⟨fun hsend hseq => heq.trans ?_, fun hnot => heq.trans ?_⟩
    · rw [if_neg (by simp [hsend, Option.isSome_iff_ne_none.1 hseq])]
    · rw [if_pos (by simpa using hnot)]

end Sys2Proof.Machine
end

section
/-!
What the records, the manifests, the products and a replay leave alone.
-/
namespace Sys2Proof.Machine

/-! ### Records and manifests (R308, R313, R318) -/

theorem notify_settles (code detail : Nat) (s : State) : Settles s (notify code detail s) := by
  rw [notify_frame]; exact ⟨rfl, rfl, rfl, rfl, rfl, rfl, rfl⟩

theorem event_settles (code cls detail : Nat) (s : State) : Settles s (event code cls detail s) := by
  rw [event_frame]; exact ⟨rfl, rfl, rfl, rfl, rfl, rfl, rfl⟩

theorem modRec_settles (n : Nat) (f : Rec → Rec) (s : State) : Settles s (modRec n f s) := ⟨rfl, rfl, rfl, rfl, rfl, rfl, rfl⟩

theorem modProduct_settles (n : Nat) (f : Product → Product) (s : State) : Settles s (modProduct n f s) := ⟨rfl, rfl, rfl, rfl, rfl, rfl, rfl⟩

theorem exportEntry_settles (type : Nat) (ws : List W64) (parts : List (Nat × Nat)) (s : State) : Settles s (exportEntry type ws parts s) :=
  ⟨rfl, rfl, rfl, rfl, rfl, rfl, rfl⟩

theorem ledgerWrite_settles (w : LWrite) (payload : List W64) (s : State) : Settles s (ledgerWrite w payload s) := by
  unfold ledgerWrite
  dsimp only
  split
  · exact (uraraSend_settles _ _ _ _).after ⟨rfl, rfl, rfl, rfl, rfl, rfl, rfl⟩
  · exact ⟨rfl, rfl, rfl, rfl, rfl, rfl, rfl⟩

theorem writePart_settles (n kind : Nat) (s : State) : Settles s (writePart n kind s) := by
  unfold writePart
  split
  · exact .refl s
  · exact ledgerWrite_settles _ _ s

theorem exportPart_settles (n kind : Nat) (s : State) : Settles s (exportPart n kind s) := by
  unfold exportPart
  split
  · exact .refl s
  · exact exportEntry_settles _ _ _ s

theorem settleManifests_settles (s : State) : Settles s (settleManifests s) := by
  unfold settleManifests
  exact (Settles.foldl (fun s c => finish_settles _ _ _ _ s) _ _).after
    ((Settles.foldl (fun s m => exportEntry_settles _ _ _ s) _ s).trans ⟨rfl, rfl, rfl, rfl, rfl, rfl, rfl⟩)

theorem countManifests_settles (n kind : Nat) (s : State) : Settles s (countManifests n kind s) :=
  (settleManifests_settles _).after ⟨rfl, rfl, rfl, rfl, rfl, rfl, rfl⟩

theorem finalise_settles (n kind reason fault grade : Nat) (s : State) : Settles s (finalise n kind reason fault grade s) := by
  unfold finalise
  split
  · exact .refl s
  · split
    · exact .refl s
    · exact (countManifests_settles _ _ _).after ((exportPart_settles _ _ _).after ((writePart_settles _ _ _).after (modRec_settles _ _ s)))

theorem voidRec_settles (reason fault n : Nat) (s : State) : Settles s (voidRec reason fault n s) := finalise_settles _ _ _ _ _ s

theorem voidRecs_settles (product reason fault : Nat) (s : State) : Settles s (voidRecs product reason fault s) :=
  .foldl (fun s _ => voidRec_settles _ _ _ s) _ s

/-! ### Products (R108, R112, R122) -/

theorem voidProduct_settles (n reason fault : Nat) (s : State) : Settles s (voidProduct n reason fault s) := by
  unfold voidProduct
  dsimp only
  have hrecs := (modProduct_settles n (fun p => { p with flags := p.flags ||| 2 ^ 0 }) s).trans (voidRecs_settles n reason fault (setFlag n 0 s))
  split
  · exact hrecs
  · refine hrecs.trans (.foldl (fun s g => ?_) _ _)
    split
    · split <;> exact ⟨rfl, rfl, rfl, rfl, rfl, rfl, rfl⟩
    · exact .refl s

theorem closeRecords_settles (p : Product) (s : State) : Settles s (closeRecords p s) := by
  unfold closeRecords
  refine .foldl (fun s r => ?_) _ s
  repeat' split
  · exact .refl s
  all_goals exact finalise_settles _ _ _ _ _ s

theorem settleSwitch_settles (s : State) : Settles s (settleSwitch s) := by
  unfold settleSwitch
  repeat' split
  · exact (notify_settles _ _ _).after ⟨rfl, rfl, rfl, rfl, rfl, rfl, rfl⟩
  all_goals exact .refl s

theorem settleProduct_settles (n : Nat) (s : State) : Settles s (settleProduct n s) := by
  unfold settleProduct
  split
  · exact .refl s
  · next p _ =>
    split
    · exact .refl s
    · dsimp only
      have hleft : ∀ u : State, Settles u (settleSwitch { u with prod.queue := u.prod.queue.filter fun p => p.num != n }) :=
        fun u => (settleSwitch_settles _).after ⟨rfl, rfl, rfl, rfl, rfl, rfl, rfl⟩
      refine (hleft _).after ((closeRecords_settles p _).after ?_)
      split
      · exact (modProduct_settles _ _ _).after (notify_settles _ _ s)
      · exact .refl s

theorem settleAll_settles (s : State) : Settles s (settleAll s) := .foldl (fun s n => settleProduct_settles n s) _ s

/-! ### Replay (R302, R548) -/

theorem judgePool_settles (pool : Nat) (s : State) : Settles s (judgePool pool s) := by
  unfold judgePool
  split
  · exact .refl s
  · split
    · exact (notify_settles _ _ _).after ⟨rfl, rfl, rfl, rfl, rfl, rfl, rfl⟩
    · split <;> exact ⟨rfl, rfl, rfl, rfl, rfl, rfl, rfl⟩

theorem abandonGrant_settles (pool : Nat) (g : Grant) (s : State) : Settles s (abandonGrant pool g s) := by
  unfold abandonGrant
  split
  · exact .refl s
  · dsimp only
    split <;> exact ⟨rfl, rfl, rfl, rfl, rfl, rfl, rfl⟩

theorem abandonAll_settles (s : State) : Settles s (abandonAll s) :=
  (Settles.foldl (fun s _ => (Settles.foldl (fun s _ => abandonGrant_settles _ _ s) _ s).trans (judgePool_settles _ _)) _ s).trans
    ⟨rfl, rfl, rfl, rfl, rfl, rfl, rfl⟩

theorem voidDamaged_settles (s : State) : Settles s (voidDamaged s) := .foldl (fun s _ => voidRec_settles _ _ _ s) _ s

theorem voidOrphans_settles (s : State) : Settles s (voidOrphans s) := .foldl (fun s _ => voidRec_settles _ _ _ s) _ s

theorem voidLost_settles (code : Option Nat) (s : State) (n : Nat) : Settles s (voidLost code s n) := by
  unfold voidLost
  dsimp only
  split
  · exact (voidProduct_settles _ _ _ s).trans (event_settles _ _ _ _)
  · exact voidProduct_settles _ _ _ s

theorem replay_settles (code : Option Nat) (s : State) : Settles s (replay code s) := by
  have hrestart : ∀ u : State, Settles u (keepWaiting (restartLines u)) := fun _ => ⟨rfl, rfl, rfl, rfl, rfl, rfl, rfl⟩
  exact (settleAll_settles _).after ((hrestart _).after ((abandonAll_settles _).after ((voidOrphans_settles _).after
    ((Settles.foldl (voidLost_settles code) _ _).after (voidDamaged_settles s)))))

/-! ### Faults that clear (R541) -/

/-- What the clearing of a fault leaves alone, and that the fault is no longer active. -/
theorem clearFault_clears (code : Nat) (s : State) :
    Settles { s with flt.active := s.flt.active.filter (· != code) } (clearFault code s) ∧ code ∉ (clearFault code s).flt.active := by
  have hgone : ∀ l : List Nat, code ∉ l.filter (· != code) := by simp
  unfold clearFault
  split
  · dsimp only
    split
    · refine ⟨replay_settles _ _, ?_⟩
      rw [(replay_settles _ _).active]
      exact hgone _
    · exact ⟨.refl _, hgone _⟩
  · next hnot =>
    refine ⟨⟨rfl, rfl, rfl, rfl, rfl, rfl, ?_⟩, hnot⟩
    refine (List.filter_eq_self.2 fun x hx => ?_).symm
    simpa using fun heq : x = code => hnot (heq ▸ hx)

/-- A fault that is raised leaves power, heat, the Krynto core, the Well, motion, the cores and the queue alone. -/
theorem raise_keeps_units (code detail : Nat) (s : State) : (raise code detail s).pwr = s.pwr ∧ (raise code detail s).thm = s.thm ∧
    (raise code detail s).kry = s.kry ∧ (raise code detail s).well = s.well ∧ (raise code detail s).mot = s.mot ∧
    (raise code detail s).bgd = s.bgd := by
  rw [raise_frame]; exact ⟨rfl, rfl, rfl, rfl, rfl, rfl⟩

theorem deviceFault_active (code : Nat) (s : State) : code ∈ (deviceFault code s).flt.active := by
  unfold deviceFault
  split
  · assumption
  · simp

/-- A device-class fault that is raised is active (R541). -/
theorem raise_active {code detail : Nat} {s : State} (hclass : classOf code = 4) (hhead : code ≠ FaultCode.headOvertemp) :
    code ∈ (raise code detail s).flt.active := by
  have hnot : ∀ n, n ≠ 4 → classOf code ≠ n := fun n hn => by rw [hclass]; exact hn.symm
  unfold raise
  dsimp only
  rw [if_neg (hnot 1 (by decide)), if_neg (hnot 2 (by decide)), if_neg (hnot 3 (by decide)), if_neg hhead]
  exact deviceFault_active _ _

end Sys2Proof.Machine
end

section
/-!
The switching of power domains, the thermal steps and the system reference, and the statement about them.
-/
namespace Sys2Proof.Machine

/-! ### Rings and registers -/

@[simp] theorem setInt_pwr (i : Nat) (s : State) : (setInt i s).pwr = s.pwr := by rw [setInt_frame]

/-- What register and ring operations change: the registers of BAR0, and what has been sent. -/
def BarMoves (s t : State) : Prop := ∃ b o, t = { s with bar := b, outbox := o }

theorem BarMoves.refl (s : State) : BarMoves s s := ⟨_, _, rfl⟩

theorem BarMoves.trans {s t u : State} (h : BarMoves s t) (k : BarMoves t u) : BarMoves s u := by
  obtain ⟨b, o, rfl⟩ := h
  obtain ⟨b', o', rfl⟩ := k
  exact ⟨b', o', rfl⟩

/-- The last operation first, for an operation whose argument is to be read from the goal. -/
theorem BarMoves.after {s t u : State} (k : BarMoves t u) (h : BarMoves s t) : BarMoves s u := h.trans k

theorem BarMoves.ite {s t u : State} {p : Prop} [Decidable p] (h : BarMoves s t) (k : BarMoves s u) : BarMoves s (if p then t else u) := by
  split <;> assumption

theorem setInt_barMoves (i : Nat) (s : State) : BarMoves s (setInt i s) := setInt_changes i s

theorem modRing_barMoves (r : Fin 16) (f : Ring → Ring) (s : State) : BarMoves s (modRing r f s) := ⟨_, _, rfl⟩

theorem modWork_barMoves (r : Fin 16) (f : RingWork → RingWork) (s : State) : BarMoves s (modWork r f s) := ⟨_, _, rfl⟩

theorem emits_barMoves (es : List Emit) (s : State) : BarMoves s (emits es s) := ⟨_, _, rfl⟩

theorem countIrq_barMoves (r : Fin 16) (s : State) : BarMoves s (countIrq r s) := by
  unfold countIrq coalesceFire
  exact (modWork_barMoves r _ s).trans (.ite ((modWork_barMoves _ _ _).trans (setInt_barMoves _ _)) (.refl _))

theorem completeDesc_barMoves (r : Fin 16) (code placed : Nat) (s : State) : BarMoves s (completeDesc r code placed s) := by
  unfold completeDesc ringError shadowSwitch attend
  split
  · exact .refl s
  · dsimp only
    have hback : ∀ (es : List Emit) (f : RingWork → RingWork) (g : Ring → Ring) (u : State), BarMoves u (modRing r g (modWork r f (emits es u))) :=
      fun _ _ _ _ => ⟨_, _, rfl⟩
    have hcount : ∀ (b : Bool) (u : State), BarMoves u (if b then countIrq r u else u) :=
      fun _ u => .ite (countIrq_barMoves r u) (.refl u)
    have hattend : ∀ (f : Ring → Ring) (u : State), BarMoves u (setInt (16 + r.val) (modRing r f u)) :=
      fun f u => (modRing_barMoves r f u).trans (setInt_barMoves _ _)
    split
    · exact (hattend _ _).after ((hcount _ _).after (hback _ _ _ s))
    · split
      · exact (hattend _ _).after ((hcount _ _).after (hback _ _ _ s))
      · split
        · exact (hattend _ _).after ((hcount _ _).after (hback _ _ _ s))
        · exact (hcount _ _).after (hback _ _ _ s)

theorem ringPowerDown_barMoves (d : Fin 12) (r : Fin 16) (s : State) : BarMoves s (ringPowerDown d r s) := by
  unfold ringPowerDown attend
  dsimp only
  split
  · exact .refl s
  · split
    · exact (modRing_barMoves _ _ _).trans (setInt_barMoves _ _)
    · split
      · exact .ite (completeDesc_barMoves _ _ _ _) (.refl s)
      · exact modWork_barMoves _ _ _

theorem ringsPowerDown_barMoves (d : Fin 12) (s : State) : BarMoves s (ringsPowerDown d s) :=
  foldl_rel .refl .trans (fun s r => ringPowerDown_barMoves d r s) _ s

/-! ### POWER_DOMAIN (R22, R523) -/

/-- The request that a POWER_DOMAIN makes. -/
def powerRequest (c : Slot) (now : Nat) : PowerReq := { cid := c.cid, dom := parF c 0 3 0, on := parB c 0 8, t0 := now }

/-- The state with a POWER_DOMAIN's request waiting. -/
def requested (c : Slot) (s : State) : State := { s with pwr.reqs := s.pwr.reqs ++ [powerRequest c s.now] }

theorem execPowerDomain_on {t cid : Nat} {c : Slot} {s : State} (h : Starts Op.powerDomain cid c s) (hlo : 3 ≤ parF c 0 3 0) (hhi : parF c 0 3 0 ≤ 11)
    (hon : parB c 0 8 = true) : execPowerDomain t cid s = .next (requested c (startedAt t cid s)) := by
  refine (onStart_starts h).trans ?_
  simp [hlo, hhi, hon, requested, powerRequest]

theorem execPowerDomain_off {t cid : Nat} {c : Slot} {s : State} (h : Starts Op.powerDomain cid c s) (hlo : 3 ≤ parF c 0 3 0) (hhi : parF c 0 3 0 ≤ 11)
    (hoff : parB c 0 8 = false) (hallow : offRefused s (parF c 0 3 0) = false) :
    ∃ s', execPowerDomain t cid s = .next s' ∧ BarMoves (requested c (startedAt t cid s)) s' := by
  have hallow' : offRefused (startedAt t cid s) (parF c 0 3 0) = false := hallow
  have hdown := ringsPowerDown_barMoves ⟨parF c 0 3 0, by omega⟩ (requested c (startedAt t cid s))
  refine ⟨_, (onStart_starts h).trans ?_, hdown.trans (.ite (p := parF c 0 3 0 = 4) (setInt_barMoves 38 _) (.refl _))⟩
  simp [hlo, hhi, hoff, hallow', requested, powerRequest]

theorem execPowerDomain_refused {t cid : Nat} {c : Slot} {s : State} (h : Starts Op.powerDomain cid c s) (hlo : 3 ≤ parF c 0 3 0)
    (hhi : parF c 0 3 0 ≤ 11) (hoff : parB c 0 8 = false) (href : offRefused s (parF c 0 3 0) = true) :
    execPowerDomain t cid s = .next (refuse c Status.domainRequired (startedAt t cid s)) := by
  have href' : offRefused (startedAt t cid s) (parF c 0 3 0) = true := href
  refine (onStart_starts h).trans ?_
  simp [hlo, hhi, hoff, href']

/-! ### What a domain that switches does to power (R523) -/

theorem lanesOff_pwr (d : Fin 12) (s : State) : (lanesOff d s).pwr = s.pwr :=
  foldl_keeps State.pwr (fun s n => modLane_pwr n _ s) _ s

theorem lanesOn_pwr (d : Fin 12) (s : State) : (lanesOn d s).pwr = s.pwr := by
  refine foldl_keeps State.pwr (fun s n => ?_) _ s
  split
  · exact modLane_pwr n _ s
  · rfl

theorem restartDoms_pwr (s : State) : ((List.finRange 2).foldl (fun s (k : Fin 2) => restartDom k s) s).pwr = s.pwr :=
  foldl_keeps State.pwr (fun s (k : Fin 2) => (rfl : (restartDom k s).pwr = s.pwr)) _ s

theorem enterHoldover_settles (base : Nat) (all : Bool) (s : State) : Settles s (enterHoldover base all s) :=
  (notify_settles _ _ _).after ⟨rfl, rfl, rfl, rfl, rfl, rfl, rfl⟩

theorem clockNetOff_pwr (s : State) : (clockNetOff s).pwr = s.pwr := by
  unfold clockNetOff
  dsimp only
  split
  · exact restartDoms_pwr s
  · rw [(enterHoldover_settles _ _ _).pwr, restartDoms_pwr]

theorem netOff_pwr (s : State) : (netOff s).pwr = s.pwr := clockNetOff_pwr (saveFloor s)

theorem pcieOff_pwr (s : State) : (pcieOff s).pwr = s.pwr := by
  have hfree : ∀ (u : State) (c : Slot), (handedOver c.cid u).pwr = u.pwr := fun u c => by rw [handedOver_frame]
  exact foldl_keeps State.pwr hfree _ _

theorem stlOff_pwr (s : State) : (stlOff s).pwr = s.pwr := (settlePermits_settles _).pwr

theorem voidFault_pwr (n fault : Nat) (s : State) : (voidFault n fault s).pwr = s.pwr :=
  (voidProduct_settles _ _ _ _).pwr.trans (raise_keeps_units fault n s).1

theorem visOff_pwr (s : State) : (visOff s).pwr = s.pwr := by
  unfold visOff dropSets
  dsimp only
  refine (foldl_keeps State.pwr (fun s (n : Nat) => voidFault_pwr n _ (setFlag n 3 s)) _ _).trans ?_
  refine (foldl_keeps State.pwr (fun s (c : Capture) => finish_pwr _ _ _ _ s) _ _).trans ?_
  exact foldl_keeps State.pwr (fun s x => foldl_keeps State.pwr (fun s (q : SetReq) => finish_pwr _ _ _ _ s) _ s) _ s

theorem setDomain_reqs (d : Fin 12) (on : Bool) (s : State) : (setDomain d on s).pwr.reqs = s.pwr.reqs := by
  unfold setDomain; split <;> simp

theorem setDomain_domOn (d : Fin 12) (on : Bool) (s : State) : domOn (setDomain d on s) d = on := by
  unfold setDomain
  split
  · next h => exact beq_iff_eq.1 h
  · simp [domOn]

theorem setDomain_domOn_other {d e : Fin 12} (on : Bool) (s : State) (h : e ≠ d) : domOn (setDomain d on s) e = domOn s e := by
  unfold setDomain
  split
  · rfl
  · rw [domOn, domOn, setInt_pwr]
    exact Vector.getElem_set_ne d.isLt e.isLt fun hv => h (Fin.ext hv.symm)

/-- One domain has come to a level of power: the others and the requests that wait are as they were. -/
structure DomainSwitched (d : Fin 12) (on : Bool) (s t : State) : Prop where
  level : domOn t d = on
  others : ∀ e : Fin 12, e ≠ d → domOn t e = domOn s e
  reqs : t.pwr.reqs = s.pwr.reqs

theorem setDomain_switched {d : Fin 12} {on : Bool} {s t : State} (h : t.pwr = s.pwr) : DomainSwitched d on s (setDomain d on t) := by
  refine ⟨setDomain_domOn d on t, fun e he => ?_, ?_⟩
  · rw [setDomain_domOn_other on t he, domOn, domOn, h]
  · rw [setDomain_reqs, h]

theorem DomainSwitched.of_pwr {d : Fin 12} {on : Bool} {s t u : State} (h : DomainSwitched d on s t) (hp : u.pwr = t.pwr) :
    DomainSwitched d on s u := by
  obtain ⟨hlevel, hothers, hreqs⟩ := h
  refine ⟨?_, fun e he => ?_, hp ▸ hreqs⟩
  · rw [domOn, hp]; exact hlevel
  · rw [domOn, hp]; exact hothers e he

theorem domainOff_switched (d : Fin 12) (s : State) : DomainSwitched d false s (domainOff d s) := by
  unfold domainOff
  refine setDomain_switched (Eq.trans ?_ (lanesOff_pwr d s))
  generalize lanesOff d s = u
  split
  · exact netOff_pwr u
  · exact pcieOff_pwr u
  · rfl
  · rfl
  · rfl
  · rfl
  · exact stlOff_pwr u
  · rfl
  · exact visOff_pwr u
  · rfl

theorem domainOn_switched (d : Fin 12) (s : State) : DomainSwitched d true s (domainOn d s) := by
  unfold domainOn
  have hset : DomainSwitched d true s (setDomain d true s) := setDomain_switched rfl
  refine hset.of_pwr ((lanesOn_pwr d _).trans ?_)
  split
  · exact restartDoms_pwr _
  all_goals rfl

theorem DomainSwitched.refl {d : Fin 12} {on : Bool} {s : State} (h : domOn s d = on) : DomainSwitched d on s s := ⟨h, fun _ _ => rfl, rfl⟩

/-- The state in which the oldest request has been taken from those that wait. -/
def requestTaken (rest : List PowerReq) (s : State) : State := { s with pwr.reqs := rest }

theorem execDomainPowerDownProceed_switches {t : Nat} {q : PowerReq} {rest : List PowerReq} {d : Fin 12} {s : State} (hq : s.pwr.reqs = q :: rest)
    (hd : q.dom = d.val) (hoff : q.on = false) (hins : insertionRuns s d.val = false) (hallow : offRefused s d.val = false)
    (hdrained : ringsDrained d s = true) :
    ∃ u, execDomainPowerDownProceed t s = .next (finish q.cid Status.done 0 [] u) ∧ DomainSwitched d false (requestTaken rest (advance t s)) u := by
  obtain ⟨n, hn⟩ := d
  obtain rfl : q.dom = n := hd
  have hins' : insertionRuns (advance t s) q.dom = false := hins
  have hallow' : offRefused (advance t s) q.dom = false := hallow
  have hdrained' : ringsDrained ⟨q.dom, hn⟩ (advance t s) = true := hdrained
  refine ⟨if domOn (requestTaken rest (advance t s)) ⟨q.dom, hn⟩ then domainOff ⟨q.dom, hn⟩ (requestTaken rest (advance t s))
    else requestTaken rest (advance t s), ?_, ?_⟩
  · simp only [execDomainPowerDownProceed, onEvent, advance_pwr, hq, dif_pos hn, hoff, hins', hallow', hdrained', Bool.or_self, Bool.not_true,
      Bool.false_eq_true, if_false]
    rfl
  · split
    · exact domainOff_switched _ _
    · next h => exact .refl (by simpa using h)

theorem execDomainPowerUpDone_switches {t : Nat} {q : PowerReq} {rest : List PowerReq} {d : Fin 12} {s : State} (hq : s.pwr.reqs = q :: rest)
    (hd : q.dom = d.val) (hon : q.on = true) :
    ∃ u, execDomainPowerUpDone t s = .next (finish q.cid Status.done 0 [] u) ∧ DomainSwitched d true (requestTaken rest (advance t s)) u := by
  obtain ⟨n, hn⟩ := d
  obtain rfl : q.dom = n := hd
  refine ⟨if domOn (requestTaken rest (advance t s)) ⟨q.dom, hn⟩ then requestTaken rest (advance t s)
    else domainOn ⟨q.dom, hn⟩ (requestTaken rest (advance t s)), ?_, ?_⟩
  · simp only [execDomainPowerUpDone, onEvent, advance_pwr, hq, dif_pos hn, hon, Bool.not_true, Bool.false_eq_true, if_false]
    rfl
  · split
    · next h => exact .refl h
    · exact domainOn_switched _ _

/-- What the end of a domain's command leaves, with the domain switched. -/
theorem finish_switched {q : PowerReq} {rest : List PowerReq} {d : Fin 12} {on : Bool} {t : Nat} {s u : State}
    (h : DomainSwitched d on (requestTaken rest (advance t s)) u) :
    domOn (finish q.cid Status.done 0 [] u) d = on ∧ (finish q.cid Status.done 0 [] u).pwr.reqs = rest ∧
      Ended q.cid Status.done (finish q.cid Status.done 0 [] u) ∧ ∀ e : Fin 12, e ≠ d → domOn (finish q.cid Status.done 0 [] u) e = domOn s e := by
  obtain ⟨hlevel, hothers, hreqs⟩ := h.of_pwr (finish_pwr q.cid Status.done 0 [] u)
  exact ⟨hlevel, hreqs, finish_ended _ _ _ _ _, hothers⟩

/-! ### Heat (R535, R536, R539) -/

/-- What the judgement of a conversion leaves of it: Tj, its sensor and its maximum, the moment, the steps, the Well and motion. -/
structure HeatKept (s t : State) : Prop where
  tj : t.thm.tj = s.thm.tj
  tjSensor : t.thm.tjSensor = s.thm.tjSensor
  tjMax : t.thm.tjMax = s.thm.tjMax
  convAt : t.thm.convAt = s.thm.convAt
  steps : t.thm.steps = s.thm.steps
  well : t.well = s.well
  mot : t.mot = s.mot

theorem HeatKept.refl (s : State) : HeatKept s s := ⟨rfl, rfl, rfl, rfl, rfl, rfl, rfl⟩

theorem HeatKept.trans {s t u : State} (h : HeatKept s t) (k : HeatKept t u) : HeatKept s u :=
  ⟨k.tj.trans h.tj, k.tjSensor.trans h.tjSensor, k.tjMax.trans h.tjMax, k.convAt.trans h.convAt, k.steps.trans h.steps, k.well.trans h.well,
    k.mot.trans h.mot⟩

/-- The last operation first, for an operation that is named after fields have changed. -/
theorem HeatKept.after {s t u : State} (k : HeatKept t u) (h : HeatKept s t) : HeatKept s u := h.trans k

theorem HeatKept.of_eq {s t : State} (hthm : t.thm = s.thm) (hwell : t.well = s.well) (hmot : t.mot = s.mot) : HeatKept s t := by
  constructor <;> simp [hthm, hwell, hmot]

theorem Settles.heatKept {s t : State} (h : Settles s t) : HeatKept s t := .of_eq h.thm h.well h.mot

theorem raise_heatKept (code detail : Nat) (s : State) : HeatKept s (raise code detail s) := by
  obtain ⟨-, hthm, -, hwell, hmot, -⟩ := raise_keeps_units code detail s
  exact .of_eq hthm hwell hmot

theorem HeatKept.foldl {α : Type} {g : State → α → State} (hg : ∀ s a, HeatKept s (g s a)) (l : List α) (s : State) :
    HeatKept s (l.foldl g s) := foldl_rel .refl .trans hg l s

theorem modTask_heatKept (i : Fin 7) (f : Task → Task) (s : State) : HeatKept s (modTask i f s) := ⟨rfl, rfl, rfl, rfl, rfl, rfl, rfl⟩

theorem skipTime_heatKept (d : Nat) (p : Fin 7 → Bool) (s : State) : HeatKept s (skipTime d p s) := by
  refine .foldl (fun s i => ?_) _ s
  split
  · exact modTask_heatKept _ _ s
  · exact .refl s

theorem settleShed_heatKept (s : State) : HeatKept s (settleShed s) := by
  have hshed : ∀ (u : State) (on : Bool) (m : Nat), HeatKept u { u with thm.shed := on, thm.shedAt := m } := fun _ _ _ => ⟨rfl, rfl, rfl, rfl, rfl, rfl, rfl⟩
  unfold settleShed
  dsimp only
  split
  · exact .refl s
  · split
    · exact (hshed s _ _).trans (notify_settles _ _ _).heatKept
    · refine .trans (.trans ?_ (skipTime_heatKept _ _ _)) ((hshed _ _ _).trans (notify_settles _ _ _).heatKept)
      refine .foldl (fun s i => ?_) _ s
      split
      · exact modTask_heatKept _ _ s
      · exact .refl s

theorem stepTwo_heatKept (on : Bool) (s : State) : HeatKept s (stepTwo on s) :=
  (notify_settles _ _ _).heatKept.after ⟨rfl, rfl, rfl, rfl, rfl, rfl, rfl⟩

theorem clearFault_heatKept (code : Nat) (s : State) : HeatKept s (clearFault code s) :=
  (clearFault_clears code s).1.heatKept.after ⟨rfl, rfl, rfl, rfl, rfl, rfl, rfl⟩

theorem stepThree_heatKept (on : Bool) (s : State) : HeatKept s (stepThree on s) := by
  unfold stepThree
  split
  · refine .trans ?_ (.foldl (fun s (p : Product) => (voidProduct_settles p.num 3 FaultCode.junctionOvertemp s).heatKept) _ _)
    exact (raise_heatKept _ _ _).after ⟨rfl, rfl, rfl, rfl, rfl, rfl, rfl⟩
  · exact clearFault_heatKept _ s

theorem stepActs_heatKept (old : Vector ThermStep 3) (s : State) : HeatKept s (stepActs old s) := by
  unfold stepActs
  dsimp only
  have hthree : ∀ (b on : Bool) (u : State), HeatKept u (if b then stepThree on u else u) := by
    intro b on u
    split
    · exact stepThree_heatKept on u
    · exact .refl u
  split
  · exact (hthree _ _ _).after ((stepTwo_heatKept _ _).after (settleShed_heatKept s))
  · exact (hthree _ _ _).after (settleShed_heatKept s)

/-- The readings of a conversion as the thermal record takes them, before the steps act (R535, R536). -/
def converted (rs : List Int) (s : State) : State :=
  { s with
    thm.temps := Vector.ofFn fun (i : Fin 24) => rs.getD i.val 0,
    thm.tj := (hottest s (rs.take 24)).1,
    thm.tjSensor := (hottest s (rs.take 24)).2,
    thm.tjMax := max s.thm.tjMax (hottest s (rs.take 24)).1,
    thm.convAt := s.now,
    thm.step2Ns := if s.thm.steps[1].on then s.thm.step2Ns + (s.now - s.thm.convAt) else s.thm.step2Ns,
    thm.step3Ns := if s.thm.steps[2].on then s.thm.step3Ns + (s.now - s.thm.convAt) else s.thm.step3Ns,
    thm.steps := Vector.ofFn fun (i : Fin 3) => judgeStep s.thm.steps[i] (stepLevels i).1 (stepLevels i).2 (hottest s (rs.take 24)).1 }

/-- JUNCTION_COLD, once (R536). -/
def coldJudged (s : State) : State :=
  if s.thm.tj < -80 ∧ !s.thm.coldSent then raise FaultCode.junctionCold 0 { s with thm.coldSent := true } else s

theorem coldJudged_heatKept (s : State) : HeatKept s (coldJudged s) := by
  unfold coldJudged
  split
  · exact (raise_heatKept _ _ _).after ⟨rfl, rfl, rfl, rfl, rfl, rfl, rfl⟩
  · exact .refl s

theorem converted_step (i : Fin 3) (rs : List Int) (s : State) :
    (converted rs s).thm.steps[i] = judgeStep s.thm.steps[i] (stepLevels i).1 (stepLevels i).2 (hottest s (rs.take 24)).1 :=
  Vector.getElem_ofFn _

theorem execTempSensorConversion_judges {t : Nat} {rs : List Int} {s : State} (hcpu : domOn s 2 = true) (hdue : s.thm.convAt + 100000 ≤ (advance t s).now) :
    ∃ s', execTempSensorConversion t rs s = .next s' ∧ HeatKept (converted rs (advance t s)) s' := by
  have hrun : ¬ (!domOn (advance t s) 2 || decide ((advance t s).now < (advance t s).thm.convAt + 100000)) = true := by
    have hcpu' : domOn (advance t s) 2 = true := hcpu
    rw [hcpu', Bool.not_true, Bool.false_or, decide_eq_true_eq]
    exact Nat.not_lt.2 hdue
  refine ⟨stepActs s.thm.steps (coldJudged (converted rs (advance t s))), ?_, (stepActs_heatKept _ _).after (coldJudged_heatKept _)⟩
  unfold execTempSensorConversion onEvent
  exact congrArg Host.Outcome.next (if_neg hrun)

/-! ### The system reference (R533) -/

@[simp] theorem finish_stl (cid status fault : Nat) (ws : List W64) (s : State) : (finish cid status fault ws s).stl = s.stl := by rw [finish_frame]

theorem settlePermits_stl (s : State) : (settlePermits s).stl = s.stl := by
  unfold settlePermits
  refine foldl_keeps State.stl (fun s c => ?_) _ s
  split
  · exact finish_stl _ _ _ _ s
  · rfl

theorem releaseAll_permit (s : State) (k : Fin 24) : (releaseAll s).stl[k].permit = false := by
  unfold releaseAll
  rw [settlePermits_stl]
  simp

/-- The clock without its reference: it settles, and the Stalls are as they were. -/
theorem clockNoRef_settles (s : State) : Settles s (clockNoRef s) ∧ (clockNoRef s).stl = s.stl := by
  unfold clockNoRef
  split
  · exact ⟨.refl s, rfl⟩
  · refine ⟨(enterHoldover_settles _ _ _).after ⟨rfl, rfl, rfl, rfl, rfl, rfl, rfl⟩, ?_⟩
    unfold enterHoldover
    rw [notify_frame]
    rfl

/-- The state in which the loss of the reference is known. -/
def referenceLost (s : State) : State := { s with pwr.refSysLost := true }

theorem execRefclkSysFail_runs {t : Nat} {s : State} (hgood : s.pwr.refSysLost = false) (hstage : 5 ≤ s.pwr.stage) (herr : s.pwr.bootError = 0) :
    execRefclkSysFail t s = .next (clockNoRef (releaseAll (raise FaultCode.refclkSysLost 0 (referenceLost (advance t s))))) := by
  simp [execRefclkSysFail, onEvent, hgood, herr, Nat.not_lt.2 hstage, referenceLost]

theorem execRefclkSysFail_boots {t : Nat} {s : State} (hgood : s.pwr.refSysLost = false) (hboot : s.pwr.stage < 5 ∨ s.pwr.bootError ≠ 0) :
    execRefclkSysFail t s = .next (referenceLost (advance t s)) := by
  simp only [execRefclkSysFail, onEvent, advance_pwr, hgood, Bool.false_eq_true, if_false]
  exact congrArg Host.Outcome.next (if_pos hboot)

theorem execRefclkSysRecover_clears {t : Nat} {s : State} (hlost : s.pwr.refSysLost = true) :
    execRefclkSysRecover t s = .next (clearFault FaultCode.refclkSysLost { advance t s with pwr.refSysLost := false }) := by
  simp [execRefclkSysRecover, onEvent, hlost]

/-! ### The statement -/

/-- Settles O32: the switched domain, the conversion's record and the lost reference each come from one lemma about their operation. -/
theorem powerAndHeat : Obligations.PowerAndHeat := by
  refine ⟨⟨fun t cid c s h hlo hhi => ⟨fun hon => ?_, fun hoff hallow => ?_, execPowerDomain_refused h hlo hhi⟩,
    fun t q rest d s hq hd => ⟨fun hoff hins hallow hdrained => ?_, fun hon => ?_⟩⟩,
    fun t s => ⟨fun rs tj k hcpu hdue hhot => ?_, fun hgood => ⟨fun hstage herr => ?_, execRefclkSysFail_boots hgood⟩, fun hlost => ?_⟩⟩
  · refine (execPowerDomain_on h hlo hhi hon).trans ?_
    simp only [requested, powerRequest, hon]
    rfl
  · obtain ⟨_, heq, b, o, rfl⟩ := execPowerDomain_off (t := t) h hlo hhi hoff hallow
    refine ⟨_, heq, rfl, ?_, rfl, rfl⟩
    simp only [requested, powerRequest, hoff]
    rfl
  · obtain ⟨u, heq, hswitched⟩ := execDomainPowerDownProceed_switches (t := t) hq hd hoff hins hallow hdrained
    exact ⟨_, heq, finish_switched hswitched⟩
  · obtain ⟨u, heq, hswitched⟩ := execDomainPowerUpDone_switches (t := t) hq hd hon
    exact ⟨_, heq, finish_switched hswitched⟩
  · obtain ⟨rfl, rfl⟩ : tj = (hottest (advance t s) (rs.take 24)).1 ∧ k = (hottest (advance t s) (rs.take 24)).2 := Prod.mk.inj hhot
    obtain ⟨s', heq, hkept⟩ := execTempSensorConversion_judges (t := t) (rs := rs) hcpu hdue
    have hsteps : ∀ i : Fin 3, s'.thm.steps[i] = (converted rs (advance t s)).thm.steps[i] := fun i => by rw [hkept.steps]
    exact ⟨s', heq, hkept.tj, hkept.tjSensor, hkept.tjMax, hkept.convAt, (hsteps 0).trans (converted_step 0 rs _),
      (hsteps 1).trans (converted_step 1 rs _), (hsteps 2).trans (converted_step 2 rs _), hkept.well, hkept.mot⟩
  · obtain ⟨hsettles, hstl⟩ := clockNoRef_settles (releaseAll (raise FaultCode.refclkSysLost 0 (referenceLost (advance t s))))
    have hall := (releaseAll_settles (raise FaultCode.refclkSysLost 0 (referenceLost (advance t s)))).trans hsettles
    obtain ⟨hpwr, -, -, hwell, -, -⟩ := raise_keeps_units FaultCode.refclkSysLost 0 (referenceLost (advance t s))
    refine ⟨_, execRefclkSysFail_runs hgood hstage herr, ?_, ?_, fun k => ?_, ?_⟩
    · rw [hall.pwr, hpwr]; rfl
    · rw [hall.active]; exact raise_active (by decide) (by decide)
    · rw [hstl]; exact releaseAll_permit _ k
    · rw [hall.well, hwell]; rfl
  · obtain ⟨hsettles, hcleared⟩ := clearFault_clears FaultCode.refclkSysLost { advance t s with pwr.refSysLost := false }
    exact ⟨_, execRefclkSysRecover_clears hlost, by rw [hsettles.pwr], hcleared, by rw [hsettles.well]; rfl⟩

end Sys2Proof.Machine
end

section
/-!
Tamper inputs, faults that clear, the Square, the test port and the takeovers of the control cores, and the statement about them.
-/
namespace Sys2Proof.Machine

/-! ### Tamper (R430, R431) -/

theorem logTamper_head (cause : Nat) (s : State) : ∃ e, (logTamper cause s).kry.log.head? = some e ∧ e.cause = cause := ⟨_, rfl, rfl⟩

/-- What zeroisation leaves (R431): the latch at its moment, no key, no session, no command, and its cause first in the tamper log. -/
structure Zeroised (cause : Nat) (s t : State) : Prop where
  latch : t.kry.latch = some s.now
  keys : t.kry.keys = []
  jobKeys : t.kry.jobKeys = []
  creds : t.kry.creds = []
  slots : t.cmd.slots = []
  sessions : t.cmd.sessions = []
  intake : t.cmd.intakeOpen = false
  log : ∃ e, t.kry.log.head? = some e ∧ e.cause = cause
  well : t.well = s.well

theorem zeroise_zeroised {cause : Nat} {s : State} (h : s.kry.latch = none) : Zeroised cause s (zeroise cause s) := by
  unfold zeroise
  rw [if_neg (by simp [h])]
  exact ⟨rfl, rfl, rfl, rfl, rfl, rfl, rfl, logTamper_head cause s, rfl⟩

theorem execTamperTrip_acts {t : Nat} {cause : TamperCause} {s : State} (hsense : tamperSenses s = true) (hact : sensorActs s cause = true) :
    execTamperTrip t cause s = .next (zeroise (tamperCode cause) (advance t s)) := by
  have hsense' : tamperSenses (advance t s) = true := hsense
  have hact' : sensorActs (advance t s) cause = true := by cases cause <;> exact hact
  simp only [execTamperTrip, onEvent, hsense', hact', Bool.and_self, if_true]

/-- The state in which a hold of the core has begun, before its fault is raised (R430). -/
def holdBegun (clock : Bool) (s : State) : State :=
  let u := logTamper (if clock then 6 else 5) s
  { u with kry.hold := some u.now, kry.holds := u.now :: u.kry.holds.filter fun m => decide (u.now < m + 1000000000) }

theorem execTamperHoldStart_holds {t : Nat} {clock : Bool} {s : State} (hsense : tamperSenses s = true) (hhold : s.kry.hold = none)
    (hlatch : s.kry.latch = none) (hvbat : s.pwr.onVbat = false) (hsec : domOn s 1 = true) :
    execTamperHoldStart t clock s = .next (raise FaultCode.kryntoHold 0 (holdBegun clock (advance t s))) := by
  have hsense' : tamperSenses (advance t s) = true := hsense
  have hsec' : domOn (advance t s) 1 = true := hsec
  simp only [execTamperHoldStart, onEvent, hsense', hsec', advance_kry, advance_pwr, hhold, hlatch, hvbat, Option.isSome_none, Bool.not_true, Bool.or_self,
    Bool.false_eq_true, if_false]
  rfl

theorem execTamperHoldClear_clears {t m : Nat} {s : State} (hhold : s.kry.hold = some m) (hfatal : holdFatal (advance t s) = false)
    (hlong : m + 1000000 ≤ (advance t s).now) :
    execTamperHoldClear t s = .next (clearFault FaultCode.kryntoHold { advance t s with kry.hold := none }) := by
  have hlong' : decide ((advance t s).now < m + 1000000) = false := decide_eq_false (Nat.not_lt.2 hlong)
  simp only [execTamperHoldClear, onEvent, advance_kry, hhold, hfatal, hlong', Bool.or_self, Bool.false_eq_true, if_false]

theorem execTamperHoldTimeout_zeroises {t : Nat} {s : State} (hfatal : holdFatal (advance t s) = true) :
    execTamperHoldTimeout t s = .next (zeroise (((advance t s).kry.log.head?.map (·.cause)).getD 5) (advance t s)) := by
  simp only [execTamperHoldTimeout, onEvent, hfatal, if_true]

/-! ### Faults that clear, the Square, the test port (R20, R541, R564) -/

theorem execDeviceFaultClear_eq (t code : Nat) (s : State) :
    execDeviceFaultClear t code s = .next (if clears s code then clearFault code (advance t s) else advance t s) := rfl

theorem raise_lineSlot (code detail line : Nat) (s : State) : lineSlot (raise code detail s) line = lineSlot s line := by
  rw [raise_frame]; rfl

theorem execSquareTimeout_aon {t line waited : Nat} {s : State} (h : 100000 < waited) :
    execSquareTimeout t line true waited s = .next (raise FaultCode.squareTimeout line (advance t s)) := by
  simp only [execSquareTimeout, onEvent, if_true, if_neg (Nat.not_le.2 h)]
  split <;> rfl

theorem execSquareTimeout_mill {t line waited k : Nat} {l : LineSlot} {s : State} (h : 2000 < waited) (hl : lineSlot s line = some l)
    (hk : l.awaiting.head? = some k) :
    execSquareTimeout t line false waited s = .next (takeResult line k (.absent 6) (raise FaultCode.squareTimeout line (advance t s))) := by
  have hl' : lineSlot (advance t s) line = some l := hl
  simp only [execSquareTimeout, onEvent, Bool.false_eq_true, if_false, if_neg (Nat.not_le.2 h), raise_lineSlot, hl', hk]

/-! ### Takeovers (R506, R507) -/

theorem execCoreTakeover_stops {t : Nat} {s : State} (hready : s.pwr.ready = true) (hfree : s.bgd.takeover = false) (hwork : workingCores s ≠ []) :
    execCoreTakeover t s = .next (setInt 35 { advance t s with bgd.takeover := true, bgd.takeAt := (advance t s).now }) := by
  have hwork' : (workingCores (advance t s)).isEmpty = false := List.isEmpty_eq_false_iff.2 hwork
  simp only [execCoreTakeover, onEvent, advance_pwr, advance_bgd, hready, hfree, hwork', Bool.not_true, Bool.or_self, Bool.false_eq_true, if_false]

/-- An operation leaves the roles of the cores, the takeover and the takeovers counted as they were. -/
structure CoresKept (s t : State) : Prop where
  cores : t.bgd.cores = s.bgd.cores
  takeover : t.bgd.takeover = s.bgd.takeover
  transient : t.bgd.transient = s.bgd.transient

theorem CoresKept.refl (s : State) : CoresKept s s := ⟨rfl, rfl, rfl⟩

theorem CoresKept.of_bgd {s t : State} (h : t.bgd = s.bgd) : CoresKept s t := by constructor <;> rw [h]

/-- The last operation first. -/
theorem CoresKept.after {s t u : State} (k : CoresKept t u) (h : CoresKept s t) : CoresKept s u :=
  ⟨k.cores.trans h.cores, k.takeover.trans h.takeover, k.transient.trans h.transient⟩

theorem CoresKept.foldl {α : Type} {g : State → α → State} (hg : ∀ s a, CoresKept s (g s a)) (l : List α) (s : State) :
    CoresKept s (l.foldl g s) := foldl_rel .refl (fun h k => k.after h) hg l s

theorem skipTime_coresKept (d : Nat) (p : Fin 7 → Bool) (s : State) : CoresKept s (skipTime d p s) := by
  refine .foldl (fun s i => ?_) _ s
  split <;> exact ⟨rfl, rfl, rfl⟩

theorem notify_coresKept (code detail : Nat) (s : State) : CoresKept s (notify code detail s) := .of_bgd (by rw [notify_frame])

theorem judgeCores_coresKept (s : State) : CoresKept s (judgeCores s) := by
  unfold judgeCores
  split
  · exact .refl s
  · split
    · exact .of_bgd (by rw [raise_frame])
    · exact notify_coresKept _ _ s

theorem resumeAct_coresKept (s : State) : CoresKept s (resumeAct s) := by
  unfold resumeAct
  split
  · exact .refl s
  · exact ⟨rfl, rfl, rfl⟩

theorem setInt_coresKept (i : Nat) (s : State) : CoresKept s (setInt i s) := .of_bgd (by rw [setInt_frame])

/-- The takeover is counted where both stopped cores passed (R506). -/
def takeoverCounted (stopped : List (Fin 3)) (both : Bool) (s : State) : State :=
  if s.bgd.takeover && both then
    { s with bgd.transient := (maskOf ((List.finRange 3).map fun (k : Fin 3) => stopped.contains k), devSec s) :: s.bgd.transient }
  else s

/-- The stopped cores that passed their test, the lower one first. -/
def coresPassed (i j : Fin 3) (passA passB : Bool) : List (Fin 3) := (if passA then [i] else []) ++ (if passB then [j] else [])

/-- The stopped cores that a takeover retires. -/
def coresGone (s : State) (i j : Fin 3) (passA passB : Bool) : List (Fin 3) :=
  coresLost (takeoverCounted [i, j] (passA && passB) s) [i, j] (coresPassed i j passA passB)

/-- The stopped cores that a takeover keeps. -/
def coresStay (s : State) (i j : Fin 3) (passA passB : Bool) : List (Fin 3) :=
  (coresPassed i j passA passB).filter fun x => !(coresGone s i j passA passB).contains x

/-- The state in which the cores have their new roles (R506, R507). -/
def coresAssigned (spare : Option (Fin 3)) (kept gone : List (Fin 3)) (s : State) : State :=
  let u := gone.foldl (fun s _ => granaryCount 2 0 s) s
  { u with bgd.cores := Vector.ofFn fun (x : Fin 3) => newCores spare kept x u.bgd.cores[x], bgd.takeover := false }

/-- What follows the new roles: passes go on, the takeover is reported, an activation is resumed. -/
def takeoverReported (gone : List (Fin 3)) (transient : Bool) (s : State) : State :=
  setInt 36 (resumeAct (judgeCores (notify Notice.coreTakeover
    (maskOf ((List.finRange 3).map fun (x : Fin 3) => gone.contains x) + put (flag transient) 8) (skipTime (s.now - s.bgd.takeAt) (fun _ => true) s))))

theorem takeoverReported_coresKept (gone : List (Fin 3)) (transient : Bool) (s : State) : CoresKept s (takeoverReported gone transient s) :=
  (setInt_coresKept _ _).after ((resumeAct_coresKept _).after ((judgeCores_coresKept _).after ((notify_coresKept _ _ _).after (skipTime_coresKept _ _ s))))

theorem granaryCounts_coresKept (gone : List (Fin 3)) (s : State) : CoresKept s (gone.foldl (fun s _ => granaryCount 2 0 s) s) :=
  .foldl (g := fun s _ => granaryCount 2 0 s) (fun _ _ => ⟨rfl, rfl, rfl⟩) gone s

theorem coresAssigned_cores (spare : Option (Fin 3)) (kept gone : List (Fin 3)) (s : State) (x : Fin 3) :
    (coresAssigned spare kept gone s).bgd.cores[x] = newCores spare kept x s.bgd.cores[x] := by
  rw [← (granaryCounts_coresKept gone s).cores]
  exact Vector.getElem_ofFn _

theorem takeoverCounted_cores (stopped : List (Fin 3)) (both : Bool) (s : State) : (takeoverCounted stopped both s).bgd.cores = s.bgd.cores := by
  unfold takeoverCounted; split <;> rfl

theorem takeoverCounted_takeover (stopped : List (Fin 3)) (both : Bool) (s : State) :
    (takeoverCounted stopped both s).bgd.takeover = s.bgd.takeover := by
  unfold takeoverCounted; split <;> rfl

/-- The end of a takeover, with the takeover counted. -/
def takeoverEnded (stopped passed : List (Fin 3)) (spare : Option (Fin 3)) (transient : Bool) (s : State) : State :=
  let gone := coresLost s stopped passed
  let kept := passed.filter fun x => !gone.contains x
  if !s.bgd.takeover || stopped.isEmpty || (spare.isNone && kept.isEmpty) then s
  else takeoverReported gone transient (coresAssigned spare kept gone s)

theorem execTakeoverComplete_eq (t : Nat) (passA passB : Bool) (s : State) :
    execTakeoverComplete t passA passB s =
      let stopped := coresIn (advance t s) .lockstep
      let passed := (stopped.zip [passA, passB]).filterMap fun p => if p.2 then some p.1 else none
      let transient := decide (stopped.length = 2) && decide (passed.length = 2)
      .next (takeoverEnded stopped passed (spareCore (advance t s)) transient (takeoverCounted stopped transient (advance t s))) := rfl

theorem takeoverEnded_completes {stopped passed : List (Fin 3)} {spare : Option (Fin 3)} {transient : Bool} {s : State} (htake : s.bgd.takeover = true)
    (hstopped : stopped.isEmpty = false) (hspare : spare.isNone = false) :
    (takeoverEnded stopped passed spare transient s).bgd.takeover = false ∧
      (takeoverEnded stopped passed spare transient s).bgd.transient = s.bgd.transient ∧
      ∀ x : Fin 3, (takeoverEnded stopped passed spare transient s).bgd.cores[x] =
        newCores spare (passed.filter fun y => !(coresLost s stopped passed).contains y) x s.bgd.cores[x] := by
  have heq : takeoverEnded stopped passed spare transient s = takeoverReported (coresLost s stopped passed) transient
      (coresAssigned spare (passed.filter fun y => !(coresLost s stopped passed).contains y) (coresLost s stopped passed) s) := by
    simp only [takeoverEnded, htake, hstopped, hspare, Bool.not_true, Bool.false_and, Bool.or_self, Bool.false_eq_true, if_false]
  have hkept := takeoverReported_coresKept (coresLost s stopped passed) transient
    (coresAssigned spare (passed.filter fun y => !(coresLost s stopped passed).contains y) (coresLost s stopped passed) s)
  rw [← heq] at hkept
  refine ⟨hkept.takeover, hkept.transient.trans (granaryCounts_coresKept _ s).transient, fun x => ?_⟩
  exact (congrArg (fun v : Vector CoreState 3 => v[x]) hkept.cores).trans (coresAssigned_cores _ _ _ s x)

theorem execTakeoverComplete_ends {t : Nat} {i j k : Fin 3} (passA passB : Bool) {s : State} (htake : s.bgd.takeover = true)
    (hpair : coresIn s .lockstep = [i, j]) (hspare : spareCore s = some k) :
    ∃ s', execTakeoverComplete t passA passB s = .next s' ∧ s'.bgd.takeover = false ∧
      s'.bgd.transient = (takeoverCounted [i, j] (passA && passB) (advance t s)).bgd.transient ∧
      ∀ x : Fin 3, s'.bgd.cores[x] = newCores (some k) (coresStay (advance t s) i j passA passB) x s.bgd.cores[x] := by
  have hpair' : coresIn (advance t s) .lockstep = [i, j] := hpair
  have hspare' : spareCore (advance t s) = some k := hspare
  have hpassed : ([i, j].zip [passA, passB]).filterMap (fun p => if p.2 then some p.1 else none) = coresPassed i j passA passB := by
    cases passA <;> cases passB <;> rfl
  have hboth : (decide ([i, j].length = 2) && decide ((coresPassed i j passA passB).length = 2)) = (passA && passB) := by
    cases passA <;> cases passB <;> rfl
  obtain ⟨hend, htransient, hcores⟩ := takeoverEnded_completes (stopped := [i, j]) (passed := coresPassed i j passA passB) (spare := some k)
    (transient := passA && passB) ((takeoverCounted_takeover [i, j] (passA && passB) (advance t s)).trans htake) rfl rfl
  refine ⟨_, ?_, hend, htransient, fun x => ?_⟩
  · rw [execTakeoverComplete_eq]
    simp only [hpair', hspare', hpassed, hboth]
  · rw [hcores, takeoverCounted_cores]
    rfl

/-! ### The roles after a takeover (R506, R507) -/

theorem newCores_retired {spare x : Fin 3} {kept : List (Fin 3)} {old : CoreState} (hout : x ∉ spare :: kept) : newCores (some spare) kept x old = .retired := by
  have hout' : x ≠ spare ∧ x ∉ kept := by simpa using hout
  simp [newCores, hout']

theorem newCores_single {spare : Fin 3} {old : CoreState} (hold : old ≠ .retired) : newCores (some spare) [] spare old = .single := by
  simp [newCores, hold]

theorem newCores_lockstep {spare x y : Fin 3} {rest : List (Fin 3)} {old : CoreState} (hold : old ≠ .retired) (hin : x = spare ∨ x = y) :
    newCores (some spare) (y :: rest) x old = .lockstep := by
  rcases hin with rfl | rfl <;> simp [newCores, hold]

theorem newCores_spare {spare x y : Fin 3} {old : CoreState} (hold : old ≠ .retired) (hspare : x ≠ spare) (hy : x ≠ y) :
    newCores (some spare) [y, x] x old = .spare := by
  simp [newCores, hold, hspare, hy]

/-- The stopped cores are the lower and the higher of the pair in lockstep, and the spare is a third one. -/
theorem pair_and_spare {i j k : Fin 3} {s : State} (hpair : coresIn s .lockstep = [i, j]) (hspare : spareCore s = some k) :
    s.bgd.cores[i] = .lockstep ∧ s.bgd.cores[j] = .lockstep ∧ s.bgd.cores[k] = .spare ∧ i ≠ j ∧ i ≠ k ∧ j ≠ k := by
  have hlock : ∀ x ∈ coresIn s .lockstep, s.bgd.cores[x] = .lockstep := fun x hx => by simpa [coresIn] using hx
  have hi : s.bgd.cores[i] = .lockstep := hlock i (by simp [hpair])
  have hj : s.bgd.cores[j] = .lockstep := hlock j (by simp [hpair])
  have hk : s.bgd.cores[k] = .spare := by simpa using List.find?_some hspare
  have hnodup : (coresIn s .lockstep).Nodup := (List.nodup_finRange 3).filter _
  have hij : i ≠ j := by simpa [hpair] using hnodup
  have hother : ∀ x : Fin 3, s.bgd.cores[x] = .lockstep → x ≠ k := by
    rintro x hx rfl
    rw [hk] at hx
    cases hx
  exact ⟨hi, hj, hk, hij, hother i hi, hother j hj⟩

/-- With fewer than two transient takeovers counted before, a further one retires no core. -/
theorem coresStay_both {i j : Fin 3} {s : State} (hfew : s.bgd.transient.length < 2) : coresStay s i j true true = [i, j] := by
  have hlen : (takeoverCounted [i, j] true s).bgd.transient.length ≤ 2 := by
    unfold takeoverCounted
    split
    · exact hfew
    · omega
  have hworn : ∀ p : Nat × Nat → Bool, ¬ 3 ≤ ((takeoverCounted [i, j] true s).bgd.transient.filter p).length := fun p => by
    have := List.length_filter_le p (takeoverCounted [i, j] true s).bgd.transient
    omega
  have hgone : coresGone s i j true true = [] := by
    simp [coresGone, coresLost, coresPassed, hworn]
  simp [coresStay, hgone, coresPassed]

theorem coresStay_lower {i j : Fin 3} {s : State} (hij : i ≠ j) : coresStay s i j true false = [i] := by
  simp [coresStay, coresGone, coresLost, coresPassed, hij]

theorem coresStay_none (i j : Fin 3) (s : State) : coresStay s i j false false = [] := by
  simp [coresStay, coresPassed]

/-- Settles O33: zeroisation, a cleared fault and the end of a takeover each come from one lemma about their operation. -/
theorem failuresAreContained : Obligations.FailuresAreContained := by
  refine ⟨fun t s => ⟨fun cause hsense hact hlatch => ?_, fun clock hsense hhold hlatch hvbat hsec => ?_, fun m hhold => ⟨fun hfatal hlong => ?_,
    fun hfatal hlatch => ?_⟩, fun code => ⟨fun hclears => ?_, fun hnot => ?_⟩, fun line waited => ⟨execSquareTimeout_aon,
    fun l k hwait hl hk => execSquareTimeout_mill hwait hl hk⟩, fun i => rfl⟩, fun t s hready hfree hwork => ?_,
    fun t i j k s htake hpair hspare hfew => ?_⟩
  · have h := zeroise_zeroised (cause := tamperCode cause) (s := advance t s) hlatch
    exact ⟨_, execTamperTrip_acts hsense hact, h.latch, h.keys, h.jobKeys, h.creds, h.slots, h.sessions, h.intake, h.log, h.well⟩
  · obtain ⟨-, -, hkry, -, -, -⟩ := raise_keeps_units FaultCode.kryntoHold 0 (holdBegun clock (advance t s))
    refine ⟨_, execTamperHoldStart_holds hsense hhold hlatch hvbat hsec, ?_, raise_active (by decide) (by decide), ?_, ?_⟩ <;> rw [hkry]
    · rfl
    · exact logTamper_head (if clock then 6 else 5) (advance t s)
    · rfl
  · obtain ⟨hsettles, hcleared⟩ := clearFault_clears FaultCode.kryntoHold { advance t s with kry.hold := none }
    exact ⟨_, execTamperHoldClear_clears hhold hfatal hlong, by rw [hsettles.kry], hcleared⟩
  · have h := zeroise_zeroised (cause := ((advance t s).kry.log.head?.map (·.cause)).getD 5) (s := advance t s) hlatch
    exact ⟨_, execTamperHoldTimeout_zeroises hfatal, h.latch, h.keys⟩
  · exact ⟨_, (execDeviceFaultClear_eq t code s).trans (by rw [if_pos hclears]), (clearFault_clears code (advance t s)).2⟩
  · exact (execDeviceFaultClear_eq t code s).trans (by rw [if_neg (by simp [hnot])])
  · obtain ⟨b, o, heq⟩ := setInt_changes 35 { advance t s with bgd.takeover := true, bgd.takeAt := (advance t s).now }
    exact ⟨_, (execCoreTakeover_stops hready hfree hwork).trans (by rw [heq]), rfl, rfl⟩
  · obtain ⟨hi, hj, hk, hij, hik, hjk⟩ := pair_and_spare hpair hspare
    refine ⟨?_, ?_, ?_⟩
    · obtain ⟨s', heq, hend, htransient, hcores⟩ := execTakeoverComplete_ends (t := t) true true htake hpair hspare
      rw [coresStay_both (s := advance t s) hfew] at hcores
      refine ⟨s', heq, hend, ?_, ?_, ?_, ?_⟩
      · rw [hcores, hk]; exact newCores_lockstep (by decide) (.inl rfl)
      · rw [hcores, hi]; exact newCores_lockstep (by decide) (.inr rfl)
      · rw [hcores, hj]; exact newCores_spare (by decide) hjk hij.symm
      · rw [htransient, takeoverCounted, if_pos (by simp [htake])]; rfl
    · obtain ⟨s', heq, hend, -, hcores⟩ := execTakeoverComplete_ends (t := t) true false htake hpair hspare
      rw [coresStay_lower hij] at hcores
      refine ⟨s', heq, hend, ?_, ?_, ?_⟩
      · rw [hcores, hk]; exact newCores_lockstep (by decide) (.inl rfl)
      · rw [hcores, hi]; exact newCores_lockstep (by decide) (.inr rfl)
      · rw [hcores]; exact newCores_retired (by simp [hjk, hij.symm])
    · obtain ⟨s', heq, hend, -, hcores⟩ := execTakeoverComplete_ends (t := t) false false htake hpair hspare
      rw [coresStay_none] at hcores
      refine ⟨s', heq, hend, ?_, ?_, ?_⟩
      · rw [hcores, hk]; exact newCores_single (by decide)
      · rw [hcores]; exact newCores_retired (by simp [hik])
      · rw [hcores]; exact newCores_retired (by simp [hjk])

end Sys2Proof.Machine
end

section
/-!
What one step does: the front command on the rest of the queue, and what that command's meaning keeps, whichever it is. The statements about the queue and about the
invariants of a run.
-/
namespace Sys2Proof.Machine

/-! ### The front of the queue -/

theorem step_cons (c : Instr) (rest : List Instr) (s : State) : step { s with pending := c :: rest } = exec c { s with pending := rest } := rfl

theorem step_idle {s : State} (h : s.pending = []) : step s = .next s := by
  unfold step; rw [h]

theorem step_front {s : State} {c : Instr} {rest : List Instr} (h : s.pending = c :: rest) : step s = exec c { s with pending := rest } := by
  unfold step; rw [h]

/-- Settles O1: both clauses are the equations of `step`, one for each form of the queue. -/
theorem stepRunsFrontCommand : Obligations.StepRunsFrontCommand := ⟨step_cons, fun _ => step_idle⟩

/-! ### What a step keeps -/

/-- Whatever the command, its meaning keeps the queue, the invariants and the rising counters. -/
theorem exec_keeps {r s : State} (i : Instr) (h : Keeps r s) : KeepsO r (exec i s) :=
  match i with
  | .commandIntake .. => execCommandIntake_keeps h
  | .interimReply .. => execInterimReply_keeps h
  | .replyRingWrite .. => execReplyRingWrite_keeps h
  | .udpReplySend .. => execUdpReplySend_keeps h
  | .uraraReplyReceive .. => execUraraReplyReceive_keeps h
  | .identify .. => execIdentify_keeps h
  | .status .. => execStatus_keeps h
  | .abortTag .. => execAbortTag_keeps h
  | .netConfig .. => execNetConfig_keeps h
  | .powerDomain .. => execPowerDomain_keeps h
  | .domainPowerDownProceed .. => execDomainPowerDownProceed_keeps h
  | .domainPowerUpDone .. => execDomainPowerUpDone_keeps h
  | .granaryReport .. => execGranaryReport_keeps h
  | .crierConfig .. => execCrierConfig_keeps h
  | .reset .. => execReset_keeps h
  | .jobLoad .. => execJobLoad_keeps h
  | .jobCheckComplete .. => execJobCheckComplete_keeps h
  | .jobActivate .. => execJobActivate_keeps h
  | .screenStoreLoaded .. => execScreenStoreLoaded_keeps h
  | .jobSwitch .. => execJobSwitch_keeps h
  | .jobUnload .. => execJobUnload_keeps h
  | .motionConfig .. => execMotionConfig_keeps h
  | .rejectPolicy .. => execRejectPolicy_keeps h
  | .queueRead .. => execQueueRead_keeps h
  | .productForce .. => execProductForce_keeps h
  | .poolGrant .. => execPoolGrant_keeps h
  | .permutationTableDone .. => execPermutationTableDone_keeps h
  | .streamBind .. => execStreamBind_keeps h
  | .calendarLoad .. => execCalendarLoad_keeps h
  | .poolStatus .. => execPoolStatus_keeps h
  | .codeVoid .. => execCodeVoid_keeps h
  | .journalRead .. => execJournalRead_keeps h
  | .manifestClose .. => execManifestClose_keeps h
  | .stallConfig .. => execStallConfig_keeps h
  | .pulseTableLoad .. => execPulseTableLoad_keeps h
  | .dutyLimits .. => execDutyLimits_keeps h
  | .firePermit .. => execFirePermit_keeps h
  | .elementRetire .. => execElementRetire_keeps h
  | .spitCycle .. => execSpitCycle_keeps h
  | .headStatus .. => execHeadStatus_keeps h
  | .calRun .. => execCalRun_keeps h
  | .calRead .. => execCalRead_keeps h
  | .calWrite .. => execCalWrite_keeps h
  | .placementLearn .. => execPlacementLearn_keeps h
  | .timeRead .. => execTimeRead_keeps h
  | .ptpConfig .. => execPtpConfig_keeps h
  | .timeSelect .. => execTimeSelect_keeps h
  | .timeSet .. => execTimeSet_keeps h
  | .ppsConfig .. => execPpsConfig_keeps h
  | .sensorConfig .. => execSensorConfig_keeps h
  | .settingSet .. => execSettingSet_keeps h
  | .settingWriteAck .. => execSettingWriteAck_keeps h
  | .verifyConfig .. => execVerifyConfig_keeps h
  | .imageCapture .. => execImageCapture_keeps h
  | .certRead .. => execCertRead_keeps h
  | .sessionOpen .. => execSessionOpen_keeps h
  | .sessionProve .. => execSessionProve_keeps h
  | .sessionProveTimeout .. => execSessionProveTimeout_keeps h
  | .credentialUnlock .. => execCredentialUnlock_keeps h
  | .sessionClose .. => execSessionClose_keeps h
  | .groupSessionExpire .. => execGroupSessionExpire_keeps h
  | .ownerTransfer .. => execOwnerTransfer_keeps h
  | .roleCredential .. => execRoleCredential_keeps h
  | .jobKeyLoad .. => execJobKeyLoad_keeps h
  | .imageStage .. => execImageStage_keeps h
  | .imageActivate .. => execImageActivate_keeps h
  | .fwHandoff .. => execFwHandoff_keeps h
  | .fwActivateBusyTimeout .. => execFwActivateBusyTimeout_keeps h
  | .fwReplyTimeout .. => execFwReplyTimeout_keeps h
  | .zeroise .. => execZeroise_keeps h
  | .attest .. => execAttest_keeps h
  | .nodeId .. => execNodeId_keeps h
  | .topology .. => execTopology_keeps h
  | .twinBind .. => execTwinBind_keeps h
  | .twinYield .. => execTwinYield_keeps h
  | .twinStatus .. => execTwinStatus_keeps h
  | .linkStatus .. => execLinkStatus_keeps h
  | .ringRole .. => execRingRole_keeps h
  | .wellRead .. => execWellRead_keeps h
  | .wellWrite .. => execWellWrite_keeps h
  | .checkRun .. => execCheckRun_keeps h
  | .checkScanComplete .. => execCheckScanComplete_keeps h
  | .scrubConfig .. => execScrubConfig_keeps h
  | .loopback .. => execLoopback_keeps h
  | .loopbackEnd .. => execLoopbackEnd_keeps h
  | .telemetryRead .. => execTelemetryRead_keeps h
  | .ringTailWrite .. => execRingTailWrite_keeps h
  | .ringHeadWrite .. => execRingHeadWrite_keeps h
  | .ringEnable .. => execRingEnable_keeps h
  | .ringDisable .. => execRingDisable_keeps h
  | .ringPause .. => execRingPause_keeps h
  | .ringPauseComplete .. => execRingPauseComplete_keeps h
  | .ringResume .. => execRingResume_keeps h
  | .shadowArmWrite .. => execShadowArmWrite_keeps h
  | .ringStatusClear .. => execRingStatusClear_keeps h
  | .intStatusClear .. => execIntStatusClear_keeps h
  | .bar0RegisterWrite .. => execBar0RegisterWrite_keeps h
  | .descriptorFetch .. => execDescriptorFetch_keeps h
  | .descriptorComplete .. => execDescriptorComplete_keeps h
  | .ringHoldoffExpiry .. => execRingHoldoffExpiry_keeps h
  | .ringDomainDeadline .. => execRingDomainDeadline_keeps h
  | .functionLevelReset .. => execFunctionLevelReset_keeps h
  | .mbxBootLog .. => execMbxBootLog_keeps h
  | .mbxDeviceCert .. => execMbxDeviceCert_keeps h
  | .mbxRecoveryLoad .. => execMbxRecoveryLoad_keeps h
  | .mbxRetryBoot .. => execMbxRetryBoot_keeps h
  | .arpRequestReceive .. => execArpRequestReceive_keeps h
  | .neighborSolicitReceive .. => execNeighborSolicitReceive_keeps h
  | .icmpEchoReceive .. => execIcmpEchoReceive_keeps h
  | .routerAdvertReceive .. => execRouterAdvertReceive_keeps h
  | .netRateHuntSwitch .. => execNetRateHuntSwitch_keeps h
  | .encoderEdge .. => execEncoderEdge_keeps h
  | .encoderSignalLoss .. => execEncoderSignalLoss_keeps h
  | .encoderZPulse .. => execEncoderZPulse_keeps h
  | .lineBoundary .. => execLineBoundary_keeps h
  | .pacerTick .. => execPacerTick_keeps h
  | .lineIndexSave .. => execLineIndexSave_keeps h
  | .productNumberSave .. => execProductNumberSave_keeps h
  | .pdEdge .. => execPdEdge_keeps h
  | .detectAccept .. => execDetectAccept_keeps h
  | .ogEdge .. => execOgEdge_keeps h
  | .spitDropWindowEnd .. => execSpitDropWindowEnd_keeps h
  | .gateDecisionPlace .. => execGateDecisionPlace_keeps h
  | .tallyIssueGroup .. => execTallyIssueGroup_keeps h
  | .serialLookahead .. => execSerialLookahead_keeps h
  | .issueDurable .. => execIssueDurable_keeps h
  | .overlayRender .. => execOverlayRender_keeps h
  | .recordBlockClose .. => execRecordBlockClose_keeps h
  | .recordStreamAck .. => execRecordStreamAck_keeps h
  | .recordBlockResend .. => execRecordBlockResend_keeps h
  | .lineDispatch .. => execLineDispatch_keeps h
  | .segmentDecode .. => execSegmentDecode_keeps h
  | .segmentDecodeComplete .. => execSegmentDecodeComplete_keeps h
  | .intakeSegmentRedecode .. => execIntakeSegmentRedecode_keeps h
  | .sliceResultComplete .. => execSliceResultComplete_keeps h
  | .voteRecomputeStart .. => execVoteRecomputeStart_keeps h
  | .voteRecomputeDone .. => execVoteRecomputeDone_keeps h
  | .sliceTimeout .. => execSliceTimeout_keeps h
  | .millDomainLost .. => execMillDomainLost_keeps h
  | .calEpochCommit .. => execCalEpochCommit_keeps h
  | .placementEpochCommit .. => execPlacementEpochCommit_keeps h
  | .stallReadout .. => execStallReadout_keeps h
  | .lineFrameSend .. => execLineFrameSend_keeps h
  | .fireBlockSend .. => execFireBlockSend_keeps h
  | .spitFire .. => execSpitFire_keeps h
  | .headAckReceive .. => execHeadAckReceive_keeps h
  | .headNakReceive _ _ _ reason => execHeadNakReceive_keeps (a4 := reason) h
  | .headFiredReceive .. => execHeadFiredReceive_keeps h
  | .firedTimeout .. => execFiredTimeout_keeps h
  | .headStatusReceive .. => execHeadStatusReceive_keeps h
  | .vppRecover .. => execVppRecover_keeps h
  | .headAlarmReceive .. => execHeadAlarmReceive_keeps h
  | .headResistReceive .. => execHeadResistReceive_keeps h
  | .headIdentReceive .. => execHeadIdentReceive_keeps h
  | .headDriveReceive .. => execHeadDriveReceive_keeps h
  | .permitWithdrawEffect .. => execPermitWithdrawEffect_keeps h
  | .laneSignalDetect .. => execLaneSignalDetect_keeps h
  | .blockLock .. => execBlockLock_keeps h
  | .lossOfLock .. => execLossOfLock_keeps h
  | .relockTimeout .. => execRelockTimeout_keeps h
  | .adaptDone .. => execAdaptDone_keeps h
  | .probeReceive .. => execProbeReceive_keeps h
  | .probeEchoReceive .. => execProbeEchoReceive_keeps h
  | .probeSend .. => execProbeSend_keeps h
  | .fomSweep .. => execFomSweep_keeps h
  | .laneFastExit .. => execLaneFastExit_keeps h
  | .spareRateHuntSwitch .. => execSpareRateHuntSwitch_keeps h
  | .moveBlockReceive _ _ _ spare _ _ => execMoveBlockReceive_keeps (a4 := spare) h
  | .refclkSerFail .. => execRefclkSerFail_keeps h
  | .refclkSerRecover .. => execRefclkSerRecover_keeps h
  | .announceSend .. => execAnnounceSend_keeps h
  | .announceReceive .. => execAnnounceReceive_keeps h
  | .routeReceive .. => execRouteReceive_keeps h
  | .routeFullAdvertise .. => execRouteFullAdvertise_keeps h
  | .routeExpire .. => execRouteExpire_keeps h
  | .uraraPacketReceive .. => execUraraPacketReceive_keeps h
  | .lackReceive .. => execLackReceive_keeps h
  | .lackSend .. => execLackSend_keeps h
  | .lnakReceive .. => execLnakReceive_keeps h
  | .uraraCommandReceive .. => execUraraCommandReceive_keeps h
  | .triggerReceive .. => execTriggerReceive_keeps h
  | .timeSend .. => execTimeSend_keeps h
  | .timeReceive .. => execTimeReceive_keeps h
  | .leaseRenewSend .. => execLeaseRenewSend_keeps h
  | .leaseRenewReceive .. => execLeaseRenewReceive_keeps h
  | .leaseAckReceive .. => execLeaseAckReceive_keeps h
  | .leaseDenyReceive .. => execLeaseDenyReceive_keeps h
  | .leaseHandoverReceive .. => execLeaseHandoverReceive_keeps h
  | .leadLeaseExpiry .. => execLeadLeaseExpiry_keeps h
  | .leadExpiryDecision .. => execLeadExpiryDecision_keeps h
  | .standbyTakeover .. => execStandbyTakeover_keeps h
  | .witnessToggle .. => execWitnessToggle_keeps h
  | .witnessEdge .. => execWitnessEdge_keeps h
  | .witnessSilent .. => execWitnessSilent_keeps h
  | .digestReceive .. => execDigestReceive_keeps h
  | .checkReceive .. => execCheckReceive_keeps h
  | .unitYield .. => execUnitYield_keeps h
  | .jreplReceive .. => execJreplReceive_keeps h
  | .epochProposeReceive .. => execEpochProposeReceive_keeps h
  | .epochCommitReceive .. => execEpochCommitReceive_keeps h
  | .linemarkReceive .. => execLinemarkReceive_keeps h
  | .verdictReceive .. => execVerdictReceive_keeps h
  | .copyBeginReceive .. => execCopyBeginReceive_keeps h
  | .copyCommitReceive .. => execCopyCommitReceive_keeps h
  | .copyDoneReceive .. => execCopyDoneReceive_keeps h
  | .twinCopyRetry .. => execTwinCopyRetry_keeps h
  | .telemetryReceive .. => execTelemetryReceive_keeps h
  | .ptpSyncReceive .. => execPtpSyncReceive_keeps h
  | .ptpFollowUpReceive .. => execPtpFollowUpReceive_keeps h
  | .ptpAnnounceReceive .. => execPtpAnnounceReceive_keeps h
  | .ptpDelayReqSend .. => execPtpDelayReqSend_keeps h
  | .ptpDelayRespReceive .. => execPtpDelayRespReceive_keeps h
  | .ptpDomainTimeout .. => execPtpDomainTimeout_keeps h
  | .frozenGuardExpiry .. => execFrozenGuardExpiry_keeps h
  | .faultyDomainRecover .. => execFaultyDomainRecover_keeps h
  | .preferredDomainReturn .. => execPreferredDomainReturn_keeps h
  | .timeDisagree .. => execTimeDisagree_keeps h
  | .leapSecond .. => execLeapSecond_keeps h
  | .timeFloorSave .. => execTimeFloorSave_keeps h
  | .ppsInEdge .. => execPpsInEdge_keeps h
  | .ppsInLost .. => execPpsInLost_keeps h
  | .ppsOutPulse .. => execPpsOutPulse_keeps h
  | .ppsOutPulseEnd .. => execPpsOutPulseEnd_keeps h
  | .cameraTriggerPulseEnd .. => execCameraTriggerPulseEnd_keeps h
  | .csiFrameStart .. => execCsiFrameStart_keeps h
  | .csiLongPacket .. => execCsiLongPacket_keeps h
  | .csiFrameEnd .. => execCsiFrameEnd_keeps h
  | .pipelineFrameDone .. => execPipelineFrameDone_keeps h
  | .imageGraded .. => execImageGraded_keeps h
  | .ledgerWriteComplete .. => execLedgerWriteComplete_keeps h
  | .ledgerSectorSpareCopy .. => execLedgerSectorSpareCopy_keeps h
  | .wellRefreshDue .. => execWellRefreshDue_keeps h
  | .dramMr4Poll .. => execDramMr4Poll_keeps h
  | .wellDriftTrack .. => execWellDriftTrack_keeps h
  | .wellZqCal .. => execWellZqCal_keeps h
  | .selfRefreshEntry .. => execSelfRefreshEntry_keeps h
  | .selfRefreshExit .. => execSelfRefreshExit_keeps h
  | .wellRepairWindow .. => execWellRepairWindow_keeps h
  | .wellHardRepair .. => execWellHardRepair_keeps h
  | .wellPatrolScrub .. => execWellPatrolScrub_keeps h
  | .ledgerScrub .. => execLedgerScrub_keeps h
  | .sramScrub .. => execSramScrub_keeps h
  | .sliceSelftest .. => execSliceSelftest_keeps h
  | .spareCoreSelftest .. => execSpareCoreSelftest_keeps h
  | .siliconRecal .. => execSiliconRecal_keeps h
  | .kryntoKat .. => execKryntoKat_keeps h
  | .backgroundLate .. => execBackgroundLate_keeps h
  | .drbgReseed .. => execDrbgReseed_keeps h
  | .checkUnitSelfcheck .. => execCheckUnitSelfcheck_keeps h
  | .crierEventSend .. => execCrierEventSend_keeps h
  | .crierSample .. => execCrierSample_keeps h
  | .tempSensorConversion .. => execTempSensorConversion_keeps h
  | .junctionTrip .. => execJunctionTrip_keeps h
  | .refclkSysFail .. => execRefclkSysFail_keeps h
  | .refclkSysRecover .. => execRefclkSysRecover_keeps h
  | .tamperTrip .. => execTamperTrip_keeps h
  | .zeroiseReset .. => execZeroiseReset_keeps h
  | .tamperHoldStart .. => execTamperHoldStart_keeps h
  | .tamperHoldClear .. => execTamperHoldClear_keeps h
  | .tamperHoldTimeout .. => execTamperHoldTimeout_keeps h
  | .coreTakeover .. => execCoreTakeover_keeps h
  | .takeoverComplete .. => execTakeoverComplete_keeps h
  | .watchdogReset .. => execWatchdogReset_keeps h
  | .deviceFaultClear .. => execDeviceFaultClear_keeps h
  | .powerDownNotice .. => execPowerDownNotice_keeps h
  | .unannouncedPowerLoss .. => execUnannouncedPowerLoss_keeps h
  | .aonSupplySwitch .. => execAonSupplySwitch_keeps h
  | .resetPinAssert .. => execResetPinAssert_keeps h
  | .resetNRelease .. => execResetNRelease_keeps h
  | .bootSelftestsDone .. => execBootSelftestsDone_keeps h
  | .bootImageVerified .. => execBootImageVerified_keeps h
  | .bootCoresStarted .. => execBootCoresStarted_keeps h
  | .bootWellTrained .. => execBootWellTrained_keeps h
  | .bootLaneStageEnd .. => execBootLaneStageEnd_keeps h
  | .deviceReady .. => execDeviceReady_keeps h
  | .calStagingCommit .. => execCalStagingCommit_keeps h
  | .squareTimeout .. => execSquareTimeout_keeps h
  | .timeErrHigh .. => execTimeErrHigh_keeps h
  | .bothLeadWindowEnd .. => execBothLeadWindowEnd_keeps h
  | .stallConfigLaneTimeout .. => execStallConfigLaneTimeout_keeps h
  | .topologyReplyTimeout .. => execTopologyReplyTimeout_keeps h
  | .entropyHealthFail .. => execEntropyHealthFail_keeps h
  | .wellHardRepairDone .. => execWellHardRepairDone_keeps h
  | .calRunComplete .. => execCalRunComplete_keeps h
  | .imageSlotWritten .. => execImageSlotWritten_keeps h
  | .fwImageLoaded .. => execFwImageLoaded_keeps h
  | .mailboxOperationEnd .. => execMailboxOperationEnd_keeps h
  | .msixVectorUnmask .. => execMsixVectorUnmask_keeps h
  | .arpReplyReceive .. => execArpReplyReceive_keeps h
  | .tapInstructionLoad .. => execTapInstructionLoad_keeps h

/-- A step from `s` keeps what holds of `s` without its front command. -/
theorem step_keeps {s t : State} (h : step s = .next t) : Keeps { s with pending := s.pending.tail } t := by
  cases hp : s.pending with
  | nil =>
    rw [step_idle hp] at h
    cases h
    exact ⟨hp, Nat.le_refl _, id, id, Nat.le_refl _, Nat.le_refl _⟩
  | cons c rest =>
    rw [step_front hp] at h
    have hkeeps := exec_keeps c (Keeps.refl { s with pending := rest })
    rw [h] at hkeeps
    exact hkeeps

/-- Settles O59: every operation keeps the order of the slots, so the meaning of the front command does. -/
theorem stepsKeepSlotsInOrder : Obligations.StepsKeepSlotsInOrder := by
  intro s t hs hstep
  obtain ⟨-, -, -, hslots, -, -⟩ := step_keeps hstep
  exact hslots hs

/-- Settles O60: no operation touches the queue or turns time or a counter back, so the front command, once taken off, is all that a step loses. -/
theorem stepsNeverGoBack : Obligations.StepsNeverGoBack := by
  intro s t hstep
  obtain ⟨hqueue, hnow, -, -, hcid, hfresh⟩ := step_keeps hstep
  exact ⟨hqueue, hnow, hcid, hfresh⟩

/-- Settles O57: at reset the Well lists no byte and no slot is taken. -/
theorem invariantsHoldAtReset : Obligations.InvariantsHoldAtReset := ⟨rfl, SlotsOk.nil _⟩

end Sys2Proof.Machine
end

section
/-!
Intake: what the checks of R40 to R43 make of a packet, and the statements about it.
-/
namespace Sys2Proof.Machine

/-! ### Time that passes before an event -/

@[simp] theorem advance_domOn (t : Nat) (s : State) (d : Fin 12) : domOn (advance t s) d = domOn s d := rfl
@[simp] theorem advance_slotOf (t : Nat) (s : State) (cid : Nat) : slotOf (advance t s) cid = slotOf s cid := rfl

/-! ### Priority 3 (R43) -/

theorem urgentAllowed_iff (op : Nat) : urgentAllowed op = true ↔
    op = Op.status ∨ op = Op.abortTag ∨ op = Op.firePermit ∨ op = Op.twinYield ∨ op = Op.zeroise := by
  simp [urgentAllowed]

/-- The check of R43 is one of those a packet's content passes. -/
theorem contentFailure_urgent {s : State} {c : Slot} {ws : List W64} (hprio : c.prio = 3) (hop : urgentAllowed c.op = false) :
    contentFailure s c ws ≠ none := by
  unfold contentFailure
  split
  · simp
  · simp only [hprio, hop, Bool.not_false, and_self, if_true]
    repeat' split
    all_goals simp

/-- An opcode that may carry priority 3 is judged by its content alone. -/
theorem contentFailure_prio {s : State} {c : Slot} {ws : List W64} (prio : Nat) (hop : urgentAllowed c.op = true) :
    contentFailure s c ws = contentFailure s { c with prio := prio } ws := by
  have hbits : ∀ row, reservedBits row { c with prio := prio } = reservedBits row c := fun _ => rfl
  simp only [contentFailure, hbits, hop, Bool.not_true, Bool.false_eq_true, and_false, if_false]

/-! ### What a refusal leaves -/

@[simp] theorem refuseEarly_slots (c : Slot) (status : Nat) (s : State) : (refuseEarly c status s).cmd.slots = s.cmd.slots := by
  unfold refuseEarly
  dsimp only
  split
  · exact sendReply_slots _ _ _ _ _
  · rfl

@[simp] theorem refuseLate_slots (c : Slot) (status : Nat) (s : State) : (refuseLate c status s).cmd.slots = s.cmd.slots :=
  sendReply_slots _ _ _ _ _

@[simp] theorem refuseSequence_slots (c : Slot) (status : Nat) (s : State) : (refuseSequence c status s).cmd.slots = s.cmd.slots :=
  sendReply_slots _ _ _ _ _

/-! ### The judgement of a packet's content -/

/-- What becomes of a packet that passed the checks before its content: it is refused, or takes a slot while one is free for it. -/
def judged (c : Slot) (ws : List W64) (s : State) : State :=
  match contentFailure s c ws with
  | some st => refuseLate c st s
  | none => if slotFree s c.prio then accept c s else refuseLate c Status.commandLimit s

theorem judged_fails {c : Slot} {ws : List W64} {st : Nat} {s : State} (h : contentFailure s c ws = some st) : judged c ws s = refuseLate c st s := by
  unfold judged; rw [h]

theorem judged_accepts {c : Slot} {ws : List W64} {s : State} (h : contentFailure s c ws = none) (hfree : slotFree s c.prio = true) :
    judged c ws s = accept c s := by
  unfold judged; rw [h]; exact if_pos hfree

theorem judged_full {c : Slot} {ws : List W64} {s : State} (h : contentFailure s c ws = none) (hfull : 64 ≤ s.cmd.slots.length) :
    judged c ws s = refuseLate c Status.commandLimit s := by
  unfold judged
  rw [h]
  exact if_neg (by simp [slotFree]; omega)

theorem acceptOrRefuse_noSession {c : Slot} {ws : List W64} {s : State} (h : sessionOf s c.session = none) :
    acceptOrRefuse c ws s = judged c ws s := by
  unfold acceptOrRefuse; rw [h]; rfl

/-- A packet whose content fails takes no slot, in session 0 or in another, new or repeated. -/
theorem acceptOrRefuse_slots {c : Slot} {ws : List W64} {s : State} (h : ∀ u : State, contentFailure u c ws ≠ none) :
    (acceptOrRefuse c ws s).cmd.slots = s.cmd.slots := by
  have hjudged : ∀ u : State, (judged c ws u).cmd.slots = u.cmd.slots := fun u => by
    obtain ⟨st, hst⟩ := Option.ne_none_iff_exists'.1 (h u)
    rw [judged_fails hst, refuseLate_slots]
  unfold acceptOrRefuse
  split
  · exact hjudged s
  · split
    · exact hjudged (modSession _ _ s)
    · split
      · split
        · rfl
        · split
          · exact sendReply_slots _ _ _ _ _
          · exact refuseSequence_slots _ _ _
      · split <;> exact refuseSequence_slots _ _ _

/-- Settles O52: priority 3 is judged by one check of the content, which the five opcodes pass and every other fails. -/
theorem urgentOpcodesOnly : Obligations.UrgentOpcodesOnly := by
  have hfails : ∀ (c : Slot) (ws : List W64), c.prio = 3 →
      (c.op ≠ Op.status ∧ c.op ≠ Op.abortTag ∧ c.op ≠ Op.firePermit ∧ c.op ≠ Op.twinYield ∧ c.op ≠ Op.zeroise) →
      ∀ s : State, contentFailure s c ws ≠ none := fun c ws hprio hop s =>
    contentFailure_urgent hprio (Bool.eq_false_iff.2 (mt (urgentAllowed_iff c.op).1 (by simpa using hop)))
  refine ⟨fun s c ws hprio => ⟨fun h1 h2 h3 h4 h5 => hfails c ws hprio ⟨h1, h2, h3, h4, h5⟩ s, fun hop => ?_⟩, fun s c ws hprio hop => ?_⟩
  · exact contentFailure_prio 2 ((urgentAllowed_iff c.op).2 hop)
  · exact acceptOrRefuse_slots (hfails c ws hprio hop)

/-! ### A packet for this node (R40) -/

/-- A bit of a word is the field of that one bit. -/
theorem fbit_eq_fld (w : W64) (i : Nat) : fbit w i = decide (fld w i i = 1) := by
  simp [fbit, bit, fld, bits]

theorem fbit_of_fld_zero {w : W64} {i : Nat} (h : fld w i i = 0) : fbit w i = false := by simp [fbit_eq_fld, h]

theorem fbit_of_fld_one {w : W64} {i : Nat} (h : fld w i i = 1) : fbit w i = true := by simp [fbit_eq_fld, h]

/-- A packet of session 0 for this node, without a trailer, of its own length. -/
structure PlainPacket (tr : Transport) (src node : Nat) (ws : List W64) : Prop where
  whole : lengthOk ws = true
  here : fld (ws.getD 1 0) 10 0 = 0 ∨ fld (ws.getD 1 0) 10 0 = node
  single : fld (ws.getD 1 0) 10 0 ≤ 2000
  plain : fld (ws.getD 0 0) 24 24 = 0
  anonymous : (slotOfPacket tr src ws).session = 0

theorem intake_short {tr : Transport} {src : Nat} {ws : List W64} {s : State} (h : lengthOk ws = false) :
    intake tr src ws s = refuseEarly (slotOfPacket tr src ws) Status.badLength s := by
  simp [intake, h]

/-- A packet of session 0 for this node goes straight to the checks of its content. -/
theorem intake_plain {tr : Transport} {src : Nat} {ws : List W64} {s : State} (h : PlainPacket tr src s.node ws) (hnone : sessionOf s 0 = none) :
    intake tr src ws s = judged (slotOfPacket tr src ws) ws s := by
  obtain ⟨hwhole, hhere, hsingle, hplain, hanon⟩ := h
  have hauth : authFailure s (slotOfPacket tr src ws) (fbit (ws.getD 0 0) 24) ws = none := by
    rw [fbit_of_fld_zero hplain]
    exact if_pos hanon
  have hother : ¬ (2001 ≤ fld (ws.getD 1 0) 10 0 ∧ fld (ws.getD 1 0) 10 0 ≤ 2046) := by omega
  have hforward : ¬ (fld (ws.getD 1 0) 10 0 ≠ 0 ∧ fld (ws.getD 1 0) 10 0 ≠ ownNode s ∧ fld (ws.getD 1 0) 10 0 ≠ 2047) :=
    fun ⟨h0, hown, _⟩ => hhere.elim h0 hown
  have hbroadcast : ¬ (fld (ws.getD 1 0) 10 0 = 2047 ∧ tr ≠ .urara) := by omega
  unfold intake
  simp only [hwhole, Bool.not_true, Bool.false_eq_true, if_false, if_neg hother, if_neg hforward, if_neg hbroadcast, hauth]
  exact acceptOrRefuse_noSession (by rw [hanon, hnone])

/-- The content of a packet is judged by the sessions and the slots alone. -/
theorem contentFailure_congr {c : Slot} {ws : List W64} {s u : State} (hslots : u.cmd.slots = s.cmd.slots) (hsessions : u.cmd.sessions = s.cmd.sessions) :
    contentFailure u c ws = contentFailure s c ws := by
  unfold contentFailure roleOf sessionOf
  rw [hslots, hsessions]

/-! ### COMMAND_INTAKE -/

/-- Whether packets are taken at all: the device is ready and nothing holds intake (R24, R61, R508). -/
def IntakeRuns (s : State) : Prop := s.pwr.ready = true ∧ s.bgd.takeover = false ∧ s.cmd.intakeOpen = true

/-- Whether a transport that is no ring takes packets. -/
def TransportOn (s : State) (tr : Transport) : Prop :=
  (tr = .eth0 ∧ domOn s 3 = true ∧ s.net[0].cfg.enable = true) ∨ (tr = .eth1 ∧ domOn s 3 = true ∧ s.net[1].cfg.enable = true)
    ∨ (tr = .urara ∧ domOn s 10 = true)

theorem execCommandIntake_transport {t src : Nat} {tr : Transport} {ws : List W64} {s : State} (hruns : IntakeRuns s) (hon : TransportOn s tr) :
    execCommandIntake t tr src ws s = .next (intake tr src ws (advance t s)) := by
  obtain ⟨hready, hfree, hopen⟩ := hruns
  obtain ⟨rfl, hdom, hport⟩ | ⟨rfl, hdom, hport⟩ | ⟨rfl, hdom⟩ := hon
  · simp [execCommandIntake, onEvent, hready, hfree, hopen, hdom, hport]
  · simp [execCommandIntake, onEvent, hready, hfree, hopen, hdom, hport]
  · simp [execCommandIntake, onEvent, hready, hfree, hopen, hdom]

theorem execCommandIntake_ring0 {t : Nat} {avail : List W64} {s : State} (hruns : IntakeRuns s) (hon : domOn s 4 = true) :
    execCommandIntake t .ring0 0 avail s = .next (intakeRing .ring0 0 avail (advance t s)) := by
  obtain ⟨hready, hfree, hopen⟩ := hruns
  simp [execCommandIntake, onEvent, hready, hfree, hopen, hon]

/-- The state once ring 0 has given a packet while ring 1 holds none: its bytes count as done. -/
def ring0Taken (ws : List W64) (s : State) : State :=
  { s with
    bar.rings := upd s.bar.rings 0 fun g => { g with doneBytes := g.doneBytes + 8 * packetWords ws },
    cmd.ring0Run := 0 }

theorem ring0Taken_doneBytes (ws : List W64) (s : State) :
    (ring0Taken ws s).bar.rings[0].doneBytes = s.bar.rings[0].doneBytes + 8 * packetWords ws := by
  simp [ring0Taken, upd]

/-- Ring 0 runs, holds a descriptor with these words left and has its turn (R46). -/
structure Ring0Gives (d : DescWords) (avail : List W64) (s : State) : Prop where
  desc : s.bar.work[0].desc = some d
  enabled : s.bar.rings[0].enable = true
  runs : s.bar.rings[0].pause = false
  role : s.bar.rings[0].role = .commandIn
  left : avail.length = (fld d.w2 31 0 - s.bar.rings[0].doneBytes) / 8
  nonempty : 0 < avail.length
  turn : ringHasPackets s 1 = false

theorem intakeRing_takes {d : DescWords} {avail : List W64} {s : State} (h : Ring0Gives d avail s) (hwhole : lengthOk avail = true)
    (hfree : slotFree s (slotOfPacket .ring0 0 avail).prio = true) :
    intakeRing .ring0 0 avail s = intake .ring0 0 avail (ring0Taken avail s) := by
  obtain ⟨hdesc, henable, hpause, hrole, hleft, hsome, hturn⟩ := h
  have htake : avail.take ((fld d.w2 31 0 - s.bar.rings[0].doneBytes) / 8) = avail := List.take_of_length_le (Nat.le_of_eq hleft)
  have hgoes : ringTurn s 0 = true := by simp [ringTurn, hturn]
  have hunblocked : ringBlocked s avail = false := congrArg (!·) hfree
  have hne : (fld d.w2 31 0 - s.bar.rings[0].doneBytes) / 8 ≠ 0 := by omega
  simp [intakeRing, hdesc, htake, hne, henable, hpause, hrole, hgoes, hunblocked, hwhole, hturn, ring0Taken]

/-- Settles O2: a whole packet of session 0 for this node reaches the judgement of its content, on every transport; there it takes a slot or, with 64 taken, none. -/
theorem intakeJudgesPackets : Obligations.IntakeJudgesPackets := by
  refine ⟨⟨fun t src tr ws s hready hfree hopen hon hwhole hhere hsingle hplain hanon hnone hcontent hslot => ?_,
    fun t d avail s hready hfree hopen hon hdesc henable hpause hrole hleft hsome hturn hslot hwhole hhere hplain hanon hnone hcontent => ?_⟩,
    fun t src ws s hready hfree hopen hon hport => ?_⟩
  · refine (execCommandIntake_transport ⟨hready, hfree, hopen⟩ hon).trans (congrArg _ ?_)
    exact (intake_plain (s := advance t s) ⟨hwhole, hhere, hsingle, hplain, hanon⟩ hnone).trans (judged_accepts hcontent hslot)
  · refine ⟨accept (slotOfPacket .ring0 0 avail) (ring0Taken avail (advance t s)), (execCommandIntake_ring0 ⟨hready, hfree, hopen⟩ hon).trans (congrArg _ ?_),
      ring0Taken_doneBytes avail (advance t s), rfl, rfl⟩
    calc intakeRing .ring0 0 avail (advance t s)
      _ = intake .ring0 0 avail (ring0Taken avail (advance t s)) :=
        intakeRing_takes (s := advance t s) ⟨hdesc, henable, hpause, hrole, hleft, hsome, hturn⟩ hwhole hslot
      _ = judged (slotOfPacket .ring0 0 avail) avail (ring0Taken avail (advance t s)) :=
        intake_plain ⟨hwhole, .inl hhere, by omega, hplain, hanon⟩ hnone
      _ = accept (slotOfPacket .ring0 0 avail) (ring0Taken avail (advance t s)) :=
        judged_accepts ((contentFailure_congr rfl rfl).trans hcontent) hslot
  · have htaken := execCommandIntake_transport (t := t) (src := src) (ws := ws) ⟨hready, hfree, hopen⟩ (.inl ⟨rfl, hon, hport⟩)
    refine ⟨fun hshort => ?_, fun hwhole hhere hplain hanon hnone hcontent hfull => ?_⟩
    · exact ⟨_, htaken.trans (congrArg _ (intake_short hshort)), refuseEarly_slots _ _ (advance t s), rfl⟩
    · refine ⟨_, htaken.trans (congrArg _ ?_), refuseLate_slots _ _ (advance t s), rfl⟩
      exact (intake_plain (s := advance t s) ⟨hwhole, .inl hhere, by omega, hplain, hanon⟩ hnone).trans (judged_full hcontent hfull)

end Sys2Proof.Machine
end

section
/-!
Replies on their way: interim replies, datagrams, forwarded replies and the reply ring, and the statement about them.
-/
namespace Sys2Proof.Machine

@[simp] theorem handedOver_outbox (cid : Nat) (s : State) : (handedOver cid s).outbox = s.outbox := by rw [handedOver_frame]

/-! ### Interim replies, datagrams and forwarded replies (R33, R48, R49) -/

/-- A command that is due an interim reply: no reply has left for it, and none is withheld. -/
structure AwaitsInterim (c : Slot) : Prop where
  unanswered : c.phase ≠ .committed
  first : c.interim = false
  loud : c.quiet = false
  single : c.bcast = false
  notReset : c.op ≠ Op.reset
  notZeroise : c.op ≠ Op.zeroise

theorem execInterimReply_answers {t cid : Nat} {c : Slot} {s : State} (hc : slotOf s cid = some c) (h : AwaitsInterim c) :
    execInterimReply t cid s = .next (sendReply c.tr c.src c.cid
      (sealReply s c.session (replyWords c s.node false false Status.accepted 0 []))
      (modSlot cid (fun x => { x with interim := true }) (advance t s))) := by
  obtain ⟨hopen, hfirst, hloud, hsingle, hreset, hzeroise⟩ := h
  simp only [execInterimReply, onEvent, advance_slotOf, hc, beq_eq_false_iff_ne.2 hopen, hfirst, hloud, hsingle, beq_eq_false_iff_ne.2 hreset,
    beq_eq_false_iff_ne.2 hzeroise, Bool.or_self, Bool.false_eq_true, if_false]
  rfl

theorem execUdpReplySend_sends {t cid : Nat} {c : Slot} {s : State} (hc : slotOf s cid = some c) (hphase : c.phase = .committed)
    (heth : isEth c.tr = true) (hnet : domOn s 3 = true) :
    execUdpReplySend t cid s = .next (handedOver cid (emit (.reply c.tr c.src c.reply) (advance t s))) := by
  simp [execUdpReplySend, onEvent, hc, hphase, heth, hnet]

theorem execUraraReplyReceive_final {t : Nat} {reply : List W64} {f : Forward} {s : State} (hlink : domOn s 10 = true)
    (hf : s.cmd.forwards.find? (fun f => answers f reply) = some f) (hfinal : fbit (reply.getD 0 0) 24 = true) :
    execUraraReplyReceive t reply s = .next (sendReply f.tr f.src s.cmd.nextCid reply
      { advance t s with cmd.forwards := s.cmd.forwards.filter (fun g => !answers g reply), cmd.nextCid := s.cmd.nextCid + 1 }) := by
  simp only [execUraraReplyReceive, onEvent, advance_domOn, hlink, advance_cmd, hf, hfinal, Bool.not_true, Bool.false_eq_true, if_false, if_true]

/-! ### The reply ring (R47) -/

theorem takeReply_final {cid : Nat} {ws : List W64} {rest : List (Nat × List W64)} {s : State} (hq : s.cmd.replyQ = (cid, ws) :: rest)
    (hfinal : fbit (ws.getD 0 0) 24 = true) : takeReply cid s = some (ws, handedOver cid { s with cmd.replyQ := rest }) := by
  unfold takeReply
  rw [hq]
  simp only [hfinal, if_true]

theorem takeReply_head {cid : Nat} {ws : List W64} {rest : List (Nat × List W64)} {s : State} (hq : s.cmd.replyQ = (cid, ws) :: rest) :
    ∃ u, takeReply cid s = some (ws, u) := by
  unfold takeReply
  rw [hq]
  exact ⟨_, if_pos rfl⟩

/-- Without `chk_append` a unit leaves as it is. -/
theorem withCheck_plain {d : DescWords} {bs : List Byte} {s : State} (h : fbit d.w2 36 = false) : withCheck d bs s = (bs, s) := by
  simp [withCheck, h]

section
variable {t cid : Nat} {r : Fin 16} {d : DescWords} {ws : List W64} {rest : List (Nat × List W64)} {s : State}
  (hr : replyRing s = some r) (hd : (workAt s r).desc = some d) (hq : s.cmd.replyQ = (cid, ws) :: rest)
include hr hd hq

theorem execReplyRingWrite_short (hshort : fld d.w2 31 0 < 2080) : execReplyRingWrite t cid s = .next (completeDesc r 1 0 (advance t s)) := by
  have hr' : replyRing (advance t s) = some r := hr
  have hd' : (workAt (advance t s) r).desc = some d := hd
  obtain ⟨u, hu⟩ := takeReply_head (s := advance t s) hq
  simp only [execReplyRingWrite, onEvent, hr', hd', hu, if_pos hshort]

theorem execReplyRingWrite_writes (hroom : 2080 ≤ fld d.w2 31 0) (hplain : fbit d.w2 36 = false) (hfinal : fbit (ws.getD 0 0) 24 = true) :
    execReplyRingWrite t cid s = .next (completeDesc r 0 (wordsBytes ws).length
      (emit (.hostBytes d.w0.toNat (wordsBytes ws)) (handedOver cid { advance t s with cmd.replyQ := rest }))) := by
  have hr' : replyRing (advance t s) = some r := hr
  have hd' : (workAt (advance t s) r).desc = some d := hd
  simp only [execReplyRingWrite, onEvent, hr', hd', takeReply_final (s := advance t s) hq hfinal, if_neg (Nat.not_lt.2 hroom), withCheck_plain hplain]

end

/-- Settles O3, with one lemma about each row. -/
theorem repliesLeaveInOrder : Obligations.RepliesLeaveInOrder := by
  refine ⟨⟨fun t cid c s hc hopen hfirst hloud hsingle hreset hzeroise => ?_, fun t cid c s hc hphase heth hnet => ?_,
    fun t reply f s hlink hf hfinal => ?_⟩, fun t cid r d ws rest s hr hd hq => ⟨fun hshort => ?_, fun hroom hplain hfinal => ?_⟩⟩
  · exact execInterimReply_answers hc ⟨hopen, hfirst, hloud, hsingle, hreset, hzeroise⟩
  · refine ⟨_, execUdpReplySend_sends hc hphase heth hnet, handedOver_outbox _ _, handedOver_slots _ _, ?_⟩
    rw [handedOver_frame]; rfl
  · exact execUraraReplyReceive_final hlink hf (fbit_of_fld_one hfinal)
  · exact execReplyRingWrite_short hr hd hq hshort
  · exact execReplyRingWrite_writes hr hd hq hroom (fbit_of_fld_zero hplain) (fbit_of_fld_one hfinal)

end Sys2Proof.Machine
end

section
/-!
The commands that identify, configure, report status and abort, and the statement about them.
-/
namespace Sys2Proof.Machine

/-! ### IDENTIFY, NET_CONFIG, CRIER_CONFIG, STATUS -/

theorem execIdentify_answers {t cid : Nat} {c : Slot} {s : State} (h : Starts Op.identify cid c s) :
    execIdentify t cid s = .next (answer c
      [0x00012618, 0x4200, word s.node, Config.serial, word (s.fwVersion[0] + put s.bgd.fwSlot 63), word s.fwVersion[1],
        word (s.well.bytes - 8 * 2 ^ 30)] (startedAt t cid s)) := onStart_starts h

/-- The port that a NET_CONFIG is for. -/
def portNamed (c : Slot) : Fin 2 := if parB c 0 0 then 1 else 0

theorem portNamed_val (c : Slot) : (portNamed c).val = parF c 0 0 0 := by
  have hbit : parB c 0 0 = decide (parF c 0 0 0 = 1) := fbit_eq_fld _ _
  have hlt : parF c 0 0 0 < 2 := Nat.mod_lt _ (by decide)
  obtain h | h : parF c 0 0 0 = 0 ∨ parF c 0 0 0 = 1 := by omega
  · simp [portNamed, hbit, h]
  · simp [portNamed, hbit, h]

/-- The state in which a port waits to take its new settings, which mend a broken record of the old ones. -/
def portSet (c : Slot) (s : State) : State :=
  mendConfig (fun h => match h with | .net q _ => q == portNamed c | _ => false)
    { s with net := upd s.net (portNamed c) fun q => { q with next := some (netCfgOf c), nextCid := c.cid } }

theorem execNetConfig_sets {t cid : Nat} {c : Slot} {s : State} (h : Starts Op.netConfig cid c s) (hok : netCfgOk c = true) (hpcie : domOn s 4 = true) :
    execNetConfig t cid s = .next (answer c [word (macInUse (parF c 0 0 0) (netCfgOf c))] (portSet c (startedAt t cid s))) := by
  have hpcie' : domOn (startedAt t cid s) 4 = true := hpcie
  refine (onStart_starts h).trans ?_
  simp only [hok, hpcie', Bool.not_true, Bool.false_and, Bool.false_eq_true, if_false, ← portNamed_val]
  rfl

theorem execCrierConfig_sets {t cid : Nat} {c : Slot} {s : State} (h : Starts Op.crierConfig cid c s) (hring : ringHas s (parF c 1 3 0) [.crierOut] = true)
    (hrate : 1 ≤ parF c 2 15 0) (hnode : parF c 3 10 0 ≤ 2000) :
    execCrierConfig t cid s = .next (done c { startedAt t cid s with
      cri.mask := parF c 0 4 0, cri.ring := parF c 1 3 0, cri.ringOn := parB c 1 8, cri.rate := parF c 2 15 0, cri.collect := parF c 3 10 0 }) := by
  have hring' : ringHas (startedAt t cid s) (parF c 1 3 0) [.crierOut] = true := hring
  have hrange : ¬ (parF c 2 15 0 = 0 ∨ 2000 < parF c 3 10 0) := by omega
  refine (onStart_starts h).trans ?_
  simp only [hring', Bool.not_true, Bool.false_eq_true, if_false, if_neg hrange]

theorem execStatus_answers {t cid : Nat} {c : Slot} {s : State} (h : Starts Op.status cid c s) :
    execStatus t cid s = .next (answer c (statusWords (startedAt t cid s)) (startedAt t cid s)) := onStart_starts h

/-! ### ABORT_TAG (R45, R56) -/

theorem execAbortTag_runs {t cid : Nat} {c : Slot} {s : State} (h : Starts Op.abortTag cid c s) (hnow : abortWaits s cid = false) :
    execAbortTag t cid s = .next (abortTag c (startedAt t cid s)) := by
  unfold execAbortTag
  rw [hnow]
  exact onStart_starts h

section
variable {c x : Slot} {s : State} (hx : tagged s c (parN c 0) = some x)
include hx

theorem abortTag_waiting (hphase : x.phase = .waiting) : abortTag c s = cancel c x s := by
  simp only [abortTag, hx, hphase]

theorem abortTag_stops {u : State} (hphase : x.phase = .executing) (hstop : stopAt x s = some u) : abortTag c s = cancel c x u := by
  simp only [abortTag, hx, hphase, hstop]

/-- A command past its last safe point, or answered, is not cancelled. -/
theorem abortTag_late (h : x.phase = .committed ∨ (x.phase = .executing ∧ stopAt x s = none)) : abortTag c s = answer c [1] s := by
  obtain hphase | ⟨hphase, hstop⟩ := h
  · simp only [abortTag, hx, hphase]
  · simp only [abortTag, hx, hphase, hstop]

end

theorem abortTag_unknown {c : Slot} {s : State} (hnone : tagged s c (parN c 0) = none) (hreplied : tagReplied s c (parN c 0) = false) :
    abortTag c s = answer c [2] s := by
  simp [abortTag, hnone, hreplied]

/-- Settles O35: each command that starts takes its effect in the state in which its slot executes; ABORT_TAG by what its tag names. -/
theorem statusCommandsAnswer : Obligations.StatusCommandsAnswer := by
  refine ⟨fun t cid c s => ⟨execIdentify_answers, execNetConfig_sets, execCrierConfig_sets⟩, fun t cid c s => ⟨execStatus_answers, fun h hnow => ?_⟩⟩
  have hruns := execAbortTag_runs (t := t) h hnow
  refine ⟨fun x hx => ⟨fun hphase => ?_, fun u hphase hstop => ?_, fun hlate => ?_⟩, fun hnone hreplied => ?_⟩
  · exact hruns.trans (congrArg _ (abortTag_waiting hx hphase))
  · exact hruns.trans (congrArg _ (abortTag_stops hx hphase hstop))
  · exact hruns.trans (congrArg _ (abortTag_late hx hlate))
  · exact hruns.trans (congrArg _ (abortTag_unknown hnone hreplied))

end Sys2Proof.Machine
end

section
/-!
The Ethernet ports' own traffic, the reports and the Crier's records, and the statement about them.
-/
namespace Sys2Proof.Machine

/-! ### The ports (R55) -/

@[simp] theorem advance_portOn (t : Nat) (s : State) (p : Fin 2) : portOn (advance t s) p = portOn s p := rfl

section
variable {t target sender : Nat} {p : Fin 2} {s : State}

theorem contains_own (hown : target ∈ ownAddresses p.val s.net[p].cfg) : (ownAddresses p.val s.net[p].cfg).contains target = true :=
  List.contains_iff_mem.2 hown

theorem contains_other (hother : target ∉ ownAddresses p.val s.net[p].cfg) : (ownAddresses p.val s.net[p].cfg).contains target = false :=
  Bool.eq_false_iff.2 (mt List.contains_iff_mem.1 hother)

section
variable (hother : target ∉ ownAddresses p.val s.net[p].cfg)
include hother

theorem execArpRequestReceive_other : execArpRequestReceive t p target sender s = .next (advance t s) := by
  simp only [execArpRequestReceive, onEvent, advance_net, contains_other hother, Bool.and_false, Bool.false_eq_true, if_false]

theorem execNeighborSolicitReceive_other : execNeighborSolicitReceive t p target sender s = .next (advance t s) := by
  simp only [execNeighborSolicitReceive, onEvent, advance_net, contains_other hother, Bool.and_false, Bool.false_eq_true, if_false]

theorem execIcmpEchoReceive_other (payload : List Byte) : execIcmpEchoReceive t p target sender payload s = .next (advance t s) := by
  simp only [execIcmpEchoReceive, onEvent, advance_net, contains_other hother, Bool.and_false, Bool.false_eq_true, if_false]

end

section
variable (hon : portOn s p = true) (hown : target ∈ ownAddresses p.val s.net[p].cfg)
include hon hown

theorem execArpRequestReceive_own (hv4 : s.net[p].cfg.ipv6 = false) :
    execArpRequestReceive t p target sender s = .next (answerNeighbour 4 p target sender (advance t s)) := by
  simp only [execArpRequestReceive, onEvent, advance_portOn, advance_net, hon, contains_own hown, hv4, Bool.not_false, Bool.and_self, if_true]

theorem execNeighborSolicitReceive_own (hv6 : s.net[p].cfg.ipv6 = true) :
    execNeighborSolicitReceive t p target sender s = .next (answerNeighbour 5 p target sender (advance t s)) := by
  simp only [execNeighborSolicitReceive, onEvent, advance_portOn, advance_net, hon, contains_own hown, hv6, Bool.and_self, if_true]

theorem execIcmpEchoReceive_own (payload : List Byte) :
    execIcmpEchoReceive t p target sender payload s = .next (emit (.eth p.val 6 sender payload) (advance t s)) := by
  simp only [execIcmpEchoReceive, onEvent, advance_portOn, advance_net, hon, contains_own hown, Bool.and_self, if_true]

end
end

section
variable {t : Nat} {p : Fin 2} {s : State} (hon : portOn s p = true)
include hon

theorem execRouterAdvertReceive_keepsRouter {router : Nat} (hv6 : s.net[p].cfg.ipv6 = true) :
    execRouterAdvertReceive t p router s = .next { advance t s with net := upd s.net p fun q => { q with router := router } } := by
  simp only [execRouterAdvertReceive, onEvent, advance_portOn, advance_net, hon, hv6, Bool.and_self, if_true]

theorem execArpReplyReceive_learns (ip link : Nat) :
    execArpReplyReceive t p ip link s = .next { advance t s with
      net := upd s.net p fun q => { q with neigh := q.neigh.filter (fun e => e.1 != ip) ++ [(ip, link)] } } := by
  simp [execArpReplyReceive, onEvent, hon]

theorem execNetRateHuntSwitch_switches (hauto : s.net[p].cfg.speed = 0) (hhunt : (laneOf s (32 + p.val)).state = .hunt)
    (hdue : (laneOf s (32 + p.val)).huntAt + 2000000 ≤ (advance t s).now) :
    execNetRateHuntSwitch t p s = .next (modLane (32 + p.val) (fun l => { l with fast := 3 - s.net[p].rate == 2, huntAt := (advance t s).now })
      { advance t s with net := upd s.net p fun q => { q with rate := 3 - s.net[p].rate } }) := by
  have hlane : laneOf (advance t s) (32 + p.val) = laneOf s (32 + p.val) := rfl
  simp only [execNetRateHuntSwitch, onEvent, advance_portOn, advance_net, hon, hauto, hlane, hhunt, decide_eq_false (Nat.not_lt.2 hdue), bne_self_eq_false,
    Bool.not_true, Bool.or_self, Bool.false_eq_true, if_false]

end

/-! ### GRANARY_REPORT and TELEMETRY_READ (R510, R517) -/

section
variable {t cid : Nat} {c : Slot} {s : State}

theorem execGranaryReport_ring (h : Starts Op.granaryReport cid c s) (hdest : parN c 0 < 16) (hring : outRing s (parN c 0) = true) :
    execGranaryReport t cid s = .next (queueUnits (parN c 0)
      [{ data := wordsBytes (granaryReport (startedAt t cid s)), cid := c.cid, final := true,
         results := [word (wordsBytes (granaryReport (startedAt t cid s))).length] }] (startedAt t cid s)) := by
  have hring' : outRing (startedAt t cid s) (parN c 0) = true := hring
  refine (onStart_starts h).trans (congrArg _ ?_)
  dsimp only
  rw [if_pos hdest, if_pos hring']

theorem execGranaryReport_well (h : Starts Op.granaryReport cid c s) (hdest : 0x10000 ≤ parN c 0) (halign : parN c 0 % 8 = 0)
    (hrange : rangeFailure s (parN c 0) (wordsBytes (granaryReport (startedAt t cid s))).length = none) :
    execGranaryReport t cid s = .next (answer c [word (wordsBytes (granaryReport (startedAt t cid s))).length]
      (wellWrite (parN c 0) (wordsBytes (granaryReport (startedAt t cid s))) (startedAt t cid s))) := by
  have hrange' : rangeFailure (startedAt t cid s) (parN c 0) (wordsBytes (granaryReport (startedAt t cid s))).length = none := hrange
  refine (onStart_starts h).trans (congrArg _ ?_)
  dsimp only
  rw [if_neg (by omega), if_neg (by omega), withRange, hrange']

/-- The state in which a TELEMETRY_READ executes: the moment of its measurements has drawn a number. -/
def telemetryAt (t cid : Nat) (s : State) : State := { startedAt t cid s with fresh := s.fresh + 1 }

theorem execTelemetryRead_reads {ws : List W64} (h : Starts Op.telemetryRead cid c s)
    (hblock : telemetryBlock (telemetryAt t cid s) (parN c 0) s.fresh = some ws) (hring : outRing s (parN c 1) = true) :
    execTelemetryRead t cid s = .next
      (if ws.isEmpty then done c (telemetryAt t cid s) else outputOn c (parN c 1) [wordsBytes ws] (telemetryAt t cid s)) := by
  have hring' : outRing (telemetryAt t cid s) (parN c 1) = true := hring
  have htake : takeFresh (startedAt t cid s) = (s.fresh, telemetryAt t cid s) := rfl
  refine (onStart_starts h).trans (congrArg _ ?_)
  simp only [htake, hblock, hring', Bool.not_true, Bool.false_eq_true, if_false]

end

/-! ### The Crier (R513 to R515) -/

/-- The state once an event has left the queue. -/
def eventTaken (e : Event) (s : State) : State := { s with cri.queue := s.cri.queue.erase e, cri.lost := 0 }

theorem crierRing_off {s : State} (h : s.cri.ringOn = false) : crierRing s = none := by
  simp [crierRing, h]

section
variable {t : Nat} {e : Event} {s : State} (he : oldestEvent s.cri.queue = some e) (hcpu : domOn s 2 = true)
include he hcpu

theorem execCrierEventSend_ring {r : Nat} (hr : crierRing s = some r) (hlocal : s.cri.collect = 0 ∨ s.cri.collect = ownNode s) :
    execCrierEventSend t s = .next (queueUnits r [{ data := wordsBytes (crierRecord s e) }] (eventTaken e (advance t s))) := by
  have hr' : crierRing (advance t s) = some r := hr
  have hnear : (s.cri.collect != 0 && s.cri.collect != ownNode (advance t s)) = false := by
    rcases hlocal with h | h <;> simp [h, ownNode]
  simp only [execCrierEventSend, onEvent, advance_cri, advance_domOn, he, hcpu, hr', hnear, Bool.false_and, Bool.not_true, Option.isNone_some,
    Bool.or_self, Bool.false_eq_true, if_false]
  rfl

theorem execCrierEventSend_far (hoff : s.cri.ringOn = false) (hcollect : s.cri.collect ≠ 0) (hnode : s.cri.collect ≠ ownNode s)
    (hlink : domOn s 10 = true) :
    execCrierEventSend t s = .next (uraraSend s.cri.collect 0x5C (crierRecord s e) (eventTaken e (advance t s))) := by
  have hr : crierRing (advance t s) = none := crierRing_off hoff
  have hfar : (s.cri.collect != 0 && s.cri.collect != ownNode (advance t s)) = true := by
    simp [hcollect, show ownNode (advance t s) = ownNode s from rfl, hnode]
  have hgoes : (s.cri.ringOn || false) = false := by simp [hoff]
  simp only [execCrierEventSend, onEvent, advance_cri, advance_domOn, he, hcpu, hr, hfar, hgoes, hlink, Bool.true_and, Bool.not_true, Option.isNone_none,
    Bool.or_self, Bool.false_eq_true, if_false, if_true]
  rfl

end

theorem execCrierSample_due {t : Nat} {s : State} (hcpu : domOn s 2 = true) (hdue : s.cri.sampleAt + 1000000000 ≤ (advance t s).now) :
    execCrierSample t s = .next { advance t s with cri.sampleAt := (advance t s).now } := by
  simp [execCrierSample, onEvent, hcpu, hdue]

/-- Settles O38: each event of a port, each report and each record by the lemma about its row. -/
theorem portsAndReports : Obligations.PortsAndReports := by
  refine ⟨fun t p s hon => ⟨fun target sender hown => ?_, fun target sender hother => ?_, fun router => execRouterAdvertReceive_keepsRouter hon,
    execArpReplyReceive_learns hon, execNetRateHuntSwitch_switches hon⟩, fun t cid c s => ⟨?_, ?_⟩, fun t e s he hcpu => ?_,
    fun t s => execCrierSample_due⟩
  · exact ⟨execArpRequestReceive_own hon hown, execNeighborSolicitReceive_own hon hown, execIcmpEchoReceive_own hon hown⟩
  · exact ⟨execArpRequestReceive_other hother, execNeighborSolicitReceive_other hother, execIcmpEchoReceive_other hother⟩
  · rintro _ h rfl
    exact ⟨execGranaryReport_ring h, execGranaryReport_well h⟩
  · rintro ws _ h rfl hblock hring
    have hreads := execTelemetryRead_reads h hblock hring
    exact ⟨fun hsome => hreads.trans (congrArg _ (if_neg (by simpa using hsome))), fun hempty => hreads.trans (congrArg _ (if_pos (by simp [hempty])))⟩
  · exact ⟨fun r => execCrierEventSend_ring he hcpu, execCrierEventSend_far he hcpu⟩

end Sys2Proof.Machine
end

section
/-!
Descriptors: how one is fetched and judged, how its transfer ends, what its completion leaves, and the statement about them.
-/
namespace Sys2Proof.Machine

/-! ### One ring's registers and work -/

section
variable (r : Fin 16) (s : State)

@[simp] theorem ringAt_advance (t : Nat) : ringAt (advance t s) r = ringAt s r := rfl
@[simp] theorem workAt_advance (t : Nat) : workAt (advance t s) r = workAt s r := rfl
@[simp] theorem ringAt_emits (es : List Emit) : ringAt (emits es s) r = ringAt s r := rfl
@[simp] theorem ringAt_modWork (q : Fin 16) (f : RingWork → RingWork) : ringAt (modWork q f s) r = ringAt s r := rfl
@[simp] theorem workAt_modRing (q : Fin 16) (f : Ring → Ring) : workAt (modRing q f s) r = workAt s r := rfl

@[simp] theorem ringAt_modRing (f : Ring → Ring) : ringAt (modRing r f s) r = f (ringAt s r) := by simp [ringAt, modRing, upd]
@[simp] theorem workAt_modWork (f : RingWork → RingWork) : workAt (modWork r f s) r = f (workAt s r) := by simp [workAt, modWork, upd]

/-- Of the registers an interrupt changes its bit of INT_STATUS and the pending bits (R81, R82). -/
theorem setInt_bar (i : Nat) :
    (setInt i s).bar = { s.bar with intStatus := s.bar.intStatus ||| BitVec.ofNat 64 (2 ^ i), pba := (setInt i s).bar.pba } := by
  unfold setInt sendVector
  dsimp only
  repeat' split
  all_goals rfl

@[simp] theorem ringAt_attend (q : Fin 16) : ringAt (attend q s) r = ringAt s r := by unfold ringAt attend; rw [setInt_bar]
@[simp] theorem workAt_attend (q : Fin 16) : workAt (attend q s) r = workAt s r := by unfold workAt attend; rw [setInt_bar]

end

/-! ### The completion of a descriptor (R66, R67, R70) -/

/-- Word 2 of a descriptor as it goes back: `owner` and the length give way to the bytes placed (R66, R70). -/
def returnedWord2 (d : DescWords) (placed : Nat) : W64 := word (d.w2.toNat - fld d.w2 31 0 - put (flag (fbit d.w2 32)) 32 + placed)

/-- The descriptor at `head` is handed back to the host: word 3, then word 2, and `head` goes on (R70). -/
def handBack (r : Fin 16) (code placed : Nat) (d : DescWords) (s : State) : State :=
  let k := (ringAt s r).head
  modRing r (fun g => { g with head := k + 1, doneBytes := 0 }) (modWork r (fun w => { w with desc := none, moved := [] })
    (emits [.hostWords (descAddr (ringAt s r) k + 24) [word (code + put (k + 1).toNat 16)],
      .hostWords (descAddr (ringAt s r) k + 16) [returnedWord2 d placed]] s))

section
variable {r : Fin 16} {code placed : Nat} {d : DescWords} {s : State}

@[simp] theorem handBack_ring :
    ringAt (handBack r code placed d s) r = { ringAt s r with head := (ringAt s r).head + 1, doneBytes := 0 } := by simp [handBack]

@[simp] theorem handBack_desc : (workAt (handBack r code placed d s) r).desc = none := by simp [handBack]

variable (hd : (workAt s r).desc = some d) (hirq : fbit d.w2 35 = false) (hlast : fbit d.w2 38 = false)
include hd hirq hlast

/-- A completion that is not counted and ends no ring hands the descriptor back, and then only its code acts (R67). -/
theorem completeDesc_plain : completeDesc r code placed s =
    if code = 3 then attend r (modRing r (fun g => { g with pause := true, paused := true, domainOff := true }) (handBack r code placed d s))
    else if 4 ≤ code ∧ code ≠ 7 then ringError r code (ringAt s r).head (handBack r code placed d s)
    else handBack r code placed d s := by
  simp only [completeDesc, hd, hirq, hlast, Bool.false_eq_true, if_false, false_and, and_false]
  rfl

theorem completeDesc_advancesHead : (ringAt (completeDesc r code placed s) r).head = (ringAt s r).head + 1 ∧
    (ringAt (completeDesc r code placed s) r).doneBytes = 0 ∧ (workAt (completeDesc r code placed s) r).desc = none := by
  rw [completeDesc_plain hd hirq hlast]
  unfold ringError
  repeat' split
  all_goals simp

theorem completeDesc_writesBack (hcode : code < 3) : (completeDesc r code placed s).outbox =
    .hostWords (descAddr (ringAt s r) (ringAt s r).head + 16) [returnedWord2 d placed] ::
      .hostWords (descAddr (ringAt s r) (ringAt s r).head + 24) [word (code + put ((ringAt s r).head + 1).toNat 16)] :: s.outbox := by
  rw [completeDesc_plain hd hirq hlast, if_neg (by omega), if_neg (by omega)]
  rfl

theorem completeDesc_domainOff : (ringAt (completeDesc r 3 placed s) r).paused = true ∧ (ringAt (completeDesc r 3 placed s) r).domainOff = true := by
  rw [completeDesc_plain hd hirq hlast, if_pos rfl]
  simp

theorem completeDesc_stops (hcode : 4 ≤ code) (hflushed : code ≠ 7) :
    (ringAt (completeDesc r code placed s) r).paused = true ∧ (ringAt (completeDesc r code placed s) r).error = true ∧
      (ringAt (completeDesc r code placed s) r).errCode = code ∧ (ringAt (completeDesc r code placed s) r).errIndex = (ringAt s r).head := by
  rw [completeDesc_plain hd hirq hlast, if_neg (by omega), if_pos ⟨hcode, hflushed⟩]
  simp [ringError]

end

theorem completeDesc_frame (r : Fin 16) (code placed : Nat) (s : State) : completeDesc r code placed s =
    { s with bar := (completeDesc r code placed s).bar, outbox := (completeDesc r code placed s).outbox } := by
  obtain ⟨b, o, h⟩ := completeDesc_barMoves r code placed s
  rw [h]

/-! ### The fetch of a descriptor (R70, R71, R79) -/

/-- The state in which a ring holds a descriptor of which no byte has moved. -/
def holdDesc (r : Fin 16) (d : DescWords) (s : State) : State :=
  modWork r (fun w => { w with desc := some d, moved := [] }) (modRing r (fun g => { g with doneBytes := 0 }) s)

/-- A ring whose next descriptor may be read: it runs and has one, holds none, and no power-down stands against its role (R71, R79). -/
structure MayFetch (r : Fin 16) (s : State) : Prop where
  runs : ringRuns s r = true
  waits : (ringAt s r).head ≠ (ringAt s r).tail
  free : (workAt s r).desc = none
  stays : (workAt s r).deadline = none
  powered : ∀ k ∈ roleDomains (ringAt s r).role, domOn s k = true

/-- A descriptor that is read is held, and completes at once where it breaks a rule or leaves the host range (R67). -/
theorem execDescriptorFetch_holds {t : Nat} {r : Fin 16} {d : DescWords} {s : State} (h : MayFetch r s) : execDescriptorFetch t r d s = .next
    (if badDesc s (ringAt s r) d then completeDesc r 6 0 (holdDesc r d (advance t s))
     else if badRange s (ringAt s r) d then completeDesc r 5 0 (holdDesc r d (advance t s))
     else holdDesc r d (advance t s)) := by
  obtain ⟨hruns, hwaits, hfree, hstays, hpowered⟩ := h
  have hruns' : ringRuns (advance t s) r = true := hruns
  have hpowered' : (roleDomains (ringAt s r).role).all (fun k => domOn (advance t s) k) = true := List.all_eq_true.2 hpowered
  simp only [execDescriptorFetch, onEvent, ringAt_advance, workAt_advance, hruns', beq_eq_false_iff_ne.2 hwaits, hfree, hstays, hpowered',
    Option.isSome_none, Bool.not_true, Bool.or_self, Bool.false_eq_true, if_false]
  rfl

/-! ### The end of a transfer (R67 to R71) -/

section
variable {t : Nat} {r : Fin 16} {d : DescWords} {x : Xfer} {s : State}

/-- A transfer that can end: its ring holds the descriptor and runs, with PCIE on. -/
structure Transfers (r : Fin 16) (d : DescWords) (s : State) : Prop where
  held : (workAt s r).desc = some d
  enabled : (ringAt s r).enable = true
  runs : (ringAt s r).paused = false
  pcie : domOn s 4 = true

theorem execDescriptorComplete_abort (h : Transfers r d s) (hhow : x.how = .hostAbort) :
    execDescriptorComplete t r x s = .next (completeDesc r 4 (ringAt s r).doneBytes (advance t s)) := by
  obtain ⟨hheld, henabled, hruns, hpcie⟩ := h
  simp [execDescriptorComplete, onEvent, hheld, henabled, hruns, hpcie, hhow]

theorem execDescriptorComplete_command (h : Transfers r d s) (hhow : x.how = .full) (hrole : (ringAt s r).role = .commandIn)
    (hall : (ringAt s r).doneBytes = fld d.w2 31 0) :
    execDescriptorComplete t r x s = .next (completeDesc r 0 (ringAt s r).doneBytes (advance t s)) := by
  obtain ⟨hheld, henabled, hruns, hpcie⟩ := h
  simp [execDescriptorComplete, onEvent, hheld, henabled, hruns, hpcie, hhow, hrole, hall]

/-- Data that carry no check value and are no command's input go to the descriptor's Well address (R66). -/
theorem finishIn_plain {bs : List Byte} (hmoved : (workAt s r).moved = []) (hinput : (workAt s r).input = 0) (hverify : fbit d.w2 37 = false)
    (hrising : fbit d.w2 34 = false) : finishIn r d bs s = completeDesc r 0 bs.length (wellWrite d.w1.toNat bs s) := by
  simp [finishIn, placeIn, placeInWell, hmoved, hinput, hverify, hrising]

theorem execDescriptorComplete_generalIn (h : Transfers r d s) (hhow : x.how = .full) (hrole : (ringAt s r).role = .generalIn)
    (hmoved : (workAt s r).moved = []) (hinput : (workAt s r).input = 0) (hverify : fbit d.w2 37 = false) (hrising : fbit d.w2 34 = false)
    (hlen : x.data.length = fld d.w2 31 0) :
    execDescriptorComplete t r x s = .next (completeDesc r 0 x.data.length (wellWrite d.w1.toNat x.data (advance t s))) := by
  obtain ⟨hheld, henabled, hruns, hpcie⟩ := h
  rw [← finishIn_plain (s := advance t s) hmoved hinput hverify hrising]
  simp [execDescriptorComplete, onEvent, hheld, henabled, hruns, hpcie, hhow, hrole, hmoved, hlen]

/-- Well bytes that take no check value leave for the descriptor's buffer (R68). -/
theorem sendWell_plain (happend : fbit d.w2 36 = false) (hrising : fbit d.w2 33 = false)
    (hgood : poisoned s d.w1.toNat (fld d.w2 31 0) = false) :
    sendWell r d s = completeDesc r 0 (wellRead s d.w1.toNat (fld d.w2 31 0)).length
      (emit (.hostBytes d.w0.toNat (wellRead s d.w1.toNat (fld d.w2 31 0))) s) := by
  simp [sendWell, withCheck_plain happend, happend, hrising, hgood]

theorem execDescriptorComplete_generalOut (h : Transfers r d s) (hhow : x.how = .full) (hrole : (ringAt s r).role = .generalOut)
    (hunits : (workAt s r).units = []) (happend : fbit d.w2 36 = false) (hrising : fbit d.w2 33 = false)
    (hgood : poisoned s d.w1.toNat (fld d.w2 31 0) = false) :
    execDescriptorComplete t r x s = .next (completeDesc r 0 (wellRead s d.w1.toNat (fld d.w2 31 0)).length
      (emit (.hostBytes d.w0.toNat (wellRead s d.w1.toNat (fld d.w2 31 0))) (advance t s))) := by
  obtain ⟨hheld, henabled, hruns, hpcie⟩ := h
  refine Eq.trans ?_ (congrArg _ (sendWell_plain (s := advance t s) happend hrising hgood))
  simp [execDescriptorComplete, onEvent, hheld, henabled, hruns, hpcie, hhow, hrole, hunits]

end

/-- Settles O8: the fetch by its verdict, the end of a transfer by the ring's role, and the completion by what each code makes of the ring. -/
theorem descriptorsAreServed : Obligations.DescriptorsAreServed := by
  refine ⟨fun t r d s hruns hwaits hfree hstays hpowered => ?_, fun t r d x s hheld henabled hpaused hpcie => ?_,
    fun r code placed d s hd hirq hlast => ?_⟩
  · have hfetch := execDescriptorFetch_holds (t := t) (d := d) ⟨hruns, hwaits, hfree, hstays, hpowered⟩
    refine ⟨fun hok hin => ?_, fun hbad => ?_, fun hok hout => ?_⟩
    · rw [hok, hin] at hfetch; exact hfetch
    · rw [hbad] at hfetch; exact hfetch
    · rw [hok, hout] at hfetch; exact hfetch
  · have h : Transfers r d s := ⟨hheld, henabled, hpaused, hpcie⟩
    exact ⟨execDescriptorComplete_abort h, execDescriptorComplete_command h, execDescriptorComplete_generalIn h, execDescriptorComplete_generalOut h⟩
  · obtain ⟨hhead, hdone, hgone⟩ := completeDesc_advancesHead (code := code) (placed := placed) hd hirq hlast
    refine ⟨hhead, hdone, hgone, completeDesc_writesBack hd hirq hlast, ?_, completeDesc_stops hd hirq hlast, completeDesc_frame _ _ _ _⟩
    rintro rfl
    exact completeDesc_domainOff hd hirq hlast

end Sys2Proof.Machine
end

section
/-!
Ring commands and the mailbox, and the statement about them.
-/
namespace Sys2Proof.Machine

/-! ### RING_DOMAIN_DEADLINE and RING_ROLE (R63, R64, R79) -/

theorem advance_reaches (t : Nat) (s : State) : t ≤ (advance t s).now := Nat.le_max_right _ _

theorem execRingDomainDeadline_partial {t t0 : Nat} {r : Fin 16} {d : DescWords} {s : State} (hasked : (workAt s r).deadline = some t0)
    (hdue : t0 + 1000000 ≤ t) (hheld : (workAt s r).desc = some d) (hpart : (ringAt s r).doneBytes ≠ fld d.w2 31 0) :
    execRingDomainDeadline t r s = .next (completeDesc r 3 (ringAt s r).doneBytes (modWork r (fun w => { w with deadline := none }) (advance t s))) := by
  have hlate : ¬ (advance t s).now < t0 + 1000000 := Nat.not_lt.2 (Nat.le_trans hdue (advance_reaches t s))
  simp [execRingDomainDeadline, onEvent, hasked, hlate, hheld, hpart]

section
variable {t cid : Nat} {c : Slot} {r : Fin 16} {role : RingRole} {s : State} (h : Starts Op.ringRole cid c s) (hr : parN c 0 = r.val)
  (hrole : roleOfCode (parN c 1) = some role)
include h hr hrole

theorem execRingRole_judges : execRingRole t cid s = .next
    (if (ringAt s r).enable then refuse c Status.ringBusy (startedAt t cid s)
     else done c (modRing r (fun g => { g with role := role }) (startedAt t cid s))) := by
  have hlt : parN c 0 < 16 := hr ▸ r.isLt
  have hfin : (⟨parN c 0, hlt⟩ : Fin 16) = r := Fin.ext hr
  refine (onStart_starts h).trans (congrArg _ ?_)
  simp only [dif_pos hlt, hfin, hrole]
  rfl

end

/-! ### WELL_READ and WELL_WRITE (R52, R64, R573) -/

theorem execWellRead_leaves {t cid : Nat} {c : Slot} {s : State} (h : Starts Op.wellRead cid c s) (hring : outRing s (parN c 2) = true)
    (hsome : 0 < parN c 1) (hrange : rangeFailure s (parN c 0) (parN c 1) = none) (hgood : poisoned s (parN c 0) (parN c 1) = false) :
    execWellRead t cid s = .next (queueUnits (parN c 2)
      [{ data := wellRead s (parN c 0) (parN c 1), cid := c.cid, final := true, split := true }] (startedAt t cid s)) := by
  have hring' : outRing (startedAt t cid s) (parN c 2) = true := hring
  have hrange' : rangeFailure (startedAt t cid s) (parN c 0) (parN c 1) = none := hrange
  have hgood' : poisoned (startedAt t cid s) (parN c 0) (parN c 1) = false := hgood
  refine (onStart_starts h).trans (congrArg _ ?_)
  simp only [hring', Nat.ne_of_gt hsome, withObject, hrange', hgood', Bool.not_true, Bool.false_eq_true, if_false]
  rfl

theorem rangeFailure_beyondWell {s : State} {addr n : Nat} (h : s.well.bytes < addr + n) : rangeFailure s addr n = some Status.badRange := if_pos h

theorem rangeFailure_deviceRegion {s : State} {addr n : Nat} (hin : addr + n ≤ s.well.bytes) (hend : hostEnd s < addr + n) :
    rangeFailure s addr n = some Status.protectedRange := by
  rw [rangeFailure, if_neg (Nat.not_lt.2 hin), if_pos hend]

section
variable {t cid : Nat} {c : Slot} {r : Fin 16} {s : State} (h : Starts Op.wellWrite cid c s) (hr : parN c 2 = r.val) (hring : inRing s r.val = true)
  (hsome : 0 < parN c 1)
include h hr hring hsome

/-- WELL_WRITE on a ring it may name is judged by its range alone. -/
theorem execWellWrite_judges : execWellWrite t cid s = .next
    (withRange c (parN c 0) (parN c 1)
      (modWork r (fun w => { w with input := c.cid, inAddr := parN c 0, inLeft := parN c 1, got := [] })) (startedAt t cid s)) := by
  have hring' : inRing (startedAt t cid s) (parN c 2) = true := by rw [hr]; exact hring
  have hlt : parN c 2 < 16 := hr ▸ r.isLt
  have hfin : (⟨parN c 2, hlt⟩ : Fin 16) = r := Fin.ext hr
  refine (onStart_starts h).trans (congrArg _ ?_)
  simp only [dif_pos hlt, hfin, hring', Nat.ne_of_gt hsome, Bool.not_true, Bool.false_eq_true, if_false]

theorem execWellWrite_takes (hrange : rangeFailure s (parN c 0) (parN c 1) = none) :
    execWellWrite t cid s = .next (modWork r (fun w => { w with
      input := c.cid, inAddr := parN c 0, inLeft := parN c 1, got := [] }) (startedAt t cid s)) := by
  have hrange' : rangeFailure (startedAt t cid s) (parN c 0) (parN c 1) = none := hrange
  rw [execWellWrite_judges h hr hring hsome, withRange, hrange']

theorem execWellWrite_refused {status : Nat} (hrange : rangeFailure s (parN c 0) (parN c 1) = some status) :
    execWellWrite t cid s = .next (refuse c status (startedAt t cid s)) := by
  have hrange' : rangeFailure (startedAt t cid s) (parN c 0) (parN c 1) = some status := hrange
  rw [execWellWrite_judges h hr hring hsome, withRange, hrange']

end

/-! ### The mailbox (R84, R86) -/

/-- What the mailbox judges does not change as time passes. -/
@[simp] theorem mbxReady_advance (t op : Nat) (s : State) : mbxReady (advance t s) op = mbxReady s op := rfl

section
variable {t : Nat} {s : State}

theorem execMbxBootLog_writes (h : mbxReady s 1 = true) : execMbxBootLog t s = .next (mbxWrite Config.bootLog (advance t s)) := by
  simp [execMbxBootLog, onEvent, h]

theorem execMbxDeviceCert_writes (h : mbxReady s 2 = true) : execMbxDeviceCert t s = .next (mbxWrite (Config.cert 0) (advance t s)) := by
  simp [execMbxDeviceCert, onEvent, h]

theorem execMbxRecoveryLoad_begins (h : mbxReady s 3 = true) : execMbxRecoveryLoad t s = .next { advance t s with bar.mbxRun := true } := by
  simp [execMbxRecoveryLoad, onEvent, h]

theorem execMbxRetryBoot_restarts (h : mbxReady s 4 = true) : execMbxRetryBoot t s = .next (retryBoot { advance t s with bar.mbxRun := true }) := by
  simp [execMbxRetryBoot, onEvent, h]

end

/-- An interrupt's bit reads 1 (R81). -/
theorem setInt_sets {i : Nat} (hi : i < 64) (s : State) : (setInt i s).bar.intStatus.getLsbD i = true := by
  rw [setInt_bar, BitVec.getLsbD_or, BitVec.getLsbD_ofNat, Nat.testBit_two_pow_self]
  simp [hi]

theorem setInt_mbxBusy (i : Nat) (s : State) : (setInt i s).bar.mbxBusy = s.bar.mbxBusy := by rw [setInt_bar]
theorem setInt_mbxResult (i : Nat) (s : State) : (setInt i s).bar.mbxResult = s.bar.mbxResult := by rw [setInt_bar]

/-- The end of a mailbox operation: not busy, its result, and the cause `mbx` (R81, R84). -/
theorem mbxEnd_ends (result : Nat) (s : State) : (mbxEnd result s).bar.mbxBusy = false ∧ (mbxEnd result s).bar.mbxResult = result ∧
    (mbxEnd result s).bar.intStatus.getLsbD 33 = true ∧ BarMoves s (mbxEnd result s) :=
  ⟨setInt_mbxBusy _ _, setInt_mbxResult _ _, setInt_sets (by decide) _, (setInt_barMoves _ _).after ⟨_, _, rfl⟩⟩

/-- The state in which a recovery image stands in its slot and boot begins again. -/
def recovered (slot : Fin 2) (v : ImgVerdict) (s : State) : State :=
  retryBoot (setImage slot { header := v.header } { s with fwVersion := s.fwVersion.set slot (imgVersion v.header) })

section
variable {t : Nat} {v : ImgVerdict} {flashOk : Bool} {s : State} (hbusy : s.bar.mbxBusy = true) (hrun : s.bar.mbxRun = true)
include hbusy hrun

theorem execMailboxOperationEnd_plain (hop : s.bar.mbxOp ≠ 3) : execMailboxOperationEnd t v flashOk s = .next (mbxEnd 0 (advance t s)) := by
  simp [execMailboxOperationEnd, onEvent, hbusy, hrun, hop]

theorem execMailboxOperationEnd_recovers {slot : Fin 2} (hop : s.bar.mbxOp = 3) (hgood : imgFailure (advance t s) v = none)
    (hslot : (s.bar.mbxArg[2]).toNat = slot.val) :
    execMailboxOperationEnd t v true s = .next (mbxEnd 0 (recovered slot v (advance t s))) := by
  have harg : mbxArgN (advance t s) 2 = slot.val := hslot
  have hexists : ¬ 1 < slot.val := by omega
  have hnamed : ∀ k : Fin 2, (if k.val = 0 then 0 else 1 : Fin 2) = k := by decide
  simp only [execMailboxOperationEnd, onEvent, advance_bar, hbusy, hrun, hop, endRecovery, harg, hexists, hnamed, hgood, Bool.and_self, Bool.not_true,
    Bool.false_eq_true, if_true, if_false]
  rfl

end

/-- Settles O9: each ring command in the state in which its slot executes; each mailbox operation by its own event, and their end by `mbxEnd`. -/
theorem hostCommandsAnswer : Obligations.HostCommandsAnswer := by
  refine ⟨⟨fun t t0 r d s => execRingDomainDeadline_partial, fun t cid c r s h hr role hrole => ?_, fun t cid c s => execWellRead_leaves,
    fun t cid c r s h hr hring hsome => ⟨execWellWrite_takes h hr hring hsome, fun hfar => ?_, fun hin hend => ?_⟩⟩,
    fun t v ok s => ⟨execMbxBootLog_writes, execMbxDeviceCert_writes, execMbxRecoveryLoad_begins, execMbxRetryBoot_restarts,
      fun hbusy hrun hop => ?_, fun hbusy hrun hop hgood hok slot hslot => ?_⟩⟩
  · have hjudged := execRingRole_judges (t := t) h hr hrole
    exact ⟨fun hoff => hjudged.trans (congrArg _ (if_neg (by simp [hoff]))), fun hon => hjudged.trans (congrArg _ (if_pos hon))⟩
  · exact execWellWrite_refused h hr hring hsome (rangeFailure_beyondWell hfar)
  · exact execWellWrite_refused h hr hring hsome (rangeFailure_deviceRegion hin hend)
  · obtain ⟨hidle, hresult, hraised, b, o, hframe⟩ := mbxEnd_ends 0 (advance t s)
    exact ⟨_, execMailboxOperationEnd_plain hbusy hrun hop, hidle, hresult, hraised, by rw [hframe]⟩
  · subst hok
    obtain ⟨hidle, hresult, -, b, o, hframe⟩ := mbxEnd_ends 0 (recovered slot v (advance t s))
    refine ⟨_, execMailboxOperationEnd_recovers hbusy hrun hop hgood hslot, hidle, hresult, ?_, ?_⟩
    · rw [hframe]; simp [recovered, retryBoot, setImage]
    · rw [hframe]; rfl

end Sys2Proof.Machine
end

section
/-!
What reports leave of the registers: an operation that only reports touches of BAR0 nothing but the interrupts.
-/
namespace Sys2Proof.Machine

/-- Of the registers of BAR0 only interrupts and pending bits differ (R81, R82). -/
def Reports (s t : State) : Prop := ∃ i p, t.bar = { s.bar with intStatus := i, pba := p }

theorem Reports.refl (s : State) : Reports s s := ⟨_, _, rfl⟩

theorem Reports.trans {s t u : State} (h : Reports s t) (k : Reports t u) : Reports s u := by
  obtain ⟨i, p, hst⟩ := h
  obtain ⟨j, q, htu⟩ := k
  exact ⟨j, q, by rw [htu, hst]⟩

/-- The last operation first, for an operation whose argument is to be read from the goal. -/
theorem Reports.after {s t u : State} (k : Reports t u) (h : Reports s t) : Reports s u := h.trans k

theorem Reports.foldl {α : Type} {g : State → α → State} (hg : ∀ s a, Reports s (g s a)) (l : List α) (s : State) : Reports s (l.foldl g s) :=
  foldl_rel .refl .trans hg l s

theorem Reports.ite {s t u : State} {p : Prop} [Decidable p] (h : Reports s t) (k : Reports s u) : Reports s (if p then t else u) := by
  split <;> assumption

/-- What reports leave of the mailbox. -/
theorem Reports.mbxBusy {s t : State} (h : Reports s t) : t.bar.mbxBusy = s.bar.mbxBusy := by
  obtain ⟨i, p, h⟩ := h
  rw [h]

/-! ### Interrupts, events and replies -/

theorem setInt_reports (i : Nat) (s : State) : Reports s (setInt i s) := ⟨_, _, setInt_bar s i⟩

theorem crierPut_reports (e : Event) (s : State) : Reports s (crierPut e s) := by
  unfold crierPut
  dsimp only
  repeat' split
  all_goals first
    | exact ⟨_, _, rfl⟩
    | exact (setInt_reports _ _).after ⟨_, _, rfl⟩

theorem notify_reports (code detail : Nat) (s : State) : Reports s (notify code detail s) := crierPut_reports _ s

theorem event_reports (code cls detail : Nat) (s : State) : Reports s (event code cls detail s) := crierPut_reports _ s

theorem deviceFault_reports (code : Nat) (s : State) : Reports s (deviceFault code s) := by
  obtain ⟨f, l, w, h⟩ := deviceFault_changes code s
  rw [h]
  exact ⟨_, _, rfl⟩

theorem raise_reports (code detail : Nat) (s : State) : Reports s (raise code detail s) := by
  have hsent := event_reports code (classOf code) detail s
  exact .ite (hsent.trans ⟨_, _, rfl⟩) (.ite (hsent.trans ⟨_, _, rfl⟩) (.ite (hsent.trans ⟨_, _, rfl⟩)
    (.ite (hsent.trans ⟨_, _, rfl⟩) ((deviceFault_reports code _).after (hsent.trans ⟨_, _, rfl⟩)))))

theorem finish_reports (cid status fault : Nat) (results : List W64) (s : State) : Reports s (finish cid status fault results s) := by
  rw [finish_frame]
  exact ⟨_, _, rfl⟩

theorem uraraSend_reports (dest type : Nat) (ws : List W64) (s : State) : Reports s (uraraSend dest type ws s) := by
  rw [uraraSend_frame]
  exact ⟨_, _, rfl⟩

/-! ### Records and manifests (R308, R313, R318) -/

theorem exportEntry_reports (type : Nat) (ws : List W64) (parts : List (Nat × Nat)) (s : State) : Reports s (exportEntry type ws parts s) :=
  ⟨_, _, rfl⟩

theorem writePart_reports (n kind : Nat) (s : State) : Reports s (writePart n kind s) := by
  unfold writePart ledgerWrite
  split
  · exact .refl s
  · dsimp only
    split
    · exact (uraraSend_reports _ _ _ _).after ⟨_, _, rfl⟩
    · exact ⟨_, _, rfl⟩

theorem exportPart_reports (n kind : Nat) (s : State) : Reports s (exportPart n kind s) := by
  unfold exportPart
  split <;> exact ⟨_, _, rfl⟩

theorem settleManifests_reports (s : State) : Reports s (settleManifests s) :=
  (Reports.foldl (fun s _ => finish_reports _ _ _ _ s) _ _).after
    ((Reports.foldl (fun s _ => exportEntry_reports _ _ _ s) _ s).trans ⟨_, _, rfl⟩)

theorem countManifests_reports (n kind : Nat) (s : State) : Reports s (countManifests n kind s) := (settleManifests_reports _).after ⟨_, _, rfl⟩

theorem finalise_reports (n kind reason fault grade : Nat) (s : State) : Reports s (finalise n kind reason fault grade s) := by
  unfold finalise
  split
  · exact .refl s
  · split
    · exact .refl s
    · exact (countManifests_reports _ _ _).after ((exportPart_reports _ _ _).after ((writePart_reports _ _ _).after ⟨_, _, rfl⟩))

theorem voidRec_reports (reason fault n : Nat) (s : State) : Reports s (voidRec reason fault n s) := finalise_reports _ _ _ _ _ s

/-! ### Products (R108, R112, R122) -/

theorem voidProduct_reports (n reason fault : Nat) (s : State) : Reports s (voidProduct n reason fault s) := by
  have hrecs : Reports s (voidRecs n reason fault (setFlag n 0 s)) :=
    (Reports.foldl (fun s _ => voidRec_reports _ _ _ s) _ _).after ⟨_, _, rfl⟩
  unfold voidProduct
  dsimp only
  split
  · exact hrecs
  · refine hrecs.trans (.foldl (fun s g => ?_) _ _)
    repeat' split
    all_goals exact ⟨_, _, rfl⟩

theorem closeRecords_reports (p : Product) (s : State) : Reports s (closeRecords p s) := by
  refine .foldl (fun s r => ?_) _ s
  repeat' split
  · exact .refl s
  all_goals exact finalise_reports _ _ _ _ _ s

theorem settleSwitch_reports (s : State) : Reports s (settleSwitch s) := by
  unfold settleSwitch
  repeat' split
  · exact (notify_reports _ _ _).after ⟨_, _, rfl⟩
  all_goals exact .refl s

theorem settleProduct_reports (n : Nat) (s : State) : Reports s (settleProduct n s) := by
  unfold settleProduct
  split
  · exact .refl s
  · next p _ =>
    split
    · exact .refl s
    · have hlone : ∀ b : Bool, Reports s (if b then setFlag n 15 (notify Notice.productNoGate n s) else s) := fun b => by
        cases b
        · exact .refl s
        · exact (notify_reports Notice.productNoGate n s).trans ⟨_, _, rfl⟩
      exact (settleSwitch_reports _).after (((closeRecords_reports p _).after (hlone _)).trans ⟨_, _, rfl⟩)

theorem settleAll_reports (s : State) : Reports s (settleAll s) := .foldl (fun s n => settleProduct_reports n s) _ s

/-! ### Replay (R302, R548) -/

theorem judgePool_reports (pool : Nat) (s : State) : Reports s (judgePool pool s) := by
  unfold judgePool
  split
  · exact .refl s
  · exact .ite ((notify_reports _ _ _).after ⟨_, _, rfl⟩) (.ite ⟨_, _, rfl⟩ (.refl s))

theorem abandonGrant_reports (pool : Nat) (g : Grant) (s : State) : Reports s (abandonGrant pool g s) := by
  unfold abandonGrant
  dsimp only
  repeat' split
  all_goals exact ⟨_, _, rfl⟩

theorem abandonAll_reports (s : State) : Reports s (abandonAll s) :=
  (Reports.foldl (fun s _ => (Reports.foldl (fun s _ => abandonGrant_reports _ _ s) _ s).trans (judgePool_reports _ _)) _ s).trans ⟨_, _, rfl⟩

theorem voidLost_reports (code : Option Nat) (s : State) (n : Nat) : Reports s (voidLost code s n) := by
  unfold voidLost
  cases code with
  | none => exact voidProduct_reports _ _ _ s
  | some c => exact (voidProduct_reports n 5 0 s).trans (event_reports _ _ _ _)

theorem replay_reports (code : Option Nat) (s : State) : Reports s (replay code s) := by
  have hvoid : ∀ (l : List Nat) (reason fault : Nat) (u : State), Reports u (l.foldl (fun s n => voidRec reason fault n s) u) :=
    fun l reason fault u => .foldl (fun s n => voidRec_reports _ _ _ s) l u
  have hrestart : ∀ u : State, Reports u (keepWaiting (restartLines u)) := fun _ => ⟨_, _, rfl⟩
  exact (settleAll_reports _).after ((hrestart _).after ((abandonAll_reports _).after ((hvoid _ 5 0 _).after
    ((Reports.foldl (voidLost_reports code) _ _).after (hvoid _ 3 FaultCode.journalCorrupt s)))))

/-! ### A unit that begins to copy (R262, R386, R401) -/

theorem settlePermits_reports (s : State) : Reports s (settlePermits s) := by
  refine .foldl (fun s c => ?_) _ s
  split
  · exact finish_reports _ _ _ _ s
  · exact .refl s

theorem dropPermits_reports (s : State) : Reports s (dropPermits s) := by
  refine (settlePermits_reports _).after (.foldl (fun s k => ?_) _ s)
  exact ⟨_, _, modStall_bar _ _ _⟩

theorem enterCopying_reports (s : State) : Reports s (enterRole .copying s) := by
  exact (dropPermits_reports _).after
    (.ite ((notify_reports _ _ _).after ⟨_, _, rfl⟩) (.ite ((notify_reports _ _ _).after ⟨_, _, rfl⟩) ⟨_, _, rfl⟩))

theorem becomeCopying_reports (s : State) : Reports s (becomeCopying s) := (enterCopying_reports _).after ⟨_, _, rfl⟩

end Sys2Proof.Machine
end

section
/-!
Boot: how each of its stages ends, what the release of RESET_N and the supplies of AON do, and the statement about them.
-/
namespace Sys2Proof.Machine

/-- What boot judges does not change as time passes. -/
@[simp] theorem advance_bootAt (t : Nat) (s : State) (stage : Nat) : bootAt (advance t s) stage = bootAt s stage := rfl

/-! ### The self-tests and the images (R412, R436) -/

section
variable {t : Nat} {s : State} (h : bootAt s 1 = true)
include h

theorem execBootSelftestsDone_passes : execBootSelftestsDone t true s = .next (bootTo 2 { advance t s with
    kry.tested := true, kry.katAt := (advance t s).now, kry.reseedAt := (advance t s).now }) := by
  simp [execBootSelftestsDone, onEvent, h]

theorem execBootSelftestsDone_fails : execBootSelftestsDone t false s = .next (bootFail 5 (advance t s)) := by
  simp [execBootSelftestsDone, onEvent, h]

end

/-- `first` is the slot that boot tries first, and `other` the one it tries next, with their findings `v` and `w` out of those on slots A and B (R412). -/
def TriedInOrder (s : State) (a b : ImgVerdict) (first other : Fin 2) (v w : ImgVerdict) : Prop :=
  (s.bgd.fwSlot = 0 ∧ first = 0 ∧ other = 1 ∧ v = a ∧ w = b) ∨ (s.bgd.fwSlot ≠ 0 ∧ first = 1 ∧ other = 0 ∧ v = b ∧ w = a)

/-- The image of the first slot whose checks pass runs; when both fail boot stops with what the first one failed (R412). -/
def triedImages (first other : Fin 2) (v w : ImgVerdict) (s : State) : State :=
  match slotFailure s first v with
  | none => bootImage first v s
  | some e =>
    match slotFailure s other w with
    | none => bootImage other w s
    | some _ => bootFail e (bootTo 3 s)

section
variable {t : Nat} {a b v w : ImgVerdict} {first other : Fin 2} {s : State}

theorem execBootImageVerified_tries (h : bootAt s 2 = true) (horder : TriedInOrder s a b first other v w) :
    execBootImageVerified t a b s = .next (triedImages first other v w (advance t s)) := by
  rcases horder with ⟨hslot, rfl, rfl, rfl, rfl⟩ | ⟨hslot, rfl, rfl, rfl, rfl⟩
  all_goals
    simp only [execBootImageVerified, onEvent, advance_bootAt, advance_bgd, h, hslot, Bool.not_true, Bool.false_eq_true, if_true, if_false]
    rfl

theorem triedImages_first (hv : slotFailure s first v = none) : triedImages first other v w s = bootImage first v s := by
  simp only [triedImages, hv]

theorem triedImages_other {e : Nat} (hv : slotFailure s first v = some e) (hw : slotFailure s other w = none) :
    triedImages first other v w s = bootImage other w s := by
  simp only [triedImages, hv, hw]

theorem triedImages_neither {e f : Nat} (hv : slotFailure s first v = some e) (hw : slotFailure s other w = some f) :
    triedImages first other v w s = bootFail e (bootTo 3 s) := by
  simp only [triedImages, hv, hw]

end

/-! ### The control cores (R98, R347, R482, R528) -/

/-- A record that takes its delivery value leaves the saved numbers and the Ledger as they were (R98, R482). -/
theorem deliveryValue_saved (s : State) (hit : LedgerHit) : (deliveryValue s hit).mot.savedLine = s.mot.savedLine ∧
    (deliveryValue s hit).mot.savedProd = s.mot.savedProd ∧ (deliveryValue s hit).led = s.led := by
  unfold deliveryValue
  split <;> exact ⟨rfl, rfl, rfl⟩

/-- The configuration region once read: the saved numbers go on higher, and no record of it is broken (R98, R482). -/
theorem readConfig_numbers (s : State) : (readConfig s).mot.line = s.mot.savedLine + 1048576 ∧
    (readConfig s).mot.nextProd = s.mot.savedProd + 1048576 ∧ (readConfig s).led.broken = [] := by
  have hled := foldl_keeps State.led (fun s hit => (deliveryValue_saved s hit).2.2) s.led.broken { s with led.broken := [] }
  have hline := foldl_keeps (·.mot.savedLine) (fun s hit => (deliveryValue_saved s hit).1) s.led.broken { s with led.broken := [] }
  have hprod := foldl_keeps (·.mot.savedProd) (fun s hit => (deliveryValue_saved s hit).2.1) s.led.broken { s with led.broken := [] }
  exact ⟨congrArg (· + 1048576) hline, congrArg (· + 1048576) hprod, congrArg Ledger.broken hled⟩

/-- The clock that starts leaves motion and the Ledger alone (R347). -/
theorem startClock_apart (s : State) : (startClock s).mot = s.mot ∧ (startClock s).led = s.led := by
  have hboot : ∀ (kept : Bool) (down : Nat), (clockBoot kept down s).mot = s.mot ∧ (clockBoot kept down s).led = s.led := fun kept down => by
    unfold clockBoot
    split <;> exact ⟨modClk_mot _ s, modClk_led _ s⟩
  unfold startClock
  split
  · exact ⟨rfl, rfl⟩
  · exact hboot _ _

/-- The state in which the control cores run: configuration read, clock started, every domain powered (R528). -/
def coresRun (s : State) : State := { bootTo 5 (startClock (readConfig s)) with pwr.domains := Vector.replicate 12 true }

section
variable {t : Nat} {s : State} (h : bootAt s 4 = true)
include h

theorem execBootCoresStarted_starts : execBootCoresStarted t true s = .next (setInt 37 (coresRun (advance t s))) := by
  simp only [execBootCoresStarted, onEvent, advance_bootAt, h, Bool.not_true, Bool.false_eq_true, if_false]
  rfl

theorem execBootCoresStarted_fails : execBootCoresStarted t false s = .next (bootFail 6 (advance t s)) := by
  simp [execBootCoresStarted, onEvent, h]

end

theorem coresRun_numbers (s : State) : (coresRun s).mot.line = s.mot.savedLine + 1048576 ∧ (coresRun s).mot.nextProd = s.mot.savedProd + 1048576 ∧
    (coresRun s).led.broken = [] := by
  obtain ⟨hmot, hled⟩ := startClock_apart (readConfig s)
  have hmot' : (coresRun s).mot = (readConfig s).mot := hmot
  have hled' : (coresRun s).led = (readConfig s).led := hled
  rw [hmot', hled']
  exact readConfig_numbers s

/-! ### The Well and the lanes (R275, R455, R462) -/

theorem huntLane_frame (n : Nat) (s : State) : huntLane n s = { s with lan := (huntLane n s).lan } := by
  unfold huntLane modLane
  split <;> rfl

/-- The lanes of a list begin to hunt. -/
def huntAll (l : List Nat) (s : State) : State := l.foldl (fun s n => huntLane n s) s

theorem huntAll_apart (l : List Nat) (s : State) : (huntAll l s).pwr = s.pwr ∧ (huntAll l s).well = s.well :=
  ⟨foldl_keeps State.pwr (fun s n => by rw [huntLane_frame]) l s, foldl_keeps State.well (fun s n => by rw [huntLane_frame]) l s⟩

/-- A lane that is told to hunt does, and one that hunts goes on (R273). -/
theorem huntLane_state (m : Nat) (n : Fin 36) (s : State) :
    (huntLane m s).lan.lane[n].state = if m = n.val then .hunt else s.lan.lane[n].state := by
  unfold huntLane modLane upd
  split
  · simp only [Fin.getElem_fin, Vector.getElem_set]
    split <;> rfl
  · next hout => rw [if_neg (by omega)]

theorem huntAll_state {l : List Nat} {n : Fin 36} {s : State} (h : n.val ∈ l ∨ s.lan.lane[n].state = .hunt) :
    (huntAll l s).lan.lane[n].state = .hunt := by
  induction l generalizing s with
  | nil => exact h.resolve_left List.not_mem_nil
  | cons m l ih =>
    refine ih (s := huntLane m s) ?_
    rw [huntLane_state]
    split
    · exact .inr rfl
    · next hne => exact h.imp_left fun hmem => (List.mem_cons.1 hmem).resolve_left (Ne.symm hne)

/-- The state in which the Well is trained at a rate that its configuration allows (R462, R473). -/
def wellTrained (spd : SpdRead) (rate : Nat) (s : State) : State :=
  { s with
    well.bytes := wellCapacity s.well.x4 s.well.density s.well.ranks,
    well.rate := min rate s.well.cfgRate,
    well.maxRate := if s.well.dimms then spd.maxRate else 7,
    well.reduced := decide (min rate s.well.cfgRate < s.well.cfgRate),
    well.chans := s.well.chans.map fun c => { c with state := 1, zqAt := s.now } }

section
variable {t : Nat} {spd : SpdRead} {rate : Option Nat} {s : State} (h : bootAt s 5 = true)
include h

theorem execBootWellTrained_fails {e : Nat} (hbad : wellFailure s spd = some e) :
    execBootWellTrained t spd rate s = .next (bootFail e (advance t s)) := by
  have hbad' : wellFailure (advance t s) spd = some e := hbad
  simp [execBootWellTrained, onEvent, h, hbad']

theorem execBootWellTrained_trains {r : Nat} (hgood : wellFailure s spd = none) (hr : 0 < r) : execBootWellTrained t spd (some r) s =
    .next (huntAll ((List.range 36).filter (laneWanted s)) (bootTo 6 (wellTrained spd r (advance t s)))) := by
  have hgood' : wellFailure (advance t s) spd = none := hgood
  simp only [execBootWellTrained, onEvent, advance_bootAt, h, hgood', Nat.ne_of_gt hr, Bool.not_true, Bool.false_eq_true, if_false]
  rfl

end

theorem execBootLaneStageEnd_due {t : Nat} {s : State} (h : bootAt s 6 = true) (hdue : s.pwr.stageAt + 20000000 ≤ (advance t s).now) :
    execBootLaneStageEnd t s = .next { advance t s with pwr.lanesDone := true } := by
  simp [execBootLaneStageEnd, onEvent, h, hdue]

/-! ### Ready (R403, R528, R548) -/

theorem becomeCopying_settles (s : State) : Settles s (becomeCopying s) := by
  have henter : ∀ u : State, Settles u (enterRole .copying u) := fun u => by
    have hrole : Settles u { u with twn.role := .copying } := ⟨rfl, rfl, rfl, rfl, rfl, rfl, rfl⟩
    refine (dropPermits_settles _).after ?_
    dsimp only
    split
    · exact hrole.trans (notify_settles _ _ _)
    · split
      · exact hrole.trans (notify_settles _ _ _)
      · exact hrole
  exact (henter _).after ⟨rfl, rfl, rfl, rfl, rfl, rfl, rfl⟩

theorem resume_settles (s : State) : (resume s).pwr = s.pwr ∧ Reports s (resume s) := by
  unfold resume
  split
  · exact ⟨(becomeCopying_settles _).pwr.trans (abandonAll_settles s).pwr,
      (becomeCopying_reports _).after ((abandonAll_reports s).trans ⟨_, _, rfl⟩)⟩
  · exact ⟨(replay_settles none s).pwr, replay_reports none s⟩

theorem setMode_settles (s : State) : (setMode s).pwr = s.pwr ∧ Reports s (setMode s) := by
  unfold setMode
  dsimp only
  split
  · exact ⟨rfl, .refl s⟩
  · exact ⟨(notify_settles _ _ _).pwr, (notify_reports _ _ _).after ⟨_, _, rfl⟩⟩

/-- A Well that trained below its configured rate is reported (R473). -/
def rateReported (s : State) : State := if s.well.reduced then raise FaultCode.wellRateReduced 0 s else s

theorem rateReported_settles (s : State) : (rateReported s).pwr = s.pwr ∧ Reports s (rateReported s) := by
  unfold rateReported
  split
  · exact ⟨(raise_keeps_units _ _ s).1, raise_reports _ _ s⟩
  · exact ⟨rfl, .refl s⟩

/-- The state at t8: the mailbox is closed and the device is ready (R84, R528). -/
def madeReady (s : State) : State := setInt 32 { bootTo 7 s with
  pwr.ready := true, pwr.readySec := devSec s % 2 ^ 32, bar.mbxBusy := false, bar.mbxRun := false, bar.mbxOp := 0 }

theorem execDeviceReady_readies {t : Nat} {s : State} (h : bootAt s 6 = true) (hlanes : s.pwr.lanesDone = true) :
    execDeviceReady t s = .next (resume (setMode (rateReported (madeReady (advance t s))))) := by
  simp only [execDeviceReady, onEvent, advance_bootAt, advance_pwr, h, hlanes, Bool.not_true, Bool.or_self, Bool.false_eq_true, if_false]
  rfl

/-- What follows t8 leaves power and the mailbox as t8 left them. -/
theorem afterReady_settles (s : State) : (resume (setMode (rateReported s))).pwr = s.pwr ∧ Reports s (resume (setMode (rateReported s))) := by
  obtain ⟨hrate, hrateBar⟩ := rateReported_settles s
  obtain ⟨hmode, hmodeBar⟩ := setMode_settles (rateReported s)
  obtain ⟨hresume, hresumeBar⟩ := resume_settles (setMode (rateReported s))
  exact ⟨hresume.trans (hmode.trans hrate), hrateBar.trans (hmodeBar.trans hresumeBar)⟩

/-! ### The release of RESET_N and the supplies of AON (R520, R521, R525, R570) -/

section
variable {t : Nat} {s : State}

/-- The state in which nothing holds the device in reset, after the reset that a power-on is (R525). -/
def released (s : State) : State :=
  { (if releaseCause s = .cold then resetBlock true s else s) with
    pwr.resetLow := false, pwr.tripHeld := false, pwr.noticed := false, pwr.powerLost := false }

theorem execResetNRelease_boots (hlow : s.pwr.resetLow = true) (hon : s.pwr.onVbat = false) :
    execResetNRelease t s = .next (startBoot (releaseCause s) (released (advance t s))) := by
  simp only [execResetNRelease, onEvent, advance_pwr, hlow, hon, Bool.not_true, Bool.or_self, Bool.false_eq_true, if_false]
  rfl

theorem execResetNRelease_onVbat (hvbat : s.pwr.onVbat = true) : execResetNRelease t s = .next (advance t s) := by
  simp [execResetNRelease, onEvent, hvbat]

/-- The domains that are powered as boot begins (R528). -/
theorem startBoot_domains (cause : ResetCause) (s : State) (d : Fin 12) :
    domOn (startBoot cause s) d = decide (d.val = 0 ∨ d.val = 1 ∨ d.val = 2 ∨ d.val = 4) := by
  have hall : ∀ d : Fin 12, (#v[true, true, true, false, true, false, false, false, false, false, false, false] : Vector Bool 12)[d]
      = decide (d.val = 0 ∨ d.val = 1 ∨ d.val = 2 ∨ d.val = 4) := by decide
  exact hall d

theorem execAonSupplySwitch_main {mv : Nat} (vbat : Bool) (hmain : 720 ≤ mv) :
    execAonSupplySwitch t mv vbat s = .next { advance t s with pwr.aonMv := mv, pwr.vbat := vbat, pwr.onVbat := false } := by
  simp [execAonSupplySwitch, onEvent, Nat.not_lt.2 hmain]

theorem execAonSupplySwitch_vbat {mv : Nat} (hlow : mv < 720) :
    execAonSupplySwitch t mv true s = .next { advance t s with pwr.aonMv := mv, pwr.vbat := true, pwr.onVbat := true } := by
  simp [execAonSupplySwitch, onEvent, hlow]

theorem execAonSupplySwitch_neither {mv : Nat} (hlow : mv < 720) :
    execAonSupplySwitch t mv false s = .next (aonLoss { advance t s with pwr.aonMv := mv, pwr.vbat := false, pwr.onVbat := true }) := by
  simp [execAonSupplySwitch, onEvent, hlow]

end

/-- Settles O30: each stage ends as its event's lemma says, and the release of RESET_N and the supplies by theirs. -/
theorem bootRuns : Obligations.BootRuns := by
  refine ⟨fun t s => ⟨fun h => ⟨execBootSelftestsDone_passes h, execBootSelftestsDone_fails h⟩, fun a b v w first other h horder => ?_,
    fun h => ⟨⟨_, execBootCoresStarted_starts h, ?_⟩, execBootCoresStarted_fails h⟩,
    fun spd rate h => ⟨fun e => execBootWellTrained_fails h, ?_⟩, execBootLaneStageEnd_due, fun h hlanes => ?_⟩,
    fun t s => ⟨fun hlow hon => ?_, execResetNRelease_onVbat, fun mv => ⟨fun hmain vbat => execAonSupplySwitch_main vbat hmain,
      fun hlow => ⟨execAonSupplySwitch_vbat hlow, _, execAonSupplySwitch_neither hlow, rfl, rfl, rfl⟩⟩⟩⟩
  · have htries := execBootImageVerified_tries (t := t) h horder
    refine ⟨fun hv => ?_, fun e hv hw => ?_, fun e f hv hw => ?_⟩
    · exact ⟨_, htries.trans (congrArg _ (triedImages_first (s := advance t s) hv)), rfl, rfl, rfl⟩
    · exact ⟨_, htries.trans (congrArg _ (triedImages_other (s := advance t s) hv hw)), rfl, rfl, rfl⟩
    · exact htries.trans (congrArg _ (triedImages_neither (s := advance t s) hv hw))
  · rw [setInt_frame]
    refine ⟨rfl, fun d => ?_, coresRun_numbers (advance t s)⟩
    show (Vector.replicate 12 true)[d] = true
    simp
  · rintro r hgood rfl hr
    obtain ⟨hpwr, hwell⟩ := huntAll_apart ((List.range 36).filter (laneWanted s)) (bootTo 6 (wellTrained spd r (advance t s)))
    refine ⟨_, execBootWellTrained_trains h hgood hr, ?_, ?_, ?_, ?_, fun n hn => huntAll_state (.inl ?_)⟩
    · rw [hpwr]; rfl
    · rw [hwell]; rfl
    · rw [hwell]; rfl
    · rw [hwell]
      exact decide_eq_decide.2 (show min r s.well.cfgRate < s.well.cfgRate ↔ r < s.well.cfgRate by omega)
    · simp [hn]
  · obtain ⟨hpwr, hbar⟩ := afterReady_settles (madeReady (advance t s))
    refine ⟨_, execDeviceReady_readies h hlanes, ?_, ?_, ?_, ?_⟩
    · rw [hpwr, madeReady, setInt_pwr]; rfl
    · rw [hpwr, madeReady, setInt_pwr]
    · rw [hbar.mbxBusy, madeReady, setInt_mbxBusy]
    · rw [hpwr, madeReady, setInt_pwr]
  · exact ⟨_, execResetNRelease_boots hlow hon, rfl, rfl, rfl, rfl, startBoot_domains _ _⟩

end Sys2Proof.Machine
end

section
/-!
What voiding, reporting and settling leave of motion, the Well and the products of the queue.
-/
namespace Sys2Proof.Machine

/-! ### Banks and flags -/

theorem upd_same {α : Type} {n : Nat} (v : Vector α n) (i : Fin n) (f : α → α) : (upd v i f)[i] = f v[i] := by simp [upd]

theorem upd_other {α : Type} {n : Nat} {v : Vector α n} {i x : Fin n} {f : α → α} (h : x ≠ i) : (upd v i f)[x] = v[x] := by
  have hne : i.val ≠ x.val := fun heq => h (Fin.ext heq.symm)
  simp [upd, hne]

/-- What an update of an entry leaves of it, it leaves of every entry. -/
theorem upd_keeps {α β : Type} {n : Nat} (π : α → β) {f : α → α} (hf : ∀ a, π (f a) = π a) (v : Vector α n) (i x : Fin n) :
    π (upd v i f)[x] = π v[x] := by
  by_cases h : x = i
  · rw [h, upd_same, hf]
  · rw [upd_other h]

theorem upd_upd {α : Type} {n : Nat} (v : Vector α n) (i : Fin n) (f g : α → α) : upd (upd v i f) i g = upd v i fun x => g (f x) := by
  simp [upd]

theorem bit_eq_testBit (x i : Nat) : bit x i = x.testBit i := by
  rw [bit, Nat.testBit_eq_decide_div_mod_eq]

/-- A flag that is set stays set when another is (R112). -/
theorem bit_or_left {x y i : Nat} (h : bit x i = true) : bit (x ||| y) i = true := by
  rw [bit_eq_testBit] at h ⊢
  rw [Nat.testBit_or, h, Bool.true_or]

/-! ### Records (R308, R309, R318) -/

/-- The jobs and the products of a state. -/
def jobsAndProducts (s : State) : Jobs × Products := (s.job, s.prod)

theorem finish_jobsAndProducts (cid status fault : Nat) (ws : List W64) (s : State) :
    jobsAndProducts (finish cid status fault ws s) = jobsAndProducts s := by
  rw [finish_frame]; rfl

theorem writePart_jobsAndProducts (n kind : Nat) (s : State) : jobsAndProducts (writePart n kind s) = jobsAndProducts s := by
  unfold writePart ledgerWrite
  split
  · rfl
  · dsimp only
    split
    · rw [uraraSend_frame]; rfl
    · rfl

theorem exportPart_jobsAndProducts (n kind : Nat) (s : State) : jobsAndProducts (exportPart n kind s) = jobsAndProducts s := by
  unfold exportPart
  split <;> rfl

theorem settleManifests_jobsAndProducts (s : State) : jobsAndProducts (settleManifests s) = jobsAndProducts s :=
  (foldl_keeps jobsAndProducts (fun s _ => finish_jobsAndProducts _ _ _ _ s) _ _).trans (foldl_keeps jobsAndProducts (by intros; rfl) _ s)

theorem finalise_jobsAndProducts (n kind reason fault grade : Nat) (s : State) :
    jobsAndProducts (finalise n kind reason fault grade s) = jobsAndProducts s := by
  unfold finalise
  split
  · rfl
  · split
    · rfl
    · exact (settleManifests_jobsAndProducts _).trans ((exportPart_jobsAndProducts _ _ _).trans (writePart_jobsAndProducts _ _ _))

theorem voidRecs_jobsAndProducts (product reason fault : Nat) (s : State) : jobsAndProducts (voidRecs product reason fault s) = jobsAndProducts s :=
  foldl_keeps jobsAndProducts (fun s _ => finalise_jobsAndProducts _ _ _ _ _ s) _ s

/-! ### What becomes of a product (R105, R112) -/

/-- A product goes on as the one that its edge made: only what becomes of it changes, and it loses no flag. -/
structure Continues (p q : Product) : Prop where
  num : q.num = p.num
  detect : q.detect = p.detect
  detLine : q.detLine = p.detLine
  first : q.first = p.first
  stop : q.stop = p.stop
  job : q.job = p.job
  track : q.track = p.track
  input : q.input = p.input
  flags : ∀ i, bit p.flags i = true → bit q.flags i = true

theorem Continues.refl (p : Product) : Continues p p := ⟨rfl, rfl, rfl, rfl, rfl, rfl, rfl, rfl, fun _ h => h⟩

theorem Continues.trans {p q r : Product} (h : Continues p q) (k : Continues q r) : Continues p r :=
  ⟨k.num.trans h.num, k.detect.trans h.detect, k.detLine.trans h.detLine, k.first.trans h.first, k.stop.trans h.stop, k.job.trans h.job,
    k.track.trans h.track, k.input.trans h.input, fun i hp => k.flags i (h.flags i hp)⟩

theorem Continues.flagged (p : Product) (x : Nat) : Continues p { p with flags := p.flags ||| x } :=
  ⟨rfl, rfl, rfl, rfl, rfl, rfl, rfl, rfl, fun _ => bit_or_left⟩

theorem Continues.stopped (p : Product) : Continues p { p with stopped := true } := ⟨rfl, rfl, rfl, rfl, rfl, rfl, rfl, rfl, fun _ h => h⟩

theorem Continues.targeted (p : Product) (x : Nat) : Continues p { p with target := x } := ⟨rfl, rfl, rfl, rfl, rfl, rfl, rfl, rfl, fun _ h => h⟩

theorem Continues.rejected (p : Product) (x : Nat) : Continues p { p with rejects := x } := ⟨rfl, rfl, rfl, rfl, rfl, rfl, rfl, rfl, fun _ h => h⟩

/-- What reports, messages and the settling of policies leave: motion, the Well, the jobs and the queue. -/
structure LeavesQueue (s t : State) : Prop where
  mot : t.mot = s.mot
  well : t.well = s.well
  job : t.job = s.job
  queue : t.prod.queue = s.prod.queue

theorem LeavesQueue.refl (s : State) : LeavesQueue s s := ⟨rfl, rfl, rfl, rfl⟩

theorem LeavesQueue.trans {s t u : State} (h : LeavesQueue s t) (k : LeavesQueue t u) : LeavesQueue s u :=
  ⟨k.mot.trans h.mot, k.well.trans h.well, k.job.trans h.job, k.queue.trans h.queue⟩

theorem LeavesQueue.ite {s t u : State} {p : Prop} [Decidable p] (h : LeavesQueue s t) (k : LeavesQueue s u) :
    LeavesQueue s (if p then t else u) := by
  split <;> assumption

theorem LeavesQueue.foldl {α : Type} {g : State → α → State} (hg : ∀ s a, LeavesQueue s (g s a)) (l : List α) (s : State) :
    LeavesQueue s (l.foldl g s) := foldl_rel .refl .trans hg l s

theorem raise_leavesQueue (code detail : Nat) (s : State) : LeavesQueue s (raise code detail s) := by
  rw [raise_frame]; exact ⟨rfl, rfl, rfl, rfl⟩

theorem notify_leavesQueue (code detail : Nat) (s : State) : LeavesQueue s (notify code detail s) := by
  rw [notify_frame]; exact ⟨rfl, rfl, rfl, rfl⟩

theorem uraraSend_leavesQueue (dest type : Nat) (ws : List W64) (s : State) : LeavesQueue s (uraraSend dest type ws s) := by
  rw [uraraSend_frame]; exact ⟨rfl, rfl, rfl, rfl⟩

theorem finish_leavesQueue (cid status fault : Nat) (results : List W64) (s : State) : LeavesQueue s (finish cid status fault results s) := by
  rw [finish_frame]; exact ⟨rfl, rfl, rfl, rfl⟩

theorem voidRecs_leavesQueue (product reason fault : Nat) (s : State) : LeavesQueue s (voidRecs product reason fault s) :=
  have hvoid := voidRecs_settles product reason fault s
  have hapart := voidRecs_jobsAndProducts product reason fault s
  ⟨hvoid.mot, hvoid.well, congrArg (·.1) hapart, congrArg (·.2.queue) hapart⟩

/-- Edges that count and forced products are told with a message (R381). -/
theorem sendTrigger_leavesQueue (input line stamp : Nat) (num : Option Nat) (forced : Bool) (s : State) :
    LeavesQueue s (sendTrigger input line stamp num forced s) := by
  have htold : LeavesQueue s (if forced then s else uraraSend 2047 0x4A (triggerWords (holdsLease s) forced input line stamp num) s) :=
    .ite (.refl s) (uraraSend_leavesQueue _ _ _ s)
  exact .ite (.refl s) (.ite (htold.trans (uraraSend_leavesQueue _ _ _ _)) htold)

theorem endPolicy_leavesQueue (cid changed : Nat) (s : State) : LeavesQueue s (endPolicy cid changed s) := by
  unfold endPolicy
  dsimp only
  have hrests : ∀ u : State, LeavesQueue u (driveGates u) := fun _ => ⟨rfl, rfl, rfl, rfl⟩
  exact ((LeavesQueue.foldl (by intros; exact ⟨rfl, rfl, rfl, rfl⟩) _ s).trans (hrests _)).trans (finish_leavesQueue _ _ _ _ _)

theorem settlePolicies_leavesQueue (s : State) : LeavesQueue s (settlePolicies s) := by
  have hremoved : LeavesQueue s { s with prod.policies := s.prod.policies.filter fun p => edgesBefore s p.2.1 } := ⟨rfl, rfl, rfl, rfl⟩
  exact hremoved.trans (.foldl (fun s (p : Nat × Nat × Nat) => endPolicy_leavesQueue p.1 p.2.2 s) _ _)

/-- What voiding and rejecting leave: motion, the Well, the jobs, and every product of the queue in its place. -/
structure KeepsQueued (s t : State) : Prop where
  mot : t.mot = s.mot
  well : t.well = s.well
  job : t.job = s.job
  products : ∀ p ∈ s.prod.queue, ∃ q ∈ t.prod.queue, Continues p q

theorem LeavesQueue.keepsQueued {s t : State} (h : LeavesQueue s t) : KeepsQueued s t :=
  ⟨h.mot, h.well, h.job, fun p hp => ⟨p, h.queue ▸ hp, .refl p⟩⟩

theorem KeepsQueued.refl (s : State) : KeepsQueued s s := (LeavesQueue.refl s).keepsQueued

theorem KeepsQueued.trans {s t u : State} (h : KeepsQueued s t) (k : KeepsQueued t u) : KeepsQueued s u := by
  refine ⟨k.mot.trans h.mot, k.well.trans h.well, k.job.trans h.job, fun p hp => ?_⟩
  obtain ⟨q, hq, hpq⟩ := h.products p hp
  obtain ⟨r, hr, hqr⟩ := k.products q hq
  exact ⟨r, hr, hpq.trans hqr⟩

theorem KeepsQueued.foldl {α : Type} {g : State → α → State} (hg : ∀ s a, KeepsQueued s (g s a)) (l : List α) (s : State) :
    KeepsQueued s (l.foldl g s) := foldl_rel .refl .trans hg l s

/-- Products of the queue changed, when each goes on. -/
theorem KeepsQueued.of_mapWhere {s : State} {v : Products} {m : Product → Bool} {f : Product → Product}
    (hqueue : v.queue = mapWhere m f s.prod.queue) (hf : ∀ p, Continues p (f p)) : KeepsQueued s { s with prod := v } := by
  refine ⟨rfl, rfl, rfl, fun p hp => ⟨if m p then f p else p, hqueue ▸ List.mem_map_of_mem hp, ?_⟩⟩
  split
  · exact hf p
  · exact .refl p

theorem modProduct_keepsQueued {f : Product → Product} (hf : ∀ p, Continues p (f p)) (n : Nat) (s : State) : KeepsQueued s (modProduct n f s) :=
  .of_mapWhere rfl hf

theorem setFlag_keepsQueued (n i : Nat) (s : State) : KeepsQueued s (setFlag n i s) := modProduct_keepsQueued (fun p => .flagged p _) n s

theorem stopProduct_keepsQueued (n : Nat) (s : State) : KeepsQueued s (stopProduct n s) :=
  modProduct_keepsQueued Continues.stopped n s

theorem voidProduct_keepsQueued (n reason fault : Nat) (s : State) : KeepsQueued s (voidProduct n reason fault s) := by
  have hrecs := (setFlag_keepsQueued n 0 s).trans (voidRecs_leavesQueue n reason fault _).keepsQueued
  unfold voidProduct
  dsimp only
  split
  · exact hrecs
  · next p _ =>
    refine hrecs.trans (.foldl (fun s g => ?_) _ _)
    split
    · have hflag : KeepsQueued s (if decide (p.first + p.gw[g].offset ≤ s.mot.line) then setFlag n 8 s else s) := by
        split
        · exact setFlag_keepsQueued n 8 s
        · exact .refl s
      exact hflag.trans (.of_mapWhere (f := fun p => { p with rejects := p.rejects ||| 2 ^ g.val }) rfl fun p => .rejected p _)
    · exact .refl s

theorem voidFault_keepsQueued (n fault : Nat) (s : State) : KeepsQueued s (voidFault n fault s) :=
  (raise_leavesQueue fault n s).keepsQueued.trans (voidProduct_keepsQueued n 3 fault _)

theorem placeWindow_keepsQueued (i : Fin 4) (w : GateWindow) (forced : Bool) (s : State) : KeepsQueued s (placeWindow i w forced s) := by
  have hcollateral : ∀ (s : State) (n : Nat), KeepsQueued s (collateral n s) := fun s n =>
    (notify_leavesQueue _ n s).keepsQueued.trans (setFlag_keepsQueued n 14 _)
  exact (KeepsQueued.foldl hcollateral (collaterals s.prod.gates[i] w) s).trans ⟨rfl, rfl, rfl, fun p hp => ⟨p, hp, .refl p⟩⟩

theorem rejectUnqueued_keepsQueued (track first moment : Nat) (s : State) : KeepsQueued s (rejectUnqueued track first moment s) := by
  refine .foldl (fun s i => ?_) _ s
  dsimp only
  split
  · exact placeWindow_keepsQueued _ _ _ s
  · exact .refl s

/-! ### A command that starts -/

theorem starts_cid {op cid : Nat} {c : Slot} {s : State} (h : Starts op cid c s) : c.cid = cid := by
  have hfound := List.find?_some h.1
  simpa using hfound

end Sys2Proof.Machine
end

section
/-!
Motion settings, encoders and the numbers saved, and the statements about them.
-/
namespace Sys2Proof.Machine

/-! ### MOTION_CONFIG (R96, R97, R101, R111) -/

/-- An input that takes new settings for the edges stamped from a moment on (R101). -/
def takeSettings (moment : Nat) (new : PdCfg) (p : PdInput) : PdInput :=
  if p.cfg = new then p else { p with old := p.cfg, oldEnds := moment, cfg := new }

theorem takeSettings_cfg (moment : Nat) (new : PdCfg) (p : PdInput) : (takeSettings moment new p).cfg = new := by
  unfold takeSettings
  split
  · assumption
  · rfl

theorem takeSettings_old {moment : Nat} {new : PdCfg} {p : PdInput} (h : p.cfg ≠ new) :
    (takeSettings moment new p).old = p.cfg ∧ (takeSettings moment new p).oldEnds = moment := by
  rw [takeSettings, if_neg h]
  exact ⟨rfl, rfl⟩

theorem takeSettings_again (moment : Nat) (new : PdCfg) (p : PdInput) :
    takeSettings moment new (takeSettings moment new p) = takeSettings moment new p := if_pos (takeSettings_cfg moment new p)

/-- One input of a MOTION_CONFIG takes its settings. -/
def setInput (moment : Nat) (pds : List PdCfg) (s : State) (n : Fin 8) : State :=
  if s.mot.pds[n].cfg = pds.getD n.val {} then s
  else { s with mot.pds := upd s.mot.pds n fun p => { p with old := p.cfg, oldEnds := moment, cfg := pds.getD n.val {} } }

theorem setInputs_eq (moment : Nat) (pds : List PdCfg) (s : State) : setInputs moment pds s = (List.finRange 8).foldl (setInput moment pds) s := rfl

theorem setInput_pds (moment : Nat) (pds : List PdCfg) (s : State) (m n : Fin 8) :
    (setInput moment pds s m).mot.pds[n] = if n = m then takeSettings moment (pds.getD n.val {}) s.mot.pds[n] else s.mot.pds[n] := by
  unfold setInput takeSettings
  by_cases hnm : n = m
  · subst hnm
    by_cases hsame : s.mot.pds[n].cfg = pds.getD n.val {}
    · simp only [if_pos hsame, ite_self]
    · simp only [if_neg hsame, if_true, upd_same]
  · rw [if_neg hnm]
    split
    · rfl
    · exact upd_other hnm

theorem setInputFold_pds (moment : Nat) (pds : List PdCfg) (l : List (Fin 8)) (s : State) (n : Fin 8) :
    (l.foldl (setInput moment pds) s).mot.pds[n] = if n ∈ l then takeSettings moment (pds.getD n.val {}) s.mot.pds[n] else s.mot.pds[n] := by
  induction l generalizing s with
  | nil => rfl
  | cons m l ih =>
    rw [List.foldl_cons, ih, setInput_pds]
    by_cases hnm : n = m
    · simp only [hnm, if_true, List.mem_cons, true_or, takeSettings_again, ite_self]
    · simp only [hnm, if_false, List.mem_cons, false_or]

theorem setInputs_pds (moment : Nat) (pds : List PdCfg) (s : State) (n : Fin 8) :
    (setInputs moment pds s).mot.pds[n] = takeSettings moment (pds.getD n.val {}) s.mot.pds[n] := by
  rw [setInputs_eq, setInputFold_pds, if_pos (List.mem_finRange n)]

/-- The settings of inputs change nothing else. -/
theorem setInputs_changes (moment : Nat) (pds : List PdCfg) (s : State) : ∃ v, setInputs moment pds s = { s with mot.pds := v } := by
  rw [setInputs_eq]
  refine foldl_rel (R := fun s t => ∃ v, t = { s with mot.pds := v }) (fun s => ⟨_, rfl⟩) ?_ (fun s n => ?_) _ s
  · rintro s t u ⟨v, rfl⟩ ⟨w, rfl⟩
    exact ⟨w, rfl⟩
  · unfold setInput
    split <;> exact ⟨_, rfl⟩

/-- The settings that a MOTION_CONFIG gives the inputs. -/
def inputSettings (c : Slot) : List PdCfg := (List.range 8).map (pdCfgOf c)

theorem inputSettings_getD (c : Slot) (n : Fin 8) : (inputSettings c).getD n.val {} = pdCfgOf c n.val := by
  simp [inputSettings]

/-- The state in which the line source has the settings of a MOTION_CONFIG: other settings make L go on from the present line (R97). -/
def sourceSet (c : Slot) (s : State) : State := if motionCfgOf c = s.mot.cfg then s else setSource (motionCfgOf c) s

theorem mendConfig_mot (p : LedgerHit → Bool) (s : State) : (mendConfig p s).mot = s.mot := rfl

/-- The state in which all settings of a MOTION_CONFIG are in force. -/
def motionSet (c : Slot) (s : State) : State :=
  mendConfig (fun h => match h with | .motion _ => true | _ => false) (setInputs c.acceptAt (inputSettings c) (sourceSet c s))

theorem execMotionConfig_sets {t cid : Nat} {c : Slot} {s : State} (h : Starts Op.motionConfig cid c s) (hok : motionCfgOk (motionCfgOf c) = true)
    (hfree : jobActive s = false ∨ motionCfgOf c = s.mot.cfg) (hleads : ∀ j ∈ activeJobs s, leadsFit s j (inputSettings c) = true) :
    execMotionConfig t cid s = .next (done c (motionSet c (startedAt t cid s))) := by
  have hbusy : (jobActive (startedAt t cid s) && motionCfgOf c != (startedAt t cid s).mot.cfg) = false := by
    rcases hfree with hidle | hsame
    · exact (congrArg (· && _) hidle).trans (Bool.false_and _)
    · exact (congrArg (jobActive s && ·) (bne_eq_false_iff_eq.2 hsame)).trans (Bool.and_false _)
  have hshort : ((activeJobs (startedAt t cid s)).any fun j => !leadsFit (startedAt t cid s) j (inputSettings c)) = false :=
    List.any_eq_false.2 fun j hj => by
      have hfits : leadsFit (startedAt t cid s) j (inputSettings c) = true := hleads j hj
      simp [hfits]
  refine (onStart_starts h).trans ?_
  dsimp only
  rw [if_neg (by simp [hok]), if_neg (by simp [hbusy]), if_neg (by simpa [inputSettings] using hshort)]
  rfl

theorem execMotionConfig_busy {t cid : Nat} {c : Slot} {s : State} (h : Starts Op.motionConfig cid c s) (hok : motionCfgOk (motionCfgOf c) = true)
    (hactive : jobActive s = true) (hother : motionCfgOf c ≠ s.mot.cfg) :
    execMotionConfig t cid s = .next (refuse c Status.motionBusy (startedAt t cid s)) := by
  have hbusy : (jobActive (startedAt t cid s) && motionCfgOf c != (startedAt t cid s).mot.cfg) = true :=
    Bool.and_eq_true_iff.2 ⟨hactive, bne_iff_ne.2 hother⟩
  refine (onStart_starts h).trans ?_
  dsimp only
  rw [if_neg (by simp [hok]), if_pos hbusy]

theorem sourceSet_leaves (c : Slot) (s : State) : (sourceSet c s).mot.cfg = motionCfgOf c ∧ (sourceSet c s).mot.line = s.mot.line ∧
    (sourceSet c s).mot.pds = s.mot.pds ∧ (sourceSet c s).prod = s.prod ∧ (sourceSet c s).well = s.well := by
  unfold sourceSet
  split
  · next hsame => exact ⟨hsame.symm, rfl, rfl, rfl, rfl⟩
  · exact ⟨rfl, rfl, rfl, rfl, rfl⟩

theorem sourceSet_other {c : Slot} {s : State} (h : motionCfgOf c ≠ s.mot.cfg) : sourceSet c s = setSource (motionCfgOf c) s := if_neg h

/-- Motion with all settings in force differs from that with a new line source in the inputs alone. -/
theorem motionSet_changes (c : Slot) (s : State) : ∃ l v, motionSet c s = { sourceSet c s with led := l, mot.pds := v } := by
  obtain ⟨v, hv⟩ := setInputs_changes c.acceptAt (inputSettings c) (sourceSet c s)
  rw [motionSet, hv]
  exact ⟨_, v, rfl⟩

theorem motionSet_pds (c : Slot) (s : State) (n : Fin 8) :
    (motionSet c s).mot.pds[n] = takeSettings c.acceptAt (pdCfgOf c n.val) s.mot.pds[n] := by
  obtain ⟨-, -, hpds, -, -⟩ := sourceSet_leaves c s
  have hset := setInputs_pds c.acceptAt (inputSettings c) (sourceSet c s) n
  rw [inputSettings_getD, hpds] at hset
  rw [motionSet, mendConfig_mot, hset]

/-! ### Encoder edges (R95, R97, R99) -/

/-- What the line index and the checks of travel leave when a position changes. -/
structure JudgesTravel (s t : State) : Prop where
  enc : t.mot.enc = s.mot.enc
  line : t.mot.line = s.mot.line
  pds : t.mot.pds = s.mot.pds
  well : t.well = s.well

theorem JudgesTravel.refl (s : State) : JudgesTravel s s := ⟨rfl, rfl, rfl, rfl⟩

theorem JudgesTravel.trans {s t u : State} (h : JudgesTravel s t) (k : JudgesTravel t u) : JudgesTravel s u :=
  ⟨k.enc.trans h.enc, k.line.trans h.line, k.pds.trans h.pds, k.well.trans h.well⟩

theorem JudgesTravel.foldl {α : Type} {g : State → α → State} (hg : ∀ s a, JudgesTravel s (g s a)) (l : List α) (s : State) :
    JudgesTravel s (l.foldl g s) := foldl_rel .refl .trans hg l s

theorem KeepsQueued.judgesTravel {s t : State} (h : KeepsQueued s t) : JudgesTravel s t := by
  obtain ⟨hmot, hwell, -, -⟩ := h
  exact ⟨congrArg Motion.enc hmot, congrArg Motion.line hmot, congrArg Motion.pds hmot, hwell⟩

theorem raiseH_judgesTravel (s : State) : JudgesTravel s (raiseH s) := by
  unfold raiseH
  dsimp only
  split
  · exact .refl s
  · split <;> exact ⟨rfl, rfl, rfl, rfl⟩

theorem judgeMismatch_judgesTravel (s : State) : JudgesTravel s (judgeMismatch s) := by
  have hflags : ∀ (l : List Product) (u : State), JudgesTravel u (l.foldl (fun s p => setFlag p.num 6 s) u) := fun l u =>
    .foldl (fun s p => (setFlag_keepsQueued p.num 6 s).judgesTravel) l u
  unfold judgeMismatch
  split
  · refine JudgesTravel.trans ?_ (hflags _ _)
    split
    · exact .refl s
    · have hmarked : JudgesTravel s { s with mot.mismatch := true } := ⟨rfl, rfl, rfl, rfl⟩
      exact hmarked.trans (raise_leavesQueue _ _ _).keepsQueued.judgesTravel
  · exact ⟨rfl, rfl, rfl, rfl⟩

theorem judgeReverse_judgesTravel (s : State) : JudgesTravel s (judgeReverse s) := by
  have hmarked : ∀ b, JudgesTravel s { s with mot.reversed := b } := fun _ => ⟨rfl, rfl, rfl, rfl⟩
  unfold judgeReverse
  dsimp only
  split
  · exact .refl s
  · split
    · split
      · exact (hmarked true).trans (raise_leavesQueue _ _ _).keepsQueued.judgesTravel
      · exact (hmarked true).trans (.foldl (fun s p => (voidFault_keepsQueued _ _ s).judgesTravel) _ _)
    · split
      · exact hmarked false
      · exact .refl s

/-- Whether an A or B edge follows one of the encoder's other channel by less than 10 ns (R95). -/
def tooSoon (x : Encoder) (isA : Bool) (now : Nat) : Bool := x.seen && x.edgeA != isA && decide (now - x.edgeAt < 10)

/-- The encoder `e` remembers an edge that is not counted. -/
def edgeSeen (e : Fin 4) (isA : Bool) (s : State) : State :=
  { s with mot.enc := upd s.mot.enc e fun x => { x with seen := true, edgeAt := s.now, edgeA := isA } }

/-- The encoder `e` counts an edge. -/
def edgeCounted (e : Fin 4) (isA : Bool) (d : Int) (s : State) : State :=
  { s with mot.enc := upd s.mot.enc e fun x => { x with seen := true, edgeAt := s.now, edgeA := isA, pos := x.pos + d } }

/-- The step of an edge: backwards when the level relation and `invert` agree (R95). -/
def edgeStep (s : State) (e : Fin 4) (up : Bool) : Int := if up = bit s.mot.cfg.invert e.val then -1 else 1

/-- What follows a new position of the encoder `e`: the line index and the checks of travel (R97, R99). -/
def judgeTravel (e : Fin 4) (s : State) : State := judgeReverse (judgeMismatch (if s.mot.source = e.val then raiseH s else s))

theorem judgeTravel_judgesTravel (e : Fin 4) (s : State) : JudgesTravel s (judgeTravel e s) := by
  have hraised : JudgesTravel s (if s.mot.source = e.val then raiseH s else s) := by
    split
    · exact raiseH_judgesTravel s
    · exact .refl s
  exact (hraised.trans (judgeMismatch_judgesTravel _)).trans (judgeReverse_judgesTravel _)

theorem encoderEdge_counts {e : Fin 4} {isA : Bool} (up : Bool) {s : State} (h : tooSoon s.mot.enc[e] isA s.now = false) :
    encoderEdge e isA up s = judgeTravel e (edgeCounted e isA (edgeStep s e up) s) := by
  have hway : (if (up != bit s.mot.cfg.invert e.val) = true then 1 else -1 : Int) = edgeStep s e up := by
    simp only [edgeStep, bne_iff_ne, ne_eq, ite_not]
  unfold tooSoon at h
  unfold encoderEdge
  dsimp only
  rw [h, if_neg Bool.false_ne_true, hway, upd_upd]
  rfl

theorem encoderEdge_errs {e : Fin 4} {isA : Bool} (up : Bool) {s : State} (h : tooSoon s.mot.enc[e] isA s.now = true) :
    encoderEdge e isA up s = encoderError e (edgeSeen e isA s) := by
  unfold tooSoon at h
  unfold encoderEdge
  dsimp only
  rw [h, if_pos rfl]
  rfl

/-- An ENCODER_ERROR marks its encoder and moves none (R95, R99). -/
theorem encoderError_marks (e : Fin 4) (s : State) :
    (encoderError e s).mot.enc = upd s.mot.enc e (fun x => { x with errors := x.errors + 1, failed := true }) ∧
      (encoderError e s).prod = s.prod ∧ (encoderError e s).well = s.well := by
  unfold encoderError
  rw [raise_frame]
  exact ⟨rfl, rfl, rfl⟩

theorem edgeCounted_enc (e : Fin 4) (isA : Bool) (d : Int) (s : State) :
    (edgeCounted e isA d s).mot.enc[e] = { s.mot.enc[e] with seen := true, edgeAt := s.now, edgeA := isA, pos := s.mot.enc[e].pos + d } :=
  upd_same _ _ _

theorem edgeSeen_enc (e : Fin 4) (isA : Bool) (s : State) :
    (edgeSeen e isA s).mot.enc[e] = { s.mot.enc[e] with seen := true, edgeAt := s.now, edgeA := isA } := upd_same _ _ _

/-! ### Z pulses (R100) -/

/-- Whether a Z pulse ends a revolution that is more than 2 counts off (R100). -/
def zFailure (cpr : Nat) (x : Encoder) : Bool :=
  cpr != 0 && match x.zPos with
    | some z => decide (2 < (((x.pos - z).natAbs : Int) - cpr).natAbs)
    | none => false

theorem zFailure_unmarked {cpr : Nat} {x : Encoder} (h : x.zPos = none ∨ cpr = 0) : zFailure cpr x = false := by
  unfold zFailure
  rcases h with hfirst | hzero
  · rw [hfirst, Bool.and_false]
  · rw [hzero]; rfl

theorem zFailure_iff {cpr count : Nat} {z : Int} {x : Encoder} (hz : x.zPos = some z) (hcount : count = (x.pos - z).natAbs) (hcpr : cpr ≠ 0) :
    zFailure cpr x = true ↔ cpr + 2 < count ∨ count + 2 < cpr := by
  unfold zFailure
  simp only [hz]
  rw [← hcount, bne_iff_ne.2 hcpr, Bool.true_and, decide_eq_true_iff]
  omega

/-- An encoder that meets a Z pulse: its place is marked, and a failed check counts. -/
def zPulsed (cpr : Nat) (x : Encoder) : Encoder :=
  { x with zPos := some x.pos, zFails := x.zFails + flag (zFailure cpr x), failed := x.failed || zFailure cpr x }

theorem zPulsed_fails {cpr : Nat} {x : Encoder} (h : zFailure cpr x = true) : (zPulsed cpr x).zFails = x.zFails + 1 ∧ (zPulsed cpr x).failed = true := by
  simp [zPulsed, h, flag]

theorem zPulsed_passes {cpr : Nat} {x : Encoder} (h : zFailure cpr x = false) :
    (zPulsed cpr x).zFails = x.zFails ∧ (zPulsed cpr x).failed = x.failed := by
  simp [zPulsed, h, flag]

/-- The two bounds of a revolution are one bound on the difference. -/
theorem exceeds_iff_natAbs (count cpr : Int) : (decide (2 < count - cpr) || decide (2 < cpr - count)) = decide (2 < (count - cpr).natAbs) := by
  rw [← Bool.decide_or, decide_eq_decide]
  omega

theorem execEncoderZPulse_checks (t : Nat) (e : Fin 4) (s : State) :
    execEncoderZPulse t e s = .next { advance t s with mot.enc := upd s.mot.enc e (zPulsed s.mot.cfg.cpr[e]) } := by
  unfold execEncoderZPulse onEvent
  simp only [exceeds_iff_natAbs]
  rfl

/-! ### The numbers saved (R98) -/

theorem execProductNumberSave_saves (t : Nat) (s : State) : execProductNumberSave t s = .next { advance t s with
    mot.savedProd := if s.mot.savedProd + 524288 ≤ s.mot.nextProd then s.mot.nextProd else s.mot.savedProd } := by
  by_cases hdue : s.mot.savedProd + 524288 ≤ s.mot.nextProd
  · simp only [execProductNumberSave, onEvent, advance_mot, hdue, if_true]
  · simp only [execProductNumberSave, onEvent, advance_mot, hdue, if_false]
    rfl

theorem execLineIndexSave_saves (t : Nat) (s : State) : execLineIndexSave t s = .next { advance t s with
    mot.savedLine := if s.mot.savedLine + 1048576 ≤ s.mot.line then s.mot.line else s.mot.savedLine } := by
  by_cases hdue : s.mot.savedLine + 1048576 ≤ s.mot.line
  · simp only [execLineIndexSave, onEvent, advance_mot, hdue, if_true]
  · simp only [execLineIndexSave, onEvent, advance_mot, hdue, if_false]
    rfl

/-! ### The statements -/

/-- Settles O53: a pulse changes its own encoder, and its check fails exactly when the count lies outside the bounds of R100. -/
theorem zPulsesCheckTheRevolution : Obligations.ZPulsesCheckTheRevolution := by
  intro t e s
  refine ⟨_, execEncoderZPulse_checks t e s, ?_, ?_, fun x hx => upd_other hx, fun z count hz hcount hcpr => ?_, fun hnone => ?_⟩
  all_goals simp only [upd_same]
  · rfl
  · rfl
  · have hfails := zFailure_iff hz hcount hcpr
    exact ⟨fun hout => zPulsed_fails (hfails.2 hout), fun hlow hhigh => zPulsed_passes (Bool.eq_false_iff.2 fun hout => by have hbounds := hfails.1 hout; omega)⟩
  · exact zPulsed_passes (zFailure_unmarked hnone)

/-- Settles O15, with one lemma about each command and event. -/
theorem motionIsFollowed : Obligations.MotionIsFollowed := by
  refine ⟨fun t cid c s h hok => ⟨fun hfree hleads => ?_, execMotionConfig_busy h hok⟩, fun t e isA up s => ⟨fun hcounts => ?_, fun hsoon => ?_, ?_, ?_⟩,
    fun t s => ⟨?_, ?_⟩⟩
  · obtain ⟨hcfg, hline, -, hprod, hwell⟩ := sourceSet_leaves c (startedAt t cid s)
    obtain ⟨l, v, hset⟩ := motionSet_changes c (startedAt t cid s)
    have hended : Ended cid Status.done (done c (motionSet c (startedAt t cid s))) := starts_cid h ▸ finish_ended _ _ _ _ _
    refine ⟨_, execMotionConfig_sets h hok hfree hleads, hended, ?_⟩
    simp only [done, finish_mot, finish_prod, finish_well, motionSet_pds]
    rw [hset]
    refine ⟨hcfg, fun n => ⟨takeSettings_cfg _ _ _, takeSettings_old⟩, fun hother => ?_, hline, hprod, hwell⟩
    rw [sourceSet_other (s := startedAt t cid s) hother]
    exact ⟨rfl, rfl, rfl, rfl, rfl⟩
  · obtain ⟨henc, hline, hpds, hwell⟩ := judgeTravel_judgesTravel e (edgeCounted e isA (edgeStep (advance t s) e up) (advance t s))
    refine ⟨_, congrArg Host.Outcome.next (encoderEdge_counts (s := advance t s) up hcounts), ?_⟩
    rw [henc, edgeCounted_enc]
    exact ⟨rfl, rfl, fun x hx => upd_other hx, hline, hpds, hwell⟩
  · obtain ⟨henc, -, -⟩ := encoderError_marks e (edgeSeen e isA (advance t s))
    refine ⟨_, congrArg Host.Outcome.next (encoderEdge_errs (s := advance t s) up hsoon), ?_⟩
    rw [henc, upd_same, edgeSeen_enc]
    exact ⟨rfl, rfl, rfl⟩
  · obtain ⟨henc, hprod, hwell⟩ := encoderError_marks e (advance t s)
    refine ⟨encoderError e (advance t s), rfl, ?_⟩
    rw [henc, upd_same]
    exact ⟨rfl, rfl, rfl, fun x hx => upd_other hx, hprod, hwell⟩
  · rintro fails rfl
    exact execEncoderZPulse_checks t e s
  · exact execProductNumberSave_saves t s
  · exact execLineIndexSave_saves t s

end Sys2Proof.Machine
end

section
/-!
Detect edges, the products that they and PRODUCT_FORCE make, and the statements about them.
-/
namespace Sys2Proof.Machine

/-! ### The job of a product (R105, R121) -/

/-- The job `j` is active with no switch pending, and may serve a product of an input on track `k`, with first line `first` and an edge at `moment` (R105). -/
structure ServesNow (s : State) (j : Job) (input first moment k : Nat) (tr : Track) : Prop where
  noSwitch : s.job.switch = none
  active : s.job.active = some j.desc.id
  loaded : jobOf s j.desc.id = some j
  inside : j.la ≤ first
  since : j.activeAt ≤ moment
  track : trackOn j input = some (k, tr)

/-- Which job serves depends on the jobs alone. -/
theorem ServesNow.of_job {s u : State} {j : Job} {input first moment k : Nat} {tr : Track} (h : ServesNow s j input first moment k tr)
    (hjob : u.job = s.job) : ServesNow u j input first moment k tr := by
  obtain ⟨hswitch, hactive, hloaded, hinside, hsince, htrack⟩ := h
  refine ⟨hjob ▸ hswitch, hjob ▸ hactive, ?_, hinside, hsince, htrack⟩
  rw [jobOf, hjob]
  exact hloaded

theorem jobFor_servesNow {s : State} {j : Job} {input first moment k : Nat} {tr : Track} (h : ServesNow s j input first moment k tr) :
    jobFor s input first moment = some j := by
  obtain ⟨hswitch, hactive, hloaded, hinside, hsince, htrack⟩ := h
  simp [jobFor, hswitch, hactive, hloaded, serves, htrack, hinside, hsince]

theorem fixes_noSwitch {s : State} (h : s.job.switch = none) (input moment : Nat) : fixes s input moment = none := by
  simp [fixes, h]

/-! ### Products that join the queue (R105 to R107, R189) -/

/-- What follows when a product has joined the queue keeps it there. -/
theorem queueProduct_keepsQueued (p : Product) (s : State) : KeepsQueued { s with prod.queue := s.prod.queue ++ [p] } (queueProduct p s) := by
  unfold queueProduct
  dsimp only
  split
  · exact (stopProduct_keepsQueued _ _).trans (voidFault_keepsQueued _ _ _)
  · split
    · exact voidFault_keepsQueued _ _ _
    · split
      · exact .refl _
      · next w _ =>
        have hwants : KeepsQueued { s with prod.queue := s.prod.queue ++ [p] }
            { s with prod.queue := s.prod.queue ++ [p], prod.wants := s.prod.wants.erase w } := ⟨rfl, rfl, rfl, fun p hp => ⟨p, hp, .refl p⟩⟩
        exact (hwants.trans (modProduct_keepsQueued (fun p => .targeted p w.2) _ _)).trans (setFlag_keepsQueued _ _ _)

/-- The product that an edge or a PRODUCT_FORCE makes. -/
def newProduct (s : State) (j : Job) (input line first stamp moment k : Nat) (tr : Track) (forced : Bool) : Product :=
  { num := s.mot.nextProd, detect := stamp, moment := moment, detLine := line, first := first, stop := first + tr.length,
    job := j.desc.id, track := k, input := input, flags := if forced then 128 else 0, gw := wordsAt s moment }

/-- The state in which a product has taken the next number and joined the queue. -/
def numbered (p : Product) (s : State) : State := queueProduct p { s with mot.nextProd := s.mot.nextProd + 1 }

theorem numbered_mot (p : Product) (s : State) : (numbered p s).mot = { s.mot with nextProd := s.mot.nextProd + 1 } :=
  (queueProduct_keepsQueued p _).mot

theorem numbered_job (p : Product) (s : State) : (numbered p s).job = s.job := (queueProduct_keepsQueued p _).job

theorem numbered_product (p : Product) (s : State) : ∃ q ∈ (numbered p s).prod.queue, Continues p q :=
  (queueProduct_keepsQueued p _).products p (List.mem_append_right _ (List.mem_singleton_self p))

theorem createProduct_numbers {s : State} {j : Job} {input first moment k : Nat} {tr : Track} (h : ServesNow s j input first moment k tr)
    (hroom : s.prod.queue.length < 64) (line stamp : Nat) (forced : Bool) :
    createProduct input line first stamp moment forced s =
      (some s.mot.nextProd, numbered (newProduct s j input line first stamp moment k tr forced) s) := by
  have hfixes : fixes (numbered (newProduct s j input line first stamp moment k tr forced) s) input moment = none :=
    fixes_noSwitch (congrArg Jobs.switch (numbered_job _ s) |>.trans h.noSwitch) _ _
  unfold numbered newProduct at hfixes ⊢
  simp only [createProduct, jobFor_servesNow h, h.track, if_neg (Nat.not_le.2 hroom), hfixes]

/-! ### Blanking (R104) -/

/-- What the blanking of an input holds: where it began, and the edges it ignored. -/
def blanking (n : Fin 8) (s : State) : Option Nat × Nat := (s.mot.pds[n].blankAt, s.mot.pds[n].ignored)

theorem blanking_of_mot {s t : State} (n : Fin 8) (h : t.mot = s.mot) : blanking n t = blanking n s := by
  rw [blanking, h]; rfl

theorem blanking_counted (n i : Fin 8) (s : State) :
    blanking n { s with mot.pds := upd s.mot.pds i fun p => { p with counted := p.counted + 1 } } = blanking n s :=
  upd_keeps (fun p : PdInput => (p.blankAt, p.ignored)) (by intros; rfl) _ i n

theorem fixSwitch_mot (w : JobSwitch) (line : Nat) (s : State) : (fixSwitch w line s).mot = s.mot := finish_mot _ _ _ _ _

/-- No product changes the blanking of an input. -/
theorem createProduct_blanking (n : Fin 8) (input line first stamp moment : Nat) (forced : Bool) (s : State) :
    blanking n (createProduct input line first stamp moment forced s).2 = blanking n s := by
  unfold createProduct
  split
  · split
    · exact blanking_counted n _ s
    · rfl
  · next j _ =>
    split
    · rfl
    · next k tr _ =>
      split
      · have hrejected := rejectUnqueued_keepsQueued k first moment (raise FaultCode.queueFull line s)
        exact blanking_of_mot n (hrejected.mot.trans (raise_leavesQueue FaultCode.queueFull line s).mot)
      · dsimp only
        have hnumbered := numbered_mot (newProduct s j input line first stamp moment k tr forced) s
        have hblank : blanking n (numbered (newProduct s j input line first stamp moment k tr forced) s) = blanking n s := by
          rw [blanking, hnumbered]; rfl
        split
        · exact (blanking_of_mot n (fixSwitch_mot _ _ _)).trans hblank
        · exact hblank

theorem pairEdge_leavesQueue (e : TwinEdge) (s : State) : LeavesQueue s (pairEdge e s) := by
  unfold pairEdge
  dsimp only
  have hkept : ∀ (u : State) (l : List TwinEdge), LeavesQueue u { u with twn.edges := l } := fun _ _ => ⟨rfl, rfl, rfl, rfl⟩
  have hstale : ∀ (u : State) (l : List TwinEdge), LeavesQueue u (l.foldl (fun s _ => raise FaultCode.twinDetectDiff 0 s) u) := fun u l =>
    .foldl (fun s _ => raise_leavesQueue _ _ s) l u
  split
  · exact (hkept s _).trans (hstale _ _)
  · exact ((hkept s _).trans (hstale _ _)).trans (hkept _ _)

/-! ### Edges that are accepted (R102 to R105) -/

/-- A unit outside a pair, or one that leads, owns the queue (R386, R388). -/
theorem ownsQueue_of_role {s : State} (h : s.twn.role = .unbound ∨ s.twn.role = .lead ∨ s.twn.role = .solo) :
    standby s = false ∧ ownsQueue s = true := by
  rcases h with h | h | h <;> simp [standby, ownsQueue, h]

/-- Whether an edge at a line is ignored: P was below H, or the line lies in the blanking. -/
def edgeIgnored (p : PdInput) (behind : Bool) (line blank : Nat) : Bool :=
  behind || match p.blankAt with | some d => within d (d + blank) line | none => false

theorem edgeIgnored_iff {p : PdInput} {behind : Bool} {line blank : Nat} :
    edgeIgnored p behind line blank = true ↔ behind = true ∨ ∃ d, p.blankAt = some d ∧ d ≤ line ∧ line < d + blank := by
  unfold edgeIgnored
  cases hblank : p.blankAt with
  | none => simp
  | some d => simp [within]

/-- The state in which an input has ignored one more edge. -/
def ignoredOn (n : Fin 8) (s : State) : State := { s with mot.pds := upd s.mot.pds n fun p => { p with ignored := p.ignored + 1 } }

/-- The state in which the blanking of an input begins at a line. -/
def blankedFrom (n : Fin 8) (line : Nat) (s : State) : State := { s with mot.pds := upd s.mot.pds n fun p => { p with blankAt := some line } }

theorem blankedFrom_blanking (n : Fin 8) (line : Nat) (s : State) : blanking n (blankedFrom n line s) = (some line, s.mot.pds[n].ignored) := by
  simp only [blanking, blankedFrom, upd_same]

section
variable {n : Fin 8} {line stamp moment : Nat} {behind : Bool} {cfg : PdCfg} {s : State}

theorem acceptEdge_ignored (h : edgeIgnored s.mot.pds[n] behind line cfg.blank = true) :
    acceptEdge n line stamp moment behind cfg s = ignoredOn n s := if_pos h

theorem acceptEdge_blanking (h : edgeIgnored s.mot.pds[n] behind line cfg.blank = false) :
    blanking n (acceptEdge n line stamp moment behind cfg s) = (some line, s.mot.pds[n].ignored) := by
  have htold : ∀ (num : Option Nat) (u : State), blanking n (sendTrigger n.val line stamp num false u) = blanking n u := fun num u =>
    blanking_of_mot n (sendTrigger_leavesQueue _ _ _ _ _ u).mot
  refine Eq.trans ?_ (blankedFrom_blanking n line s)
  refine (congrArg (blanking n) (if_neg (Bool.not_eq_true _ ▸ h))).trans ?_
  split
  · exact (htold _ _).trans (blanking_of_mot n (pairEdge_leavesQueue _ _).mot)
  · split
    · exact (htold _ _).trans (blanking_counted n n _)
    · exact (htold _ _).trans (createProduct_blanking n _ _ _ _ _ _ _)

theorem acceptEdge_queues {j : Job} {k : Nat} {tr : Track} (hrole : s.twn.role = .unbound ∨ s.twn.role = .lead ∨ s.twn.role = .solo)
    (h : edgeIgnored s.mot.pds[n] behind line cfg.blank = false) (hserves : ServesNow s j n.val (line + cfg.lead) moment k tr)
    (hroom : s.prod.queue.length < 64) :
    acceptEdge n line stamp moment behind cfg s = sendTrigger n.val line stamp (some s.mot.nextProd) false
      (numbered (newProduct s j n.val line (line + cfg.lead) stamp moment k tr false) (blankedFrom n line s)) := by
  obtain ⟨hnotStandby, howns⟩ := ownsQueue_of_role (s := blankedFrom n line s) hrole
  have hmade := createProduct_numbers (s := blankedFrom n line s) (hserves.of_job rfl) hroom line stamp false
  refine (if_neg (Bool.not_eq_true _ ▸ h)).trans ?_
  unfold blankedFrom at hnotStandby howns hmade
  simp only [hnotStandby, howns, hmade, Bool.not_true, Bool.false_eq_true, if_false]
  rfl

end

/-! ### PD_EDGE and DETECT_ACCEPT (R102 to R105) -/

/-- An input whose level changes at `now`, of device time `stamp`: the first transition of a burst is its stamp (R102). -/
def levelChanged (level : Bool) (now stamp : Nat) (behind : Bool) (p : PdInput) : PdInput :=
  match p.burst with
  | some _ => { p with level := level, lastAt := now }
  | none => { p with level := level, lastAt := now, burst := some now, stamp16 := stamp, behind := behind }

theorem levelChanged_level (level : Bool) (now stamp : Nat) (behind : Bool) (p : PdInput) :
    (levelChanged level now stamp behind p).level = level ∧ (levelChanged level now stamp behind p).lastAt = now := by
  unfold levelChanged
  split <;> exact ⟨rfl, rfl⟩

theorem levelChanged_first {p : PdInput} (h : p.burst = none) (level : Bool) (now stamp : Nat) (behind : Bool) :
    (levelChanged level now stamp behind p).burst = some now ∧ (levelChanged level now stamp behind p).stamp16 = stamp := by
  simp only [levelChanged, h, and_self]

theorem levelChanged_again {p : PdInput} {m : Nat} (h : p.burst = some m) (level : Bool) (now stamp : Nat) (behind : Bool) :
    (levelChanged level now stamp behind p).burst = some m ∧ (levelChanged level now stamp behind p).stamp16 = p.stamp16 := by
  simp only [levelChanged, h, and_self]

/-- Whether the position of the line source is below H (R103). -/
def belowH (s : State) : Bool := s.mot.source != 4 && decide (posOf s s.mot.source < s.mot.h)

theorem execPdEdge_changes {t : Nat} {n : Fin 8} {level : Bool} {s : State} (hlevel : s.mot.pds[n].level ≠ level)
    (hown : remoteInput s n.val = false) : execPdEdge t n level s = .next (settlePolicies { advance t s with
      mot.pds := upd s.mot.pds n (levelChanged level (advance t s).now (devTime (advance t s)) (belowH s)) }) := by
  have hother : (s.mot.pds[n].level == level || remoteInput s n.val) = false := by
    rw [beq_false_of_ne hlevel, hown]; rfl
  exact congrArg Host.Outcome.next (if_neg (Bool.not_eq_true _ ▸ hother))

/-- The burst of an input that started at `m` has ended in an edge: its level has held for the debounce of the settings `cfg` of that moment, and
the change counts under them (R101, R102). -/
structure BurstIsEdge (t m : Nat) (n : Fin 8) (cfg : PdCfg) (s : State) : Prop where
  burst : s.mot.pds[n].burst = some m
  settings : cfg = pdSettings s.mot.pds[n] m
  held : s.mot.pds[n].lastAt + cfg.debounce ≤ (advance t s).now
  enabled : cfg.enable = true
  changed : s.mot.pds[n].level ≠ s.mot.pds[n].held
  rises : s.mot.pds[n].level = !cfg.falling

/-- The state in which the burst of an input has ended. -/
def burstEnded (n : Fin 8) (s : State) : State := { s with mot.pds := upd s.mot.pds n fun p => { p with burst := none, held := p.level } }

theorem burstEnded_pds (n : Fin 8) (s : State) : (burstEnded n s).mot.pds[n] = { s.mot.pds[n] with burst := none, held := s.mot.pds[n].level } :=
  upd_same _ _ _

/-- The state in which an edge of an input that started at `m` has been taken, or ignored. -/
def edgeTaken (t m : Nat) (n : Fin 8) (cfg : PdCfg) (s : State) : State :=
  acceptEdge n (lineAt s m) s.mot.pds[n].stamp16 m s.mot.pds[n].behind cfg (burstEnded n (advance t s))

theorem execDetectAccept_takes {t m : Nat} {n : Fin 8} {cfg : PdCfg} {s : State} (h : BurstIsEdge t m n cfg s) :
    execDetectAccept t n s = .next (settlePolicies (edgeTaken t m n cfg s)) := by
  obtain ⟨hburst, hsettings, hheld, henabled, hchanged, hrises⟩ := h
  have hlevel : pdHeld s.mot.pds[n] (advance t s).now = true := by
    simp only [pdHeld, hburst, ← hsettings, hheld, decide_true]
  have hedge : (cfg.enable && s.mot.pds[n].level != s.mot.pds[n].held && s.mot.pds[n].level == !cfg.falling) = true := by
    rw [henabled, bne_iff_ne.2 hchanged, hrises, beq_self_eq_true]; rfl
  simp only [execDetectAccept, onEvent, advance_mot, hburst, hlevel, ← hsettings, hedge, Bool.not_true, Bool.false_eq_true, if_false, if_true]
  rfl

theorem edgeTaken_ignores {t m : Nat} {n : Fin 8} {cfg : PdCfg} {s : State}
    (h : edgeIgnored s.mot.pds[n] s.mot.pds[n].behind (lineAt s m) cfg.blank = true) :
    edgeTaken t m n cfg s = ignoredOn n (burstEnded n (advance t s)) := by
  refine acceptEdge_ignored ?_
  rw [burstEnded_pds]
  exact h

/-- An edge that counts begins a new blanking, whatever the part of the unit in its pair (R104). -/
theorem edgeTaken_blanking {t m : Nat} {n : Fin 8} {cfg : PdCfg} {s : State}
    (h : edgeIgnored s.mot.pds[n] s.mot.pds[n].behind (lineAt s m) cfg.blank = false) :
    blanking n (edgeTaken t m n cfg s) = (some (lineAt s m), s.mot.pds[n].ignored) := by
  have hblank : blanking n (edgeTaken t m n cfg s) = (some (lineAt s m), (burstEnded n (advance t s)).mot.pds[n].ignored) := by
    refine acceptEdge_blanking ?_
    rw [burstEnded_pds]
    exact h
  rw [hblank, burstEnded_pds]
  rfl

theorem ignoredOn_pds (n : Fin 8) (s : State) : (ignoredOn n (burstEnded n s)).mot.pds[n] =
    { s.mot.pds[n] with burst := none, held := s.mot.pds[n].level, ignored := s.mot.pds[n].ignored + 1 } := by
  simp only [ignoredOn, burstEnded, upd_same]

theorem blankedFrom_pds (n : Fin 8) (line : Nat) (s : State) : (blankedFrom n line (burstEnded n s)).mot.pds[n] =
    { s.mot.pds[n] with burst := none, held := s.mot.pds[n].level, blankAt := some line } := by
  simp only [blankedFrom, burstEnded, upd_same]

/-- What a unit that owns the queue makes of an edge that counts, while one job serves the input (R105). -/
theorem edgeTaken_queues {t m : Nat} {n : Fin 8} {cfg : PdCfg} {s : State} {j : Job} {k : Nat} {tr : Track}
    (hrole : s.twn.role = .unbound ∨ s.twn.role = .lead ∨ s.twn.role = .solo)
    (hcounts : edgeIgnored s.mot.pds[n] s.mot.pds[n].behind (lineAt s m) cfg.blank = false)
    (hserves : ServesNow s j n.val (lineAt s m + cfg.lead) m k tr) (hroom : s.prod.queue.length < 64) :
    edgeTaken t m n cfg s = sendTrigger n.val (lineAt s m) s.mot.pds[n].stamp16 (some s.mot.nextProd) false
      (numbered (newProduct s j n.val (lineAt s m) (lineAt s m + cfg.lead) s.mot.pds[n].stamp16 m k tr false)
        (blankedFrom n (lineAt s m) (burstEnded n (advance t s)))) := by
  have hcounts' : edgeIgnored (burstEnded n (advance t s)).mot.pds[n] s.mot.pds[n].behind (lineAt s m) cfg.blank = false := by
    rw [burstEnded_pds]
    exact hcounts
  exact acceptEdge_queues (s := burstEnded n (advance t s)) hrole hcounts' (hserves.of_job rfl) hroom

/-! ### QUEUE_READ and PRODUCT_FORCE (R109, R110) -/

/-- The product that a PRODUCT_FORCE makes, with the detect line that its first line gives. -/
def forcedProduct (c : Slot) (n : Fin 8) (j : Job) (k : Nat) (tr : Track) (s : State) : Product :=
  newProduct s j n.val (parN c 1 - s.mot.pds[n].cfg.lead) (parN c 1) (devTime s) s.now k tr true

theorem forcedProduct_forced (c : Slot) (n : Fin 8) (j : Job) (k : Nat) (tr : Track) (s : State) :
    bit (forcedProduct c n j k tr s).flags 7 = true := show bit 128 7 = true by decide

/-- The state in which the product of a PRODUCT_FORCE has joined the queue. -/
def forced (c : Slot) (n : Fin 8) (j : Job) (k : Nat) (tr : Track) (s : State) : State := numbered (forcedProduct c n j k tr s) s

section
variable {t cid : Nat} {c : Slot} {s : State}

theorem execQueueRead_ring (h : Starts Op.queueRead cid c s) (hdest : parN c 0 < 16) (hring : outRing s (parN c 0) = true)
    (hsome : s.prod.queue ≠ []) : execQueueRead t cid s = .next (queueUnits (parN c 0)
      [{ data := wordsBytes (s.prod.queue.flatMap (queueRecord s)), cid := c.cid, final := true, results := [word s.prod.queue.length] }]
      (startedAt t cid s)) := by
  have hring' : outRing (startedAt t cid s) (parN c 0) = true := hring
  have hsome' : (startedAt t cid s).prod.queue.length ≠ 0 := fun h0 => hsome (List.length_eq_zero_iff.1 h0)
  refine (onStart_starts h).trans ?_
  simp only [hdest, hring', hsome', Bool.not_true, Bool.false_eq_true, if_true, if_false]
  rfl

theorem execQueueRead_well (h : Starts Op.queueRead cid c s) (hdest : 0x10000 ≤ parN c 0) (halign : parN c 0 % 8 = 0)
    (hrange : rangeFailure s (parN c 0) 4096 = none) : execQueueRead t cid s = .next (answer c [word s.prod.queue.length]
      (wellWrite (parN c 0) (wordsBytes (s.prod.queue.flatMap (queueRecord s))) (startedAt t cid s))) := by
  have hrange' : rangeFailure (startedAt t cid s) (parN c 0) 4096 = none := hrange
  have hnoRing : ¬ parN c 0 < 16 := by omega
  have hplace : ¬ (parN c 0 < 0x10000 ∨ parN c 0 % 8 ≠ 0) := by omega
  refine (onStart_starts h).trans ?_
  simp only [if_neg hnoRing, if_neg hplace, withRange, hrange']
  rfl

variable {n : Fin 8} (h : Starts Op.productForce cid c s) (hn : parN c 0 = n.val)
include h hn

theorem execProductForce_past (hpast : parN c 1 < s.mot.line + s.mot.pds[n].cfg.lead) :
    execProductForce t cid s = .next (refuse c Status.linePast (startedAt t cid s)) := by
  have hlt : parN c 0 < 8 := hn ▸ n.isLt
  obtain rfl : ⟨parN c 0, hlt⟩ = n := Fin.ext hn
  refine (onStart_starts h).trans (congrArg Host.Outcome.next ?_)
  exact (dif_pos hlt).trans (if_pos hpast)

theorem execProductForce_queues {j : Job} {k : Nat} {tr : Track} (hahead : s.mot.line + s.mot.pds[n].cfg.lead ≤ parN c 1)
    (hlead : standby s = false) (henabled : s.mot.pds[n].cfg.enable = true)
    (hserves : ServesNow s j n.val (parN c 1) (advance t s).now k tr) (hroom : s.prod.queue.length < 64) :
    execProductForce t cid s = .next (done c (sendTrigger n.val (parN c 1 - s.mot.pds[n].cfg.lead) (devTime (forced c n j k tr (startedAt t cid s)))
      (some s.mot.nextProd) true (forced c n j k tr (startedAt t cid s)))) := by
  have hlt : parN c 0 < 8 := hn ▸ n.isLt
  obtain rfl : ⟨parN c 0, hlt⟩ = n := Fin.ext hn
  have hserves' : ServesNow (startedAt t cid s) j (parN c 0) (parN c 1) (startedAt t cid s).now k tr := hserves.of_job rfl
  have hahead' : ¬ parN c 1 < (startedAt t cid s).mot.line + (startedAt t cid s).mot.pds[parN c 0].cfg.lead := Nat.not_lt.2 hahead
  have hlead' : standby (startedAt t cid s) = false := hlead
  have henabled' : (startedAt t cid s).mot.pds[parN c 0].cfg.enable = true := henabled
  have hnumbers := createProduct_numbers (s := startedAt t cid s) hserves' hroom
    (parN c 1 - (startedAt t cid s).mot.pds[parN c 0].cfg.lead) (devTime (startedAt t cid s)) true
  refine (onStart_starts h).trans ?_
  simp only [hlt, dif_pos, hahead', hlead', henabled', jobFor_servesNow hserves', hnumbers, Bool.false_eq_true, Bool.not_true, Option.isNone_some,
    or_self, if_false]
  rfl

end

/-! ### The statements -/

/-- Settles O54: an edge whose line lies in the blanking only counts as ignored; the line of any other begins a new blanking. -/
theorem blankedEdgesAreIgnored : Obligations.BlankedEdgesAreIgnored := by
  rintro t m line n cfg s hburst hsettings hheld rfl hbehind henabled hchanged hrises
  have htakes := execDetectAccept_takes ⟨hburst, hsettings, hheld, henabled, hchanged, hrises⟩
  have hsettled := settlePolicies_leavesQueue (edgeTaken t m n cfg s)
  refine ⟨fun d hd hle hlt => ⟨_, htakes, ?_⟩, fun hfree => ⟨_, htakes, ?_⟩⟩
  · have hignored := edgeTaken_ignores (t := t) (edgeIgnored_iff.2 (.inr ⟨d, hd, hle, hlt⟩))
    rw [hsettled.mot, hsettled.queue, hignored, ignoredOn_pds]
    exact ⟨rfl, hd, rfl, rfl, rfl⟩
  · have hcounts : edgeIgnored s.mot.pds[n] s.mot.pds[n].behind (lineAt s m) cfg.blank = false := Bool.eq_false_iff.2 fun hign => by
      obtain hbelow | ⟨d, hd, hle, hlt⟩ := edgeIgnored_iff.1 hign
      · exact absurd (hbehind.symm.trans hbelow) Bool.false_ne_true
      · have hout := hfree d hd
        omega
    rw [hsettled.mot]
    exact Prod.mk.inj (edgeTaken_blanking hcounts)

/-- Settles O16, with one lemma about each command and event. -/
theorem productsAreQueued : Obligations.ProductsAreQueued := by
  refine ⟨⟨fun t n level s hlevel hown => ?_, ?_⟩, fun t cid c s h => ⟨execQueueRead_ring h, execQueueRead_well h⟩,
    fun t cid c n s h hn => ⟨execProductForce_past h hn, ?_⟩⟩
  · obtain ⟨hmot, hwell, -, hqueue⟩ := settlePolicies_leavesQueue { advance t s with
      mot.pds := upd s.mot.pds n (levelChanged level (advance t s).now (devTime (advance t s)) (belowH s)) }
    refine ⟨_, execPdEdge_changes hlevel hown, ?_⟩
    rw [hmot, hwell, hqueue]
    dsimp only
    rw [upd_same]
    obtain ⟨hset, hlast⟩ := levelChanged_level level (advance t s).now (devTime (advance t s)) (belowH s) s.mot.pds[n]
    exact ⟨hset, hlast, fun hnone => levelChanged_first hnone _ _ _ _, fun m hm => levelChanged_again hm _ _ _ _, fun x hx => upd_other hx, rfl, rfl⟩
  · rintro t m line n cfg s hburst hsettings hheld rfl henabled hchanged hrises
    have htakes := execDetectAccept_takes ⟨hburst, hsettings, hheld, henabled, hchanged, hrises⟩
    have hsettled := settlePolicies_leavesQueue (edgeTaken t m n cfg s)
    refine ⟨fun hign => ⟨_, htakes, ?_⟩, fun j k tr hbehind hfresh hrole hswitch hactive hloaded hinside hsince htrack hroom => ⟨_, htakes, ?_⟩⟩
    · rw [hsettled.mot, hsettled.queue, edgeTaken_ignores (edgeIgnored_iff.2 hign), ignoredOn_pds]
      exact ⟨rfl, rfl, rfl, rfl⟩
    · have hcounts : edgeIgnored s.mot.pds[n] s.mot.pds[n].behind (lineAt s m) cfg.blank = false := by simp only [edgeIgnored, hbehind, hfresh, Bool.or_self]
      have hqueues := edgeTaken_queues (t := t) hrole hcounts ⟨hswitch, hactive, hloaded, hinside, hsince, htrack⟩ hroom
      have htold := sendTrigger_leavesQueue n.val (lineAt s m) s.mot.pds[n].stamp16 (some s.mot.nextProd) false
      rw [hsettled.mot, hsettled.queue, hqueues, (htold _).mot, (htold _).queue, numbered_mot, blankedFrom_pds]
      obtain ⟨q, hq, hmade⟩ := numbered_product (newProduct s j n.val (lineAt s m) (lineAt s m + cfg.lead) s.mot.pds[n].stamp16 m k tr false)
        (blankedFrom n (lineAt s m) (burstEnded n (advance t s)))
      exact ⟨rfl, rfl, rfl, rfl, q, hq, hmade.num, hmade.detLine, hmade.first, hmade.stop, hmade.detect, hmade.job, hmade.track, hmade.input⟩
  · intro j k tr hahead hlead henabled hswitch hactive hloaded hinside hsince htrack hroom
    have hqueues := execProductForce_queues h hn hahead hlead henabled ⟨hswitch, hactive, hloaded, hinside, hsince, htrack⟩ hroom
    have htold := sendTrigger_leavesQueue n.val (parN c 1 - s.mot.pds[n].cfg.lead) (devTime (forced c n j k tr (startedAt t cid s)))
      (some s.mot.nextProd) true (forced c n j k tr (startedAt t cid s))
    obtain ⟨q, hq, hmade⟩ := numbered_product (forcedProduct c n j k tr (startedAt t cid s)) (startedAt t cid s)
    refine ⟨_, hqueues, starts_cid h ▸ finish_ended _ _ _ _ _, ?_⟩
    rw [done, finish_mot, finish_prod, htold.mot, htold.queue, forced, numbered_mot]
    exact ⟨rfl, q, hq, hmade.num, hmade.first, hmade.detLine, hmade.flags 7 (forcedProduct_forced _ _ _ _ _ _), hmade.job, hmade.track, hmade.stop⟩

end Sys2Proof.Machine
end

section
/-!
Segments in the band stores, the dispatch of a line to its pair, and the statement about them.
-/
namespace Sys2Proof.Machine

/-! ### SEGMENT_DECODE (R148, R149) -/

section
variable {t : Nat} {dom : Fin 2} {item : SegItem} {s : State} {j : Job}

/-- A segment without a slot takes one of its own: no slot of the store is freed or given up for it. -/
theorem execSegmentDecode_takesSlot {k : Fin 32} (hjob : segJob s item = some j) (hdecoder : decoderOf s dom = some k)
    (htile : (segTile j item).isSome = true) (hseg : item.seg ≤ 15) (hnew : ∀ b ∈ s.mil.band[dom], b.item ≠ item)
    (htriple : (tripleSlots s.mil.band[dom] item).length < 2) (hroom : s.mil.band[dom].length < 2048) :
    execSegmentDecode t dom item s = .next { advance t s with
      mil.band := s.mil.band.set dom (s.mil.band[dom] ++ [{ item := item, job := j.desc.id, decoder := k.val, since := (advance t s).now }]) } := by
  -- Every fact is needed of the state at the event's moment; time changes nothing that they read.
  change segJob (advance t s) item = some j at hjob
  change decoderOf (advance t s) dom = some k at hdecoder
  change ∀ b ∈ (advance t s).mil.band[dom], b.item ≠ item at hnew
  change (tripleSlots (advance t s).mil.band[dom] item).length < 2 at htriple
  change (advance t s).mil.band[dom].length < 2048 at hroom
  have hsame : (advance t s).mil.band[dom].find? (fun b => b.item == item && b.job == j.desc.id) = none :=
    List.find?_eq_none.2 fun b hb => by simp [hnew b hb]
  have hkept : (advance t s).mil.band[dom].filter (fun b => b.item != item) = (advance t s).mil.band[dom] :=
    List.filter_eq_self.2 fun b hb => by simpa using hnew b hb
  have hasked : ¬ ((none : Option BandSlot).isSome || (segTile j item).isNone || decide (15 < item.seg)) = true := by
    simp [Option.isSome_iff_ne_none.1 htile, Nat.not_lt.2 hseg]
  have hfits : ¬ (2 ≤ (tripleSlots (advance t s).mil.band[dom] item).length ∨ 2048 ≤ (advance t s).mil.band[dom].length) := by omega
  simp only [execSegmentDecode, onEvent, hjob, hdecoder, hsame, if_neg hasked, if_neg (Nat.not_le.2 htriple), hkept, if_neg hfits]
  rfl

/-! ### SEGMENT_DECODE_COMPLETE (R141, R149) -/

/-- The state in which the slot of a segment is complete, and `bad` where the segment failed. -/
def segmentFilled (t : Nat) (dom : Fin 2) (item : SegItem) (bad : Bool) (s : State) : State :=
  { advance t s with mil.band := upd s.mil.band dom fun bs => mapWhere (fun x => x.item == item) (fun x => { x with full := true, bad := bad }) bs }

/-- Whether what a slice's decompressor found passes: the bytes decode, and it saw no fault of its own. -/
def segmentPasses (s : State) (j : Job) (item : SegItem) (fault : Option Nat) : Bool := fault.isNone && segDecodes s j item

theorem segmentPasses_eq_false {fault : Option Nat} (h : segDecodes s j item = false ∨ fault ≠ none) : segmentPasses s j item fault = false := by
  rcases h with h | h <;> simp [segmentPasses, h]

/-- A slot that is being filled becomes complete; a segment that failed joins the intake decompressor's list unless it is there. -/
theorem execSegmentDecodeComplete_fills {b : BandSlot} (hslot : bandSlot s dom item = some b) (hfull : b.full = false) (hjob : jobOf s b.job = some j)
    (fault : Option Nat) : execSegmentDecodeComplete t dom item fault s = .next (
      let u := segmentFilled t dom item (!segmentPasses s j item fault) s
      if segmentPasses s j item fault || (s.mil.redecode.any fun r => r.item == item) then u
      else { u with mil.redecode := s.mil.redecode ++ [{ item := item, job := b.job }] }) := by
  have hslot' : bandSlot (advance t s) dom item = some b := hslot
  have hjob' : jobOf (advance t s) b.job = some j := hjob
  simp only [execSegmentDecodeComplete, onEvent, hslot', hjob', if_neg (Bool.eq_false_iff.1 hfull)]
  rfl

theorem execSegmentDecodeComplete_passes {b : BandSlot} (hslot : bandSlot s dom item = some b) (hfull : b.full = false) (hjob : jobOf s b.job = some j)
    (hdecodes : segDecodes s j item = true) : execSegmentDecodeComplete t dom item none s = .next (segmentFilled t dom item false s) := by
  have hpasses : segmentPasses s j item none = true := by simp [segmentPasses, hdecodes]
  rw [execSegmentDecodeComplete_fills hslot hfull hjob, hpasses]
  rfl

theorem execSegmentDecodeComplete_fails {b : BandSlot} {fault : Option Nat} (hslot : bandSlot s dom item = some b) (hfull : b.full = false)
    (hjob : jobOf s b.job = some j) (hfails : segDecodes s j item = false ∨ fault ≠ none) (hfresh : ∀ r ∈ s.mil.redecode, r.item ≠ item) :
    execSegmentDecodeComplete t dom item fault s = .next { segmentFilled t dom item true s with
      mil.redecode := s.mil.redecode ++ [{ item := item, job := b.job }] } := by
  have hunlisted : (s.mil.redecode.any fun r => r.item == item) = false := List.any_eq_false.2 fun r hr => by simpa using hfresh r hr
  rw [execSegmentDecodeComplete_fills hslot hfull hjob, segmentPasses_eq_false hfails, hunlisted]
  rfl

end

/-! ### LINE_DISPATCH (R146, R198, R199) -/

/-- The recipe of a line is made for that line and the pair it is given to, also where a replay keeps the rest. -/
theorem makeRecipe_names (s : State) (line pair : Nat) : (makeRecipe s line pair).line = line ∧ (makeRecipe s line pair).pair = pair := by
  unfold makeRecipe
  split
  · next r hr =>
    have hline : r.line = line := by simpa using List.find?_some hr
    split
    · exact ⟨hline, rfl⟩
    · exact ⟨rfl, rfl⟩
  · exact ⟨rfl, rfl⟩

theorem notify_mil (code detail : Nat) (s : State) : (notify code detail s).mil = s.mil := by rw [notify_frame]

/-- What a dispatched line reports and flags (R184, R220, R311) leaves: motion, the Well, and of the Mill all but the elements reported. -/
structure LeavesDispatch (s u : State) : Prop where
  mot : u.mot = s.mot
  well : u.well = s.well
  mil : ∃ es, u.mil = { s.mil with uncovered := es }

/-- What leaves the queue's products in their place and the Mill as it was. -/
theorem LeavesDispatch.of_keepsQueued {s u : State} (h : KeepsQueued s u) (hmil : u.mil = s.mil) : LeavesDispatch s u :=
  ⟨h.mot, h.well, s.mil.uncovered, hmil⟩

theorem LeavesDispatch.trans {s u v : State} (h : LeavesDispatch s u) (k : LeavesDispatch u v) : LeavesDispatch s v := by
  obtain ⟨_, hmil⟩ := h.mil
  obtain ⟨es, kmil⟩ := k.mil
  exact ⟨k.mot.trans h.mot, k.well.trans h.well, es, by rw [kmil, hmil]⟩

theorem flagThin_leavesDispatch (r : Recipe) (s : State) : LeavesDispatch s (flagThin r s) := by
  unfold flagThin
  split
  · exact .of_keepsQueued (.foldl (fun s (q : RecipeProduct) => setFlag_keepsQueued q.num 5 s) _ s) (foldl_keeps State.mil (fun s (q : RecipeProduct) => modProduct_mil q.num _ s) _ s)
  · exact .of_keepsQueued (.refl s) rfl

theorem freeOverlays_leavesDispatch (line : Nat) (s : State) : LeavesDispatch s (freeOverlays line s) := ⟨rfl, rfl, _, rfl⟩

theorem reportBare_leavesDispatch (r : Recipe) (s : State) : LeavesDispatch s (reportBare r s) := by
  have hlisted : ∀ es, LeavesDispatch s { s with mil.uncovered := es } := fun es => ⟨rfl, rfl, es, rfl⟩
  exact (hlisted _).trans (.of_keepsQueued (.foldl (fun s e => (notify_leavesQueue _ _ s).keepsQueued) _ _)
    (foldl_keeps State.mil (fun s e => notify_mil _ _ s) _ _))

/-- The state in which a recipe is written for its line, and the line awaits a result from both slices of a pair. -/
def lineGiven (line : Nat) (k : Fin 16) (r : Recipe) (s : State) : State :=
  { s with
    mil.recipes := s.mil.recipes.filter (fun x => decide (line < x.line + 8192) || s.mil.lines.any (fun l => l.line == x.line)) |>.filter (fun x => x.line != line) |>.append [r],
    mil.lines := s.mil.lines ++ [{ line := line, thin := r.thin, awaiting := [s.mil.pairs[k].a, s.mil.pairs[k].b] }],
    mil.nextLine := line + 1,
    mil.pairs := upd s.mil.pairs k fun p => { p with accepted := s.now } }

section
variable {t line : Nat} {s : State}

/-- A line that may be dispatched is given to the lowest pair that can accept it. -/
theorem execLineDispatch_dispatches {k : Fin 16} (hpair : readyPair (advance t s) = some k) (hmay : mayDispatch (advance t s) line = true) :
    ∃ u, execLineDispatch t line s = .next u ∧ LeavesDispatch (lineGiven line k (makeRecipe (advance t s) line k.val) (advance t s)) u := by
  let r := makeRecipe (advance t s) line k.val
  refine ⟨reportBare r (freeOverlays line (flagThin r (lineGiven line k r (advance t s)))), ?_,
    (flagThin_leavesDispatch _ _).trans ((freeOverlays_leavesDispatch line _).trans (reportBare_leavesDispatch _ _))⟩
  simp only [execLineDispatch, onEvent, hpair, hmay, Bool.not_true, Bool.false_eq_true, if_false]
  rfl

theorem execLineDispatch_waits (hnone : readyPair (advance t s) = none) : execLineDispatch t line s = .next (advance t s) := by
  simp only [execLineDispatch, onEvent, hnone]

end

/-! ### The statement -/

/-- Settles O18: the two events of a segment, and a line with and without a pair that can accept it. -/
theorem bandsAreDispatched : Obligations.BandsAreDispatched := by
  refine ⟨fun t dom item s => ⟨fun j k => execSegmentDecode_takesSlot, fun b j hslot hfull hjob => ⟨execSegmentDecodeComplete_passes hslot hfull hjob,
    fun fault => execSegmentDecodeComplete_fails hslot hfull hjob⟩⟩, fun t line s => ⟨fun k hpair hmay => ?_, execLineDispatch_waits⟩⟩
  obtain ⟨u, hstep, hmot, hwell, es, hmil⟩ := execLineDispatch_dispatches hpair hmay
  obtain ⟨hline, hgiven⟩ := makeRecipe_names (advance t s) line k.val
  refine ⟨u, hstep, ?_⟩
  rw [hmot, hwell, hmil]
  exact ⟨rfl, ⟨_, List.mem_append_right _ (List.mem_singleton_self _), hline, hgiven⟩, ⟨_, List.mem_append_right _ (List.mem_singleton_self _), rfl, rfl⟩,
    congrArg MilPair.accepted (upd_same _ k _), rfl, rfl, rfl⟩

end Sys2Proof.Machine
end

section
/-!
The decision of a line by its results, and the statement about it.
-/
namespace Sys2Proof.Machine

/-! ### The Mill and the Well beside records, products and the link -/

/-- The Mill and the Well of a state. -/
def millAndWell (s : State) : Mill × Well := (s.mil, s.well)

theorem raise_millAndWell (code detail : Nat) (s : State) : millAndWell (raise code detail s) = millAndWell s := by
  rw [raise_frame]; rfl

theorem uraraSend_millAndWell (dest type : Nat) (ws : List W64) (s : State) : millAndWell (uraraSend dest type ws s) = millAndWell s := by
  rw [uraraSend_frame]; rfl

theorem dueYield_millAndWell (code : Nat) (s : State) : millAndWell (dueYield code s) = millAndWell s := by
  obtain ⟨_, h⟩ := dueYield_changes code s
  rw [h]; rfl

theorem finish_millAndWell (cid status fault : Nat) (ws : List W64) (s : State) : millAndWell (finish cid status fault ws s) = millAndWell s := by
  rw [finish_frame]; rfl

theorem writePart_millAndWell (n kind : Nat) (s : State) : millAndWell (writePart n kind s) = millAndWell s := by
  unfold writePart ledgerWrite
  split
  · rfl
  · dsimp only
    split
    · exact uraraSend_millAndWell _ _ _ _
    · rfl

theorem exportPart_millAndWell (n kind : Nat) (s : State) : millAndWell (exportPart n kind s) = millAndWell s := by
  unfold exportPart
  split <;> rfl

theorem settleManifests_millAndWell (s : State) : millAndWell (settleManifests s) = millAndWell s :=
  (foldl_keeps millAndWell (fun s _ => finish_millAndWell _ _ _ _ s) _ _).trans (foldl_keeps millAndWell (by intros; rfl) _ s)

theorem finalise_millAndWell (n kind reason fault grade : Nat) (s : State) : millAndWell (finalise n kind reason fault grade s) = millAndWell s := by
  unfold finalise
  split
  · rfl
  · split
    · rfl
    · exact (settleManifests_millAndWell _).trans ((exportPart_millAndWell _ _ _).trans (writePart_millAndWell _ _ _))

theorem voidRecs_millAndWell (product reason fault : Nat) (s : State) : millAndWell (voidRecs product reason fault s) = millAndWell s :=
  foldl_keeps millAndWell (fun s _ => finalise_millAndWell _ _ _ _ _ s) _ s

theorem voidProduct_millAndWell (n reason fault : Nat) (s : State) : millAndWell (voidProduct n reason fault s) = millAndWell s := by
  have hrecs : millAndWell (voidRecs n reason fault (setFlag n 0 s)) = millAndWell s := voidRecs_millAndWell n reason fault _
  unfold voidProduct
  dsimp only
  split
  · exact hrecs
  · refine (foldl_keeps millAndWell (fun s g => ?_) _ _).trans hrecs
    split
    · split <;> rfl
    · rfl

theorem voidProducts_millAndWell (reason fault : Nat) (ps : List Product) (s : State) :
    millAndWell (ps.foldl (fun s p => voidProduct p.num reason fault s) s) = millAndWell s :=
  foldl_keeps millAndWell (fun s (p : Product) => voidProduct_millAndWell p.num reason fault s) ps s

/-! ### Products that are voided (R112, R206) -/

/-- Every product of the later queue goes on from one of the earlier queue. -/
def QueueGoesOn (s t : State) : Prop := ∀ q ∈ t.prod.queue, ∃ p ∈ s.prod.queue, Continues p q

theorem QueueGoesOn.of_queue {s t : State} (h : t.prod.queue = s.prod.queue) : QueueGoesOn s t := fun q hq => ⟨q, h ▸ hq, .refl q⟩

theorem QueueGoesOn.trans {s t u : State} (h : QueueGoesOn s t) (k : QueueGoesOn t u) : QueueGoesOn s u := fun r hr => by
  obtain ⟨q, hq, hqr⟩ := k r hr
  obtain ⟨p, hp, hpq⟩ := h q hq
  exact ⟨p, hp, hpq.trans hqr⟩

theorem QueueGoesOn.of_mapWhere {s t : State} {m : Product → Bool} {f : Product → Product}
    (hqueue : t.prod.queue = mapWhere m f s.prod.queue) (hf : ∀ p, Continues p (f p)) : QueueGoesOn s t := fun q hq => by
  obtain ⟨p, hp, rfl⟩ := List.mem_map.1 (hqueue ▸ hq)
  refine ⟨p, hp, ?_⟩
  split
  · exact hf p
  · exact .refl p

/-- The decisions that a voided product gets on its gates keep the queue. -/
theorem voidProduct_goesOn (n reason fault : Nat) (s : State) : QueueGoesOn (setFlag n 0 s) (voidProduct n reason fault s) := by
  have hrecs : QueueGoesOn (setFlag n 0 s) (voidRecs n reason fault (setFlag n 0 s)) := .of_queue (voidRecs_leavesQueue n reason fault _).queue
  unfold voidProduct
  dsimp only
  split
  · exact hrecs
  · next p _ =>
    refine hrecs.trans (foldl_rel (fun s => .of_queue (s := s) rfl) .trans (fun s g => ?_) _ _)
    split
    · have hflag : QueueGoesOn s (if decide (p.first + p.gw[g].offset ≤ s.mot.line) then setFlag n 8 s else s) := by
        split
        · exact .of_mapWhere rfl fun p => .flagged p _
        · exact .of_queue rfl
      exact hflag.trans (.of_mapWhere (f := fun p => { p with rejects := p.rejects ||| 2 ^ g.val }) rfl fun p => .rejected p _)
    · exact .of_queue rfl

/-- A product of the queue after a product is voided is one of the queue before, and void where it has that number. -/
theorem voidProduct_product {n reason fault : Nat} {s : State} {q : Product} (hq : q ∈ (voidProduct n reason fault s).prod.queue) :
    ∃ p ∈ s.prod.queue, Continues p q ∧ (p.num = n → bit q.flags 0 = true) := by
  obtain ⟨p', hp', hgoes⟩ := voidProduct_goesOn n reason fault s q hq
  obtain ⟨p, hp, rfl⟩ := List.mem_map.1 hp'
  by_cases hn : p.num = n
  · rw [if_pos (by simpa using hn)] at hgoes
    exact ⟨p, hp, (Continues.flagged p _).trans hgoes, fun _ => hgoes.flags 0 (by simp [bit_eq_testBit])⟩
  · rw [if_neg (by simpa using hn)] at hgoes
    exact ⟨p, hp, hgoes, fun h => absurd h hn⟩

/-- The same for the products of a list, voided one after the other. -/
theorem voidProducts_product {reason fault : Nat} {ps : List Product} {s : State} {q : Product}
    (hq : q ∈ (ps.foldl (fun s p => voidProduct p.num reason fault s) s).prod.queue) :
    ∃ p ∈ s.prod.queue, Continues p q ∧ ((∃ x ∈ ps, x.num = p.num) → bit q.flags 0 = true) := by
  induction ps generalizing s with
  | nil => exact ⟨q, hq, .refl q, by simp⟩
  | cons x xs ih =>
    obtain ⟨p', hp', hrest, hvoid⟩ := ih hq
    obtain ⟨p, hp, hfirst, hx⟩ := voidProduct_product hp'
    refine ⟨p, hp, hfirst.trans hrest, fun ⟨y, hy, hnum⟩ => ?_⟩
    rcases List.mem_cons.1 hy with rfl | hy
    · exact hrest.flags 0 (hx hnum.symm)
    · exact hvoid ⟨y, hy, hnum.trans hfirst.num.symm⟩

/-- Where the products of some kind that are not void yet are voided, every product of that kind is void. -/
theorem voidProducts_flags {P : Product → Prop} (hP : ∀ p q, Continues p q → P q → P p) {reason fault : Nat} {ps : List Product} {s : State}
    (hps : ∀ p ∈ s.prod.queue, P p → bit p.flags 0 = false → p ∈ ps) :
    ∀ q ∈ (ps.foldl (fun s p => voidProduct p.num reason fault s) s).prod.queue, P q → bit q.flags 0 = true := fun q hq hPq => by
  obtain ⟨p, hp, hgoes, hvoid⟩ := voidProducts_product hq
  rcases hflag : bit p.flags 0 with _ | _
  · exact hvoid ⟨p, hps p hp (hP p q hgoes hPq) hflag, rfl⟩
  · exact hgoes.flags 0 hflag

/-! ### Line slots and the log (R209) -/

/-- The slot of a line, changed, is in the line store. -/
theorem modLine_mem {l : LineSlot} {line : Nat} {s : State} (h : lineSlot s line = some l) (f : LineSlot → LineSlot) :
    f l ∈ (modLine line f s).mil.lines :=
  List.mem_map.2 ⟨l, List.mem_of_find?_eq_some h, if_pos (List.find?_some (p := fun x : LineSlot => x.line == line) h)⟩

/-- TWIN_MISMATCH is a correctable fault: it is counted and reported, and acts on no Stall. -/
theorem logLine_changes (e : WbEntry) (s : State) : ∃ c b o f w, logLine e s = { s with cri := c, bar := b, outbox := o, flt := f, mil.log := w } := by
  have hclass : classOf FaultCode.twinMismatch = 1 := by decide
  unfold logLine raise
  dsimp only
  rw [if_pos hclass, event_frame]
  exact ⟨_, _, _, _, _, rfl⟩

theorem logLine_recipeOf (e : WbEntry) (line : Nat) (s : State) : recipeOf (logLine e s) line = recipeOf s line := by
  obtain ⟨_, _, _, _, _, h⟩ := logLine_changes e s
  rw [h]; rfl

theorem logLine_lineSlot (e : WbEntry) (line : Nat) (s : State) : lineSlot (logLine e s) line = lineSlot s line := by
  obtain ⟨_, _, _, _, _, h⟩ := logLine_changes e s
  rw [h]; rfl

/-- What the slices compute does not depend on the log. -/
theorem logLine_computeLine (e : WbEntry) (r : Recipe) (s : State) : computeLine (logLine e s) r = computeLine s r := by
  obtain ⟨_, _, _, _, _, h⟩ := logLine_changes e s
  rw [h]; rfl

/-! ### Digests to the peer (R392, R393) -/

theorem suspectLine_millAndWell (line : Nat) (s : State) : millAndWell (suspectLine line s) = millAndWell s :=
  foldl_keeps millAndWell (by intros; rfl) (openAt s line) _

theorem resolveMismatch_millAndWell (line : Nat) (s : State) : millAndWell (resolveMismatch line s) = millAndWell s := by
  unfold resolveMismatch
  split
  · rfl
  · split
    · dsimp only
      split
      · rfl
      · split
        · split
          · rfl
          · exact (dueYield_millAndWell _ _).trans (raise_millAndWell _ _ _)
        · split
          · exact suspectLine_millAndWell _ _
          · split
            · exact dueYield_millAndWell _ _
            · rfl
    · rfl

theorem compareDigests_millAndWell (line : Nat) (s : State) : millAndWell (compareDigests line s) = millAndWell s := by
  unfold compareDigests
  split
  · rfl
  · split
    · dsimp only
      split
      · rfl
      · split
        · rfl
        · exact (resolveMismatch_millAndWell _ _).trans (uraraSend_millAndWell _ _ _ _)
    · rfl

theorem sendDigest_millAndWell (line d : Nat) (logged : Bool) (s : State) : millAndWell (sendDigest line d logged s) = millAndWell s := by
  unfold sendDigest
  split
  · rfl
  · exact (compareDigests_millAndWell _ _).trans (uraraSend_millAndWell _ _ _ _)

theorem sendDigest_mil (line d : Nat) (logged : Bool) (s : State) : (sendDigest line d logged s).mil = s.mil :=
  congrArg Prod.fst (sendDigest_millAndWell line d logged s)

/-! ### The seal of a line (R203) -/

/-- What the seal writes into the slot of a line: the words laid out to the Stalls, and their digests. -/
def sealSlot (laid : List (Nat × List (BitVec 72))) (logged : Bool) (x : LineSlot) : LineSlot :=
  { x with sealed := true, words := laid, digests := lineDigests x.line laid, logged := logged, voting := none }

theorem sealLine_seals {l : LineSlot} {r : Recipe} {s : State} (hslot : lineSlot s l.line = some l) (hrec : recipeOf s l.line = some r)
    (ws : List (BitVec 72)) (logged : Bool) : sealSlot (layWords (computeLine s r) ws) logged l ∈ (sealLine l ws logged s).mil.lines := by
  unfold sealLine
  rw [hrec]
  dsimp only
  rw [sendDigest_mil]
  exact modLine_mem hslot fun x => { x with
    sealed := true, words := layWords (computeLine s r) ws, digests := lineDigests l.line (layWords (computeLine s r) ws), logged := logged, voting := none }

/-! ### Charges and retirement (R208, R210, R211) -/

/-- What decisions leave: the Well, and slices that are retired. -/
structure LeavesRetired (s t : State) : Prop where
  well : t.well = s.well
  retired : ∀ k : Fin 32, s.mil.slices[k].retired = true → t.mil.slices[k].retired = true

/-- What the charges of slices leave: also every line that is sealed. -/
structure LeavesSealed (s t : State) : Prop extends LeavesRetired s t where
  lines : ∀ x ∈ s.mil.lines, x.sealed = true → x ∈ t.mil.lines

theorem LeavesRetired.of_eq {s t : State} (hwell : t.well = s.well) (hslices : t.mil.slices = s.mil.slices) : LeavesRetired s t :=
  ⟨hwell, fun _ h => hslices ▸ h⟩

theorem LeavesRetired.refl (s : State) : LeavesRetired s s := .of_eq rfl rfl

theorem LeavesRetired.trans {s t u : State} (h : LeavesRetired s t) (k : LeavesRetired t u) : LeavesRetired s u :=
  ⟨k.well.trans h.well, fun i hi => k.retired i (h.retired i hi)⟩

theorem LeavesSealed.of_eq {s t : State} (hwell : t.well = s.well) (hslices : t.mil.slices = s.mil.slices) (hlines : t.mil.lines = s.mil.lines) :
    LeavesSealed s t := ⟨.of_eq hwell hslices, fun _ h _ => hlines ▸ h⟩

theorem LeavesSealed.of_millAndWell {s t : State} (h : millAndWell t = millAndWell s) : LeavesSealed s t :=
  have hmil : t.mil = s.mil := congrArg Prod.fst h
  .of_eq (congrArg Prod.snd h) (congrArg Mill.slices hmil) (congrArg Mill.lines hmil)

theorem LeavesSealed.refl (s : State) : LeavesSealed s s := .of_eq rfl rfl rfl

theorem LeavesSealed.trans {s t u : State} (h : LeavesSealed s t) (k : LeavesSealed t u) : LeavesSealed s u :=
  ⟨h.toLeavesRetired.trans k.toLeavesRetired, fun x hx hseal => k.lines x (h.lines x hx hseal) hseal⟩

theorem LeavesSealed.ite {s t u : State} {p : Prop} [Decidable p] (h : LeavesSealed s t) (k : LeavesSealed s u) :
    LeavesSealed s (if p then t else u) := by
  split <;> assumption

theorem LeavesSealed.foldl {α : Type} {g : State → α → State} (hg : ∀ s a, LeavesSealed s (g s a)) (l : List α) (s : State) :
    LeavesSealed s (l.foldl g s) := foldl_rel .refl .trans hg l s

theorem notify_millAndWell (code detail : Nat) (s : State) : millAndWell (notify code detail s) = millAndWell s := by
  rw [notify_frame]; rfl

theorem granaryUse_millAndWell (kind inst limit remaining : Nat) (s : State) : millAndWell (granaryUse kind inst limit remaining s) = millAndWell s := by
  rw [granaryUse_frame]; rfl

/-- A slice that is replaced changes the pairs and what is reported of the spares. -/
theorem replaceSlice_leavesSealed (k : Nat) (s : State) : LeavesSealed s (replaceSlice k s) := by
  have hpairs : ∀ ps sp, LeavesSealed s { s with mil.pairs := ps, mil.sparesOut := sp } := fun _ _ => .of_eq rfl rfl rfl
  unfold replaceSlice
  split
  · exact .refl s
  · split
    · exact .ite ((hpairs _ _).trans (.of_millAndWell (notify_millAndWell _ _ _))) (hpairs _ s.mil.sparesOut)
    · exact (hpairs _ s.mil.sparesOut).trans (.of_millAndWell (raise_millAndWell _ _ _))

theorem leaveLine_sealed {l : LineSlot} (h : l.sealed = true) (k : Nat) (spare : Option Nat) : leaveLine k spare l = l := by
  simp [leaveLine, h]

/-- A slice changed that, where it was retired, is so still. -/
theorem LeavesSealed.of_slice {s t : State} {k : Fin 32} {f : Slice → Slice} (hf : ∀ x, x.retired = true → (f x).retired = true) (hwell : t.well = s.well)
    (hslices : t.mil.slices = upd s.mil.slices k f) (hlines : t.mil.lines = s.mil.lines) : LeavesSealed s t := by
  refine ⟨⟨hwell, fun i hi => ?_⟩, fun _ h _ => hlines ▸ h⟩
  rw [hslices]
  by_cases hik : i = k
  · subst hik
    rw [upd_same]
    exact hf _ hi
  · rw [upd_other hik]
    exact hi

/-- The state in which a slice is retired, before its reports and before its lines are moved. -/
def slicePut (k : Fin 32) (s : State) : State := { s with mil.slices := upd s.mil.slices k fun x => { x with retired := true } }

theorem slicePut_leavesSealed (k : Fin 32) (s : State) : LeavesSealed s (slicePut k s) :=
  .of_slice (f := fun x => { x with retired := true }) (fun _ _ => rfl) rfl rfl rfl

theorem slicePut_retired (k : Fin 32) (s : State) : (slicePut k s).mil.slices[k].retired = true :=
  congrArg Slice.retired (upd_same s.mil.slices k _)

/-- The lines of a retired slice are moved, and what it was decoding is dropped. -/
theorem linesMoved_leavesSealed (k : Nat) (spare : Option Nat) (band : Vector (List BandSlot) 2) (recipes : List Recipe) (s : State) :
    LeavesSealed s { s with mil.band := band, mil.recipes := recipes, mil.lines := s.mil.lines.map (leaveLine k spare) } :=
  ⟨.of_eq rfl rfl, fun x hx hseal => List.mem_map.2 ⟨x, hx, leaveLine_sealed hseal k spare⟩⟩

/-- A slice that works is retired first; what follows leaves it so. -/
theorem retireSlice_follows {k : Fin 32} {s : State} (h : s.mil.slices[k].retired = false) : LeavesSealed (slicePut k s) (retireSlice k s) := by
  have hreport : LeavesSealed (slicePut k s) (replaceSlice k.val (notify Notice.sliceRetired k.val (slicePut k s))) :=
    .trans (.of_millAndWell (notify_millAndWell _ _ _)) (replaceSlice_leavesSealed k.val _)
  unfold retireSlice
  rw [if_neg (by rw [h]; exact Bool.false_ne_true)]
  exact (hreport.trans (.of_millAndWell (granaryUse_millAndWell _ _ _ _ _))).trans (linesMoved_leavesSealed k.val _ _ _ _)

theorem retireSlice_again {k : Fin 32} {s : State} (h : s.mil.slices[k].retired = true) : retireSlice k s = s := if_pos h

theorem retireSlice_leavesSealed (k : Fin 32) (s : State) : LeavesSealed s (retireSlice k s) := by
  rcases h : s.mil.slices[k].retired with _ | _
  · exact (slicePut_leavesSealed k s).trans (retireSlice_follows h)
  · rw [retireSlice_again h]
    exact .refl s

theorem retireSlice_retires (k : Fin 32) (s : State) : (retireSlice k s).mil.slices[k].retired = true := by
  rcases h : s.mil.slices[k].retired with _ | _
  · exact (retireSlice_follows h).retired k (slicePut_retired k s)
  · rw [retireSlice_again h]
    exact h

theorem charge_leavesSealed (line k : Nat) (s : State) : LeavesSealed s (charge line k s) := by
  unfold charge
  split
  · next hk =>
    have hloss : LeavesSealed s (chargeNoted k { s with mil.slices := upd s.mil.slices ⟨k, hk⟩ fun x => { x with losses := (line :: x.losses).take 2 } }) :=
      .of_slice (k := ⟨k, hk⟩) (f := fun x => { x with losses := (line :: x.losses).take 2 }) (fun _ h => h) rfl rfl rfl
    dsimp only
    split
    · exact .refl s
    · split
      · exact .ite (hloss.trans (retireSlice_leavesSealed _ _)) hloss
      · exact hloss
  · exact .refl s

/-! ### The decision of one line (R206) -/

theorem agreeing_agree {line : Nat} {rs : List LineResult} {a b : LineResult} (h : agreeing line rs = some (a, b)) :
    a.slice ≠ b.slice ∧ (a.full = true ∨ b.full = true) ∧ agree line a b = true := by
  induction rs with
  | nil => cases h
  | cons x rest ih =>
    unfold agreeing at h
    split at h
    · next y hy =>
      cases h
      simpa [and_assoc] using List.find?_some hy
    · exact ih h

/-- A line that has its results and is still to be decided. -/
structure Undecided (l : LineSlot) (s : State) : Prop where
  sealed : l.sealed = false
  unresolved : l.unresolved = false
  awaiting : l.awaiting = []
  voting : l.voting = none
  halted : s.mil.halted = false

section
variable {l : LineSlot} {s : State}

theorem decideLine_undecided (h : Undecided l s) : ¬ (l.sealed || l.unresolved || !l.awaiting.isEmpty || l.voting.isSome || s.mil.halted) = true := by
  simp [h.sealed, h.unresolved, h.awaiting, h.voting, h.halted]

/-- The words of the full one of two results. -/
def fullWords (a b : LineResult) : List (BitVec 72) := ((if a.full then a else b).words).getD []

/-- Two results that agree seal the line, which is logged before where it took more than two; then the losing slices are charged. -/
theorem decideLine_seals (h : Undecided l s) {a b : LineResult} (hagree : agreeing l.line l.results = some (a, b)) :
    ∃ u logged bad, (u = s ∨ ∃ e, u = logLine e s) ∧
      decideLine l s = (bad : List LineResult).foldl (fun s r => charge l.line r.slice s) (sealLine l (fullWords a b) logged u) := by
  unfold decideLine
  rw [if_neg (decideLine_undecided h)]
  simp only [hagree]
  refine ⟨_, _, _, ?_, rfl⟩
  split
  · exact .inl rfl
  · exact .inr ⟨_, rfl⟩

theorem decideLine_unresolves (h : Undecided l s) (hnone : agreeing l.line l.results = none) (hcomputed : 4 ≤ l.computed) (hresults : 4 ≤ l.results.length) :
    decideLine l s = unresolve l s := by
  unfold decideLine
  rw [if_neg (decideLine_undecided h)]
  simp only [hnone]
  exact if_pos ⟨hcomputed, hresults⟩

theorem decideLine_waits (hnone : agreeing l.line l.results = none) (hfew : l.computed < 4 ∨ l.results.length < 4) : decideLine l s = s := by
  unfold decideLine
  split
  · rfl
  · simp only [hnone]
    exact if_neg (by omega)

end

/-! ### Lines that no two results decide (R206) -/

/-- The state in which a line is marked unresolved, logged and reported, before its products are voided. -/
def unresolvedNoted (l : LineSlot) (e : WbEntry) (detail : Nat) (s : State) : State :=
  raise FaultCode.lineUnresolved detail (logLine e (modLine l.line (fun x => { x with unresolved := true, voting := none, logged := true }) s))

theorem unresolvedNoted_changes (l : LineSlot) (e : WbEntry) (detail : Nat) (s : State) :
    (unresolvedNoted l e detail s).prod = s.prod ∧ (unresolvedNoted l e detail s).well = s.well ∧ ∃ w, (unresolvedNoted l e detail s).mil =
      { (modLine l.line (fun x => { x with unresolved := true, voting := none, logged := true }) s).mil with log := w } := by
  obtain ⟨_, _, _, _, w, h⟩ := logLine_changes e (modLine l.line (fun x => { x with unresolved := true, voting := none, logged := true }) s)
  rw [unresolvedNoted, raise_frame, h]
  exact ⟨rfl, rfl, w, rfl⟩

theorem logLine_openAt (e : WbEntry) (line : Nat) (s : State) : openAt (logLine e s) line = openAt s line := by
  obtain ⟨_, _, _, _, _, h⟩ := logLine_changes e s
  rw [h]; rfl

theorem unresolve_voids (l : LineSlot) (s : State) : ∃ e detail, unresolve l s = ((openAt s l.line).filter fun p => !bit p.flags 0).foldl
    (fun s p => voidProduct p.num 3 FaultCode.lineUnresolved s) (unresolvedNoted l e detail s) := by
  unfold unresolve
  dsimp only
  rw [logLine_openAt]
  exact ⟨_, _, rfl⟩

section
variable {l : LineSlot} {s : State}

theorem unresolve_marks (hslot : lineSlot s l.line = some l) : { l with unresolved := true, voting := none, logged := true } ∈ (unresolve l s).mil.lines := by
  obtain ⟨e, detail, h⟩ := unresolve_voids l s
  obtain ⟨_, _, w, hmil⟩ := unresolvedNoted_changes l e detail s
  have hvoid := congrArg (·.1.lines) (voidProducts_millAndWell 3 FaultCode.lineUnresolved ((openAt s l.line).filter fun p => !bit p.flags 0) (unresolvedNoted l e detail s))
  rw [h]
  refine hvoid ▸ ?_
  change _ ∈ (unresolvedNoted l e detail s).mil.lines
  rw [hmil]
  exact modLine_mem hslot _

/-- Every product whose print window holds an unresolved line is void. -/
theorem unresolve_flags : ∀ p ∈ (unresolve l s).prod.queue, within p.first p.stop l.line = true → bit p.flags 0 = true := by
  obtain ⟨e, detail, h⟩ := unresolve_voids l s
  obtain ⟨hprod, _, _⟩ := unresolvedNoted_changes l e detail s
  rw [h]
  refine voidProducts_flags (P := fun p => within p.first p.stop l.line = true) (fun p q hgoes hq => ?_) fun p hp hopen hflag => ?_
  · rw [← hgoes.first, ← hgoes.stop]
    exact hq
  · rw [hprod] at hp
    exact List.mem_filter.2 ⟨List.mem_filter.2 ⟨hp, hopen⟩, by simp [hflag]⟩

end

/-! ### The statement about the decision -/

/-- Settles O21: the two results that agree seal the line, and the charges that follow leave it sealed; without two such results the line waits, or is marked
unresolved in its slot, which was not sealed. -/
theorem agreeingResultsSeal : Obligations.AgreeingResultsSeal := by
  intro l r s hslot hrec hsealed hunresolved hawaiting hvoting hhalted
  have hopen : Undecided l s := ⟨hsealed, hunresolved, hawaiting, hvoting, hhalted⟩
  refine ⟨fun a b hagree => ?_, fun hnone hcomputed hresults => ?_, decideLine_waits⟩
  · obtain ⟨hslices, hfull, hwords⟩ := agreeing_agree hagree
    obtain ⟨u, logged, bad, hu, hdecide⟩ := decideLine_seals hopen hagree
    have hsame : lineSlot u l.line = some l ∧ recipeOf u l.line = some r ∧ computeLine u r = computeLine s r := by
      rcases hu with rfl | ⟨e, rfl⟩
      · exact ⟨hslot, hrec, rfl⟩
      · exact ⟨(logLine_lineSlot e _ s).trans hslot, (logLine_recipeOf e _ s).trans hrec, logLine_computeLine e r s⟩
    obtain ⟨hslotU, hrecU, hlayout⟩ := hsame
    have hseal := sealLine_seals hslotU hrecU (fullWords a b) logged
    rw [hlayout] at hseal
    have hcharges := LeavesSealed.foldl (fun s (r : LineResult) => charge_leavesSealed l.line r.slice s) bad (sealLine l (fullWords a b) logged u)
    rw [hdecide]
    exact ⟨hslices, hfull, hwords, _, hcharges.lines _ hseal rfl, rfl, rfl, rfl, rfl⟩
  · rw [decideLine_unresolves hopen hnone hcomputed hresults]
    exact ⟨⟨_, unresolve_marks hslot, rfl, rfl, hsealed⟩, unresolve_flags⟩

end Sys2Proof.Machine
end

section
/-!
Results that come in, votes, losses and segments decoded again, and the statement about them.
-/
namespace Sys2Proof.Machine

/-! ### What decisions leave (R206) -/

theorem logLine_leavesRetired (e : WbEntry) (s : State) : LeavesRetired s (logLine e s) := by
  obtain ⟨_, _, _, _, _, h⟩ := logLine_changes e s
  exact h ▸ .of_eq rfl rfl

theorem sealLine_leavesRetired (l : LineSlot) (ws : List (BitVec 72)) (logged : Bool) (s : State) : LeavesRetired s (sealLine l ws logged s) := by
  unfold sealLine
  split
  · exact .refl s
  · have hwritten : ∀ f g, LeavesRetired s (modRecipe l.line g (modLine l.line f s)) := fun _ _ => .of_eq rfl rfl
    exact (hwritten _ _).trans (LeavesSealed.of_millAndWell (sendDigest_millAndWell _ _ _ _)).toLeavesRetired

theorem unresolve_leavesRetired (l : LineSlot) (s : State) : LeavesRetired s (unresolve l s) := by
  obtain ⟨e, detail, h⟩ := unresolve_voids l s
  obtain ⟨_, hwell, _, hmil⟩ := unresolvedNoted_changes l e detail s
  have hnoted : LeavesRetired s (unresolvedNoted l e detail s) := .of_eq hwell (by rw [hmil]; rfl)
  rw [h]
  exact hnoted.trans (LeavesSealed.of_millAndWell (voidProducts_millAndWell _ _ _ _)).toLeavesRetired

theorem decideLine_leavesRetired (l : LineSlot) (s : State) : LeavesRetired s (decideLine l s) := by
  unfold decideLine
  split
  · exact .refl s
  · split
    · dsimp only
      have hseals : ∀ u ws logged bad, LeavesRetired s u →
          LeavesRetired s ((bad : List LineResult).foldl (fun s r => charge l.line r.slice s) (sealLine l ws logged u)) := fun u ws logged bad hu =>
        (hu.trans (sealLine_leavesRetired l ws logged u)).trans
          (LeavesSealed.foldl (fun s (r : LineResult) => charge_leavesSealed l.line r.slice s) bad _).toLeavesRetired
      apply hseals
      split
      · exact .refl s
      · exact logLine_leavesRetired _ s
    · split
      · exact unresolve_leavesRetired l s
      · exact .refl s

theorem decideLines_leavesRetired (n : Nat) (s : State) : LeavesRetired s (decideLines n s) := by
  induction n generalizing s with
  | zero => exact .refl s
  | succ n ih =>
    refine LeavesRetired.trans (foldl_rel .refl .trans (fun s l => ?_) _ s) (ih _)
    split
    · exact decideLine_leavesRetired _ s
    · exact .refl s

/-! ### SLICE_RESULT_COMPLETE (R202) -/

section
variable {t line : Nat} {s : State} {l : LineSlot} {r : Recipe}

/-- A result joins the line that awaits it, when the comparators agree and no segment of the line is bad or waits to be decoded again. -/
theorem takeResult_joins {slice : Nat} {x : SliceRecv} (hslot : lineSlot s line = some l) (hrec : recipeOf s line = some r) (hawaited : slice ∈ l.awaiting)
    (hagree : comparatorsDiffer x = false) (hnone : s.mil.redecode = [])
    (hgood : ∀ i ∈ recipeSegs s r, ∀ b, bandSlot s (if slice < 16 then 0 else 1) i.1 = some b → b.bad = false) :
    takeResult line slice x s = decideLines 40 (modLine line (fun l => { l with
      awaiting := l.awaiting.erase slice,
      results := l.results ++ [checkResult s r slice (isFull l.thin line slice) x] }) s) := by
  have hkept : ∀ f : Redecode → Redecode, { s with mil.redecode := s.mil.redecode.map f } = s := fun f => by rw [hnone, List.map_nil, ← hnone]
  unfold takeResult
  simp only [hslot, hrec, if_neg (not_not_intro hawaited), hagree, Bool.false_eq_true, if_false, hkept]
  rw [List.filter_eq_nil_iff.2]
  · rfl
  · intro i hi
    split
    · next b hb => simp [hgood i hi b hb]
    · exact Bool.false_ne_true

/-! ### VOTE_RECOMPUTE_START and VOTE_RECOMPUTE_DONE (R206, R207) -/

/-- The line and the slice of a recompute that starts. -/
theorem execVoteRecomputeStart_starts {k : Fin 32} (hslot : lineSlot s line = some l) (hsealed : l.sealed = false) (hunresolved : l.unresolved = false)
    (hawaiting : l.awaiting = []) (hvoting : l.voting = none) (hfew : l.results.length < 4) (hlane : votesRunning s < 2) (hslice : voteSlice s l = some k) :
    execVoteRecomputeStart t line true s = .next { advance t s with
      mil.lines := mapWhere (fun l => l.line == line) (fun l => { l with voting := some k.val, voteFrom := (advance t s).now, computed := l.computed + 1 }) s.mil.lines,
      mil.slices := upd s.mil.slices k fun x => { x with vote := some line } } := by
  change lineSlot (advance t s) line = some l at hslot
  change votesRunning (advance t s) < 2 at hlane
  change voteSlice (advance t s) l = some k at hslice
  have hmay : ¬ (l.sealed || l.unresolved || !l.awaiting.isEmpty || l.voting.isSome || decide (4 ≤ l.results.length) ||
      decide (2 ≤ votesRunning (advance t s))) = true := by
    simp [hsealed, hunresolved, hawaiting, hvoting, hfew, hlane]
  simp only [execVoteRecomputeStart, onEvent, hslot, if_neg hmay, hslice]
  rfl

theorem execVoteRecomputeDone_joins {k : Nat} {x : SliceRecv} (hslot : lineSlot s line = some l) (hrec : recipeOf s line = some r)
    (hvoting : l.voting = some k) (hagree : comparatorsDiffer x = false) :
    execVoteRecomputeDone t line x s = .next (decideLines 40 (modLine line (fun l =>
      { l with voting := none, results := l.results ++ [checkResult s r k true x] })
      { advance t s with mil.slices := s.mil.slices.map fun x => if x.vote = some line then { x with vote := none } else x })) := by
  change lineSlot (advance t s) line = some l at hslot
  change recipeOf (advance t s) line = some r at hrec
  simp only [execVoteRecomputeDone, onEvent, hslot, hrec, hvoting, hagree, Bool.false_eq_true, if_false]
  rfl

/-! ### SLICE_TIMEOUT (R208, R210) -/

theorem execSliceTimeout_retires {slice : Fin 32} (hslot : lineSlot s line = some l) (hrec : recipeOf s line = some r) (hawaited : slice.val ∈ l.awaiting)
    (hlate : r.moment + cLine (activeW s) + 10000 ≤ (advance t s).now) : ∃ vote, execSliceTimeout t line slice s = .next (decideLines 40 (retireSlice slice
      (giveUpResult line slice.val vote (chargeNoted slice.val (raise FaultCode.sliceTimeout line (advance t s)))))) := by
  change lineSlot (advance t s) line = some l at hslot
  change recipeOf (advance t s) line = some r at hrec
  change r.moment + cLine (activeW (advance t s)) + 10000 ≤ (advance t s).now at hlate
  refine ⟨l.voting == some slice.val && decide (l.voteFrom + (cLine (activeW (advance t s)) + 10000) ≤ (advance t s).now), ?_⟩
  simp only [execSliceTimeout, onEvent, hslot, hrec, hawaited, decide_true, Bool.true_and, ← Nat.add_assoc, hlate, Bool.true_or, if_true]

theorem giveUpResult_well (line slice : Nat) (vote : Bool) (s : State) : (giveUpResult line slice vote s).well = s.well := rfl

/-- Whatever the lines' decisions do after it, the slice stays retired. -/
theorem decideLines_retireSlice (slice : Fin 32) (vote : Bool) (line : Nat) (s : State) :
    let u := decideLines 40 (retireSlice slice (giveUpResult line slice.val vote (chargeNoted slice.val (raise FaultCode.sliceTimeout line s))))
    u.mil.slices[slice].retired = true ∧ u.well = s.well := by
  have hdecided := decideLines_leavesRetired 40 (retireSlice slice (giveUpResult line slice.val vote (chargeNoted slice.val (raise FaultCode.sliceTimeout line s))))
  refine ⟨hdecided.retired slice (retireSlice_retires slice _), hdecided.well.trans ((retireSlice_leavesSealed slice _).well.trans ?_)⟩
  rw [giveUpResult_well]
  exact congrArg Prod.snd (raise_millAndWell _ line s)

end

/-! ### INTAKE_SEGMENT_REDECODE (R141, R208) -/

/-- The state in which a segment has left the intake decompressor, and the slots that held it as bad are free. -/
def segmentTaken (t : Nat) (item : SegItem) (s : State) : State := { advance t s with
  mil.redecode := s.mil.redecode.filter fun x => x.item != item,
  mil.band := s.mil.band.map fun bs => bs.filter fun b => !(b.item == item && b.bad) }

section
variable {t : Nat} {s : State} {q : Redecode} {j : Job}

theorem execIntakeSegmentRedecode_charges (hfound : s.mil.redecode.find? (fun x => x.item == q.item) = some q) (hjob : jobOf s q.job = some j)
    (hgood : segDecodes s j q.item = true) :
    execIntakeSegmentRedecode t q.item s = .next (decideLines 40 (q.lines.foldl (fun s x => charge x.1 x.2 s) (segmentTaken t q.item s))) := by
  change (advance t s).mil.redecode.find? (fun x => x.item == q.item) = some q at hfound
  unfold jobOf at hjob
  simp only [execIntakeSegmentRedecode, onEvent, hfound, jobOf, advance_job, hjob]
  exact congrArg Host.Outcome.next (if_pos hgood)

/-- The state in which the tile of a segment is corrupt and reported as such, before its products are voided. -/
def tileCorrupt (t : Nat) (q : Redecode) (addr : Nat) (s : State) : State :=
  raise FaultCode.sheafTileCorrupt addr { segmentTaken t q.item s with mil.corrupt := s.mil.corrupt ++ [(q.job, addr)] }

theorem execIntakeSegmentRedecode_voids (hfound : s.mil.redecode.find? (fun x => x.item == q.item) = some q) (hjob : jobOf s q.job = some j)
    (hbad : segDecodes s j q.item = false) :
    execIntakeSegmentRedecode t q.item s = .next ((s.prod.queue.filter fun p => p.job == q.job && p.input == q.item.input && !bit p.flags 0).foldl
      (fun s p => voidProduct p.num 3 FaultCode.sheafTileCorrupt s) (tileCorrupt t q (((segTile j q.item).map (·.addr)).getD 0) s)) := by
  change (advance t s).mil.redecode.find? (fun x => x.item == q.item) = some q at hfound
  unfold jobOf at hjob
  simp only [execIntakeSegmentRedecode, onEvent, hfound, jobOf, advance_job, hjob]
  exact congrArg Host.Outcome.next (if_neg (Bool.eq_false_iff.1 hbad))

theorem tileCorrupt_changes (t : Nat) (q : Redecode) (addr : Nat) (s : State) : (q.job, addr) ∈ (tileCorrupt t q addr s).mil.corrupt ∧
    (tileCorrupt t q addr s).prod = s.prod ∧ (tileCorrupt t q addr s).well = s.well ∧ (tileCorrupt t q addr s).mot = s.mot := by
  rw [tileCorrupt, raise_frame]
  exact ⟨List.mem_append_right _ (List.mem_singleton_self _), rfl, rfl, rfl⟩

/-- The products of a corrupt tile's job and input are void; voiding leaves the tile marked, and the Well and motion as they were. -/
theorem tileCorrupt_voids (t addr : Nat) (q : Redecode) (s : State) :
    let u := (s.prod.queue.filter fun p => p.job == q.job && p.input == q.item.input && !bit p.flags 0).foldl
      (fun s p => voidProduct p.num 3 FaultCode.sheafTileCorrupt s) (tileCorrupt t q addr s)
    (q.job, addr) ∈ u.mil.corrupt ∧ (∀ p ∈ u.prod.queue, p.job = q.job → p.input = q.item.input → bit p.flags 0 = true) ∧
      u.well = s.well ∧ u.mot = s.mot := by
  obtain ⟨hmarked, hprod, hwell, hmot⟩ := tileCorrupt_changes t q addr s
  let ps := s.prod.queue.filter fun p => p.job == q.job && p.input == q.item.input && !bit p.flags 0
  have hvoid := voidProducts_millAndWell 3 FaultCode.sheafTileCorrupt ps (tileCorrupt t q addr s)
  have hkept := Settles.foldl (fun s (p : Product) => voidProduct_settles p.num 3 FaultCode.sheafTileCorrupt s) ps (tileCorrupt t q addr s)
  refine ⟨(congrArg (·.1.corrupt) hvoid).symm ▸ hmarked, fun p hp hpjob hpinput => ?_, hkept.well.trans hwell, hkept.mot.trans hmot⟩
  refine voidProducts_flags (P := fun p => p.job = q.job ∧ p.input = q.item.input) (fun p p' hgoes hp' => ?_) (fun p hp hserved hflag => ?_) p hp ⟨hpjob, hpinput⟩
  · rw [← hgoes.job, ← hgoes.input]
    exact hp'
  · rw [hprod] at hp
    exact List.mem_filter.2 ⟨hp, by simp [hserved, hflag]⟩

end

/-! ### MILL_DOMAIN_LOST (R212) -/

theorem execMillDomainLost_reports {t : Nat} {dom : Fin 2} {s : State} (hkept : s.mil.lost[dom] = false) (hup : millUp s dom = true) :
    execMillDomainLost t dom s = .next (raise FaultCode.millDomainLost 0 { advance t s with mil.lost := s.mil.lost.set dom true }) := by
  change (advance t s).mil.lost[dom] = false at hkept
  change millUp (advance t s) dom = true at hup
  simp only [execMillDomainLost, onEvent, hkept, hup, Bool.not_true, Bool.or_self, Bool.false_eq_true, if_false]
  rfl

/-! ### The statement about results -/

/-- Settles O20: each event by what it does to the line or the segment it names, and by what the decisions after it leave. -/
theorem resultsAreJudged : Obligations.ResultsAreJudged := by
  refine ⟨fun t line s l r hslot hrec => ⟨fun slice x => ?_, fun k => execVoteRecomputeStart_starts hslot, fun k x => execVoteRecomputeDone_joins hslot hrec,
    fun slice hawaited hlate => ?_⟩, fun t s => ⟨fun q j hfound hjob => ⟨execIntakeSegmentRedecode_charges hfound hjob, fun hbad => ?_⟩, fun dom hkept hup => ?_⟩⟩
  · exact fun hawaited hagree hnone hgood => congrArg Host.Outcome.next (takeResult_joins (s := advance t s) hslot hrec hawaited hagree hnone hgood)
  · obtain ⟨vote, hstep⟩ := execSliceTimeout_retires hslot hrec hawaited hlate
    exact ⟨_, hstep, decideLines_retireSlice slice vote line (advance t s)⟩
  · exact ⟨_, execIntakeSegmentRedecode_voids hfound hjob hbad, tileCorrupt_voids t _ q s⟩
  · have hactive := raise_active (code := FaultCode.millDomainLost) (detail := 0) (s := { advance t s with mil.lost := s.mil.lost.set dom true })
      (by decide) (by decide)
    refine ⟨_, execMillDomainLost_reports hkept hup, ?_, hactive, ?_, ?_⟩ <;> rw [raise_frame] <;> rfl

end Sys2Proof.Machine
end

section
/-!
The training of the serial lanes and their probes, and the statement about them.
-/
namespace Sys2Proof.Machine

/-! ### One lane (R273) -/

theorem laneOf_fin (s : State) (n : Fin 36) : laneOf s n.val = s.lan.lane[n] := by
  simp [laneOf]

theorem modLane_fin (n : Fin 36) (f : Lane → Lane) (s : State) : modLane n.val f s = { s with lan.lane := upd s.lan.lane n f } := by
  simp [modLane]

theorem laneOf_modLane (n : Fin 36) (f : Lane → Lane) (s : State) : laneOf (modLane n.val f s) n.val = f (laneOf s n.val) := by
  rw [modLane_fin, laneOf_fin, laneOf_fin, upd_same]

/-- A lane's record is that of its bank alone. -/
theorem laneOf_of_lane {s u : State} (h : u.lan.lane = s.lan.lane) (n : Nat) : laneOf u n = laneOf s n := by
  unfold laneOf; rw [h]

/-- Two updates that give the lane the same record are the same. -/
theorem modLane_congr {n : Fin 36} {f g : Lane → Lane} {s : State} (h : f (laneOf s n.val) = g (laneOf s n.val)) :
    modLane n.val f s = modLane n.val g s := by
  rw [laneOf_fin] at h
  rw [modLane_fin, modLane_fin, upd, upd, h]

theorem modLane_modLane (n : Fin 36) (f g : Lane → Lane) (s : State) :
    modLane n.val g (modLane n.val f s) = modLane n.val (fun l => g (f l)) s := by
  simp only [modLane_fin, upd_upd]

@[simp] theorem advance_lanePowered (t : Nat) (s : State) (n : Nat) : lanePowered (advance t s) n = lanePowered s n := rfl

@[simp] theorem advance_laneOf (t : Nat) (s : State) (n : Nat) : laneOf (advance t s) n = laneOf s n := rfl

@[simp] theorem advance_laneRefGood (t : Nat) (s : State) (n : Nat) : laneRefGood (advance t s) n = laneRefGood s n := rfl

@[simp] theorem advance_laneWanted (t : Nat) (s : State) (n : Nat) : laneWanted (advance t s) n = laneWanted s n := rfl

@[simp] theorem advance_readySpare (t : Nat) (s : State) (n : Nat) : readySpare (advance t s) n = readySpare s n := rfl

/-- A lane that hunts, as HUNT leaves it (R273, R276). -/
def huntingLane (now : Nat) (l : Lane) : Lane :=
  { l with state := .hunt, asked := [], answers := [], sent := 0, nextLam := none, huntAt := now, lowFrom := none, margFrom := none }

theorem laneOf_huntLane (n : Fin 36) (s : State) : laneOf (huntLane n.val s) n.val = huntingLane s.now (laneOf s n.val) := laneOf_modLane n _ s

theorem huntLane_apart (n : Nat) (s : State) : (huntLane n s).prod = s.prod ∧ (huntLane n s).well = s.well := by
  rw [huntLane_frame]; exact ⟨rfl, rfl⟩

/-! ### Permits, packets and ports beside the lanes -/

/-- The lanes, the products and the Well of a state. -/
def lanesProductsAndWell (s : State) : Lanes × Products × Well := (s.lan, s.prod, s.well)

theorem laneOf_of_lanesProductsAndWell {s u : State} (h : lanesProductsAndWell u = lanesProductsAndWell s) (n : Nat) : laneOf u n = laneOf s n :=
  laneOf_of_lane (congrArg (fun x => x.1.lane) h) n

theorem well_of_lanesProductsAndWell {s u : State} (h : lanesProductsAndWell u = lanesProductsAndWell s) : u.well = s.well :=
  congrArg (fun x => x.2.2) h

theorem modStall_lanesProductsAndWell (k : Nat) (f : Stall → Stall) (s : State) :
    lanesProductsAndWell (modStall k f s) = lanesProductsAndWell s := by
  simp [lanesProductsAndWell]

theorem finish_lanesProductsAndWell (cid status fault : Nat) (ws : List W64) (s : State) :
    lanesProductsAndWell (finish cid status fault ws s) = lanesProductsAndWell s := by
  rw [finish_frame]; rfl

theorem notify_lanesProductsAndWell (code detail : Nat) (s : State) : lanesProductsAndWell (notify code detail s) = lanesProductsAndWell s := by
  rw [notify_frame]; rfl

theorem raise_lanesProductsAndWell (code detail : Nat) (s : State) : lanesProductsAndWell (raise code detail s) = lanesProductsAndWell s := by
  rw [raise_frame]; rfl

theorem settlePermits_lanesProductsAndWell (s : State) : lanesProductsAndWell (settlePermits s) = lanesProductsAndWell s := by
  refine foldl_keeps lanesProductsAndWell (fun s c => ?_) _ s
  split
  · exact finish_lanesProductsAndWell _ _ _ _ s
  · rfl

theorem refreshPermit_lanesProductsAndWell (k : Nat) (s : State) : lanesProductsAndWell (refreshPermit k s) = lanesProductsAndWell s := by
  unfold refreshPermit
  dsimp only
  split
  · exact modStall_lanesProductsAndWell k _ s
  · split
    · exact (settlePermits_lanesProductsAndWell _).trans (modStall_lanesProductsAndWell k _ s)
    · rfl

theorem sendConfig_lanesProductsAndWell (k : Nat) (s : State) : lanesProductsAndWell (sendConfig k s) = lanesProductsAndWell s := by
  simp [sendConfig, sendMessage, lanesProductsAndWell]

theorem settleStallConfig_lanesProductsAndWell (k : Nat) (s : State) :
    lanesProductsAndWell (settleStallConfig k s) = lanesProductsAndWell s := by
  unfold settleStallConfig
  dsimp only
  split
  · split
    · exact (finish_lanesProductsAndWell _ _ _ _ _).trans (modStall_lanesProductsAndWell k _ s)
    · rfl
  · rfl

theorem stallLocks_lanesProductsAndWell (k : Nat) (s : State) : lanesProductsAndWell (stallLocks k s) = lanesProductsAndWell s :=
  (refreshPermit_lanesProductsAndWell k _).trans ((settleStallConfig_lanesProductsAndWell k _).trans
    ((sendConfig_lanesProductsAndWell k _).trans (modStall_lanesProductsAndWell k _ s)))

theorem drainLink_lanesProductsAndWell (fuel i : Nat) (s : State) : lanesProductsAndWell (drainLink fuel i s) = lanesProductsAndWell s := by
  induction fuel generalizing s with
  | zero => rfl
  | succ fuel ih =>
    unfold drainLink
    dsimp only
    split
    · rfl
    · next p _ =>
      split
      · obtain ⟨u, o, h⟩ := transmit_changes i p (modLink i (fun l => { l with waiting := l.waiting.erase p }) s)
        rw [ih, h, modLink_frame]; rfl
      · rfl

theorem settleTopology_lanesProductsAndWell (s : State) : lanesProductsAndWell (settleTopology s) = lanesProductsAndWell s := by
  unfold settleTopology
  dsimp only
  split
  · exact foldl_keeps lanesProductsAndWell (fun s w => finish_lanesProductsAndWell _ _ _ _ s) _ _
  · rfl

theorem laneServes_lanesProductsAndWell (n : Nat) (s : State) : lanesProductsAndWell (laneServes n s) = lanesProductsAndWell s := by
  unfold laneServes
  dsimp only
  split
  · split
    · exact stallLocks_lanesProductsAndWell n (notePorts s)
    · rfl
  · split
    · exact (settleTopology_lanesProductsAndWell _).trans (drainLink_lanesProductsAndWell _ _ (notePorts s))
    · rfl

theorem laneDown_lanesProductsAndWell (n : Nat) (s : State) : lanesProductsAndWell (laneDown n s) = lanesProductsAndWell s := by
  unfold laneDown
  dsimp only
  split
  · split
    · exact refreshPermit_lanesProductsAndWell _ (notePorts s)
    · rfl
  · refine foldl_keeps lanesProductsAndWell (fun s k => ?_) _ (notePorts s)
    split
    · exact refreshPermit_lanesProductsAndWell k s
    · rfl

theorem laneOf_laneDown (n m : Nat) (s : State) : laneOf (laneDown n s) m = laneOf s m :=
  laneOf_of_lanesProductsAndWell (laneDown_lanesProductsAndWell n s) m

theorem laneDown_well (n : Nat) (s : State) : (laneDown n s).well = s.well := well_of_lanesProductsAndWell (laneDown_lanesProductsAndWell n s)

theorem useSpareLane_lanesProductsAndWell (k : Nat) (s : State) : lanesProductsAndWell (useSpareLane k s) = lanesProductsAndWell s := by
  unfold useSpareLane
  split
  · rfl
  · rw [granaryUse_frame]; rfl

/-! ### Entering PROBE and UP (R273) -/

/-- A lane as UP receives it. -/
def upLane (sec now : Nat) (l : Lane) : Lane :=
  { l with state := .up, upSec := sec, kept := true, sentAt := now, asked := [], answers := [], lostAt := none }

/-- A lane as PROBE receives it. -/
def probingLane (l : Lane) : Lane := { l with state := .probe, sent := 0, asked := [], answers := [] }

theorem laneOf_enterUp (n : Fin 36) (s : State) : laneOf (enterUp n.val s) n.val = upLane (devSec s) s.now (laneOf s n.val) := by
  exact (laneOf_of_lanesProductsAndWell (laneServes_lanesProductsAndWell n.val (modLane n.val (upLane (devSec s) s.now) s)) n.val).trans
    (laneOf_modLane n _ s)

theorem enterUp_apart (n : Nat) (s : State) : (enterUp n s).prod = s.prod ∧ (enterUp n s).well = s.well := by
  have hapart := congrArg Prod.snd (laneServes_lanesProductsAndWell n (modLane n (upLane (devSec s) s.now) s))
  exact ⟨(congrArg Prod.fst hapart).trans (modLane_prod n _ s), (congrArg Prod.snd hapart).trans (modLane_well n _ s)⟩

theorem laneOf_enterProbe (n : Fin 36) (s : State) : laneOf (enterProbe n.val s) n.val =
    if isEthLane n.val then upLane (devSec s) s.now (laneOf s n.val) else probingLane (laneOf s n.val) := by
  unfold enterProbe
  split
  · exact laneOf_enterUp n s
  · exact laneOf_modLane n _ s

/-! ### Bring-up (R274, R276, R281 to R283) -/

/-- Whether lock returns while the adaptation's values still hold (R276). -/
def quickLock (l : Lane) (now : Nat) : Bool := l.kept && match l.lostAt with | some m => decide (now ≤ m + 100000) | none => false

/-- A lane with the values that its adaptation gave (R281). -/
def adaptedLane (fom ctle gain : Nat) (dfe : List Int) (l : Lane) : Lane :=
  { l with fom := min 1023 fom, fomLow := min l.fomLow (min 1023 fom), ctle := ctle % 16, gain := gain % 32, dfe := dfe.take 6, kept := true }

section
variable {t : Nat} {lane : Fin 36} {s : State} (hon : lanePowered s lane.val = true)
include hon

theorem execLaneSignalDetect_wakes (hidle : (laneOf s lane.val).state = .idle) (hwanted : laneWanted s lane.val = true) :
    execLaneSignalDetect t lane s = .next { advance t s with
      outbox := .lane lane.val 0x2D 0 :: s.outbox, lan.lane := upd s.lan.lane lane fun l => { l with state := .wake } } := by
  simp [execLaneSignalDetect, onEvent, hon, hidle, hwanted, modLane_fin, emit]

/-- What block lock makes of a hunting lane on a good reference (R274, R276). -/
theorem execBlockLock_locks (hhunt : (laneOf s lane.val).state = .hunt) (href : laneRefGood s lane.val = true) (hloop : (laneOf s lane.val).loopCid = 0) :
    execBlockLock t lane s = .next (
      let u := modLane lane.val (fun l => { l with lockN := l.lockN + 1, lostAt := none }) (advance t s)
      if quickLock (laneOf s lane.val) (advance t s).now then enterProbe lane.val u else modLane lane.val (fun l => { l with state := .adapt }) u) := by
  simp only [execBlockLock, onEvent, advance_lanePowered, advance_laneOf, advance_laneRefGood, hon, hhunt, href, hloop, bne_self_eq_false,
    Bool.not_true, Bool.or_self, Bool.false_eq_true, if_false]
  rfl

theorem execBlockLock_adapts (hhunt : (laneOf s lane.val).state = .hunt) (href : laneRefGood s lane.val = true) (hloop : (laneOf s lane.val).loopCid = 0)
    (hslow : (laneOf s lane.val).kept = false ∨ ∀ m, (laneOf s lane.val).lostAt = some m → m + 100000 < (advance t s).now) :
    execBlockLock t lane s = .next { advance t s with
      lan.lane := upd s.lan.lane lane fun l => { l with lockN := l.lockN + 1, lostAt := none, state := .adapt } } := by
  have hquick : quickLock (laneOf s lane.val) (advance t s).now = false := by
    unfold quickLock
    rcases hslow with hkept | hlate
    · rw [hkept, Bool.false_and]
    · split
      · next m hm => simpa using fun _ => hlate m hm
      · exact Bool.and_false _
  rw [execBlockLock_locks hon hhunt href hloop, hquick]
  exact congrArg Host.Outcome.next ((modLane_modLane lane _ _ _).trans (modLane_fin lane _ _))

theorem execBlockLock_probes {m : Nat} (hhunt : (laneOf s lane.val).state = .hunt) (href : laneRefGood s lane.val = true)
    (hloop : (laneOf s lane.val).loopCid = 0) (hkept : (laneOf s lane.val).kept = true) (hlost : (laneOf s lane.val).lostAt = some m)
    (hsoon : (advance t s).now ≤ m + 100000) (heth : isEthLane lane.val = false) :
    execBlockLock t lane s = .next { advance t s with
      lan.lane := upd s.lan.lane lane fun l =>
        { l with lockN := l.lockN + 1, lostAt := none, state := .probe, sent := 0, asked := [], answers := [] } } := by
  have hquick : quickLock (laneOf s lane.val) (advance t s).now = true := by
    simp [quickLock, hkept, hlost, hsoon]
  rw [execBlockLock_locks hon hhunt href hloop, hquick]
  dsimp only
  rw [if_pos rfl, enterProbe, heth]
  exact congrArg Host.Outcome.next ((modLane_modLane lane _ _ _).trans (modLane_fin lane _ _))

theorem execAdaptDone_adapted (fom ctle gain : Nat) (dfe : List Int) (hadapt : (laneOf s lane.val).state = .adapt) :
    execAdaptDone t lane fom ctle gain dfe s = .next (enterProbe lane.val (modLane lane.val (adaptedLane fom ctle gain dfe) (advance t s))) := by
  simp only [execAdaptDone, onEvent, advance_lanePowered, advance_laneOf, hon, hadapt, bne_self_eq_false, Bool.not_true, Bool.or_self,
    Bool.false_eq_true, if_false]
  rfl

theorem execLaneFastExit_exits (ok : Bool) (hwake : (laneOf s lane.val).state = .wake) :
    execLaneFastExit t lane ok s = .next (if ok then enterUp lane.val (advance t s) else huntLane lane.val (advance t s)) := by
  simp [execLaneFastExit, onEvent, hon, hwake]

end

/-! ### Probes (R277, R278) -/

/-- Whether a lane has a probe to send (R277). -/
def probeDue (l : Lane) (now : Nat) : Bool :=
  (l.state == .probe && decide (l.sent < 16) && (decide (l.sent = 0) || decide (l.sentAt + 1000 ≤ now)))
    || (l.state == .up && decide (l.sentAt + 1000000000 ≤ now))

/-- The number of the probe that a lane sends next. -/
def probeNum (l : Lane) : Nat := if l.state == .up then (l.sent + 1) % 65536 else l.sent

/-- A lane that has sent a probe. -/
def askedLane (num now : Nat) (l : Lane) : Lane :=
  { l with
    sent := if l.state == .up then num else l.sent + 1, sentAt := now,
    answers := if l.state == .up && !l.asked.isEmpty then [] else l.answers,
    asked := if l.state == .up then [num] else l.asked ++ [num] }

/-- The answers of a lane with one more, a round trip less the turnaround. -/
def answersWith (l : Lane) (trip turn : Nat) : List Nat := l.answers ++ [trip - turn]

/-- The state once a lane has spent its 16 answers on λ. -/
def measured (n num : Nat) (s : State) : State := modLane n (fun l => { l with asked := l.asked.erase num, answers := [] }) s

/-- What 16 answers make of a lane in PROBE or UP (R277). -/
def useLambda (n lam : Nat) (state : LaneState) (covers : Option Nat) (s : State) : State :=
  if state == .probe then
    if n < 24 ∧ 17000 < lam then raise FaultCode.laneLatency (put n 8) (modLane n (fun l => { l with sent := 0, asked := [] }) s)
    else enterUp n (modLane n (fun l => { l with lambda := lam }) s)
  else if state == .up then
    if n < 24 ∨ covers.any (· < 24) then modLane n (fun l => { l with nextLam := some lam }) s else takeLambda n lam s
  else s

theorem useLambda_comesUp {n lam : Nat} (h : 24 ≤ n ∨ lam ≤ 17000) (covers : Option Nat) (s : State) :
    useLambda n lam .probe covers s = enterUp n (modLane n (fun l => { l with lambda := lam }) s) := by
  rw [useLambda, if_pos (beq_self_eq_true _), if_neg (by omega)]

theorem useLambda_tooLong {n lam : Nat} (hstall : n < 24) (hlong : 17000 < lam) (covers : Option Nat) (s : State) :
    useLambda n lam .probe covers s =
      raise FaultCode.laneLatency (put n 8) (modLane n (fun l => { l with sent := 0, asked := [] }) s) := by
  rw [useLambda, if_pos (beq_self_eq_true _), if_pos ⟨hstall, hlong⟩]

theorem useLambda_waits {n : Nat} (hstall : n < 24) (lam : Nat) (covers : Option Nat) (s : State) :
    useLambda n lam .up covers s = modLane n (fun l => { l with nextLam := some lam }) s := by
  rw [useLambda, if_neg (by decide), if_pos (beq_self_eq_true _), if_pos (.inl hstall)]

section
variable {t : Nat} {lane : Fin 36} {s : State} (hon : lanePowered s lane.val = true)
include hon

theorem execProbeSend_sends (heth : isEthLane lane.val = false) (hdue : probeDue (laneOf s lane.val) (advance t s).now = true) :
    execProbeSend t lane s = .next (emit (.lane lane.val 0x4B (probeNum (laneOf s lane.val)))
      (modLane lane.val (askedLane (probeNum (laneOf s lane.val)) (advance t s).now) (advance t s))) := by
  have hdue' : probeDue (laneOf (advance t s) lane.val) (advance t s).now = true := hdue
  unfold probeDue at hdue'
  simp only [execProbeSend, onEvent, advance_lanePowered, hon, heth, hdue', Bool.not_true, Bool.or_self, Bool.false_eq_true, if_false]
  rfl

theorem execProbeSend_probes (heth : isEthLane lane.val = false) (hprobe : (laneOf s lane.val).state = .probe) (hleft : (laneOf s lane.val).sent < 16)
    (hdue : (laneOf s lane.val).sent = 0 ∨ (laneOf s lane.val).sentAt + 1000 ≤ (advance t s).now) :
    execProbeSend t lane s = .next { advance t s with
      outbox := .lane lane.val 0x4B (laneOf s lane.val).sent :: s.outbox,
      lan.lane := upd s.lan.lane lane fun l => { l with sent := l.sent + 1, sentAt := (advance t s).now, asked := l.asked ++ [l.sent] } } := by
  have hnum : probeNum (laneOf s lane.val) = (laneOf s lane.val).sent := by simp [probeNum, hprobe]
  rw [execProbeSend_sends hon heth (by simpa [probeDue, hprobe, hleft] using hdue), hnum,
    modLane_congr (g := fun l => { l with sent := l.sent + 1, sentAt := (advance t s).now, asked := l.asked ++ [l.sent] }) (by simp [askedLane, hprobe]),
    modLane_fin]
  rfl

theorem execProbeSend_again (heth : isEthLane lane.val = false) (hup : (laneOf s lane.val).state = .up)
    (hdue : (laneOf s lane.val).sentAt + 1000000000 ≤ (advance t s).now) :
    execProbeSend t lane s = .next { advance t s with
      outbox := .lane lane.val 0x4B (((laneOf s lane.val).sent + 1) % 65536) :: s.outbox,
      lan.lane := upd s.lan.lane lane fun l => { l with
        sent := (l.sent + 1) % 65536, sentAt := (advance t s).now, answers := if l.asked.isEmpty then l.answers else [],
        asked := [(l.sent + 1) % 65536] } } := by
  have hnum : probeNum (laneOf s lane.val) = ((laneOf s lane.val).sent + 1) % 65536 := by simp [probeNum, hup]
  have hlane : askedLane (((laneOf s lane.val).sent + 1) % 65536) (advance t s).now (laneOf s lane.val) =
      { laneOf s lane.val with
        sent := ((laneOf s lane.val).sent + 1) % 65536, sentAt := (advance t s).now,
        answers := if (laneOf s lane.val).asked.isEmpty then (laneOf s lane.val).answers else [],
        asked := [((laneOf s lane.val).sent + 1) % 65536] } := by
    cases hasked : (laneOf s lane.val).asked <;> simp [askedLane, hup, hasked]
  rw [execProbeSend_sends hon heth (by simp [probeDue, hup, hdue]), hnum,
    modLane_congr (s := advance t s) (g := fun l => { l with
      sent := (l.sent + 1) % 65536, sentAt := (advance t s).now, answers := if l.asked.isEmpty then l.answers else [],
      asked := [(l.sent + 1) % 65536] }) hlane, modLane_fin]
  rfl

theorem execProbeReceive_echoes (num turn : Nat) (heth : isEthLane lane.val = false)
    (hstate : (laneOf s lane.val).state = .probe ∨ (laneOf s lane.val).state = .up) :
    execProbeReceive t lane num turn s = .next { advance t s with
      outbox := .lane lane.val 0x55 (put (turn % 2 ^ 24) 16 + num % 65536) :: s.outbox } := by
  have hstate' : ((laneOf s lane.val).state == .probe || (laneOf s lane.val).state == .up) = true := by simpa using hstate
  simp only [execProbeReceive, onEvent, advance_lanePowered, advance_laneOf, hon, heth, hstate', Bool.not_false, Bool.and_self, if_true]
  rfl

section
variable {num : Nat} (trip turn : Nat) (hasked : num ∈ (laneOf s lane.val).asked)
include hasked

/-- What an Echo of a probe that was asked makes of a lane (R277). -/
theorem execProbeEchoReceive_answers :
    execProbeEchoReceive t lane num trip turn s = .next (
      if (answersWith (laneOf s lane.val) trip turn).length < 16 then
        modLane lane.val (fun l => { l with asked := l.asked.erase num, answers := answersWith (laneOf s lane.val) trip turn }) (advance t s)
      else useLambda lane.val (lambdaOf (answersWith (laneOf s lane.val) trip turn)) (laneOf s lane.val).state (laneOf s lane.val).covers
        (measured lane.val num (advance t s))) := by
  have hasked' : (laneOf s lane.val).asked.contains num = true := by simpa using hasked
  simp only [execProbeEchoReceive, onEvent, advance_lanePowered, advance_laneOf, hon, hasked', Bool.not_true, Bool.or_self, Bool.false_eq_true, if_false]
  rfl

theorem execProbeEchoReceive_counts (hfew : (laneOf s lane.val).answers.length < 15) :
    execProbeEchoReceive t lane num trip turn s = .next { advance t s with
      lan.lane := upd s.lan.lane lane fun l => { l with asked := l.asked.erase num, answers := l.answers ++ [trip - turn] } } := by
  have hlen : (answersWith (laneOf s lane.val) trip turn).length < 16 := by simpa [answersWith] using Nat.succ_lt_succ hfew
  rw [execProbeEchoReceive_answers hon trip turn hasked, if_pos hlen,
    modLane_congr (g := fun l => { l with asked := l.asked.erase num, answers := l.answers ++ [trip - turn] }) rfl, modLane_fin]
  rfl

theorem execProbeEchoReceive_measures (hmany : 15 ≤ (laneOf s lane.val).answers.length) :
    execProbeEchoReceive t lane num trip turn s = .next (useLambda lane.val (lambdaOf (answersWith (laneOf s lane.val) trip turn))
      (laneOf s lane.val).state (laneOf s lane.val).covers (measured lane.val num (advance t s))) := by
  have hlen : ¬ (answersWith (laneOf s lane.val) trip turn).length < 16 := by simpa [answersWith] using hmany
  rw [execProbeEchoReceive_answers hon trip turn hasked, if_neg hlen]

end
end

/-! ### The statement about training -/

/-- Settles O27: each event by its own lemma; what a lane in UP then serves, and a fault that is reported, leave the lanes, the products and the Well. -/
theorem lanesAreTrained : Obligations.LanesAreTrained := by
  unfold Obligations.LanesAreTrained
  simp only [← laneOf_fin]
  refine ⟨fun t lane s hon => ⟨execLaneSignalDetect_wakes hon, fun hhunt href hloop => ⟨execBlockLock_adapts hon hhunt href hloop,
      fun m => execBlockLock_probes hon hhunt href hloop⟩, fun fom ctle gain dfe hadapt => ?_, fun ok hwake => ?_⟩,
    fun t lane s hon heth => ⟨execProbeSend_probes hon heth, execProbeSend_again hon heth, fun num turn => execProbeReceive_echoes hon num turn heth,
      fun num trip turn lam hasked hlam => ?_⟩⟩
  · refine ⟨_, execAdaptDone_adapted hon fom ctle gain dfe hadapt, ?_⟩
    rw [laneOf_enterProbe, laneOf_modLane]
    cases isEthLane lane.val <;> exact ⟨rfl, rfl, rfl, rfl, rfl, rfl⟩
  · cases ok
    · refine ⟨huntLane lane.val (advance t s), execLaneFastExit_exits hon false hwake, ?_, ?_, huntLane_apart lane.val (advance t s)⟩ <;>
        rw [laneOf_huntLane] <;> rfl
    · refine ⟨enterUp lane.val (advance t s), execLaneFastExit_exits hon true hwake, ?_, ?_, enterUp_apart lane.val (advance t s)⟩ <;>
        rw [laneOf_enterUp] <;> rfl
  · change lam = lambdaOf (answersWith (laneOf s lane.val) trip turn) at hlam
    subst hlam
    have hmeasures := execProbeEchoReceive_measures (t := t) hon trip turn hasked
    refine ⟨execProbeEchoReceive_counts hon trip turn hasked, fun hmany hprobe hshort => ⟨_, hmeasures hmany, ?_⟩,
      fun hmany hprobe hstall hlong => ⟨_, hmeasures hmany, ?_⟩, fun hmany hup hstall => (hmeasures hmany).trans ?_⟩
    · rw [hprobe, useLambda_comesUp hshort, laneOf_enterUp, laneOf_modLane]
      exact ⟨rfl, rfl⟩
    · rw [hprobe, useLambda_tooLong hstall hlong, laneOf_of_lanesProductsAndWell (raise_lanesProductsAndWell _ _ _), laneOf_modLane,
        measured, laneOf_modLane]
      exact ⟨hprobe, rfl⟩
    · rw [hup, useLambda_waits hstall, measured, modLane_modLane, modLane_fin]
      rfl

end Sys2Proof.Machine
end

section
/-!
Lanes that lose lock, lanes that are judged failing and the moves of Urara lanes, and the statement about them.
-/
namespace Sys2Proof.Machine

/-! ### Lanes that are judged failing (R284 to R287) -/

/-- A lane as a judgement leaves it: it may be failing, and a spare out of use. -/
def JudgedFrom (l l' : Lane) : Prop := ∃ f o, l' = { l with failing := f, out := o }

theorem JudgedFrom.refl (l : Lane) : JudgedFrom l l := ⟨_, _, rfl⟩

theorem failLane_judges (n : Fin 36) (s : State) : JudgedFrom (laneOf s n.val) (laneOf (failLane n.val s) n.val) := by
  unfold failLane
  split
  · rw [laneOf_modLane]
    exact ⟨true, _, rfl⟩
  · split
    · exact .refl _
    · rw [laneOf_of_lanesProductsAndWell (notify_lanesProductsAndWell _ _ _), laneOf_modLane,
        laneOf_of_lanesProductsAndWell (useSpareLane_lanesProductsAndWell _ _)]
      exact ⟨true, true, rfl⟩

theorem failLane_well (n : Nat) (s : State) : (failLane n s).well = s.well := by
  unfold failLane
  split
  · exact modLane_well n _ s
  · split
    · rfl
    · rw [well_of_lanesProductsAndWell (notify_lanesProductsAndWell _ _ _), modLane_well,
        well_of_lanesProductsAndWell (useSpareLane_lanesProductsAndWell _ _)]

/-- A Move that is asked for changes no lane and nothing in the Well. -/
theorem startMove_laneAndWell (n : Nat) (s : State) : (startMove n s).lan.lane = s.lan.lane ∧ (startMove n s).well = s.well := by
  unfold startMove
  dsimp only
  split
  · exact ⟨rfl, rfl⟩
  · split <;> exact ⟨rfl, rfl⟩

theorem laneOf_judgeFailing (n : Nat) (s : State) : laneOf (judgeFailing n s) n = if isEthLane n then laneOf s n else laneOf (failLane n s) n := by
  unfold judgeFailing
  dsimp only
  split
  · rfl
  · split
    · exact laneOf_of_lane (startMove_laneAndWell n _).1 n
    · rfl

theorem judgeFailing_judges (n : Fin 36) (s : State) : JudgedFrom (laneOf s n.val) (laneOf (judgeFailing n.val s) n.val) := by
  rw [laneOf_judgeFailing]
  split
  · exact .refl _
  · exact failLane_judges n s

theorem isEthLane_of_lt {n : Nat} (h : n < 32) : isEthLane n = false := by
  rw [isEthLane, beq_eq_false_iff_ne.2 (by omega), beq_eq_false_iff_ne.2 (by omega), Bool.or_self]

theorem judgeFailing_failing {n : Fin 36} (h : n.val < 32) (s : State) : (laneOf (judgeFailing n.val s) n.val).failing = true := by
  rw [laneOf_judgeFailing, isEthLane_of_lt h, if_neg Bool.false_ne_true, failLane, if_pos (by omega), laneOf_modLane]

theorem judgeFailing_well (n : Nat) (s : State) : (judgeFailing n s).well = s.well := by
  unfold judgeFailing
  dsimp only
  split
  · rfl
  · split
    · exact (startMove_laneAndWell n _).2.trans (failLane_well n s)
    · exact failLane_well n s

/-! ### Loss of lock (R274, R276) -/

/-- The losses of a lane within the last 10 s with a new one (R284). -/
def lossesOf (s : State) (l : Lane) : List Nat := recent s 10000000000 l.lossAt ++ [s.now]

/-- A lane that has lost lock once more. -/
def lostLane (hdrs now : Nat) (losses : List Nat) (l : Lane) : Lane :=
  { l with lossN := l.lossN + 1, badHdrs := l.badHdrs + hdrs, lostAt := some now, lossAt := losses }

/-- A lane whose lock has not returned in time: its values are not used again. -/
def lateLane (l : Lane) : Lane := { l with kept := false, lostAt := none }

/-- The state in which a lane hunts after a loss. -/
def lostState (n hdrs : Nat) (s : State) : State := huntLane n (modLane n (lostLane hdrs s.now (lossesOf s (laneOf s n))) s)

theorem laneOf_lostState (n : Fin 36) (hdrs : Nat) (s : State) : laneOf (lostState n.val hdrs s) n.val =
    huntingLane s.now (lostLane hdrs s.now (lossesOf s (laneOf s n.val)) (laneOf s n.val)) := by
  rw [lostState, laneOf_huntLane, laneOf_modLane, modLane_now]

theorem lostState_well (n hdrs : Nat) (s : State) : (lostState n hdrs s).well = s.well :=
  (huntLane_apart n _).2.trans (modLane_well n _ s)

section
variable {t : Nat} {lane : Fin 36} {s : State} (hon : lanePowered s lane.val = true)
include hon

theorem execLossOfLock_judges (hdrs : Nat)
    (hstate : (laneOf s lane.val).state = .adapt ∨ (laneOf s lane.val).state = .probe ∨ (laneOf s lane.val).state = .up) :
    execLossOfLock t lane hdrs s = .next (laneDown lane.val
      (if 3 ≤ (lossesOf (advance t s) (laneOf s lane.val)).length then judgeFailing lane.val (lostState lane.val hdrs (advance t s))
      else lostState lane.val hdrs (advance t s))) := by
  have hstate' : ((laneOf s lane.val).state == .adapt || (laneOf s lane.val).state == .probe || (laneOf s lane.val).state == .up) = true := by
    simpa [or_assoc] using hstate
  simp only [execLossOfLock, onEvent, advance_lanePowered, advance_laneOf, hon, hstate', Bool.not_true, Bool.or_self, Bool.false_eq_true, if_false]
  rfl

theorem execRelockTimeout_fails {m : Nat} (hlost : (laneOf s lane.val).lostAt = some m) (hhunt : (laneOf s lane.val).state = .hunt)
    (hlate : m + 100000 ≤ (advance t s).now) :
    execRelockTimeout t lane s = .next (laneDown lane.val (judgeFailing lane.val (modLane lane.val lateLane (advance t s)))) := by
  simp only [execRelockTimeout, onEvent, advance_lanePowered, advance_laneOf, hon, hlost, hhunt, decide_eq_true hlate, beq_self_eq_true,
    Bool.and_self, if_true]
  rfl

end

/-! ### Figure of merit (R280, R281, R284) -/

/-- The invalid headers of the last second with those of a sweep (R284). -/
def sweptHdrs (now hdrs : Nat) (l : Lane) : List (Nat × Nat) :=
  (l.hdrAt.filter fun h => decide (now < h.1 + 1000000000)) ++ (if hdrs = 0 then [] else [(now, hdrs)])

theorem le_sum_sweptHdrs (now hdrs : Nat) (l : Lane) : hdrs ≤ ((sweptHdrs now hdrs l).map (·.2)).sum := by
  unfold sweptHdrs
  split
  · omega
  · simp

/-- A lane with the figure of merit and the headers of a sweep. -/
def sweptLane (now fom hdrs : Nat) (l : Lane) : Lane :=
  { l with
    fom := min 1023 fom, fomLow := min l.fomLow (min 1023 fom), badHdrs := l.badHdrs + hdrs, hdrAt := sweptHdrs now hdrs l,
    lowFrom := if min 1023 fom < 15 then some (l.lowFrom.getD now) else none,
    margFrom := if min 1023 fom < 30 then some (l.margFrom.getD now) else none,
    marginal := l.marginal && decide (min 1023 fom < 30) }

/-- A lane with the settings of a trial that is one step away and 2 mV better (R281). -/
def triedLane (f : Nat) (trial : Option EqTrial) (l : Lane) : Lane :=
  match trial with
  | some x => if l.state == .up && oneStep l x && decide (f + 2 ≤ x.fom) then { l with ctle := x.ctle, gain := x.gain, dfe := x.dfe } else l
  | none => l

/-- A trial changes at most the settings of the equalizer. -/
theorem triedLane_settings (f : Nat) (trial : Option EqTrial) (l : Lane) : ∃ c g d, triedLane f trial l = { l with ctle := c, gain := g, dfe := d } := by
  unfold triedLane
  split
  · split <;> exact ⟨_, _, _, rfl⟩
  · exact ⟨_, _, _, rfl⟩

theorem triedLane_takes {f : Nat} {x : EqTrial} {l : Lane} (hup : l.state = .up) (hstep : oneStep l x = true) (hbetter : f + 2 ≤ x.fom) :
    triedLane f (some x) l = { l with ctle := x.ctle, gain := x.gain, dfe := x.dfe } := by
  simp [triedLane, hup, hstep, hbetter]

/-- A lane after a sweep and its trial. -/
def sweepLane (now fom hdrs : Nat) (trial : Option EqTrial) (l : Lane) : Lane := triedLane (min 1023 fom) trial (sweptLane now fom hdrs l)

/-- The state once a sweep's figures and its trial are taken. -/
def sweptState (n fom hdrs : Nat) (trial : Option EqTrial) (s : State) : State :=
  modLane n (fun _ => sweepLane s.now fom hdrs trial (laneOf s n)) s

theorem laneOf_sweptState (n : Fin 36) (fom hdrs : Nat) (trial : Option EqTrial) (s : State) :
    laneOf (sweptState n.val fom hdrs trial s) n.val = sweepLane s.now fom hdrs trial (laneOf s n.val) := laneOf_modLane n _ s

/-- Whether a lane is newly marginal. -/
def sweepMarginal (l : Lane) (now : Nat) : Bool := !l.marginal && (match l.margFrom with | some m => decide (m + 10000000 ≤ now) | none => false)

/-- Whether the figure of merit or the headers of a lane make it failing. -/
def sweepBad (l : Lane) (hs : List (Nat × Nat)) (now : Nat) : Bool :=
  (match l.lowFrom with | some m => decide (m + 1000000 ≤ now) | none => false) || decide (1000 ≤ (hs.map (·.2)).sum)

/-- A lane that has become marginal is reported. -/
def reportSweep (n f : Nat) (l : Lane) (s : State) : State :=
  if sweepMarginal l s.now then notify Notice.laneMarginal (put f 16 + n) (modLane n (fun l => { l with marginal := true }) s) else s

/-- What follows a sweep that left the lane as `l`. -/
def judgeSweep (n f : Nat) (hs : List (Nat × Nat)) (l : Lane) (s : State) : State :=
  if isEthLane n then s
  else if sweepBad l hs s.now && !l.failing then judgeFailing n (reportSweep n f l s) else reportSweep n f l s

theorem reportSweep_marks (n : Fin 36) (f : Nat) (l : Lane) (s : State) :
    ∃ m, laneOf (reportSweep n.val f l s) n.val = { laneOf s n.val with marginal := m } := by
  unfold reportSweep
  split
  · exact ⟨true, (laneOf_of_lanesProductsAndWell (notify_lanesProductsAndWell _ _ _) _).trans (laneOf_modLane n _ s)⟩
  · exact ⟨_, rfl⟩

theorem judgeSweep_judges (n : Fin 36) (f : Nat) (hs : List (Nat × Nat)) (l : Lane) (s : State) :
    ∃ m, JudgedFrom { laneOf s n.val with marginal := m } (laneOf (judgeSweep n.val f hs l s) n.val) := by
  unfold judgeSweep
  split
  · exact ⟨_, .refl _⟩
  · obtain ⟨m, hmark⟩ := reportSweep_marks n f l s
    refine ⟨m, hmark ▸ ?_⟩
    split
    · exact judgeFailing_judges n _
    · exact .refl _

/-- A lane with 1,000 invalid headers in a second is failing after the sweep, if it was not before (R284). -/
theorem judgeSweep_failing {n : Fin 36} {f : Nat} {hs : List (Nat × Nat)} {l : Lane} {s : State} (hl : laneOf s n.val = l) (hlow : n.val < 32)
    (hmany : 1000 ≤ (hs.map (·.2)).sum) : (laneOf (judgeSweep n.val f hs l s) n.val).failing = true := by
  have hbad : sweepBad l hs s.now = true := by simp [sweepBad, hmany]
  rw [judgeSweep, isEthLane_of_lt hlow, if_neg Bool.false_ne_true, hbad, Bool.true_and]
  rcases hfailing : l.failing with _ | _
  · exact judgeFailing_failing hlow _
  · obtain ⟨m, hmark⟩ := reportSweep_marks n f l s
    rw [Bool.not_true, if_neg Bool.false_ne_true, hmark, hl]
    exact hfailing

theorem execFomSweep_sweeps {t : Nat} {lane : Fin 36} {s : State} (hon : lanePowered s lane.val = true) (fom hdrs : Nat) (trial : Option EqTrial)
    (hidle : (laneOf s lane.val).state ≠ .idle) (hhunt : (laneOf s lane.val).state ≠ .hunt) :
    execFomSweep t lane fom hdrs trial s = .next (judgeSweep lane.val (min 1023 fom) (sweptHdrs (advance t s).now hdrs (laneOf s lane.val))
      (sweepLane (advance t s).now fom hdrs trial (laneOf s lane.val)) (sweptState lane.val fom hdrs trial (advance t s))) := by
  simp only [execFomSweep, onEvent, advance_lanePowered, advance_laneOf, hon, beq_eq_false_iff_ne.2 hidle, beq_eq_false_iff_ne.2 hhunt,
    Bool.not_true, Bool.or_self, Bool.false_eq_true, if_false]
  rfl

/-- A sweep leaves the lane with its figures and its trial, marginal or not, and judged. -/
theorem execFomSweep_judges {t : Nat} {lane : Fin 36} {s : State} (hon : lanePowered s lane.val = true) (fom hdrs : Nat) (trial : Option EqTrial)
    (hidle : (laneOf s lane.val).state ≠ .idle) (hhunt : (laneOf s lane.val).state ≠ .hunt) :
    ∃ s' m, execFomSweep t lane fom hdrs trial s = .next s' ∧
      JudgedFrom { sweepLane (advance t s).now fom hdrs trial (laneOf s lane.val) with marginal := m } (laneOf s' lane.val) ∧
      (lane.val < 32 → 1000 ≤ hdrs → (laneOf s' lane.val).failing = true) := by
  have hl := laneOf_sweptState lane fom hdrs trial (advance t s)
  obtain ⟨m, hjudged⟩ := judgeSweep_judges lane (min 1023 fom) (sweptHdrs (advance t s).now hdrs (laneOf s lane.val))
    (sweepLane (advance t s).now fom hdrs trial (laneOf s lane.val)) (sweptState lane.val fom hdrs trial (advance t s))
  rw [hl] at hjudged
  exact ⟨_, m, execFomSweep_sweeps hon fom hdrs trial hidle hhunt, hjudged,
    fun hlow hmany => judgeSweep_failing hl hlow (Nat.le_trans hmany (le_sum_sweptHdrs _ _ _))⟩

/-! ### Spares and Moves (R285, R287) -/

theorem execSpareRateHuntSwitch_switches {t : Nat} {lane : Fin 36} {s : State} (hon : lanePowered s lane.val = true) (hspare : 34 ≤ lane.val)
    (hfree : (laneOf s lane.val).covers = none) (hin : (laneOf s lane.val).out = false)
    (hdown : (laneOf s lane.val).state ≠ .up) (hdue : (laneOf s lane.val).huntAt + 2000000 ≤ (advance t s).now) :
    execSpareRateHuntSwitch t lane s = .next (huntLane lane.val (modLane lane.val (fun l => { l with fast := !l.fast, kept := false }) (advance t s))) := by
  simp [execSpareRateHuntSwitch, onEvent, hon, Nat.not_lt.2 hspare, hfree, hin, hdown, Nat.not_lt.2 hdue]

section
variable {t num : Nat} {lane failing : Fin 36} {spare : Fin 2} {s : State} (hport : within 24 32 lane.val = true) (hon : lanePowered s lane.val = true)
include hport hon

theorem execMoveBlockReceive_refused : execMoveBlockReceive t lane failing spare false num s = .next { advance t s with
    lan.moving := s.lan.moving.filter fun m => m.1 != lanePort lane.val } := by
  simp [execMoveBlockReceive, onEvent, hport, hon]

theorem execMoveBlockReceive_own {m : Nat × Nat × Nat} (hmine : s.lan.moving.find? (fun m => m.1 == lanePort lane.val) = some m)
    (hnum : m.2.2 % 256 = num % 256) : execMoveBlockReceive t lane failing spare true num s = .next (moveUrara m.2.1 (advance t s)) := by
  simp [execMoveBlockReceive, onEvent, hport, hon, hmine, hnum]

/-- A Move of the far end, for the lane `n` of the port, is answered by whether the lane has a ready spare. -/
theorem execMoveBlockReceive_answers {n : Nat} (hnone : s.lan.moving.find? (fun m => m.1 == lanePort lane.val) = none)
    (hlane : [24 + 2 * lanePort lane.val, 25 + 2 * lanePort lane.val].find? (fun n => (laneOf s n).farNode.any fun f => f.2.2 == failing.val) = some n) :
    execMoveBlockReceive t lane failing spare true num s = .next (
      if (readySpare s n).isSome then moveUrara n { advance t s with
        outbox := .lane lane.val 0x66 (moveValue n true num) :: s.outbox,
        lan.moveN := s.lan.moveN.mapIdx fun i m => if i = lanePort lane.val then num else m }
      else { advance t s with outbox := .lane lane.val 0x66 (moveValue n false num) :: s.outbox }) := by
  simp only [execMoveBlockReceive, onEvent, advance_lanePowered, advance_laneOf, advance_lan, advance_readySpare, hport, hon, hnone, hlane,
    Bool.not_true, Bool.or_self, Bool.false_eq_true, if_false]
  rfl

end

/-! ### The statement about repair -/

/-- Settles O28: what a judgement leaves of a lane is said once; a loss, a relock that takes too long and a sweep are then each one judgement. -/
theorem lanesAreRepaired : Obligations.LanesAreRepaired := by
  unfold Obligations.LanesAreRepaired
  simp only [← laneOf_fin]
  refine ⟨fun t lane s hon => ⟨fun hdrs hstate => ?_, fun m hlost hhunt hlate => ?_, fun fom hdrs trial hidle hhunt => ?_,
    fun hspare hfree hin hdown hdue => ?_⟩, fun t num lane failing spare s hlo hhi hon => ?_⟩
  · refine ⟨_, execLossOfLock_judges hon hdrs hstate, ?_⟩
    rw [laneOf_laneDown, laneDown_well]
    split
    · obtain ⟨f, o, hlane⟩ := judgeFailing_judges lane (lostState lane.val hdrs (advance t s))
      rw [judgeFailing_well, lostState_well]
      refine ⟨?_, ?_, ?_, ?_, ?_, fun _ hlow => judgeFailing_failing hlow _, rfl⟩ <;> rw [hlane, laneOf_lostState] <;> rfl
    · next hfew =>
      rw [laneOf_lostState, lostState_well]
      refine ⟨rfl, rfl, rfl, rfl, rfl, fun hmany => absurd ?_ hfew, rfl⟩
      simpa [lossesOf] using Nat.succ_le_succ hmany
  · obtain ⟨f, o, hlane⟩ := judgeFailing_judges lane (modLane lane.val lateLane (advance t s))
    refine ⟨_, execRelockTimeout_fails hon hlost hhunt hlate, ?_⟩
    rw [laneOf_laneDown, laneDown_well, judgeFailing_well, modLane_well]
    refine ⟨?_, ?_, fun hlow => judgeFailing_failing hlow _, rfl⟩ <;> rw [hlane, laneOf_modLane] <;> rfl
  · obtain ⟨s', m, heq, ⟨f, o, hlane⟩, hfailing⟩ := execFomSweep_judges (t := t) hon fom hdrs trial hidle hhunt
    rw [sweepLane] at hlane
    obtain ⟨c, g, d, hsettings⟩ := triedLane_settings (min 1023 fom) trial (sweptLane (advance t s).now fom hdrs (laneOf s lane.val))
    refine ⟨s', heq, ?_, ?_, ?_, ?_, fun x htrial hup hstep hbetter => ?takes, hfailing⟩
    case takes =>
      rw [hlane, htrial, triedLane_takes (l := sweptLane _ _ _ _) hup hstep hbetter]
      exact ⟨rfl, rfl, rfl⟩
    all_goals rw [hlane, hsettings]; rfl
  · refine ⟨_, execSpareRateHuntSwitch_switches hon hspare hfree hin hdown hdue, ?_⟩
    rw [laneOf_huntLane, laneOf_modLane]
    refine ⟨rfl, rfl, rfl, ?_⟩
    rw [huntLane_frame, modLane_fin]
  · have hport : within 24 32 lane.val = true := by simp [within, hlo, hhi]
    refine ⟨execMoveBlockReceive_refused (spare := spare) hport hon, fun m => execMoveBlockReceive_own (spare := spare) hport hon, fun n hnone hlane => ?_⟩
    have heq := execMoveBlockReceive_answers (t := t) (num := num) (spare := spare) hport hon hnone hlane
    exact ⟨fun hready => heq.trans (by rw [if_pos hready]), fun hready => heq.trans (by rw [hready]; rfl)⟩

end Sys2Proof.Machine
end

section
/-!
How records become durable, are closed in blocks and leave on the record stream, and the statement about that.
-/
namespace Sys2Proof.Machine

/-! ### The delivery of a block (R313, R315) -/

/-- The rings that a block is still to be given to. -/
def ringsOwed (b : RecBlock) (s : State) : List (Fin 16) :=
  (List.finRange 16).filter fun r => s.bar.rings[r].enable && s.bar.rings[r].role == .recordsOut && !bit b.rings r.val

/-- The state once a block has gone to its rings and its ports, before it is marked. -/
def blockSent (b : RecBlock) (s : State) : State :=
  (List.finRange 2).foldl (fun s p => if owes s b p then sendBlock p b s else s)
    ((ringsOwed b s).foldl (fun s r => queueUnits r.val [{ data := b.sheaf, block := some b.seq }] s) s)

/-- The marks that a delivery leaves on its block: the moment and the rings. -/
def sentMark (now : Nat) (rings : List (Fin 16)) (x : RecBlock) : RecBlock :=
  { x with sentAt := now, rings := rings.foldl (fun m r => m ||| 2 ^ r.val) x.rings }

theorem deliver_eq (b : RecBlock) (s : State) : deliver b s = { blockSent b s with
    tal.blocks := mapWhere (fun x => x.seq == b.seq) (sentMark (blockSent b s).now (ringsOwed b s)) (blockSent b s).tal.blocks } := rfl

/-- The Tally, the Ledger and the commands of a state. -/
def tallyLedgerAndCommands (s : State) : Tally × Ledger × Cmd := (s.tal, s.led, s.cmd)

theorem queueUnits_tallyLedgerAndCommands (r : Nat) (us : List OutUnit) (s : State) :
    tallyLedgerAndCommands (queueUnits r us s) = tallyLedgerAndCommands s := by
  unfold queueUnits
  split <;> rfl

theorem sendBlock_tallyLedgerAndCommands (p : Fin 2) (b : RecBlock) (s : State) :
    tallyLedgerAndCommands (sendBlock p b s) = tallyLedgerAndCommands s := by
  unfold sendBlock
  dsimp only
  split <;> rfl

theorem blockSent_tallyLedgerAndCommands (b : RecBlock) (s : State) : tallyLedgerAndCommands (blockSent b s) = tallyLedgerAndCommands s := by
  refine (foldl_keeps tallyLedgerAndCommands (fun s p => ?_) _ _).trans
    (foldl_keeps tallyLedgerAndCommands (fun s (r : Fin 16) => queueUnits_tallyLedgerAndCommands r.val _ s) _ s)
  split
  · exact sendBlock_tallyLedgerAndCommands p b s
  · rfl

@[simp] theorem blockSent_tal (b : RecBlock) (s : State) : (blockSent b s).tal = s.tal := congrArg (·.1) (blockSent_tallyLedgerAndCommands b s)
@[simp] theorem deliver_led (b : RecBlock) (s : State) : (deliver b s).led = s.led := congrArg (·.2.1) (blockSent_tallyLedgerAndCommands b s)
@[simp] theorem deliver_cmd (b : RecBlock) (s : State) : (deliver b s).cmd = s.cmd := congrArg (·.2.2) (blockSent_tallyLedgerAndCommands b s)

theorem deliver_tal (b : RecBlock) (s : State) : (deliver b s).tal = { s.tal with
    blocks := mapWhere (fun x => x.seq == b.seq) (sentMark (blockSent b s).now (ringsOwed b s)) s.tal.blocks } := by
  rw [← blockSent_tal b s]
  rfl

/-- A delivered block is among the blocks under its sequence and with its bytes. -/
theorem deliver_block {b : RecBlock} {s : State} (h : b ∈ s.tal.blocks) : ∃ x ∈ (deliver b s).tal.blocks, x.seq = b.seq ∧ x.sheaf = b.sheaf := by
  rw [deliver_tal]
  refine ⟨sentMark (blockSent b s).now (ringsOwed b s) b, List.mem_map.2 ⟨b, h, ?_⟩, rfl, rfl⟩
  rw [if_pos (beq_self_eq_true b.seq)]

/-! ### Closing and sending again (R314, R315) -/

/-- The entries that the next block takes. -/
def nextEntries (s : State) : List (List Byte × List (Nat × Nat)) := fitEntries (65536 - signatureSize) s.tal.entries

/-- The decompressed bytes of the next block. -/
def nextBytes (s : State) : List Byte := blockBytes s.tal.blockSeq s.tal.prevHash (nextEntries s)

/-- The next block as it closes now, its checking decode good. -/
def nextBlock (s : State) : RecBlock :=
  { seq := s.tal.blockSeq, parts := (nextEntries s).flatMap (·.2), sheaf := recordBlock true true (nextBytes s), sentAt := s.now }

/-- The state in which a block has closed, before its delivery. -/
def blockClosed (s : State) : State :=
  { s with
    tal.blockSeq := s.tal.blockSeq + 1, tal.prevHash := Config.sha384 (nextBytes s), tal.entries := s.tal.entries.drop (nextEntries s).length,
    tal.blockAt := s.now, tal.blocks := s.tal.blocks ++ [nextBlock s] }

theorem execRecordBlockClose_closes {t : Nat} {s : State} (hdue : blockCloses (advance t s) = true) (hcpu : domOn s 2 = true) :
    execRecordBlockClose t true s = .next (deliver (nextBlock (advance t s)) (blockClosed (advance t s))) := by
  have hcpu' : domOn (advance t s) 2 = true := hcpu
  simp [execRecordBlockClose, onEvent, hdue, hcpu', nextBlock, blockClosed, nextEntries, nextBytes]

theorem nextBlock_mem_blockClosed (s : State) : nextBlock s ∈ (blockClosed s).tal.blocks := by simp [blockClosed]

theorem execRecordBlockResend_delivers {t : Nat} {b : RecBlock} {s : State} (hfound : s.tal.blocks.find? (fun x => x.seq == b.seq) = some b)
    (hdue : b.sentAt + 100000000 ≤ t) (hcpu : domOn s 2 = true) : execRecordBlockResend t b.seq s = .next (deliver b (advance t s)) := by
  have hcpu' : domOn (advance t s) 2 = true := hcpu
  have hdue' : b.sentAt + 100000000 ≤ (advance t s).now := Nat.le_trans hdue (Nat.le_max_right s.now t)
  simp [execRecordBlockResend, onEvent, hfound, hcpu', hdue']

/-! ### Acknowledgement (R315, R316) -/

/-- Every block below a sequence is acknowledged at a port. -/
def AckedBelow (p upto : Nat) (s : State) : Prop := ∀ b ∈ s.tal.blocks, b.seq < upto → bit b.acked p = true

/-- The Ledger, the commands and the streams of a state. -/
def ledgerCommandsAndStreams (s : State) : Ledger × Cmd × Vector Stream 16 := (s.led, s.cmd, s.tal.streams)

theorem judgeHigh_changes (s : State) : ∃ c b o h, judgeHigh s = { s with cri := c, bar := b, outbox := o, tal.highSent := h } := by
  unfold judgeHigh
  dsimp only
  split
  · rw [notify_frame]; exact ⟨_, _, _, _, rfl⟩
  · split <;> exact ⟨_, _, _, _, rfl⟩

theorem markSent_changes (parts : List (Nat × Nat)) (s : State) :
    ∃ c b o h j, markSent parts s = { s with cri := c, bar := b, outbox := o, tal.highSent := h, tal.journal := j } := by
  unfold markSent
  obtain ⟨c, b, o, h, heq⟩ := judgeHigh_changes { s with
    tal.journal := s.tal.journal.map fun r => { r with sent := parts.foldl (fun m p => if p.1 = r.num then m ||| 2 ^ p.2 else m) r.sent } }
  exact ⟨c, b, o, h, _, heq⟩

theorem markSent_blocks (parts : List (Nat × Nat)) (s : State) : (markSent parts s).tal.blocks = s.tal.blocks := by
  obtain ⟨_, _, _, _, _, h⟩ := markSent_changes parts s
  rw [h]

theorem markSent_ledgerCommandsAndStreams (parts : List (Nat × Nat)) (s : State) :
    ledgerCommandsAndStreams (markSent parts s) = ledgerCommandsAndStreams s := by
  obtain ⟨_, _, _, _, _, h⟩ := markSent_changes parts s
  rw [h]; rfl

theorem blockExported_ledgerCommandsAndStreams (seq : Nat) (s : State) :
    ledgerCommandsAndStreams (blockExported seq s) = ledgerCommandsAndStreams s := by
  unfold blockExported
  split
  · rfl
  · split
    · rfl
    · exact markSent_ledgerCommandsAndStreams _ _

theorem AckedBelow.dropBlocks {p upto : Nat} {s : State} (h : AckedBelow p upto s) : AckedBelow p upto (dropBlocks s) :=
  fun b hb => h b (List.mem_filter.1 hb).1

theorem AckedBelow.blockExported {p upto : Nat} {s : State} (seq : Nat) (h : AckedBelow p upto s) : AckedBelow p upto (blockExported seq s) := by
  unfold Machine.blockExported
  split
  · exact h
  · split
    · exact h
    · refine AckedBelow.dropBlocks fun b hb => ?_
      rw [markSent_blocks] at hb
      obtain ⟨x, hx, rfl⟩ := List.mem_map.1 hb
      split <;> exact h x hx

/-- The blocks below a sequence acknowledged at a port. -/
def acknowledged (p upto : Nat) (s : State) : State :=
  { s with tal.blocks := mapWhere (fun b => decide (b.seq < upto)) (fun b => { b with acked := b.acked ||| 2 ^ p }) s.tal.blocks }

theorem acknowledged_ackedBelow (p upto : Nat) (s : State) : AckedBelow p upto (acknowledged p upto s) := fun b hb => by
  obtain ⟨x, -, rfl⟩ := List.mem_map.1 hb
  split
  · simp [bit_eq_testBit]
  · next hnot => exact fun hlt => absurd hlt (by simpa using hnot)

theorem execRecordStreamAck_exports {t upto : Nat} {p : Fin 2} {s : State} (hport : recordPort s p = true) :
    execRecordStreamAck t p upto s = .next (dropBlocks (((s.tal.blocks.filter fun b => decide (b.seq < upto)).map (·.seq)).foldl
      (fun s q => blockExported q s) (acknowledged p.val upto (advance t s)))) := by
  have hport' : recordPort (advance t s) p = true := hport
  simp [execRecordStreamAck, onEvent, hport', acknowledged]

/-! ### JOURNAL_READ (R316) -/

/-- The records that a JOURNAL_READ names. -/
def recordsRead (s : State) (c : Slot) : List Rec := s.tal.journal.filter fun r => within (parN c 0) (parN c 1) r.num

/-- The blocks that they leave in. -/
def blocksRead (s : State) (c : Slot) : List (List Byte) :=
  readBlocks (((recordsRead s c).flatMap recordEntries).length + 1) 0 [] ((recordsRead s c).flatMap recordEntries)

section
variable {t cid : Nat} {c : Slot} {s : State} (h : Starts Op.journalRead cid c s) (hring : outRing s (parN c 2) = true) (hle : parN c 0 ≤ parN c 1)
include h hring hle

theorem execJournalRead_starts : execJournalRead t cid s = .next (
    if (blocksRead s c).isEmpty then answer c [0] (startedAt t cid s)
    else queueUnits (parN c 2) ((blocksRead s c).zipIdx.map fun b =>
      { data := b.1, cid := c.cid, final := decide (b.2 + 1 = (blocksRead s c).length), results := [word (recordsRead s c).length] })
        (startedAt t cid s)) := by
  have hring' : outRing (startedAt t cid s) (parN c 2) = true := hring
  rw [execJournalRead, onStart_starts h]
  simp only [hring', Bool.not_true, Bool.false_eq_true, if_false, Nat.not_lt.2 hle]
  rfl

theorem execJournalRead_nothing (hnone : recordsRead s c = []) : execJournalRead t cid s = .next (answer c [0] (startedAt t cid s)) := by
  rw [execJournalRead_starts h hring hle, blocksRead, hnone]
  rfl

theorem execJournalRead_blocks (hsome : blocksRead s c ≠ []) : execJournalRead t cid s = .next (queueUnits (parN c 2)
    ((blocksRead s c).zipIdx.map fun b =>
      { data := b.1, cid := c.cid, final := decide (b.2 + 1 = (blocksRead s c).length), results := [word (recordsRead s c).length] })
    (startedAt t cid s)) := by
  rw [execJournalRead_starts h hring hle, if_neg (mt List.isEmpty_iff.1 hsome)]

end

/-! ### Durability (R14, R311) -/

/-- A record is durable where its number is among those of some records. -/
def madeDurable (rs : List Rec) (x : Rec) : Rec := if rs.any (fun r => x.num == r.num) then { x with durable := true } else x

theorem madeDurable_cons (r : Rec) (rs : List Rec) (x : Rec) :
    madeDurable rs (if x.num == r.num then { x with durable := true } else x) = madeDurable (r :: rs) x := by
  by_cases hr : x.num == r.num <;> by_cases hrs : rs.any (fun r => x.num == r.num) <;> simp [madeDurable, hr, hrs]

theorem foldl_durable (rs : List Rec) (s : State) : rs.foldl (fun s r => modRec r.num (fun r => { r with durable := true }) s) s =
    { s with tal.journal := s.tal.journal.map (madeDurable rs) } := by
  induction rs generalizing s with
  | nil => rw [show madeDurable [] = id from rfl, List.map_id]; rfl
  | cons r rs ih =>
    rw [List.foldl_cons, ih, modRec, mapWhere]
    simp only [List.map_map]
    rw [← funext (madeDurable_cons r rs)]
    rfl

theorem madeDurable_num (rs : List Rec) (x : Rec) : (madeDurable rs x).num = x.num := by unfold madeDurable; split <;> rfl
theorem madeDurable_product (rs : List Rec) (x : Rec) : (madeDurable rs x).product = x.product := by unfold madeDurable; split <;> rfl

theorem madeDurable_durable {rs : List Rec} {x : Rec} (h : x ∈ rs) : (madeDurable rs x).durable = true := by
  have hany : rs.any (fun r => x.num == r.num) = true := List.any_eq_true.2 ⟨x, h, beq_self_eq_true _⟩
  rw [madeDurable, if_pos hany]

theorem execIssueDurable_durable {t product : Nat} {s : State} (hsome : recsOf s product ≠ [])
    (hall : ∀ r ∈ recsOf s product, bit r.local_ 0 = true ∧ (bit r.peer 0 = true ∨ replicates s = false)) :
    execIssueDurable t product s = .next { advance t s with tal.journal := s.tal.journal.map (madeDurable (recsOf s product)) } := by
  have hdurable : (recsOf (advance t s) product).all (issueDurable (advance t s)) = true := List.all_eq_true.2 fun r hr => by
    obtain ⟨hlocal, hpeer⟩ := hall r hr
    have hpeer' : bit r.peer 0 = true ∨ replicates (advance t s) = false := hpeer
    simp [issueDurable, hlocal, hpeer']
  have hempty : (recsOf (advance t s) product).isEmpty = false := List.isEmpty_eq_false_iff.2 hsome
  simp only [execIssueDurable, onEvent, hempty, hdurable, Bool.not_true, Bool.or_self, Bool.false_eq_true, if_false]
  rw [foldl_durable]
  rfl

theorem execOverlayRender_takes {t k : Nat} {r : Rec} {s : State} (hfound : recOf s r.num = some r) (hslot : freeSlot s = some k)
    (hdurable : r.durable = true) (hnone : r.slot = none) (hopen : r.final = none) (hqueued : (productOf s r.product).isSome = true) :
    execOverlayRender t r.num s = .next { advance t s with
      tal.journal := mapWhere (fun x => x.num == r.num) (fun x => { x with slot := some k }) s.tal.journal,
      tal.slots := s.tal.slots ++ [(k, r.num)] } := by
  have hfound' : recOf (advance t s) r.num = some r := hfound
  have hslot' : freeSlot (advance t s) = some k := hslot
  have hqueued' : (productOf (advance t s) r.product).isNone = false := Option.isNone_eq_false_iff.2 hqueued
  simp only [execOverlayRender, onEvent, hfound', hslot', hdurable, hnone, hopen, hqueued', Option.isSome_none, Bool.not_true, Bool.or_self,
    Bool.false_eq_true, if_false]
  rfl

/-- Settles O12: a closed block is delivered under its sequence, blocks that count as exported only leave, and ISSUE_DURABLE marks every record of its product. -/
theorem recordsAreExported : Obligations.RecordsAreExported := by
  refine ⟨⟨fun t s hdue hcpu => ?_, fun t upto p s hport => ?_, fun t b s hfound hdue hcpu => execRecordBlockResend_delivers hfound hdue hcpu,
    fun t cid c s h hring hle => ⟨fun hnone => execJournalRead_nothing h hring hle (List.filter_eq_nil_iff.2 fun r hr => ?_), ?_⟩⟩,
    fun t s => ⟨fun product hsome hall => ?_, fun r k hfound hslot hdurable hnone hopen hqueued =>
      execOverlayRender_takes hfound hslot hdurable hnone hopen hqueued⟩⟩
  · refine ⟨_, execRecordBlockClose_closes hdue hcpu, ?_, ?_, ?_, deliver_block (nextBlock_mem_blockClosed _), ?_, deliver_led _ _, deliver_cmd _ _⟩
    all_goals rw [deliver_tal]; rfl
  · have hacked : AckedBelow p upto (((s.tal.blocks.filter fun b => decide (b.seq < upto)).map (·.seq)).foldl
        (fun s q => blockExported q s) (acknowledged p.val upto (advance t s))) :=
      foldl_rel (R := fun s u => AckedBelow p upto s → AckedBelow p upto u) (fun _ => id) (fun h k => k ∘ h)
        (fun s q => AckedBelow.blockExported q) _ _ (acknowledged_ackedBelow _ _ _)
    have hkept := foldl_keeps ledgerCommandsAndStreams (fun s q => blockExported_ledgerCommandsAndStreams q s)
      ((s.tal.blocks.filter fun b => decide (b.seq < upto)).map (·.seq)) (acknowledged p.val upto (advance t s))
    exact ⟨_, execRecordStreamAck_exports hport, hacked.dropBlocks, congrArg (·.1) hkept, congrArg (·.2.1) hkept, congrArg (·.2.2) hkept⟩
  · simpa [within] using hnone r hr
  · rintro es blocks rfl rfl hsome
    exact execJournalRead_blocks h hring hle hsome
  · refine ⟨_, execIssueDurable_durable hsome hall, fun r hr hproduct => ?_, rfl, ?_⟩
    · obtain ⟨x, hx, rfl⟩ := List.mem_map.1 hr
      rw [madeDurable_product] at hproduct
      exact madeDurable_durable (List.mem_filter.2 ⟨hx, beq_iff_eq.2 hproduct⟩)
    · simp [madeDurable_num]

end Sys2Proof.Machine
end

section
/-!
Pools with their grants, the serials drawn ahead, and calendar plans: what POOL_GRANT, PERMUTATION_TABLE_DONE, SERIAL_LOOKAHEAD, POOL_STATUS and
CALENDAR_LOAD do.
-/
namespace Sys2Proof.Machine

/-! ### What the end of a command and a message to the peer leave of the Tally -/

@[simp] theorem finish_tal (cid status fault : Nat) (ws : List W64) (s : State) : (finish cid status fault ws s).tal = s.tal := by rw [finish_frame]

theorem replicate_changes (payload : List W64) (s : State) : ∃ u o w, replicate payload s = { s with ura := u, outbox := o, twn := w } := by
  unfold replicate
  split
  · rw [uraraSend_frame]; exact ⟨_, _, _, rfl⟩
  · exact ⟨_, _, _, rfl⟩

@[simp] theorem replicate_tal (payload : List W64) (s : State) : (replicate payload s).tal = s.tal := by
  obtain ⟨_, _, _, h⟩ := replicate_changes payload s
  rw [h]

@[simp] theorem replicate_well (payload : List W64) (s : State) : (replicate payload s).well = s.well := by
  obtain ⟨_, _, _, h⟩ := replicate_changes payload s
  rw [h]

/-! ### Pools (R299, R301) -/

theorem poolOf_of_pools {s u : State} (h : u.tal.pools = s.tal.pools) (n : Nat) : poolOf u n = poolOf s n := by rw [poolOf, h, poolOf]

/-- A pool changed, when it keeps its ID. -/
def poolChange (n : Nat) (f : Pool → Pool) (p : Pool) : Pool := if p.id == n then f p else p

theorem poolOf_modPool {f : Pool → Pool} (hf : ∀ p, (f p).id = p.id) (n m : Nat) (s : State) :
    poolOf (modPool n f s) m = (poolOf s m).map (poolChange n f) := by
  have hid : ∀ p, (poolChange n f p).id = p.id := fun p => by
    unfold poolChange
    split
    · exact hf p
    · rfl
  show (s.tal.pools.map (poolChange n f)).find? (fun p => p.id == m) = _
  rw [List.find?_map]
  simp only [Function.comp_def, hid]
  rfl

theorem poolOf_modPool_same {f : Pool → Pool} (hf : ∀ p, (f p).id = p.id) {n : Nat} {p : Pool} {s : State} (h : poolOf s n = some p) :
    poolOf (modPool n f s) n = some (f p) := by
  rw [poolOf_modPool hf, h, Option.map_some, poolChange, if_pos (List.find?_some h)]

/-- POOL_LOW changes one mark of the pool, events and interrupts; nothing else. -/
theorem judgePool_changes (n : Nat) (s : State) : ∃ c b o ps, judgePool n s = { s with cri := c, bar := b, outbox := o, tal.pools := ps } ∧
    ∀ p, poolOf s n = some p → ∃ low, poolOf (judgePool n s) n = some { p with lowSent := low } := by
  have hmarked : ∀ (low : Bool) p, poolOf s n = some p → poolOf (modPool n (fun p => { p with lowSent := low }) s) n = some { p with lowSent := low } :=
    fun low p h => poolOf_modPool_same (f := fun p => { p with lowSent := low }) (fun _ => rfl) h
  unfold judgePool
  split
  · next hnone => exact ⟨_, _, _, _, rfl, fun p h => absurd h (by rw [hnone]; nofun)⟩
  · split
    · rw [notify_frame]
      exact ⟨_, _, _, _, rfl, fun p h => ⟨true, hmarked true p h⟩⟩
    · split
      · exact ⟨_, _, _, _, rfl, fun p h => ⟨false, hmarked false p h⟩⟩
      · exact ⟨_, _, _, _, rfl, fun p h => ⟨p.lowSent, h⟩⟩

/-! ### POOL_GRANT (R298, R299) -/

/-- A grant joins its pool, which comes to be with its first grant. -/
def grantJoined (pool : Nat) (g : Grant) (s : State) : State :=
  match poolOf s pool with
  | some _ => modPool pool (fun p => { p with lastNo := g.no, grants := p.grants ++ [g] }) s
  | none => { s with tal.pools := s.tal.pools ++ [{ id := pool, lastNo := g.no, grants := [g] }] }

theorem grantJoined_changes (pool : Nat) (g : Grant) (s : State) : ∃ ps, grantJoined pool g s = { s with tal.pools := ps } := by
  unfold grantJoined
  split <;> exact ⟨_, rfl⟩

theorem poolOf_grantJoined (pool : Nat) (g : Grant) (s : State) :
    ∃ p, poolOf (grantJoined pool g s) pool = some p ∧ g ∈ p.grants ∧ p.lastNo = g.no := by
  unfold grantJoined
  split
  · next p hp =>
    exact ⟨_, poolOf_modPool_same (f := fun p => { p with lastNo := g.no, grants := p.grants ++ [g] }) (fun _ => rfl) hp, by simp, rfl⟩
  · next hnone =>
    refine ⟨{ id := pool, lastNo := g.no, grants := [g] }, ?_, by simp, rfl⟩
    rw [poolOf] at hnone
    simp [poolOf, hnone]

theorem acceptGrant_eq (pool : Nat) (g : Grant) (s : State) : acceptGrant pool g s = judgePool pool (replicate (word 4 :: g.words)
    (exportEntry 7 g.words [] (grantJoined pool g { s with tal.ranges := s.tal.ranges ++ [(g.base, g.count)] }))) := rfl

theorem acceptGrant_joins (pool : Nat) (g : Grant) (s : State) : (acceptGrant pool g s).tal.ranges = s.tal.ranges ++ [(g.base, g.count)] ∧
    (∃ p, poolOf (acceptGrant pool g s) pool = some p ∧ g ∈ p.grants ∧ p.lastNo = g.no) ∧
    (acceptGrant pool g s).tal.journal = s.tal.journal ∧ (acceptGrant pool g s).well = s.well := by
  obtain ⟨ps, hjoined⟩ := grantJoined_changes pool g { s with tal.ranges := s.tal.ranges ++ [(g.base, g.count)] }
  obtain ⟨p, hpool, hmem, hlast⟩ := poolOf_grantJoined pool g { s with tal.ranges := s.tal.ranges ++ [(g.base, g.count)] }
  rw [acceptGrant_eq]
  generalize hsent : replicate (word 4 :: g.words) (exportEntry 7 g.words [] _) = sent
  have htal : sent.tal = (exportEntry 7 g.words [] { s with tal.ranges := s.tal.ranges ++ [(g.base, g.count)], tal.pools := ps }).tal := by
    rw [← hsent, hjoined, replicate_tal]
  have hwell : sent.well = s.well := by rw [← hsent, hjoined, replicate_well]; rfl
  obtain ⟨_, _, _, _, heq, hlow⟩ := judgePool_changes pool sent
  have hpool' : poolOf sent pool = some p := by
    rw [← hpool]
    exact poolOf_of_pools (by rw [htal, hjoined]; rfl) pool
  obtain ⟨low, hlow⟩ := hlow p hpool'
  refine ⟨?_, ⟨_, hlow, hmem, hlast⟩, ?_, ?_⟩
  all_goals rw [heq]
  · exact congrArg (·.ranges) htal
  · exact congrArg (·.journal) htal
  · exact hwell

/-- A grant document that R299 accepts: for this device, in order, the next of its pool, apart from every range, within the digits and the limits. -/
structure GrantServes (s : State) (bs : List Byte) (g : Grant) (pool : Nat) : Prop where
  length : bs.length = 3493
  grant : g = parseGrant (wordsOf (bs.take 88))
  named : pool = fld ((wordsOf (bs.take 88)).getD 1 0) 31 0
  here : grantHere s g = true
  ok : grantOk s (wordsOf (bs.take 88)) = true
  next : g.no = ((poolOf s pool).map (·.lastNo) |>.getD 0) + 1
  apart : ∀ r ∈ s.tal.ranges, overlaps r.1 (r.1 + r.2) g.base (g.base + g.count) = false
  digits : digitsOk s pool (g.base + g.count - 1) = true
  held : ((poolOf s pool).map (·.grants.length) |>.getD 0) < 4
  room : ((poolOf s pool).map (·.grants.length) |>.getD 0) ≠ 0 ∨ (s.tal.pools.filter fun p => !p.grants.isEmpty).length < 32

theorem grantChecked_accepts {c : Slot} {bs : List Byte} {g : Grant} {pool : Nat} {s : State} (h : GrantServes s bs g pool) :
    grantChecked c true true bs s = done c (acceptGrant pool g s) := by
  obtain ⟨hlength, rfl, rfl, hhere, hok, hnext, hapart, hdigits, hheld, hroom⟩ := h
  have hapart' : ¬ (s.tal.ranges.any fun r => overlaps r.1 (r.1 + r.2) (parseGrant (wordsOf (bs.take 88))).base
      ((parseGrant (wordsOf (bs.take 88))).base + (parseGrant (wordsOf (bs.take 88))).count)) = true := by
    simpa using hapart
  unfold grantChecked
  dsimp only
  rw [if_neg (Decidable.not_not.2 hlength), if_neg (by simp), if_neg (by simp [hhere]), if_neg (by simp [hok]), if_neg (Decidable.not_not.2 hnext), if_neg hapart',
    if_neg (by rw [hdigits]; exact Bool.false_ne_true), if_neg (by omega)]

theorem execPoolGrant_accepts {t cid : Nat} {c : Slot} {g : Grant} {pool : Nat} {s : State} (h : Starts Op.poolGrant cid c s) (hlead : notLead s = false)
    (hrange : rangeFailure s (parN c 0) (parN c 1) = none) (hgood : poisoned s (parN c 0) (parN c 1) = false)
    (hserves : GrantServes (startedAt t cid s) (wellRead s (parN c 0) (parN c 1)) g pool) :
    execPoolGrant t cid true true s = .next (done c (acceptGrant pool g (startedAt t cid s))) := by
  have hlead' : notLead (startedAt t cid s) = false := hlead
  rw [execPoolGrant, onStart_starts h, hlead', if_neg Bool.false_ne_true, withObject_reads (s := startedAt t cid s) hrange hgood]
  exact congrArg _ (grantChecked_accepts hserves)

theorem execPermutationTableDone_readies (t pool grant : Nat) (s : State) : execPermutationTableDone t pool grant s = .next { advance t s with
    tal.pools := mapWhere (fun p => p.id == pool) (fun p => { p with
      grants := mapWhere (fun g => g.no == grant && !g.ready) (fun g => { g with ready := true, readyAt := max (advance t s).now t }) p.grants })
      s.tal.pools } := by
  have hnow : max (advance t s).now t = max s.now t := (Nat.max_assoc s.now t t).trans (by rw [Nat.max_self])
  rw [hnow]
  rfl

/-! ### Serials drawn ahead (R300) and POOL_STATUS (R303) -/

theorem lookAhead_advance (t n : Nat) (g : Grant) (s : State) : lookAhead (advance t s) n g = lookAhead s n g := by
  induction n generalizing g with
  | zero => rfl
  | succ n ih =>
    have hindex : nextIndex (advance t s) g = nextIndex s g := rfl
    rw [lookAhead, lookAhead, hindex]
    split
    · rfl
    · rw [ih]; rfl

theorem execSerialLookahead_draws {t k : Nat} {i : Fin 16} {p : Pool} {g : Grant} {m : Option Nat} {s : State}
    (hpool : poolOf s s.tal.streams[i].pool = some p) (huse : grantInUse s p = some (g, k, m)) (hready : g.ready = true) :
    execSerialLookahead t i s = .next { advance t s with tal.streams := upd s.tal.streams i fun x => { x with ahead := lookAhead s 64 g } } := by
  have hpool' : poolOf (advance t s) s.tal.streams[i].pool = some p := hpool
  have huse' : grantInUse (advance t s) p = some (g, k, m) := huse
  simp only [execSerialLookahead, onEvent, advance_tal, hpool', huse', hready, if_true, lookAhead_advance]
  rfl

theorem execPoolStatus_answers {t cid : Nat} {c : Slot} {p : Pool} {s : State} (h : Starts Op.poolStatus cid c s)
    (hpool : poolOf s (parN c 0) = some p) (hsome : p.grants ≠ []) :
    execPoolStatus t cid s = .next (answer c (poolWords s p) (startedAt t cid s)) := by
  have hpool' : poolOf (startedAt t cid s) (parN c 0) = some p := hpool
  rw [execPoolStatus, onStart_starts h]
  simp only [hpool']
  rw [if_neg (mt List.isEmpty_iff.1 hsome)]
  rfl

/-! ### CALENDAR_LOAD (R304) -/

/-- The templates that are bound, each with its font. -/
def boundTemplates (s : State) : List (Template × Option Font) := (elems s.tal.streams).filterMap fun x => x.template.map fun t => (t, x.font)

theorem boundTemplates_all {s : State} {P : Template × Option Font → Bool}
    (h : ∀ (i : Fin 16) (x : Template), s.tal.streams[i].template = some x → P (x, s.tal.streams[i].font) = true) :
    (boundTemplates s).all P = true := by
  refine List.all_eq_true.2 fun y hy => ?_
  obtain ⟨x, hx, hxy⟩ := List.mem_filterMap.1 hy
  obtain ⟨tpl, htpl, rfl⟩ := Option.map_eq_some_iff.1 hxy
  obtain ⟨i, hi, rfl⟩ := Vector.getElem_of_mem (Vector.mem_toList_iff.1 hx)
  exact h ⟨i, hi⟩ tpl htpl

theorem acceptPlan_plans (moment : Nat) (p : Plan) (raw : List Byte) (s : State) : (acceptPlan moment p raw s).tal.plans = (moment, p) :: s.tal.plans := by
  rw [acceptPlan, replicate_tal]; rfl

theorem acceptPlan_well (moment : Nat) (p : Plan) (raw : List Byte) (s : State) : (acceptPlan moment p raw s).well = s.well := by
  rw [acceptPlan, replicate_well]; rfl

theorem execCalendarLoad_accepts {t cid : Nat} {c : Slot} {p : Plan} {s : State} (h : Starts Op.calendarLoad cid c s) (hlead : notLead s = false)
    (hrange : rangeFailure s (parN c 0) (parN c 1) = none) (hgood : poisoned s (parN c 0) (parN c 1) = false)
    (hplan : parsePlan (wellRead s (parN c 0) (parN c 1)) (planNow s) = some p)
    (hbound : ∀ (i : Fin 16) (x : Template), s.tal.streams[i].template = some x →
      glyphsOk (some p) x s.tal.streams[i].font = true ∧ calendarOk (some p) x = true) :
    execCalendarLoad t cid s =
      .next (done c (acceptPlan c.acceptAt p (wellRead s (parN c 0) (parN c 1)) (startedAt t cid s))) := by
  have hlead' : notLead (startedAt t cid s) = false := hlead
  have hplan' : parsePlan (wellRead (startedAt t cid s) (parN c 0) (parN c 1)) (planNow (startedAt t cid s)) = some p := hplan
  have hglyphs : (boundTemplates (startedAt t cid s)).all (fun x => glyphsOk (some p) x.1 x.2) = true := boundTemplates_all fun i x hx => (hbound i x hx).1
  have hfields : (boundTemplates (startedAt t cid s)).all (fun x => calendarOk (some p) x.1) = true := boundTemplates_all fun i x hx => (hbound i x hx).2
  rw [execCalendarLoad, onStart_starts h, hlead', if_neg Bool.false_ne_true, withObject_reads (s := startedAt t cid s) hrange hgood]
  simp only [hplan']
  rw [← boundTemplates, hglyphs, hfields]
  rfl

end Sys2Proof.Machine
end

section
/-!
Streams with their manifests, codes that become void, and the issue of a product's records; the statement about grants, plans, streams and records.
-/
namespace Sys2Proof.Machine

/-! ### Manifests (R318) -/

/-- The streams, the manifest numbers and the journal of a state. -/
def streamsAndRecords (s : State) : Vector Stream 16 × Nat × List Rec := (s.tal.streams, s.tal.nextMan, s.tal.journal)

theorem settleManifests_streamsAndRecords (s : State) : streamsAndRecords (settleManifests s) = streamsAndRecords s :=
  (foldl_keeps streamsAndRecords (fun s _ => by rw [streamsAndRecords, finish_tal]; rfl) _ _).trans
    (foldl_keeps streamsAndRecords (by intros; rfl) _ s)

theorem closeManifest_opens {i : Fin 16} {m : Manifest} {s : State} (byCmd : Bool) (cids : List Nat) (h : s.tal.streams[i].man = some m) :
    ∃ next closed, next.records = [] ∧ next.openAt = devSec s ∧ closeManifest i byCmd cids s =
      { modStream i (fun x => { x with man := some next }) s with tal.nextMan := s.tal.nextMan + 1, tal.closed := s.tal.closed ++ [closed] } := by
  simp only [closeManifest, h]
  exact ⟨_, _, rfl, rfl, rfl⟩

/-- The streams that a MANIFEST_CLOSE names and that have a manifest. -/
def streamsClosed (s : State) (c : Slot) : List (Fin 16) :=
  (List.finRange 16).filter fun i => (par c 0 == word (2 ^ 64 - 1) || i.val == parN c 0) && s.tal.streams[i].man.isSome

theorem par_ne_ones {c : Slot} {i : Nat} {n : Fin 16} (h : parN c i = n.val) : (par c i == word (2 ^ 64 - 1)) = false := by
  rw [beq_eq_false_iff_ne]
  intro hall
  have hones : parN c i = 2 ^ 64 - 1 := by rw [parN, hall]; rfl
  have := n.isLt
  omega

theorem filter_stream_beq (i : Fin 16) : (List.finRange 16).filter (fun k => k == i) = [i] := by revert i; decide

theorem streamsClosed_one {c : Slot} {i : Fin 16} {m : Manifest} {s : State} (hstream : parN c 0 = i.val) (hman : s.tal.streams[i].man = some m) :
    streamsClosed s c = [i] := by
  have hpred : (fun k : Fin 16 => (par c 0 == word (2 ^ 64 - 1) || k.val == parN c 0) && s.tal.streams[k].man.isSome) = fun k => k == i := by
    funext k
    rw [par_ne_ones hstream, hstream, Bool.false_or]
    by_cases hk : k = i
    · subst hk
      rw [hman, beq_self_eq_true, beq_self_eq_true]; rfl
    · rw [beq_eq_false_iff_ne.2 (Fin.val_ne_of_ne hk), beq_eq_false_iff_ne.2 hk, Bool.false_and]
  rw [streamsClosed, hpred, filter_stream_beq]

theorem execManifestClose_closes {t cid : Nat} {c : Slot} {i : Fin 16} {m : Manifest} {s : State} (h : Starts Op.manifestClose cid c s)
    (hstream : parN c 0 = i.val) (hlead : notLead s = false) (hman : s.tal.streams[i].man = some m) :
    ∃ closing, execManifestClose t cid s =
      .next (settleManifests { closeManifest i true [c.cid] (startedAt t cid s) with tal.closing := closing }) := by
  have hlead' : notLead (startedAt t cid s) = false := hlead
  have hone : streamsClosed (startedAt t cid s) c = [i] := streamsClosed_one hstream hman
  rw [execManifestClose, onStart_starts h]
  dsimp only
  rw [← streamsClosed, hone, par_ne_ones hstream, hlead', if_neg (by simp [hstream]), if_neg Bool.false_ne_true]
  exact ⟨_, rfl⟩

/-! ### STREAM_BIND (R291, R292) -/

theorem streamSpan_startedAt (t cid n addr : Nat) (s : State) : streamSpan (startedAt t cid s) n addr = streamSpan s n addr := by
  induction n generalizing addr with
  | zero => rfl
  | succ n ih =>
    rw [streamSpan, streamSpan]
    simp only [ih]
    rfl

/-- A template with its font that R292 accepts for a stream and a pool. -/
structure TemplateServes (s : State) (i : Fin 16) (pool : Nat) (tm : Template) (font : Option Font) : Prop where
  readable : tm.symbology = 0 → font.isSome = true
  width : (overlaySize tm font).1 ≤ 65535
  height : (overlaySize tm font).2 ≤ 65535
  checks : checksOk [] tm.elements = true
  sources : tm.elements.all (sourceOk s i.val pool) = true
  fonts : fontCount s i font ≤ 64
  glyphs : glyphsOk (planNow s) tm font = true
  calendar : calendarOk (planNow s) tm = true
  size : overlayBytes (overlaySize tm font) ≤ 131072

theorem bindChecked_binds {c : Slot} {i : Fin 16} {bs out : List Byte} {tm : Template} {font : Option Font} {s u v : State}
    (hread : readStream (parN c 1) 65536 bs s = (some out, u)) (htpl : parseTemplate out = some tm)
    (hfont : (if tm.symbology = 0 then readFont tm.aux u else (none, u)) = (font, v)) (hserves : TemplateServes v i (parN c 2) tm font) :
    bindChecked c i bs s = done c (bindStream i tm font (parN c 2) v) := by
  obtain ⟨hhas, hwidth, hheight, hchecks, hsources, hfonts, hglyphs, hcalendar, hsize⟩ := hserves
  have hgood : ¬ ((tm.symbology = 0 ∧ font.isNone = true) ∨ 65535 < (overlaySize tm font).1 ∨ 65535 < (overlaySize tm font).2 ∨
      (!checksOk [] tm.elements) = true) := by
    rintro (⟨htext, hnone⟩ | hwide | hhigh | hcheck)
    · exact Bool.false_ne_true ((Option.isSome_eq_false_iff.2 hnone).symm.trans (hhas htext))
    · omega
    · omega
    · simp [hchecks] at hcheck
  have hfits : ¬ 131072 < overlayBytes (overlaySize tm font) := Nat.not_lt.2 hsize
  unfold bindChecked
  simp only [hread, htpl, hfont]
  rw [if_neg hgood, if_neg (by rw [hsources]; exact Bool.false_ne_true), if_neg (Nat.not_lt.2 hfonts),
    if_neg (by rw [hglyphs]; exact Bool.false_ne_true), if_neg (by rw [hcalendar]; exact Bool.false_ne_true), if_neg hfits]

theorem execStreamBind_checks {t cid : Nat} {c : Slot} {i : Fin 16} {s : State} (h : Starts Op.streamBind cid c s) (hstream : parN c 0 = i.val)
    (hidle : streamBusy s i.val = false) (hpool : parN c 2 = 0 ∨ (poolOf s (parN c 2)).isSome = true)
    (hrange : rangeFailure s (parN c 1) (streamSpan s 65537 (parN c 1)) = none)
    (hgood : poisoned s (parN c 1) (streamSpan s 65537 (parN c 1)) = false) :
    execStreamBind t cid s =
      .next (bindChecked c i (wellRead s (parN c 1) (streamSpan s 65537 (parN c 1))) (startedAt t cid s)) := by
  have hidle' : streamBusy (startedAt t cid s) (parN c 0) = false := by rw [hstream]; exact hidle
  have hpool' : ¬ (parN c 2 ≠ 0 ∧ (poolOf (startedAt t cid s) (parN c 2)).isNone = true) := by
    rintro ⟨hne, hnone⟩
    have hnone' : poolOf s (parN c 2) = none := Option.isNone_iff_eq_none.1 hnone
    rcases hpool with hzero | hsome
    · exact hne hzero
    · rw [hnone'] at hsome
      exact Bool.false_ne_true hsome
  have hi : parN c 0 < 16 := hstream ▸ i.isLt
  have hfin : (⟨parN c 0, hi⟩ : Fin 16) = i := Fin.ext hstream
  rw [execStreamBind, onStart_starts h, dif_pos hi, hidle', if_neg Bool.false_ne_true, if_neg hpool', streamSpan_startedAt,
    withObject_reads (s := startedAt t cid s) hrange hgood, hfin]
  rfl

/-! ### CODE_VOID (R309, R310) -/

section
variable {t cid : Nat} {c : Slot} {s : State} (h : Starts Op.codeVoid cid c s) (hstream : parN c 0 < 16) (hpool : parN c 1 < 2 ^ 32)
  (hreason : parF c 3 7 0 = 1 ∨ 0x80 ≤ parF c 3 7 0) (hlead : notLead s = false)
include h hstream hpool hreason hlead

theorem execCodeVoid_starts : execCodeVoid t cid s = .next (match namedRec s c with
    | none => refuse c Status.noSuchCode (startedAt t cid s)
    | some r =>
      if r.final.isSome then refuse c Status.codeFinal (startedAt t cid s)
      else done c (settleProduct r.product (voidProduct r.product 2 0 (voidRec (parF c 3 7 0) 0 r.num (startedAt t cid s))))) := by
  have hlead' : notLead (startedAt t cid s) = false := hlead
  rw [execCodeVoid, onStart_starts h]
  dsimp only
  rw [if_neg (by omega), hlead', if_neg Bool.false_ne_true]
  rfl

theorem execCodeVoid_unknown (hnone : namedRec s c = none) :
    execCodeVoid t cid s = .next (refuse c Status.noSuchCode (startedAt t cid s)) := by
  rw [execCodeVoid_starts h hstream hpool hreason hlead, hnone]

theorem execCodeVoid_final {r : Rec} (hnamed : namedRec s c = some r) (hfinal : r.final.isSome = true) :
    execCodeVoid t cid s = .next (refuse c Status.codeFinal (startedAt t cid s)) := by
  rw [execCodeVoid_starts h hstream hpool hreason hlead, hnamed]
  exact congrArg _ (if_pos hfinal)

theorem execCodeVoid_voids {r : Rec} (hnamed : namedRec s c = some r) (hopen : r.final = none) : execCodeVoid t cid s =
    .next (done c (settleProduct r.product (voidProduct r.product 2 0 (voidRec (parF c 3 7 0) 0 r.num (startedAt t cid s))))) := by
  rw [execCodeVoid_starts h hstream hpool hreason hlead, hnamed]
  exact congrArg _ (if_neg (by simp [hopen]))

end

/-! ### TALLY_ISSUE_GROUP (R305 to R307, R396) -/

theorem execTallyIssueGroup_issues {t : Nat} {p : Product} {s : State} (hfirst : s.prod.queue.find? unissued = some p) (hfault : faulted s = false)
    (hreplay : s.flt.replayDue = false) (hlead : notLead s = false) (hcpu : domOn s 2 = true) (hlease : leaseHeld (advance t s) = true)
    (hparity : s.twn.role ≠ .lead ∨ s.twn.peerSynced = false ∨ ∀ i ∈ productStreams s p, parityOut s s.tal.streams[i].pool = false)
    (hfresh : p.num ∉ s.flt.replaying) :
    execTallyIssueGroup t p.num s = .next (issueGroup p { advance t s with flt.replaying := s.flt.replaying.erase p.num }) := by
  have hmay : ¬ (p.num ≠ p.num ∨ faulted (advance t s) = true ∨ (advance t s).flt.replayDue = true ∨ notLead (advance t s) = true ∨
      (!domOn (advance t s) 2) = true ∨ (!leaseHeld (advance t s)) = true) := by
    have hfault' : faulted (advance t s) = false := hfault
    have hlead' : notLead (advance t s) = false := hlead
    have hcpu' : domOn (advance t s) 2 = true := hcpu
    simp [hfault', hreplay, hlead', hcpu', hlease]
  have hkeeps : ¬ ((advance t s).twn.role == .lead && (advance t s).twn.peerSynced &&
      (productStreams (advance t s) p).any fun i => parityOut (advance t s) (advance t s).tal.streams[i].pool) = true := by
    intro hout
    simp only [Bool.and_eq_true, beq_iff_eq, List.any_eq_true] at hout
    obtain ⟨⟨hrole, hsynced⟩, i, hi, hused⟩ := hout
    rcases hparity with hnot | hnot | hnot
    · exact hnot hrole
    · exact Bool.false_ne_true (hnot.symm.trans hsynced)
    · exact Bool.false_ne_true ((hnot i hi).symm.trans hused)
  have hwaited : (advance t s).flt.replaying.contains p.num = false := by simpa using hfresh
  have hfirst' : (advance t s).prod.queue.find? unissued = some p := hfirst
  simp only [execTallyIssueGroup, onEvent, hfirst']
  rw [if_neg hmay, if_neg hkeeps, hwaited, Bool.false_and, if_neg Bool.false_ne_true]
  rfl

theorem issueGroup_plain {p : Product} {s : State} (h : productStreams s p = []) :
    issueGroup p s = modProduct p.num (fun p => { p with issued := true }) s := by
  simp [issueGroup, h]

section
variable {p : Product} {s : State} (hsome : productStreams s p ≠ []) (hcalendar : calendarFailure s p (productStreams s p) = none)
include hsome hcalendar

theorem issueGroup_commits {d : Draft} {nums : List Nat} (hdraft : issueStreams p (productStreams s p) { state := s } = .ok d)
    (hnums : nums = nextRecords s (98304 + d.recs.length) d.recs.length s.tal.nextRec) (hlength : nums.length = d.recs.length)
    (hfree : ∀ n ∈ nums, journalFree s (n % 98304) = true) : issueGroup p s = commitGroup p d nums := by
  have hroom : nums.length = d.recs.length ∧ nums.all (fun n => journalFree s (n % 98304)) = true := ⟨hlength, List.all_eq_true.2 hfree⟩
  subst hnums
  simp only [issueGroup, hcalendar, hdraft]
  rw [if_neg (mt List.isEmpty_iff.1 hsome), if_pos hroom]

theorem issueGroup_voids {e : Nat} (hdraft : issueStreams p (productStreams s p) { state := s } = .error e) :
    issueGroup p s = voidFault p.num e s := by
  simp only [issueGroup, hcalendar, hdraft]
  rw [if_neg (mt List.isEmpty_iff.1 hsome)]

end

/-- Settles O19: a grant joins its pool in `acceptGrant_joins`, each command takes the branch its checks leave it, and the issue is `issueGroup`. -/
theorem recordsAreIssued : Obligations.RecordsAreIssued := by
  refine ⟨⟨fun t cid c s => ⟨?grant, fun p h hpool hsome => execPoolStatus_answers h hpool hsome, ?plan⟩,
      fun t s => ⟨fun pool grant => execPermutationTableDone_readies t pool grant s,
        fun i p g k m hpool huse hready => execSerialLookahead_draws hpool huse hready⟩⟩,
    fun t cid c s => ⟨?bind, ?close, fun h hstream hpool hreason hlead => ⟨fun hnone => execCodeVoid_unknown h hstream hpool hreason hlead hnone,
      fun r hnamed hfinal => execCodeVoid_final h hstream hpool hreason hlead hnamed hfinal,
      fun r hnamed hopen => execCodeVoid_voids h hstream hpool hreason hlead hnamed hopen⟩⟩, ?issue⟩
  case grant =>
    rintro bs g pool h hlead hrange hgood rfl hlength hgrant hnamed hhere hok hnext hapart hdigits hheld hroom
    obtain ⟨hranges, hpool, hjournal, hwell⟩ := acceptGrant_joins pool g (startedAt t cid s)
    have heq := execPoolGrant_accepts (t := t) h hlead hrange hgood ⟨hlength, hgrant, hnamed, hhere, hok, hnext, hapart, hdigits, hheld, hroom⟩
    refine ⟨_, heq, starts_cid h ▸ finish_ended _ _ _ _ _, ?_⟩
    simp only [done, finish_tal, finish_well, poolOf]
    exact ⟨hranges, hpool, hjournal, hwell⟩
  case plan =>
    intro p h hlead hrange hgood hplan hbound
    refine ⟨_, execCalendarLoad_accepts h hlead hrange hgood hplan hbound, starts_cid h ▸ finish_ended _ _ _ _ _, ?_, ?_⟩
    · rw [done, finish_tal, acceptPlan_plans]; rfl
    · rw [done, finish_well, acceptPlan_well]; rfl
  case bind =>
    intro i out tm u font v h hstream hidle hpool hrange hgood hread htpl hfont hhas hwidth hheight hchecks hsources hfonts hglyphs hcalendar hsize
    exact (execStreamBind_checks h hstream hidle hpool hrange hgood).trans (congrArg _ (bindChecked_binds hread htpl hfont
      ⟨hhas, hwidth, hheight, hchecks, hsources, hfonts, hglyphs, hcalendar, hsize⟩))
  case close =>
    intro i m h hstream hlead hman
    obtain ⟨closing, heq⟩ := execManifestClose_closes (t := t) h hstream hlead hman
    obtain ⟨next, closed, hempty, hopen, hclosed⟩ := closeManifest_opens (s := startedAt t cid s) true [c.cid] hman
    rw [hclosed] at heq
    have hkept := settleManifests_streamsAndRecords { modStream i (fun x => { x with man := some next }) (startedAt t cid s) with
      tal.nextMan := s.tal.nextMan + 1, tal.closed := s.tal.closed ++ [closed], tal.closing := closing }
    obtain ⟨hstreams, hrest⟩ := Prod.mk.inj hkept
    obtain ⟨hnum, hjournal⟩ := Prod.mk.inj hrest
    refine ⟨_, heq, hnum, ⟨next, ?_, hempty, hopen⟩, fun j hj => ?_, hjournal, (settleManifests_settles _).well⟩
    · exact (congrArg (·[i].man) hstreams).trans (congrArg Stream.man (upd_same _ _ _))
    · exact (congrArg (·[j]) hstreams).trans (upd_other hj)
  case issue =>
    rintro t p s u hfirst hfault hreplay hlead hcpu hlease hparity hfresh rfl
    have heq := execTallyIssueGroup_issues hfirst hfault hreplay hlead hcpu hlease hparity hfresh
    exact ⟨fun hnone => heq.trans (congrArg _ (issueGroup_plain hnone)),
      fun d nums hsome hcalendar hdraft hnums hlength hfree =>
        heq.trans (congrArg _ (issueGroup_commits hsome hcalendar hdraft hnums hlength hfree)),
      fun e hsome hcalendar hdraft => heq.trans (congrArg _ (issueGroup_voids hsome hcalendar hdraft))⟩

end Sys2Proof.Machine
end

section
/-!
What the operations of the other units leave of vision: events, commands, the link, records, products and the elements that are retired.
-/
namespace Sys2Proof.Machine

/-! ### Events, commands and units -/

@[simp] theorem notify_vis (code detail : Nat) (s : State) : (notify code detail s).vis = s.vis := by rw [notify_frame]
@[simp] theorem raise_vis (code detail : Nat) (s : State) : (raise code detail s).vis = s.vis := by rw [raise_frame]
@[simp] theorem finish_vis (cid status fault : Nat) (ws : List W64) (s : State) : (finish cid status fault ws s).vis = s.vis := by rw [finish_frame]
@[simp] theorem uraraSend_vis (dest type : Nat) (ws : List W64) (s : State) : (uraraSend dest type ws s).vis = s.vis := by rw [uraraSend_frame]
@[simp] theorem granaryUse_vis (kind inst limit remaining : Nat) (s : State) : (granaryUse kind inst limit remaining s).vis = s.vis := by
  rw [granaryUse_frame]

@[simp] theorem dueYield_vis (code : Nat) (s : State) : (dueYield code s).vis = s.vis := by
  obtain ⟨_, h⟩ := dueYield_changes code s
  rw [h]

@[simp] theorem queueUnits_vis (r : Nat) (us : List OutUnit) (s : State) : (queueUnits r us s).vis = s.vis := by
  unfold queueUnits
  split <;> rfl

/-! ### Records and products (R108, R308, R309, R318) -/

@[simp] theorem ledgerWrite_vis (w : LWrite) (payload : List W64) (s : State) : (ledgerWrite w payload s).vis = s.vis := by
  unfold ledgerWrite
  dsimp only
  split
  · rw [uraraSend_vis]
  · rfl

@[simp] theorem writePart_vis (n kind : Nat) (s : State) : (writePart n kind s).vis = s.vis := by
  unfold writePart
  split
  · rfl
  · exact ledgerWrite_vis _ _ s

@[simp] theorem exportPart_vis (n kind : Nat) (s : State) : (exportPart n kind s).vis = s.vis := by
  unfold exportPart
  split <;> rfl

@[simp] theorem settleManifests_vis (s : State) : (settleManifests s).vis = s.vis :=
  (foldl_keeps State.vis (fun s _ => finish_vis _ _ _ _ s) _ _).trans (foldl_keeps State.vis (by intros; rfl) _ s)

@[simp] theorem finalise_vis (n kind reason fault grade : Nat) (s : State) : (finalise n kind reason fault grade s).vis = s.vis := by
  unfold finalise
  split
  · rfl
  · split
    · rfl
    · rw [countManifests, settleManifests_vis, exportPart_vis, writePart_vis, modRec_vis]

@[simp] theorem voidRec_vis (reason fault n : Nat) (s : State) : (voidRec reason fault n s).vis = s.vis := finalise_vis _ _ _ _ _ s

@[simp] theorem setFlag_vis (n i : Nat) (s : State) : (setFlag n i s).vis = s.vis := rfl

@[simp] theorem voidProduct_vis (n reason fault : Nat) (s : State) : (voidProduct n reason fault s).vis = s.vis := by
  have hrecs : (voidRecs n reason fault (setFlag n 0 s)).vis = s.vis := foldl_keeps State.vis (fun s _ => voidRec_vis _ _ _ s) _ _
  unfold voidProduct
  dsimp only
  split
  · exact hrecs
  · refine (foldl_keeps State.vis (fun s g => ?_) _ _).trans hrecs
    split
    · split <;> rfl
    · rfl

@[simp] theorem closeRecords_vis (p : Product) (s : State) : (closeRecords p s).vis = s.vis := by
  refine foldl_keeps State.vis (fun s r => ?_) _ s
  repeat' split
  · rfl
  all_goals exact finalise_vis _ _ _ _ _ s

@[simp] theorem settleSwitch_vis (s : State) : (settleSwitch s).vis = s.vis := by
  unfold settleSwitch
  repeat' split
  · rw [notify_vis]
  all_goals rfl

@[simp] theorem settleProduct_vis (n : Nat) (s : State) : (settleProduct n s).vis = s.vis := by
  unfold settleProduct
  split
  · rfl
  · split
    · rfl
    · dsimp only
      rw [settleSwitch_vis]
      dsimp only
      rw [closeRecords_vis]
      split
      · rw [setFlag_vis, notify_vis]
      · rfl

/-! ### Elements that are retired (R181, R260) -/

theorem keepEpochs_vis (s : State) : (keepEpochs s).vis = s.vis := by
  obtain ⟨_, _, h⟩ := keepEpochs_changes s
  rw [h]

theorem tellLead_vis (items : List (Nat × List Byte)) (placement : Bool) (s : State) : (tellLead items placement s).vis = s.vis := by
  unfold tellLead
  split
  · exact uraraSend_vis _ _ _ s
  · rfl

theorem proposeIfDue_vis (s : State) : (proposeIfDue s).vis = s.vis := by
  unfold proposeIfDue
  split
  · rfl
  · dsimp only
    split
    · exact uraraSend_vis _ _ _ _
    · split
      · exact uraraSend_vis _ _ _ _
      · rfl

@[simp] theorem retireElement_vis (k chan reason : Nat) (s : State) : (retireElement k chan reason s).vis = s.vis := by
  unfold retireElement
  split
  · rfl
  · dsimp only
    rw [placementDue, proposeIfDue_vis]
    dsimp only
    rw [tellLead_vis, useSpareElems, foldl_keeps State.vis (fun s _ => granaryUse_vis _ _ _ _ s), notify_vis]
    exact keepEpochs_vis s

/-! ### The outcome of a code (R194, R338, R394) -/

theorem chargeUnit_vis (line unit : Nat) (s : State) : (chargeUnit line unit s).vis = s.vis := by
  unfold chargeUnit
  split
  · dsimp only
    split
    · exact dueYield_vis _ _
    · rfl
  · rfl

@[simp] theorem settleSuspects_vis (r : Rec) (bad : Bool) (s : State) : (settleSuspects r bad s).vis = s.vis := by
  unfold settleSuspects
  dsimp only
  split
  · refine foldl_keeps State.vis (fun s l => ?_) _ s
    split
    · exact chargeUnit_vis _ _ s
    · rfl
  · rfl

theorem feedLive_vis (rs : List RowFit) (s : State) : (feedLive rs s).vis = s.vis := by
  refine foldl_keeps State.vis (fun s r => ?_) rs s
  dsimp only
  split
  · rfl
  · split <;> rfl

theorem applyOutcome_vis (num out grade fault : Nat) (s : State) : (applyOutcome num out grade fault s).vis = s.vis := by
  unfold applyOutcome
  split
  · rfl
  · split
    · rfl
    · dsimp only
      repeat' split
      all_goals simp

end Sys2Proof.Machine
end

section
/-!
Sensors, the settings of the verification and the setting sets: what SENSOR_CONFIG, VERIFY_CONFIG, SETTING_SET and SETTING_WRITE_ACK do.
-/
namespace Sys2Proof.Machine

/-! ### A sensor's record -/

theorem sensorOf_of_vis {s u : State} (h : u.vis = s.vis) (n : Nat) : sensorOf u n = sensorOf s n := by rw [sensorOf, h, sensorOf]

@[simp] theorem sensorOf_advance (t n : Nat) (s : State) : sensorOf (advance t s) n = sensorOf s n := rfl

@[simp] theorem sensorOf_startedAt (t cid n : Nat) (s : State) : sensorOf (startedAt t cid s) n = sensorOf s n := rfl

theorem sensorOf_modSensor_same {n : Nat} (hn : n < 8) (f : Sensor → Sensor) (s : State) : sensorOf (modSensor n f s) n = f (sensorOf s n) := by
  simp only [sensorOf, modSensor, dif_pos hn]
  exact upd_same s.vis.sensors ⟨n, hn⟩ f

theorem modSensor_congr {n : Nat} {f g : Sensor → Sensor} {s : State} (h : f (sensorOf s n) = g (sensorOf s n)) : modSensor n f s = modSensor n g s := by
  unfold modSensor
  split
  · next hn =>
    rw [sensorOf, dif_pos hn] at h
    have hupd : upd s.vis.sensors ⟨n, hn⟩ f = upd s.vis.sensors ⟨n, hn⟩ g := congrArg (s.vis.sensors.set n · hn) h
    rw [hupd]
  · rfl

/-- The field of a SENSOR_CONFIG or SETTING_SET that names a sensor holds three bits. -/
theorem parF_sensor_lt (c : Slot) : parF c 0 2 0 < 8 := Nat.mod_lt _ (by decide)

/-! ### The set in write (R325) -/

/-- The set that the search for the set in write goes on with. -/
def earlierSet (b : Option (Nat × SetReq)) (q : Nat × SetReq) : Option (Nat × SetReq) :=
  match b with
  | some x => if q.2.cid < x.2.cid then some q else b
  | none => some q

/-- The accepted sets that are not yet written, each with its sensor. -/
def setsToWrite (s : State) : List (Nat × SetReq) :=
  (List.range 8).flatMap fun k => ((sensorOf s k).sets.filter fun q => q.apply.isNone).map fun q => (k, q)

theorem setInWrite_eq (s : State) : setInWrite s = (setsToWrite s).foldl earlierSet none := rfl

theorem foldl_earlierSet_mem {l : List (Nat × SetReq)} {b : Option (Nat × SetReq)} {p : Nat × SetReq} (h : l.foldl earlierSet b = some p) :
    b = some p ∨ p ∈ l := by
  induction l generalizing b with
  | nil => exact .inl h
  | cons q l ih =>
    rcases ih h with hnext | hmem
    · have hchoice : b = some p ∨ p = q := by
        unfold earlierSet at hnext
        split at hnext
        · split at hnext
          · exact .inr (Option.some.inj hnext).symm
          · exact .inl hnext
        · exact .inr (Option.some.inj hnext).symm
      exact hchoice.imp_right fun heq => List.mem_cons.2 (.inl heq)
    · exact .inr (List.mem_cons_of_mem _ hmem)

theorem setInWrite_waits {k : Nat} {q : SetReq} {s : State} (h : setInWrite s = some (k, q)) : k < 8 ∧ q ∈ (sensorOf s k).sets ∧ q.apply = none := by
  rw [setInWrite_eq] at h
  obtain hnone | hmem := foldl_earlierSet_mem h
  · exact absurd hnone nofun
  · simpa [setsToWrite] using hmem

theorem writeNextSet_changes (s : State) : ∃ o, writeNextSet s = { s with outbox := o } := by
  unfold writeNextSet
  split <;> exact ⟨_, rfl⟩

@[simp] theorem writeNextSet_vis (s : State) : (writeNextSet s).vis = s.vis := by
  obtain ⟨_, h⟩ := writeNextSet_changes s
  rw [h]

@[simp] theorem writeNextSet_cmd (s : State) : (writeNextSet s).cmd = s.cmd := by
  obtain ⟨_, h⟩ := writeNextSet_changes s
  rw [h]

@[simp] theorem writeNextSet_well (s : State) : (writeNextSet s).well = s.well := by
  obtain ⟨_, h⟩ := writeNextSet_changes s
  rw [h]

/-! ### SENSOR_CONFIG (R323, R324) -/

/-- Whether another sensor that is on has a sensor's receiver and virtual channel. -/
def sensorClash (s : State) (n : Nat) (x : Sensor) : Bool :=
  (List.range 8).any fun k => k != n && (sensorOf s k).on && (sensorOf s k).rx == x.rx && (sensorOf s k).vc == x.vc

theorem sensorClash_iff {s : State} {n : Nat} {x : Sensor} :
    sensorClash s n x = true ↔ ∃ k, k < 8 ∧ k ≠ n ∧ (sensorOf s k).on = true ∧ (sensorOf s k).rx = x.rx ∧ (sensorOf s k).vc = x.vc := by
  simp [sensorClash, and_assoc]

/-- A sensor that was off and has no setting set drops none: its configuration alone changes. -/
theorem configSensor_off {n : Nat} {x : Sensor} {s : State} (hoff : (sensorOf s n).on = false) (hnone : (sensorOf s n).sets = []) :
    configSensor n x s = modSensor n (fun _ => x) s := by
  have hidle : (setInWrite s).map (·.1) ≠ some n := by
    intro hwrites
    obtain ⟨⟨k, q⟩, hset, rfl⟩ := Option.map_eq_some_iff.1 hwrites
    obtain ⟨-, hmem, -⟩ := setInWrite_waits hset
    exact absurd (hnone ▸ hmem) List.not_mem_nil
  simp only [configSensor, hoff, hnone, Bool.false_and, Bool.false_eq_true, if_false]
  rw [if_neg hidle]
  rfl

section
variable {t cid : Nat} {c : Slot} {s : State} (h : Starts Op.sensorConfig cid c s)
include h

theorem execSensorConfig_starts : execSensorConfig t cid s = .next (
    if !sensorOk (sensorFrom c []) || sensorClash s (parF c 0 2 0) (sensorFrom c []) then refuse c Status.badParameter (startedAt t cid s)
    else if sensorBusy s (sensorOf s (parF c 0 2 0)) then refuse c Status.sensorBusy (startedAt t cid s)
    else withObject c (parN c 5) (parF c 6 31 0) (fun bs s =>
      if profileOk (wordsOf bs) then done c (configSensor (parF c 0 2 0) (sensorFrom c (wordsOf bs)) s) else refuse c Status.badSensorProfile s)
      (startedAt t cid s)) := by
  rw [execSensorConfig, onStart_starts h]
  rfl

theorem execSensorConfig_refuses (hbad : sensorOk (sensorFrom c []) = false ∨ sensorClash s (parF c 0 2 0) (sensorFrom c []) = true) :
    execSensorConfig t cid s = .next (refuse c Status.badParameter (startedAt t cid s)) := by
  rw [execSensorConfig_starts h, if_pos (by simpa using hbad)]

section
variable (hok : sensorOk (sensorFrom c []) = true) (hfree : sensorClash s (parF c 0 2 0) (sensorFrom c []) = false)
include hok hfree

theorem execSensorConfig_busy (hbusy : sensorBusy s (sensorOf s (parF c 0 2 0)) = true) :
    execSensorConfig t cid s = .next (refuse c Status.sensorBusy (startedAt t cid s)) := by
  rw [execSensorConfig_starts h, if_neg (by simp [hok, hfree]), if_pos hbusy]

theorem execSensorConfig_reads (hidle : sensorBusy s (sensorOf s (parF c 0 2 0)) = false) (hrange : rangeFailure s (parN c 5) (parF c 6 31 0) = none)
    (hgood : poisoned s (parN c 5) (parF c 6 31 0) = false) : execSensorConfig t cid s = .next (
      if profileOk (wordsOf (wellRead s (parN c 5) (parF c 6 31 0))) then
        done c (configSensor (parF c 0 2 0) (sensorFrom c (wordsOf (wellRead s (parN c 5) (parF c 6 31 0)))) (startedAt t cid s))
      else refuse c Status.badSensorProfile (startedAt t cid s)) := by
  rw [execSensorConfig_starts h, if_neg (by simp [hok, hfree]), if_neg (by simp [hidle]), withObject_reads (s := startedAt t cid s) hrange hgood]
  rfl

end

end

/-! ### VERIFY_CONFIG (R336) -/

/-- The settings that a VERIFY_CONFIG gives. -/
def verifyCfgOf (c : Slot) : VerifyCfg where
  gradeMin := parF c 0 7 0
  maxImages := parF c 0 10 8
  ocvMin := parF c 0 23 16
  regMin := parF c 1 15 0
  search := parF c 1 23 16
  dotMin := parF c 1 39 24
  channels := parF c 2 23 0
  streakClass := parF c 3 7 0
  streakDepth := parF c 3 15 8
  streakLines := parF c 3 31 16
  streakProducts := parF c 3 39 32
  results := parB c 4 0
  stats := parB c 4 1
  failImages := parB c 4 2

/-- Whether the settings of the verification lie in their ranges. -/
def verifyCfgOk (v : VerifyCfg) : Bool :=
  decide (v.gradeMin ≤ 40) && decide (1 ≤ v.maxImages) && decide (v.maxImages ≤ 4) && decide (1 ≤ v.search) && decide (v.search ≤ 64)
    && (List.range 8).all fun k => decide (bits v.channels (3 * k + 2) (3 * k) ≤ 2)

theorem verifyCfgOk_iff {v : VerifyCfg} : verifyCfgOk v = true ↔ v.gradeMin ≤ 40 ∧ 1 ≤ v.maxImages ∧ v.maxImages ≤ 4 ∧ 1 ≤ v.search ∧ v.search ≤ 64 ∧
    ∀ k, k < 8 → bits v.channels (3 * k + 2) (3 * k) ≤ 2 := by
  simp [verifyCfgOk, and_assoc]

theorem execVerifyConfig_starts {t cid : Nat} {c : Slot} {s : State} (h : Starts Op.verifyConfig cid c s) : execVerifyConfig t cid s = .next (
    if verifyCfgOk (verifyCfgOf c) then done c { startedAt t cid s with vis.cfg := verifyCfgOf c } else refuse c Status.badParameter (startedAt t cid s)) := by
  rw [execVerifyConfig, onStart_starts h]
  rfl

/-! ### SETTING_SET (R325) -/

/-- The setting set that a SETTING_SET asks for. -/
def settingOf (c : Slot) : SetReq where
  id := parF c 1 15 0
  exp := parN c 2
  gain := parF c 3 15 0
  dgain := parF c 4 15 0
  cid := c.cid

/-- A setting set is accepted for a sensor. -/
def setQueued (n : Nat) (q : SetReq) (s : State) : State := modSensor n (fun x => { x with sets := x.sets ++ [q] }) s

section
variable {t cid : Nat} {c : Slot} {s : State} (h : Starts Op.settingSet cid c s)
include h

theorem execSettingSet_refuses (hbad : parF c 1 15 0 = 0 ∨ (sensorOf s (parF c 0 2 0)).on = false) :
    execSettingSet t cid s = .next (refuse c Status.badParameter (startedAt t cid s)) := by
  have hbad' : parF c 1 15 0 = 0 ∨ (!(sensorOf (startedAt t cid s) (parF c 0 2 0)).on) = true := hbad.imp_right fun hoff => by
    rw [sensorOf_startedAt, hoff]; rfl
  rw [execSettingSet, onStart_starts h]
  exact congrArg _ (if_pos hbad')

theorem execSettingSet_accepts (hid : parF c 1 15 0 ≠ 0) (hon : (sensorOf s (parF c 0 2 0)).on = true) : execSettingSet t cid s = .next (
    if (setInWrite s).isNone then writeNextSet (setQueued (parF c 0 2 0) (settingOf c) (startedAt t cid s))
    else setQueued (parF c 0 2 0) (settingOf c) (startedAt t cid s)) := by
  have hgood : ¬ (parF c 1 15 0 = 0 ∨ (!(sensorOf (startedAt t cid s) (parF c 0 2 0)).on) = true) := by
    rw [sensorOf_startedAt, hon]
    simpa using hid
  rw [execSettingSet, onStart_starts h]
  exact congrArg _ (if_neg hgood)

end

/-! ### SETTING_WRITE_ACK (R325, R326) -/

/-- The frame that a set written now applies to. -/
def applyFrame (x : Sensor) : Nat := x.frames + x.k - 1

/-- The other sets of a sensor while one is in write. -/
def otherSets (q : SetReq) (x : Sensor) : List SetReq := x.sets.filter fun y => y != q

/-- The sets of a sensor once one of them is written: it applies to its frame, over a set of the same frame. -/
def setsWritten (q : SetReq) (x : Sensor) : List SetReq :=
  ((otherSets q x).filter fun y => y.apply != some (applyFrame x)) ++ [{ q with apply := some (applyFrame x) }]

/-- The setting sets of a sensor changed. -/
def setsChanged (n : Nat) (sets : List SetReq) (s : State) : State := modSensor n (fun x => { x with sets := sets }) s

theorem setsChanged_sets {n : Nat} (hn : n < 8) {sets : List SetReq} {s u : State} (h : u.vis = (setsChanged n sets s).vis) : (sensorOf u n).sets = sets := by
  rw [sensorOf_of_vis h, setsChanged, sensorOf_modSensor_same hn]

theorem not_mem_setsWritten {q : SetReq} (x : Sensor) (hwaits : q.apply = none) : q ∉ setsWritten q x := by
  intro hmem
  rcases List.mem_append.1 hmem with hother | hsame
  · have hne := (List.mem_filter.1 (List.mem_filter.1 hother).1).2
    simp at hne
  · have heq : q = { q with apply := some (applyFrame x) } := List.mem_singleton.1 hsame
    have happly : q.apply = some (applyFrame x) := congrArg SetReq.apply heq
    rw [hwaits] at happly
    exact absurd happly nofun

theorem eq_of_mem_setsWritten {q y : SetReq} {x : Sensor} (hmem : y ∈ setsWritten q x) (hframe : y.apply = some (applyFrame x)) :
    y = { q with apply := some (applyFrame x) } := by
  rcases List.mem_append.1 hmem with hother | hsame
  · have hne := (List.mem_filter.1 hother).2
    simp [hframe] at hne
  · exact List.mem_singleton.1 hsame

section
variable {t : Nat} {n : Fin 8} {q : SetReq} {s : State} (h : setInWrite s = some (n.val, q))
include h

theorem execSettingWriteAck_writes : ∃ u, execSettingWriteAck t n true s = .next u ∧ (sensorOf u n.val).sets = setsWritten q (sensorOf s n.val) ∧
    Ended q.cid Status.done u := by
  have hwrite : setInWrite (advance t s) = some (n.val, q) := h
  simp only [execSettingWriteAck, onEvent, hwrite, ne_eq, not_true_eq_false, if_true, if_false]
  refine ⟨_, rfl, ?_, ?_⟩
  · refine setsChanged_sets (s := advance t s) n.isLt ?_
    rw [writeNextSet_vis, finish_vis]
    exact foldl_keeps State.vis (fun s y => notify_vis _ _ s) _ _
  · rw [Ended, writeNextSet_cmd]
    exact finish_ended _ _ _ _ _

theorem execSettingWriteAck_fails : ∃ u, execSettingWriteAck t n false s = .next u ∧ (sensorOf u n.val).sets = otherSets q (sensorOf s n.val) ∧
    Ended q.cid Status.faultNoEffect u := by
  have hwrite : setInWrite (advance t s) = some (n.val, q) := h
  simp only [execSettingWriteAck, onEvent, hwrite, ne_eq, not_true_eq_false, Bool.false_eq_true, if_false]
  refine ⟨_, rfl, ?_, ?_⟩
  · refine setsChanged_sets (s := advance t s) n.isLt ?_
    rw [writeNextSet_vis, finish_vis, raise_vis]
    rfl
  · rw [Ended, writeNextSet_cmd]
    exact finish_ended _ _ _ _ _

end

/-! ### The statement -/

/-- Settles O50: each command by the branch its checks leave it; what becomes of a setting set by the list of its sensor's sets. -/
theorem sensorsAndSettings : Obligations.SensorsAndSettings := by
  refine ⟨fun t cid c s => ⟨?sensor, ?verify⟩, ?set, ?ack⟩
  case sensor =>
    rintro _ _ h rfl rfl
    refine ⟨fun hbad => execSensorConfig_refuses h (hbad.imp_right sensorClash_iff.2), fun hok hfree => ?_⟩
    have hclear : sensorClash s (parF c 0 2 0) (sensorFrom c []) = false := by
      rw [← Bool.not_eq_true, sensorClash_iff]
      rintro ⟨k, hk, hne, hclash⟩
      exact hfree k hk hne hclash
    refine ⟨execSensorConfig_busy h hok hclear, ?_⟩
    rintro _ hidle hrange hgood rfl
    have hread := execSensorConfig_reads (t := t) h hok hclear hidle hrange hgood
    refine ⟨fun hbad => hread.trans (by rw [hbad]; rfl), fun hprofile hoff hnone => hread.trans ?_⟩
    rw [if_pos hprofile, configSensor_off (s := startedAt t cid s) hoff hnone]
  case verify =>
    rintro _ h rfl
    have hstep := execVerifyConfig_starts (t := t) h
    exact ⟨fun hin => hstep.trans (congrArg _ (if_pos (verifyCfgOk_iff.2 hin))),
      fun hout => hstep.trans (congrArg _ (if_neg (mt verifyCfgOk_iff.1 hout)))⟩
  case set =>
    rintro t cid c _ s h rfl
    obtain rfl := starts_cid h
    refine ⟨execSettingSet_refuses h, fun hid hon => ⟨_, execSettingSet_accepts h hid hon, ?_⟩⟩
    have hsets : (sensorOf (setQueued (parF c 0 2 0) (settingOf c) (startedAt t c.cid s)) (parF c 0 2 0)).sets =
        (sensorOf s (parF c 0 2 0)).sets ++ [settingOf c] := congrArg Sensor.sets (sensorOf_modSensor_same (parF_sensor_lt c) _ _)
    split
    · next hidle =>
      rw [sensorOf_of_vis (writeNextSet_vis _), writeNextSet_cmd, writeNextSet_well]
      exact ⟨hsets, modSensor_cmd _ _ _, fun hbusy => absurd (Option.isNone_iff_eq_none.1 hidle) hbusy, modSensor_well _ _ _⟩
    · exact ⟨hsets, modSensor_cmd _ _ _, fun _ => modSensor_outbox _ _ _, modSensor_well _ _ _⟩
  case ack =>
    rintro t n q _ s hwrite rfl
    obtain ⟨-, -, hwaits⟩ := setInWrite_waits hwrite
    obtain ⟨u, hacked, hsets, hended⟩ := execSettingWriteAck_writes (t := t) hwrite
    refine ⟨⟨u, hacked, ?_, ?_, ?_, hended⟩, execSettingWriteAck_fails hwrite⟩
    all_goals rw [hsets]
    · exact List.mem_append_right _ (List.mem_singleton_self _)
    · exact not_mem_setsWritten _ hwaits
    · exact fun y hmem hframe => eq_of_mem_setsWritten hmem hframe

end Sys2Proof.Machine
end

section
/-!
Frames: what a receiver's packets make of the frame in progress, and what IMAGE_CAPTURE and the trigger pulses do.
-/
namespace Sys2Proof.Machine

/-! ### The end of a frame (R328) -/

/-- A frame is classified at its end. -/
def classified (height now : Nat) (f : VisFrame) : VisFrame := { f with truncated := f.truncated || decide (f.raw.length < height), feAt := now }

/-- The faults of a classified frame are raised. -/
def frameReported (n : Nat) (f : VisFrame) (s : State) : State :=
  let d := frameDetail n f.frame
  let u := if f.truncated then raise FaultCode.frameTruncated d s else s
  if f.damaged then raise FaultCode.frameDamaged d u else if f.long then raise FaultCode.frameLong d u else u

/-- Elapsed time, device time and vision of a state. -/
def timeAndVision (s : State) : Nat × Time × Vision := (s.now, s.time, s.vis)

theorem raise_timeAndVision (code detail : Nat) (s : State) : timeAndVision (raise code detail s) = timeAndVision s := by
  rw [raise_frame]; rfl

theorem frameReported_timeAndVision (n : Nat) (f : VisFrame) (s : State) : timeAndVision (frameReported n f s) = timeAndVision s := by
  have htruncated : timeAndVision (if f.truncated then raise FaultCode.frameTruncated (frameDetail n f.frame) s else s) = timeAndVision s := by
    split
    · exact raise_timeAndVision _ _ s
    · rfl
  unfold frameReported
  dsimp only
  split
  · exact (raise_timeAndVision _ _ _).trans htruncated
  · split
    · exact (raise_timeAndVision _ _ _).trans htruncated
    · exact htruncated

@[simp] theorem modSensor_visFrames (n : Nat) (f : Sensor → Sensor) (s : State) : (modSensor n f s).vis.frames = s.vis.frames := by
  unfold modSensor
  split <;> rfl

theorem endVisFrame_some {n : Nat} {f : VisFrame} {s : State} (hcur : (sensorOf s n).cur = some f) :
    endVisFrame n s = { modSensor n (fun x => { x with cur := none }) (frameReported n (classified (sensorOf s n).height s.now f) s) with
      vis.frames := (frameReported n (classified (sensorOf s n).height s.now f) s).vis.frames ++ [classified (sensorOf s n).height s.now f] } := by
  simp only [endVisFrame, hcur]
  rfl

/-- What the end of a frame makes of its sensor and of the frames kept; the moment is the same before and after it. -/
structure FrameEnds (n : Nat) (s t : State) : Prop where
  sensor : sensorOf t n = { sensorOf s n with cur := none }
  frames : t.vis.frames = s.vis.frames ++ ((sensorOf s n).cur.map (classified (sensorOf s n).height s.now)).toList
  now : t.now = s.now
  time : t.time = s.time

theorem endVisFrame_ends {n : Nat} (hn : n < 8) (s : State) : FrameEnds n s (endVisFrame n s) := by
  cases hcur : (sensorOf s n).cur with
  | none =>
    have hsame : endVisFrame n s = s := by simp only [endVisFrame, hcur]
    rw [hsame]
    exact ⟨by rw [← hcur], by rw [hcur]; exact (List.append_nil _).symm, rfl, rfl⟩
  | some f =>
    have hkept := frameReported_timeAndVision n (classified (sensorOf s n).height s.now f) s
    rw [endVisFrame_some hcur]
    generalize frameReported n (classified (sensorOf s n).height s.now f) s = u at hkept
    obtain ⟨hnow, hrest⟩ := Prod.mk.inj hkept
    obtain ⟨htime, hvis⟩ := Prod.mk.inj hrest
    refine ⟨?_, ?_, (modSensor_now _ _ _).trans hnow, (modSensor_time _ _ _).trans htime⟩
    · rw [← sensorOf_of_vis hvis]
      exact sensorOf_modSensor_same hn _ u
    · rw [hvis, hcur]; rfl

/-! ### Packets of a receiver (R321, R322, R327) -/

theorem sensorAt_lt {n : Nat} {rx : Fin 2} {vc : Fin 16} {s : State} (h : sensorAt s rx vc = some n) : n < 8 := by
  unfold sensorAt at h
  split at h
  · exact absurd h nofun
  · exact List.mem_range.1 (List.mem_of_find?_eq_some h)

/-- A frame that has no end of its own is truncated. -/
def frameCut (n : Nat) (s : State) : State := modSensor n (fun x => { x with cur := x.cur.map fun f => { f with truncated := true } }) s

theorem frameCut_sensor {n : Nat} (hn : n < 8) (s : State) :
    sensorOf (frameCut n s) n = { sensorOf s n with cur := (sensorOf s n).cur.map fun f => { f with truncated := true } } := sensorOf_modSensor_same hn _ s

/-- A frame of a sensor that starts now, under the set that rules it (R325 to R327). -/
def frameStarted (n : Nat) (s : State) : VisFrame where
  sensor := n
  frame := (sensorOf s n).frames
  setId := ((setFor (sensorOf s n) (sensorOf s n).frames).map (·.id)).getD 0
  set := (setFor (sensorOf s n) (sensorOf s n).frames).map fun q => (q.exp, q.dgain)
  fs16 := devTime s
  fsAt := s.now

/-- A row of the sensor's data type joins the frame in progress (R321, R328). -/
def rowTaken (px : List Nat) (x : Sensor) : Sensor :=
  { x with cur := x.cur.map fun f =>
      let f := if px.length = x.width then f else { f with damaged := true }
      if x.height ≤ f.raw.length then { f with long := true } else { f with raw := f.raw ++ [px] } }

section
variable {f : VisFrame} {px : List Nat} {x : Sensor} (hcur : x.cur = some f) (hwidth : px.length = x.width)
include hcur hwidth

theorem rowTaken_fits (hroom : f.raw.length < x.height) : rowTaken px x = { x with cur := some { f with raw := f.raw ++ [px] } } := by
  simp only [rowTaken, hcur, Option.map_some, if_pos hwidth, if_neg (Nat.not_le.2 hroom)]

theorem rowTaken_long (hfull : x.height ≤ f.raw.length) : rowTaken px x = { x with cur := some { f with long := true } } := by
  simp only [rowTaken, hcur, Option.map_some, if_pos hwidth, if_pos hfull]

end

section
variable {t : Nat} {rx : Fin 2} {vc : Fin 16} {s : State} (hvis : domOn s 11 = true)
include hvis

/-- A packet of any kind that no sensor takes is discarded (R321). -/
theorem csiPackets_discarded (hnone : sensorAt s rx vc = none) :
    execCsiFrameStart t rx vc s = .next (discardPacket (advance t s)) ∧
    (∀ dtype ok px, execCsiLongPacket t rx vc dtype ok px s = .next (discardPacket (advance t s))) ∧
    execCsiFrameEnd t rx vc false s = .next (discardPacket (advance t s)) := by
  have hvis' : domOn (advance t s) 11 = true := hvis
  have hnone' : sensorAt (advance t s) rx vc = none := hnone
  refine ⟨?_, fun dtype ok px => ?_, ?_⟩
  · simp only [execCsiFrameStart, onEvent, hvis', hnone', Bool.not_true, Bool.false_eq_true, if_false]
  · simp only [execCsiLongPacket, onEvent, hvis', hnone', Bool.not_true, Bool.false_eq_true, if_false]
  · simp only [execCsiFrameEnd, onEvent, hvis', hnone', Bool.not_true, Bool.false_eq_true, if_false]

variable {n : Nat} (hat : sensorAt s rx vc = some n)
include hat

theorem execCsiFrameStart_starts : ∃ sets : Sensor → List SetReq, execCsiFrameStart t rx vc s = .next (modSensor n (fun x => { x with
    frames := x.frames + 1, cur := some (frameStarted n (endVisFrame n (frameCut n (advance t s)))), sets := sets x })
    (endVisFrame n (frameCut n (advance t s)))) := by
  have hvis' : domOn (advance t s) 11 = true := hvis
  have hat' : sensorAt (advance t s) rx vc = some n := hat
  simp only [execCsiFrameStart, onEvent, hvis', hat', Bool.not_true, Bool.false_eq_true, if_false]
  exact ⟨_, rfl⟩

theorem execCsiLongPacket_damages {f : VisFrame} (hcur : (sensorOf s n).cur = some f) (dtype : Nat) (px : List Nat) :
    execCsiLongPacket t rx vc dtype false px s = .next (modSensor n (fun y => { y with cur := some { f with damaged := true } }) (advance t s)) := by
  have hvis' : domOn (advance t s) 11 = true := hvis
  have hat' : sensorAt (advance t s) rx vc = some n := hat
  simp only [execCsiLongPacket, onEvent, hvis', hat', Bool.not_true, Bool.not_false, Bool.false_eq_true, if_false, if_true]
  exact congrArg _ (modSensor_congr (by rw [sensorOf_advance, hcur]; rfl))

theorem execCsiLongPacket_row (px : List Nat) :
    execCsiLongPacket t rx vc (if (sensorOf s n).raw12 then 0x2C else 0x2B) true px s = .next (modSensor n (rowTaken px) (advance t s)) := by
  have hvis' : domOn (advance t s) 11 = true := hvis
  have hat' : sensorAt (advance t s) rx vc = some n := hat
  simp only [execCsiLongPacket, onEvent, hvis', hat', sensorOf_advance, Bool.not_true, Bool.false_eq_true, if_false]
  exact congrArg _ (if_neg (Decidable.not_not.2 rfl))

theorem execCsiFrameEnd_ends : execCsiFrameEnd t rx vc false s = .next (endVisFrame n (advance t s)) := by
  have hvis' : domOn (advance t s) 11 = true := hvis
  have hat' : sensorAt (advance t s) rx vc = some n := hat
  simp only [execCsiFrameEnd, onEvent, hvis', hat', Bool.not_true, Bool.false_eq_true, if_false]

end

/-! ### IMAGE_CAPTURE and the trigger pulses (R323, R342) -/

section
variable {t cid : Nat} {c : Slot} {s : State} (h : Starts Op.imageCapture cid c s)
include h

theorem execImageCapture_starts : execImageCapture t cid s = .next (
    if 8 ≤ parN c 0 ∨ parN c 1 = 0 then refuse c Status.badParameter (startedAt t cid s)
    else if !outRing s (parN c 2) then refuse c Status.badRing (startedAt t cid s)
    else { startedAt t cid s with
      vis.captures := s.vis.captures ++ [{ cid := cid, sensor := parN c 0, ring := parN c 2, left := parN c 1 }] }) := by
  rw [execImageCapture, onStart_starts h, starts_cid h]
  rfl

theorem execImageCapture_refuses (hbad : 8 ≤ parN c 0 ∨ parN c 1 = 0) :
    execImageCapture t cid s = .next (refuse c Status.badParameter (startedAt t cid s)) := by
  rw [execImageCapture_starts h, if_pos hbad]

variable (hsensor : parN c 0 < 8) (hcount : parN c 1 ≠ 0)
include hsensor hcount

theorem execImageCapture_badRing (hring : outRing s (parN c 2) = false) :
    execImageCapture t cid s = .next (refuse c Status.badRing (startedAt t cid s)) := by
  rw [execImageCapture_starts h, if_neg (by omega), if_pos (by simp [hring])]

theorem execImageCapture_waits (hring : outRing s (parN c 2) = true) : execImageCapture t cid s = .next { startedAt t cid s with
    vis.captures := s.vis.captures ++ [{ cid := cid, sensor := parN c 0, ring := parN c 2, left := parN c 1 }] } := by
  rw [execImageCapture_starts h, if_neg (by omega), if_neg (by simp [hring])]

end

theorem execCameraTriggerPulseEnd_judges {t m : Nat} {g : Fin 16} {s : State} (h : s.vis.pulses[g] = some m) : execCameraTriggerPulseEnd t g s =
    .next (if m + 1000 ≤ (advance t s).now then { advance t s with vis.pulses := s.vis.pulses.set g none } else advance t s) := by
  have h' : (advance t s).vis.pulses[g] = some m := h
  simp only [execCameraTriggerPulseEnd, onEvent, h']
  rfl

end Sys2Proof.Machine
end

section
/-!
The codes under verification, what a frame that leaves the pipeline does to them, and the statement about frames.
-/
namespace Sys2Proof.Machine

/-! ### Codes under verification (R335 to R339) -/

/-- Every code under verification was under verification before: none is added. -/
def CodesFrom (s t : State) : Prop := ∀ v ∈ t.vis.codes, ∃ v0 ∈ s.vis.codes, v.rec_ = v0.rec_

theorem CodesFrom.of_codes {s t : State} (h : t.vis.codes = s.vis.codes) : CodesFrom s t := fun v hv => ⟨v, h ▸ hv, rfl⟩

theorem CodesFrom.of_vis {s t : State} (h : t.vis = s.vis) : CodesFrom s t := .of_codes (congrArg Vision.codes h)

theorem CodesFrom.of_filter {p : Verify → Bool} {s t : State} (h : t.vis.codes = s.vis.codes.filter p) : CodesFrom s t :=
  fun v hv => ⟨v, (List.mem_filter.1 (h ▸ hv)).1, rfl⟩

theorem CodesFrom.refl (s : State) : CodesFrom s s := .of_codes rfl

theorem CodesFrom.trans {s t u : State} (h : CodesFrom s t) (k : CodesFrom t u) : CodesFrom s u := by
  intro v hv
  obtain ⟨w, hw, hvw⟩ := k v hv
  obtain ⟨x, hx, hwx⟩ := h w hw
  exact ⟨x, hx, hvw.trans hwx⟩

/-- The last operation first, for an operation that is named after fields have changed. -/
theorem CodesFrom.after {s t u : State} (k : CodesFrom t u) (h : CodesFrom s t) : CodesFrom s u := h.trans k

theorem CodesFrom.foldl {α : Type} {g : State → α → State} (hg : ∀ s a, CodesFrom s (g s a)) (l : List α) (s : State) :
    CodesFrom s (l.foldl g s) := foldl_rel .refl .trans hg l s

theorem CodesFrom.ite {s t u : State} {p : Prop} [Decidable p] (h : CodesFrom s t) (k : CodesFrom s u) : CodesFrom s (if p then t else u) := by
  split <;> assumption

/-- A step that is taken only under a condition. -/
theorem CodesFrom.when {s t u : State} {p : Prop} [Decidable p] (h : CodesFrom s t) (k : CodesFrom t u) : CodesFrom s (if p then u else t) :=
  .ite (h.trans k) h

theorem sendVision_codesFrom (result : Bool) (sensor frame : Nat) (data : List Byte) (s : State) : CodesFrom s (sendVision result sensor frame data s) := by
  unfold sendVision
  split
  · exact .ite (.of_vis (raise_vis _ _ s)) (.of_codes rfl)
  · exact .of_vis (foldl_keeps State.vis (fun s r => queueUnits_vis _ _ s) _ s)

/-- What a verdict does: a standby sends it to the lead, and any other unit lets it take effect (R338, R375, R394). -/
def verdictTaken (v : Verify) (out grade fault : Nat) (ws : List W64) (s : State) : State :=
  if s.twn.role == .synced then (if out = 6 then s else uraraSend s.twn.peer 0x55 ws s)
  else applyOutcome v.rec_ out grade fault
    (if out = 0 then feedLive (((gradedOf v).head?.map fun g => topRows (imgRows g)).getD []) s else s)

theorem verdictTaken_vis (v : Verify) (out grade fault : Nat) (ws : List W64) (s : State) : (verdictTaken v out grade fault ws s).vis = s.vis := by
  unfold verdictTaken
  split
  · split
    · rfl
    · exact uraraSend_vis _ _ _ s
  · rw [applyOutcome_vis]
    split
    · exact feedLive_vis _ s
    · rfl

/-- The end of a verification takes its code off; its units and its verdict leave the others (R338, R339). -/
theorem endVerify_codesFrom (v : Verify) (s : State) : CodesFrom s (endVerify v s) := by
  have hoff : CodesFrom s { s with vis.codes := s.vis.codes.filter fun x => x.rec_ != v.rec_ } := .of_filter rfl
  unfold endVerify
  dsimp only
  split
  · exact hoff
  · split
    · exact hoff
    · refine .after (.of_vis (verdictTaken_vis v _ _ _ _ _)) (.when (.when (.of_filter rfl) (sendVision_codesFrom _ _ _ _ _)) (.foldl (fun s i => ?_) _ _))
      split
      · exact sendVision_codesFrom _ _ _ _ s
      · exact .refl s

theorem settleVerify_codesFrom (s : State) : CodesFrom s (settleVerify s) :=
  (CodesFrom.foldl (fun s v => endVerify_codesFrom v s) _ _).after (.of_filter rfl)

/-! ### A frame that leaves the pipeline (R331, R335, R338 to R342) -/

/-- Whatever a frame is to a code, the code stays under its record. -/
theorem offerFrame_rec (s : State) (f : VisFrame) (full : Bool) (v : Verify) : (offerFrame s f full v).rec_ = v.rec_ := by
  unfold offerFrame
  dsimp only
  repeat' split
  all_goals rfl

theorem captureFrame_codesFrom (f : VisFrame) (s : State) : CodesFrom s (captureFrame f s) := by
  refine .foldl (fun s c => .of_codes ?_) _ s
  dsimp only
  rw [queueUnits_vis]

theorem noteStreak_codesFrom (o : StreakObs) (s : State) : CodesFrom s (noteStreak o s) := by
  unfold noteStreak
  split
  · exact .refl s
  · exact .ite ((CodesFrom.of_vis (retireElement_vis _ _ _ _)).after (.of_codes rfl)) (.of_codes rfl)

theorem reportStreakOff_codesFrom (f : VisFrame) (s : State) : CodesFrom s (reportStreakOff f s) := by
  refine .foldl (fun s j => .foldl (fun s p => ?_) _ s) _ s
  split
  · exact .refl s
  · exact (CodesFrom.of_vis (notify_vis _ _ _)).after (.of_codes rfl)

/-- The processed frame takes its place among the frames kept. -/
def framePiped (n : Nat) (f : VisFrame) (s : State) : State :=
  { s with vis.frames := s.vis.frames.map fun g => if g.sensor = n ∧ g.frame = f.frame ∧ !g.done then f else g }

/-- A frame's statistics leave, where they are asked for (R331). -/
def statsSent (n : Nat) (f : VisFrame) (s : State) : State :=
  if s.vis.cfg.stats then sendVision false n f.frame (visionUnit 2 (wordsBytes (frameHeader s f) ++ statsBytes (channelOf s f s.vis.cfg 0))) s else s

/-- A used frame leaves for the captures of its sensor (R342). -/
def frameCaptured (f : VisFrame) (s : State) : State := if frameUsed f then captureFrame f s else s

/-- A used frame meets a full queue (R338). -/
def overloadReported (n : Nat) (f : VisFrame) (s : State) : State :=
  if decide (256 ≤ queuedImages s) && frameUsed f && s.vis.codes.any (fun v => decide (v.firedAt < f.feAt) && frameCovers s f v) then
    raise FaultCode.verifyOverload (frameDetail n f.frame) s
  else s

/-- A frame meets every code under verification (R335, R339). -/
def frameOffered (f : VisFrame) (full : Bool) (s : State) : State := settleVerify { s with vis.codes := s.vis.codes.map (offerFrame s f full) }

/-- The elements seen on a used frame are judged for streaks (R341). -/
def streaksNoted (n : Nat) (f : VisFrame) (streaks : List StreakObs) (s : State) : State :=
  if frameUsed f then
    (streaks.filter fun o => match planeOf s o.stall o.chan with | some p => resolves s (sensorOf s n) p | none => false).foldl
      (fun s o => noteStreak o s) (reportStreakOff f s)
  else s

theorem statsSent_codesFrom (n : Nat) (f : VisFrame) (s : State) : CodesFrom s (statsSent n f s) := .when (.refl s) (sendVision_codesFrom _ _ _ _ s)

theorem frameCaptured_codesFrom (f : VisFrame) (s : State) : CodesFrom s (frameCaptured f s) := .when (.refl s) (captureFrame_codesFrom f s)

theorem overloadReported_codesFrom (n : Nat) (f : VisFrame) (s : State) : CodesFrom s (overloadReported n f s) := .when (.refl s) (.of_vis (raise_vis _ _ s))

theorem frameOffered_codesFrom (f : VisFrame) (full : Bool) (s : State) : CodesFrom s (frameOffered f full s) := by
  refine (settleVerify_codesFrom _).after fun v hv => ?_
  obtain ⟨v0, hv0, rfl⟩ := List.mem_map.1 hv
  exact ⟨v0, hv0, offerFrame_rec s f full v0⟩

theorem streaksNoted_codesFrom (n : Nat) (f : VisFrame) (streaks : List StreakObs) (s : State) : CodesFrom s (streaksNoted n f streaks s) :=
  .when (.refl s) ((reportStreakOff_codesFrom f s).trans (.foldl (fun s o => noteStreak_codesFrom o s) _ _))

/-- Before the frames that no code names leave, the frame has met the codes, and none was added. -/
theorem execPipelineFrameDone_offers {t : Nat} {n : Fin 8} {f : VisFrame} (streaks : List StreakObs) {s : State}
    (h : s.vis.frames.find? (fun f => f.sensor == n.val && !f.done) = some f) :
    ∃ u, execPipelineFrameDone t n streaks s = .next (dropFrames u) ∧ CodesFrom s u := by
  have h' : (advance t s).vis.frames.find? (fun f => f.sensor == n.val && !f.done) = some f := h
  let g := processed (advance t s) f
  let captured := frameCaptured g (statsSent n.val g (framePiped n.val g (advance t s)))
  refine ⟨streaksNoted n.val g streaks (frameOffered g (decide (256 ≤ queuedImages captured)) (overloadReported n.val g captured)), ?_,
    (streaksNoted_codesFrom _ _ _ _).after ((frameOffered_codesFrom _ _ _).after ((overloadReported_codesFrom _ _ _).after
      ((frameCaptured_codesFrom _ _).after ((statsSent_codesFrom _ _ _).after (.of_codes rfl)))))⟩
  simp only [execPipelineFrameDone, onEvent, h']
  rfl

theorem dropFrames_named {f : VisFrame} {s : State} (hf : f ∈ (dropFrames s).vis.frames) :
    f.done = false ∨ ∃ v ∈ s.vis.codes, ∃ i ∈ v.images, i.sensor = f.sensor ∧ i.frame = f.frame := by
  have hkept := (List.mem_filter.1 hf).2
  simpa using hkept

/-! ### The statement -/

/-- Settles O51: each packet by what it makes of the frame in progress, each command and pulse by its branch, and the pipeline by its last act, which drops frames. -/
theorem framesComeAndGo : Obligations.FramesComeAndGo := by
  refine ⟨fun t rx vc s hvis => ⟨csiPackets_discarded hvis, ?frames⟩, ?capture, ?pulse, ?pipeline⟩
  case frames =>
    rintro n _ hat rfl
    have hn := sensorAt_lt hat
    refine ⟨?start, fun f px hcur hwidth => ⟨fun hroom => ?_, fun hfull => ?_⟩, fun f dtype px hcur => execCsiLongPacket_damages hvis hat hcur dtype px, ?ended⟩
    case start =>
      obtain ⟨sets, hstep⟩ := execCsiFrameStart_starts (t := t) hvis hat
      obtain ⟨hsensor, hframes, hnow, htime⟩ := endVisFrame_ends hn (frameCut n (advance t s))
      rw [frameCut_sensor hn, sensorOf_advance] at hsensor hframes
      generalize endVisFrame n (frameCut n (advance t s)) = u at hstep hsensor hframes hnow htime
      have hclock : devTime u = devTime (advance t s) := congrArg (·.clk.acc / 2 ^ 32) (htime.trans (modSensor_time _ _ _))
      refine ⟨_, hstep, ?_, ⟨frameStarted n u, ?_, (congrArg Sensor.frames hsensor).trans rfl, hclock, hnow.trans (modSensor_now _ _ _), rfl⟩, fun f hcur => ?_, fun hcur => ?_⟩
      · rw [sensorOf_modSensor_same hn, hsensor]
      · rw [sensorOf_modSensor_same hn]
      all_goals rw [modSensor_visFrames, hframes, hcur]
      · exact ⟨_, List.mem_append_right _ (List.mem_singleton_self _), rfl, rfl⟩
      · exact (List.append_nil _).trans (modSensor_visFrames _ _ _)
    case ended =>
      intro f hcur
      obtain ⟨hsensor, hframes, -, -⟩ := endVisFrame_ends hn (advance t s)
      refine ⟨_, execCsiFrameEnd_ends hvis hat, congrArg Sensor.cur hsensor, ?_⟩
      rw [hframes, sensorOf_advance, hcur]
      rfl
    all_goals refine (execCsiLongPacket_row hvis hat px).trans (congrArg _ (modSensor_congr ?_))
    · exact rowTaken_fits hcur hwidth hroom
    · exact rowTaken_long hcur hwidth hfull
  case capture =>
    exact fun t cid c s h => ⟨execImageCapture_refuses h, execImageCapture_badRing h, execImageCapture_waits h⟩
  case pulse =>
    intro t m g s h
    have hstep := execCameraTriggerPulseEnd_judges (t := t) h
    exact ⟨fun hover => hstep.trans (congrArg _ (if_pos hover)), fun hrun => hstep.trans (congrArg _ (if_neg (Nat.not_le.2 hrun)))⟩
  case pipeline =>
    intro t n f streaks s h
    obtain ⟨u, hstep, hfrom⟩ := execPipelineFrameDone_offers (t := t) streaks h
    exact ⟨_, hstep, fun g hg => dropFrames_named (s := u) hg, hfrom⟩

end Sys2Proof.Machine
end

section
/-!
What reports, faults and the steering of the clock leave of the time unit, and how the agreement of the domains is noted.
-/
namespace Sys2Proof.Machine

/-! ### Reports and replies -/

@[simp] theorem notify_time (code detail : Nat) (s : State) : (notify code detail s).time = s.time := by rw [notify_frame]
@[simp] theorem raise_time (code detail : Nat) (s : State) : (raise code detail s).time = s.time := by rw [raise_frame]
@[simp] theorem finish_time (cid status fault : Nat) (ws : List W64) (s : State) : (finish cid status fault ws s).time = s.time := by rw [finish_frame]

/-- At the present moment no time passes. -/
theorem advance_present {t : Nat} {s : State} (h : s.now = t) : advance t s = s := by
  subst h
  simp [advance]

/-! ### The tracked domains -/

@[simp] theorem domAt_advance (t : Nat) (s : State) (d : Fin 2) : domAt (advance t s) d = domAt s d := rfl
@[simp] theorem domUp_advance (t : Nat) (s : State) (d : Fin 2) : domUp (advance t s) d = domUp s d := rfl

theorem domAt_modDom_same (d : Fin 2) (f : PtpDom → PtpDom) (s : State) : domAt (modDom d f s) d = f (domAt s d) := upd_same s.time.doms d f

theorem domAt_modDom_other {d e : Fin 2} (h : e ≠ d) (f : PtpDom → PtpDom) (s : State) : domAt (modDom d f s) e = domAt s e := upd_other h

theorem modDom_modDom (d : Fin 2) (f g : PtpDom → PtpDom) (s : State) : modDom d g (modDom d f s) = modDom d (fun x => g (f x)) s := by
  unfold modDom
  rw [upd_upd]

theorem modDom_congr {d : Fin 2} {f g : PtpDom → PtpDom} {s : State} (h : f (domAt s d) = g (domAt s d)) : modDom d f s = modDom d g s := by
  unfold modDom upd
  rw [show f s.time.doms[d] = g s.time.doms[d] from h]

theorem zero_or_one (d : Fin 2) : d = 0 ∨ d = 1 := by revert d; decide

theorem otherDom_ne (d : Fin 2) : otherDom d ≠ d := by revert d; decide

theorem eq_or_otherDom (d e : Fin 2) : e = d ∨ e = otherDom d := by revert d e; decide

/-! ### What goes on while the clock is steered (R350, R357, R359) -/

/-- What every step of the time unit leaves that neither sets the clock nor answers a command: the moment, device time, the settings,
the PPS inputs, the commands, the link and the Well. -/
structure RunsOn (s u : State) : Prop where
  now : u.now = s.now
  acc : u.time.clk.acc = s.time.clk.acc
  cfg : u.time.cfg = s.time.cfg
  ins : u.time.ins = s.time.ins
  cmd : u.cmd = s.cmd
  ura : u.ura = s.ura
  well : u.well = s.well

/-- Following, steering and reporting leave the domains too, and what TIME_SELECT and TIME_DISAGREE set. -/
structure Steered (s u : State) : Prop extends RunsOn s u where
  doms : u.time.doms = s.time.doms
  preferred : u.time.clk.preferred = s.time.clk.preferred
  disSent : u.time.clk.disSent = s.time.clk.disSent

theorem RunsOn.trans {s u v : State} (h : RunsOn s u) (k : RunsOn u v) : RunsOn s v :=
  ⟨k.now.trans h.now, k.acc.trans h.acc, k.cfg.trans h.cfg, k.ins.trans h.ins, k.cmd.trans h.cmd, k.ura.trans h.ura, k.well.trans h.well⟩

theorem Steered.refl (s : State) : Steered s s := ⟨⟨rfl, rfl, rfl, rfl, rfl, rfl, rfl⟩, rfl, rfl, rfl⟩

theorem Steered.trans {s u v : State} (h : Steered s u) (k : Steered u v) : Steered s v :=
  ⟨h.toRunsOn.trans k.toRunsOn, k.doms.trans h.doms, k.preferred.trans h.preferred, k.disSent.trans h.disSent⟩

theorem Steered.domAt {s u : State} (h : Steered s u) (d : Fin 2) : domAt u d = domAt s d := congrArg (·[d]) h.doms

theorem modDom_runsOn (d : Fin 2) (f : PtpDom → PtpDom) (s : State) : RunsOn s (modDom d f s) := ⟨rfl, rfl, rfl, rfl, rfl, rfl, rfl⟩

theorem modClk_steered {f : Clock → Clock} {s : State} (hacc : (f s.time.clk).acc = s.time.clk.acc)
    (hpref : (f s.time.clk).preferred = s.time.clk.preferred) (hsent : (f s.time.clk).disSent = s.time.clk.disSent) : Steered s (modClk f s) :=
  ⟨⟨rfl, hacc, rfl, rfl, rfl, rfl, rfl⟩, rfl, hpref, hsent⟩

theorem notify_steered (code detail : Nat) (s : State) : Steered s (notify code detail s) := by
  rw [notify_frame]; exact ⟨⟨rfl, rfl, rfl, rfl, rfl, rfl, rfl⟩, rfl, rfl, rfl⟩

theorem raise_steered (code detail : Nat) (s : State) : Steered s (raise code detail s) := by
  rw [raise_frame]; exact ⟨⟨rfl, rfl, rfl, rfl, rfl, rfl, rfl⟩, rfl, rfl, rfl⟩

theorem steer_steered (ask : Int) (d : Nat) (s : State) : Steered s (steer ask d s) := by
  unfold steer
  dsimp only
  split
  · exact (modClk_steered rfl rfl rfl).trans (raise_steered _ _ _)
  · exact modClk_steered rfl rfl rfl

theorem steer_state (ask : Int) (d : Nat) (s : State) : (steer ask d s).time.clk.state = s.time.clk.state := by
  unfold steer
  dsimp only
  split
  · rw [raise_time]; rfl
  · rfl

theorem enterHoldover_time (base : Nat) (all : Bool) (s : State) : (enterHoldover base all s).time = { s.time with clk := { s.time.clk with
    state := .holdover, followed := none, rho := heldRho s.time.clk, rhoAt := s.now, ppsDisc := false, errAll := all, errBase := base,
    errFrom := s.now, errRaise := 0 } } := notify_time _ _ _

theorem enterHoldover_steered (base : Nat) (all : Bool) (s : State) : Steered s (enterHoldover base all s) :=
  (modClk_steered rfl rfl rfl).trans (notify_steered _ _ _)

theorem follow_steered (d : Fin 2) (s : State) : Steered s (follow d s) := modClk_steered rfl rfl rfl

theorem switchTo_steered (d : Fin 2) (s : State) : Steered s (switchTo d s) := (follow_steered d s).trans (notify_steered _ _ _)

theorem switchTo_followed (d : Fin 2) (s : State) : (switchTo d s).time.clk.followed = some d := by
  rw [switchTo, notify_time]; rfl

/-- A clock that follows a domain is LOCKED or SETTLING (R346). -/
theorem switchTo_state_ne_holdover (d : Fin 2) (s : State) : (switchTo d s).time.clk.state ≠ .holdover := by
  rw [switchTo, notify_time]
  show followState s d ≠ .holdover
  unfold followState
  split <;> decide

theorem followedFailed_steered (d : Fin 2) (s : State) : Steered s (followedFailed d s) := by
  unfold followedFailed
  split
  · exact .refl s
  · split
    · exact switchTo_steered _ s
    · exact enterHoldover_steered _ _ s

theorem holdoverFollow_steered (s : State) : Steered s (holdoverFollow s) := by
  unfold holdoverFollow
  split
  · exact .refl s
  · dsimp only
    split
    · exact switchTo_steered _ s
    · split
      · exact switchTo_steered _ s
      · exact .refl s

theorem followSample_steered (d : Fin 2) (s : State) : Steered s (followSample d s) := by
  unfold followSample
  split
  · exact .refl s
  · dsimp only
    have h := (modClk_steered (f := fun c => { c with state := followState s d }) (s := s) rfl rfl rfl).trans
      (steer_steered (Config.servoRate s.time.cfg.loopBw (domAt s d).offset s.time.clk.rho) d.val _)
    split
    · exact h.trans (modClk_steered rfl rfl rfl)
    · exact h

/-! ### The agreement of the domains (R355, R359, R361) -/

/-- What the noting of agreement leaves beside what runs on: of a domain all but its moments of agreement and lock, of the clock its course. -/
structure Noted (s u : State) : Prop extends RunsOn s u where
  dom : ∀ d, ∃ a l, domAt u d = { domAt s d with agreeFrom := a, lockedFrom := l }
  clkState : u.time.clk.state = s.time.clk.state
  followed : u.time.clk.followed = s.time.clk.followed

/-- A domain whose agreement and lock are judged at a moment. -/
def agreementJudged (s : State) (x : PtpDom) : PtpDom := { x with
  agreeFrom := since s.now (decide (nsOf x.offset ≤ 1000 * s.time.cfg.agree)) x.agreeFrom
  lockedFrom := since s.now (x.state == .locked) x.lockedFrom }

theorem domAt_agreementJudged (s : State) (d : Fin 2) :
    domAt (modDom 1 (agreementJudged s) (modDom 0 (agreementJudged s) s)) d = agreementJudged s (domAt s d) := by
  obtain rfl | rfl := zero_or_one d
  · rw [domAt_modDom_other (by decide), domAt_modDom_same]
  · rw [domAt_modDom_same, domAt_modDom_other (by decide)]

theorem noteAgreement_noted (s : State) : Noted s (noteAgreement s) := by
  have hdom : ∀ d, ∃ a l, domAt (modDom 1 (agreementJudged s) (modDom 0 (agreementJudged s) s)) d =
      { domAt s d with agreeFrom := a, lockedFrom := l } := fun d => ⟨_, _, domAt_agreementJudged s d⟩
  unfold noteAgreement
  extract_lets f u both apart v
  have hv : Noted s v := ⟨⟨rfl, rfl, rfl, rfl, rfl, rfl, rfl⟩, hdom, rfl, rfl⟩
  clear_value v
  split
  · exact ⟨⟨hv.now, hv.acc, hv.cfg, hv.ins, hv.cmd, hv.ura, hv.well⟩, hv.dom, hv.clkState, hv.followed⟩
  · exact hv

end Sys2Proof.Machine
end

section
/-!
Samples, path delays, Announces and the timers of a tracked domain, and the statement about them.
-/
namespace Sys2Proof.Machine

/-! ### A sample is judged (R355, R356) -/

/-- What a sample makes of the time unit: a domain changes, then the clock is steered and the agreement noted. -/
structure Sampled (d : Fin 2) (f : PtpDom → PtpDom) (s u : State) : Prop extends RunsOn s u where
  own : ∃ a l, domAt u d = { f (domAt s d) with agreeFrom := a, lockedFrom := l }
  other : (domAt u (otherDom d)).offset = (domAt s (otherDom d)).offset

theorem sampled_of_steered {d : Fin 2} {f : PtpDom → PtpDom} {s v : State} (h : Steered (modDom d f s) v) : Sampled d f s (noteAgreement v) := by
  have hnoted := noteAgreement_noted v
  refine ⟨((modDom_runsOn d f s).trans h.toRunsOn).trans hnoted.toRunsOn, ?_, ?_⟩
  · obtain ⟨a, l, hdom⟩ := hnoted.dom d
    exact ⟨a, l, by rw [hdom, h.domAt, domAt_modDom_same]⟩
  · obtain ⟨a, l, hdom⟩ := hnoted.dom (otherDom d)
    rw [hdom, h.domAt, domAt_modDom_other (otherDom_ne d)]

/-- A domain whose sample at a moment jumped against its model (R356). -/
def sampleJumped (now : Nat) (x : PtpDom) : PtpDom :=
  { x with lastSample := now, state := .faulty, good := 0, haveModel := false, agreeFrom := none, lockedFrom := none }

/-- The good samples in a row after one more (R355). -/
def goodAfter (s : State) (offset : Int) (x : PtpDom) : Nat :=
  if decide (nsOf (offset - x.model) ≤ s.time.cfg.lockThr) && x.haveModel then x.good + 1 else 0

/-- A domain with a new sample applied: a model starts at its first sample, and 16 good ones lock the domain (R355, R358). -/
def sampleApplied (s : State) (offset : Int) (x : PtpDom) : PtpDom := { x with
  lastSample := s.now
  offset := offset
  model := if x.haveModel then Config.servoModel x.model offset else offset
  haveModel := true
  good := goodAfter s offset x
  state := if x.state = .acquire ∧ 16 ≤ goodAfter s offset x then .locked else x.state }

/-- A clock that was set before takes no setting step from a domain (R349, R350). -/
theorem firstFollow_set {d : Fin 2} {s : State} (hfree : s.time.clk.state ≠ .free) (hkept : s.time.clk.state ≠ .kept) : firstFollow d s = s :=
  if_pos (.inr (.inl ⟨hfree, hkept⟩))

section
variable {d : Fin 2} {offset : Int} {s : State} (hoff : (domAt s d).state ≠ .off) (hlisten : (domAt s d).state ≠ .listen)
include hoff hlisten

theorem sample_jumps (hmodel : (domAt s d).haveModel = true) (hfaulty : (domAt s d).state ≠ .faulty)
    (hjump : 1000 * s.time.cfg.jumpLimit < nsOf (offset - (domAt s d).model)) : Sampled d (sampleJumped s.now) s (sample d offset s) := by
  unfold sample
  dsimp only
  rw [if_neg (not_or.2 ⟨hoff, hlisten⟩), if_pos ⟨hmodel, hfaulty, hjump⟩, modDom_modDom]
  exact sampled_of_steered (((raise_steered _ _ _).trans (followedFailed_steered d _)).trans (holdoverFollow_steered _))

variable (hjudged : (domAt s d).haveModel = true → (domAt s d).state ≠ .faulty → nsOf (offset - (domAt s d).model) ≤ 1000 * s.time.cfg.jumpLimit)
include hjudged

theorem sample_held (hfrozen : (domAt s d).state = .frozen) : Sampled d (fun x => { x with lastSample := s.now }) s (sample d offset s) := by
  unfold sample
  dsimp only
  rw [if_neg (not_or.2 ⟨hoff, hlisten⟩), if_neg fun ⟨hmodel, hfaulty, hjump⟩ => Nat.not_le.2 hjump (hjudged hmodel hfaulty), if_pos hfrozen]
  exact sampled_of_steered (holdoverFollow_steered _)

theorem sample_applies (hfrozen : (domAt s d).state ≠ .frozen) (hfree : s.time.clk.state ≠ .free) (hkept : s.time.clk.state ≠ .kept) :
    Sampled d (sampleApplied s offset) s (sample d offset s) := by
  unfold sample
  dsimp only
  rw [if_neg (not_or.2 ⟨hoff, hlisten⟩), if_neg fun ⟨hmodel, hfaulty, hjump⟩ => Nat.not_le.2 hjump (hjudged hmodel hfaulty), if_neg hfrozen, modDom_modDom,
    modDom_congr (g := sampleApplied s offset),
    firstFollow_set (s := modDom d (sampleApplied s offset) s) hfree hkept]
  · exact sampled_of_steered ((holdoverFollow_steered _).trans (followSample_steered d _))
  · rfl

end

/-! ### Sync and Follow_Up (R352, R353) -/

/-- A domain that has taken a Sync, stamped at its ingress less the port's latency. -/
def syncTaken (s : State) (d : Fin 2) (seq : Option Nat) (origin corr ingress : Int) (x : PtpDom) : PtpDom :=
  { x with t2 := ingress - ingressOf s d, t1 := origin, syncCorr := corr, syncSeq := seq }

/-- A domain whose Sync is complete. -/
def syncDone (s : State) (d : Fin 2) (origin corr ingress : Int) (x : PtpDom) : PtpDom := { syncTaken s d none origin corr ingress x with haveSync := true }

theorem completeSync_noDelay {d : Fin 2} {s : State} (h : (domAt s d).delays = []) :
    completeSync d s = modDom d (fun x => { x with haveSync := true, syncSeq := none, lastSample := s.now }) s := by
  unfold completeSync
  dsimp only
  rw [domAt_modDom_same, if_pos (by rw [h]; rfl), modDom_modDom]
  rfl

theorem completeSync_delay {d : Fin 2} {s : State} (h : (domAt s d).delays ≠ []) : completeSync d s =
    sample d (offsetOf (domAt s d)) (modDom d (fun x => { x with haveSync := true, syncSeq := none }) s) := by
  unfold completeSync
  dsimp only
  rw [domAt_modDom_same, if_neg (by simpa using h)]
  rfl

section
variable {t : Nat} {d : Fin 2} {seq : Nat} {origin corr ingress : Int} {s : State} (hup : domUp s d = true)
include hup

theorem execPtpFollowUpReceive_completes (hseq : (domAt s d).syncSeq = some seq) : execPtpFollowUpReceive t d seq origin corr s =
    .next (completeSync d (modDom d (fun x => { x with t1 := origin, syncCorr := x.syncCorr + corr }) (advance t s))) := by
  have hrun : ¬ (!domUp (advance t s) d || (domAt (advance t s) d).syncSeq != some seq) = true := by simp [hup, hseq]
  exact congrArg _ (if_neg hrun)

variable (hlisten : (domAt s d).state ≠ .listen)
include hlisten

theorem execPtpSyncReceive_takes (two : Bool) : execPtpSyncReceive t d seq two origin corr ingress s = .next (
    if two then modDom d (syncTaken s d (some seq) origin corr ingress) (advance t s)
    else completeSync d (modDom d (syncTaken s d (some seq) origin corr ingress) (advance t s))) := by
  have hrun : ¬ (!domUp (advance t s) d || (domAt (advance t s) d).state == .listen) = true := by simp [hup, hlisten]
  exact congrArg _ (if_neg hrun)

/-- A Sync of a domain with a path delay gives its sample: the master's time at the ingress less the ingress stamp. -/
theorem execPtpSyncReceive_samples {mpd off : Int} {rest : List Int} (hdelays : (domAt s d).delays = mpd :: rest)
    (hoffset : off = origin + corr + mpd + (domAt s d).asym - (ingress - ingressOf s d)) :
    ∃ v, execPtpSyncReceive t d seq false origin corr ingress s = .next (sample d off v) ∧ RunsOn (advance t s) v ∧ v.time.clk = (advance t s).time.clk ∧
      domAt v d = syncDone s d origin corr ingress (domAt s d) ∧ domAt v (otherDom d) = domAt s (otherDom d) := by
  refine ⟨modDom d (syncDone s d origin corr ingress) (advance t s), ?_, modDom_runsOn _ _ _, rfl, domAt_modDom_same _ _ _, domAt_modDom_other (otherDom_ne d) _ _⟩
  have htaken : domAt (modDom d (syncTaken s d (some seq) origin corr ingress) (advance t s)) d = syncTaken s d (some seq) origin corr ingress (domAt s d) :=
    domAt_modDom_same _ _ _
  have hoff : offsetOf (syncTaken s d (some seq) origin corr ingress (domAt s d)) = off := by
    rw [hoffset]
    simp only [offsetOf, syncTaken, hdelays, List.headD_cons]
  rw [execPtpSyncReceive_takes hup hlisten, if_neg Bool.false_ne_true, completeSync_delay (by rw [htaken]; simp [syncTaken, hdelays]), htaken, hoff, modDom_modDom]
  rfl

/-- Without a path delay a Sync only keeps the domain alive. -/
theorem execPtpSyncReceive_keepsAlive (hdelays : (domAt s d).delays = []) : execPtpSyncReceive t d seq false origin corr ingress s =
    .next (modDom d (fun x => { x with
      t1 := origin, t2 := ingress - ingressOf s d, syncCorr := corr, haveSync := true, syncSeq := none, lastSample := (advance t s).now }) (advance t s)) := by
  have hnone : (domAt (modDom d (syncTaken s d (some seq) origin corr ingress) (advance t s)) d).delays = [] := by rw [domAt_modDom_same]; exact hdelays
  rw [execPtpSyncReceive_takes hup hlisten, if_neg Bool.false_ne_true, completeSync_noDelay hnone, modDom_modDom]
  rfl

/-- A Follow_Up at the moment of its Sync completes it as a one-step Sync does. -/
theorem execPtpFollowUpReceive_oneStep (hnow : s.now ≤ t) (guess later : Int) :
    execPtpFollowUpReceive t d seq origin later (modDom d (syncTaken s d (some seq) guess corr ingress) (advance t s)) =
      execPtpSyncReceive t d seq false origin (corr + later) ingress s := by
  have hdom : domAt (modDom d (syncTaken s d (some seq) guess corr ingress) (advance t s)) d = syncTaken s d (some seq) guess corr ingress (domAt s d) :=
    domAt_modDom_same _ _ _
  have hup' : domUp (modDom d (syncTaken s d (some seq) guess corr ingress) (advance t s)) d = true := by
    rw [domUp, hdom]; exact hup
  rw [execPtpFollowUpReceive_completes hup' (by rw [hdom]; rfl), advance_present (Nat.max_eq_right hnow), modDom_modDom,
    execPtpSyncReceive_takes hup hlisten, if_neg Bool.false_ne_true]
  rfl

end

section
variable {t : Nat} {d : Fin 2} {seq : Nat} {origin corr ingress mpd off : Int} {rest : List Int} {s : State} (hup : domUp s d = true)
  (hlisten : (domAt s d).state ≠ .listen) (hoff : (domAt s d).state ≠ .off) (hdelays : (domAt s d).delays = mpd :: rest)
  (hoffset : off = origin + corr + mpd + (domAt s d).asym - (ingress - ingressOf s d))
include hup hlisten hoff hdelays hoffset

/-- A sample that jumps against the model makes its domain FAULTY and is not applied (R356). -/
theorem execPtpSyncReceive_jumps (hmodel : (domAt s d).haveModel = true) (hfaulty : (domAt s d).state ≠ .faulty)
    (hjump : 1000 * s.time.cfg.jumpLimit < nsOf (off - (domAt s d).model)) :
    ∃ s', execPtpSyncReceive t d seq false origin corr ingress s = .next s' ∧ (domAt s' d).state = .faulty ∧
      (domAt s' d).offset = (domAt s d).offset ∧ (domAt s' d).haveModel = false ∧ (domAt s' (otherDom d)).offset = (domAt s (otherDom d)).offset := by
  obtain ⟨v, hstep, hruns, -, hown, hother⟩ := execPtpSyncReceive_samples (t := t) (seq := seq) hup hlisten hdelays hoffset
  have hsampled : Sampled d (sampleJumped v.now) v (sample d off v) :=
    sample_jumps (by rwa [hown]) (by rwa [hown]) (by rwa [hown]) (by rwa [hown]) (by rwa [hown, hruns.cfg])
  obtain ⟨a, l, hdom⟩ := hsampled.own
  rw [hown] at hdom
  exact ⟨_, hstep, by rw [hdom]; rfl, by rw [hdom]; rfl, by rw [hdom]; rfl, by rw [hsampled.other, hother]⟩

/-- A sample of a frozen domain is heard and not applied (R356). -/
theorem execPtpSyncReceive_held (hfrozen : (domAt s d).state = .frozen)
    (hjudged : (domAt s d).haveModel = true → nsOf (off - (domAt s d).model) ≤ 1000 * s.time.cfg.jumpLimit) :
    ∃ s', execPtpSyncReceive t d seq false origin corr ingress s = .next s' ∧ (domAt s' d).state = .frozen ∧
      (domAt s' d).offset = (domAt s d).offset ∧ (domAt s' d).lastSample = (advance t s).now := by
  obtain ⟨v, hstep, hruns, -, hown, -⟩ := execPtpSyncReceive_samples (t := t) (seq := seq) hup hlisten hdelays hoffset
  have hsampled : Sampled d (fun x => { x with lastSample := v.now }) v (sample d off v) :=
    sample_held (by rwa [hown]) (by rwa [hown]) (fun hmodel _ => by rw [hown, hruns.cfg] at *; exact hjudged hmodel) (by rwa [hown])
  obtain ⟨a, l, hdom⟩ := hsampled.own
  rw [hown, hruns.now] at hdom
  exact ⟨_, hstep, by rw [hdom]; exact hfrozen, by rw [hdom]; rfl, by rw [hdom]⟩

/-- Another sample is the domain's new offset, and the sixteenth good one in a row locks a domain in ACQUIRE (R355). -/
theorem execPtpSyncReceive_applies (hfrozen : (domAt s d).state ≠ .frozen) (hfree : s.time.clk.state ≠ .free) (hkept : s.time.clk.state ≠ .kept)
    (hjudged : (domAt s d).haveModel = true → (domAt s d).state ≠ .faulty → nsOf (off - (domAt s d).model) ≤ 1000 * s.time.cfg.jumpLimit) :
    ∃ s', execPtpSyncReceive t d seq false origin corr ingress s = .next s' ∧ (domAt s' d).offset = off ∧ (domAt s' d).haveModel = true ∧
      (domAt s' d).good = (if nsOf (off - (domAt s d).model) ≤ s.time.cfg.lockThr ∧ (domAt s d).haveModel = true then (domAt s d).good + 1 else 0) ∧
      ((domAt s d).state = .acquire → (domAt s' d).state = if 16 ≤ (domAt s' d).good then .locked else .acquire) ∧
      (domAt s' (otherDom d)).offset = (domAt s (otherDom d)).offset ∧ s'.time.clk.acc = (advance t s).time.clk.acc ∧ s'.well = s.well := by
  obtain ⟨v, hstep, hruns, hclk, hown, hother⟩ := execPtpSyncReceive_samples (t := t) (seq := seq) hup hlisten hdelays hoffset
  have hsampled : Sampled d (sampleApplied v off) v (sample d off v) :=
    sample_applies (by rwa [hown]) (by rwa [hown]) (fun hmodel hfaulty => by rw [hown, hruns.cfg] at *; exact hjudged hmodel hfaulty) (by rwa [hown])
      (by rwa [hclk]) (by rwa [hclk])
  obtain ⟨a, l, hdom⟩ := hsampled.own
  have hsame : goodAfter v off (syncDone s d origin corr ingress (domAt s d)) = goodAfter s off (domAt s d) := by rw [goodAfter, hruns.cfg]; rfl
  rw [hown] at hdom
  have hgood : (domAt (sample d off v) d).good = goodAfter s off (domAt s d) := by rw [hdom, ← hsame]; rfl
  have hstate : (domAt (sample d off v) d).state =
      if (domAt s d).state = .acquire ∧ 16 ≤ goodAfter s off (domAt s d) then .locked else (domAt s d).state := by rw [hdom, ← hsame]; rfl
  refine ⟨_, hstep, by rw [hdom]; rfl, by rw [hdom]; rfl, ?_, fun hacquire => ?_, by rw [hsampled.other, hother], hsampled.acc.trans hruns.acc,
    hsampled.well.trans hruns.well⟩
  · rw [hgood]; simp [goodAfter]
  · rw [hgood, hstate]; simp [hacquire]

end

/-! ### Announce, Delay_Req and Delay_Resp (R351 to R353, R356) -/

/-- The seconds from a time to the end of its UTC day, and that this end is a whole number of days (R351). -/
theorem dayEnd_next {s : State} (hleap : s.time.utc.leap61 = false) :
    ((dayEnd s : Int) - s.time.utc.offset) % 86400 = 0 ∧ devSec s < dayEnd s ∧ dayEnd s ≤ devSec s + 86400 := by
  have hutc : utcNow s = (devSec s : Int) - s.time.utc.offset := by simp [utcNow, utcAt, hleap]
  unfold dayEnd
  dsimp only
  rw [hutc]
  omega

/-- UTC after an Announce of the followed master. -/
def utcHeard (a : Announce) (s : State) : State :=
  if a.utcValid && s.time.cfg.utcAnnounce then { s with time.utc.offset := a.utcOffset, time.utc.heard := true } else s

/-- A leap second that the followed master announces, where none is noted, falls at the end of the UTC day. -/
def leapHeard (a : Announce) (s : State) : State :=
  if (a.leap61 || a.leap59) && !(s.time.utc.leap61 || s.time.utc.leap59) then
    { s with time.utc.leap61 := a.leap61, time.utc.leap59 := a.leap59 && !a.leap61, time.utc.leapAt := dayEnd s }
  else s

theorem utcHeard_leaves (a : Announce) (s : State) : (utcHeard a s).time.utc.leap61 = s.time.utc.leap61 ∧
    (utcHeard a s).time.utc.leap59 = s.time.utc.leap59 ∧ devSec (utcHeard a s) = devSec s := by
  unfold utcHeard
  split <;> exact ⟨rfl, rfl, rfl⟩

theorem leapHeard_none {a : Announce} (h61 : a.leap61 = false) (h59 : a.leap59 = false) (s : State) : leapHeard a s = s := by
  simp [leapHeard, h61, h59]

theorem leapHeard_inserts {a : Announce} {s : State} (h61 : a.leap61 = true) (hno61 : s.time.utc.leap61 = false) (hno59 : s.time.utc.leap59 = false) :
    leapHeard a s = { s with time.utc.leap61 := true, time.utc.leap59 := false, time.utc.leapAt := dayEnd s } := by
  simp [leapHeard, h61, hno61, hno59]

/-- The path delay of the exchange that a Delay_Resp ends (R353). -/
def pathDelay (x : PtpDom) (rx corr : Int) : Int := ((x.t2 - x.t1 - x.syncCorr) + (rx - x.reqOut - corr)) / 2

/-- A domain that has taken a Delay_Resp keeps the latest 72 delays (R356). -/
def delayTaken (rx corr : Int) (x : PtpDom) : PtpDom := { x with reqSeq := none, delays := (pathDelay x rx corr :: x.delays).take 72 }

/-- A domain in ACQUIRE or LOCKED whose path delay has stepped freezes (R356). -/
def delayJudged (d : Fin 2) (s : State) : State :=
  if delayStepped (domAt s d).delays s.time.cfg.delayStep && ((domAt s d).state == .acquire || (domAt s d).state == .locked) then
    raise FaultCode.timePathStep d.val (freeze d s)
  else s

theorem delayJudged_steady {d : Fin 2} {u : State} (h : delayStepped (domAt u d).delays u.time.cfg.delayStep = false) : delayJudged d u = u := by
  rw [delayJudged, h, Bool.false_and, if_neg Bool.false_ne_true]

theorem delayJudged_steps {d : Fin 2} {u : State} (h : delayStepped (domAt u d).delays u.time.cfg.delayStep = true)
    (hstate : (domAt u d).state = .acquire ∨ (domAt u d).state = .locked) : delayJudged d u = raise FaultCode.timePathStep d.val (freeze d u) := by
  rw [delayJudged, h, Bool.true_and, if_pos (by simpa using hstate)]

section
variable {t : Nat} {d : Fin 2} {s : State} (hup : domUp s d = true)
include hup

theorem execPtpAnnounceReceive_starts {a : Announce} (hlisten : (domAt s d).state = .listen) (hbetter : a.better = true)
    (hfollowed : s.time.clk.followed ≠ some d) : execPtpAnnounceReceive t d a s = .next (modDom d (fun x => { x with
      state := .acquire, good := 0, haveModel := false, delays := [], lastSample := (advance t s).now }) (advance t s)) := by
  simp only [execPtpAnnounceReceive, onEvent, domUp_advance, domAt_advance, hup, hlisten, hbetter, Bool.not_true, Bool.false_eq_true, beq_self_eq_true,
    Bool.and_self, if_true, if_false]
  exact congrArg _ (if_pos hfollowed)

theorem execPtpAnnounceReceive_followed {a : Announce} (hlisten : (domAt s d).state ≠ .listen) (hfollowed : s.time.clk.followed = some d) :
    execPtpAnnounceReceive t d a s = .next (leapHeard a (utcHeard a (advance t s))) := by
  simp only [execPtpAnnounceReceive, onEvent, domUp_advance, domAt_advance, hup, beq_eq_false_iff_ne.2 hlisten, Bool.not_true, Bool.false_eq_true,
    Bool.false_and, if_false]
  exact congrArg _ (if_neg (not_not.2 hfollowed))

/-- A leap second inserted at the end of the present UTC day. -/
theorem execPtpAnnounceReceive_leap {a : Announce} (hlisten : (domAt s d).state ≠ .listen) (hfollowed : s.time.clk.followed = some d)
    (h61 : a.leap61 = true) (hno61 : s.time.utc.leap61 = false) (hno59 : s.time.utc.leap59 = false) :
    ∃ s', execPtpAnnounceReceive t d a s = .next s' ∧ s'.time.utc.leap61 = true ∧ s'.time.utc.leap59 = false ∧
      ((s'.time.utc.leapAt : Int) - s'.time.utc.offset) % 86400 = 0 ∧ devSec (advance t s) < s'.time.utc.leapAt ∧
      s'.time.utc.leapAt ≤ devSec (advance t s) + 86400 := by
  obtain ⟨hkeep61, hkeep59, hsec⟩ := utcHeard_leaves a (advance t s)
  have hday := dayEnd_next (hkeep61.trans hno61)
  rw [hsec] at hday
  rw [execPtpAnnounceReceive_followed hup hlisten hfollowed, leapHeard_inserts h61 (hkeep61.trans hno61) (hkeep59.trans hno59)]
  exact ⟨_, rfl, rfl, rfl, hday⟩

theorem execPtpDelayReqSend_stamps (hlisten : (domAt s d).state ≠ .listen) (seq : Nat) (egress : Int) :
    execPtpDelayReqSend t d seq egress s = .next (modDom d (fun x => { x with reqSeq := some seq, reqOut := egress + egressOf s d })
      { advance t s with outbox := .eth (domAt s d).port 1 (domAt s d).domNumber [] :: s.outbox }) := by
  have hrun : ¬ (!domUp (advance t s) d || (domAt (advance t s) d).state == .listen) = true := by simp [hup, hlisten]
  exact congrArg _ (if_neg hrun)

theorem execPtpDelayRespReceive_takes {seq : Nat} (hseq : (domAt s d).reqSeq = some seq) (hsync : (domAt s d).haveSync = true) (rx corr : Int) :
    execPtpDelayRespReceive t d seq rx corr s = .next (delayJudged d (modDom d (delayTaken rx corr) (advance t s))) := by
  simp only [execPtpDelayRespReceive, onEvent, domUp_advance, domAt_advance, hup, hseq, hsync, Bool.not_true, bne_self_eq_false, Bool.or_self,
    Bool.false_eq_true, if_false]
  exact congrArg (fun u => Host.Outcome.next (delayJudged d u)) (modDom_congr rfl)

section
variable {seq : Nat} {rx corr : Int} (hseq : (domAt s d).reqSeq = some seq) (hsync : (domAt s d).haveSync = true)
include hseq hsync

theorem execPtpDelayRespReceive_steady (hstep : delayStepped (delayTaken rx corr (domAt s d)).delays s.time.cfg.delayStep = false) :
    execPtpDelayRespReceive t d seq rx corr s = .next (modDom d (fun x => { x with
      reqSeq := none, delays := (delayTaken rx corr (domAt s d)).delays }) (advance t s)) := by
  rw [execPtpDelayRespReceive_takes hup hseq hsync, delayJudged_steady (by rw [domAt_modDom_same]; exact hstep)]
  exact congrArg _ (modDom_congr rfl)

/-- A step of the path delay freezes the domain, not the other one. -/
theorem execPtpDelayRespReceive_steps (hstep : delayStepped (delayTaken rx corr (domAt s d)).delays s.time.cfg.delayStep = true)
    (hstate : (domAt s d).state = .acquire ∨ (domAt s d).state = .locked) :
    ∃ s', execPtpDelayRespReceive t d seq rx corr s = .next s' ∧ (domAt s' d).state = .frozen ∧ (domAt s' d).frozenAt = (advance t s).now ∧
      (domAt s' d).delays = (delayTaken rx corr (domAt s d)).delays ∧ domAt s' (otherDom d) = domAt s (otherDom d) := by
  rw [execPtpDelayRespReceive_takes hup hseq hsync, delayJudged_steps (by rw [domAt_modDom_same]; exact hstep) (by rw [domAt_modDom_same]; exact hstate)]
  refine ⟨_, rfl, ?_⟩
  rw [(raise_steered _ _ _).domAt, (raise_steered _ _ _).domAt, freeze, domAt_modDom_same, domAt_modDom_other (otherDom_ne d),
    domAt_modDom_same, domAt_modDom_other (otherDom_ne d)]
  exact ⟨rfl, rfl, rfl, rfl⟩

end

end

/-! ### The timers of a domain (R355, R356, R359) -/

/-- A domain that returns to LISTEN. -/
def listenAgain (x : PtpDom) : PtpDom :=
  { x with state := .listen, good := 0, haveModel := false, haveSync := false, delays := [], lockedFrom := none }

/-- What the timeout of a domain makes of the time unit. -/
def timedOut (d : Fin 2) (s : State) : State := noteAgreement (holdoverFollow (followedFailed d (modDom d listenAgain s)))

section
variable {t : Nat} {d : Fin 2} {s : State}

theorem execPtpDomainTimeout_due (hoff : (domAt s d).state ≠ .off) (hlisten : (domAt s d).state ≠ .listen)
    (hdue : (domAt s d).lastSample + 1000000000 ≤ (advance t s).now) : execPtpDomainTimeout t d s = .next (timedOut d (advance t s)) := by
  have hrun : ¬ ((domAt (advance t s) d).state = .off ∨ (domAt (advance t s) d).state = .listen ∨
      (advance t s).now < (domAt (advance t s) d).lastSample + 1000000000) := not_or.2 ⟨hoff, not_or.2 ⟨hlisten, Nat.not_lt.2 hdue⟩⟩
  exact congrArg _ (if_neg hrun)

theorem execFrozenGuardExpiry_due (hfrozen : (domAt s d).state = .frozen)
    (hdue : (domAt s d).frozenAt + 1000000000 * s.time.cfg.guard ≤ (advance t s).now) : execFrozenGuardExpiry t d s =
      .next (modDom d (fun x => { x with state := .acquire, good := 0, haveModel := false }) (advance t s)) := by
  have hrun : ¬ ((domAt (advance t s) d).state ≠ .frozen ∨
      (advance t s).now < (domAt (advance t s) d).frozenAt + 1000000000 * (advance t s).time.cfg.guard) :=
    not_or.2 ⟨not_not.2 hfrozen, Nat.not_lt.2 hdue⟩
  exact congrArg _ (if_neg hrun)

theorem execFaultyDomainRecover_due {a : Nat} (hfaulty : (domAt s d).state = .faulty) (hagree : (domAt s d).agreeFrom = some a)
    (hdue : a + 60000000000 ≤ (advance t s).now) : execFaultyDomainRecover t d s =
      .next (modDom d (fun x => { x with state := .locked, lockedFrom := some (advance t s).now }) (advance t s)) := by
  simp only [execFaultyDomainRecover, onEvent, domAt_advance, hagree]
  exact congrArg _ (if_neg (not_or.2 ⟨not_not.2 hfaulty, Nat.not_lt.2 hdue⟩))

theorem execPreferredDomainReturn_due {a l : Nat} (hpref : s.time.clk.preferred = d) (hfollowed : s.time.clk.followed = some (otherDom d))
    (hlocked : (domAt s d).state = .locked) (hagree : (domAt s d).agreeFrom = some a) (hfrom : (domAt s d).lockedFrom = some l)
    (ha : a + 60000000000 ≤ (advance t s).now) (hl : l + 60000000000 ≤ (advance t s).now) :
    execPreferredDomainReturn t s = .next (switchTo d (advance t s)) := by
  subst hpref
  have hagree' : (domAt (advance t s) (advance t s).time.clk.preferred).agreeFrom = some a := hagree
  have hfrom' : (domAt (advance t s) (advance t s).time.clk.preferred).lockedFrom = some l := hfrom
  simp only [execPreferredDomainReturn, onEvent, hagree', hfrom']
  exact congrArg _ (if_pos ⟨hfollowed, hlocked, ha, hl⟩)

/-- The failure of a followed domain, with the other domain in agreement: the other is followed (R359 rule 1). -/
theorem followedFailed_switches {u : State} (hfollowed : u.time.clk.followed = some d) (hother : (domAt u (otherDom d)).state = .locked)
    (hagree : nsOf (domAt u (otherDom d)).offset ≤ 1000 * u.time.cfg.agree) : followedFailed d u = switchTo (otherDom d) u := by
  rw [followedFailed, if_neg (not_not.2 hfollowed), if_pos (by simp [lockedWithin, hother, hagree])]

theorem followedFailed_holds {u : State} (hfollowed : u.time.clk.followed = some d) (hother : (domAt u (otherDom d)).state ≠ .locked) :
    followedFailed d u = enterHoldover (errNow u) false u := by
  rw [followedFailed, if_neg (not_not.2 hfollowed), if_neg (by simp [lockedWithin, hother])]

theorem holdoverFollow_elsewhere {u : State} (h : u.time.clk.state ≠ .holdover) : holdoverFollow u = u := if_pos h

/-- With no domain LOCKED the clock stays in HOLDOVER. -/
theorem holdoverFollow_noneLocked {u : State} (h : ∀ e, (domAt u e).state ≠ .locked) : holdoverFollow u = u := by
  simp [holdoverFollow, lockedWithin, h]

end

/-- The domain listens again, whatever the clock follows then. -/
theorem timedOut_listens (d : Fin 2) (u : State) :
    (domAt (timedOut d u) d).state = .listen ∧ (domAt (timedOut d u) d).delays = [] ∧ (timedOut d u).time.clk.acc = u.time.clk.acc := by
  have hsteered := (followedFailed_steered d (modDom d listenAgain u)).trans (holdoverFollow_steered _)
  have hnoted := noteAgreement_noted (holdoverFollow (followedFailed d (modDom d listenAgain u)))
  obtain ⟨a, l, hdom⟩ := hnoted.dom d
  rw [hsteered.domAt, domAt_modDom_same] at hdom
  exact ⟨congrArg (·.state) hdom, congrArg (·.delays) hdom, hnoted.acc.trans hsteered.acc⟩

section
variable {d : Fin 2} {u : State} (hfollowed : u.time.clk.followed = some d)
include hfollowed

theorem timedOut_switches (hlocked : (domAt u (otherDom d)).state = .locked) (hagree : nsOf (domAt u (otherDom d)).offset ≤ 1000 * u.time.cfg.agree) :
    (timedOut d u).time.clk.followed = some (otherDom d) := by
  have hother : domAt (modDom d listenAgain u) (otherDom d) = domAt u (otherDom d) := domAt_modDom_other (otherDom_ne d) _ _
  rw [timedOut, followedFailed_switches (u := modDom d listenAgain u) hfollowed (by rwa [hother]) (by rwa [hother]),
    holdoverFollow_elsewhere (switchTo_state_ne_holdover _ _), (noteAgreement_noted _).followed, switchTo_followed]

theorem timedOut_holds (hother : (domAt u (otherDom d)).state ≠ .locked) :
    (timedOut d u).time.clk.followed = none ∧ (timedOut d u).time.clk.state = .holdover := by
  have hdom : ∀ e, (domAt (modDom d listenAgain u) e).state ≠ .locked := by
    intro e
    obtain rfl | rfl := eq_or_otherDom d e
    · rw [domAt_modDom_same]; exact DomState.noConfusion
    · rwa [domAt_modDom_other (otherDom_ne d)]
  rw [timedOut, followedFailed_holds (u := modDom d listenAgain u) hfollowed (hdom _),
    holdoverFollow_noneLocked fun e => by rw [(enterHoldover_steered _ _ _).domAt]; exact hdom e,
    (noteAgreement_noted _).followed, (noteAgreement_noted _).clkState, enterHoldover_time]
  exact ⟨rfl, rfl⟩

end

/-- Settles O42: each message and timer of a domain changes that domain as its own lemma says, and what then steers the clock or notes agreement leaves the rest. -/
theorem timeFollowsDomains : Obligations.TimeFollowsDomains := by
  refine ⟨fun t d seq origin corr ingress s hup hlisten => ⟨fun guess later hnow => ?_, execPtpSyncReceive_keepsAlive hup hlisten,
    fun mpd rest off dev hdelays hoff hoffset hdev => ?_⟩, fun t d s => ⟨fun hup => ⟨fun a => execPtpAnnounceReceive_starts hup,
      fun a hlisten hfollowed h61 h59 => ?_, fun a => execPtpAnnounceReceive_leap hup, fun seq egress hlisten => execPtpDelayReqSend_stamps hup hlisten seq egress,
      fun seq rx corr mpd ds hseq hsync hmpd hds => ?_⟩, fun hoff hlisten hdue => ?_, execFrozenGuardExpiry_due, fun a => execFaultyDomainRecover_due,
      fun a l hpref hfollowed hlocked hagree hfrom ha hl => ⟨_, execPreferredDomainReturn_due hpref hfollowed hlocked hagree hfrom ha hl,
        switchTo_followed _ _, (switchTo_steered _ _).acc, (switchTo_steered _ _).doms⟩⟩⟩
  · have hone := execPtpSyncReceive_takes (t := t) (seq := seq) (origin := origin) (corr := corr + later) (ingress := ingress) hup hlisten false
    exact ⟨_, _, execPtpSyncReceive_takes hup hlisten true, (execPtpFollowUpReceive_oneStep hup hlisten hnow guess later).trans hone, hone⟩
  · subst hdev
    exact ⟨execPtpSyncReceive_jumps hup hlisten hoff hdelays hoffset, execPtpSyncReceive_held hup hlisten hoff hdelays hoffset,
      execPtpSyncReceive_applies hup hlisten hoff hdelays hoffset⟩
  · exact (execPtpAnnounceReceive_followed hup hlisten hfollowed).trans (congrArg _ (leapHeard_none h61 h59 _))
  · subst hds hmpd
    exact ⟨execPtpDelayRespReceive_steady hup hseq hsync, execPtpDelayRespReceive_steps hup hseq hsync⟩
  · obtain ⟨hstate, hdelays, hacc⟩ := timedOut_listens d (advance t s)
    exact ⟨_, execPtpDomainTimeout_due hoff hlisten hdue, hstate, hdelays, timedOut_switches (u := advance t s), timedOut_holds (u := advance t s), hacc⟩

end Sys2Proof.Machine
end

section
/-!
The disagreement of the domains, the error bound, the leap second and the floor, the PPS balls, and the statement about them.
-/
namespace Sys2Proof.Machine

/-! ### Arbitration (R361) -/

theorem lockedPps_of_ins {s u : State} (h : u.time.ins = s.time.ins) (arbiter : Bool) : lockedPps u arbiter = lockedPps s arbiter := by
  unfold lockedPps
  rw [h]

/-- A domain that an arbitration has put into FAULTY. -/
def outvoted (x : PtpDom) : PtpDom := { x with state := .faulty, good := 0, haveModel := false, agreeFrom := none, lockedFrom := none }

/-- Whether a domain's offset is away from the arbiter's phase (R361). -/
def awayFrom (phase : Int) (s : State) (x : PtpDom) : Prop := s.time.cfg.xcheck < nsOf (subSecond x.offset - 1000 * phase)

theorem arbitrate_away {d : Fin 2} {phase : Int} {s : State} (h : awayFrom phase s (domAt s d)) :
    arbitrate d phase s = followedFailed d (modDom d outvoted s) := if_pos h

theorem arbitrate_near {d : Fin 2} {phase : Int} {s : State} (h : ¬ awayFrom phase s (domAt s d)) : arbitrate d phase s = s := if_neg h

theorem arbitrate_runsOn (d : Fin 2) (phase : Int) (s : State) : RunsOn s (arbitrate d phase s) := by
  by_cases h : awayFrom phase s (domAt s d)
  · rw [arbitrate_away h]; exact (modDom_runsOn _ _ _).trans (followedFailed_steered _ _).toRunsOn
  · rw [arbitrate_near h]; exact (Steered.refl s).toRunsOn

theorem arbitrate_disSent (d : Fin 2) (phase : Int) (s : State) : (arbitrate d phase s).time.clk.disSent = s.time.clk.disSent := by
  by_cases h : awayFrom phase s (domAt s d)
  · rw [arbitrate_away h]; exact (followedFailed_steered _ _).disSent
  · rw [arbitrate_near h]

theorem domAt_arbitrate_same (d : Fin 2) (phase : Int) (s : State) :
    domAt (arbitrate d phase s) d = if s.time.cfg.xcheck < nsOf (subSecond (domAt s d).offset - 1000 * phase) then outvoted (domAt s d) else domAt s d := by
  by_cases h : awayFrom phase s (domAt s d)
  · rw [arbitrate_away h, (followedFailed_steered _ _).domAt, domAt_modDom_same]; exact (if_pos h).symm
  · rw [arbitrate_near h]; exact (if_neg h).symm

theorem domAt_arbitrate_other {d e : Fin 2} (hne : e ≠ d) (phase : Int) (s : State) : domAt (arbitrate d phase s) e = domAt s e := by
  by_cases h : awayFrom phase s (domAt s d)
  · rw [arbitrate_away h, (followedFailed_steered _ _).domAt, domAt_modDom_other hne]
  · rw [arbitrate_near h]

/-- Each domain is judged by its own offset, whichever is judged first. -/
theorem domAt_arbitrate_both (d : Fin 2) (phase : Int) (s : State) : domAt (arbitrate 1 phase (arbitrate 0 phase s)) d =
    if s.time.cfg.xcheck < nsOf (subSecond (domAt s d).offset - 1000 * phase) then outvoted (domAt s d) else domAt s d := by
  obtain rfl | rfl := zero_or_one d
  · rw [domAt_arbitrate_other (by decide), domAt_arbitrate_same]
  · rw [domAt_arbitrate_same, domAt_arbitrate_other (by decide), (arbitrate_runsOn 0 phase s).cfg]

/-- TIME_DISAGREE is sent once. -/
def disagreeSent (s : State) : State := raise FaultCode.timeDisagree 0 (modClk (fun c => { c with disSent := true }) s)

theorem disagreeSent_disSent (s : State) : (disagreeSent s).time.clk.disSent = true := by rw [disagreeSent, raise_time]; rfl

theorem disagreeSent_runsOn (s : State) : RunsOn s (disagreeSent s) :=
  RunsOn.trans (u := modClk (fun c => { c with disSent := true }) s) ⟨rfl, rfl, rfl, rfl, rfl, rfl, rfl⟩ (raise_steered _ _ _).toRunsOn

theorem disagreeSent_doms (s : State) : (disagreeSent s).time.doms = s.time.doms := (raise_steered _ _ _).doms

theorem domAt_disagreeSent (s : State) (d : Fin 2) : domAt (disagreeSent s) d = domAt s d := (raise_steered _ _ _).domAt d

/-- An arbitrating PPS input tells the domains apart; without one the error bound is raised by their gap. -/
def disagreeJudged (s : State) : State :=
  match lockedPps (disagreeSent s) true with
  | some n => arbitrate 1 ((disagreeSent s).time.ins[n]).phase (arbitrate 0 ((disagreeSent s).time.ins[n]).phase (disagreeSent s))
  | none => modClk (fun c => { c with errRaise := nsOf ((domAt s 0).offset - (domAt s 1).offset) }) (disagreeSent s)

theorem disagreeJudged_arbiter {n : Fin 2} {s : State} (h : lockedPps s true = some n) :
    disagreeJudged s = arbitrate 1 (s.time.ins[n]).phase (arbitrate 0 (s.time.ins[n]).phase (disagreeSent s)) := by
  have hins := (disagreeSent_runsOn s).ins
  rw [disagreeJudged, lockedPps_of_ins hins, h, hins]

theorem disagreeJudged_alone {s : State} (h : lockedPps s true = none) :
    disagreeJudged s = modClk (fun c => { c with errRaise := nsOf ((domAt s 0).offset - (domAt s 1).offset) }) (disagreeSent s) := by
  rw [disagreeJudged, lockedPps_of_ins (disagreeSent_runsOn s).ins, h]

theorem disagreeJudged_runsOn (s : State) : RunsOn s (disagreeJudged s) := by
  cases h : lockedPps s true with
  | none => rw [disagreeJudged_alone h]; exact (disagreeSent_runsOn s).trans ⟨rfl, rfl, rfl, rfl, rfl, rfl, rfl⟩
  | some n => rw [disagreeJudged_arbiter h]; exact ((disagreeSent_runsOn s).trans (arbitrate_runsOn _ _ _)).trans (arbitrate_runsOn _ _ _)

theorem disagreeJudged_disSent (s : State) : (disagreeJudged s).time.clk.disSent = true := by
  cases h : lockedPps s true with
  | none => rw [disagreeJudged_alone h]; exact disagreeSent_disSent s
  | some n => rw [disagreeJudged_arbiter h, arbitrate_disSent, arbitrate_disSent, disagreeSent_disSent]

theorem disagreeJudged_outvotes {n : Fin 2} {s : State} (h : lockedPps s true = some n) (d : Fin 2) :
    (domAt (disagreeJudged s) d).offset = (domAt s d).offset ∧ (domAt (disagreeJudged s) d).state =
      if s.time.cfg.xcheck < nsOf (subSecond (domAt s d).offset - 1000 * (s.time.ins[n]).phase) then .faulty else (domAt s d).state := by
  rw [disagreeJudged_arbiter h, domAt_arbitrate_both, (disagreeSent_runsOn s).cfg, domAt_disagreeSent]
  split <;> exact ⟨rfl, rfl⟩

section
variable {t a : Nat} {s : State} (hapart : s.time.clk.disagree = some a) (hdue : a + 10000000000 ≤ (advance t s).now) (hsent : s.time.clk.disSent = false)
include hapart hdue hsent

theorem execTimeDisagree_judges : execTimeDisagree t s = .next (disagreeJudged (advance t s)) := by
  have hapart' : (advance t s).time.clk.disagree = some a := hapart
  simp only [execTimeDisagree, onEvent, hapart']
  exact congrArg _ (if_neg (not_or.2 ⟨Nat.not_lt.2 hdue, ne_true_of_eq_false hsent⟩))

end

/-! ### The error bound, the leap second and the floor (R348, R351, R360) -/

section
variable {t : Nat} {s : State}

theorem execTimeErrHigh_below (h : errNow (advance t s) ≤ 1000000 * s.time.cfg.errAlarm) :
    execTimeErrHigh t s = .next (modClk (fun c => { c with errHigh := false }) (advance t s)) := congrArg _ (if_neg (Nat.not_lt.2 h))

theorem execTimeErrHigh_again (h : 1000000 * s.time.cfg.errAlarm < errNow (advance t s)) (hhigh : s.time.clk.errHigh = true) :
    execTimeErrHigh t s = .next (advance t s) := congrArg _ ((if_pos h).trans (if_pos hhigh))

theorem execTimeErrHigh_first (h : 1000000 * s.time.cfg.errAlarm < errNow (advance t s)) (hhigh : s.time.clk.errHigh = false) :
    execTimeErrHigh t s = .next (raise FaultCode.timeErrHigh 0 (modClk (fun c => { c with errHigh := true }) (advance t s))) :=
  congrArg _ ((if_pos h).trans (if_neg (ne_true_of_eq_false hhigh)))

theorem execLeapSecond_inserted (h61 : s.time.utc.leap61 = true) (hdue : s.time.utc.leapAt + 1 ≤ devSec (advance t s)) :
    execLeapSecond t s = .next { advance t s with time.utc.offset := s.time.utc.offset + 1, time.utc.leap61 := false } :=
  congrArg _ (if_pos ⟨h61, hdue⟩)

theorem execLeapSecond_removed (h61 : s.time.utc.leap61 = false) (h59 : s.time.utc.leap59 = true) (hdue : s.time.utc.leapAt - 1 ≤ devSec (advance t s)) :
    execLeapSecond t s = .next { advance t s with time.utc.offset := s.time.utc.offset - 1, time.utc.leap59 := false } :=
  congrArg _ ((if_neg fun h => ne_true_of_eq_false h61 h.1).trans (if_pos ⟨h59, hdue⟩))

theorem execTimeFloorSave_due (hdue : s.time.clk.floorAt + 60000000000 ≤ (advance t s).now) : execTimeFloorSave t s = .next { advance t s with
    time.clk.floor := some (advance t s).time.clk.acc, time.clk.savedRho := s.time.clk.rho, time.clk.floorAt := (advance t s).now,
    time.clk.floorUtc := s.time.utc.offset, thm.saved2 := s.thm.step2Ns, thm.saved3 := s.thm.step3Ns } := congrArg _ (if_neg (Nat.not_lt.2 hdue))

end

/-! ### PPS_CONFIG (R362) -/

/-- A PPS input under PPS_CONFIG: one that stays enabled on the same edge keeps its lock. -/
def ppsInSet (c : Slot) (i : Nat) (x : PpsIn) : PpsIn :=
  let y := { x with enable := parB c i 0, falling := parB c i 1, arbiter := parB c i 2, inDelay := parF c i 31 16 }
  if y.enable && x.enable && y.falling == x.falling then y else { y with locked := false, edges := 0, last := none }

/-- A PPS output under PPS_CONFIG. -/
def ppsOutSet (c : Slot) (i : Nat) (x : PpsOut) : PpsOut := { x with
  enable := parB c i 0, activeLow := parB c i 1, width := parF c i 31 8, adv := signed (parF c i 63 32) 32
  driven := x.driven || parB c i 0, pulse := x.pulse && parB c i 0 }

/-- The PPS balls under PPS_CONFIG. -/
def ppsSet (c : Slot) (s : State) : State := { s with
  time.ins := upd (upd s.time.ins 0 (ppsInSet c 0)) 1 (ppsInSet c 1)
  time.outs := upd (upd s.time.outs 0 (ppsOutSet c 2)) 1 (ppsOutSet c 3) }

/-- Both entries of a bank of two changed. -/
theorem upd_both {α : Type} (v : Vector α 2) (f : Nat → α → α) (n : Fin 2) : (upd (upd v 0 (f 0)) 1 (f 1))[n] = f n.val v[n] := by
  obtain rfl | rfl := zero_or_one n
  · rw [upd_other (by decide), upd_same]; rfl
  · rw [upd_same, upd_other (by decide)]; rfl

theorem ppsSet_ins (c : Slot) (s : State) (n : Fin 2) : (ppsSet c s).time.ins[n] = ppsInSet c n.val s.time.ins[n] := upd_both s.time.ins (ppsInSet c) n

theorem ppsSet_outs (c : Slot) (s : State) (n : Fin 2) : (ppsSet c s).time.outs[n] = ppsOutSet c (n.val + 2) s.time.outs[n] :=
  upd_both s.time.outs (fun i => ppsOutSet c (i + 2)) n

theorem ppsInSet_fields (c : Slot) (i : Nat) (x : PpsIn) : (ppsInSet c i x).enable = parB c i 0 ∧ (ppsInSet c i x).falling = parB c i 1 ∧
    (ppsInSet c i x).arbiter = parB c i 2 ∧ (ppsInSet c i x).inDelay = parF c i 31 16 := by
  unfold ppsInSet
  dsimp only
  split <;> exact ⟨rfl, rfl, rfl, rfl⟩

/-- The widths of PPS_CONFIG are in range. -/
def ppsWidthsOk (c : Slot) : Prop := 1 ≤ parF c 2 31 8 ∧ parF c 2 31 8 ≤ 900000 ∧ 1 ≤ parF c 3 31 8 ∧ parF c 3 31 8 ≤ 900000

section
variable {t cid : Nat} {c : Slot} {s : State} (h : Starts Op.ppsConfig cid c s)
include h

theorem execPpsConfig_refuses (hbad : ¬ ppsWidthsOk c) : execPpsConfig t cid s = .next (refuse c Status.badParameter (startedAt t cid s)) := by
  rw [execPpsConfig, onStart_starts h]
  refine congrArg _ (if_pos ?_)
  simp only [ppsWidthsOk] at hbad
  simp only [Bool.or_eq_true, Bool.not_eq_true', Bool.and_eq_false_iff, decide_eq_false_iff_not]
  omega

theorem execPpsConfig_sets (hok : ppsWidthsOk c) : execPpsConfig t cid s = .next (done c (ppsSet c (startedAt t cid s))) := by
  rw [execPpsConfig, onStart_starts h]
  refine congrArg _ (if_neg ?_)
  obtain ⟨hlow0, hhigh0, hlow1, hhigh1⟩ := hok
  simp [hlow0, hhigh0, hlow1, hhigh1]

end

/-! ### The setting step (R349, R367) -/

theorem timeSetStep_clk (acc : Nat) (s : State) : (timeSetStep acc s).time.clk.acc = acc ∧ (timeSetStep acc s).time.clk.state = .holdover ∧
    (timeSetStep acc s).time.clk.stepped = true ∧ (timeSetStep acc s).time.clk.errBase = s.time.cfg.lockThr ∧ (timeSetStep acc s).time.clk.errAll = false := by
  rw [timeSetStep, enterHoldover_time, notify_time]
  exact ⟨rfl, rfl, rfl, rfl, rfl⟩

theorem timeSetStep_leaves (acc : Nat) (s : State) : (timeSetStep acc s).time.doms = s.time.doms ∧ (timeSetStep acc s).time.ins = s.time.ins ∧
    (timeSetStep acc s).well = s.well := by
  have hsteered : Steered (modClk (fun c => { c with acc := acc, stepped := true }) s) (timeSetStep acc s) :=
    (notify_steered _ _ _).trans (enterHoldover_steered _ _ _)
  exact ⟨hsteered.doms, hsteered.ins, hsteered.well⟩

/-- A TIME_SET that waits for the edge takes its step at an edge of the locked input. -/
theorem ppsSetStep_sets {n : Fin 2} {cid sec : Nat} {s : State} (hset : s.time.clk.setAtPps = some (cid, sec)) (hlocked : lockedPps s false = some n)
    (hstepped : s.time.clk.stepped = false) (hstate : s.time.clk.state = .free ∨ s.time.clk.state = .kept)
    (hforward : s.time.clk.acc ≤ sec * 1000000000 * 2 ^ 48) : ppsSetStep n s =
      finish cid Status.done 0 [] (timeSetStep (sec * 1000000000 * 2 ^ 48) (modClk (fun c => { c with setAtPps := none }) s)) := by
  simp only [ppsSetStep, hset]
  rw [if_neg (not_not.2 hlocked)]
  exact (if_neg (not_or.2 ⟨ne_true_of_eq_false hstepped, fun ⟨hfree, hkept⟩ => hstate.elim hfree hkept⟩)).trans (if_neg (Nat.not_lt.2 hforward))

theorem ppsSetStep_leaves (n : Fin 2) (s : State) : (ppsSetStep n s).time.doms = s.time.doms ∧ (ppsSetStep n s).time.ins = s.time.ins ∧
    (ppsSetStep n s).well = s.well := by
  unfold ppsSetStep
  split
  · exact ⟨rfl, rfl, rfl⟩
  · split
    · exact ⟨rfl, rfl, rfl⟩
    · dsimp only
      split
      · rw [finish_time, finish_well]; exact ⟨rfl, rfl, rfl⟩
      · split
        · rw [finish_time, finish_well]; exact ⟨rfl, rfl, rfl⟩
        · rw [finish_time, finish_well]; exact timeSetStep_leaves _ _

/-! ### PPS edges (R363) -/

theorem ppsDiscipline_steered (n : Fin 2) (s : State) : Steered s (ppsDiscipline n s) := by
  unfold ppsDiscipline
  split
  · exact .refl s
  · exact (modClk_steered rfl rfl rfl).trans (steer_steered _ _ _)

theorem ppsDiscipline_state (n : Fin 2) (s : State) : (ppsDiscipline n s).time.clk.state = s.time.clk.state := by
  unfold ppsDiscipline
  split
  · rfl
  · exact steer_state _ _ _

/-- Whether an edge comes 1 s ± 10 µs after the last one. -/
def edgeNear (stamp : Nat) (x : PpsIn) : Bool :=
  match x.last with
  | none => false
  | some p => decide (999990000 ≤ stamp - p) && decide (stamp - p ≤ 1000010000)

/-- The edges in a row with one more. -/
def edgesAfter (stamp : Nat) (x : PpsIn) : Nat := if edgeNear stamp x then min 8 (x.edges + 1) else 1

theorem edgesAfter_near {stamp p : Nat} {x : PpsIn} (hlast : x.last = some p) (hlow : p + 999990000 ≤ stamp) (hhigh : stamp ≤ p + 1000010000) :
    edgesAfter stamp x = min 8 (x.edges + 1) := by
  refine if_pos ?_
  simp only [edgeNear, hlast, Bool.and_eq_true, decide_eq_true_eq]
  omega

theorem edgesAfter_first {stamp : Nat} {x : PpsIn} (hlast : x.last = none) : edgesAfter stamp x = 1 := by
  refine if_neg ?_
  simp only [edgeNear, hlast, Bool.false_eq_true, not_false_eq_true]

/-- An edge of an input, stamped less `in_delay`. -/
def ppsEdgeTaken (n : Fin 2) (s : State) : State :=
  let stamp := devNs s - s.time.ins[n].inDelay
  let edges := edgesAfter stamp s.time.ins[n]
  { s with time.ins := upd s.time.ins n fun x => { x with last := some stamp, edges := edges, locked := decide (8 ≤ edges), phase := phaseOf stamp } }

theorem ppsEdgeTaken_same (n : Fin 2) (s : State) : ∃ ph, (ppsEdgeTaken n s).time.ins[n] = { s.time.ins[n] with
    last := some (devNs s - s.time.ins[n].inDelay), edges := edgesAfter (devNs s - s.time.ins[n].inDelay) s.time.ins[n]
    locked := decide (8 ≤ edgesAfter (devNs s - s.time.ins[n].inDelay) s.time.ins[n]), phase := ph } := ⟨_, upd_same s.time.ins n _⟩

theorem ppsEdgeTaken_other {n x : Fin 2} (h : x ≠ n) (s : State) : (ppsEdgeTaken n s).time.ins[x] = s.time.ins[x] := upd_other h

/-- What the edge of an input makes of the time unit. -/
def afterEdge (n : Fin 2) (s : State) : State := ppsDiscipline n (ppsSetStep n (ppsEdgeTaken n s))

theorem afterEdge_leaves (n : Fin 2) (s : State) : (afterEdge n s).time.doms = s.time.doms ∧ (afterEdge n s).time.ins = (ppsEdgeTaken n s).time.ins ∧
    (afterEdge n s).well = s.well := by
  obtain ⟨hdoms, hins, hwell⟩ := ppsSetStep_leaves n (ppsEdgeTaken n s)
  have hsteered := ppsDiscipline_steered n (ppsSetStep n (ppsEdgeTaken n s))
  exact ⟨hsteered.doms.trans hdoms, hsteered.ins.trans hins, hsteered.well.trans hwell⟩

/-- The input after its edge; what the edge makes of the clock leaves it. -/
theorem afterEdge_input (n : Fin 2) (s : State) : (afterEdge n s).time.ins[n].last = some (devNs s - s.time.ins[n].inDelay) ∧
    (afterEdge n s).time.ins[n].edges = edgesAfter (devNs s - s.time.ins[n].inDelay) s.time.ins[n] ∧
    (afterEdge n s).time.ins[n].locked = decide (8 ≤ (afterEdge n s).time.ins[n].edges) := by
  obtain ⟨-, hins, -⟩ := afterEdge_leaves n s
  obtain ⟨phase, hown⟩ := ppsEdgeTaken_same n s
  rw [hins, hown]
  exact ⟨rfl, rfl, rfl⟩

theorem afterEdge_other {n x : Fin 2} (h : x ≠ n) (s : State) : (afterEdge n s).time.ins[x] = s.time.ins[x] := by
  obtain ⟨-, hins, -⟩ := afterEdge_leaves n s
  rw [hins, ppsEdgeTaken_other h]

theorem ended_of_cmd {cid status : Nat} {s u : State} (hcmd : u.cmd = s.cmd) (h : Ended cid status s) : Ended cid status u := by
  rw [Ended, hcmd]; exact h

/-- The edge of the locked input sets the clock for a TIME_SET that waits (R367). -/
theorem afterEdge_sets {n : Fin 2} {cid sec : Nat} {s : State} (hset : s.time.clk.setAtPps = some (cid, sec))
    (hlocked : lockedPps (afterEdge n s) false = some n) (hstepped : s.time.clk.stepped = false)
    (hstate : s.time.clk.state = .free ∨ s.time.clk.state = .kept) (hforward : s.time.clk.acc ≤ sec * 1000000000 * 2 ^ 48) :
    (afterEdge n s).time.clk.acc = sec * 1000000000 * 2 ^ 48 ∧ (afterEdge n s).time.clk.state = .holdover ∧ Ended cid Status.done (afterEdge n s) := by
  obtain ⟨-, hins, -⟩ := afterEdge_leaves n s
  rw [lockedPps_of_ins hins] at hlocked
  have hsteered := ppsDiscipline_steered n (ppsSetStep n (ppsEdgeTaken n s))
  have hsets := ppsSetStep_sets (s := ppsEdgeTaken n s) hset hlocked hstepped hstate hforward
  obtain ⟨hacc, hholds, -⟩ := timeSetStep_clk (sec * 1000000000 * 2 ^ 48) (modClk (fun c => { c with setAtPps := none }) (ppsEdgeTaken n s))
  refine ⟨hsteered.acc.trans ?_, (ppsDiscipline_state n _).trans ?_, ended_of_cmd hsteered.cmd ?_⟩
  · rw [hsets, finish_time, hacc]
  · rw [hsets, finish_time, hholds]
  · rw [hsets]; exact finish_ended _ _ _ _ _

theorem execPpsInEdge_takes {t : Nat} {n : Fin 2} {rising : Bool} {s : State} (henable : s.time.ins[n].enable = true)
    (hedge : s.time.ins[n].falling = !rising) : execPpsInEdge t n rising s = .next (afterEdge n (advance t s)) := by
  have hrun : ¬ (!(advance t s).time.ins[n].enable || (advance t s).time.ins[n].falling == rising) = true := by
    show ¬ (!s.time.ins[n].enable || s.time.ins[n].falling == rising) = true
    rw [henable, hedge]; simp
  exact congrArg _ (if_neg hrun)

/-- An input without an edge for 1.5 s. -/
def ppsEdgeLost (n : Fin 2) (s : State) : State := { s with time.ins := upd s.time.ins n fun x => { x with locked := false, edges := 0 } }

theorem execPpsInLost_due {t p : Nat} {n : Fin 2} {s : State} (hlast : s.time.ins[n].last = some p) (hlocked : s.time.ins[n].locked = true)
    (hdue : p + 1500000000 ≤ devNs (advance t s)) : ∃ s', execPpsInLost t n s = .next s' ∧ Steered (ppsEdgeLost n (advance t s)) s' := by
  have hlast' : (advance t s).time.ins[n].last = some p := hlast
  have hlocked' : (advance t s).time.ins[n].locked = true := hlocked
  simp only [execPpsInLost, onEvent, hlast', hlocked', Bool.not_true, Bool.false_or, decide_eq_true_eq, if_neg (Nat.not_lt.2 hdue)]
  refine ⟨_, rfl, ?_⟩
  split
  · exact (raise_steered _ _ _).trans (modClk_steered rfl rfl rfl)
  · exact raise_steered _ _ _

/-! ### PPS pulses (R364) -/

theorem execPpsOutPulse_asserts {t : Nat} {n : Fin 2} {s : State} (henable : s.time.outs[n].enable = true) (hset : s.time.clk.state ≠ .free)
    (hpulse : s.time.outs[n].pulse = false) (hsecond : ((devNs (advance t s) : Int) + s.time.outs[n].adv + 2) % 1000000000 ≤ 4) :
    execPpsOutPulse t n s = .next { advance t s with
      time.outs := upd s.time.outs n fun x => { x with pulse := true, started := devNs (advance t s) } } := by
  refine congrArg _ (if_neg ?_)
  show ¬ (!s.time.outs[n].enable || s.time.clk.state == .free || s.time.outs[n].pulse ||
    decide (4 < ((devNs (advance t s) : Int) + s.time.outs[n].adv + 2) % 1000000000)) = true
  rw [henable, hpulse, beq_eq_false_iff_ne.2 hset, decide_eq_false (Int.not_lt.2 hsecond)]; simp

theorem execPpsOutPulseEnd_ends {t : Nat} {n : Fin 2} {s : State} (hpulse : s.time.outs[n].pulse = true)
    (hdue : s.time.outs[n].started + 1000 * s.time.outs[n].width ≤ devNs (advance t s)) :
    execPpsOutPulseEnd t n s = .next { advance t s with time.outs := upd s.time.outs n fun x => { x with pulse := false } } := by
  refine congrArg _ (if_neg ?_)
  show ¬ (!s.time.outs[n].pulse || decide (devNs (advance t s) < s.time.outs[n].started + 1000 * s.time.outs[n].width)) = true
  rw [hpulse, decide_eq_false (Nat.not_lt.2 hdue)]; simp

/-- Settles O43: the watch of the clock steers nothing but the clock, and the balls change only as PPS_CONFIG, their edges and their pulses say. -/
theorem clockAndPulsesAreWatched : Obligations.ClockAndPulsesAreWatched := by
  refine ⟨fun t s => ⟨fun a hapart hdue hsent => ⟨_, execTimeDisagree_judges hapart hdue hsent, disagreeJudged_disSent _, fun hnone => ?_,
    fun n hlocked => disagreeJudged_outvotes (s := advance t s) hlocked, (disagreeJudged_runsOn _).acc,
    (disagreeJudged_runsOn _).well⟩, fun habove => ?_, execTimeErrHigh_below, execLeapSecond_inserted, execLeapSecond_removed,
    execTimeFloorSave_due⟩, fun t cid c s h => ⟨execPpsConfig_refuses h, fun hok => ?_⟩, fun t n rising s henable hedge => ?_,
    fun t n s => ⟨fun p hlast hlocked hdue => ?_, execPpsOutPulse_asserts, execPpsOutPulseEnd_ends⟩⟩
  · rw [disagreeJudged_alone (s := advance t s) hnone]
    exact ⟨rfl, disagreeSent_doms _⟩
  · cases hhigh : s.time.clk.errHigh with
    | true => exact ⟨_, execTimeErrHigh_again habove hhigh, hhigh, rfl, rfl, fun _ => rfl⟩
    | false =>
      have hraised := raise_steered FaultCode.timeErrHigh 0 (modClk (fun c => { c with errHigh := true }) (advance t s))
      exact ⟨_, execTimeErrHigh_first habove hhigh, by rw [raise_time]; rfl, hraised.acc, hraised.doms, nofun⟩
  · refine ⟨_, execPpsConfig_sets h hok, starts_cid h ▸ finish_ended _ _ _ _ _, fun n => ?_, fun n => ?_, ?_, ?_⟩
    · rw [done, finish_time, ppsSet_ins]; exact ppsInSet_fields _ _ _
    · rw [done, finish_time, ppsSet_outs]; exact ⟨rfl, rfl, rfl, rfl, fun hdriven => by simp [ppsOutSet, hdriven]⟩
    · rw [done, finish_time]; rfl
    · rw [done, finish_well]; rfl
  · obtain ⟨hdoms, -, hwell⟩ := afterEdge_leaves n (advance t s)
    obtain ⟨hstamp, hedges, hlock⟩ := afterEdge_input n (advance t s)
    exact ⟨_, execPpsInEdge_takes henable hedge, hstamp, fun p hlast hlow hhigh => hedges.trans (edgesAfter_near hlast hlow hhigh),
      fun hlast => hedges.trans (edgesAfter_first hlast), hlock, fun x hx => afterEdge_other hx _, hdoms, hwell,
      fun cid sec hset hlocked hstepped hstate hforward => afterEdge_sets (s := advance t s) hset hlocked hstepped hstate hforward⟩
  · obtain ⟨s', hstep, hsteered⟩ := execPpsInLost_due hlast hlocked hdue
    refine ⟨s', hstep, ?_, ?_, fun x hx => ?_, hsteered.acc, hsteered.doms⟩
    · rw [hsteered.ins, ppsEdgeLost, upd_same]
    · rw [hsteered.ins, ppsEdgeLost, upd_same]
    · rw [hsteered.ins, ppsEdgeLost, upd_other hx]; rfl

end Sys2Proof.Machine
end

section
/-!
TIME_READ, PTP_CONFIG, TIME_SELECT and TIME_SET, and the statement about them.
-/
namespace Sys2Proof.Machine

/-! ### Whether domain 1 runs on Urara time, through a reply (R383) -/

theorem modLink_timeDom1 (i : Nat) (f : LinkLane → LinkLane) (s : State) : (modLink i f s).ura.timeDom1 = s.ura.timeDom1 := by
  unfold modLink
  split <;> rfl

theorem transmit_timeDom1 (i : Nat) (p : Packet) (s : State) : (transmit i p s).ura.timeDom1 = s.ura.timeDom1 := by
  unfold transmit
  dsimp only
  split <;> exact modLink_timeDom1 _ _ s

theorem routePacket_timeDom1 (p : Packet) (port : Option Nat) (s : State) : (routePacket p port s).ura.timeDom1 = s.ura.timeDom1 := by
  unfold routePacket
  split
  · exact foldl_keeps (·.ura.timeDom1) (fun s _ => transmit_timeDom1 _ p s) _ s
  · split
    · exact transmit_timeDom1 _ p s
    · rfl

theorem uraraSend_timeDom1 (dest type : Nat) (ws : List W64) (s : State) : (uraraSend dest type ws s).ura.timeDom1 = s.ura.timeDom1 := by
  unfold uraraSend
  split
  · rfl
  · exact routePacket_timeDom1 _ _ _

theorem sendReply_timeDom1 (tr : Transport) (src cid : Nat) (ws : List W64) (s : State) :
    (sendReply tr src cid ws s).ura.timeDom1 = s.ura.timeDom1 := by
  unfold sendReply
  split
  · split <;> rfl
  · dsimp only
    split
    · exact uraraSend_timeDom1 _ _ _ _
    · rfl

theorem handedOver_timeDom1 (cid : Nat) (s : State) : (handedOver cid s).ura.timeDom1 = s.ura.timeDom1 := by rw [handedOver_frame]

theorem finish_timeDom1 (cid status fault : Nat) (ws : List W64) (s : State) : (finish cid status fault ws s).ura.timeDom1 = s.ura.timeDom1 := by
  unfold finish
  split
  · rfl
  · split
    · exact handedOver_timeDom1 _ s
    · dsimp only
      split
      · rw [handedOver_timeDom1, sendReply_timeDom1]; rfl
      · rfl
      · rfl
      · split
        · rw [sendReply_timeDom1]; rfl
        · rw [handedOver_timeDom1]; rfl

/-! ### A domain under PTP_CONFIG (R354) -/

/-- A domain with its fields of PTP_CONFIG. -/
def ptpFields (c : Slot) (d : Fin 2) (x : PtpDom) : PtpDom := { x with
  enable := parB c d.val 0, port := parF c d.val 1 1, transport := parF c d.val 3 2, domNumber := parF c d.val 15 8
  asym := signed (if d = 0 then parF c 6 31 0 else parF c 6 63 32) 32 }

/-- Whether PTP_CONFIG changes a domain's own fields. -/
def ptpMoves (c : Slot) (d : Fin 2) (x : PtpDom) : Prop :=
  x.enable ≠ parB c d.val 0 ∨ x.port ≠ parF c d.val 1 1 ∨ x.transport ≠ parF c d.val 3 2 ∨ x.domNumber ≠ parF c d.val 15 8

/-- A domain that starts again under its new fields. -/
def ptpRestarted (runs : Bool) (x : PtpDom) : PtpDom := { x with
  state := if runs then .listen else .off, good := 0, haveModel := false, haveSync := false, delays := [], lockedFrom := none }

/-- Whether a domain is in use under PTP_CONFIG. -/
def ptpRuns (c : Slot) (d : Fin 2) (s : State) : Bool := parB c d.val 0 || (d == 1 && s.ura.timeDom1)

/-- What PTP_CONFIG makes of a domain. -/
structure PtpApplied (c : Slot) (d : Fin 2) (runs : Bool) (x y : PtpDom) : Prop where
  enable : y.enable = parB c d.val 0
  port : y.port = parF c d.val 1 1
  transport : y.transport = parF c d.val 3 2
  domNumber : y.domNumber = parF c d.val 15 8
  state : ptpMoves c d x → y.state = if runs then .listen else .off

section
variable (c : Slot) (d : Fin 2) (oldIn oldEg newIn newEg : Int) (s : State)

/-- A domain that PTP_CONFIG moves starts again; another takes its fields, and freezes where a constant of it changes. -/
theorem ptpDomain_cases :
    (ptpMoves c d (domAt s d) ∧ ptpDomain d c oldIn oldEg newIn newEg s =
      followedFailed d (modDom d (ptpRestarted (ptpRuns c d s)) (modDom d (ptpFields c d) s))) ∨
    (¬ ptpMoves c d (domAt s d) ∧ (ptpDomain d c oldIn oldEg newIn newEg s = freeze d (modDom d (ptpFields c d) s) ∨
      ptpDomain d c oldIn oldEg newIn newEg s = modDom d (ptpFields c d) s)) := by
  unfold ptpDomain
  extract_lets i x asym y moved time u
  have hu : u = modDom d (ptpFields c d) s := rfl
  have hmoved : moved = true ↔ ptpMoves c d (domAt s d) := by
    show (parB c d.val 0 != (domAt s d).enable || parF c d.val 1 1 != (domAt s d).port || parF c d.val 3 2 != (domAt s d).transport ||
      parF c d.val 15 8 != (domAt s d).domNumber) = true ↔ _
    rw [Bool.or_eq_true, Bool.or_eq_true, Bool.or_eq_true, bne_iff_ne, bne_iff_ne, bne_iff_ne, bne_iff_ne, or_assoc, or_assoc]
    exact or_congr ne_comm (or_congr ne_comm (or_congr ne_comm ne_comm))
  have hruns : domRuns (modDom d (ptpFields c d) s) d = ptpRuns c d s := by
    rw [domRuns, domAt_modDom_same]; rfl
  clear_value u moved
  subst hu
  by_cases h : moved = true
  · rw [if_pos h, hruns]
    exact .inl ⟨hmoved.1 h, rfl⟩
  · rw [if_neg h]
    refine .inr ⟨fun hm => h (hmoved.2 hm), ?_⟩
    split
    · exact .inl rfl
    · exact .inr rfl

theorem freeze_runsOn (d : Fin 2) (s : State) : RunsOn s (freeze d s) := modDom_runsOn _ _ _

theorem ptpDomain_runsOn : RunsOn s (ptpDomain d c oldIn oldEg newIn newEg s) := by
  have hfields := modDom_runsOn d (ptpFields c d) s
  rcases ptpDomain_cases c d oldIn oldEg newIn newEg s with ⟨-, h⟩ | ⟨-, h | h⟩ <;> rw [h]
  · exact (hfields.trans (modDom_runsOn _ _ _)).trans (followedFailed_steered _ _).toRunsOn
  · exact hfields.trans (freeze_runsOn _ _)
  · exact hfields

theorem ptpDomain_other : domAt (ptpDomain d c oldIn oldEg newIn newEg s) (otherDom d) = domAt s (otherDom d) := by
  have hfields := domAt_modDom_other (otherDom_ne d) (ptpFields c d) s
  rcases ptpDomain_cases c d oldIn oldEg newIn newEg s with ⟨-, h⟩ | ⟨-, h | h⟩ <;> rw [h]
  · rw [(followedFailed_steered _ _).domAt, domAt_modDom_other (otherDom_ne d), hfields]
  · rw [freeze, domAt_modDom_other (otherDom_ne d), hfields]
  · exact hfields

theorem ptpDomain_own : PtpApplied c d (ptpRuns c d s) (domAt s d) (domAt (ptpDomain d c oldIn oldEg newIn newEg s) d) := by
  rcases ptpDomain_cases c d oldIn oldEg newIn newEg s with ⟨-, h⟩ | ⟨hstays, h | h⟩ <;> rw [h]
  · rw [(followedFailed_steered _ _).domAt, domAt_modDom_same, domAt_modDom_same]
    exact ⟨rfl, rfl, rfl, rfl, fun _ => rfl⟩
  · rw [freeze, domAt_modDom_same, domAt_modDom_same]
    exact ⟨rfl, rfl, rfl, rfl, fun hmoves => absurd hmoves hstays⟩
  · rw [domAt_modDom_same]
    exact ⟨rfl, rfl, rfl, rfl, fun hmoves => absurd hmoves hstays⟩

end

/-! ### PTP_CONFIG (R354) -/

/-- The settings that no domain owns, and the UTC offset where the masters do not give it. -/
def ptpParams (c : Slot) (s : State) : State :=
  if (ptpCfgOf c).utcAnnounce && s.time.utc.heard then { s with time.cfg := ptpCfgOf c }
  else { s with time.cfg := ptpCfgOf c, time.utc.offset := (ptpCfgOf c).utcOffset }

/-- One domain under PTP_CONFIG, from the latencies it had. -/
def ptpOne (c : Slot) (d : Fin 2) (old s : State) : State := ptpDomain d c (ingressOf old d) (egressOf old d) (ingressOf s d) (egressOf s d) s

/-- The time unit under PTP_CONFIG. -/
def ptpSet (c : Slot) (s : State) : State := noteAgreement (holdoverFollow (ptpOne c 1 s (ptpOne c 0 s (ptpParams c s))))

theorem ptpParams_leaves (c : Slot) (s : State) : (ptpParams c s).time.cfg = ptpCfgOf c ∧ (ptpParams c s).time.clk = s.time.clk ∧
    (ptpParams c s).time.doms = s.time.doms ∧ (ptpParams c s).ura = s.ura ∧ (ptpParams c s).well = s.well := by
  unfold ptpParams
  split <;> exact ⟨rfl, rfl, rfl, rfl, rfl⟩

theorem ptpSet_runsOn (c : Slot) (s : State) : RunsOn (ptpParams c s) (ptpSet c s) :=
  (((ptpDomain_runsOn ..).trans (ptpDomain_runsOn ..)).trans (holdoverFollow_steered _).toRunsOn).trans (noteAgreement_noted _).toRunsOn

/-- The moments of agreement are nothing that PTP_CONFIG speaks of. -/
theorem PtpApplied.noted {c : Slot} {d : Fin 2} {runs : Bool} {x y : PtpDom} (h : PtpApplied c d runs x y) (a l : Option Nat) :
    PtpApplied c d runs x { y with agreeFrom := a, lockedFrom := l } := ⟨h.enable, h.port, h.transport, h.domNumber, h.state⟩

theorem ptpSet_applied (c : Slot) (s : State) (d : Fin 2) : PtpApplied c d (ptpRuns c d s) (domAt s d) (domAt (ptpSet c s) d) := by
  obtain ⟨-, -, hdoms, hura, -⟩ := ptpParams_leaves c s
  have hdom : ∀ e, domAt (ptpParams c s) e = domAt s e := fun e => congrArg (·[e]) hdoms
  obtain ⟨a, l, hnoted⟩ := (noteAgreement_noted (holdoverFollow (ptpOne c 1 s (ptpOne c 0 s (ptpParams c s))))).dom d
  rw [ptpSet, hnoted, (holdoverFollow_steered _).domAt]
  refine PtpApplied.noted ?_ a l
  obtain rfl | rfl := zero_or_one d
  · have hown := ptpDomain_own c 0 (ingressOf s 0) (egressOf s 0) (ingressOf (ptpParams c s) 0) (egressOf (ptpParams c s) 0) (ptpParams c s)
    have hlater : domAt (ptpOne c 1 s (ptpOne c 0 s (ptpParams c s))) 0 = domAt (ptpOne c 0 s (ptpParams c s)) 0 := ptpDomain_other ..
    rw [ptpRuns, hura, hdom] at hown
    rw [hlater]
    exact hown
  · have hown := ptpDomain_own c 1 (ingressOf s 1) (egressOf s 1) (ingressOf (ptpOne c 0 s (ptpParams c s)) 1) (egressOf (ptpOne c 0 s (ptpParams c s)) 1)
      (ptpOne c 0 s (ptpParams c s))
    have hearlier : domAt (ptpOne c 0 s (ptpParams c s)) 1 = domAt (ptpParams c s) 1 := ptpDomain_other ..
    have hlink : (ptpOne c 0 s (ptpParams c s)).ura = s.ura := (ptpDomain_runsOn ..).ura.trans hura
    rw [ptpRuns, hlink, hearlier, hdom] at hown
    exact hown

/-- The reply to PTP_CONFIG leaves each domain as it made it. -/
theorem ptpSet_domains (c : Slot) (s : State) (d : Fin 2) : (done c (ptpSet c s)).time.doms[d].enable = parB c d.val 0 ∧
    (done c (ptpSet c s)).time.doms[d].port = parF c d.val 1 1 ∧ (done c (ptpSet c s)).time.doms[d].transport = parF c d.val 3 2 ∧
    (done c (ptpSet c s)).time.doms[d].domNumber = parF c d.val 15 8 ∧
    (ptpMoves c d (domAt s d) → (done c (ptpSet c s)).time.doms[d].state = if domRuns (done c (ptpSet c s)) d then .listen else .off) := by
  have happlied := ptpSet_applied c s d
  have hdom : domAt (done c (ptpSet c s)) d = domAt (ptpSet c s) d := by rw [domAt, done, finish_time]; rfl
  have hlink : (done c (ptpSet c s)).ura.timeDom1 = s.ura.timeDom1 := by
    obtain ⟨-, -, -, hura, -⟩ := ptpParams_leaves c s
    rw [done, finish_timeDom1, (ptpSet_runsOn c s).ura, hura]
  rw [domRuns, hlink, hdom, happlied.enable]
  rw [← hdom] at happlied
  exact ⟨happlied.enable, happlied.port, happlied.transport, happlied.domNumber, happlied.state⟩

theorem execPtpConfig_refuses {t cid : Nat} {c : Slot} {s : State} (h : Starts Op.ptpConfig cid c s) (hbad : ptpCfgOk c = false) :
    execPtpConfig t cid s = .next (refuse c Status.badParameter (startedAt t cid s)) := by
  rw [execPtpConfig, onStart_starts h, hbad]
  rfl

theorem execPtpConfig_sets {t cid : Nat} {c : Slot} {s : State} (h : Starts Op.ptpConfig cid c s) (hok : ptpCfgOk c = true) :
    execPtpConfig t cid s = .next (done c (ptpSet c (startedAt t cid s))) := by
  rw [execPtpConfig, onStart_starts h, hok]
  rfl

/-! ### TIME_SELECT (R368) -/

/-- The forced switch of a set clock to the domain it does not follow yet. -/
def forcedTo (d : Fin 2) (s : State) : State :=
  if s.time.clk.followed != some d && s.time.clk.state != .free && s.time.clk.state != .kept then switchTo d s else s

theorem forcedTo_steered (d : Fin 2) (s : State) : Steered s (forcedTo d s) := by
  unfold forcedTo
  split
  · exact switchTo_steered d s
  · exact .refl s

theorem forcedTo_followed {d : Fin 2} {s : State} (hfree : s.time.clk.state ≠ .free) (hkept : s.time.clk.state ≠ .kept) :
    (forcedTo d s).time.clk.followed = some d := by
  by_cases h : s.time.clk.followed = some d
  · rw [forcedTo, if_neg (by simp [h])]; exact h
  · rw [forcedTo, if_pos (by simp [h, hfree, hkept]), switchTo_followed]

section
variable {t cid : Nat} {c : Slot} {d : Fin 2} {s : State} (h : Starts Op.timeSelect cid c s) (hd : d = if parB c 0 0 then 1 else 0)
include h hd

theorem execTimeSelect_starts : execTimeSelect t cid s = .next (
    if (domAt s d).state ≠ .locked then refuse c Status.timeNotLocked (startedAt t cid s)
    else if !parB c 0 8 ∧ 1000 * s.time.cfg.agree < nsOf (domAt s d).offset then refuse c Status.timeNoAgree (startedAt t cid s)
    else done c (if parB c 0 8 then forcedTo d (modClk (fun k => { k with preferred := d }) (startedAt t cid s))
      else modClk (fun k => { k with preferred := d }) (startedAt t cid s))) := by
  subst hd
  rw [execTimeSelect, onStart_starts h]
  cases parB c 0 8 <;> rfl

theorem execTimeSelect_notLocked (hstate : (domAt s d).state ≠ .locked) :
    execTimeSelect t cid s = .next (refuse c Status.timeNotLocked (startedAt t cid s)) := by
  rw [execTimeSelect_starts h hd, if_pos hstate]

variable (hlocked : (domAt s d).state = .locked)
include hlocked

theorem execTimeSelect_noAgree (hforce : parB c 0 8 = false) (hfar : 1000 * s.time.cfg.agree < nsOf (domAt s d).offset) :
    execTimeSelect t cid s = .next (refuse c Status.timeNoAgree (startedAt t cid s)) := by
  rw [execTimeSelect_starts h hd, if_neg (not_not.2 hlocked), if_pos (by simp [hforce, hfar])]

theorem execTimeSelect_prefers (hforce : parB c 0 8 = false) (hnear : nsOf (domAt s d).offset ≤ 1000 * s.time.cfg.agree) :
    execTimeSelect t cid s = .next (done c (modClk (fun k => { k with preferred := d }) (startedAt t cid s))) := by
  rw [execTimeSelect_starts h hd, if_neg (not_not.2 hlocked), if_neg (by simp [hnear]), hforce, if_neg Bool.false_ne_true]

theorem execTimeSelect_forces (hforce : parB c 0 8 = true) :
    execTimeSelect t cid s = .next (done c (forcedTo d (modClk (fun k => { k with preferred := d }) (startedAt t cid s)))) := by
  rw [execTimeSelect_starts h hd, if_neg (not_not.2 hlocked), if_neg (by simp [hforce]), if_pos hforce]

end

/-! ### TIME_SET (R367) -/

/-- The device time that a TIME_SET commands, in 2⁻⁴⁸ ns. -/
def commandedTime (c : Slot) : Nat := (parN c 0 * 1000000000 + parF c 1 45 16) * 2 ^ 48 + parF c 1 15 0 * 2 ^ 32

/-- The parameters of a TIME_SET are in range: with `at_pps` the time is a whole second. -/
def TimeSetInRange (c : Slot) : Prop := parF c 1 45 16 < 1000000000 ∧ (parB c 1 48 = true → parF c 1 45 16 = 0 ∧ parF c 1 15 0 = 0)

/-- The clock was never set (R349). -/
def ClockUnset (s : State) : Prop := s.time.clk.stepped = false ∧ s.time.clk.stepOver = false ∧ (s.time.clk.state = .free ∨ s.time.clk.state = .kept)

/-- What a TIME_SET in range makes of a clock that was never set. -/
def unsetClockTakes (t cid : Nat) (c : Slot) (s : State) : State :=
  if jobActive s = true then refuse c Status.timeJobActive (startedAt t cid s)
  else if parB c 1 48 = true then
    if (lockedPps s false).isNone = true then refuse c Status.ppsNotLocked (startedAt t cid s)
    else modClk (fun k => { k with setAtPps := some (cid, parN c 0) }) (startedAt t cid s)
  else if commandedTime c < (advance t s).time.clk.acc then refuse c Status.timeBackward (startedAt t cid s)
  else done c (timeSetStep (commandedTime c) (startedAt t cid s))

section
variable {t cid : Nat} {c : Slot} {s : State} (h : Starts Op.timeSet cid c s)
include h

theorem execTimeSet_starts : execTimeSet t cid s = .next (
    if 1000000000 ≤ parF c 1 45 16 ∨ (parB c 1 48 = true ∧ (parF c 1 45 16 ≠ 0 ∨ parF c 1 15 0 ≠ 0)) then refuse c Status.badParameter (startedAt t cid s)
    else if s.time.clk.stepped = true ∨ s.time.clk.stepOver = true ∨ (s.time.clk.state ≠ .free ∧ s.time.clk.state ≠ .kept) then
      refuse c Status.timeAlreadySet (startedAt t cid s)
    else unsetClockTakes t cid c s) := by
  rw [execTimeSet, onStart_starts h, starts_cid h]
  rfl

theorem execTimeSet_badParameter (hbad : 1000000000 ≤ parF c 1 45 16 ∨ (parB c 1 48 = true ∧ (parF c 1 45 16 ≠ 0 ∨ parF c 1 15 0 ≠ 0))) :
    execTimeSet t cid s = .next (refuse c Status.badParameter (startedAt t cid s)) := by
  rw [execTimeSet_starts h, if_pos hbad]

variable (hrange : TimeSetInRange c)
include hrange

theorem execTimeSet_inRange : execTimeSet t cid s = .next (
    if s.time.clk.stepped = true ∨ s.time.clk.stepOver = true ∨ (s.time.clk.state ≠ .free ∧ s.time.clk.state ≠ .kept) then
      refuse c Status.timeAlreadySet (startedAt t cid s)
    else unsetClockTakes t cid c s) := by
  obtain ⟨hsecond, hwhole⟩ := hrange
  rw [execTimeSet_starts h, if_neg]
  rintro (hbig | ⟨hpps, hpart⟩)
  · exact Nat.not_le.2 hsecond hbig
  · obtain ⟨hns, hfrac⟩ := hwhole hpps
    exact hpart.elim (absurd hns) (absurd hfrac)

theorem execTimeSet_alreadySet (hset : s.time.clk.stepped = true ∨ s.time.clk.stepOver = true ∨ (s.time.clk.state ≠ .free ∧ s.time.clk.state ≠ .kept)) :
    execTimeSet t cid s = .next (refuse c Status.timeAlreadySet (startedAt t cid s)) := by
  rw [execTimeSet_inRange h hrange, if_pos hset]

theorem execTimeSet_unset (hunset : ClockUnset s) : execTimeSet t cid s = .next (unsetClockTakes t cid c s) := by
  obtain ⟨hstepped, hover, hstate⟩ := hunset
  rw [execTimeSet_inRange h hrange, if_neg]
  exact not_or.2 ⟨ne_true_of_eq_false hstepped, not_or.2 ⟨ne_true_of_eq_false hover, fun ⟨hfree, hkept⟩ => hstate.elim hfree hkept⟩⟩

end

section
variable {t cid : Nat} {c : Slot} {s : State}

theorem unsetClockTakes_jobActive (hjob : jobActive s = true) : unsetClockTakes t cid c s = refuse c Status.timeJobActive (startedAt t cid s) := if_pos hjob

variable (hjob : jobActive s = false)
include hjob

theorem unsetClockTakes_noPps (hpps : parB c 1 48 = true) (hnone : lockedPps s false = none) :
    unsetClockTakes t cid c s = refuse c Status.ppsNotLocked (startedAt t cid s) := by
  rw [unsetClockTakes, if_neg (ne_true_of_eq_false hjob), if_pos hpps, if_pos (Option.isNone_iff_eq_none.2 hnone)]

theorem unsetClockTakes_waits {n : Fin 2} (hpps : parB c 1 48 = true) (hlocked : lockedPps s false = some n) :
    unsetClockTakes t cid c s = modClk (fun k => { k with setAtPps := some (cid, parN c 0) }) (startedAt t cid s) := by
  rw [unsetClockTakes, if_neg (ne_true_of_eq_false hjob), if_pos hpps, if_neg (by simp [hlocked])]

theorem unsetClockTakes_backward (hpps : parB c 1 48 = false) (hback : commandedTime c < (advance t s).time.clk.acc) :
    unsetClockTakes t cid c s = refuse c Status.timeBackward (startedAt t cid s) := by
  rw [unsetClockTakes, if_neg (ne_true_of_eq_false hjob), if_neg (ne_true_of_eq_false hpps), if_pos hback]

theorem unsetClockTakes_step (hpps : parB c 1 48 = false) (hforward : (advance t s).time.clk.acc ≤ commandedTime c) :
    unsetClockTakes t cid c s = done c (timeSetStep (commandedTime c) (startedAt t cid s)) := by
  rw [unsetClockTakes, if_neg (ne_true_of_eq_false hjob), if_neg (ne_true_of_eq_false hpps), if_neg (Nat.not_lt.2 hforward)]

end

/-- Settles O41: each command takes the branch of its table that its checks leave, and its reply leaves the time unit as the command made it. -/
theorem timeCommandsAnswer : Obligations.TimeCommandsAnswer := by
  refine ⟨fun t cid c s => ⟨fun h => onStart_starts h, fun h => ⟨execPtpConfig_refuses h, fun hok => ?_⟩⟩,
    fun t cid c s => ⟨fun d h hd => ⟨execTimeSelect_notLocked h hd, execTimeSelect_noAgree h hd, execTimeSelect_prefers h hd, fun hlocked hforce => ?_⟩,
    fun ns frac acc h hns hfrac hacc => ?_⟩⟩
  · obtain ⟨hcfg, hclk, -, -, hwell⟩ := ptpParams_leaves c (startedAt t cid s)
    have hruns := ptpSet_runsOn c (startedAt t cid s)
    refine ⟨_, execPtpConfig_sets h hok, starts_cid h ▸ finish_ended _ _ _ _ _, ?_, ptpSet_domains c (startedAt t cid s), ?_, ?_⟩
    · rw [done, finish_time, hruns.cfg, hcfg]
    · rw [done, finish_time, hruns.acc, hclk]; rfl
    · rw [done, finish_well, hruns.well, hwell]; rfl
  · refine ⟨_, execTimeSelect_forces h hd hlocked hforce, starts_cid h ▸ finish_ended _ _ _ _ _, ?_, fun hfree hkept => ?_, ?_⟩
    · rw [done, finish_time, (forcedTo_steered _ _).preferred]; rfl
    · rw [done, finish_time]; exact forcedTo_followed hfree hkept
    · rw [done, finish_well, (forcedTo_steered _ _).well]; rfl
  · subst hns hfrac hacc
    refine ⟨execTimeSet_badParameter h, fun hsecond hwhole => ⟨execTimeSet_alreadySet h ⟨hsecond, hwhole⟩, fun hstepped hover hstate => ?_⟩⟩
    have hunset := execTimeSet_unset (t := t) h ⟨hsecond, hwhole⟩ ⟨hstepped, hover, hstate⟩
    refine ⟨fun hjob => hunset.trans (congrArg _ (unsetClockTakes_jobActive hjob)),
      fun hjob hpps hnone => hunset.trans (congrArg _ (unsetClockTakes_noPps hjob hpps hnone)),
      fun n hjob hpps hlocked => hunset.trans (congrArg _ (unsetClockTakes_waits hjob hpps hlocked)),
      fun hjob hpps hback => hunset.trans (congrArg _ (unsetClockTakes_backward hjob hpps hback)), fun hjob hpps hforward => ?_⟩
    obtain ⟨hreads, hholds, hstep, hbound, hknown⟩ := timeSetStep_clk (commandedTime c) (startedAt t cid s)
    refine ⟨_, hunset.trans (congrArg _ (unsetClockTakes_step hjob hpps hforward)), starts_cid h ▸ finish_ended _ _ _ _ _, ?_⟩
    rw [done, finish_time, finish_well, (timeSetStep_leaves _ _).2.2]
    exact ⟨hreads, hholds, hstep, hbound, hknown, rfl⟩

end Sys2Proof.Machine
end

section
/-!
The last statements about every step: the Well's contents stay canonical, every command answers, and what the machine holds after reset.
-/
namespace Sys2Proof.Machine

/-- Settles O58: every operation keeps a canonical Well canonical, so a step does. -/
theorem stepsKeepMemoryCanonical : Obligations.StepsKeepMemoryCanonical := by
  intro s t hs hstep
  obtain ⟨-, -, hmem, -, -, -⟩ := step_keeps hstep
  exact hmem hs

/-! ### Every meaning answers a next state -/

/-- An outcome that is a next state, neither a fault nor a refusal. -/
def Answers (o : Host.Outcome State Fault Refusal) : Prop := ∃ t, o = .next t

theorem next_answers (s : State) : Answers (.next s) := ⟨s, rfl⟩

theorem onStart_answers (op t cid : Nat) (k : Slot → State → State) (s : State) : Answers (onStart op t cid k s) := ⟨_, rfl⟩

theorem Answers.ite {p : Prop} [Decidable p] {a b : Host.Outcome State Fault Refusal} (ha : Answers a) (hb : Answers b) :
    Answers (if p then a else b) := by split <;> assumption

/-- A command that may have to wait answers whether it waits or starts. -/
theorem waiting_answers {p : Prop} [Decidable p] (t op cid : Nat) (k : Slot → State → State) (s : State) :
    Answers (if p then .next (advance t s) else onStart op t cid k s) := .ite (next_answers _) (onStart_answers ..)

theorem onCore_answers (op t cid : Nat) (k : Slot → State → State) (s : State) : Answers (onCore op t cid k s) :=
  .ite (onStart_answers ..) (next_answers _)

theorem execImageActivate_answers (t cid : Nat) (v : ImgVerdict) (s : State) : Answers (execImageActivate t cid v s) :=
  .ite (next_answers _) (onCore_answers ..)

/-- Settles O55: some commands may have to wait, or need the Krynto core; every other row is one next state as it stands. -/
theorem everyCommandAnswers : Obligations.EveryCommandAnswers := by
  intro i s
  cases i
  case abortTag | jobActivate | jobSwitch | stallConfig | topology => exact waiting_answers ..
  case certRead | sessionOpen | sessionProve | sessionClose | ownerTransfer | roleCredential | jobKeyLoad | imageStage | zeroise | attest =>
    exact onCore_answers ..
  case imageActivate => exact execImageActivate_answers ..
  all_goals exact ⟨_, rfl⟩

/-! ### Right after reset -/

theorem reset_outputsReleased : OutputsReleased State.reset := ⟨by decide, by decide, by decide⟩

theorem reset_domOn (d : Fin 12) : domOn State.reset d = decide (d = 0) := by revert d; decide

/-- Settles O56: the reset state is written out field by field. -/
theorem resetHoldsNothing : Obligations.ResetHoldsNothing :=
  ⟨rfl, rfl, rfl, rfl, rfl, reset_outputsReleased, rfl, rfl, reset_domOn, rfl, rfl, rfl⟩

end Sys2Proof.Machine
end

section
/-!
What a change of role or of a permit leaves alone, the commands of a twin pair and its witness, and the statement about them.
-/
namespace Sys2Proof.Machine

/-! ### What the permits and replies of a change of role may change (R262, R386) -/

/-- Only the Stalls, replies and reports moved: commands, ports, link, outbox, Crier, registers and Stalls may differ, and nothing else does. -/
def PermitsMove (s t : State) : Prop := ∃ c n u o k b l, t = { s with cmd := c, net := n, ura := u, outbox := o, cri := k, bar := b, stl := l }

theorem PermitsMove.refl (s : State) : PermitsMove s s := ⟨_, _, _, _, _, _, _, rfl⟩

theorem PermitsMove.trans {s t u : State} (h : PermitsMove s t) (k : PermitsMove t u) : PermitsMove s u := by
  obtain ⟨_, _, _, _, _, _, _, rfl⟩ := h
  obtain ⟨_, _, _, _, _, _, _, rfl⟩ := k
  exact ⟨_, _, _, _, _, _, _, rfl⟩

theorem PermitsMove.foldl {α : Type} {g : State → α → State} (hg : ∀ s a, PermitsMove s (g s a)) (l : List α) (s : State) :
    PermitsMove s (l.foldl g s) := foldl_rel .refl .trans hg l s

theorem finish_permitsMove (cid status fault : Nat) (ws : List W64) (s : State) : PermitsMove s (finish cid status fault ws s) := by
  rw [finish_frame]; exact ⟨_, _, _, _, _, _, _, rfl⟩

theorem modStall_permitsMove (k : Nat) (f : Stall → Stall) (s : State) : PermitsMove s (modStall k f s) := by
  obtain ⟨l, h⟩ := modStall_changes k f s
  rw [h]; exact ⟨_, _, _, _, _, _, _, rfl⟩

theorem notify_permitsMove (code detail : Nat) (s : State) : PermitsMove s (notify code detail s) := by
  rw [notify_frame]; exact ⟨_, _, _, _, _, _, _, rfl⟩

theorem uraraSend_permitsMove (dest type : Nat) (ws : List W64) (s : State) : PermitsMove s (uraraSend dest type ws s) := by
  rw [uraraSend_frame]; exact ⟨_, _, _, _, _, _, _, rfl⟩

theorem settlePermits_permitsMove (s : State) : PermitsMove s (settlePermits s) := by
  refine .foldl (fun u c => ?_) _ s
  split
  · exact finish_permitsMove _ _ _ _ _
  · exact .refl _

theorem refreshPermit_permitsMove (k : Nat) (s : State) : PermitsMove s (refreshPermit k s) := by
  unfold refreshPermit
  dsimp only
  split
  · exact modStall_permitsMove _ _ _
  · split
    · exact (modStall_permitsMove _ _ _).trans (settlePermits_permitsMove _)
    · exact .refl _

theorem dropPermits_permitsMove (s : State) : PermitsMove s (dropPermits s) :=
  (PermitsMove.foldl (fun s k => modStall_permitsMove k _ s) _ s).trans (settlePermits_permitsMove _)

theorem raisePermits_permitsMove (s : State) : PermitsMove s (raisePermits s) := .foldl (fun s k => refreshPermit_permitsMove k s) _ s

theorem enterRole_permitsMove (r : TwinRole) (s : State) : PermitsMove { s with twn.role := r } (enterRole r s) := by
  have hreport : PermitsMove { s with twn.role := r }
      (if s.twn.role == .solo && r != .solo then notify Notice.twinSolo 0 { s with twn.role := r }
       else if s.twn.role != .solo && r == .solo then notify Notice.twinSolo 1 { s with twn.role := r } else { s with twn.role := r }) := by
    split
    · exact notify_permitsMove _ _ _
    · split
      · exact notify_permitsMove _ _ _
      · exact .refl _
  unfold enterRole
  dsimp only
  split
  · exact hreport.trans (dropPermits_permitsMove _)
  · exact hreport.trans (raisePermits_permitsMove _)

theorem PermitsMove.twn {s t : State} (h : PermitsMove s t) : t.twn = s.twn := by obtain ⟨_, _, _, _, _, _, _, rfl⟩ := h; rfl
theorem PermitsMove.tal {s t : State} (h : PermitsMove s t) : t.tal = s.tal := by obtain ⟨_, _, _, _, _, _, _, rfl⟩ := h; rfl
theorem PermitsMove.mot {s t : State} (h : PermitsMove s t) : t.mot = s.mot := by obtain ⟨_, _, _, _, _, _, _, rfl⟩ := h; rfl
theorem PermitsMove.well {s t : State} (h : PermitsMove s t) : t.well = s.well := by obtain ⟨_, _, _, _, _, _, _, rfl⟩ := h; rfl

@[simp] theorem enterRole_twn (r : TwinRole) (s : State) : (enterRole r s).twn = { s.twn with role := r } := (enterRole_permitsMove r s).twn
@[simp] theorem enterRole_well (r : TwinRole) (s : State) : (enterRole r s).well = s.well := (enterRole_permitsMove r s).well

/-! ### TWIN_BIND (R384) -/

/-- What R384 asks of the peer and of the two witness pins that a TWIN_BIND names. -/
def TwinBindOk (c : Slot) (s : State) : Prop :=
  parF c 0 10 0 ≠ s.node ∧ parF c 0 10 0 ≠ 0 ∧ parF c 0 10 0 ≤ 2000 ∧ parF c 1 28 24 ≤ 15 ∧ parF c 1 36 32 ≤ 15 ∧ parF c 1 28 24 ≠ parF c 1 36 32

theorem not_twinBindOk (c : Slot) (s : State) : ¬ TwinBindOk c s ↔ parF c 0 10 0 = s.node ∨ parF c 0 10 0 = 0 ∨ 2000 < parF c 0 10 0 ∨
    15 < parF c 1 28 24 ∨ 15 < parF c 1 36 32 ∨ parF c 1 28 24 = parF c 1 36 32 := by
  unfold TwinBindOk; omega

section
variable {t cid serial : Nat} {job : Bool} {c : Slot} {s : State} (h : Starts Op.twinBind cid c s)
include h

theorem execTwinBind_starts : execTwinBind t cid serial job s = .next (
    if parF c 0 10 0 = s.node ∨ parF c 0 10 0 = 0 ∨ 2000 < parF c 0 10 0 ∨ 15 < parF c 1 28 24 ∨ 15 < parF c 1 36 32 ∨ parF c 1 28 24 = parF c 1 36 32 then
      refuse c Status.badParameter (startedAt t cid s)
    else if (routePort s (parF c 0 10 0)).isNone then refuse c Status.nodeUnreachable (startedAt t cid s)
    else if s.twn.bound then refuse c Status.twinBound (startedAt t cid s)
    else if jobActive s && job && decide (serial < Config.serial.toNat) then refuse c Status.twinJobActive (startedAt t cid s)
    else bindTwin c serial job (startedAt t cid s)) := onStart_starts h

theorem execTwinBind_badParameter (hbad : ¬ TwinBindOk c s) :
    execTwinBind t cid serial job s = .next (refuse c Status.badParameter (startedAt t cid s)) := by
  rw [execTwinBind_starts h, if_pos ((not_twinBindOk c s).1 hbad)]

variable (hok : TwinBindOk c s)
include hok

theorem execTwinBind_unreachable (hroute : routePort s (parF c 0 10 0) = none) :
    execTwinBind t cid serial job s = .next (refuse c Status.nodeUnreachable (startedAt t cid s)) := by
  rw [execTwinBind_starts h, if_neg (mt (not_twinBindOk c s).2 (not_not_intro hok)), if_pos (by rw [hroute]; rfl)]

variable (hroute : routePort s (parF c 0 10 0) ≠ none)
include hroute

theorem execTwinBind_routed : execTwinBind t cid serial job s = .next (
    if s.twn.bound then refuse c Status.twinBound (startedAt t cid s)
    else if jobActive s && job && decide (serial < Config.serial.toNat) then refuse c Status.twinJobActive (startedAt t cid s)
    else bindTwin c serial job (startedAt t cid s)) := by
  rw [execTwinBind_starts h, if_neg (mt (not_twinBindOk c s).2 (not_not_intro hok)), if_neg (by simpa using hroute)]

theorem execTwinBind_bound (hbound : s.twn.bound = true) :
    execTwinBind t cid serial job s = .next (refuse c Status.twinBound (startedAt t cid s)) := by
  rw [execTwinBind_routed h hok hroute, if_pos hbound]

variable (hfree : s.twn.bound = false)
include hfree

theorem execTwinBind_bothActive (hjob : jobActive s = true) (hpeer : job = true) (hserial : serial < Config.serial.toNat) :
    execTwinBind t cid serial job s = .next (refuse c Status.twinJobActive (startedAt t cid s)) := by
  rw [execTwinBind_routed h hok hroute, if_neg (ne_true_of_eq_false hfree), if_pos (by simp [hjob, hpeer, hserial])]

theorem execTwinBind_binds (hjobs : ¬ (jobActive s = true ∧ job = true ∧ serial < Config.serial.toNat)) :
    execTwinBind t cid serial job s = .next (bindTwin c serial job (startedAt t cid s)) := by
  rw [execTwinBind_routed h hok hroute, if_neg (ne_true_of_eq_false hfree), if_neg (by simpa [and_assoc] using hjobs)]

end

@[simp] theorem becomeCopying_twn (s : State) : (becomeCopying s).twn = { s.twn with
    role := .copying, aligned := false, leaseFrom := 0, progress := 0, epoch := none, edges := [], peerSynced := false, copying := false } :=
  enterRole_twn _ _

@[simp] theorem becomeCopying_well (s : State) : (becomeCopying s).well = s.well := enterRole_well _ _

/-- The unit number of R384: the lower serial is unit 0. -/
def pairUnit (serial : Nat) : Nat := if Config.serial.toNat < serial then 0 else 1

/-- The pair as a TWIN_BIND binds it, before the unit enters its role. -/
def twinBound (c : Slot) (serial : Nat) (s : State) : State := { s with
  twn.bound := true, twn.bindCid := c.cid, twn.peer := parF c 0 10 0, twn.peerSerial := serial, twn.map := parF c 1 23 0, twn.witOut := parF c 1 28 24,
  twn.witIn := parF c 1 36 32, twn.unit := pairUnit serial, twn.witAt := s.now, twn.witTog := s.now, twn.leaseEnd := s.now + 20000000, twn.leaseOut := false }

/-- The unit with a job active leads, else unit 0 (R384). -/
theorem bindTwin_enters (c : Slot) (serial : Nat) (job : Bool) (s : State) : bindTwin c serial job s =
    if jobActive s = true ∨ (job = false ∧ Config.serial.toNat < serial) then enterRole .lead (twinBound c serial s)
    else becomeCopying (twinBound c serial s) := by
  have hleads : (if jobActive s then true else if job then false else pairUnit serial == 0) = true ↔
      (jobActive s = true ∨ (job = false ∧ Config.serial.toNat < serial)) := by
    cases jobActive s <;> cases job <;> simp [pairUnit]
  simp only [← hleads]
  rfl

/-- What both roles share: the binding's own fields stay as they were bound. -/
theorem bindTwin_twn (c : Slot) (serial : Nat) (job : Bool) (s : State) : ∃ w : Twin, (bindTwin c serial job s).twn = { w with
    bound := true, bindCid := c.cid, peer := parF c 0 10 0, peerSerial := serial, witOut := parF c 1 28 24, witIn := parF c 1 36 32, unit := pairUnit serial,
    role := if jobActive s = true ∨ (job = false ∧ Config.serial.toNat < serial) then .lead else .copying } := by
  rw [bindTwin_enters]
  split
  · exact ⟨_, enterRole_twn _ _⟩
  · exact ⟨(becomeCopying (twinBound c serial s)).twn, by rw [becomeCopying_twn]; rfl⟩

theorem bindTwin_well (c : Slot) (serial : Nat) (job : Bool) (s : State) : (bindTwin c serial job s).well = s.well := by
  rw [bindTwin_enters]
  split
  · exact enterRole_well _ _
  · exact becomeCopying_well _

/-! ### TWIN_YIELD and TWIN_STATUS (R395, R404) -/

/-- Whether this unit may be told to yield: it is SYNCED, or leads a SYNCED peer (R395). -/
def MayYield (s : State) : Prop := s.twn.role = .synced ∨ (s.twn.role = .lead ∧ s.twn.peerSynced = true)

theorem mayYield_iff (s : State) : (s.twn.role == .synced || (s.twn.role == .lead && s.twn.peerSynced)) = true ↔ MayYield s := by
  simp [MayYield]

/-- A unit of a pair that is to yield is due, whether it was already or not. -/
theorem dueYield_due {code : Nat} {s : State} (h : s.twn.role = .lead ∨ s.twn.role = .synced) :
    (dueYield code s).twn.yieldDue = true := by
  have hpair : (s.twn.role == .lead || s.twn.role == .synced) = true := by simpa using h
  cases hdue : s.twn.yieldDue <;> simp [dueYield, hpair, hdue]

theorem dueYield_twn (code : Nat) (s : State) : ∃ d y, (dueYield code s).twn = { s.twn with yieldDue := d, yieldCode := y } := by
  unfold dueYield
  split <;> exact ⟨_, _, rfl⟩

section
variable {t cid : Nat} {c : Slot} {s : State}

theorem execTwinYield_due (h : Starts Op.twinYield cid c s) (hmay : MayYield s) :
    execTwinYield t cid s = .next (dueYield 0 { startedAt t cid s with twn.yieldCid := cid }) := by
  rw [execTwinYield, onStart_starts h, starts_cid h, if_pos ((mayYield_iff (startedAt t cid s)).2 hmay)]

theorem execTwinYield_notSynced (h : Starts Op.twinYield cid c s) (hmay : ¬ MayYield s) :
    execTwinYield t cid s = .next (refuse c Status.peerNotSynced (startedAt t cid s)) := by
  rw [execTwinYield, onStart_starts h, if_neg (mt (mayYield_iff (startedAt t cid s)).1 hmay)]

theorem execTwinStatus_answers (h : Starts Op.twinStatus cid c s) :
    execTwinStatus t cid s = .next (answer c (twinWords (startedAt t cid s)) (startedAt t cid s)) := onStart_starts h

end

/-! ### The witness (R385) -/

section
variable {t : Nat} {s : State} (hbound : s.twn.bound = true)
include hbound

theorem execWitnessToggle_due (hready : s.pwr.ready = true) (hcpu : domOn s 2 = true) (hdue : s.twn.witTog + 1000000 ≤ (advance t s).now) :
    execWitnessToggle t s = .next { advance t s with twn.witLevel := !s.twn.witLevel, twn.witTog := (advance t s).now } := by
  simp [execWitnessToggle, onEvent, hbound, hready, hcpu, hdue]

theorem execWitnessEdge_hears : execWitnessEdge t s = .next { advance t s with twn.witAt := (advance t s).now, twn.witSilent := false } := by
  simp [execWitnessEdge, onEvent, hbound]

theorem execWitnessSilent_due (hdue : s.twn.witAt + 5000000 ≤ (advance t s).now) :
    execWitnessSilent t s = .next { advance t s with twn.witSilent := true } := by
  simp [execWitnessSilent, onEvent, hbound, hdue]

end

theorem execWitnessSilent_early {t : Nat} {s : State} (hearly : (advance t s).now < s.twn.witAt + 5000000) :
    execWitnessSilent t s = .next (advance t s) := by
  simp [execWitnessSilent, onEvent, Nat.not_le.2 hearly]

/-- Settles O44: each command takes the branch that its checks leave; the binding is what both roles share, and the witness follows its pins. -/
theorem twinsAreBoundAndHeard : Obligations.TwinsAreBoundAndHeard := by
  refine ⟨fun t cid serial job c s => ⟨?_, fun h => ⟨fun hmay => ?_, execTwinYield_notSynced h⟩, execTwinStatus_answers⟩,
    fun t s hbound => ⟨execWitnessToggle_due hbound, execWitnessEdge_hears hbound, execWitnessSilent_due hbound, execWitnessSilent_early⟩⟩
  · rintro ok h rfl
    refine ⟨execTwinBind_badParameter h, execTwinBind_unreachable h, execTwinBind_bound h, execTwinBind_bothActive h, fun hok hroute hfree hjobs => ?_⟩
    obtain ⟨w, hw⟩ := bindTwin_twn c serial job (startedAt t cid s)
    refine ⟨_, execTwinBind_binds h hok hroute hfree hjobs, ?_⟩
    rw [hw, bindTwin_well, starts_cid h]
    exact ⟨rfl, rfl, rfl, rfl, rfl, rfl, rfl, rfl, rfl⟩
  · obtain ⟨w, hw⟩ := dueYield_changes 0 { startedAt t cid s with twn.yieldCid := cid }
    obtain ⟨d, y, htwn⟩ := dueYield_twn 0 { startedAt t cid s with twn.yieldCid := cid }
    refine ⟨_, execTwinYield_due h hmay, dueYield_due (hmay.symm.imp (·.1) id), ?_, ?_, ?_⟩
    · rw [htwn]
    · rw [htwn]; rfl
    · rw [hw]

end Sys2Proof.Machine
end

section
/-!
Digests and CHECK of a pair, the state copy, and the statement about them.
-/
namespace Sys2Proof.Machine

/-! ### What a fault and a reply do to the twin unit -/

/-- The twin unit is as it was, but for a yield that may have become due (R395). -/
def YieldNoted (s t : State) : Prop := ∃ d y, t.twn = { s.twn with yieldDue := d, yieldCode := y }

theorem YieldNoted.of_twn {s t : State} (h : t.twn = s.twn) : YieldNoted s t := ⟨_, _, h⟩

theorem YieldNoted.from {r s t : State} (h : YieldNoted s t) (hr : s.twn = r.twn) : YieldNoted r t := by
  obtain ⟨d, y, ht⟩ := h
  exact ⟨d, y, by rw [ht, hr]⟩

theorem deviceFault_yieldNoted (code : Nat) (s : State) : YieldNoted s (deviceFault code s) := by
  unfold deviceFault
  split
  · exact .of_twn rfl
  · exact dueYield_twn _ _

theorem event_twn (code cls detail : Nat) (s : State) : (event code cls detail s).twn = s.twn := by rw [event_frame]

theorem raise_yieldNoted (code detail : Nat) (s : State) : YieldNoted s (raise code detail s) := by
  unfold raise
  dsimp only
  repeat' split
  case isFalse => exact (deviceFault_yieldNoted _ _).from (event_twn ..)
  all_goals exact .of_twn (event_twn ..)

@[simp] theorem finish_twn (cid status fault : Nat) (ws : List W64) (s : State) : (finish cid status fault ws s).twn = s.twn := by rw [finish_frame]
@[simp] theorem uraraSend_twn (dest type : Nat) (ws : List W64) (s : State) : (uraraSend dest type ws s).twn = s.twn := by rw [uraraSend_frame]
@[simp] theorem setFlag_twn (n i : Nat) (s : State) : (setFlag n i s).twn = s.twn := rfl

/-- This unit has a part in the comparison of digests: it leads, or stands by in step with the lead. -/
def InPair (s : State) : Prop := s.twn.role = .lead ∨ s.twn.role = .synced

theorem inPair_iff (s : State) : (s.twn.role == .lead || s.twn.role == .synced) = true ↔ InPair s := by simp [InPair]

/-! ### The digest of a line -/

/-- The digests kept of a line (R392). -/
def digestAt (s : State) (line : Nat) : Option LineDigest := s.twn.digests.find? (fun x => x.line == line)

theorem find?_mapWhere {α : Type} {p : α → Bool} {f : α → α} (hf : ∀ x, p (f x) = p x) (l : List α) :
    (mapWhere p f l).find? p = (l.find? p).map f := by
  induction l with
  | nil => rfl
  | cons a l ih =>
    cases hp : p a
    · simpa [mapWhere, hp] using ih
    · simp [mapWhere, hp, hf]

theorem filter_mapWhere {α : Type} {p : α → Bool} {f : α → α} (hf : ∀ x, p (f x) = p x) (l : List α) :
    (mapWhere p f l).filter (fun x => !p x) = l.filter (fun x => !p x) := by
  induction l with
  | nil => rfl
  | cons a l ih =>
    cases hp : p a
    · simpa [mapWhere, hp] using ih
    · simpa [mapWhere, hp, hf] using ih

section
variable {line : Nat} {x : LineDigest} {f : LineDigest → LineDigest} {s : State} (h : digestAt s line = some x)
include h

/-- A line that has a digest keeps its place when the digest is changed. -/
theorem modDigest_known : modDigest line f s = { s with twn.digests := mapWhere (fun y => y.line == line) f s.twn.digests } := by
  have hany : s.twn.digests.any (fun y => y.line == line) = true :=
    List.any_eq_true.2 ⟨x, List.mem_of_find?_eq_some h, List.find?_some (p := fun y : LineDigest => y.line == line) h⟩
  rw [modDigest, if_pos hany]

variable (hf : ∀ y, (f y).line = y.line)
include hf

theorem digestAt_modDigest : digestAt (modDigest line f s) line = some (f x) := by
  rw [modDigest_known h]
  exact (find?_mapWhere (fun y => by rw [hf]) _).trans (congrArg (·.map f) h)

theorem dropDigest_modDigest : dropDigest line (modDigest line f s) = dropDigest line s := by
  rw [modDigest_known h, dropDigest, dropDigest]
  have hfilter := filter_mapWhere (p := fun y : LineDigest => y.line == line) (f := f) (fun y => by rw [hf]) s.twn.digests
  exact congrArg (fun l => { s with twn.digests := l }) hfilter

end

/-! ### CHECK (R393) -/

theorem suspectLine_twn (line : Nat) (s : State) : (suspectLine line s).twn =
    { s.twn with suspects := s.twn.suspects ++ [line], suspectN := min 0xFFFFFFFF (s.twn.suspectN + 1) } := by
  rw [← sat_eq_min]
  exact foldl_keeps (·.twn) (fun s p => setFlag_twn _ _ s) _ _

/-- What a mismatch comes to once this unit knows whether each of the two saw a fault. -/
theorem resolveMismatch_decides {line : Nat} {x : LineDigest} {own peer : Nat × Nat} {theirs : Bool} {s : State} (h : digestAt s line = some x)
    (hown : x.own = some own) (hpeer : x.peer = some peer) (hcheck : x.check = some theirs) (hmism : x.mism = true) :
    resolveMismatch line s =
      if own.2 ≠ peer.2 then
        if s.twn.role = .lead then dropDigest line s
        else dueYield FaultCode.twinDiverged (raise FaultCode.twinDiverged line (dropDigest line s))
      else if x.fault = theirs then suspectLine line (dropDigest line s)
      else if x.fault = true then dueYield FaultCode.twinMismatch (dropDigest line s)
      else dropDigest line s := by
  have hfound : s.twn.digests.find? (fun y => y.line == line) = some x := h
  simp only [resolveMismatch, hfound, hown, hpeer, hcheck, hmism]
  simp [dropDigest]

/-- The state in which a mismatch is resolved once the other unit's CHECK has come. -/
def checkTaken (t line : Nat) (theirs : Bool) (s : State) : State :=
  modDigest line (fun y => { y with check := some theirs }) (takeInbox 0x56 (advance t s))

/-- The state after a digest of a line has been dropped at a message of a type. -/
def digestDropped (type t line : Nat) (s : State) : State :=
  { takeInbox type (advance t s) with twn.digests := s.twn.digests.filter fun y => y.line != line }

section
variable {t line : Nat} {x : LineDigest} {own peer : Nat × Nat} {theirs : Bool} {s : State} (hrole : InPair s) (h : digestAt s line = some x)
  (hown : x.own = some own) (hpeer : x.peer = some peer) (hmism : x.mism = true)
include hrole h hown hpeer hmism

theorem execCheckReceive_decides : execCheckReceive t line theirs s = .next (
    if own.2 ≠ peer.2 then
      if s.twn.role = .lead then digestDropped 0x56 t line s
      else dueYield FaultCode.twinDiverged (raise FaultCode.twinDiverged line (digestDropped 0x56 t line s))
    else if x.fault = theirs then suspectLine line (digestDropped 0x56 t line s)
    else if x.fault = true then dueYield FaultCode.twinMismatch (digestDropped 0x56 t line s)
    else digestDropped 0x56 t line s) := by
  have hin : digestAt (takeInbox 0x56 (advance t s)) line = some x := h
  have hchecked : digestAt (checkTaken t line theirs s) line = some { x with check := some theirs } := digestAt_modDigest hin fun _ => rfl
  have hdrop : dropDigest line (checkTaken t line theirs s) = digestDropped 0x56 t line s := dropDigest_modDigest hin fun _ => rfl
  have htaken : (checkTaken t line theirs s).twn.role = s.twn.role := by rw [checkTaken, modDigest_known hin]; rfl
  have hskip : (!(s.twn.role == .lead || s.twn.role == .synced)) = false := congrArg (!·) ((inPair_iff s).2 hrole)
  have hdecides := resolveMismatch_decides hchecked hown hpeer rfl hmism
  rw [htaken, hdrop] at hdecides
  have hresolves : execCheckReceive t line theirs s = .next (resolveMismatch line (checkTaken t line theirs s)) :=
    congrArg Host.Outcome.next (if_neg (ne_true_of_eq_false hskip))
  exact hresolves.trans (congrArg _ hdecides)

theorem execCheckReceive_suspects (hrecipe : own.2 = peer.2) (hfault : x.fault = theirs) :
    execCheckReceive t line theirs s = .next (suspectLine line (digestDropped 0x56 t line s)) := by
  rw [execCheckReceive_decides hrole h hown hpeer hmism, if_neg (not_not.2 hrecipe), if_pos hfault]

theorem execCheckReceive_yields (hrecipe : own.2 = peer.2) (hfault : x.fault = true) (htheirs : theirs = false) :
    execCheckReceive t line theirs s = .next (dueYield FaultCode.twinMismatch (digestDropped 0x56 t line s)) := by
  rw [execCheckReceive_decides hrole h hown hpeer hmism, if_neg (not_not.2 hrecipe), if_neg (by simp [hfault, htheirs]), if_pos hfault]

theorem execCheckReceive_peerYields (hrecipe : own.2 = peer.2) (hfault : x.fault = false) (htheirs : theirs = true) :
    execCheckReceive t line theirs s = .next (digestDropped 0x56 t line s) := by
  rw [execCheckReceive_decides hrole h hown hpeer hmism, if_neg (not_not.2 hrecipe), if_neg (by simp [hfault, htheirs]), if_neg (by simp [hfault])]

theorem execCheckReceive_standbyDiverges (hrecipe : own.2 ≠ peer.2) (hstandby : s.twn.role = .synced) : execCheckReceive t line theirs s =
    .next (dueYield FaultCode.twinDiverged (raise FaultCode.twinDiverged line (digestDropped 0x56 t line s))) := by
  rw [execCheckReceive_decides hrole h hown hpeer hmism, if_pos hrecipe, if_neg (by simp [hstandby])]

theorem execCheckReceive_leadGoesOn (hrecipe : own.2 ≠ peer.2) (hlead : s.twn.role = .lead) :
    execCheckReceive t line theirs s = .next (digestDropped 0x56 t line s) := by
  rw [execCheckReceive_decides hrole h hown hpeer hmism, if_pos hrecipe, if_pos hlead]

end

/-! ### Digests compared (R392) -/

theorem compareDigests_waits {line : Nat} {x : LineDigest} {s : State} (h : digestAt s line = some x) (hown : x.own = none) :
    compareDigests line s = s := by
  have hfound : s.twn.digests.find? (fun y => y.line == line) = some x := h
  simp only [compareDigests, hfound, hown]

theorem compareDigests_settles {line : Nat} {x : LineDigest} {d : Nat × Nat} {s : State} (h : digestAt s line = some x) (hown : x.own = some d)
    (hpeer : x.peer = some d) (hmism : x.mism = false) (hrole : InPair s) : compareDigests line s = dropDigest line s := by
  have hfound : s.twn.digests.find? (fun y => y.line == line) = some x := h
  have hpair := (inPair_iff s).2 hrole
  simp only [compareDigests, hfound, hown, hpeer, hmism, hpair]
  simp

/-- The resolution of a mismatch counts none. -/
theorem resolveMismatch_digestMis (line : Nat) (s : State) : (resolveMismatch line s).twn.digestMis = s.twn.digestMis := by
  have hdue : ∀ code (u : State), (dueYield code u).twn.digestMis = u.twn.digestMis := fun code u => by
    obtain ⟨d, y, h⟩ := dueYield_twn code u; rw [h]
  have hraise : ∀ code (u : State), (raise code line u).twn.digestMis = u.twn.digestMis := fun code u => by
    obtain ⟨d, y, h⟩ := raise_yieldNoted code line u; rw [h]
  have hdrop : ∀ u : State, (dropDigest line u).twn.digestMis = u.twn.digestMis := fun _ => rfl
  unfold resolveMismatch
  dsimp only
  repeat' split
  all_goals simp only [hdue, hraise, suspectLine_twn, hdrop]

theorem compareDigests_differs {line : Nat} {x : LineDigest} {own peer : Nat × Nat} {s : State} (h : digestAt s line = some x) (hown : x.own = some own)
    (hpeer : x.peer = some peer) (hne : own ≠ peer) (hmism : x.mism = false) (hrole : InPair s) :
    (compareDigests line s).twn.digestMis = min 0xFFFFFFFF (s.twn.digestMis + 1) := by
  have hfound : s.twn.digests.find? (fun y => y.line == line) = some x := h
  have hskip : (x.mism || !(s.twn.role == .lead || s.twn.role == .synced)) = false := by rw [hmism, (inPair_iff s).2 hrole]; rfl
  simp only [compareDigests, hfound, hown, hpeer, hskip, beq_false_of_ne hne, Bool.false_eq_true, if_false]
  rw [resolveMismatch_digestMis, uraraSend_twn, ← sat_eq_min]
  rfl

/-- The state in which a peer's digest is compared. -/
def digestTaken (t line : Nat) (d recipe : W64) (s : State) : State :=
  modDigest line (fun y => { y with peer := some (d.toNat, recipe.toNat) }) (takeInbox 0x51 (advance t s))

section
variable {t line : Nat} {d recipe : W64} {x : LineDigest} {s : State} (hrole : InPair s) (h : digestAt s line = some x)
  (hearly : ∀ y ∈ s.twn.digests, y.line = line → (advance t s).now ≤ y.ownAt + 1000000) (hmism : x.mism = false)
include hrole hearly

/-- A digest within a millisecond of this unit's own is not late. -/
theorem execDigestReceive_compares : execDigestReceive t line d recipe s = .next (compareDigests line (digestTaken t line d recipe s)) := by
  have hlate : ((takeInbox 0x51 (advance t s)).twn.digests.any fun y =>
      y.line == line && y.own.isSome && decide (y.ownAt + 1000000 < (takeInbox 0x51 (advance t s)).now)) = false := by
    refine List.any_eq_false.2 fun y hy hdue => ?_
    simp only [Bool.and_eq_true, beq_iff_eq, decide_eq_true_eq] at hdue
    exact absurd hdue.2 (Nat.not_lt.2 (hearly y hy hdue.1.1))
  have hskip : (!(s.twn.role == .lead || s.twn.role == .synced)) = false := congrArg (!·) ((inPair_iff s).2 hrole)
  refine congrArg Host.Outcome.next ((if_neg (ne_true_of_eq_false hskip)).trans ?_)
  exact congrArg (fun u => compareDigests line (modDigest line (fun y => { y with peer := some (d.toNat, recipe.toNat) }) u))
    (if_neg (ne_true_of_eq_false hlate))

include h

theorem execDigestReceive_waits (hown : x.own = none) : execDigestReceive t line d recipe s = .next (digestTaken t line d recipe s) := by
  have hin : digestAt (takeInbox 0x51 (advance t s)) line = some x := h
  have hnow : digestAt (digestTaken t line d recipe s) line = some { x with peer := some (d.toNat, recipe.toNat) } := digestAt_modDigest hin fun _ => rfl
  rw [execDigestReceive_compares hrole hearly, compareDigests_waits hnow hown]

include hmism

theorem execDigestReceive_settles (hown : x.own = some (d.toNat, recipe.toNat)) :
    execDigestReceive t line d recipe s = .next (digestDropped 0x51 t line s) := by
  have hin : digestAt (takeInbox 0x51 (advance t s)) line = some x := h
  have hnow : digestAt (digestTaken t line d recipe s) line = some { x with peer := some (d.toNat, recipe.toNat) } := digestAt_modDigest hin fun _ => rfl
  have hdrop : dropDigest line (digestTaken t line d recipe s) = digestDropped 0x51 t line s := dropDigest_modDigest hin fun _ => rfl
  rw [execDigestReceive_compares hrole hearly, compareDigests_settles hnow hown rfl hmism hrole, hdrop]

theorem execDigestReceive_differs {own : Nat × Nat} (hown : x.own = some own) (hne : own ≠ (d.toNat, recipe.toNat)) :
    ∃ s', execDigestReceive t line d recipe s = .next s' ∧ s'.twn.digestMis = min 0xFFFFFFFF (s.twn.digestMis + 1) := by
  have hin : digestAt (takeInbox 0x51 (advance t s)) line = some x := h
  have hnow : digestAt (digestTaken t line d recipe s) line = some { x with peer := some (d.toNat, recipe.toNat) } := digestAt_modDigest hin fun _ => rfl
  exact ⟨_, execDigestReceive_compares hrole hearly, compareDigests_differs hnow hown rfl hne hmism hrole⟩

end

/-! ### The state copy (R401, R403) -/

/-- What a unit that copies keeps through a LINEMARK and the records it sends: the numbers it goes on from, its role and the number of the copy. -/
structure CopyKept (s t : State) : Prop where
  nextRec : t.tal.nextRec = s.tal.nextRec
  nextProd : t.mot.nextProd = s.mot.nextProd
  role : s.twn.role = .copying → t.twn.role = .copying
  copy : t.twn.copy = s.twn.copy

theorem CopyKept.refl (s : State) : CopyKept s s := ⟨rfl, rfl, id, rfl⟩

theorem CopyKept.trans {s t u : State} (h : CopyKept s t) (k : CopyKept t u) : CopyKept s u :=
  ⟨k.nextRec.trans h.nextRec, k.nextProd.trans h.nextProd, k.role ∘ h.role, k.copy.trans h.copy⟩

theorem PermitsMove.copyKept {s t : State} (h : PermitsMove s t) : CopyKept s t := by
  obtain ⟨_, _, _, _, _, _, _, rfl⟩ := h
  exact ⟨rfl, rfl, id, rfl⟩

theorem raise_copyKept (code detail : Nat) (s : State) : CopyKept s (raise code detail s) := by
  obtain ⟨d, y, h⟩ := raise_yieldNoted code detail s
  exact ⟨by rw [raise_frame], by rw [raise_frame], by rw [h]; exact id, by rw [h]⟩

theorem becomeCopying_copyKept (s : State) : CopyKept s (becomeCopying s) :=
  ⟨congrArg (·.nextRec) (enterRole_permitsMove _ _).tal, congrArg (·.nextProd) (enterRole_permitsMove _ _).mot,
    fun _ => by rw [becomeCopying_twn], by rw [becomeCopying_twn]⟩

theorem takeMark_copyKept (line stamp : Nat) (s : State) : CopyKept s (takeMark line stamp s) := by
  have hslip : CopyKept s { s with twn.slips := s.twn.slips + 1 } := ⟨rfl, rfl, id, rfl⟩
  unfold takeMark
  split
  · exact .refl s
  · split
    · exact ⟨rfl, rfl, id, rfl⟩
    · split
      · exact .refl s
      · exact (hslip.trans (raise_copyKept _ _ _)).trans (becomeCopying_copyKept _)

theorem sendRecords_copyKept (s : State) : CopyKept s (sendRecords s) := by
  have hnoted : ∀ (u : State) n o, CopyKept u { u with twn.replSeq := n, twn.replOut := o } := fun _ _ _ => ⟨rfl, rfl, id, rfl⟩
  exact foldl_rel .refl .trans (fun u r => (hnoted u _ _).trans (uraraSend_permitsMove _ _ _ _).copyKept) _ s

/-- What waits for the binding ends, where a command does; only its number leaves the twin unit. -/
def endBinding (status fault : Nat) (ws : List W64) (s : State) : State :=
  if s.twn.bindCid = 0 then s else finish s.twn.bindCid status fault ws { s with twn.bindCid := 0 }

theorem endBinding_twn (status fault : Nat) (ws : List W64) (s : State) : ∃ b, (endBinding status fault ws s).twn = { s.twn with bindCid := b } := by
  unfold endBinding
  split
  · exact ⟨_, rfl⟩
  · exact ⟨_, finish_twn _ _ _ _ _⟩

/-- Ending the binding touches neither the ledger, motion nor the products. -/
theorem endBinding_apart (status fault : Nat) (ws : List W64) (s : State) : (endBinding status fault ws s).led = s.led ∧
    (endBinding status fault ws s).mot = s.mot ∧ (endBinding status fault ws s).prod = s.prod := by
  unfold endBinding
  split
  · exact ⟨rfl, rfl, rfl⟩
  · exact ⟨finish_led .., finish_mot .., finish_prod ..⟩

/-- A copy that begins: its number is kept, and its progress and what was to be tried again are void. -/
def copyBegun (t copy : Nat) (s : State) : State :=
  { takeInbox 0x57 (advance t s) with twn.copy := copy, twn.progress := 0, twn.retryAt := 0 }

/-- A copy whose lead is configured otherwise is refused, to be tried again after 10 s (R401). -/
def copyRefused (t copy : Nat) (s : State) : State := raise FaultCode.twinConfigDiff 0
  { copyBegun t copy s with twn.copyFault := FaultCode.twinConfigDiff, twn.retryAt := (advance t s).now + 10000000000 }

/-- A copy that goes on: this unit's numbers lie past the lead's. -/
def copyGoesOn (t copy record product : Nat) (s : State) : State := { copyBegun t copy s with
  twn.copying := true, tal.nextRec := max s.tal.nextRec (record + 1), mot.nextProd := max s.mot.nextProd (product + 1) }

section
variable {t : Nat} {s : State} (hrole : s.twn.role = .copying)
include hrole

theorem execCopyBeginReceive_refuses (copy record product line stamp : Nat) : execCopyBeginReceive t copy record product line stamp false s =
    .next (endBinding Status.faultNoEffect FaultCode.twinConfigDiff [] (copyRefused t copy s)) :=
  congrArg Host.Outcome.next (if_neg (by simp [hrole]))

theorem execCopyBeginReceive_begins (copy record product line stamp : Nat) : execCopyBeginReceive t copy record product line stamp true s =
    .next (sendRecords (takeMark line stamp (copyGoesOn t copy record product s))) :=
  congrArg Host.Outcome.next (if_neg (by simp [hrole]))

theorem execTwinCopyRetry_asks (hset : s.twn.retryAt ≠ 0) (hdue : s.twn.retryAt ≤ (advance t s).now) : execTwinCopyRetry t s =
    .next (uraraSend s.twn.peer 0x57 [3] { advance t s with twn.retryAt := (advance t s).now + 10000000000 }) := by
  have hasks : (s.twn.role != .copying || s.twn.retryAt == 0 || decide ((advance t s).now < s.twn.retryAt)) = false := by simp [hrole, hset, hdue]
  exact congrArg Host.Outcome.next (if_neg (ne_true_of_eq_false hasks))

variable (hcopying : s.twn.copying = true)
include hcopying

theorem execCopyCommitReceive_commits (snap : Snapshot) : execCopyCommitReceive t s.twn.copy true snap s =
    .next (becomeSynced (applySnapshot snap (takeInbox 0x57 (advance t s)))) := by
  simp [execCopyCommitReceive, onEvent, hrole, hcopying]

theorem execCopyCommitReceive_fails (snap : Snapshot) : execCopyCommitReceive t s.twn.copy false snap s =
    .next (endBinding Status.faultNoEffect Config.copyDigestFault []
      { takeInbox 0x57 (advance t s) with twn.copying := false, twn.copyFault := Config.copyDigestFault }) :=
  congrArg Host.Outcome.next (if_neg (by simp [hrole, hcopying]))

end

theorem execTwinCopyRetry_early {t : Nat} {s : State} (hearly : (advance t s).now < s.twn.retryAt) : execTwinCopyRetry t s = .next (advance t s) := by
  simp [execTwinCopyRetry, onEvent, hearly]

/-- A proposal of an epoch is nothing that the peer's copy rests on. -/
theorem proposeIfDue_twn (s : State) : ∃ e n, (proposeIfDue s).twn = { s.twn with epoch := e, epochNum := n } := by
  unfold proposeIfDue
  dsimp only
  split
  · exact ⟨_, _, rfl⟩
  · split
    · exact ⟨_, _, uraraSend_twn _ _ _ _⟩
    · split
      · exact ⟨_, _, uraraSend_twn _ _ _ _⟩
      · exact ⟨_, _, rfl⟩

theorem execCopyDoneReceive_completes {t : Nat} {s : State} (hrole : s.twn.role = .lead) (hcopying : s.twn.copying = true) :
    execCopyDoneReceive t s.twn.copy s = .next (proposeIfDue (endBinding Status.done 0 [1]
      { takeInbox 0x57 (advance t s) with twn.copying := false, twn.peerSynced := true, twn.progress := 65536 })) :=
  congrArg Host.Outcome.next (if_neg (by simp [hrole, hcopying]))

/-- A unit that has committed its copy is SYNCED, whatever the copy held (R401). -/
theorem becomeSynced_synced (s : State) : (becomeSynced s).twn.role = .synced ∧ (becomeSynced s).twn.progress = 65536 ∧
    (becomeSynced s).twn.copyFault = 0 := by
  unfold becomeSynced
  dsimp only
  repeat' split
  all_goals simp

/-- Settles O46: digests and CHECK by what the two units found of the line, the copy by what it leaves of the unit that copies. -/
theorem pairsAgree : Obligations.PairsAgree := by
  refine ⟨fun t line d recipe x s hrole h => ⟨fun hearly hmism => ⟨execDigestReceive_waits hrole h hearly, execDigestReceive_settles hrole h hearly hmism,
    fun own hown hne => execDigestReceive_differs hrole h hearly hmism hown hne⟩, fun own peer theirs hown hpeer hmism =>
      ⟨fun hrecipe hfault => ?_, fun hrecipe hfault htheirs => ?_, execCheckReceive_peerYields hrole h hown hpeer hmism, fun hrecipe hstandby => ?_,
        execCheckReceive_leadGoesOn hrole h hown hpeer hmism⟩⟩,
    fun t s => ⟨fun copy record product line stamp hrole => ⟨?_, ?_⟩, fun snap hrole hcopying => ⟨⟨_, execCopyCommitReceive_commits hrole hcopying snap,
      becomeSynced_synced _⟩, ?_⟩, fun hrole hcopying => ?_, execTwinCopyRetry_asks, fun _ => execTwinCopyRetry_early⟩⟩
  · refine ⟨_, execCheckReceive_suspects hrole h hown hpeer hmism hrecipe hfault, ?_⟩
    rw [suspectLine_twn]
    exact ⟨List.mem_append_right _ (List.mem_singleton_self _), rfl, rfl⟩
  · obtain ⟨e, y, htwn⟩ := dueYield_twn FaultCode.twinMismatch (digestDropped 0x56 t line s)
    exact ⟨_, execCheckReceive_yields hrole h hown hpeer hmism hrecipe hfault htheirs, dueYield_due hrole, by rw [htwn]; rfl⟩
  · obtain ⟨e, y, htwn⟩ := raise_yieldNoted FaultCode.twinDiverged line (digestDropped 0x56 t line s)
    exact ⟨_, execCheckReceive_standbyDiverges hrole h hown hpeer hmism hrecipe hstandby, dueYield_due (.inr (by rw [htwn]; exact hstandby))⟩
  · obtain ⟨b, hb⟩ := endBinding_twn Status.faultNoEffect FaultCode.twinConfigDiff [] (copyRefused t copy s)
    obtain ⟨-, hmot, -⟩ := endBinding_apart Status.faultNoEffect FaultCode.twinConfigDiff [] (copyRefused t copy s)
    obtain ⟨e, y, htwn⟩ := raise_yieldNoted FaultCode.twinConfigDiff 0
      { copyBegun t copy s with twn.copyFault := FaultCode.twinConfigDiff, twn.retryAt := (advance t s).now + 10000000000 }
    refine ⟨_, execCopyBeginReceive_refuses hrole copy record product line stamp, ?_⟩
    rw [hb, hmot, copyRefused, htwn, raise_frame]
    exact ⟨rfl, rfl, hrole, rfl⟩
  · have hkept := (takeMark_copyKept line stamp (copyGoesOn t copy record product s)).trans (sendRecords_copyKept _)
    exact ⟨_, execCopyBeginReceive_begins hrole copy record product line stamp, hkept.nextRec, hkept.nextProd, hkept.role hrole, hkept.copy⟩
  · obtain ⟨b, hb⟩ := endBinding_twn Status.faultNoEffect Config.copyDigestFault []
      { takeInbox 0x57 (advance t s) with twn.copying := false, twn.copyFault := Config.copyDigestFault }
    obtain ⟨hled, -, hprod⟩ := endBinding_apart Status.faultNoEffect Config.copyDigestFault []
      { takeInbox 0x57 (advance t s) with twn.copying := false, twn.copyFault := Config.copyDigestFault }
    refine ⟨_, execCopyCommitReceive_fails hrole hcopying snap, ?_, ?_, hled, hprod⟩ <;> rw [hb]
    exact hrole
  · obtain ⟨b, hb⟩ := endBinding_twn Status.done 0 [1]
      { takeInbox 0x57 (advance t s) with twn.copying := false, twn.peerSynced := true, twn.progress := 65536 }
    obtain ⟨e, n, htwn⟩ := proposeIfDue_twn (endBinding Status.done 0 [1]
      { takeInbox 0x57 (advance t s) with twn.copying := false, twn.peerSynced := true, twn.progress := 65536 })
    refine ⟨_, execCopyDoneReceive_completes hrole hcopying, ?_⟩
    rw [htwn, hb]
    exact ⟨rfl, rfl, hrole⟩

end Sys2Proof.Machine
end

section
/-!
NODE_ID, TOPOLOGY, announcements and routes: what the link's own traffic leaves alone, and the statement about joining it.
-/
namespace Sys2Proof.Machine

/-! ### Commands that end together -/

/-- A slot after the end of a command is one from before, or has that command's final reply committed. -/
theorem finish_slot {cid status fault : Nat} {ws : List W64} {s : State} {x : Slot} (hx : x ∈ (finish cid status fault ws s).cmd.slots) :
    x ∈ s.cmd.slots ∨ (x.phase = .committed ∧ x.status = status) := by
  have hmapped : ∀ {reply : List W64} {l : List Slot}, x ∈ mapWhere (fun x => x.cid == cid) (fun x => { x with phase := .committed, status := status, reply := reply }) l →
      x ∈ l ∨ (x.phase = .committed ∧ x.status = status) := by
    intro reply l hl
    obtain ⟨y, hy, rfl⟩ := List.mem_map.1 hl
    split
    · exact .inr ⟨rfl, rfl⟩
    · exact .inl hy
  unfold finish at hx
  split at hx
  · exact .inl hx
  · split at hx
    · rw [handedOver_slots] at hx
      exact .inl (List.mem_of_mem_filter hx)
    · dsimp only at hx
      split at hx
      · rw [handedOver_slots, sendReply_slots] at hx
        exact hmapped (List.mem_of_mem_filter hx)
      · exact hmapped hx
      · exact hmapped hx
      · split at hx
        · rw [sendReply_slots] at hx; exact hmapped hx
        · rw [handedOver_slots] at hx; exact hmapped (List.mem_of_mem_filter hx)

/-- A command that has ended stays so while others end with the same status. -/
theorem Ended.finish {cid status : Nat} {s : State} (h : Ended cid status s) (other fault : Nat) (ws : List W64) :
    Ended cid status (finish other status fault ws s) := fun x hx hcid => (finish_slot hx).elim (fun hold => h x hold hcid) id

theorem finishAll_ended {α : Type} {g : α → Nat} {status fault : Nat} {ws : List W64} {l : List α} {s : State} {a : α} (ha : a ∈ l) :
    Ended (g a) status (l.foldl (fun s a => Machine.finish (g a) status fault ws s) s) := by
  have hkeeps : ∀ (l : List α) (s : State), Ended (g a) status s → Ended (g a) status (l.foldl (fun s a => Machine.finish (g a) status fault ws s) s) := by
    intro l
    induction l with
    | nil => exact fun s h => h
    | cons b l ih => exact fun s h => ih _ (h.finish _ _ _)
  induction l generalizing s with
  | nil => simp at ha
  | cons b l ih =>
    rcases List.mem_cons.1 ha with rfl | hin
    · exact hkeeps l _ (finish_ended _ _ _ _ _)
    · exact ih hin

/-! ### What the link's traffic may change -/

/-- The link may have sent: its lanes' buffers, the sequences and the count of packets without a route may differ; nothing else of the link, of the lanes or of the
products does. -/
structure LinkSends (s t : State) : Prop where
  ura : ∃ l e d, t.ura = { s.ura with links := l, eseqs := e, dropped := d }
  node : t.node = s.node
  lan : t.lan = s.lan
  prod : t.prod = s.prod
  well : t.well = s.well

theorem LinkSends.refl (s : State) : LinkSends s s := ⟨⟨_, _, _, rfl⟩, rfl, rfl, rfl, rfl⟩

theorem LinkSends.trans {s t u : State} (h : LinkSends s t) (k : LinkSends t u) : LinkSends s u := by
  obtain ⟨_, _, _, ht⟩ := h.ura
  obtain ⟨l, e, d, hu⟩ := k.ura
  exact ⟨⟨l, e, d, by rw [hu, ht]⟩, k.node.trans h.node, k.lan.trans h.lan, k.prod.trans h.prod, k.well.trans h.well⟩

theorem LinkSends.foldl {α : Type} {g : State → α → State} (hg : ∀ s a, LinkSends s (g s a)) (l : List α) (s : State) : LinkSends s (l.foldl g s) :=
  foldl_rel .refl .trans hg l s

/-- What does not touch the link leaves it as it was. -/
theorem LinkSends.of_eq {s t : State} (ura : t.ura = s.ura) (node : t.node = s.node) (lan : t.lan = s.lan) (prod : t.prod = s.prod) (well : t.well = s.well) :
    LinkSends s t := ⟨⟨_, _, _, ura⟩, node, lan, prod, well⟩

theorem modLink_linkSends (i : Nat) (f : LinkLane → LinkLane) (s : State) : LinkSends s (modLink i f s) := by
  unfold modLink
  split
  · exact ⟨⟨_, _, _, rfl⟩, rfl, rfl, rfl, rfl⟩
  · exact .refl s

theorem emit_linkSends (e : Emit) (s : State) : LinkSends s (emit e s) := .of_eq rfl rfl rfl rfl rfl

theorem transmit_linkSends (i : Nat) (p : Packet) (s : State) : LinkSends s (transmit i p s) := by
  unfold transmit
  dsimp only
  split
  · exact (modLink_linkSends _ _ _).trans (emit_linkSends _ _)
  · exact modLink_linkSends _ _ _

theorem routePacket_linkSends (p : Packet) (port : Option Nat) (s : State) : LinkSends s (routePacket p port s) := by
  unfold routePacket
  split
  · exact .foldl (fun s k => transmit_linkSends _ _ _) _ _
  · split
    · exact transmit_linkSends _ _ _
    · exact ⟨⟨_, _, _, rfl⟩, rfl, rfl, rfl, rfl⟩

theorem uraraSend_linkSends (dest type : Nat) (ws : List W64) (s : State) : LinkSends s (uraraSend dest type ws s) := by
  have hnumbered : ∀ e, LinkSends s { s with ura.eseqs := e } := fun e => ⟨⟨_, _, _, rfl⟩, rfl, rfl, rfl, rfl⟩
  unfold uraraSend
  split
  · exact .refl s
  · exact ((hnumbered _).trans (emit_linkSends _ _)).trans (routePacket_linkSends _ _ _)

theorem sendReply_linkSends (tr : Transport) (src cid : Nat) (ws : List W64) (s : State) : LinkSends s (sendReply tr src cid ws s) := by
  unfold sendReply
  dsimp only
  repeat' split
  case _ => exact .of_eq rfl rfl rfl rfl rfl
  case _ => exact .refl s
  case _ => exact (emit_linkSends _ _).trans (uraraSend_linkSends _ _ _ _)
  case _ => exact emit_linkSends _ _

theorem handedOver_linkSends (cid : Nat) (s : State) : LinkSends s (handedOver cid s) := by
  rw [handedOver_frame]; exact .of_eq rfl rfl rfl rfl rfl

theorem finish_linkSends (cid status fault : Nat) (ws : List W64) (s : State) : LinkSends s (finish cid status fault ws s) := by
  have hcommitted : ∀ c, LinkSends s { s with cmd := c } := fun _ => .of_eq rfl rfl rfl rfl rfl
  unfold finish
  split
  · exact .refl s
  · split
    · exact handedOver_linkSends _ _
    · dsimp only
      split
      · exact ((hcommitted _).trans (sendReply_linkSends _ _ _ _ _)).trans (handedOver_linkSends _ _)
      · exact hcommitted _
      · exact hcommitted _
      · split
        · exact (hcommitted _).trans (sendReply_linkSends _ _ _ _ _)
        · exact (hcommitted _).trans (handedOver_linkSends _ _)

theorem raise_linkSends (code detail : Nat) (s : State) : LinkSends s (raise code detail s) := by
  rw [raise_frame]; exact .of_eq rfl rfl rfl rfl rfl

/-! ### What follows a change of routes or ports (R372, R378, R382) -/

theorem sendRoutes_linkSends (fuel port : Nat) (cs : List (Nat × Nat)) (s : State) : LinkSends s (sendRoutes fuel port cs s) := by
  induction fuel generalizing cs s with
  | zero => exact .refl s
  | succ fuel ih =>
    unfold sendRoutes
    split
    · exact .refl s
    · exact (transmit_linkSends _ _ _).trans (ih _ _)

theorem advertise_linkSends (cs : List (Nat × Nat)) (port : Option Nat) (s : State) : LinkSends s (advertise cs port s) := by
  unfold advertise
  split
  · exact .refl s
  · exact .foldl (fun s p => sendRoutes_linkSends _ _ _ s) _ s

/-- Judging the remote entries turns some off; each still names its node. -/
theorem judgeRemotes_turnsOff (s : State) : ∃ rs, rs.map (·.node) = s.ura.remotes.map (·.node) ∧ LinkSends { s with ura.remotes := rs } (judgeRemotes s) := by
  refine ⟨_, ?_, LinkSends.foldl (fun s _ => raise_linkSends _ _ s) _ _⟩
  rw [List.map_map]
  refine List.map_congr_left fun r _ => ?_
  dsimp only [Function.comp]
  split <;> rfl

/-- A TOPOLOGY that waits ends, or waits on. -/
theorem settleTopology_ends (s : State) : ∃ w, (w = [] ∨ w = s.ura.topos) ∧ LinkSends { s with ura.topos := w } (settleTopology s) := by
  unfold settleTopology
  dsimp only
  split
  · exact ⟨[], .inl rfl, .foldl (fun s w => finish_linkSends _ _ _ _ s) _ _⟩
  · exact ⟨_, .inr rfl, .refl s⟩

/-- After a change of the table its routes, and what this node knows of others, stand. -/
structure RoutesStand (s t : State) : Prop where
  routes : t.ura.routes = s.ura.routes
  announced : t.ura.announced = s.ura.announced
  conflict : t.ura.conflict = s.ura.conflict
  node : t.node = s.node
  lan : t.lan = s.lan

theorem RoutesStand.refl (s : State) : RoutesStand s s := ⟨rfl, rfl, rfl, rfl, rfl⟩

theorem RoutesStand.trans {s t u : State} (h : RoutesStand s t) (k : RoutesStand t u) : RoutesStand s u :=
  ⟨k.routes.trans h.routes, k.announced.trans h.announced, k.conflict.trans h.conflict, k.node.trans h.node, k.lan.trans h.lan⟩

theorem LinkSends.routesStand {s t : State} (h : LinkSends s t) : RoutesStand s t := by
  obtain ⟨_, _, _, hura⟩ := h.ura
  exact ⟨by rw [hura], by rw [hura], by rw [hura], h.node, h.lan⟩

theorem settleTopology_routesStand (s : State) : RoutesStand s (settleTopology s) := by
  obtain ⟨w, -, h⟩ := settleTopology_ends s
  have hset : RoutesStand s { s with ura.topos := w } := ⟨rfl, rfl, rfl, rfl, rfl⟩
  exact hset.trans h.routesStand

theorem judgeRemotes_routesStand (s : State) : RoutesStand s (judgeRemotes s) := by
  obtain ⟨rs, -, h⟩ := judgeRemotes_turnsOff s
  have hset : RoutesStand s { s with ura.remotes := rs } := ⟨rfl, rfl, rfl, rfl, rfl⟩
  exact hset.trans h.routesStand

theorem routesChanged_routesStand (old : List Route) (port : Option Nat) (s : State) : RoutesStand s (routesChanged old port s) :=
  ((advertise_linkSends _ _ _).routesStand.trans (judgeRemotes_routesStand _)).trans (settleTopology_routesStand _)

/-! ### Routes (R378) -/

/-- Learning changes the table alone, and adds at most the route learned. -/
theorem learnRoute_changes (r : Route) (s : State) : ∃ rs, learnRoute r s = { s with ura.routes := rs } ∧ ∀ x ∈ rs, x ∈ s.ura.routes ∨ x = r := by
  have hrest : ∀ x ∈ s.ura.routes.filter (fun y => y.node != r.node), x ∈ s.ura.routes := fun _ => List.mem_of_mem_filter
  have hadded : ∀ (l : List Route) (x : Route), (∀ y ∈ l, y ∈ s.ura.routes) → x ∈ l ++ [r] → x ∈ s.ura.routes ∨ x = r := fun l x hl hx =>
    (List.mem_append.1 hx).imp (hl x) List.mem_singleton.1
  unfold learnRoute
  dsimp only
  split
  · exact ⟨_, rfl, fun _ => .inl⟩
  · split
    · split
      · split
        · exact ⟨_, rfl, fun x hx => .inl (hrest x hx)⟩
        · exact ⟨_, rfl, fun _ => .inl⟩
      · exact ⟨_, rfl, fun _ => .inl⟩
    · split
      · split
        · exact ⟨_, rfl, fun x hx => hadded _ x hrest hx⟩
        · exact ⟨_, rfl, fun _ => .inl⟩
      · split
        · exact ⟨_, rfl, fun x hx => hadded _ x (fun _ => id) hx⟩
        · exact ⟨_, rfl, fun _ => .inl⟩

theorem learnRoute_apart (r : Route) (s : State) : (learnRoute r s).ura.announced = s.ura.announced ∧ (learnRoute r s).ura.conflict = s.ura.conflict ∧
    (learnRoute r s).node = s.node ∧ (learnRoute r s).lan = s.lan := by
  obtain ⟨rs, hlearned, -⟩ := learnRoute_changes r s
  rw [hlearned]
  exact ⟨rfl, rfl, rfl, rfl⟩

theorem learnRoute_mem {r x : Route} {s : State} (hx : x ∈ (learnRoute r s).ura.routes) : x ∈ s.ura.routes ∨ x = r := by
  obtain ⟨rs, hlearned, hmem⟩ := learnRoute_changes r s
  rw [hlearned] at hx
  exact hmem x hx

/-- After a neighbour announced itself there is a route of one hop to it, unless the table was full. -/
theorem learnRoute_neighbour {node port : Nat} {s : State} (hnode : node ≠ 0) (hother : node ≠ s.node) (hroom : s.ura.routes.length < 2048) :
    ∃ r ∈ (learnRoute { node := node, port := port, hops := 1 } s).ura.routes, r.node = node ∧ r.hops ≤ 1 := by
  have hreal : (decide (node = 0) || node == s.node) = false := by simp [hnode, hother]
  have hnear : ¬ noRoute ≤ 1 := by decide
  unfold learnRoute
  dsimp only
  rw [if_neg (ne_true_of_eq_false hreal), if_neg hnear]
  split
  · next x hx =>
    split
    · exact ⟨_, List.mem_append_right _ (List.mem_singleton_self _), rfl, Nat.le_refl _⟩
    · next hworse =>
      have hfar : ¬ 1 < x.hops := fun hlt => hworse (by simp [betterRoute, hlt])
      exact ⟨x, List.mem_of_find?_eq_some hx, by simpa using List.find?_some hx, Nat.le_of_not_lt hfar⟩
  · rw [if_pos hroom]
    exact ⟨_, List.mem_append_right _ (List.mem_singleton_self _), rfl, Nat.le_refl _⟩

/-- The table after the changes that a neighbour sent. -/
def routesLearned (port : Nat) (changes : List RouteChange) (s : State) : State :=
  changes.foldl (fun s c => learnRoute { node := c.node, port := port, hops := min noRoute (c.hops + 1) } s) s

theorem routesLearned_mem {port : Nat} {changes : List RouteChange} {s : State} {r : Route} (hr : r ∈ (routesLearned port changes s).ura.routes) :
    r ∈ s.ura.routes ∨ (r.port = port ∧ ∃ c ∈ changes, r.node = c.node ∧ r.hops = min noRoute (c.hops + 1)) := by
  induction changes generalizing s with
  | nil => exact .inl hr
  | cons c cs ih =>
    rcases ih hr with hbefore | ⟨hport, d, hd, hnode⟩
    · rcases learnRoute_mem hbefore with hold | rfl
      · exact .inl hold
      · exact .inr ⟨rfl, c, List.mem_cons_self, rfl, rfl⟩
    · exact .inr ⟨hport, d, List.mem_cons_of_mem _ hd, hnode⟩

/-- The table a neighbour's whole table is learned into: what it lacks of the routes through its port is gone. -/
def routesKept (port : Nat) (full : Bool) (changes : List RouteChange) (s : State) : State :=
  if full then { s with ura.routes := s.ura.routes.filter fun r => r.port != port || r.hops == 1 || changes.any fun c => c.node == r.node } else s

theorem routesKept_mem {port : Nat} {full : Bool} {changes : List RouteChange} {s : State} {r : Route} (hr : r ∈ (routesKept port full changes s).ura.routes) :
    r ∈ s.ura.routes ∧ (full = true → r.port = port → r.hops = 1 ∨ ∃ c ∈ changes, c.node = r.node) := by
  unfold routesKept at hr
  split at hr
  · obtain ⟨hold, hkept⟩ := List.mem_filter.1 hr
    refine ⟨hold, fun _ hport => ?_⟩
    simpa [hport] using hkept
  · next hpart => exact ⟨hr, fun hfull => absurd hfull hpart⟩

theorem execRouteReceive_learns {t : Nat} {port : Fin 4} {s : State} (full : Bool) (changes : List RouteChange) (hused : portUsed s port.val = true)
    (hup : portUp s port.val = true) : execRouteReceive t port full changes s = .next (routesChanged s.ura.routes (some port.val)
      (routesLearned port.val changes (routesKept port.val full changes (advance t s)))) := by
  have hserves : (!portUsed (advance t s) port.val || !portUp (advance t s) port.val) = false := by
    rw [show portUsed (advance t s) port.val = true from hused, show portUp (advance t s) port.val = true from hup]; rfl
  exact congrArg Host.Outcome.next (if_neg (ne_true_of_eq_false hserves))

theorem execRouteFullAdvertise_due {t : Nat} {s : State} (hring : domOn s 10 = true) (hdue : s.ura.fullAt + 100000000 ≤ (advance t s).now) :
    execRouteFullAdvertise t s = .next (advertise (s.ura.routes.map fun r => (r.node, r.hops)) none { advance t s with ura.fullAt := (advance t s).now }) := by
  have hwaits : (decide ((advance t s).now < s.ura.fullAt + 100000000) || !domOn s 10) = false := by simp [hring, hdue]
  exact congrArg Host.Outcome.next (if_neg (ne_true_of_eq_false hwaits))

theorem execRouteExpire_due {t m : Nat} {port : Fin 4} {s : State} (hdown : s.ura.downAt[port] = some m) (hdue : m + 300000 ≤ (advance t s).now) :
    execRouteExpire t port s = .next (routesChanged s.ura.routes none
      { advance t s with ura.routes := s.ura.routes.filter fun r => r.port != port.val }) := by
  have hdown' : (advance t s).ura.downAt[port] = some m := hdown
  simp only [execRouteExpire, onEvent, hdown', if_neg (Nat.not_lt.2 hdue)]
  rfl

/-! ### Announcements (R373, R378) -/

/-- What this node knows once a neighbour announced itself: its serial, and a conflict where that is another device under this node's ID. -/
def neighbourHeard (node serial : Nat) (s : State) : State :=
  let s := { s with ura.announced := s.ura.announced.filter (fun a => a.1 != node) ++ [(node, serial)] }
  if node == s.node && serial != Config.serial.toNat && !s.ura.conflict then raise FaultCode.nodeConflict 0 { s with ura.conflict := true } else s

theorem neighbourHeard_knows (node serial : Nat) (s : State) : (neighbourHeard node serial s).ura = { s.ura with
      announced := s.ura.announced.filter (fun a => a.1 != node) ++ [(node, serial)],
      conflict := s.ura.conflict || (node == s.node && serial != Config.serial.toNat) } ∧
    (neighbourHeard node serial s).node = s.node ∧ (neighbourHeard node serial s).lan = s.lan := by
  unfold neighbourHeard
  dsimp only
  split
  · next hclash =>
    simp only [Bool.and_eq_true] at hclash
    rw [raise_frame]
    exact ⟨by simp [hclash.1], rfl, rfl⟩
  · next hnone =>
    have hsame : (s.ura.conflict || (node == s.node && serial != Config.serial.toNat)) = s.ura.conflict := by
      revert hnone
      cases node == s.node && serial != Config.serial.toNat <;> cases s.ura.conflict <;> simp
    exact ⟨by rw [hsame], rfl, rfl⟩

/-- The lane that heard an announcement, with its far end. -/
def farHeard (lane node port far : Nat) (s : State) : State := modLane lane (fun l => { l with farNode := some (node, port, far) }) s

/-- What this node has heard of a neighbour, before its routes change. -/
def announceHeard (t : Nat) (lane : Fin 36) (node serial port far : Nat) (s : State) : State :=
  neighbourHeard node serial (farHeard lane.val node port far (advance t s))

theorem announceHeard_knows (t : Nat) (lane : Fin 36) (node serial port far : Nat) (s : State) :
    (announceHeard t lane node serial port far s).ura = { s.ura with
      announced := s.ura.announced.filter (fun a => a.1 != node) ++ [(node, serial)],
      conflict := s.ura.conflict || (node == s.node && serial != Config.serial.toNat) } ∧
    (announceHeard t lane node serial port far s).node = s.node ∧
    (announceHeard t lane node serial port far s).lan = (farHeard lane.val node port far (advance t s)).lan := by
  obtain ⟨hura, hid, hlan⟩ := neighbourHeard_knows node serial (farHeard lane.val node port far (advance t s))
  have hsame : (farHeard lane.val node port far (advance t s)).node = s.node := modLane_node _ _ _
  have hfar : (farHeard lane.val node port far (advance t s)).ura = s.ura := modLane_ura _ _ _
  rw [hfar, hsame] at hura
  exact ⟨hura, hid.trans hsame, hlan⟩

section
variable {t i : Nat} {lane : Fin 36} {s : State} (hlink : 24 ≤ lane.val) (heth : isEthLane lane.val = false) (hup : laneUp s lane.val = true)
  (hindex : linkIndex s lane.val = some i)
include hlink heth hup

theorem announces_serves : (decide (lane.val < 24) || isEthLane lane.val || !laneUp s lane.val) = false := by
  simp [Nat.not_lt.2 hlink, heth, hup]

theorem execAnnounceReceive_silent (serial port far : Nat) : execAnnounceReceive t lane 0 serial port far s =
    .next (settleTopology (farHeard lane.val 0 port far (advance t s))) :=
  congrArg Host.Outcome.next (if_neg (ne_true_of_eq_false (announces_serves hlink heth hup)))

include hindex

theorem execAnnounceSend_due {p : Packet} (hdue : (laneOf s lane.val).annAt + 100000 ≤ (advance t s).now) (hagree : s.ura.conflict = false)
    (hp : p = neighbourPacket s 0x40 [word s.node, Config.serial, word (i / 2), word lane.val, word s.ura.topology]) :
    execAnnounceSend t lane s = .next (transmit i p (modLane lane.val (fun l => { l with annAt := (advance t s).now }) (advance t s))) := by
  have hstamped : linkIndex (modLane lane.val (fun l => { l with annAt := (advance t s).now }) (advance t s)) lane.val = some i := by
    rw [linkIndex, laneOf_modLane]; exact hindex
  have hserves : (decide (lane.val < 24) || isEthLane lane.val || !laneUp s lane.val ||
      decide ((advance t s).now < (laneOf s lane.val).annAt + 100000)) = false := by
    rw [announces_serves hlink heth hup, Bool.false_or]; exact decide_eq_false (Nat.not_lt.2 hdue)
  refine congrArg Host.Outcome.next ((if_neg (ne_true_of_eq_false hserves)).trans ?_)
  subst hp
  simp only [hstamped, neighbourPacket, modLane_ura, modLane_node, advance_ura, advance_node, hagree, Bool.false_eq_true, if_false]

theorem execAnnounceReceive_hears {node : Nat} (hnode : node ≠ 0) (serial port far : Nat) : execAnnounceReceive t lane node serial port far s =
    .next (routesChanged (announceHeard t lane node serial port far s).ura.routes (some (i / 2))
      (learnRoute { node := node, port := i / 2, hops := 1 } (announceHeard t lane node serial port far s))) := by
  obtain ⟨-, -, hlan⟩ := announceHeard_knows t lane node serial port far s
  have hserved : linkIndex (announceHeard t lane node serial port far s) lane.val = some i := by
    rw [linkIndex, laneOf_of_lane (congrArg (·.lane) hlan), farHeard, laneOf_modLane]; exact hindex
  refine congrArg Host.Outcome.next ((if_neg (ne_true_of_eq_false (announces_serves hlink heth hup))).trans ((if_neg hnode).trans ?_))
  change (match linkIndex (announceHeard t lane node serial port far s) lane.val with
    | none => announceHeard t lane node serial port far s
    | some i => routesChanged (announceHeard t lane node serial port far s).ura.routes (some (i / 2))
        (learnRoute { node := node, port := i / 2, hops := 1 } (announceHeard t lane node serial port far s))) = _
  rw [hserved]

theorem execAnnounceReceive_learns {node : Nat} (hnode : node ≠ 0) (serial port far : Nat) :
    ∃ s', execAnnounceReceive t lane node serial port far s = .next s' ∧ (laneOf s' lane.val).farNode = some (node, port, far) ∧
      (node, serial) ∈ s'.ura.announced ∧ (node = s.node → serial ≠ Config.serial.toNat → s'.ura.conflict = true) ∧
      (node ≠ s.node → s'.ura.conflict = s.ura.conflict) ∧
      (node ≠ s.node → s.ura.routes.length < 2048 → ∃ r ∈ s'.ura.routes, r.node = node ∧ r.hops ≤ 1) ∧ s'.node = s.node := by
  obtain ⟨hura, hself, hlan⟩ := announceHeard_knows t lane node serial port far s
  obtain ⟨hannounced, hconflict, hid, hlanes⟩ := learnRoute_apart { node := node, port := i / 2, hops := 1 } (announceHeard t lane node serial port far s)
  have hstand := routesChanged_routesStand (announceHeard t lane node serial port far s).ura.routes (some (i / 2))
    (learnRoute { node := node, port := i / 2, hops := 1 } (announceHeard t lane node serial port far s))
  refine ⟨_, execAnnounceReceive_hears hlink heth hup hindex hnode serial port far, ?_, ?_, fun hmine hserial => ?_, fun hother => ?_,
    fun hother hroom => ?_, (hstand.node.trans hid).trans hself⟩
  · rw [laneOf_of_lane (congrArg (·.lane) ((hstand.lan.trans hlanes).trans hlan)), farHeard, laneOf_modLane]
  · rw [hstand.announced, hannounced, hura]
    exact List.mem_append_right _ (List.mem_singleton_self _)
  · rw [hstand.conflict, hconflict, hura]
    simp [hmine, hserial]
  · rw [hstand.conflict, hconflict, hura]
    simp [hother]
  · rw [hstand.routes]
    exact learnRoute_neighbour hnode (hself ▸ hother) (by rw [hura]; exact hroom)

end

/-! ### NODE_ID (R373) -/

section
variable {t cid : Nat} {c : Slot} {s : State} (h : Starts Op.nodeId cid c s)
include h

theorem execNodeId_starts : execNodeId t cid s = .next (
    if parN c 0 = 0 ∨ 2000 < parN c 0 then refuse c Status.badParameter (startedAt t cid s)
    else if s.ura.announced.any fun a => a.1 == parN c 0 && a.2 != Config.serial.toNat then refuse c Status.nodeConflict (startedAt t cid s)
    else done c { startedAt t cid s with node := parN c 0, ura.conflict := false, led.badSaved := false }) := onStart_starts h

theorem execNodeId_badParameter (hbad : parN c 0 = 0 ∨ 2000 < parN c 0) :
    execNodeId t cid s = .next (refuse c Status.badParameter (startedAt t cid s)) := by
  rw [execNodeId_starts h, if_pos hbad]

variable (hreal : parN c 0 ≠ 0) (hlow : parN c 0 ≤ 2000)
include hreal hlow

theorem execNodeId_conflict {a : Nat × Nat} (ha : a ∈ s.ura.announced) (hnode : a.1 = parN c 0) (hserial : a.2 ≠ Config.serial.toNat) :
    execNodeId t cid s = .next (refuse c Status.nodeConflict (startedAt t cid s)) := by
  have hother : (s.ura.announced.any fun a => a.1 == parN c 0 && a.2 != Config.serial.toNat) = true :=
    List.any_eq_true.2 ⟨a, ha, by simp [hnode, hserial]⟩
  rw [execNodeId_starts h, if_neg (by omega), if_pos hother]

theorem execNodeId_takes (hours : ∀ a ∈ s.ura.announced, a.1 = parN c 0 → a.2 = Config.serial.toNat) : execNodeId t cid s =
    .next (done c { startedAt t cid s with node := parN c 0, ura.conflict := false, led.badSaved := false }) := by
  have hnone : (s.ura.announced.any fun a => a.1 == parN c 0 && a.2 != Config.serial.toNat) = false :=
    List.any_eq_false.2 fun a ha => by simpa using hours a ha
  rw [execNodeId_starts h, if_neg (by omega), if_neg (ne_true_of_eq_false hnone)]

end

/-! ### TOPOLOGY (R371, R372) -/

/-- The settings of a TOPOLOGY lie in their ranges. -/
def TopologyInRange (c : Slot) : Prop := ¬ (parF c 0 1 0 = 3 ∧ 4 ≤ parF c 0 18 16 ∧ parF c 0 18 16 ≠ 7) ∧ parF c 2 10 0 ≤ 2000 ∧
  ∀ r ∈ remotesOf c, r.enable = true → r.node ≠ 0 ∧ r.node ≤ 2000

theorem not_topologyInRange (c : Slot) : ((parF c 0 1 0 = 3 ∧ 4 ≤ parF c 0 18 16 ∧ parF c 0 18 16 ≠ 7) ∨ 2000 < parF c 2 10 0 ∨
    ((remotesOf c).any fun r => r.enable && (r.node == 0 || decide (2000 < r.node))) = true) ↔ ¬ TopologyInRange c := by
  have hremotes : ((remotesOf c).any fun r => r.enable && (r.node == 0 || decide (2000 < r.node))) = true ↔
      ¬ ∀ r ∈ remotesOf c, r.enable = true → r.node ≠ 0 ∧ r.node ≤ 2000 := by
    simp only [List.any_eq_true, Bool.and_eq_true, Bool.or_eq_true, beq_iff_eq, decide_eq_true_eq]
    push Not
    refine exists_congr fun r => and_congr_right fun _ => and_congr_right fun _ => ?_
    omega
  rw [hremotes, TopologyInRange, ← Nat.not_le]
  tauto

/-- A pair with a job active whose peer this node would no longer reach (R372). -/
def topologyBusy (c : Slot) (s : State) : Bool :=
  s.twn.bound && jobActive s && (match routePort s s.twn.peer with | some p => !bit (parF c 0 11 8) p | none => false)

/-- The settings of a TOPOLOGY in force. -/
def topologyTaken (c : Slot) (s : State) : State := { s with
  ura.topology := parF c 0 1 0, ura.ports := parF c 0 11 8, ura.upPort := parF c 0 18 16, ura.trigAllow := parF c 1 31 0, ura.timeSource := parF c 2 10 0,
  ura.timeDom1 := parB c 2 16, ura.remotes := remotesOf c, ura.topos := s.ura.topos ++ [(c.cid, c.acceptAt)] }

/-- The uses of the ports that a TOPOLOGY newly enables are counted. -/
def portsCounted (ports was : Nat) (s : State) : State :=
  ((List.range 4).filter fun p => bit ports p && !bit was p).foldl (fun s _ => granaryCount 5 0 s) s

/-- Time domain 1 starts again where it comes to follow the link, or no longer does. -/
def timeMoved (moved : Bool) (s : State) : State := if moved then followedFailed 1 (restartDom 1 s) else s

/-- One lane after its port was enabled or disabled. -/
def laneTurned (ports was : Nat) (s : State) (i : Nat) : State :=
  if bit ports (i / 2) == bit was (i / 2) then s
  else if bit ports (i / 2) then (if lanePowered s (24 + i) then huntLane (24 + i) s else s)
  else modLane (24 + i) (fun l => { l with state := .idle, farNode := none }) (freeSpare (24 + i) s)

/-- The Granary, the clock and the lanes have followed the settings of a TOPOLOGY. -/
def portsFollow (c : Slot) (s : State) : State :=
  (List.range 8).foldl (laneTurned (parF c 0 11 8) s.ura.ports)
    (timeMoved (parB c 2 16 != s.ura.timeDom1) (topologyTaken c (portsCounted (parF c 0 11 8) s.ura.ports s)))

/-- What an accepted TOPOLOGY makes of the state. -/
def topologySet (c : Slot) (s : State) : State := settleTopology (judgeRemotes (notePorts (portsFollow c s)))

section
variable {t cid : Nat} {c : Slot} {s : State} (h : Starts Op.topology cid c s)
  (hidle : ((List.range 8).any fun i => laneRun (advance t s) (24 + i) && fbit (parOf (advance t s) cid 0) (8 + i / 2)) = false)
include h hidle

theorem execTopology_starts : execTopology t cid s = .next (
    if (parF c 0 1 0 = 3 ∧ 4 ≤ parF c 0 18 16 ∧ parF c 0 18 16 ≠ 7) ∨ 2000 < parF c 2 10 0 ∨
      ((remotesOf c).any fun r => r.enable && (r.node == 0 || decide (2000 < r.node))) = true then refuse c Status.badParameter (startedAt t cid s)
    else if !portsOk (parF c 0 1 0) (parF c 0 11 8) (parF c 0 18 16) then refuse c Status.badTopology (startedAt t cid s)
    else if topologyBusy c s then refuse c Status.topologyBusy (startedAt t cid s)
    else topologySet c (startedAt t cid s)) :=
  (if_neg (ne_true_of_eq_false hidle)).trans (onStart_starts h)

theorem execTopology_badParameter (hbad : ¬ TopologyInRange c) :
    execTopology t cid s = .next (refuse c Status.badParameter (startedAt t cid s)) := by
  rw [execTopology_starts h hidle, if_pos ((not_topologyInRange c).2 hbad)]

variable (hok : TopologyInRange c)
include hok

theorem execTopology_badTopology (hports : portsOk (parF c 0 1 0) (parF c 0 11 8) (parF c 0 18 16) = false) :
    execTopology t cid s = .next (refuse c Status.badTopology (startedAt t cid s)) := by
  rw [execTopology_starts h hidle, if_neg (mt (not_topologyInRange c).1 (not_not_intro hok)), if_pos (by rw [hports]; rfl)]

variable (hports : portsOk (parF c 0 1 0) (parF c 0 11 8) (parF c 0 18 16) = true)
include hports

theorem execTopology_busy {p : Nat} (hbound : s.twn.bound = true) (hjob : jobActive s = true) (hroute : routePort s s.twn.peer = some p)
    (hoff : bit (parF c 0 11 8) p = false) : execTopology t cid s = .next (refuse c Status.topologyBusy (startedAt t cid s)) := by
  have hbusy : topologyBusy c s = true := by simp [topologyBusy, hbound, hjob, hroute, hoff]
  rw [execTopology_starts h hidle, if_neg (mt (not_topologyInRange c).1 (not_not_intro hok)), if_neg (by simp [hports]), if_pos hbusy]

theorem execTopology_sets (hfree : s.twn.bound = false ∨ jobActive s = false) : execTopology t cid s = .next (topologySet c (startedAt t cid s)) := by
  have hbusy : topologyBusy c s = false := by rcases hfree with hf | hf <;> simp [topologyBusy, hf]
  rw [execTopology_starts h hidle, if_neg (mt (not_topologyInRange c).1 (not_not_intro hok)), if_neg (by simp [hports]), if_neg (ne_true_of_eq_false hbusy)]

end

/-! What the clock, the lanes and the Granary do with a TOPOLOGY leaves the link's settings and the products alone. -/

/-- The link's registers and the products. -/
def linkAndProducts (s : State) : Urara × Products := (s.ura, s.prod)

theorem modLane_linkAndProducts (n : Nat) (f : Lane → Lane) (s : State) : linkAndProducts (modLane n f s) = linkAndProducts s := by
  simp [linkAndProducts]

theorem notify_linkAndProducts (code detail : Nat) (s : State) : linkAndProducts (notify code detail s) = linkAndProducts s := by
  rw [notify_frame]; rfl

theorem freeSpare_linkAndProducts (n : Nat) (s : State) : linkAndProducts (freeSpare n s) = linkAndProducts s := by
  unfold freeSpare huntLane
  split
  · rfl
  · rw [modLane_linkAndProducts, modLane_linkAndProducts, modLane_linkAndProducts]

theorem laneTurned_linkAndProducts (ports was : Nat) (s : State) (i : Nat) : linkAndProducts (laneTurned ports was s i) = linkAndProducts s := by
  unfold laneTurned huntLane
  split
  · rfl
  · split
    · split
      · exact modLane_linkAndProducts _ _ _
      · rfl
    · rw [modLane_linkAndProducts, freeSpare_linkAndProducts]

theorem timeMoved_linkAndProducts (moved : Bool) (s : State) : linkAndProducts (timeMoved moved s) = linkAndProducts s := by
  unfold timeMoved followedFailed switchTo enterHoldover
  split
  · split
    · rfl
    · split <;> exact notify_linkAndProducts _ _ _
  · rfl

theorem portsCounted_linkAndProducts (ports was : Nat) (s : State) : linkAndProducts (portsCounted ports was s) = linkAndProducts s :=
  foldl_keeps linkAndProducts (g := fun s _ => granaryCount 5 0 s) (fun _ _ => rfl) _ _

theorem portsFollow_linkAndProducts (c : Slot) (s : State) : linkAndProducts (portsFollow c s) = linkAndProducts (topologyTaken c s) := by
  have hcounted := portsCounted_linkAndProducts (parF c 0 11 8) s.ura.ports s
  rw [portsFollow, foldl_keeps linkAndProducts (laneTurned_linkAndProducts _ _), timeMoved_linkAndProducts]
  simp only [linkAndProducts, Prod.mk.injEq] at hcounted
  simp only [linkAndProducts, topologyTaken, hcounted.1, hcounted.2]

/-- An accepted TOPOLOGY is in force, its remote entries each name their node, and it waits or has ended. -/
theorem topologySet_sets (c : Slot) (s : State) : ∃ rs w, rs.map (·.node) = (remotesOf c).map (·.node) ∧
    (w = [] ∨ w = s.ura.topos ++ [(c.cid, c.acceptAt)]) ∧
    (∃ d l e n, (topologySet c s).ura = { (topologyTaken c s).ura with downAt := d, remotes := rs, topos := w, links := l, eseqs := e, dropped := n }) ∧
    (topologySet c s).prod = s.prod := by
  obtain ⟨hura, hprod⟩ := Prod.mk.inj (portsFollow_linkAndProducts c s)
  obtain ⟨d, hnoted⟩ : ∃ d, (notePorts (portsFollow c s)).ura = { (topologyTaken c s).ura with downAt := d } :=
    ⟨(notePorts (portsFollow c s)).ura.downAt, by rw [← hura]; rfl⟩
  obtain ⟨rs, hnodes, hjudged⟩ := judgeRemotes_turnsOff (notePorts (portsFollow c s))
  obtain ⟨w, hends, hsettled⟩ := settleTopology_ends (judgeRemotes (notePorts (portsFollow c s)))
  obtain ⟨_, _, _, hjura⟩ := hjudged.ura
  obtain ⟨l, e, n, hsura⟩ := hsettled.ura
  rw [hnoted] at hnodes
  simp only [hjura, hnoted] at hends hsura
  exact ⟨rs, w, hnodes, hends, ⟨_, l, e, n, hsura⟩, (hsettled.prod.trans hjudged.prod).trans hprod⟩

/-! ### TOPOLOGY_REPLY_TIMEOUT (R372) -/

/-- The TOPOLOGY commands whose 100 ms have passed. -/
def toposDue (s : State) : List (Nat × Nat) := s.ura.topos.filter fun w => decide (w.2 + 100000000 ≤ s.now)

/-- The ports with a lane UP, as a mask. -/
def portsUpMask (s : State) : Nat := (((List.range 4).filter fun p => portUsed s p && portUp s p).map fun p => 2 ^ p).sum

theorem execTopologyReplyTimeout_ends (t : Nat) (s : State) : execTopologyReplyTimeout t s = .next (
    (toposDue (advance t s)).foldl (fun u w => finish w.1 Status.done 0 [word (portsUpMask (advance t s))] u)
      { advance t s with ura.topos := s.ura.topos.filter fun w => decide ((advance t s).now < w.2 + 100000000) }) := by
  have hrest : (s.ura.topos.filter fun w => !(toposDue (advance t s)).contains w) =
      s.ura.topos.filter fun w => decide ((advance t s).now < w.2 + 100000000) := by
    refine List.filter_congr fun w hw => ?_
    rw [Bool.eq_iff_iff]
    simp [toposDue, hw]
  rw [← hrest]
  rfl

/-- Settles O48: each command by the branch its checks leave; what an announcement or a ROUTE makes of the table stands through what follows it. -/
theorem linkIsJoined : Obligations.LinkIsJoined := by
  refine ⟨fun t cid c s => ⟨fun h => ⟨execNodeId_badParameter h, fun a ha hreal hlow => execNodeId_conflict h hreal hlow ha, execNodeId_takes h⟩, ?_, ?_⟩,
    fun t s => ⟨fun lane i p hlink heth hup hdue hindex hagree hp => execAnnounceSend_due hlink heth hup hindex hdue hagree hp,
      fun lane i node serial port far hlink heth hup hindex => ?_, fun port full changes hused hup => ?_, execRouteFullAdvertise_due,
      fun port m hdown hdue => ⟨_, execRouteExpire_due hdown hdue, (routesChanged_routesStand _ _ _).routes⟩⟩⟩
  · rintro ok h hidle rfl
    refine ⟨execTopology_badParameter h hidle, execTopology_badTopology h hidle, fun p hok hports => execTopology_busy h hidle hok hports,
      fun hok hports hfree => ?_⟩
    obtain ⟨rs, w, hnodes, hends, ⟨d, l, e, n, hura⟩, hprod⟩ := topologySet_sets c (startedAt t cid s)
    refine ⟨_, execTopology_sets h hidle hok hports hfree, ?_⟩
    rw [hura, hprod, ← starts_cid h]
    exact ⟨rfl, rfl, rfl, rfl, rfl, rfl, hnodes, hends.imp id (fun hw => by simp [hw]), rfl⟩
  · refine ⟨_, execTopologyReplyTimeout_ends t s, ?_, fun w hw hdue => finishAll_ended (List.mem_filter.2 ⟨hw, decide_eq_true hdue⟩)⟩
    obtain ⟨_, _, _, hura⟩ := (LinkSends.foldl (fun u (w : Nat × Nat) => finish_linkSends w.1 Status.done 0 [word (portsUpMask (advance t s))] u)
      (toposDue (advance t s)) _).ura
    rw [hura]
  · rcases Nat.eq_zero_or_pos node with rfl | hpos
    · have hstand := settleTopology_routesStand (farHeard lane.val 0 port far (advance t s))
      refine ⟨_, execAnnounceReceive_silent hlink heth hup serial port far, ?_, fun _ => ⟨?_, ?_⟩, absurd rfl, fun hne => absurd rfl hne, fun _ => ?_,
        fun hne => absurd rfl hne, ?_⟩
      · rw [laneOf_of_lane (congrArg (·.lane) hstand.lan), farHeard, laneOf_modLane]
      · rw [hstand.routes, farHeard, modLane_ura]; rfl
      · rw [hstand.announced, farHeard, modLane_ura]; rfl
      · rw [hstand.conflict, farHeard, modLane_ura]; rfl
      · rw [hstand.node, farHeard, modLane_node]; rfl
    · obtain ⟨s', hexec, hfar, hknown, hclash, hclear, hroute, hself⟩ :=
        execAnnounceReceive_learns (t := t) hlink heth hup hindex hpos.ne' serial port far
      exact ⟨s', hexec, hfar, fun h0 => absurd h0 hpos.ne', fun _ => hknown, fun _ => hclash, hclear, fun _ => hroute, hself⟩
  · have hstand := routesChanged_routesStand s.ura.routes (some port.val) (routesLearned port.val changes (routesKept port.val full changes (advance t s)))
    refine ⟨_, execRouteReceive_learns full changes hused hup, fun r hr => ?_, fun hfull r hr hport => ?_⟩ <;> rw [hstand.routes] at hr
    · exact (routesLearned_mem hr).imp (fun hkept => (routesKept_mem (s := advance t s) hkept).1) id
    · rcases routesLearned_mem hr with hkept | ⟨-, c, hc, hnode, -⟩
      · exact (routesKept_mem (s := advance t s) hkept).2 hfull hport
      · exact .inr ⟨c, hc, hnode.symm⟩

end Sys2Proof.Machine
end

section
/-!
The link layer and what the link delivers, and the statement about packets.
-/
namespace Sys2Proof.Machine

/-! ### The link layer of a lane (R377) -/

theorem linkOf_modLink {i : Nat} (hi : i < 8) (f : LinkLane → LinkLane) (s : State) : linkOf (modLink i f s) i = f (linkOf s i) := by
  simp [linkOf, modLink, hi, upd]

theorem linkOf_modLink_other {i j : Nat} (hne : j ≠ i) (f : LinkLane → LinkLane) (s : State) : linkOf (modLink i f s) j = linkOf s j := by
  unfold linkOf modLink
  by_cases hi : i < 8
  · by_cases hj : j < 8
    · simp [hi, hj, upd, Ne.symm hne]
    · simp [hj]
  · rw [dif_neg hi]

/-- The receiving side of every lane is as it was: what it expects, and whether it has asked for it. -/
def ReceiversKept (s t : State) : Prop := ∀ j, (linkOf t j).expect = (linkOf s j).expect ∧ (linkOf t j).naked = (linkOf s j).naked

theorem ReceiversKept.refl (s : State) : ReceiversKept s s := fun _ => ⟨rfl, rfl⟩

theorem ReceiversKept.trans {s t u : State} (h : ReceiversKept s t) (k : ReceiversKept t u) : ReceiversKept s u := fun j =>
  ⟨(k j).1.trans (h j).1, (k j).2.trans (h j).2⟩

/-- What changes the sending side of a lane alone. -/
theorem modLink_receiversKept {i : Nat} {f : LinkLane → LinkLane} (hf : ∀ l, (f l).expect = l.expect ∧ (f l).naked = l.naked) (s : State) :
    ReceiversKept s (modLink i f s) := by
  intro j
  by_cases hj : j = i
  · subst hj
    by_cases hi : j < 8
    · rw [linkOf_modLink hi]; exact hf _
    · rw [modLink, dif_neg hi]; exact ⟨rfl, rfl⟩
  · rw [linkOf_modLink_other hj]; exact ⟨rfl, rfl⟩

theorem transmit_receiversKept (i : Nat) (p : Packet) (s : State) : ReceiversKept s (transmit i p s) := by
  unfold transmit
  dsimp only
  split
  · exact modLink_receiversKept (f := fun l => { l with lseq := (l.lseq + 1) % 65536, sent := l.sent ++ [(l.lseq, 0, p)], lastTx := s.now })
      (fun _ => ⟨rfl, rfl⟩) s
  · exact modLink_receiversKept (f := fun l => { l with waiting := l.waiting ++ [p] }) (fun _ => ⟨rfl, rfl⟩) s

theorem drainLink_receiversKept (fuel i : Nat) (s : State) : ReceiversKept s (drainLink fuel i s) := by
  induction fuel generalizing s with
  | zero => exact .refl s
  | succ fuel ih =>
    unfold drainLink
    dsimp only
    split
    · exact .refl s
    · split
      · next p _ _ =>
        have htaken := modLink_receiversKept (i := i) (f := fun l => { l with waiting := l.waiting.erase p }) (fun _ => ⟨rfl, rfl⟩) s
        exact (htaken.trans (transmit_receiversKept _ _ _)).trans (ih _)
      · exact .refl s

theorem drainLink_linkSends (fuel i : Nat) (s : State) : LinkSends s (drainLink fuel i s) := by
  induction fuel generalizing s with
  | zero => exact .refl s
  | succ fuel ih =>
    unfold drainLink
    dsimp only
    split
    · exact .refl s
    · split
      · exact ((modLink_linkSends _ _ s).trans (transmit_linkSends _ _ _)).trans (ih _)
      · exact .refl s

theorem takeAck_receiversKept (i ack : Nat) (s : State) : ReceiversKept s (takeAck i ack s) :=
  (modLink_receiversKept (i := i) (f := fun l => { l with sent := l.sent.filter fun e => decide (32768 ≤ (ack + 65536 - e.1) % 65536) })
    (fun _ => ⟨rfl, rfl⟩) s).trans (drainLink_receiversKept _ _ _)

theorem takeAck_linkSends (i ack : Nat) (s : State) : LinkSends s (takeAck i ack s) :=
  (modLink_linkSends _ _ s).trans (drainLink_linkSends _ _ _)

/-- With nothing waiting for room, an acknowledgement only empties the replay buffer. -/
theorem takeAck_empties {i : Nat} (hi : i < 8) {ack : Nat} {s : State} (hnone : (linkOf s i).waiting = []) : takeAck i ack s =
    modLink i (fun l => { l with sent := l.sent.filter fun e => decide (32768 ≤ (ack + 65536 - e.1) % 65536) }) s := by
  unfold takeAck
  dsimp only
  rw [linkOf_modLink hi, show ({ linkOf s i with sent := _ } : LinkLane).waiting = [] from hnone]
  rfl

/-! ### A packet in order (R374, R375, R379) -/

theorem forwardedWords_apart (lane type : Nat) (ws : List W64) (s : State) : (forwardedWords lane type ws s).2.prod = s.prod ∧
    (forwardedWords lane type ws s).2.well = s.well := by
  unfold forwardedWords
  split <;> exact ⟨rfl, rfl⟩

theorem onward_apart (p : Packet) (lane type k : Nat) (ws : List W64) (s : State) :
    (routePacket p (some k) (forwardedWords lane type ws s).2).prod = s.prod ∧
    (routePacket p (some k) (forwardedWords lane type ws s).2).well = s.well := by
  have hroute := routePacket_linkSends p (some k) (forwardedWords lane type ws s).2
  obtain ⟨hprod, hwell⟩ := forwardedWords_apart lane type ws s
  exact ⟨hroute.prod.trans hprod, hroute.well.trans hwell⟩

theorem takePacket_apart (lane i type u0 u1 : Nat) (ws : List W64) (s : State) : (takePacket lane i type u0 u1 ws s).prod = s.prod ∧
    (takePacket lane i type u0 u1 ws s).well = s.well := by
  unfold takePacket deliverPacket
  dsimp only
  repeat' split
  · exact ⟨rfl, rfl⟩
  · exact ⟨rfl, rfl⟩
  · exact ⟨rfl, rfl⟩
  · exact ⟨rfl, rfl⟩
  · exact ⟨rfl, rfl⟩
  · exact onward_apart _ _ _ _ _ _
  · exact onward_apart _ _ _ _ _ _
  · exact ⟨rfl, rfl⟩
  · exact ⟨rfl, rfl⟩
  · exact ⟨rfl, rfl⟩
  · exact onward_apart _ _ _ _ _ _

/-- What a received packet does to its lane: the next one is expected and nothing is asked for again. -/
def inOrder (i ack : Nat) (s : State) : State :=
  takeAck i ack (modLink i (fun l => { l with expect := (l.expect + 1) % 65536, naked := false }) s)

theorem inOrder_linkSends (i ack : Nat) (s : State) : LinkSends s (inOrder i ack s) :=
  (modLink_linkSends _ _ s).trans (takeAck_linkSends _ _ _)

theorem inOrder_receiver {i : Nat} (hi : i < 8) (ack : Nat) (s : State) :
    (linkOf (inOrder i ack s) i).expect = ((linkOf s i).expect + 1) % 65536 ∧ (linkOf (inOrder i ack s) i).naked = false := by
  obtain ⟨hexpect, hnaked⟩ := takeAck_receiversKept i ack (modLink i (fun l => { l with expect := (l.expect + 1) % 65536, naked := false }) s) i
  rw [linkOf_modLink hi] at hexpect hnaked
  exact ⟨hexpect, hnaked⟩

theorem takePacket_unknown {type : Nat} (h : knownType type = false) (lane i u0 u1 : Nat) (ws : List W64) (s : State) :
    takePacket lane i type u0 u1 ws s = { s with ura.unknown := s.ura.unknown + 1 } := by
  simp [takePacket, h]

/-- A packet for this node is delivered here (R375). -/
theorem takePacket_delivers {type u0 : Nat} {s : State} (hknown : knownType type = true) (h40 : type ≠ 0x40) (h41 : type ≠ 0x41) (hnode : s.node ≠ 0)
    (hmine : s.ura.conflict = false) (hdest : bits u0 10 0 = s.node) (hcast : s.node ≠ 2047) (lane i u1 : Nat) (ws : List W64) :
    takePacket lane i type u0 u1 ws s = deliverPacket type (bits u0 26 16) ws s := by
  simp [takePacket, hknown, h40, h41, hnode, hmine, hdest, hcast]

/-! ### What arrives on a lane in UP -/

section Lane
variable {t i : Nat} {lane : Fin 36} {s : State} (hlink : linkIndex s lane.val = some i) (hup : laneUp s lane.val = true)
include hlink hup

/-- What reception of a packet decides on a link's lane in UP. -/
theorem uraraPacketReceive_eq (type : Nat) (words : List W64) : execUraraPacketReceive t lane type words s = .next
    (if !(words.length == bits (words.getD 1 0).toNat 9 0 + 3 &&
        fld (words.getD (words.length - 1) 0) 31 0 == crc32c (wordsBytes (words.take (words.length - 1)))) then sendNak i (advance t s)
      else if type = 0x42 then takeAck i (bits (words.getD 1 0).toNat 31 16) (advance t s)
      else if type = 0x43 then replayFrom i (fld (words.getD 2 0) 15 0) (takeAck i (bits (words.getD 1 0).toNat 31 16) (advance t s))
      else if (bits (words.getD 0 0).toNat 63 48 + 65536 - (linkOf s i).expect) % 65536 = 0 then
        takePacket lane.val i type (words.getD 0 0).toNat (words.getD 1 0).toNat ((words.take (words.length - 1)).drop 2)
          (inOrder i (bits (words.getD 1 0).toNat 31 16) (advance t s))
      else if (bits (words.getD 0 0).toNat 63 48 + 65536 - (linkOf s i).expect) % 65536 < 32768 then sendNak i (advance t s)
      else takeAck i (bits (words.getD 1 0).toNat 31 16) (advance t s)) := by
  have hlink' : linkIndex (advance t s) lane.val = some i := hlink
  have hup' : laneUp (advance t s) lane.val = true := hup
  simp only [execUraraPacketReceive, onEvent, hlink', hup']
  rfl

theorem packetReceive_bad {type : Nat} {words : List W64} (hbad : ¬ (words.length = bits (words.getD 1 0).toNat 9 0 + 3 ∧
      fld (words.getD (words.length - 1) 0) 31 0 = crc32c (wordsBytes (words.take (words.length - 1))))) :
    execUraraPacketReceive t lane type words s = .next (sendNak i (advance t s)) := by
  rw [uraraPacketReceive_eq hlink hup, if_pos]
  simpa only [Bool.not_eq_true', Bool.and_eq_false_iff, beq_eq_false_iff_ne, ne_eq, not_and_or] using hbad

/-- A good packet that is no acknowledgement is judged by its number alone. -/
theorem packetReceive_good {type : Nat} {words : List W64} (hlength : words.length = bits (words.getD 1 0).toNat 9 0 + 3)
    (hcheck : fld (words.getD (words.length - 1) 0) 31 0 = crc32c (wordsBytes (words.take (words.length - 1)))) (hack : type ≠ 0x42) (hnak : type ≠ 0x43) :
    execUraraPacketReceive t lane type words s = .next
      (if (bits (words.getD 0 0).toNat 63 48 + 65536 - (linkOf s i).expect) % 65536 = 0 then
        takePacket lane.val i type (words.getD 0 0).toNat (words.getD 1 0).toNat ((words.take (words.length - 1)).drop 2)
          (inOrder i (bits (words.getD 1 0).toNat 31 16) (advance t s))
      else if (bits (words.getD 0 0).toNat 63 48 + 65536 - (linkOf s i).expect) % 65536 < 32768 then sendNak i (advance t s)
      else takeAck i (bits (words.getD 1 0).toNat 31 16) (advance t s)) := by
  have hgood : (!(words.length == bits (words.getD 1 0).toNat 9 0 + 3 &&
      fld (words.getD (words.length - 1) 0) 31 0 == crc32c (wordsBytes (words.take (words.length - 1))))) = false := by
    rw [beq_iff_eq.2 hlength, beq_iff_eq.2 hcheck]; rfl
  rw [uraraPacketReceive_eq hlink hup, hgood, if_neg Bool.false_ne_true, if_neg hack, if_neg hnak]

theorem lackReceive_takes (ack : Nat) : execLackReceive t lane ack s = .next (takeAck i (ack % 65536) (advance t s)) := by
  have hlink' : linkIndex (advance t s) lane.val = some i := hlink
  have hup' : laneUp (advance t s) lane.val = true := hup
  simp only [execLackReceive, onEvent, hlink', hup', if_true]

theorem lnakReceive_replays (lseq : Nat) : execLnakReceive t lane lseq s = .next (replayFrom i (lseq % 65536) (advance t s)) := by
  have hlink' : linkIndex (advance t s) lane.val = some i := hlink
  have hup' : laneUp (advance t s) lane.val = true := hup
  simp only [execLnakReceive, onEvent, hlink', hup', if_true]

theorem lackSend_sends (hidle : (linkOf s i).lastTx + 1000 ≤ (advance t s).now) : execLackSend t lane s = .next (emit (.packet lane.val 0x42
    (linkWords (neighbourPacket s 0x42 []) 0 (ackOf s i))) (modLink i (fun l => { l with lastTx := (advance t s).now }) (advance t s))) := by
  have hlink' : linkIndex (advance t s) lane.val = some i := hlink
  have hdue : (!laneUp (advance t s) lane.val || decide ((advance t s).now < (linkOf (advance t s) i).lastTx + 1000)) = false := by
    have hup' : laneUp (advance t s) lane.val = true := hup
    rw [hup', Bool.not_true, Bool.false_or]
    exact decide_eq_false (Nat.not_lt.2 hidle)
  simp only [execLackSend, onEvent, hlink', hdue]
  rfl

end Lane

/-- What a packet in order leaves (R374, R375). -/
theorem inOrder_taken {i type u0 : Nat} (lane u1 ack : Nat) (ws : List W64) (s : State) :
    (takePacket lane i type u0 u1 ws (inOrder i ack s)).prod = s.prod ∧ (takePacket lane i type u0 u1 ws (inOrder i ack s)).well = s.well := by
  obtain ⟨hprod, hwell⟩ := takePacket_apart lane i type u0 u1 ws (inOrder i ack s)
  have hlink := inOrder_linkSends i ack s
  exact ⟨hprod.trans hlink.prod, hwell.trans hlink.well⟩

theorem inOrder_unknown {i type : Nat} (hi : i < 8) (htype : knownType type = false) (lane u0 u1 ack : Nat) (ws : List W64) (s : State) :
    (takePacket lane i type u0 u1 ws (inOrder i ack s)).ura.unknown = s.ura.unknown + 1 ∧
    (takePacket lane i type u0 u1 ws (inOrder i ack s)).ura.inbox = s.ura.inbox ∧
    (linkOf (takePacket lane i type u0 u1 ws (inOrder i ack s)) i).expect = ((linkOf s i).expect + 1) % 65536 := by
  obtain ⟨l, e, d, hura⟩ := (inOrder_linkSends i ack s).ura
  rw [takePacket_unknown htype]
  refine ⟨?_, ?_, (inOrder_receiver hi ack s).1⟩
  · show (inOrder i ack s).ura.unknown + 1 = _
    rw [hura]
  · show (inOrder i ack s).ura.inbox = _
    rw [hura]

theorem inOrder_delivers {i type u0 : Nat} {s : State} (hi : i < 8) (hknown : knownType type = true) (h40 : type ≠ 0x40) (h41 : type ≠ 0x41)
    (hnode : s.node ≠ 0) (hmine : s.ura.conflict = false) (hdest : bits u0 10 0 = s.node) (hcast : s.node ≠ 2047) (lane u1 ack : Nat) (ws : List W64) :
    (takePacket lane i type u0 u1 ws (inOrder i ack s)).ura.inbox = s.ura.inbox ++ [(type, bits u0 26 16, ws)] ∧
    (linkOf (takePacket lane i type u0 u1 ws (inOrder i ack s)) i).expect = ((linkOf s i).expect + 1) % 65536 ∧
    (linkOf (takePacket lane i type u0 u1 ws (inOrder i ack s)) i).naked = false := by
  have hlink := inOrder_linkSends i ack s
  obtain ⟨l, e, d, hura⟩ := hlink.ura
  have hconflict : (inOrder i ack s).ura.conflict = false := by rw [hura]; exact hmine
  rw [takePacket_delivers hknown h40 h41 (hlink.node.symm ▸ hnode) hconflict (hlink.node.symm ▸ hdest) (hlink.node.symm ▸ hcast)]
  refine ⟨?_, inOrder_receiver hi ack s⟩
  show (inOrder i ack s).ura.inbox ++ _ = _
  rw [hura]

/-! ### What the link delivers (R49, R383, R388, R404, R514) -/

theorem uraraCommandReceive_takesIn (t src : Nat) (ws : List W64) (s : State) (hon : domOn s 10 = true) (hready : s.pwr.ready = true)
    (hkeeps : s.bgd.takeover = false) (hopen : s.cmd.intakeOpen = true) :
    execUraraCommandReceive t src ws s = .next (intake .urara src ws (takeInbox 0x48 (advance t s))) := by
  have hguard : (!domOn s 10 || !s.pwr.ready || s.bgd.takeover || !s.cmd.intakeOpen) = false := by simp [hon, hready, hkeeps, hopen]
  exact congrArg Host.Outcome.next (if_neg (ne_true_of_eq_false hguard))

/-- A detection that a loaded job serves while no switch waits becomes a product of the next number. -/
theorem createProduct_served {s : State} {j : Job} {input first moment k : Nat} {tr : Track} (hswitch : s.job.switch = none)
    (hjob : jobFor s input first moment = some j) (htrack : trackOn j input = some (k, tr)) (hroom : s.prod.queue.length < 64)
    (line stamp : Nat) (forced : Bool) : createProduct input line first stamp moment forced s =
      (some s.mot.nextProd, numbered (newProduct s j input line first stamp moment k tr forced) s) := by
  have hfixes : fixes (numbered (newProduct s j input line first stamp moment k tr forced) s) input moment = none :=
    fixes_noSwitch (congrArg Jobs.switch (numbered_job _ s) |>.trans hswitch) _ _
  unfold numbered newProduct at hfixes ⊢
  simp only [createProduct, hjob, htrack, if_neg (Nat.not_le.2 hroom), hfixes]

/-! ### What a queued product leaves of the remote inputs -/

/-- The remote inputs of a state (R380). -/
def remoteInputs (s : State) : List Remote := s.ura.remotes

theorem LinkSends.remotes {s t : State} (h : LinkSends s t) : remoteInputs t = remoteInputs s := by
  obtain ⟨_, _, _, hura⟩ := h.ura
  rw [remoteInputs, hura]; rfl

theorem ledgerWrite_remotes (w : LWrite) (ws : List W64) (s : State) : remoteInputs (ledgerWrite w ws s) = remoteInputs s := by
  unfold ledgerWrite
  dsimp only
  split
  · exact (uraraSend_linkSends _ _ _ _).remotes
  · rfl

theorem writePart_remotes (n kind : Nat) (s : State) : remoteInputs (writePart n kind s) = remoteInputs s := by
  unfold writePart
  split
  · rfl
  · exact ledgerWrite_remotes _ _ s

theorem exportPart_remotes (n kind : Nat) (s : State) : remoteInputs (exportPart n kind s) = remoteInputs s := by
  unfold exportPart
  split <;> rfl

theorem settleManifests_remotes (s : State) : remoteInputs (settleManifests s) = remoteInputs s :=
  (foldl_keeps remoteInputs (fun s _ => (finish_linkSends _ _ _ _ s).remotes) _ _).trans (foldl_keeps remoteInputs (by intros; rfl) _ s)

theorem finalise_remotes (n kind reason fault grade : Nat) (s : State) : remoteInputs (finalise n kind reason fault grade s) = remoteInputs s := by
  unfold finalise
  split
  · rfl
  · split
    · rfl
    · exact (settleManifests_remotes _).trans ((exportPart_remotes _ _ _).trans (writePart_remotes _ _ _))

theorem voidProduct_remotes (n reason fault : Nat) (s : State) : remoteInputs (voidProduct n reason fault s) = remoteInputs s := by
  have hrecs : remoteInputs (voidRecs n reason fault (setFlag n 0 s)) = remoteInputs s := foldl_keeps remoteInputs (fun s _ => finalise_remotes _ _ _ _ _ s) _ _
  unfold voidProduct
  dsimp only
  split
  · exact hrecs
  · refine (foldl_keeps remoteInputs (fun s g => ?_) _ _).trans hrecs
    split
    · split <;> rfl
    · rfl

theorem voidFault_remotes (n fault : Nat) (s : State) : remoteInputs (voidFault n fault s) = remoteInputs s :=
  (voidProduct_remotes _ _ _ _).trans (raise_linkSends _ _ s).remotes

theorem queueProduct_remotes (p : Product) (s : State) : remoteInputs (queueProduct p s) = remoteInputs s := by
  unfold queueProduct
  dsimp only
  split
  · exact voidFault_remotes _ _ _
  · split
    · exact voidFault_remotes _ _ _
    · split <;> rfl

theorem numbered_remotes (p : Product) (s : State) : remoteInputs (numbered p s) = remoteInputs s := queueProduct_remotes _ _

theorem pairEdge_remotes (e : TwinEdge) (s : State) : remoteInputs (pairEdge e s) = remoteInputs s := by
  have hstale : ∀ (u : State) (l : List TwinEdge), remoteInputs (l.foldl (fun s _ => raise FaultCode.twinDetectDiff 0 s) u) = remoteInputs u := fun u l =>
    foldl_keeps remoteInputs (fun s _ => (raise_linkSends _ _ s).remotes) l u
  unfold pairEdge
  dsimp only
  split
  · exact hstale _ _
  · exact hstale _ _

/-- A lead's TRIGGER of a product that is served, as one step: the product is queued, and its edge is paired unless it was forced. -/
theorem leadTrigger_served {w : TriggerWords} {s : State} {n k : Nat} {j : Job} {tr : Track} (hnum : w.product = some n) (hswitch : s.job.switch = none)
    (hjob : jobFor s w.input.val (w.line + (pdSettings s.mot.pds[w.input] (momentOf s w.stamp)).lead) (momentOf s w.stamp) = some j)
    (htrack : trackOn j w.input.val = some (k, tr)) (hroom : s.prod.queue.length < 64) : ∃ p e,
    p = newProduct { s with mot.nextProd := n } j w.input.val w.line
      (w.line + (pdSettings s.mot.pds[w.input] (momentOf s w.stamp)).lead) w.stamp (momentOf s w.stamp) k tr w.forced ∧
    leadTrigger w s = if w.forced then numbered p { s with mot.nextProd := n } else pairEdge e (numbered p { s with mot.nextProd := n }) := by
  have hcreate := createProduct_served (s := { s with mot.nextProd := n }) hswitch hjob htrack hroom w.line w.stamp w.forced
  refine ⟨_, { input := w.input.val, line := w.line, stamp := w.stamp, moment := momentOf s w.stamp, matched := true }, rfl, ?_⟩
  unfold leadTrigger
  simp only [hnum, hcreate]

/-- A lead's TRIGGER puts its product into the standby's queue under the lead's number and stamp (R388). -/
theorem leadTrigger_queues {w : TriggerWords} {s : State} {n k : Nat} {j : Job} {tr : Track} (hnum : w.product = some n) (hswitch : s.job.switch = none)
    (hjob : jobFor s w.input.val (w.line + (pdSettings s.mot.pds[w.input] (momentOf s w.stamp)).lead) (momentOf s w.stamp) = some j)
    (htrack : trackOn j w.input.val = some (k, tr)) (hroom : s.prod.queue.length < 64) :
    remoteInputs (leadTrigger w s) = remoteInputs s ∧ (leadTrigger w s).mot.nextProd = n + 1 ∧
    ∃ p ∈ (leadTrigger w s).prod.queue, p.num = n ∧ p.detLine = w.line ∧ p.detect = w.stamp ∧
      p.first = w.line + (pdSettings s.mot.pds[w.input] (momentOf s w.stamp)).lead ∧ p.job = j.desc.id ∧ p.input = w.input.val := by
  obtain ⟨p, e, hp, hrun⟩ := leadTrigger_served hnum hswitch hjob htrack hroom
  have hleaves : LeavesQueue (numbered p { s with mot.nextProd := n }) (leadTrigger w s) := by
    rw [hrun]; exact .ite (.refl _) (pairEdge_leavesQueue _ _)
  have hremotes : remoteInputs (leadTrigger w s) = remoteInputs s := by
    rw [hrun]
    split
    · exact numbered_remotes _ _
    · exact (pairEdge_remotes _ _).trans (numbered_remotes _ _)
  obtain ⟨q, hq, hcont⟩ := numbered_product p { s with mot.nextProd := n }
  refine ⟨hremotes, congrArg Motion.nextProd (hleaves.mot.trans (numbered_mot _ _)), q, hleaves.queue ▸ hq, ?_⟩
  subst hp
  exact ⟨hcont.num, hcont.detLine, hcont.detect, hcont.first, hcont.job, hcont.input⟩

theorem execTriggerReceive_on {t src : Nat} {w : TriggerWords} {s u : State} (hurara : domOn s 10 = true) (hpress : domOn s 9 = true)
    (hu : (if s.twn.bound && src == s.twn.peer && standby s && w.lead then leadTrigger w (takeInbox 0x4A (advance t s))
      else takeInbox 0x4A (advance t s)) = u) (hremotes : ∀ r ∈ remoteInputs u, r.node ≠ src) : execTriggerReceive t src w s = .next u := by
  have hmine : (u.ura.remotes.filter fun r => r.enable && r.node == src && r.input == w.input.val) = [] :=
    List.filter_eq_nil_iff.2 fun r hr => by simp [hremotes r hr]
  have hguard : (!domOn s 10 || !domOn s 9) = false := by simp [hurara, hpress]
  have hrun : (if w.forced then u else (u.ura.remotes.filter fun r => r.enable && r.node == src && r.input == w.input.val).foldl
      (fun s r => if h : r.local_ < 8 then remoteTrigger ⟨r.local_, h⟩ w s else s) u) = u := by
    rw [hmine]; exact ite_self u
  refine congrArg Host.Outcome.next ((if_neg (ne_true_of_eq_false hguard)).trans ?_)
  subst hu
  exact hrun

/-! ### TIME and TELEMETRY (R383, R404, R514) -/

theorem noteDiff_notes (ns : Int) (s : State) : (noteDiff ns s).twn.clockDiff = ns ∧ (noteDiff ns s).twn.diffSent = decide (10000 < ns.natAbs) ∧
    (noteDiff ns s).time = s.time ∧ (noteDiff ns s).ura = s.ura := by
  obtain ⟨u, hu, hura, htime⟩ : ∃ u, u = (if decide (10000 < ns.natAbs) && !s.twn.diffSent then raise FaultCode.twinTimeDiff 0 s else s) ∧
      u.ura = s.ura ∧ u.time = s.time := by
    refine ⟨_, rfl, ?_, ?_⟩
    · split
      · rw [raise_frame]
      · rfl
    · split
      · exact raise_time _ _ _
      · rfl
  refine ⟨rfl, rfl, ?_, ?_⟩
  · unfold noteDiff; dsimp only; rw [← hu]; exact htime
  · unfold noteDiff; dsimp only; rw [← hu]; exact hura

theorem timeReceive_peer {t src : Nat} {s : State} (hon : domOn s 10 = true) (hbound : s.twn.bound = true) (hsrc : src = s.twn.peer)
    (hother : s.ura.timeDom1 = false ∨ src ≠ s.ura.timeSource) (tSrc corr lam : Nat) : execTimeReceive t src tSrc corr lam s = .next
      (noteDiff (((tSrc : Int) + ((corr + lam * 65536 / 10 : Nat) : Int) - (devTime (advance t s) : Nat)) / 65536) (takeInbox 0x4B (advance t s))) := by
  have hpeer : ((takeInbox 0x4B (advance t s)).twn.bound && src == (takeInbox 0x4B (advance t s)).twn.peer) = true := by
    rw [Bool.and_eq_true, beq_iff_eq]; exact ⟨hbound, hsrc⟩
  have hquiet : ∀ ns, ((noteDiff ns (takeInbox 0x4B (advance t s))).ura.timeDom1 &&
      src == (noteDiff ns (takeInbox 0x4B (advance t s))).ura.timeSource) = false := fun ns => by
    rw [(noteDiff_notes ns _).2.2.2, Bool.and_eq_false_iff, beq_eq_false_iff_ne]; exact hother
  simp only [execTimeReceive, onEvent, advance_domOn, hon, hpeer, hquiet, Bool.not_true, Bool.false_eq_true, if_false, if_true]
  rfl

theorem timeReceive_source {t src : Nat} {s : State} (hon : domOn s 10 = true) (hpeer : s.twn.bound = false ∨ src ≠ s.twn.peer)
    (hdom : s.ura.timeDom1 = true) (hsrc : src = s.ura.timeSource) (tSrc corr lam : Nat) : execTimeReceive t src tSrc corr lam s = .next
      (uraraSample ((tSrc : Int) + ((corr + lam * 65536 / 10 : Nat) : Int) - (devTime (advance t s) : Nat))
        ((corr + lam * 65536 / 10 : Nat) : Int) (takeInbox 0x4B (advance t s))) := by
  have hnone : ((takeInbox 0x4B (advance t s)).twn.bound && src == (takeInbox 0x4B (advance t s)).twn.peer) = false := by
    rw [Bool.and_eq_false_iff, beq_eq_false_iff_ne]; exact hpeer
  have hsource : ((takeInbox 0x4B (advance t s)).ura.timeDom1 && src == (takeInbox 0x4B (advance t s)).ura.timeSource) = true := by
    rw [Bool.and_eq_true, beq_iff_eq]; exact ⟨hdom, hsrc⟩
  simp only [execTimeReceive, onEvent, advance_domOn, hon, hnone, hsource, Bool.not_true, Bool.false_eq_true, if_false, if_true]
  rfl

theorem telemetryReceive_on {t src : Nat} {s : State} (hurara : domOn s 10 = true) (hcrier : domOn s 2 = true) (hsrc : src ≠ 0) (ws : List W64) :
    execTelemetryReceive t src ws s = .next (if s.cri.ringOn then
      queueUnits s.cri.ring ((recordsOf ws.length ws).map fun r => { data := wordsBytes r }) (takeInbox 0x5C (advance t s)) else takeInbox 0x5C (advance t s)) := by
  have hguard : (!domOn s 10 || !domOn s 2 || src == 0) = false := by simp [hurara, hcrier, hsrc]
  exact congrArg Host.Outcome.next (if_neg (ne_true_of_eq_false hguard))

/-- Settles O49: reception on a lane is judged by `packetReceive_good`, and what it delivers by the lemma of its message. -/
theorem packetsAreTaken : Obligations.PacketsAreTaken := by
  refine ⟨fun t i lane s hlink hup => ⟨?packets, fun ack => ⟨lackReceive_takes hlink hup ack, fun hi hnone => ?_⟩, lackSend_sends hlink hup,
    lnakReceive_replays hlink hup⟩, fun t src s => ⟨fun ws => uraraCommandReceive_takesIn t src ws s, ?trigger, fun w hurara hpress hremotes hpeer => ?_,
    fun _ => rfl, fun tSrc corr lam hon hbound hsrc hother => ?_, fun tSrc corr lam hon hpeer hdom hsrc => timeReceive_source hon hpeer hdom hsrc _ _ _,
    fun a b c d hurara hcrier hsrc => ?telemetry⟩⟩
  case packets =>
    · rintro type words _ _ rfl rfl
      refine ⟨packetReceive_bad hlink hup, fun hlength hcheck hack hnak => ⟨fun hahead hnear => ?_, fun hbehind => ?_, fun hnext => ?_⟩⟩
      · exact (packetReceive_good hlink hup hlength hcheck hack hnak).trans
          (congrArg Host.Outcome.next ((if_neg (Nat.ne_of_gt hahead)).trans (if_pos hnear)))
      · exact (packetReceive_good hlink hup hlength hcheck hack hnak).trans
          (congrArg Host.Outcome.next ((if_neg (Nat.ne_of_gt (Nat.lt_of_lt_of_le (by decide) hbehind))).trans (if_neg (Nat.not_lt.2 hbehind))))
      · have hrun := (packetReceive_good (t := t) hlink hup hlength hcheck hack hnak).trans (congrArg Host.Outcome.next (if_pos hnext))
        obtain ⟨hprod, hwell⟩ := inOrder_taken (i := i) (type := type) (u0 := (words.getD 0 0).toNat) lane.val (words.getD 1 0).toNat
          (bits (words.getD 1 0).toNat 31 16) ((words.take (words.length - 1)).drop 2) (advance t s)
        refine ⟨_, hrun, hprod, hwell, fun hi htype => ?_, fun hi hknown h40 h41 hnode hmine hdest hcast => ?_⟩
        · exact inOrder_unknown hi htype lane.val (words.getD 0 0).toNat (words.getD 1 0).toNat (bits (words.getD 1 0).toNat 31 16)
            ((words.take (words.length - 1)).drop 2) (advance t s)
        · exact inOrder_delivers (s := advance t s) hi hknown h40 h41 hnode hmine hdest hcast lane.val (words.getD 1 0).toNat
            (bits (words.getD 1 0).toNat 31 16) ((words.take (words.length - 1)).drop 2)
  case trigger =>
    rintro w _ _ n j k tr rfl rfl hurara hpress hbound hsrc hstandby hlead hnum hremotes hswitch hjob htrack hroom
    obtain ⟨hkept, hqueued⟩ := leadTrigger_queues (s := takeInbox 0x4A (advance t s)) hnum hswitch hjob htrack hroom
    have hfrom : (s.twn.bound && src == s.twn.peer && standby s && w.lead) = true := by simp [hbound, hsrc, hstandby, hlead]
    exact ⟨_, execTriggerReceive_on hurara hpress (if_pos hfrom) (by rw [hkept]; exact hremotes), hqueued⟩
  case telemetry =>
    refine ⟨fun hring => (telemetryReceive_on hurara hcrier hsrc _).trans (congrArg Host.Outcome.next (if_pos hring)), fun hring => ?_⟩
    exact (telemetryReceive_on hurara hcrier hsrc _).trans (congrArg Host.Outcome.next (if_neg (ne_true_of_eq_false hring)))
  · exact (lackReceive_takes hlink hup ack).trans (congrArg Host.Outcome.next (takeAck_empties hi hnone))
  · have hfrom : (s.twn.bound && src == s.twn.peer && standby s && w.lead) = false := by
      rcases hpeer with h | h <;> simp [h]
    exact execTriggerReceive_on hurara hpress (if_neg (ne_true_of_eq_false hfrom)) hremotes
  · obtain ⟨hdiff, hsent, htime, -⟩ := noteDiff_notes (((tSrc : Int) + ((corr + lam * 65536 / 10 : Nat) : Int) - (devTime (advance t s) : Nat)) / 65536)
      (takeInbox 0x4B (advance t s))
    exact ⟨_, timeReceive_peer hon hbound hsrc hother _ _ _, hdiff, hdiff.symm ▸ hsent, htime⟩

end Sys2Proof.Machine
end

section
/-!
The check units: the fixed algorithms, CHECK_RUN, the end of a scan and the self-check.
-/
namespace Sys2Proof.Machine

/-! ### The fixed algorithms on the nine bytes (R444) -/

theorem crc_crc32c_checkText : crc CheckCfg.crc32c checkText = 0xE3069283 := by decide +kernel

theorem crc_crc32_checkText : crc CheckCfg.crc32 checkText = 0xCBF43926 := by decide +kernel

theorem crc_crc16_checkText : crc CheckCfg.crc16 checkText = 0x29B1 := by decide +kernel

theorem crc_crc64_checkText : crc CheckCfg.crc64 checkText = 0x995DC9BBDF1939FA := by decide +kernel

/-! ### CHECK_RUN (R446 to R449, R452, R573) -/

theorem running_of_runs {op cid : Nat} {c : Slot} {s : State} (h : Runs op cid c s) : running op cid s = some c := by
  obtain ⟨hslot, hop, hphase⟩ := h
  simp [running, hslot, hop, hphase]

theorem withRange_inside {c : Slot} {addr n : Nat} {s : State} (h : rangeFailure s addr n = none) (k : State → State) :
    withRange c addr n k s = k s := by
  simp only [withRange, h]

theorem checkScan_starts {c : Slot} {u : Fin 5} {s : State} (hroom : s.chk.scans.length < 4) (hserved : (servedBy s u).isSome = true) :
    checkScan c u s = { s with chk.scans := s.chk.scans ++ [{ cid := c.cid, unit := u, addr := parN c 1, len := parN c 2 }] } := by
  obtain ⟨cfg, hcfg⟩ := Option.isSome_iff_exists.1 hserved
  simp only [checkScan, if_neg (Nat.not_le.2 hroom), hcfg]

/-- A pending repair that a load of the unit's settings settles. -/
def repairOf (u : Fin 5) (h : LedgerHit) : Bool := match h with | .check q _ => q == u | _ => false

/-- A unit that took a record holds its settings and their value of the nine bytes, and has not failed (R446). -/
theorem checkLoad_sets {c : Slot} {u : Fin 5} {bs : List Byte} {cfg : CheckCfg} {s : State} (hcfg : recordCfg u (wordsOf bs) = some cfg)
    (hfree : contextHeld s u = false) : checkLoad c u true bs s = answer c [word (crc cfg checkText)]
      (mendConfig (repairOf u)
        { s with chk.units := upd s.chk.units u fun x => { x with cfg := cfg, loadValue := crc cfg checkText, failed := false } }) := by
  simp only [checkLoad, hcfg, hfree, Bool.false_eq_true, if_false, if_true]
  rfl

section Run
variable {t cid : Nat} {agree : Bool} {c : Slot} {u : Fin 5} {s : State} (hstart : Starts Op.checkRun cid c s) (hunit : unitOf (parF c 0 2 0) = some u)
  (hrange : rangeFailure s (parN c 1) (parN c 2) = none)
include hstart hunit hrange

theorem checkRun_scans (hmode : parF c 0 9 8 = 0) (hsome : 0 < parN c 2) (hlimit : parN c 2 ≤ 2 ^ 40) (hroom : s.chk.scans.length < 4)
    (hserved : (servedBy s u).isSome = true) : execCheckRun t cid agree s = .next { startedAt t cid s with
      chk.scans := s.chk.scans ++ [{ cid := c.cid, unit := u, addr := parN c 1, len := parN c 2 }] } := by
  have hlen : ¬ (parN c 2 = 0 ∨ 2 ^ 40 < parN c 2) := by omega
  have hrange' : rangeFailure (startedAt t cid s) (parN c 1) (parN c 2) = none := hrange
  rw [execCheckRun, onStart_starts hstart, hunit, hmode]
  dsimp only
  rw [if_neg hlen, withRange_inside hrange', checkScan_starts (s := startedAt t cid s) hroom hserved]
  rfl

theorem checkRun_loads {cfg : CheckCfg} (hmode : parF c 0 9 8 = 1) (hlen : parN c 2 = 32) (halign : parN c 1 % 8 = 0)
    (hgood : poisoned s (parN c 1) 32 = false) (hcfg : recordCfg u (wordsOf (wellRead s (parN c 1) 32)) = some cfg) (hfree : contextHeld s u = false) :
    execCheckRun t cid true s = .next (answer c [word (crc cfg checkText)] { startedAt t cid s with
      chk.units := upd s.chk.units u fun x => { x with cfg := cfg, loadValue := crc cfg checkText, failed := false },
      led.broken := s.led.broken.filter fun h => !(match h with | .check q _ => q == u | _ => false) }) := by
  have hform : ¬ (parN c 2 ≠ 32 ∨ parN c 1 % 8 ≠ 0) := by omega
  have hrange' : rangeFailure (startedAt t cid s) (parN c 1) 32 = none := hlen ▸ hrange
  have hgood' : poisoned (startedAt t cid s) (parN c 1) 32 = false := hgood
  have hcfg' : recordCfg u (wordsOf (wellRead (startedAt t cid s) (parN c 1) 32)) = some cfg := hcfg
  rw [execCheckRun, onStart_starts hstart, hunit, hmode]
  dsimp only
  rw [if_neg hform, hlen, withObject_reads hrange' hgood', checkLoad_sets (s := startedAt t cid s) hcfg' hfree]
  rfl

theorem checkRun_stores (hmode : parF c 0 9 8 = 2) (hlen : parN c 2 = 64) (halign : parN c 1 % 8 = 0) : execCheckRun t cid agree s =
    .next (answer c [0] (wellWrite (parN c 1) (wordsBytes (storeWords u s.chk.units[u])) (startedAt t cid s))) := by
  have hform : ¬ (parN c 2 ≠ 64 ∨ parN c 1 % 8 ≠ 0) := by omega
  have hrange' : rangeFailure (startedAt t cid s) (parN c 1) (parN c 2) = none := hrange
  rw [execCheckRun, onStart_starts hstart, hunit, hmode]
  exact congrArg Host.Outcome.next ((if_neg hform).trans (withRange_inside hrange' _))

end Run

theorem checkScanComplete_answers {t cid : Nat} {c : Slot} {x : Scan} {cfg : CheckCfg} {s : State} (hruns : Runs Op.checkRun cid c s)
    (hscan : s.chk.scans.find? (fun y => y.cid == cid) = some x) (hgood : poisoned s x.addr x.len = false) (hcfg : servedBy s x.unit = some cfg) :
    execCheckScanComplete t cid s = .next (answer c [word (crc cfg (wellRead s x.addr x.len))]
      (countUse x.unit x.len { advance t s with chk.scans := s.chk.scans.filter (fun y => y.cid != cid) })) := by
  have hruns' : running Op.checkRun cid (advance t s) = some c := running_of_runs (s := advance t s) hruns
  have hscan' : (advance t s).chk.scans.find? (fun y => y.cid == cid) = some x := hscan
  have hgood' : poisoned { advance t s with chk.scans := (advance t s).chk.scans.filter (fun y => y.cid != cid) } x.addr x.len = false := hgood
  have hcfg' : servedBy { advance t s with chk.scans := (advance t s).chk.scans.filter (fun y => y.cid != cid) } x.unit = some cfg := hcfg
  simp only [execCheckScanComplete, onEvent, hscan', hruns']
  rw [if_neg (ne_true_of_eq_false hgood'), hcfg']
  rfl

/-! ### CHECK_UNIT_SELFCHECK (R451) -/

/-- What the end of a failed unit's contexts leaves. -/
def checkedState (s : State) : Vector CheckUnit 5 × Faults × Well × Ledger := (s.chk.units, s.flt, s.well, s.led)

theorem dropFailed_checkedState (u : Fin 5) (r : Fin 16) (s : State) : checkedState (dropFailed u r s) = checkedState s := by
  unfold dropFailed
  split
  · rfl
  · split
    · rw [completeDesc_frame]; rfl
    · rfl

theorem endScans_checkedState (u : Fin 5) (l : List Scan) (s : State) : checkedState (endScans u l s) = checkedState s := by
  induction l generalizing s with
  | nil => rfl
  | cons x xs ih =>
    refine (ih _).trans ?_
    split
    · dsimp only
      rw [finish_frame]; rfl
    · rfl

theorem raise_class1 {code : Nat} (h : classOf code = 1) (detail : Nat) (s : State) : (raise code detail s).flt =
    { s.flt with correctable := sat 0xFFFFFFFF (s.flt.correctable + 1) } := by
  unfold raise
  dsimp only
  rw [if_pos h, event_frame]

/-- The contexts of a unit that fails end (R451). -/
def contextsEnded (i : Fin 5) (s : State) : State :=
  endScans i ((List.finRange 16).foldl (fun s r => dropFailed i r s) s).chk.scans ((List.finRange 16).foldl (fun s r => dropFailed i r s) s)

theorem contextsEnded_checkedState (i : Fin 5) (s : State) : checkedState (contextsEnded i s) = checkedState s :=
  (endScans_checkedState i _ _).trans (foldl_keeps checkedState (fun s r => dropFailed_checkedState i r s) _ s)

/-- A unit fails: its contexts end, the failure is counted and reported (R451). -/
def unitFails (i : Fin 5) (s : State) : State :=
  raise FaultCode.checkUnitFail 0 { contextsEnded i s with
    chk.units := upd (contextsEnded i s).chk.units i fun x => { x with failed := true, selfFails := sat 0xFFFFFFFF (x.selfFails + 1) } }

theorem unitFails_checkedState (i : Fin 5) (s : State) : checkedState (unitFails i s) =
    (upd s.chk.units i fun x => { x with failed := true, selfFails := sat 0xFFFFFFFF (x.selfFails + 1) },
      { s.flt with correctable := sat 0xFFFFFFFF (s.flt.correctable + 1) }, s.well, s.led) := by
  have hkept := contextsEnded_checkedState i s
  obtain ⟨hunits, hflt, hwell, hled⟩ : (contextsEnded i s).chk.units = s.chk.units ∧ (contextsEnded i s).flt = s.flt ∧
      (contextsEnded i s).well = s.well ∧ (contextsEnded i s).led = s.led := by
    simpa only [checkedState, Prod.mk.injEq] using hkept
  unfold unitFails
  generalize contextsEnded i s = v at hunits hflt hwell hled
  have hfault := raise_class1 (code := FaultCode.checkUnitFail) (by decide) 0 { v with
    chk.units := upd v.chk.units i fun x => { x with failed := true, selfFails := sat 0xFFFFFFFF (x.selfFails + 1) } }
  rw [checkedState, hfault, raise_frame]
  simp only [hunits, hflt, hwell, hled]

theorem checkUnitSelfcheck_agrees {t : Nat} {u : Fin 4} {value : Nat} {s : State} (h : value = s.chk.units[u.castSucc].loadValue) :
    execCheckUnitSelfcheck t u value s = .next (advance t s) := congrArg Host.Outcome.next (if_pos (.inl h))

theorem checkUnitSelfcheck_fails {t : Nat} {u : Fin 4} {value : Nat} {s : State} {i : Fin 5} (hi : i = ⟨u.val, by omega⟩)
    (hgood : s.chk.units[i].failed = false) (h : value ≠ s.chk.units[i].loadValue) : execCheckUnitSelfcheck t u value s = .next
      (if isFixedAlg s.chk.units[i].cfg then notify Notice.checkFallback u.val (unitFails i (advance t s)) else unitFails i (advance t s)) := by
  have hguard : ¬ (value = (advance t s).chk.units[i].loadValue ∨ (advance t s).chk.units[i].failed = true) := by
    rintro (heq | hfailed)
    · exact h heq
    · exact Bool.false_ne_true (hgood.symm.trans hfailed)
  subst hi
  unfold execCheckUnitSelfcheck onEvent unitFails contextsEnded
  dsimp only
  rw [if_neg hguard]
  generalize List.foldl _ _ _ = v
  generalize endScans _ _ v = w
  rfl

theorem checkUnitSelfcheck_state (i : Fin 5) (n t : Nat) (s : State) :
    checkedState (if isFixedAlg s.chk.units[i].cfg then notify Notice.checkFallback n (unitFails i (advance t s)) else unitFails i (advance t s)) =
      (upd s.chk.units i fun x => { x with failed := true, selfFails := sat 0xFFFFFFFF (x.selfFails + 1) },
        { s.flt with correctable := sat 0xFFFFFFFF (s.flt.correctable + 1) }, s.well, s.led) := by
  have hfails := unitFails_checkedState i (advance t s)
  generalize unitFails i (advance t s) = v at hfails ⊢
  split
  · rw [notify_frame]; exact hfails
  · exact hfails

/-- Settles O10: each algorithm is evaluated on the nine bytes, each mode of CHECK_RUN is its own lemma, and a unit that fails moves only what `checkedState` says. -/
theorem checkUnitsWork : Obligations.CheckUnitsWork := by
  refine ⟨⟨⟨rfl, crc_crc32c_checkText⟩, ⟨rfl, crc_crc32_checkText⟩, ⟨rfl, crc_crc16_checkText⟩, rfl, crc_crc64_checkText⟩,
    ⟨fun t cid agree c u s hstart hunit hrange => ⟨checkRun_scans hstart hunit hrange, ?_, checkRun_stores hstart hunit hrange⟩,
      fun t cid c x cfg s => checkScanComplete_answers⟩, fun t value u s hgood => ⟨checkUnitSelfcheck_agrees, fun hvalue => ?_⟩⟩
  · rintro cfg hmode hlen halign hread hcfg hfree rfl
    exact checkRun_loads hstart hunit hrange hmode hlen halign hread hcfg hfree
  · obtain ⟨s', hrun, hstate⟩ : ∃ s', execCheckUnitSelfcheck t u value s = .next s' ∧ checkedState s' = _ :=
      ⟨_, checkUnitSelfcheck_fails (i := u.castSucc) rfl hgood hvalue, checkUnitSelfcheck_state u.castSucc u.val t s⟩
    obtain ⟨hunits, hflt, hwell, hled⟩ : s'.chk.units = (upd s.chk.units u.castSucc fun x => { x with
          failed := true, selfFails := sat 0xFFFFFFFF (x.selfFails + 1) }) ∧
        s'.flt = { s.flt with correctable := sat 0xFFFFFFFF (s.flt.correctable + 1) } ∧ s'.well = s.well ∧ s'.led = s.led := by
      simpa only [checkedState, Prod.mk.injEq] using hstate
    refine ⟨s', hrun, ?_⟩
    rw [hunits, upd_same, hflt]
    exact ⟨rfl, rfl, sat_eq_min _ _, rfl, hwell, hled⟩

end Sys2Proof.Machine
end

section
/-!
The images of the firmware: activation, staging, and ZEROISE.
-/
namespace Sys2Proof.Machine

theorem onCore_starts {op t cid : Nat} {c : Slot} {k : Slot → State → State} {s : State} (hcore : coreRuns s = true) (h : Starts op cid c s) :
    onCore op t cid k s = .next (k c (startedAt t cid s)) := by
  rw [onCore, if_pos hcore, onStart_starts h]

/-! ### IMAGE_ACTIVATE (R414, R508) -/

/-- What the checks of an image decide for its activation. -/
def activationBegins (c : Slot) (v : ImgVerdict) (slot : Fin 2) (e : Option Nat) (s : State) : State :=
  match e with
  | some e => refuse c (imgStatus e) s
  | none =>
    if slot.val = s.bgd.fwSlot then refuse c Status.slotActive s
    else setImage slot { header := v.header } { s with bgd.act := some { cid := c.cid, slot := slot.val } }

section Activate
variable {t cid : Nat} {c : Slot} {v : ImgVerdict} {slot : Fin 2} {s : State} (hstart : Starts Op.imageActivate cid c s) (hidle : s.bgd.act = none)
  (hcore : coreRuns s = true) (hslot : slot = (if parB c 0 0 then 1 else 0)) (hheld : s.kry.images[slot].empty = false)
  (hstaged : ∀ x, s.kry.staging = some x → x.slot ≠ slot)
include hstart hidle hcore hslot hheld hstaged

/-- With no activation in progress and an image in the slot that no staging fills, the image's own checks decide. -/
theorem imageActivate_judged {e : Option Nat} (hchecks : imgFailure s v = e) : execImageActivate t cid v s = .next (activationBegins c v slot e (startedAt t cid s)) := by
  subst hslot hchecks
  rw [execImageActivate, if_neg (by rw [hidle]; decide), onCore_starts hcore hstart]
  refine congrArg Host.Outcome.next (if_neg ?_)
  rw [Bool.or_eq_true]
  rintro (hempty | hbusy)
  · exact Bool.false_ne_true (hheld.symm.trans hempty)
  · split at hbusy
    · next x hx => exact hstaged x hx (beq_iff_eq.1 hbusy)
    · exact Bool.false_ne_true hbusy

end Activate

/-! ### From the loaded image to the hand-off (R508, R509) -/

/-- What decides over the firmware that runs: the activation, the slot, intake and the commands. -/
def activationState (s : State) : Option Activation × Nat × Bool × List Slot := (s.bgd.act, s.bgd.fwSlot, s.cmd.intakeOpen, s.cmd.slots)

theorem notify_activationState (code detail : Nat) (s : State) : activationState (notify code detail s) = activationState s := by
  rw [notify_frame]; rfl

theorem raise_activationState (code detail : Nat) (s : State) : activationState (raise code detail s) = activationState s := by
  rw [raise_frame]; rfl

theorem granaryUse_activationState (kind inst limit remaining : Nat) (s : State) : activationState (granaryUse kind inst limit remaining s) =
    activationState s := by
  unfold granaryUse
  dsimp only
  split
  · exact notify_activationState _ _ _
  · rfl

theorem skipTime_activationState (d : Nat) (p : Fin 7 → Bool) (s : State) : activationState (skipTime d p s) = activationState s :=
  foldl_keeps activationState (fun s i => by split <;> rfl) _ s

theorem blowFuses_activationState (h : List Byte) (s : State) : activationState (blowFuses h s) = activationState s :=
  foldl_keeps activationState (fun s _ => granaryUse_activationState _ _ _ _ s) _ _

theorem handedOver_intake (cid : Nat) (s : State) : (handedOver cid s).cmd.intakeOpen = s.cmd.intakeOpen := by
  unfold handedOver
  split
  · rfl
  · dsimp only
    repeat' split
    all_goals rfl

theorem sendReply_intake (tr : Transport) (src cid : Nat) (ws : List W64) (s : State) : (sendReply tr src cid ws s).cmd.intakeOpen = s.cmd.intakeOpen := by
  obtain ⟨q, u, o, h⟩ := sendReply_changes tr src cid ws s
  rw [h]

theorem finish_intake (cid status fault : Nat) (ws : List W64) (s : State) : (finish cid status fault ws s).cmd.intakeOpen = s.cmd.intakeOpen := by
  unfold finish
  split
  · rfl
  · split
    · exact handedOver_intake _ _
    · dsimp only
      split
      · exact (handedOver_intake _ _).trans (sendReply_intake _ _ _ _ _)
      · rfl
      · rfl
      · split
        · exact sendReply_intake _ _ _ _ _
        · exact handedOver_intake _ _

theorem finish_bgd (cid status fault : Nat) (ws : List W64) (s : State) : (finish cid status fault ws s).bgd = s.bgd := by rw [finish_frame]

theorem ended_of_slots {cid status : Nat} {s u : State} (h : Ended cid status s) (hslots : u.cmd.slots = s.cmd.slots) : Ended cid status u := by
  rw [Ended, hslots]; exact h

/-- The old image runs on: the activation is over and its command failed with no effect. -/
theorem revertAct_ends (a : Activation) (s : State) : (revertAct a s).bgd.act = none ∧ (revertAct a s).bgd.fwSlot = s.bgd.fwSlot ∧
    Ended a.cid Status.faultNoEffect (revertAct a s) := by
  have hkept : activationState (revertAct a s) = activationState (finish a.cid Status.faultNoEffect FaultCode.fwRevert [] (raise FaultCode.fwRevert 0 (endAct s))) :=
    notify_activationState _ _ _
  have hraised := raise_activationState FaultCode.fwRevert 0 (endAct s)
  simp only [activationState, Prod.mk.injEq, finish_bgd] at hkept hraised
  obtain ⟨hact, hslot, -, hslots⟩ := hkept
  exact ⟨hact.trans hraised.1, hslot.trans hraised.2.1, ended_of_slots (finish_ended _ _ _ _ _) hslots⟩

/-- The new image runs: its command is Done, intake is open again (R508). -/
def handedOff (a : Activation) (s : State) : State :=
  blowFuses (slotHeader s a.slot) (notify Notice.fwActivated (put a.slot 48 + imgVersion (slotHeader s a.slot))
    (skipTime (s.now - a.t1) (fun _ => true) (finish a.cid Status.done 0 [] (endAct { s with
      bgd.fwSlot := a.slot,
      fwVersion := if a.slot = 0 then s.fwVersion.set 0 (imgVersion (slotHeader s a.slot)) else s.fwVersion.set 1 (imgVersion (slotHeader s a.slot)) }))))

theorem handedOff_runs (a : Activation) (s : State) : (handedOff a s).bgd.act = none ∧ (handedOff a s).cmd.intakeOpen = true ∧
    (handedOff a s).bgd.fwSlot = a.slot ∧ Ended a.cid Status.done (handedOff a s) := by
  have hkept : activationState (handedOff a s) = activationState (finish a.cid Status.done 0 [] (endAct { s with
      bgd.fwSlot := a.slot,
      fwVersion := if a.slot = 0 then s.fwVersion.set 0 (imgVersion (slotHeader s a.slot)) else s.fwVersion.set 1 (imgVersion (slotHeader s a.slot)) })) :=
    (blowFuses_activationState _ _).trans ((notify_activationState _ _ _).trans (skipTime_activationState _ _ _))
  simp only [activationState, Prod.mk.injEq, finish_bgd, finish_intake] at hkept
  obtain ⟨hact, hslot, hintake, hslots⟩ := hkept
  exact ⟨hact, hintake, hslot, ended_of_slots (finish_ended _ _ _ _ _) hslots⟩

section Running
variable {t : Nat} {a : Activation} {s : State} (hact : s.bgd.act = some a) (hkeeps : s.bgd.takeover = false)
include hact hkeeps

theorem fwImageLoaded_eq (hstage : a.stage = .reading) (ok : Bool) : execFwImageLoaded t ok s = .next
    (if ok then { advance t s with bgd.act := some { a with stage := .loaded, t1 := (advance t s).now }, cmd.intakeOpen := false }
    else finish a.cid Status.imageSignature 0 [] (endAct (advance t s))) := by
  have hact' : (advance t s).bgd.act = some a := hact
  have hguard : (a.stage != .reading || (advance t s).bgd.takeover) = false := by rw [hstage]; exact hkeeps
  simp only [execFwImageLoaded, onEvent, hact', hguard, Bool.false_eq_true, if_false]

theorem fwHandoff_eq (hstage : a.stage = .loaded) (hquiet : othersRun s a = false) (hboundary : boundaryCame (advance t s) a.t1 = true)
    (readable replies : Bool) : execFwHandoff t readable replies s = .next
      (if !readable then revertAct a (advance t s)
      else if !replies then { advance t s with bgd.act := some { a with stage := .handed, t2 := a.t1, t3 := (advance t s).now } }
      else handedOff a (advance t s)) := by
  have hact' : (advance t s).bgd.act = some a := hact
  have hfrom : (if a.stage == .paused then a.t2 else a.t1) = a.t1 := by rw [hstage]; rfl
  have hguard : (!(a.stage == .loaded || a.stage == .paused) || (advance t s).bgd.takeover || othersRun (advance t s) a ||
      !boundaryCame (advance t s) a.t1) = false := by
    rw [hstage, hboundary, show (advance t s).bgd.takeover = false from hkeeps, show othersRun (advance t s) a = false from hquiet]; rfl
  simp only [execFwHandoff, onEvent, hact', hfrom, hguard, Bool.false_eq_true, if_false]
  rfl

theorem fwBusyTimeout_eq (hstage : a.stage = .loaded) (hbusy : othersRun s a = true) (hdue : a.t1 + 2000000000 ≤ (advance t s).now) :
    execFwActivateBusyTimeout t s = .next (finish a.cid Status.imageBusy 0 [] (endAct (advance t s))) := by
  have hact' : (advance t s).bgd.act = some a := hact
  have hguard : (a.stage == .loaded && !(advance t s).bgd.takeover && othersRun (advance t s) a &&
      decide (a.t1 + 2000000000 ≤ (advance t s).now)) = true := by
    rw [hstage, show (advance t s).bgd.takeover = false from hkeeps, show othersRun (advance t s) a = true from hbusy, decide_eq_true hdue]; rfl
  simp only [execFwActivateBusyTimeout, onEvent, hact', hguard, if_true]

theorem fwReplyTimeout_eq (hstage : a.stage = .handed) (hdue : a.t3 + 5000000000 ≤ (advance t s).now) :
    execFwReplyTimeout t s = .next (revertAct a (advance t s)) := by
  have hact' : (advance t s).bgd.act = some a := hact
  have hguard : (a.stage == .handed && !(advance t s).bgd.takeover && decide (a.t3 + 5000000000 ≤ (advance t s).now)) = true := by
    rw [hstage, show (advance t s).bgd.takeover = false from hkeeps, decide_eq_true hdue]; rfl
  simp only [execFwReplyTimeout, onEvent, hact', hguard, if_true]

end Running

/-! ### IMAGE_STAGE, IMAGE_SLOT_WRITTEN and ZEROISE (R413, R431, R433) -/

section Stage
variable {t cid : Nat} {c : Slot} {v : ImgVerdict} {slot : Fin 2} {r : Fin 16} {s : State} (hcore : coreRuns s = true)
  (hstart : Starts Op.imageStage cid c s) (hslot : slot = (if parB c 0 0 then 1 else 0)) (hother : slot.val ≠ s.bgd.fwSlot) (hring : parN c 1 = r.val)
  (hin : inRing s r.val = true)
include hcore hstart hslot hother hring hin

theorem imageStage_takesIn (hgood : imgFailure s v = none) : execImageStage t cid v s = .next
    (modWork r (fun w => { w with input := c.cid, inAddr := 0, inLeft := imgLength v.header, got := [] })
      { startedAt t cid s with kry.staging := some { cid := c.cid, slot := slot, ring := r.val, header := v.header } }) := by
  have hgood' : imgFailure (startedAt t cid s) v = none := hgood
  have hring' : (!inRing (startedAt t cid s) (parN c 1)) = false := by rw [hring, show inRing (startedAt t cid s) r.val = true from hin]; rfl
  subst hslot
  rw [execImageStage, onCore_starts hcore hstart]
  refine congrArg Host.Outcome.next ((if_neg hother).trans ((if_neg (ne_true_of_eq_false hring')).trans ?_))
  simp only [hgood', hring, r.isLt, dif_pos]

theorem imageStage_refuses {e : Nat} (hbad : imgFailure s v = some e) :
    execImageStage t cid v s = .next (refuse c (imgStatus e) (startedAt t cid s)) := by
  have hbad' : imgFailure (startedAt t cid s) v = some e := hbad
  have hring' : (!inRing (startedAt t cid s) (parN c 1)) = false := by rw [hring, show inRing (startedAt t cid s) r.val = true from hin]; rfl
  subst hslot
  rw [execImageStage, onCore_starts hcore hstart]
  refine congrArg Host.Outcome.next ((if_neg hother).trans ((if_neg (ne_true_of_eq_false hring')).trans ?_))
  simp only [hbad']

end Stage

/-- The ring of a staged image serves no command any more. -/
def ringFreed (x : Staging) (s : State) : State :=
  { s with kry.staging := none, bar.work := s.bar.work.map fun w => if w.input = x.cid then { w with input := 0, got := [] } else w }

theorem imageSlotWritten_eq {t : Nat} {x : Staging} {r : Fin 16} {s : State} (hstaging : s.kry.staging = some x) (hring : x.ring = r.val)
    (hall : s.bar.work[r].inLeft = 0) (readBackOk : Bool) : execImageSlotWritten t readBackOk s = .next (if readBackOk then
        finish x.cid Status.done 0 [] (setImage x.slot { header := x.header }
          { ringFreed x (advance t s) with fwVersion := s.fwVersion.set x.slot (imgVersion x.header) })
      else finish x.cid Status.faultPartial FaultCode.xspiWrite [] (raise FaultCode.xspiWrite 0 (emptyImage x.slot (ringFreed x (advance t s))))) := by
  have hstaging' : (advance t s).kry.staging = some x := hstaging
  have hleft : (if h : x.ring < 16 then ((advance t s).bar.work[x.ring]'h).inLeft else 0) = 0 := by
    rw [dif_pos (hring ▸ r.isLt)]
    simp only [hring]
    exact hall
  simp only [execImageSlotWritten, onEvent, hstaging', hleft, ne_eq, not_true_eq_false, if_false]
  rfl

/-- Settles O34: each stage of an activation is one equation, and each of its ends keeps what `activationState` says. -/
theorem imagesAreHandled : Obligations.ImagesAreHandled := by
  refine ⟨⟨fun t cid c v slot s hstart hidle hcore hslot hheld hstaged => ⟨fun hgood hother => ?_, fun e hbad => ?_⟩,
    fun t a s hact hkeeps => ⟨fun hstage => ⟨fwImageLoaded_eq hact hkeeps hstage true, fwImageLoaded_eq hact hkeeps hstage false⟩,
      fun hstage hquiet hboundary => ⟨⟨_, fwHandoff_eq hact hkeeps hstage hquiet hboundary true true, handedOff_runs a _⟩,
        fun r => ⟨_, fwHandoff_eq hact hkeeps hstage hquiet hboundary false r, revertAct_ends a _⟩,
        fwHandoff_eq hact hkeeps hstage hquiet hboundary true false⟩,
      fwBusyTimeout_eq hact hkeeps, fun hstage hdue => ⟨_, fwReplyTimeout_eq hact hkeeps hstage hdue, revertAct_ends a _⟩⟩⟩,
    fun t cid c s hcore => ⟨fun v slot r hstart hslot hother hring hin => ⟨fun hgood => ⟨_, imageStage_takesIn hcore hstart hslot hother hring hin hgood, ?staged⟩,
      fun e hbad => imageStage_refuses hcore hstart hslot hother hring hin hbad⟩, fun hstart hlatch => ⟨fun hconst => ?zeroise, fun hconst => ?refused⟩⟩,
    fun t x r s hstaging hring hall => ⟨⟨_, imageSlotWritten_eq hstaging hring hall true, ?written⟩, ⟨_, imageSlotWritten_eq hstaging hring hall false, ?emptied⟩⟩⟩
  · exact (imageActivate_judged hstart hidle hcore hslot hheld hstaged hgood).trans (congrArg Host.Outcome.next (if_neg hother))
  · exact imageActivate_judged hstart hidle hcore hslot hheld hstaged hbad
  case staged =>
    refine ⟨rfl, ?_⟩
    simp only [modWork, upd_same]
    exact ⟨trivial, trivial, trivial, rfl⟩
  case zeroise =>
    have hzero : Zeroised 8 (startedAt t cid s) (zeroise 8 (startedAt t cid s)) := zeroise_zeroised hlatch
    exact ⟨_, (onCore_starts hcore hstart).trans (congrArg Host.Outcome.next (if_neg (not_not.2 hconst))),
      hzero.latch, hzero.keys, hzero.jobKeys, hzero.creds, hzero.sessions, hzero.slots, hzero.intake, hzero.well⟩
  case refused => exact (onCore_starts hcore hstart).trans (congrArg Host.Outcome.next (if_pos hconst))
  case written =>
    rw [if_pos rfl, finish_kry, finish_frame]
    exact ⟨rfl, rfl, rfl, finish_frame _ _ _ _ _ ▸ finish_ended _ _ _ _ _⟩
  case emptied =>
    rw [if_neg Bool.false_ne_true]
    refine ⟨?_, ?_, finish_ended _ _ _ _ _⟩
    · rw [finish_kry, raise_frame]; rfl
    · rw [finish_kry, raise_frame]; rfl

end Sys2Proof.Machine
end

section
/-!
Events of the Crier and interrupts.
-/
namespace Sys2Proof.Machine

/-! ### Interrupts (R81, R82) -/

theorem getLsbD_twoPow {i j : Nat} (hj : j < 64) : (BitVec.ofNat 64 (2 ^ i)).getLsbD j = decide (i = j) := by
  rw [BitVec.getLsbD_ofNat, Nat.testBit_two_pow]
  simp [hj]

theorem setInt_bit {i : Nat} (j : Fin 64) (s : State) :
    (setInt i s).bar.intStatus.getLsbD j.val = (s.bar.intStatus.getLsbD j.val || decide (i = j.val)) := by
  rw [setInt_bar, BitVec.getLsbD_or, getLsbD_twoPow j.isLt]

/-- A state in which a cause stands in INT_STATUS. -/
def intMarked (i : Nat) (s : State) : State := { s with bar.intStatus := s.bar.intStatus ||| BitVec.ofNat 64 (2 ^ i) }

theorem setInt_again {i : Nat} {s : State} (h : s.bar.intStatus.getLsbD i = true) :
    setInt i s = intMarked i s := by
  simp [setInt, intMarked, h]

theorem setInt_sends {i : Nat} {s : State} (hwas : s.bar.intStatus.getLsbD i = false) (hon : s.bar.intEnable.getLsbD i = true) :
    setInt i s = sendVector (intVectorOf s.bar i) (intMarked i s) := by
  unfold setInt
  dsimp only
  rw [hwas, hon]
  rfl

theorem sendVector_masked {v : Fin 32} {s : State} (h : s.bar.msix[v].masked = true) :
    sendVector v.val s = { s with bar.pba := s.bar.pba ||| 2 ^ v.val } := by
  rw [sendVector, dif_pos v.isLt]
  exact if_pos h

theorem sendVector_open {v : Fin 32} {s : State} (h : s.bar.msix[v].masked = false) : sendVector v.val s = emit (.msi v.val) s := by
  rw [sendVector, dif_pos v.isLt]
  exact if_neg (ne_true_of_eq_false h)

/-! ### The queue of the Crier (R513 to R515, R571) -/

/-- The Crier in the second of an event: the counts of an earlier second are gone. -/
def inSecondOf (e : Event) (s : State) : State :=
  { s with cri.sec := stampSec e.time, cri.sent := if stampSec e.time = s.cri.sec then s.cri.sent else Vector.replicate 5 0 }

theorem crierPut_masked {e : Event} {s : State} (h : bit s.cri.mask e.cls = false) : crierPut e s = inSecondOf e s := by
  unfold crierPut
  dsimp only
  rw [h]
  rfl

theorem crierPut_limited {e : Event} {s : State} (hcls : e.cls < 5) (hmask : bit s.cri.mask e.cls = true)
    (hlimit : s.cri.rate ≤ (inSecondOf e s).cri.sent[e.cls]) : crierPut e s = { inSecondOf e s with cri.lost := s.cri.lost + 1 } := by
  unfold crierPut
  dsimp only
  rw [hmask, Bool.not_true, if_neg Bool.false_ne_true, dif_pos hcls]
  exact if_pos hlimit

theorem setInt_cri (i : Nat) (s : State) : (setInt i s).cri = s.cri := by rw [setInt_frame]

theorem crierPut_queues {e : Event} {s : State} (hcls : e.cls < 5) (hmask : bit s.cri.mask e.cls = true)
    (hlimit : (inSecondOf e s).cri.sent[e.cls] < s.cri.rate) (hroom : s.cri.queue.length < 3840) :
    (crierPut e s).cri.queue = s.cri.queue ++ [e] ∧ (crierPut e s).cri.lost = s.cri.lost := by
  have hopen : ¬ s.cri.rate ≤ (if stampSec e.time = s.cri.sec then s.cri.sent else Vector.replicate 5 0)[e.cls] := Nat.not_le.2 hlimit
  unfold crierPut
  dsimp only
  rw [hmask, Bool.not_true, if_neg Bool.false_ne_true, dif_pos hcls, if_neg hopen, if_pos (.inl hroom)]
  split
  · rw [setInt_cri]; exact ⟨rfl, rfl⟩
  · exact ⟨rfl, rfl⟩

/-- Settles O6: the Crier's branches each have their equation, and an interrupt's message goes through `sendVector`. -/
theorem eventsQueueAndInterrupt : Obligations.EventsQueueAndInterrupt := by
  refine ⟨fun e s hcls => ⟨fun hmask => ?_, fun hmask hsec hlimit => ?_, fun hmask hsec hrate hroom => ?_⟩,
    fun i s => ⟨setInt_sets (by omega) s, fun j hj => ?_, fun hwas => ?_, fun v hv hwas hon => ⟨fun hopen => ?_, fun hmasked => ?_⟩, setInt_frame _ _⟩⟩
  · rw [crierPut_masked hmask]; exact ⟨rfl, rfl⟩
  · have hsent : s.cri.rate ≤ (inSecondOf e s).cri.sent[e.cls] := by
      simpa [inSecondOf, hsec, hcls] using hlimit
    rw [crierPut_limited hcls hmask hsent]; exact ⟨rfl, rfl⟩
  · have hsent : (inSecondOf e s).cri.sent[e.cls] < s.cri.rate := by
      simpa [inSecondOf, hsec] using hrate
    exact crierPut_queues hcls hmask hsent hroom
  · rw [setInt_bit, decide_eq_false (Ne.symm hj), Bool.or_false]
  · rw [setInt_again hwas]; exact ⟨rfl, rfl⟩
  · rw [setInt_sends hwas hon, hv, sendVector_open (s := intMarked i.val s) hopen]; exact ⟨rfl, rfl⟩
  · rw [setInt_sends hwas hon, hv, sendVector_masked (s := intMarked i.val s) hmasked]; exact ⟨rfl, rfl⟩

end Sys2Proof.Machine
end

section
/-!
What the scheduler's work, the counts of the Ledger scrub and the Well keep of all that commands, products and replays do.
-/
namespace Sys2Proof.Machine

/-- The background state, the number of the Ledger scrub's pass, and the Well. -/
def upkeepOf (s : State) : Background × Nat × Well := (s.bgd, s.led.pass, s.well)

theorem raise_upkeep (code detail : Nat) (s : State) : upkeepOf (raise code detail s) = upkeepOf s := by
  rw [raise_frame]; rfl

theorem notify_upkeep (code detail : Nat) (s : State) : upkeepOf (notify code detail s) = upkeepOf s := by
  rw [notify_frame]; rfl

theorem event_upkeep (code cls detail : Nat) (s : State) : upkeepOf (event code cls detail s) = upkeepOf s := by
  rw [event_frame]; rfl

theorem finish_upkeep (cid status fault : Nat) (ws : List W64) (s : State) : upkeepOf (finish cid status fault ws s) = upkeepOf s := by
  rw [finish_frame]; rfl

/-! ### Records and products (R108, R112, R308, R318) -/

theorem writePart_upkeep (n kind : Nat) (s : State) : upkeepOf (writePart n kind s) = upkeepOf s := by
  unfold writePart ledgerWrite
  split
  · rfl
  · dsimp only
    split
    · rw [uraraSend_frame]; rfl
    · rfl

theorem exportPart_upkeep (n kind : Nat) (s : State) : upkeepOf (exportPart n kind s) = upkeepOf s := by
  unfold exportPart
  split <;> rfl

theorem settleManifests_upkeep (s : State) : upkeepOf (settleManifests s) = upkeepOf s :=
  (foldl_keeps upkeepOf (fun s _ => finish_upkeep _ _ _ _ s) _ _).trans (foldl_keeps upkeepOf (by intros; rfl) _ s)

theorem finalise_upkeep (n kind reason fault grade : Nat) (s : State) : upkeepOf (finalise n kind reason fault grade s) = upkeepOf s := by
  unfold finalise
  split
  · rfl
  · split
    · rfl
    · exact (settleManifests_upkeep _).trans ((exportPart_upkeep _ _ _).trans (writePart_upkeep _ _ _))

theorem voidRec_upkeep (reason fault n : Nat) (s : State) : upkeepOf (voidRec reason fault n s) = upkeepOf s := finalise_upkeep _ _ _ _ _ s

theorem voidProduct_upkeep (n reason fault : Nat) (s : State) : upkeepOf (voidProduct n reason fault s) = upkeepOf s := by
  have hrecs : upkeepOf (voidRecs n reason fault (setFlag n 0 s)) = upkeepOf s := foldl_keeps upkeepOf (fun s _ => voidRec_upkeep _ _ _ s) _ _
  unfold voidProduct
  dsimp only
  split
  · exact hrecs
  · refine (foldl_keeps upkeepOf (fun s g => ?_) _ _).trans hrecs
    split
    · split <;> rfl
    · rfl

theorem voidFault_upkeep (n fault : Nat) (s : State) : upkeepOf (voidFault n fault s) = upkeepOf s :=
  (voidProduct_upkeep _ _ _ _).trans (raise_upkeep _ _ s)

theorem closeRecords_upkeep (p : Product) (s : State) : upkeepOf (closeRecords p s) = upkeepOf s := by
  refine foldl_keeps upkeepOf (fun s r => ?_) _ s
  repeat' split
  · rfl
  all_goals exact finalise_upkeep _ _ _ _ _ s

theorem settleSwitch_upkeep (s : State) : upkeepOf (settleSwitch s) = upkeepOf s := by
  unfold settleSwitch
  repeat' split
  · exact notify_upkeep _ _ _
  all_goals rfl

theorem settleProduct_upkeep (n : Nat) (s : State) : upkeepOf (settleProduct n s) = upkeepOf s := by
  unfold settleProduct
  split
  · rfl
  · next p _ =>
    split
    · rfl
    · refine (settleSwitch_upkeep _).trans ((closeRecords_upkeep p _).trans ?_)
      split
      · exact notify_upkeep _ _ s
      · rfl

/-! ### A fault that clears (R302, R541, R548) -/

theorem judgePool_upkeep (pool : Nat) (s : State) : upkeepOf (judgePool pool s) = upkeepOf s := by
  unfold judgePool
  split
  · rfl
  · split
    · exact notify_upkeep _ _ _
    · split <;> rfl

theorem abandonGrant_upkeep (pool : Nat) (g : Grant) (s : State) : upkeepOf (abandonGrant pool g s) = upkeepOf s := by
  unfold abandonGrant
  split
  · rfl
  · dsimp only
    split <;> rfl

theorem abandonAll_upkeep (s : State) : upkeepOf (abandonAll s) = upkeepOf s :=
  foldl_keeps upkeepOf (fun s _ => (judgePool_upkeep _ _).trans (foldl_keeps upkeepOf (fun s _ => abandonGrant_upkeep _ _ s) _ s)) _ s

theorem voidLost_upkeep (code : Option Nat) (s : State) (n : Nat) : upkeepOf (voidLost code s n) = upkeepOf s := by
  unfold voidLost
  dsimp only
  split
  · exact (event_upkeep _ _ _ _).trans (voidProduct_upkeep _ _ _ s)
  · exact voidProduct_upkeep _ _ _ s

theorem voidDamaged_upkeep (s : State) : upkeepOf (voidDamaged s) = upkeepOf s := foldl_keeps upkeepOf (fun s n => voidRec_upkeep _ _ n s) _ s

theorem voidOrphans_upkeep (s : State) : upkeepOf (voidOrphans s) = upkeepOf s := foldl_keeps upkeepOf (fun s n => voidRec_upkeep _ _ n s) _ s

theorem settleAll_upkeep (s : State) : upkeepOf (settleAll s) = upkeepOf s := foldl_keeps upkeepOf (fun s n => settleProduct_upkeep n s) _ s

theorem replay_upkeep (code : Option Nat) (s : State) : upkeepOf (replay code s) = upkeepOf s := by
  have hrestart : ∀ u : State, upkeepOf (keepWaiting (restartLines u)) = upkeepOf u := fun _ => rfl
  exact (settleAll_upkeep _).trans ((hrestart _).trans ((abandonAll_upkeep _).trans ((voidOrphans_upkeep _).trans
    ((foldl_keeps upkeepOf (voidLost_upkeep code) _ _).trans (voidDamaged_upkeep s)))))

theorem clearFault_upkeep (code : Nat) (s : State) : upkeepOf (clearFault code s) = upkeepOf s := by
  unfold clearFault
  split
  · dsimp only
    split
    · exact replay_upkeep _ _
    · rfl
  · rfl

/-! ### Sectors of the Ledger (R482, R484, R486) -/

theorem failSector_upkeep (phys : Nat) (s : State) : upkeepOf (failSector phys s) = upkeepOf s := by
  unfold failSector
  split <;> rfl

theorem countWrite_upkeep (phys : Nat) (s : State) : upkeepOf (countWrite phys s) = upkeepOf s := by
  unfold countWrite
  dsimp only
  repeat' split
  · exact failSector_upkeep _ _
  · exact failSector_upkeep _ _
  · rfl
  · rfl

theorem rewriteAged_upkeep (logical : Nat) (s : State) : upkeepOf (rewriteAged logical s) = upkeepOf s := by
  unfold rewriteAged
  dsimp only
  split
  · exact countWrite_upkeep _ _
  · rfl

theorem correctedSector_upkeep (phys : Nat) (s : State) : upkeepOf (correctedSector phys s) = upkeepOf s := by
  unfold correctedSector
  split
  · exact failSector_upkeep _ _
  · split <;> rfl

theorem configLost_upkeep {f : State → State} (hf : ∀ s, upkeepOf (f s) = upkeepOf s) (both : Bool) (s : State) :
    upkeepOf (configLost both f s) = upkeepOf s := by
  unfold configLost
  split
  · exact (raise_upkeep _ _ _).trans (hf s)
  · rfl

theorem breakConfig_upkeep (h : LedgerHit) (s : State) : upkeepOf (breakConfig h s) = upkeepOf s := rfl

theorem slotLost_upkeep (slot : Nat) (s : State) : upkeepOf (slotLost slot s) = upkeepOf s := by
  refine foldl_keeps upkeepOf (fun s r => ?_) _ s
  dsimp only
  split
  · exact raise_upkeep _ _ _
  · exact voidFault_upkeep _ _ _

theorem ledgerHit_upkeep (h : LedgerHit) (s : State) : upkeepOf (ledgerHit h s) = upkeepOf s := by
  cases h with
  | journal slot => exact slotLost_upkeep slot s
  | cal item =>
    unfold ledgerHit
    dsimp only
    split
    · exact raise_upkeep _ _ _
    · rfl
  | key id both =>
    unfold ledgerHit
    dsimp only
    repeat' split
    · rfl
    · exact raise_upkeep _ _ _
    · exact raise_upkeep _ _ _
  | net q both => exact configLost_upkeep (breakConfig_upkeep _) _ s
  | motion both => exact configLost_upkeep (breakConfig_upkeep _) _ s
  | stall k both => exact configLost_upkeep (breakConfig_upkeep _) _ s
  | check q both => exact configLost_upkeep (breakConfig_upkeep _) _ s
  | numbers both => exact configLost_upkeep (f := fun s => { s with led.badSaved := true }) (fun _ => rfl) _ s
  | other both => exact configLost_upkeep (f := id) (fun _ => rfl) _ s

/-- An uncorrectable word of a calibration item makes the item invalid (R482). -/
theorem ledgerHit_cal (item : Nat) (s : State) : ∀ x ∈ (ledgerHit (.cal item) s).led.items, x.item = item → x.valid = false := by
  intro x hx hitem
  unfold ledgerHit at hx
  dsimp only at hx
  split at hx
  · rw [raise_frame] at hx
    obtain ⟨y, -, rfl⟩ := List.mem_map.1 hx
    by_cases hy : (y.item == item) = true
    · simp only [hy, if_true]
    · simp only [hy, Bool.false_eq_true, if_false] at hitem
      exact absurd (beq_iff_eq.2 hitem) hy
  · next hnone =>
    have hall := List.any_eq_false.1 (eq_false_of_ne_true hnone) x hx
    simpa [hitem] using hall

end Sys2Proof.Machine
end

section
/-!
The background tasks, and the statement about them.
-/
namespace Sys2Proof.Machine

/-! ### SCRUB_CONFIG and BACKGROUND_LATE (R468, R498, R499) -/

/-- The settings that SCRUB_CONFIG names. -/
def scrubCfgOf (c : Slot) : ScrubCfg :=
  { wellPeriod := parF c 0 15 0, srIdle := parF c 0 47 32, sramPeriod := parF c 1 10 0, ledgerPeriod := parF c 1 18 16,
    recalPeriod := parF c 1 40 32, testPeriod := parF c 1 58 48, bgShare := parF c 2 5 0, recalEnable := parB c 2 16 }

/-- Settings of SCRUB_CONFIG that are in range. -/
def scrubCfgOk (x : ScrubCfg) : Bool := within 1 169 x.wellPeriod && within 10 1441 x.sramPeriod && within 1 8 x.ledgerPeriod &&
  within 1 366 x.recalPeriod && within 10 1441 x.testPeriod && within 1 51 x.bgShare

theorem within_iff {start stop x : Nat} : within start stop x = true ↔ start ≤ x ∧ x < stop := by
  simp only [within, Bool.and_eq_true, decide_eq_true_eq]

theorem scrubConfig_sets {t cid : Nat} {c : Slot} {s : State} (h : Starts Op.scrubConfig cid c s) (hok : scrubCfgOk (scrubCfgOf c) = true) :
    execScrubConfig t cid s = .next (done c { startedAt t cid s with bgd.cfg := scrubCfgOf c }) :=
  (onStart_starts h).trans (congrArg Host.Outcome.next (if_pos hok))

theorem modTask_same (i : Fin 7) (f : Task → Task) (s : State) : (modTask i f s).bgd.tasks[i] = f s.bgd.tasks[i] := upd_same _ _ _

/-- Whether a pass in progress that nothing holds back is complete too late (R499). -/
def passIsLate (i : Fin 7) (s : State) : Bool :=
  s.bgd.tasks[i].running && schedulerRuns s && !taskShed s i &&
    decide (s.bgd.tasks[i].started + (s.bgd.tasks[i].lates + 1) * s.bgd.tasks[i].period + s.bgd.tasks[i].paused ≤ s.now)

theorem passIsLate_iff {t : Nat} {i : Fin 7} {s : State} (hrun : s.bgd.tasks[i].running = true) (hsched : schedulerRuns s = true)
    (hshed : taskShed (advance t s) i = false) : passIsLate i (advance t s) =
      decide (s.bgd.tasks[i].started + (s.bgd.tasks[i].lates + 1) * s.bgd.tasks[i].period + s.bgd.tasks[i].paused ≤ (advance t s).now) := by
  have hrun' : (advance t s).bgd.tasks[i].running = true := hrun
  have hsched' : schedulerRuns (advance t s) = true := hsched
  rw [passIsLate, hrun', hsched', hshed]
  rfl

/-- A late pass counted for its period. -/
def lateCounted (i : Fin 7) (s : State) : State := modTask i (fun x => { x with lates := x.lates + 1, late := sat 0xFFFF (x.late + 1) }) s

theorem backgroundLate_reports {t : Nat} {i : Fin 7} {s : State} (h : passIsLate i (advance t s) = true) :
    execBackgroundLate t i s = .next (notify Notice.backgroundLate (i.val + 1) (lateCounted i (advance t s))) :=
  congrArg Host.Outcome.next (if_pos h)

theorem backgroundLate_quiet {t : Nat} {i : Fin 7} {s : State} (h : passIsLate i (advance t s) = false) :
    execBackgroundLate t i s = .next (advance t s) := congrArg Host.Outcome.next (if_neg (ne_true_of_eq_false h))

/-! ### Passes begin and end (R497, R517) -/

theorem beginTask_running (i : Fin 7) (s : State) : (beginTask i s).bgd.tasks[i].running = true := by
  unfold beginTask
  split
  · assumption
  · rw [modTask_same]

theorem taskAt_running (i : Fin 7) (n m : Nat) (s : State) : (taskAt i n m s).bgd.tasks[i].running = s.bgd.tasks[i].running := by
  rw [taskAt, modTask_same]

theorem endTask_running (i : Fin 7) (s : State) : (endTask i s).bgd.tasks[i].running = false := by
  rw [endTask, modTask_same]

/-- What the start of a pass leaves: all but the record of the tasks. -/
theorem beginTask_tasks (i : Fin 7) (s : State) : ∃ v, beginTask i s = { s with bgd.tasks := v } := by
  unfold beginTask
  split
  · exact ⟨_, rfl⟩
  · exact ⟨_, rfl⟩

/-! ### The Ledger scrub (R482, R484, R486) -/

/-- What the Ledger scrub does with what it found in a sector. -/
def sectorRead (sector : Nat) (corrected : Bool) (bad : Option LedgerHit) (s : State) : State :=
  let s := ((List.range (sector + 1)).drop s.led.scrubPos).foldl (fun s l => rewriteAged l s) s
  let p := physSector s sector
  let s := if corrected then correctedSector p s else s
  match bad with | some h => ledgerHit h (failSector p s) | none => s

theorem sectorRead_upkeep (sector : Nat) (corrected : Bool) (bad : Option LedgerHit) (s : State) : upkeepOf (sectorRead sector corrected bad s) = upkeepOf s := by
  have haged : ∀ (l : List Nat) (u : State), upkeepOf (l.foldl (fun s l => rewriteAged l s) u) = upkeepOf u := fun l u =>
    foldl_keeps upkeepOf (fun s n => rewriteAged_upkeep n s) l u
  have hcorrected : ∀ (p : Nat) (u : State), upkeepOf (if corrected then correctedSector p u else u) = upkeepOf u := fun p u => by
    split
    · exact correctedSector_upkeep p u
    · rfl
  unfold sectorRead
  cases bad with
  | some h => exact (ledgerHit_upkeep h _).trans ((failSector_upkeep _ _).trans ((hcorrected _ _).trans (haged _ _)))
  | none => exact (hcorrected _ _).trans (haged _ _)

theorem sectorRead_cal (sector : Nat) (corrected : Bool) (item : Nat) (s : State) :
    ∀ x ∈ (sectorRead sector corrected (some (.cal item)) s).led.items, x.item = item → x.valid = false := ledgerHit_cal item _

/-- The scrub goes on to the next sector, or ends its pass (R482). -/
def scrubGoesOn (sector : Nat) (s : State) : State :=
  if sector = 4095 then endTask 1 { s with led.scrubPos := 0, led.pass := s.led.pass + 1 }
  else taskAt 1 (sector + 1) 4096 { s with led.scrubPos := sector + 1 }

theorem ledgerScrub_reads {t sector : Nat} {corrected : Bool} {bad : Option LedgerHit} {s : State} (hruns : taskRuns (advance t s) 1 = true)
    (hpos : s.led.scrubPos ≤ sector) (hsector : sector < 4096) : execLedgerScrub t sector corrected bad s =
      .next (scrubGoesOn sector (sectorRead sector corrected bad (beginTask 1 (advance t s)))) := by
  have hguard : (taskRuns (advance t s) 1 && decide ((advance t s).led.scrubPos ≤ sector) && decide (sector < 4096)) = true := by
    rw [hruns, decide_eq_true (show (advance t s).led.scrubPos ≤ sector from hpos), decide_eq_true hsector]; rfl
  exact congrArg Host.Outcome.next (if_pos hguard)

theorem scrubGoesOn_next {sector : Nat} (h : sector < 4095) (s : State) : (scrubGoesOn sector s).led.scrubPos = sector + 1 ∧
    (scrubGoesOn sector s).led.pass = s.led.pass ∧ (scrubGoesOn sector s).bgd.tasks[1].running = s.bgd.tasks[1].running := by
  rw [scrubGoesOn, if_neg (Nat.ne_of_lt h)]
  exact ⟨rfl, rfl, taskAt_running _ _ _ _⟩

theorem scrubGoesOn_last (s : State) : (scrubGoesOn 4095 s).led.scrubPos = 0 ∧ (scrubGoesOn 4095 s).led.pass = s.led.pass + 1 ∧
    (scrubGoesOn 4095 s).bgd.tasks[1].running = false := by
  rw [scrubGoesOn, if_pos rfl]
  exact ⟨rfl, rfl, endTask_running _ _⟩

theorem scrubGoesOn_leaves (sector : Nat) (s : State) : (scrubGoesOn sector s).led.items = s.led.items ∧ (scrubGoesOn sector s).well = s.well := by
  unfold scrubGoesOn
  split <;> exact ⟨rfl, rfl⟩

/-- What the sector read by the scrub has shown, seen from the state before it. -/
theorem sectorRead_leaves (t sector : Nat) (corrected : Bool) (bad : Option LedgerHit) (s : State) :
    (sectorRead sector corrected bad (beginTask 1 (advance t s))).bgd.tasks[1].running = true ∧
    (sectorRead sector corrected bad (beginTask 1 (advance t s))).led.pass = s.led.pass ∧
    (sectorRead sector corrected bad (beginTask 1 (advance t s))).well = s.well := by
  have hkept := sectorRead_upkeep sector corrected bad (beginTask 1 (advance t s))
  have hrunning := beginTask_running 1 (advance t s)
  obtain ⟨v, hbegin⟩ := beginTask_tasks 1 (advance t s)
  simp only [upkeepOf, Prod.mk.injEq] at hkept
  obtain ⟨hbgd, hpass, hwell⟩ := hkept
  exact ⟨hbgd ▸ hrunning, hpass.trans (by rw [hbegin]; rfl), hwell.trans (by rw [hbegin]; rfl)⟩

/-! ### SRAM rows (R503, R504) -/

/-- What the scrub of the SRAM reads and leaves: the records of the arrays, the pass and the Well. -/
def arraysOfState (s : State) : List SramArray × Nat × Well := (s.bgd.sram, s.bgd.sramPass, s.well)

theorem arrays_of_upkeep {s t : State} (h : upkeepOf t = upkeepOf s) : arraysOfState t = arraysOfState s := by
  simp only [upkeepOf, Prod.mk.injEq] at h
  obtain ⟨hbgd, -, hwell⟩ := h
  rw [arraysOfState, hbgd, hwell]; rfl

theorem granaryUse_arrays (kind inst limit remaining : Nat) (s : State) : arraysOfState (granaryUse kind inst limit remaining s) = arraysOfState s := by
  unfold granaryUse
  dsimp only
  split
  · exact (arrays_of_upkeep (notify_upkeep _ _ _)).trans rfl
  · rfl

theorem notify_arrays (code detail : Nat) (s : State) : arraysOfState (notify code detail s) = arraysOfState s := arrays_of_upkeep (notify_upkeep _ _ _)

theorem sramOf_of_arrays {s t : State} (h : arraysOfState t = arraysOfState s) (a : Nat) : sramOf t a = sramOf s a := by
  rw [sramOf, show t.bgd.sram = s.bgd.sram from congrArg Prod.fst h]; rfl

theorem sramOf_array (s : State) (a : Nat) : (sramOf s a).array = a := by
  unfold sramOf
  cases h : s.bgd.sram.find? fun x => x.array == a with
  | none => rfl
  | some x =>
    have hfound := List.find?_some h
    simpa using hfound

theorem sramOf_putSram (x : SramArray) (s : State) : sramOf (putSram x s) x.array = x := by
  have hgone : (s.bgd.sram.filter fun y => y.array != x.array).find? (fun y => y.array == x.array) = none :=
    List.find?_eq_none.2 fun y hy => by simpa using (List.mem_filter.1 hy).2
  simp [sramOf, putSram, List.find?_append, hgone]

/-- What moves a row leaves: the pass of the scrub and the Well. -/
def passAndWell (s : State) : Nat × Well := (s.bgd.sramPass, s.well)

theorem passAndWell_of_arrays {s t : State} (h : arraysOfState t = arraysOfState s) : passAndWell t = passAndWell s := congrArg Prod.snd h

theorem putSram_passAndWell (x : SramArray) (s : State) : passAndWell (putSram x s) = passAndWell s := rfl

theorem notify_passAndWell (code detail : Nat) (s : State) : passAndWell (notify code detail s) = passAndWell s :=
  passAndWell_of_arrays (notify_arrays _ _ _)

/-- The record of an array whose row has been moved. -/
def rowMoved (row : Nat) (x : SramArray) : SramArray := { x with remaps := x.remaps ++ [row], seen := x.seen.filter fun e => e.1 != row }

/-- A row is moved and reported, and the use of the spare rows is counted (R503). -/
def rowSpared (a row : Nat) (s : State) : State :=
  let d := Config.sramDomain a % 12
  let s := notify Notice.sramRowSpared (put row 16 + a) (putSram (rowMoved row (sramOf s a)) s)
  let n := 2 * (arraysOf d).length
  granaryUse 8 d (n / 4) (n - (sramUse s d).1) s

theorem rowSpared_arrays (a row : Nat) (s : State) : arraysOfState (rowSpared a row s) = arraysOfState (putSram (rowMoved row (sramOf s a)) s) :=
  (granaryUse_arrays _ _ _ _ _).trans (notify_arrays _ _ _)

theorem repairRow_eq {a row : Nat} {s : State} (hroom : (sramOf s a).remaps.length < 2) : repairRow a row s =
    if (rowMoved row (sramOf s a)).remaps.length = 2 && !(rowMoved row (sramOf s a)).outSent then
      notify Notice.sramSparesOut a (putSram { rowMoved row (sramOf s a) with outSent := true } (rowSpared a row s)) else rowSpared a row s :=
  if_neg (Nat.not_le.2 hroom)

/-- A row that is moved while a spare row is left (R503). -/
theorem repairRow_moves {a row : Nat} {s : State} (hroom : (sramOf s a).remaps.length < 2) : row ∈ (sramOf (repairRow a row s) a).remaps := by
  have harray : (rowMoved row (sramOf s a)).array = a := sramOf_array s a
  have hput : ∀ (x : SramArray) (u : State), x.array = a → sramOf (putSram x u) a = x := fun x u hx => hx ▸ sramOf_putSram x u
  rw [repairRow_eq hroom]
  split
  · rw [sramOf_of_arrays (notify_arrays _ _ _), hput { rowMoved row (sramOf s a) with outSent := true } _ harray]
    exact List.mem_append_right _ (List.mem_singleton_self row)
  · rw [sramOf_of_arrays (rowSpared_arrays a row s), hput _ _ harray]
    exact List.mem_append_right _ (List.mem_singleton_self row)

theorem repairRow_passAndWell (a row : Nat) (s : State) : passAndWell (repairRow a row s) = passAndWell s := by
  by_cases hroom : (sramOf s a).remaps.length < 2
  · have hspared : passAndWell (rowSpared a row s) = passAndWell s :=
      (passAndWell_of_arrays (rowSpared_arrays a row s)).trans (putSram_passAndWell _ s)
    rw [repairRow_eq hroom]
    split
    · exact ((notify_passAndWell _ _ _).trans (putSram_passAndWell _ _)).trans hspared
    · exact hspared
  · rw [repairRow, if_pos (Nat.not_lt.1 hroom)]

theorem badRow_passAndWell (a row : Nat) (s : State) : passAndWell (badRow a row s) = passAndWell s := by
  have hraised : ∀ u : State, u = (if Config.sramNamed a then s else raise FaultCode.sramUncorrectable 0 s) → passAndWell u = passAndWell s := by
    rintro u rfl
    split
    · rfl
    · exact passAndWell_of_arrays (arrays_of_upkeep (raise_upkeep _ _ s))
  unfold badRow
  dsimp only
  split
  · exact (passAndWell_of_arrays (arrays_of_upkeep (clearFault_upkeep _ _))).trans ((repairRow_passAndWell _ _ _).trans (hraised _ rfl))
  · exact (repairRow_passAndWell _ _ _).trans (hraised _ rfl)

theorem badRow_moves {a row : Nat} {s : State} (hroom : (sramOf s a).remaps.length < 2) : row ∈ (sramOf (badRow a row s) a).remaps := by
  have hmoves : ∀ u : State, u = (if Config.sramNamed a then s else raise FaultCode.sramUncorrectable 0 s) →
      row ∈ (sramOf (repairRow a row u) a).remaps := by
    rintro u hu
    have hsame : sramOf u a = sramOf s a := by
      subst hu
      split
      · rfl
      · exact sramOf_of_arrays (arrays_of_upkeep (raise_upkeep _ _ s)) a
    exact repairRow_moves (hsame.symm ▸ hroom)
  unfold badRow
  dsimp only
  split
  · rw [sramOf_of_arrays (arrays_of_upkeep (clearFault_upkeep _ _))]
    exact hmoves _ rfl
  · exact hmoves _ rfl

theorem correctedRow_passAndWell (a row : Nat) (s : State) : passAndWell (correctedRow a row s) = passAndWell s := by
  unfold correctedRow
  dsimp only
  split
  · exact repairRow_passAndWell _ _ _
  · split <;> rfl

/-- What the scrub of the SRAM does with what it found in a row. -/
def rowRead (a row : Nat) (corrected bad : Bool) (s : State) : State :=
  if bad then badRow a row s else if corrected then correctedRow a row s else s

theorem rowRead_passAndWell (a row : Nat) (corrected bad : Bool) (s : State) : passAndWell (rowRead a row corrected bad s) = passAndWell s := by
  unfold rowRead
  split
  · exact badRow_passAndWell _ _ _
  · split
    · exact correctedRow_passAndWell _ _ _
    · rfl

/-- The scrub goes on to the next row, or ends its pass (R503). -/
def rowGoesOn (pos : Nat) (s : State) : State :=
  if pos = 3072 * 512 - 1 then endTask 2 { s with bgd.sramPos := 0, bgd.sramPass := s.bgd.sramPass + 1 }
  else taskAt 2 (pos + 1) (3072 * 512) { s with bgd.sramPos := pos + 1 }

theorem rowGoesOn_next {pos : Nat} (h : pos < 3072 * 512 - 1) (s : State) : (rowGoesOn pos s).bgd.sramPos = pos + 1 ∧
    (rowGoesOn pos s).bgd.sramPass = s.bgd.sramPass := by
  rw [rowGoesOn, if_neg (Nat.ne_of_lt h)]
  exact ⟨rfl, rfl⟩

theorem rowGoesOn_last {pos : Nat} (h : pos = 3072 * 512 - 1) (s : State) : (rowGoesOn pos s).bgd.sramPos = 0 ∧
    (rowGoesOn pos s).bgd.sramPass = s.bgd.sramPass + 1 := by
  rw [rowGoesOn, if_pos h]
  exact ⟨rfl, rfl⟩

theorem rowGoesOn_leaves (pos : Nat) (s : State) : (rowGoesOn pos s).bgd.sram = s.bgd.sram ∧ (rowGoesOn pos s).well = s.well := by
  unfold rowGoesOn
  split <;> exact ⟨rfl, rfl⟩

theorem sramScrub_reads {t array row : Nat} {corrected bad : Bool} {s : State} (hruns : taskRuns (advance t s) 2 = true)
    (hpos : s.bgd.sramPos ≤ 512 * array + row) (harray : array < 3072) (hrow : row < 512)
    (hon : domOn s ⟨Config.sramDomain array % 12, Nat.mod_lt _ (by decide)⟩ = true) : execSramScrub t array row corrected bad s =
      .next (rowGoesOn (512 * array + row) (rowRead array row corrected bad (beginTask 2 (advance t s)))) := by
  have hguard : (taskRuns (advance t s) 2 && decide ((advance t s).bgd.sramPos ≤ 512 * array + row) && decide (array < 3072) && decide (row < 512) &&
      domOn (advance t s) ⟨Config.sramDomain array % 12, Nat.mod_lt _ (by decide)⟩) = true := by
    rw [hruns, decide_eq_true (show (advance t s).bgd.sramPos ≤ 512 * array + row from hpos), decide_eq_true harray, decide_eq_true hrow, advance_domOn, hon]
    rfl
  exact congrArg Host.Outcome.next (if_pos hguard)

/-! ### The self-tests (R212, R436, R501, R505) -/

/-- The slices of the Mill and the Well. -/
def slicesAndWell (s : State) : Vector Slice 32 × Well := (s.mil.slices, s.well)

theorem notify_slicesAndWell (code detail : Nat) (s : State) : slicesAndWell (notify code detail s) = slicesAndWell s := by
  rw [notify_frame]; rfl

theorem raise_slicesAndWell (code detail : Nat) (s : State) : slicesAndWell (raise code detail s) = slicesAndWell s := by
  rw [raise_frame]; rfl

theorem granaryUse_slicesAndWell (kind inst limit remaining : Nat) (s : State) : slicesAndWell (granaryUse kind inst limit remaining s) = slicesAndWell s := by
  rw [granaryUse_frame]; rfl

theorem replaceSlice_slicesAndWell (k : Nat) (s : State) : slicesAndWell (replaceSlice k s) = slicesAndWell s := by
  unfold replaceSlice
  split
  · rfl
  · split
    · have hpairs : ∀ ps (b : Bool) d x, slicesAndWell (if b then notify Notice.millSparesOut d { s with mil.pairs := ps, mil.sparesOut := x }
          else { s with mil.pairs := ps }) = slicesAndWell s := fun ps b d x => by
        split
        · exact notify_slicesAndWell _ _ _
        · rfl
      exact hpairs _ _ _ _
    · exact raise_slicesAndWell _ _ _

/-- A slice that works is put among the retired ones; no other slice changes. -/
theorem retireSlice_slicesAndWell {k : Fin 32} {s : State} (h : s.mil.slices[k].retired = false) :
    slicesAndWell (retireSlice k s) = slicesAndWell (slicePut k s) := by
  have hreport : slicesAndWell (replaceSlice k.val (notify Notice.sliceRetired k.val (slicePut k s))) = slicesAndWell (slicePut k s) :=
    (replaceSlice_slicesAndWell _ _).trans (notify_slicesAndWell _ _ _)
  unfold retireSlice
  rw [if_neg (by rw [h]; exact Bool.false_ne_true)]
  exact (granaryUse_slicesAndWell _ _ _ _ _).trans hreport

theorem retireSlice_tested (k : Fin 32) (s : State) : (retireSlice k s).mil.slices[k].tested = s.mil.slices[k].tested ∧ (retireSlice k s).well = s.well := by
  rcases h : s.mil.slices[k].retired with _ | _
  · have hkept := retireSlice_slicesAndWell h
    simp only [slicesAndWell, Prod.mk.injEq] at hkept
    obtain ⟨hslices, hwell⟩ := hkept
    rw [hslices, hwell, slicePut, upd_same]
    exact ⟨rfl, rfl⟩
  · rw [retireSlice_again h]
    exact ⟨rfl, rfl⟩

/-- A slice has been tested now (R501). -/
def sliceTested (k : Fin 32) (s : State) : State := { s with mil.slices := upd s.mil.slices k fun x => { x with tested := s.now } }

/-- The pass of task 4 goes on, or ends when no idle slice is left to test. -/
def testsGoOn (s : State) : State := if (untested s).isEmpty then endTask 3 s else taskAt 3 1 ((untested s).length + 1) s

theorem testsGoOn_slicesAndWell (s : State) : slicesAndWell (testsGoOn s) = slicesAndWell s := by
  unfold testsGoOn
  split <;> rfl

theorem sliceSelftest_tests {t : Nat} {k : Fin 32} {s : State} (hkept : lostUntested s k = false) (hruns : taskRuns (advance t s) 3 = true)
    (hidle : k ∈ untested s) (pass : Bool) : execSliceSelftest t k pass s = .next (testsGoOn (if pass then sliceTested k (beginTask 3 (advance t s))
      else retireSlice k (sliceTested k (beginTask 3 (advance t s))))) := by
  have hkept' : lostUntested (advance t s) k = false := hkept
  have hidle' : (untested (advance t s)).contains k = true := List.contains_iff_mem.2 hidle
  simp only [execSliceSelftest, onEvent, hkept', hruns, hidle', Bool.and_true, Bool.or_true, Bool.false_eq_true, if_true, if_false]
  rfl

theorem sliceTested_slice (k : Fin 32) (t : Nat) (s : State) : (sliceTested k (beginTask 3 (advance t s))).mil.slices[k] =
    { s.mil.slices[k] with tested := (advance t s).now } ∧ (sliceTested k (beginTask 3 (advance t s))).well = s.well := by
  obtain ⟨v, hbegin⟩ := beginTask_tasks 3 (advance t s)
  rw [hbegin, sliceTested, upd_same]
  exact ⟨rfl, rfl⟩

theorem spareCoreSelftest_tests {t : Nat} {k : Fin 3} {s : State} (hspare : spareCore s = some k) (hruns : taskRuns (advance t s) 4 = true) (pass : Bool) :
    execSpareCoreSelftest t pass s = .next (if pass then endTask 4 (beginTask 4 (advance t s)) else
      granaryCount 2 0 { endTask 4 (beginTask 4 (advance t s)) with bgd.cores := (endTask 4 (beginTask 4 (advance t s))).bgd.cores.set k .retired }) := by
  have hspare' : spareCore (advance t s) = some k := hspare
  simp only [execSpareCoreSelftest, onEvent, hspare', hruns, Bool.not_true, Bool.false_eq_true, if_false]

/-- What a pass of task 5 leaves. -/
theorem spareTested_leaves (t : Nat) (s : State) : (endTask 4 (beginTask 4 (advance t s))).bgd.tasks[4].running = false ∧
    (endTask 4 (beginTask 4 (advance t s))).bgd.cores = s.bgd.cores ∧ (endTask 4 (beginTask 4 (advance t s))).prod = s.prod ∧
    (endTask 4 (beginTask 4 (advance t s))).well = s.well := by
  refine ⟨endTask_running _ _, ?_⟩
  obtain ⟨v, hbegin⟩ := beginTask_tasks 4 (advance t s)
  rw [hbegin]
  exact ⟨rfl, rfl, rfl⟩

/-- The Krynto core has been tested now (R436). -/
def kryntoTested (s : State) : State := endTask 6 (beginTask 6 { s with kry.katAt := s.now })

theorem kryntoTested_leaves (s : State) : (kryntoTested s).kry = { s.kry with katAt := s.now } ∧ (kryntoTested s).flt = s.flt := by
  obtain ⟨v, hbegin⟩ := beginTask_tasks 6 { s with kry.katAt := s.now }
  rw [kryntoTested, hbegin]
  exact ⟨rfl, rfl⟩

theorem kryntoKat_tests {t : Nat} {s : State} (hruns : taskRuns (advance t s) 6 = true) (hcore : coreRuns s = true) (pass : Bool) :
    execKryntoKat t pass s = .next (if pass then kryntoTested (advance t s)
      else setMode (raise FaultCode.kryntoSelftest 0 { kryntoTested (advance t s) with kry.tested := false })) := by
  have hcore' : coreRuns (advance t s) = true := hcore
  simp only [execKryntoKat, onEvent, hruns, hcore', Bool.not_true, Bool.or_false, Bool.false_eq_true, if_false]
  rfl

/-- A core that did not pass its test has no approved mode (R439). -/
theorem setMode_untested {s : State} (h : s.kry.tested = false) : (setMode s).kry = { s.kry with approved := false } ∧ (setMode s).flt = s.flt := by
  have hoff : (bit s.kry.policy 1 && s.kry.tested) = false := by rw [h, Bool.and_false]
  unfold setMode
  dsimp only
  rw [hoff]
  split
  · next hsame =>
    have happroved : s.kry.approved = false := (beq_iff_eq.1 hsame).symm
    exact ⟨by rw [← happroved], rfl⟩
  · rw [notify_frame]; exact ⟨rfl, rfl⟩

theorem kryntoFailed (s : State) : (setMode (raise FaultCode.kryntoSelftest 0 { s with kry.tested := false })).kry =
      { s.kry with tested := false, approved := false } ∧
    FaultCode.kryntoSelftest ∈ (setMode (raise FaultCode.kryntoSelftest 0 { s with kry.tested := false })).flt.active := by
  have hkry : (raise FaultCode.kryntoSelftest 0 { s with kry.tested := false }).kry = { s.kry with tested := false } := by rw [raise_frame]
  obtain ⟨hmode, hflt⟩ := setMode_untested (s := raise FaultCode.kryntoSelftest 0 { s with kry.tested := false }) (by rw [hkry])
  rw [hmode, hflt, hkry]
  exact ⟨rfl, raise_active (by decide) (by decide)⟩

/-! ### Silicon re-calibration (R502) -/

theorem judgeAged_young {s : State} (h : ∀ x ∈ s.bgd.calAt, ¬ (x.2 + 4 * s.bgd.cfg.recalPeriod * 86400 < devSec s ∧ x.1 ∉ s.bgd.aged)) : judgeAged s = s := by
  have hnone : (s.bgd.calAt.filter fun x => decide (x.2 + 4 * s.bgd.cfg.recalPeriod * 86400 < devSec s) && !s.bgd.aged.contains x.1) = [] :=
    List.filter_eq_nil_iff.2 fun x hx => by simpa using h x hx
  rw [judgeAged, hnone]
  rfl

theorem silicon_item {item inst : Nat} (h : (item, inst) ∈ silicon) : ¬ item < 0x40 ∧ item ≠ 0x160 := by
  obtain ⟨p, hp, hmem⟩ := List.mem_flatMap.1 h
  obtain ⟨i, -, hpair⟩ := List.mem_map.1 hmem
  have hitem : p.1 = item := congrArg Prod.fst hpair
  subst hitem
  simp only [List.mem_cons, List.not_mem_nil, or_false] at hp
  rcases hp with rfl | rfl | rfl | rfl | rfl <;> decide

/-- The silicon units re-calibrated in this pass, and the Well. -/
def recalState (s : State) : List (Nat × Nat) × Well := (s.bgd.recalDone, s.well)

theorem failRun_recalState {r : CalRunning} (hcid : r.cid = 0) (fault : Nat) (s : State) : recalState (failRun r fault s) = recalState s := by
  unfold failRun
  dsimp only
  rw [if_pos hcid, raise_frame]
  rfl

theorem putCal_recalState (x : CalItem) (cid : Nat) (ws : List W64) (s : State) : recalState (putCal x cid ws s) = recalState s := by
  unfold putCal startStaging
  dsimp only
  repeat' split
  all_goals rfl

/-- The end of a re-calibration under no command, of an item other than the densities and the Well's record. -/
theorem endRun_recalState {r : CalRunning} (hcid : r.cid = 0) (hdensity : ¬ r.item < 0x40) (hwell : r.item ≠ 0x160) (m : CalMeasure) (s : State) :
    recalState (endRun r m s) = recalState s := by
  unfold endRun
  rw [if_neg hdensity, if_neg hwell]
  split
  · exact failRun_recalState hcid _ s
  · split
    · exact failRun_recalState hcid _ s
    · dsimp only
      split
      · exact putCal_recalState _ _ _ _
      · exact failRun_recalState hcid _ s

/-- One of the silicon units is re-calibrated in this pass (R502). -/
def recalibrated (item inst : Nat) (m : CalMeasure) (s : State) : State :=
  endRun { item := item, inst := inst, cid := 0 } m { s with bgd.recalDone := s.bgd.recalDone ++ [(item, inst)] }

theorem recalibrated_recalState {item inst : Nat} (h : (item, inst) ∈ silicon) (m : CalMeasure) (s : State) :
    recalState (recalibrated item inst m s) = (s.bgd.recalDone ++ [(item, inst)], s.well) :=
  endRun_recalState rfl (silicon_item h).1 (silicon_item h).2 m _

/-- The pass of task 6 goes on, or ends when no unit of the silicon items is left. -/
def recalGoesOn (s : State) : State :=
  if silicon.any (recalWaits s) then taskAt 5 s.bgd.recalDone.length silicon.length s else endTask 5 { s with bgd.recalDone := [] }

theorem recalGoesOn_leaves (s : State) : ((recalGoesOn s).bgd.recalDone = s.bgd.recalDone ∨
    ((recalGoesOn s).bgd.recalDone = [] ∧ (recalGoesOn s).bgd.tasks[5].running = false)) ∧ (recalGoesOn s).well = s.well := by
  unfold recalGoesOn
  split
  · exact ⟨.inl rfl, rfl⟩
  · exact ⟨.inr ⟨rfl, endTask_running _ _⟩, rfl⟩

theorem siliconRecal_runs {t item inst : Nat} {m : CalMeasure} {s : State}
    (hyoung : ∀ x ∈ s.bgd.calAt, ¬ (x.2 + 4 * s.bgd.cfg.recalPeriod * 86400 < devSec (advance t s) ∧ x.1 ∉ s.bgd.aged))
    (hruns : taskRuns (advance t s) 5 = true) (hable : taskAble s 5 = true) (hitem : (item, inst) ∈ silicon) (hwaits : recalWaits s (item, inst) = true)
    (hfree : calBusy s item = false) : execSiliconRecal t item inst m s = .next (recalGoesOn (recalibrated item inst m (beginTask 5 (advance t s)))) := by
  have hguard : (taskRuns (advance t s) 5 && taskAble (advance t s) 5 && silicon.contains (item, inst) && recalWaits (advance t s) (item, inst) &&
      !calBusy (advance t s) item) = true := by
    rw [hruns, show taskAble (advance t s) 5 = true from hable, List.contains_iff_mem.2 hitem, show recalWaits (advance t s) (item, inst) = true from hwaits,
      show calBusy (advance t s) item = false from hfree]
    rfl
  have haged : judgeAged (advance t s) = advance t s := judgeAged_young hyoung
  simp only [execSiliconRecal, onEvent, haged, hguard, if_true]
  rfl

/-! ### Random numbers (R435) -/

theorem entropyFail_raised (s : State) : FaultCode.entropyFail ∈ (raise FaultCode.entropyFail 0 s).flt.active := raise_active (by decide) (by decide)

theorem raise_kry (code detail : Nat) (s : State) : (raise code detail s).kry = s.kry := by rw [raise_frame]

theorem drbgReseed_eq {t : Nat} {s : State} (hcore : coreRuns s = true)
    (hdue : s.kry.reseedAt + 1000000000 ≤ (advance t s).now ∨ 2 ^ 20 ≤ s.kry.requests) (pass : Bool) : execDrbgReseed t pass s = .next
      (if pass then clearFault FaultCode.entropyFail { advance t s with kry.reseedAt := (advance t s).now, kry.requests := 0 }
      else if FaultCode.entropyFail ∈ s.flt.active then { advance t s with kry.reseedAt := (advance t s).now }
      else raise FaultCode.entropyFail 0 { advance t s with kry.reseedAt := (advance t s).now }) := by
  have hguard : (!coreRuns (advance t s) || (decide ((advance t s).now < (advance t s).kry.reseedAt + 1000000000) &&
      decide ((advance t s).kry.requests < 2 ^ 20))) = false := by
    rw [show coreRuns (advance t s) = true from hcore, Bool.not_true, Bool.false_or, Bool.and_eq_false_iff, decide_eq_false_iff_not,
      decide_eq_false_iff_not, Nat.not_lt, Nat.not_lt]
    exact hdue
  exact congrArg Host.Outcome.next (if_neg (ne_true_of_eq_false hguard))

theorem drbgReseed_passes {t : Nat} {s : State} (hcore : coreRuns s = true)
    (hdue : s.kry.reseedAt + 1000000000 ≤ (advance t s).now ∨ 2 ^ 20 ≤ s.kry.requests) :
    ∃ s', execDrbgReseed t true s = .next s' ∧ s'.kry.reseedAt = (advance t s).now ∧ s'.kry.requests = 0 ∧ FaultCode.entropyFail ∉ s'.flt.active := by
  obtain ⟨hkept, hgone⟩ := clearFault_clears FaultCode.entropyFail { advance t s with kry.reseedAt := (advance t s).now, kry.requests := 0 }
  exact ⟨_, drbgReseed_eq hcore hdue true, congrArg Krynto.reseedAt hkept.kry, congrArg Krynto.requests hkept.kry, hgone⟩

theorem drbgReseed_fails {t : Nat} {s : State} (hcore : coreRuns s = true)
    (hdue : s.kry.reseedAt + 1000000000 ≤ (advance t s).now ∨ 2 ^ 20 ≤ s.kry.requests) :
    ∃ s', execDrbgReseed t false s = .next s' ∧ s'.kry.reseedAt = (advance t s).now ∧ FaultCode.entropyFail ∈ s'.flt.active := by
  have hrun := drbgReseed_eq (t := t) hcore hdue false
  rw [if_neg Bool.false_ne_true] at hrun
  by_cases hactive : FaultCode.entropyFail ∈ s.flt.active
  · exact ⟨_, hrun.trans (congrArg Host.Outcome.next (if_pos hactive)), rfl, hactive⟩
  · exact ⟨_, hrun.trans (congrArg Host.Outcome.next (if_neg hactive)), by rw [raise_kry], entropyFail_raised _⟩

theorem entropyHealthFail_raises {t : Nat} {s : State} (hon : domOn s 1 = true) :
    ∃ s', execEntropyHealthFail t s = .next s' ∧ FaultCode.entropyFail ∈ s'.flt.active ∧ s'.kry = s.kry := by
  by_cases hactive : FaultCode.entropyFail ∈ s.flt.active
  · have hguard : (!domOn s 1 || decide (FaultCode.entropyFail ∈ s.flt.active)) = true := by rw [decide_eq_true hactive, Bool.or_true]
    exact ⟨_, congrArg Host.Outcome.next (if_pos hguard), hactive, rfl⟩
  · have hguard : (!domOn s 1 || decide (FaultCode.entropyFail ∈ s.flt.active)) = false := by rw [hon, decide_eq_false hactive]; rfl
    exact ⟨_, congrArg Host.Outcome.next (if_neg (ne_true_of_eq_false hguard)), entropyFail_raised _, by rw [raise_kry]; rfl⟩

/-- Settles O39: each task's step is one equation over what it found, and `upkeepOf` and its like say what that leaves. -/
theorem backgroundTasksRun : Obligations.BackgroundTasksRun := by
  refine ⟨⟨fun t cid c s hstart h1 h2 h3 h4 h5 h6 h7 h8 h9 h10 h11 h12 => scrubConfig_sets hstart ?config, fun t i s hrun hsched hshed =>
    ⟨fun hlate => ?late, fun hearly => backgroundLate_quiet ?early⟩⟩,
    fun t s => ⟨fun sector corrected bad hruns hpos hsector => ?ledger, fun array row corrected bad hruns hpos harray hrow hon => ?sram⟩,
    fun t s => ⟨fun k pass hkept hruns hidle => ?slice, fun k pass hspare hruns => ?spare, fun pass hruns hcore => ?krynto,
      fun item inst m hyoung hruns hable hitem hwaits hfree _ => ?recal, fun hcore hdue => ⟨drbgReseed_passes hcore hdue, drbgReseed_fails hcore hdue⟩,
      entropyHealthFail_raises⟩⟩
  case config =>
    simp only [scrubCfgOk, scrubCfgOf, within_iff, Bool.and_eq_true]
    omega
  case early => rw [passIsLate_iff hrun hsched hshed]; exact decide_eq_false (Nat.not_le.2 hearly)
  case late =>
    have hcounted : (lateCounted i (advance t s)).bgd.tasks[i] = { s.bgd.tasks[i] with
        lates := s.bgd.tasks[i].lates + 1, late := sat 0xFFFF (s.bgd.tasks[i].late + 1) } := modTask_same _ _ _
    have hreport := backgroundLate_reports (t := t) (i := i) (s := s) ((passIsLate_iff hrun hsched hshed).trans (decide_eq_true hlate))
    rw [notify_frame] at hreport
    refine ⟨_, hreport, ?_⟩
    dsimp only
    rw [hcounted]
    exact ⟨rfl, sat_eq_min _ _, hrun, rfl⟩
  case ledger =>
    obtain ⟨hrunning, hpass, hwell⟩ := sectorRead_leaves t sector corrected bad s
    obtain ⟨hitems, hsame⟩ := scrubGoesOn_leaves sector (sectorRead sector corrected bad (beginTask 1 (advance t s)))
    refine ⟨_, ledgerScrub_reads hruns hpos hsector, fun hnext => ?_, fun hlast => ?_, fun item hbad => ?_, hsame.trans hwell⟩
    · obtain ⟨hto, hkept, hgoes⟩ := scrubGoesOn_next hnext (sectorRead sector corrected bad (beginTask 1 (advance t s)))
      exact ⟨hto, hkept.trans hpass, hgoes.trans hrunning⟩
    · subst hlast
      obtain ⟨hto, hcounted, hends⟩ := scrubGoesOn_last (sectorRead 4095 corrected bad (beginTask 1 (advance t s)))
      exact ⟨hto, hcounted.trans (congrArg (· + 1) hpass), hends⟩
    · subst hbad
      rw [hitems]
      exact sectorRead_cal sector corrected item _
  case sram =>
    obtain ⟨v, hbegin⟩ := beginTask_tasks 2 (advance t s)
    have hread := rowRead_passAndWell array row corrected bad (beginTask 2 (advance t s))
    have hstart : passAndWell (beginTask 2 (advance t s)) = passAndWell s := by rw [hbegin]; rfl
    have hpass := congrArg Prod.fst (hread.trans hstart)
    obtain ⟨harrays, hwell⟩ := rowGoesOn_leaves (512 * array + row) (rowRead array row corrected bad (beginTask 2 (advance t s)))
    refine ⟨_, sramScrub_reads hruns hpos harray hrow hon, fun hnext => ?_, fun hlast => ?_, fun hbad hroom => ?_,
      hwell.trans (congrArg Prod.snd (hread.trans hstart))⟩
    · obtain ⟨hto, hkept⟩ := rowGoesOn_next hnext (rowRead array row corrected bad (beginTask 2 (advance t s)))
      exact ⟨hto, hkept.trans hpass⟩
    · obtain ⟨hto, hcounted⟩ := rowGoesOn_last hlast (rowRead array row corrected bad (beginTask 2 (advance t s)))
      exact ⟨hto, hcounted.trans (congrArg (· + 1) hpass)⟩
    · have hmoved := badRow_moves (a := array) (row := row) (s := beginTask 2 (advance t s)) (by rw [hbegin]; exact hroom)
      rw [sramOf, harrays, rowRead, if_pos hbad]
      exact hmoved
  case slice =>
    obtain ⟨htested, hwell⟩ := sliceTested_slice k t s
    obtain ⟨hretired, hretiredWell⟩ := retireSlice_tested k (sliceTested k (beginTask 3 (advance t s)))
    refine ⟨_, sliceSelftest_tests hkept hruns hidle pass, ?_⟩
    have hgoes := testsGoOn_slicesAndWell (if pass then sliceTested k (beginTask 3 (advance t s)) else retireSlice k (sliceTested k (beginTask 3 (advance t s))))
    simp only [slicesAndWell, Prod.mk.injEq] at hgoes
    obtain ⟨hslices, hsame⟩ := hgoes
    rw [hslices, hsame]
    cases pass with
    | true =>
      rw [if_pos rfl, htested]
      exact ⟨rfl, nofun, fun _ => rfl, hwell⟩
    | false =>
      rw [if_neg Bool.false_ne_true]
      exact ⟨hretired.trans (congrArg Slice.tested htested), fun _ => retireSlice_retires k _, nofun, hretiredWell.trans hwell⟩
  case spare =>
    obtain ⟨hends, hcores, hprod, hwell⟩ := spareTested_leaves t s
    refine ⟨_, spareCoreSelftest_tests hspare hruns pass, ?_⟩
    cases pass with
    | true => exact ⟨hcores, hends, hprod, hwell⟩
    | false =>
      have hretired : (endTask 4 (beginTask 4 (advance t s))).bgd.cores.set k .retired = s.bgd.cores.set k .retired := by rw [hcores]
      exact ⟨hretired, hends, hprod, hwell⟩
  case krynto =>
    obtain ⟨hkry, hflt⟩ := kryntoTested_leaves (advance t s)
    refine ⟨_, kryntoKat_tests hruns hcore pass, ?_⟩
    cases pass with
    | true =>
      rw [if_pos rfl, hkry, hflt]
      exact ⟨rfl, fun _ => ⟨rfl, rfl⟩, nofun⟩
    | false =>
      obtain ⟨hfailed, hactive⟩ := kryntoFailed (kryntoTested (advance t s))
      rw [if_neg Bool.false_ne_true, hfailed, hkry]
      exact ⟨rfl, nofun, fun _ => ⟨rfl, rfl, hactive⟩⟩
  case recal =>
    have hstate := recalibrated_recalState hitem m (beginTask 5 (advance t s))
    obtain ⟨v, hbegin⟩ := beginTask_tasks 5 (advance t s)
    simp only [recalState, Prod.mk.injEq] at hstate
    obtain ⟨hdone, hwell⟩ := hstate
    obtain ⟨hgoes, hsame⟩ := recalGoesOn_leaves (recalibrated item inst m (beginTask 5 (advance t s)))
    have hlist : (beginTask 5 (advance t s)).bgd.recalDone = s.bgd.recalDone := by rw [hbegin]; rfl
    have hbeginWell : (beginTask 5 (advance t s)).well = s.well := by rw [hbegin]; rfl
    rw [hdone, hlist] at hgoes
    exact ⟨_, siliconRecal_runs hyoung hruns hable hitem hwaits hfree, hgoes, hsame.trans (hwell.trans hbeginWell)⟩

end Sys2Proof.Machine
end

section
/-!
The Well's own work: refresh, temperature, drift, self-refresh, repair and patrol, and the statement about them.
-/
namespace Sys2Proof.Machine

/-! ### Refresh, temperature and drift (R465 to R467) -/

theorem modChan_same (ch : Fin 2) (f : WellChan → WellChan) (s : State) : (modChan ch f s).well.chans[ch] = f s.well.chans[ch] := upd_same _ _ _

theorem wellRefreshDue_serves {t : Nat} {ch rank : Fin 2} {s : State} (h : rankServes s ch rank = true) (wait : Nat) :
    execWellRefreshDue t ch rank wait s = .next { advance t s with well.chans := upd s.well.chans ch fun c =>
      { c with postponed := c.postponed.set rank (if decide (1000 < wait) && decide (c.postponed[rank] < 4) then c.postponed[rank] + 1 else 0) } } :=
  congrArg Host.Outcome.next (if_pos h)

/-- What the shedding of background work reads and leaves: the hot devices and the Well. -/
def hotAndWell (s : State) : Bool × Well := (s.thm.dramHot, s.well)

theorem notify_hotAndWell (code detail : Nat) (s : State) : hotAndWell (notify code detail s) = hotAndWell s := by
  rw [notify_frame]; rfl

theorem skipTime_hotAndWell (d : Nat) (p : Fin 7 → Bool) (s : State) : hotAndWell (skipTime d p s) = hotAndWell s :=
  foldl_keeps hotAndWell (fun s i => by split <;> rfl) _ s

theorem settleShed_hotAndWell (s : State) : hotAndWell (settleShed s) = hotAndWell s := by
  have hdeferred : ∀ u : State, hotAndWell ((List.finRange 7).foldl (fun s (i : Fin 7) =>
      if taskDue s i && i != 1 then modTask i (fun x => { x with deferred := sat 0xFFFF (x.deferred + 1) }) s else s) u) = hotAndWell u := fun u =>
    foldl_keeps hotAndWell (fun s i => by split <;> rfl) _ u
  have hended : ∀ u : State, hotAndWell { u with thm.shed := false } = hotAndWell u := fun _ => rfl
  unfold settleShed
  dsimp only
  split
  · rfl
  · split
    · exact notify_hotAndWell _ _ _
    · exact (notify_hotAndWell _ _ _).trans ((hended _).trans ((skipTime_hotAndWell _ _ _).trans (hdeferred _)))

/-- The temperature that a poll has read, on its channel (R466). -/
def tempRead (rank : Fin 2) (dbl hot : Bool) (c : WellChan) : WellChan :=
  { c with
    normal := c.normal.set rank (if dbl || hot then 0 else c.normal[rank] + 1),
    doubled := c.doubled.set rank (dbl || hot || (c.doubled[rank] && decide ((if dbl || hot then 0 else c.normal[rank] + 1) < 2))),
    hot := c.hot.set rank hot }

theorem tempRead_hot (rank : Fin 2) (dbl hot : Bool) (c : WellChan) : (tempRead rank dbl hot c).hot[rank] = hot := by
  simp [tempRead]

theorem tempRead_doubles {dbl hot : Bool} (h : dbl = true ∨ hot = true) (rank : Fin 2) (c : WellChan) : (tempRead rank dbl hot c).doubled[rank] = true := by
  rcases h with rfl | rfl <;> simp [tempRead]

theorem tempRead_ends {rank : Fin 2} {c : WellChan} (h : 1 ≤ c.normal[rank]) : (tempRead rank false false c).doubled[rank] = false := by
  have htwice : decide (c.normal[rank.val] + 1 < 2) = false := decide_eq_false (Nat.not_lt.2 (Nat.succ_le_succ h))
  simp only [tempRead, Bool.or_self, Bool.false_eq_true, if_false, htwice, Bool.and_false, Fin.getElem_fin, Vector.getElem_set_self]

/-- A poll has been judged: a device that became hot is reported, and what is shed is settled. -/
def pollJudged (hot was : Bool) (s : State) : State :=
  let s := if hot && !was then raise FaultCode.wellDramHot 0 s else s
  settleShed { s with thm.dramHot := anyDramHot s }

theorem pollJudged_hotAndWell (hot was : Bool) (s : State) : hotAndWell (pollJudged hot was s) = (anyDramHot s, s.well) := by
  refine (settleShed_hotAndWell _).trans ?_
  split
  · rw [hotAndWell, raise_frame]; rfl
  · rfl

theorem dramMr4Poll_serves {t : Nat} {ch rank : Fin 2} {s : State} (h : rankServes s ch rank = true) (dbl hot : Bool) :
    execDramMr4Poll t ch rank dbl hot s = .next (pollJudged hot s.well.chans[ch].hot[rank] (modChan ch (tempRead rank dbl hot) (advance t s))) := by
  have h' : rankServes (advance t s) ch rank = true := h
  simp only [execDramMr4Poll, onEvent, h', if_true]
  rfl

/-- The write delays of a rank after one tracking (R465). -/
def delaysMoved (moves : List Int) (old : List Int) : List Int := (List.range 80).map fun l => old.getD l 0 + driftStep (moves.getD l 0)

theorem delaysMoved_lane {l : Nat} (h : l < 80) (moves old : List Int) : (delaysMoved moves old).getD l 0 = old.getD l 0 + driftStep (moves.getD l 0) := by
  simp [delaysMoved, h]

/-- A tracking has moved the delays of a rank; the lanes too far from their trained value are noted (R465). -/
def tracked (rank : Fin 2) (moves : List Int) (far : List Nat) (c : WellChan) : WellChan :=
  { c with moves := c.moves.set rank (delaysMoved moves c.moves[rank]), drifted := c.drifted.set rank (c.drifted[rank] ++ far), trackDue := false }

theorem wellDriftTrack_serves {t : Nat} {ch rank : Fin 2} {s : State} (h : rankServes s ch rank = true) (moves : List Int) :
    ∃ far : List Nat, execWellDriftTrack t ch rank moves s =
      .next (far.foldl (fun s _ => raise FaultCode.wellDrift 0 s) (modChan ch (tracked rank moves far) (advance t s))) := by
  have h' : rankServes (advance t s) ch rank = true := h
  refine ⟨(List.range 80).filter fun l => decide (8 < ((delaysMoved moves s.well.chans[ch].moves[rank]).getD l 0).natAbs) &&
    !s.well.chans[ch].drifted[rank].contains l, ?_⟩
  simp only [execWellDriftTrack, onEvent, h', if_true, modChan, upd]
  rfl

theorem raise_well (code detail : Nat) (s : State) : (raise code detail s).well = s.well := by rw [raise_frame]

theorem raises_well {α : Type} (code : Nat) (l : List α) (s : State) : (l.foldl (fun s _ => raise code 0 s) s).well = s.well :=
  foldl_keeps State.well (fun s _ => raise_well _ _ s) l s

theorem wellZqCal_due {t : Nat} {ch : Fin 2} {s : State} (hserves : s.well.chans[ch].state = 1) (hdue : s.well.chans[ch].zqAt + 128000000 ≤ (advance t s).now) :
    execWellZqCal t ch s = .next { advance t s with well.chans := upd s.well.chans ch fun c => { c with zqAt := (advance t s).now } } := by
  have hguard : (s.well.chans[ch].state == 1 && decide (s.well.chans[ch].zqAt + 128000000 ≤ (advance t s).now)) = true := by
    rw [hserves, decide_eq_true hdue]; rfl
  exact congrArg Host.Outcome.next (if_pos hguard)

/-! ### Self-refresh (R469) -/

/-- Whether a repair of a channel is due or in progress. -/
def repairDue (ch : Fin 2) (s : State) : Bool := s.well.due.any (fun r => r.ch == ch) || (match s.well.hardNow with | some r => r.ch == ch | none => false)

theorem repairDue_none {ch : Fin 2} {s : State} (hdue : ∀ r ∈ s.well.due, r.ch ≠ ch) (hhard : ∀ r, s.well.hardNow = some r → r.ch ≠ ch) :
    repairDue ch s = false := by
  have hnone : s.well.due.any (fun r => r.ch == ch) = false := List.any_eq_false.2 fun r hr => by simp [hdue r hr]
  unfold repairDue
  rw [hnone, Bool.false_or]
  split
  · next r hr => exact beq_eq_false_iff_ne.2 (hhard r hr)
  · rfl

theorem selfRefreshEntry_enters {t : Nat} {ch : Fin 2} {s : State} (hserves : s.well.chans[ch].state = 1) (hidle : s.bgd.cfg.srIdle ≠ 0)
    (hfree : repairDue ch s = false) : execSelfRefreshEntry t ch s = .next (selfRefresh ch (advance t s)) := by
  have hguard : (s.well.chans[ch].state == 1 && s.bgd.cfg.srIdle != 0 && !repairDue ch s) = true := by
    rw [hserves, bne_iff_ne.2 hidle, hfree]; rfl
  exact congrArg Host.Outcome.next (if_pos hguard)

theorem selfRefresh_eq (ch : Fin 2) (s : State) : selfRefresh ch s = { s with well.chans := upd s.well.chans ch fun c =>
    { c with state := 2, postponed := Vector.replicate 2 0, srEntries := min 0xFFFFFFFF (c.srEntries + 1) } } := by
  unfold selfRefresh modChan
  simp only [sat_eq_min]

theorem selfRefreshExit_wakes {t : Nat} {ch : Fin 2} {s : State} (h : s.well.chans[ch].state = 2) : execSelfRefreshExit t ch s =
    .next { advance t s with well.chans := upd s.well.chans ch fun c => { c with state := 1, trackDue := true } } := by
  have hguard : (s.well.chans[ch].state == 2) = true := beq_iff_eq.2 h
  exact congrArg Host.Outcome.next (if_pos hguard)

/-! ### Row repair (R472, R473) -/

theorem notify_well (code detail : Nat) (s : State) : (notify code detail s).well = s.well := by rw [notify_frame]

theorem wellRepairWindow_eq {t : Nat} {row : DramRow} {s : State} (hdue : row ∈ s.well.due) (hserves : chanServes s row.ch = true) (left : Bool) :
    execWellRepairWindow t row left s = .next (if left then
        notify Notice.wellRowSpared (rowDetail row) { advance t s with
          well.due := s.well.due.filter fun x => x != row, well.soft := s.well.soft ++ [row], well.rowErrs := s.well.rowErrs.filter fun e => e.row != row }
      else notify Notice.wellPprOut (rowDetail row) { advance t s with
        well.due := s.well.due.filter fun x => x != row, well.out := s.well.out ++ [row] }) := by
  have hguard : (s.well.due.contains row && chanServes s row.ch) = true := by rw [List.contains_iff_mem.2 hdue, hserves]; rfl
  exact congrArg Host.Outcome.next (if_pos hguard)

theorem wellHardRepair_starts {t : Nat} {r : DramRow} {rest : List DramRow} {s : State} (hsoft : s.well.soft = r :: rest) (hactive : s.job.active = none)
    (hactivating : s.job.activating = none) (hidle : s.job.idleFrom + 10000000000 ≤ (advance t s).now) (hnone : s.well.hardNow = none)
    (hserves : chanServes s r.ch = true) : execWellHardRepair t s = .next { advance t s with well.hardNow := some r } := by
  have hsoft' : (advance t s).well.soft = r :: rest := hsoft
  have hguard : ((advance t s).job.active.isNone && (advance t s).job.activating.isNone && decide ((advance t s).job.idleFrom + 10000000000 ≤ (advance t s).now) &&
      (advance t s).well.hardNow.isNone && chanServes (advance t s) r.ch) = true := by
    rw [show (advance t s).job.active = none from hactive, show (advance t s).job.activating = none from hactivating,
      decide_eq_true (show (advance t s).job.idleFrom + 10000000000 ≤ (advance t s).now from hidle), show (advance t s).well.hardNow = none from hnone,
      show chanServes (advance t s) r.ch = true from hserves]
    rfl
  simp only [execWellHardRepair, onEvent, hsoft', hguard, if_true]

theorem wellHardRepairDone_converts {t : Nat} {r : DramRow} {s : State} (h : s.well.hardNow = some r) : ∃ s', execWellHardRepairDone t s = .next s' ∧
    s'.well = { s.well with hardNow := none, soft := s.well.soft.erase r, hard := s.well.hard ++ [r] } := by
  have h' : (advance t s).well.hardNow = some r := h
  refine ⟨_, by simp only [execWellHardRepairDone, onEvent, h']; rfl, ?_⟩
  rw [granaryUse_frame]
  rfl

/-! ### The patrol (R471) -/

/-- What the patrol of a burst leaves: its own position and passes, the size of the Well and its contents. -/
def patrolState (s : State) : Nat × Nat × Nat × List Host.Cell := (s.well.scrubPos, s.well.passes, s.well.bytes, s.well.mem)

theorem raise_patrolState (code detail : Nat) (s : State) : patrolState (raise code detail s) = patrolState s := by
  rw [raise_frame]; rfl

theorem addCandidate_patrolState (r : DramRow) (s : State) : patrolState (addCandidate r s) = patrolState s := by
  unfold addCandidate
  split <;> rfl

theorem correctedIn_patrolState (r : DramRow) (s : State) : patrolState (correctedIn r s) = patrolState s := by
  unfold correctedIn
  extract_lets old new noted rows
  split
  · exact raise_patrolState _ _ _
  · split
    · exact addCandidate_patrolState _ _
    · rfl

theorem modChan_patrolState (ch : Fin 2) (f : WellChan → WellChan) (s : State) : patrolState (modChan ch f s) = patrolState s := rfl

theorem scrubBurst_patrolState (b : BurstFault) (s : State) : patrolState (scrubBurst b s) = patrolState s := by
  unfold scrubBurst
  dsimp only
  split
  · rfl
  · split
    · exact (correctedIn_patrolState _ _).trans (modChan_patrolState _ _ _)
    · refine (addCandidate_patrolState _ _).trans ?_
      exact (raise_patrolState _ _ _).trans (modChan_patrolState _ _ _)

/-- A batch of the patrol has been read: the pass goes on behind it, or ends at the end of the Well. -/
def patrolGoesOn (at_ : Nat) (s : State) : State :=
  if s.well.bytes ≤ at_ + scrubBatch then endTask 0 { s with well.scrubPos := 0, well.passes := s.well.passes + 1 }
  else taskAt 0 (at_ + scrubBatch) s.well.bytes { s with well.scrubPos := at_ + scrubBatch }

/-- The bursts of a batch that were read with an error. -/
def batchRead (bad : List BurstFault) (s : State) : State :=
  (bad.filter fun b => within s.well.scrubPos (s.well.scrubPos + scrubBatch) b.addr && decide (b.addr < s.well.bytes)).foldl (fun s b => scrubBurst b s) s

theorem batchRead_patrolState (bad : List BurstFault) (s : State) : patrolState (batchRead bad s) = patrolState s :=
  foldl_keeps patrolState (fun s b => scrubBurst_patrolState b s) _ s

theorem wellPatrolScrub_reads {t : Nat} {s : State} (hruns : taskRuns (advance t s) 0 = true) (hable : taskAble s 0 = true)
    (hfree : ∀ r ∈ s.led.runs, r.item ≠ 0x160) (bad : List BurstFault) :
    execWellPatrolScrub t bad s = .next (patrolGoesOn (beginTask 0 (advance t s)).well.scrubPos (batchRead bad (beginTask 0 (advance t s)))) := by
  have hnone : (s.led.runs.any fun r => r.item == 0x160) = false := List.any_eq_false.2 fun r hr => by simp [hfree r hr]
  have hguard : (taskRuns (advance t s) 0 && taskAble (advance t s) 0 && !((advance t s).led.runs.any fun r => r.item == 0x160)) = true := by
    rw [hruns, show taskAble (advance t s) 0 = true from hable, show ((advance t s).led.runs.any fun r => r.item == 0x160) = false from hnone]; rfl
  exact congrArg Host.Outcome.next (if_pos hguard)

theorem patrolGoesOn_next {at_ : Nat} {s : State} (h : at_ + scrubBatch < s.well.bytes) : (patrolGoesOn at_ s).well.scrubPos = at_ + scrubBatch ∧
    (patrolGoesOn at_ s).well.passes = s.well.passes := by
  rw [patrolGoesOn, if_neg (Nat.not_le.2 h)]
  exact ⟨rfl, rfl⟩

theorem patrolGoesOn_last {at_ : Nat} {s : State} (h : s.well.bytes ≤ at_ + scrubBatch) : (patrolGoesOn at_ s).well.scrubPos = 0 ∧
    (patrolGoesOn at_ s).well.passes = s.well.passes + 1 := by
  rw [patrolGoesOn, if_pos h]
  exact ⟨rfl, rfl⟩

theorem patrolGoesOn_mem (at_ : Nat) (s : State) : (patrolGoesOn at_ s).well.mem = s.well.mem := by
  unfold patrolGoesOn
  split <;> rfl

/-- Settles O40: each of the Well's events is one equation, and what a report or a poll leaves is said by its projection. -/
theorem wellIsTended : Obligations.WellIsTended := by
  refine ⟨fun t ch rank s => ⟨fun hserves => ⟨wellRefreshDue_serves hserves, fun dbl hot => ?poll, fun moves => ?drift⟩, wellZqCal_due,
    fun hserves hidle hdue hhard => ?enter, selfRefreshExit_wakes⟩,
    fun t s => ⟨fun row hdue hserves => ⟨⟨_, wellRepairWindow_eq hdue hserves true, ?spared⟩, ⟨_, wellRepairWindow_eq hdue hserves false, ?kept⟩⟩,
      fun r rest hsoft hactive hactivating hidle hnone hserves => wellHardRepair_starts hsoft hactive hactivating hidle hnone hserves,
      fun r hhard => wellHardRepairDone_converts hhard, fun hruns hable hfree bad => ?patrol⟩⟩
  case poll =>
    have hjudged := pollJudged_hotAndWell hot s.well.chans[ch].hot[rank] (modChan ch (tempRead rank dbl hot) (advance t s))
    have hpoll := dramMr4Poll_serves (t := t) hserves dbl hot
    generalize pollJudged hot s.well.chans[ch].hot[rank] (modChan ch (tempRead rank dbl hot) (advance t s)) = s' at hjudged hpoll
    simp only [hotAndWell, Prod.mk.injEq] at hjudged
    obtain ⟨hdram, hwell⟩ := hjudged
    have hchan : s'.well.chans[ch] = tempRead rank dbl hot s.well.chans[ch] := by rw [hwell]; exact modChan_same _ _ _
    refine ⟨s', hpoll, ?_⟩
    rw [hchan]
    refine ⟨tempRead_hot _ _ _ _, fun hhigh => tempRead_doubles hhigh _ _, ?_, ?_, by rw [hwell]; rfl⟩
    · rintro rfl rfl hnormal
      exact tempRead_ends hnormal
    · rw [hdram, anyDramHot, anyDramHot, hwell]
  case drift =>
    obtain ⟨far, htrack⟩ := wellDriftTrack_serves (t := t) hserves moves
    have hwell := raises_well FaultCode.wellDrift far (modChan ch (tracked rank moves far) (advance t s))
    have hchan := modChan_same ch (tracked rank moves far) (advance t s)
    rw [← hwell] at hchan
    refine ⟨_, htrack, ?_⟩
    rw [hchan]
    refine ⟨rfl, fun l hl => ?_, by rw [hwell]; rfl⟩
    simp only [tracked, Fin.getElem_fin, Vector.getElem_set_self]
    exact delaysMoved_lane hl _ _
  case enter =>
    exact (selfRefreshEntry_enters hserves hidle (repairDue_none hdue hhard)).trans (congrArg Host.Outcome.next (selfRefresh_eq ch (advance t s)))
  case spared => rw [if_pos rfl, notify_well]; rfl
  case kept => rw [if_neg Bool.false_ne_true, notify_well]; rfl
  case patrol =>
    obtain ⟨v, hbegin⟩ := beginTask_tasks 0 (advance t s)
    have hread := batchRead_patrolState bad (beginTask 0 (advance t s))
    have hstart : patrolState (beginTask 0 (advance t s)) = patrolState s := by rw [hbegin]; rfl
    have hpos : (beginTask 0 (advance t s)).well.scrubPos = s.well.scrubPos := congrArg Prod.fst hstart
    have hscrub := wellPatrolScrub_reads hruns hable hfree bad
    rw [hpos] at hscrub
    have hall := hread.trans hstart
    simp only [patrolState, Prod.mk.injEq] at hall
    obtain ⟨-, hpasses, hbytes, hmem⟩ := hall
    refine ⟨_, hscrub, fun hnext => ?_, fun hlast => ?_, (patrolGoesOn_mem _ _).trans hmem⟩
    · obtain ⟨hto, hcount⟩ := patrolGoesOn_next (at_ := s.well.scrubPos) (s := batchRead bad (beginTask 0 (advance t s))) (hbytes.symm ▸ hnext)
      exact ⟨hto, hcount.trans hpasses⟩
    · obtain ⟨hto, hcount⟩ := patrolGoesOn_last (at_ := s.well.scrubPos) (s := batchRead bad (beginTask 0 (advance t s))) (hbytes.symm ▸ hlast)
      exact ⟨hto, hcount.trans (congrArg (· + 1) hpasses)⟩

end Sys2Proof.Machine
end

section
/-!
What a change of one Stall leaves of the others, and the folds over the Stalls of a mask.
-/
namespace Sys2Proof.Machine

/-! ### One Stall -/

theorem modStall_same (k : Fin 24) (f : Stall → Stall) (s : State) : (modStall k.val f s).stl[k] = f s.stl[k] := by
  rw [modStall_fin]; exact upd_same _ _ _

theorem modStall_other {j : Nat} {k : Fin 24} (h : k.val ≠ j) (f : Stall → Stall) (s : State) : (modStall j f s).stl[k] = s.stl[k] := by
  unfold modStall
  split
  · exact upd_other (Fin.ne_of_val_ne h)
  · rfl

/-- What a change keeps of the Stall it is for, it keeps of every Stall. -/
theorem modStall_keepsStall {β : Type} (π : Stall → β) {f : Stall → Stall} (hf : ∀ x, π (f x) = π x) (n : Nat) (s : State) (k : Fin 24) :
    π (modStall n f s).stl[k] = π s.stl[k] := by
  unfold modStall
  split
  · exact upd_keeps π hf _ _ _
  · rfl

theorem modStall_congr {k : Fin 24} {f g : Stall → Stall} {s : State} (h : f s.stl[k] = g s.stl[k]) : modStall k.val f s = modStall k.val g s := by
  rw [modStall_fin, modStall_fin, upd, upd, h]

theorem modStall_unchanged {k : Fin 24} {f : Stall → Stall} {s : State} (h : f s.stl[k] = s.stl[k]) : modStall k.val f s = s := by
  rw [modStall_fin, upd, h, Fin.getElem_fin, Vector.set_getElem_self]

theorem modStall_modStall (k : Fin 24) (f g : Stall → Stall) (s : State) :
    modStall k.val g (modStall k.val f s) = modStall k.val (fun x => g (f x)) s := by
  simp only [modStall_fin, upd_upd]

/-! ### The Stalls of a mask -/

theorem mem_maskStalls {m : Nat} {k : Fin 24} : k.val ∈ maskStalls m ↔ bit m k.val = true := by
  simp [maskStalls]

theorem maskStalls_nodup (m : Nat) : (maskStalls m).Nodup := List.nodup_range.filter _

theorem maskStalls_lt {m k : Nat} (h : k ∈ maskStalls m) : k < 24 := List.mem_range.1 (List.mem_of_mem_filter h)

/-- Each Stall of a list with its own change. -/
def stallsChanged (f : Nat → Stall → Stall) (ks : List Nat) (s : State) : State := ks.foldl (fun s k => modStall k (f k) s) s

theorem stallsChanged_stl (f : Nat → Stall → Stall) {ks : List Nat} (hks : ks.Nodup) (k : Fin 24) (s : State) :
    (stallsChanged f ks s).stl[k] = if k.val ∈ ks then f k.val s.stl[k] else s.stl[k] := by
  induction ks generalizing s with
  | nil => rfl
  | cons j ks ih =>
    obtain ⟨hj, hrest⟩ := List.nodup_cons.1 hks
    rw [stallsChanged, List.foldl_cons, ← stallsChanged, ih hrest]
    by_cases hkj : k.val = j
    · subst hkj
      rw [if_neg hj, if_pos List.mem_cons_self, modStall_same]
    · rw [modStall_other hkj]
      simp [hkj]

theorem stallsChanged_inMask {m : Nat} {k : Fin 24} (h : bit m k.val = true) (f : Nat → Stall → Stall) (s : State) :
    (stallsChanged f (maskStalls m) s).stl[k] = f k.val s.stl[k] := by
  rw [stallsChanged_stl f (maskStalls_nodup m), if_pos (mem_maskStalls.2 h)]

theorem stallsChanged_outside {m : Nat} {k : Fin 24} (h : bit m k.val = false) (f : Nat → Stall → Stall) (s : State) :
    (stallsChanged f (maskStalls m) s).stl[k] = s.stl[k] := by
  rw [stallsChanged_stl f (maskStalls_nodup m), if_neg fun hmem => by simp [mem_maskStalls.1 hmem] at h]

theorem stallsChanged_apart (f : Nat → Stall → Stall) (ks : List Nat) (s : State) :
    (stallsChanged f ks s).prod = s.prod ∧ (stallsChanged f ks s).well = s.well :=
  ⟨foldl_keeps State.prod (fun s k => modStall_prod k _ s) ks s, foldl_keeps State.well (fun s k => modStall_well k _ s) ks s⟩

/-- A fold whose steps change one Stall each, as long as a property holds that the changes keep. -/
theorem foldl_stallsChanged {P : State → Prop} {g : State → Nat → State} {f : Nat → Stall → Stall} {ks : List Nat}
    (hstep : ∀ u, P u → ∀ k : Fin 24, k.val ∈ ks → g u k.val = modStall k.val (f k.val) u) (hkeeps : ∀ u, P u → ∀ k, P (modStall k (f k) u))
    (hks : ∀ k ∈ ks, k < 24) {s : State} (h : P s) : ks.foldl g s = stallsChanged f ks s := by
  induction ks generalizing s with
  | nil => rfl
  | cons j ks ih =>
    rw [List.foldl_cons, hstep s h ⟨j, hks j List.mem_cons_self⟩ List.mem_cons_self, ih (fun u hu k hk => hstep u hu k (List.mem_cons_of_mem _ hk))
      (fun k hk => hks k (List.mem_cons_of_mem _ hk)) (hkeeps s h j)]
    rfl

end Sys2Proof.Machine
end

section
/-!
What a retired element and a change that asks for an epoch leave of the state.
-/
namespace Sys2Proof.Machine

/-! ### Epochs that are asked for (R185, R391) -/

theorem proposeIfDue_changes (s : State) : ∃ w u o, proposeIfDue s = { s with twn := w, ura := u, outbox := o } := by
  unfold proposeIfDue
  split
  · exact ⟨_, _, _, rfl⟩
  · dsimp only
    split
    · rw [uraraSend_frame]; exact ⟨_, _, _, rfl⟩
    · split
      · rw [uraraSend_frame]; exact ⟨_, _, _, rfl⟩
      · exact ⟨_, _, _, rfl⟩

theorem tellLead_changes (items : List (Nat × List Byte)) (placement : Bool) (s : State) :
    ∃ u o, tellLead items placement s = { s with ura := u, outbox := o } := by
  unfold tellLead
  split
  · rw [uraraSend_frame]; exact ⟨_, _, rfl⟩
  · exact ⟨_, _, rfl⟩

/-- The Mill, the products and the Well of a state. -/
def millProductsAndWell (s : State) : Mill × Products × Well := (s.mil, s.prod, s.well)

theorem placementDue_millProductsAndWell (s : State) : millProductsAndWell (placementDue s) = ({ s.mil with placeDue := true }, s.prod, s.well) := by
  obtain ⟨_, _, _, h⟩ := proposeIfDue_changes { s with mil.placeDue := true }
  rw [placementDue, h]
  rfl

theorem tellLead_millProductsAndWell (items : List (Nat × List Byte)) (placement : Bool) (s : State) :
    millProductsAndWell (tellLead items placement s) = millProductsAndWell s := by
  obtain ⟨_, _, h⟩ := tellLead_changes items placement s
  rw [h]
  rfl

theorem useSpareElems_millProductsAndWell (k old : Nat) (s : State) : millProductsAndWell (useSpareElems k old s) = millProductsAndWell s :=
  foldl_keeps millProductsAndWell (fun s i => by rw [granaryUse_frame]; rfl) _ s

/-! ### Retirement (R181, R260) -/

theorem retireElement_again {k chan reason : Nat} {s : State} (h : ∃ r ∈ s.mil.retired, r.stall = k ∧ r.channel = chan) : retireElement k chan reason s = s := by
  obtain ⟨r, hr, hstall, hchan⟩ := h
  exact if_pos (List.any_eq_true.2 ⟨r, hr, by simp [hstall, hchan]⟩)

theorem retireElement_new {k chan : Nat} {s : State} (h : ∀ r ∈ s.mil.retired, ¬ (r.stall = k ∧ r.channel = chan)) (reason : Nat) :
    let u := retireElement k chan reason s
    u.mil.retired = dropSpare k chan s.mil.retired ++ [{ stall := k, channel := chan, reason := reason }] ∧ u.mil.placeDue = true ∧
      u.mil.lines = s.mil.lines ∧ u.prod = s.prod ∧ u.well = s.well := by
  have hnone : ¬ (s.mil.retired.any fun r => r.stall == k && r.channel == chan) = true := by simpa using h
  obtain ⟨_, _, hkept⟩ := keepEpochs_changes s
  unfold retireElement
  rw [if_neg hnone, hkept]
  dsimp only
  generalize hu : placementDue _ = u
  have hleaves := congrArg millProductsAndWell hu
  rw [placementDue_millProductsAndWell] at hleaves
  generalize hv : tellLead _ _ _ = v at hleaves
  have hbefore := congrArg millProductsAndWell hv
  rw [tellLead_millProductsAndWell, useSpareElems_millProductsAndWell, notify_frame] at hbefore
  simp only [millProductsAndWell, Prod.mk.injEq] at hleaves hbefore
  obtain ⟨hmil, hprod, hwell⟩ := hleaves
  obtain ⟨hmil', hprod', hwell'⟩ := hbefore
  rw [← hmil, ← hprod, ← hwell, ← hmil', ← hprod', ← hwell']
  exact ⟨rfl, rfl, rfl, rfl, rfl⟩

/-- After its retirement an element stands among the retired ones. -/
theorem retireElement_retired (k chan reason : Nat) (s : State) : ∃ r ∈ (retireElement k chan reason s).mil.retired, r.stall = k ∧ r.channel = chan := by
  by_cases h : ∃ r ∈ s.mil.retired, r.stall = k ∧ r.channel = chan
  · rw [retireElement_again h]
    exact h
  · obtain ⟨hretired, -⟩ := retireElement_new (fun r hr hsame => h ⟨r, hr, hsame⟩) reason
    exact ⟨_, by rw [hretired]; exact List.mem_concat_self, rfl, rfl⟩

end Sys2Proof.Machine
end

section
/-!
FIRE_PERMIT, the withdrawal of permits, spit cycles with their drop windows, and the statement about them.
-/
namespace Sys2Proof.Machine

/-! ### A grant (R261, R263, R386) -/

/-- What the conditions of R261 read of a Stall. -/
def permitInputs (x : Stall) : Bool × Option W64 × Nat × Bool × StallCfg := (x.enable, x.headId, x.zonesHot, x.vppBad, x.cfg)

theorem permitable_of_inputs {s : State} {v : Vector Stall 24} (h : ∀ k : Fin 24, permitInputs v[k] = permitInputs s.stl[k]) (k : Fin 24) :
    permitable { s with stl := v } k.val = permitable s k.val := by
  have hk := h k
  simp only [permitInputs, Prod.mk.injEq] at hk
  obtain ⟨henable, hhead, hzones, hvpp, hcfg⟩ := hk
  have hident : identOk { s with stl := v } k.val = identOk s k.val := by
    simp only [identOk, stallOf_fin, hhead]; rfl
  have hspare : ∀ n, spareReady { s with stl := v } k.val n = spareReady s k.val n := fun n => by
    have hown : ∀ u : State, spareReady u k.val n = (laneUp u n && (laneOf u n).covers.isNone && !(laneOf u n).out && (laneOf u n).loopCid == 0
        && ((laneOf u n).fast == u.stl[k].cfg.fast && (laneOf u n).farHead.isSome && (laneOf u n).farHead == u.stl[k].headId)) := fun u => by
      simp [spareReady]
    rw [hown, hown]
    simp only [hcfg, hhead]
    rfl
  have hlock : stallLocked { s with stl := v } k.val = stallLocked s k.val := by
    simp only [stallLocked, readySpare, funext hspare]; rfl
  simp only [permitable, stallOf_fin, hident, hlock, henable, hzones, hvpp]
  rfl

theorem permitable_modStall {f : Stall → Stall} (hf : ∀ x, permitInputs (f x) = permitInputs x) (n : Nat) (s : State) (k : Fin 24) :
    permitable (modStall n f s) k.val = permitable s k.val := by
  have hkeeps := modStall_keepsStall permitInputs hf n s
  obtain ⟨v, hv⟩ := modStall_changes n f s
  rw [hv] at hkeeps ⊢
  exact permitable_of_inputs hkeeps k

/-- A Stall granted by FIRE_PERMIT: its latches are cleared. -/
def grantedStall (x : Stall) : Stall := { x with granted := true, faultLat := false, identLat := false, overLat := false }

/-- A Stall granted, with its output asserted where the unit's role asserts permits. -/
def permittedStall (drives : Bool) (x : Stall) : Stall :=
  if drives then { grantedStall x with permit := true, withdraw := none } else grantedStall x

theorem permittedStall_inputs (drives : Bool) (x : Stall) : permitInputs (permittedStall drives x) = permitInputs x := by
  cases drives <;> rfl

theorem permittedStall_granted (drives : Bool) (x : Stall) : (permittedStall drives x).granted = true ∧ (permittedStall drives x).faultLat = false ∧
    (permittedStall drives x).identLat = false ∧ (permittedStall drives x).overLat = false := by
  cases drives <;> exact ⟨rfl, rfl, rfl, rfl⟩

theorem sends_of_role {s : State} (h : s.twn.role ≠ .copying ∧ s.twn.role ≠ .isolated ∧ s.twn.role ≠ .yielded) : sends s = true := by
  obtain ⟨hcopying, hisolated, hyielded⟩ := h
  simp [sends, hcopying, hisolated, hyielded]

/-- Where the conditions of R261 hold, the grant is the only one that may lack: the output is asserted, or kept as it is by the role. -/
theorem refreshPermit_grants {k : Fin 24} {s : State} (h : permitable s k.val = true) :
    refreshPermit k.val (modStall k.val grantedStall s) = modStall k.val (permittedStall (sends s)) s := by
  have hable : permitable (modStall k.val grantedStall s) k.val = true := (permitable_modStall (f := grantedStall) (fun _ => rfl) k.val s k).trans h
  have hok : permitOk (modStall k.val grantedStall s) k.val = true := by
    simp only [permitOk, stallOf_fin, modStall_same, hable]; rfl
  have hrole : ((modStall k.val grantedStall s).twn.role != .copying && (modStall k.val grantedStall s).twn.role != .isolated &&
      (modStall k.val grantedStall s).twn.role != .yielded) = sends s := by rw [modStall_twn]; rfl
  unfold refreshPermit
  dsimp only
  rw [hok, Bool.true_and, hrole]
  cases hsends : sends s with
  | true => exact modStall_modStall k _ _ s
  | false =>
    simp only [permitable, Bool.and_eq_true] at hable
    obtain ⟨⟨⟨⟨⟨⟨hon, -⟩, henable⟩, hlock⟩, -⟩, -⟩, -⟩ := hable
    rw [if_neg Bool.false_ne_true, if_neg (by simp [hon, henable, hlock])]
    rfl

theorem grants_eq {m : Nat} {s : State} (h : ∀ k : Fin 24, bit m k.val = true → permitable s k.val = true) :
    (maskStalls m).foldl (fun s k => refreshPermit k (modStall k grantedStall s)) s = stallsChanged (fun _ => permittedStall (sends s)) (maskStalls m) s :=
  foldl_stallsChanged (P := fun u => sends u = sends s ∧ ∀ k : Fin 24, permitable u k.val = permitable s k.val)
    (fun u ⟨hrole, hable⟩ k hk => by rw [refreshPermit_grants ((hable k).trans (h k (mem_maskStalls.1 hk))), hrole])
    (fun u ⟨hrole, hable⟩ k => ⟨by rw [sends, modStall_twn]; exact hrole,
      fun j => (permitable_modStall (permittedStall_inputs _) k u j).trans (hable j)⟩)
    (fun _ => maskStalls_lt) ⟨rfl, fun _ => rfl⟩

section FirePermit
variable {t cid : Nat} {c : Slot} {s : State} (hstarts : Starts Op.firePermit cid c s)
include hstarts

theorem execFirePermit_grants (hgrant : parB c 1 0 = true) (hable : ∀ k : Fin 24, bit (parN c 0) k.val = true → permitable s k.val = true) :
    execFirePermit t cid s = .next (done c (stallsChanged (fun _ => permittedStall (sends s)) (maskStalls (parN c 0)) (startedAt t cid s))) := by
  have hable' : ∀ k : Fin 24, bit (parN c 0) k.val = true → permitable (startedAt t cid s) k.val = true := hable
  have hnone : ((maskStalls (parN c 0)).filter fun k => !permitable (startedAt t cid s) k) = [] :=
    List.filter_eq_nil_iff.2 fun k hk => by
      rw [hable' ⟨k, maskStalls_lt hk⟩ (mem_maskStalls.1 hk)]; exact Bool.false_ne_true
  rw [execFirePermit, onStart_starts hstarts]
  dsimp only
  rw [if_pos hgrant, hnone, if_neg (by decide)]
  exact congrArg (fun u => Host.Outcome.next (done c u)) (grants_eq hable')

theorem execFirePermit_denies (hgrant : parB c 1 0 = true) {bad : List Nat} (hbad : bad = (maskStalls (parN c 0)).filter fun k => !permitable s k)
    (hne : bad ≠ []) : execFirePermit t cid s =
      .next (finish c.cid Status.permitDenied 0 [word ((bad.map fun k => 2 ^ k).sum)] (startedAt t cid s)) := by
  have hbad' : ((maskStalls (parN c 0)).filter fun k => !permitable (startedAt t cid s) k) = bad := hbad.symm
  rw [execFirePermit, onStart_starts hstarts]
  dsimp only
  rw [if_pos hgrant, hbad', if_pos (by simpa using hne)]

end FirePermit

/-! ### A withdrawal (R262, R263) -/

/-- The output of a Stall whose permit is withdrawn at a moment: due to be released at the end of the line in progress, or released. -/
def withdrawnOutput (now : Nat) (x : Stall) : Stall :=
  if !x.permit then x
  else if now < x.lineEnd then { x with withdraw := some (x.withdraw.getD x.lineEnd) }
  else { x with permit := false, withdraw := none }

/-- A Stall whose grant and permit are withdrawn at a moment. -/
def withdrawnStall (now : Nat) (x : Stall) : Stall := withdrawnOutput now { x with granted := false }

theorem withdrawnOutput_output (now : Nat) (x : Stall) : (withdrawnOutput now x).granted = x.granted ∧
    ((withdrawnOutput now x).permit = false ∨ (withdrawnOutput now x).withdraw.isSome = true) := by
  unfold withdrawnOutput
  split
  · next hoff => exact ⟨rfl, .inl (by simpa using hoff)⟩
  · split
    · exact ⟨rfl, .inr rfl⟩
    · exact ⟨rfl, .inl rfl⟩

theorem withdrawals_eq (m : Nat) (s : State) :
    (maskStalls m).foldl (fun s k => withdrawPermit k (modStall k (fun st => { st with granted := false }) s)) s =
      stallsChanged (fun _ => withdrawnStall s.now) (maskStalls m) s :=
  foldl_stallsChanged (P := fun u => u.now = s.now)
    (fun u hnow k _ => by
      rw [← hnow, withdrawPermit, modStall_now]
      exact modStall_modStall k _ (withdrawnOutput u.now) u)
    (fun u hnow k => (modStall_now k _ u).trans hnow) (fun _ => maskStalls_lt) rfl

theorem execFirePermit_withdraws {t cid : Nat} {c : Slot} {s : State} (hstarts : Starts Op.firePermit cid c s) (hgrant : parB c 1 0 = false) :
    execFirePermit t cid s = .next (settlePermits (stallsChanged (fun _ => withdrawnStall (advance t s).now) (maskStalls (parN c 0)) (startedAt t cid s))) := by
  rw [execFirePermit, onStart_starts hstarts]
  dsimp only
  rw [hgrant, if_neg Bool.false_ne_true]
  exact congrArg (fun u => Host.Outcome.next (settlePermits u)) (withdrawals_eq _ (startedAt t cid s))

theorem settlePermits_prodAndWell (s : State) : (settlePermits s).prod = s.prod ∧ (settlePermits s).well = s.well := by
  have h := settlePermits_lanesProductsAndWell s
  simp only [lanesProductsAndWell, Prod.mk.injEq] at h
  exact h.2

/-! ### The effect of a withdrawal (R262) -/

section WithdrawEffect
variable {t m : Nat} {k : Fin 24} {s : State} (hdue : s.stl[k].withdraw = some m)
include hdue

theorem execPermitWithdrawEffect_due (hnow : m ≤ (advance t s).now) :
    execPermitWithdrawEffect t k s = .next (settlePermits (releasePermit k.val (advance t s))) := by
  have hdue' : (stallOf (advance t s) k.val).withdraw = some m := by rw [stallOf_fin]; exact hdue
  simp only [execPermitWithdrawEffect, onEvent, hdue', if_neg (Nat.not_lt.2 hnow)]

theorem execPermitWithdrawEffect_early (hnow : (advance t s).now < m) : execPermitWithdrawEffect t k s = .next (advance t s) := by
  have hdue' : (stallOf (advance t s) k.val).withdraw = some m := by rw [stallOf_fin]; exact hdue
  simp only [execPermitWithdrawEffect, onEvent, hdue', if_pos hnow]

end WithdrawEffect

/-! ### A spit cycle begins (R257) -/

theorem serviceChannels_modStall {f : Stall → Stall} (hf : ∀ x, (f x).rows = x.rows) (n : Nat) (s : State) (k : Fin 24) :
    serviceChannels (modStall n f s) k.val = serviceChannels s k.val := by
  unfold serviceChannels
  simp only [modStall_mil, stallOf_fin, modStall_keepsStall Stall.rows hf]

/-- An enabled Stall at the begin of the spit cycle of a command. -/
def spittingStall (c : Slot) (s : State) (k : Nat) (x : Stall) : Stall :=
  if x.enable then { x with spit := some {
    cid := c.cid, cls := parF c 1 3 0, check := parB c 1 4, fires := parF c 1 15 8, todo := serviceChannels s k, left := parF c 1 15 8,
    ended := (serviceChannels s k).isEmpty } }
  else x

theorem spittingStall_rows (c : Slot) (s : State) (k : Nat) (x : Stall) : (spittingStall c s k x).rows = x.rows := by
  unfold spittingStall; split <;> rfl

theorem spittingStall_off (c : Slot) (s : State) (k : Nat) {x : Stall} (h : x.enable = false) : spittingStall c s k x = x := by
  rw [spittingStall, h, if_neg Bool.false_ne_true]

/-- A cycle that has not ended on some Stall is not answered. -/
theorem settleSpit_waits {k : Fin 24} {x : Spit} {s : State} (h : s.stl[k].spit = some x) (hopen : x.ended = false) : settleSpit x.cid s = s := by
  unfold settleSpit
  dsimp only
  refine if_neg fun hall => ?_
  have hmem : x ∈ (elems s.stl).filterMap fun st => match st.spit with | some y => if y.cid = x.cid then some y else none | none => none := by
    refine List.mem_filterMap.2 ⟨s.stl[k], Vector.mem_toList_iff.2 (Vector.getElem_mem k.isLt), ?_⟩
    simp [h, -Fin.getElem_fin]
  rw [List.all_eq_true.1 hall x hmem] at hopen
  cases hopen

theorem execSpitCycle_begins {t cid : Nat} {c : Slot} {s : State} (hstarts : Starts Op.spitCycle cid c s) (hcls : parF c 1 3 0 ≠ 0) (hfires : parF c 1 15 8 ≠ 0)
    (hruns : runsSpit s = true) (hfree : ∀ k : Fin 24, bit (parN c 0) k.val = true → s.stl[k].spit = none) :
    execSpitCycle t cid s = .next (settleSpit c.cid (stallsChanged (spittingStall c s) (maskStalls (parN c 0)) (startedAt t cid s))) := by
  have hbusy : ((maskStalls (parN c 0)).any fun k => (stallOf (startedAt t cid s) k).spit.isSome) = false :=
    List.any_eq_false.2 fun k hk => by
      have hnone : (startedAt t cid s).stl[(⟨k, maskStalls_lt hk⟩ : Fin 24)].spit = none := hfree ⟨k, maskStalls_lt hk⟩ (mem_maskStalls.1 hk)
      rw [show stallOf (startedAt t cid s) k = _ from stallOf_fin _ ⟨k, maskStalls_lt hk⟩, hnone]
      exact Bool.false_ne_true
  rw [execSpitCycle, onStart_starts hstarts]
  dsimp only
  rw [if_neg (by simp [hcls, hfires]), hbusy, if_neg Bool.false_ne_true]
  refine congrArg (fun u => Host.Outcome.next (settleSpit c.cid u)) ?_
  refine foldl_stallsChanged (P := fun u => runsSpit u = true ∧ ∀ k : Fin 24, serviceChannels u k.val = serviceChannels s k.val) ?step ?keeps
    (fun _ => maskStalls_lt) ⟨hruns, fun _ => rfl⟩
  case step =>
    rintro u ⟨hrun, hchans⟩ k -
    rw [hrun, Bool.not_true, Bool.or_false, stallOf_fin, hchans]
    cases henable : u.stl[k].enable with
    | true => exact modStall_congr (by simp only [spittingStall, henable, if_true])
    | false => exact (modStall_unchanged (spittingStall_off c s k.val henable)).symm
  case keeps =>
    rintro u ⟨hrun, hchans⟩ k
    exact ⟨by rw [runsSpit, modStall_twn]; exact hrun, fun j => (serviceChannels_modStall (spittingStall_rows c s k) k u j).trans (hchans j)⟩

/-! ### The next channel of a cycle (R257) -/

/-- The Mill, and what a Stall counts of its spit fires and of the checks without a drop. -/
def spitTally (s : State) (k : Fin 24) : Mill × Nat × List Nat := (s.mil, s.stl[k].spitN, s.stl[k].noDrop)

theorem modStall_spitTally {f : Stall → Stall} (hf : ∀ x, ((f x).spitN, (f x).noDrop) = (x.spitN, x.noDrop)) (n : Nat) (s : State) (k : Fin 24) :
    spitTally (modStall n f s) k = spitTally s k := by
  have h := modStall_keepsStall (fun x => (x.spitN, x.noDrop)) hf n s k
  exact congrArg₂ Prod.mk (modStall_mil n f s) h

theorem settleSpit_spitTally (cid : Nat) (s : State) (k : Fin 24) : spitTally (settleSpit cid s) k = spitTally s k := by
  unfold settleSpit
  dsimp only
  split
  · simp only [spitTally, finish_mil, finish_stl, Fin.getElem_fin, Vector.getElem_map]
    split
    · split <;> rfl
    · rfl
  · rfl

theorem nextChannel_spitTally (n : Nat) (s : State) (k : Fin 24) : spitTally (nextChannel n s) k = spitTally s k := by
  unfold nextChannel
  split
  · rfl
  · dsimp only
    split
    · exact (settleSpit_spitTally _ _ k).trans (modStall_spitTally (by exact fun _ => rfl) n s k)
    · exact modStall_spitTally (by exact fun _ => rfl) n s k

theorem nextChannel_goesOn {k : Fin 24} {x : Spit} {chan : Nat} {rest : List Nat} {s : State} (h : s.stl[k].spit = some x) (htodo : x.todo = chan :: rest)
    (hrest : rest ≠ []) : (nextChannel k.val s).stl[k].spit = some { x with todo := rest, left := x.fires, window := none, drop := false, ended := false } := by
  have hmore : rest.isEmpty = false := by simpa using hrest
  simp only [nextChannel, stallOf_fin, h, htodo, List.drop_one, List.tail_cons, hmore, Bool.false_eq_true, if_false, modStall_same]

/-! ### A spit fire (R257) -/

/-- A spit frame of a channel with its fire block has left, and its dose is accounted. -/
def spitSent (k chan : Nat) (p : Spit) (s : State) : State :=
  let x := stallOf s k
  let ep := epochOf s s.mil.placeEpochs s.mil.placeEpoch
  let words := stallWords (channelsOf s ep k) (fun c => if c = chan then p.cls else 0)
  let fr : Frame := { line := x.spitN, spit := true, bank := x.bank, rowBank := x.rowBank, words := words, firedAt := some s.now }
  let s := sendFrame k fr (modStall k (fun st => { st with frames := st.frames ++ [fr], spitN := st.spitN + 1, tPrev := some s.now }) s)
  let s := account k [{ chan := chan, code := p.cls, source := 0, plane := 0, product := none, job := 0 }] s
  countStall k 0 (emit (.head k 3 [fireWord s x.spitN]) s)

/-- Whether the fire of a cycle is the last one of a channel whose drop is checked. -/
def watchesDrop (p : Spit) (x : Stall) : Bool := decide (p.left = 1) && p.check && x.cfg.check == 1

theorem watchesDrop_more {p : Spit} (h : p.left ≠ 1) (x : Stall) : watchesDrop p x = false := by
  rw [watchesDrop, decide_eq_false h]; rfl

theorem watchesDrop_checked {p : Spit} {x : Stall} (hlast : p.left = 1) (hcheck : p.check = true) (hcfg : x.cfg.check = 1) : watchesDrop p x = true := by
  rw [watchesDrop, hlast, hcheck, hcfg]; rfl

theorem watchesDrop_unchecked {p : Spit} {x : Stall} (h : p.check = false ∨ x.cfg.check ≠ 1) : watchesDrop p x = false := by
  rcases h with hcheck | hcfg
  · simp [watchesDrop, hcheck]
  · simp [watchesDrop, hcfg]

/-- A fire of a spit cycle: the frame has left, the count of the channel is lowered and its drop window may open. -/
def spitFired (k chan : Nat) (p : Spit) (watch : Bool) (s : State) : State :=
  let s := spitSent k chan p s
  modStall k (fun st =>
    { st with spit := some { p with left := p.left - 1, last := some s.now, drop := false, window := if watch then some (dropWindow s k chan) else none } }) s

theorem spitSent_stall (k : Fin 24) (chan : Nat) (p : Spit) (s : State) : (spitSent k.val chan p s).stl[k].spitN = s.stl[k].spitN + 1 ∧
    (spitSent k.val chan p s).now = s.now := by
  simp only [spitSent, countStall, account, sendFrame, sendMessage, modStall_same, modStall_now, emit_stl, emit_now, and_self]

theorem spitFired_stall (k : Fin 24) (chan : Nat) (p : Spit) (watch : Bool) (s : State) : (spitFired k.val chan p watch s).stl[k].spitN = s.stl[k].spitN + 1 ∧
    ∃ w : Nat × Nat × Nat, w.2.2 = chan ∧ (spitFired k.val chan p watch s).stl[k].spit =
      some { p with left := p.left - 1, last := some s.now, drop := false, window := if watch then some w else none } := by
  obtain ⟨hcount, hnow⟩ := spitSent_stall k chan p s
  unfold spitFired
  dsimp only
  rw [modStall_same, hnow]
  exact ⟨hcount, dropWindow (spitSent k.val chan p s) k.val chan, rfl, rfl⟩

theorem execSpitFire_fires {t chan : Nat} {k : Fin 24} {p : Spit} {rest : List Nat} {s : State} (hspit : s.stl[k].spit = some p) (htodo : p.todo = chan :: rest)
    (hopen : p.ended = false) (hwindow : p.window = none) (hlate : ∀ m, p.last = some m → m + spitGap s s.stl[k] ≤ (advance t s).now)
    (hfar : ∀ m, s.stl[k].tPrev = some m → m + tMin s.stl[k] ≤ (advance t s).now) (hidle : stallProducts s k.val false = []) (hruns : runsSpit s = true)
    (hsends : maySend s k.val = true) : execSpitFire t k s = .next (if p.left = 1 && !watchesDrop p s.stl[k] then
        nextChannel k.val (spitFired k.val chan p (watchesDrop p s.stl[k]) (advance t s))
      else spitFired k.val chan p (watchesDrop p s.stl[k]) (advance t s)) := by
  have hstall : stallOf (advance t s) k.val = s.stl[k] := stallOf_fin _ k
  have hidle' : stallProducts (advance t s) k.val false = [] := hidle
  have hruns' : runsSpit (advance t s) = true := hruns
  have hsends' : maySend (advance t s) k.val = true := hsends
  unfold execSpitFire onEvent
  dsimp only
  rw [hstall, hidle', hruns', hsends']
  split
  · next hnone => rw [hspit] at hnone; cases hnone
  next q hq =>
  obtain rfl : p = q := Option.some.inj (hspit.symm.trans hq)
  split
  · next hnil => rw [htodo] at hnil; cases hnil
  next first others hfirst =>
  obtain ⟨rfl, rfl⟩ : chan = first ∧ rest = others := List.cons.inj (htodo.symm.trans hfirst)
  rw [if_neg ?waits]
  case waits =>
    rw [hopen, hwindow]
    simp only [Option.isSome_none, Bool.or_false, Bool.false_or, List.isEmpty_nil, Bool.not_true, Bool.or_eq_true, not_or]
    constructor
    · split
      · next m hm => exact fun hsoon => Nat.not_lt.2 (hlate m hm) (of_decide_eq_true hsoon)
      · exact Bool.false_ne_true
    · split
      · next m hm => exact fun hsoon => Nat.not_lt.2 (hfar m hm) (of_decide_eq_true hsoon)
      · exact Bool.false_ne_true
  rw [spitFired, spitSent, hstall]
  rfl

/-! ### The drop window (R257) -/

/-- What an edge on a drop input shows one Stall. -/
def dropSeen (now : Nat) (g : Fin 4) (rising : Bool) (x : Stall) : Stall :=
  match x.spit with
  | some p =>
    let seen := match p.window with | some w => within w.1 w.2.1 now | none => false
    if seen && bit x.cfg.ogMask g.val && rising != x.cfg.ogFalling then { x with spit := some { p with drop := true } } else x
  | none => x

theorem execOgEdge_eq (t : Nat) (g : Fin 4) (rising : Bool) (s : State) :
    execOgEdge t g rising s = .next { advance t s with stl := s.stl.map (dropSeen (advance t s).now g rising) } := rfl

theorem dropSeen_inWindow {now : Nat} {g : Fin 4} {rising : Bool} {x : Stall} {p : Spit} {w : Nat × Nat × Nat} (hspit : x.spit = some p)
    (hwindow : p.window = some w) (hmask : bit x.cfg.ogMask g.val = true) (hedge : rising ≠ x.cfg.ogFalling) (hin : within w.1 w.2.1 now = true) :
    dropSeen now g rising x = { x with spit := some { p with drop := true } } := by
  simp [dropSeen, hspit, hwindow, hmask, hedge, hin]

/-- A Stall at the end of the check of a channel, the second in a row without a drop where `second` says that the one before saw none. -/
def checkedStall (p : Spit) (chan : Nat) (second : Bool) (x : Stall) : Stall :=
  { x with
    noDrop := if p.drop || second then x.noDrop.filter (· != chan) else x.noDrop ++ [chan],
    spit := some { p with checked := p.checked + 1, retired := p.retired + flag (!p.drop && second) } }

/-- The end of the check of a channel on its Stall. -/
def dropChecked (k : Fin 24) (p : Spit) (chan : Nat) (s : State) : State := modStall k.val (checkedStall p chan (s.stl[k].noDrop.contains chan)) s

theorem dropChecked_leaves (k : Fin 24) (p : Spit) (chan : Nat) (s : State) : (dropChecked k p chan s).mil = s.mil ∧
    (dropChecked k p chan s).stl[k].noDrop =
      if p.drop || s.stl[k].noDrop.contains chan then s.stl[k].noDrop.filter (· != chan) else s.stl[k].noDrop ++ [chan] :=
  ⟨modStall_mil _ _ _, by rw [dropChecked, modStall_same]; rfl⟩

theorem execSpitDropWindowEnd_due {t b e chan : Nat} {k : Fin 24} {p : Spit} {s : State} (hspit : s.stl[k].spit = some p) (hwindow : p.window = some (b, e, chan))
    (hdue : e ≤ (advance t s).now) : execSpitDropWindowEnd t k s = .next (nextChannel k.val (if !p.drop && s.stl[k].noDrop.contains chan then
        retireElement k.val chan 3 (dropChecked k p chan (advance t s)) else dropChecked k p chan (advance t s))) := by
  have hstall : stallOf (advance t s) k.val = s.stl[k] := stallOf_fin _ k
  unfold execSpitDropWindowEnd onEvent
  dsimp only
  rw [hstall]
  split
  · next hnone => rw [hspit] at hnone; cases hnone
  next q hq =>
  obtain rfl : p = q := Option.some.inj (hspit.symm.trans hq)
  split
  · next hnone => rw [hwindow] at hnone; cases hnone
  next b' e' chan' hw =>
  obtain ⟨rfl, rfl, rfl⟩ : b = b' ∧ e = e' ∧ chan = chan' := by simpa using hwindow.symm.trans hw
  rw [if_neg (Nat.not_lt.2 hdue)]
  rfl

/-- Settles O24: the Stalls of a mask change one by one, a spit fire and the end of a drop window are one equation each, and what the next channel leaves is
said by `spitTally`. -/
theorem permitsAndSpits : Obligations.PermitsAndSpits := by
  refine ⟨⟨fun t cid c s hstarts => ⟨fun hgrant hable => ?grant, fun bad hgrant hbad hne => execFirePermit_denies hstarts hgrant hbad hne,
      fun hgrant => ?withdraw⟩, fun t m k s hdue => ⟨fun hnow => ?effect, execPermitWithdrawEffect_early hdue⟩⟩,
    fun t cid c s hstarts hcls hfires hruns hfree k hk henable hchans => ?cycle,
    fun t chan k p rest s hspit htodo hopen hwindow hlate hfar hidle hruns hsends => ?fire,
    fun t g rising s => ⟨_, execOgEdge_eq t g rising s, rfl, fun k p w hspit hwindow hmask hedge hin => ?edge⟩,
    fun t b e chan k p s hspit hwindow hdue => ⟨_, execSpitDropWindowEnd_due hspit hwindow hdue, ?window⟩⟩
  case grant =>
    refine ⟨_, execFirePermit_grants hstarts hgrant hable, starts_cid hstarts ▸ finish_ended _ _ _ _ _, fun k hk => ?_, fun k hk => ?_⟩
    · rw [done, finish_stl, stallsChanged_inMask hk]
      obtain ⟨hgranted, hfault, hident, hover⟩ := permittedStall_granted (sends s) s.stl[k]
      exact ⟨hgranted, hfault, hident, hover, fun hrole => by rw [sends_of_role hrole]; rfl⟩
    · rw [done, finish_stl, stallsChanged_outside hk]
      rfl
  case withdraw =>
    obtain ⟨hprod, hwell⟩ := settlePermits_prodAndWell (stallsChanged (fun _ => withdrawnStall (advance t s).now) (maskStalls (parN c 0)) (startedAt t cid s))
    obtain ⟨hprod', hwell'⟩ := stallsChanged_apart (fun _ => withdrawnStall (advance t s).now) (maskStalls (parN c 0)) (startedAt t cid s)
    refine ⟨_, execFirePermit_withdraws hstarts hgrant, fun k hk => ?_, fun k hk => ?_, hprod.trans hprod', hwell.trans hwell'⟩
    · rw [settlePermits_stl, stallsChanged_inMask hk]
      exact withdrawnOutput_output _ _
    · rw [settlePermits_stl, stallsChanged_outside hk]
      rfl
  case effect =>
    obtain ⟨hprod, hwell⟩ := settlePermits_prodAndWell (releasePermit k.val (advance t s))
    refine ⟨_, execPermitWithdrawEffect_due hdue hnow, ?_, ?_, hprod.trans (modStall_prod _ _ _), hwell.trans (modStall_well _ _ _)⟩
    all_goals rw [settlePermits_stl, releasePermit, modStall_same]
  case cycle =>
    have hspit : (stallsChanged (spittingStall c s) (maskStalls (parN c 0)) (startedAt t cid s)).stl[k].spit = some {
        cid := c.cid, cls := parF c 1 3 0, check := parB c 1 4, fires := parF c 1 15 8, todo := serviceChannels s k.val, left := parF c 1 15 8,
        ended := false } := by
      rw [stallsChanged_inMask hk, spittingStall, if_pos (show (startedAt t cid s).stl[k].enable = true from henable), List.isEmpty_eq_false_iff.2 hchans]
    obtain ⟨hprod, hwell⟩ := stallsChanged_apart (spittingStall c s) (maskStalls (parN c 0)) (startedAt t cid s)
    have hbegins := execSpitCycle_begins (t := t) hstarts hcls hfires hruns hfree
    rw [settleSpit_waits hspit rfl] at hbegins
    exact ⟨_, hbegins, hspit, hprod, hwell⟩
  case fire =>
    have hfires := execSpitFire_fires hspit htodo hopen hwindow hlate hfar hidle hruns hsends
    obtain ⟨hcount, w, hchan, hcycle⟩ := spitFired_stall k chan p (watchesDrop p s.stl[k]) (advance t s)
    generalize spitFired k.val chan p (watchesDrop p s.stl[k]) (advance t s) = u at hfires hcount hcycle
    refine ⟨_, hfires, ?_, fun hmore => ?_, fun hlast hcheck hcfg => ?_, fun hlast hquiet hrest => ?_⟩
    · split
      · exact (congrArg (fun x => x.2.1) (nextChannel_spitTally k.val u k)).trans hcount
      · exact hcount
    · rw [if_neg (by simp [hmore]), hcycle, watchesDrop_more hmore]
      rfl
    · have hwatch := watchesDrop_checked (x := s.stl[k]) hlast hcheck hcfg
      rw [hwatch, if_neg (by simp), hcycle, hwatch, hlast]
      exact ⟨w, rfl, hchan⟩
    · rw [watchesDrop_unchecked hquiet, if_pos (by simp [hlast])]
      exact ⟨_, nextChannel_goesOn hcycle htodo hrest, rfl, rfl, rfl⟩
  case edge =>
    simp only [Fin.getElem_fin, Vector.getElem_map]
    exact dropSeen_inWindow hspit hwindow hmask hedge hin
  case window =>
    have htally := fun u : State => nextChannel_spitTally k.val u k
    simp only [spitTally, Prod.mk.injEq] at htally
    obtain ⟨hmil, -, hnoDrop⟩ := htally (dropChecked k p chan (advance t s))
    obtain ⟨hmil', hnoDrop'⟩ := dropChecked_leaves k p chan (advance t s)
    refine ⟨fun hdrop => ?_, fun hdrop hfirst => ?_, fun hdrop hsecond => ?_⟩
    · rw [if_neg (by simp [hdrop]), hmil, hnoDrop, hmil', hnoDrop', if_pos (by simp [hdrop])]
      exact ⟨rfl, by simp⟩
    · have hnot : s.stl[k].noDrop.contains chan = false := by simpa using hfirst
      rw [hnot, if_neg (by simp), hmil, hnoDrop, hmil', hnoDrop', if_neg (by rw [advance_stl, hnot, hdrop]; simp)]
      exact ⟨rfl, List.mem_concat_self⟩
    · rw [hdrop, List.contains_iff_mem.2 hsecond, if_pos (by rfl), (htally _).1]
      exact retireElement_retired _ _ _ _

end Sys2Proof.Machine
end

section
/-!
STALL_CONFIG with its time limit, DUTY_LIMITS, ELEMENT_RETIRE and HEAD_STATUS, and the statement about them.
-/
namespace Sys2Proof.Machine

/-! ### The settings of a Stall (R222, R223) -/

/-- The settings and frames of a Stall, with the products, the motion and the Well. -/
def stallSettings (k : Fin 24) (s : State) : (Bool × List GeomRow × List GeomRow × StallCfg × List Frame) × Products × Motion × Well :=
  ((s.stl[k].enable, s.stl[k].rows, s.stl[k].spares, s.stl[k].cfg, s.stl[k].frames), s.prod, s.mot, s.well)

theorem modStall_stallSettings {f : Stall → Stall}
    (hf : ∀ x, ((f x).enable, (f x).rows, (f x).spares, (f x).cfg, (f x).frames) = (x.enable, x.rows, x.spares, x.cfg, x.frames))
    (n : Nat) (s : State) (k : Fin 24) : stallSettings k (modStall n f s) = stallSettings k s := by
  have hkeeps := modStall_keepsStall (fun x => (x.enable, x.rows, x.spares, x.cfg, x.frames)) hf n s k
  simp only [stallSettings, modStall_prod, modStall_mot, modStall_well]
  rw [hkeeps]

theorem finish_stallSettings (cid status fault : Nat) (ws : List W64) (s : State) (k : Fin 24) :
    stallSettings k (finish cid status fault ws s) = stallSettings k s := by
  rw [finish_frame]; rfl

theorem modLane_stallSettings (n : Nat) (f : Lane → Lane) (s : State) (k : Fin 24) : stallSettings k (modLane n f s) = stallSettings k s := by
  simp only [stallSettings, modLane_stl, modLane_prod, modLane_mot, modLane_well]

theorem settlePermits_stallSettings (s : State) (k : Fin 24) : stallSettings k (settlePermits s) = stallSettings k s := by
  refine foldl_keeps (stallSettings k) (fun s c => ?_) _ s
  split
  · exact finish_stallSettings _ _ _ _ s k
  · rfl

theorem refreshPermit_stallSettings (n : Nat) (s : State) (k : Fin 24) : stallSettings k (refreshPermit n s) = stallSettings k s := by
  unfold refreshPermit
  dsimp only
  split
  · exact modStall_stallSettings (by exact fun _ => rfl) n s k
  · split
    · exact (settlePermits_stallSettings _ k).trans (modStall_stallSettings (by exact fun _ => rfl) n s k)
    · rfl

theorem sendConfig_stallSettings (n : Nat) (s : State) (k : Fin 24) : stallSettings k (sendConfig n s) = stallSettings k s := by
  unfold sendConfig sendMessage
  dsimp only
  refine (modStall_stallSettings (by exact fun _ => rfl) n _ k).trans ((modStall_stallSettings (by exact fun _ => rfl) n _ k).trans ?_)
  exact modStall_stallSettings (f := fun st => { st with cfgSeq := some st.seq }) (fun _ => rfl) n s k

theorem settleStallConfig_stallSettings (n : Nat) (s : State) (k : Fin 24) : stallSettings k (settleStallConfig n s) = stallSettings k s := by
  unfold settleStallConfig
  dsimp only
  split
  · split
    · exact (finish_stallSettings _ _ _ _ _ k).trans (modStall_stallSettings (by exact fun _ => rfl) n s k)
    · rfl
  · rfl

theorem dropStallWait_stallSettings (n : Nat) (s : State) (k : Fin 24) : stallSettings k (dropStallWait n s) = stallSettings k s := by
  unfold dropStallWait
  split
  · rfl
  · exact (finish_stallSettings _ _ _ _ _ k).trans (modStall_stallSettings (by exact fun _ => rfl) n s k)

theorem freeSpare_stallSettings (n : Nat) (s : State) (k : Fin 24) : stallSettings k (freeSpare n s) = stallSettings k s := by
  unfold freeSpare huntLane
  split
  · rfl
  · rw [modLane_stallSettings, modLane_stallSettings, modLane_stallSettings]

/-! ### A Stall that is configured (R223, R224, R273) -/

/-- The lane of a Stall that was configured stays UP, with a config message, or hunts at the rate asked for. -/
def laneFollows (fast keep : Bool) (k : Nat) (s : State) : State :=
  if keep then settleStallConfig k (refreshPermit k (sendConfig k s))
  else
    let s := modStall k (fun st => { st with headId := none, identNew := false }) (freeSpare k s)
    let s := modLane k (fun l => { l with fast := fast, failing := false, alone := false, kept := false, lostAt := none }) s
    refreshPermit k (if lanePowered s k then huntLane k s else s)

theorem laneFollows_stallSettings (fast keep : Bool) (n : Nat) (s : State) (k : Fin 24) : stallSettings k (laneFollows fast keep n s) = stallSettings k s := by
  unfold laneFollows
  cases keep with
  | true => exact (settleStallConfig_stallSettings n _ k).trans ((refreshPermit_stallSettings n _ k).trans (sendConfig_stallSettings n s k))
  | false =>
    have hhunt : ∀ u : State, stallSettings k (if lanePowered u n then huntLane n u else u) = stallSettings k u := fun u => by
      split
      · exact modLane_stallSettings n _ u k
      · rfl
    rw [if_neg Bool.false_ne_true, refreshPermit_stallSettings, hhunt, modLane_stallSettings]
    exact (modStall_stallSettings (by exact fun _ => rfl) n _ k).trans (freeSpare_stallSettings n s k)

/-- The commands that wait for a Stall, its Granary entry and its broken record before it takes new settings. -/
def stallCleared (k : Nat) (s : State) : State :=
  let s := dropStallWait k s
  mendConfig (fun h => match h with | .stall q _ => q.val == k | _ => false) (if (stallOf s k).enable then s else granaryCount 3 0 s)

theorem stallCleared_stallSettings (n : Nat) (s : State) (k : Fin 24) : stallSettings k (stallCleared n s) = stallSettings k s := by
  refine Eq.trans (b := stallSettings k (dropStallWait n s)) ?_ (dropStallWait_stallSettings n s k)
  unfold stallCleared
  dsimp only
  split <;> rfl

theorem enableStall_stallSettings (c : Slot) (k : Fin 24) (act spare : List GeomRow) (s : State) :
    stallSettings k (enableStall c k.val act spare s) = ((true, act, spare, stallCfgOf c s.stl[k].cfg, []), s.prod, s.mot, s.well) := by
  have hcfg : (stallOf (dropStallWait k.val s) k.val).cfg = s.stl[k].cfg := by
    rw [stallOf_fin]
    exact congrArg (fun x => x.1.2.2.2.1) (dropStallWait_stallSettings k.val s k)
  have hcleared := stallCleared_stallSettings k.val s k
  simp only [stallSettings, Prod.mk.injEq] at hcleared
  obtain ⟨-, hprod, hmot, hwell⟩ := hcleared
  unfold enableStall
  dsimp only
  rw [hcfg]
  refine (laneFollows_stallSettings (stallCfgOf c s.stl[k].cfg).fast _ k.val _ k).trans ((modStall_stallSettings (by exact fun _ => rfl) k.val _ k).trans ?_)
  rw [stallSettings, modStall_same, modStall_prod, modStall_mot, modStall_well]
  exact congrArg (Prod.mk _) (by rw [← hprod, ← hmot, ← hwell]; rfl)

/-! ### A Stall that is unconfigured (R223, R282) -/

theorem disableStall_stall (k : Fin 24) (s : State) : let u := disableStall k.val s
    u.stl[k].enable = false ∧ u.stl[k].rows = [] ∧ u.stl[k].permit = false ∧ u.stl[k].headId = none ∧ u.prod = s.prod ∧ u.well = s.well := by
  have hbefore := (freeSpare_stallSettings k.val (dropStallWait k.val s) k).trans (dropStallWait_stallSettings k.val s k)
  simp only [stallSettings, Prod.mk.injEq] at hbefore
  obtain ⟨-, hprod, -, hwell⟩ := hbefore
  have hafter := fun u : State => settlePermits_prodAndWell u
  unfold disableStall
  dsimp only
  rw [settlePermits_stl, (hafter _).1, (hafter _).2, releasePermit, modStall_same, modStall_prod, modStall_well, modLane_stl, modLane_prod, modLane_well,
    modStall_same, modStall_prod, modStall_well, hprod, hwell]
  exact ⟨rfl, rfl, rfl, rfl, rfl, rfl⟩

/-! ### STALL_CONFIG (R222, R223, R496) -/

section StallConfig
variable {t cid : Nat} {c : Slot} {k : Fin 24} {s : State} (hstarts : Starts Op.stallConfig cid c s) (hlane : laneRun s (parN c 0 % 32) = false)
  (hk : parF c 0 4 0 = k.val) (hfree : stallNamed s k.val = false)
include hstarts hlane hk hfree

/-- STALL_CONFIG of a Stall that no active job names and whose lane no run holds. -/
theorem execStallConfig_free : execStallConfig t cid s = .next (
    if !parB c 1 0 then done c (disableStall k.val (startedAt t cid s))
    else if !stallParamsOk c then refuse c Status.badParameter (startedAt t cid s)
    else withObject c (parN c 2) (parN c 3) (configStall c k.val) (startedAt t cid s)) := by
  have hlane' : laneRun (advance t s) ((parOf s cid 0).toNat % 32) = false := by rw [parOf_starts hstarts]; exact hlane
  have hfree' : stallNamed (startedAt t cid s) k.val = false := hfree
  rw [execStallConfig, hlane', if_neg Bool.false_ne_true, onStart_starts hstarts]
  dsimp only
  rw [hk, if_neg (Nat.not_lt.2 (Nat.le_of_lt_succ k.isLt)), hfree', if_neg Bool.false_ne_true]

theorem execStallConfig_disables (hoff : parB c 1 0 = false) : execStallConfig t cid s = .next (done c (disableStall k.val (startedAt t cid s))) := by
  rw [execStallConfig_free hstarts hlane hk hfree, hoff]
  rfl

theorem execStallConfig_configures (hon : parB c 1 0 = true) (hparams : stallParamsOk c = true) (hrange : rangeFailure s (parN c 2) (parN c 3) = none)
    (hgood : poisoned s (parN c 2) (parN c 3) = false) :
    execStallConfig t cid s = .next (configStall c k.val (wellRead s (parN c 2) (parN c 3)) (startedAt t cid s)) := by
  have hreads : withObject c (parN c 2) (parN c 3) (configStall c k.val) (startedAt t cid s) = _ := withObject_reads hrange hgood
  rw [execStallConfig_free hstarts hlane hk hfree, hon, hparams, Bool.not_true, if_neg Bool.false_ne_true, if_neg Bool.false_ne_true, hreads]
  rfl

end StallConfig

/-- A row list in order that stays within the limits configures the Stall. -/
theorem configStall_enables {c : Slot} {k : Nat} {bs : List Byte} {rows : List GeomRow} {s : State}
    (hrows : entries (geomEntry bs 0) (parF c 1 21 16 + parF c 1 27 24) 0 = some rows)
    (hok : rowsOk k (rows.take (parF c 1 21 16)) (rows.drop (parF c 1 21 16)) = true) (htemps : (stallCfgOf c {}).tReduce < (stallCfgOf c {}).tAbs)
    (hvpp : (stallCfgOf c {}).vppMin < (stallCfgOf c {}).vppMax)
    (hactive : channelSum s k (·.rows) + ((rows.take (parF c 1 21 16)).map (·.count)).sum ≤ 262144)
    (hspare : channelSum s k (·.spares) + ((rows.drop (parF c 1 21 16)).map (·.count)).sum ≤ 16384)
    (hfits : blocksFit (stallCfgOf c {}) (frameBlocks (ceilDiv (max (((rows.take (parF c 1 21 16)).map fun r => r.first + r.count).foldl max 0)
      (((rows.drop (parF c 1 21 16)).map fun r => 16384 + r.first + r.count).foldl max 0)) 18) false 0) = true) :
    configStall c k bs s = enableStall c k (rows.take (parF c 1 21 16)) (rows.drop (parF c 1 21 16)) s := by
  unfold configStall
  dsimp only
  rw [hrows]
  dsimp only
  rw [hok, hfits, decide_eq_false (Int.not_le.2 htemps), decide_eq_false (Nat.not_le.2 hvpp), if_neg (by decide),
    if_neg (not_or.2 ⟨Nat.not_lt.2 hactive, Nat.not_lt.2 hspare⟩), if_neg (by decide)]

theorem execStallConfigLaneTimeout_due {t : Nat} {k : Fin 24} {s : State} (hwaits : s.stl[k].waitCid ≠ 0)
    (hdue : s.stl[k].waitAt + 200000000 ≤ (advance t s).now) : execStallConfigLaneTimeout t k s = .next (finish s.stl[k].waitCid Status.laneDown 0 []
      { advance t s with stl := upd s.stl k fun x => { x with waitCid := 0 } }) := by
  have hstall : stallOf (advance t s) k.val = s.stl[k] := stallOf_fin _ k
  unfold execStallConfigLaneTimeout onEvent
  dsimp only
  rw [hstall, decide_eq_true hdue, Bool.and_true, if_pos (bne_iff_ne.2 hwaits), dropStallWait, hstall, if_neg hwaits, modStall_fin]
  rfl

/-! ### DUTY_LIMITS (R247) -/

/-- The ranges of DUTY_LIMITS. -/
def DutyInRange (c : Slot) : Prop :=
  100 ≤ parF c 1 23 0 ∧ parF c 1 23 0 ≤ 10000 ∧ 1 ≤ parF c 1 39 32 ∧ parF c 1 39 32 ≤ 100 ∧ 1000 ≤ parF c 2 23 0 ∧ parF c 2 23 0 ≤ 1000000 ∧
    1 ≤ parF c 2 39 32 ∧ parF c 2 39 32 ≤ 100

theorem execDutyLimits_sets {t cid : Nat} {c : Slot} {k : Fin 24} {s : State} (hstarts : Starts Op.dutyLimits cid c s) (hk : parF c 0 4 0 = k.val)
    (hfree : stallNamed s k.val = false) (hrange : DutyInRange c) :
    execDutyLimits t cid s = .next (done c { startedAt t cid s with stl := upd s.stl k fun x =>
      { x with
        cfg := { x.cfg with elemWindow := parF c 1 23 0, elemPct := parF c 1 39 32, headWindow := parF c 2 23 0, headPct := parF c 2 39 32 },
        fires := [], energy := [] } }) := by
  have hfree' : stallNamed (startedAt t cid s) k.val = false := hfree
  have hin : ¬ (23 < k.val ∨ parF c 1 23 0 < 100 ∨ 10000 < parF c 1 23 0 ∨ parF c 1 39 32 < 1 ∨ 100 < parF c 1 39 32 ∨ parF c 2 23 0 < 1000 ∨
      1000000 < parF c 2 23 0 ∨ parF c 2 39 32 < 1 ∨ 100 < parF c 2 39 32) := by
    obtain ⟨h1, h2, h3, h4, h5, h6, h7, h8⟩ := hrange
    omega
  rw [execDutyLimits, onStart_starts hstarts]
  dsimp only
  rw [hk, if_neg hin, hfree', if_neg Bool.false_ne_true, modStall_fin]
  rfl

/-! ### ELEMENT_RETIRE and HEAD_STATUS (R181, R264) -/

theorem execElementRetire_retires {t cid : Nat} {c : Slot} {k : Fin 24} {s : State} (hstarts : Starts Op.elementRetire cid c s) (hk : parN c 0 = k.val)
    (hchan : parN c 1 ≤ 17407) : execElementRetire t cid s = .next (done c (retireElement k.val (parN c 1) 1 (startedAt t cid s))) := by
  rw [execElementRetire, onStart_starts hstarts]
  rw [hk, if_neg (not_or.2 ⟨Nat.not_lt.2 (Nat.le_of_lt_succ k.isLt), Nat.not_lt.2 hchan⟩)]

theorem execHeadStatus_answers {t cid : Nat} {c : Slot} {k : Fin 24} {s : State} (hstarts : Starts Op.headStatus cid c s) (hk : parN c 0 = k.val) :
    execHeadStatus t cid s = .next (answer c (headStatusWords s k.val) (startedAt t cid s)) := by
  rw [execHeadStatus, onStart_starts hstarts]
  rw [hk, if_neg (Nat.not_lt.2 (Nat.le_of_lt_succ k.isLt))]
  rfl

/-- Settles O23: each command is one equation, and what configures a Stall changes of it nothing but its settings. -/
theorem stallsAnswerCommands : Obligations.StallsAnswerCommands := by
  refine ⟨⟨fun t cid c k s hstarts hlane hk hfree => ⟨?on, fun hoff => ?off⟩, fun t k s hwaits hdue => execStallConfigLaneTimeout_due hwaits hdue⟩,
    fun t cid c k s => ⟨?duty, fun hstarts hk hchan => ⟨fun hnew => ?retire, fun hagain => ?again⟩, fun hstarts hk => execHeadStatus_answers hstarts hk⟩⟩
  case on =>
    rintro rows na rfl hon hparams hrange hgood hrows hok htemps hvpp hactive hspare hfits
    have hconfigures := execStallConfig_configures (t := t) hstarts hlane hk hfree hon hparams hrange hgood
    rw [configStall_enables (s := startedAt t cid s) hrows hok htemps hvpp hactive hspare hfits] at hconfigures
    have hsettings := enableStall_stallSettings c k (rows.take (parF c 1 21 16)) (rows.drop (parF c 1 21 16)) (startedAt t cid s)
    simp only [stallSettings, Prod.mk.injEq] at hsettings
    obtain ⟨⟨henable, hact, hspares, hcfg, hframes⟩, hprod, hmot, hwell⟩ := hsettings
    exact ⟨_, hconfigures, henable, hact, hspares, hcfg, hframes, hprod, hmot, hwell⟩
  case off =>
    obtain ⟨henable, hrows, hpermit, hhead, hprod, hwell⟩ := disableStall_stall k (startedAt t cid s)
    refine ⟨_, execStallConfig_disables hstarts hlane hk hfree hoff, ?_⟩
    rw [done, finish_stl, finish_prod, finish_well]
    exact ⟨henable, hrows, hpermit, hhead, hprod, hwell⟩
  case duty =>
    intro hstarts hk hfree h1 h2 h3 h4 h5 h6 h7 h8
    exact execDutyLimits_sets hstarts hk hfree ⟨h1, h2, h3, h4, h5, h6, h7, h8⟩
  case retire =>
    obtain ⟨hretired, hdue, hlines, hprod, hwell⟩ := retireElement_new (s := startedAt t cid s) hnew 1
    refine ⟨_, execElementRetire_retires hstarts hk hchan, starts_cid hstarts ▸ finish_ended _ _ _ _ _, ?_⟩
    rw [done, finish_mil, finish_prod, finish_well]
    exact ⟨hdue, by rw [hretired]; exact List.mem_concat_self, hlines, hprod, hwell⟩
  case again =>
    have hretires := execElementRetire_retires (t := t) hstarts hk hchan
    rw [retireElement_again (s := startedAt t cid s) hagain] at hretires
    exact hretires

end Sys2Proof.Machine
end

section
/-!
Calibration records and runs, the writes of the Ledger, and the statement about them.
-/
namespace Sys2Proof.Machine

/-! ### CAL_READ (R489) -/

theorem calItems_below {item : Nat} (h : item ∈ calItems) : item < 0x200 := by
  simp only [calItems, List.mem_append, List.mem_map, List.mem_range, List.mem_cons, List.not_mem_nil, or_false] at h
  rcases h with (((hdensity | ⟨k, hk, rfl⟩) | ⟨k, hk, rfl⟩) | ⟨k, hk, rfl⟩) | hunit <;> omega

section CalRead
variable {t cid : Nat} {c : Slot} {s : State} (hstarts : Starts Op.calRead cid c s) (hring : outRing s (parN c 1) = true)
include hstarts hring

theorem execCalRead_one (hitem : parN c 0 ∈ calItems) :
    execCalRead t cid s = .next (outputOn c (parN c 1) [storedRecord s (parN c 0)] (startedAt t cid s)) := by
  have hall : parN c 0 ≠ 2 ^ 64 - 1 := fun h => absurd (calItems_below hitem) (by omega)
  have hring' : outRing (startedAt t cid s) (parN c 1) = true := hring
  rw [execCalRead, onStart_starts hstarts]
  dsimp only
  rw [if_neg hall, if_pos hitem, if_neg (by simp), hring', if_neg (by decide)]
  rfl

theorem execCalRead_all (hitem : parN c 0 = 2 ^ 64 - 1) :
    execCalRead t cid s = .next (outputOn c (parN c 1) (calItems.map (storedRecord s)) (startedAt t cid s)) := by
  have hring' : outRing (startedAt t cid s) (parN c 1) = true := hring
  rw [execCalRead, onStart_starts hstarts]
  dsimp only
  rw [if_pos hitem, if_neg (by decide), hring', if_neg (by decide)]
  rfl

end CalRead

/-! ### A supplied record (R489, R490) -/

theorem startStaging_changes (s : State) : ∃ ws, startStaging s = { s with led.writes := ws } := by
  unfold startStaging; split <;> exact ⟨_, rfl⟩

theorem putCal_changes (x : CalItem) (cid : Nat) (results : List W64) (s : State) : ∃ ws, putCal x cid results s =
    { s with led.staging := s.led.staging ++ [{ new := x, cid := cid, results := results }], led.writes := ws } := by
  unfold putCal
  dsimp only
  split
  · exact startStaging_changes _
  · exact ⟨_, rfl⟩

theorem putCal_first (x : CalItem) (cid : Nat) (results : List W64) {s : State} (h : s.led.staging = []) : putCal x cid results s =
    { s with led.staging := [{ new := x, cid := cid, results := results }], led.writes := s.led.writes ++ [.cal x.item] } := by
  unfold putCal
  rw [h]
  rfl

theorem writeSupplied_stages (c : Slot) {item : Nat} {bs : List Byte} {x : CalItem} {s : State} (hx : suppliedItem s item bs = some x)
    (hfree : calBusy s item = false) (hnone : s.led.staging = []) : writeSupplied c item bs s =
      { s with led.staging := [{ new := x, cid := c.cid, results := [] }], led.writes := s.led.writes ++ [.cal x.item] } := by
  rw [writeSupplied, hx]
  dsimp only
  rw [hfree, if_neg Bool.false_ne_true, putCal_first x c.cid [] hnone]

section Supplied
variable {t cid : Nat} {c : Slot} {s : State} (hrange : rangeFailure s (parN c 1) (parN c 2) = none) (hgood : poisoned s (parN c 1) (parN c 2) = false)
include hrange hgood

theorem execCalWrite_reads (hstarts : Starts Op.calWrite cid c s) (hitem : parN c 0 ∈ calItems) :
    execCalWrite t cid s = .next (writeSupplied c (parN c 0) (wellRead s (parN c 1) (parN c 2)) (startedAt t cid s)) := by
  rw [execCalWrite, onStart_starts hstarts]
  exact congrArg Host.Outcome.next ((withObject_reads (s := startedAt t cid s) hrange hgood).trans (if_pos hitem))

theorem execPulseTableLoad_reads (hstarts : Starts Op.pulseTableLoad cid c s) (hstall : parN c 0 < 24) :
    execPulseTableLoad t cid s = .next (writeSupplied c (0x140 + parN c 0) (wellRead s (parN c 1) (parN c 2)) (startedAt t cid s)) := by
  rw [execPulseTableLoad, onStart_starts hstarts]
  exact congrArg Host.Outcome.next ((withObject_reads (s := startedAt t cid s) hrange hgood).trans (if_pos hstall))

end Supplied

/-! ### What an item in force leaves of the Ledger and the Well (R159, R185, R246, R391) -/

/-- The Ledger and the Well of a state. -/
def ledgerAndWell (s : State) : Ledger × Well := (s.led, s.well)

theorem uraraSend_ledgerAndWell (dest type : Nat) (ws : List W64) (s : State) : ledgerAndWell (uraraSend dest type ws s) = ledgerAndWell s := by
  rw [uraraSend_frame]; rfl

theorem modStall_ledgerAndWell (k : Nat) (f : Stall → Stall) (s : State) : ledgerAndWell (modStall k f s) = ledgerAndWell s := by
  simp only [ledgerAndWell, modStall_led, modStall_well]

theorem proposeIfDue_ledgerAndWell (s : State) : ledgerAndWell (proposeIfDue s) = ledgerAndWell s := by
  obtain ⟨_, _, _, h⟩ := proposeIfDue_changes s
  rw [h]; rfl

theorem tellLead_ledgerAndWell (items : List (Nat × List Byte)) (placement : Bool) (s : State) : ledgerAndWell (tellLead items placement s) = ledgerAndWell s := by
  obtain ⟨_, _, h⟩ := tellLead_changes items placement s
  rw [h]; rfl

theorem keepEpochs_ledgerAndWell (s : State) : ledgerAndWell (keepEpochs s) = ledgerAndWell s := by
  obtain ⟨_, _, h⟩ := keepEpochs_changes s
  rw [h]; rfl

theorem densityItem_ledgerAndWell (item : Nat) (body : List Byte) (s : State) : ledgerAndWell (densityItem item body s) = ledgerAndWell s :=
  proposeIfDue_ledgerAndWell _

theorem placementItem_ledgerAndWell (item : Nat) (body : List Byte) (s : State) : ledgerAndWell (placementItem item body s) = ledgerAndWell s :=
  proposeIfDue_ledgerAndWell _

theorem moveGrid_ledgerAndWell (k : Nat) (s : State) : ledgerAndWell (moveGrid k s) = ledgerAndWell s := by
  unfold moveGrid
  split
  · rfl
  · dsimp only
    split
    · rfl
    · exact modStall_ledgerAndWell k _ s

theorem sendConfig_ledgerAndWell (k : Nat) (s : State) : ledgerAndWell (sendConfig k s) = ledgerAndWell s := by
  simp [sendConfig, sendMessage, ledgerAndWell]

theorem refreshPermit_ledgerAndWell (k : Nat) (s : State) : ledgerAndWell (refreshPermit k s) = ledgerAndWell s := by
  obtain ⟨_, _, _, _, _, _, _, h⟩ := refreshPermit_permitsMove k s
  rw [h]; rfl

theorem judgeHead_ledgerAndWell (k : Nat) (s : State) : ledgerAndWell (judgeHead k s) = ledgerAndWell s := by
  unfold judgeHead
  split
  · rfl
  · split
    · exact refreshPermit_ledgerAndWell k s
    · exact modStall_ledgerAndWell k _ s

/-- A message to the lead, which an item of the lead's own proposal does not need. -/
theorem told_ledgerAndWell (fromPeer : Bool) (items : List (Nat × List Byte)) (placement : Bool) (s : State) :
    ledgerAndWell (if fromPeer then s else tellLead items placement s) = ledgerAndWell s := by
  split
  · rfl
  · exact tellLead_ledgerAndWell _ _ s

/-- A head item in force: its pulse section is due, the head station of a Stall that runs is told of a loaded one, and its identity is judged (R224, R244, R246). -/
def headItemTaken (k : Nat) (loaded : Bool) (s : State) : State :=
  let s := modStall k (fun st => { st with pulseDue := true }) (moveGrid k s)
  judgeHead k (if loaded && (stallOf s k).enable && laneUp s (usedLane s k) then sendConfig k s else s)

theorem headItemTaken_ledgerAndWell (k : Nat) (loaded : Bool) (s : State) : ledgerAndWell (headItemTaken k loaded s) = ledgerAndWell s := by
  have hgrid := (modStall_ledgerAndWell k (fun st => { st with pulseDue := true }) (moveGrid k s)).trans (moveGrid_ledgerAndWell k s)
  unfold headItemTaken
  dsimp only
  rw [judgeHead_ledgerAndWell]
  split
  · exact (sendConfig_ledgerAndWell k _).trans hgrid
  · exact hgrid

theorem itemEffect_ledgerAndWell (item : Nat) (body : List Byte) (loaded fromPeer : Bool) (s : State) :
    ledgerAndWell (itemEffect item body loaded fromPeer s) = ledgerAndWell s := by
  have htold := told_ledgerAndWell fromPeer [(item, body)]
  unfold itemEffect
  dsimp only
  split
  · exact (htold _ _).trans (densityItem_ledgerAndWell item body s)
  split
  · exact (judgeHead_ledgerAndWell _ _).trans ((htold _ _).trans (placementItem_ledgerAndWell item body s))
  split
  · exact (htold _ _).trans (placementItem_ledgerAndWell item body s)
  split
  · refine (headItemTaken_ledgerAndWell (item - 0x140) loaded _).trans ?_
    split
    · exact (htold _ _).trans (densityItem_ledgerAndWell item body s)
    · rfl
  · rfl

theorem reportEpoch_ledgerAndWell (s : State) : ledgerAndWell (reportEpoch s) = ledgerAndWell s := by
  unfold reportEpoch
  split
  · split
    · exact uraraSend_ledgerAndWell _ _ _ s
    · rfl
  · rfl

/-! ### CAL_STAGING_COMMIT (R487, R490) -/

/-- The record of a write as it is stored, stamped with the device second (R488). -/
def stampedItem (w : CalWrite) (s : State) : CalItem := { w.new with written := devSec s }

theorem commitCal_stores (w : CalWrite) (s : State) : ∃ ws, ledgerAndWell (commitCal w s) = ({ s.led with
    items := (s.led.items.filter fun y => y.item != w.new.item) ++ [stampedItem w s], staging := s.led.staging.drop 1, writes := ws }, s.well) := by
  have hkept := keepEpochs_ledgerAndWell s
  simp only [ledgerAndWell, Prod.mk.injEq] at hkept
  obtain ⟨hled, hwell⟩ := hkept
  have hfinish : ∀ u, ledgerAndWell (if w.cid = 0 then u else finish w.cid Status.done 0 w.results u) = ledgerAndWell u := fun u => by
    split
    · rfl
    · rw [finish_frame]; rfl
  have hreport : ∀ u, ledgerAndWell (if w.twin then reportEpoch u else u) = ledgerAndWell u := fun u => by
    split
    · exact reportEpoch_ledgerAndWell u
    · rfl
  unfold commitCal
  dsimp only
  generalize hu : (if w.twin then reportEpoch _ else _ : State) = u
  obtain ⟨ws, hws⟩ := startStaging_changes u
  have hbefore := congrArg ledgerAndWell hu
  rw [hreport, hfinish, itemEffect_ledgerAndWell] at hbefore
  simp only [ledgerAndWell, storeItem, Prod.mk.injEq, hled, hwell] at hbefore
  obtain ⟨hled', hwell'⟩ := hbefore
  rw [hws]
  simp only [ledgerAndWell]
  rw [← hled', ← hwell']
  exact ⟨ws, rfl⟩

theorem execCalStagingCommit_staged {t : Nat} {w : CalWrite} {rest : List CalWrite} {s : State} (hfront : s.led.staging = w :: rest) (hstaged : w.staged = true) :
    execCalStagingCommit t s = .next (commitCal w (advance t s)) := by
  have hfront' : (advance t s).led.staging = w :: rest := hfront
  rw [execCalStagingCommit, onEvent, hfront']
  dsimp only
  rw [if_pos hstaged]

/-! ### CAL_RUN (R464, R493, R495) -/

theorem siliconItem_kind {item : Nat} (h : item ∈ [0x180, 0x181, 0x182, 0x183, 0x184]) : ¬ item < 0x40 ∧ ¬ (item = 0x160 ∨ item = 0x161) := by
  simp only [List.mem_cons, List.not_mem_nil, or_false] at h
  omega

section CalRun
variable {t cid : Nat} {c : Slot} {s : State} (hstarts : Starts Op.calRun cid c s) (hnamed : runNamed (parN c 0) (parN c 1) = true)
include hstarts hnamed

theorem execCalRun_silicon (hitem : parN c 0 ∈ [0x180, 0x181, 0x182, 0x183, 0x184]) (hfree : calBusy s (parN c 0) = false)
    (hidle : runInUse s (parN c 0) (parN c 1) = none) : execCalRun t cid s = .next { startedAt t cid s with
      led.runs := s.led.runs ++ [{ item := parN c 0, inst := parN c 1, cid := c.cid }] } := by
  obtain ⟨hdensity, hdram⟩ := siliconItem_kind hitem
  have hfree' : calBusy (startedAt t cid s) (parN c 0) = false := hfree
  have hidle' : runInUse (startedAt t cid s) (parN c 0) (parN c 1) = none := hidle
  rw [execCalRun, onStart_starts hstarts]
  dsimp only
  rw [hnamed, Bool.not_true, if_neg Bool.false_ne_true, if_neg hdram, hfree', if_neg Bool.false_ne_true, if_neg hdensity, hidle']
  rfl

theorem execCalRun_dram (hitem : parN c 0 = 0x160) (hable : ddrRefusal s (parN c 1) = none) (hfree : calBusy s 0x160 = false) (hfree2 : calBusy s 0x161 = false) :
    execCalRun t cid s = .next { startedAt t cid s with led.runs := s.led.runs ++ [{ item := 0x160, inst := parN c 1, cid := c.cid }] } := by
  have hable' : ddrRefusal (startedAt t cid s) (parN c 1) = none := hable
  have hbusy : (calBusy (startedAt t cid s) 0x160 || calBusy (startedAt t cid s) 0x161) = false := Bool.or_eq_false_iff.2 ⟨hfree, hfree2⟩
  rw [execCalRun, onStart_starts hstarts]
  dsimp only
  rw [hnamed, Bool.not_true, if_neg Bool.false_ne_true, if_pos (.inl hitem), hable']
  dsimp only
  rw [hbusy, if_neg Bool.false_ne_true]
  rfl

theorem execCalRun_density (hitem : parN c 0 < 0x40) (hfree : calBusy s (parN c 0) = false) (hable : densityRefusal s (parN c 0) (parN c 1) = none) :
    execCalRun t cid s = .next { startedAt t cid s with
      prod.wants := s.prod.wants ++ densityWants s (parN c 0) (parN c 1)
      led.runs := s.led.runs ++ [{ item := parN c 0, inst := parN c 1, cid := c.cid }] } := by
  have hdram : ¬ (parN c 0 = 0x160 ∨ parN c 0 = 0x161) := by omega
  have hfree' : calBusy (startedAt t cid s) (parN c 0) = false := hfree
  have hable' : densityRefusal (startedAt t cid s) (parN c 0) (parN c 1) = none := hable
  rw [execCalRun, onStart_starts hstarts]
  dsimp only
  rw [hnamed, Bool.not_true, if_neg Bool.false_ne_true, if_neg hdram, hfree', if_neg Bool.false_ne_true, if_pos hitem, hable']
  rfl

end CalRun

/-! ### CAL_RUN_COMPLETE (R494, R502) -/

/-- The record that a silicon run writes (R492, R494). -/
def runRecord (r : CalRunning) (m : CalMeasure) (s : State) : CalItem :=
  { item := r.item, body := runBody ((itemBody s r.item).getD []) m.body r.item r.inst m.quality, quality := m.quality, origin := 1 }

theorem endRun_writes {r : CalRunning} {m : CalMeasure} {s : State} (hitem : r.item ∈ [0x180, 0x181, 0x182, 0x183, 0x184]) (hagree : m.agree = true)
    (hin : m.inRange = true) (hok : siliconOk r.item (runRecord r m s).body = true) : ∃ ws g, endRun r m s = { s with
      led.runs := s.led.runs.filter fun x => x != r
      led.staging := s.led.staging ++ [{ new := runRecord r m s, cid := r.cid, results := [word m.quality] }]
      led.writes := ws
      bgd := g } := by
  obtain ⟨hdensity, hdram⟩ := siliconItem_kind hitem
  unfold endRun
  dsimp only
  rw [if_neg hdensity, hagree, hin, Bool.not_true, if_neg Bool.false_ne_true, if_neg Bool.false_ne_true, if_neg fun h => hdram (.inl h)]
  obtain ⟨ws, h⟩ := putCal_changes (runRecord r m s) r.cid [word m.quality] (markCal r.item r.inst { s with led.runs := s.led.runs.filter fun x => x != r })
  exact ⟨ws, _, (if_pos hok).trans h⟩

theorem endRun_disagrees {r : CalRunning} {m : CalMeasure} (hitem : r.item ∈ [0x180, 0x181, 0x182, 0x183, 0x184]) (hcid : r.cid ≠ 0) (hagree : m.agree = false)
    (s : State) : (endRun r m s).led = { s.led with runs := s.led.runs.filter fun x => x != r } ∧ Ended r.cid Status.faultNoEffect (endRun r m s) := by
  unfold endRun failRun
  dsimp only
  rw [if_neg (siliconItem_kind hitem).1, hagree, Bool.not_false, if_pos rfl, if_neg hcid]
  exact ⟨by rw [finish_led, raise_frame], finish_ended _ _ _ _ _⟩

theorem execCalRunComplete_ends {r : CalRunning} {s : State} (hfound : s.led.runs.find? (fun x => x.item == r.item && x.cid != 0) = some r)
    (hitem : r.item ∈ [0x180, 0x181, 0x182, 0x183, 0x184]) (t : Nat) (m : CalMeasure) :
    execCalRunComplete t r.item m s = .next (endRun r m (advance t s)) := by
  have hfound' : (advance t s).led.runs.find? (fun x => x.item == r.item && x.cid != 0) = some r := hfound
  rw [execCalRunComplete, onEvent, hfound']
  dsimp only
  rw [decide_eq_false (siliconItem_kind hitem).1, Bool.false_and, if_neg Bool.false_ne_true]

/-! ### LEDGER_WRITE_COMPLETE (R308, R480, R483) -/

/-- A count below the limit of R483 changes the counts of the sectors and what was saved of them. -/
theorem countWrite_changes {phys : Nat} {s : State} (h : ((s.led.counts.find? fun c => c.1 == phys).map (·.2)).getD 0 + 1 < 1000000000000) :
    ∃ a b, countWrite phys s = { s with led.counts := a, led.savedCounts := b } := by
  unfold countWrite
  dsimp only
  rw [if_neg (Nat.not_le.2 h)]
  split <;> exact ⟨_, _, rfl⟩

theorem retireJournal_sparesLeft {s : State} (h : s.led.sparesOut = false) : retireJournal s = s := by
  rw [retireJournal, h]; rfl

theorem writeDurable_part (n kind : Nat) {s : State} (h : s.twn.ackDue = []) :
    writeDurable (.part n kind) s = modRec n (fun r => { r with local_ := r.local_ ||| 2 ^ kind }) s := by
  have hnone : (modRec n (fun r => { r with local_ := r.local_ ||| 2 ^ kind }) s).twn.ackDue = [] := h
  rw [writeDurable]
  dsimp only
  rw [hnone]
  rfl

section WriteComplete
variable {t n kind : Nat} {rest : List LWrite} {s : State} (hfront : s.led.writes = .part n kind :: rest) (hgood : s.led.failing = [])
  (hcount : ((s.led.counts.find? fun c => c.1 == physSector s (n % 98304 / 32)).map (·.2)).getD 0 + 1 < 1000000000000)
include hfront hgood hcount

/-- The front write of a sound sector is counted and judged by its read-back; nothing is claimed of the fourth failure. -/
theorem execLedgerWriteComplete_counts (ok : Bool) : ∃ a b v, let u := { advance t s with led.counts := a, led.savedCounts := b }
    execLedgerWriteComplete t ok s = .next (retireJournal (if ok then writeDurable (.part n kind) (popWrite u)
      else if s.led.tries < 3 then { u with led.tries := s.led.tries + 1 } else v)) := by
  obtain ⟨a, b, hcounted⟩ : ∃ a b, countWrite (physSector (advance t s) (n % 98304 / 32)) (advance t s) =
      { advance t s with led.counts := a, led.savedCounts := b } := countWrite_changes hcount
  have hfront' : (advance t s).led.writes = .part n kind :: rest := hfront
  have hsound : ((advance t s).led.failing.contains (physSector (advance t s) (n % 98304 / 32))) = false := by rw [advance_led, hgood]; rfl
  rw [execLedgerWriteComplete, onEvent, hfront']
  dsimp only [writeSector]
  rw [hsound, if_neg Bool.false_ne_true, hcounted]
  exact ⟨a, b, _, rfl⟩

theorem execLedgerWriteComplete_durable (hspares : s.led.sparesOut = false) (hpeer : s.twn.ackDue = []) : ∃ a b, execLedgerWriteComplete t true s =
    .next (modRec n (fun r => { r with local_ := r.local_ ||| 2 ^ kind })
      { advance t s with led.counts := a, led.savedCounts := b, led.writes := rest, led.tries := 0 }) := by
  obtain ⟨a, b, v, hcounts⟩ := execLedgerWriteComplete_counts (t := t) hfront hgood hcount true
  refine ⟨a, b, hcounts.trans (congrArg Host.Outcome.next ?_)⟩
  rw [if_pos rfl, writeDurable_part n kind (by exact hpeer), retireJournal_sparesLeft (by exact hspares), popWrite]
  dsimp only
  rw [advance_led, hfront]
  rfl

theorem execLedgerWriteComplete_retries (hspares : s.led.sparesOut = false) (htries : s.led.tries < 3) : ∃ a b, execLedgerWriteComplete t false s =
    .next { advance t s with led.counts := a, led.savedCounts := b, led.tries := s.led.tries + 1 } := by
  obtain ⟨a, b, v, hcounts⟩ := execLedgerWriteComplete_counts (t := t) hfront hgood hcount false
  refine ⟨a, b, hcounts.trans (congrArg Host.Outcome.next ?_)⟩
  rw [if_neg Bool.false_ne_true, if_pos htries, retireJournal_sparesLeft (by exact hspares)]

end WriteComplete

/-- Settles O11: a commit changes the Ledger by the stored record and the front of the staging area alone, and each run and each write of the Ledger is one equation. -/
theorem calibrationIsKept : Obligations.CalibrationIsKept := by
  refine ⟨fun t cid c s => ⟨fun hstarts hring => ⟨execCalRead_one hstarts hring, execCalRead_all hstarts hring⟩,
      fun hstarts hrange hgood hitem => ⟨fun x hx hfree hnone => ?write, fun hbad => ?bad⟩, fun hstarts hrange hgood hstall x hx hfree hnone => ?load⟩,
    ⟨fun t w rest s hfront hstaged => ?commit,
      fun t cid c s hstarts hnamed => ⟨execCalRun_silicon hstarts hnamed, execCalRun_dram hstarts hnamed, execCalRun_density hstarts hnamed⟩,
      fun t r m s hfound hitem => ⟨fun hagree hin hok => ?ends, fun hagree => ?disagree⟩⟩,
    fun t n kind sector rest s => ⟨fun hfront hgood hspares hcount => ⟨fun hpeer => ?durable, fun htries => ?retry⟩, rfl⟩⟩
  case write =>
    exact (execCalWrite_reads hrange hgood hstarts hitem).trans (congrArg _ (writeSupplied_stages (s := startedAt t cid s) c hx hfree hnone))
  case bad =>
    refine (execCalWrite_reads hrange hgood hstarts hitem).trans (congrArg _ ?_)
    rw [writeSupplied, hbad]
  case load =>
    exact (execPulseTableLoad_reads hrange hgood hstarts hstall).trans (congrArg _ (writeSupplied_stages (s := startedAt t cid s) c hx hfree hnone))
  case commit =>
    obtain ⟨ws, hstores⟩ := commitCal_stores w (advance t s)
    simp only [ledgerAndWell, Prod.mk.injEq] at hstores
    obtain ⟨hled, hwell⟩ := hstores
    refine ⟨_, execCalStagingCommit_staged hfront hstaged, ?_, ?_, fun y hy hitem => ?_, hwell⟩
    · rw [hled, advance_led, hfront]
      rfl
    · rw [hled]
      exact List.mem_concat_self
    · rw [hled] at hy
      rcases List.mem_append.1 hy with hold | hnew
      · simp [hitem] at hold
      · rw [List.mem_singleton.1 hnew]
        rfl
  case ends =>
    obtain ⟨ws, g, hwrites⟩ := endRun_writes (s := advance t s) hitem hagree hin hok
    refine ⟨_, execCalRunComplete_ends hfound hitem t m, ?_⟩
    rw [hwrites]
    exact ⟨rfl, rfl, rfl⟩
  case disagree =>
    have hcid : r.cid ≠ 0 := by simpa using List.find?_some hfound
    obtain ⟨hled, hended⟩ := endRun_disagrees hitem hcid hagree (advance t s)
    refine ⟨_, execCalRunComplete_ends hfound hitem t m, ?_⟩
    rw [hled]
    exact ⟨rfl, rfl, rfl, hended⟩
  case durable =>
    obtain ⟨_, _, hdurable⟩ := execLedgerWriteComplete_durable (t := t) hfront hgood hcount hspares hpeer
    exact ⟨_, hdurable, rfl, rfl, rfl, rfl⟩
  case retry =>
    obtain ⟨_, _, hretries⟩ := execLedgerWriteComplete_retries (t := t) hfront hgood hcount hspares htries
    exact ⟨_, hretries, rfl, rfl, rfl⟩

end Sys2Proof.Machine
end
